-- ==== Sys2Proof/Word.lean ====
section
/-!
DEFINITION. The word types of the Leravo M4: bytes, the 32-bit and 64-bit register words, and the set of
lanes of a flock (R27, R30, R154).
-/
namespace Sys2Proof

/-- One byte of memory (R4: the device is little-endian throughout). -/
abbrev Byte := BitVec 8

/-- The contents of one lane register of one lane (R154). -/
abbrev Word32 := BitVec 32

/-- The contents of one scalar register or k-register (R154). -/
abbrev Word64 := BitVec 64

/-- A set of lanes of one flock. Lane `l` is bit `l`, so mask word `w` is bits `[32w+31:32w]` (R27, R30). -/
abbrev LaneMask := BitVec 1024

/-- Does lane `l` belong to the set? -/
def LaneMask.has (m : LaneMask) (l : Nat) : Bool := m.getLsbD l

/-- The set of the one lane `l`. -/
def LaneMask.single (l : Nat) : LaneMask := BitVec.ofNat 1024 (2 ^ l)

/-- The set of lanes `0` to `n - 1`. -/
def LaneMask.below (n : Nat) : LaneMask := BitVec.ofNat 1024 (2 ^ n - 1)

/-- The lanes of a set in ascending order, among lanes `0` to `n - 1` (R9: loops over Active ascend). -/
def LaneMask.lanes (m : LaneMask) (n : Nat) : List Nat := (List.range n).filter m.has

/-- The set that holds the listed lanes. -/
def LaneMask.ofList (ls : List Nat) : LaneMask := ls.foldl (fun m l => m ||| LaneMask.single l) 0

/-- Mask word `w` of a set (R30). -/
def LaneMask.word (m : LaneMask) (w : Nat) : Word32 := m.extractLsb' (32 * w) 32

/-- The summary word of a mask: bit `w` is set exactly when word `w` is not zero (R30). -/
def LaneMask.summary (m : LaneMask) : Word32 :=
  (List.range 32).foldl (fun x w => if m.word w = 0 then x else x ||| BitVec.ofNat 32 (2 ^ w)) 0

/-- The passes of a lane instruction over a mask: its non-zero words in ascending order (R31). -/
def LaneMask.passes (m : LaneMask) : List Nat := (List.range 32).filter fun w => m.summary.getLsbD w

end Sys2Proof
end

