-- ==== Sys2Proof/Syntax.lean ====
section
/-!
DEFINITION. The instructions of the module as plain data: the field types, the lane word of R167, the records that
the steps of the other agents carry, and `Instr`, with one constructor per row of spec/opcode_table.json.
-/
namespace Sys2Proof

/-- Access sizes (R164). -/
inductive Size where
  | b | h | w | d
deriving DecidableEq, Repr

/-- Ordering scopes (R107, R164). -/
inductive Scope where
  | fl | hd | cl | di | mo | sy
deriving DecidableEq, Repr

/-- The ordering an atomic carries (R112, R164). -/
inductive Order where
  | plain
  | acq (s : Scope)
  | rel (s : Scope)
  | ar (s : Scope)
deriving DecidableEq, Repr

/-- The conditions of `s.cmp` and `s.cmpi` (R166). -/
inductive Cond where
  | eq | ne | lt | le | gt | ge | ltu | leu | gtu | geu
deriving DecidableEq, Repr

/-- The atomic operations (R166). -/
inductive AtomOp where
  | add | and | or | xor | min | minu | max | maxu | swap | cas
deriving DecidableEq, Repr

/-- The in-flight counters of a flock, one per access path (R93). -/
inductive Counter where
  | g | s | t | x | m | f
deriving DecidableEq, Repr

/-- The fields of a lane instruction word other than MAJOR, named as R167 names them. -/
structure LaneWord where
  sub : BitVec 4
  pred : BitVec 4
  neg : Bool
  dest : BitVec 8
  sa : BitVec 8
  sb : BitVec 8
  sc : BitVec 8
  moda : BitVec 3
  modb : BitVec 3
  modc : BitVec 3
  fep : BitVec 3
  last : Bool
  rnd : BitVec 2
  imm : BitVec 32
deriving DecidableEq, Repr

/-- A completion action to perform (R352). -/
structure Completion where
  session : Nat
  cact : Nat
  ctr : Nat
  cdie : Nat
  tag : Word64
  typ : Nat
  status : Nat
  die : Nat
  /-- The queue it came from; none for a region that a counter readied (R357). -/
  queue : Option Nat
deriving DecidableEq, Repr

/-- A completion record on its way to a session's completion queue (R352, R353). `slot` is the claimed slot,
if one is claimed; `queue` is the queue that the record came from, which starts nothing while it waits (R475). -/
structure CompletionRec where
  session : Nat
  tag : Word64
  typ : Nat
  status : Nat
  die : Nat
  qnum : Nat
  interrupt : Bool
  queue : Option Nat
  slot : Option Nat
deriving DecidableEq, Repr

/-- A fault-ring record (R427). -/
structure FaultRecord where
  session : Nat
  tcause : Word64
  tpc : Word64
  taddr : Word64
  tinfo : Word64
  core : Nat
  slot : Nat
  inherd : Nat
  domain : BitVec 16
  tag : Word64
  herdid : BitVec 32
deriving DecidableEq, Repr

/-- A packet that a queue processor has consumed: its session, queue and slot, and its eight 64-bit words (R349, R350). -/
structure Packet where
  session : Nat
  q : Nat
  slot : Nat
  words : List Word64
deriving DecidableEq, Repr

/-- A sealed page on its way to its home die and the directory (R380, R391): the number of its packet, the entry's physical address, and the
frame and key slot read there. -/
structure SealJob where
  id : Nat
  session : Nat
  entryPa : Nat
  frame : Nat
  keyslot : Nat
deriving DecidableEq, Repr

/-- A release of one reference to a commons frame, on its way to the frame's home die (R383, R391): the number of its packet, and the frame. -/
structure FrameRelease where
  id : Nat
  frame : Nat
deriving DecidableEq, Repr

namespace Machine

/-- Where a translated access goes: virtual and physical address, key slot, cache class, whether the frame is a commons
frame, the affinity slice, the session (R79, R82), and whether it is an entry of a page table that a walk reads (R81). -/
structure Loc where
  va : Nat
  pa : Nat
  key : Nat
  cclass : Nat
  commons : Bool
  aff : Option Nat
  session : Nat
  table : Bool
deriving DecidableEq, Repr

end Machine

open Machine (Loc)

/-- One access performed at a home slice. `ret` names the flock, the in-flight operation and the result index
that receive an atomic's old value. -/
inductive MemAct where
  | write (loc : Loc) (bytes : List Byte)
  | atom (op : AtomOp) (bytes : Nat) (loc : Loc) (b cmp : Word64) (ret : Option (Nat × Nat × Nat))
  /-- The sectors of bytes just written carry poison (R464). -/
  | poison (pa bytes : Nat)
deriving DecidableEq, Repr

namespace Machine

/-- The message classes of a virtual network (R391). -/
inductive MsgClass where
  | request | reply | ordered | control
deriving DecidableEq, Repr

/-- A packet as the links carry it (R390, R391): its number, network and class, the session that it serves, whether that is of the
interactive class, the CYCLE at which it came to the port where it waits, the dies that it has still to reach, and whether nothing waits for
it where it is going. -/
structure Parcel where
  id : Nat
  net : Nat
  cls : MsgClass
  session : Nat
  interactive : Bool
  since : Word64
  path : List Nat
  done : Bool
deriving DecidableEq, Repr

end Machine

open Machine (Parcel)

/-- An ordered packet of the fabric with its stamp (R393). `note` names the flock and the in-flight operation that count
its delivery; `id` is its number in the module and `session` the session that it serves. -/
structure FabPacket where
  src : Nat
  dst : Nat
  net : Nat
  id : Nat
  session : Nat
  gen : Nat
  seq : BitVec 16
  dep : List (BitVec 16)
  upd : List (Nat × BitVec 16)
  acts : List MemAct
  note : Option (Nat × Nat)
deriving DecidableEq, Repr

/-- A read request of the fabric: die `src` reads, at die `dst`, the bytes that in-flight operation `op` of
flock `flock` still lacks (R393, R396). -/
structure ReadReq where
  src : Nat
  dst : Nat
  net : Nat
  gen : Nat
  seq : BitVec 16
  dep : List (BitVec 16)
  acq : Bool
  flock : Nat
  op : Nat
  id : Nat
deriving DecidableEq, Repr

/-- The reply to a read request with ACQ set, which carries the home die's knowledge matrix (R396). -/
structure ReadReply where
  home : Nat
  reader : Nat
  net : Nat
  k : List (BitVec 16)
  flock : Nat
  op : Nat
  id : Nat
deriving DecidableEq, Repr

/-- A delivery report (R397). -/
structure DeliveryReport where
  src : Nat
  dst : Nat
  net : Nat
  d : List (BitVec 16)
  id : Nat
deriving DecidableEq, Repr

/-- A group of sixteen flits as a link receiver takes it: the packet that it carries, its data flits, and the control flit with its
sequence number, acknowledgement and CRC-32 (R466). -/
structure LinkGroup where
  parcel : Parcel
  seq : BitVec 12
  ack : BitVec 12
  nak : Bool
  payload : List (BitVec 256)
  crc : BitVec 32
deriving DecidableEq, Repr

/-- What a removal takes out of the module (R471). -/
inductive Removal where
  | die (d : Nat)
  | link (a b : Nat)
deriving DecidableEq, Repr

/-- A page move of the placement engine (R388). -/
structure FrameMove where
  session : Nat
  va : Nat
  home : Nat
  dest : Nat
deriving DecidableEq, Repr

/-- A paddock descriptor (R358). -/
structure PaddockDesc where
  clusters : BitVec 96
  cls : Bool
  lock : Bool
  lnum : BitVec 5
  lden : BitVec 5
  reserved : BitVec 4
  quantum : BitVec 16
  bgblog : BitVec 4
  ltlog : BitVec 4
  ltframe : BitVec 40
  reservedHigh : BitVec 80
deriving DecidableEq, Repr

/-- A set-group map register (R99). -/
structure MapReg where
  sgbase : BitVec 5
  sglog : BitVec 3
  cways : BitVec 16
  reserved : BitVec 40
deriving DecidableEq, Repr

/-- A request to change paddock descriptors, their maps and the commons map (R403). -/
structure LayoutChange where
  paddocks : List (Nat × PaddockDesc)
  maps : List (Nat × MapReg)
  mapc : Option MapReg
deriving DecidableEq, Repr

/-- State of the retention SRAM that an uncorrectable error can lose (R486). -/
inductive RetentionItem where
  | measurements | vaultKey | dedupSecret | journal
deriving DecidableEq, Repr

/-- Sources of ECC errors, in the order of the SRC codes (R463). -/
inductive EccSource where
  | laneRegister | scalarRegister | scratchpad | matrix | l2 | remoteCache | lpddr | fabric | directory | retention | parity
deriving DecidableEq, Repr

/-- An entry of a structure that parity protects (R463). -/
inductive ParityPlace where
  | l1 (core pa : Nat)
  | crossbar (sector pa : Nat)
  | constant
  | tlb1 (core va : Nat)
  | tlb2 (cluster va : Nat)
  | predictor (core entry : Nat)
  | decoder (core pa : Nat)
  | directory
deriving DecidableEq, Repr

/-- Where an uncorrectable error strikes (R463). -/
inductive EccPlace where
  | laneRegister (flock lane reg : Nat)
  | scalarRegister (flock reg : Nat)
  | scratchpad (herd word : Nat)
  | tile (herd tile word : Nat)
  | plane (herd ctx row : Nat) (shadow : Bool)
  | operandBuffer (herd word : Nat)
  | l2 (pa : Nat)
  | remoteCache (pa : Nat)
  | lpddr (pa : Nat) (again : Bool)
  | fabric (id : Nat)
  | directory (bucket : Nat)
  | retention (lost : RetentionItem)
  | parity (p : ParityPlace)
  /-- The control state of a core (R481). -/
  | control (core : Nat)
  /-- The storage of a dependence counter, for which R463 has no row (R464; log entry 108). -/
  | counter (index : Nat)
deriving DecidableEq, Repr

/-- Registers written without a behaviour of their own beyond R5's access rules. -/
inductive RegName where
  | sessbase | cpool | dirstat0 | dirstat1 | dirstat2 | ptest (n : Nat) | eccstat | fabstat | tlbinv0 | snapat
  | padrep (n : Nat) | counter (index : Nat) | counterSession (index : Nat) | counterNode (index : Nat)
deriving DecidableEq, Repr

/-- A load or store of a host core, through the tables of a session or at a physical address (R20, R128). -/
inductive HostAccess where
  | load (session : Option Nat) (addr bytes : Nat)
  | store (session : Option Nat) (addr : Nat) (bytes : List Byte)
deriving DecidableEq, Repr

/-- A step of another agent that is due: what the agenda of the machine holds. Each constructor stands for the
constructor of `Instr` of the same name. -/
inductive Event where
  | longLatencyReturn (flock op : Nat)
  | samplerResultReturn (flock op : Nat)
  | treeResultReturn (flock op : Nat)
  | accTransferComplete (flock op : Nat)
  | ffStoreDelivered (flock op : Nat)
  | tosWrite (flock op : Nat)
  | laneBlockStart (flock : Nat)
  | roundEndExchange (core dp : Nat)
  | flockExchange (core dp flock : Nat)
  | predicateResolution (flock path : Nat)
  | reconvTimeout (flock entry : Nat)
  | regroupCollectionClose (core coll : Nat)
  | regroupCollectionTimeout (core coll : Nat)
  | callFlockEnd (flock : Nat)
  | barWaitComplete (flock : Nat)
  | herdAdmit (region : Nat)
  | regionComplete (region : Nat)
  | completionAction (c : Completion)
  | completionRecordWrite (r : CompletionRec)
  | preemptRequest (herd : Nat)
  | herdSave (herd : Nat)
  | herdRestore (herd : Nat)
  | haltBoundFailure (core : Nat)
  | matrixEngineOperation (core : Nat)
  | copyTransferStart (core cmd : Nat)
  | copyWordLand (core cmd : Nat)
  | copyFaultSuspend (core cmd : Nat)
  | faultRecordWrite (r : FaultRecord)
  | sealDigest (j : SealJob)
  | commonsRelease (frame : FrameRelease)
  | poolReturnRetry (die header frame : Nat) (since : Word64)
  | poolReturnStall (die header frame : Nat) (since : Word64)
  | doorbellWrite (offset : Nat) (value : Word64)
  | queueStep (session q : Nat)
  | packetDispatch (p : Packet)
  | packetCopy (p : Packet)
  | packetSignal (p : Packet)
  | packetWait (p : Packet)
  | waitReread (p : Packet)
  | packetFork (p : Packet)
  | packetSeal (p : Packet)
  | packetPublish (p : Packet)
  | packetMigrate (p : Packet)
  | migrateMove (p : Packet)
  | packetNop (p : Packet)
  | depCounterDecrement (die ctr amount sender : Nat)
  | quantumBoundary (paddock : Nat)
  | budgetCharge (herd : Nat)
  | arbiterPromotion (die request : Nat)
  | quiesce (paddock : Nat) (value : Bool)
  | paddockQuiesced (paddock : Nat)
  | qstuck (paddock : Nat)
  | tlbinv1 (die : Nat) (value : Word64)
  | fltctlRetry (die : Nat) (value : Word64)
  | fltctlSkip (die : Nat) (value : Word64)
  | fltctlEnterHandler (die : Nat) (value : Word64)
  | fltctlEnd (die : Nat) (value : Word64)
  | fltctlAbortDomain (die : Nat) (value : Word64)
  | engctlResume (die : Nat) (value : Word64)
  | engctlAbandon (die : Nat) (value : Word64)
  | crel (die : Nat) (value : Word64)
  | keyLoad (die slot : Nat) (blob : List Byte)
  | placementEpoch (die : Nat)
  | frameMove (m : FrameMove)
  | orderedPacketSend (p : FabPacket)
  | orderedPacketArrival (p : FabPacket)
  | readRequestServe (r : ReadReq)
  | acquireCatchup (r : ReadReply)
  | deliveryReportSend (die net : Nat)
  | deliveryReportReceive (r : DeliveryReport)
  | linkGroupReceive (die link : Nat) (g : LinkGroup)
  | linkNakReceive (die link : Nat) (seq : BitVec 12)
  | linkResendTimeout (die link : Nat) (seq : BitVec 12)
  | linkRetrain (die link : Nat)
  | linkDown (die link : Nat)
  | fabricStall (die : Nat)
  | heartbeat (die : Nat) (missed : Bool)
  | dieRemoval (what : Removal)
  | resynchronisation
  | boot (die : Nat)
  | dedupSecretReceive (die : Nat) (blob : List Byte)
  | dieBringup (die : Nat)
  | clusterPowerUp (die cluster : Nat)
  | matrixEngineEnable (die cluster : Nat)
  | bootPeerTimeout (die : Nat)
  | imgBegin (die len : Nat)
  | imgData (die offset : Nat) (bytes : List Byte)
  | imgEnd (die : Nat)
  | getVersion (die : Nat)
  | getCapabilities (die : Nat)
  | negotiateAlgorithms (die : Nat) (ed448 sha3 : Bool)
  | getDigests (die : Nat)
  | getCertificate (die slot offset len : Nat)
  | challenge (die slot : Nat) (nonce : BitVec 256)
  | getMeasurements (die index : Nat) (nonce : BitVec 256)
  | spdmUnsupportedRequest (die code : Nat)
  | partitionCommitRequest (c : LayoutChange)
  | prepareReport (die : Nat)
  | commitApply (die : Nat)
  | commitDone
  | watchdogExpiry (die : Nat)
  | retentionSramUe (die : Nat) (lost : RetentionItem)
  | snapctlArm (die : Nat) (value : Word64)
  | snapctlFire (die : Nat)
  | snapshotAtCycle (die : Nat)
  | snapshotWideTrigger (die : Nat)
  | pwrcap (die : Nat) (value : Word64)
  | powerSample (die : Nat)
  | powerCapUnmet (paddock : Nat)
  | eccCorrectable (die : Nat) (src : EccSource)
  | eccUncorrectable (die : Nat) (at_ : EccPlace)
  | memoryScrub (die sector : Nat) (bad : Bool)
  | cqDescriptorRetest (session : Nat)
  | graphicsFaultReport (core region : Nat) (tree : Bool)
  | registerWrite (die : Nat) (r : RegName) (value : Word64)
  | hostMemoryAccess (h : HostAccess)
  | completionQueueReread (r : CompletionRec)
  | linkRetrainComplete (die link : Nat) (ok : Bool)
  | modulePowerLoss
  | rlimitWindow (core : Nat)
deriving DecidableEq, Repr

/-- One constructor per row of spec/opcode_table.json: the scalar and lane words, and the steps of the other agents. -/
inductive Instr where
  -- Scalar words (R165)
  /-- Writes sa + sb mod 2^64 to sd. (R190) -/
  | sAdd (d a b : BitVec 6)
  /-- Writes sa - sb mod 2^64 to sd. (R190) -/
  | sSub (d a b : BitVec 6)
  /-- Writes the low 64 bits of sa x sb to sd. (R190) -/
  | sMul (d a b : BitVec 6)
  /-- Writes bits [127:64] of the signed product to sd. (R190) -/
  | sMulh (d a b : BitVec 6)
  /-- Writes bits [127:64] of the unsigned product to sd. (R190) -/
  | sMulhu (d a b : BitVec 6)
  /-- Signed division truncating toward zero, with defined results for zero and overflow. (R191) -/
  | sDiv (d a b : BitVec 6)
  /-- Unsigned division, all ones on a zero divisor. (R191) -/
  | sDivu (d a b : BitVec 6)
  /-- Signed remainder with the sign of sa. (R191) -/
  | sRem (d a b : BitVec 6)
  /-- Unsigned remainder, sa on a zero divisor. (R191) -/
  | sRemu (d a b : BitVec 6)
  /-- Bitwise AND of sa and sb. (R190) -/
  | sAnd (d a b : BitVec 6)
  /-- Bitwise OR of sa and sb. (R190) -/
  | sOr (d a b : BitVec 6)
  /-- Bitwise XOR of sa and sb. (R190) -/
  | sXor (d a b : BitVec 6)
  /-- Shifts sa left by the unsigned count in sb. (R192) -/
  | sShl (d a b : BitVec 6)
  /-- Logical right shift of sa by sb. (R192) -/
  | sShr (d a b : BitVec 6)
  /-- Arithmetic right shift of sa by sb. (R192) -/
  | sSra (d a b : BitVec 6)
  /-- Signed minimum of sa and sb. (R190) -/
  | sMin (d a b : BitVec 6)
  /-- Unsigned minimum of sa and sb. (R190) -/
  | sMinu (d a b : BitVec 6)
  /-- Signed maximum of sa and sb. (R190) -/
  | sMax (d a b : BitVec 6)
  /-- Unsigned maximum of sa and sb. (R190) -/
  | sMaxu (d a b : BitVec 6)
  /-- Counts leading zero bits of sa. (R190) -/
  | sClz (d a : BitVec 6)
  /-- Counts trailing zero bits of sa. (R190) -/
  | sCtz (d a : BitVec 6)
  /-- Counts set bits of sa. (R190) -/
  | sPopc (d a : BitVec 6)
  /-- Interleaves the low 32 bits of sa and sb into a Morton code. (R190) -/
  | sBitint (d a b : BitVec 6)
  /-- De-interleaves sa into two 32-bit halves. (R190) -/
  | sBitdeint (d a : BitVec 6)
  /-- Writes sa or sb to sd according to a z predicate. (R193) -/
  | sSel (d a b : BitVec 6) (z : BitVec 3) (neg : Bool)
  /-- Writes the comparison of sa and sb under a condition to a z predicate. (R194) -/
  | sCmp (zd : BitVec 3) (cc : Cond) (a b : BitVec 6)
  /-- Adds the sign-extended immediate to sa. (R195) -/
  | sAddi (d a : BitVec 6) (imm : BitVec 14)
  /-- ANDs sa with the sign-extended immediate. (R195) -/
  | sAndi (d a : BitVec 6) (imm : BitVec 14)
  /-- ORs sa with the sign-extended immediate. (R195) -/
  | sOri (d a : BitVec 6) (imm : BitVec 14)
  /-- XORs sa with the sign-extended immediate. (R195) -/
  | sXori (d a : BitVec 6) (imm : BitVec 14)
  /-- Shifts sa left by the immediate count. (R195) -/
  | sShli (d a : BitVec 6) (imm : BitVec 14)
  /-- Logical right shift of sa by the immediate count. (R195) -/
  | sShri (d a : BitVec 6) (imm : BitVec 14)
  /-- Arithmetic right shift of sa by the immediate count. (R195) -/
  | sSrai (d a : BitVec 6) (imm : BitVec 14)
  /-- Writes the sign-extended immediate times 2^14 to sd. (R195) -/
  | sLui (d : BitVec 6) (imm : BitVec 14)
  /-- Compares sa with the immediate under a condition into a z predicate. (R194) -/
  | sCmpi (zd : BitVec 3) (cc : Cond) (a : BitVec 6) (imm : BitVec 14)
  /-- Loads one byte from global memory into sd, zero-extended. (R196) -/
  | sLdB (d a : BitVec 6) (off : BitVec 14)
  /-- Loads two bytes from global memory into sd. (R196) -/
  | sLdH (d a : BitVec 6) (off : BitVec 14)
  /-- Loads four bytes from global memory into sd. (R196) -/
  | sLdW (d a : BitVec 6) (off : BitVec 14)
  /-- Loads eight bytes from global memory into sd. (R196) -/
  | sLdD (d a : BitVec 6) (off : BitVec 14)
  /-- Stores the low byte of sd to global memory. (R196) -/
  | sStB (d a : BitVec 6) (off : BitVec 14)
  /-- Stores the low two bytes of sd to global memory. (R196) -/
  | sStH (d a : BitVec 6) (off : BitVec 14)
  /-- Stores the low four bytes of sd to global memory. (R196) -/
  | sStW (d a : BitVec 6) (off : BitVec 14)
  /-- Stores sd to global memory. (R196) -/
  | sStD (d a : BitVec 6) (off : BitVec 14)
  /-- Loads from global memory as an acquire at the named scope. (R197) -/
  | sLdAcq (d a : BitVec 6) (scope : Scope) (size : Size) (off : BitVec 9)
  /-- Stores to global memory as a release at the named scope. (R197) -/
  | sStRel (d a : BitVec 6) (scope : Scope) (size : Size) (off : BitVec 9)
  /-- Reads the kernel-argument block through the constant cache. (R198) -/
  | sLdk (d a : BitVec 6) (size : Size) (off : BitVec 9)
  /-- Performs a 32-bit atomic at the home slice and returns the old value. (R199) -/
  | sAtomW (op : AtomOp) (ord : Order) (d a b : BitVec 6)
  /-- Performs a 64-bit atomic at the home slice and returns the old value. (R199) -/
  | sAtomD (op : AtomOp) (ord : Order) (d a b : BitVec 6)
  /-- Acts as an acquire with no read at the named scope. (R200) -/
  | sFenceAcq (scope : Scope)
  /-- Acts as a release with no write at the named scope. (R200) -/
  | sFenceRel (scope : Scope)
  /-- Acts as both acquire and release, in the total fence order. (R200) -/
  | sFenceAr (scope : Scope)
  /-- Branches by a word offset when the z predicate holds. (R201) -/
  | sB (z : BitVec 3) (neg : Bool) (off : BitVec 22)
  /-- Saves pc + 1 in s63 and branches when the predicate holds. (R201) -/
  | sCall (z : BitVec 3) (neg : Bool) (off : BitVec 22)
  /-- Branches when sa is zero. (R201) -/
  | sBz (a : BitVec 6) (imm : BitVec 14)
  /-- Decrements sd and branches while the result is not zero. (R201) -/
  | sLoop (d : BitVec 6) (imm : BitVec 14)
  /-- Jumps to the word index held in s63. (R201) -/
  | sRet
  /-- Jumps to the word index held in sa. (R201) -/
  | sJr (a : BitVec 6)
  /-- Enqueues a lane block into the flock's lane queue, stalling while it is full. (R202) -/
  | sLgo (index : BitVec 26)
  /-- Waits until the lane queue is empty and its v.tos results are full. (R203) -/
  | sLwait
  /-- Writes a whole barrier object with its expected arrivals and bytes. (R206) -/
  | sBarInit (a b : BitVec 6)
  /-- Releases, then arrives at a barrier or is refused while it drains. (R206) -/
  | sBarArrive (zd : BitVec 3) (a : BitVec 6)
  /-- Adds bytes to the barrier's EXPBYTES and tests completion. (R206) -/
  | sBarExpect (a b : BitVec 6)
  /-- Completes at once for a past phase or registers to wait on the present one. (R207) -/
  | sBarWait (a b : BitVec 6)
  /-- Waits until the named in-flight counter is at or below sa. (R209) -/
  | sCntWait (path : Counter) (a : BitVec 6)
  /-- Checks and accepts a copy from global memory into scratchpad. (R303) -/
  | sCp (d a b : BitVec 6)
  /-- Accepts a copy multicast into the allotments of the selected gang members. (R310) -/
  | sCpMc (d a b : BitVec 6)
  /-- Accepts a transform from scratchpad into scratchpad or a shadow window. (R303) -/
  | sXf (d a b : BitVec 6)
  /-- Accepts a copy from global memory into a shadow window. (R311) -/
  | sCpG (d a b : BitVec 6)
  /-- Waits for shadow writes, then swaps a window's tables and fences at system scope. (R312) -/
  | sPublish (a : BitVec 6)
  /-- Claims a queue slot, writes a packet image and rings the doorbell. (R313) -/
  | sQpush (d a b : BitVec 6)
  /-- Sends a releasing decrement to a dependence counter. (R314) -/
  | sDepDec (a b : BitVec 6)
  /-- Seals a 4 KiB page and sends it to its home die for digesting. (R315) -/
  | sPseal (a : BitVec 6)
  /-- Creates an operand-buffer reservation and returns its handle. (R279) -/
  | sOpbRsv (d a : BitVec 6)
  /-- Frees a reservation handle after its operations finish. (R281) -/
  | sOpbRel (a : BitVec 6)
  /-- Asks for a lease of n matrix-engine operations. (R298) -/
  | sMxLease (d a : BitVec 6)
  /-- Ends the herd's matrix-engine lease. (R298) -/
  | sMxYield
  /-- Reads a k-register into sd. (R210) -/
  | sKget (d : BitVec 6) (k : BitVec 12)
  /-- Writes sa to a k-register, waiting where R145 requires. (R210) -/
  | sKput (k : BitVec 12) (a : BitVec 6)
  /-- Raises a software trap with the immediate code. (R211) -/
  | sTrap (code : BitVec 14)
  /-- Does nothing. (R211) -/
  | sNop
  /-- Leaves handler mode and retries, skips or ends per TRET.ACT. (R425) -/
  | sTret
  /-- Exchanges the flock with a ready pending flock if there is one. (R211) -/
  | sYield
  /-- Waits for the lane queue and counters, then ends the flock. (R212) -/
  | sExit
  -- Lane words (R176)
  /-- Plain lane no-operation. (R175) -/
  | vNop (w : LaneWord)
  /-- Flashback marker that records a flashback point when it retires on a single path. (R67) -/
  | vNopMarker (w : LaneWord)
  /-- Block header carrying the scalar read mask; takes no pass. (R175) -/
  | vBlk (w : LaneWord)
  /-- Ends the block when every path reaches it, closing entries and restoring parked lanes. (R260) -/
  | vLstop (w : LaneWord)
  /-- Raises a software trap when Exec is not empty. (R272) -/
  | vTrap (w : LaneWord)
  /-- Raises a breakpoint trap when Exec is not empty. (R272) -/
  | vBrk (w : LaneWord)
  /-- Per-element integer add, wrapping or saturating. (R217) -/
  | vAdd (w : LaneWord)
  /-- Per-element integer subtract. (R217) -/
  | vSub (w : LaneWord)
  /-- Per-element integer multiply. (R217) -/
  | vMul (w : LaneWord)
  /-- Per-element integer multiply-add. (R217) -/
  | vMad (w : LaneWord)
  /-- Per-element integer minimum. (R217) -/
  | vMin (w : LaneWord)
  /-- Per-element integer maximum. (R217) -/
  | vMax (w : LaneWord)
  /-- Per-element integer absolute value. (R217) -/
  | vAbs (w : LaneWord)
  /-- Bitwise AND per element. (R218) -/
  | vAnd (w : LaneWord)
  /-- Bitwise OR per element. (R218) -/
  | vOr (w : LaneWord)
  /-- Bitwise XOR per element. (R218) -/
  | vXor (w : LaneWord)
  /-- Bitwise complement per element. (R218) -/
  | vNot (w : LaneWord)
  /-- Left shift per element. (R218) -/
  | vShl (w : LaneWord)
  /-- Logical right shift per element. (R218) -/
  | vShr (w : LaneWord)
  /-- Arithmetic right shift per element. (R218) -/
  | vSra (w : LaneWord)
  /-- Leading-zero count per element. (R218) -/
  | vClz (w : LaneWord)
  /-- Set-bit count per element. (R218) -/
  | vPopc (w : LaneWord)
  /-- Bit reversal per element. (R218) -/
  | vBrev (w : LaneWord)
  /-- Extracts a bit field. (R219) -/
  | vBfe (w : LaneWord)
  /-- Inserts a bit field. (R219) -/
  | vBfi (w : LaneWord)
  /-- Interleaves bits into a 2-D or 3-D Morton code. (R220) -/
  | vBitint (w : LaneWord)
  /-- Integer compare into a q predicate. (R221) -/
  | vCmp (w : LaneWord)
  /-- Selects a or b per lane by a q predicate. (R222) -/
  | vSel (w : LaneWord)
  /-- Moves a register or pair. (R222) -/
  | vMov (w : LaneWord)
  /-- Writes the immediate to each lane. (R222) -/
  | vMovi (w : LaneWord)
  /-- Writes each lane's index. (R222) -/
  | vLane (w : LaneWord)
  /-- Writes half of a k-register to each lane. (R223) -/
  | vKget (w : LaneWord)
  /-- Floating-point add with one rounding. (R225) -/
  | vFadd (w : LaneWord)
  /-- Floating-point subtract. (R225) -/
  | vFsub (w : LaneWord)
  /-- Floating-point multiply. (R225) -/
  | vFmul (w : LaneWord)
  /-- Fused or unfused floating-point multiply-add. (R225) -/
  | vFfma (w : LaneWord)
  /-- Floating-point minimum. (R225) -/
  | vFmin (w : LaneWord)
  /-- Floating-point maximum. (R225) -/
  | vFmax (w : LaneWord)
  /-- Floating-point compare into a q predicate. (R226) -/
  | vFcmp (w : LaneWord)
  /-- Writes a class mask per element. (R227) -/
  | vFclass (w : LaneWord)
  /-- Correctly rounded reciprocal. (R228) -/
  | vFrcp (w : LaneWord)
  /-- Correctly rounded reciprocal square root. (R228) -/
  | vFrsq (w : LaneWord)
  /-- Correctly rounded square root. (R228) -/
  | vFsqrt (w : LaneWord)
  /-- Base-2 exponential, nearest-even. (R228) -/
  | vFexp2 (w : LaneWord)
  /-- Base-2 logarithm, nearest-even. (R228) -/
  | vFlog2 (w : LaneWord)
  /-- Sine in radians, nearest-even. (R228) -/
  | vFsin (w : LaneWord)
  /-- Cosine in radians, nearest-even. (R228) -/
  | vFcos (w : LaneWord)
  /-- Largest integral value not above a. (R229) -/
  | vFfloor (w : LaneWord)
  /-- Smallest integral value not below a. (R229) -/
  | vFceil (w : LaneWord)
  /-- Integral part toward zero. (R229) -/
  | vFtrunc (w : LaneWord)
  /-- Rounds to integral in the effective mode. (R229) -/
  | vFrnd (w : LaneWord)
  /-- Fractional part below 1. (R229) -/
  | vFfract (w : LaneWord)
  /-- Two-element packed dot product with FP32 addend. (R225) -/
  | vFdot2 (w : LaneWord)
  /-- Converts one value between float and integer formats. (R231) -/
  | vCvt (w : LaneWord)
  /-- Narrows two FP32 values into packed positions. (R233) -/
  | vCvtN (w : LaneWord)
  /-- Widens one packed element to FP32 exactly. (R232) -/
  | vCvtW (w : LaneWord)
  /-- Error-feedback conversion writing the result and residue. (R234) -/
  | vCvtEf (w : LaneWord)
  /-- Packs one BFP block across lanes, optionally with error feedback. (R235) -/
  | vBfpPack (w : LaneWord)
  /-- Unpacks a lane-form BFP element exactly. (R235) -/
  | vBfpUnpack (w : LaneWord)
  /-- Narrows two integers into packed positions. (R236) -/
  | vPack (w : LaneWord)
  /-- Extends one packed integer element to 32 bits. (R236) -/
  | vUnpack (w : LaneWord)
  /-- Reads a register from an indexed lane of the segment. (R238) -/
  | vShflIdx (w : LaneWord)
  /-- Reads from a lane b places lower in the segment. (R238) -/
  | vShflUp (w : LaneWord)
  /-- Reads from a lane b places higher in the segment. (R238) -/
  | vShflDown (w : LaneWord)
  /-- Reads from the lane whose index differs by an XOR. (R238) -/
  | vShflXor (w : LaneWord)
  /-- Broadcasts the lowest executing lane's value per segment. (R239) -/
  | vBcast (w : LaneWord)
  /-- Sets qd when the predicate holds in every executing lane. (R240) -/
  | vVoteAll (w : LaneWord)
  /-- Sets qd when the predicate holds in some executing lane. (R240) -/
  | vVoteAny (w : LaneWord)
  /-- Sets qd when the predicate is uniform over Exec. (R240) -/
  | vVoteEq (w : LaneWord)
  /-- Writes each lane the mask word of lanes where the predicate holds. (R240) -/
  | vVoteBallot (w : LaneWord)
  /-- Inclusive or exclusive prefix combination in ascending lane order. (R241) -/
  | vScan (w : LaneWord)
  /-- Segment total written to every executing lane. (R241) -/
  | vRed (w : LaneWord)
  /-- Writes the lowest lane with an equal value. (R242) -/
  | vMatch (w : LaneWord)
  /-- Writes the lowest executing lane's value to a scalar register. (R243) -/
  | vTosFirst (w : LaneWord)
  /-- Writes a named lane's value to a scalar register. (R243) -/
  | vTosLane (w : LaneWord)
  /-- Writes a word of the Exec mask to a scalar register. (R243) -/
  | vTosMask (w : LaneWord)
  /-- Writes the number of executing lanes to a scalar register. (R243) -/
  | vTosCount (w : LaneWord)
  /-- Per-lane global load, marking the destination empty until it returns. (R250) -/
  | vLd (w : LaneWord)
  /-- Per-lane global store. (R251) -/
  | vSt (w : LaneWord)
  /-- Per-lane scratchpad load under the bank rule. (R253) -/
  | vLdSp (w : LaneWord)
  /-- Per-lane scratchpad store. (R253) -/
  | vStSp (w : LaneWord)
  /-- Per-lane load whose read is an acquire at a scope. (R252) -/
  | vLdAcq (w : LaneWord)
  /-- Per-lane store whose write is a release at a scope. (R252) -/
  | vStRel (w : LaneWord)
  /-- Per-lane global atomic returning old values. (R254) -/
  | vAtom (w : LaneWord)
  /-- Per-lane scratchpad atomic at the holding core. (R255) -/
  | vAtomSp (w : LaneWord)
  /-- Per-lane global reduction with no return. (R256) -/
  | vAred (w : LaneWord)
  /-- Fire-and-forget store counted on counter F. (R258) -/
  | vStFf (w : LaneWord)
  /-- Requests lines into L1 or L2 without faulting. (R259) -/
  | vPrefetch (w : LaneWord)
  /-- Divergent branch that splits, joins or pushes a divergence entry. (R262) -/
  | vBr (w : LaneWord)
  /-- Uniform branch decided by the lowest active lane. (R263) -/
  | vBru (w : LaneWord)
  /-- Arrival at a reconvergence point; pops the entry when all lanes arrive. (R264) -/
  | vReconv (w : LaneWord)
  /-- Reconvergence with a timeout and a fallback point. (R265) -/
  | vReconvW (w : LaneWord)
  /-- Hands the active lanes to the regrouping unit. (R266) -/
  | vCallRg (w : LaneWord)
  /-- Returns a call flock's lanes and results to their original flocks. (R269) -/
  | vRetRg (w : LaneWord)
  /-- Sorts active lanes by key within the flock, moving named registers. (R270) -/
  | vRegroup (w : LaneWord)
  /-- Ends the executing lanes. (R271) -/
  | vExit (w : LaneWord)
  /-- Ends the executing lanes and removes their samples from export. (R271) -/
  | vKill (w : LaneWord)
  /-- Loads a context's shadow plane from a reservation. (R284) -/
  | vMxLds (w : LaneWord)
  /-- Exchanges a context's active and shadow planes. (R285) -/
  | vMxSwap (w : LaneWord)
  /-- Streams A rows from lane registers past the active plane. (R286) -/
  | vMxMmaRf (w : LaneWord)
  /-- Streams A rows from an operand-buffer reservation past the active plane. (R286) -/
  | vMxMmaOpb (w : LaneWord)
  /-- Exchanges registers with tile columns. (R289) -/
  | vAccLd (w : LaneWord)
  /-- Copies tile columns into registers. (R289) -/
  | vAccMov (w : LaneWord)
  /-- Writes +0 to every element of a tile. (R290) -/
  | vAccZero (w : LaneWord)
  /-- Requantising drain of tile elements into lane registers. (R292) -/
  | vAccDrain (w : LaneWord)
  /-- Requantising drain of tile elements into a shadow window. (R294) -/
  | vAccDrainG (w : LaneWord)
  /-- Writes lane registers into a reservation. (R282) -/
  | vOpbPut (w : LaneWord)
  /-- Hands covered samples of a triangle on a tile to lanes and advances the token. (R321) -/
  | vRast (w : LaneWord)
  /-- Appends primitive indices to the bins of a bin set. (R325) -/
  | vBin (w : LaneWord)
  /-- Filtered sample with quad-derived gradients. (R338) -/
  | vTexSmp (w : LaneWord)
  /-- Sample at an explicit level of detail. (R338) -/
  | vTexLod (w : LaneWord)
  /-- Sample with explicit gradients. (R338) -/
  | vTexGrad (w : LaneWord)
  /-- Unfiltered texel fetch. (R338) -/
  | vTexFetch (w : LaneWord)
  /-- Returns one channel of the four bilinear texels. (R338) -/
  | vTexGather (w : LaneWord)
  /-- Runs the latent-texture decoder on given latents. (R338) -/
  | vTexDec (w : LaneWord)
  /-- Exports one sample per lane with optional depth test and blend. (R329) -/
  | vExpPx (w : LaneWord)
  /-- Converts clip-space vertices to rasteriser vertex words. (R327) -/
  | vExpPos (w : LaneWord)
  /-- Ray traversal for the nearest or any hit. (R342) -/
  | vTravRay (w : LaneWord)
  /-- Radius query over points. (R342) -/
  | vTravRad (w : LaneWord)
  /-- Nearest-neighbour query over points. (R342) -/
  | vTravKnn (w : LaneWord)
  /-- Interval query over a range tree. (R342) -/
  | vTravRng (w : LaneWord)
  /-- Ray-box intersection. (R343) -/
  | vIsectBox (w : LaneWord)
  /-- Ray-triangle intersection. (R343) -/
  | vIsectTri (w : LaneWord)
  -- Words that are no instruction, and the end of a section
  /-- A scalar or lane word that decodes to no instruction issues and raises the illegal-instruction trap. (R440) -/
  | reservedEncoding (lane : Bool) (word : BitVec 96)
  /-- A stream or lane path that runs past the end of its section raises the fetch fault at the first index beyond it. (R446) -/
  | fetchBeyondSection (lane : Bool)
  -- Steps of the other agents (95_what_each_step_holds.md)
  /-- A load or atomic reply fills its destination and lowers its counter. (R45) -/
  | longLatencyReturn (flock op : Nat)
  /-- A sampler result fills vD and vD+1 and lowers counter T. (R339) -/
  | samplerResultReturn (flock op : Nat)
  /-- A tree result and its buffer writes land and counter X falls. (R344) -/
  | treeResultReturn (flock op : Nat)
  /-- An accumulator transfer or drain ends, filling registers and lowering counter M. (R289) -/
  | accTransferComplete (flock op : Nat)
  /-- A fire-and-forget store is performed at its home and counter F falls. (R258) -/
  | ffStoreDelivered (flock op : Nat)
  /-- The value of a v.tos lands in its scalar register and marks it full. (R243) -/
  | tosWrite (flock op : Nat)
  /-- The lane stream starts the next queued block and checks its header. (R202) -/
  | laneBlockStart (flock : Nat)
  /-- At the end of a round, long-ready pending flocks swap with active ones. (R42) -/
  | roundEndExchange (core dp : Nat)
  /-- An active flock waiting on an empty register swaps with a ready pending flock. (R42) -/
  | flockExchange (core dp flock : Nat)
  /-- A predicted branch resolves; squashes, replays and updates the predictor. (R56) -/
  | predicateResolution (flock path : Nat)
  /-- A v.reconv.w wait expires and the waiting path continues alone. (R52) -/
  | reconvTimeout (flock entry : Nat)
  /-- A collection closes when all flocks arrive or 1,024 lanes gather, forming call flocks. (R60) -/
  | regroupCollectionClose (core coll : Nat)
  /-- A collection closes 512 cycles after its first arrival. (R60) -/
  | regroupCollectionTimeout (core coll : Nat)
  /-- A call flock with no lanes and zero counters ends and frees its slot. (R268) -/
  | callFlockEnd (flock : Nat)
  /-- A registered waiter completes when its phase passes, performing Observe. (R207) -/
  | barWaitComplete (flock : Nat)
  /-- Admits the next herd of a ready region on the first core that fits. (R356) -/
  | herdAdmit (region : Nat)
  /-- A region completes when its last herd ends and its writes are performed. (R356) -/
  | regionComplete (region : Nat)
  /-- Performs a releasing decrement, completion record or interrupt. (R352) -/
  | completionAction (c : Completion)
  /-- Claims a completion-queue slot and writes a record when room exists. (R353) -/
  | completionRecordWrite (r : CompletionRec)
  /-- A pre-emption request reaches the scheduler and halts the target flocks. (R370) -/
  | preemptRequest (herd : Nat)
  /-- Saves a halted herd once its in-flight work has drained. (R371) -/
  | herdSave (herd : Nat)
  /-- Restores a saved herd and resumes its flocks, running recipes. (R371) -/
  | herdRestore (herd : Nat)
  /-- A flock not halted 65,536 cycles after the request fails its core. (R481) -/
  | haltBoundFailure (core : Nat)
  /-- The engine takes one operation from its context queues and performs it. (R297) -/
  | matrixEngineOperation (core : Nat)
  /-- The copy engine starts an accepted command's transfer. (R307) -/
  | copyTransferStart (core cmd : Nat)
  /-- A copied word lands, counts on its barrier and tests completion. (R309) -/
  | copyWordLand (core cmd : Nat)
  /-- A transfer fault suspends the command and writes a report. (R456) -/
  | copyFaultSuspend (core cmd : Nat)
  /-- Writes a held flock's record to the fault ring when room exists and reports it. (R427) -/
  | faultRecordWrite (r : FaultRecord)
  /-- Digests a sealed page at its directory die and merges or promotes it. (R380) -/
  | sealDigest (j : SealJob)
  /-- Applies a reference release at the frame's bucket, freeing it at zero. (R383) -/
  | commonsRelease (frame : FrameRelease)
  /-- A waiting pool return re-reads the header at least every 4,096 cycles. (R375) -/
  | poolReturnRetry (die header frame : Nat) (since : Word64)
  /-- A return waiting 2^20 cycles tells the shepherd. (R375) -/
  | poolReturnStall (die header frame : Nat) (since : Word64)
  /-- A doorbell store updates DB and may restart a stopped queue. (R347) -/
  | doorbellWrite (offset : Nat) (value : Word64)
  /-- The queue processor reads and consumes the next slot with correct parity. (R348) -/
  | queueStep (session q : Nat)
  /-- Creates a ready region from a leaf RCB. (R356) -/
  | packetDispatch (p : Packet)
  /-- Bulk copy engine copies LEN bytes in the session's space. (R350) -/
  | packetCopy (p : Packet)
  /-- Stores VALUE as a release at system scope. (R350) -/
  | packetSignal (p : Packet)
  /-- Reads ADDR by acquires until the condition holds. (R351) -/
  | packetWait (p : Packet)
  /-- A WAIT re-reads its address at least every 4,096 cycles. (R351) -/
  | waitReread (p : Packet)
  /-- Claims and checks a child context and copies a bellwether's tables into it. (R385) -/
  | packetFork (p : Packet)
  /-- Seals a page as s.pseal does, with the queue processor as agent. (R350) -/
  | packetSeal (p : Packet)
  /-- Publishes a shadow window as s.publish does. (R350) -/
  | packetPublish (p : Packet)
  /-- Starts moving a session to another die, pre-empting its herds. (R386) -/
  | packetMigrate (p : Packet)
  /-- After saves complete, copies upper tables, moves the key and sets HOME. (R386) -/
  | migrateMove (p : Packet)
  /-- Completes when it starts. (R350) -/
  | packetNop (p : Packet)
  /-- Applies a decrement at the scheduler, readying the node at zero. (R357) -/
  | depCounterDecrement (die ctr amount sender : Nat)
  /-- Updates IDLEQ and tokens and assigns every cluster of the paddock. (R363) -/
  | quantumBoundary (paddock : Nat)
  /-- Adds one unit to the pool's USED per 1,024 resident herd-cycles. (R355) -/
  | budgetCharge (herd : Nat)
  /-- A request waiting 8,192 cycles is promoted above both classes. (R366) -/
  | arbiterPromotion (die request : Nat)
  /-- Writing QUIESCE stops the paddock's packets and pre-empts its herds, or applies the commit on clear. (R359) -/
  | quiesce (paddock : Nat) (value : Bool)
  /-- Sets QUIESCED once every save completes and no fill is in flight. (R359) -/
  | paddockQuiesced (paddock : Nat)
  /-- Sets QSTUCK when QUIESCED is still 0 after 10 ms. (R479) -/
  | qstuck (paddock : Nat)
  /-- Invalidates TLB copies of a translation or PASID on all dies. (R361) -/
  | tlbinv1 (die : Nat) (value : Word64)
  /-- Retries a held flock's trapped instruction. (R428) -/
  | fltctlRetry (die : Nat) (value : Word64)
  /-- Skips a held flock's trapped instruction. (R428) -/
  | fltctlSkip (die : Nat) (value : Word64)
  /-- Enters the handler for a held trap. (R428) -/
  | fltctlEnterHandler (die : Nat) (value : Word64)
  /-- Ends a held flock. (R428) -/
  | fltctlEnd (die : Nat) (value : Word64)
  /-- Aborts every region of a fault domain with STATUS 0x40. (R429) -/
  | fltctlAbortDomain (die : Nat) (value : Word64)
  /-- Resumes a suspended copy command at its faulting row. (R457) -/
  | engctlResume (die : Nat) (value : Word64)
  /-- Ends a suspended copy command. (R457) -/
  | engctlAbandon (die : Nat) (value : Word64)
  /-- Releases one reference to a commons frame. (R383) -/
  | crel (die : Nat) (value : Word64)
  /-- Loads a wrapped blob into a key slot, erasing the slot first. (R376) -/
  | keyLoad (die slot : Nat) (blob : List Byte)
  /-- At each 2^20-cycle epoch, halves counters and selects regions to move. (R387) -/
  | placementEpoch (die : Nat)
  /-- Moves a hot frame to the requesting die by copy and compare-and-swap. (R388) -/
  | frameMove (m : FrameMove)
  /-- Stamps an ordered packet and sends it when the window allows. (R394) -/
  | orderedPacketSend (p : FabPacket)
  /-- Delivers a Ready packet and any waiting packets it makes Ready. (R395) -/
  | orderedPacketArrival (p : FabPacket)
  /-- Serves a read once its stamp conditions hold, replying with K for acquires. (R396) -/
  | readRequestServe (r : ReadReq)
  /-- Completes an acquire once the reader's die has delivered what the reply names. (R396) -/
  | acquireCatchup (r : ReadReply)
  /-- Sends D to each die after 1,024 deliveries or 4,096 cycles. (R397) -/
  | deliveryReportSend (die net : Nat)
  /-- Updates A and K from another die's report. (R397) -/
  | deliveryReportReceive (r : DeliveryReport)
  /-- Checks a 16-flit group's CRC, accepting it or sending a NAK. (R466) -/
  | linkGroupReceive (die link : Nat) (g : LinkGroup)
  /-- Resends groups from the named one onward. (R466) -/
  | linkNakReceive (die link : Nat) (seq : BitVec 12)
  /-- Resends a group unacknowledged for 2,048 cycles. (R466) -/
  | linkResendTimeout (die link : Nat) (seq : BitVec 12)
  /-- Retrains a link after eight successive failures of one group. (R467) -/
  | linkRetrain (die link : Nat)
  /-- Takes a link down after four failed retrains or 10 ms. (R467) -/
  | linkDown (die link : Nat)
  /-- Counts a 2^20-cycle send or buffer stall and tells the shepherd. (R470) -/
  | fabricStall (die : Nat)
  /-- A shepherd sends its heartbeat every 1 ms. (R471) -/
  | heartbeat (die : Nat) (missed : Bool)
  /-- Removes a die or link after missed heartbeats or downed links by two-phase commit. (R471) -/
  | dieRemoval (what : Removal)
  /-- Resends, delivers, discards and resets stamp counters with a new GEN. (R472) -/
  | resynchronisation
  /-- Boot ROM verifies and runs the firmware, recording measurements. (R400) -/
  | boot (die : Nat)
  /-- A shepherd receives and unwraps the dedup secret from die 0. (R401) -/
  | dedupSecretReceive (die : Nat) (blob : List Byte)
  /-- Brings up the stacked die, links, clusters and matrix engines in order. (R25) -/
  | dieBringup (die : Nat)
  /-- Powers one cluster, spaced 20 µs from the previous. (R25) -/
  | clusterPowerUp (die cluster : Nat)
  /-- Enables one cluster's four matrix engines, spaced 10 µs. (R25) -/
  | matrixEngineEnable (die cluster : Nat)
  /-- After 1 s without a die's ready message, releases without it. (R487) -/
  | bootPeerTimeout (die : Nat)
  /-- Starts receiving a recovery image. (R488) -/
  | imgBegin (die len : Nat)
  /-- Accepts one in-order chunk of the recovery image. (R488) -/
  | imgData (die offset : Nat) (bytes : List Byte)
  /-- Verifies and writes the recovery image, then resets. (R488) -/
  | imgEnd (die : Nat)
  /-- SPDM version request. (R402) -/
  | getVersion (die : Nat)
  /-- SPDM capabilities request. (R402) -/
  | getCapabilities (die : Nat)
  /-- SPDM algorithm negotiation. (R402) -/
  | negotiateAlgorithms (die : Nat) (ed448 sha3 : Bool)
  /-- Returns certificate chain digests. (R402) -/
  | getDigests (die : Nat)
  /-- Returns a certificate chain. (R402) -/
  | getCertificate (die slot offset len : Nat)
  /-- Signed authentication challenge. (R402) -/
  | challenge (die slot : Nat) (nonce : BitVec 256)
  /-- Returns signed measurement blocks. (R402) -/
  | getMeasurements (die index : Nat) (nonce : BitVec 256)
  /-- Answers unsupported SPDM requests with ERROR UnsupportedRequest. (R402) -/
  | spdmUnsupportedRequest (die code : Nat)
  /-- Checks a layout change, refusing it or starting the prepare phase. (R403) -/
  | partitionCommitRequest (c : LayoutChange)
  /-- The coordinator, after four prepare reports, writes the commit record. (R403) -/
  | prepareReport (die : Nat)
  /-- A shepherd applies the new values and reports done. (R403) -/
  | commitApply (die : Nat)
  /-- After four done reports, the coordinator releases QUIESCE. (R403) -/
  | commitDone
  /-- Resets the shepherd alone and resolves any commit in progress. (R485) -/
  | watchdogExpiry (die : Nat)
  /-- Restarts the shepherd and rebuilds lost retention state. (R486) -/
  | retentionSramUe (die : Nat) (lost : RetentionItem)
  /-- Arms or disarms the snapshot trigger. (R404) -/
  | snapctlArm (die : Nat) (value : Word64)
  /-- Fires the snapshot trigger at once when armed. (R404) -/
  | snapctlFire (die : Nat)
  /-- Fires the trigger when CYCLE reaches SNAPAT. (R404) -/
  | snapshotAtCycle (die : Nat)
  /-- Another die's trigger latches an armed die within 3,000 cycles. (R404) -/
  | snapshotWideTrigger (die : Nat)
  /-- Sets the clamped module power cap and forwards it to all dies. (R405) -/
  | pwrcap (die : Nat) (value : Word64)
  /-- Samples rails every 10 µs and throttles to meet the cap. (R405) -/
  | powerSample (die : Nat)
  /-- Sets PADREP.POWER after 10 ms above the cap at lowest settings. (R479) -/
  | powerCapUnmet (paddock : Nat)
  /-- Corrects a single error and counts it. (R463) -/
  | eccCorrectable (die : Nat) (src : EccSource)
  /-- Poisons, refetches or invalidates and reports to the shepherd. (R463) -/
  | eccUncorrectable (die : Nat) (at_ : EccPlace)
  /-- Scrubs each LPDDR6 sector once every 24 hours. (R463) -/
  | memoryScrub (die sector : Nat) (bad : Bool)
  /-- Retests a bad completion-queue descriptor at least every 1,048,576 cycles. (R477) -/
  | cqDescriptorRetest (session : Nat)
  /-- Reports a sampler or tree fault at most once per 1,048,576 cycles. (R484) -/
  | graphicsFaultReport (core region : Nat) (tree : Bool)
  /-- Write to a register with no behaviour of its own, including W1C counters. (R5) -/
  | registerWrite (die : Nat) (r : RegName) (value : Word64)
  /-- A host-complex load or store reaches module memory coherently. System software's writes to queue slots, session contexts, pool headers and READIDX/READ fields are such stores, and a store of STATE := 2 triggers the bellwether digest. (R20) -/
  | hostMemoryAccess (h : HostAccess)
  /-- A writer waiting for a full completion queue re-reads READIDX as an acquire at least once every 4,096 cycles. (R353) -/
  | completionQueueReread (r : CompletionRec)
  /-- A link retrain ends within 100 µs, either bringing the link back to carry its waiting packets or counting as a failed retrain. (R467) -/
  | linkRetrainComplete (die link : Nat) (ok : Bool)
  /-- The module loses power, and every shepherd's retention SRAM (journal, key vault, measurements) loses its contents. (R399) -/
  | modulePowerLoss
  /-- A 1,024-cycle RLIMIT window ends, and a core releases requests of a session that it had held back beyond RLIMIT. (R366) -/
  | rlimitWindow (core : Nat)
deriving DecidableEq, Repr

end Sys2Proof
end

