-- ==== Sys2Proof/WellFormed.lean ====
section
/-!
DEFINITION. Which instructions are well formed: the first stage of the checks of R442, which looks at the bits of an
instruction alone (R437 to R440). A scalar instruction's fields exclude most reserved values by their types; a lane
instruction is checked against the shape of its form, taken from R168 to R175 and from the tables of the lane chapters.
-/
namespace Sys2Proof

/-- What a form asks of PRED and NEG (R157, R175, R437). -/
inductive PredUse where
  /-- They select Exec; NEG with PRED 15 is reserved. -/
  | select
  /-- PRED is 15 and NEG clear. -/
  | all
  /-- Both fields are zero. -/
  | none
deriving DecidableEq, Repr

/-- The shape of a lane form: what each field of the word may hold. Sets of codes are bit sets. -/
structure Shape where
  /-- Accepted SUB values. -/
  sub : BitVec 16 := 1
  pred : PredUse := .select
  /-- DEST holds a register or other content; `destQ`: it holds a q predicate in its low four bits. -/
  dest : Bool := false
  destQ : Bool := false
  /-- Sources that the form reads as registers. -/
  a : Bool := false
  b : Bool := false
  c : Bool := false
  /-- Source fields with other content. -/
  fa : Bool := false
  fb : Bool := false
  fc : Bool := false
  /-- Accepted modifier codes. -/
  ma : BitVec 8 := 1
  mb : BitVec 8 := 1
  mc : BitVec 8 := 1
  /-- Accepted rounding overrides. -/
  rnd : BitVec 4 := 1
  /-- IMM bits the form uses beyond those of modifiers 4 and 5. -/
  imm : BitVec 32 := 0
  /-- Conditions of the form's own. -/
  also : Bool := true
deriving DecidableEq, Repr

/-- Condition code, IMM[27:24] (R221, R226); also the predicate of `v.sel` (R222) and the order code (R245). -/
def cond (w : LaneWord) : Nat := (w.imm.extractLsb' 24 4).toNat

/-- Source format, IMM[31:28] (R230). -/
def sfmt (w : LaneWord) : Nat := (w.imm.extractLsb' 28 4).toNat

/-- Target format, IMM[27:24] (R230). -/
def dfmt (w : LaneWord) : Nat := (w.imm.extractLsb' 24 4).toNat

/-- Formats of `v.cvt` (R231). -/
def cvtFormat (f : Nat) : Bool := f ≤ 2 || (8 ≤ f && f ≤ 14)

/-- The pairs of `v.cvt`; integer pairs take RND zero (R143, R231). -/
def cvtOk (w : LaneWord) : Bool :=
  cvtFormat (sfmt w) && cvtFormat (dfmt w) && sfmt w != dfmt w && (sfmt w ≤ 2 || dfmt w ≤ 2 || w.rnd == 0)

/-- Number of element positions in a 32-bit register of a narrow format (R232). -/
def elements (f : Nat) : Nat := if f = 0 || 6 < f then 0 else if f ≤ 2 then 2 else if f ≤ 5 then 4 else 8

/-- The element index k of `v.cvt.w` and `v.cvt.ef` lies in its range (R232, R234). -/
def elementOk (f : Nat) (w : LaneWord) : Bool := w.sub.toNat < elements f

/-- The target and position of `v.cvt.n` (R233). -/
def narrowPairOk (w : LaneWord) : Bool := w.sub.toNat < elements (dfmt w) / 2

/-- The pair and position of `v.pack` (R236). -/
def packOk (w : LaneWord) : Bool :=
  (sfmt w == 12 || sfmt w == 13) && 8 ≤ dfmt w && dfmt w ≤ 11 && w.sub.toNat < (if dfmt w < 10 then 2 else 1)

/-- The pair and position of `v.unpack` (R236). -/
def unpackOk (w : LaneWord) : Bool :=
  dfmt w == 12 && 8 ≤ sfmt w && sfmt w ≤ 11 && w.sub.toNat < (if sfmt w < 10 then 4 else 2)

/-- The segment field is in range (R237). -/
def segOk (w : LaneWord) : Bool := (w.imm.extractLsb' 0 4).toNat ≤ 10

/-- The order code is in the accepted set (R245). -/
def orderIn (set : BitVec 16) (w : LaneWord) : Bool := set.getLsbD (cond w)

/-- The atomic operation is in the accepted set (R245). -/
def opIn (set : BitVec 16) (w : LaneWord) : Bool := set.getLsbD (sfmt w)

/-- The A format of the register form of `v.mx.mma` (R286). -/
def mmaFmtOk (w : LaneWord) : Bool := (0x31E : BitVec 16).getLsbD (w.imm.extractLsb' 5 4).toNat

/-- Does some source the form reads carry modifier `m`? -/
def Shape.hasMod (sh : Shape) (w : LaneWord) (m : BitVec 3) : Bool :=
  (sh.a && w.moda == m) || (sh.b && w.modb == m) || (sh.c && w.modc == m)

/-- IMM bits the form may use, the lane index and rotate count with their modifiers included (R171, R172, R439;
log entry 18). -/
def Shape.immUsed (sh : Shape) (w : LaneWord) : BitVec 32 :=
  sh.imm ||| (if sh.hasMod w 4 then 0x7FF else 0) ||| (if sh.hasMod w 5 then 0x1F0000 else 0)

/-- The word fits the shape (R437, R439). LAST is never reserved. -/
def Shape.fits (sh : Shape) (w : LaneWord) : Bool :=
  sh.sub.getLsbD w.sub.toNat
  && (match sh.pred with
      | .select => !(w.neg && w.pred == 15)
      | .all => w.pred == 15 && !w.neg
      | .none => w.pred == 0 && !w.neg)
  && (sh.dest || (sh.destQ && w.dest.toNat < 16) || w.dest == 0)
  && (sh.a || sh.fa || w.sa == 0) && (sh.b || sh.fb || w.sb == 0) && (sh.c || sh.fc || w.sc == 0)
  && (if sh.a then sh.ma.getLsbD w.moda.toNat else w.moda == 0)
  && (if sh.b then sh.mb.getLsbD w.modb.toNat else w.modb == 0)
  && (if sh.c then sh.mc.getLsbD w.modc.toNat else w.modc == 0)
  && (sh.a || !w.fep.getLsbD 0) && (sh.b || !w.fep.getLsbD 1) && (sh.c || !w.fep.getLsbD 2)
  && sh.rnd.getLsbD w.rnd.toNat
  && (w.imm &&& ~~~(sh.immUsed w)) == 0
  && sh.also

/-- The lane word and the shape of a lane instruction; none for the others. -/
def laneShape (i : Instr) : Option (LaneWord × Shape) :=
  match i with
  | .vNop w => some (w, { pred := .none })
  | .vNopMarker w => some (w, { sub := 0x2, pred := .none, imm := 0xFFFFFFFF })
  | .vBlk w => some (w, { pred := .all, dest := true, fa := true, fb := true, fc := true, imm := 0xFFFFFFFF })
  | .vLstop w => some (w, { pred := .none })
  | .vTrap w => some (w, { imm := 0x3FFF })
  | .vBrk w => some (w, { })
  | .vAdd w => some (w, { sub := 0xFFFF, dest := true, a := true, ma := 0x3F, b := true, mb := 0x3F })
  | .vSub w => some (w, { sub := 0xFFFF, dest := true, a := true, ma := 0x3F, b := true, mb := 0x3F })
  | .vMul w => some (w, { sub := 0xFFFF, dest := true, a := true, ma := 0x3F, b := true, mb := 0x3F })
  | .vMad w => some (w, { sub := 0xFFFF, dest := true, a := true, ma := 0x3F, b := true, mb := 0x3F, c := true, mc := 0x3F })
  | .vMin w => some (w, { sub := 0xFF, dest := true, a := true, ma := 0x3F, b := true, mb := 0x3F })
  | .vMax w => some (w, { sub := 0xFF, dest := true, a := true, ma := 0x3F, b := true, mb := 0x3F })
  | .vAbs w => some (w, { sub := 0xFF, dest := true, a := true, ma := 0x3F })
  | .vAnd w => some (w, { sub := 0xFF, dest := true, a := true, ma := 0x3F, b := true, mb := 0x3F })
  | .vOr w => some (w, { sub := 0xFF, dest := true, a := true, ma := 0x3F, b := true, mb := 0x3F })
  | .vXor w => some (w, { sub := 0xFF, dest := true, a := true, ma := 0x3F, b := true, mb := 0x3F })
  | .vNot w => some (w, { sub := 0xFF, dest := true, a := true, ma := 0x3F })
  | .vShl w => some (w, { sub := 0xFF, dest := true, a := true, ma := 0x3F, b := true, mb := 0x3F })
  | .vShr w => some (w, { sub := 0xFF, dest := true, a := true, ma := 0x3F, b := true, mb := 0x3F })
  | .vSra w => some (w, { sub := 0xFF, dest := true, a := true, ma := 0x3F, b := true, mb := 0x3F })
  | .vClz w => some (w, { sub := 0xFF, dest := true, a := true, ma := 0x3F })
  | .vPopc w => some (w, { sub := 0xFF, dest := true, a := true, ma := 0x3F })
  | .vBrev w => some (w, { sub := 0xFF, dest := true, a := true, ma := 0x3F })
  | .vBfe w => some (w, { sub := 0x3, dest := true, a := true, ma := 0x3F, b := true, mb := 0x3F })
  | .vBfi w => some (w, { sub := 0x3, dest := true, a := true, ma := 0x3F, b := true, mb := 0x3F, c := true, mc := 0x3F })
  | .vBitint w => some (w, { sub := 0x3, dest := true, a := true, ma := 0x3F, b := true, mb := 0x3F, c := w.sub == 1, mc := if w.sub == 1 then 0x3F else 1 })
  | .vCmp w => some (w, { sub := 0xC3, destQ := true, a := true, ma := 0x3F, b := true, mb := 0x3F, imm := 0x0F000000, also := decide (cond w ≤ 5) })
  | .vSel w => some (w, { sub := 0xFF, dest := true, a := true, ma := 0x3F, b := true, mb := 0x3F, imm := 0x1F000000, also := decide (cond w ≠ 15) })
  | .vMov w => some (w, { sub := 0xFF, dest := true, a := true, ma := 0x3F })
  | .vMovi w => some (w, { sub := 0xFF, dest := true, imm := 0xFFFFFFFF })
  | .vLane w => some (w, { dest := true })
  | .vKget w => some (w, { dest := true, imm := 0x1FFF })
  | .vFadd w => some (w, { sub := 0x7, dest := true, rnd := 0xF, a := true, ma := 0x3F, b := true, mb := 0x3F })
  | .vFsub w => some (w, { sub := 0x7, dest := true, rnd := 0xF, a := true, ma := 0x3F, b := true, mb := 0x3F })
  | .vFmul w => some (w, { sub := 0x7, dest := true, rnd := 0xF, a := true, ma := 0x3F, b := true, mb := 0x3F })
  | .vFfma w => some (w, { sub := 0x7, dest := true, rnd := 0xF, a := true, ma := 0x3F, b := true, mb := 0x3F, c := true, mc := 0x3F })
  | .vFmin w => some (w, { sub := 0x7, dest := true, rnd := 0xF, a := true, ma := 0x3F, b := true, mb := 0x3F })
  | .vFmax w => some (w, { sub := 0x7, dest := true, rnd := 0xF, a := true, ma := 0x3F, b := true, mb := 0x3F })
  | .vFcmp w => some (w, { sub := 0x7, rnd := 0xF, a := true, ma := 0x3F, b := true, mb := 0x3F, destQ := true, imm := 0x0F000000, also := decide (cond w ≤ 7) })
  | .vFclass w => some (w, { sub := 0x7, dest := true, rnd := 0x1, a := true, ma := 0x3F })
  | .vFrcp w => some (w, { sub := 0x7, dest := true, rnd := 0xF, a := true, ma := 0x3F })
  | .vFrsq w => some (w, { sub := 0x7, dest := true, rnd := 0xF, a := true, ma := 0x3F })
  | .vFsqrt w => some (w, { sub := 0x7, dest := true, rnd := 0xF, a := true, ma := 0x3F })
  | .vFexp2 w => some (w, { sub := 0x7, dest := true, rnd := 0xF, a := true, ma := 0x3F })
  | .vFlog2 w => some (w, { sub := 0x7, dest := true, rnd := 0xF, a := true, ma := 0x3F })
  | .vFsin w => some (w, { sub := 0x7, dest := true, rnd := 0xF, a := true, ma := 0x3F })
  | .vFcos w => some (w, { sub := 0x7, dest := true, rnd := 0xF, a := true, ma := 0x3F })
  | .vFfloor w => some (w, { sub := 0x7, dest := true, rnd := 0xF, a := true, ma := 0x3F })
  | .vFceil w => some (w, { sub := 0x7, dest := true, rnd := 0xF, a := true, ma := 0x3F })
  | .vFtrunc w => some (w, { sub := 0x7, dest := true, rnd := 0xF, a := true, ma := 0x3F })
  | .vFrnd w => some (w, { sub := 0x7, dest := true, rnd := 0xF, a := true, ma := 0x3F })
  | .vFfract w => some (w, { sub := 0x7, dest := true, rnd := 0xF, a := true, ma := 0x3F })
  | .vFdot2 w => some (w, { sub := 0x6, dest := true, rnd := 0xF, a := true, ma := 0x3F, b := true, mb := 0x3F, c := true, mc := 0x3F })
  | .vCvt w => some (w, { sub := 0x1, dest := true, a := true, ma := 0x3F, rnd := 0xF, imm := 0xFF800000, also := decide (cvtOk w) })
  | .vCvtN w => some (w, { sub := 0xF, dest := true, a := true, b := true, c := 2 < (dfmt w), ma := 0x3F, mb := 0x3F, mc := if 2 < dfmt w then 0x31 else 1, rnd := 0xF, imm := 0xFF800000, also := decide (sfmt w = 0 ∧ narrowPairOk w) })
  | .vCvtW w => some (w, { sub := 0xFF, dest := true, a := true, ma := 0x31, rnd := 0xF, imm := 0xFF000000, also := decide (dfmt w = 0 ∧ elementOk (sfmt w) w) })
  | .vCvtEf w => some (w, { sub := 0xFF, dest := true, a := true, b := true, c := true, ma := 0x3F, mb := 1, mc := 0x31, imm := 0xFF000000, also := decide (sfmt w = 0 ∧ elementOk (dfmt w) w) })
  | .vBfpPack w => some (w, { sub := 0x3FFF, dest := true, a := true, b := w.imm.getLsbD 22, ma := 0x3F, mb := if w.imm.getLsbD 22 then 0x31 else 1, rnd := if w.imm.getLsbD 22 then 1 else 0xF, imm := 0xFF400000, also := decide (sfmt w = 0 ∧ dfmt w = 7) })
  | .vBfpUnpack w => some (w, { sub := 0x1555, dest := true, a := true, ma := 0x31, imm := 0xFF000000, also := decide (sfmt w = 7 ∧ dfmt w = 0) })
  | .vPack w => some (w, { sub := 0x3, dest := true, a := true, b := true, c := dfmt w < 10, ma := 0x3F, mb := 0x3F, mc := if dfmt w < 10 then 0x31 else 1, imm := 0xFF800000, also := decide (packOk w) })
  | .vUnpack w => some (w, { sub := 0xFF, dest := true, a := true, ma := 0x31, imm := 0xFF000000, also := decide (unpackOk w) })
  | .vShflIdx w => some (w, { sub := 0x101, a := true, ma := 1, b := true, mb := 1, imm := 0xF, also := decide (segOk w), dest := true })
  | .vShflUp w => some (w, { sub := 0x202, a := true, ma := 1, b := true, mb := 1, imm := 0xF, also := decide (segOk w), dest := true })
  | .vShflDown w => some (w, { sub := 0x404, a := true, ma := 1, b := true, mb := 1, imm := 0xF, also := decide (segOk w), dest := true })
  | .vShflXor w => some (w, { sub := 0x808, a := true, ma := 1, b := true, mb := 1, imm := 0xF, also := decide (segOk w), dest := true })
  | .vBcast w => some (w, { sub := 0x101, a := true, ma := 1, imm := 0xF, also := decide (segOk w), dest := true })
  | .vVoteAll w => some (w, { sub := 0x1, imm := 0x1F, destQ := true })
  | .vVoteAny w => some (w, { sub := 0x2, imm := 0x1F, destQ := true })
  | .vVoteEq w => some (w, { sub := 0x4, imm := 0x1F, destQ := true })
  | .vVoteBallot w => some (w, { sub := 0x8, imm := 0x1F, dest := true })
  | .vScan w => some (w, { sub := 0x7FF, a := true, ma := 1, imm := 0x1F, also := decide (segOk w), dest := true, rnd := if w.sub.toNat < 8 then 1 else 0xF })
  | .vRed w => some (w, { sub := 0x7FF, a := true, ma := 1, imm := 0xF, also := decide (segOk w), dest := true, rnd := if w.sub.toNat < 8 then 1 else 0xF })
  | .vMatch w => some (w, { sub := 0x101, a := true, ma := 1, imm := 0xF, also := decide (segOk w), dest := true })
  | .vTosFirst w => some (w, { sub := 0x101, a := true, ma := 1, imm := 0, dest := true })
  | .vTosLane w => some (w, { sub := 0x202, a := true, ma := 1, imm := 0x7FF, dest := true })
  | .vTosMask w => some (w, { sub := 0x4, imm := 0x1F, dest := true })
  | .vTosCount w => some (w, { sub := 0x8, imm := 0, dest := true })
  | .vLd w => some (w, { sub := 0x7F, dest := true, a := true, ma := 1, b := true, mb := 1, imm := 0xFFFFFFFF, also := decide (orderIn 0x1 w ∧ opIn 0x1 w) })
  | .vSt w => some (w, { sub := 0x1F, a := true, ma := 1, b := true, mb := 1, c := true, mc := 1, imm := 0xFFFFFFFF, also := decide (orderIn 0x1 w ∧ opIn 0x1 w) })
  | .vLdSp w => some (w, { sub := 0x7F, dest := true, a := true, ma := 1, b := true, mb := 1, imm := 0xFFFFFFFF, also := decide (orderIn 0x1 w ∧ opIn 0x1 w) })
  | .vStSp w => some (w, { sub := 0x1F, a := true, ma := 1, b := true, mb := 1, c := true, mc := 1, imm := 0xFFFFFFFF, also := decide (orderIn 0x1 w ∧ opIn 0x1 w) })
  | .vLdAcq w => some (w, { sub := 0x6F, dest := true, a := true, ma := 1, b := true, mb := 1, imm := 0xFFFFFFFF, also := decide (orderIn 0x3E w ∧ opIn 0x1 w) })
  | .vStRel w => some (w, { sub := 0xF, a := true, ma := 1, b := true, mb := 1, c := true, mc := 1, imm := 0xFFFFFFFF, also := decide (orderIn 0x7C0 w ∧ opIn 0x1 w) })
  | .vAtom w => some (w, { sub := 0xC, dest := true, a := true, ma := 1, b := true, mb := 1, c := w.imm.extractLsb' 28 4 == 9, imm := 0xFFFFFFFF, also := decide (opIn 0x3FF w) })
  | .vAtomSp w => some (w, { sub := 0xC, dest := true, a := true, ma := 1, b := true, mb := 1, c := w.imm.extractLsb' 28 4 == 9, imm := 0xFFFFFFFF, also := decide (orderIn 0x18C7 w ∧ opIn 0x3FF w) })
  | .vAred w => some (w, { sub := 0xC, a := true, ma := 1, b := true, mb := 1, imm := 0xFFFFFFFF, also := decide (orderIn 0x7C1 w ∧ opIn 0xFF w) })
  | .vStFf w => some (w, { sub := 0x1F, a := true, ma := 1, b := true, mb := 1, c := true, mc := 1, imm := 0xFFFFFFFF, also := decide (orderIn 0x1 w ∧ opIn 0x1 w) })
  | .vPrefetch w => some (w, { sub := 0x3, a := true, ma := 1, b := true, mb := 1, imm := 0xFFFFFFFF, also := decide (orderIn 0x1 w ∧ opIn 0x1 w) })
  | .vBr w => some (w, { sub := 0x1, dest := true, fa := true, fb := true, fc := true, imm := 0x3FFFFFF, also := decide (w.sc.toNat < 4) })
  | .vBru w => some (w, { imm := 0x3FFFFFF })
  | .vReconv w => some (w, { pred := .all })
  | .vReconvW w => some (w, { pred := .all, destQ := true, a := true, imm := 0x3FFFFFF })
  | .vCallRg w => some (w, { pred := .all, dest := true, a := true, fb := true, fc := true, imm := 0xFFFFFFFF })
  | .vRetRg w => some (w, { pred := .all })
  | .vRegroup w => some (w, { pred := .all, dest := true, a := true, fb := true })
  | .vExit w => some (w, { })
  | .vKill w => some (w, { })
  | .vMxLds w => some (w, { pred := .all, a := true, imm := 0x1F })
  | .vMxSwap w => some (w, { pred := .all, imm := 0x10 })
  | .vMxMmaRf w => some (w, { sub := 0xFFFF, a := true, imm := 0x7FF, also := decide (w.imm.getLsbD 0 = false ∧ w.imm.extractLsb' 1 4 = 0 ∧ mmaFmtOk w) })
  | .vMxMmaOpb w => some (w, { sub := 0xFFFF, a := true, imm := 0x7FF, also := decide (w.imm.getLsbD 0 = true ∧ w.imm.extractLsb' 5 4 = 0) })
  | .vAccLd w => some (w, { sub := 0xFFFF, dest := true, imm := 0x3FF })
  | .vAccMov w => some (w, { sub := 0xFFFF, dest := true, imm := 0x3FF })
  | .vAccZero w => some (w, { sub := 0xFFFF, pred := .all })
  | .vAccDrain w => some (w, { sub := 0xFFFF, dest := true, b := true, imm := 0x0FBFFFFF, also := decide (w.imm.getLsbD 15 = false) })
  | .vAccDrainG w => some (w, { sub := 0xFFFF, a := true, b := true, imm := 0x0FBFFFFF, also := decide (w.imm.getLsbD 15 = true) })
  | .vOpbPut w => some (w, { a := true, b := true, imm := 0xFFFFFF })
  | .vRast w => some (w, { sub := 0x0FFF, pred := .all, dest := true, a := true, b := true, c := true, imm := 0xF })
  | .vBin w => some (w, { destQ := true, a := true, b := true, c := true })
  | .vTexSmp w => some (w, { sub := 0x1, dest := true, a := true, ma := 1, b := true, mb := 1, c := true, mc := 1, rnd := 0x9 })
  | .vTexLod w => some (w, { sub := 0x1, dest := true, a := true, ma := 1, b := true, mb := 1, c := true, mc := 1, rnd := 0x9 })
  | .vTexGrad w => some (w, { sub := 0x1, dest := true, a := true, ma := 1, b := true, mb := 1, c := true, mc := 1, rnd := 0x9 })
  | .vTexFetch w => some (w, { sub := 0x1, dest := true, a := true, ma := 1, b := true, mb := 1, c := true, mc := 1, rnd := 0x9 })
  | .vTexGather w => some (w, { sub := 0xF, dest := true, a := true, ma := 1, b := true, mb := 1, rnd := 0x9 })
  | .vTexDec w => some (w, { sub := 0x1, dest := true, a := true, ma := 1, b := true, mb := 1, c := true, mc := 1, rnd := 0x9 })
  | .vExpPx w => some (w, { sub := 0xF, a := true, b := true, c := true })
  | .vExpPos w => some (w, { a := true, b := true, c := true, imm := 0xFFFFFFFF })
  | .vTravRay w => some (w, { sub := 0x1, dest := true, a := true, fb := true, c := true, imm := 0x3, also := decide (w.sb = 192) })
  | .vTravRad w => some (w, { sub := 0x2, dest := true, a := true, b := true, c := true, imm := 0xFFFF })
  | .vTravKnn w => some (w, { sub := 0x4, dest := true, a := true, b := true, c := true, imm := 0xF0000 })
  | .vTravRng w => some (w, { sub := 0x8, dest := true, a := true, b := true, c := true, imm := 0xFFFF })
  | .vIsectBox w => some (w, { dest := true, a := true, b := true })
  | .vIsectTri w => some (w, { dest := true, a := true, b := true, imm := 0x2 })
  | .sAdd _ _ _ => none
  | .sSub _ _ _ => none
  | .sMul _ _ _ => none
  | .sMulh _ _ _ => none
  | .sMulhu _ _ _ => none
  | .sDiv _ _ _ => none
  | .sDivu _ _ _ => none
  | .sRem _ _ _ => none
  | .sRemu _ _ _ => none
  | .sAnd _ _ _ => none
  | .sOr _ _ _ => none
  | .sXor _ _ _ => none
  | .sShl _ _ _ => none
  | .sShr _ _ _ => none
  | .sSra _ _ _ => none
  | .sMin _ _ _ => none
  | .sMinu _ _ _ => none
  | .sMax _ _ _ => none
  | .sMaxu _ _ _ => none
  | .sClz _ _ => none
  | .sCtz _ _ => none
  | .sPopc _ _ => none
  | .sBitint _ _ _ => none
  | .sBitdeint _ _ => none
  | .sSel _ _ _ _ _ => none
  | .sCmp _ _ _ _ => none
  | .sAddi _ _ _ => none
  | .sAndi _ _ _ => none
  | .sOri _ _ _ => none
  | .sXori _ _ _ => none
  | .sShli _ _ _ => none
  | .sShri _ _ _ => none
  | .sSrai _ _ _ => none
  | .sLui _ _ => none
  | .sCmpi _ _ _ _ => none
  | .sLdB _ _ _ => none
  | .sLdH _ _ _ => none
  | .sLdW _ _ _ => none
  | .sLdD _ _ _ => none
  | .sStB _ _ _ => none
  | .sStH _ _ _ => none
  | .sStW _ _ _ => none
  | .sStD _ _ _ => none
  | .sLdAcq _ _ _ _ _ => none
  | .sStRel _ _ _ _ _ => none
  | .sLdk _ _ _ _ => none
  | .sAtomW _ _ _ _ _ => none
  | .sAtomD _ _ _ _ _ => none
  | .sFenceAcq _ => none
  | .sFenceRel _ => none
  | .sFenceAr _ => none
  | .sB _ _ _ => none
  | .sCall _ _ _ => none
  | .sBz _ _ => none
  | .sLoop _ _ => none
  | .sRet => none
  | .sJr _ => none
  | .sLgo _ => none
  | .sLwait => none
  | .sBarInit _ _ => none
  | .sBarArrive _ _ => none
  | .sBarExpect _ _ => none
  | .sBarWait _ _ => none
  | .sCntWait _ _ => none
  | .sCp _ _ _ => none
  | .sCpMc _ _ _ => none
  | .sXf _ _ _ => none
  | .sCpG _ _ _ => none
  | .sPublish _ => none
  | .sQpush _ _ _ => none
  | .sDepDec _ _ => none
  | .sPseal _ => none
  | .sOpbRsv _ _ => none
  | .sOpbRel _ => none
  | .sMxLease _ _ => none
  | .sMxYield => none
  | .sKget _ _ => none
  | .sKput _ _ => none
  | .sTrap _ => none
  | .sNop => none
  | .sTret => none
  | .sYield => none
  | .sExit => none
  | .reservedEncoding _ _ => none
  | .fetchBeyondSection _ => none
  | .longLatencyReturn _ _ => none
  | .samplerResultReturn _ _ => none
  | .treeResultReturn _ _ => none
  | .accTransferComplete _ _ => none
  | .ffStoreDelivered _ _ => none
  | .tosWrite _ _ => none
  | .laneBlockStart _ => none
  | .roundEndExchange _ _ => none
  | .flockExchange _ _ _ => none
  | .predicateResolution _ _ => none
  | .reconvTimeout _ _ => none
  | .regroupCollectionClose _ _ => none
  | .regroupCollectionTimeout _ _ => none
  | .callFlockEnd _ => none
  | .barWaitComplete _ => none
  | .herdAdmit _ => none
  | .regionComplete _ => none
  | .completionAction _ => none
  | .completionRecordWrite _ => none
  | .preemptRequest _ => none
  | .herdSave _ => none
  | .herdRestore _ => none
  | .haltBoundFailure _ => none
  | .matrixEngineOperation _ => none
  | .copyTransferStart _ _ => none
  | .copyWordLand _ _ => none
  | .copyFaultSuspend _ _ => none
  | .faultRecordWrite _ => none
  | .sealDigest _ => none
  | .commonsRelease _ => none
  | .poolReturnRetry _ _ _ _ => none
  | .poolReturnStall _ _ _ _ => none
  | .doorbellWrite _ _ => none
  | .queueStep _ _ => none
  | .packetDispatch _ => none
  | .packetCopy _ => none
  | .packetSignal _ => none
  | .packetWait _ => none
  | .waitReread _ => none
  | .packetFork _ => none
  | .packetSeal _ => none
  | .packetPublish _ => none
  | .packetMigrate _ => none
  | .migrateMove _ => none
  | .packetNop _ => none
  | .depCounterDecrement _ _ _ _ => none
  | .quantumBoundary _ => none
  | .budgetCharge _ => none
  | .arbiterPromotion _ _ => none
  | .quiesce _ _ => none
  | .paddockQuiesced _ => none
  | .qstuck _ => none
  | .tlbinv1 _ _ => none
  | .fltctlRetry _ _ => none
  | .fltctlSkip _ _ => none
  | .fltctlEnterHandler _ _ => none
  | .fltctlEnd _ _ => none
  | .fltctlAbortDomain _ _ => none
  | .engctlResume _ _ => none
  | .engctlAbandon _ _ => none
  | .crel _ _ => none
  | .keyLoad _ _ _ => none
  | .placementEpoch _ => none
  | .frameMove _ => none
  | .orderedPacketSend _ => none
  | .orderedPacketArrival _ => none
  | .readRequestServe _ => none
  | .acquireCatchup _ => none
  | .deliveryReportSend _ _ => none
  | .deliveryReportReceive _ => none
  | .linkGroupReceive _ _ _ => none
  | .linkNakReceive _ _ _ => none
  | .linkResendTimeout _ _ _ => none
  | .linkRetrain _ _ => none
  | .linkDown _ _ => none
  | .fabricStall _ => none
  | .heartbeat _ _ => none
  | .dieRemoval _ => none
  | .resynchronisation => none
  | .boot _ => none
  | .dedupSecretReceive _ _ => none
  | .dieBringup _ => none
  | .clusterPowerUp _ _ => none
  | .matrixEngineEnable _ _ => none
  | .bootPeerTimeout _ => none
  | .imgBegin _ _ => none
  | .imgData _ _ _ => none
  | .imgEnd _ => none
  | .getVersion _ => none
  | .getCapabilities _ => none
  | .negotiateAlgorithms _ _ _ => none
  | .getDigests _ => none
  | .getCertificate _ _ _ _ => none
  | .challenge _ _ _ => none
  | .getMeasurements _ _ _ => none
  | .spdmUnsupportedRequest _ _ => none
  | .partitionCommitRequest _ => none
  | .prepareReport _ => none
  | .commitApply _ => none
  | .commitDone => none
  | .watchdogExpiry _ => none
  | .retentionSramUe _ _ => none
  | .snapctlArm _ _ => none
  | .snapctlFire _ => none
  | .snapshotAtCycle _ => none
  | .snapshotWideTrigger _ => none
  | .pwrcap _ _ => none
  | .powerSample _ => none
  | .powerCapUnmet _ => none
  | .eccCorrectable _ _ => none
  | .eccUncorrectable _ _ => none
  | .memoryScrub _ _ _ => none
  | .cqDescriptorRetest _ => none
  | .graphicsFaultReport _ _ _ => none
  | .registerWrite _ _ _ => none
  | .hostMemoryAccess _ => none
  | .completionQueueReread _ => none
  | .linkRetrainComplete _ _ _ => none
  | .modulePowerLoss => none
  | .rlimitWindow _ => none

/-- An order code of R164 is expressible: an ordered atomic cannot name flock scope. -/
def Order.encodable : Order → Bool
  | .plain => true
  | .acq s => s != .fl
  | .rel s => s != .fl
  | .ar s => s != .fl

/-- The instruction is well formed: its word holds no reserved code and no non-zero unused field (R437 to R439). A step
of another agent has no word and is always well formed. -/
def wellFormed (i : Instr) : Bool :=
  match i with
  | .sSel _ _ _ z neg => !(neg && z == 7)
  | .sCmpi _ cc _ _ => cc != .leu && cc != .gtu
  | .sAtomW _ ord _ _ _ => ord.encodable
  | .sAtomD _ ord _ _ _ => ord.encodable
  | .sB z neg _ => !(neg && z == 7)
  | .sCall z neg _ => !(neg && z == 7)
  | .sBarArrive zd _ => zd != 7
  | i => match laneShape i with
    | some (w, sh) => sh.fits w
    | none => true

/-- `wellFormed` as a proposition. -/
abbrev WellFormed (i : Instr) : Prop := wellFormed i = true

end Sys2Proof
end

