-- ==== Sys2Proof/Decode.lean ====
section
/-!
DEFINITION. Decoding of scalar words (R162 to R166) and lane words (R167 to R176), total on any bits, and the encoder
written from the same tables. A word is accepted exactly when its opcode and function fields name a form, the form is
well formed, and the form's encoding is the word again; so a word with a non-zero unused field is refused by name.
-/
namespace Sys2Proof

/-- Why a word is no instruction (R437 to R440). -/
inductive Refused where
  /-- A scalar word with a reserved major, function, code or field. -/
  | reservedScalar (word : BitVec 32)
  /-- A lane word with a reserved major, SUB, code or field. -/
  | reservedLane (word : BitVec 96)
deriving DecidableEq, Repr

/-! ## Codes of fields (R164, R166) -/

/-- Size code (R164). -/
def Size.code : Size → BitVec 2
  | .b => 0 | .h => 1 | .w => 2 | .d => 3

/-- Size of a code (R164). -/
def sizeOf? (c : BitVec 2) : Size := if c = 0 then .b else if c = 1 then .h else if c = 2 then .w else .d

/-- Scope code (R164). -/
def Scope.code : Scope → BitVec 3
  | .fl => 0 | .hd => 1 | .cl => 2 | .di => 3 | .mo => 4 | .sy => 5

/-- Scope of a code; 6 and 7 are reserved (R164). -/
def scopeOf? (c : BitVec 3) : Option Scope :=
  match c.toNat with
  | 0 => some .fl | 1 => some .hd | 2 => some .cl | 3 => some .di | 4 => some .mo | 5 => some .sy | _ => none

/-- Order code (R164); the flock scope has none and is given 0. -/
def Order.code : Order → BitVec 4
  | .plain => 0
  | .acq s => if s = .fl then 0 else s.code.setWidth 4
  | .rel s => if s = .fl then 0 else s.code.setWidth 4 + 5
  | .ar s => if s = .fl then 0 else s.code.setWidth 4 + 10

/-- Order of a code (R164). -/
def orderOf (c : BitVec 4) : Order :=
  match c.toNat with
  | 0 => .plain
  | 1 => .acq .hd | 2 => .acq .cl | 3 => .acq .di | 4 => .acq .mo | 5 => .acq .sy
  | 6 => .rel .hd | 7 => .rel .cl | 8 => .rel .di | 9 => .rel .mo | 10 => .rel .sy
  | 11 => .ar .hd | 12 => .ar .cl | 13 => .ar .di | 14 => .ar .mo | _ => .ar .sy

/-- Function code of a condition of `s.cmp` (R166). -/
def Cond.code : Cond → BitVec 8
  | .eq => 0 | .ne => 1 | .lt => 2 | .le => 3 | .gt => 4 | .ge => 5 | .ltu => 6 | .leu => 7 | .gtu => 8 | .geu => 9

/-- Condition of an `s.cmp` function (R166). -/
def condOf? (c : BitVec 8) : Option Cond :=
  match c.toNat with
  | 0 => some .eq | 1 => some .ne | 2 => some .lt | 3 => some .le | 4 => some .gt | 5 => some .ge
  | 6 => some .ltu | 7 => some .leu | 8 => some .gtu | 9 => some .geu | _ => none

/-- Condition bits [11:9] of `s.cmpi` (R166); `.leu` and `.gtu` have none and are given 7. -/
def Cond.immCode : Cond → BitVec 3
  | .eq => 0 | .ne => 1 | .lt => 2 | .le => 3 | .gt => 4 | .ge => 5 | .ltu => 6 | _ => 7

/-- Condition of bits [11:9] of `s.cmpi` (R166). -/
def immCondOf (c : BitVec 3) : Cond :=
  match c.toNat with
  | 0 => .eq | 1 => .ne | 2 => .lt | 3 => .le | 4 => .gt | 5 => .ge | 6 => .ltu | _ => .geu

/-- Operation code of an atomic (R166). -/
def AtomOp.code : AtomOp → BitVec 4
  | .add => 0 | .and => 1 | .or => 2 | .xor => 3 | .min => 4 | .minu => 5 | .max => 6 | .maxu => 7 | .swap => 8 | .cas => 9

/-- Atomic of an operation code; 10 to 15 are reserved (R166). -/
def atomOf? (c : BitVec 4) : Option AtomOp :=
  match c.toNat with
  | 0 => some .add | 1 => some .and | 2 => some .or | 3 => some .xor | 4 => some .min | 5 => some .minu
  | 6 => some .max | 7 => some .maxu | 8 => some .swap | 9 => some .cas | _ => none

/-- Path code of `s.cnt.wait` (R165). -/
def Counter.code : Counter → BitVec 8
  | .g => 0 | .s => 1 | .t => 2 | .x => 3 | .m => 4 | .f => 5

/-- Counter of a path code (R165). -/
def counterOf? (c : BitVec 8) : Option Counter :=
  match c.toNat with
  | 0 => some .g | 1 => some .s | 2 => some .t | 3 => some .x | 4 => some .m | 5 => some .f | _ => none

/-! ## Scalar formats (R162) -/

/-- Format SA. -/
def fmtSA (major : BitVec 6) (d a b : BitVec 6) (fn : BitVec 8) : BitVec 32 := fn ++ b ++ a ++ d ++ major

/-- Formats SI and SM. -/
def fmtSI (major : BitVec 6) (d a : BitVec 6) (imm : BitVec 14) : BitVec 32 := imm ++ a ++ d ++ major

/-- Format SB. -/
def fmtSB (major : BitVec 6) (z : BitVec 3) (neg : Bool) (off : BitVec 22) : BitVec 32 :=
  off ++ BitVec.ofBool neg ++ z ++ major

/-- Format SQ. -/
def fmtSQ (major : BitVec 6) (d a : BitVec 6) (scope : BitVec 3) (size : BitVec 2) (off : BitVec 9) : BitVec 32 :=
  off ++ size ++ scope ++ a ++ d ++ major

/-- The word of a scalar instruction; none for the others. -/
def encodeScalar (i : Instr) : Option (BitVec 32) :=
  match i with
  | .sAdd d a b => some (fmtSA 0x01 d a b 0x0)
  | .sSub d a b => some (fmtSA 0x01 d a b 0x1)
  | .sMul d a b => some (fmtSA 0x01 d a b 0x2)
  | .sMulh d a b => some (fmtSA 0x01 d a b 0x3)
  | .sMulhu d a b => some (fmtSA 0x01 d a b 0x4)
  | .sDiv d a b => some (fmtSA 0x01 d a b 0x5)
  | .sDivu d a b => some (fmtSA 0x01 d a b 0x6)
  | .sRem d a b => some (fmtSA 0x01 d a b 0x7)
  | .sRemu d a b => some (fmtSA 0x01 d a b 0x8)
  | .sAnd d a b => some (fmtSA 0x01 d a b 0x10)
  | .sOr d a b => some (fmtSA 0x01 d a b 0x11)
  | .sXor d a b => some (fmtSA 0x01 d a b 0x12)
  | .sShl d a b => some (fmtSA 0x01 d a b 0x18)
  | .sShr d a b => some (fmtSA 0x01 d a b 0x19)
  | .sSra d a b => some (fmtSA 0x01 d a b 0x1a)
  | .sMin d a b => some (fmtSA 0x01 d a b 0x20)
  | .sMinu d a b => some (fmtSA 0x01 d a b 0x21)
  | .sMax d a b => some (fmtSA 0x01 d a b 0x22)
  | .sMaxu d a b => some (fmtSA 0x01 d a b 0x23)
  | .sBitint d a b => some (fmtSA 0x01 d a b 0x30)
  | .sClz d a => some (fmtSA 0x01 d a 0 0x28)
  | .sCtz d a => some (fmtSA 0x01 d a 0 0x29)
  | .sPopc d a => some (fmtSA 0x01 d a 0 0x2a)
  | .sBitdeint d a => some (fmtSA 0x01 d a 0 0x31)
  | .sSel d a b z neg => some (fmtSA 0x02 d a b (0#4 ++ BitVec.ofBool neg ++ z))
  | .sCmp zd cc a b => some (fmtSA 0x03 (0#3 ++ zd) a b cc.code)
  | .sAddi d a imm => some (fmtSI 0x4 d a imm)
  | .sAndi d a imm => some (fmtSI 0x5 d a imm)
  | .sOri d a imm => some (fmtSI 0x6 d a imm)
  | .sXori d a imm => some (fmtSI 0x7 d a imm)
  | .sShli d a imm => some (fmtSI 0x8 d a imm)
  | .sShri d a imm => some (fmtSI 0x9 d a imm)
  | .sSrai d a imm => some (fmtSI 0xa d a imm)
  | .sLui d imm => some (fmtSI 0x0B d 0 imm)
  | .sCmpi zd cc a imm => some (fmtSI 0x0C (cc.immCode ++ zd) a imm)
  | .sLdB d a off => some (fmtSI 0x10 d a off)
  | .sLdH d a off => some (fmtSI 0x11 d a off)
  | .sLdW d a off => some (fmtSI 0x12 d a off)
  | .sLdD d a off => some (fmtSI 0x13 d a off)
  | .sStB d a off => some (fmtSI 0x14 d a off)
  | .sStH d a off => some (fmtSI 0x15 d a off)
  | .sStW d a off => some (fmtSI 0x16 d a off)
  | .sStD d a off => some (fmtSI 0x17 d a off)
  | .sLdAcq d a scope size off => some (fmtSQ 0x18 d a scope.code size.code off)
  | .sStRel d a scope size off => some (fmtSQ 0x19 d a scope.code size.code off)
  | .sLdk d a size off => some (fmtSQ 0x1A d a 0 size.code off)
  | .sAtomW op ord d a b => some (fmtSA 0x1C d a b (ord.code ++ op.code))
  | .sAtomD op ord d a b => some (fmtSA 0x1D d a b (ord.code ++ op.code))
  | .sFenceAcq scope => some (fmtSA 0x1E 0 0 0 (0#3 ++ scope.code ++ 1#2))
  | .sFenceRel scope => some (fmtSA 0x1E 0 0 0 (0#3 ++ scope.code ++ 2#2))
  | .sFenceAr scope => some (fmtSA 0x1E 0 0 0 (0#3 ++ scope.code ++ 3#2))
  | .sB z neg off => some (fmtSB 0x20 z neg off)
  | .sCall z neg off => some (fmtSB 0x21 z neg off)
  | .sBz a imm => some (fmtSI 0x22 0 a imm)
  | .sLoop d imm => some (fmtSI 0x23 d 0 imm)
  | .sRet => some (fmtSA 0x24 0 0 0 0x00)
  | .sJr a => some (fmtSA 0x24 0 a 0 0x01)
  | .sLgo index => some (index ++ 0x28#6)
  | .sLwait => some (fmtSA 0x29 0 0 0 0x00)
  | .sBarInit a b => some (fmtSA 0x2A 0 a b 0x00)
  | .sBarArrive zd a => some (fmtSA 0x2A (0#3 ++ zd) a 0 0x01)
  | .sBarExpect a b => some (fmtSA 0x2A 0 a b 0x02)
  | .sBarWait a b => some (fmtSA 0x2A 0 a b 0x03)
  | .sCntWait path a => some (fmtSA 0x2B 0 a 0 path.code)
  | .sCp d a b => some (fmtSA 0x2C d a b 0x0)
  | .sCpMc d a b => some (fmtSA 0x2C d a b 0x1)
  | .sXf d a b => some (fmtSA 0x2C d a b 0x2)
  | .sCpG d a b => some (fmtSA 0x2C d a b 0x3)
  | .sPublish a => some (fmtSA 0x2C 0 a 0 0x04)
  | .sQpush d a b => some (fmtSA 0x2C d a b 0x05)
  | .sDepDec a b => some (fmtSA 0x2C 0 a b 0x06)
  | .sPseal a => some (fmtSA 0x2C 0 a 0 0x07)
  | .sOpbRsv d a => some (fmtSA 0x2D d a 0 0x00)
  | .sOpbRel a => some (fmtSA 0x2D 0 a 0 0x01)
  | .sMxLease d a => some (fmtSA 0x2D d a 0 0x02)
  | .sMxYield => some (fmtSA 0x2D 0 0 0 0x03)
  | .sKget d k => some (fmtSI 0x2E d 0 (0#2 ++ k))
  | .sKput k a => some (fmtSI 0x2F 0 a (0#2 ++ k))
  | .sTrap code => some (fmtSI 0x30 0 0 code)
  | .sNop => some (fmtSA 0x31 0 0 0 0x0)
  | .sTret => some (fmtSA 0x31 0 0 0 0x1)
  | .sYield => some (fmtSA 0x31 0 0 0 0x2)
  | .sExit => some (fmtSA 0x31 0 0 0 0x3)
  | .vNop _ => none
  | .vNopMarker _ => none
  | .vBlk _ => none
  | .vLstop _ => none
  | .vTrap _ => none
  | .vBrk _ => none
  | .vAdd _ => none
  | .vSub _ => none
  | .vMul _ => none
  | .vMad _ => none
  | .vMin _ => none
  | .vMax _ => none
  | .vAbs _ => none
  | .vAnd _ => none
  | .vOr _ => none
  | .vXor _ => none
  | .vNot _ => none
  | .vShl _ => none
  | .vShr _ => none
  | .vSra _ => none
  | .vClz _ => none
  | .vPopc _ => none
  | .vBrev _ => none
  | .vBfe _ => none
  | .vBfi _ => none
  | .vBitint _ => none
  | .vCmp _ => none
  | .vSel _ => none
  | .vMov _ => none
  | .vMovi _ => none
  | .vLane _ => none
  | .vKget _ => none
  | .vFadd _ => none
  | .vFsub _ => none
  | .vFmul _ => none
  | .vFfma _ => none
  | .vFmin _ => none
  | .vFmax _ => none
  | .vFcmp _ => none
  | .vFclass _ => none
  | .vFrcp _ => none
  | .vFrsq _ => none
  | .vFsqrt _ => none
  | .vFexp2 _ => none
  | .vFlog2 _ => none
  | .vFsin _ => none
  | .vFcos _ => none
  | .vFfloor _ => none
  | .vFceil _ => none
  | .vFtrunc _ => none
  | .vFrnd _ => none
  | .vFfract _ => none
  | .vFdot2 _ => none
  | .vCvt _ => none
  | .vCvtN _ => none
  | .vCvtW _ => none
  | .vCvtEf _ => none
  | .vBfpPack _ => none
  | .vBfpUnpack _ => none
  | .vPack _ => none
  | .vUnpack _ => none
  | .vShflIdx _ => none
  | .vShflUp _ => none
  | .vShflDown _ => none
  | .vShflXor _ => none
  | .vBcast _ => none
  | .vVoteAll _ => none
  | .vVoteAny _ => none
  | .vVoteEq _ => none
  | .vVoteBallot _ => none
  | .vScan _ => none
  | .vRed _ => none
  | .vMatch _ => none
  | .vTosFirst _ => none
  | .vTosLane _ => none
  | .vTosMask _ => none
  | .vTosCount _ => none
  | .vLd _ => none
  | .vSt _ => none
  | .vLdSp _ => none
  | .vStSp _ => none
  | .vLdAcq _ => none
  | .vStRel _ => none
  | .vAtom _ => none
  | .vAtomSp _ => none
  | .vAred _ => none
  | .vStFf _ => none
  | .vPrefetch _ => none
  | .vBr _ => none
  | .vBru _ => none
  | .vReconv _ => none
  | .vReconvW _ => none
  | .vCallRg _ => none
  | .vRetRg _ => none
  | .vRegroup _ => none
  | .vExit _ => none
  | .vKill _ => none
  | .vMxLds _ => none
  | .vMxSwap _ => none
  | .vMxMmaRf _ => none
  | .vMxMmaOpb _ => none
  | .vAccLd _ => none
  | .vAccMov _ => none
  | .vAccZero _ => none
  | .vAccDrain _ => none
  | .vAccDrainG _ => none
  | .vOpbPut _ => none
  | .vRast _ => none
  | .vBin _ => none
  | .vTexSmp _ => none
  | .vTexLod _ => none
  | .vTexGrad _ => none
  | .vTexFetch _ => none
  | .vTexGather _ => none
  | .vTexDec _ => none
  | .vExpPx _ => none
  | .vExpPos _ => none
  | .vTravRay _ => none
  | .vTravRad _ => none
  | .vTravKnn _ => none
  | .vTravRng _ => none
  | .vIsectBox _ => none
  | .vIsectTri _ => none
  | .reservedEncoding _ _ => none
  | .fetchBeyondSection _ => none
  | .longLatencyReturn _ _ => none
  | .samplerResultReturn _ _ => none
  | .treeResultReturn _ _ => none
  | .accTransferComplete _ _ => none
  | .ffStoreDelivered _ _ => none
  | .tosWrite _ _ => none
  | .laneBlockStart _ => none
  | .roundEndExchange _ _ => none
  | .flockExchange _ _ _ => none
  | .predicateResolution _ _ => none
  | .reconvTimeout _ _ => none
  | .regroupCollectionClose _ _ => none
  | .regroupCollectionTimeout _ _ => none
  | .callFlockEnd _ => none
  | .barWaitComplete _ => none
  | .herdAdmit _ => none
  | .regionComplete _ => none
  | .completionAction _ => none
  | .completionRecordWrite _ => none
  | .preemptRequest _ => none
  | .herdSave _ => none
  | .herdRestore _ => none
  | .haltBoundFailure _ => none
  | .matrixEngineOperation _ => none
  | .copyTransferStart _ _ => none
  | .copyWordLand _ _ => none
  | .copyFaultSuspend _ _ => none
  | .faultRecordWrite _ => none
  | .sealDigest _ => none
  | .commonsRelease _ => none
  | .poolReturnRetry _ _ _ _ => none
  | .poolReturnStall _ _ _ _ => none
  | .doorbellWrite _ _ => none
  | .queueStep _ _ => none
  | .packetDispatch _ => none
  | .packetCopy _ => none
  | .packetSignal _ => none
  | .packetWait _ => none
  | .waitReread _ => none
  | .packetFork _ => none
  | .packetSeal _ => none
  | .packetPublish _ => none
  | .packetMigrate _ => none
  | .migrateMove _ => none
  | .packetNop _ => none
  | .depCounterDecrement _ _ _ _ => none
  | .quantumBoundary _ => none
  | .budgetCharge _ => none
  | .arbiterPromotion _ _ => none
  | .quiesce _ _ => none
  | .paddockQuiesced _ => none
  | .qstuck _ => none
  | .tlbinv1 _ _ => none
  | .fltctlRetry _ _ => none
  | .fltctlSkip _ _ => none
  | .fltctlEnterHandler _ _ => none
  | .fltctlEnd _ _ => none
  | .fltctlAbortDomain _ _ => none
  | .engctlResume _ _ => none
  | .engctlAbandon _ _ => none
  | .crel _ _ => none
  | .keyLoad _ _ _ => none
  | .placementEpoch _ => none
  | .frameMove _ => none
  | .orderedPacketSend _ => none
  | .orderedPacketArrival _ => none
  | .readRequestServe _ => none
  | .acquireCatchup _ => none
  | .deliveryReportSend _ _ => none
  | .deliveryReportReceive _ => none
  | .linkGroupReceive _ _ _ => none
  | .linkNakReceive _ _ _ => none
  | .linkResendTimeout _ _ _ => none
  | .linkRetrain _ _ => none
  | .linkDown _ _ => none
  | .fabricStall _ => none
  | .heartbeat _ _ => none
  | .dieRemoval _ => none
  | .resynchronisation => none
  | .boot _ => none
  | .dedupSecretReceive _ _ => none
  | .dieBringup _ => none
  | .clusterPowerUp _ _ => none
  | .matrixEngineEnable _ _ => none
  | .bootPeerTimeout _ => none
  | .imgBegin _ _ => none
  | .imgData _ _ _ => none
  | .imgEnd _ => none
  | .getVersion _ => none
  | .getCapabilities _ => none
  | .negotiateAlgorithms _ _ _ => none
  | .getDigests _ => none
  | .getCertificate _ _ _ _ => none
  | .challenge _ _ _ => none
  | .getMeasurements _ _ _ => none
  | .spdmUnsupportedRequest _ _ => none
  | .partitionCommitRequest _ => none
  | .prepareReport _ => none
  | .commitApply _ => none
  | .commitDone => none
  | .watchdogExpiry _ => none
  | .retentionSramUe _ _ => none
  | .snapctlArm _ _ => none
  | .snapctlFire _ => none
  | .snapshotAtCycle _ => none
  | .snapshotWideTrigger _ => none
  | .pwrcap _ _ => none
  | .powerSample _ => none
  | .powerCapUnmet _ => none
  | .eccCorrectable _ _ => none
  | .eccUncorrectable _ _ => none
  | .memoryScrub _ _ _ => none
  | .cqDescriptorRetest _ => none
  | .graphicsFaultReport _ _ _ => none
  | .registerWrite _ _ _ => none
  | .hostMemoryAccess _ => none
  | .completionQueueReread _ => none
  | .linkRetrainComplete _ _ _ => none
  | .modulePowerLoss => none
  | .rlimitWindow _ => none

/-! ## The scalar opcode map (R165, R166) -/

/-- The integer and logic group of major 0x01 (R166). -/
def integerGroup? (fn : Nat) (d a b : BitVec 6) : Option Instr :=
  match fn with
  | 0x0 => some (.sAdd d a b)
  | 0x1 => some (.sSub d a b)
  | 0x2 => some (.sMul d a b)
  | 0x3 => some (.sMulh d a b)
  | 0x4 => some (.sMulhu d a b)
  | 0x5 => some (.sDiv d a b)
  | 0x6 => some (.sDivu d a b)
  | 0x7 => some (.sRem d a b)
  | 0x8 => some (.sRemu d a b)
  | 0x10 => some (.sAnd d a b)
  | 0x11 => some (.sOr d a b)
  | 0x12 => some (.sXor d a b)
  | 0x18 => some (.sShl d a b)
  | 0x19 => some (.sShr d a b)
  | 0x1a => some (.sSra d a b)
  | 0x20 => some (.sMin d a b)
  | 0x21 => some (.sMinu d a b)
  | 0x22 => some (.sMax d a b)
  | 0x23 => some (.sMaxu d a b)
  | 0x28 => some (.sClz d a)
  | 0x29 => some (.sCtz d a)
  | 0x2a => some (.sPopc d a)
  | 0x30 => some (.sBitint d a b)
  | 0x31 => some (.sBitdeint d a)
  | _ => none

/-- The form that the opcode fields of a scalar word name, with the operand fields it has; the fields it leaves unused
are not looked at here. -/
def scalarForm? (w : BitVec 32) : Option Instr :=
  let d : BitVec 6 := w.extractLsb' 6 6
  let a : BitVec 6 := w.extractLsb' 12 6
  let b : BitVec 6 := w.extractLsb' 18 6
  let fn : BitVec 8 := w.extractLsb' 24 8
  let z : BitVec 3 := w.extractLsb' 6 3
  let imm : BitVec 14 := w.extractLsb' 18 14
  let scope : BitVec 3 := w.extractLsb' 18 3
  let size : Size := sizeOf? (w.extractLsb' 21 2)
  let off9 : BitVec 9 := w.extractLsb' 23 9
  let off22 : BitVec 22 := w.extractLsb' 10 22
  match (w.extractLsb' 0 6).toNat with
  | 0x01 => integerGroup? fn.toNat d a b
  | 0x02 => some (.sSel d a b (w.extractLsb' 24 3) (w.getLsbD 27))
  | 0x03 => (condOf? fn).map fun cc => .sCmp z cc a b
  | 0x04 => some (.sAddi d a imm)
  | 0x05 => some (.sAndi d a imm)
  | 0x06 => some (.sOri d a imm)
  | 0x07 => some (.sXori d a imm)
  | 0x08 => some (.sShli d a imm)
  | 0x09 => some (.sShri d a imm)
  | 0x0A => some (.sSrai d a imm)
  | 0x0B => some (.sLui d imm)
  | 0x0C => some (.sCmpi z (immCondOf (w.extractLsb' 9 3)) a imm)
  | 0x10 => some (.sLdB d a imm)
  | 0x11 => some (.sLdH d a imm)
  | 0x12 => some (.sLdW d a imm)
  | 0x13 => some (.sLdD d a imm)
  | 0x14 => some (.sStB d a imm)
  | 0x15 => some (.sStH d a imm)
  | 0x16 => some (.sStW d a imm)
  | 0x17 => some (.sStD d a imm)
  | 0x18 => (scopeOf? scope).map fun sc => .sLdAcq d a sc size off9
  | 0x19 => (scopeOf? scope).map fun sc => .sStRel d a sc size off9
  | 0x1A => some (.sLdk d a size off9)
  | 0x1C => (atomOf? (w.extractLsb' 24 4)).map fun op => .sAtomW op (orderOf (w.extractLsb' 28 4)) d a b
  | 0x1D => (atomOf? (w.extractLsb' 24 4)).map fun op => .sAtomD op (orderOf (w.extractLsb' 28 4)) d a b
  | 0x1E => (scopeOf? (w.extractLsb' 26 3)).bind fun sc =>
      match (w.extractLsb' 24 2).toNat with
      | 1 => some (.sFenceAcq sc)
      | 2 => some (.sFenceRel sc)
      | 3 => some (.sFenceAr sc)
      | _ => none
  | 0x20 => some (.sB z (w.getLsbD 9) off22)
  | 0x21 => some (.sCall z (w.getLsbD 9) off22)
  | 0x22 => some (.sBz a imm)
  | 0x23 => some (.sLoop d imm)
  | 0x24 => match fn.toNat with
      | 0x00 => some .sRet
      | 0x01 => some (.sJr a)
      | _ => none
  | 0x28 => some (.sLgo (w.extractLsb' 6 26))
  | 0x29 => some .sLwait
  | 0x2A => match fn.toNat with
      | 0x00 => some (.sBarInit a b)
      | 0x01 => some (.sBarArrive z a)
      | 0x02 => some (.sBarExpect a b)
      | 0x03 => some (.sBarWait a b)
      | _ => none
  | 0x2B => (counterOf? fn).map fun c => .sCntWait c a
  | 0x2C => match fn.toNat with
      | 0x00 => some (.sCp d a b)
      | 0x01 => some (.sCpMc d a b)
      | 0x02 => some (.sXf d a b)
      | 0x03 => some (.sCpG d a b)
      | 0x04 => some (.sPublish a)
      | 0x05 => some (.sQpush d a b)
      | 0x06 => some (.sDepDec a b)
      | 0x07 => some (.sPseal a)
      | _ => none
  | 0x2D => match fn.toNat with
      | 0x00 => some (.sOpbRsv d a)
      | 0x01 => some (.sOpbRel a)
      | 0x02 => some (.sMxLease d a)
      | 0x03 => some .sMxYield
      | _ => none
  | 0x2E => some (.sKget d (w.extractLsb' 18 12))
  | 0x2F => some (.sKput (w.extractLsb' 18 12) a)
  | 0x30 => some (.sTrap imm)
  | 0x31 => match fn.toNat with
      | 0x00 => some .sNop
      | 0x01 => some .sTret
      | 0x02 => some .sYield
      | 0x03 => some .sExit
      | _ => none
  | _ => none

/-- Decoding of a scalar word (R165, R438, R440). -/
def decodeScalar (w : BitVec 32) : Except Refused Instr :=
  match scalarForm? w with
  | some i => if encodeScalar i = some w ∧ wellFormed i = true then .ok i else .error (.reservedScalar w)
  | none => .error (.reservedScalar w)

/-! ## The lane word (R167) -/

/-- The word of a lane instruction from its MAJOR and fields. -/
def packLane (major : BitVec 8) (w : LaneWord) : BitVec 96 :=
  w.imm ++ w.rnd ++ BitVec.ofBool w.last ++ w.fep ++ w.modc ++ w.modb ++ w.moda ++ w.sc ++ w.sb ++ w.sa ++ w.dest
    ++ BitVec.ofBool w.neg ++ w.pred ++ w.sub ++ major

/-- The fields of a lane word (R167). -/
def unpackLane (w : BitVec 96) : LaneWord :=
  { sub := w.extractLsb' 8 4, pred := w.extractLsb' 12 4, neg := w.getLsbD 16, dest := w.extractLsb' 17 8,
    sa := w.extractLsb' 25 8, sb := w.extractLsb' 33 8, sc := w.extractLsb' 41 8, moda := w.extractLsb' 49 3,
    modb := w.extractLsb' 52 3, modc := w.extractLsb' 55 3, fep := w.extractLsb' 58 3, last := w.getLsbD 61,
    rnd := w.extractLsb' 62 2, imm := w.extractLsb' 64 32 }

/-- MAJOR of a lane instruction (R176); none for the others. -/
def laneMajor (i : Instr) : Option (BitVec 8) :=
  match i with
  | .vNop _ => some 0x1
  | .vNopMarker _ => some 0x1
  | .vBlk _ => some 0x2
  | .vLstop _ => some 0x3
  | .vTrap _ => some 0x4
  | .vBrk _ => some 0x5
  | .vAdd _ => some 0x10
  | .vSub _ => some 0x11
  | .vMul _ => some 0x12
  | .vMad _ => some 0x13
  | .vMin _ => some 0x14
  | .vMax _ => some 0x15
  | .vAbs _ => some 0x16
  | .vAnd _ => some 0x17
  | .vOr _ => some 0x18
  | .vXor _ => some 0x19
  | .vNot _ => some 0x1a
  | .vShl _ => some 0x1b
  | .vShr _ => some 0x1c
  | .vSra _ => some 0x1d
  | .vClz _ => some 0x1e
  | .vPopc _ => some 0x1f
  | .vBrev _ => some 0x20
  | .vBfe _ => some 0x21
  | .vBfi _ => some 0x22
  | .vBitint _ => some 0x23
  | .vCmp _ => some 0x24
  | .vSel _ => some 0x25
  | .vMov _ => some 0x26
  | .vMovi _ => some 0x27
  | .vLane _ => some 0x28
  | .vKget _ => some 0x29
  | .vFadd _ => some 0x30
  | .vFsub _ => some 0x31
  | .vFmul _ => some 0x32
  | .vFfma _ => some 0x33
  | .vFmin _ => some 0x34
  | .vFmax _ => some 0x35
  | .vFcmp _ => some 0x36
  | .vFclass _ => some 0x37
  | .vFrcp _ => some 0x38
  | .vFrsq _ => some 0x39
  | .vFsqrt _ => some 0x3a
  | .vFexp2 _ => some 0x3b
  | .vFlog2 _ => some 0x3c
  | .vFsin _ => some 0x3d
  | .vFcos _ => some 0x3e
  | .vFfloor _ => some 0x3f
  | .vFceil _ => some 0x40
  | .vFtrunc _ => some 0x41
  | .vFrnd _ => some 0x42
  | .vFfract _ => some 0x43
  | .vFdot2 _ => some 0x44
  | .vCvt _ => some 0x50
  | .vCvtN _ => some 0x51
  | .vCvtW _ => some 0x52
  | .vCvtEf _ => some 0x53
  | .vBfpPack _ => some 0x54
  | .vBfpUnpack _ => some 0x55
  | .vPack _ => some 0x56
  | .vUnpack _ => some 0x57
  | .vShflIdx _ => some 0x60
  | .vShflUp _ => some 0x60
  | .vShflDown _ => some 0x60
  | .vShflXor _ => some 0x60
  | .vBcast _ => some 0x61
  | .vVoteAll _ => some 0x62
  | .vVoteAny _ => some 0x62
  | .vVoteEq _ => some 0x62
  | .vVoteBallot _ => some 0x62
  | .vScan _ => some 0x63
  | .vRed _ => some 0x64
  | .vMatch _ => some 0x65
  | .vTosFirst _ => some 0x66
  | .vTosLane _ => some 0x66
  | .vTosMask _ => some 0x66
  | .vTosCount _ => some 0x66
  | .vLd _ => some 0x70
  | .vSt _ => some 0x71
  | .vLdSp _ => some 0x72
  | .vStSp _ => some 0x73
  | .vLdAcq _ => some 0x74
  | .vStRel _ => some 0x75
  | .vAtom _ => some 0x76
  | .vAtomSp _ => some 0x77
  | .vAred _ => some 0x78
  | .vStFf _ => some 0x79
  | .vPrefetch _ => some 0x7a
  | .vBr _ => some 0x80
  | .vBru _ => some 0x81
  | .vReconv _ => some 0x82
  | .vReconvW _ => some 0x83
  | .vCallRg _ => some 0x84
  | .vRetRg _ => some 0x85
  | .vRegroup _ => some 0x86
  | .vExit _ => some 0x87
  | .vKill _ => some 0x88
  | .vMxLds _ => some 0x90
  | .vMxSwap _ => some 0x91
  | .vMxMmaRf _ => some 0x92
  | .vMxMmaOpb _ => some 0x92
  | .vAccLd _ => some 0x93
  | .vAccMov _ => some 0x94
  | .vAccZero _ => some 0x95
  | .vAccDrain _ => some 0x96
  | .vAccDrainG _ => some 0x96
  | .vOpbPut _ => some 0x97
  | .vRast _ => some 0xa0
  | .vBin _ => some 0xa1
  | .vTexSmp _ => some 0xa2
  | .vTexLod _ => some 0xa3
  | .vTexGrad _ => some 0xa4
  | .vTexFetch _ => some 0xa5
  | .vTexGather _ => some 0xa6
  | .vTexDec _ => some 0xa7
  | .vExpPx _ => some 0xa8
  | .vExpPos _ => some 0xa9
  | .vTravRay _ => some 0xb0
  | .vTravRad _ => some 0xb0
  | .vTravKnn _ => some 0xb0
  | .vTravRng _ => some 0xb0
  | .vIsectBox _ => some 0xb1
  | .vIsectTri _ => some 0xb2
  | .sAdd _ _ _ => none
  | .sSub _ _ _ => none
  | .sMul _ _ _ => none
  | .sMulh _ _ _ => none
  | .sMulhu _ _ _ => none
  | .sDiv _ _ _ => none
  | .sDivu _ _ _ => none
  | .sRem _ _ _ => none
  | .sRemu _ _ _ => none
  | .sAnd _ _ _ => none
  | .sOr _ _ _ => none
  | .sXor _ _ _ => none
  | .sShl _ _ _ => none
  | .sShr _ _ _ => none
  | .sSra _ _ _ => none
  | .sMin _ _ _ => none
  | .sMinu _ _ _ => none
  | .sMax _ _ _ => none
  | .sMaxu _ _ _ => none
  | .sClz _ _ => none
  | .sCtz _ _ => none
  | .sPopc _ _ => none
  | .sBitint _ _ _ => none
  | .sBitdeint _ _ => none
  | .sSel _ _ _ _ _ => none
  | .sCmp _ _ _ _ => none
  | .sAddi _ _ _ => none
  | .sAndi _ _ _ => none
  | .sOri _ _ _ => none
  | .sXori _ _ _ => none
  | .sShli _ _ _ => none
  | .sShri _ _ _ => none
  | .sSrai _ _ _ => none
  | .sLui _ _ => none
  | .sCmpi _ _ _ _ => none
  | .sLdB _ _ _ => none
  | .sLdH _ _ _ => none
  | .sLdW _ _ _ => none
  | .sLdD _ _ _ => none
  | .sStB _ _ _ => none
  | .sStH _ _ _ => none
  | .sStW _ _ _ => none
  | .sStD _ _ _ => none
  | .sLdAcq _ _ _ _ _ => none
  | .sStRel _ _ _ _ _ => none
  | .sLdk _ _ _ _ => none
  | .sAtomW _ _ _ _ _ => none
  | .sAtomD _ _ _ _ _ => none
  | .sFenceAcq _ => none
  | .sFenceRel _ => none
  | .sFenceAr _ => none
  | .sB _ _ _ => none
  | .sCall _ _ _ => none
  | .sBz _ _ => none
  | .sLoop _ _ => none
  | .sRet => none
  | .sJr _ => none
  | .sLgo _ => none
  | .sLwait => none
  | .sBarInit _ _ => none
  | .sBarArrive _ _ => none
  | .sBarExpect _ _ => none
  | .sBarWait _ _ => none
  | .sCntWait _ _ => none
  | .sCp _ _ _ => none
  | .sCpMc _ _ _ => none
  | .sXf _ _ _ => none
  | .sCpG _ _ _ => none
  | .sPublish _ => none
  | .sQpush _ _ _ => none
  | .sDepDec _ _ => none
  | .sPseal _ => none
  | .sOpbRsv _ _ => none
  | .sOpbRel _ => none
  | .sMxLease _ _ => none
  | .sMxYield => none
  | .sKget _ _ => none
  | .sKput _ _ => none
  | .sTrap _ => none
  | .sNop => none
  | .sTret => none
  | .sYield => none
  | .sExit => none
  | .reservedEncoding _ _ => none
  | .fetchBeyondSection _ => none
  | .longLatencyReturn _ _ => none
  | .samplerResultReturn _ _ => none
  | .treeResultReturn _ _ => none
  | .accTransferComplete _ _ => none
  | .ffStoreDelivered _ _ => none
  | .tosWrite _ _ => none
  | .laneBlockStart _ => none
  | .roundEndExchange _ _ => none
  | .flockExchange _ _ _ => none
  | .predicateResolution _ _ => none
  | .reconvTimeout _ _ => none
  | .regroupCollectionClose _ _ => none
  | .regroupCollectionTimeout _ _ => none
  | .callFlockEnd _ => none
  | .barWaitComplete _ => none
  | .herdAdmit _ => none
  | .regionComplete _ => none
  | .completionAction _ => none
  | .completionRecordWrite _ => none
  | .preemptRequest _ => none
  | .herdSave _ => none
  | .herdRestore _ => none
  | .haltBoundFailure _ => none
  | .matrixEngineOperation _ => none
  | .copyTransferStart _ _ => none
  | .copyWordLand _ _ => none
  | .copyFaultSuspend _ _ => none
  | .faultRecordWrite _ => none
  | .sealDigest _ => none
  | .commonsRelease _ => none
  | .poolReturnRetry _ _ _ _ => none
  | .poolReturnStall _ _ _ _ => none
  | .doorbellWrite _ _ => none
  | .queueStep _ _ => none
  | .packetDispatch _ => none
  | .packetCopy _ => none
  | .packetSignal _ => none
  | .packetWait _ => none
  | .waitReread _ => none
  | .packetFork _ => none
  | .packetSeal _ => none
  | .packetPublish _ => none
  | .packetMigrate _ => none
  | .migrateMove _ => none
  | .packetNop _ => none
  | .depCounterDecrement _ _ _ _ => none
  | .quantumBoundary _ => none
  | .budgetCharge _ => none
  | .arbiterPromotion _ _ => none
  | .quiesce _ _ => none
  | .paddockQuiesced _ => none
  | .qstuck _ => none
  | .tlbinv1 _ _ => none
  | .fltctlRetry _ _ => none
  | .fltctlSkip _ _ => none
  | .fltctlEnterHandler _ _ => none
  | .fltctlEnd _ _ => none
  | .fltctlAbortDomain _ _ => none
  | .engctlResume _ _ => none
  | .engctlAbandon _ _ => none
  | .crel _ _ => none
  | .keyLoad _ _ _ => none
  | .placementEpoch _ => none
  | .frameMove _ => none
  | .orderedPacketSend _ => none
  | .orderedPacketArrival _ => none
  | .readRequestServe _ => none
  | .acquireCatchup _ => none
  | .deliveryReportSend _ _ => none
  | .deliveryReportReceive _ => none
  | .linkGroupReceive _ _ _ => none
  | .linkNakReceive _ _ _ => none
  | .linkResendTimeout _ _ _ => none
  | .linkRetrain _ _ => none
  | .linkDown _ _ => none
  | .fabricStall _ => none
  | .heartbeat _ _ => none
  | .dieRemoval _ => none
  | .resynchronisation => none
  | .boot _ => none
  | .dedupSecretReceive _ _ => none
  | .dieBringup _ => none
  | .clusterPowerUp _ _ => none
  | .matrixEngineEnable _ _ => none
  | .bootPeerTimeout _ => none
  | .imgBegin _ _ => none
  | .imgData _ _ _ => none
  | .imgEnd _ => none
  | .getVersion _ => none
  | .getCapabilities _ => none
  | .negotiateAlgorithms _ _ _ => none
  | .getDigests _ => none
  | .getCertificate _ _ _ _ => none
  | .challenge _ _ _ => none
  | .getMeasurements _ _ _ => none
  | .spdmUnsupportedRequest _ _ => none
  | .partitionCommitRequest _ => none
  | .prepareReport _ => none
  | .commitApply _ => none
  | .commitDone => none
  | .watchdogExpiry _ => none
  | .retentionSramUe _ _ => none
  | .snapctlArm _ _ => none
  | .snapctlFire _ => none
  | .snapshotAtCycle _ => none
  | .snapshotWideTrigger _ => none
  | .pwrcap _ _ => none
  | .powerSample _ => none
  | .powerCapUnmet _ => none
  | .eccCorrectable _ _ => none
  | .eccUncorrectable _ _ => none
  | .memoryScrub _ _ _ => none
  | .cqDescriptorRetest _ => none
  | .graphicsFaultReport _ _ _ => none
  | .registerWrite _ _ _ => none
  | .hostMemoryAccess _ => none
  | .completionQueueReread _ => none
  | .linkRetrainComplete _ _ _ => none
  | .modulePowerLoss => none
  | .rlimitWindow _ => none

/-- The word of a lane instruction; none for the others. -/
def encodeLane (i : Instr) : Option (BitVec 96) :=
  match laneShape i, laneMajor i with
  | some (w, _), some m => some (packLane m w)
  | _, _ => none

/-- The form that MAJOR and SUB, and for the matrix forms bit 0 or 15 of IMM, name (R175, R176, R238, R240, R243, R286,
R292, R342). -/
def laneForm? (major : BitVec 8) (w : LaneWord) : Option Instr :=
  match major.toNat with
  | 0x1 => if w.sub = 0 then some (.vNop w) else some (.vNopMarker w)
  | 0x2 => some (.vBlk w)
  | 0x3 => some (.vLstop w)
  | 0x4 => some (.vTrap w)
  | 0x5 => some (.vBrk w)
  | 0x10 => some (.vAdd w)
  | 0x11 => some (.vSub w)
  | 0x12 => some (.vMul w)
  | 0x13 => some (.vMad w)
  | 0x14 => some (.vMin w)
  | 0x15 => some (.vMax w)
  | 0x16 => some (.vAbs w)
  | 0x17 => some (.vAnd w)
  | 0x18 => some (.vOr w)
  | 0x19 => some (.vXor w)
  | 0x1a => some (.vNot w)
  | 0x1b => some (.vShl w)
  | 0x1c => some (.vShr w)
  | 0x1d => some (.vSra w)
  | 0x1e => some (.vClz w)
  | 0x1f => some (.vPopc w)
  | 0x20 => some (.vBrev w)
  | 0x21 => some (.vBfe w)
  | 0x22 => some (.vBfi w)
  | 0x23 => some (.vBitint w)
  | 0x24 => some (.vCmp w)
  | 0x25 => some (.vSel w)
  | 0x26 => some (.vMov w)
  | 0x27 => some (.vMovi w)
  | 0x28 => some (.vLane w)
  | 0x29 => some (.vKget w)
  | 0x30 => some (.vFadd w)
  | 0x31 => some (.vFsub w)
  | 0x32 => some (.vFmul w)
  | 0x33 => some (.vFfma w)
  | 0x34 => some (.vFmin w)
  | 0x35 => some (.vFmax w)
  | 0x36 => some (.vFcmp w)
  | 0x37 => some (.vFclass w)
  | 0x38 => some (.vFrcp w)
  | 0x39 => some (.vFrsq w)
  | 0x3a => some (.vFsqrt w)
  | 0x3b => some (.vFexp2 w)
  | 0x3c => some (.vFlog2 w)
  | 0x3d => some (.vFsin w)
  | 0x3e => some (.vFcos w)
  | 0x3f => some (.vFfloor w)
  | 0x40 => some (.vFceil w)
  | 0x41 => some (.vFtrunc w)
  | 0x42 => some (.vFrnd w)
  | 0x43 => some (.vFfract w)
  | 0x44 => some (.vFdot2 w)
  | 0x50 => some (.vCvt w)
  | 0x51 => some (.vCvtN w)
  | 0x52 => some (.vCvtW w)
  | 0x53 => some (.vCvtEf w)
  | 0x54 => some (.vBfpPack w)
  | 0x55 => some (.vBfpUnpack w)
  | 0x56 => some (.vPack w)
  | 0x57 => some (.vUnpack w)
  | 0x60 => match (w.sub.extractLsb' 0 3).toNat with
      | 0 => some (.vShflIdx w)
      | 1 => some (.vShflUp w)
      | 2 => some (.vShflDown w)
      | 3 => some (.vShflXor w)
      | _ => none
  | 0x61 => some (.vBcast w)
  | 0x62 => match w.sub.toNat with
      | 0 => some (.vVoteAll w)
      | 1 => some (.vVoteAny w)
      | 2 => some (.vVoteEq w)
      | 3 => some (.vVoteBallot w)
      | _ => none
  | 0x63 => some (.vScan w)
  | 0x64 => some (.vRed w)
  | 0x65 => some (.vMatch w)
  | 0x66 => match (w.sub.extractLsb' 0 3).toNat with
      | 0 => some (.vTosFirst w)
      | 1 => some (.vTosLane w)
      | 2 => some (.vTosMask w)
      | 3 => some (.vTosCount w)
      | _ => none
  | 0x70 => some (.vLd w)
  | 0x71 => some (.vSt w)
  | 0x72 => some (.vLdSp w)
  | 0x73 => some (.vStSp w)
  | 0x74 => some (.vLdAcq w)
  | 0x75 => some (.vStRel w)
  | 0x76 => some (.vAtom w)
  | 0x77 => some (.vAtomSp w)
  | 0x78 => some (.vAred w)
  | 0x79 => some (.vStFf w)
  | 0x7a => some (.vPrefetch w)
  | 0x80 => some (.vBr w)
  | 0x81 => some (.vBru w)
  | 0x82 => some (.vReconv w)
  | 0x83 => some (.vReconvW w)
  | 0x84 => some (.vCallRg w)
  | 0x85 => some (.vRetRg w)
  | 0x86 => some (.vRegroup w)
  | 0x87 => some (.vExit w)
  | 0x88 => some (.vKill w)
  | 0x90 => some (.vMxLds w)
  | 0x91 => some (.vMxSwap w)
  | 0x92 => if w.imm.getLsbD 0 then some (.vMxMmaOpb w) else some (.vMxMmaRf w)
  | 0x93 => some (.vAccLd w)
  | 0x94 => some (.vAccMov w)
  | 0x95 => some (.vAccZero w)
  | 0x96 => if w.imm.getLsbD 15 then some (.vAccDrainG w) else some (.vAccDrain w)
  | 0x97 => some (.vOpbPut w)
  | 0xa0 => some (.vRast w)
  | 0xa1 => some (.vBin w)
  | 0xa2 => some (.vTexSmp w)
  | 0xa3 => some (.vTexLod w)
  | 0xa4 => some (.vTexGrad w)
  | 0xa5 => some (.vTexFetch w)
  | 0xa6 => some (.vTexGather w)
  | 0xa7 => some (.vTexDec w)
  | 0xa8 => some (.vExpPx w)
  | 0xa9 => some (.vExpPos w)
  | 0xb0 => match w.sub.toNat with
      | 0 => some (.vTravRay w)
      | 1 => some (.vTravRad w)
      | 2 => some (.vTravKnn w)
      | 3 => some (.vTravRng w)
      | _ => none
  | 0xb1 => some (.vIsectBox w)
  | 0xb2 => some (.vIsectTri w)
  | _ => none

/-- Decoding of a lane word (R176, R439, R440). -/
def decodeLane (w : BitVec 96) : Except Refused Instr :=
  match laneForm? (w.extractLsb' 0 8) (unpackLane w) with
  | some i => if wellFormed i = true then .ok i else .error (.reservedLane w)
  | none => .error (.reservedLane w)

/-- The instruction that a fetched word stands for: a reserved word issues and raises its trap (R440). -/
def decodedScalar (w : BitVec 32) : Instr :=
  match decodeScalar w with
  | .ok i => i
  | .error _ => .reservedEncoding false (w.setWidth 96)

/-- As `decodedScalar`, for the lane stream. -/
def decodedLane (w : BitVec 96) : Instr :=
  match decodeLane w with
  | .ok i => i
  | .error _ => .reservedEncoding true w

/-- The little-endian bytes of a value (R4). -/
def bytesOf (n : Nat) (v : Nat) : List Byte :=
  match n with
  | 0 => []
  | n + 1 => BitVec.ofNat 8 v :: bytesOf n (v / 256)

/-- The value of little-endian bytes (R4). -/
def ofBytes : List Byte → Nat
  | [] => 0
  | b :: bs => b.toNat + 256 * ofBytes bs

/-- Decoding from the bytes of a section: four bytes a scalar word, twelve a lane word (R162, R167). -/
def decodeBytes (lane : Bool) (bs : List Byte) : Option (Instr × List Byte) :=
  let n := if lane then 12 else 4
  if bs.length < n then none
  else
    let v := ofBytes (bs.take n)
    let r := if lane then decodeLane (BitVec.ofNat 96 v) else decodeScalar (BitVec.ofNat 32 v)
    match r with
    | .ok i => some (i, bs.drop n)
    | .error _ => none

/-- The bytes of an instruction as its section holds them; none for a step of another agent. -/
def encode (i : Instr) : Option (List Byte) :=
  match encodeScalar i with
  | some w => some (bytesOf 4 w.toNat)
  | none => (encodeLane i).map fun w => bytesOf 12 w.toNat

/-- The instruction whose bits are `w`, numbered as the opcode table numbers them: words of at most 32 bits are scalar
words, longer ones lane words. -/
def decodeTableWord (nbits w : Nat) : Option Instr :=
  let lane := 32 < nbits
  (decodeBytes lane (bytesOf (if lane then 12 else 4) (w % 2 ^ nbits))).map (·.1)

end Sys2Proof
end

