-- ==== Sys2Proof/Config.lean ====
section
/-!
DEFINITION. The free values of the model: constants with no body, so that nothing can be proved about the value
they take. Each stands for a choice or a value that the manual leaves open; the assumption log names each one.
-/
namespace Sys2Proof.Config

/-- Which pending event acts next, or whether a stream issues (log entry 4; R103, R115: no rule orders the agents). -/
opaque pick : Nat → Nat

/-- How many CYCLE units of a die pass in one step (log entry 3; R23 fixes no length for a step). -/
opaque elapsed : Nat → Nat → Nat

/-- The key that orders the lanes of one atomic other than a fetch-and-add (log entry 13; R97, R257). -/
opaque laneKey : Nat → Nat → Nat

/-- A value that the manual calls undefined or leaves unstated, drawn afresh for every tick (log entry 15). -/
opaque freeWord : Nat → Word64

/-- The bytes of a FRAME value in the digest of a bellwether (R402 gives no width for them; log entry 37). -/
opaque frameBytes : Nat → List Byte

/-- The bytes of a control flit that its CRC covers beside the data flits: the manual gives them no layout (R466; log entry 41). -/
opaque controlBytes : BitVec 12 → BitVec 12 → Bool → List Byte

/-- The 32-byte data flits of the group in which a packet leaves a die: the manual gives them no layout (R13, R391, R466; log entry 41). -/
opaque flit : Nat → Nat → BitVec 256

/-- The module key-wrapping key fused at assembly, the same on every die (R401; log entry 16). -/
opaque moduleWrapKey : BitVec 256

/-- The die-unique fused secret from which a die's identity key is derived (R401; log entry 16). -/
opaque dieSecret : Nat → BitVec 256

/-- The random generator of die 0's shepherd, which draws the dedup secret (R401; log entry 16). -/
opaque randomDraw : Nat → BitVec 256

/-- Whether the Ed448 signature of a firmware image verifies against a die's fused key digest (R400; log entry 16). -/
opaque imageVerifies : Nat → List Byte → Bool

/-- The identity key derived from a die-unique secret (R401; log entry 16). -/
opaque identityKey : BitVec 256 → BitVec 256

/-- The Ed448 signature of a message under an identity key (R402; log entry 16). -/
opaque signature : BitVec 256 → List Byte → List Byte

/-- The contents of a die's boot ROM, of which only the digest is ever read (R400; log entry 16). -/
opaque romImage : Nat → List Byte

/-- The contents a die's boot flash holds when the module is first powered (R400; log entry 16). -/
opaque flashImage : Nat → List Byte

/-- The certificate chain stored in a die's flash (R401; log entry 16). -/
opaque certificateChain : Nat → List Byte

/-- The power in watts that a die draws when its shepherd samples it, by die and tick (R405; log entry 17). -/
opaque powerReading : Nat → Nat → BitVec 11

/-- What a core writes at a byte of a save, whose layout no rule gives, by tick and address (R371; log entry 34). -/
opaque saveByte : Nat → Nat → BitVec 8

/-- What a shepherd reads of a sector rail: voltage, current and temperature, by die, sector and tick (R405; log entry 17). -/
opaque railReading : Nat → Nat → Nat → BitVec 48

end Sys2Proof.Config
end

