-- ==== Sys2Proof/Machine/State.lean ====
section
/-!
DEFINITION. The state of the module as plain data: everything the manual gives it, and the machine right after
reset. INVENTORY.md lists each piece with its rule and its reset value.

Two conventions hold throughout. A sparse map is a list of pairs in strictly rising key order; the memories list no
byte that holds its default value, so that equal memories are equal lists. A register the manual numbers or that software
reads whole is a bit vector; the accessors of Ops.lean name its fields.
-/
namespace Sys2Proof.Machine

/-- A sparse map from keys to values (see the header of this file). -/
abbrev SMap (α : Type) := List (Nat × α)

/-- Why the machine stops. -/
inductive Fault where
  /-- A flock instruction was executed in a state in which no stream of a live flock is issuing. Raised by every
  scalar and lane meaning, never reached through `step`. Safe: the machine stops where the manual has no machine. -/
  | noIssuer
deriving DecidableEq, Repr

/-- Why an instruction has no meaning. -/
inductive Refusal where
  /-- The dispatch holds no meaning for the instruction yet. Safe. -/
  | notModelled (mnemonic : String)
deriving DecidableEq, Repr

/-! ## Flocks -/

/-- An entry of the lane queue: the block's header index and its read mask (R32 to R34). -/
structure QEntry where
  target : Nat
  mask : Word64
  running : Bool
deriving DecidableEq, Repr

/-- An open entry of the divergence stack (R48 to R52, R262 to R265). -/
structure Entry where
  id : Nat
  rpoint : Nat
  members : LaneMask
  arm : Nat
  outermost : Bool
  /-- CYCLE at which a wait at `v.reconv.w` expires, the fallback index and the q destination; none while no such
  wait runs. -/
  timer : Option (Word64 × Nat × Nat)
  /-- Index of the `v.reconv.w` at which the entry timed out. -/
  timedOut : Option Nat
deriving DecidableEq, Repr

/-- What an executing path is doing. -/
inductive PathStatus where
  /-- May issue. -/
  | ready
  /-- A serialised sub-arm that waits for its sibling (R49). -/
  | pending
  /-- An unconfirmed path that issues nothing further until its branch resolves (R54, R55, R419). -/
  | unresolved
  /-- Its lanes are with the regrouping unit or in call flocks (R62). -/
  | away
  /-- Its lanes have arrived at the point of its innermost entry (R51, R264). -/
  | arrived
  /-- It has reached `v.lstop` (R260). -/
  | stopped
deriving DecidableEq, Repr

/-- What a lane register held: its value, whether it was poisoned, and whether its poison arose in a register (R464, R465). -/
structure OldReg where
  value : Word32
  poison : Bool
  born : Bool
deriving DecidableEq, Repr

/-- A lane instruction that a path issued under an unconfirmed mask (R55 to R57): its index; for one whose effect is held, the lane
registers and predicates that it read; the FLAGS bits that its lanes raise; the identifiers, from `firstOp` up to `nextOp`, of the
operations it started; the lane registers that it overwrote and the predicates, as they stood before it; the bytes of memory that it read; and
whether it read a scratchpad or was an acquire. -/
structure Issued where
  pc : Nat
  held : Option (SMap Word32 × List LaneMask)
  flags : List (Nat × Word64)
  firstOp : Nat
  nextOp : Nat
  undo : SMap OldReg
  q : List LaneMask
  reads : List (Nat × Nat)
  scratch : Bool
  acquire : Bool
deriving DecidableEq, Repr

/-- A predicted arm (R54): the branch that it waits for, whether it is the taken arm, and what it has issued. -/
structure Guess where
  branch : Nat
  taken : Bool
  log : List Issued
deriving DecidableEq, Repr

/-- An instruction that a resolved arm issues again (R57): its index; the lanes it acts for; for one whose effect was held the registers and
predicates with which it was issued; the lanes `from_` of the arm that had been predicted right; the FLAGS bits that those raise once it has
issued again; and what the arm has issued from it on. -/
structure Redo where
  pc : Nat
  lanes : LaneMask
  held : Option (SMap Word32 × List LaneMask)
  from_ : LaneMask
  flags : Word64
  rest : List Issued
deriving DecidableEq, Repr

/-- An executing path of the lane stream. `entries` names its open divergence entries, innermost first. -/
structure Path where
  id : Nat
  pc : Nat
  mask : LaneMask
  arm : Nat
  entries : List Nat
  status : PathStatus
  /-- The prediction under which the path issues; none for a confirmed mask. -/
  guess : Option Guess := none
  /-- What the path replays before it goes on at `after`. -/
  redo : List Redo := []
  after : Nat := 0
  /-- The index at which the path's fault was held (R419). -/
  heldFault : Option Nat := none
deriving DecidableEq, Repr

/-- A predicted branch whose predicate has not resolved (R53 to R58): the path as it stood at the branch, the taken set, target and
reconvergence index, and whether that index holds a `v.reconv.w`. -/
structure Branch where
  path : Path
  taken : LaneMask
  target : Nat
  point : Nat
  atWait : Bool
deriving DecidableEq, Repr

/-- A flashback point (R67): where its marker stands, what its table entry holds, and the control state there. `nextId` tells
operations issued later from earlier ones. -/
structure FlashPoint where
  lidx : Nat
  live : BitVec 192
  liveQ : BitVec 15
  first : Nat
  count : Nat
  mask : LaneMask
  depth : Nat
  primary : BitVec 16
  second : BitVec 16
  fpmode : Word64
  last : LaneMask
  nextId : Nat
deriving DecidableEq, Repr

/-- One result of a long-latency operation: a register, and the value that will fill it once it is known. -/
structure Piece where
  scalar : Bool
  reg : Nat
  lane : Nat
  /-- The value fills the pair `reg`, `reg + 1`. -/
  wide : Bool
  /-- Width in bits from which the value is sign-extended. -/
  sext : Option Nat
  loc : Option Loc
  /-- Pieces that one reply fills, and what each adds to the value that returns (R97). -/
  group : Nat
  addend : Word64
  bytes : Nat
  value : Option Word64
  poison : Bool
  /-- Address of the access and whether it is an atomic, for a record of poison (R465). -/
  addr : Nat
  atomic : Bool
  /-- The number of the reply that brings the value from another die (R472). -/
  reply : Option Nat := none
  /-- The upper word of the value fills `reg`: the even register of the pair is lost (R70, R491). -/
  high : Bool := false
  /-- The issuing core's L1, or its die's remote-data cache, has been invalidated since the access: its reply fills it no more (R86, R88, R109). -/
  noL1 : Bool := false
  noRdc : Bool := false
deriving DecidableEq, Repr

/-- A long-latency operation in flight (R45, R93). -/
structure Op where
  id : Nat
  counter : Option Counter
  lidx : Nat
  pieces : List Piece
  /-- Ordered packets of the operation that are not yet performed at their home. -/
  packets : Nat
  /-- The operation is an acquire at this scope. -/
  acq : Option Scope
  /-- Floating-point flags ORed into FLAGS when a drain ends. -/
  flags : BitVec 5
  /-- The producer is a `v.tos` (R36). -/
  tos : Bool
  /-- Its registers are written; only earlier operations of its path hold its counter up. -/
  written : Bool
  /-- Its replies on the links (R390). -/
  replies : List Nat
deriving DecidableEq, Repr

/-- The scalar stream waits at a barrier object as a registered waiter (R207). -/
structure BarWait where
  addr : BitVec 32
  phase : BitVec 16
deriving DecidableEq, Repr

/-- A lane of a call flock: whose lane it is, and where its results go (R266 to R269). -/
structure CallLane where
  lane : Nat
  flock : Nat
  path : Nat
  callerLane : Nat
  base : Nat
  results : Nat
deriving DecidableEq, Repr

/-- Where a trap was taken. -/
inductive TrapSite where
  | scalar
  /-- An `s.loop` with this counter whose target is bad: a skip of it counts down and goes on (R201, R445). -/
  | loop (counter : Nat)
  /-- An instruction of the path; for a `v.reconv.w`, its q destination and fallback index. -/
  | lane (path : Nat) (wait : Option (Nat × Nat))
  /-- A `v.br` of the path: a skip of it clears L, as a branch that no lane takes does (R59, R425). -/
  | branch (path : Nat)
  | blockStart
  | callForm (path : Nat)
  | recipe
deriving DecidableEq, Repr

/-- What a waiting `s.qpush` has done (R313): the slot it has claimed, where the descriptor and that slot lie, the packet image as it stood at
the claim (log entry 80), and whether the packet is written. -/
structure Claim where
  slot : Nat
  queue : Loc
  place : Loc
  image : List Byte
  written : Bool
deriving DecidableEq, Repr

/-- Whether a flock runs, is halted by a trap, or has ended (R422 to R426, R212). -/
inductive FlockMode where
  | running
  | held
  | ended
deriving DecidableEq, Repr

/-- A flashback recipe being run on resume (R68, R70, R435): the rewound path, its marker's index, the recipe code word to issue
next, the words left, the whole run, and the FPMODE to put back. -/
structure RecipeRun where
  path : Nat
  marker : Nat
  index : Nat
  left : Nat
  first : Nat
  count : Nat
  fpmode : Word64
deriving DecidableEq, Repr

/-- One flock (R27 to R29, R154, R420). -/
structure Flock where
  uid : Nat
  herd : Nat
  core : Nat
  slot : Nat
  datapath : Nat
  inherd : Nat
  herdid : BitVec 32
  lanes : Nat
  regs : Nat
  mode : FlockMode
  -- registers
  s : SMap Word64
  sEmpty : List Nat
  sPoison : List Nat
  v : SMap Word32
  vEmpty : List Nat
  vPoison : List Nat
  q : List LaneMask
  z : BitVec 7
  -- streams
  spc : Nat
  queue : List QEntry
  active : LaneMask
  parked : LaneMask
  killed : LaneMask
  paths : List Path
  entries : List Entry
  branches : List Branch
  nextId : Nat
  /-- Which stream is tried first at the flock's next turn: 0 the scalar one, 1 the lanes. -/
  nextStream : Nat
  /-- The flock has a ready instruction, as the scheduler last found (R40, R42). -/
  ready : Bool
  last : LaneMask
  -- k-registers
  primary : BitVec 16
  second : BitVec 16
  fpmode : Word64
  flags : Word64
  tcause : Word64
  tpc : Word64
  taddr : Word64
  tinfo : Word64
  tvec : Word64
  tret : Word64
  tscr0 : Word64
  tscr1 : Word64
  -- in flight
  ops : List Op
  bar : Option BarWait
  point : Option FlashPoint
  site : Option TrapSite
  /-- The claims of waiting `s.qpush` instructions, by scalar index and handler mode. -/
  claims : SMap Claim
  /-- Where the scalar stream stood when the trap being handled was taken. -/
  haltSpc : Nat
  /-- The paths whose next issue reads empty sources under the blocking policy (R425). -/
  block1 : List Nat
  call : Option (List CallLane)
  /-- The first flock in a call flock's sort order, whose k-registers it reads (R268). -/
  kflock : Option Nat
  /-- A later access follows the operations below the first number, and the packets of its die below the second: those of arms that
  have closed and of callers or call flocks (R105, R113, R118). -/
  orderedAfter : Nat
  sentAfter : Nat
  /-- Address and kind of the most recent access that returned poison, and the scalar and lane registers whose poison arose in the register
  itself or in a tile (R465). -/
  poisonAddr : Word64
  poisonKind : BitVec 2
  sBorn : List Nat
  vBorn : List Nat
  recipe : Option RecipeRun
deriving DecidableEq, Repr

/-! ## Herds and their matrix contexts -/

/-- The format under which a plane was loaded (R277). -/
structure PlaneFmt where
  fmt : Nat
  sgn : Bool
  blk : Bool
  mant : Nat
  soff : Int
deriving DecidableEq, Repr

/-- A stationary plane: its latched format and the bytes of its rows (R277). -/
structure Plane where
  form : PlaneFmt
  rows : SMap (List Byte)
  poison : List Nat
deriving DecidableEq, Repr

/-- The fields of a drain (R292): the multipliers' handle is none without MUL. -/
structure Drain where
  tile : Nat
  c0 : Nat
  n : Nat
  zp : Int
  handle : Option Nat
  sh : Nat
  sat : Bool
  target : Nat
  global : Bool
deriving DecidableEq, Repr

/-- What a matrix operation in a context queue does, with the operands it read at issue (R286 to R293). -/
inductive MxKind where
  | lds (handle srow : Nat)
  | swap
  /-- A rows of the register form, one per lane: lane and 64 bytes. -/
  | mmaRf (tile : Nat) (fmt : Nat) (sat : Bool) (rows : List (Nat × List Byte))
  /-- A row numbers of the operand-buffer form, one per lane. -/
  | mmaOpb (tile : Nat) (handle : Nat) (sat : Bool) (rows : List (Nat × Nat))
  | accLd (tile c0 n : Nat) (vals : List (Nat × List Word32))
  | accMov (tile c0 n : Nat) (lanes : List Nat)
  | accZero (tile : Nat)
  /-- A drain: its lanes with the locations of their output words, none in the register form. -/
  | drain (d : Drain) (lanes : List (Nat × List Loc))
  /-- Bytes for the reservation, one run per lane, each with its offset. -/
  | put (handle : Nat) (rows : List (Nat × List Byte))
deriving DecidableEq, Repr

/-- A matrix operation in a context queue (R274, R283): its herd and context, the flock, slot, path, arm and lane index that
issued it with the outermost divergence entry then open, and the flock's operation that its end completes. -/
structure MxOp where
  herd : Nat
  ctx : Nat
  flock : Nat
  slot : Nat
  path : Nat
  arm : Nat
  top : Option Nat
  lidx : Nat
  op : Option Nat
  kind : MxKind
deriving DecidableEq, Repr

/-- A matrix context of a herd: accumulator bank and planes (R274). The issue-time formats are those that
`v.mx.lds` and `v.mx.swap` leave in issue order (R288). -/
structure Ctx where
  tiles : SMap Word32
  tilePoison : List Nat
  active : Plane
  shadow : Plane
  issueActive : PlaneFmt
  issueShadow : PlaneFmt
deriving DecidableEq, Repr

/-- A path's lanes handed to the regrouping unit (R60, R266). -/
structure Arrival where
  flock : Nat
  path : Nat
  keys : List (Nat × BitVec 16)
  base : Nat
  n : Nat
  results : Nat
  target : Nat
  regs : Nat
deriving DecidableEq, Repr

/-- An open collection of the regrouping unit (R60). -/
structure Collection where
  id : Nat
  site : Nat
  herd : Nat
  deadline : Word64
  /-- It takes no more lanes; those that it holds await room for their call flocks. -/
  closed : Bool
  arrivals : List Arrival
deriving DecidableEq, Repr

/-- Whether a herd is on a core, halted and awaiting its save, or saved (R369 to R371). -/
inductive HerdStatus where
  | resident
  | halting
  | saved
deriving DecidableEq, Repr

/-- One herd (R37, R73, R275). -/
structure Herd where
  uid : Nat
  region : Nat
  session : Nat
  herdid : BitVec 32
  core : Nat
  /-- Its core's place in the cluster, which a saved herd keeps until it is restored (R73, R316). -/
  seat : Nat
  gang : Option Nat
  status : HerdStatus
  abort : Bool
  haltAt : Word64
  spadSize : Nat
  spad : List Host.Cell
  spadPoison : List Nat
  opbSize : Nat
  /-- First byte of the herd's allotment in its core's operand buffer (R275). -/
  opbAt : Nat
  opb : List Host.Cell
  opbPoison : List Nat
  rsv : SMap Word64
  ctxPhys : List Nat
  ctxs : List Ctx
  /-- Closed collections of a saved herd whose lanes have still to form call flocks (R269). -/
  calls : List Collection
  /-- CYCLE of its die when its budget pool was last charged, or for a saved herd how long it was resident since then (R355). -/
  charged : Nat
  /-- First byte of a saved herd's save (R371). -/
  savedAt : Option Nat
deriving DecidableEq, Repr

/-! ## Cores -/

/-- An entry of the mask predictor: tag and one 2-bit code per mask word (R53). -/
structure PredEntry where
  tag : BitVec 7
  codes : List (BitVec 2)
deriving DecidableEq, Repr

/-- The four forms of copy command (R301). -/
inductive CopyKind where
  | cp | mc | xf | g
deriving DecidableEq, Repr

/-- A valid shadow-window descriptor of a session: its place in the context, its range and its SHADOW table (R311, R372). -/
structure Window where
  index : Nat
  base : Nat
  len : Nat
  shadow : Nat
deriving DecidableEq, Repr

/-- A word of a copy command that has yet to land (R307, R309): its place in a herd's scratchpad or in memory, its bytes, poison,
and the herd and offset of the barrier object that counts it. -/
structure CopyWord where
  herd : Option Nat
  addr : Nat
  loc : Option Loc
  bytes : List Byte
  poison : Bool
  bar : Option (Nat × Nat)
deriving DecidableEq, Repr

/-- A command in a core's engine queue (R303, R307, R456). `rows` holds source rows that a TRANSPOSE has read, each byte with its
poison; `windows` the shadow windows as they stood at acceptance. -/
structure CopyCmd where
  id : Nat
  entry : Nat
  kind : CopyKind
  flock : Nat
  herd : Nat
  region : Nat
  session : Nat
  cmd : Word64
  src : Nat
  dst : Nat
  layoutRec : BitVec 512
  windows : List Window
  op : Option Nat
  started : Bool
  row : Nat
  rows : List (List (Byte × Bool))
  words : List CopyWord
  flags : BitVec 5
  suspended : Bool
  /-- The fault record of a suspension, but for its cause and address (R456). -/
  report : FaultRecord
deriving DecidableEq, Repr

/-- One datapath: its active slots, its pending flocks with the rounds each has been ready, and the
round-robin pointer (R41, R42). -/
structure Datapath where
  active : List (Option Nat)
  pending : List (Nat × Nat)
  pointer : Nat
  /-- The flocks of the active set, the longest resident first (R42). -/
  order : List Nat
deriving DecidableEq, Repr

/-- A line of an L2 slice or a remote-data cache: line address, slice, set, way, the session that filled it (none for
a commons line), its key slot and paddock, the valid and dirty bits of its 64-byte sectors, and the presence bits of the
clusters whose L1s may hold parts of it. A line of a remote-data cache holds its 256 bytes and the poison of its sectors; those of
an L2 line are the module's memory contents themselves. Lists of lines run from the least to the most recent (R87, R88, R98 to
R101). -/
structure Line where
  pa : Nat
  slice : Nat
  set : Nat
  way : Nat
  session : Option Nat
  keyslot : Nat
  paddock : Nat
  valid : BitVec 4
  dirty : BitVec 4
  presence : BitVec 24
  poison : BitVec 4
  bytes : List Byte
  /-- For a line of a page table that a walk has brought to a remote-data cache, the PASID of the walk. -/
  table : Option Nat
deriving DecidableEq, Repr

/-- A 64-byte line of a core's L1 data cache (R86). -/
structure L1Line where
  pa : Nat
  commons : Bool
  keyslot : Nat
  poison : Bool
  bytes : List Byte
deriving DecidableEq, Repr

/-- A TLB copy of a translation: PASID, page size, virtual page base and the whole entry (R81). -/
structure TlbEntry where
  pasid : Nat
  size : Nat
  page : Nat
  entry : BitVec 128
deriving DecidableEq, Repr

/-- A validated decoder table in a sampler: the physical address of its first byte, the PASIDs and virtual addresses under which it has been
used, and its bytes (R336). -/
structure DecoderEntry where
  pa : Nat
  users : List (Nat × Nat)
  bytes : List Byte
deriving DecidableEq, Repr

/-- The state of one core. -/
structure Core where
  powered : Bool
  engineOn : Bool
  excluded : Bool
  /-- A hardware fault keeps the core's flocks from halting (R481). -/
  stuck : Bool
  predictor : SMap PredEntry
  predSession : Option Nat
  l1 : List L1Line
  tlb : List TlbEntry
  engine : List CopyCmd
  mxq : List MxOp
  /-- The context queue, by herd and context, from which the matrix engine took its last operation (R297). -/
  mxTurn : Nat × Nat
  /-- The leasing herd and the operations left (R298). -/
  lease : Option (Nat × Nat)
  /-- For a herd whose lease has ended, the operations of other herds that its next lease still waits for. -/
  leaseDebt : SMap Nat
  collections : List Collection
  datapaths : List Datapath
  /-- Validated decoder tables, from the least to the most recent (R336). -/
  decoders : List DecoderEntry
  rlimit : SMap Nat
  /-- CYCLE at which the present RLIMIT window ends (R366). -/
  rlimitEnd : Option Word64
  /-- CYCLE of the last report of a sampler fault and of a tree fault, and the regions reported (R484). -/
  lastSamplerReport : Option Word64
  lastTreeReport : Option Word64
  samplerRegions : List Nat
  treeRegions : List Nat
deriving DecidableEq, Repr

/-! ## Dies -/

/-- A dependence counter (R357). -/
structure DepCounter where
  count : BitVec 16
  reload : BitVec 16
  session : Nat
  node : Nat
  /-- Its storage has failed: a decrement that meets this is discarded (R464; log entry 108). -/
  poison : Bool := false
deriving DecidableEq, Repr

/-- A hash-directory entry (R378). -/
structure DirEntry where
  bucket : Nat
  index : Nat
  digest : Word64
  title : Word64
  frame : Nat
  refcnt : Nat
  collided : Bool
deriving DecidableEq, Repr

/-- A placement record of a 64 KiB region (R387). -/
structure PlaceRec where
  region : Nat
  counts : List (BitVec 8)
  session : Nat
  va : Nat
deriving DecidableEq, Repr

/-- The fabric state of one virtual network at one die (R392, R398). -/
structure Net where
  k : List (BitVec 16)
  d : List (BitVec 16)
  a : List (BitVec 16)
  sentK : List (List (BitVec 16))
  early : List FabPacket
  /-- The waiting packets that lie in the entries set aside for their sources (R469). -/
  aside : List Nat
  /-- Deliveries from each source not yet reported (R397). -/
  delivered : List Nat
  /-- CYCLE from which the next report is due at the latest. -/
  reportAt : Word64
  /-- For each destination the CYCLE since which the wait of R394 lasts, and at the die's own place that since which the early-packet
  buffer has been full; with it, whether the stall has been counted (R470). -/
  stall : List (Option (Word64 × Bool))
deriving DecidableEq, Repr

/-- A taken packet slot of a link's input port (R391): its packet, network and class, whether the slot is of the shared pool, and
whether the packet has arrived in it. -/
structure PortSlot where
  id : Nat
  net : Nat
  cls : MsgClass
  pooled : Bool
  here : Bool
deriving DecidableEq, Repr

/-- One end of a Ryuzo link (R391, R466, R467): the next sequence numbers to expect and to send, the last groups sent with the CYCLE of
their last sending, the data flits accepted, the failures counted, the packets that wait to be sent on it, the slots of its input port,
and the session that its arbiter served last. -/
structure Link where
  up : Bool
  training : Bool
  expect : BitVec 12
  sent : BitVec 12
  replay : List (LinkGroup × Word64)
  received : List (List (BitVec 256))
  fails : Nat
  retrains : Nat
  firstFail : Option Word64
  outbox : List Parcel
  slots : List PortSlot
  served : Nat
deriving DecidableEq, Repr

/-- A packet that waits at the arbiter of its die's fabric interface (R366). -/
structure ArbRequest where
  id : Nat
  session : Nat
  interactive : Bool
  since : Word64
  promoted : Bool
deriving DecidableEq, Repr

/-- What a shepherd is doing (R400, R485). -/
inductive ShepMode where
  | reset
  | running
  | recovery
deriving DecidableEq, Repr

/-- A journal record of the partition commit (R403). -/
structure Journal where
  seq : BitVec 32
  state : BitVec 2
  padmask : BitVec 8
  commons : Bool
deriving DecidableEq, Repr

/-- A shepherd with its retention SRAM and boot flash (R399 to R403, R471, R487, R488). `staged` is a commit in progress with
its SEQ: a layout change, or with none the removal of a die or link; `image` a partial recovery image with its length, `ready` its ready message, `started` and `beat` the CYCLE at which its
firmware started and that of its last heartbeat. -/
structure Shepherd where
  mode : ShepMode
  flash : List Byte
  romDigest : Option (BitVec 512)
  imageDigest : Option (BitVec 512)
  vaultKey : Option (BitVec 256)
  dedup : Option (BitVec 256)
  identity : Option (BitVec 256)
  journal : Journal
  staged : Option (BitVec 32 × Option LayoutChange)
  missed : Nat
  image : Option (Nat × List Byte)
  ready : Bool
  started : Word64
  beat : Word64
deriving DecidableEq, Repr

/-- A sample of a sector rail: voltage, current and temperature (R405). -/
structure RailReading where
  volts : BitVec 16
  amps : BitVec 16
  celsius : BitVec 16
deriving DecidableEq, Repr

/-- A die (R11, R12). -/
structure Die where
  -- time and bring-up: steps done (R25), and the CYCLE before which no further cluster is powered and no further engine enabled
  cycle : Word64
  stage : Nat
  nextPower : Word64
  nextEngine : Word64
  clusters : BitVec 24
  engines : BitVec 24
  -- cache control and caches
  maps : List MapReg
  mapc : MapReg
  gateClosed : Bool
  l2 : List Line
  rdc : List Line
  xbar : List (Nat × Nat)
  tlb2 : SMap (List TlbEntry)
  -- key slots
  keys : SMap (BitVec 512)
  -- privileged registers
  sessbase : Word64
  cpool : Word64
  dirstat0 : Word64
  dirstat1 : Word64
  dirstat2 : Word64
  ptest : List Bool
  eccstat : Word64
  eccaddr : Word64
  fabstat : Word64
  tlbinv0 : Word64
  tlbinv1 : Word64
  fltctl : Word64
  engctl : Word64
  snapctl : Word64
  snapat : Word64
  snapcyc : Word64
  /-- The snapshot registers, by block and place in it; an unlisted one reads 0 (R404; log entry 46). -/
  snapshot : SMap Word64
  pwrcap : Word64
  pwrnow : Word64
  /-- CYCLE of the shepherd's next sample, what the die drew at the last one, module power at the last hundred, and the readings of the three
  sector rails (R405). -/
  sampleAt : Word64
  draw : Nat
  samples : List Nat
  rails : List RailReading
  /-- Steps by which each sector rail stands below 650 mV (R22, R26). -/
  railSteps : List Nat
  /-- Clock steps below the fastest of each unlocked cluster (R22, R26). -/
  slowed : SMap Nat
  /-- CYCLE since which module power has been above the cap with every unlocked cluster at its lowest clock (R479). -/
  aboveSince : Option Word64
  -- task scheduler
  counters : SMap DepCounter
  -- directory and placement
  directory : List DirEntry
  poisonedBuckets : List Nat
  placement : List PlaceRec
  epochSums : List (Nat × Nat)
  epochAt : Word64
  -- fabric
  live : Bool
  nets : List Net
  links : List Link
  arbiter : List ArbRequest
  /-- The session that the arbiter served last (R366). -/
  served : Nat
  /-- The lines that the caches of host complexes hold, as the home slices' snoop filter knows them (R20). -/
  snoop : List Nat
  shepherd : Shepherd
deriving DecidableEq, Repr

/-! ## Regions, queues and paddocks -/

/-- The fields of an RCB, read once at dispatch (R354, R355). -/
structure Rcb where
  addr : Nat
  parent : Nat
  ovrBudget : Bool
  ovrPrio : Bool
  ovrDomain : Bool
  leaf : Bool
  gang : Bool
  prio : Nat
  domain : BitVec 16
  budget : Nat
  scode : Nat
  lcode : Nat
  sentry : Nat
  lentry : Nat
  slen : Nat
  llen : Nat
  herds : Nat
  flocks : Nat
  lanes : Nat
  regs : Nat
  spad4k : Nat
  acc : Nat
  opbg : Nat
  karg : Nat
  klen : Nat
  layout : Nat
  lcount : Nat
  recipe : Nat
  rcount : Nat
  cact : Nat
  ctr : Nat
  cdie : Nat
  tag : Word64
deriving DecidableEq, Repr

/-- A region that has been dispatched and has not completed (R356). -/
structure Region where
  uid : Nat
  session : Nat
  rcb : Rcb
  prio : Nat
  domain : BitVec 16
  pool : Nat
  poolTag : Word64
  poolDomain : BitVec 16
  /-- BUDGET of the pool's node, read at dispatch. -/
  budget : Nat
  /-- Registers of the largest callee, for which each herd reserves a call flock (R61); 0 with no call. -/
  callRegs : Nat
  nextHerd : Nat
  exhausted : Bool
  status : Nat
  /-- Queue and slot of its DISPATCH packet; none when a counter readied it. -/
  origin : Option (Nat × Nat)
  die : Nat
deriving DecidableEq, Repr

/-- The queue processor's state for one queue of a session (R347, R348, R351, R476). -/
structure QState where
  session : Nat
  q : Nat
  db : Nat
  stopped : Bool
  missPosted : Bool
  /-- Slots consumed and not started, in slot order. -/
  unstarted : List Nat
  /-- Slots started and not completed. -/
  running : List Nat
  waiting : Bool
  records : Nat
  /-- Slots of FORK packets that have claimed their child and are copying its tables (R482). -/
  forks : List Nat := []
deriving DecidableEq, Repr

/-- A paddock: its committed descriptor, its control register and the scheduler's record of the quantum (R358 to R365). -/
structure Paddock where
  desc : PaddockDesc
  next : Option PaddockDesc
  quiesce : Bool
  quiesced : Bool
  quiesceAt : List Word64
  /-- QUIESCE has been cleared and no quantum boundary has passed since (R359). -/
  resuming : Bool
  pclock : List Word64
  /-- What PCLOCK of each die has still to count (R360). -/
  prest : List Nat
  floorGiven : List Nat
  reassigned : List Nat
  held : List Nat
  /-- RLIMIT and TOKENS of each session as they stood at the last boundary, with what has been charged since (R373). -/
  sched : SMap (Nat × Int)
  /-- CYCLE of the scheduler's die at which the present quantum ends. -/
  boundary : Word64
deriving DecidableEq, Repr

/-- The paddock descriptors and set-group maps as the last commit left them (R402, R403). -/
structure CommittedLayout where
  descs : List PaddockDesc
  maps : List MapReg
  mapc : MapReg
deriving DecidableEq, Repr

/-- A reply of the management port (R402, R488, R489). -/
inductive MgmtReply where
  | status (code : Nat)
  | version
  | capabilities
  | algorithms (ok : Bool)
  | digests (d : List Byte)
  | certificate (c : List Byte)
  | auth (d sig : List Byte)
  | measurements (count : Nat) (blocks : List (Nat × List Byte)) (sig : List Byte)
  | errorUnsupported
  | errorInvalid
  | errorUnspecified
deriving DecidableEq, Repr

/-- A hardware condition of which a die's shepherd is told (R430). -/
inductive Notice where
  /-- A pool return has waited 2^20 cycles (R375). -/
  | poolReturn
  /-- An uncorrectable error (R465). -/
  | uncorrectable
  /-- A reduction or decrement that met poison was discarded (R464). -/
  | poisonedReduction
  /-- A directory bucket is newly poisoned (R462). -/
  | poisonedBucket
  /-- A wait of 2^20 cycles at a stamp window or a full early-packet buffer (R470). -/
  | fabricStall
  /-- A link has gone down (R467). -/
  | linkDown
  /-- The shepherd's watchdog has expired (R485). -/
  | watchdog
deriving DecidableEq, Repr

/-- What leaves the module: interrupts, management replies, and what shepherds are told. -/
inductive Output where
  | msiSession (session : Nat)
  | msiPaddock (paddock : Nat)
  | shepherd (die : Nat) (n : Notice)
  | msiShepherd (die : Nat)
  | commitRefused
  | commitFailed (seq : Nat)
  | reply (die : Nat) (r : MgmtReply)
  | heartbeat (die : Nat)
  | keyLoad (die slot : Nat) (ok : Bool)
  /-- What a host load returns, and whether it is poisoned. -/
  | hostData (bytes : List Byte) (poison : Bool)
  /-- The error response to a host access that cannot be performed (R455). -/
  | hostError
deriving DecidableEq, Repr

/-- The stream that is issuing: a flock, and a path of its lane stream or none for its scalar stream. -/
structure Issuer where
  flock : Nat
  path : Option Nat
deriving DecidableEq, Repr

/-- Residence of a herd that has ended or been saved, still to be charged to the pool of its region: how many units of 1,024 cycles, and
on which die (R355). -/
structure Owed where
  herd : Nat
  region : Region
  die : Nat
  units : Nat
deriving DecidableEq, Repr

/-- The whole module. -/
structure State where
  mem : List Host.Cell
  memPoison : List Nat
  /-- The key pair under which a 256-byte unit of LPDDR6 is encrypted, none for key slot 0: memory lists its plaintext (R85). -/
  memKeys : SMap (BitVec 512)
  dies : List Die
  cores : SMap Core
  herds : List Herd
  /-- Allotments of gang members that have ended, until the last member ends (log entry 49). -/
  ended : List Herd
  flocks : List Flock
  regions : List Region
  owed : List Owed
  queues : List QState
  paddocks : List Paddock
  padrep : List Word64
  owners : SMap Nat
  digests : SMap (BitVec 512)
  committed : CommittedLayout
  agenda : List Event
  out : List Output
  cur : Option Issuer
  /-- What the instruction issued last answered when it did not complete: whether it waits on an empty register. -/
  stalled : Option Bool
  cursor : Nat
  nextUid : Nat
  ticks : Nat
  cqFault : List Nat
deriving DecidableEq, Repr

/-! ## Reset -/

/-- A set-group map after reset (R99). -/
def MapReg.reset (cways : BitVec 16) : MapReg := ⟨0, 5, cways, 0⟩

/-- A paddock descriptor after reset (R358). -/
def PaddockDesc.reset : PaddockDesc := ⟨0, false, false, 0, 0, 0, 250, 6, 0, 0, 0⟩

/-- A paddock after reset (R358). -/
def Paddock.reset : Paddock := ⟨PaddockDesc.reset, none, false, false, [0, 0, 0, 0], false, [0, 0, 0, 0], [0, 0, 0, 0], [], [], [], [], 0⟩

/-- The layout after reset (R99, R358). -/
def CommittedLayout.reset : CommittedLayout :=
  ⟨List.replicate 8 PaddockDesc.reset, List.replicate 8 (MapReg.reset 0), MapReg.reset 0xFFFF⟩

/-- A network's stamp counters at fabric bring-up (R392). -/
def Net.reset : Net :=
  { k := List.replicate 16 0, d := List.replicate 4 0, a := List.replicate 4 0,
    sentK := List.replicate 4 (List.replicate 16 0), early := [], aside := [], delivered := [0, 0, 0, 0], reportAt := 0,
    stall := [none, none, none, none] }

/-- A link before training (R25); FABSTAT's LINKS field reads both links up at reset (R468). -/
def Link.reset : Link := ⟨true, false, 0, 0, [], [], 0, 0, none, [], [], 0⟩

/-- A shepherd at power-on (R399, R400, R403). -/
def Shepherd.reset (d : Nat) : Shepherd :=
  { mode := .reset, flash := Config.flashImage d, romDigest := none, imageDigest := none, vaultKey := none, dedup := none,
    identity := none, journal := ⟨0, 0, 0, false⟩, staged := none, missed := 0, image := none, ready := false,
    started := 0, beat := 0 }

/-- A die after reset. -/
def Die.reset (d : Nat) : Die :=
  { cycle := 0, stage := 0, nextPower := 0, nextEngine := 0, clusters := 0, engines := 0,
    maps := List.replicate 8 (MapReg.reset 0), mapc := MapReg.reset 0xFFFF, gateClosed := false, l2 := [], rdc := [], xbar := [], tlb2 := [],
    keys := [], sessbase := 0, cpool := 0, dirstat0 := 0, dirstat1 := 0, dirstat2 := 0, ptest := List.replicate 8 false,
    eccstat := 0, eccaddr := 0, fabstat := 0x1F8, tlbinv0 := 0, tlbinv1 := 0, fltctl := 0, engctl := 0,
    snapctl := 0, snapat := 0, snapcyc := 0, snapshot := [], pwrcap := 1200, pwrnow := 0, sampleAt := 0, draw := 0, samples := [],
    rails := List.replicate 3 ⟨0, 0, 0⟩, railSteps := [0, 0, 0], slowed := [], aboveSince := none,
    counters := [], directory := [], poisonedBuckets := [], placement := [], epochSums := [], epochAt := 0,
    live := true, nets := List.replicate 8 Net.reset, links := [Link.reset, Link.reset], arbiter := [], served := 0, snoop := [],
    shepherd := Shepherd.reset d }

/-- A datapath with no resident flock (R41). -/
def Datapath.reset : Datapath := ⟨List.replicate 8 none, [], 0, []⟩

/-- A core after its die's reset: its cluster is not powered (R25). -/
def Core.reset : Core :=
  { powered := false, engineOn := false, excluded := false, stuck := false, predictor := [], predSession := none, l1 := [], tlb := [], engine := [],
    mxq := [], mxTurn := (0, 0), lease := none, leaseDebt := [], collections := [],
    datapaths := [Datapath.reset, Datapath.reset, Datapath.reset, Datapath.reset], decoders := [], rlimit := [], rlimitEnd := none,
    lastSamplerReport := none, lastTreeReport := none,
    samplerRegions := [], treeRegions := [] }

/-- The module right after reset: the boot ROM of every shepherd is about to run, nothing is booted, no session exists and no flock is resident (R25, R29, R400). -/
def State.reset : State :=
  { mem := [], memPoison := [], memKeys := [], dies := [Die.reset 0, Die.reset 1, Die.reset 2, Die.reset 3], cores := [], herds := [], ended := [], flocks := [],
    regions := [], owed := [], queues := [], paddocks := List.replicate 8 Paddock.reset, padrep := List.replicate 8 0, owners := [],
    digests := [], committed := CommittedLayout.reset, agenda := [.boot 0, .boot 1, .boot 2, .boot 3], out := [], cur := none, stalled := none, cursor := 0, nextUid := 1, ticks := 0, cqFault := [] }

end Sys2Proof.Machine
end

