-- ==== Sys2Proof/Machine/Ops.lean ====
section
/-!
DEFINITION. The named operations over the state: sparse maps and sets, memory and scratchpad bytes, the parts of the
module by number, register reads and writes, barrier objects, and the taking of a trap with the return from one.
-/
namespace Sys2Proof.Machine

/-! ## Sparse maps and sets -/

/-- The value at a key, `d` where the map lists none. -/
def SMap.get {α : Type} (m : SMap α) (d : α) (k : Nat) : α :=
  match m with
  | [] => d
  | (j, v) :: r => if j = k then v else SMap.get r d k

/-- The value at a key, if the map lists one. -/
def SMap.get? {α : Type} (m : SMap α) (k : Nat) : Option α :=
  match m with
  | [] => none
  | (j, v) :: r => if j = k then some v else SMap.get? r k

/-- The map without a key. -/
def SMap.erase {α : Type} (m : SMap α) (k : Nat) : SMap α :=
  match m with
  | [] => []
  | (j, v) :: r => if j = k then SMap.erase r k else (j, v) :: SMap.erase r k

/-- The map with an entry put in key order. -/
def SMap.place {α : Type} (m : SMap α) (k : Nat) (v : α) : SMap α :=
  match m with
  | [] => [(k, v)]
  | (j, u) :: r => if k < j then (k, v) :: (j, u) :: r else (j, u) :: SMap.place r k v

/-- The map with a key set, in key order. -/
def SMap.insert {α : Type} (m : SMap α) (k : Nat) (v : α) : SMap α := SMap.place (SMap.erase m k) k v

/-- The map with a key set; the default value is not listed. -/
def SMap.put {α : Type} [DecidableEq α] (m : SMap α) (d : α) (k : Nat) (v : α) : SMap α :=
  if v = d then SMap.erase m k else SMap.insert m k v

/-- The keys rise strictly and no value is the default: the canonical form. -/
def SMap.wf {α : Type} [DecidableEq α] (d : α) : SMap α → Bool
  | [] => true
  | [(_, v)] => v != d
  | (j, v) :: (k, u) :: r => v != d && j < k && SMap.wf d ((k, u) :: r)

/-- A sorted list without repeats, with a member added. -/
def setAdd (k : Nat) : List Nat → List Nat
  | [] => [k]
  | j :: r => if j = k then j :: r else if k < j then k :: j :: r else j :: setAdd k r

/-- A list without a member. -/
def setDel (k : Nat) (l : List Nat) : List Nat := l.filter (· != k)

/-- A set with members added or removed. -/
def setMark (on : Bool) (ks : List Nat) (l : List Nat) : List Nat :=
  ks.foldl (fun l k => if on then setAdd k l else setDel k l) l

/-- The list with its `i`-th element replaced. -/
def setNth {α : Type} : List α → Nat → α → List α
  | [], _, _ => []
  | _ :: r, 0, v => v :: r
  | x :: r, n + 1, v => x :: setNth r n v

/-- A sorted list with an element put before the first that it may stand before. -/
def insertBy {α : Type} (before : α → α → Bool) (x : α) : List α → List α
  | [] => [x]
  | y :: r => if before x y then x :: y :: r else y :: insertBy before x r

/-- A list sorted by an order; equals keep their order. -/
def sortBy {α : Type} (before : α → α → Bool) (l : List α) : List α := l.foldr (insertBy before) []

/-- Bits `[lo + n - 1 : lo]` of a number. -/
def bitsAt (v lo n : Nat) : Nat := v / 2 ^ lo % 2 ^ n

/-- The number with its bits `[lo + n - 1 : lo]` replaced. -/
def withBits (v lo n x : Nat) : Nat := v - bitsAt v lo n * 2 ^ lo + x % 2 ^ n * 2 ^ lo

/-- A number read as two's complement of `n` bits. -/
def signedOf (n v : Nat) : Int := if v % 2 ^ n < 2 ^ (n - 1) then (v % 2 ^ n : Nat) else (v % 2 ^ n : Nat) - (2 ^ n : Nat)

/-- The `n`-bit two's complement pattern of an integer. -/
def patternOf (n : Nat) (x : Int) : Nat := (x % (2 ^ n : Nat)).toNat

/-! ## Memory bytes (R4, R77, R104) -/

/-- What a byte of module memory that nothing has written reads as (log entry 1). -/
def memDefault : Byte := 0

/-- A memory, a scratchpad or an operand buffer is in canonical form. -/
def Memory.wf (m : List Host.Cell) : Bool := SMap.wf memDefault m

/-- One byte. -/
def Memory.byte (m : List Host.Cell) (a : Nat) : Byte := SMap.get m memDefault a

/-- `n` consecutive bytes. -/
def Memory.bytes (m : List Host.Cell) (a n : Nat) : List Byte := (List.range n).map fun i => Memory.byte m (a + i)

/-- `n` consecutive bytes as one little-endian number (R4). -/
def Memory.read (m : List Host.Cell) (a n : Nat) : Nat := ofBytes (Memory.bytes m a n)

/-- The memory with one byte written. -/
def Memory.setByte (m : List Host.Cell) (a : Nat) (b : Byte) : List Host.Cell := SMap.put m memDefault a b

/-- The memory with consecutive bytes written. -/
def Memory.write (m : List Host.Cell) (a : Nat) : List Byte → List Host.Cell
  | [] => m
  | b :: bs => Memory.write (Memory.setByte m a b) (a + 1) bs

/-- The memory with `n` bytes of a number written (R4). -/
def Memory.writeNum (m : List Host.Cell) (a n v : Nat) : List Host.Cell := Memory.write m a (bytesOf n v)

/-! ## Parts of the module by number -/

/-- Die `d`. -/
def State.die (s : State) (d : Nat) : Die := s.dies.getD d (Die.reset d)

/-- The state with die `d` replaced. -/
def State.setDie (s : State) (d : Nat) (x : Die) : State := { s with dies := setNth s.dies d x }

/-- The state with die `d` changed. -/
def State.onDie (s : State) (d : Nat) (g : Die → Die) : State := s.setDie d (g (s.die d))

/-- The core with global index `c` (R11). -/
def State.core (s : State) (c : Nat) : Core := SMap.get s.cores Core.reset c

/-- The state with core `c` replaced. -/
def State.setCore (s : State) (c : Nat) (x : Core) : State := { s with cores := SMap.put s.cores Core.reset c x }

/-- The state with core `c` changed. -/
def State.onCore (s : State) (c : Nat) (g : Core → Core) : State := s.setCore c (g (s.core c))

/-- The die of a core (R14). -/
def dieOf (core : Nat) : Nat := core / 96

/-- The cluster of a core within its die (R14). -/
def clusterOf (core : Nat) : Nat := core % 96 / 4

/-- The module-wide number of a core's cluster, 24d + c (R358). -/
def clusterIndex (core : Nat) : Nat := core / 4

/-- The state with every core changed. -/
def State.mapCores (s : State) (g : Core → Core) : State := { s with cores := s.cores.map fun (c, k) => (c, g k) }

/-- The state with every die changed. -/
def State.mapDies (s : State) (g : Die → Die) : State := { s with dies := s.dies.map g }

/-- The flock with a uid. -/
def State.flock? (s : State) (uid : Nat) : Option Flock := s.flocks.find? (·.uid == uid)

/-- The state with a flock replaced, by its uid. -/
def State.setFlock (s : State) (f : Flock) : State :=
  { s with flocks := s.flocks.map fun g => if g.uid = f.uid then f else g }

/-- The state with the flock of a uid changed. -/
def State.onFlock (s : State) (uid : Nat) (g : Flock → Flock) : State :=
  { s with flocks := s.flocks.map fun f => if f.uid = uid then g f else f }

/-- The herd with a uid. -/
def State.herd? (s : State) (uid : Nat) : Option Herd := s.herds.find? (·.uid == uid)

/-- The state with a herd replaced, by its uid. -/
def State.setHerd (s : State) (h : Herd) : State :=
  let put (l : List Herd) : List Herd := l.map fun g => if g.uid = h.uid then h else g
  { s with herds := put s.herds, ended := put s.ended }

/-- The allotment of a herd that is there, or of a gang member that has ended before its gang (log entry 49). -/
def State.allotment? (s : State) (uid : Nat) : Option Herd := (s.herds ++ s.ended).find? (·.uid == uid)

/-- The allotment of the gang member on a core of the cluster (R66, R73). -/
def State.gangMember? (s : State) (gang core : Nat) : Option Herd :=
  (s.herds ++ s.ended).find? fun x => x.gang == some gang && x.seat == core

/-- The region with a uid. -/
def State.region? (s : State) (uid : Nat) : Option Region := s.regions.find? (·.uid == uid)

/-- The state with a region replaced, by its uid. -/
def State.setRegion (s : State) (r : Region) : State :=
  { s with regions := s.regions.map fun g => if g.uid = r.uid then r else g }

/-- A herd that names nothing: what a look-up of an absent herd gives. -/
def Herd.absent : Herd :=
  { uid := 0, region := 0, session := 0, herdid := 0, core := 0, seat := 0, gang := none, status := .resident, abort := false, haltAt := 0,
    spadSize := 0, spad := [], spadPoison := [], opbSize := 0, opbAt := 0, opb := [], opbPoison := [], rsv := [], ctxPhys := [], ctxs := [],
    calls := [], charged := 0, savedAt := none }

/-- The control block of an absent region. -/
def Rcb.absent : Rcb :=
  { addr := 0, parent := 0, ovrBudget := false, ovrPrio := false, ovrDomain := false, leaf := false, gang := false, prio := 0,
    domain := 0, budget := 0, scode := 0, lcode := 0, sentry := 0, lentry := 0, slen := 0, llen := 0, herds := 0, flocks := 0,
    lanes := 0, regs := 0, spad4k := 0, acc := 0, opbg := 0, karg := 0, klen := 0, layout := 0, lcount := 0, recipe := 0,
    rcount := 0, cact := 0, ctr := 0, cdie := 0, tag := 0 }

/-- A region that names nothing. -/
def Region.absent : Region :=
  { uid := 0, session := 0, rcb := Rcb.absent, prio := 0, domain := 0, pool := 0, poolTag := 0, poolDomain := 0, budget := 0, callRegs := 0, nextHerd := 0, exhausted := false,
    status := 0, origin := none, die := 0 }

/-- The herd of a flock. -/
def State.herdOf (s : State) (f : Flock) : Herd := (s.herd? f.herd).getD Herd.absent

/-- The region of a herd. -/
def State.regionOf (s : State) (h : Herd) : Region := (s.region? h.region).getD Region.absent

/-- The state with an event due. -/
def State.post (s : State) (e : Event) : State := { s with agenda := s.agenda ++ [e] }

/-- An event is made due unless it already is. -/
def State.postOnce (s : State) (e : Event) : State := if s.agenda.contains e then s else s.post e

/-- The state with something sent out of the module. -/
def State.emit (s : State) (o : Output) : State := { s with out := s.out ++ [o] }

/-- A die's shepherd is told of a condition, and its interrupt vector is raised (R21, R430; log entry 96). -/
def State.tell (s : State) (die : Nat) (n : Notice) : State := (s.emit (.shepherd die n)).emit (.msiShepherd die)

/-- The state with a fresh uid used up. -/
def State.bumpUid (s : State) : State := { s with nextUid := s.nextUid + 1 }

/-- A free value for the present tick (log entry 15). -/
def State.free (s : State) (i : Nat) : Word64 := Config.freeWord (s.ticks * 4096 + i)

/-! ## Paddocks -/

/-- Paddock `n`. -/
def State.paddock (s : State) (n : Nat) : Paddock := s.paddocks.getD n Paddock.reset

/-- The state with a paddock replaced. -/
def State.setPaddock (s : State) (n : Nat) (p : Paddock) : State := { s with paddocks := setNth s.paddocks n p }

/-! ## Why an instruction does not complete -/

/-- The agent of an access: its session, its die and, for a flock or a core's engine, its core. -/
structure Agent where
  session : Nat
  die : Nat
  core : Option Nat
deriving DecidableEq, Repr

/-- The kind of an access, as TINFO codes it (R421). -/
inductive Access where
  | read | write | atomic
deriving DecidableEq, Repr

/-- The TINFO code of an access kind. -/
def Access.code : Access → Nat
  | .read => 0 | .write => 1 | .atomic => 2

/-- A check that an access has passed: who makes it, its kind, its size and its address. -/
structure Checked where
  agent : Agent
  kind : Access
  bytes : Nat
  va : Nat
deriving DecidableEq, Repr

/-- A trap's cause, and what TADDR and TINFO receive (R417, R421). -/
structure Trap where
  cause : Nat
  addr : Word64 := 0
  info : Word64 := 0
  /-- It comes from a held fault (R419). -/
  held : Bool := false
  /-- The lane index that the record gives, where it is not that of the trapping instruction (R440). -/
  lpc : Option Nat := none
  /-- The checks that lower lanes have passed: the copies that they have made stay (R247). -/
  kept : List Checked := []
deriving DecidableEq, Repr

/-- An instruction that does not complete now: it waits and issues again, for an empty register (R42) or for something
else, or it traps. -/
inductive Stop where
  | wait (empty : Bool)
  | trap (t : Trap)
deriving DecidableEq, Repr

/-- Why an instruction does not complete, with a check that passed before. -/
def Stop.after (k : Checked) : Stop → Stop
  | .trap t => .trap { t with kept := k :: t.kept }
  | .wait e => .wait e

/-- The result of an instruction's meaning before it is taken as a step. -/
abbrev Res (α : Type) := Except Stop α

/-- The instruction waits. -/
def waits {α : Type} : Res α := .error (.wait false)

/-- The instruction waits for an empty register to fill. -/
def waitsEmpty {α : Type} : Res α := .error (.wait true)

/-- The instruction traps. -/
def traps {α : Type} (cause : Nat) (addr info : Nat := 0) : Res α :=
  .error (.trap { cause := cause, addr := BitVec.ofNat 64 addr, info := BitVec.ofNat 64 info })

/-- The instruction waits unless the condition holds. -/
def waitUnless (c : Bool) : Res Unit := if c then .ok () else waits

/-- The instruction traps unless the condition holds. -/
def trapUnless (c : Bool) (cause : Nat) (addr info : Nat := 0) : Res Unit := if c then .ok () else traps cause addr info

/-! ## Scalar and lane registers (R44, R154 to R156) -/

/-- The contents of a scalar register: s0 reads zero. -/
def Flock.sreg (f : Flock) (n : Nat) : Word64 := if n = 0 then 0 else SMap.get f.s 0 n

/-- The flock with a scalar register written: writes to s0 are ignored. -/
def Flock.setS (f : Flock) (n : Nat) (v : Word64) : Flock :=
  if n = 0 then f else { f with s := SMap.put f.s 0 n v, sPoison := setDel n f.sPoison }

/-- s0 is always full (R44). -/
def Flock.sFull (f : Flock) (n : Nat) : Bool := n = 0 || !f.sEmpty.contains n

/-- The key of register `r` of lane `l`. -/
def laneKey (r l : Nat) : Nat := 1024 * r + l

/-- The contents of a lane register. -/
def Flock.vreg (f : Flock) (r l : Nat) : Word32 := SMap.get f.v 0 (laneKey r l)

/-- A pair: the even register holds bits [31:0] (R155). -/
def Flock.vpair (f : Flock) (r l : Nat) : Word64 := f.vreg (r + 1) l ++ f.vreg r l

/-- The flock with a lane register written, which clears its poison. -/
def Flock.setV (f : Flock) (r l : Nat) (v : Word32) : Flock :=
  { f with v := SMap.put f.v 0 (laneKey r l) v, vPoison := setDel (laneKey r l) f.vPoison }

/-- The flock with a pair written. -/
def Flock.setVpair (f : Flock) (r l : Nat) (v : Word64) : Flock :=
  (f.setV r l (v.extractLsb' 0 32)).setV (r + 1) l (v.extractLsb' 32 32)

/-- Is a lane register full? -/
def Flock.vFull (f : Flock) (r l : Nat) : Bool := !f.vEmpty.contains (laneKey r l)

/-- A lane predicate; 15 reads as set (R157). -/
def Flock.qbit (f : Flock) (n l : Nat) : Bool := n = 15 || (f.q.getD n 0).has l

/-- The flock with a q predicate written in the lanes of `on`; 15 discards (R157). -/
def Flock.setQ (f : Flock) (n : Nat) (on : LaneMask) (v : LaneMask) : Flock :=
  if n < 15 then
    { f with q := (List.range 15).map fun i => if i = n then (f.q.getD n 0 &&& ~~~on) ||| (v &&& on) else f.q.getD i 0 }
  else f

/-- A scalar predicate; 7 reads as set (R154). -/
def Flock.zbit (f : Flock) (n : Nat) : Bool := n = 7 || f.z.getLsbD n

/-- The flock with a z predicate written; 7 discards (R157). -/
def Flock.setZ (f : Flock) (n : Nat) (v : Bool) : Flock :=
  if n < 7 then { f with z := (f.z &&& ~~~(1#7 <<< n)) ||| ((BitVec.ofBool v).setWidth 7 <<< n) } else f

/-- In handler mode (TCAUSE.HMODE, R420). -/
def Flock.hmode (f : Flock) : Bool := f.tcause.getLsbD 15

/-- FPMODE as the scalar stream reads and writes it: while a flashback recipe runs under the mode of its point, the mode that the lane
stream goes on with (R70, R145). -/
def Flock.modeAfter (f : Flock) : Word64 :=
  match f.recipe with
  | some r => r.fpmode
  | none => f.fpmode

/-- The flock with that FPMODE written. -/
def Flock.setMode (f : Flock) (v : Word64) : Flock :=
  match f.recipe with
  | some r => { f with recipe := some { r with fpmode := v } }
  | none => { f with fpmode := v }

/-- The path with an id. -/
def Flock.path? (f : Flock) (id : Nat) : Option Path := f.paths.find? (·.id == id)

/-- The flock with a path replaced. -/
def Flock.setPath (f : Flock) (p : Path) : Flock :=
  { f with paths := f.paths.map fun x => if x.id = p.id then p else x }

/-- The open divergence entry with an id. -/
def Flock.entry? (f : Flock) (id : Nat) : Option Entry := f.entries.find? (·.id == id)

/-- The value of an in-flight counter: the operations on the path that still hold it up (R93). -/
def Flock.count (f : Flock) (c : Counter) : Nat := (f.ops.filter fun o => o.counter == some c).length

/-- The registers named by the masks of queued and running lane blocks (R34). -/
def Flock.named (f : Flock) (n : Nat) : Bool := n ≠ 0 && f.queue.any fun e => e.mask.getLsbD n

/-! ## Scratchpad bytes (R73, R74) -/

/-- The state with bytes of a herd's allotment written; words written whole lose their poison (R464). -/
def Herd.writeSpad (h : Herd) (off : Nat) (bs : List Byte) : Herd :=
  let whole := (List.range ((bs.length + 3) / 4 + 1)).filterMap fun i =>
    let w := off / 4 + i
    if off ≤ 4 * w ∧ 4 * w + 4 ≤ off + bs.length then some w else none
  { h with spad := Memory.write h.spad off bs, spadPoison := setMark false whole h.spadPoison }

/-- Some word of the bytes is poisoned. -/
def Herd.spadPoisoned (h : Herd) (off n : Nat) : Bool :=
  h.spadPoison.any fun w => off < 4 * w + 4 && 4 * w < off + n

/-! ## Barrier objects (R204 to R208) -/

/-- A field of the barrier object at `off`. -/
def Herd.obj (h : Herd) (off lo n : Nat) : Nat := bitsAt (Memory.read h.spad off 32) lo n

/-- The herd with a field of a barrier object written. -/
def Herd.setObj (h : Herd) (off lo n v : Nat) : Herd :=
  { h with spad := Memory.writeNum h.spad off 32 (withBits (Memory.read h.spad off 32) lo n v) }

/-- TryComplete (R205). -/
def Herd.tryComplete (h : Herd) (off : Nat) : Herd :=
  if h.obj off 128 1 = 0 ∧ h.obj off 32 16 = h.obj off 16 16 ∧ h.obj off 64 32 ≤ h.obj off 96 32 then
    let waiters := h.obj off 48 8
    let h := h.setObj off 96 32 (h.obj off 96 32 - h.obj off 64 32)
    let h := ((h.setObj off 64 32 0).setObj off 32 16 0).setObj off 0 16 (h.obj off 0 16 + 1)
    if 0 < waiters then h.setObj off 128 1 1 else h
  else h

/-- Observe (R205). -/
def Herd.observe (h : Herd) (off : Nat) : Herd :=
  let h := h.setObj off 56 8 (h.obj off 56 8 + 1)
  if h.obj off 56 8 = h.obj off 48 8 then
    (((h.setObj off 48 8 0).setObj off 56 8 0).setObj off 128 1 0).tryComplete off
  else h

/-- The herd whose allotment a scratchpad address of a flock names, and the offset: the herd itself in the local form,
the gang's herd on the named core in the cluster form (R73). None where the form is invalid. -/
def State.spadTarget (s : State) (h : Herd) (a : Nat) : Option (Herd × Nat) :=
  let off := bitsAt a 0 19
  let core := bitsAt a 19 2
  if bitsAt a 22 10 ≠ 0 then none
  else if bitsAt a 21 1 = 0 then (if core = 0 then some (h, off) else none)
  else if h.seat = core then some (h, off)
  else match h.gang with
    | none => none
    | some g => (s.gangMember? g core).map (·, off)

/-- How far PHASE lies beyond phase `p`, modulo 2^16 (R207). -/
def phaseDelta (cur p : Nat) : Nat := (cur + 2 ^ 16 - p) % 2 ^ 16

/-- Phase `p` is completed: PHASE has passed it (R207). -/
def phasePast (cur p : Nat) : Bool := 1 ≤ phaseDelta cur p && phaseDelta cur p < 2 ^ 15

/-- A registered barrier wait is withdrawn (R208): a phase that has not completed loses the waiter, a completed one is
observed. -/
def State.withdraw (s : State) (f : Flock) : State :=
  match f.bar with
  | none => s
  | some b =>
    let s := s.onFlock f.uid fun f => { f with bar := none }
    match s.spadTarget (s.herdOf f) b.addr.toNat with
    | none => s
    | some (h, off) =>
      if phasePast (h.obj off 0 16) b.phase.toNat then s.setHerd (h.observe off)
      else s.setHerd (h.setObj off 48 8 ((h.obj off 48 8 + 255) % 256))

/-! ## Taking a trap and returning from one (R417 to R427) -/

/-- The causes whose first receiver is the flock's handler (R417). -/
def toHandler (cause : Nat) : Bool := (1 ≤ cause && cause ≤ 4) || (8 ≤ cause && cause ≤ 0x15)

/-- The default action at handler entry: skip for software traps and breakpoints, else retry (R417). -/
def defaultAction (cause : Nat) : Nat := if cause = 0x14 ∨ cause = 0x15 then 1 else 0

/-- The arm and lane index that the record takes from where the trap was taken. -/
def Flock.siteRecord (f : Flock) (site : TrapSite) : Nat × Nat × Bool :=
  match site with
  | .scalar => (0, 0, false)
  | .loop _ => (0, 0, false)
  | .lane p _ => match f.path? p with
    | some p => (p.arm, p.pc, true)
    | none => (0, 0, true)
  | .branch p => match f.path? p with
    | some p => (p.arm, p.pc, true)
    | none => (0, 0, true)
  | .callForm p => match f.path? p with
    | some p => (p.arm, p.pc, true)
    | none => (0, 0, true)
  | .blockStart => (0, (f.queue.head?.map (·.target)).getD 0, true)
  | .recipe => (0, (f.recipe.map (·.marker)).getD 0, true)

/-- The trap record of R420 for a trap of the flock. -/
def Flock.record (f : Flock) (site : TrapSite) (t : Trap) : Flock :=
  let (arm, at_, lane) := f.siteRecord site
  let lpc := t.lpc.getD at_
  let nested := f.hmode
  let tc := t.cause + (if lane then 2 ^ 8 else 0) + arm * 2 ^ 9 + (if nested then 2 ^ 10 + 2 ^ 15 + bitsAt f.tcause.toNat 0 8 * 2 ^ 16 else 0)
    + (if site = .recipe then 2 ^ 11 else 0) + (if t.held then 2 ^ 12 else 0)
  { f with tcause := BitVec.ofNat 64 tc, tpc := BitVec.ofNat 64 (f.spc % 2 ^ 26 + lpc * 2 ^ 32), taddr := t.addr, tinfo := t.info }

/-- Handler entry (R423). -/
def Flock.enterHandler (f : Flock) : Flock :=
  { f with tcause := f.tcause ||| 0x8000, tret := BitVec.ofNat 64 (defaultAction (bitsAt f.tcause.toNat 0 8)), mode := .running,
           haltSpc := f.spc, spc := bitsAt f.tvec.toNat 0 26 }

/-- The fault-ring record of a held flock (R427). -/
def State.faultRecord (s : State) (f : Flock) : FaultRecord :=
  let h := s.herdOf f
  let r := s.regionOf h
  { session := h.session, tcause := f.tcause, tpc := f.tpc, taddr := f.taddr, tinfo := f.tinfo, core := f.core, slot := f.slot,
    inherd := f.inherd, domain := r.domain, tag := r.rcb.tag, herdid := f.herdid }

/-- A flock takes a trap (R418, R422): its record is written, a registered barrier wait is withdrawn, and either the
handler is entered or the flock is held and reported. -/
def State.takeTrap (s : State) (uid : Nat) (site : TrapSite) (t : Trap) : State :=
  match s.flock? uid with
  | none => s
  | some f =>
    let handler := f.tvec.getLsbD 26 && !f.hmode && toHandler t.cause
    let g := f.record site t
    let g := if f.hmode then g else { g with site := some site }
    let g := { g with bar := none }
    let g := if handler then g.enterHandler else { g with mode := .held, haltSpc := if f.hmode then g.haltSpc else g.spc }
    let s := (s.withdraw f).setFlock g
    if handler then s else s.post (.faultRecordWrite (s.faultRecord g))

/-- Counters G, S, T, X and M read zero (R212, R424). -/
def Flock.drained (f : Flock) : Bool := [Counter.g, .s, .t, .x, .m].all fun c => f.count c == 0

/-- A wait at a `v.reconv.w` times out (R52, R265): each path that waits at the entry goes on alone with the predicate set in
its lanes, and the paths meet at the fallback index. -/
def Flock.timeOut (f : Flock) (e at_ fallback qd : Nat) : Flock :=
  let waiting := f.paths.filter fun p => p.status = .arrived && p.entries.head? = some e
  let f := waiting.foldl (fun f p => (f.setQ qd p.mask p.mask).setPath { p with pc := at_ + 1, status := .ready }) f
  { f with entries := f.entries.map fun x => if x.id = e then { x with timedOut := some at_, timer := none, rpoint := fallback } else x }

/-- The lane instruction at which a path was trapped is skipped (R425, R445). A skipped `v.reconv.w` behaves as a
timeout of its entry. -/
def Flock.skipLane (f : Flock) (pid : Nat) (wait : Option (Nat × Nat)) : Flock :=
  match f.path? pid with
  | none => f
  | some p =>
    let f := { f.setPath { p with pc := p.pc + 1, heldFault := none } with
                block1 := f.block1.filter (· ≠ pid) }
    match wait with
    | none => f
    | some (qd, fallback) =>
      let f := f.setQ qd p.mask p.mask
      match p.entries.head?.bind f.entry? with
      | some e => if e.rpoint = p.pc ∧ e.timedOut = none then f.timeOut e.id p.pc fallback qd else f
      | none => f

/-- The trapped instruction of the flock is skipped (R425, R445). -/
def Flock.skip (f : Flock) : Flock :=
  match f.site with
  | some .scalar => { f with spc := f.haltSpc + 1, claims := SMap.erase f.claims (2 * f.haltSpc) }
  | some (.loop d) => { f.setS d (f.sreg d - 1) with spc := f.haltSpc + 1 }
  | some (.lane p w) => { f.skipLane p w with spc := f.haltSpc }
  | some (.branch p) => { f.skipLane p none with spc := f.haltSpc, last := 0 }
  | some (.callForm p) => { f.skipLane p none with spc := f.haltSpc }
  | some .blockStart => { f with queue := f.queue.drop 1, spc := f.haltSpc }
  | _ => { f with spc := f.haltSpc }

/-- The trapped instruction of the flock issues again (R425). -/
def Flock.retry (f : Flock) (block1 : Bool) : Flock :=
  let again (p : Nat) : List Nat := (f.block1.filter (· ≠ p)) ++ if block1 then [p] else []
  { f with spc := f.haltSpc
           recipe := if f.site = some .recipe then f.recipe.map fun r => { r with index := r.first, left := r.count } else f.recipe
           block1 := match f.site with
             | some (.lane p _) => again p
             | some (.branch p) => again p
             | some (.callForm p) => again p
             | _ => f.block1 }

/-- The lane stream starts its next queued block when it can (R202, R425). -/
def State.restartBlocks (s : State) (uid : Nat) : State :=
  match s.flock? uid with
  | some f => if f.queue ≠ [] ∧ f.queue.all (fun e => !e.running) then s.post (.laneBlockStart uid) else s
  | none => s

/-- A flock leaves a trap by retry or skip (R425): HMODE is cleared and the streams resume. -/
def State.leaveTrap (s : State) (f : Flock) (skip block1 : Bool) : State :=
  let g := { (if skip then f.skip else f.retry block1) with tcause := f.tcause &&& ~~~0x8000#64, site := none, mode := .running }
  (s.setFlock g).restartBlocks f.uid

/-- A held flock goes on by retry or skip (R425, R428). A nested trap was taken at an instruction of the handler: HMODE is cleared, the
scalar stream resumes at that instruction or after it, and the lane stream where it halted (log entry 19). -/
def State.resumeTrap (s : State) (f : Flock) (skip block1 : Bool) : State :=
  if f.hmode then
    let g := { f with mode := .running, tcause := f.tcause &&& ~~~0x8000#64, site := none, spc := if skip then f.spc + 1 else f.spc,
                      claims := SMap.erase f.claims (2 * f.spc + 1) }
    (s.setFlock g).restartBlocks f.uid
  else s.leaveTrap f skip block1

end Sys2Proof.Machine
end

