-- ==== Sys2Proof/Machine/Crypto.lean ====
section
/-!
DEFINITION. The published functions that the manual names: SHAKE256 and SHA3-512 (R379, R400 to R402), AES Key Wrap (R376), and the
CRC-32 of IEEE 802.3 (R466). Their definitions are those of the standards themselves (log entry 36).
-/
namespace Sys2Proof.Machine

/-! ## Keccak -/

/-- A state of 25 lanes written out from a rule for the lane at each place. -/
def sheet (rule : Nat → Nat → Word64) : List Word64 := (List.range 5).flatMap fun row => (List.range 5).map fun col => rule col row

/-- The lane of a state at a place, whose coordinates count around. -/
def laneAt (state : List Word64) (col row : Nat) : Word64 := state.getD (row % 5 * 5 + col % 5) 0

/-- How far each lane turns: the places are visited along a walk that leaves out the origin, and the turns are the triangular numbers. -/
def laneTurns : SMap Nat :=
  let walk := (List.range 24).foldl (fun (acc : SMap Nat × Nat × Nat) n =>
    let (turns, col, row) := acc
    (turns ++ [(5 * row + col, (n + 1) * (n + 2) / 2 % 64)], row, (2 * col + 3 * row) % 5)) ([], 1, 0)
  walk.1

/-- The bit that a shift register of eight bits gives after some steps. -/
def registerBit (steps : Nat) : Bool :=
  let r := (List.range steps).foldl (fun (r : Byte) _ => (r <<< 1) ^^^ (if r.getLsbD 7 then 0x71 else 0)) 1
  r.getLsbD 0

/-- What round `n` adds to the lane at the origin: seven bits of the shift register, at the places one below the powers of two. -/
def roundMark (n : Nat) : Word64 :=
  (List.range 7).foldl (fun mark j => if registerBit (7 * n + j) then mark ||| BitVec.ofNat 64 (2 ^ (2 ^ j - 1)) else mark) 0

/-- A round of the permutation: the parity of two neighbouring columns enters every lane, the lanes turn and change places, each takes in
the two on its right, and the round's mark is added. -/
def keccakRound (state : List Word64) (n : Nat) : List Word64 :=
  let parity (col : Nat) : Word64 := (List.range 5).foldl (fun p row => p ^^^ laneAt state col row) 0
  let turned := sheet fun col row =>
    (laneAt state col row ^^^ parity (col + 4) ^^^ (parity (col + 1)).rotateLeft 1).rotateLeft (SMap.get laneTurns 0 (5 * row + col))
  let moved := sheet fun col row => laneAt turned (col + 3 * row) col
  let mixed := sheet fun col row => laneAt moved col row ^^^ (~~~(laneAt moved (col + 1) row) &&& laneAt moved (col + 2) row)
  setNth mixed 0 (laneAt mixed 0 0 ^^^ roundMark n)

/-- The permutation of 1,600 bits. -/
def keccak (state : List Word64) : List Word64 := (List.range 24).foldl keccakRound state

/-- A block is absorbed into the state. -/
def keccakAbsorb (state : List Word64) (block : List Byte) : List Word64 :=
  keccak (sheet fun col row => laneAt state col row ^^^ BitVec.ofNat 64 (ofBytes ((block.drop (8 * (5 * row + col))).take 8)))

/-- The blocks of a message padded for a rate, with the suffix that tells the functions apart. -/
def keccakBlocks (rate : Nat) (suffix : Byte) (m : List Byte) : List (List Byte) :=
  let room := rate - m.length % rate
  let pad := if room = 1 then [suffix ||| 0x80] else suffix :: (List.replicate (room - 2) 0 ++ [0x80])
  let all := m ++ pad
  (List.range (all.length / rate)).map fun i => (all.drop (rate * i)).take rate

/-- The first bytes of the state after a message. -/
def sponge (rate : Nat) (suffix : Byte) (m : List Byte) (n : Nat) : List Byte :=
  let a := (keccakBlocks rate suffix m).foldl keccakAbsorb (List.replicate 25 0)
  (a.flatMap fun v => bytesOf 8 v.toNat).take n

/-- The first `n` bytes of SHAKE256, up to its rate of 136 bytes. -/
def shake256 (m : List Byte) (n : Nat) : List Byte := sponge 136 0x1F m n

/-- SHA3-512, its 64 bytes as one little-endian number. -/
def sha3 (m : List Byte) : BitVec 512 := BitVec.ofNat 512 (ofBytes (sponge 72 0x06 m 64))

/-! ## AES with 256-bit keys, and its Key Wrap -/

/-- A byte times x in the field of AES. -/
def xtime (b : Byte) : Byte := (b <<< 1) ^^^ (if b.getLsbD 7 then 0x1B else 0)

/-- The product of two bytes in the field of AES. -/
def fieldMul (a b : Byte) : Byte :=
  ((List.range 8).foldl (fun (r, p) i => (if b.getLsbD i then r ^^^ p else r, xtime p)) ((0 : Byte), a)).1

/-- The inverse of a byte, its 254th power. -/
def fieldInv (a : Byte) : Byte :=
  ((List.range 7).foldl (fun (r, p) _ => let q := fieldMul p p; (fieldMul r q, q)) ((1 : Byte), a)).1

/-- The substitution box. -/
def subByte (a : Byte) : Byte :=
  let b := fieldInv a
  b ^^^ b.rotateLeft 1 ^^^ b.rotateLeft 2 ^^^ b.rotateLeft 3 ^^^ b.rotateLeft 4 ^^^ 0x63

/-- The inverse of the substitution box. -/
def unsubByte (a : Byte) : Byte := fieldInv (a.rotateLeft 1 ^^^ a.rotateLeft 3 ^^^ a.rotateLeft 6 ^^^ 0x05)

/-- Bytes added in the field. -/
def xorBytes (a b : List Byte) : List Byte := (a.zip b).map fun (x, y) => x ^^^ y

/-- The sixty words of the key schedule, each of four bytes. -/
def aesSchedule (key : List Byte) : List (List Byte) :=
  let first := (List.range 8).map fun i => (key.drop (4 * i)).take 4
  ((List.range 52).foldl (fun (ws, rc) j =>
    let i := j + 8
    let t := ws.getD (i - 1) []
    let u := if i % 8 = 0 then xorBytes ((t.drop 1 ++ t.take 1).map subByte) [rc, 0, 0, 0]
      else if i % 8 = 4 then t.map subByte else t
    (ws ++ [xorBytes (ws.getD (i - 8) []) u], if i % 8 = 0 then xtime rc else rc)) (first, (1 : Byte))).1

/-- Round key `i`, sixteen bytes. -/
def roundKey (ws : List (List Byte)) (i : Nat) : List Byte := ((ws.drop (4 * i)).take 4).flatten

/-- One column times the matrix whose first row is given. -/
def mixColumn (row : List Byte) (c : List Byte) : List Byte :=
  (List.range 4).map fun i => (List.range 4).foldl (fun s j => s ^^^ fieldMul (row.getD ((j + 4 - i) % 4) 0) (c.getD j 0)) 0

/-- Every column of a block times a matrix. -/
def mixColumns (row : List Byte) (b : List Byte) : List Byte := (List.range 4).flatMap fun i => mixColumn row ((b.drop (4 * i)).take 4)

/-- The rows of a block rotated: to the left by their number, or back. -/
def shiftRows (back : Bool) (b : List Byte) : List Byte :=
  (List.range 16).map fun k => b.getD ((4 * (if back then k / 4 + 4 - k % 4 else k / 4 + k % 4) + k % 4) % 16) 0

/-- A block encrypted. -/
def aesEncrypt (ws : List (List Byte)) (b : List Byte) : List Byte :=
  let b := (List.range 13).foldl (fun b i =>
    xorBytes (mixColumns [2, 3, 1, 1] (shiftRows false (b.map subByte))) (roundKey ws (i + 1))) (xorBytes b (roundKey ws 0))
  xorBytes (shiftRows false (b.map subByte)) (roundKey ws 14)

/-- A block decrypted. -/
def aesDecrypt (ws : List (List Byte)) (b : List Byte) : List Byte :=
  let b := (List.range 13).foldl (fun b i =>
    mixColumns [14, 11, 13, 9] (xorBytes ((shiftRows true b).map unsubByte) (roundKey ws (13 - i)))) (xorBytes b (roundKey ws 14))
  xorBytes ((shiftRows true b).map unsubByte) (roundKey ws 0)

/-- A tweak times x in the field of 2 to the power 128, its bytes least significant first. -/
def nextTweak (t : List Byte) : List Byte :=
  let n := 2 * ofBytes t
  bytesOf 16 (if n < 2 ^ 128 then n else Nat.xor (n - 2 ^ 128) 0x87)

/-- AES-256-XTS over one 256-byte unit (R85): sixteen blocks in ascending order under a 512-bit key pair, whose first 32 bytes encrypt the
data and whose last 32 the tweak (log entry 9). -/
def xtsUnit (back : Bool) (pair : BitVec 512) (tweak : Nat) (data : List Byte) : List Byte :=
  let key := bytesOf 64 pair.toNat
  let ws := aesSchedule (key.take 32)
  let start := aesEncrypt (aesSchedule (key.drop 32)) (bytesOf 16 tweak)
  ((List.range 16).foldl (fun (out, t) j =>
    let block := xorBytes ((data.drop (16 * j)).take 16) t
    (out ++ xorBytes (if back then aesDecrypt ws block else aesEncrypt ws block) t, nextTweak t)) (([] : List Byte), start)).1

/-- The eight bytes of a step count, the most significant first. -/
def stepBytes (t : Nat) : List Byte := (bytesOf 8 t).reverse

/-- Key Wrap: a key of whole 8-byte parts wrapped under a 32-byte key. -/
def wrapKey (kek key : List Byte) : List Byte :=
  let ws := aesSchedule kek
  let n := key.length / 8
  let parts := (List.range n).map fun i => (key.drop (8 * i)).take 8
  let (a, r) := (List.range (6 * n)).foldl (fun (a, r) t =>
    let b := aesEncrypt ws (a ++ r.getD (t % n) [])
    (xorBytes (b.take 8) (stepBytes (t + 1)), setNth r (t % n) (b.drop 8))) (List.replicate 8 (0xA6 : Byte), parts)
  a ++ r.flatten

/-- Key Unwrap: none where the integrity check fails. -/
def unwrapKey (kek blob : List Byte) : Option (List Byte) :=
  let ws := aesSchedule kek
  let n := blob.length / 8 - 1
  if blob.length % 8 ≠ 0 ∨ n < 2 then none
  else
    let parts := (List.range n).map fun i => (blob.drop (8 * (i + 1))).take 8
    let (a, r) := (List.range (6 * n)).foldl (fun (a, r) k =>
      let t := 6 * n - 1 - k
      let b := aesDecrypt ws (xorBytes a (stepBytes (t + 1)) ++ r.getD (t % n) [])
      (b.take 8, setNth r (t % n) (b.drop 8))) (blob.take 8, parts)
    if a = List.replicate 8 (0xA6 : Byte) then some r.flatten else none

/-! ## CRC-32 -/

/-- The CRC-32 of a run of bytes. -/
def crc32 (bs : List Byte) : BitVec 32 :=
  let bit (c : BitVec 32) : BitVec 32 := (c >>> 1) ^^^ (if c.getLsbD 0 then 0xEDB88320 else 0)
  let byte (c : BitVec 32) (b : Byte) : BitVec 32 := (List.range 8).foldl (fun c _ => bit c) (c ^^^ b.setWidth 32)
  ~~~(bs.foldl byte (BitVec.allOnes 32))

end Sys2Proof.Machine
end

