-- ==== Sys2Proof/Machine/Context.lean ====
section
/-!
DEFINITION. Module memory as hardware uses it for its own structures: home dies (R16, R17), the encryption of memory (R85), reads and writes
through key slot 0 at the home slices, and the session contexts (R372, R374), which lie in memory.
-/
namespace Sys2Proof.Machine

/-! ## Addresses (R16 to R19) -/

/-- The home die of a physical address (R16). -/
def homeDie (pa : Nat) : Nat := bitsAt pa 37 2

/-- The address is module memory (R16). -/
def inModule (pa : Nat) : Bool := pa < 0x8000000000

/-- The LPDDR6 channel of a physical address within its home die; slice affinity does not change it (R17, R102). -/
def lpddrChannel (pa : Nat) : Nat := bitsAt pa 8 29 % 32

/-! ## Clusters and their rails (R22, R24) -/

/-- The descriptor of the paddock that holds a cluster of a die. -/
def State.clusterOwner (s : State) (die c : Nat) : Option PaddockDesc :=
  (s.paddocks.map Paddock.desc).find? fun d => d.clusters.getLsbD (24 * die + c)

/-- How many steps below 650 mV a cluster's rail may stand: by its clock, 1.9, 1.5 or 1.2 GHz, or by the ratio at which it is locked. R22 gives
a voltage at these three clocks alone: a ratio between two of them takes the voltage of the higher (DESIGN CHOICE, log entry 47). -/
def State.railNeed (s : State) (die c : Nat) : Nat :=
  match (s.clusterOwner die c).filter (·.lock) with
  | none => SMap.get (s.die die).slowed 0 c
  | some x =>
    let f := 16 * x.lnum.toNat
    let l := x.lden.toNat
    if f ≤ 12 * l then 2 else if f ≤ 15 * l then 1 else 0

/-- How many steps below 650 mV a sector's rail stands at the highest need of its eight clusters. -/
def State.sectorNeed (s : State) (die r : Nat) : Nat := ((List.range 8).map fun c => s.railNeed die (8 * r + c)).foldl min 2

/-- The rails of a die are set to the highest need of their clusters. -/
def State.settleRails (s : State) (die : Nat) : State := s.onDie die fun d => { d with railSteps := (List.range 3).map (s.sectorNeed die) }

/-- No rail stays below what its clusters need: it rises as a cluster's need rises (R24). -/
def State.raiseRails (s : State) : State :=
  (List.range 4).foldl (fun s i => s.onDie i fun d =>
    { d with railSteps := (List.range 3).map fun r => min (d.railSteps.getD r 0) (s.sectorNeed i r) }) s

/-! ## The top of memory -/

/-- The address lies in the top 576 MiB of a die's memory, which firmware reserves at boot for the hash directory, the placement records and
the shepherd (R19, R378; log entry 104). -/
def bootReserved (pa : Nat) : Bool := inModule pa && 2 ^ 37 - 576 * 2 ^ 20 ≤ pa % 2 ^ 37

/-- The line of a physical address. -/
def lineOf (pa : Nat) : Nat := pa / 256 * 256

/-- Some sector of the bytes is poisoned (R464). -/
def State.memPoisoned (s : State) (pa n : Nat) : Bool :=
  s.memPoison.any fun c => pa < 64 * c + 64 && 64 * c < pa + n

/-! ## Encryption (R85) -/

/-- The keys of units with that of one unit set. -/
def setKey (m : SMap (BitVec 512)) (unit : Nat) (key : Option (BitVec 512)) : SMap (BitVec 512) :=
  match key with
  | some k => SMap.insert m unit k
  | none => SMap.erase m unit

/-- The bytes of a 256-byte unit of LPDDR6 as the controller shows them under a key pair: decrypted under that pair, whatever pair encrypted
them (R85; log entry 9). -/
def State.unitUnder (s : State) (key : Option (BitVec 512)) (unit : Nat) : List Byte :=
  let old := SMap.get? s.memKeys unit
  let data := Memory.bytes s.mem (256 * unit) 256
  if old = key then data
  else
    let cipher := match old with
      | some k => xtsUnit false k unit data
      | none => data
    match key with
    | some k => xtsUnit true k unit cipher
    | none => cipher

/-- A unit comes to be listed as a key pair shows it. Its ciphertext stays as it is. -/
def State.rekeyUnit (s : State) (key : Option (BitVec 512)) (unit : Nat) : State :=
  if SMap.get? s.memKeys unit = key then s
  else { s with mem := Memory.write s.mem (256 * unit) (s.unitUnder key unit), memKeys := setKey s.memKeys unit key }

/-- The home slice holds the plaintext of a line. -/
def State.inL2 (s : State) (pa : Nat) : Bool := (s.die (homeDie pa)).l2.any fun l => l.pa = lineOf pa

/-- The units that `n` bytes touch. -/
def unitsOf (pa n : Nat) : List Nat := (List.range ((pa + n - 1) / 256 - pa / 256 + 1)).map (pa / 256 + ·)

/-- Bytes as hardware reads its own structures: through key slot 0, at the home slice (R85). -/
def State.clearBytes (s : State) (pa n : Nat) : List Byte :=
  match s.memKeys with
  | [] => Memory.bytes s.mem pa n
  | _ :: _ =>
    let shown (u : Nat) : List Byte := if s.inL2 (256 * u) then Memory.bytes s.mem (256 * u) 256 else s.unitUnder none u
    (((unitsOf pa n).flatMap shown).drop (pa % 256)).take n

/-- A number read through key slot 0. -/
def State.clearNum (s : State) (pa n : Nat) : Nat := ofBytes (s.clearBytes pa n)

/-- Before a write of `n` bytes, the home slices invalidate the crossbar-cache copies of its lines (R15), and invalidate or recall the
copies that host complexes hold (R20). -/
def State.dropXbar (s : State) (pa n : Nat) : State :=
  let apart (line : Nat) : Bool := line + 256 ≤ pa || pa + n ≤ line
  s.onDie (homeDie pa) fun d => { d with xbar := d.xbar.filter (fun x => apart x.2), snoop := d.snoop.filter apart }

/-- Hardware writes bytes of its own structures, with key slot 0: every unit that they touch comes to be in the clear, and crossbar copies and
copies of host complexes are invalidated first (R15, R20, R372, R375). -/
def State.putBytes (s : State) (pa : Nat) (bs : List Byte) : State :=
  let s := ((unitsOf pa bs.length).foldl (fun s u => if s.inL2 (256 * u) then s else s.rekeyUnit none u) s).dropXbar pa bs.length
  { s with mem := Memory.write s.mem pa bs }

/-- Hardware writes a number. -/
def State.putNum (s : State) (pa n v : Nat) : State := s.putBytes pa (bytesOf n v)

/-! ## Session contexts (R372, R374) -/

/-- Physical address of session context `i`. -/
def State.context (s : State) (i : Nat) : Nat := bitsAt (s.die 0).sessbase.toNat 20 32 * 2 ^ 20 + 1024 * i

/-- Bits `[lo + n - 1 : lo]` of a session context. -/
def State.ctx (s : State) (i lo n : Nat) : Nat :=
  bitsAt (s.clearNum (s.context i + lo / 8) ((lo % 8 + n + 7) / 8)) (lo % 8) n

/-- The state with bits of a session context written. -/
def State.setCtx (s : State) (i lo n v : Nat) : State :=
  let a := s.context i + lo / 8
  let k := (lo % 8 + n + 7) / 8
  s.putNum a k (withBits (s.clearNum a k) (lo % 8) n v)

/-- PASID of a session. -/
def State.pasid (s : State) (i : Nat) : Nat := s.ctx i 0 20
/-- Paddock of a session. -/
def State.paddockOf (s : State) (i : Nat) : Nat := s.ctx i 30 3
/-- STATE of a session. -/
def State.sessionState (s : State) (i : Nat) : Nat := s.ctx i 33 2
/-- HOME die of a session. -/
def State.home (s : State) (i : Nat) : Nat := s.ctx i 35 2
/-- Key slot of a session. -/
def State.keyslot (s : State) (i : Nat) : Nat := s.ctx i 41 10
/-- Title key slot of a session. -/
def State.tkeyslot (s : State) (i : Nat) : Nat := s.ctx i 51 10
/-- Root frame of a session. -/
def State.root (s : State) (i : Nat) : Nat := s.ctx i 64 40
/-- Nothing has been written into a session context: its fields hold their reset values (R100, R362; log entry 52). -/
def State.ctxBlank (s : State) (i : Nat) : Bool := s.mem.all fun c => c.1 < s.context i || s.context i + 1024 ≤ c.1
/-- Way mask of a session, which resets to 0xFFFF (R100). -/
def State.wayMask (s : State) (i : Nat) : Nat := if s.ctxBlank i then 0xFFFF else s.ctx i 112 16
/-- LEGACYMODE of a session. -/
def State.legacyMode (s : State) (i : Nat) : Nat := s.ctx i 128 64
/-- Title domain of a session. -/
def State.title (s : State) (i : Nat) : Nat := s.ctx i 192 64

end Sys2Proof.Machine
end

