-- ==== Sys2Proof/Machine/Flags.lean ====
section
/-!
DEFINITION. The sticky flags and the rounding context: FLAGS (R150), FPMODE (R141), LEGACYMODE (R142) and the effective
context that a rounding override selects (R143).
-/
namespace Sys2Proof.Machine

/-- Flags raised by an operation, as the low bits of FLAGS. -/
abbrev Flags := BitVec 5

/-- Invalid. -/
def flagNV : Flags := 1
/-- Divide by zero. -/
def flagDZ : Flags := 2
/-- Overflow. -/
def flagOF : Flags := 4
/-- Underflow. -/
def flagUF : Flags := 8
/-- Inexact. -/
def flagNX : Flags := 16

/-- A flag when a condition holds. -/
def flagIf (c : Bool) (x : Flags) : Flags := if c then x else 0

/-- The flock with flags ORed into FLAGS (R150). -/
def Flock.raise (f : Flock) (x : Flags) : Flock := { f with flags := f.flags ||| x.setWidth 64 }

/-- Rounding modes, coded as FPMODE.RM (R141). -/
inductive Rounding where
  | ne | rz | rd | ru
deriving DecidableEq, Repr

/-- The mode of a two-bit code. -/
def roundingOf (c : Nat) : Rounding := match c % 4 with
  | 0 => .ne | 1 => .rz | 2 => .rd | _ => .ru

/-- The effective context of an instruction (R143). -/
structure FpCtx where
  mode : Rounding
  daz : Bool
  ftz : Bool
  unfused : Bool
  cvt : Rounding
deriving DecidableEq, Repr

/-- The context of error feedback, the engines and the matrix class: nearest-even without flushes (R144, R149, R306). -/
def FpCtx.plain : FpCtx := ⟨.ne, false, false, false, .ne⟩

/-- The effective context that a rounding override selects (R143). -/
def effective (fpmode legacy : Nat) (rnd : BitVec 2) : FpCtx :=
  let daz := bitsAt fpmode 2 1 = 1
  let ftz := bitsAt fpmode 3 1 = 1
  match rnd.toNat with
  | 0 => ⟨roundingOf (bitsAt fpmode 0 2), daz, ftz, false, roundingOf (bitsAt fpmode 0 2)⟩
  | 1 => ⟨.ne, daz, ftz, false, .ne⟩
  | 2 => ⟨.rz, daz, ftz, false, .rz⟩
  | _ =>
    let lrm := roundingOf (bitsAt legacy 0 2)
    ⟨lrm, bitsAt legacy 2 1 = 1, bitsAt legacy 3 1 = 1, bitsAt legacy 4 1 = 1, if bitsAt legacy 5 1 = 1 then .rz else lrm⟩

/-- The effective context of a lane instruction of a flock. -/
def State.fpCtx (s : State) (f : Flock) (rnd : BitVec 2) : FpCtx :=
  effective f.fpmode.toNat (s.legacyMode (s.herdOf f).session) rnd

end Sys2Proof.Machine
end

