-- ==== Sys2Proof/Machine/Ports.lean ====
section
/-!
DEFINITION. The ports of the Ryuzo links (R12, R13, R366, R390, R391, R466): routes, the packets that wait for a link, the packet slots of
its input ports, the arbitration among packets, and the groups of flits in which they go. What the packets mean is in Fabric.lean, and how a
link recovers from errors in Link.lean.
-/
namespace Sys2Proof.Machine

/-! ## Virtual networks and their stamps (R391 to R396) -/

/-- Serial comparison. -/
def sge (a b : BitVec 16) : Bool := decide ((a - b).toNat < 2 ^ 15)

/-- The later of two counters. -/
def smax (a b : BitVec 16) : BitVec 16 := if sge a b then a else b

/-- The knowledge matrix with an entry raised. -/
def raise (k : List (BitVec 16)) (x : Nat) (v : BitVec 16) : List (BitVec 16) := setNth k x (smax (k.getD x 0) v)

/-- Every entry of one matrix raised by another. -/
def raiseAll (k j : List (BitVec 16)) : List (BitVec 16) := k.zipIdx.map fun (v, i) => smax v (j.getD i 0)

/-- An entry of a 4 by 4 matrix of stamp counters. -/
def stampAt (k : List (BitVec 16)) (s d : Nat) : BitVec 16 := k.getD (4 * s + d) 0

/-- The virtual network of a session: that of its paddock (R358, R391). -/
def State.netOf (s : State) (session : Nat) : Nat := s.paddockOf session

/-- Fabric state of a network at a die. -/
def State.net (s : State) (die n : Nat) : Net := (s.die die).nets.getD n Net.reset

/-- The state with the fabric state of a network at a die replaced. -/
def State.setNet (s : State) (die n : Nat) (x : Net) : State := s.onDie die fun d => { d with nets := setNth d.nets n x }

/-- A read from one die would be served at another at once: that die has delivered every ordered packet that the reader's stamp names (R396). -/
def State.servedNow (s : State) (src dst n : Nat) : Bool :=
  let k := (s.net src n).k
  let d := (s.net dst n).d
  sge (d.getD src 0) (stampAt k src dst)
    && (List.range 4).all fun x => x = src || x = dst || sge (d.getD x 0) (stampAt k x dst)

/-- A device of a die that has read a line of another as an acquire learns what that die knew, and has caught up once its own die has delivered
all of it (R125, R396). -/
def State.catchUp (s : State) (reader home n : Nat) : State × Bool :=
  let k := (s.net home n).k
  let x := s.net reader n
  if reader = home then (s, true)
  else (s.setNet reader n { x with k := raiseAll x.k k }, (List.range 4).all fun i => i = reader || sge (x.d.getD i 0) (stampAt k i reader))

/-! ## Routes (R12, R390, R471) -/

/-- The link of a die toward a neighbour: 0 the x link, 1 the y link. -/
def linkTo (i j : Nat) : Nat := if Nat.xor i j = 1 then 0 else 1

/-- The neighbour over a link. -/
def neighbour (i link : Nat) : Nat := Nat.xor i (if link = 0 then 1 else 2)

/-- A link between neighbours carries traffic: both dies live and both its ends are up. -/
def State.linkUp (s : State) (i j : Nat) : Bool :=
  let up (a b : Nat) : Bool := (s.die a).live && ((s.die a).links.getD (linkTo a b) Link.reset).up
  up i j && up j i

/-- The dies that a request passes from one die to another, both ends included: x first, the other way round the square where that is
broken. -/
def State.route (s : State) (i j : Nat) : List Nat :=
  let ok (r : List Nat) : Bool := (r.zip (r.drop 1)).all fun (a, b) => s.linkUp a b
  let o := 3 - Nat.xor i j
  let ways := if Nat.xor i j = 3 then [[i, Nat.xor i 1, j], [i, Nat.xor i 2, j]] else [[i, j], [i, Nat.xor i o, Nat.xor j o, j]]
  (ways.find? ok).getD (ways.headD [])

/-- The dies that a packet passes: a reply goes back the way of its request, y first (R390). -/
def State.pathOf (s : State) (cls : MsgClass) (i j : Nat) : List Nat :=
  if cls = .reply then (s.route j i).reverse else s.route i j

/-- Every link of a route carries traffic: none is down and none is in training (R467, R471). -/
def State.routeOpen (s : State) (i j : Nat) : Bool :=
  let r := s.route i j
  let free (a b : Nat) : Bool := !((s.die a).links.getD (linkTo a b) Link.reset).training
  (r.zip (r.drop 1)).all fun (a, b) => s.linkUp a b && free a b && free b a

/-- Some link of a route is in training and carries nothing (R467). -/
def State.routeBusy (s : State) (i j : Nat) : Bool :=
  let r := s.route i j
  let busy (a b : Nat) : Bool := ((s.die a).links.getD (linkTo a b) Link.reset).training
  (r.zip (r.drop 1)).any fun (a, b) => busy a b || busy b a

/-- A die holds each new ordered packet and read: it has prepared a removal, whose commit is not done (R472). -/
def State.holds (s : State) (die : Nat) : Bool :=
  let h := (s.die die).shepherd
  match h.staged with
  | some (seq, none) => h.journal.seq = seq && h.journal.state ≠ 0
  | _ => false

/-! ## Slots and credits (R391) -/

/-- The slot that a packet of a network and class can take in an input port: one of the two reserved for them, else one of the pool of
192; none where it gets no credit. -/
def Link.slotFor (k : Link) (net : Nat) (cls : MsgClass) : Option Bool :=
  if (k.slots.countP fun x => x.net = net && x.cls = cls && !x.pooled) < 2 then some false
  else if (k.slots.countP fun x => x.pooled) < 192 then some true
  else none

/-- One end of a link. -/
def State.link (s : State) (die link : Nat) : Link := (s.die die).links.getD link Link.reset

/-- The state with one end of a link changed. -/
def State.onLink (s : State) (die link : Nat) (g : Link → Link) : State :=
  s.onDie die fun d => { d with links := setNth d.links link (g (d.links.getD link Link.reset)) }

/-! ## Groups of flits (R13, R466) -/

/-- The eight beats of 32 bits in which a link carries a 32-byte flit (R13). -/
def flitBeats (f : BitVec 256) : List (BitVec 32) := (List.range 8).map fun i => f.extractLsb' (32 * i) 32

/-- What the CRC of a group covers: its fifteen data flits, and the other bytes of its control flit. -/
def groupBytes (payload : List (BitVec 256)) (seq ack : BitVec 12) (nak : Bool) : List Byte :=
  payload.flatMap (fun f => bytesOf 32 f.toNat) ++ Config.controlBytes seq ack nak

/-- A group goes out on a link and, when it reaches the other end, is checked there. -/
def State.transmit (s : State) (die link : Nat) (g : LinkGroup) : State := s.post (.linkGroupReceive (neighbour die link) link g)

/-- A packet leaves a die over a link in a group, which is kept for resending (R466; log entry 41). -/
def State.sendGroup (s : State) (die link : Nat) (p : Parcel) : State :=
  let k := s.link die link
  let payload := (List.range 15).map (Config.flit s.ticks)
  let g : LinkGroup := ⟨p, k.sent, k.expect - 1, false, payload, crc32 (groupBytes payload k.sent (k.expect - 1) false)⟩
  let keep (k : Link) : Link := { k with sent := k.sent + 1, replay := k.replay ++ [(g, (s.die die).cycle)] }
  ((s.onLink die link keep).transmit die link g).post (.linkResendTimeout die link g.seq)

/-! ## Arbitration (R366; log entry 106) -/

/-- The standing of a packet that waits for a link: promoted after 8,192 cycles, of interactive class, or of batch class. -/
def Parcel.standing (p : Parcel) (now : Word64) : Nat :=
  if 8192 ≤ (now - p.since).toNat then 2 else if p.interactive then 1 else 0

/-- How long after the session served last a session's turn comes round. -/
def turnOf (served session : Nat) : Nat := (session + 1023 - served % 1024) % 1024

/-- A packet is served before another: by standing, promoted ones the oldest first, others session by session in turn. -/
def Parcel.before (now : Word64) (served : Nat) (p q : Parcel) : Bool :=
  let a := p.standing now
  let b := q.standing now
  if a ≠ b then decide (b < a) else if a = 2 then decide (p.since.toNat ≤ q.since.toNat) else decide (turnOf served p.session ≤ turnOf served q.session)

/-- Packets of one network and class for one die keep their order (R390): of each such run the first may go. -/
def firstOfRuns : List Parcel → List Parcel
  | [] => []
  | p :: r => p :: (firstOfRuns r).filter fun q => !(q.net = p.net && q.cls = p.cls && q.path.getLast? = p.path.getLast?)

/-- The packet that a die's link serves next, if one has credit at the far port. A link whose last 64 groups are all unacknowledged sends no
further one (R466). -/
def State.nextParcel (s : State) (die link : Nat) : Option Parcel :=
  let k := s.link die link
  let far := s.link (neighbour die link) link
  if !s.linkUp die (neighbour die link) || k.training || far.training || decide (64 ≤ k.replay.length) then none
  else
    let may := (firstOfRuns k.outbox).filter fun p => (far.slotFor p.net p.cls).isSome
    (sortBy (Parcel.before (s.die die).cycle k.served) may).head?

/-- The slots of a die that hold a packet are given up. -/
def Die.giveUpSlot (d : Die) (id : Nat) : Die := { d with links := d.links.map fun k => { k with slots := k.slots.filter fun x => x.id ≠ id } }

/-- A packet is sent over a link: it takes a slot of the far port, and leaves that in which it waited. -/
def State.sendParcel (s : State) (die link : Nat) (p : Parcel) : State :=
  let far := neighbour die link
  let slot : PortSlot := ⟨p.id, p.net, p.cls, ((s.link far link).slotFor p.net p.cls).getD true, false⟩
  let s := s.onLink far link fun k => { k with slots := k.slots ++ [slot] }
  let s := (s.onDie die fun d => d.giveUpSlot p.id).onLink die link fun k =>
    { k with outbox := k.outbox.filter (fun q => q.id ≠ p.id), served := p.session }
  s.sendGroup die link p

/-- The ends of the links, as die and link. -/
def linkEnds : List (Nat × Nat) := (List.range 4).flatMap fun d => [(d, 0), (d, 1)]

/-- Packets go on their links for as long as one can. -/
def State.pump : Nat → State → State
  | 0, s => s
  | fuel + 1, s =>
    match linkEnds.findSome? fun (d, l) => (s.nextParcel d l).map fun p => (d, l, p) with
    | none => s
    | some (d, l, p) => State.pump fuel (s.sendParcel d l p)

/-- Every packet that can go on a link goes. -/
def State.settlePorts (s : State) : State := s.pump (s.dies.flatMap fun d => d.links.map fun k => k.outbox.length).sum

/-- A packet comes to the port of a die from which it has to go on. -/
def State.enqueue (s : State) (die : Nat) (p : Parcel) : State :=
  match p.path with
  | [] => s
  | next :: _ => s.onLink die (linkTo die next) fun k => { k with outbox := k.outbox ++ [{ p with since := (s.die die).cycle }] }

/-- A packet of a session starts from a die toward another; `done` marks one whose act is performed already. -/
def State.shipAs (s : State) (done : Bool) (cls : MsgClass) (id session src dst : Nat) : State :=
  if src = dst then s
  else
    let net := s.netOf session
    (s.enqueue src ⟨id, net, cls, session, !(s.paddock net).desc.cls, 0, (s.pathOf cls src dst).drop 1, done⟩).settlePorts

/-- A packet of a session starts from a die toward another. -/
def State.ship (s : State) (cls : MsgClass) (id session src dst : Nat) : State := s.shipAs false cls id session src dst

/-- A packet of a session whose act is performed already starts, with a number of its own: nothing waits for it, and it takes slots of its
network and class as any other does (R391; log entry 7). -/
def State.shipNew (s : State) (cls : MsgClass) (session src dst : Nat) : State := (s.shipAs true cls s.nextUid session src dst).bumpUid

/-- A read that is made as a whole goes over the links: its request, and its reply (R390, R391). -/
def State.shipRead (s : State) (session src home : Nat) : State := (s.shipNew .request session src home).shipNew .reply session home src

/-- The slot of a packet at a die is free again. -/
def State.release (s : State) (die id : Nat) : State := (s.onDie die fun d => d.giveUpSlot id).settlePorts

/-- A packet is on its way: it waits for a link, or lies in a slot of an input port. -/
def State.onWay (s : State) (id : Nat) : Bool :=
  s.dies.any fun d => d.links.any fun k => k.outbox.any (fun p => p.id = id) || k.slots.any fun x => x.id = id

/-- A packet has come to a die: nothing of it is on its way but in a slot there. -/
def State.landed (s : State) (die id : Nat) : Bool :=
  s.dies.zipIdx.all fun (d, i) => d.links.all fun k =>
    k.outbox.all (fun p => p.id ≠ id) && k.slots.all fun x => x.id ≠ id || (i = die && x.here)

/-- A packet has arrived at an end of a link: at its last die it waits in its slot, or for a reply or a control packet is taken at once; at
another it goes on (R13, R390). -/
def State.arrive (s : State) (die link : Nat) (p : Parcel) : State :=
  if (s.link die link).slots.all fun x => x.id ≠ p.id then s
  else
    let s := s.onLink die link fun k => { k with slots := k.slots.map fun x => if x.id = p.id then { x with here := true } else x }
    match p.path with
    | _ :: next :: rest => (s.enqueue die { p with path := next :: rest }).settlePorts
    | _ => if p.cls = .reply || p.cls = .control || p.done then s.release die p.id else s

/-- Nothing is on the links any more. -/
def State.clearPorts (s : State) : State :=
  s.mapDies fun d => { d with links := d.links.map fun k => { k with outbox := [], slots := [] } }

end Sys2Proof.Machine
end

