-- ==== Sys2Proof/Machine/Memory.lean ====
section
/-!
DEFINITION. Memory as programs see it: translation with TLB copies, key slots and copy-on-write (R72 to R85), and the
caches that an access passes (R86 to R102). The home slice's contents are the module's memory; an L1 line and a
remote-data cache line hold bytes of their own, which may be older.
-/
namespace Sys2Proof.Machine

/-! ## Page table entries (R78 to R80) -/

/-- The fields of an entry. -/
def pteFrame (e : Nat) : Nat := bitsAt e 0 40
/-- OVERLAY. -/
def pteOverlay (e : Nat) : Nat := bitsAt e 40 40
/-- GRANULES. -/
def pteGranules (e : Nat) : Nat := bitsAt e 80 16
/-- KEYSLOT. -/
def pteKey (e : Nat) : Nat := bitsAt e 96 10
/-- A one-bit field: P 106, W 107, COW 108, SEALED 109, COMMONS 110, AFFEN 113, COMPRESS 120, LEGACY 121. -/
def pteBit (e i : Nat) : Bool := bitsAt e i 1 = 1
/-- CCLASS. -/
def pteClass (e : Nat) : Nat := bitsAt e 111 2
/-- AFFSLICE. -/
def pteSlice (e : Nat) : Nat := bitsAt e 114 6
/-- SIZE. -/
def pteSize (e : Nat) : Nat := bitsAt e 122 2

/-- A table pointer uses P, SIZE and FRAME alone, and its FRAME is even (R80). -/
def pointerOk (e : Nat) : Bool := pteFrame e % 2 = 0 && e = pteFrame e + 2 ^ 106 + 3 * 2 ^ 122

/-- A leaf's reserved fields and values are as R79 and R80 ask; `large` marks a page above 4 KiB. -/
def leafOk (e : Nat) : Bool :=
  bitsAt e 124 4 = 0 && pteClass e ≠ 3 && pteSlice e < 48
  && (pteSize e = 0 || (!pteBit e 108 && !pteBit e 109 && !pteBit e 110))
  && (pteSize e ≠ 2 || pteFrame e % 512 = 0)

/-! ## Keys and encryption (R85, R377) -/

/-- The session may translate through a key slot, and the slot is loaded on the die (R377). -/
def State.keyOk (s : State) (session slot die : Nat) : Bool :=
  let lent := s.ctx session 1012 1 = 1 && s.sessionState (s.ctx session 992 10) = 2 && slot = s.keyslot (s.ctx session 992 10)
  (slot = 0 || slot = s.keyslot session || slot = s.tkeyslot session || lent)
    && (slot = 0 || ((s.die die).keys.get? slot).isSome)

/-- The key pair that a slot holds on a die, none for slot 0. -/
def State.keyPair (s : State) (slot die : Nat) : Option (BitVec 512) := if slot = 0 then none else (s.die die).keys.get? slot

/-- The unit of an access is shown under the access's key slot, unless the home slice holds its plaintext (R85). -/
def State.rekey (s : State) (loc : Loc) : State :=
  if (s.die (homeDie loc.pa)).l2.any fun l => l.pa = lineOf loc.pa then s
  else s.rekeyUnit (s.keyPair loc.key (homeDie loc.pa)) (loc.pa / 256)

/-! ## Cache placement and tags (R15, R87, R98 to R102, R412) -/

/-- The set-group map that applies to a line: the commons map, or the map of the paddock (R98). -/
def State.mapOf (s : State) (die paddock : Nat) (commons : Bool) : MapReg :=
  if commons then (s.die die).mapc else (s.die die).maps.getD paddock (MapReg.reset 0)

/-- The group of R98. -/
def groupOf (m : MapReg) (h : Nat) : Nat := (m.sgbase.toNat + h % 2 ^ m.sglog.toNat) % 32

/-- Slice and set of a line in its home L2 (R17, R98, R102). -/
def State.l2Place (s : State) (loc : Loc) (paddock : Nat) : Nat × Nat :=
  let n := bitsAt loc.pa 8 29
  let (slice, m) := match loc.aff with
    | some a => (a, n)
    | none => (n % 48, n / 48)
  let nat_ := m % 1024
  (slice, groupOf (s.mapOf (homeDie loc.pa) paddock loc.commons) (nat_ / 32) * 32 + nat_ % 32)

/-- Set of a line in a die's remote-data cache (R98). -/
def State.rdcSet (s : State) (die : Nat) (loc : Loc) (paddock : Nat) : Nat :=
  let nat_ := bitsAt loc.pa 8 29 % 16384
  groupOf (s.mapOf die paddock loc.commons) (nat_ / 512) * 512 + nat_ % 512

/-- The way a fill takes: the lowest free way of the mask, else the least recent line's (R100). -/
def fillWay (lines : List Line) (slice set mask : Nat) : Option Nat :=
  let here := lines.filter fun l => l.slice = slice && l.set = set
  let ways := (List.range 16).filter fun w => bitsAt mask w 1 = 1
  match ways.find? fun w => here.all fun l => l.way ≠ w with
  | some w => some w
  | none => (here.find? fun l => bitsAt mask l.way 1 = 1).map (·.way)

/-- The way mask of a fill: CWAYS for a commons line, none while the commons gate is closed (R99, R100). -/
def State.fillMask (s : State) (die : Nat) (loc : Loc) : Nat :=
  if loc.commons then (if (s.die die).gateClosed then 0 else (s.die die).mapc.cways.toNat) else s.wayMask loc.session

/-- L1 copies of a 256-byte line in the clusters of a die that its presence bits mark are invalidated (R87). -/
def State.dropL1 (s : State) (die line : Nat) (presence : BitVec 24) : State :=
  { s with cores := s.cores.map fun (c, k) =>
      (c, if dieOf c = die && presence.getLsbD (clusterOf c) then { k with l1 := k.l1.filter fun x => lineOf x.pa ≠ line } else k) }

/-- Copies of `n` bytes in every L1, decoder copy and remote-data cache are invalidated: what hardware does as it gives a frame new contents
(R89, R129; log entry 21). -/
def State.dropStale (s : State) (pa n : Nat) : State :=
  let apart (base size : Nat) : Bool := base + size ≤ pa || pa + n ≤ base
  let s := s.mapCores fun k => { k with l1 := k.l1.filter (fun x => apart x.pa 64), decoders := k.decoders.filter fun x => apart x.pa x.bytes.length }
  s.mapDies fun d => { d with rdc := d.rdc.filter fun x => apart x.pa 256 }

/-- The placement record counts a line fill of private data for a die's cores; a line of a page table has no virtual base and counts for none
(R387; log entry 107). -/
def State.countFill (s : State) (die : Nat) (loc : Loc) : State :=
  if loc.commons || loc.table then s
  else s.onDie (homeDie loc.pa) fun d =>
    let r := loc.pa / 65536
    let old := (d.placement.find? fun p => p.region = r).getD ⟨r, [0, 0, 0, 0], loc.session, 0⟩
    let c := old.counts.getD die 0
    let new := { old with counts := setNth old.counts die (if c = 255 then 255 else c + 1), session := loc.session,
                          va := loc.va / 65536 * 65536 }
    { d with placement := new :: d.placement.filter fun p => p.region ≠ r }

/-- The line of an access in its home L2, if it is there. -/
def State.l2Line? (s : State) (loc : Loc) (paddock : Nat) : Option Line :=
  let (slice, set) := s.l2Place loc paddock
  (s.die (homeDie loc.pa)).l2.find? fun l => l.pa = lineOf loc.pa && l.slice = slice && l.set = set

/-- Lines of a set with one put in as the most recent, or where a fill of a page of CCLASS 1 or 2 puts it, as the least (R90, R100). -/
def putLine (rest : List Line) (l : Line) (cclass : Nat) : List Line := if cclass = 0 then rest ++ [l] else l :: rest

/-- The 64-byte sectors of a line that `n` bytes at an address touch. -/
def sectorsOf (pa n : Nat) : BitVec 4 :=
  BitVec.ofNat 4 (((List.range 4).filter fun i => pa % 256 < 64 * i + 64 && 64 * i < pa % 256 + n).map (2 ^ ·)).sum

/-- A line is touched or filled in the home L2 for an access of `n` bytes. `write` marks its sectors dirty (R87, R90, R100). -/
def State.touchL2 (s : State) (ag : Agent) (loc : Loc) (write : Bool) (n : Nat := 1) : State :=
  let d := homeDie loc.pa
  let bit : BitVec 4 := sectorsOf loc.pa n
  let pad := s.paddockOf ag.session
  let (slice, set) := s.l2Place loc pad
  let lines := (s.die d).l2
  match s.l2Line? loc pad with
  | some l =>
    let rest := lines.filter fun x => !(x.pa = l.pa && x.slice = slice && x.set = set)
    let l := { l with valid := if write then l.valid ||| bit else 15, dirty := if write then l.dirty ||| bit else l.dirty }
    s.onDie d fun k => { k with l2 := rest ++ [l] }
  | none =>
    match fillWay lines slice set (s.fillMask d loc) with
    | none => s
    | some w =>
      let s := match lines.find? fun l => l.slice = slice && l.set = set && l.way = w with
        | some v => s.dropL1 d v.pa v.presence
        | none => s
      let rest := lines.filter fun l => !(l.slice = slice && l.set = set && l.way = w)
      let new : Line := ⟨lineOf loc.pa, slice, set, w, if loc.commons then none else some ag.session, loc.key, pad,
        if write then bit else 15, if write then bit else 0, 0, 0, [], none⟩
      let s := s.onDie d fun k => { k with l2 := putLine rest new loc.cclass }
      s.countFill ag.die loc

/-- Which of the four sectors of a line are poisoned. -/
def State.sectorPoison (s : State) (line : Nat) : BitVec 4 :=
  BitVec.ofNat 4 (((List.range 4).filter fun i => s.memPoisoned (line + 64 * i) 64).map (2 ^ ·)).sum

/-- A line comes to a die's remote-data cache with bytes that have reached it: in the way that holds it already, or in that of a fill (R18, R88,
R98, R100). -/
def State.fillRdc (s : State) (ag : Agent) (loc : Loc) (bytes : List Byte) : State :=
  if loc.cclass = 2 then s
  else
    let line := lineOf loc.pa
    let pad := s.paddockOf ag.session
    let set := s.rdcSet ag.die loc pad
    let lines := (s.die ag.die).rdc
    let here := lines.find? fun l => l.pa = line && l.set = set
    match (match here with | some l => some l.way | none => fillWay lines 0 set (s.fillMask ag.die loc)) with
    | none => s
    | some w =>
      let rest := lines.filter fun l => !(l.set = set && l.way = w)
      let filler := match here with
        | some l => l.session
        | none => if loc.commons then none else some ag.session
      let new : Line := ⟨line, 0, set, w, filler, loc.key, pad, 15, 0, 0, s.sectorPoison line, bytes, if loc.table then some (s.pasid ag.session) else none⟩
      let s := s.onDie ag.die fun k => { k with rdc := putLine rest new (if here.isSome then 0 else loc.cclass) }
      if here.isSome then s else s.countFill ag.die loc

/-- Occupancy of a slice by a session, or by the commons: its lines that such a filler has brought in and that are still there (R101). The
slice's counter has 15 bits. -/
def Die.occupancy (d : Die) (slice : Nat) (session : Option Nat) : BitVec 15 :=
  BitVec.ofNat 15 (d.l2.countP fun l => l.slice = slice && l.session = session)

/-- Occupancy of a remote-data cache by a session or by the commons, a counter of 20 bits (R101). -/
def Die.remoteOccupancy (d : Die) (session : Option Nat) : BitVec 20 := BitVec.ofNat 20 (d.rdc.countP fun l => l.session = session)

/-- The remote-data cache line of an access, found by the map under which it was filled (R98). -/
def State.rdcHit (s : State) (ag : Agent) (loc : Loc) : Option Line :=
  let set := s.rdcSet ag.die loc (s.paddockOf ag.session)
  (s.die ag.die).rdc.find? fun l => l.pa = lineOf loc.pa && l.set = set

/-- A line of a 64-byte L1 data cache is allocated: 8 ways in 256 sets, the least recent leaving (R86; log entry 20). -/
def l1Fill (l : List L1Line) (x : L1Line) : List L1Line :=
  let l := l.filter fun y => y.pa ≠ x.pa
  let same := l.filter fun y => y.pa / 64 % 256 = x.pa / 64 % 256
  let l := if same.length < 8 then l else l.filter fun y => some y.pa ≠ same.head?.map (·.pa)
  l ++ [x]

/-- The bytes of an access from a longer run of bytes that starts at `base`. -/
def slice (bs : List Byte) (base pa n : Nat) : List Byte := (bs.drop (pa - base)).take n

/-- The L1 of the issuing core allocates the line of an access, with the bytes and the poison that it now has below; the L2 includes every such
line of its own die and marks the cluster (R86, R87, R90). -/
def State.fillL1 (s : State) (ag : Agent) (loc : Loc) (line64 : List Byte) (poison : Bool) : State :=
  match ag.core with
  | none => s
  | some c =>
    let pad := s.paddockOf ag.session
    let near := homeDie loc.pa = ag.die
    if loc.cclass ≠ 0 || (near && (s.l2Line? loc pad).isNone) then s
    else
      let s := s.onCore c fun k => { k with l1 := l1Fill k.l1 ⟨loc.pa / 64 * 64, loc.commons, loc.key, poison, line64⟩ }
      if near then
        let (slice, set) := s.l2Place loc pad
        let mark (l : Line) : Line :=
          if l.pa = lineOf loc.pa && l.slice = slice && l.set = set then
            { l with presence := l.presence ||| BitVec.ofNat 24 (2 ^ clusterOf c) } else l
        s.onDie ag.die fun d => { d with l2 := d.l2.map mark }
      else s

/-- A hit in a remote-data cache makes its line the most recent (R100). -/
def State.touchRdc (s : State) (die : Nat) (l : Line) : State :=
  s.onDie die fun k => { k with rdc := k.rdc.filter (fun (x : Line) => !(x.pa = l.pa && x.set = l.set)) ++ [l] }

/-- A crossbar-cache copy is kept of a line read from another sector's slice: 8 ways in 256 sets a sector (R15). That the set is the line
number modulo 256 and that the least recent line of a set leaves is the model's choice (DESIGN CHOICE, log entry 20). -/
def State.touchXbar (s : State) (ag : Agent) (loc : Loc) : State :=
  match ag.core with
  | none => s
  | some c =>
    let sector := c % 96 / 32
    let home := (s.l2Place loc (s.paddockOf ag.session)).1 / 16
    if homeDie loc.pa ≠ dieOf c ∨ home = sector then s
    else s.onDie (dieOf c) fun d =>
      let l := d.xbar.filter fun x => x ≠ (sector, lineOf loc.pa)
      let same := l.filter fun x => x.1 = sector && x.2 / 256 % 256 = loc.pa / 256 % 256
      { d with xbar := (if same.length < 8 then l else l.filter fun x => some x ≠ same.head?) ++ [(sector, lineOf loc.pa)] }

/-! ## Reads and writes past translation -/

/-- The bytes that an access reads and whether they are poisoned, in the order of the cache rules: L1, then the remote-data cache or the home
slice (R86 to R90, R464). None when the line is homed on another die and the read goes over the fabric. `l1` is false for a read that passes
beside the L1 data cache. -/
def State.cacheRead (s : State) (ag : Agent) (loc : Loc) (n : Nat) (l1 : Bool := true) : Option (State × List Byte × Bool) :=
  let data : Option L1Line := match ag.core with
    | some c => if loc.cclass = 2 || !l1 then none else (s.core c).l1.find? fun (x : L1Line) => x.pa = loc.pa / 64 * 64
    | none => none
  let keep (s : State) (line64 : List Byte) (bad : Bool) : State := if l1 then s.fillL1 ag loc line64 bad else s
  let at64 := loc.pa / 64 * 64
  match data with
  | some x => some (match ag.core with
      | some c => s.onCore c fun k => { k with l1 := l1Fill k.l1 x }
      | none => s, slice x.bytes x.pa loc.pa n, x.poison)
  | none =>
    if homeDie loc.pa = ag.die then
      let s := (s.touchL2 ag loc false).touchXbar ag loc
      some (keep s (Memory.bytes s.mem at64 64) (s.memPoisoned at64 64), Memory.bytes s.mem loc.pa n, s.memPoisoned loc.pa n)
    else if loc.cclass = 2 then none
    else match s.rdcHit ag loc with
      | some l =>
        let bad := l.poison.getLsbD (loc.pa % 256 / 64)
        some (keep (s.touchRdc ag.die l) (slice l.bytes l.pa at64 64) bad, slice l.bytes l.pa loc.pa n, bad)
      | none => none

/-- Bytes of a copy that starts at `base` with a write laid over them. -/
def overlay (bs : List Byte) (base pa : Nat) (new : List Byte) : List Byte :=
  (bs.zipIdx).map fun (b, i) => if pa ≤ base + i ∧ base + i < pa + new.length then new.getD (base + i - pa) 0 else b

/-- The poison of whole sectors that a write covers is cleared (R464). -/
def State.clearPoison (s : State) (pa n : Nat) : State :=
  { s with memPoison := s.memPoison.filter fun c => !(pa ≤ 64 * c && 64 * c + 64 ≤ pa + n) }

/-- A write is performed at its home slice (R15, R20, R87, R104). A die that is removed discards it (R473). -/
def State.performWrite (s : State) (pa : Nat) (bs : List Byte) : State :=
  if !(s.die (homeDie pa)).live then s
  else
    let s := (s.dropXbar pa bs.length).clearPoison pa bs.length
    { s with mem := Memory.write s.mem pa bs }

/-- Whole 256-byte units of a frame are given new contents under a key pair; no stale copy and no poison is left (R85, R380). -/
def State.putUnits (s : State) (pa : Nat) (bs : List Byte) (key : Option (BitVec 512)) : State :=
  let s := ((s.dropXbar pa bs.length).dropStale pa bs.length).clearPoison pa bs.length
  { s with mem := Memory.write s.mem pa bs
           memKeys := (List.range (bs.length / 256)).foldl (fun m i => setKey m (pa / 256 + i) key) s.memKeys }

/-- Bytes of module memory copied, with their poison by sector (R464), into whole units that are encrypted there under a key pair (R83, R388). -/
def State.copyBytes (s : State) (src dst n : Nat) (key : Option (BitVec 512)) : State :=
  let bad := (List.range (n / 64)).filter fun i => !(s.die (homeDie src)).live || s.memPoison.contains (src / 64 + i)
  let all := (List.range (n / 64)).map (dst / 64 + ·)
  let s := (s.dropXbar dst n).dropStale dst n
  { s with mem := Memory.write s.mem dst (Memory.bytes s.mem src n),
           memPoison := setMark true (bad.map (dst / 64 + ·)) (setMark false all s.memPoison),
           memKeys := (List.range (n / 256)).foldl (fun m i => setKey m (dst / 256 + i) key) s.memKeys }

/-- Whole sectors that a write covers are no longer poisoned in a copy of a 64-byte line (R464). -/
def overPoison (poison : Bool) (base pa n : Nat) : Bool := poison && !(pa ≤ base && base + 64 ≤ pa + n)

/-- The issuing core's L1 copy of a line is updated as a store passes (R86). -/
def State.storeL1 (s : State) (ag : Agent) (pa : Nat) (bs : List Byte) : State :=
  match ag.core with
  | some c => s.onCore c fun k => { k with l1 := k.l1.map fun x =>
      { x with bytes := overlay x.bytes x.pa pa bs, poison := overPoison x.poison x.pa pa bs.length } }
  | none => s

/-- The issuing die's remote-data cache copy is updated by a store to a remote line, with its poison, and becomes the most recent (R88, R100,
R464). -/
def State.storeRdc (s : State) (die pa : Nat) (bs : List Byte) (bad : Bool := false) : State :=
  let poison (x : Line) : BitVec 4 := BitVec.ofNat 4 (((List.range 4).filter fun i =>
    overPoison (x.poison.getLsbD i) (x.pa + 64 * i) pa bs.length || (bad && (sectorsOf pa bs.length).getLsbD i)).map (2 ^ ·)).sum
  s.onDie die fun k => { k with rdc := k.rdc.filter (fun x => x.pa ≠ lineOf pa) ++
    (k.rdc.filter fun x => x.pa = lineOf pa).map fun x => { x with bytes := overlay x.bytes x.pa pa bs, poison := poison x } }

/-- The issuing core's L1 copy and the issuing die's remote-data cache copy of a line are invalidated (R96, R258). -/
def State.dropCopies (s : State) (ag : Agent) (pa : Nat) : State :=
  let s := match ag.core with
    | some c => s.onCore c fun k => { k with l1 := k.l1.filter fun x => x.pa ≠ pa / 64 * 64 }
    | none => s
  if homeDie pa = ag.die then s
  else s.onDie ag.die fun k => { k with rdc := k.rdc.filter fun x => x.pa ≠ lineOf pa }

/-- The mutable lines of a paddock in a die's remote-data cache are invalidated (R88). -/
def State.dropMutable (s : State) (die paddock : Nat) : State :=
  s.onDie die fun d => { d with rdc := d.rdc.filter fun l => l.session.isNone || l.paddock ≠ paddock }

/-- The invalidation that an acquire applies (R86, R88, R109). -/
def State.acquire (s : State) (core session : Nat) (sc : Scope) : State :=
  let drop (s : State) : State := s.onCore core fun k => { k with l1 := k.l1.filter (·.commons) }
  match sc with
  | .fl => s
  | .hd => s
  | .cl => drop s
  | .di => drop s
  | _ => (drop s).dropMutable (dieOf core) (s.paddockOf session)

/-! ## Ordered packets that are not performed yet -/

/-- The ordered packet of an event, if it is one on its way, and whether it has been sent. -/
def packetOf (e : Event) : Option (FabPacket × Bool) :=
  match e with
  | .orderedPacketSend p => some (p, false)
  | .orderedPacketArrival p => some (p, true)
  | _ => none

/-- Packets that have not entered the fabric. -/
def State.unsent (s : State) : List FabPacket :=
  s.agenda.filterMap fun e => match packetOf e with
    | some (p, false) => some p
    | _ => none

/-- Packets that are not yet performed at their home: not sent, on the links, or waiting in an early-packet buffer. -/
def State.undelivered (s : State) : List FabPacket :=
  (s.agenda.filterMap fun e => (packetOf e).map (·.1)) ++ s.dies.flatMap fun d => d.nets.flatMap fun n => n.early

/-- A die has no packet of a network that waits to enter the fabric. -/
def State.sentAll (s : State) (die net : Nat) : Bool := s.unsent.all fun p => !(p.src = die && p.net = net)

/-- Every ordered packet of a network is performed. -/
def State.netIdle (s : State) (net : Nat) : Bool := s.undelivered.all fun p => p.net ≠ net

/-- The physical address of an act. -/
def actPa : MemAct → Nat
  | .write loc _ => loc.pa
  | .atom _ _ loc _ _ _ => loc.pa
  | .poison pa _ => pa

/-- An undelivered packet of a die performs an atomic in a 256-byte line. -/
def State.atomInFlight (s : State) (die pa : Nat) : Bool :=
  s.undelivered.any fun p => p.src = die && p.acts.any fun a => match a with
    | .atom _ _ loc _ _ _ => lineOf loc.pa = lineOf pa
    | _ => false

/-- The bytes of a line of another die as they come to a die's remote-data cache: with the die's own writes that have still to reach the home
laid over them, in the order in which they enter the fabric (R88, R126; log entry 7). -/
def State.lineBytes (s : State) (die line : Nat) : List Byte :=
  let mine := sortBy (fun (p q : FabPacket) => p.id ≤ q.id) (s.undelivered.filter fun p => p.src = die)
  (mine.flatMap FabPacket.acts).foldl (fun bs a => match a with
    | .write loc new => overlay bs line loc.pa new
    | _ => bs) (Memory.bytes s.mem line 256)

/-! ## Reads over the fabric -/

/-- The caches of the reader's die take a line that has come from its home (R18, R86, R88). -/
def State.fillFrom (s : State) (ag : Agent) (loc : Loc) (rdc l1 : Bool := true) : State :=
  let s := s.touchL2 ag loc false
  if s.atomInFlight ag.die loc.pa then s
  else
    let line := s.lineBytes ag.die (lineOf loc.pa)
    let s := if rdc then s.fillRdc ag loc line else s
    if l1 then s.fillL1 ag loc (slice line (lineOf loc.pa) (loc.pa / 64 * 64) 64) (s.memPoisoned (loc.pa / 64 * 64) 64) else s

/-- A read from one die of another's memory can be made at this moment: no ordered packet of the reader's die waits to enter the fabric, the
die does not hold its reads, the route carries traffic, and the home would serve the request at once (R18, R396, R467). -/
def State.readNow (s : State) (ag : Agent) (home : Nat) : Bool :=
  let net := s.netOf ag.session
  s.sentAll ag.die net && !s.holds ag.die && s.routeOpen ag.die home && s.servedNow ag.die home net

/-- A write of a die to a home can leave at this moment, or is discarded as that of a die that is removed (R467, R472, R473). -/
def State.writeNow (s : State) (die pa : Nat) : Bool :=
  homeDie pa = die || !(s.die (homeDie pa)).live || (!s.holds die && s.routeOpen die (homeDie pa))

/-- An agent's die reaches the home of an address at this moment: it is its own, a read of it could be made, or it is removed and answers with
poison (R473). -/
def State.reachNow (s : State) (ag : Agent) (pa : Nat) : Bool :=
  homeDie pa = ag.die || !(s.die (homeDie pa)).live || s.readNow ag (homeDie pa)

/-- A read that is made as a whole: from a copy or the issuing die's slice, or over the fabric at the moment at which its request can be
served there at once; none while it has to wait for that. It gives the bytes and whether they are poisoned or their die is gone (R18, R396,
R473; log entry 7). -/
def State.readThrough (s : State) (ag : Agent) (loc : Loc) (n : Nat) (l1 : Bool := true) : Option (State × List Byte × Bool) :=
  let home := homeDie loc.pa
  match s.cacheRead ag loc n l1 with
  | some r => some r
  | none =>
    if !(s.die home).live then some (s, List.replicate n 0, true)
    else if !s.readNow ag home then none
    else some ((s.fillFrom ag loc true l1).shipRead ag.session ag.die home,
      slice (s.lineBytes ag.die (lineOf loc.pa)) (lineOf loc.pa) loc.pa n, s.memPoisoned loc.pa n)

/-! ## Pools (R375) -/

/-- COUNT, CAP and ARRAY of a pool header. -/
def State.poolCount (s : State) (h : Nat) : Nat := s.clearNum h 4
/-- CAP of a pool header. -/
def State.poolCap (s : State) (h : Nat) : Nat := s.clearNum (h + 4) 4

/-- A frame is taken from a pool: entry COUNT - 1. -/
def State.poolTake (s : State) (h : Nat) : Option (State × Nat) :=
  let n := s.poolCount h
  if n = 0 then none
  else
    let array := s.clearNum (h + 8) 8
    some (s.putNum h 4 (n - 1), s.clearNum (array + 8 * (n - 1)) 8 % 2 ^ 40)

/-- A frame is returned to a pool; a full pool makes the return wait (R375). -/
def State.poolReturn (s : State) (die h frame : Nat) : State :=
  let n := s.poolCount h
  if n < s.poolCap h then
    let array := s.clearNum (h + 8) 8
    (s.putNum (array + 8 * n) 8 frame).putNum h 4 (n + 1)
  else (s.post (.poolReturnRetry die h frame (s.die die).cycle)).post (.poolReturnStall die h frame (s.die die).cycle)

/-- The frame pool of a session on a die (R372, R375). -/
def State.framePool (s : State) (session die : Nat) : Nat := s.ctx session 640 64 + 64 * die

/-- The table pool of a session on a die (R372, R375). -/
def State.tablePool (s : State) (session die : Nat) : Nat := s.ctx session 640 64 + 256 + 64 * die

/-! ## The page walk (R78, R81) -/

/-- Where a table entry lies. That tables are read through key slot 0 and with cache class 0 is the model's choice (DESIGN CHOICE, log entry 21):
R78 to R81 state neither. -/
def tableLoc (session pa : Nat) : Loc := ⟨pa, pa, 0, 0, false, none, session, true⟩

/-- The cause that stands for no cause: a walk needs a read that cannot be made at this moment, and its access is made again (R81, R396). Causes
of traps begin at 1 (R417). -/
def notYet : Nat := 0

/-- The copy of a table line that an agent's walker finds in its die's remote-data cache (R81; log entry 21). -/
def State.tableCopy (s : State) (by_ : Option Agent) (pa : Nat) : Option Line :=
  by_.bind fun ag => if homeDie pa = ag.die then none else s.rdcHit ag (tableLoc ag.session pa)

/-- The bytes of a table with their poison: as a copy on the walker's die holds them, or as the home slice does. -/
def State.tableBytes (s : State) (by_ : Option Agent) (pa n : Nat) : List Byte × Bool :=
  match s.tableCopy by_ pa with
  | some l => (slice l.bytes l.pa pa n, l.poison.getLsbD (pa % 256 / 64))
  | none => (s.clearBytes pa n, s.memPoisoned pa n)

/-- The line of a table entry is touched or filled in the caches that its walk passes, as an ordinary load does beside the L1 (R81). -/
def State.tableTouch (s : State) (ag : Agent) (pa : Nat) : State :=
  match (s.rekey (tableLoc ag.session pa)).readThrough ag (tableLoc ag.session pa) 16 false with
  | some (s, _) => s
  | none => s

/-- One 16-byte entry, with the cause that stops the walk: poisoned data, or a frame whose die is removed (R454), or one
outside module memory (R16); `notYet` where a walker has to ask another die that cannot serve it at this moment. -/
def State.readEntry (s : State) (by_ : Option Agent) (pa : Nat) : Except Nat Nat :=
  let far (ag : Agent) : Bool := homeDie pa ≠ ag.die && (s.tableCopy by_ pa).isNone && !s.readNow ag (homeDie pa)
  if !inModule pa then .error 0x05
  else
    let (bs, bad) := s.tableBytes by_ pa 16
    if !(s.die (homeDie pa)).live || bad then .error 0x17
    else if by_.any far then .error notYet
    else .ok (ofBytes bs)

/-- The sixteen entries of a 64 KiB page agree with the one at index `i` (R80). -/
def State.groupOk (s : State) (by_ : Option Agent) (table i e : Nat) : Except Nat Bool :=
  (List.range 16).foldl (fun x k => match x with
    | .error c => .error c
    | .ok b => match s.readEntry by_ (table + 16 * (i / 16 * 16 + k)) with
      | .error c => .error c
      | .ok v => .ok (b && v = withBits e 0 40 (pteFrame e / 16 * 16 + k))) (.ok (pteFrame e % 16 = i % 16))

/-- A table index of a virtual address (R78). -/
def vaIndex (va level : Nat) : Nat := bitsAt va (12 + 9 * level) 9

/-- The four-level walk (R78): the address of the entry and the entry of a present, well-formed page. -/
def State.walkFrom (s : State) (by_ : Option Agent) (va : Nat) : Nat → Nat → Except Nat (Nat × Nat)
  | 0, table =>
    let pa := table + 16 * vaIndex va 0
    match s.readEntry by_ pa with
    | .error c => .error c
    | .ok e =>
      if !pteBit e 106 || 1 < pteSize e || !leafOk e then .error 0x05
      else if pteSize e = 1 then match s.groupOk by_ table (vaIndex va 0) e with
        | .error c => .error c
        | .ok b => if b then .ok (pa, e) else .error 0x05
      else .ok (pa, e)
  | l + 1, table =>
    let pa := table + 16 * vaIndex va (l + 1)
    match s.readEntry by_ pa with
    | .error c => .error c
    | .ok e =>
      if !pteBit e 106 then .error 0x05
      else if pteSize e = 3 then (if pointerOk e then s.walkFrom by_ va l (pteFrame e * 2 ^ 12) else .error 0x05)
      else if l = 0 && pteSize e = 2 && leafOk e then .ok (pa, e)
      else .error 0x05

/-- The walk of the tables of an agent's session. -/
def State.walkBy (s : State) (ag : Agent) (va : Nat) : Except Nat (Nat × Nat) := s.walkFrom (some ag) va 3 (s.root ag.session * 2 ^ 12)

/-- An agent that acts for a session at a die, but for no core. -/
def deviceAgent (session die : Nat) : Agent := ⟨session, die, none⟩

/-- The walk of a session's tables by hardware that changes an entry, at the home slices themselves. -/
def State.walk (s : State) (session va : Nat) : Except Nat (Nat × Nat) := s.walkFrom none va 3 (s.root session * 2 ^ 12)

/-- The tables of a walk pass through the caches: the home slice on the walker's die, the remote-data cache and the home slice for another's
(R81). -/
def State.walkTouch (s : State) (ag : Agent) (va : Nat) : Nat → Nat → State
  | 0, table => s.tableTouch ag (table + 16 * vaIndex va 0)
  | l + 1, table =>
    let pa := table + 16 * vaIndex va (l + 1)
    match s.readEntry (some ag) pa with
    | .error _ => s
    | .ok e =>
      let t := s.tableTouch ag pa
      if pteBit e 106 && pteSize e = 3 && pointerOk e then t.walkTouch ag va l (pteFrame e * 2 ^ 12) else t

/-! ## TLB copies (R81, R361) -/

/-- The page base that a TLB entry of a size covers. -/
def pageBase (size va : Nat) : Nat := if size = 0 then va / 2 ^ 12 else if size = 1 then va / 2 ^ 16 else va / 2 ^ 21

/-- A copy of the translation of an address. -/
def TlbEntry.covers (t : TlbEntry) (pasid va : Nat) : Bool := t.pasid = pasid && t.page = pageBase t.size va

/-- The entry for an address from a TLB copy of its page: a 64 KiB copy serves all sixteen entries (R80). -/
def TlbEntry.serve (t : TlbEntry) (va : Nat) : Nat :=
  let e := t.entry.toNat
  if t.size = 1 then withBits e 0 40 (pteFrame e / 16 * 16 + bitsAt va 12 4) else e

/-- A TLB with a copy added as its most recent; the least recent leaves when it is full (log entry 8). -/
def tlbAdd (size : Nat) (t : TlbEntry) (l : List TlbEntry) : List TlbEntry :=
  let l := l.filter fun x => !(x.pasid = t.pasid && x.size = t.size && x.page = t.page)
  (if size ≤ l.length then l.drop 1 else l) ++ [t]

/-- The entry that an access of a core or another agent translates through, and the state with the TLB copies it
leaves. -/
def State.lookup (s : State) (ag : Agent) (va : Nat) : Except Nat (State × Nat) :=
  let pasid := s.pasid ag.session
  let copy (s : State) (c : Nat) (t : TlbEntry) : State :=
    (s.onCore c fun k => { k with tlb := tlbAdd 64 t k.tlb }).onDie (dieOf c) fun d =>
      { d with tlb2 := SMap.put d.tlb2 [] (clusterOf c) (tlbAdd 4096 t (SMap.get d.tlb2 [] (clusterOf c))) }
  let hit := match ag.core with
    | none => none
    | some c => ((s.core c).tlb ++ SMap.get (s.die (dieOf c)).tlb2 [] (clusterOf c)).find? fun t => t.covers pasid va
  match hit with
  | some t => .ok (match ag.core with
      | some c => copy s c t
      | none => s, t.serve va)
  | none => match s.walkBy ag va with
    | .error c => .error c
    | .ok (_, e) =>
      let s := s.walkTouch ag va 3 (s.root ag.session * 2 ^ 12)
      .ok (match ag.core with
        | some c => copy s c ⟨pasid, pteSize e, pageBase (pteSize e) va, BitVec.ofNat 128 e⟩
        | none => s, e)

/-- A TLB invalidation names a page of a cached decoder table, at one of the addresses under which it has been used (R336). -/
def DecoderEntry.named (x : DecoderEntry) (keep : TlbEntry → Bool) : Bool :=
  let pages := [0, (x.pa + x.bytes.length - 1) / 4096 - x.pa / 4096]
  x.users.any fun (pasid, va) => pages.any fun i => [0, 1, 2].any fun size =>
    !keep ⟨pasid, size, pageBase size (va + 4096 * i), BitVec.ofNat 128 (x.pa / 4096 + i)⟩

/-- TLB copies on all four dies that a test does not keep are invalidated, and with them the decoder tables whose pages it names (R336) and, for
the PASIDs that `named` holds of, the lines of page tables that walks have brought to the remote-data caches (R81; log entry 21). -/
def State.keepTlb (s : State) (keep : TlbEntry → Bool) (named : Nat → Bool) : State :=
  (s.mapCores fun k => { k with tlb := k.tlb.filter keep, decoders := k.decoders.filter fun x => !x.named keep }).mapDies fun d =>
    { d with rdc := d.rdc.filter (fun x => !x.table.any named)
             tlb2 := d.tlb2.filterMap fun (c, l) => if (l.filter keep).isEmpty then none else some (c, l.filter keep) }

/-- Every TLB copy of a translation is invalidated; `va` none names every translation of the PASID. -/
def State.tlbInvalidate (s : State) (pasid : Nat) (va : Option Nat) : State :=
  s.keepTlb (fun t => match va with
    | none => t.pasid ≠ pasid
    | some a => !t.covers pasid a) (· = pasid)

/-- Hardware at a die invalidates every copy of a session's translation, and tells the other three dies over the network of the session's
paddock (R81, R391). -/
def State.tlbTell (s : State) (session src : Nat) (va : Option Nat) : State :=
  ((List.range 4).filter (· ≠ src)).foldl (fun s d => s.shipNew .control session src d) (s.tlbInvalidate (s.pasid session) va)

/-- A session's reference to a commons frame is given up at a die; the release goes to the frame's home (R383, R391). -/
def State.sendRelease (s : State) (session src frame : Nat) : State :=
  let id := s.nextUid
  ((s.post (.commonsRelease ⟨id, frame⟩)).bumpUid).ship .control id session src (homeDie (frame * 4096))

/-! ## Translate (R82 to R84) -/

/-- The location a leaf entry gives for an address. -/
def State.locate (s : State) (session va e : Nat) : Loc :=
  let aff := if pteBit e 113 then some (pteSlice e) else none
  let mk (pa key : Nat) (commons : Bool) : Loc := ⟨va, pa, key, pteClass e, commons, aff, session, false⟩
  if pteSize e = 2 then mk (pteFrame e * 2 ^ 12 + va % 2 ^ 21) (pteKey e) false
  else if bitsAt (pteGranules e) (bitsAt va 8 4) 1 = 1 then mk (pteOverlay e * 2 ^ 12 + va % 2 ^ 12) (s.keyslot session) false
  else mk (pteFrame e * 2 ^ 12 + va % 2 ^ 12) (pteKey e) (pteBit e 110)

/-- CopyGranule (R83, R84): granule `g` of the entry at `pa` is copied to its overlay frame. The source frame of the entry has been tested. -/
def State.copyGranule (s : State) (session va pa e : Nat) : Except Nat State :=
  let g := bitsAt va 8 4
  let d := homeDie pa
  let taken := if pteOverlay e = 0 then s.poolTake (s.framePool session d) else some (s, pteOverlay e)
  match taken with
  | none => .error 0x05
  | some (s, ov) =>
    if !inModule (ov * 2 ^ 12) then .error 0x05
    else if !s.keyOk session (s.keyslot session) (homeDie (ov * 2 ^ 12)) then .error 0x07
    else
      let own := s.keyPair (s.keyslot session) (homeDie (ov * 2 ^ 12))
      let s := (s.rekey (s.locate session va e)).copyBytes (pteFrame e * 2 ^ 12 + 256 * g) (ov * 2 ^ 12 + 256 * g) 256 own
      let gr := withBits (pteGranules e) g 1 1
      let e' := if gr = 0xFFFF then
          withBits (withBits (withBits (withBits (withBits (withBits e 0 40 ov) 40 40 0) 80 16 0) 108 1 0) 110 1 0) 96 10 (s.keyslot session)
        else withBits (withBits e 40 40 ov) 80 16 gr
      let s := s.putNum pa 16 e'
      let s := s.tlbTell session d (some va)
      .ok (if gr = 0xFFFF ∧ pteBit e 110 then s.sendRelease session d (pteFrame e) else s)

/-- A location in module memory, with its unit shown under the access's key (R16, R85). -/
def State.reach (s : State) (loc : Loc) : Except Nat (State × Loc) := if inModule loc.pa then .ok (s.rekey loc, loc) else .error 0x05

/-- The checks that an entry makes of an access: its frame, the write permission, and the key slot (R16, R82, R377). -/
def State.entryAllows (s : State) (session va : Nat) (kind : Access) (e : Nat) : Except Nat Loc :=
  let loc := s.locate session va e
  if !inModule loc.pa then .error 0x05
  else if kind ≠ .read && !pteBit e 107 then .error 0x06
  else if !s.keyOk session loc.key (homeDie loc.pa) then .error 0x07
  else .ok loc

/-- A write to a granule for which the entry asks for a copy first (R82). -/
def copyFirst (va : Nat) (kind : Access) (e : Nat) : Bool :=
  kind ≠ .read && pteSize e ≠ 2 && pteBit e 108 && bitsAt (pteGranules e) (bitsAt va 8 4) 1 = 0

/-- An access goes by an entry that it has in hand, which lies at `pa`: a copy-on-write granule is copied, and the new entry, which `again` reads,
is tested anew in full (R82, R83, R452). -/
def State.byEntry (s : State) (session va : Nat) (kind : Access) (pa e : Nat) (again : State → Except Nat Nat) : Except Nat (State × Loc) :=
  match s.entryAllows session va kind e with
  | .error c => .error c
  | .ok loc =>
    if copyFirst va kind e then match s.copyGranule session va pa e with
      | .error c => .error c
      | .ok s => match again s with
        | .error c => .error c
        | .ok e' => match s.entryAllows session va kind e' with
          | .error c => .error c
          | .ok loc => s.reach loc
    else s.reach loc

/-- The checks of an entry for an access, and the copy that a write to a copy-on-write granule makes first. The compare-and-swap of the copy acts
on the entry itself, not on a TLB copy of it, so that the walk is made again and its entry tested in full (R452). -/
def State.useEntry (s : State) (session va : Nat) (kind : Access) (e : Nat) : Except Nat (State × Loc) :=
  match s.entryAllows session va kind e with
  | .error c => .error c
  | .ok loc =>
    if copyFirst va kind e then match s.walk session va with
      | .error c => .error c
      | .ok (pa, e') => s.byEntry session va kind pa e' fun s => (s.walk session va).map (·.2)
    else s.reach loc

/-- Translate (R72, R82): the location of an access, or the cause of its failure. -/
def State.translate (s : State) (ag : Agent) (va : Nat) (kind : Access) : Except Nat (State × Loc) :=
  if 2 ^ 48 ≤ va then .error 0x05
  else match s.lookup ag va with
    | .error c => .error c
    | .ok (s, e) => s.useEntry ag.session va kind e

/-- Alignment, then translation, of one access (R77, R442 stage 4). -/
def State.checkAccess (s : State) (ag : Agent) (va n : Nat) (kind : Access) : Except Nat (State × Loc) :=
  if va % n ≠ 0 then .error 0x04 else s.translate ag va kind

/-- The state in which a flock takes a trap: as the instruction found it, but for the copies that stay (R247; log entry 61). -/
def Trap.stateOf (t : Trap) (s : State) : State :=
  t.kept.foldl (fun s k => match s.checkAccess k.agent k.va k.bytes k.kind with
    | .ok (u, _) => u
    | .error _ => s) s

end Sys2Proof.Machine
end

