-- ==== Sys2Proof/Machine/InFlight.lean ====
section
/-!
DEFINITION. Operations in flight (R45, R93): when one is complete, how counters fall in issue order, and what the acquire of an operation
applies as it completes (R86, R88, R109).
-/
namespace Sys2Proof.Machine

/-- An operation is complete when every value is known and nothing of it is still on its way. -/
def Op.complete (o : Op) : Bool := o.packets = 0 && o.pieces.all fun p => p.value.isSome

/-- The operation of a flock with an id. -/
def Flock.op? (f : Flock) (id : Nat) : Option Op := f.ops.find? (·.id == id)

/-- The flock with an operation replaced. -/
def Flock.setOp (f : Flock) (o : Op) : Flock := { f with ops := f.ops.map fun x => if x.id = o.id then o else x }

/-- The event with which an operation of a path ends. -/
def endEvent (c : Option Counter) (uid id : Nat) : Event :=
  match c with
  | some .t => .samplerResultReturn uid id
  | some .x => .treeResultReturn uid id
  | some .m => .accTransferComplete uid id
  | some .f => .ffStoreDelivered uid id
  | _ => .longLatencyReturn uid id

/-- Replies on their way fill caches no more that have been invalidated since their requests: the L1 of the flocks that `l1` holds of, and the
remote-data cache for those that `rdc` holds of. Commons lines stay (R86, R88, R109). -/
def State.stopFills (s : State) (l1 rdc : Flock → Bool) : State :=
  let mark (f : Flock) (p : Piece) : Piece :=
    if p.loc.any fun l => !l.commons then { p with noL1 := p.noL1 || l1 f, noRdc := p.noRdc || rdc f } else p
  { s with flocks := s.flocks.map fun f =>
      if l1 f || rdc f then { f with ops := f.ops.map fun o => { o with pieces := o.pieces.map (mark f) } } else f }

/-- The flocks of a die whose sessions are of a paddock. -/
def State.sharesRdc (s : State) (die paddock : Nat) (f : Flock) : Bool :=
  dieOf f.core = die && s.paddockOf (s.herdOf f).session = paddock

/-- The acquire of a core applies its invalidation, and replies on their way to the caches that it has cleared fill none of them
(R86, R88, R109). -/
def State.applyAcquire (s : State) (core session : Nat) (sc : Scope) : State :=
  let own (f : Flock) : Bool := f.core = core
  (s.acquire core session sc).stopFills (fun f => sc ≠ .fl && sc ≠ .hd && own f)
    (fun f => (sc = .mo || sc = .sy) && s.sharesRdc (dieOf core) (s.paddockOf session) f)

/-- Acquires at module or system scope, whose reads of another die's lines go to the home, and whose replies are followed by catching up
(R109, R396). -/
def acqWide (acq : Option Scope) : Bool := acq.any fun sc => sc = .mo || sc = .sy

/-- A finished operation's invalidation is applied and its end falls due. -/
def State.opProgress (s : State) (uid id : Nat) : State :=
  match s.flock? uid with
  | none => s
  | some f => match f.op? id with
    | none => s
    | some o =>
      if o.complete && !o.written then
        let s := match o.acq with
          | some sc => (s.applyAcquire f.core (s.herdOf f).session sc).onFlock uid fun f => f.setOp { o with acq := none }
          | none => s
        s.post (endEvent o.counter uid id)
      else s

/-- The operations that still hold up their counters: a written one is held by an earlier one of its path (R93). -/
def keepOps : List Counter → List Op → List Op
  | _, [] => []
  | held, o :: r =>
    match o.counter with
    | none => if o.written then keepOps held r else o :: keepOps held r
    | some c => if o.written && !held.contains c then keepOps held r else o :: keepOps (c :: held) r

end Sys2Proof.Machine
end

