-- ==== Sys2Proof/Machine/Unconfirmed.lean ====
section
/-!
DEFINITION. Issue under an unconfirmed mask, squash and replay (R54 to R58, R93, R419): what a predicted arm records as it issues, how
its lanes return to their branch, and how a resolved arm issues its instructions again.
-/
namespace Sys2Proof.Machine

/-- How an instruction acts on a path whose mask is unconfirmed (R55): it runs, it runs unless a held store of the path comes before it,
its effect is held and the path goes on, or its effect is held and the path issues nothing further until its branch resolves (log entry 6). -/
inductive Holding where
  | runs
  | loads
  | scratch
  | acquires
  | holds
  | stops
deriving DecidableEq, Repr

/-- The mask of the path is confirmed, and it has nothing to replay. -/
def Path.confirmed (p : Path) : Bool := p.guess.isNone && p.redo.isEmpty

/-- An instruction that waits for its path's mask to be resolved before it issues (R53 to R55, R263, R264). -/
def Path.mustConfirm (p : Path) : Res Unit := waitUnless p.guess.isNone

/-- A path at the start of an arm or of a block. -/
def Path.start (id pc : Nat) (mask : LaneMask) (arm : Nat) (entries : List Nat) (status : PathStatus) : Path :=
  { id := id, pc := pc, mask := mask, arm := arm, entries := entries, status := status }

/-! ## What an arm records -/

/-- The lane registers of the lanes of a set that an instruction has overwritten or emptied, each once. -/
def Flock.overwritten (f g : Flock) (m : LaneMask) : List Nat :=
  ((f.v.map (·.1) ++ g.v.map (·.1) ++ g.vEmpty ++ f.vPoison ++ g.vPoison).filter fun k => m.has (k % 1024)).eraseDups.filter fun k =>
    SMap.get f.v 0 k ≠ SMap.get g.v 0 k || (g.vEmpty.contains k && !f.vEmpty.contains k) || f.vPoison.contains k != g.vPoison.contains k

/-- What some lane registers hold. -/
def Flock.oldRegs (f : Flock) (ks : List Nat) : SMap OldReg :=
  ks.foldl (fun m k => SMap.insert m k ⟨SMap.get f.v 0 k, f.vPoison.contains k, f.vBorn.contains k⟩) []

/-- The bytes of memory that the operations of a flock from `first` on read. -/
def Flock.readsFrom (f : Flock) (first : Nat) : List (Nat × Nat) :=
  (f.ops.filter fun o => first ≤ o.id).flatMap fun o => o.pieces.filterMap fun p => p.loc.map fun l => (l.pa, p.bytes)

/-- What the path's next instruction leaves in the log: it has taken the flock from `f` to `g`. -/
def Flock.logged (f g : Flock) (p : Path) (held : Option (SMap Word32 × List LaneMask)) (flags : List (Nat × Word64)) (k : Holding) : Issued :=
  ⟨p.pc, held, flags, f.nextId, g.nextId, f.oldRegs (f.overwritten g p.mask), f.q, g.readsFrom f.nextId, k = .scratch, k = .acquires⟩

/-- The arm has issued an instruction with its effect on registers, which left the flock `f` as `g`: FLAGS stays as it was until the
branch resolves. -/
def Flock.issued (f g : Flock) (p : Path) (u : Guess) (flags : List (Nat × Word64)) (k : Holding) : Flock :=
  let u := { u with log := u.log ++ [f.logged g p none flags k] }
  { g with flags := f.flags, paths := g.paths.map fun x => if x.id = p.id then { x with guess := some u } else x }

/-- The arm has issued an instruction whose effect is held with the registers that it read. -/
def Flock.hold (f : Flock) (p : Path) (u : Guess) : Flock :=
  f.setPath { p with pc := p.pc + 1, guess := some { u with log := u.log ++ [f.logged f p (some (f.v, f.q)) [] .holds] } }

/-- The path issues nothing further until its branch resolves; `fault` says that a fault is held (R419). -/
def Flock.stall (f : Flock) (p : Path) (fault : Bool) : Flock :=
  f.setPath { p with status := .unresolved, heldFault := if fault then some p.pc else p.heldFault }

/-- A store of the arm is held. -/
def Guess.holdsStore (u : Guess) : Bool := u.log.any fun i => i.held.isSome

/-! ## Squash (R56, R58, R93) -/

/-- An instruction of a log started the operation. -/
def startedBy (log : List Issued) (o : Op) : Bool := log.any fun i => i.firstOp ≤ o.id && o.id < i.nextOp

/-- Lanes of a set leave the operations that some instructions started: their loads are discarded on return, and an operation left with no
lane withdraws its raise, whether or not it has returned. -/
def Flock.withdrawOps (f : Flock) (log : List Issued) (m : LaneMask) : Flock :=
  let left (o : Op) : List Piece := o.pieces.filter fun x => x.scalar || !m.has x.lane
  { f with ops := keepOps [] (f.ops.filterMap fun o =>
      if !startedBy log o then some o
      else if left o = [] && (o.pieces != []) then none else some { o with pieces := left o }) }

/-- The register of a key with what it held. -/
def Flock.putBack (f : Flock) (k : Nat) (x : OldReg) : Flock :=
  { f with v := SMap.put f.v 0 k x.value, vEmpty := setDel k f.vEmpty, vPoison := setMark x.poison [k] f.vPoison
           vBorn := setMark x.born [k] f.vBorn }

/-- Lanes of a set return to what they were before the instructions of a log: their registers and full bits, their predicates, and their
part in the operations that those have started. -/
def Flock.unissue (f : Flock) (log : List Issued) (m : LaneMask) : Flock :=
  let f := log.foldr (fun i f => i.undo.foldl (fun f (k, x) => if m.has (k % 1024) then f.putBack k x else f) f) f
  let f := match log.head? with
    | none => f
    | some i => { f with q := f.q.zipIdx.map fun (x, n) => (x &&& ~~~m) ||| (i.q.getD n 0 &&& m) }
  f.withdrawOps log m

/-- The operations of a log may have nothing left to wait for. -/
def State.progressOf (s : State) (uid : Nat) (log : List Issued) : State :=
  (log.flatMap fun i => (List.range i.nextOp).filter (i.firstOp ≤ ·)).eraseDups.foldl (fun s o => s.opProgress uid o) s

/-- The arms of a branch, each with its prediction. -/
def Flock.armsOf (f : Flock) (b : Branch) : List (Path × Guess) :=
  f.paths.filterMap fun p => p.guess.bind fun u => if u.branch = b.path.id then some (p, u) else none

/-- The lanes that resolve to an arm. -/
def Branch.side (b : Branch) (taken : Bool) : LaneMask := if taken then b.taken else b.path.mask &&& ~~~b.taken

/-- The FLAGS bits that lanes of a set raised in the instructions of a log. -/
def flagsOf (log : List Issued) (m : LaneMask) : Word64 :=
  log.foldl (fun x i => i.flags.foldl (fun x (l, y) => if m.has l then x ||| y else x) x) 0

/-- The instructions with which a resolved arm is done as soon as its lanes are known: those before the first that it issues again (R57). -/
def doneAtOnce (p : Path) (side : LaneMask) (log : List Issued) : List Issued :=
  if side &&& ~~~p.mask = 0 then log.takeWhile fun i => i.held.isNone else []

/-- The flock with the arms of a branch gone and its path back at the branch. The lanes of each arm that resolve elsewhere are
squashed, and the flags that the others have raised join FLAGS as far as nothing is issued again before them; with `all` every lane is
squashed. -/
def Flock.rejoin (f : Flock) (b : Branch) (all : Bool) : Flock :=
  let arms := f.armsOf b
  let f := arms.foldl (fun f (p, u) =>
    let side := b.side u.taken
    let keep : LaneMask := if all then 0 else p.mask &&& side
    let f := f.unissue u.log (p.mask &&& ~~~keep)
    { f with flags := f.flags ||| flagsOf (doneAtOnce p side u.log) keep }) f
  { f with paths := b.path :: f.paths.filter fun p => !arms.any fun x => x.1.id = p.id
           branches := f.branches.filter fun x => x.path.id ≠ b.path.id }

/-- All unconfirmed work is squashed: the path of each unresolved branch stands at its branch again (R70). -/
def Flock.squashAll (f : Flock) : Flock := f.branches.foldl (fun f b => f.rejoin b true) f

/-! ## Replay (R57, R117, R418, R419) -/

/-- What an arm issues again once its lanes are known: an instruction that has run, for the lanes that it did not run for; one whose
effect was held, for all of them. The flags of the lanes that had been predicted right join FLAGS in that order. -/
def redoList (p : Path) (side : LaneMask) : List Issued → List Redo
  | [] => []
  | i :: r =>
    let new := side &&& ~~~p.mask
    let kept := side &&& p.mask
    let done := i :: if new = 0 then r.takeWhile fun x => x.held.isNone else []
    let rest := redoList p side r
    match i.held with
    | some x => ⟨i.pc, side, some x, kept, flagsOf done kept, i :: r⟩ :: rest
    | none => if new = 0 then rest else ⟨i.pc, new, none, kept, flagsOf done kept, i :: r⟩ :: rest

/-- The path stands at the first instruction of a replay, or past it at `after`. -/
def Path.replaying (p : Path) (redo : List Redo) (after : Nat) : Path :=
  { p with redo := redo, after := after, pc := (redo.head?.map (·.pc)).getD after }

/-- A resolved arm takes over what its predicted arm has issued. -/
def Path.replay (q p : Path) (u : Guess) (side : LaneMask) : Path :=
  { q.replaying (redoList p side u.log) p.pc with heldFault := p.heldFault }

/-- The paths of a branch that has been split, each with what its predicted arm has issued. -/
def Flock.attach (f : Flock) (b : Branch) (arms : List (Path × Guess)) : Flock :=
  arms.foldl (fun f (p, u) =>
    let side := b.side u.taken
    if side = 0 then f else { f with paths := f.paths.map fun q => if q.mask = side then q.replay p u side else q }) f

/-- The registers with which an instruction whose effect was held is performed: in the lanes for which it had issued, those it then
read. -/
def Flock.swapIn (f : Flock) (r : Redo) : Flock :=
  match r.held with
  | none => f
  | some (v, q) =>
    let mine (k : Nat) : Bool := r.from_.has (k % 1024)
    { f with v := (v.filter fun x => mine x.1).foldl (fun m x => SMap.insert m x.1 x.2) (f.v.filter fun x => !mine x.1)
             q := f.q.zipIdx.map fun (x, i) => (x &&& ~~~r.from_) ||| (q.getD i 0 &&& r.from_) }

/-- The later instructions of the arm that may not keep what they have read: from the first whose lanes read before an acquire that has been
issued again for others, or read bytes that those others have only now read; any two reads of scratchpads count as such (R113, R117). -/
def Redo.tooEarly (r : Redo) (reads : List (Nat × Nat)) : List Issued :=
  let acquire := r.rest.head?.any Issued.acquire
  let scratch := r.rest.head?.any Issued.scratch
  let meets (x y : Nat × Nat) : Bool := x.1 < y.1 + y.2 && y.1 < x.1 + x.2
  (r.rest.drop 1).dropWhile fun i => !((i.scratch && (scratch || acquire)) || i.reads.any fun x => acquire || reads.any (meets x))

/-- The flock after an instruction of a replay has taken it from `f` to `g`: its registers are put back as they are, the flags of the lanes that
had issued it before join FLAGS, and its path moves on. Instructions that have read too early are undone in those lanes, and the path issues
them for all of its lanes. -/
def Flock.swapOut (g f : Flock) (p : Path) (r : Redo) : Flock :=
  let early := r.tooEarly (g.readsFrom f.nextId)
  let g := if r.held.isSome then { g with v := f.v, q := f.q } else g
  let g := ({ g with flags := g.flags ||| r.flags }).unissue early r.from_
  let rest := (p.redo.drop 1).filter fun x => early.length < x.rest.length
  let after := (early.head?.map Issued.pc).getD p.after
  { g with paths := g.paths.map fun x => if x.id = p.id then { x.replaying rest after with heldFault := p.heldFault } else x }

/-- The flock where an instruction of a replay traps: the lanes that had run it and what follows it are as before it, and its path stands at
it with all of its lanes (R418). -/
def Flock.undoFrom (f : Flock) (p : Path) (r : Redo) : Flock := (f.unissue r.rest r.from_).setPath { p with redo := [] }

end Sys2Proof.Machine
end

