-- ==== Sys2Proof/Machine/Operands.lean ====
section
/-!
DEFINITION. How an instruction issues: who issues it, the checks of its operands (stages 2 and 3 of R442), and the
operand forms of both streams (R155 to R157, R168, R171 to R174, R188).
-/
namespace Sys2Proof.Machine

/-! ## The scalar stream -/

/-- The flock whose scalar stream is issuing. -/
def State.scalarIssuer? (s : State) : Option Flock :=
  match s.cur with
  | some ⟨uid, none⟩ => s.flock? uid
  | _ => none

/-- The instruction does not issue now, and whether it waits on an empty register: the scheduler looks at this (R40 to R42). -/
def State.waiting (s : State) (empty : Bool) : State := { s with stalled := some empty }

/-- A scalar instruction as a step: it completes, waits to issue again, or traps (R188, R189). -/
def runScalarAt (site : Trap → TrapSite) (body : State → Flock → Res State) (s : State) : Host.Outcome State Fault Refusal :=
  match s.scalarIssuer? with
  | none => .fault .noIssuer
  | some f =>
    match body s f with
    | .ok s' => .next s'
    | .error (.wait e) => .next (s.waiting e)
    | .error (.trap t) => .next ((t.stateOf s).takeTrap f.uid (site t) t)

/-- A scalar instruction as a step. -/
def runScalar (body : State → Flock → Res State) (s : State) : Host.Outcome State Fault Refusal := runScalarAt (fun _ => .scalar) body s

/-- The flock with its scalar stream moved on to the next word. -/
def Flock.advance (f : Flock) : Flock := { f with spc := f.spc + 1 }

/-- The trap of an instruction that reads poison. It names the flock's most recent access that returned poison, and no address where all the
poison that the lane reads arose in a register or a tile (R464, R465). -/
def Flock.poisonTrap (f : Flock) (lane : Nat) (born : Bool) : Trap :=
  { cause := 0x17, addr := if born then 0 else f.poisonAddr,
    info := BitVec.ofNat 64 (lane + (if born then 0 else f.poisonKind.toNat) * 2 ^ 11) }

/-- The scalar registers are read: the instruction waits while one is empty (R188) and traps when one is poisoned
(R464). -/
def Flock.useS (f : Flock) (rs : List (BitVec 6)) : Res Unit :=
  if !rs.all (fun r => f.sFull r.toNat) then waitsEmpty
  else if rs.any fun r => r ≠ 0 && f.sPoison.contains r.toNat then
    .error (.trap (f.poisonTrap 0 (rs.all fun r => r = 0 || !f.sPoison.contains r.toNat || f.sBorn.contains r.toNat)))
  else .ok ()

/-- The scalar register may be written: it awaits no earlier producer (R46), and no queued or running block names it, a
stall that handler mode lifts (R34, R424). -/
def Flock.defS (f : Flock) (r : BitVec 6) : Res Unit :=
  if !f.sFull r.toNat then waitsEmpty else waitUnless (f.hmode || !f.named r.toNat)

/-- A scalar instruction that writes one register from the register file alone. -/
def scalarWrite (d : BitVec 6) (srcs : List (BitVec 6)) (value : Flock → Word64) (s : State) :
    Host.Outcome State Fault Refusal :=
  runScalar (fun s f => do
    f.useS srcs
    f.defS d
    .ok (s.setFlock (f.setS d.toNat (value f)).advance)) s

/-- A scalar instruction that writes one z predicate. -/
def scalarTest (zd : BitVec 3) (srcs : List (BitVec 6)) (value : Flock → Bool) (s : State) :
    Host.Outcome State Fault Refusal :=
  runScalar (fun s f => do
    f.useS srcs
    .ok (s.setFlock (f.setZ zd.toNat (value f)).advance)) s

/-- A register operand. -/
def Flock.rs (f : Flock) (r : BitVec 6) : Word64 := f.sreg r.toNat

/-- A 14-bit immediate, sign-extended (R163). -/
def imm14 (i : BitVec 14) : Word64 := i.signExtend 64

/-! ## The lane stream -/

/-- The flock and path whose lane stream is issuing. -/
def State.laneIssuer? (s : State) : Option (Flock × Path) :=
  match s.cur with
  | some ⟨uid, some pid⟩ => match s.flock? uid with
    | some f => (f.path? pid).map fun p => (f, p)
    | none => none
  | _ => none

/-- A lane instruction traps: at a place of its path, or as a recipe fault when it is one of a recipe (R435). -/
def State.laneTrap (s : State) (f : Flock) (p : Path) (site : TrapSite) (t : Trap) : State :=
  let s := t.stateOf s
  match f.recipe with
  | none => (s.onFlock f.uid fun g => g.setPath { p with heldFault := none }).takeTrap f.uid site { t with held := p.redo.isEmpty && p.heldFault = some p.pc }
  | some _ => s.takeTrap f.uid .recipe { cause := 0x16 }

/-- The FLAGS bits that an instruction raises in the lanes of a set. -/
def State.flagsRaised (s : State) (f : Flock) (p : Path) (body : State → Flock → Path → Res State) (m : LaneMask) : Word64 :=
  match body s { f with flags := 0 } { p with mask := m } with
  | .ok t => ((t.flock? f.uid).map Flock.flags).getD 0
  | .error _ => 0

/-- The FLAGS bits that each lane of a path would raise (R57). -/
def State.laneFlags (s : State) (f : Flock) (p : Path) (body : State → Flock → Path → Res State) : List (Nat × Word64) :=
  if s.flagsRaised f p body p.mask = 0 then []
  else (p.mask.lanes f.lanes).map fun l => (l, s.flagsRaised f p body (LaneMask.single l))

/-- A lane instruction on a path whose mask is unconfirmed (R54, R55, R419): at most 32 issue; a fault is held, and so is an effect that
another agent could see. -/
def State.issueUnsure (s : State) (k : Holding) (body : State → Flock → Path → Res State) (f : Flock) (p : Path) (u : Guess) : State :=
  if 32 ≤ u.log.length then s.waiting false
  else match body s f p with
    | .error (.wait e) => s.waiting e
    | .error (.trap t) => (t.stateOf s).setFlock (f.stall p true)
    | .ok t =>
      if k = .holds then s.setFlock (f.hold p u)
      else if k = .stops || (k ≠ .runs && u.holdsStore) then s.setFlock (f.stall p false)
      else t.onFlock f.uid fun g => f.issued g p u (s.laneFlags f p body) k

/-- A lane instruction of a replay (R57): it acts for the lanes that the replay names. Where it traps, no lane has issued it or anything after it
(R418). -/
def State.issueAgain (s : State) (site : Nat → TrapSite) (body : State → Flock → Path → Res State) (f : Flock) (p : Path) (r : Redo) :
    State :=
  let g := f.swapIn r
  match body (s.setFlock g) g { p with mask := r.lanes } with
  | .ok t => (t.onFlock f.uid fun h => h.swapOut f p r).progressOf f.uid r.rest
  | .error (.wait e) => s.waiting e
  | .error (.trap t) =>
    let h := f.undoFrom p r
    ((s.setFlock h).laneTrap h { p with redo := [], heldFault := none } (site p.id) t).progressOf f.uid r.rest

/-- A lane instruction as a step: `k` says how it acts under an unconfirmed mask, and `site` where on the path a trap is taken. -/
def runLaneAs (k : Holding) (site : Nat → TrapSite) (body : State → Flock → Path → Res State) (s : State) :
    Host.Outcome State Fault Refusal :=
  match s.laneIssuer? with
  | none => .fault .noIssuer
  | some (f, p) =>
    .next (match p.guess, p.redo with
      | some u, _ => s.issueUnsure k body f p u
      | none, r :: _ => s.issueAgain site body f p r
      | none, [] => match body s f p with
        | .ok t => t
        | .error (.wait e) => s.waiting e
        | .error (.trap t) => s.laneTrap f p (site p.id) t)

/-- A lane instruction that names the place of its trap. -/
def runLaneAt (site : Nat → TrapSite) (body : State → Flock → Path → Res State) (s : State) : Host.Outcome State Fault Refusal :=
  runLaneAs .runs site body s

/-- A lane instruction whose effect is one of the kinds of R55. -/
def runHeld (k : Holding) (body : State → Flock → Path → Res State) (s : State) : Host.Outcome State Fault Refusal :=
  runLaneAs k (fun p => .lane p none) body s

/-- A lane instruction that acts on registers alone. -/
def runLane (body : State → Flock → Path → Res State) (s : State) : Host.Outcome State Fault Refusal := runHeld .runs body s

/-- A lane instruction that waits for its path's mask to be resolved (R55). -/
def runConfirmed (body : State → Flock → Path → Res State) (s : State) : Host.Outcome State Fault Refusal :=
  runLane (fun s f p => do
    p.mustConfirm
    body s f p) s

/-- The executing lanes (R157). -/
def execMask (f : Flock) (p : Path) (w : LaneWord) : LaneMask :=
  if w.pred = 15 then p.mask
  else if w.neg then p.mask &&& ~~~(f.q.getD w.pred.toNat 0) else p.mask &&& f.q.getD w.pred.toNat 0

/-- The flock with a path moved past an instruction that has retired; in a recipe, with the recipe moved on (R70). -/
def Flock.retire (f : Flock) (pid : Nat) : Flock :=
  let f := { f with block1 := f.block1.filter (· ≠ pid) }
  match f.recipe with
  | none => { f with paths := f.paths.map fun p => if p.id = pid then { p with pc := p.pc + 1, heldFault := none } else p }
  | some r => if r.left ≤ 1 then { f with recipe := none, fpmode := r.fpmode }
    else { f with recipe := some { r with index := r.index + 1, left := r.left - 1 } }

/-- The flock with its flashback point invalidated: a fence has retired (R69). -/
def Flock.fence (f : Flock) : Flock := { f with point := none }

/-- A source field of a lane instruction: its code, modifier, number of registers, alignment, and which source it is
(0 a, 1 b, 2 c) for its FEP bit. -/
structure Src where
  code : BitVec 8
  slot : Nat
  mod : BitVec 3 := 0
  regs : Nat := 1
  align : Nat := 1
deriving DecidableEq, Repr

/-- A destination field. -/
structure Dst where
  code : BitVec 8
  regs : Nat := 1
  align : Nat := 1
deriving DecidableEq, Repr

/-- Source a of a word. -/
def srcA (w : LaneWord) (regs align : Nat := 1) : Src := ⟨w.sa, 0, w.moda, regs, align⟩
/-- Source b of a word. -/
def srcB (w : LaneWord) (regs align : Nat := 1) : Src := ⟨w.sb, 1, w.modb, regs, align⟩
/-- Source c of a word. -/
def srcC (w : LaneWord) (regs align : Nat := 1) : Src := ⟨w.sc, 2, w.modc, regs, align⟩
/-- The destination of a word. -/
def dst (w : LaneWord) (regs align : Nat := 1) : Dst := ⟨w.dest, regs, align⟩

/-- The read mask of the running block; a call flock reads no scalar register but s0 (R33, R267). -/
def Flock.blockMask (f : Flock) : Word64 :=
  match f.call, f.queue.head? with
  | none, some e => e.mask
  | _, _ => 0

/-- A lane instruction may name scalar register `n`: the bit of the running block's mask (R33). -/
def Flock.mayName (f : Flock) (n : Nat) : Bool := n = 0 || f.blockMask.getLsbD n

/-- A range of lane registers lies below the declared count and starts on its alignment (R155, R246). -/
def Flock.rangeOk (f : Flock) (code regs align : Nat) : Bool := code + regs ≤ f.regs && code % align = 0

/-- Stage 2 for one source (R155, R168, R437). -/
def Src.ok (f : Flock) (x : Src) : Bool :=
  if 192 ≤ x.code.toNat then f.mayName (x.code.toNat - 192) else f.rangeOk x.code.toNat x.regs x.align

/-- Stage 2 for one destination. -/
def Dst.ok (f : Flock) (x : Dst) : Bool := f.rangeOk x.code.toNat x.regs x.align

/-- The lane whose register a source reads for lane `l` (R171); none reads zero. -/
def laneRead (w : LaneWord) (lanes : Nat) (mod : BitVec 3) (l : Nat) : Option Nat :=
  if mod = 4 then (if bitsAt w.imm.toNat 0 11 < lanes then some (bitsAt w.imm.toNat 0 11) else none)
  else if mod = 5 then some (32 * (l / 32) + (l % 32 + bitsAt w.imm.toNat 16 5) % 32)
  else some l

/-- The source holds an empty register in lane `j`; none is a lane that reads zero (R44, R155, R171, R431). -/
def Src.emptyAt (f : Flock) (x : Src) (j : Option Nat) : Bool :=
  if 192 ≤ x.code.toNat then !f.sFull (x.code.toNat - 192)
  else match j with
    | none => false
    | some j => (List.range x.regs).any fun i => !f.vFull (x.code.toNat + i) j

/-- The source holds a poisoned register in lane `j` (R464). -/
def Src.poisonedAt (f : Flock) (x : Src) (j : Option Nat) : Bool :=
  if 192 ≤ x.code.toNat then x.code ≠ 192 && f.sPoison.contains (x.code.toNat - 192)
  else match j with
    | none => false
    | some j => (List.range x.regs).any fun i => f.vPoison.contains (laneKey (x.code.toNat + i) j)

/-- A poisoned register of the source in lane `j` was poisoned by an access (R465). -/
def Src.fetchedPoison (f : Flock) (x : Src) (j : Option Nat) : Bool :=
  if 192 ≤ x.code.toNat then f.sPoison.contains (x.code.toNat - 192) && !f.sBorn.contains (x.code.toNat - 192)
  else match j with
    | none => false
    | some j => (List.range x.regs).any fun i =>
        f.vPoison.contains (laneKey (x.code.toNat + i) j) && !f.vBorn.contains (laneKey (x.code.toNat + i) j)

/-- The trapping policy applies to the source: its FEP bit, unless this is the issue of a retry with BLOCK1 (R47, R174,
R425). -/
def Src.trapping (f : Flock) (p : Path) (w : LaneWord) (x : Src) : Bool :=
  w.fep.getLsbD x.slot && x.code ≠ 192 && !f.block1.contains p.id

/-- Stage 3 (R431, R442, R464), with `read` naming the lanes that a source reads for lane `l`: the empty-register trap names
the lowest lane and its first empty source; otherwise the instruction waits while a source or a destination is empty, and
traps on poison. -/
def checkSourcesVia (f : Flock) (p : Path) (w : LaneWord) (lanes : List Nat) (srcs : List Src) (dsts : List Dst)
    (read : Src → Nat → List (Option Nat)) : Res Unit :=
  let trapOf (l : Nat) : Option (Nat × Src) :=
    (srcs.find? fun x => x.trapping f p w && (read x l).any (x.emptyAt f)).map fun x => (l, x)
  match lanes.findSome? trapOf with
  | some (l, x) => traps 0x12 0 (l + x.slot * 2 ^ 11 + x.code.toNat * 2 ^ 13)
  | none =>
    if lanes.any (fun l => srcs.any fun x => (read x l).any (x.emptyAt f)) then waitsEmpty
    else if lanes.any (fun l => dsts.any fun x => (List.range x.regs).any fun i => !f.vFull (x.code.toNat + i) l) then waitsEmpty
    else match lanes.find? fun l => srcs.any fun x => (read x l).any (x.poisonedAt f) with
      | some l => .error (.trap (f.poisonTrap l (srcs.all fun x => (read x l).all fun j => !x.fetchedPoison f j)))
      | none => .ok ()

/-- Stage 3 of an instruction whose sources read the lanes that their modifiers name. While a mask of its flock is unconfirmed, a source
that reads other lanes waits (R173). -/
def checkSources (f : Flock) (p : Path) (w : LaneWord) (lanes : List Nat) (srcs : List Src) (dsts : List Dst) : Res Unit := do
  waitUnless (f.branches.isEmpty || srcs.all fun x => x.mod ≠ 4 && x.mod ≠ 5)
  checkSourcesVia f p w lanes srcs dsts fun x l => [laneRead w f.lanes x.mod l]

/-- Stage 2 (R155, R168, R437): every register that the instruction names lies within its limits. -/
def checkNames (f : Flock) (srcs : List Src) (dsts : List Dst) : Res Unit :=
  trapUnless (srcs.all (·.ok f) && dsts.all (·.ok f)) 0x02

/-- Stages 2 and 3 of a lane instruction. -/
def checkOperands (f : Flock) (p : Path) (w : LaneWord) (lanes : List Nat) (srcs : List Src) (dsts : List Dst) : Res Unit := do
  checkNames f srcs dsts
  checkSources f p w lanes srcs dsts

/-- Register `i` of a source in lane `l`, without its sign modifier (R156, R171). -/
def Flock.read32 (f : Flock) (w : LaneWord) (x : Src) (l : Nat) (i : Nat := 0) : Word32 :=
  if 192 ≤ x.code.toNat then
    (if i = 0 then (f.sreg (x.code.toNat - 192)).extractLsb' 0 32
     else if i = 1 then (f.sreg (x.code.toNat - 192)).extractLsb' 32 32 else 0)
  else match laneRead w f.lanes x.mod l with
    | none => 0
    | some j => f.vreg (x.code.toNat + i) j

/-- A 64-bit source in lane `l`, without its sign modifier. -/
def Flock.read64 (f : Flock) (w : LaneWord) (x : Src) (l : Nat) : Word64 := f.read32 w x l 1 ++ f.read32 w x l 0

/-- The flock with values written into a lane register in the executing lanes. -/
def Flock.writeLanes (f : Flock) (r : Nat) (vals : List (Nat × Word32)) : Flock :=
  vals.foldl (fun f (l, v) => f.setV r l v) f

/-- The flock with pairs written. -/
def Flock.writePairs (f : Flock) (r : Nat) (vals : List (Nat × Word64)) : Flock :=
  vals.foldl (fun f (l, v) => f.setVpair r l v) f

/-- The executing lanes as a list, ascending. -/
def laneList (f : Flock) (p : Path) (w : LaneWord) : List Nat := (execMask f p w).lanes f.lanes

/-- A lane instruction that reads registers and changes only its flock: stages 2 and 3, its effect over the executing
lanes, and retirement (R214). The effect sees the registers as they stood at issue. -/
def laneCompute (w : LaneWord) (srcs : List Src) (dsts : List Dst) (effect : State → Flock → List Nat → Flock)
    (s : State) : Host.Outcome State Fault Refusal :=
  runLane (fun s f p => do
    let lanes := laneList f p w
    checkOperands f p w lanes srcs dsts
    .ok (s.setFlock ((effect s f lanes).retire p.id))) s

/-- The same of an instruction that combines lanes, which waits for its path's mask to be confirmed (R237). -/
def crossCompute (w : LaneWord) (srcs : List Src) (dsts : List Dst) (effect : State → Flock → List Nat → Flock)
    (s : State) : Host.Outcome State Fault Refusal :=
  runConfirmed (fun s f p => do
    let lanes := laneList f p w
    checkOperands f p w lanes srcs dsts
    .ok (s.setFlock ((effect s f lanes).retire p.id))) s

end Sys2Proof.Machine
end

