-- ==== Sys2Proof/Machine/Scalar.lean ====
section
/-!
DEFINITION. Integer, logic, bit, division, shift, select, compare and immediate instructions of the scalar stream
(R190 to R195).
-/
namespace Sys2Proof.Machine

/-! ## The operations -/

/-- Number of leading zero bits of an `n`-bit value (R190). -/
def leadingZeros (n v : Nat) : Nat := if v = 0 then n else n - 1 - v.log2

/-- Number of trailing zero bits of an `n`-bit value (R190). -/
def trailingZeros (n v : Nat) : Nat := ((List.range n).find? v.testBit).getD n

/-- Number of set bits of an `n`-bit value (R190). -/
def setBits (n v : Nat) : Nat := ((List.range n).filter v.testBit).length

/-- The number whose bit `i` is `bit i`, for `i` below `n`. -/
def bitsOf (n : Nat) (bit : Nat → Bool) : Nat := ((List.range n).map fun i => if bit i then 2 ^ i else 0).sum

/-- Two 32-bit values interleaved: `a` in the even places, `b` in the odd (R190). -/
def interleave (a b : Nat) : Nat := bitsOf 64 fun i => if i % 2 = 0 then a.testBit (i / 2) else b.testBit (i / 2)

/-- The reverse of `interleave`: the even bits in the low half, the odd bits in the high half (R190). -/
def deinterleave (a : Nat) : Nat := bitsOf 64 fun i => if i < 32 then a.testBit (2 * i) else a.testBit (2 * (i - 32) + 1)

/-- Signed quotient and remainder, with the results of R191 for a zero divisor and for overflow. -/
def divSigned (a b : Word64) : Word64 × Word64 :=
  if b = 0 then (BitVec.allOnes 64, a)
  else if a = BitVec.intMin 64 ∧ b = BitVec.allOnes 64 then (BitVec.intMin 64, 0)
  else
    let q := a.toInt.tdiv b.toInt
    (BitVec.ofInt 64 q, BitVec.ofInt 64 (a.toInt - q * b.toInt))

/-- Unsigned quotient and remainder (R191). -/
def divUnsigned (a b : Word64) : Word64 × Word64 :=
  if b = 0 then (BitVec.allOnes 64, a)
  else (BitVec.ofNat 64 (a.toNat / b.toNat), BitVec.ofNat 64 (a.toNat % b.toNat))

/-- Left shift by a whole 64-bit count (R192). -/
def shl64 (a c : Word64) : Word64 := if c.toNat < 64 then a <<< c.toNat else 0

/-- Logical right shift by a whole 64-bit count (R192). -/
def shr64 (a c : Word64) : Word64 := if c.toNat < 64 then a >>> c.toNat else 0

/-- Arithmetic right shift by a whole 64-bit count (R192). -/
def sra64 (a c : Word64) : Word64 :=
  if c.toNat < 64 then a.sshiftRight c.toNat else if a.msb then BitVec.allOnes 64 else 0

/-- A condition of `s.cmp` and `s.cmpi` (R194). -/
def condHolds (cc : Cond) (a b : Word64) : Bool :=
  match cc with
  | .eq => a == b
  | .ne => a != b
  | .lt => a.slt b
  | .le => a.sle b
  | .gt => b.slt a
  | .ge => b.sle a
  | .ltu => a.ult b
  | .leu => a.ule b
  | .gtu => b.ult a
  | .geu => b.ule a

/-! ## The instructions -/

/-- `s.add` (R190). -/
def execSAdd (d a b : BitVec 6) (s : State) : Host.Outcome State Fault Refusal :=
  scalarWrite d [a, b] (fun f => (f.rs a) + (f.rs b)) s

/-- `s.sub` (R190). -/
def execSSub (d a b : BitVec 6) (s : State) : Host.Outcome State Fault Refusal :=
  scalarWrite d [a, b] (fun f => (f.rs a) - (f.rs b)) s

/-- `s.mul` (R190). -/
def execSMul (d a b : BitVec 6) (s : State) : Host.Outcome State Fault Refusal :=
  scalarWrite d [a, b] (fun f => (f.rs a) * (f.rs b)) s

/-- `s.mulh` (R190). -/
def execSMulh (d a b : BitVec 6) (s : State) : Host.Outcome State Fault Refusal :=
  scalarWrite d [a, b] (fun f => BitVec.ofInt 64 ((f.rs a).toInt * (f.rs b).toInt / 2 ^ 64)) s

/-- `s.mulhu` (R190). -/
def execSMulhu (d a b : BitVec 6) (s : State) : Host.Outcome State Fault Refusal :=
  scalarWrite d [a, b] (fun f => BitVec.ofNat 64 ((f.rs a).toNat * (f.rs b).toNat / 2 ^ 64)) s

/-- `s.div` (R191). -/
def execSDiv (d a b : BitVec 6) (s : State) : Host.Outcome State Fault Refusal :=
  scalarWrite d [a, b] (fun f => (divSigned (f.rs a) (f.rs b)).1) s

/-- `s.divu` (R191). -/
def execSDivu (d a b : BitVec 6) (s : State) : Host.Outcome State Fault Refusal :=
  scalarWrite d [a, b] (fun f => (divUnsigned (f.rs a) (f.rs b)).1) s

/-- `s.rem` (R191). -/
def execSRem (d a b : BitVec 6) (s : State) : Host.Outcome State Fault Refusal :=
  scalarWrite d [a, b] (fun f => (divSigned (f.rs a) (f.rs b)).2) s

/-- `s.remu` (R191). -/
def execSRemu (d a b : BitVec 6) (s : State) : Host.Outcome State Fault Refusal :=
  scalarWrite d [a, b] (fun f => (divUnsigned (f.rs a) (f.rs b)).2) s

/-- `s.and` (R190). -/
def execSAnd (d a b : BitVec 6) (s : State) : Host.Outcome State Fault Refusal :=
  scalarWrite d [a, b] (fun f => (f.rs a) &&& (f.rs b)) s

/-- `s.or` (R190). -/
def execSOr (d a b : BitVec 6) (s : State) : Host.Outcome State Fault Refusal :=
  scalarWrite d [a, b] (fun f => (f.rs a) ||| (f.rs b)) s

/-- `s.xor` (R190). -/
def execSXor (d a b : BitVec 6) (s : State) : Host.Outcome State Fault Refusal :=
  scalarWrite d [a, b] (fun f => (f.rs a) ^^^ (f.rs b)) s

/-- `s.shl` (R192). -/
def execSShl (d a b : BitVec 6) (s : State) : Host.Outcome State Fault Refusal :=
  scalarWrite d [a, b] (fun f => shl64 (f.rs a) (f.rs b)) s

/-- `s.shr` (R192). -/
def execSShr (d a b : BitVec 6) (s : State) : Host.Outcome State Fault Refusal :=
  scalarWrite d [a, b] (fun f => shr64 (f.rs a) (f.rs b)) s

/-- `s.sra` (R192). -/
def execSSra (d a b : BitVec 6) (s : State) : Host.Outcome State Fault Refusal :=
  scalarWrite d [a, b] (fun f => sra64 (f.rs a) (f.rs b)) s

/-- `s.min` (R190). -/
def execSMin (d a b : BitVec 6) (s : State) : Host.Outcome State Fault Refusal :=
  scalarWrite d [a, b] (fun f => if (f.rs a).slt (f.rs b) then (f.rs a) else (f.rs b)) s

/-- `s.minu` (R190). -/
def execSMinu (d a b : BitVec 6) (s : State) : Host.Outcome State Fault Refusal :=
  scalarWrite d [a, b] (fun f => if (f.rs a).ult (f.rs b) then (f.rs a) else (f.rs b)) s

/-- `s.max` (R190). -/
def execSMax (d a b : BitVec 6) (s : State) : Host.Outcome State Fault Refusal :=
  scalarWrite d [a, b] (fun f => if (f.rs a).slt (f.rs b) then (f.rs b) else (f.rs a)) s

/-- `s.maxu` (R190). -/
def execSMaxu (d a b : BitVec 6) (s : State) : Host.Outcome State Fault Refusal :=
  scalarWrite d [a, b] (fun f => if (f.rs a).ult (f.rs b) then (f.rs b) else (f.rs a)) s

/-- `s.clz` (R190). -/
def execSClz (d a : BitVec 6) (s : State) : Host.Outcome State Fault Refusal :=
  scalarWrite d [a] (fun f => BitVec.ofNat 64 (leadingZeros 64 (f.rs a).toNat)) s

/-- `s.ctz` (R190). -/
def execSCtz (d a : BitVec 6) (s : State) : Host.Outcome State Fault Refusal :=
  scalarWrite d [a] (fun f => BitVec.ofNat 64 (trailingZeros 64 (f.rs a).toNat)) s

/-- `s.popc` (R190). -/
def execSPopc (d a : BitVec 6) (s : State) : Host.Outcome State Fault Refusal :=
  scalarWrite d [a] (fun f => BitVec.ofNat 64 (setBits 64 (f.rs a).toNat)) s

/-- `s.bitint` (R190). -/
def execSBitint (d a b : BitVec 6) (s : State) : Host.Outcome State Fault Refusal :=
  scalarWrite d [a, b] (fun f => BitVec.ofNat 64 (interleave (f.rs a).toNat (f.rs b).toNat)) s

/-- `s.bitdeint` (R190). -/
def execSBitdeint (d a : BitVec 6) (s : State) : Host.Outcome State Fault Refusal :=
  scalarWrite d [a] (fun f => BitVec.ofNat 64 (deinterleave (f.rs a).toNat)) s

/-- `s.sel` (R193). -/
def execSSel (d a b : BitVec 6) (z : BitVec 3) (neg : Bool) (s : State) : Host.Outcome State Fault Refusal :=
  scalarWrite d [a, b] (fun f => if f.zbit z.toNat ^^ neg then f.rs a else f.rs b) s

/-- `s.cmp` (R194). -/
def execSCmp (zd : BitVec 3) (cc : Cond) (a b : BitVec 6) (s : State) : Host.Outcome State Fault Refusal :=
  scalarTest zd [a, b] (fun f => condHolds cc (f.rs a) (f.rs b)) s

/-- `s.cmpi` (R194). -/
def execSCmpi (zd : BitVec 3) (cc : Cond) (a : BitVec 6) (imm : BitVec 14) (s : State) : Host.Outcome State Fault Refusal :=
  scalarTest zd [a] (fun f => condHolds cc (f.rs a) (imm14 imm)) s

/-- `s.addi` (R195). -/
def execSAddi (d a : BitVec 6) (imm : BitVec 14) (s : State) : Host.Outcome State Fault Refusal :=
  scalarWrite d [a] (fun f => (f.rs a) + (imm14 imm)) s

/-- `s.andi` (R195). -/
def execSAndi (d a : BitVec 6) (imm : BitVec 14) (s : State) : Host.Outcome State Fault Refusal :=
  scalarWrite d [a] (fun f => (f.rs a) &&& (imm14 imm)) s

/-- `s.ori` (R195). -/
def execSOri (d a : BitVec 6) (imm : BitVec 14) (s : State) : Host.Outcome State Fault Refusal :=
  scalarWrite d [a] (fun f => (f.rs a) ||| (imm14 imm)) s

/-- `s.xori` (R195). -/
def execSXori (d a : BitVec 6) (imm : BitVec 14) (s : State) : Host.Outcome State Fault Refusal :=
  scalarWrite d [a] (fun f => (f.rs a) ^^^ (imm14 imm)) s

/-- `s.shli` (R195). -/
def execSShli (d a : BitVec 6) (imm : BitVec 14) (s : State) : Host.Outcome State Fault Refusal :=
  scalarWrite d [a] (fun f => shl64 (f.rs a) (imm14 imm)) s

/-- `s.shri` (R195). -/
def execSShri (d a : BitVec 6) (imm : BitVec 14) (s : State) : Host.Outcome State Fault Refusal :=
  scalarWrite d [a] (fun f => shr64 (f.rs a) (imm14 imm)) s

/-- `s.srai` (R195). -/
def execSSrai (d a : BitVec 6) (imm : BitVec 14) (s : State) : Host.Outcome State Fault Refusal :=
  scalarWrite d [a] (fun f => sra64 (f.rs a) (imm14 imm)) s

/-- `s.lui` (R195). -/
def execSLui (d : BitVec 6) (imm : BitVec 14) (s : State) : Host.Outcome State Fault Refusal :=
  scalarWrite d [] (fun _ => imm14 imm <<< 14) s

end Sys2Proof.Machine
end

