-- ==== Sys2Proof/Machine/Access.lean ====
section
/-!
DEFINITION. How memory instructions of both streams act: the checks of stage 4 (R442), loads, stores and atomics at their
homes or over the fabric (R86 to R97, R108 to R112, R124, R125), scratchpad accesses, operations in flight (R45, R93), and
what acquires and releases wait for.
-/
namespace Sys2Proof.Machine

/-- The agent of a flock's accesses. -/
def State.agentOf (s : State) (f : Flock) : Agent := ⟨(s.herdOf f).session, dieOf f.core, some f.core⟩

/-! ## Ordered packets -/

/-- An ordered packet of a session is handed to the fabric interface of a die, whose arbiter it waits at until it enters the fabric (R366,
R394). -/
def State.sendPacket (s : State) (src session : Nat) (loc : Loc) (acts : List MemAct) (note : Option (Nat × Nat)) : State :=
  let id := s.nextUid
  let net := s.netOf session
  let s := s.onDie src fun d => { d with arbiter := d.arbiter ++ [⟨id, session, !(s.paddock net).desc.cls, d.cycle, false⟩] }
  ((s.post (.orderedPacketSend ⟨src, homeDie loc.pa, net, id, session, 0, 0, [], [], acts, note⟩)).post (.arbiterPromotion src id)).bumpUid

/-! ## Checks of addresses (R77, R247, R442) -/

/-- The trap of a failing address (R421). -/
def addrTrap (cause va lane : Nat) (kind : Access) : Trap :=
  { cause := cause, addr := BitVec.ofNat 64 va, info := BitVec.ofNat 64 (lane + kind.code * 2 ^ 11) }

/-- Why an access with a failing address does not complete: it traps, or waits for a walk that cannot be made at this moment. -/
def addrStop (cause va lane : Nat) (kind : Access) : Stop :=
  if cause = notYet then .wait false else .trap (addrTrap cause va lane kind)

/-- Every lane's global address is checked and translated; the lowest failing lane traps. -/
def State.checkLanes (s : State) (ag : Agent) (kind : Access) (n : Nat) : List (Nat × Nat) → Res (State × List (Nat × Loc))
  | [] => .ok (s, [])
  | (l, va) :: r =>
    match s.checkAccess ag va n kind with
    | .error c => .error (addrStop c va l kind)
    | .ok (s, loc) => match s.checkLanes ag kind n r with
      | .error x => .error (x.after ⟨ag, kind, n, va⟩)
      | .ok (s, rest) => .ok (s, (l, loc) :: rest)

/-- A scratchpad access lies inside the allotment that its address names (R73): the herd and the offset. -/
def State.checkSpad (s : State) (h : Herd) (a n : Nat) : Except Nat (Herd × Nat) :=
  if a % n ≠ 0 then .error 0x04
  else match s.spadTarget h a with
    | none => .error 0x09
    | some (t, off) => if off < t.spadSize then .ok (t, off) else .error 0x09

/-- Every lane's scratchpad address is checked: herd uid and offset. -/
def State.checkSpadLanes (s : State) (h : Herd) (kind : Access) (n : Nat) : List (Nat × Nat) → Res (List (Nat × Nat × Nat))
  | [] => .ok []
  | (l, a) :: r =>
    match s.checkSpad h a n with
    | .error c => .error (.trap (addrTrap c a l kind))
    | .ok (t, off) => do .ok ((l, t.uid, off) :: (← s.checkSpadLanes h kind n r))

/-! ## Operations in flight (R45, R93) -/

/-- The counter of a path has room for one more (R93). -/
def Flock.counterRoom (f : Flock) (c : Counter) : Bool := f.count c < 255

/-- The flock with a destination register marked empty. -/
def Flock.markEmpty (f : Flock) (p : Piece) : Flock :=
  if p.scalar then (if p.reg = 0 then f else { f with sEmpty := setAdd p.reg f.sEmpty })
  else { f with vEmpty := (if p.wide then [p.reg, p.reg + 1] else [p.reg]).foldl (fun l r => setAdd (laneKey r p.lane) l) f.vEmpty }

/-- A scalar piece. -/
def scalarPiece (reg : Nat) : Piece :=
  { scalar := true, reg := reg, lane := 0, wide := false, sext := none, loc := none, group := 0, addend := 0, bytes := 8,
    value := none, poison := false, addr := 0, atomic := false }

/-- A lane piece. -/
def lanePiece (reg lane : Nat) (wide : Bool) : Piece :=
  { scalar := false, reg := reg, lane := lane, wide := wide, sext := none, loc := none, group := 0, addend := 0, bytes := 4,
    value := none, poison := false, addr := 0, atomic := false }

/-- The reader's stamp for a request to a die (R396). -/
def State.readReq (s : State) (src dst net : Nat) (acq : Bool) (flock op id : Nat) : ReadReq :=
  let k := (s.net src net).k
  { src := src, dst := dst, net := net, gen := bitsAt (s.die src).fabstat.toNat 0 3, seq := stampAt k src dst,
    dep := (List.range 4).map fun x => stampAt k x dst, acq := acq, flock := flock, op := op, id := id }

/-- A read request of a flock's operation leaves for another die (R390, R396). -/
def State.sendRead (s : State) (f : Flock) (op : Nat) (acq : Bool) (home : Nat) : State :=
  let session := (s.herdOf f).session
  let id := s.nextUid
  let r := s.readReq (dieOf f.core) home (s.netOf session) acq f.uid op id
  ((s.post (.readRequestServe r)).bumpUid).ship .request id session (dieOf f.core) home

/-- An operation starts that asks the given dies for what it lacks: its destinations are emptied, and the requests leave. -/
def State.startOp (s : State) (uid lidx : Nat) (counter : Option Counter) (pieces : List Piece) (packets : Nat)
    (acq : Option Scope) (homes : List Nat) : State :=
  match s.flock? uid with
  | none => s
  | some f =>
    let id := f.nextId
    let o : Op := { id := id, counter := counter, lidx := lidx, pieces := pieces,
                    packets := packets + (if acqWide acq then homes.length else 0), acq := acq, flags := 0, tos := false, written := false,
                    replies := [] }
    let f := { pieces.foldl Flock.markEmpty f with nextId := id + 1, ops := f.ops ++ [o] }
    (homes.foldl (fun s d => s.sendRead f id (acqWide acq) d) (s.setFlock f)).opProgress uid id

/-- An operation starts, and reads that another die must serve are requested. -/
def State.beginOp (s : State) (uid lidx : Nat) (counter : Option Counter) (pieces : List Piece) (packets : Nat)
    (acq : Option Scope) : State :=
  s.startOp uid lidx counter pieces packets acq ((List.range 4).filter fun d =>
    pieces.any fun p => p.value.isNone && p.loc.any fun l => homeDie l.pa = d)

/-- The flock with a piece's value written and its register full (R45, R464). `born` says that poison of the piece arose in a tile (R465). -/
def Flock.fill (born : Bool) (f : Flock) (p : Piece) : Flock :=
  let v := p.value.getD 0
  let v := match p.sext with
    | some n => BitVec.ofInt 64 (signedOf n v.toNat)
    | none => v
  let f := if p.poison && !born then { f with poisonAddr := BitVec.ofNat 64 p.addr, poisonKind := if p.atomic then 2 else 0 } else f
  if p.scalar then
    let f := f.setS p.reg v
    { f with sEmpty := setDel p.reg f.sEmpty, sPoison := if p.poison && p.reg ≠ 0 then setAdd p.reg f.sPoison else f.sPoison
             sBorn := setMark born [p.reg] f.sBorn }
  else
    let regs := if p.wide then [p.reg, p.reg + 1] else [p.reg]
    let f := if p.wide then f.setVpair p.reg p.lane v
      else f.setV p.reg p.lane (if p.high then v.extractLsb' 32 32 else v.setWidth 32)
    let keys := regs.map fun r => laneKey r p.lane
    { f with vEmpty := setMark false keys f.vEmpty, vPoison := if p.poison then setMark true keys f.vPoison else f.vPoison
             vBorn := setMark born keys f.vBorn }

/-- The flock with an operation ended: its registers are written and counters fall in issue order. -/
def Flock.endOp (f : Flock) (o : Op) : Flock :=
  let f := (o.pieces.foldl (Flock.fill (o.counter = some .m)) f).raise o.flags
  let f := f.setOp { o with written := true }
  { f with ops := keepOps [] f.ops }

/-- An event that ends an operation of a flock; one that is not complete, or whose replies are on the links, stays due. -/
def State.finishOp (s : State) (uid id : Nat) (again : Event) : State :=
  match s.flock? uid with
  | none => s
  | some f => match f.op? id with
    | none => s
    | some o =>
      if o.written then s
      else if o.complete && o.replies.all fun r => !s.onWay r then s.setFlock (f.endOp o) else s.post again

/-! ## What an access waits for -/

/-- No acquire of the flock is still incomplete: every later access follows its invalidation (R109, R252). -/
def Flock.memReady (f : Flock) : Bool := f.ops.all fun o => o.acq.isNone

/-- Every read of the flock has returned its value. An accumulator transfer is no read of memory (R123). -/
def Flock.readsReturned (f : Flock) : Bool := f.ops.all fun o => o.counter = some .m || o.pieces.all fun p => p.value.isSome

/-- Accesses that closed arms, callers or call flocks made before a later access of the flock no longer hold it up: their reads have returned,
and their packets have entered the fabric (R105, R113, R118). -/
def State.joinOrdered (s : State) (f : Flock) : Bool :=
  (f.ops.all fun o => f.orderedAfter ≤ o.id || o.pieces.all fun p => p.value.isSome)
    && s.unsent.all fun p => !(p.src = dieOf f.core && p.net = s.netOf (s.herdOf f).session && p.id < f.sentAfter)

/-- Every later access of the flock may be performed: no acquire is incomplete, and nothing that precedes it over a join is pending. -/
def State.memReady (s : State) (f : Flock) : Bool := f.memReady && s.joinOrdered f

/-- Later accesses of a flock follow all those that it has made, and all those of its die (R51, R113). -/
def State.orderAll (s : State) (f : Flock) : Flock := { f with orderedAfter := f.nextId, sentAfter := s.nextUid }

/-- Every access that a flock has made precedes the accesses of another: its reads have returned, its acquires are complete, and its packets
have entered the fabric (R118). -/
def State.handsOver (s : State) (f : Flock) : Bool :=
  s.memReady f && f.readsReturned && s.sentAll (dieOf f.core) (s.netOf (s.herdOf f).session)

/-- Some access of the flock that has not returned overlaps the bytes: flock order at one location (R113). -/
def Flock.overlaps (f : Flock) (pa n : Nat) : Bool :=
  f.ops.any fun o => o.pieces.any fun p => p.value.isNone && (match p.loc with
    | some l => l.pa < pa + n && pa < l.pa + p.bytes
    | none => false)

/-- A release at a scope may be performed (R108, R110). -/
def State.releaseReady (s : State) (f : Flock) (sc : Scope) : Bool :=
  let net := s.netOf (s.herdOf f).session
  s.memReady f && f.readsReturned && (match sc with
    | .fl | .hd => true
    | .cl | .di => s.sentAll (dieOf f.core) net
    | _ => s.netIdle net)

/-- The acquire scope of an order. -/
def acqScope : Order → Option Scope
  | .acq s => some s
  | .ar s => some s
  | _ => none

/-- The release scope of an order. -/
def relScope : Order → Option Scope
  | .rel s => some s
  | .ar s => some s
  | _ => none

/-- The accesses at some locations may be performed now by the flock. -/
def State.accessReady (s : State) (f : Flock) (locs : List (Nat × Loc)) (n : Nat) (rel : Option Scope) : Bool :=
  s.memReady f && locs.all (fun (_, l) => !f.overlaps l.pa n) && (match rel with
    | some sc => s.releaseReady f sc
    | none => true)

/-- A read that goes over the fabric leaves only when no ordered packet of its die waits to enter it, and the die does not hold it
(R396, R472). -/
def State.readReady (s : State) (f : Flock) : Bool := s.sentAll (dieOf f.core) (s.netOf (s.herdOf f).session) && !s.holds (dieOf f.core)

/-- RLIMIT of a session as it stood at the last quantum boundary (R366, R373). -/
def State.sessionLimit (s : State) (session : Nat) : Nat :=
  match (s.paddock (s.paddockOf session)).sched.get? session with
  | some (limit, _) => limit
  | none => s.ctx session 320 16

/-- Requests of a session that the present windows of a die's cores count (R366). -/
def State.sentBy (s : State) (session die : Nat) : Nat :=
  ((s.cores.filter fun (c, _) => dieOf c = die).map fun (_, k) => SMap.get k.rlimit 0 session).sum

/-- Requests of a session are counted at a core, whose window of 1,024 cycles starts with the first (R366). -/
def State.addRequests (s : State) (core session n : Nat) : State :=
  if s.sessionLimit session = 0 ∨ n = 0 then s
  else
    let k := s.core core
    let s := s.setCore core { k with rlimit := SMap.put k.rlimit 0 session (SMap.get k.rlimit 0 session + n),
                                     rlimitEnd := some (k.rlimitEnd.getD ((s.die (dieOf core)).cycle + 1024)) }
    if k.rlimitEnd.isNone then s.post (.rlimitWindow core) else s

/-- A session's cores of a die may send requests in the present window: their count is below RLIMIT, or there is none (R366). -/
def State.belowLimit (s : State) (session die : Nat) : Bool := s.sessionLimit session = 0 || s.sentBy session die < s.sessionLimit session

/-- Requests of a session counted against RLIMIT at a core; none when they are held back until a later window. An instruction
goes when the session's count of the die is below the limit, and what it sends beyond the limit is charged to the windows that follow (R366;
log entry 97). -/
def State.chargeRequests (s : State) (core session n : Nat) : Option State :=
  if n = 0 || s.belowLimit session (dieOf core) then some (s.addRequests core session n) else none

/-- Requests of a unit or an engine are counted, whether or not they reach the limit. -/
def State.noteRequests (s : State) (ag : Agent) (n : Nat) : State :=
  match ag.core with
  | some c => s.addRequests c ag.session n
  | none => s

/-- The requests that have taken a state to another may be sent: there are none, or their session's count was below the limit (R366). -/
def State.mayHaveSent (s t : State) (ag : Agent) : Bool := t.sentBy ag.session ag.die = s.sentBy ag.session ag.die || s.belowLimit ag.session ag.die

/-- The requests of an access of a flock; reads of commons frames do not count (R366). -/
def State.countRequests (s : State) (f : Flock) (locs : List (Nat × Loc)) : Option State :=
  s.chargeRequests f.core (s.herdOf f).session (locs.filter fun (_, l) => !l.commons).length

/-! ## Loads -/

/-- One access of a load: what it fills, and where it reads. -/
structure LoadPart where
  piece : Piece
  loc : Loc
deriving DecidableEq, Repr

/-- A part of a load is read now, from a cache or a home slice on the issuing die (R86 to R90, R464). A read of a line
that only its home die holds is left to the fabric, and so is one of another die's line by a wide acquire. -/
def State.readPart (s : State) (ag : Agent) (wide : Bool) (x : LoadPart) : State × Piece :=
  let p := { x.piece with loc := some x.loc, addr := x.loc.va }
  match if wide && homeDie x.loc.pa ≠ ag.die && !x.loc.commons then none else s.cacheRead ag x.loc p.bytes with
  | none => (s, p)
  | some (t, bs, bad) => (t, { p with value := some (BitVec.ofNat 64 (ofBytes bs)), poison := bad })

/-- The parts of a load are read in turn. -/
def State.readParts (s : State) (ag : Agent) (wide : Bool) : List LoadPart → State × List Piece
  | [] => (s, [])
  | x :: r =>
    let (s, p) := s.readPart ag wide x
    let (s, ps) := s.readParts ag wide r
    (s, p :: ps)

/-- A load of the flock issues: it waits for what it must, reads what it can, and becomes an operation on counter G. -/
def State.load (s : State) (f : Flock) (lidx : Nat) (parts : List LoadPart) (acq : Option Scope) : Res State :=
  let ag := s.agentOf f
  let locs := parts.map fun x => (0, x.loc)
  if !(f.counterRoom .g && s.memReady f && s.readReady f && parts.all fun x => !f.overlaps x.loc.pa x.piece.bytes) then waits
  else match s.countRequests f locs with
    | none => waits
    | some s =>
      let (s, ps) := s.readParts ag (acqWide acq) parts
      .ok (s.beginOp f.uid lidx (some .g) ps 0 acq)

/-! ## Stores -/

/-- One write of a flock: performed at the issuing die's slice, or sent as an ordered packet (R86 to R88, R124). -/
def State.storePart (s : State) (ag : Agent) (loc : Loc) (bs : List Byte) : State :=
  let s := if loc.cclass = 2 then s else s.storeL1 ag loc.pa bs
  if homeDie loc.pa = ag.die then (s.touchL2 ag loc true).performWrite loc.pa bs
  else (if loc.cclass = 2 then s else s.storeRdc ag.die loc.pa bs).sendPacket ag.die ag.session loc [.write loc bs] none

/-- The writes of a store, in ascending lane order (R106). -/
def State.storeParts (s : State) (ag : Agent) : List (Loc × List Byte) → State
  | [] => s
  | (loc, bs) :: r => (s.storePart ag loc bs).storeParts ag r

/-- A store of the flock issues. -/
def State.store (s : State) (f : Flock) (parts : List (Loc × List Byte)) (rel : Option Scope) : Res State :=
  let ag := s.agentOf f
  let locs := parts.map fun (l, _) => (0, l)
  let n := (parts.head?.map fun (_, b) => b.length).getD 1
  if !s.accessReady f locs n rel then waits
  else match s.countRequests f locs with
    | none => waits
    | some s => .ok (s.storeParts ag parts)

/-! ## Atomics (R96, R97, R199) -/

/-- The value that an atomic of `n` bytes stores over `old`. -/
def atomNew (op : AtomOp) (n : Nat) (old b cmp : Nat) : Nat :=
  match op with
  | .add => (old + b) % 2 ^ (8 * n)
  | .and => Nat.land old b
  | .or => Nat.lor old b
  | .xor => Nat.xor old b
  | .min => if signedOf (8 * n) old < signedOf (8 * n) b then old else b
  | .max => if signedOf (8 * n) old < signedOf (8 * n) b then b else old
  | .minu => if old < b then old else b
  | .maxu => if old < b then b else old
  | .swap => b
  | .cas => if old = cmp then b else old

/-- One request of an atomic: lanes that it serves with what each adds to the old value, its location, operand and expected
value. -/
structure AtomReq where
  lanes : List (Nat × Nat)
  loc : Loc
  b : Nat
  cmp : Nat
deriving DecidableEq, Repr

/-- The lanes of an instruction in the order in which those at one address are performed (R97, R257): free, but for a
fetch-and-add, whose lanes combine in ascending order. -/
def laneOrder (ticks : Nat) (xs : List AtomReq) : List AtomReq :=
  let k (r : AtomReq) : Nat := Config.laneKey ticks ((r.lanes.head?.map (·.1)).getD 0)
  sortBy (fun x y => k x ≤ k y) xs

/-- The requests of one instruction: one per lane, or one per address for a fetch-and-add. -/
def atomReqs (op : AtomOp) (n ticks : Nat) (xs : List (Nat × Loc × Nat × Nat)) : List AtomReq :=
  if op = .add then
    xs.foldl (fun rs (l, loc, b, _) =>
      if rs.any fun r => r.loc.pa = loc.pa then
        rs.map fun r => if r.loc.pa = loc.pa then { r with lanes := r.lanes ++ [(l, r.b)], b := (r.b + b) % 2 ^ (8 * n) } else r
      else rs ++ [⟨[(l, 0)], loc, b % 2 ^ (8 * n), 0⟩]) []
  else laneOrder ticks (xs.map fun (l, loc, b, c) => ⟨[(l, 0)], loc, b % 2 ^ (8 * n), c % 2 ^ (8 * n)⟩)

/-- An atomic is performed at its home slice: its old value, or none where the location is poisoned (R464). -/
def State.performAtom (s : State) (op : AtomOp) (n pa b cmp : Nat) : State × Option Nat :=
  if !(s.die (homeDie pa)).live || s.memPoisoned pa n then (s, none)
  else
    let old := Memory.read s.mem pa n
    (s.performWrite pa (bytesOf n (atomNew op n old b cmp)), some old)

/-- The value that a lane receives from a request: the old value plus the operands of the lanes below it. -/
def atomReturn (n old addend : Nat) : Word64 := BitVec.ofNat 64 ((old + addend) % 2 ^ (8 * n))

/-- One request is performed at the issuing die, or sent. `dest` gives the piece of a lane. -/
def State.atomPart (s : State) (ag : Agent) (op : AtomOp) (n : Nat) (ret : Option (Nat × Nat)) (g : Nat) (dest : Nat → Piece)
    (r : AtomReq) : State × List Piece :=
  let s := s.dropCopies ag r.loc.pa
  let mk (l a : Nat) : Piece := { dest l with group := g, addend := BitVec.ofNat 64 a, bytes := n, addr := r.loc.va, atomic := true }
  if homeDie r.loc.pa = ag.die then
    let s := s.touchL2 ag r.loc true
    let (s, old) := s.performAtom op n r.loc.pa r.b r.cmp
    (s, r.lanes.map fun (l, a) => { mk l a with value := some (atomReturn n (old.getD 0) a), poison := old.isNone })
  else
    let s := s.sendPacket ag.die ag.session r.loc
      [.atom op n r.loc (BitVec.ofNat 64 r.b) (BitVec.ofNat 64 r.cmp) (ret.map fun (f, o) => (f, o, g))] ret
    (s, r.lanes.map fun (l, a) => mk l a)

/-- The requests of an atomic, in turn. -/
def State.atomParts (s : State) (ag : Agent) (op : AtomOp) (n : Nat) (ret : Option (Nat × Nat)) (dest : Nat → Piece) :
    Nat → List AtomReq → State × List Piece
  | _, [] => (s, [])
  | g, r :: rs =>
    let (s, ps) := s.atomPart ag op n ret g dest r
    let (s, qs) := s.atomParts ag op n ret dest (g + 1) rs
    (s, ps ++ qs)

/-- A global atomic with a returned value issues (R199, R254). -/
def State.atomic (s : State) (f : Flock) (lidx : Nat) (op : AtomOp) (n : Nat) (ord : Order) (dest : Nat → Piece)
    (xs : List (Nat × Loc × Nat × Nat)) : Res State :=
  let ag := s.agentOf f
  let locs := xs.map fun (l, loc, _) => (l, loc)
  if !(f.counterRoom .g && s.accessReady f locs n (relScope ord)) then waits
  else match s.countRequests f locs with
    | none => waits
    | some s =>
      let reqs := atomReqs op n s.ticks xs
      let remote := (reqs.filter fun r => homeDie r.loc.pa ≠ ag.die).length
      let (s, ps) := s.atomParts ag op n (some (f.uid, f.nextId)) dest 0 reqs
      .ok (s.beginOp f.uid lidx (some .g) ps remote (acqScope ord))

/-- A reduction, which returns nothing (R256). One that meets poison is discarded and reported to the shepherd (R464). -/
def State.reduce (s : State) (f : Flock) (op : AtomOp) (n : Nat) (ord : Order) (xs : List (Nat × Loc × Nat × Nat)) : Res State :=
  let ag := s.agentOf f
  let locs := xs.map fun (l, loc, _) => (l, loc)
  if !s.accessReady f locs n (relScope ord) then waits
  else match s.countRequests f locs with
    | none => waits
    | some s =>
      let (t, ps) := s.atomParts ag op n none (fun l => lanePiece 0 l false) 0 (atomReqs op n s.ticks xs)
      .ok (if ps.any (·.poison) then t.tell ag.die .poisonedReduction else t)

/-! ## Scratchpad accesses (R74, R253) -/

/-- Bytes of a scratchpad and whether some word of them is poisoned. -/
def State.spadRead (s : State) (herd off n : Nat) : Nat × Bool :=
  match s.allotment? herd with
  | none => (0, false)
  | some h => (Memory.read h.spad off n, h.spadPoisoned off n)

/-- The state with bytes of a herd's scratchpad written. -/
def State.spadWrite (s : State) (herd off : Nat) (bs : List Byte) : State :=
  match s.allotment? herd with
  | none => s
  | some h => s.setHerd (h.writeSpad off bs)

/-- The flock remembers where it last met poison in a scratchpad (R465). -/
def Flock.sawPoison (f : Flock) (a : Nat) (kind : BitVec 2) : Flock :=
  { f with poisonAddr := BitVec.ofNat 64 a, poisonKind := kind }

end Sys2Proof.Machine
end

