-- ==== Sys2Proof/Machine/ScalarMem.lean ====
section
/-!
DEFINITION. Loads, stores, atomics and fences of the scalar stream, and the kernel-argument load (R196 to R200).
-/
namespace Sys2Proof.Machine

/-- Bytes of an access size (R164). -/
def sizeBytes (z : Size) : Nat :=
  match z with
  | .b => 1 | .h => 2 | .w => 4 | .d => 8

/-- The address `sa + offset` of a scalar access, with the offset scaled by the size (R181, R196). -/
def scalarAddr (f : Flock) (a : BitVec 6) (off : Int) (n : Nat) : Nat := (f.rs a + BitVec.ofInt 64 (off * n)).toNat

/-- A scalar load. -/
def scalarLoad (d a : BitVec 6) (off : Int) (n : Nat) (acq : Option Scope) (s : State) : Host.Outcome State Fault Refusal :=
  runScalar (fun s f => do
    f.useS [a]
    f.defS d
    let (s, locs) ← s.checkLanes (s.agentOf f) .read n [(0, scalarAddr f a off n)]
    let parts := locs.map fun (_, loc) => (⟨{ scalarPiece d.toNat with bytes := n }, loc⟩ : LoadPart)
    let s ← s.load f f.spc parts acq
    .ok (s.onFlock f.uid Flock.advance)) s

/-- A scalar store, which ends the flashback point of its flock (R69). -/
def scalarStore (d a : BitVec 6) (off : Int) (n : Nat) (rel : Option Scope) (s : State) : Host.Outcome State Fault Refusal :=
  runScalar (fun s f => do
    f.useS [a, d]
    let (s, locs) ← s.checkLanes (s.agentOf f) .write n [(0, scalarAddr f a off n)]
    let s ← s.store f (locs.map fun (_, loc) => (loc, bytesOf n (f.rs d).toNat)) rel
    .ok (s.onFlock f.uid fun f => f.advance.fence)) s

/-- `s.ld.b` (R196). -/
def execSLdB (d a : BitVec 6) (off : BitVec 14) (s : State) : Host.Outcome State Fault Refusal :=
  scalarLoad d a off.toInt 1 none s

/-- `s.ld.h` (R196). -/
def execSLdH (d a : BitVec 6) (off : BitVec 14) (s : State) : Host.Outcome State Fault Refusal :=
  scalarLoad d a off.toInt 2 none s

/-- `s.ld.w` (R196). -/
def execSLdW (d a : BitVec 6) (off : BitVec 14) (s : State) : Host.Outcome State Fault Refusal :=
  scalarLoad d a off.toInt 4 none s

/-- `s.ld.d` (R196). -/
def execSLdD (d a : BitVec 6) (off : BitVec 14) (s : State) : Host.Outcome State Fault Refusal :=
  scalarLoad d a off.toInt 8 none s

/-- `s.st.b` (R196). -/
def execSStB (d a : BitVec 6) (off : BitVec 14) (s : State) : Host.Outcome State Fault Refusal :=
  scalarStore d a off.toInt 1 none s

/-- `s.st.h` (R196). -/
def execSStH (d a : BitVec 6) (off : BitVec 14) (s : State) : Host.Outcome State Fault Refusal :=
  scalarStore d a off.toInt 2 none s

/-- `s.st.w` (R196). -/
def execSStW (d a : BitVec 6) (off : BitVec 14) (s : State) : Host.Outcome State Fault Refusal :=
  scalarStore d a off.toInt 4 none s

/-- `s.st.d` (R196). -/
def execSStD (d a : BitVec 6) (off : BitVec 14) (s : State) : Host.Outcome State Fault Refusal :=
  scalarStore d a off.toInt 8 none s

/-- `s.ld.acq` (R197, R109). -/
def execSLdAcq (d a : BitVec 6) (scope : Scope) (size : Size) (off : BitVec 9) (s : State) : Host.Outcome State Fault Refusal :=
  scalarLoad d a off.toInt (sizeBytes size) (some scope) s

/-- `s.st.rel` (R197, R110). -/
def execSStRel (d a : BitVec 6) (scope : Scope) (size : Size) (off : BitVec 9) (s : State) : Host.Outcome State Fault Refusal :=
  scalarStore d a off.toInt (sizeBytes size) (some scope) s

/-- Bytes `[o, o + n)` of a region's kernel-argument block: zero from its end on (R75, R198), with their poison. A page that
has stopped translating stops the read (R476). Of a word that software writes while the region runs, R75 lets a read return the old value or
the new; this one returns what the caches or the home memory now hold (DESIGN CHOICE, log entry 21). -/
def State.readArgs (s : State) (f : Flock) (o n : Nat) : Res (State × Nat × Option Nat) :=
  let rcb := (s.regionOf (s.herdOf f)).rcb
  let k := min n (rcb.klen - o)
  if k = 0 then .ok (s, 0, none)
  else match s.translate (s.agentOf f) (rcb.karg + o) .read with
    | .error c => .error (addrStop c (rcb.karg + o) 0 .read)
    | .ok (s, loc) => match s.readThrough (s.agentOf f) loc k false with
      | none => waits
      | some (s, bs, bad) => .ok (s, ofBytes bs, if bad then some loc.va else none)

/-- `s.ldk` (R198). Poisoned bytes mark the destination (R464; log entry 23). -/
def execSLdk (d a : BitVec 6) (size : Size) (off : BitVec 9) (s : State) : Host.Outcome State Fault Refusal :=
  let n := sizeBytes size
  runScalar (fun s f => do
    f.useS [a]
    f.defS d
    let o := scalarAddr f a off.toInt n
    trapUnless (o % n = 0 && decide (o + n ≤ 4096)) 0x08 o
    let (s, v, bad) ← s.readArgs f o n
    let g := (f.setS d.toNat (BitVec.ofNat 64 v)).advance
    .ok (s.setFlock (match bad with
      | some va => { g with sPoison := if d = 0 then g.sPoison else setAdd d.toNat g.sPoison,
                            poisonAddr := BitVec.ofNat 64 va, poisonKind := 0 }
      | none => g))) s

/-- A scalar atomic (R199). In `.cas` the destination supplies the expected value, read at issue. -/
def scalarAtom (n : Nat) (op : AtomOp) (ord : Order) (d a b : BitVec 6) (s : State) : Host.Outcome State Fault Refusal :=
  runScalar (fun s f => do
    f.useS (if op = .cas then [a, b, d] else [a, b])
    f.defS d
    let (s, locs) ← s.checkLanes (s.agentOf f) .atomic n [(0, (f.rs a).toNat)]
    let s ← s.atomic f f.spc op n ord (fun _ => scalarPiece d.toNat)
      (locs.map fun (l, loc) => (l, loc, (f.rs b).toNat, (f.rs d).toNat))
    .ok (s.onFlock f.uid fun f => f.advance.fence)) s

/-- `s.atom.w` (R199). -/
def execSAtomW (op : AtomOp) (ord : Order) (d a b : BitVec 6) (s : State) : Host.Outcome State Fault Refusal :=
  scalarAtom 4 op ord d a b s

/-- `s.atom.d` (R199). -/
def execSAtomD (op : AtomOp) (ord : Order) (d a b : BitVec 6) (s : State) : Host.Outcome State Fault Refusal :=
  scalarAtom 8 op ord d a b s

/-- A fence of the scalar stream (R111, R200): an acquire waits until earlier reads have returned and then applies its
invalidation, a release waits as R110 gives. An acquire at module or system scope first catches up with every other die, by a request of
its own to each (R114, R125, R396; log entry 7). -/
def scalarFence (acq rel : Bool) (sc : Scope) (s : State) : Host.Outcome State Fault Refusal :=
  runScalar (fun s f => do
    waitUnless (s.memReady f && f.readsReturned)
    waitUnless (!rel || s.releaseReady f sc)
    let others := (List.range 4).filter fun d => d ≠ dieOf f.core && (s.die d).live
    let s := if !acq then s
      else if acqWide (some sc) then s.startOp f.uid f.spc none [] 0 (some sc) others
      else s.applyAcquire f.core (s.herdOf f).session sc
    .ok (s.onFlock f.uid Flock.advance)) s

/-- `s.fence.acq` (R200). -/
def execSFenceAcq (scope : Scope) (s : State) : Host.Outcome State Fault Refusal := scalarFence true false scope s

/-- `s.fence.rel` (R200). -/
def execSFenceRel (scope : Scope) (s : State) : Host.Outcome State Fault Refusal := scalarFence false true scope s

/-- `s.fence.ar` (R200). -/
def execSFenceAr (scope : Scope) (s : State) : Host.Outcome State Fault Refusal := scalarFence true true scope s

end Sys2Proof.Machine
end

