-- ==== Sys2Proof/Machine/Diverge.lean ====
section
/-!
DEFINITION. Divergence: the LFSRs (R50), splitting and joining (R48, R49, R262), arrivals (R51, R264), lanes that end
(R264, R271), the retirement of a block (R260), the mask predictor (R53, R59), and the return of lanes from a call flock
(R268, R269).
-/
namespace Sys2Proof.Machine

/-! ## LFSRs (R50) -/

/-- One LFSR step: the choice bit, taken arm first when set, and the next state. -/
def lfsrStep (s : BitVec 16) : Bool × BitVec 16 :=
  let fb := s.getLsbD 15 ^^ s.getLsbD 13 ^^ s.getLsbD 12 ^^ s.getLsbD 10
  (fb, (s <<< 1) ||| (BitVec.ofBool fb).setWidth 16)

/-- The LFSR of an arm steps. -/
def Flock.stepLfsr (f : Flock) (arm : Nat) : Bool × Flock :=
  if arm = 0 then let (b, x) := lfsrStep f.primary; (b, { f with primary := x })
  else let (b, x) := lfsrStep f.second; (b, { f with second := x })

/-! ## Entries and paths -/

/-- The union of paths' lanes. -/
def lanesOf (ps : List Path) : LaneMask := ps.foldl (fun m p => m ||| p.mask) 0

/-- The paths whose lanes have arrived at an entry. -/
def Flock.arrivedAt (f : Flock) (e : Nat) : List Path := f.paths.filter fun p => p.status = .arrived && p.entries.head? = some e

/-- Every lane of the entry has arrived. -/
def Flock.entryComplete (f : Flock) (e : Entry) : Bool := e.members ≠ 0 && lanesOf (f.arrivedAt e.id) = e.members

/-- An entry is popped (R51): one path goes on past its point with the union of its lanes. When the outermost arms
reconverge, SECOND reads zero (R50). A pop below the depth of the flashback point ends the point (R69). -/
def Flock.pop (f : Flock) (e : Entry) : Flock :=
  let arr := f.arrivedAt e.id
  let f := match e.timer with
    | some (_, _, qd) => f.setQ qd e.members 0
    | none => f
  let goes : List Path := match arr with
    | [] => []
    | p :: _ => [{ p with pc := e.rpoint + 1, mask := e.members, arm := if e.outermost then 0 else e.arm,
                          entries := p.entries.drop 1, status := .ready }]
  let entries := f.entries.filter fun x => x.id ≠ e.id
  { f with
    paths := goes ++ f.paths.filter fun p => !(p.status = .arrived && p.entries.head? = some e.id)
    entries := entries
    second := if e.outermost then 0 else f.second
    point := match f.point with
      | some p => if entries.length < p.depth then none else some p
      | none => none }

/-- A serialised sub-arm may start: no other path of its entry still runs before the entry's point (R49). -/
def Flock.mayStart (f : Flock) (q : Path) : Bool :=
  match q.entries with
  | [] => true
  | e :: _ => f.paths.all fun x => x.id = q.id || !x.entries.contains e || x.status = .stopped
      || (x.status = .arrived && x.entries.head? = some e)

/-- One step toward the settled state: an entry all of whose lanes have ended is dropped, a complete one is popped, and a
sub-arm whose sibling has run starts. A flashback point does not outlast its path: a start of lanes outside it ends it (log
entry 27). SECOND keeps its value until the entry pops, though every lane of an arm may have exited before (DESIGN CHOICE, log entry 100). -/
def Flock.settleOnce (f : Flock) : Flock :=
  let f := { f with entries := f.entries.filter fun e => e.members ≠ 0, paths := f.paths.filter fun p => p.mask ≠ 0 }
  match f.entries.find? f.entryComplete with
  | some e => f.pop e
  | none =>
    let starts (q : Path) : Bool := q.status = .pending && f.mayStart q
    { f with
      paths := f.paths.map fun q => if starts q then { q with status := .ready } else q
      point := f.point.filter fun pt => f.paths.all fun q => !starts q || q.mask &&& ~~~pt.mask = 0 }

/-- The flock after arrivals and exits: completed entries are popped and waiting sub-arms start. -/
def Flock.settle (f : Flock) : Flock := (List.range (f.entries.length + 2)).foldl (fun f _ => f.settleOnce) f

/-- Lanes end: they leave Active, their path and every open entry (R264, R271). -/
def Flock.exitLanes (f : Flock) (ls : LaneMask) : Flock :=
  { f with active := f.active &&& ~~~ls,
           paths := f.paths.map fun p => { p with mask := p.mask &&& ~~~ls },
           entries := f.entries.map fun e => { e with members := e.members &&& ~~~ls } }

/-! ## Splitting (R48, R49, R262) -/

/-- What a `v.br` does with its resolved mask. -/
inductive Split where
  | whole (taken : Bool)
  | join (taken : Bool)
  | push
  | overflow
deriving DecidableEq, Repr

/-- How a branch with taken set `t` acts: a uniform outcome keeps the path whole, a branch to the path's innermost point
joins it, and any other pushes unless the stack is full. -/
def Flock.splitKind (f : Flock) (p : Path) (t : LaneMask) (target rpoint : Nat) : Split :=
  let fall := p.mask &&& ~~~t
  if t = 0 then .whole false
  else if fall = 0 then .whole true
  else
    let here := match p.entries.head?.bind f.entry? with
      | some e => e.rpoint = rpoint
      | none => false
    if here && (target = rpoint) then .join true
    else if here && (p.pc + 1 = rpoint) then .join false
    else if f.entries.length < 32 then .push
    else .overflow

/-- A divergent branch pushes an entry: the two arms of an outermost one issue together, with LFSR states of their own;
nested arms run one after the other. -/
def Flock.push (f : Flock) (p : Path) (t : LaneMask) (target rpoint : Nat) : Flock :=
  let fall := p.mask &&& ~~~t
  let outermost := p.entries.isEmpty
  let (takenFirst, f) := f.stepLfsr (if outermost then 0 else p.arm)
  let e : Entry := ⟨f.nextId, rpoint, p.mask, p.arm, outermost, none, none⟩
  let f := if outermost then { f with second := (lfsrStep f.primary).2 } else f
  let arm (taken : Bool) (id a : Nat) (st : PathStatus) : Path :=
    Path.start id (if taken then target else p.pc + 1) (if taken then t else fall) a (e.id :: p.entries) st
  let one := arm takenFirst p.id (if outermost then 0 else p.arm) .ready
  let two := arm (!takenFirst) (f.nextId + 1) (if outermost then 1 else p.arm) (if outermost then .ready else .pending)
  { f with entries := e :: f.entries, nextId := f.nextId + 2,
           paths := one :: two :: f.paths.filter fun x => x.id ≠ p.id }

/-- A branch joins its path's innermost entry (R262): the arm that starts at the point arrives there, and the other goes on. At a
`v.reconv.w` the arrival also starts the entry's time, which `State.resolveBranch` does. -/
def Flock.join (f : Flock) (p : Path) (t : LaneMask) (target rpoint : Nat) (taken atWait : Bool) : Flock :=
  let fall := p.mask &&& ~~~t
  let (_, f) := f.stepLfsr p.arm
  let goes : Path := { p with mask := if taken then fall else t, pc := if taken then p.pc + 1 else target, status := .ready }
  let stays : Path := Path.start f.nextId rpoint (if taken then t else fall) p.arm p.entries (if atWait then .ready else .arrived)
  { f with nextId := f.nextId + 1, paths := goes :: stays :: f.paths.filter fun x => x.id ≠ p.id }

/-- A branch with taken set `t` acts on a path: none when it would push at depth 32 (R48). -/
def Flock.split (f : Flock) (p : Path) (t : LaneMask) (target rpoint : Nat) (atWait : Bool) : Option Flock :=
  match f.splitKind p t target rpoint with
  | .whole taken => some (f.setPath { p with pc := if taken then target else p.pc + 1 })
  | .join taken => some (f.join p t target rpoint taken atWait)
  | .push => some (f.push p t target rpoint)
  | .overflow => none

/-! ## The mask predictor (R53, R54, R59) -/

/-- The prediction of a code for one mask word (R54). -/
def predictWord (code : BitVec 2) (a l : Word32) : Word32 :=
  match code.toNat with
  | 0 => 0
  | 1 => a
  | 2 => a &&& l
  | _ => a &&& ~~~l

/-- Number of lanes that a code mispredicts. -/
def mispredicted (code : BitVec 2) (a l t : Word32) : Nat := setBits 32 (predictWord code a l ^^^ t).toNat

/-- The code written for one word: the first exact of All, None, Last, Complement; else one that mispredicts fewest lanes,
the present code on a tie, else the lowest (R59). -/
def chooseCode (present : Option (BitVec 2)) (a l t : Word32) : BitVec 2 :=
  match [1#2, 0#2, 2#2, 3#2].find? fun c => mispredicted c a l t = 0 with
  | some c => c
  | none =>
    let codes := [0#2, 1#2, 2#2, 3#2]
    let best := (codes.map fun c => mispredicted c a l t).foldl min 32
    let tied := codes.filter fun c => mispredicted c a l t = best
    match present with
    | some c => if tied.contains c then c else tied.headD 0
    | none => tied.headD 0

/-- The predictor entry of a branch, if its tag matches (R53). -/
def Core.predict? (k : Core) (index : Nat) : Option PredEntry :=
  match SMap.get? k.predictor (index % 2048) with
  | some e => if e.tag = BitVec.ofNat 7 (index / 2048) then some e else none
  | none => none

/-- The predicted taken set of a path under an entry (R54). -/
def Flock.predicted (f : Flock) (p : Path) (e : PredEntry) : LaneMask :=
  p.mask &&& (List.range 32).foldl (fun m w =>
    m ||| (predictWord (e.codes.getD w 0) (p.mask.word w) (f.last.word w)).setWidth 1024 <<< (32 * w)) 0

/-- The path of a branch gives way to its predicted arms (R54): they issue at once under unconfirmed masks, the second arm of a nested
split after the first. -/
def Flock.predict (f : Flock) (b : Branch) (t : LaneMask) : Flock :=
  let p := b.path
  let outermost := p.entries.isEmpty
  let takenFirst := (f.stepLfsr p.arm).1
  let fall := p.mask &&& ~~~t
  let both := t ≠ 0 && fall ≠ 0
  let arm (taken : Bool) (id : Nat) : Path :=
    let second := both && (taken != takenFirst)
    { Path.start id (if taken then b.target else p.pc + 1) (if taken then t else fall) (if second && outermost then 1 else p.arm)
        p.entries (if second && !outermost then .pending else .ready) with guess := some ⟨p.id, taken, []⟩ }
  let arms := (if t = 0 then [] else [arm true f.nextId]) ++ (if fall = 0 then [] else [arm false (f.nextId + 1)])
  { f with paths := arms ++ f.paths.filter fun x => x.id ≠ p.id
           branches := f.branches ++ [b]
           nextId := f.nextId + 2 }

/-- A resolved branch updates its core's predictor, and then sets L (R59). A word above the flock's is zero, which All predicts. -/
def State.learn (s : State) (f : Flock) (index : Nat) (a t : LaneMask) : State :=
  let old := (s.core f.core).predict? index
  let codes := (List.range 32).map fun w =>
    chooseCode (old.map fun e => e.codes.getD w 0) (a.word w) (f.last.word w) (t.word w)
  let s := s.onCore f.core fun k =>
    { k with predictor := SMap.insert k.predictor (index % 2048) ⟨BitVec.ofNat 7 (index / 2048), codes⟩ }
  s.onFlock f.uid fun f => { f with last := t }

/-! ## The end of a block (R260) -/

/-- The lane stream's block has no path that still runs. -/
def Flock.blockDone (f : Flock) : Bool :=
  f.paths.all (fun p => p.status = .stopped) && (f.call.isSome || f.queue.any (·.running))

/-- `v.lstop` retires: every entry closes, Active is the union of the paths' lanes and the parked set, the queue entry frees,
and the next queued block may start. A call flock then ends. -/
def State.retireBlock (s : State) (f : Flock) : State :=
  let g := { f with active := lanesOf f.paths ||| f.parked, parked := 0, paths := [], entries := [], branches := [], second := 0, point := none,
                    queue := f.queue.drop 1 }
  let s := s.setFlock g
  if f.call.isSome then s.post (.callFlockEnd f.uid)
  else if g.queue.isEmpty then s else s.post (.laneBlockStart f.uid)

/-- The state after a flock's paths have changed: the divergence stack settles, and a finished block retires. What follows a closed
entry is ordered after the accesses of its arms (R51, R105, R113). -/
def State.settleFlow (s : State) (f : Flock) : State :=
  let g := f.settle
  let closes := g.entries.length < f.entries.length || (g.blockDone && !g.entries.isEmpty)
  let g := if closes then s.orderAll g else g
  if g.blockDone then s.retireBlock g else s.setFlock g

/-! ## Regrouped lanes (R266 to R269) -/

/-- Lanes of the caller's path that are with a collection or a call flock. -/
def State.lanesAway (s : State) (uid pid : Nat) : Bool :=
  (s.flocks.any fun c => match c.call with
    | some ls => ls.any fun l => l.flock = uid && l.path = pid
    | none => false)
  || s.cores.any fun (_, k) => k.collections.any fun g => g.arrivals.any fun a => a.flock = uid && a.path = pid

/-- A caller's path whose lanes are all back resumes after its `v.call.rg`, which is a fence (R62, R69, R269). -/
def State.resumeCallers (s : State) (callers : List (Nat × Nat)) : State :=
  callers.foldl (fun s (uid, pid) =>
    if s.lanesAway uid pid then s
    else match s.flock? uid with
      | none => s
      | some f =>
        let back (p : Path) : Path := if p.id = pid && p.status = .away then { p with pc := p.pc + 1, status := .ready } else p
        s.settleFlow { f.fence with paths := f.paths.map back }) s

/-- A lane register copied from another flock or lane, with its poison (R61, R62, R464). -/
def Flock.copyReg (f : Flock) (r l : Nat) (src : Flock) (sr sl : Nat) : Flock :=
  let f := f.setV r l (src.vreg sr sl)
  if src.vPoison.contains (laneKey sr sl) then
    { f with vPoison := setAdd (laneKey r l) f.vPoison, vBorn := setMark (src.vBorn.contains (laneKey sr sl)) [laneKey r l] f.vBorn }
  else f

/-- Lanes of a call flock go back to their callers (R269): with `back` their result registers are written, else the lanes have
ended and end in their callers too. The call flock's FLAGS join those of each caller. -/
def State.returnLanes (s : State) (uid : Nat) (ls : LaneMask) (back : Bool) : State :=
  match s.flock? uid with
  | none => s
  | some c =>
    let here := (c.call.getD []).filter fun x => ls.has x.lane
    let s := here.foldl (fun s x => s.onFlock x.flock fun f =>
      let f := { f with flags := f.flags ||| c.flags }
      if back then (List.range x.results).foldl (fun f i => f.copyReg (x.base + i) x.callerLane c i x.lane) f
      else f.exitLanes (LaneMask.single x.callerLane)) s
    let s := s.onFlock uid fun c => { (c.exitLanes ls) with call := c.call.map fun l => l.filter fun x => !ls.has x.lane }
    s.resumeCallers (here.map fun x => (x.flock, x.path)).eraseDups

end Sys2Proof.Machine
end

