-- ==== Sys2Proof/Machine/Schedule.lean ====
section
/-!
DEFINITION. The passing of time, instruction fetch, and which streams may issue (R23, R27, R40 to R43, R50, R360). Issue.lean chooses what
a step does.
-/
namespace Sys2Proof.Machine

/-- What a stream does next: it runs an instruction, or its fetch has been dealt with. -/
inductive Choice where
  | issue (i : Instr)
  | idle
deriving Repr

/-! ## Time -/

/-- CYCLE after a free number of units has passed; it never falls (R23, R161; log entry 3). -/
def cycleAfter (c : Word64) (n : Nat) : Word64 := BitVec.ofNat 64 (min (c.toNat + n) (2 ^ 64 - 1))

/-- PCLOCK of a die after `n` units of CYCLE under a locked ratio (R22, R360), with the remainder that is carried on: the cluster clock is
1.6 GHz × LNUM / LDEN where CYCLE counts 1.5 GHz (log entry 3). -/
def pclockAfter (d : PaddockDesc) (c : Word64) (rest n : Nat) : Word64 × Nat :=
  let v := n * 16 * d.lnum.toNat + rest
  (cycleAfter c (v / (15 * d.lden.toNat)), v % (15 * d.lden.toNat))

/-- CYCLE of every die passes on by a free amount, and with it PCLOCK where a paddock's clock is locked (R23, R360; log entry 3). -/
def State.tick (s : State) : State :=
  let t := s.ticks
  { s with
    ticks := t + 1
    dies := s.dies.zipIdx.map fun (d, i) => { d with cycle := cycleAfter d.cycle (Config.elapsed t i) }
    paddocks := s.paddocks.map fun p =>
      if p.desc.lock then
        let x := p.pclock.zipIdx.map fun (c, i) =>
          pclockAfter p.desc c (p.prest.getD i 0) ((cycleAfter (s.die i).cycle (Config.elapsed t i)).toNat - (s.die i).cycle.toNat)
        { p with pclock := x.map (·.1), prest := x.map (·.2) }
      else p }

/-! ## Instruction fetch (R27, R446, R476) -/

/-- The trap of a fetch whose page does not translate or holds poison (R476): kind read, lane 0. -/
def fetchTrap (cause va : Nat) : Trap := { cause := cause, addr := BitVec.ofNat 64 va }

/-- `n` bytes of a region's code or tables on one line, read through the caches beside the L1 data cache; it waits while another die cannot serve
it (R15, R18; log entry 21). -/
def State.fetch (s : State) (f : Flock) (va n : Nat) : Res (State × List Byte) :=
  match s.translate (s.agentOf f) va .read with
  | .error c => if c = notYet then waits else .error (.trap (fetchTrap c va))
  | .ok (s, loc) =>
    match s.readThrough (s.agentOf f) loc n false with
    | none => waits
    | some (s, bs, bad) => if bad then .error (.trap (fetchTrap 0x17 va)) else .ok (s, bs)

/-- The bytes of an item that may lie across the end of a line, fetched in two parts there. -/
def State.fetchItem (s : State) (f : Flock) (va n : Nat) : Res (State × List Byte) :=
  let first := 256 - va % 256
  if n ≤ first then s.fetch f va n
  else match s.fetch f va first with
    | .error t => .error t
    | .ok (s, a) => match s.fetch f (va + first) (n - first) with
      | .error t => .error t
      | .ok (s, b) => .ok (s, a ++ b)

/-- The scalar instruction at a flock's scalar program counter. -/
def State.fetchScalar (s : State) (f : Flock) : Res (State × Instr) :=
  let rcb := (s.regionOf (s.herdOf f)).rcb
  if rcb.slen ≤ f.spc then .ok (s, .fetchBeyondSection false)
  else match s.fetchItem f (rcb.scode + 4 * f.spc) 4 with
    | .error t => .error t
    | .ok (s, bs) => .ok (s, decodedScalar (BitVec.ofNat 32 (ofBytes bs)))

/-- The lane instruction at a lane index. -/
def State.fetchLaneAt (s : State) (f : Flock) (index : Nat) : Res (State × Instr) :=
  let rcb := (s.regionOf (s.herdOf f)).rcb
  match s.fetchItem f (rcb.lcode + 12 * index) 12 with
  | .error t => .error t
  | .ok (s, bs) => .ok (s, decodedLane (BitVec.ofNat 96 (ofBytes bs)))

/-- The next lane instruction of a path: from the recipe code while a flashback recipe runs (R70, R187), where every well-formed word
executes as it does in the lane section (log entry 33); else from the lane section. -/
def State.fetchLane (s : State) (f : Flock) (p : Path) : Res (State × Instr) :=
  let rcb := (s.regionOf (s.herdOf f)).rcb
  match f.recipe with
  | some r =>
    match s.fetchItem f (rcb.recipe + 48 * rcb.rcount + 12 * r.index) 12 with
    | .error t => .error t
    | .ok (s, bs) => .ok (s, decodedLane (BitVec.ofNat 96 (ofBytes bs)))
  | none =>
    if rcb.llen ≤ p.pc then .ok (s, .fetchBeyondSection true) else s.fetchLaneAt f p.pc

/-! ## Who may issue (R37, R40 to R43, R50) -/

/-- The flock may issue: it runs, and its herd is resident (R37, R426). -/
def State.mayIssue (s : State) (f : Flock) : Bool :=
  f.mode = .running && (s.herdOf f).status = .resident

/-- The streams of a flock that may issue, in the order in which they are tried: its scalar stream, none, and its ready paths take turns,
and of two top arms the first wins (R50). That the scalar stream and the lanes take turns, which settles what a read of the other top arm's
registers returns (R173), is the model's choice (DESIGN CHOICE, log entry 4). In handler mode the scalar stream issues alone (R423), and while a flashback
recipe runs its path issues alone on the lane side (R68). -/
def Flock.streams (f : Flock) : List (Option Nat) :=
  let scalar := if f.call.isNone then [none] else []
  let ready := f.paths.filter fun p => p.status = .ready && p.mask ≠ 0 && f.recipe.all fun r => r.path = p.id
  let lanes := (ready.filter (·.arm = 0) ++ ready.filter (·.arm ≠ 0)).map fun p => some p.id
  if f.hmode then [none]
  else if f.nextStream = 0 then scalar ++ lanes else lanes ++ scalar

/-- Every datapath of every core that has a flock, as core and datapath number. -/
def State.datapaths (s : State) : List (Nat × Nat) :=
  s.cores.flatMap fun (c, k) => (k.datapaths.zipIdx.filter fun (d, _) => d.active.any Option.isSome).map fun (_, i) => (c, i)

/-- A pending flock has a ready instruction (R40, R42), as the scheduler found at the start of the step. -/
def State.pendingReady (s : State) (uid : Nat) : Bool := (s.flock? uid).any (·.ready)

/-- The datapath moves its pointer on past a slot; a sweep that passes the last slot ends a round, and with it the exchange of R42 falls
due when a flock is pending. -/
def State.movePointer (s : State) (core dp : Nat) : State :=
  let d := (s.core core).datapaths.getD dp Datapath.reset
  let s := s.onCore core fun k => { k with datapaths := setNth k.datapaths dp { d with pointer := (d.pointer + 1) % 8 } }
  if d.pointer = 7 && (d.pending != []) then s.postOnce (.roundEndExchange core dp) else s

/-- The instruction that the issuing stream runs, or a step in which its fetch waits or traps. -/
def State.fetchNext (s : State) (x : Issuer) : State × Choice :=
  match s.flock? x.flock with
  | none => (s, .idle)
  | some f =>
    match x.path with
    | none => match s.fetchScalar f with
      | .ok (s, i) => (s, .issue i)
      | .error (.wait e) => (s.waiting e, .idle)
      | .error (.trap t) => (s.takeTrap f.uid .scalar t, .idle)
    | some pid => match f.path? pid with
      | none => (s, .idle)
      | some p => match s.fetchLane f p with
        | .ok (s, i) => (s, .issue i)
        | .error (.wait e) => (s.waiting e, .idle)
        | .error (.trap t) => (if p.guess.isSome then s.setFlock (f.stall p true) else s.laneTrap f p (.lane pid none) t, .idle)

end Sys2Proof.Machine
end

