-- ==== Sys2Proof/Machine/Lifecycle.lean ====
section
/-!
DEFINITION. How flocks change places in a datapath (R41, R42) and how flocks and herds end (R212, R356).
-/
namespace Sys2Proof.Machine

/-- Datapath `dp` of a core. -/
def State.datapath (s : State) (core dp : Nat) : Datapath := (s.core core).datapaths.getD dp Datapath.reset

/-- The state with a datapath replaced. -/
def State.setDatapath (s : State) (core dp : Nat) (d : Datapath) : State :=
  s.onCore core fun k => { k with datapaths := setNth k.datapaths dp d }

/-- The pending flock that has been ready longest, the earliest of equals. -/
def State.longestReady (s : State) (d : Datapath) : Option Nat :=
  let ready := d.pending.filter fun (uid, _) => s.pendingReady uid
  let most := (ready.map (·.2)).foldl max 0
  (ready.find? fun (_, n) => n = most).map (·.1)

/-- The flock leaves its active slot to a pending one, and becomes pending itself with its ready count anew (R42). -/
def Datapath.exchange (d : Datapath) (out into : Nat) : Datapath :=
  { d with active := d.active.map (fun x => if x = some out then some into else x),
           pending := (d.pending.filter fun (u, _) => u ≠ into) ++ [(out, 0)],
           order := d.order.filter (· ≠ out) ++ [into] }

/-- An active flock that waits gives its slot to the pending flock that has been ready longest, if one is ready (R42). -/
def State.yieldSlot (s : State) (core dp uid : Nat) : State :=
  let d := s.datapath core dp
  if d.active.contains (some uid) then
    match s.longestReady d with
    | some into => s.setDatapath core dp (d.exchange uid into)
    | none => s
  else s

/-- The flock leaves its datapath; a pending flock takes the active slot that it frees: the one that has been ready longest (R41), and
where none is ready the first of the pending set (log entry 22). -/
def State.leaveDatapath (s : State) (f : Flock) : State :=
  let d := s.datapath f.core f.datapath
  let pending := d.pending.filter fun (u, _) => u ≠ f.uid
  let d := { d with pending := pending, order := d.order.filter (· ≠ f.uid) }
  if d.active.contains (some f.uid) then
    match (s.longestReady d).or (d.pending.head?.map (·.1)) with
    | some into => s.setDatapath f.core f.datapath
        { d with active := d.active.map (fun x => if x = some f.uid then some into else x),
                 pending := d.pending.filter fun (u, _) => u ≠ into
                 order := d.order ++ [into] }
    | none => s.setDatapath f.core f.datapath { d with active := d.active.map fun x => if x = some f.uid then none else x }
  else s.setDatapath f.core f.datapath d

/-- The flock takes the first free active slot of its datapath, else joins the pending set (R41). -/
def State.enterDatapath (s : State) (f : Flock) : State :=
  let d := s.datapath f.core f.datapath
  match (List.range 8).find? fun i => d.active.getD i none = none with
  | some i => s.setDatapath f.core f.datapath { d with active := setNth d.active i (some f.uid), order := d.order ++ [f.uid] }
  | none => s.setDatapath f.core f.datapath { d with pending := d.pending ++ [(f.uid, 0)] }

/-- One flock that has been ready for four rounds changes places with the active flock of the longest residence. -/
def Datapath.promote (d : Datapath) (uid : Nat) : Datapath :=
  match d.order.head? with
  | some out => d.exchange out uid
  | none => d

/-- The end of a round (R42): ready counts rise, and the pending flocks that have been ready for 4 rounds or more move in, the
longest-ready first. -/
def execRoundEndExchange (core dp : Nat) (s : State) : Host.Outcome State Fault Refusal :=
  let d := s.datapath core dp
  let pending := d.pending.map fun (u, n) => (u, if s.pendingReady u then n + 1 else 0)
  let due := sortBy (fun x y => x.2 ≥ y.2) (pending.filter fun (_, n) => 4 ≤ n)
  .next (s.setDatapath core dp ((due.map (·.1)).foldl Datapath.promote { d with pending := pending }))

/-- The exchange of an active flock whose next instruction waits on an empty register (R42). It follows at once. -/
def execFlockExchange (core dp flock : Nat) (s : State) : Host.Outcome State Fault Refusal :=
  .next (if (s.flock? flock).any (!·.ready) then s.yieldSlot core dp flock else s)

/-- A region whose herds have all been admitted and have all ended completes (R356). -/
def State.regionDone (s : State) (uid : Nat) : Bool :=
  match s.region? uid with
  | none => false
  | some r => r.rcb.herds ≤ r.nextHerd && s.herds.all fun h => h.region ≠ uid

/-- Regions with herds that await admission may find room. -/
def State.postAdmissions (s : State) : State :=
  s.regions.foldl (fun s r => if r.nextHerd < r.rcb.herds then s.postOnce (.herdAdmit r.uid) else s) s

/-- The units of 1,024 cycles of residence that a herd on a core has still to be charged, and the cycles that are left over (R355). -/
def State.residence (s : State) (h : Herd) : Nat × Nat :=
  let d := ((s.die (dieOf h.core)).cycle.toNat + 2 ^ 64 - h.charged) % 2 ^ 64
  (d / 1024, d % 1024)

/-- A herd leaves its core: the residence that its pool has not been charged for stays owed (R355). -/
def State.oweResidence (s : State) (h : Herd) : State :=
  if h.status = .saved || (s.residence h).1 = 0 then s
  else ({ s with owed := s.owed ++ [Owed.mk h.uid (s.regionOf h) (dieOf h.core) (s.residence h).1] } : State).postOnce (.budgetCharge h.uid)

/-- A herd ends: what it held on its core is freed, and its region completes with its last herd (R37, R212, R356). -/
def State.endHerd (s : State) (uid : Nat) : State :=
  match s.herd? uid with
  | none => s
  | some h =>
    let s := (s.oweResidence h).onCore h.core fun k =>
      { k with mxq := k.mxq.filter (fun o => o.herd ≠ uid), collections := k.collections.filter (fun c => c.herd ≠ uid),
               lease := k.lease.filter fun x => x.1 ≠ uid, leaseDebt := SMap.erase k.leaseDebt uid }
    let herds := s.herds.filter fun x => x.uid ≠ uid
    let s := { s with herds := herds, ended := (h :: s.ended).filter fun x => herds.any fun y => y.gang.isSome && y.gang = x.gang
                      flocks := s.flocks.filter fun f => f.herd ≠ uid }
    let s := if s.regionDone h.region then s.post (.regionComplete h.region) else s
    s.postAdmissions

/-- Lanes that a flock had handed out return to nothing: they leave the collections, and end in the call flocks that hold
them. -/
def State.recallLanes (s : State) (uid : Nat) : State :=
  let without (g : Collection) : Collection := { g with arrivals := g.arrivals.filter fun a => a.flock ≠ uid }
  let s := s.mapCores fun k => { k with collections := k.collections.map without }
  let held := s.flocks.filterMap fun c => match c.call with
    | some ls => match ls.filter fun l => l.flock = uid with
      | [] => none
      | own => some (c.uid, LaneMask.ofList (own.map CallLane.lane))
    | none => none
  held.foldl (fun s (c, m) => match s.flock? c with
    | none => s
    | some c => s.settleFlow { (c.exitLanes m) with call := c.call.map fun l => l.filter fun x => !m.has x.lane }) s

/-- A flock ends (R212): a barrier wait is withdrawn, lanes it holds for callers end there, its slot is freed, and its herd
ends with its last flock. -/
def State.endFlock (s : State) (uid : Nat) : State :=
  match s.flock? uid with
  | none => s
  | some f =>
    let s := s.withdraw f
    let s := match f.call with
      | some ls => s.returnLanes uid (LaneMask.ofList (ls.map CallLane.lane)) false
      | none => s.recallLanes uid
    let s := s.leaveDatapath f
    let s := { s with flocks := s.flocks.filter fun x => x.uid ≠ uid }
    if s.flocks.any fun x => x.herd = f.herd then s else s.endHerd f.herd

end Sys2Proof.Machine
end

