-- ==== Sys2Proof/Machine/ScalarSys.lean ====
section
/-!
DEFINITION. Control transfer, lane dispatch and join, barriers, counter waits, k-registers and the system forms of the
scalar stream (R201 to R212, R422 to R425, R440, R446), with the start of a lane block (R202).
-/
namespace Sys2Proof.Machine

/-! ## Control transfer (R201, R446) -/

/-- Length of the scalar section of a flock's region. -/
def State.slen (s : State) (f : Flock) : Nat := (s.regionOf (s.herdOf f)).rcb.slen

/-- Length of the lane section of a flock's region. -/
def State.llen (s : State) (f : Flock) : Nat := (s.regionOf (s.herdOf f)).rcb.llen

/-- A taken transfer to an index: outside the section it is a fetch fault at the transfer itself (R446). -/
def State.transfer (s : State) (f : Flock) (target : Int) : Res Flock :=
  if 0 ≤ target ∧ target < s.slen f then .ok { f with spc := target.toNat }
  else .error (.trap { cause := 0x0A, addr := BitVec.ofInt 64 target })

/-- A transfer by an offset from the instruction's own index, when its condition holds. -/
def State.branch (s : State) (f : Flock) (taken : Bool) (off : Int) : Res Flock :=
  if taken then s.transfer f (f.spc + off) else .ok f.advance

/-- `s.b` (R201). -/
def execSB (z : BitVec 3) (neg : Bool) (off : BitVec 22) (s : State) : Host.Outcome State Fault Refusal :=
  runScalar (fun s f => do
    let f ← s.branch f (f.zbit z.toNat ^^ neg) off.toInt
    .ok (s.setFlock f)) s

/-- `s.call` (R201): a taken call leaves the next index in s63. -/
def execSCall (z : BitVec 3) (neg : Bool) (off : BitVec 22) (s : State) : Host.Outcome State Fault Refusal :=
  runScalar (fun s f => do
    f.defS 63
    let taken := f.zbit z.toNat ^^ neg
    let g ← s.branch f taken off.toInt
    .ok (s.setFlock (if taken then g.setS 63 (BitVec.ofNat 64 (f.spc + 1)) else g))) s

/-- `s.bz` (R201). -/
def execSBz (a : BitVec 6) (imm : BitVec 14) (s : State) : Host.Outcome State Fault Refusal :=
  runScalar (fun s f => do
    f.useS [a]
    let f ← s.branch f (f.rs a == 0) imm.toInt
    .ok (s.setFlock f)) s

/-- `s.loop` (R201). -/
def execSLoop (d : BitVec 6) (imm : BitVec 14) (s : State) : Host.Outcome State Fault Refusal :=
  runScalarAt (fun t => if t.cause = 0x0A then .loop d.toNat else .scalar) (fun s f => do
    f.useS [d]
    f.defS d
    let v := f.rs d - 1
    let g ← s.branch f (v != 0) imm.toInt
    .ok (s.setFlock (g.setS d.toNat v))) s

/-- A transfer to the index in a register. -/
def jumpTo (a : BitVec 6) (s : State) : Host.Outcome State Fault Refusal :=
  runScalar (fun s f => do
    f.useS [a]
    let v := f.rs a
    if v.toNat < 2 ^ 26 then do
      let f ← s.transfer f v.toNat
      .ok (s.setFlock f)
    else .error (.trap { cause := 0x0A, addr := v })) s

/-- `s.ret` (R201). -/
def execSRet (s : State) : Host.Outcome State Fault Refusal := jumpTo 63 s

/-- `s.jr` (R201). -/
def execSJr (a : BitVec 6) (s : State) : Host.Outcome State Fault Refusal := jumpTo a s

/-! ## Lane dispatch and join (R32, R36, R202, R203, R424) -/

/-- The read mask that a block header carries (R175). -/
def blkMask (w : LaneWord) : Word64 := w.sc ++ w.sb ++ w.sa ++ w.dest ++ w.imm

/-- The mask of the header at a lane index, as far as one stands there. -/
def State.headerMask (s : State) (f : Flock) (index : Nat) : Res Word64 :=
  if index < s.llen f then
    match s.fetchLaneAt f index with
    | .ok (_, .vBlk w) => .ok (blkMask w)
    | .error (.wait e) => .error (.wait e)
    | _ => .ok 0
  else .ok 0

/-- `s.lgo` (R202). -/
def execSLgo (index : BitVec 26) (s : State) : Host.Outcome State Fault Refusal :=
  runScalar (fun s f => do
    trapUnless (!f.hmode) 0x01
    waitUnless (f.queue.length < 4)
    let mask ← s.headerMask f index.toNat
    let g := { f.advance with queue := f.queue ++ [⟨index.toNat, mask, false⟩] }
    let s := s.setFlock g
    .ok (if f.queue.isEmpty then s.post (.laneBlockStart f.uid) else s)) s

/-- The blocks that `s.lwait` joins have retired, and what they wrote by `v.tos` has landed (R36). -/
def Flock.joined (f : Flock) : Bool := f.queue.isEmpty && f.ops.all fun o => !o.tos

/-- `s.lwait` (R203). -/
def execSLwait (s : State) : Host.Outcome State Fault Refusal :=
  runScalar (fun s f => do
    trapUnless (!f.hmode) 0x01
    waitUnless f.joined
    .ok (s.setFlock f.advance)) s

/-- The lane stream starts the next queued block (R202, R260): its header is checked, and its path begins after it with the
flock's Active. A flock that may not issue starts none until it goes on. -/
def execLaneBlockStart (flock : Nat) (s : State) : Host.Outcome State Fault Refusal :=
  match s.flock? flock with
  | none => .next s
  | some f =>
    match f.queue with
    | [] => .next s
    | e :: rest =>
      if e.running || f.hmode || !s.mayIssue f then .next s
      else if s.llen f ≤ e.target then .next (s.takeTrap flock .blockStart { cause := 0x0B, addr := BitVec.ofNat 64 e.target })
      else match s.fetchLaneAt f e.target with
        | .error (.wait _) => .next (s.post (.laneBlockStart flock))
        | .error (.trap t) => .next (s.takeTrap flock .blockStart t)
        | .ok (s, i) =>
          match i with
          | .vBlk w =>
            let paths : List Path := if f.active = 0 then [] else [Path.start f.nextId (e.target + 1) f.active 0 [] .ready]
            .next (s.settleFlow { f with queue := ⟨e.target, blkMask w, true⟩ :: rest, paths := paths, nextId := f.nextId + 1 })
          | .reservedEncoding _ w =>
            if w.extractLsb' 0 8 = 2 ∨ w.extractLsb' 0 8 = 3 then .next (s.takeTrap flock .blockStart { cause := 0x01 })
            else .next (s.takeTrap flock .blockStart { cause := 0x0B, addr := BitVec.ofNat 64 e.target })
          | _ => .next (s.takeTrap flock .blockStart { cause := 0x0B, addr := BitVec.ofNat 64 e.target })

/-! ## Barriers (R204 to R208, R447) -/

/-- The object that a barrier instruction names: the herd that holds it and its offset. A bad address, or one not aligned to
32, is a scratchpad fault (R213); a poisoned object traps (R464). The kind of the access is write (log entry 24). A scratchpad address has 32
bits (R73), and no rule says what bits [63:32] of sa do: they are ignored (DESIGN CHOICE, log entry 114). -/
def State.barrierAt (s : State) (f : Flock) (a : BitVec 6) : Res (Herd × Nat) :=
  let sa := bitsAt (f.rs a).toNat 0 32
  if sa % 32 ≠ 0 then .error (.trap (addrTrap 0x09 sa 0 .write))
  else match s.checkSpad (s.herdOf f) sa 32 with
    | .error c => .error (.trap (addrTrap c sa 0 .write))
    | .ok (h, off) => if h.spadPoisoned off 32 then .error (.trap (addrTrap 0x17 sa 0 .write)) else .ok (h, off)

/-- Scope of the object at an address (R120). -/
def barrierScope (f : Flock) (a : BitVec 6) : Scope := if bitsAt (f.rs a).toNat 21 1 = 1 then .cl else .hd

/-- Barrier misuse at an object (R447). -/
def misuse {α : Type} (f : Flock) (a : BitVec 6) : Res α := traps 0x0C (bitsAt (f.rs a).toNat 0 32)

/-- `s.bar.init` (R206). -/
def execSBarInit (a b : BitVec 6) (s : State) : Host.Outcome State Fault Refusal :=
  runScalar (fun s f => do
    f.useS [a, b]
    let (h, off) ← s.barrierAt f a
    if h.obj off 48 8 ≠ 0 then misuse f a
    else do
      waitUnless (s.memReady f)
      let v := bitsAt (f.rs b).toNat 0 16 * 2 ^ 16 + bitsAt (f.rs b).toNat 32 32 * 2 ^ 64
      .ok ((s.setHerd (h.writeSpad off (bytesOf 32 v))).setFlock f.advance)) s

/-- `s.bar.arrive` (R206): refused while a completed phase drains; otherwise counted, after its release has waited. -/
def execSBarArrive (zd : BitVec 3) (a : BitVec 6) (s : State) : Host.Outcome State Fault Refusal :=
  runScalar (fun s f => do
    f.useS [a]
    let (h, off) ← s.barrierAt f a
    waitUnless (s.releaseReady f (barrierScope f a))
    if h.obj off 128 1 = 1 then .ok (s.setFlock (f.setZ zd.toNat true).advance)
    else if h.obj off 32 16 = h.obj off 16 16 then misuse f a
    else
      let h := (h.setObj off 32 16 (h.obj off 32 16 + 1)).tryComplete off
      .ok ((s.setHerd h).setFlock (f.setZ zd.toNat false).advance.fence)) s

/-- `s.bar.expect` (R206). -/
def execSBarExpect (a b : BitVec 6) (s : State) : Host.Outcome State Fault Refusal :=
  runScalar (fun s f => do
    f.useS [a, b]
    let (h, off) ← s.barrierAt f a
    waitUnless (s.memReady f)
    let h := (h.setObj off 64 32 (h.obj off 64 32 + bitsAt (f.rs b).toNat 0 32)).tryComplete off
    .ok ((s.setHerd h).setFlock f.advance)) s

/-- `s.bar.wait` (R207): it completes at once for a phase that has passed, and registers for the present one. A registered
wait stands until the event of its completion. -/
def execSBarWait (a b : BitVec 6) (s : State) : Host.Outcome State Fault Refusal :=
  runScalar (fun s f => do
    f.useS [a, b]
    waitUnless f.bar.isNone
    let (h, off) ← s.barrierAt f a
    let p := bitsAt (f.rs b).toNat 0 16
    let delta := phaseDelta (h.obj off 0 16) p
    if 32768 ≤ delta then misuse f a
    else if 1 ≤ delta then
      waitUnless (s.memReady f && f.readsReturned)
      .ok ((s.applyAcquire f.core (s.herdOf f).session (barrierScope f a)).onFlock f.uid Flock.advance)
    else do
      waitUnless (s.memReady f && decide (h.obj off 128 1 = 0) && decide (h.obj off 48 8 ≠ 255))
      let h := h.setObj off 48 8 (h.obj off 48 8 + 1)
      let g := { f with bar := some ⟨(f.rs a).setWidth 32, BitVec.ofNat 16 p⟩ }
      .ok (((s.setHerd h).setFlock g).post (.barWaitComplete f.uid))) s

/-- A registered waiter completes when its phase has passed: it observes the completion, acquires at the object's scope, and
its scalar stream goes on (R207). -/
def execBarWaitComplete (flock : Nat) (s : State) : Host.Outcome State Fault Refusal :=
  match s.flock? flock with
  | none => .next s
  | some f =>
    match f.bar with
    | none => .next s
    | some b =>
      match s.spadTarget (s.herdOf f) b.addr.toNat with
      | none => .next s
      | some (h, off) =>
        if !phasePast (h.obj off 0 16) b.phase.toNat then .next (s.post (.barWaitComplete flock))
        else
          let sc : Scope := if b.addr.getLsbD 21 then .cl else .hd
          let s := s.setHerd (h.observe off)
          let s := s.applyAcquire f.core (s.herdOf f).session sc
          .next (s.onFlock flock fun f => { f.advance with bar := none })

/-! ## Counters (R209) -/

/-- `s.cnt.wait` (R209). -/
def execSCntWait (path : Counter) (a : BitVec 6) (s : State) : Host.Outcome State Fault Refusal :=
  runScalar (fun s f => do
    f.useS [a]
    waitUnless (f.count path ≤ (f.rs a).toNat)
    .ok (s.setFlock f.advance)) s

/-! ## k-registers (R145, R158 to R161, R210, R420) -/

/-- INFLIGHT (R94). -/
def Flock.inflight (f : Flock) : Word64 :=
  BitVec.ofNat 64 (([Counter.g, .s, .t, .x, .m, .f].zipIdx.map fun (c, i) => f.count c * 2 ^ (8 * i)).sum)

/-- The flock whose identity and counters a flock's k-registers show: a call flock's first caller (R268). -/
def State.kview (s : State) (f : Flock) : Flock := (f.kflock.bind s.flock?).getD f

/-- The value of a k-register that a flock may read; none for a reserved or privileged index (R158 to R160, R420). -/
def State.kread (s : State) (f : Flock) (k : Nat) : Option Word64 :=
  let h := s.herdOf f
  let v := s.kview f
  let pad := s.paddockOf h.session
  let die := dieOf f.core
  let num (n : Nat) : Option Word64 := some (BitVec.ofNat 64 n)
  match k with
  | 0x000 => some (s.die die).cycle
  | 0x001 => if (s.paddock pad).desc.lock then some ((s.paddock pad).pclock.getD die 0) else some 0
  | 0x010 => num die
  | 0x011 => num (clusterOf f.core)
  | 0x012 => num f.core
  | 0x020 => num f.lanes
  | 0x021 => num (v.inherd + f.slot * 2 ^ 4 + v.datapath * 2 ^ 10)
  | 0x022 => some (v.herdid.setWidth 64)
  | 0x023 => some ((f.second ++ f.primary).setWidth 64)
  | 0x030 => num (s.pasid h.session + h.session * 2 ^ 20)
  | 0x031 => num (pad + (if (s.paddock pad).desc.cls then 8 else 0) + (if (s.paddock pad).desc.lock then 16 else 0))
  | 0x040 => some f.modeAfter
  | 0x041 => num (Nat.land (s.legacyMode h.session) 0xFF3F)
  | 0x042 => some f.flags
  | 0x043 => some v.inflight
  | 0x100 => some f.tcause
  | 0x101 => some f.tpc
  | 0x102 => some f.taddr
  | 0x103 => some f.tinfo
  | 0x104 => some f.tvec
  | 0x105 => some f.tret
  | 0x106 => some f.tscr0
  | 0x107 => some f.tscr1
  | _ => none

/-- An index that a flock may write, with the lowest bit of its Reserved field (R159, R161, R420). -/
def kwritable (k : Nat) : Option Nat :=
  match k with
  | 0x023 => some 32
  | 0x040 => some 4
  | 0x042 => some 5
  | 0x104 => some 27
  | 0x105 => some 3
  | 0x106 => some 64
  | 0x107 => some 64
  | _ => none

/-- The flock with a k-register written: zero stored to PRIMARY becomes 0xACE1 (R28). -/
def Flock.kwrite (f : Flock) (k : Nat) (v : Word64) : Flock :=
  match k with
  | 0x023 => { f with primary := if v.setWidth 16 = (0 : BitVec 16) then 0xACE1 else v.setWidth 16 }
  | 0x040 => f.setMode v
  | 0x042 => { f with flags := v }
  | 0x104 => { f with tvec := v }
  | 0x105 => { f with tret := v }
  | 0x106 => { f with tscr0 := v }
  | 0x107 => { f with tscr1 := v }
  | _ => f

/-- `s.kget` (R210). A read of FLAGS waits for the lane queue outside handler mode (R145). -/
def execSKget (d : BitVec 6) (k : BitVec 12) (s : State) : Host.Outcome State Fault Refusal :=
  runScalar (fun s f =>
    match s.kread f k.toNat with
    | none => traps 0x03
    | some v => do
      f.defS d
      waitUnless (k != 0x042 || f.hmode || f.queue.isEmpty)
      .ok (s.setFlock (f.setS d.toNat v).advance)) s

/-- `s.kput` (R210). Writes of FPMODE, FLAGS and LFSRSEED wait for the lane queue outside handler mode (R145, R161). -/
def execSKput (k : BitVec 12) (a : BitVec 6) (s : State) : Host.Outcome State Fault Refusal :=
  runScalar (fun s f =>
    match kwritable k.toNat with
    | none => traps 0x03
    | some low => do
      f.useS [a]
      trapUnless ((f.rs a).toNat < 2 ^ low) 0x03
      waitUnless (256 ≤ k.toNat || f.hmode || f.queue.isEmpty)
      .ok (s.setFlock (f.kwrite k.toNat (f.rs a)).advance)) s

/-! ## System forms (R211, R212, R424, R425) -/

/-- `s.nop` (R211). -/
def execSNop (s : State) : Host.Outcome State Fault Refusal :=
  runScalar (fun s f => .ok (s.setFlock f.advance)) s

/-- `s.trap` (R211). -/
def execSTrap (code : BitVec 14) (s : State) : Host.Outcome State Fault Refusal :=
  runScalar (fun _ _ => traps 0x14 0 code.toNat) s

/-- `s.yield` (R211). -/
def execSYield (s : State) : Host.Outcome State Fault Refusal :=
  runScalar (fun s f => .ok ((s.setFlock f.advance).yieldSlot f.core f.datapath f.uid)) s

/-- No engine command of the flock is suspended, or still reads its scratchpad into global memory (R37, R212, R458). -/
def State.enginesDone (s : State) (f : Flock) : Bool :=
  s.cores.all fun (_, k) => k.engine.all fun c => c.flock ≠ f.uid || (!c.suspended && c.kind ≠ .xf)

/-- A flock ends from its handler: its lane queue and halted lane state are discarded, and it waits for its counters and, as any `s.exit`, for
its engine commands (R424, R458). -/
def State.endInHandler (s : State) (f : Flock) : Res State := do
  waitUnless (f.drained && s.enginesDone f)
  .ok ((s.setFlock { f with queue := [], paths := [], entries := [], branches := [] }).endFlock f.uid)

/-- `s.exit` (R212, R424). -/
def execSExit (s : State) : Host.Outcome State Fault Refusal :=
  runScalar (fun s f =>
    if f.hmode then s.endInHandler f
    else do
      waitUnless (f.joined && f.drained && s.enginesDone f)
      .ok (s.endFlock f.uid)) s

/-- `s.tret` (R425): retry, skip or end by TRET.ACT; outside a handler, and with the reserved action, it is illegal. -/
def execSTret (s : State) : Host.Outcome State Fault Refusal :=
  runScalar (fun s f =>
    if !f.hmode then traps 0x01
    else match bitsAt f.tret.toNat 0 2 with
      | 0 => .ok (s.leaveTrap f false (f.tret.getLsbD 2))
      | 1 => .ok (s.leaveTrap f true false)
      | 2 => s.endInHandler f
      | _ => traps 0x01) s

/-! ## Words that are no instruction (R440, R446) -/

/-- A reserved word traps in the stream that issues it (R440). -/
def execReservedEncoding (lane : Bool) (_word : BitVec 96) (s : State) : Host.Outcome State Fault Refusal :=
  if lane then runLane (fun _ _ _ => traps 0x01) s else runScalar (fun _ _ => traps 0x01) s

/-- A stream has run past the end of its section: it stands at the first index beyond, and traps there (R446). -/
def execFetchBeyondSection (lane : Bool) (s : State) : Host.Outcome State Fault Refusal :=
  if lane then
    match s.laneIssuer? with
    | none => .fault .noIssuer
    | some (f, p) =>
      let f := f.setPath { p with pc := s.llen f, heldFault := p.heldFault.map fun _ => s.llen f }
      runLane (fun s f _ => traps 0x0A (s.llen f)) (s.setFlock f)
  else
    match s.scalarIssuer? with
    | none => .fault .noIssuer
    | some f =>
      let f := if f.hmode then f else { f with spc := s.slen f }
      runScalar (fun _ f => traps 0x0A f.spc) (s.setFlock f)

end Sys2Proof.Machine
end

