-- ==== Sys2Proof/Machine/LaneInt.lean ====
section
/-!
DEFINITION. Integer, logic, shift, bit, compare and move instructions of the lane stream (R216 to R223).
-/
namespace Sys2Proof.Machine

/-! ## Types and elements (R134, R169, R216) -/

/-- An integer type: element width and signedness. The elements of a 64-bit type fill a register pair. -/
structure IntTy where
  w : Nat
  signed : Bool
deriving DecidableEq, Repr

/-- The type of a SUB field (R169). -/
def intTy (sub : BitVec 4) : IntTy :=
  let c := sub.toNat % 8
  ⟨if c < 2 then 32 else if c < 4 then 16 else if c < 6 then 8 else 64, c % 2 = 0⟩

/-- Bits of a value of the type: a register or a pair. -/
def IntTy.size (t : IntTy) : Nat := if t.w = 64 then 64 else 32

/-- Registers of a value of the type. -/
def IntTy.regs (t : IntTy) : Nat := t.size / 32

/-- An element as a number, by the type's signedness. -/
def IntTy.value (t : IntTy) (e : Nat) : Int := if t.signed then signedOf t.w e else e

/-- Each element of a register image computed from the elements of others in its place. -/
def mapElements (w size : Nat) (g : List Nat → Nat) (vs : List Nat) : Nat :=
  ((List.range (size / w)).map fun i => g (vs.map fun v => bitsAt v (w * i) w) % 2 ^ w * 2 ^ (w * i)).sum

/-- A sign modifier on one element (R171). -/
def intModifier (t : IntTy) (m : BitVec 3) (e : Nat) : Nat :=
  let neg (x : Nat) : Nat := (2 ^ t.w - x) % 2 ^ t.w
  let absolute (x : Nat) : Nat := if t.signed && signedOf t.w x < 0 then neg x else x
  match m.toNat with
  | 1 => neg e
  | 2 => absolute e
  | 3 => neg (absolute e)
  | _ => e

/-- A source of an integer instruction in a lane, modified. -/
def Flock.intSource (f : Flock) (w : LaneWord) (t : IntTy) (x : Src) (l : Nat) : Nat :=
  let v := if t.w = 64 then (f.read64 w x l).toNat else (f.read32 w x l).toNat
  mapElements t.w t.size (fun es => intModifier t x.mod (es.headD 0)) [v]

/-- Values written to a destination register or pair of the type. -/
def Flock.intWrite (f : Flock) (t : IntTy) (r : Nat) (vals : List (Nat × Nat)) : Flock :=
  if t.w = 64 then f.writePairs r (vals.map fun (l, v) => (l, BitVec.ofNat 64 v))
  else f.writeLanes r (vals.map fun (l, v) => (l, BitVec.ofNat 32 v))

/-- The first `k` sources of a word, as values of the type. -/
def intSources (w : LaneWord) (t : IntTy) (k : Nat) : List Src :=
  [srcA w t.regs t.regs, srcB w t.regs t.regs, srcC w t.regs t.regs].take k

/-- An integer instruction with `k` sources whose result in a lane is a function of its modified sources. -/
def laneWhole (w : LaneWord) (t : IntTy) (k : Nat) (g : Flock → Nat → List Nat → Nat) (s : State) : Host.Outcome State Fault Refusal :=
  let srcs := intSources w t k
  laneCompute w srcs [dst w t.regs t.regs] (fun _ f lanes =>
    f.intWrite t w.dest.toNat (lanes.map fun l => (l, g f l (srcs.map fun x => f.intSource w t x l)))) s

/-- An integer instruction that works on each element apart. -/
def laneElements (w : LaneWord) (k : Nat) (g : IntTy → List Nat → Nat) (s : State) : Host.Outcome State Fault Refusal :=
  let t := intTy w.sub
  laneWhole w t k (fun _ _ vs => mapElements t.w t.size (g t) vs) s

/-- An exact integer narrowed to an element: saturated under SAT, else cut (R217). -/
def narrow (t : IntTy) (sat : Bool) (e : Int) : Nat :=
  let lo : Int := if t.signed then -(2 ^ (t.w - 1) : Nat) else 0
  let hi : Int := if t.signed then (2 ^ (t.w - 1) : Nat) - 1 else (2 ^ t.w : Nat) - 1
  if sat then patternOf t.w (if e < lo then lo else if hi < e then hi else e) else patternOf t.w e

/-- An arithmetic form (R217). -/
def laneArith (w : LaneWord) (k : Nat) (g : Int → Int → Int → Int) (s : State) : Host.Outcome State Fault Refusal :=
  laneElements w k (fun t es =>
    let x (i : Nat) : Int := t.value (es.getD i 0)
    narrow t (w.sub.getLsbD 3) (g (x 0) (x 1) (x 2))) s

/-! ## Arithmetic (R217) -/

/-- `v.add`. -/
def execVAdd (w : LaneWord) (s : State) : Host.Outcome State Fault Refusal :=
  laneArith w 2 (fun a b _ => a + b) s

/-- `v.sub`. -/
def execVSub (w : LaneWord) (s : State) : Host.Outcome State Fault Refusal :=
  laneArith w 2 (fun a b _ => a - b) s

/-- `v.mul`. -/
def execVMul (w : LaneWord) (s : State) : Host.Outcome State Fault Refusal :=
  laneArith w 2 (fun a b _ => a * b) s

/-- `v.mad`. -/
def execVMad (w : LaneWord) (s : State) : Host.Outcome State Fault Refusal :=
  laneArith w 3 (fun a b c => a * b + c) s

/-- `v.min`. -/
def execVMin (w : LaneWord) (s : State) : Host.Outcome State Fault Refusal :=
  laneArith w 2 (fun a b _ => if a < b then a else b) s

/-- `v.max`. -/
def execVMax (w : LaneWord) (s : State) : Host.Outcome State Fault Refusal :=
  laneArith w 2 (fun a b _ => if a < b then b else a) s

/-- `v.abs`. -/
def execVAbs (w : LaneWord) (s : State) : Host.Outcome State Fault Refusal :=
  laneArith w 1 (fun a _ _ => if a < 0 then -a else a) s

/-! ## Logic, shifts and counts (R218) -/

/-- Element `i` of the sources. -/
def el (es : List Nat) (i : Nat) : Nat := es.getD i 0

/-- `v.and`. -/
def execVAnd (w : LaneWord) (s : State) : Host.Outcome State Fault Refusal :=
  laneElements w 2 (fun _ es => Nat.land (el es 0) (el es 1)) s

/-- `v.or`. -/
def execVOr (w : LaneWord) (s : State) : Host.Outcome State Fault Refusal :=
  laneElements w 2 (fun _ es => Nat.lor (el es 0) (el es 1)) s

/-- `v.xor`. -/
def execVXor (w : LaneWord) (s : State) : Host.Outcome State Fault Refusal :=
  laneElements w 2 (fun _ es => Nat.xor (el es 0) (el es 1)) s

/-- `v.not`. -/
def execVNot (w : LaneWord) (s : State) : Host.Outcome State Fault Refusal :=
  laneElements w 1 (fun t es => 2 ^ t.w - 1 - el es 0) s

/-- `v.shl`. -/
def execVShl (w : LaneWord) (s : State) : Host.Outcome State Fault Refusal :=
  laneElements w 2 (fun t es => if el es 1 < t.w then el es 0 * 2 ^ el es 1 else 0) s

/-- `v.shr`. -/
def execVShr (w : LaneWord) (s : State) : Host.Outcome State Fault Refusal :=
  laneElements w 2 (fun t es => if el es 1 < t.w then el es 0 / 2 ^ el es 1 else 0) s

/-- `v.sra`. -/
def execVSra (w : LaneWord) (s : State) : Host.Outcome State Fault Refusal :=
  laneElements w 2 (fun t es => patternOf t.w (signedOf t.w (el es 0) / (2 ^ (if el es 1 < t.w then el es 1 else t.w) : Nat))) s

/-- `v.clz`. -/
def execVClz (w : LaneWord) (s : State) : Host.Outcome State Fault Refusal :=
  laneElements w 1 (fun t es => leadingZeros t.w (el es 0)) s

/-- `v.popc`. -/
def execVPopc (w : LaneWord) (s : State) : Host.Outcome State Fault Refusal :=
  laneElements w 1 (fun t es => setBits t.w (el es 0)) s

/-- `v.brev`. -/
def execVBrev (w : LaneWord) (s : State) : Host.Outcome State Fault Refusal :=
  laneElements w 1 (fun t es => bitsOf t.w fun j => (el es 0).testBit (t.w - 1 - j)) s

/-! ## Bit fields and interleaving (R219, R220) -/

/-- Offset and width of a bit field from its position operand, the width cut at bit 31. -/
def fieldOf (p : Nat) : Nat × Nat :=
  let o := bitsAt p 0 8
  (o, if 32 ≤ o then 0 else min (bitsAt p 8 8) (32 - o))

/-- `v.bfe` (R219). -/
def execVBfe (w : LaneWord) (s : State) : Host.Outcome State Fault Refusal :=
  laneElements w 2 (fun t es =>
    let (o, n) := fieldOf (el es 1)
    let f := bitsAt (el es 0) o n
    if n = 0 then 0 else if t.signed then patternOf 32 (signedOf n f) else f) s

/-- `v.bfi` (R219). -/
def execVBfi (w : LaneWord) (s : State) : Host.Outcome State Fault Refusal :=
  laneElements w 3 (fun _ es =>
    let (o, n) := fieldOf (el es 2)
    withBits (el es 0) o n (el es 1)) s

/-- `v.bitint` (R220). Its sources take modifiers as 32-bit signed values (log entry 26). -/
def execVBitint (w : LaneWord) (s : State) : Host.Outcome State Fault Refusal :=
  if w.sub = 0 then
    laneWhole w ⟨32, true⟩ 2 (fun _ _ es => bitsOf 32 fun j => (el es (j % 2)).testBit (j / 2)) s
  else
    laneWhole w ⟨32, true⟩ 3 (fun _ _ es => bitsOf 30 fun j => (el es (j % 3)).testBit (j / 3)) s

/-! ## Comparison and moves (R221 to R223) -/

/-- A condition of `v.cmp` (R221). -/
def compareInt (c : Nat) (a b : Int) : Bool :=
  match c with
  | 0 => a == b
  | 1 => a != b
  | 2 => decide (a < b)
  | 3 => decide (a ≤ b)
  | 4 => decide (b < a)
  | _ => decide (b ≤ a)

/-- The q predicate that a word names as its destination (R157). -/
def qDest (w : LaneWord) : Nat := w.dest.toNat % 16

/-- `v.cmp` (R221). -/
def execVCmp (w : LaneWord) (s : State) : Host.Outcome State Fault Refusal :=
  let t := intTy w.sub
  let srcs := intSources w t 2
  laneCompute w srcs [] (fun _ f lanes =>
    let x (l i : Nat) : Int := t.value (f.intSource w t (srcs.getD i (srcA w)) l)
    f.setQ (qDest w) (LaneMask.ofList lanes) (LaneMask.ofList (lanes.filter fun l => compareInt (cond w) (x l 0) (x l 1)))) s

/-- `v.sel` (R222). -/
def execVSel (w : LaneWord) (s : State) : Host.Outcome State Fault Refusal :=
  laneWhole w (intTy w.sub) 2 (fun f l vs => if f.qbit (cond w) l ^^ w.imm.getLsbD 28 then el vs 0 else el vs 1) s

/-- `v.mov` (R222). -/
def execVMov (w : LaneWord) (s : State) : Host.Outcome State Fault Refusal :=
  laneWhole w (intTy w.sub) 1 (fun _ _ vs => el vs 0) s

/-- `v.movi` (R222). -/
def execVMovi (w : LaneWord) (s : State) : Host.Outcome State Fault Refusal :=
  let t := intTy w.sub
  laneWhole w t 0 (fun _ _ _ => if t.w = 64 && t.signed then (w.imm.signExtend 64).toNat else w.imm.toNat) s

/-- `v.lane` (R222). -/
def execVLane (w : LaneWord) (s : State) : Host.Outcome State Fault Refusal :=
  laneWhole w ⟨32, true⟩ 0 (fun _ l _ => l) s

/-- What a lane instruction reads in a k-register: in a flashback recipe FPMODE is the recorded one, under which the recipe runs (R68). -/
def State.laneKread (s : State) (f : Flock) (k : Nat) : Option Word64 := if k = 0x040 then some f.fpmode else s.kread f k

/-- `v.kget` (R223). It waits for its path's mask to be resolved, so that all of its lanes receive one sample, which a replay could not give
them (R57); and for FLAGS until the matrix drains that the flock has issued have raised theirs, since it sees the effect of every earlier lane
instruction of its path (R145). -/
def execVKget (w : LaneWord) (s : State) : Host.Outcome State Fault Refusal :=
  runConfirmed (fun s f p => do
    let lanes := laneList f p w
    let k := bitsAt w.imm.toNat 0 12
    checkNames f [] [dst w]
    match s.laneKread f k with
    | none => traps 0x03
    | some v => do
      waitUnless (k ≠ 0x042 || f.ops.all fun o => o.counter ≠ some .m || o.written)
      checkSources f p w lanes [] [dst w]
      let half : Word32 := if w.imm.getLsbD 12 then v.extractLsb' 32 32 else v.extractLsb' 0 32
      .ok (s.setFlock ((f.writeLanes w.dest.toNat (lanes.map fun l => (l, half))).retire p.id))) s

end Sys2Proof.Machine
end

