-- ==== Sys2Proof/Machine/Numbers.lean ====
section
/-!
DEFINITION. Floating point: the formats of R131 to R134, exact values, rounding, overflow and flushing (R138 to R140), NaN
results (R146), conversions (R147, R148), error feedback (R149) and block floating point (R135 to R137).
-/
namespace Sys2Proof.Machine

/-! ## Formats (R131 to R133, R170) -/

/-- Which special codes a format has. -/
inductive Specials where
  | infAndNan | oneNan | none
deriving DecidableEq, Repr

/-- A floating-point format. -/
structure Fmt where
  width : Nat
  ebits : Nat
  mbits : Nat
  bias : Nat
  specials : Specials
deriving DecidableEq, Repr

/-- FP32. -/
def fp32 : Fmt := ⟨32, 8, 23, 127, .infAndNan⟩
/-- FP16. -/
def fp16 : Fmt := ⟨16, 5, 10, 15, .infAndNan⟩
/-- BF16. -/
def bf16 : Fmt := ⟨16, 8, 7, 127, .infAndNan⟩
/-- FP8 E5M2. -/
def e5m2 : Fmt := ⟨8, 5, 2, 15, .infAndNan⟩
/-- FP8 E4M3. -/
def e4m3 : Fmt := ⟨8, 4, 3, 7, .oneNan⟩
/-- FP6 E3M2. -/
def e3m2 : Fmt := ⟨6, 3, 2, 3, .none⟩
/-- FP4 E2M1. -/
def e2m1 : Fmt := ⟨4, 2, 1, 1, .none⟩

/-- The floating-point format of a format code (R170). -/
def fmtOf (c : Nat) : Fmt :=
  match c with
  | 0 => fp32 | 1 => fp16 | 2 => bf16 | 3 => e5m2 | 4 => e4m3 | 5 => e3m2 | _ => e2m1

/-- Width and signedness of an integer format code (R170). -/
def intFmtOf (c : Nat) : IntTy :=
  match c with
  | 8 => ⟨8, true⟩ | 9 => ⟨8, false⟩ | 10 => ⟨16, true⟩ | 11 => ⟨16, false⟩ | 12 => ⟨32, true⟩ | 13 => ⟨32, false⟩ | _ => ⟨64, true⟩

/-- Exponent of the smallest normal value. -/
def Fmt.emin (f : Fmt) : Int := 1 - f.bias

/-- The sign bit in place. -/
def Fmt.signed (f : Fmt) (neg : Bool) (code : Nat) : Nat := (if neg then 2 ^ (f.width - 1) else 0) + code

/-- The magnitude code of the largest finite value. -/
def Fmt.maxCode (f : Fmt) : Nat :=
  match f.specials with
  | .infAndNan => (2 ^ f.ebits - 1) * 2 ^ f.mbits - 1
  | .oneNan => 2 ^ (f.width - 1) - 2
  | .none => 2 ^ (f.width - 1) - 1

/-- The magnitude code of infinity. -/
def Fmt.infCode (f : Fmt) : Nat := (2 ^ f.ebits - 1) * 2 ^ f.mbits

/-- The canonical NaN (R133). -/
def Fmt.nanCode (f : Fmt) : Nat :=
  match f.specials with
  | .oneNan => 2 ^ (f.width - 1) - 1
  | _ => f.infCode + 2 ^ (f.mbits - 1)

/-! ## Exact values -/

/-- A magnitude from `m * 2^e` up to, but not reaching, the next step when `more` is set, with its sign: exact when `more` is
clear. -/
structure Mag where
  neg : Bool
  m : Nat
  e : Int
  more : Bool := false
deriving DecidableEq, Repr

/-- The value of a code (R132). -/
inductive Num where
  | nan (neg : Bool) (payload : Nat) (quiet : Bool)
  | inf (neg : Bool)
  | fin (x : Mag)
deriving DecidableEq, Repr

/-- The value of a floating-point code (R132). -/
def Fmt.decode (f : Fmt) (code : Nat) : Num :=
  let neg := bitsAt code (f.width - 1) 1 = 1
  let ex := bitsAt code f.mbits f.ebits
  let man := bitsAt code 0 f.mbits
  if ex = 0 then .fin ⟨neg, man, f.emin - f.mbits, false⟩
  else if ex = 2 ^ f.ebits - 1 ∧ f.specials = .infAndNan then
    (if man = 0 then .inf neg else .nan neg man (bitsAt man (f.mbits - 1) 1 = 1))
  else if ex = 2 ^ f.ebits - 1 ∧ f.specials = .oneNan ∧ man = 2 ^ f.mbits - 1 then .nan neg man true
  else .fin ⟨neg, 2 ^ f.mbits + man, (ex : Int) - f.bias - f.mbits, false⟩

/-- The code is a subnormal value. -/
def Fmt.isSub (f : Fmt) (code : Nat) : Bool := bitsAt code f.mbits f.ebits = 0 && bitsAt code 0 f.mbits ≠ 0

/-- Flush on inputs (R140). -/
def Fmt.flush (f : Fmt) (daz : Bool) (code : Nat) : Nat :=
  if daz && f.isSub code then bitsAt code (f.width - 1) 1 * 2 ^ (f.width - 1) else code % 2 ^ f.width

/-- The value is zero. -/
def Mag.zero (x : Mag) : Bool := x.m = 0 && !x.more

/-- The signed integer of an exact magnitude at exponent `e`, not above its own. -/
def Mag.scaled (x : Mag) (e : Int) : Int :=
  let n : Nat := x.m * 2 ^ (x.e - e).toNat
  if x.neg then -(n : Int) else n

/-- An exact integer multiple of `2^e`; `negZero` is the sign that a zero takes. -/
def Mag.ofInt (n : Int) (e : Int) (negZero : Bool) : Mag := ⟨if n = 0 then negZero else n < 0, n.natAbs, e, false⟩

/-- An exact sum. A zero sum has the sign that IEEE 754 gives: that of the terms when they are zeros of one sign, else minus
under rounding toward minus infinity. -/
def Mag.add (down : Bool) (x y : Mag) : Mag :=
  let e := min x.e y.e
  let negZero := if x.zero && y.zero && (x.neg = y.neg) then x.neg else down
  Mag.ofInt (x.scaled e + y.scaled e) e negZero

/-- An exact product. -/
def Mag.mul (x y : Mag) : Mag := ⟨x.neg ^^ y.neg, x.m * y.m, x.e + y.e, false⟩

/-! ## Rounding (R138 to R140) -/

/-- The number of quanta `2^qe` that a magnitude rounds to, and whether it lies between two (R138). -/
def quanta (mode : Rounding) (x : Mag) (qe : Int) : Nat × Bool :=
  if qe ≤ x.e then (x.m * 2 ^ (x.e - qe).toNat, x.more)
  else
    let sh := (qe - x.e).toNat
    -- far below one quantum the power is not formed
    let far := x.m.log2 + 2 < sh
    let lo := if far then 0 else x.m / 2 ^ sh
    let rem := if far then x.m else x.m % 2 ^ sh
    if rem = 0 ∧ !x.more then (lo, false)
    else
      let above := !far && (2 ^ sh < 2 * rem || (2 * rem = 2 ^ sh && (x.more || lo % 2 = 1)))
      let up := match mode with
        | .ne => above
        | .rz => false
        | .rd => x.neg
        | .ru => !x.neg
      (if up then lo + 1 else lo, true)

/-- Delivers the value of an overflow (R139). -/
def Fmt.overflow (f : Fmt) (mode : Rounding) (sat neg : Bool) : Nat :=
  let outward := match mode with
    | .ne => true
    | .rz => false
    | .rd => neg
    | .ru => !neg
  if outward && !sat && f.specials ≠ .none then f.signed neg (if f.specials = .infAndNan then f.infCode else f.nanCode)
  else f.signed neg f.maxCode

/-- Round to a format, with overflow, tininess and flush on results (R138 to R140): the code and the flags. -/
def Fmt.round (f : Fmt) (mode : Rounding) (ftz sat : Bool) (x : Mag) : Nat × Flags :=
  if x.zero then (f.signed x.neg 0, 0)
  else
    let low := f.emin - f.mbits
    let qe := max ((x.m.log2 : Int) + x.e - f.mbits) low
    let (n, inexact) := quanta mode x qe
    -- a carry out of the significand moves to the next exponent
    let (n, qe) := if n = 2 ^ (f.mbits + 1) then (2 ^ f.mbits, qe + 1) else (n, qe)
    let nx := flagIf inexact flagNX
    if n < 2 ^ f.mbits then
      (if ftz then (f.signed x.neg 0, flagUF ||| flagNX) else (f.signed x.neg n, nx ||| flagIf inexact flagUF))
    else
      let code := (n : Int) - 2 ^ f.mbits + (qe - low + 1) * 2 ^ f.mbits
      if (f.maxCode : Int) < code then (f.overflow mode sat x.neg, flagOF ||| flagNX) else (f.signed x.neg code.toNat, nx)

/-! ## NaN results (R146) -/

/-- A NaN in a target format: quieted, its payload cut to the target's mantissa, its sign kept. The high bits of the payload are kept, and
a shorter payload stands at the left of a longer one (DESIGN CHOICE, log entry 101). -/
def nanTo (src dst : Fmt) (neg : Bool) (payload : Nat) : Nat :=
  match dst.specials with
  | .oneNan => dst.signed neg dst.nanCode
  | .none => dst.signed neg dst.maxCode
  | .infAndNan =>
    let cut := if src.mbits ≤ dst.mbits then payload * 2 ^ (dst.mbits - src.mbits) else payload / 2 ^ (src.mbits - dst.mbits)
    dst.signed neg (dst.infCode + Nat.lor cut (2 ^ (dst.mbits - 1)) % 2 ^ dst.mbits)

/-- The code is a NaN. -/
def Fmt.isNan (f : Fmt) (code : Nat) : Bool :=
  match f.decode code with
  | .nan _ _ _ => true
  | _ => false

/-- The code is a signalling NaN. -/
def Fmt.isSig (f : Fmt) (code : Nat) : Bool :=
  match f.decode code with
  | .nan _ _ q => !q
  | _ => false

/-- The result of an operation on sources with their formats: the first NaN among them, else what the operation gives. A
signalling source sets invalid. -/
def withNans (dst : Fmt) (srcs : List (Fmt × Nat)) (k : Nat × Flags) : Nat × Flags :=
  match srcs.find? fun (f, c) => f.isNan c with
  | none => k
  | some (f, c) =>
    let code := match f.decode c with
      | .nan neg pay _ => nanTo f dst neg pay
      | _ => 0
    (code, flagIf (srcs.any fun (f, c) => f.isSig c) flagNV)

/-- The canonical NaN of an invalid operation. -/
def Fmt.invalid (f : Fmt) : Nat × Flags := (f.nanCode, flagNV)

/-! ## Arithmetic on values without NaN -/

/-- A sum of values; none is the invalid difference of infinities. -/
def Num.add (down : Bool) (x y : Num) : Option Num :=
  match x, y with
  | .fin a, .fin b => some (.fin (a.add down b))
  | .inf a, .inf b => if a = b then some (.inf a) else none
  | .inf a, _ => some (.inf a)
  | _, .inf b => some (.inf b)
  | _, _ => none

/-- A product of values; none is the invalid product of zero and infinity. -/
def Num.mul (x y : Num) : Option Num :=
  match x, y with
  | .fin a, .fin b => some (.fin (a.mul b))
  | .inf a, .inf b => some (.inf (a ^^ b))
  | .inf a, .fin b => if b.zero then none else some (.inf (a ^^ b.neg))
  | .fin a, .inf b => if a.zero then none else some (.inf (a.neg ^^ b))
  | _, _ => none

/-- The value with its sign inverted. -/
def Num.negate (x : Num) : Num :=
  match x with
  | .nan s p q => .nan (!s) p q
  | .inf s => .inf (!s)
  | .fin m => .fin { m with neg := !m.neg }

/-- A value delivered in a format under a context; none is invalid. -/
def Fmt.deliver (f : Fmt) (c : FpCtx) (x : Option Num) : Nat × Flags :=
  match x with
  | none => f.invalid
  | some (.inf neg) => (f.signed neg f.infCode, 0)
  | some (.fin m) => f.round c.mode c.ftz false m
  | some (.nan _ _ _) => (f.nanCode, 0)

/-- Rounding is toward minus infinity, which gives an exact zero sum of unlike terms a minus sign. -/
def FpCtx.down (c : FpCtx) : Bool := c.mode = .rd

/-- `a + b` (R225). -/
def Fmt.add (f : Fmt) (c : FpCtx) (a b : Nat) : Nat × Flags :=
  let a := f.flush c.daz a
  let b := f.flush c.daz b
  withNans f [(f, a), (f, b)] (f.deliver c ((f.decode a).add c.down (f.decode b)))

/-- `a - b` (R225). -/
def Fmt.sub (f : Fmt) (c : FpCtx) (a b : Nat) : Nat × Flags :=
  let a := f.flush c.daz a
  let b := f.flush c.daz b
  withNans f [(f, a), (f, b)] (f.deliver c ((f.decode a).add c.down (f.decode b).negate))

/-- `a * b` (R225). -/
def Fmt.mul (f : Fmt) (c : FpCtx) (a b : Nat) : Nat × Flags :=
  let a := f.flush c.daz a
  let b := f.flush c.daz b
  withNans f [(f, a), (f, b)] (f.deliver c ((f.decode a).mul (f.decode b)))

/-- A rounded value taken on as an operand of the next rounding, which flushes no input of its own (R144). -/
def thenAdd (f : Fmt) (c : FpCtx) (x y : Nat × Flags) : Nat × Flags :=
  let r := withNans f [(f, x.1), (f, y.1)] (f.deliver c ((f.decode x.1).add c.down (f.decode y.1)))
  (r.1, x.2 ||| y.2 ||| r.2)

/-- `a * b + c`, fused or unfused (R144, R225). -/
def Fmt.fma (f : Fmt) (c : FpCtx) (a b d : Nat) : Nat × Flags :=
  let a := f.flush c.daz a
  let b := f.flush c.daz b
  let d := f.flush c.daz d
  withNans f [(f, a), (f, b), (f, d)] (
    match (f.decode a).mul (f.decode b) with
    | none => f.invalid
    | some p =>
      if c.unfused then thenAdd f c (f.deliver c (some p)) (d, 0)
      else f.deliver c (p.add c.down (f.decode d)))

/-- An exact sum of several values, without an intermediate rounding. A zero sum has one sign only when every term is a zero of
that sign (R225). -/
def sumExact (down : Bool) (xs : List (Option Num)) : Option Num :=
  match xs with
  | [] => some (.fin ⟨down, 0, 0, false⟩)
  | x :: r => r.foldl (fun acc y => match acc, y with
      | some a, some b => a.add down b
      | _, _ => none) x

/-- `v.fdot2` (R225): elements of `f`, an FP32 addend and an FP32 result. Of several NaN sources the first of a.0, a.1, b.0, b.1 and c counts
(DESIGN CHOICE, log entry 101). -/
def Fmt.dot2 (f : Fmt) (c : FpCtx) (a b d : Nat) : Nat × Flags :=
  let x (v i : Nat) : Nat := f.flush c.daz (bitsAt v (16 * i) 16)
  let d := fp32.flush c.daz d
  let prod (i : Nat) : Option Num := (f.decode (x a i)).mul (f.decode (x b i))
  withNans fp32 [(f, x a 0), (f, x a 1), (f, x b 0), (f, x b 1), (fp32, d)] (
    if c.unfused then
      thenAdd fp32 c (thenAdd fp32 c (fp32.deliver c (prod 0)) (fp32.deliver c (prod 1))) (d, 0)
    else
      -- the sign of an exact zero looks at all the terms at once
      let terms := [prod 0, prod 1, some (fp32.decode d)]
      let signOf (t : Option Num) : Option Bool := match t with
        | some (.fin m) => if m.zero then some m.neg else none
        | _ => none
      match sumExact c.down terms with
      | some (.fin m) =>
        let negZero := if terms.all fun t => signOf t = some true then true
          else if terms.all fun t => signOf t = some false then false else c.down
        fp32.deliver c (some (.fin (if m.zero then { m with neg := negZero } else m)))
      | r => fp32.deliver c r)

/-! ## Comparison (R226, R146) -/

/-- `a < b` for values without NaN; zeros are equal. -/
def Num.lt (x y : Num) : Bool :=
  match x, y with
  | .fin a, .fin b => let e := min a.e b.e; decide (a.scaled e < b.scaled e)
  | .inf a, .inf b => a && !b
  | .inf a, _ => a
  | _, .inf b => !b
  | _, _ => false

/-- `v.fmin` or `v.fmax` of one element (R146, R225). -/
def Fmt.minmax (f : Fmt) (c : FpCtx) (max : Bool) (a b : Nat) : Nat × Flags :=
  let a := f.flush c.daz a
  let b := f.flush c.daz b
  let nv := flagIf (f.isSig a || f.isSig b) flagNV
  if f.isNan a && f.isNan b then withNans f [(f, a), (f, b)] (0, 0)
  else if f.isNan a then (b, nv)
  else if f.isNan b then (a, nv)
  else
    let neg (x : Nat) : Bool := bitsAt x (f.width - 1) 1 = 1
    let aLess := (f.decode a).lt (f.decode b) || (!(f.decode b).lt (f.decode a) && neg a && !neg b)
    (if aLess ^^ max then a else b, nv)

/-- A condition of `v.fcmp` on one element (R226). -/
def Fmt.compare (f : Fmt) (c : FpCtx) (cc : Nat) (a b : Nat) : Bool × Flags :=
  let a := f.flush c.daz a
  let b := f.flush c.daz b
  let nan := f.isNan a || f.isNan b
  let sig := f.isSig a || f.isSig b
  let lt := (f.decode a).lt (f.decode b)
  let gt := (f.decode b).lt (f.decode a)
  let eq := !lt && !gt
  let r := match cc with
    | 0 => !nan && eq
    | 1 => nan || !eq
    | 2 => !nan && lt
    | 3 => !nan && (lt || eq)
    | 4 => !nan && gt
    | 5 => !nan && (gt || eq)
    | 6 => nan
    | _ => !nan
  (r, flagIf (sig || (nan && 2 ≤ cc && cc ≤ 5)) flagNV)

/-- The class mask of one element (R227). -/
def Fmt.classify (f : Fmt) (a : Nat) : Nat :=
  2 ^ (match f.decode a with
    | .nan _ _ q => if q then 9 else 8
    | .inf neg => if neg then 0 else 7
    | .fin m =>
      if m.m = 0 then (if m.neg then 3 else 4)
      else if f.isSub a then (if m.neg then 2 else 5)
      else if m.neg then 1 else 6)

/-! ## Rounding to integral values (R229) -/

/-- A value rounded to an integer in a mode: sign, magnitude and whether it changed. -/
def Mag.integral (x : Mag) (mode : Rounding) : Nat × Bool := quanta mode x 0

/-- `v.ffloor`, `v.fceil`, `v.ftrunc` and `v.frnd` of one element. -/
def Fmt.toIntegral (f : Fmt) (c : FpCtx) (mode : Rounding) (a : Nat) : Nat × Flags :=
  let a := f.flush c.daz a
  withNans f [(f, a)] (match f.decode a with
    | .fin m => ((f.round .ne false false ⟨m.neg, (m.integral mode).1, 0, false⟩).1, 0)
    | _ => (a, 0))

/-- `v.ffract` of one element. -/
def Fmt.fract (f : Fmt) (c : FpCtx) (a : Nat) : Nat × Flags :=
  let a := f.flush c.daz a
  withNans f [(f, a)] (match f.decode a with
    | .fin m =>
      let floor : Mag := ⟨m.neg, (m.integral .rd).1, 0, false⟩
      let d := m.add false { floor with neg := !floor.neg }
      let r := f.round c.mode c.ftz false { d with neg := false }
      let one := f.bias * 2 ^ f.mbits
      (if r.1 = one then one - 1 else r.1, r.2)
    | _ => f.invalid)

/-! ## Conversions (R147, R148) -/

/-- A conversion between floating-point formats. Flush on results applies where the conversion narrows. -/
def convert (src dst : Fmt) (mode : Rounding) (daz ftz sat : Bool) (a : Nat) : Nat × Flags :=
  let a := src.flush daz a
  let sat := sat || dst.specials = .none
  match src.decode a with
  | .nan neg pay q =>
    (nanTo src dst neg pay, flagIf (!q || dst.specials = .none) flagNV)
  | .inf neg =>
    if dst.specials = .infAndNan && !sat then (dst.signed neg dst.infCode, 0)
    else if dst.specials = .oneNan && !sat then (dst.signed neg dst.nanCode, flagOF ||| flagNX)
    else (dst.signed neg dst.maxCode, flagOF ||| flagNX)
  | .fin m => dst.round mode (ftz && dst.width ≤ src.width) sat m

/-- Limits of an integer type. -/
def IntTy.lo (t : IntTy) : Int := if t.signed then -(2 ^ (t.w - 1) : Nat) else 0
/-- Limits of an integer type. -/
def IntTy.hi (t : IntTy) : Int := if t.signed then (2 ^ (t.w - 1) : Nat) - 1 else (2 ^ t.w : Nat) - 1

/-- A float-to-integer conversion (R148): the value in the target's range, and flags. -/
def floatToInt (src : Fmt) (t : IntTy) (mode : Rounding) (daz : Bool) (a : Nat) : Int × Flags :=
  match src.decode (src.flush daz a) with
  | .nan _ _ _ => (0, flagNV)
  | .inf neg => (if neg then t.lo else t.hi, flagNV)
  | .fin m =>
    let (n, inexact) := m.integral mode
    let v : Int := if m.neg then -(n : Int) else n
    if v < t.lo then (t.lo, flagNV) else if t.hi < v then (t.hi, flagNV) else (v, flagIf inexact flagNX)

/-- An integer-to-float conversion (R148). -/
def intToFloat (dst : Fmt) (mode : Rounding) (ftz sat : Bool) (v : Int) : Nat × Flags :=
  dst.round mode ftz sat (Mag.ofInt v 0 false)

/-! ## Error feedback (R149) -/

/-- RoundNE of a sum or difference in FP32, without flushes. -/
def plainAdd (a b : Nat) : Nat := (fp32.add FpCtx.plain a b).1

/-- The residue of a value delivered as `y` of a format, for a finite `t`. -/
def residue (t : Mag) (y : Mag) : Nat := (fp32.round .ne false false (t.add false { y with neg := !y.neg })).1

/-- ConvertEF of one element: the code, the new residue and the flags, which are those of the delivered value alone: a signalling NaN
in the sum raises nothing (DESIGN CHOICE, log entry 102). -/
def convertEf (dst : Fmt) (x r : Nat) : Nat × Nat × Flags :=
  let t := plainAdd x r
  let (y, fl) := convert fp32 dst .ne false false true t
  match fp32.decode t, dst.decode y with
  | .fin mt, .fin my => (y, residue mt my, fl)
  | _, _ => (y, 0, fl)

/-! ## Block floating point (R135 to R137) -/

/-- The shared exponent of a block of finite magnitudes. -/
def bfpExponent (xs : List Mag) : Nat :=
  -- floor(log2 |t|) is monotone in |t|, so the largest magnitude has the largest
  match (xs.filter fun x => x.m ≠ 0).map fun x => (x.m.log2 : Int) + x.e with
  | [] => 0
  | l :: ls => (min (max (ls.foldl max l + 128) 0) 255).toNat

/-- One mantissa of a block under a shared exponent: its value, and flags. NaN and infinity give not-a-value. -/
def bfpMantissa (b : Nat) (mode : Rounding) (ex : Nat) (t : Num) : Int × Flags :=
  let lim : Int := 2 ^ (b - 1) - 1
  match t with
  | .fin m =>
    let (n, inexact) := quanta mode m ((ex : Int) - 127 - (b - 1))
    let y : Int := if m.neg then -(n : Int) else n
    let s := if y < -lim then -lim else if lim < y then lim else y
    (s, flagIf (inexact || s ≠ y) flagNX ||| flagIf (m.m ≠ 0 && s = 0) flagUF)
  | _ => (-(2 ^ (b - 1)), flagNV)

/-- The value of a mantissa under a shared exponent. -/
def bfpValue (b : Nat) (ex : Nat) (m : Int) : Mag := Mag.ofInt m ((ex : Int) - 127 - ((b : Int) - 1)) false

/-- BfpPack of a block of FP32 values (R137): exponent, mantissas and flags. -/
def bfpPack (b : Nat) (mode : Rounding) (ts : List Nat) : Nat × List Int × Flags :=
  let vs := ts.map fp32.decode
  let ex := bfpExponent (vs.filterMap fun v => match v with
    | .fin m => some m
    | _ => none)
  let ms := vs.map (bfpMantissa b mode ex)
  (ex, ms.map (·.1), (ms.map (·.2)).foldl (· ||| ·) 0)

/-- An element unpacked to FP32 (R136). -/
def bfpUnpack (b : Nat) (ex : Nat) (m : Int) : Nat :=
  if m = -(2 ^ (b - 1)) then fp32.nanCode else (fp32.round .ne false false (bfpValue b ex m)).1

end Sys2Proof.Machine
end

