-- ==== Sys2Proof/Machine/Elementary.lean ====
section
/-!
DEFINITION. The function forms of R228: reciprocal, square roots, 2^x, log2, sine and cosine. Reciprocals and roots are
computed exactly, with what lies below the last bit kept as one mark. The four transcendental functions are computed in
fixed point to 280 fraction bits (log entry 12).
-/
namespace Sys2Proof.Machine

/-! ## Reciprocals and roots -/

/-- The integer square root, one bit at a time from bit `k - 1`: the largest `r` at or above the one given whose square is at
most `n`. -/
def sqrtBits (n : Nat) : Nat → Nat → Nat
  | 0, r => r
  | k + 1, r => let t := r + 2 ^ k; sqrtBits n k (if t * t ≤ n then t else r)

/-- The integer square root. -/
def isqrt (n : Nat) : Nat := sqrtBits n (n.log2 / 2 + 1) 0

/-- `1 / x` for a positive or negative `x`, to at least 64 bits. -/
def Mag.recip (x : Mag) : Mag :=
  let k := x.m.log2 + 64
  ⟨x.neg, 2 ^ k / x.m, -x.e - k, 2 ^ k % x.m ≠ 0⟩

/-- The square root of a positive `x`, to at least 64 bits. -/
def Mag.root (x : Mag) : Mag :=
  let odd := x.e % 2 = 1
  let m := (if odd then 2 * x.m else x.m) * 2 ^ 128
  let e := (if odd then x.e - 1 else x.e) - 128
  let r := isqrt m
  ⟨false, r, e / 2, r * r ≠ m⟩

/-- `1 / √x` for a positive `x`, to at least 64 bits. -/
def Mag.recipRoot (x : Mag) : Mag :=
  let k := x.m.log2 + 128
  let k := if (x.e + k) % 2 = 0 then k else k + 1
  let r := isqrt (2 ^ k / x.m)
  ⟨false, r, -(x.e + k) / 2, r * r * x.m ≠ 2 ^ k⟩

/-! ## Fixed point (log entry 12) -/

/-- Fraction bits carried. -/
def fixBits : Nat := 320

/-- Fraction bits of π. -/
def piBits : Nat := 720

/-- Low bits of a fixed-point result that its error may reach, and that are dropped. -/
def guardBits : Nat := 40

/-- A fixed-point value as a magnitude that lies between two steps of the bits kept. -/
def fixedMag (neg : Bool) (v : Nat) : Mag := ⟨neg, v / 2 ^ guardBits, (guardBits : Int) - fixBits, true⟩

/-- The sum of `z^(2k+1) / (2k+1)`, the inverse hyperbolic tangent, of a fixed-point `z` of at most 1/3; `p` is the power of
`z` due and `z2` its square. -/
def atanhSum (z2 : Nat) : Nat → Nat → Nat → Nat
  | 0, _, _ => 0
  | n + 1, k, p => p / (2 * k + 1) + atanhSum z2 n (k + 1) (p * z2 / 2 ^ fixBits)

/-- The natural logarithm of `num / den`, for a ratio from 1 to 2. -/
def lnRatio (num den : Nat) : Nat :=
  let z := (num - den) * 2 ^ fixBits / (num + den)
  2 * atanhSum (z * z / 2 ^ fixBits) 110 0 z

/-- ln 2. -/
def ln2 : Nat := lnRatio 2 1

/-- The terms of the exponential series of a fixed-point `x` from term `k` on, `t` being that term. -/
def expSum (x : Nat) : Nat → Nat → Nat → Nat
  | 0, _, _ => 0
  | n + 1, k, t => t + expSum x n (k + 1) (t * x / 2 ^ fixBits / (k + 1))

/-- The alternating series of sine (`k` odd) and cosine (`k` even) of a fixed-point `x`, `t` being term `k`: the positive and
the negative terms summed apart. -/
def trigSum (x2 : Nat) : Nat → Nat → Nat → Nat × Nat
  | 0, _, _ => (0, 0)
  | n + 1, k, t =>
    let (p, q) := trigSum x2 n (k + 2) (t * x2 / 2 ^ fixBits / ((k + 1) * (k + 2)))
    (t + q, p)

/-- The arc tangent of `1 / n` to the bits of π, `p` being the power due and `k` the term. -/
def atanInv (n2 : Nat) : Nat → Nat → Nat → Nat × Nat
  | 0, _, _ => (0, 0)
  | i + 1, k, p =>
    let (a, b) := atanInv n2 i (k + 1) (p / n2)
    (p / (2 * k + 1) + b, a)

/-- π, by Machin's formula. -/
def piFixed : Nat :=
  let at_ (n : Nat) : Nat := let (a, b) := atanInv (n * n) 160 0 (2 ^ piBits / n); a - b
  16 * at_ 5 - 4 * at_ 239

/-- A magnitude in fixed point with `b` fraction bits, cut. -/
def Mag.fixed (x : Mag) (b : Nat) : Nat :=
  if -(b : Int) ≤ x.e then x.m * 2 ^ (x.e + b).toNat else x.m / 2 ^ (-(b : Int) - x.e).toNat

/-! ## The functions of a finite, non-zero magnitude -/

/-- `2^x`: exact for an integral `x`. -/
def Mag.exp2 (x : Mag) : Mag :=
  let i := (quanta .rd x 0).1
  let n : Int := if x.neg then -(i : Int) else i
  let frac := x.scaled (-fixBits) - n * (2 ^ fixBits : Nat)
  if !(quanta .rd x 0).2 then ⟨false, 1, n, false⟩
  else
    let y := fixedMag false (expSum (frac.toNat * ln2 / 2 ^ fixBits) 90 0 (2 ^ fixBits))
    { y with e := y.e + n }

/-- `log2 x` of a positive `x`: exact for a power of two. -/
def Mag.log2of (x : Mag) : Mag :=
  let k := x.m.log2
  let n : Int := k + x.e
  if x.m = 2 ^ k then Mag.ofInt n 0 false
  else
    let v : Int := (lnRatio x.m (2 ^ k) * 2 ^ fixBits / ln2 : Nat) + n * (2 ^ fixBits : Nat)
    fixedMag (v < 0) v.natAbs

/-- The multiple of π/2 below `|x|`, and what remains in fixed point. -/
def Mag.quadrant (x : Mag) : Nat × Nat :=
  let v := x.fixed piBits
  (v / (piFixed / 2), v % (piFixed / 2) / 2 ^ (piBits - fixBits))

/-- Sine of a fixed-point angle in the first quadrant. -/
def sinFixed (r : Nat) : Nat := let (p, q) := trigSum (r * r / 2 ^ fixBits) 50 1 r; p - q

/-- Cosine of a fixed-point angle in the first quadrant. -/
def cosFixed (r : Nat) : Nat := let (p, q) := trigSum (r * r / 2 ^ fixBits) 50 0 (2 ^ fixBits); p - q

/-- `sin x`. Below `2^-60` it lies just under `x`. -/
def Mag.sin (x : Mag) : Mag :=
  if (x.m.log2 : Int) + x.e < -60 then ⟨x.neg, x.m * 2 ^ 100 - 1, x.e - 100, true⟩
  else
    let (q, r) := x.quadrant
    fixedMag (x.neg ^^ decide (q % 4 = 2) ^^ decide (q % 4 = 3)) (if q % 2 = 0 then sinFixed r else cosFixed r)

/-- `cos x`. -/
def Mag.cos (x : Mag) : Mag :=
  let (q, r) := x.quadrant
  if (x.m.log2 : Int) + x.e < -100 then ⟨false, 2 ^ 100 - 1, -100, true⟩
  else fixedMag (decide (q % 4 = 1) ^^ decide (q % 4 = 2)) (if q % 2 = 0 then cosFixed r else sinFixed r)

/-! ## The forms of R228 -/

/-- The value 1. -/
def Fmt.one (f : Fmt) : Nat := f.bias * 2 ^ f.mbits

/-- A function form: its result on zero of a sign, on infinity of a sign and on a finite non-zero magnitude, after the flush
on inputs and the rule of NaNs. -/
def Fmt.function (f : Fmt) (c : FpCtx) (zero inf : Bool → Nat × Flags) (fin : Mag → Nat × Flags) (a : Nat) : Nat × Flags :=
  let a := f.flush c.daz a
  withNans f [(f, a)] (match f.decode a with
    | .inf neg => inf neg
    | .fin m => if m.zero then zero m.neg else fin m
    | .nan _ _ _ => f.invalid)

/-- `v.frcp` of one element. -/
def Fmt.frcp (f : Fmt) (c : FpCtx) (a : Nat) : Nat × Flags :=
  f.function c (fun neg => (f.signed neg f.infCode, flagDZ)) (fun neg => (f.signed neg 0, 0))
    (fun m => f.round c.mode c.ftz false m.recip) a

/-- `v.frsq` of one element. -/
def Fmt.frsq (f : Fmt) (c : FpCtx) (a : Nat) : Nat × Flags :=
  f.function c (fun neg => (f.signed neg f.infCode, flagDZ)) (fun neg => if neg then f.invalid else (0, 0))
    (fun m => if m.neg then f.invalid else f.round c.mode c.ftz false m.recipRoot) a

/-- `v.fsqrt` of one element. -/
def Fmt.fsqrt (f : Fmt) (c : FpCtx) (a : Nat) : Nat × Flags :=
  f.function c (fun neg => (f.signed neg 0, 0)) (fun neg => if neg then f.invalid else (f.infCode, 0))
    (fun m => if m.neg then f.invalid else f.round c.mode c.ftz false m.root) a

/-- `v.fexp2` of one element. -/
def Fmt.fexp2 (f : Fmt) (c : FpCtx) (a : Nat) : Nat × Flags :=
  f.function c (fun _ => (f.one, 0)) (fun neg => (if neg then 0 else f.infCode, 0)) (fun m => f.round .ne c.ftz false m.exp2) a

/-- `v.flog2` of one element. -/
def Fmt.flog2 (f : Fmt) (c : FpCtx) (a : Nat) : Nat × Flags :=
  f.function c (fun _ => (f.signed true f.infCode, flagDZ)) (fun neg => if neg then f.invalid else (f.infCode, 0))
    (fun m => if m.neg then f.invalid else f.round .ne c.ftz false m.log2of) a

/-- `v.fsin` of one element. -/
def Fmt.fsin (f : Fmt) (c : FpCtx) (a : Nat) : Nat × Flags :=
  f.function c (fun neg => (f.signed neg 0, 0)) (fun _ => f.invalid) (fun m => f.round .ne c.ftz false m.sin) a

/-- `v.fcos` of one element. -/
def Fmt.fcos (f : Fmt) (c : FpCtx) (a : Nat) : Nat × Flags :=
  f.function c (fun _ => (f.one, 0)) (fun _ => f.invalid) (fun m => f.round .ne c.ftz false m.cos) a

end Sys2Proof.Machine
end

