-- ==== Sys2Proof/Machine/LaneFloat.lean ====
section
/-!
DEFINITION. Floating-point instructions of the lane stream (R224 to R229).
-/
namespace Sys2Proof.Machine

/-- The element format of a SUB field (R169). -/
def floatTy (sub : BitVec 4) : Fmt := if sub = 0 then fp32 else if sub = 1 then fp16 else bf16

/-- A sign modifier on one element (R171). -/
def signModifier (w : Nat) (m : BitVec 3) (e : Nat) : Nat :=
  match m.toNat with
  | 1 => Nat.xor e (2 ^ (w - 1))
  | 2 => e % 2 ^ (w - 1)
  | 3 => e % 2 ^ (w - 1) + 2 ^ (w - 1)
  | _ => e

/-- The elements of a floating-point source in a lane, modified. -/
def Flock.floatSource (f : Flock) (w : LaneWord) (t : Fmt) (x : Src) (l : Nat) : List Nat :=
  let v := (f.read32 w x l).toNat
  (List.range (32 / t.width)).map fun i => signModifier t.width x.mod (bitsAt v (t.width * i) t.width)

/-- The first `k` sources of a word. -/
def floatSources (w : LaneWord) (k : Nat) : List Src := [srcA w, srcB w, srcC w].take k

/-- Element codes packed into a register (R134). -/
def packElements (w : Nat) (es : List Nat) : Word32 := BitVec.ofNat 32 (es.zipIdx.map fun (e, i) => e % 2 ^ w * 2 ^ (w * i)).sum

/-- The union of flags (R150). -/
def unionFlags (fs : List Flags) : Flags := fs.foldl (· ||| ·) 0

/-- A floating-point instruction that writes one register from `k` sources, given its result in a lane with flags. -/
def laneFloatWhole (w : LaneWord) (k : Nat) (g : Flock → FpCtx → Nat → Word32 × Flags) (s : State) :
    Host.Outcome State Fault Refusal :=
  laneCompute w (floatSources w k) [dst w] (fun s f lanes =>
    let c := s.fpCtx f w.rnd
    let rs := lanes.map fun l => (l, g f c l)
    (f.writeLanes w.dest.toNat (rs.map fun (l, r) => (l, r.1))).raise (unionFlags (rs.map fun (_, r) => r.2))) s

/-- A floating-point instruction that works on each element apart. -/
def laneFloat (w : LaneWord) (k : Nat) (g : Fmt → FpCtx → List Nat → Nat × Flags) (s : State) : Host.Outcome State Fault Refusal :=
  let t := floatTy w.sub
  laneFloatWhole w k (fun f c l =>
    let srcs := (floatSources w k).map fun x => f.floatSource w t x l
    let rs := (List.range (32 / t.width)).map fun i => g t c (srcs.map fun es => es.getD i 0)
    (packElements t.width (rs.map (·.1)), unionFlags (rs.map (·.2)))) s

/-! ## Arithmetic (R225) -/

/-- `v.fadd`. -/
def execVFadd (w : LaneWord) (s : State) : Host.Outcome State Fault Refusal :=
  laneFloat w 2 (fun t c es => t.add c (el es 0) (el es 1)) s

/-- `v.fsub`. -/
def execVFsub (w : LaneWord) (s : State) : Host.Outcome State Fault Refusal :=
  laneFloat w 2 (fun t c es => t.sub c (el es 0) (el es 1)) s

/-- `v.fmul`. -/
def execVFmul (w : LaneWord) (s : State) : Host.Outcome State Fault Refusal :=
  laneFloat w 2 (fun t c es => t.mul c (el es 0) (el es 1)) s

/-- `v.ffma`. -/
def execVFfma (w : LaneWord) (s : State) : Host.Outcome State Fault Refusal :=
  laneFloat w 3 (fun t c es => t.fma c (el es 0) (el es 1) (el es 2)) s

/-- `v.fmin`. -/
def execVFmin (w : LaneWord) (s : State) : Host.Outcome State Fault Refusal :=
  laneFloat w 2 (fun t c es => t.minmax c false (el es 0) (el es 1)) s

/-- `v.fmax`. -/
def execVFmax (w : LaneWord) (s : State) : Host.Outcome State Fault Refusal :=
  laneFloat w 2 (fun t c es => t.minmax c true (el es 0) (el es 1)) s

/-- `v.fdot2`: a and b are packed, c and the result FP32. -/
def execVFdot2 (w : LaneWord) (s : State) : Host.Outcome State Fault Refusal :=
  let t := floatTy w.sub
  let pair (f : Flock) (x : Src) (l : Nat) : Nat := (packElements t.width (f.floatSource w t x l)).toNat
  laneFloatWhole w 3 (fun f c l =>
    let r := t.dot2 c (pair f (srcA w) l) (pair f (srcB w) l) (el (f.floatSource w fp32 (srcC w) l) 0)
    (BitVec.ofNat 32 r.1, r.2)) s

/-! ## Comparison and classes (R226, R227) -/

/-- `v.fcmp` (R226): in the packed types the condition holds for both elements. -/
def execVFcmp (w : LaneWord) (s : State) : Host.Outcome State Fault Refusal :=
  let t := floatTy w.sub
  laneCompute w (floatSources w 2) [] (fun s f lanes =>
    let c := s.fpCtx f w.rnd
    let at_ (l : Nat) : List (Bool × Flags) := (List.zip (f.floatSource w t (srcA w) l) (f.floatSource w t (srcB w) l)).map fun (a, b) =>
      t.compare c (cond w) a b
    let rs := lanes.map fun l => (l, at_ l)
    (f.setQ (qDest w) (LaneMask.ofList lanes) (LaneMask.ofList ((rs.filter fun (_, r) => r.all (·.1)).map (·.1)))).raise
      (unionFlags (rs.map fun (_, r) => unionFlags (r.map (·.2))))) s

/-- `v.fclass` (R227). -/
def execVFclass (w : LaneWord) (s : State) : Host.Outcome State Fault Refusal :=
  laneFloat w 1 (fun t _ es => (t.classify (el es 0), 0)) s

/-! ## Function forms (R228) -/

/-- `v.frcp`. -/
def execVFrcp (w : LaneWord) (s : State) : Host.Outcome State Fault Refusal := laneFloat w 1 (fun t c es => t.frcp c (el es 0)) s

/-- `v.frsq`. -/
def execVFrsq (w : LaneWord) (s : State) : Host.Outcome State Fault Refusal := laneFloat w 1 (fun t c es => t.frsq c (el es 0)) s

/-- `v.fsqrt`. -/
def execVFsqrt (w : LaneWord) (s : State) : Host.Outcome State Fault Refusal := laneFloat w 1 (fun t c es => t.fsqrt c (el es 0)) s

/-- `v.fexp2`. -/
def execVFexp2 (w : LaneWord) (s : State) : Host.Outcome State Fault Refusal := laneFloat w 1 (fun t c es => t.fexp2 c (el es 0)) s

/-- `v.flog2`. -/
def execVFlog2 (w : LaneWord) (s : State) : Host.Outcome State Fault Refusal := laneFloat w 1 (fun t c es => t.flog2 c (el es 0)) s

/-- `v.fsin`. -/
def execVFsin (w : LaneWord) (s : State) : Host.Outcome State Fault Refusal := laneFloat w 1 (fun t c es => t.fsin c (el es 0)) s

/-- `v.fcos`. -/
def execVFcos (w : LaneWord) (s : State) : Host.Outcome State Fault Refusal := laneFloat w 1 (fun t c es => t.fcos c (el es 0)) s

/-! ## Rounding to integral (R229) -/

/-- `v.ffloor`. -/
def execVFfloor (w : LaneWord) (s : State) : Host.Outcome State Fault Refusal :=
  laneFloat w 1 (fun t c es => t.toIntegral c .rd (el es 0)) s

/-- `v.fceil`. -/
def execVFceil (w : LaneWord) (s : State) : Host.Outcome State Fault Refusal :=
  laneFloat w 1 (fun t c es => t.toIntegral c .ru (el es 0)) s

/-- `v.ftrunc`. -/
def execVFtrunc (w : LaneWord) (s : State) : Host.Outcome State Fault Refusal :=
  laneFloat w 1 (fun t c es => t.toIntegral c .rz (el es 0)) s

/-- `v.frnd`. -/
def execVFrnd (w : LaneWord) (s : State) : Host.Outcome State Fault Refusal :=
  laneFloat w 1 (fun t c es => t.toIntegral c c.mode (el es 0)) s

/-- `v.ffract`. -/
def execVFfract (w : LaneWord) (s : State) : Host.Outcome State Fault Refusal :=
  laneFloat w 1 (fun t c es => t.fract c (el es 0)) s

end Sys2Proof.Machine
end

