-- ==== Sys2Proof/Machine/LaneConv.lean ====
section
/-!
DEFINITION. Conversions of the lane stream (R230 to R236).
-/
namespace Sys2Proof.Machine

/-- The format code is floating point. -/
def isFloatFmt (c : Nat) : Bool := c ≤ 6

/-- The saturate bit. -/
def satBit (w : LaneWord) : Bool := w.imm.getLsbD 23

/-- Registers of a value of a format of `v.cvt` (R231). -/
def cvtRegs (c : Nat) : Nat := if c = 14 then 2 else 1

/-- The value that `v.cvt` converts, from the low bits of its source, modified (R230, R231). -/
def Flock.cvtSource (f : Flock) (w : LaneWord) (c : Nat) (x : Src) (l : Nat) : Nat :=
  if isFloatFmt c then signModifier (fmtOf c).width x.mod (bitsAt (f.read32 w x l).toNat 0 (fmtOf c).width)
  else
    let t := intFmtOf c
    let v := if t.w = 64 then (f.read64 w x l).toNat else (f.read32 w x l).toNat
    intModifier t x.mod (bitsAt v 0 t.w)

/-- An integer result as a register image: a narrow signed one is sign-extended to 32 bits (R231). -/
def intImage (t : IntTy) (v : Int) : Nat := patternOf (if t.w = 64 then 64 else 32) v

/-- An integer cut to a type, or saturated (R130). -/
def IntTy.convert (t : IntTy) (sat : Bool) (v : Int) : Int := t.value (narrow t sat v)

/-- One value converted between two formats (R147, R148, R231): the register image of the result. -/
def cvtValue (c : FpCtx) (src dst : Nat) (sat : Bool) (x : Nat) : Nat × Flags :=
  if isFloatFmt src then
    if isFloatFmt dst then convert (fmtOf src) (fmtOf dst) c.cvt c.daz c.ftz sat x
    else
      let (v, fl) := floatToInt (fmtOf src) (intFmtOf dst) c.cvt c.daz x
      (intImage (intFmtOf dst) v, fl)
  else
    let v := (intFmtOf src).value x
    if isFloatFmt dst then intToFloat (fmtOf dst) c.cvt c.ftz sat v
    else (intImage (intFmtOf dst) ((intFmtOf dst).convert sat v), 0)

/-- Values and flags of the lanes written to a register or pair. -/
def Flock.writeFlagged (f : Flock) (wide : Bool) (r : Nat) (vals : List (Nat × Nat × Flags)) : Flock :=
  let f := if wide then f.writePairs r (vals.map fun (l, v, _) => (l, BitVec.ofNat 64 v))
    else f.writeLanes r (vals.map fun (l, v, _) => (l, BitVec.ofNat 32 v))
  f.raise (unionFlags (vals.map fun (_, _, fl) => fl))

/-- `v.cvt` (R231). -/
def execVCvt (w : LaneWord) (s : State) : Host.Outcome State Fault Refusal :=
  let x := srcA w (cvtRegs (sfmt w)) (cvtRegs (sfmt w))
  laneCompute w [x] [dst w (cvtRegs (dfmt w)) (cvtRegs (dfmt w))] (fun s f lanes =>
    let c := s.fpCtx f w.rnd
    f.writeFlagged (dfmt w = 14) w.dest.toNat (lanes.map fun l =>
      (l, cvtValue c (sfmt w) (dfmt w) (satBit w) (f.cvtSource w (sfmt w) x l)))) s

/-- `v.cvt.w` (R232). -/
def execVCvtW (w : LaneWord) (s : State) : Host.Outcome State Fault Refusal :=
  let t := fmtOf (sfmt w)
  laneCompute w [srcA w] [dst w] (fun s f lanes =>
    let c := s.fpCtx f w.rnd
    f.writeFlagged false w.dest.toNat (lanes.map fun l =>
      (l, convert t fp32 c.cvt c.daz false false (bitsAt (f.read32 w (srcA w) l).toNat (t.width * w.sub.toNat) t.width)))) s

/-- The FP32 value of a source in a lane, modified. -/
def Flock.fp32Source (f : Flock) (w : LaneWord) (x : Src) (l : Nat) : Nat := signModifier 32 x.mod (f.read32 w x l).toNat

/-- A register image with element `k` of width `n` replaced (R233). -/
def setElement (v n k e : Nat) : Nat := withBits v (n * k) n e

/-- `v.cvt.n` (R233). -/
def execVCvtN (w : LaneWord) (s : State) : Host.Outcome State Fault Refusal :=
  let t := fmtOf (dfmt w)
  let keep := decide (2 < dfmt w)
  laneCompute w ([srcA w, srcB w] ++ if keep then [srcC w] else []) [dst w] (fun s f lanes =>
    let c := s.fpCtx f w.rnd
    f.writeFlagged false w.dest.toNat (lanes.map fun l =>
      let one (x : Src) : Nat × Flags := convert fp32 t c.cvt c.daz c.ftz (satBit w) (f.fp32Source w x l)
      let base := if keep then (f.read32 w (srcC w) l).toNat else 0
      let k := 2 * w.sub.toNat
      (l, setElement (setElement base t.width k (one (srcA w)).1) t.width (k + 1) (one (srcB w)).1,
        (one (srcA w)).2 ||| (one (srcB w)).2))) s

/-- `v.cvt.ef` (R149, R234): the residue register is a source and a destination. Where d and b are one register, the residue remains: R234 does
not say which of the two values does (DESIGN CHOICE, log entry 110). -/
def execVCvtEf (w : LaneWord) (s : State) : Host.Outcome State Fault Refusal :=
  let t := fmtOf (dfmt w)
  laneCompute w [srcA w, srcB w, srcC w] [dst w, ⟨w.sb, 1, 1⟩] (fun _ f lanes =>
    let rs := lanes.map fun l => (l, convertEf t (f.fp32Source w (srcA w) l) (f.read32 w (srcB w) l).toNat)
    let f' := f.writeFlagged false w.dest.toNat (rs.map fun (l, y, _, fl) =>
      (l, setElement (f.read32 w (srcC w) l).toNat t.width w.sub.toNat y, fl))
    f'.writeLanes w.sb.toNat (rs.map fun (l, _, r, _) => (l, BitVec.ofNat 32 r))) s

/-! ## Block floating point (R235) -/

/-- Mantissa width of `v.bfp.pack` and `v.bfp.unpack`. -/
def bfpWidth (w : LaneWord) : Nat := w.sub.toNat / 2 + 2

/-- The lane form of an element: the mantissa sign-extended to 8 bits, and the exponent. -/
def bfpLaneForm (ex : Nat) (m : Int) : Nat := patternOf 8 m + ex * 2 ^ 8

/-- One block of `v.bfp.pack`: for each lane its element and new residue, with the flags. -/
def packBlock (c : FpCtx) (b : Nat) (ef : Bool) (xs : List (Nat × Nat × Nat)) : List (Nat × Nat × Nat) × Flags :=
  let ts := xs.map fun (_, x, r) => if ef then plainAdd x r else fp32.flush c.daz x
  let (ex, ms, fl) := bfpPack b (if ef then .ne else c.mode) ts
  (List.zipWith (fun (l, _, _) (t, m) =>
      let r := match fp32.decode t with
        | .fin v => residue v (bfpValue b ex m)
        | _ => 0
      (l, bfpLaneForm ex m, r)) xs (List.zip ts ms), fl)

/-- `v.bfp.pack` and `v.bfp.pack.ef` (R137, R149, R235). A block takes in the lanes that execute and no others, so that the instruction waits for its
path's mask to be resolved (R57). Where d and the residue register b are one register, the residue remains: R235 does not say which of the two
values does (DESIGN CHOICE, log entry 110). -/
def execVBfpPack (w : LaneWord) (s : State) : Host.Outcome State Fault Refusal :=
  let ef := w.imm.getLsbD 22
  let n := if w.sub.getLsbD 0 then 32 else 16
  crossCompute w (srcA w :: if ef then [srcB w] else []) (dst w :: if ef then [⟨w.sb, 1, 1⟩] else []) (fun s f lanes =>
    let c := s.fpCtx f w.rnd
    let blocks := (List.range (f.lanes / n)).map fun j =>
      packBlock c (bfpWidth w) ef ((lanes.filter fun l => l / n = j).map fun l =>
        (l, f.fp32Source w (srcA w) l, if ef then (f.read32 w (srcB w) l).toNat else 0))
    let rs := blocks.flatMap (·.1)
    let f' := (f.writeLanes w.dest.toNat (rs.map fun (l, d, _) => (l, BitVec.ofNat 32 d))).raise (unionFlags (blocks.map (·.2)))
    if ef then f'.writeLanes w.sb.toNat (rs.map fun (l, _, r) => (l, BitVec.ofNat 32 r)) else f') s

/-- `v.bfp.unpack` (R136, R235). -/
def execVBfpUnpack (w : LaneWord) (s : State) : Host.Outcome State Fault Refusal :=
  let b := bfpWidth w
  laneCompute w [srcA w] [dst w] (fun _ f lanes =>
    f.writeLanes w.dest.toNat (lanes.map fun l =>
      let v := (f.read32 w (srcA w) l).toNat
      (l, BitVec.ofNat 32 (bfpUnpack b (bitsAt v 8 8) (signedOf b v))))) s

/-! ## Integer packing (R236) -/

/-- `v.pack`. -/
def execVPack (w : LaneWord) (s : State) : Host.Outcome State Fault Refusal :=
  let src := intFmtOf (sfmt w)
  let t := intFmtOf (dfmt w)
  let keep := decide (dfmt w < 10)
  laneCompute w ([srcA w, srcB w] ++ if keep then [srcC w] else []) [dst w] (fun _ f lanes =>
    f.writeLanes w.dest.toNat (lanes.map fun l =>
      let one (x : Src) : Nat := narrow t (satBit w) (src.value (intModifier src x.mod (f.read32 w x l).toNat))
      let base := if keep then (f.read32 w (srcC w) l).toNat else 0
      let k := 2 * w.sub.toNat
      (l, BitVec.ofNat 32 (setElement (setElement base t.w k (one (srcA w))) t.w (k + 1) (one (srcB w)))))) s

/-- `v.unpack`. -/
def execVUnpack (w : LaneWord) (s : State) : Host.Outcome State Fault Refusal :=
  let t := intFmtOf (sfmt w)
  laneCompute w [srcA w] [dst w] (fun _ f lanes =>
    f.writeLanes w.dest.toNat (lanes.map fun l =>
      (l, BitVec.ofNat 32 (intImage ⟨32, true⟩ (t.value (bitsAt (f.read32 w (srcA w) l).toNat (t.w * w.sub.toNat) t.w)))))) s

end Sys2Proof.Machine
end

