-- ==== Sys2Proof/Machine/Launch.lean ====
section
/-!
DEFINITION. How flocks and herds start (R27 to R29), and how one instruction is laid out in memory so that the next
step runs it (log entry 11).
-/
namespace Sys2Proof.Machine

/-- The LFSR state at launch (R28). -/
def launchPrimary (herdid : BitVec 32) (inherd : Nat) : BitVec 16 :=
  0xACE1 ^^^ (herdid.setWidth 8 ++ (0 : BitVec 8)) ^^^ BitVec.ofNat 16 inherd

/-- The format of a plane at admission: BF16 (R276). -/
def PlaneFmt.reset : PlaneFmt := ⟨2, false, false, 0, 0⟩

/-- A plane that nothing has loaded. -/
def Plane.reset : Plane := ⟨PlaneFmt.reset, [], []⟩

/-- A matrix context at admission (R276). -/
def Ctx.reset : Ctx := ⟨[], [], Plane.reset, Plane.reset, PlaneFmt.reset, PlaneFmt.reset⟩

/-- A flock at launch (R29). -/
def Flock.launch (uid herd core slot datapath inherd : Nat) (herdid : BitVec 32) (lanes regs spc : Nat) : Flock :=
  { uid := uid, herd := herd, core := core, slot := slot, datapath := datapath, inherd := inherd, herdid := herdid,
    lanes := lanes, regs := regs, mode := .running, s := [], sEmpty := [], sPoison := [], v := [], vEmpty := [], vPoison := [],
    q := List.replicate 15 0, z := 0, spc := spc, queue := [], active := LaneMask.below lanes, parked := 0, killed := 0,
    paths := [], entries := [], branches := [], nextId := 0, nextStream := 0, ready := false, last := 0, primary := launchPrimary herdid inherd, second := 0,
    fpmode := 0, flags := 0, tcause := 0, tpc := 0, taddr := 0, tinfo := 0, tvec := 0, tret := 0, tscr0 := 0, tscr1 := 0,
    ops := [], bar := none, point := none, site := none, claims := [], haltSpc := 0, block1 := [], call := none, kflock := none, poisonAddr := 0,
    poisonKind := 0, sBorn := [], vBorn := [], recipe := none, orderedAfter := 0, sentAfter := 0 }

/-! ## One instruction in memory -/

/-- A page table entry that points to a table. -/
def pointerEntry (frame : Nat) : Nat := frame + 2 ^ 106 + 3 * 2 ^ 122

/-- A present, writable 4 KiB page under key slot 0. -/
def pageEntry (frame : Nat) : Nat := frame + 2 ^ 106 + 2 ^ 107

/-- Memory that holds a session context with root frame 2 at address 0, a chain of tables that maps virtual page 0 to
frame 16, and an instruction's bytes at the start of that page (R78, R372). -/
def fetchMemory (bs : List Byte) : List Host.Cell :=
  let m := Memory.writeNum [] 8 5 2
  let m := Memory.writeNum m 0x2000 16 (pointerEntry 4)
  let m := Memory.writeNum m 0x4000 16 (pointerEntry 6)
  let m := Memory.writeNum m 0x6000 16 (pointerEntry 8)
  let m := Memory.writeNum m 0x8000 16 (pageEntry 16)
  Memory.write m 0x10000 bs

/-- The flock that runs the instruction: 32 lanes and 192 registers. Its lane block, when it runs one, names every scalar
register. -/
def fetchFlock (lane : Bool) : Flock :=
  let f := Flock.launch 1 2 0 0 0 0 0 32 192 0
  if lane then
    { f with queue := [⟨0, BitVec.allOnes 64, true⟩], paths := [Path.start 0 0 (LaneMask.below 32) 0 [] .ready], nextId := 1, nextStream := 1 }
  else f

/-- The state in which the next step issues the instruction whose bytes stand at the start of a section. -/
def State.fetchState (s : State) (lane : Bool) (bs : List Byte) : State :=
  let rcb := { Rcb.absent with leaf := true, slen := 16, llen := 16, herds := 1, flocks := 1, lanes := 32, regs := 192 }
  let dp : Datapath := { Datapath.reset with active := some 1 :: List.replicate 7 none, order := [1] }
  { s with
    mem := fetchMemory bs
    memKeys := []
    cores := [(0, { Core.reset with powered := true, engineOn := true, datapaths := [dp, Datapath.reset, Datapath.reset, Datapath.reset] })]
    flocks := [fetchFlock lane]
    herds := [{ Herd.absent with uid := 2, region := 3 }]
    regions := [{ Region.absent with uid := 3, rcb := rcb, nextHerd := 1, exhausted := false }]
    agenda := [], cursor := 0, nextUid := 4 }

end Sys2Proof.Machine
end

