-- ==== Sys2Proof/Machine/LaneCross.lean ====
section
/-!
DEFINITION. Cross-lane instructions (R237 to R243).
-/
namespace Sys2Proof.Machine

/-- Segment size (R237). -/
def segment (w : LaneWord) : Nat := 2 ^ bitsAt w.imm.toNat 0 4

/-- The form moves pairs. -/
def pairBit (w : LaneWord) : Bool := w.sub.getLsbD 3

/-- Registers of the values that a form moves. -/
def crossRegs (w : LaneWord) : Nat := if pairBit w then 2 else 1

/-- A source's register or pair in a lane, as 64 bits. -/
def Flock.crossRead (f : Flock) (w : LaneWord) (x : Src) (l : Nat) : Word64 :=
  if x.regs = 2 then f.read64 w x l else (f.read32 w x l).setWidth 64

/-- Values written to a register or pair in lanes. -/
def Flock.crossWrite (f : Flock) (w : LaneWord) (vals : List (Nat × Word64)) : Flock :=
  if pairBit w then f.writePairs w.dest.toNat vals else f.writeLanes w.dest.toNat (vals.map fun (l, v) => (l, v.setWidth 32))

/-! ## Moves (R238, R239) -/

/-- `v.shfl` in a mode: `from_ S l b` is the lane that lane `l` reads for its index `b`. Source a is checked in the lanes that it
names, which may be another arm's: the instruction waits while any mask of its flock is unconfirmed (R173, R237). -/
def shuffle (w : LaneWord) (from_ : Nat → Nat → Nat → Nat) (s : State) : Host.Outcome State Fault Refusal :=
  let xa := srcA w (crossRegs w) (crossRegs w)
  let d := dst w (crossRegs w) (crossRegs w)
  runConfirmed (fun s f p => do
    let lanes := laneList f p w
    checkNames f [xa, srcB w] [d]
    waitUnless f.branches.isEmpty
    let named (l : Nat) : Option Nat :=
      let j := from_ (segment w) l (f.read32 w (srcB w) l).toNat
      if j < f.lanes then some j else none
    checkSourcesVia f p w lanes [xa, srcB w] [d] fun x l =>
      [if x.slot = 1 then some l else if (srcB w).emptyAt f (some l) then none else named l]
    let vals := lanes.map fun l => (l, ((named l).map (f.crossRead w xa)).getD 0)
    .ok (s.setFlock ((f.crossWrite w vals).retire p.id))) s

/-- `v.shfl.idx`. -/
def execVShflIdx (w : LaneWord) (s : State) : Host.Outcome State Fault Refusal :=
  shuffle w (fun n l b => n * (l / n) + b % n) s

/-- `v.shfl.up`. -/
def execVShflUp (w : LaneWord) (s : State) : Host.Outcome State Fault Refusal :=
  shuffle w (fun n l b => if b ≤ l % n then l - b else l) s

/-- `v.shfl.down`. -/
def execVShflDown (w : LaneWord) (s : State) : Host.Outcome State Fault Refusal :=
  shuffle w (fun n l b => if l % n + b < n then l + b else l) s

/-- `v.shfl.xor`. -/
def execVShflXor (w : LaneWord) (s : State) : Host.Outcome State Fault Refusal :=
  shuffle w (fun n l b => n * (l / n) + Nat.xor (l % n) (b % n)) s

/-- The lanes of a lane's segment, among the executing ones. -/
def segmentOf (w : LaneWord) (lanes : List Nat) (l : Nat) : List Nat := lanes.filter fun j => j / segment w = l / segment w

/-- `v.bcast` (R239). -/
def execVBcast (w : LaneWord) (s : State) : Host.Outcome State Fault Refusal :=
  let x := srcA w (crossRegs w) (crossRegs w)
  let d := dst w (crossRegs w) (crossRegs w)
  runConfirmed (fun s f p => do
    let lanes := laneList f p w
    checkNames f [x] [d]
    let first (l : Nat) : Nat := (segmentOf w lanes l).headD l
    checkSourcesVia f p w lanes [x] [d] fun _ l => [some (first l)]
    .ok (s.setFlock ((f.crossWrite w (lanes.map fun l => (l, f.crossRead w x (first l)))).retire p.id))) s

/-! ## Votes (R240) -/

/-- The executing lanes in which the voted predicate holds. -/
def votes (w : LaneWord) (f : Flock) (lanes : List Nat) : List Nat :=
  lanes.filter fun l => f.qbit (bitsAt w.imm.toNat 0 4) l ^^ w.imm.getLsbD 4

/-- A vote with one result for every executing lane. -/
def vote (w : LaneWord) (g : Nat → Nat → Bool) (s : State) : Host.Outcome State Fault Refusal :=
  crossCompute w [] [] (fun _ f lanes =>
    let m := LaneMask.ofList lanes
    f.setQ (qDest w) m (if g (votes w f lanes).length lanes.length then m else 0)) s

/-- `v.vote.all`. -/
def execVVoteAll (w : LaneWord) (s : State) : Host.Outcome State Fault Refusal := vote w (fun k n => k == n) s

/-- `v.vote.any`. -/
def execVVoteAny (w : LaneWord) (s : State) : Host.Outcome State Fault Refusal := vote w (fun k _ => k != 0) s

/-- `v.vote.eq`. -/
def execVVoteEq (w : LaneWord) (s : State) : Host.Outcome State Fault Refusal := vote w (fun k n => k == 0 || k == n) s

/-- `v.vote.ballot`. -/
def execVVoteBallot (w : LaneWord) (s : State) : Host.Outcome State Fault Refusal :=
  crossCompute w [] [dst w] (fun _ f lanes =>
    let m := LaneMask.ofList (votes w f lanes)
    f.writeLanes w.dest.toNat (lanes.map fun l => (l, m.word (l / 32)))) s

/-! ## Scans and totals (R241) -/

/-- The identity of an operation. -/
def scanIdentity (op : Nat) : Nat :=
  match op with
  | 1 => 0x7FFFFFFF
  | 2 => 0xFFFFFFFF
  | 3 => 0x80000000
  | 5 => 0xFFFFFFFF
  | 8 => 0x80000000
  | 9 => 0x7F800000
  | 10 => 0xFF800000
  | _ => 0

/-- The combination of an operation. -/
def combine (c : FpCtx) (op x y : Nat) : Nat × Flags :=
  match op with
  | 0 => ((x + y) % 2 ^ 32, 0)
  | 1 => (if signedOf 32 y < signedOf 32 x then y else x, 0)
  | 2 => (min x y, 0)
  | 3 => (if signedOf 32 x < signedOf 32 y then y else x, 0)
  | 4 => (max x y, 0)
  | 5 => (Nat.land x y, 0)
  | 6 => (Nat.lor x y, 0)
  | 7 => (Nat.xor x y, 0)
  | 8 => fp32.add c x y
  | 9 => fp32.minmax c false x y
  | _ => fp32.minmax c true x y

/-- The running combination over a segment's lanes: each lane with the value before and after its own, and the flags. -/
def scanLanes (c : FpCtx) (op : Nat) (read : Nat → Nat) : Nat → List Nat → List (Nat × Nat × Nat) × Flags
  | _, [] => ([], 0)
  | acc, l :: r =>
    let (v, fl) := combine c op acc (read l)
    let (rest, fs) := scanLanes c op read v r
    ((l, acc, v) :: rest, fl ||| fs)

/-- The segments of a flock, each as its executing lanes. -/
def segments (w : LaneWord) (f : Flock) (lanes : List Nat) : List (List Nat) :=
  (List.range ((f.lanes + segment w - 1) / segment w)).map fun g => lanes.filter fun l => l / segment w = g

/-- A scan or a total: `result` picks what each lane of a segment receives. -/
def scan (w : LaneWord) (result : List (Nat × Nat × Nat) → List (Nat × Nat)) (s : State) : Host.Outcome State Fault Refusal :=
  crossCompute w [srcA w] [dst w] (fun s f lanes =>
    let c := s.fpCtx f w.rnd
    let runs := (segments w f lanes).map (scanLanes c w.sub.toNat (fun l => (f.read32 w (srcA w) l).toNat) (scanIdentity w.sub.toNat))
    (f.writeLanes w.dest.toNat (runs.flatMap fun (r, _) => (result r).map fun (l, v) => (l, BitVec.ofNat 32 v))).raise
      (unionFlags (runs.map (·.2)))) s

/-- `v.scan` and `v.scan.ex`. -/
def execVScan (w : LaneWord) (s : State) : Host.Outcome State Fault Refusal :=
  scan w (fun r => r.map fun (l, before, after) => (l, if w.imm.getLsbD 4 then before else after)) s

/-- `v.red`. -/
def execVRed (w : LaneWord) (s : State) : Host.Outcome State Fault Refusal :=
  scan w (fun r => r.map fun (l, _, _) => (l, (r.getLast?.map fun x => x.2.2).getD 0)) s

/-- `v.match` (R242). -/
def execVMatch (w : LaneWord) (s : State) : Host.Outcome State Fault Refusal :=
  let x := srcA w (crossRegs w) (crossRegs w)
  crossCompute w [x] [dst w] (fun _ f lanes =>
    f.writeLanes w.dest.toNat (lanes.map fun l =>
      (l, BitVec.ofNat 32 (((segmentOf w lanes l).find? fun j => f.crossRead w x j == f.crossRead w x l).getD l)))) s

/-! ## Values for the scalar stream (R243) -/

/-- `v.tos` with its sources and the lanes it reads: the value is taken at issue and reaches the scalar register by an event
of its own. With no executing lane it raises nothing at stage 3 (R443); it still waits for the register that it reads. -/
def toScalar (w : LaneWord) (src : Option Src) (reads : Flock → List Nat → List Nat) (value : Flock → List Nat → Word64) (s : State) :
    Host.Outcome State Fault Refusal :=
  runHeld .stops (fun s f p => do
    let lanes := laneList f p w
    let sd := w.dest.toNat - 192
    let srcs := src.toList
    trapUnless (srcs.all (·.ok f) && decide (192 ≤ w.dest.toNat) && f.mayName sd) 0x02
    let via (_ : Src) (l : Nat) : List (Option Nat) := [if l < f.lanes then some l else none]
    if !lanes.isEmpty then checkSourcesVia f p w (reads f lanes) srcs [] via
    else if (reads f lanes).any fun l => srcs.any fun x => (via x l).any (x.emptyAt f) then waitsEmpty
    if !f.sFull sd then waitsEmpty
    else
      let id := f.nextId
      let piece := { scalarPiece sd with value := some (value f lanes) }
      let o : Op := { id := id, counter := none, lidx := p.pc, pieces := [piece], packets := 0, acq := none, flags := 0, tos := true,
                      written := false, replies := [] }
      let f := { f.markEmpty piece with nextId := id + 1, ops := f.ops ++ [o] }
      .ok ((s.setFlock (f.retire p.id).fence).post (.tosWrite f.uid id))) s

/-- `v.tos.first`. -/
def execVTosFirst (w : LaneWord) (s : State) : Host.Outcome State Fault Refusal :=
  let x := srcA w (crossRegs w) (crossRegs w)
  toScalar w (some x) (fun _ lanes => lanes.take 1) (fun f lanes => (lanes.head?.map (f.crossRead w x)).getD 0) s

/-- `v.tos.lane`. -/
def execVTosLane (w : LaneWord) (s : State) : Host.Outcome State Fault Refusal :=
  let x := srcA w (crossRegs w) (crossRegs w)
  let j := bitsAt w.imm.toNat 0 11
  toScalar w (some x) (fun _ _ => [j]) (fun f _ => if j < f.lanes then f.crossRead w x j else 0) s

/-- `v.tos.mask`. -/
def execVTosMask (w : LaneWord) (s : State) : Host.Outcome State Fault Refusal :=
  toScalar w none (fun _ _ => []) (fun _ lanes => ((LaneMask.ofList lanes).word (bitsAt w.imm.toNat 0 5)).setWidth 64) s

/-- `v.tos.count`. -/
def execVTosCount (w : LaneWord) (s : State) : Host.Outcome State Fault Refusal :=
  toScalar w none (fun _ _ => []) (fun _ lanes => BitVec.ofNat 64 lanes.length) s

/-- The value of a `v.tos` reaches its scalar register (R36, R243). -/
def execTosWrite (flock op : Nat) (s : State) : Host.Outcome State Fault Refusal :=
  .next (s.finishOp flock op (.tosWrite flock op))

end Sys2Proof.Machine
end

