-- ==== Sys2Proof/Machine/LaneMem.lean ====
section
/-!
DEFINITION. Memory instructions of the lane stream (R245 to R259).
-/
namespace Sys2Proof.Machine

/-! ## Operands and addresses (R245, R246) -/

/-- Bytes of an access (R169). -/
def memBytes (w : LaneWord) : Nat :=
  match w.sub.toNat with
  | 0 => 1 | 1 => 2 | 2 => 4 | 3 => 8 | 4 => 16 | 5 => 1 | _ => 2

/-- Registers of the data of an access. -/
def memRegs (w : LaneWord) : Nat := (memBytes w + 3) / 4

/-- The bits from which a loaded value is sign-extended (R250). -/
def memSext (w : LaneWord) : Option Nat :=
  if w.sub = 5 then some 8 else if w.sub = 6 then some 16 else none

/-- The signed byte offset of IMM. -/
def memOffset (w : LaneWord) : Int := (w.imm.extractLsb' 0 24).toInt

/-- The address operand of a global form: a pair. -/
def addrPair (w : LaneWord) : Src := srcA w 2 2

/-- EffectiveAddress of a global form in a lane; an atomic takes no index (R246). -/
def Flock.globalAddr (f : Flock) (w : LaneWord) (index : Bool) (l : Nat) : Nat :=
  let x : Word64 := if index then (f.read32 w (srcB w) l).signExtend 64 else 0
  (f.read64 w (addrPair w) l + x + BitVec.ofInt 64 (memOffset w)).toNat

/-- EffectiveAddress of a scratchpad form in a lane. -/
def Flock.spadAddr (f : Flock) (w : LaneWord) (index : Bool) (l : Nat) : Nat :=
  let x : Word32 := if index then f.read32 w (srcB w) l else 0
  (f.read32 w (srcA w) l + x + BitVec.ofInt 32 (memOffset w)).toNat

/-- The low bytes of a data source in a lane. -/
def Flock.dataBytes (f : Flock) (w : LaneWord) (x : Src) (n l : Nat) : List Byte :=
  ((List.range ((n + 3) / 4)).flatMap fun i => bytesOf 4 (f.read32 w x l i).toNat).take n

/-- A 32-bit or 64-bit operand of an atomic in a lane. -/
def Flock.atomOperand (f : Flock) (w : LaneWord) (x : Src) (l : Nat) : Nat :=
  if x.regs = 2 then (f.read64 w x l).toNat else (f.read32 w x l).toNat

/-- The order of a code (R164). -/
def orderOf (c : Nat) : Order :=
  let sc (i : Nat) : Scope := match i with
    | 0 => .hd | 1 => .cl | 2 => .di | 3 => .mo | _ => .sy
  if c = 0 then .plain else if c ≤ 5 then .acq (sc (c - 1)) else if c ≤ 10 then .rel (sc (c - 6)) else .ar (sc (c - 11))

/-- The atomic operation of a code (R166). -/
def atomOpOf (c : Nat) : AtomOp :=
  match c with
  | 0 => .add | 1 => .and | 2 => .or | 3 => .xor | 4 => .min | 5 => .minu | 6 => .max | 7 => .maxu | 8 => .swap | _ => .cas

/-- The path moved past a memory instruction, in the flock as the state now has it. -/
def State.retirePath (s : State) (uid pid : Nat) : State := s.onFlock uid fun f => f.retire pid

/-- As `retirePath`, for a flashback fence (R69). -/
def State.retireFence (s : State) (uid pid : Nat) : State := s.onFlock uid fun f => (f.retire pid).fence

/-! ## Global loads and stores (R250 to R252) -/

/-- The parts of one lane of a load: a register, a pair, or two pairs. -/
def loadParts (w : LaneWord) (l : Nat) (loc : Loc) : List LoadPart :=
  let d := w.dest.toNat
  let n := memBytes w
  if n = 16 then
    [⟨{ lanePiece d l true with bytes := 8 }, loc⟩,
     ⟨{ lanePiece (d + 2) l true with bytes := 8 }, { loc with pa := loc.pa + 8, va := loc.va + 8 }⟩]
  else [⟨{ lanePiece d l (n = 8) with bytes := n, sext := memSext w }, loc⟩]

/-- A global load of the lane stream. -/
def laneLoad (w : LaneWord) (acq : Option Scope) (s : State) : Host.Outcome State Fault Refusal :=
  runHeld (if acq.isSome then .acquires else .loads) (fun s f p => do
    let lanes := laneList f p w
    checkOperands f p w lanes [addrPair w, srcB w] [dst w (memRegs w) (memRegs w)]
    let (s, locs) ← s.checkLanes (s.agentOf f) .read (memBytes w) (lanes.map fun l => (l, f.globalAddr w true l))
    let s ← s.load f p.pc (locs.flatMap fun (l, loc) => loadParts w l loc) acq
    .ok (s.retirePath f.uid p.id)) s

/-- `v.ld`. -/
def execVLd (w : LaneWord) (s : State) : Host.Outcome State Fault Refusal := laneLoad w none s

/-- `v.ld.acq`. -/
def execVLdAcq (w : LaneWord) (s : State) : Host.Outcome State Fault Refusal := laneLoad w (acqScope (orderOf (cond w))) s

/-- The sources of a store: address, index and data. -/
def storeSources (w : LaneWord) (a : Src) : List Src := [a, srcB w, srcC w (memRegs w) (memRegs w)]

/-- A global store of the lane stream. -/
def laneStore (w : LaneWord) (rel : Option Scope) (s : State) : Host.Outcome State Fault Refusal :=
  runHeld .holds (fun s f p => do
    let lanes := laneList f p w
    checkOperands f p w lanes (storeSources w (addrPair w)) []
    let (s, locs) ← s.checkLanes (s.agentOf f) .write (memBytes w) (lanes.map fun l => (l, f.globalAddr w true l))
    let s ← s.store f (locs.map fun (l, loc) => (loc, f.dataBytes w (srcC w) (memBytes w) l)) rel
    .ok (s.retireFence f.uid p.id)) s

/-- `v.st`. -/
def execVSt (w : LaneWord) (s : State) : Host.Outcome State Fault Refusal := laneStore w none s

/-- `v.st.rel`. -/
def execVStRel (w : LaneWord) (s : State) : Host.Outcome State Fault Refusal := laneStore w (relScope (orderOf (cond w))) s

/-! ## Fire-and-forget stores (R258) -/

/-- One write of `v.st.ff`: the issuing die's copies go first, and a write homed on another die counts on its operation. -/
def State.ffPart (s : State) (ag : Agent) (uid op : Nat) (loc : Loc) (bs : List Byte) : State :=
  let s := s.dropCopies ag loc.pa
  if homeDie loc.pa = ag.die then (s.touchL2 ag loc true).performWrite loc.pa bs
  else s.sendPacket ag.die ag.session loc [.write loc bs] (some (uid, op))

/-- `v.st.ff`. -/
def execVStFf (w : LaneWord) (s : State) : Host.Outcome State Fault Refusal :=
  runHeld .holds (fun s f p => do
    let lanes := laneList f p w
    checkOperands f p w lanes (storeSources w (addrPair w)) []
    let (s, locs) ← s.checkLanes (s.agentOf f) .write (memBytes w) (lanes.map fun l => (l, f.globalAddr w true l))
    let ag := s.agentOf f
    waitUnless (f.counterRoom .f && s.accessReady f locs (memBytes w) none)
    match s.countRequests f locs with
    | none => waits
    | some s =>
      let s := locs.foldl (fun s (l, loc) => s.ffPart ag f.uid f.nextId loc (f.dataBytes w (srcC w) (memBytes w) l)) s
      let remote := (locs.filter fun (_, loc) => homeDie loc.pa ≠ ag.die).length
      .ok ((s.beginOp f.uid p.pc (some .f) [] remote none).retireFence f.uid p.id)) s

/-- Every store of a `v.st.ff` is delivered at its home: counter F falls (R93, R258). -/
def execFfStoreDelivered (flock op : Nat) (s : State) : Host.Outcome State Fault Refusal :=
  .next (s.finishOp flock op (.ffStoreDelivered flock op))

/-! ## Prefetch (R259) -/

/-- The alignment that a prefetch asks of its address, in bytes: the manual drops a misaligned lane and gives the form no access size (DESIGN
CHOICE, log entry 68). -/
def prefetchAlign : Nat := 4

/-- One lane's line is brought in, unless its address is misaligned or fails translation, or its page is uncached (R77, R259, R449; log entry 68). With
`.l1` it comes as by a load, with `.l2` to the caches beyond the L1. None while a line of another die has to wait for the fabric. -/
def State.prefetchLine (s : State) (ag : Agent) (l1 : Bool) (va : Nat) : Option State :=
  match s.checkAccess ag va prefetchAlign .read with
  | .error c => if c = notYet then none else some s
  | .ok (s, loc) =>
    if loc.cclass = 2 then some s
    else (s.readThrough ag loc 1 l1).map fun (t, _) => if loc.commons then t else t.noteRequests ag 1

/-- `v.prefetch`. -/
def execVPrefetch (w : LaneWord) (s : State) : Host.Outcome State Fault Refusal :=
  runLane (fun s f p => do
    let lanes := laneList f p w
    checkOperands f p w lanes [addrPair w, srcB w] []
    let ag := s.agentOf f
    match lanes.foldl (fun x l => x.bind fun s => s.prefetchLine ag (w.sub = 0) (f.globalAddr w true l)) (some s) with
    | none => waits
    | some t => do
      waitUnless (s.mayHaveSent t ag)
      .ok (t.retirePath f.uid p.id)) s

/-! ## Scratchpad accesses (R253) -/

/-- What a scratchpad load fills in a lane: pieces with their values. -/
def State.spadPieces (s : State) (w : LaneWord) (l herd off addr : Nat) : List Piece :=
  let d := w.dest.toNat
  let n := memBytes w
  let part (r o k : Nat) (wide : Bool) : Piece :=
    let (v, bad) := s.spadRead herd o k
    { lanePiece r l wide with value := some (BitVec.ofNat 64 v), poison := bad, sext := memSext w, bytes := k, addr := addr }
  if n = 16 then [part d off 8 true, part (d + 2) (off + 8) 8 true] else [part d off n (n = 8)]

/-- `v.ld.sp`: lanes that reach their own herd's allotment are written at once, others when the value returns. -/
def execVLdSp (w : LaneWord) (s : State) : Host.Outcome State Fault Refusal :=
  runHeld .scratch (fun s f p => do
    let lanes := laneList f p w
    checkOperands f p w lanes [srcA w, srcB w] [dst w (memRegs w) (memRegs w)]
    let xs ← s.checkSpadLanes (s.herdOf f) .read (memBytes w) (lanes.map fun l => (l, f.spadAddr w true l))
    waitUnless (s.memReady f)
    let pieces (own : Bool) : List Piece := (xs.filter fun (_, h, _) => (h == f.herd) == own).flatMap fun (l, h, off) =>
      s.spadPieces w l h off (f.spadAddr w true l)
    let near := pieces true
    let far := pieces false
    let g := near.foldl (Flock.fill false) f
    let s := s.setFlock (g.retire p.id)
    .ok (if far.isEmpty then s else s.beginOp f.uid p.pc none far 0 none)) s

/-- `v.st.sp`. -/
def execVStSp (w : LaneWord) (s : State) : Host.Outcome State Fault Refusal :=
  runHeld .holds (fun s f p => do
    let lanes := laneList f p w
    checkOperands f p w lanes (storeSources w (srcA w)) []
    let xs ← s.checkSpadLanes (s.herdOf f) .write (memBytes w) (lanes.map fun l => (l, f.spadAddr w true l))
    waitUnless (s.memReady f)
    let s := xs.foldl (fun s (l, h, off) => s.spadWrite h off (f.dataBytes w (srcC w) (memBytes w) l)) s
    .ok (s.retireFence f.uid p.id)) s

/-! ## Atomics (R254 to R257) -/

/-- Bytes of an atomic. -/
def atomBytes (w : LaneWord) : Nat := if w.sub = 3 then 8 else 4

/-- Registers of an atomic's operands. -/
def atomRegs (w : LaneWord) : Nat := atomBytes w / 4

/-- The operation of an atomic. -/
def atomOp (w : LaneWord) : AtomOp := atomOpOf (sfmt w)

/-- The sources of an atomic: address, operand and, for `.cas`, the expected value. -/
def atomSources (w : LaneWord) (a : Src) : List Src :=
  [a, srcB w (atomRegs w) (atomRegs w)] ++ if atomOp w = .cas then [srcC w (atomRegs w) (atomRegs w)] else []

/-- Operand and expected value of an atomic in a lane. -/
def Flock.atomValues (f : Flock) (w : LaneWord) (l : Nat) : Nat × Nat :=
  (f.atomOperand w (srcB w (atomRegs w)) l, f.atomOperand w (srcC w (atomRegs w)) l)

/-- The checked locations of a global atomic with its operands. -/
def Flock.atomLanes (f : Flock) (w : LaneWord) (locs : List (Nat × Loc)) : List (Nat × Loc × Nat × Nat) :=
  locs.map fun (l, loc) => (l, loc, (f.atomValues w l).1, (f.atomValues w l).2)

/-- `v.atom` (R254). -/
def execVAtom (w : LaneWord) (s : State) : Host.Outcome State Fault Refusal :=
  runHeld .stops (fun s f p => do
    let lanes := laneList f p w
    checkOperands f p w lanes (atomSources w (addrPair w)) [dst w (atomRegs w) (atomRegs w)]
    let (s, locs) ← s.checkLanes (s.agentOf f) .atomic (atomBytes w) (lanes.map fun l => (l, f.globalAddr w false l))
    let s ← s.atomic f p.pc (atomOp w) (atomBytes w) (orderOf (cond w)) (fun l => lanePiece w.dest.toNat l (atomBytes w = 8))
      (f.atomLanes w locs)
    .ok (s.retireFence f.uid p.id)) s

/-- `v.ared` (R256). -/
def execVAred (w : LaneWord) (s : State) : Host.Outcome State Fault Refusal :=
  runHeld .holds (fun s f p => do
    let lanes := laneList f p w
    checkOperands f p w lanes [addrPair w, srcB w (atomRegs w) (atomRegs w)] []
    let (s, locs) ← s.checkLanes (s.agentOf f) .atomic (atomBytes w) (lanes.map fun l => (l, f.globalAddr w false l))
    let s ← s.reduce f (atomOp w) (atomBytes w) (orderOf (cond w)) (f.atomLanes w locs)
    .ok (s.retireFence f.uid p.id)) s

/-- One scratchpad atomic of a lane is performed at its core (R96, R255): the piece that returns. A poisoned location is left as it
stands and returns poison (R464). -/
def State.spadAtom (s : State) (w : LaneWord) (l herd off addr b cmp : Nat) : State × Piece :=
  let n := atomBytes w
  let (old, bad) := s.spadRead herd off n
  let piece := { lanePiece w.dest.toNat l (n = 8) with
    value := some (BitVec.ofNat 64 old), poison := bad, bytes := n, addr := addr, atomic := true }
  (if bad then s else s.spadWrite herd off (bytesOf n (atomNew (atomOp w) n old (b % 2 ^ (8 * n)) (cmp % 2 ^ (8 * n)))), piece)

/-- The lanes of a scratchpad atomic in turn: ascending for a fetch-and-add, else in a free order (R97, R257). -/
def spadOrder (op : AtomOp) (ticks : Nat) (xs : List (Nat × Nat × Nat)) : List (Nat × Nat × Nat) :=
  if op = .add then xs else sortBy (fun x y => Config.laneKey ticks x.1 ≤ Config.laneKey ticks y.1) xs

/-- `v.atom.sp` (R255). -/
def execVAtomSp (w : LaneWord) (s : State) : Host.Outcome State Fault Refusal :=
  runHeld .stops (fun s f p => do
    let lanes := laneList f p w
    checkOperands f p w lanes (atomSources w (srcA w)) [dst w (atomRegs w) (atomRegs w)]
    let xs ← s.checkSpadLanes (s.herdOf f) .atomic (atomBytes w) (lanes.map fun l => (l, f.spadAddr w false l))
    let ord := orderOf (cond w)
    waitUnless (match relScope ord with
      | some sc => s.releaseReady f sc
      | none => s.memReady f)
    let (s, ps) := (spadOrder (atomOp w) s.ticks xs).foldl (fun (s, ps) (l, h, off) =>
      let (b, c) := f.atomValues w l
      let (s, p) := s.spadAtom w l h off (f.spadAddr w false l) b c
      (s, ps ++ [p])) (s, [])
    .ok ((s.beginOp f.uid p.pc none ps 0 (acqScope ord)).retireFence f.uid p.id)) s

/-! ## The return of a long-latency result (R45, R93) -/

/-- The registers of an operation are written and its counter falls, in issue order on its path. -/
def execLongLatencyReturn (flock op : Nat) (s : State) : Host.Outcome State Fault Refusal :=
  .next (s.finishOp flock op (.longLatencyReturn flock op))

end Sys2Proof.Machine
end

