-- ==== Sys2Proof/Machine/Shadow.lean ====
section
/-!
DEFINITION. Shadow windows (R311, R312): the descriptors of a session context, the translation of a shadow write through the
SHADOW table, and the writes of engines to memory (R121, R122, R464).
-/
namespace Sys2Proof.Machine

/-- Bit `lo` of shadow-window descriptor `i` in a session context. -/
def windowBit (i lo : Nat) : Nat := 8 * (256 + 32 * i) + lo

/-- The valid shadow windows of a session. -/
def State.windows (s : State) (session : Nat) : List Window :=
  (List.range 16).filterMap fun i =>
    let field (lo n : Nat) : Nat := s.ctx session (windowBit i lo) n
    if field 168 1 = 1 then some ⟨i, field 0 48, field 64 6 * 65536, field 128 40⟩ else none

/-- The window holds an address. -/
def Window.holds (w : Window) (va : Nat) : Bool := w.base ≤ va && va < w.base + w.len

/-- The shadow window that holds an address. -/
def State.windowOf (s : State) (session va : Nat) : Option Window := (s.windows session).find? (·.holds va)

/-- Address of the entry for a virtual address in a SHADOW table. -/
def shadowPa (shadow va : Nat) : Nat := shadow * 2 ^ 12 + 16 * vaIndex va 0

/-- The entry for an address in a SHADOW table, of a present, well-formed page (R311). -/
def State.shadowEntry (s : State) (shadow va : Nat) : Except Nat Nat :=
  match s.readEntry none (shadowPa shadow va) with
  | .error c => .error c
  | .ok e => if !pteBit e 106 || 1 < pteSize e || !leafOk e then .error 0x05 else .ok e

/-- A write is checked against a SHADOW table, as at the acceptance of its command (R311). -/
def State.shadowCheck (s : State) (session shadow va : Nat) : Except Nat Loc :=
  match s.shadowEntry shadow va with
  | .error c => .error c
  | .ok e => s.entryAllows session va .write e

/-- A write is translated through a SHADOW table; a granule that its entry marks copy-on-write is copied first (R83, R311, R455). -/
def State.shadowWrite (s : State) (session shadow va : Nat) : Except Nat (State × Loc) :=
  match s.shadowEntry shadow va with
  | .error c => .error c
  | .ok e => s.byEntry session va .write (shadowPa shadow va) e fun s => s.shadowEntry shadow va

/-- A shadow write's location: its address lies in a window, and its SHADOW entry allows a write. -/
def State.shadowLoc (s : State) (session va : Nat) : Except Nat Loc :=
  match s.windowOf session va with
  | none => .error 0x05
  | some w => s.shadowCheck session w.shadow va

/-- Which check of stage 4 a cause comes from (R442): alignment, the form of the address, presence, write permission, key slot. -/
def checkOrder (cause : Nat) : Nat :=
  match cause with
  | 0x04 => 0
  | 0x09 => 1
  | 0x06 => 3
  | 0x07 => 4
  | _ => 2

/-- Of the failures of the bytes that one lane accesses, that of the earliest check; of equal ones the first (R442). -/
def firstFailure : List (Nat × Nat) → Option (Nat × Nat)
  | [] => none
  | x :: r => match firstFailure r with
    | some y => if checkOrder y.1 < checkOrder x.1 then some y else some x
    | none => some x

/-- The sectors of bytes are poisoned (R464). -/
def State.markPoison (s : State) (pa n : Nat) : State :=
  { s with memPoison := setMark true ((List.range ((pa + n - 1) / 64 - pa / 64 + 1)).map (pa / 64 + ·)) s.memPoison }

/-- An engine writes bytes at their home slice; its die's remote-data cache copy follows, and to another die the write goes as a packet of its
session's network (R87, R88, R90, R121, R391, R464; log entry 7). A die that is removed discards it (R473). -/
def State.engineWrite (s : State) (ag : Agent) (loc : Loc) (bs : List Byte) (bad : Bool) : State :=
  let home := homeDie loc.pa
  if !(s.die home).live then s
  else
    let s := ((s.rekey loc).touchL2 ag loc true bs.length).performWrite loc.pa bs
    let s := if bad then s.markPoison loc.pa bs.length else s
    if home = ag.die then s
    else (if loc.cclass = 2 then s else s.storeRdc ag.die loc.pa bs bad).shipNew .ordered ag.session ag.die home

end Sys2Proof.Machine
end

