-- ==== Sys2Proof/Machine/Matrix.lean ====
section
/-!
DEFINITION. What the matrix engine computes: the formats and rows of planes and reservations (R277 to R280), matrix arithmetic
(R152, R153), the conversion of a drain (R293), and the operations of a context queue (R282 to R290, R297).
-/
namespace Sys2Proof.Machine

/-! ## Formats and rows (R277, R279, R280) -/

/-- The class of a format: 16-bit floats, narrow floats, INT8, BFP; others have none. -/
def mxClass (fmt : Nat) : Nat :=
  if fmt = 1 ∨ fmt = 2 then 0 else if 3 ≤ fmt ∧ fmt ≤ 6 then 1 else if fmt = 8 ∨ fmt = 9 then 2 else if fmt = 7 then 3 else 4

/-- Elements of a row. -/
def mxK (fmt : Nat) : Nat :=
  match mxClass fmt with
  | 0 => 32 | 1 => 64 | 2 => 64 | _ => 256

/-- Block length of a BFP format. -/
def PlaneFmt.block (p : PlaneFmt) : Nat := if p.blk then 32 else 16

/-- Mantissa width of a BFP format. -/
def PlaneFmt.bits (p : PlaneFmt) : Nat := p.mant + 2

/-- Bytes of a BFP block. -/
def PlaneFmt.blockBytes (p : PlaneFmt) : Nat := 1 + p.block * p.bits / 8

/-- Bytes of a row. -/
def PlaneFmt.rowBytes (p : PlaneFmt) : Nat :=
  if p.fmt = 7 then 256 / p.block * p.blockBytes
  else if p.fmt = 5 then 48 else if p.fmt = 6 then 32 else if mxClass p.fmt = 4 then 256 else 64

/-- The format that a reservation record names. -/
def recordFmt (r : Word64) : PlaneFmt :=
  let r := r.toNat
  ⟨bitsAt r 20 4, bitsAt r 36 1 = 1, bitsAt r 24 1 = 1, bitsAt r 25 3, signedOf 8 (bitsAt r 28 8)⟩

/-- First byte of a reservation in its herd's allotment. -/
def recordBase (r : Word64) : Nat := 256 * bitsAt r.toNat 0 8

/-- Bytes of a reservation. -/
def recordLen (r : Word64) : Nat := 256 * bitsAt r.toNat 8 9

/-- A reservation record holds allowed values and lies inside an allotment (R279). -/
def recordOk (r : Word64) (bytes : Nat) : Bool :=
  let v := r.toNat
  let fmt := bitsAt v 20 4
  1 ≤ bitsAt v 8 9 && bitsAt v 8 9 ≤ 256 && recordBase r + recordLen r ≤ bytes && bitsAt v 17 3 = 0
    && (fmt ≤ 8 || fmt = 12) && (fmt = 7 || bitsAt v 24 12 = 0) && bitsAt v 25 3 ≠ 7 && (fmt = 8 || bitsAt v 36 1 = 0)
    && bitsAt v 37 27 = 0

/-- Row `i` of a reservation lies inside it. -/
def rowInside (r : Word64) (i : Nat) : Bool := (i + 1) * (recordFmt r).rowBytes ≤ recordLen r

/-- The floating-point elements of a row, exactly. -/
def PlaneFmt.floats (p : PlaneFmt) (bs : List Byte) : List Num :=
  let v := ofBytes bs
  (List.range (mxK p.fmt)).map fun k =>
    if p.fmt = 7 then
      let start := 8 * p.blockBytes * (k / p.block)
      let m := signedOf p.bits (bitsAt v (start + 8 + p.bits * (k % p.block)) p.bits)
      if m = -(2 ^ (p.bits - 1) : Nat) then .nan false 0 true
      else .fin (Mag.ofInt m ((bitsAt v start 8 : Int) + p.soff - 127 - ((p.bits : Int) - 1)) false)
    else
      let f := fmtOf p.fmt
      f.decode (bitsAt v (f.width * k) f.width)

/-- The integer elements of a row. -/
def PlaneFmt.ints (p : PlaneFmt) (bs : List Byte) : List Int :=
  bs.take 64 |>.map fun b => if p.sgn then (b.toNat : Int) else b.toInt

/-! ## Arithmetic (R152, R153) -/

/-- The product of two elements; none is the canonical NaN. A block mantissa 0 counts as +0, so that its product with a negative element
is -0 (DESIGN CHOICE, log entry 103). -/
def mxProduct (x y : Num) : Option Num :=
  match x, y with
  | .nan _ _ _, _ => none
  | _, .nan _ _ _ => none
  | _, _ => x.mul y

/-- The sum of one group of products, rounded once. -/
def groupSum (ps : List (Option Num)) : Nat :=
  if ps.any (·.isNone) then fp32.nanCode
  else
    let xs := ps.filterMap id
    let pos := xs.contains (.inf false)
    let neg := xs.contains (.inf true)
    if pos && neg then fp32.nanCode
    else if pos then fp32.signed false fp32.infCode
    else if neg then fp32.signed true fp32.infCode
    else
      let ms := xs.filterMap fun x => match x with
        | .fin m => some m
        | _ => none
      match ms with
      | [] => 0
      | m :: r => (fp32.round .ne false false (r.foldl (Mag.add false) m)).1

/-- MatrixAccumulate: the products in groups of eight, each added to the accumulator in ascending order. -/
def matrixAccumulate (acc : Nat) (a b : List Num) : Nat :=
  let ps := a.zipWith mxProduct b
  (List.range ((ps.length + 7) / 8)).foldl (fun acc j => (fp32.add FpCtx.plain acc (groupSum ((ps.drop (8 * j)).take 8))).1) acc

/-- IntAccumulate: the exact sum of the products, added once. -/
def intAccumulate (acc : Nat) (a b : List Int) (sat : Bool) : Nat :=
  narrow ⟨32, true⟩ sat (signedOf 32 acc + (a.zipWith (· * ·) b).sum)

/-- One result element: integer arithmetic for an INT8 plane, else floating point. -/
def accumulate (acc : Nat) (af : PlaneFmt) (a : List Byte) (bf : PlaneFmt) (b : List Byte) (sat : Bool) : Nat :=
  if mxClass bf.fmt = 2 then intAccumulate acc (af.ints a) (bf.ints b) sat else matrixAccumulate acc (af.floats a) (bf.floats b)

/-! ## Tiles, planes and buffer bytes -/

/-- The key of an element of a tile. -/
def tileKey (t r c : Nat) : Nat := 4096 * t + 64 * r + c

/-- Context `i` of a herd. -/
def Herd.ctx (h : Herd) (i : Nat) : Ctx := h.ctxs.getD i Ctx.reset

/-- The herd with a context replaced. -/
def Herd.setCtx (h : Herd) (i : Nat) (c : Ctx) : Herd := { h with ctxs := setNth h.ctxs i c }

/-- An element of a tile of a context, and whether it is poisoned. -/
def Ctx.elem (x : Ctx) (t r c : Nat) : Word32 × Bool :=
  (SMap.get x.tiles 0 (tileKey t r c), x.tilePoison.contains (tileKey t r c))

/-- The context with an element of a tile written. -/
def Ctx.setElem (x : Ctx) (t r c : Nat) (v : Word32) (bad : Bool) : Ctx :=
  { x with tiles := SMap.put x.tiles 0 (tileKey t r c) v, tilePoison := setMark bad [tileKey t r c] x.tilePoison }

/-- Row of a plane: zero bytes where none are listed. -/
def Plane.row (p : Plane) (c : Nat) : List Byte := SMap.get p.rows [] c ++ List.replicate (p.form.rowBytes - (SMap.get p.rows [] c).length) 0

/-- Some word of the bytes of a herd's operand buffer is poisoned. -/
def Herd.opbPoisoned (h : Herd) (a n : Nat) : Bool := h.opbPoison.any fun w => a < 4 * w + 4 && 4 * w < a + n

/-- Row `i` of a reservation, with its poison. -/
def Herd.opbRow (h : Herd) (r : Word64) (i : Nat) : List Byte × Bool :=
  let n := (recordFmt r).rowBytes
  let a := recordBase r + i * n
  (Memory.bytes h.opb a n, h.opbPoisoned a n)

/-- The record of a reservation of a herd, for an operation that was accepted with it. -/
def Herd.record (h : Herd) (handle : Nat) : Word64 := SMap.get h.rsv 0 handle

/-- The herd with bytes of its operand buffer written; words written whole lose their poison. -/
def Herd.writeOpb (h : Herd) (a : Nat) (bs : List Byte) : Herd :=
  { h with opb := Memory.write h.opb a bs, opbPoison := setMark false ((List.range (bs.length / 4)).map (a / 4 + ·)) h.opbPoison }

/-! ## Drain (R292, R293) -/

/-- Bytes of an element of a target format. -/
def targetBytes (t : Nat) : Nat := if t = 0 ∨ t = 12 ∨ t = 13 then 4 else if t = 1 ∨ t = 2 ∨ t = 10 ∨ t = 11 then 2 else 1

/-- DrainElement (R293): the code of one element in the target format, and flags; `m` is its multiplier with MUL. The integer path reads every
word as a signed integer: a tile word has no type by which R451's NaN could be told there (DEDUCED, log entry 115). -/
def drainElement (d : Drain) (x : Word32) (m : Option Word32) : Nat × Flags :=
  if 8 ≤ d.target then
    let p := x.toInt * (match m with
      | some m => m.toInt
      | none => 1)
    let (n, _) := quanta .ne ⟨p < 0, p.natAbs, -(d.sh : Int), false⟩ 0
    let q : Int := if p < 0 then -(n : Int) else n
    (narrow (intFmtOf d.target) true (q + d.zp), 0)
  else
    let (p, f1) := match m with
      | some m => fp32.mul FpCtx.plain x.toNat m.toNat
      | none => (x.toNat, 0)
    let (y, f2) := convert fp32 (fmtOf d.target) .ne false false d.sat p
    (y, f1 ||| f2)

/-- The output words of one lane of a drain, each with its poison, and the flags. -/
def drainLane (h : Herd) (x : Ctx) (d : Drain) (l : Nat) : List (Word32 × Bool) × Flags :=
  let e := targetBytes d.target
  let t := d.tile + l / 64
  let one (c : Nat) : Nat × Flags × Bool :=
    let (v, bad) := x.elem (t % 8) (l % 64) c
    let base := (d.handle.map fun k => recordBase (h.record k) + 4 * c)
    let m := base.map fun a => BitVec.ofNat 32 (Memory.read h.opb a 4)
    let (y, fl) := drainElement d v m
    (y, fl, bad || base.any fun a => h.opbPoisoned a 4)
  let per := 4 / e
  let words := (List.range d.n).map fun i => (List.range per).map fun j => one (d.c0 + per * i + j)
  (words.map fun es => (BitVec.ofNat 32 ((es.zipIdx.map fun (y, j) => y.1 * 2 ^ (8 * e * j)).sum), es.any fun y => y.2.2),
   unionFlags (words.flatten.map fun y => y.2.1))

/-! ## Performing an operation (R282 to R294) -/

/-- The shadow plane loaded from 64 rows of a reservation (R284). -/
def Herd.loadPlane (h : Herd) (handle srow : Nat) : Plane :=
  let r := h.record handle
  let rows := (List.range 64).map fun c => (c, h.opbRow r (srow + c))
  { form := recordFmt r,
    rows := rows.filterMap fun (c, bs, _) => if bs.all (· == 0) then none else some (c, bs),
    poison := rows.filterMap fun (c, _, bad) => if bad then some c else none }

/-- One A row accumulated into its row of a tile (R287). -/
def Ctx.mmaRow (x : Ctx) (t r : Nat) (af : PlaneFmt) (a : List Byte) (bad sat : Bool) : Ctx :=
  let p := x.active
  (List.range 64).foldl (fun x c =>
    let (old, op) := x.elem t r c
    x.setElem t r c (BitVec.ofNat 32 (accumulate old.toNat af a p.form (p.row c) sat)) (op || bad || p.poison.contains c)) x

/-- The rows of one pass accumulated in ascending lane order. -/
def Ctx.mma (x : Ctx) (tile : Nat) (sat : Bool) (rows : List (Nat × PlaneFmt × List Byte × Bool)) : Ctx :=
  rows.foldl (fun x (l, af, a, bad) => x.mmaRow ((tile + l / 64) % 8) (l % 64) af a bad sat) x

/-- The words of a lane's columns. -/
def Ctx.columns (x : Ctx) (tile l c0 n : Nat) : List (Word32 × Bool) :=
  (List.range n).map fun i => x.elem ((tile + l / 64) % 8) (l % 64) (c0 + i)

/-- The context with a lane's columns written. -/
def Ctx.setColumns (x : Ctx) (tile l c0 : Nat) (vs : List Word32) : Ctx :=
  vs.zipIdx.foldl (fun x (v, i) => x.setElem ((tile + l / 64) % 8) (l % 64) (c0 + i) v false) x

/-- An operation's results arrive: its pieces take their values in order, and its flags and the packets still out are set. -/
def State.landOp (s : State) (uid : Nat) (id : Option Nat) (vals : List (Word32 × Bool)) (fl : Flags) (packets : Nat) : State :=
  match id with
  | none => s
  | some id =>
    let put (o : Op) : Op :=
      let pieces := (o.pieces.zip vals).map fun (p, v, bad) => { p with value := some (v.setWidth 64), poison := bad }
      { o with pieces := pieces, flags := o.flags ||| fl, packets := packets }
    (s.onFlock uid fun f => match f.op? id with
      | some o => f.setOp (put o)
      | none => f).opProgress uid id

/-- A queued operation acts on its herd's contexts and operand buffer. -/
def State.performMx (s : State) (core : Nat) (o : MxOp) : State :=
  match s.herd? o.herd with
  | none => s
  | some h =>
    let x := h.ctx o.ctx
    let keep (x : Ctx) : State := s.setHerd (h.setCtx o.ctx x)
    match o.kind with
    | .lds handle srow => keep { x with shadow := h.loadPlane handle srow }
    | .swap => keep { x with active := x.shadow, shadow := x.active }
    | .mmaRf tile fmt sat rows =>
      let af : PlaneFmt := ⟨if fmt = 9 then 8 else fmt, fmt = 9, false, 0, 0⟩
      keep (x.mma tile sat (rows.map fun (l, bs) => (l, af, bs, false)))
    | .mmaOpb tile handle sat rows =>
      let r := h.record handle
      keep (x.mma tile sat (rows.map fun (l, i) => (l, recordFmt r, h.opbRow r i)))
    | .accLd tile c0 n vals =>
      let old := vals.flatMap fun (l, _) => x.columns tile l c0 n
      (keep (vals.foldl (fun x (l, vs) => x.setColumns tile l c0 vs) x)).landOp o.flock o.op old 0 0
    | .accMov tile c0 n lanes => s.landOp o.flock o.op (lanes.flatMap fun l => x.columns tile l c0 n) 0 0
    | .accZero tile =>
      let other (k : Nat) : Bool := k / 4096 ≠ tile % 8
      keep { x with tiles := x.tiles.filter (fun e => other e.1), tilePoison := x.tilePoison.filter other }
    | .drain d lanes =>
      let outs := lanes.map fun (l, locs) => (locs, drainLane h x d l)
      let fl := unionFlags (outs.map fun y => y.2.2)
      if d.global then
        let ag : Agent := ⟨h.session, dieOf core, none⟩
        let writes := outs.flatMap fun (locs, ws, _) => locs.zip ws
        let s := writes.foldl (fun s (loc, v, bad) => s.engineWrite ag loc (bytesOf 4 v.toNat) bad) s
        s.landOp o.flock o.op [] fl 0
      else s.landOp o.flock o.op (outs.flatMap fun y => y.2.1) fl 0
    | .put handle rows =>
      let base := recordBase (h.record handle)
      s.setHerd (rows.foldl (fun h (off, bs) => h.writeOpb (base + off) bs) h)

/-! ## The engine (R297, R298) -/

/-- The reservation handles that an operation names. -/
def MxOp.handles (o : MxOp) : List Nat :=
  match o.kind with
  | .lds h _ => [h]
  | .mmaOpb _ h _ _ => [h]
  | .drain d _ => d.handle.toList
  | .put h _ => [h]
  | _ => []

/-- An operation writes the operand buffer. -/
def MxOp.writesBuffer (o : MxOp) : Bool :=
  match o.kind with
  | .put _ _ => true
  | _ => false

/-- The queue of the operations of a herd that holds no context. -/
def noCtx : Nat := 2

/-- An operation may be taken after the earlier ones of its herd that are listed: it heads its context's queue, and it passes none with
which it shares the operand buffer, on which the operations of a herd act in issue order (R283). -/
def MxOp.mayGo (o : MxOp) (earlier : List MxOp) : Bool :=
  earlier.all fun x => x.herd ≠ o.herd || (x.ctx ≠ o.ctx && (x.handles.isEmpty || o.handles.isEmpty || !(x.writesBuffer || o.writesBuffer)))

/-- The operations that the engine may take now. -/
def Core.mxReady (k : Core) : List MxOp :=
  k.mxq.zipIdx.filterMap fun (o, i) =>
    if (match k.lease with
      | some (h, _) => o.herd = h
      | none => true) && o.mayGo (k.mxq.take i) then some o else none

/-- The operation that the engine takes next: it alternates between the context queues that hold work (R297), which are those of the
leasing herd while a lease runs (R298). -/
def Core.nextMx (k : Core) : Option MxOp :=
  (k.mxReady.find? fun o => (o.herd, o.ctx) ≠ k.mxTurn).or k.mxReady.head?

/-- The core after an operation is taken: where it comes from a context, its herd's lease and the debts of other herds count down (R298). -/
def Core.takeMx (k : Core) (o : MxOp) : Core :=
  let counts (h : Nat) : Bool := h ≠ o.herd && o.ctx ≠ noCtx
  let debts := k.leaseDebt.filterMap fun (h, d) => if !counts h then some (h, d) else if d ≤ 1 then none else some (h, d - 1)
  let k := { k with mxq := k.mxq.erase o, mxTurn := (o.herd, o.ctx), leaseDebt := debts }
  match k.lease with
  | some (h, n) => if h ≠ o.herd || o.ctx = noCtx then k
    else if n ≤ 1 then { k with lease := none, leaseDebt := SMap.insert k.leaseDebt h 1024 } else { k with lease := some (h, n - 1) }
  | none => k

/-- What an operation writes to memory can leave its die at this moment (R472). -/
def State.mxMayWrite (s : State) (core : Nat) (o : MxOp) : Bool :=
  match o.kind with
  | .drain _ lanes => lanes.all fun (_, locs) => locs.all fun l => s.writeNow (dieOf core) l.pa
  | _ => true

/-- The engine takes one operation from its context queues and performs it. -/
def execMatrixEngineOperation (core : Nat) (s : State) : Host.Outcome State Fault Refusal :=
  let k := s.core core
  match if k.engineOn then k.nextMx.filter (s.mxMayWrite core) else none with
  | none => .next (if k.mxq.isEmpty then s else s.post (.matrixEngineOperation core))
  | some o => .next ((s.setCore core (k.takeMx o)).performMx core o)

/-- An accumulator transfer or a drain ends: its registers fill and counter M falls (R289, R294). -/
def execAccTransferComplete (flock op : Nat) (s : State) : Host.Outcome State Fault Refusal :=
  .next (s.finishOp flock op (.accTransferComplete flock op))

end Sys2Proof.Machine
end

