-- ==== Sys2Proof/Machine/Copy.lean ====
section
/-!
DEFINITION. The copy engine (R301 to R311, R316, R317, R456): command words and tensor layout records with their checks,
acceptance, transfers with their transforms, and the landing and counting of words.
-/
namespace Sys2Proof.Machine

/-! ## Command words and layout records (R302, R304, R305) -/

/-- XFORM of a command word. -/
def cmdXform (c : Word64) : Nat := bitsAt c.toNat 12 4
/-- Rounding mode of a command word. -/
def cmdMode (c : Word64) : Rounding := roundingOf (bitsAt c.toNat 16 2)
/-- SAT of a command word. -/
def cmdSat (c : Word64) : Bool := c.getLsbD 18
/-- EXP of a command word. -/
def cmdExp (c : Word64) : Bool := c.getLsbD 19
/-- NOBAR of a command word. -/
def cmdNobar (c : Word64) : Bool := c.getLsbD 20
/-- MCMASK of a command word. -/
def cmdMask (c : Word64) : Nat := bitsAt c.toNat 24 4
/-- BAR of a command word. -/
def cmdBar (c : Word64) : Nat := bitsAt c.toNat 32 22

/-- The command writes global memory. -/
def cmdGlobal (k : CopyKind) (c : Word64) : Bool := k = .g || (k = .xf && c.getLsbD 21)

/-- The command word has no reserved field or value, and no field that its form or transform leaves unused is set (R302, R306,
R317). -/
def cmdOk (k : CopyKind) (c : Word64) : Bool :=
  let v := c.toNat
  let x := cmdXform c
  bitsAt v 22 2 = 0 && bitsAt v 28 4 = 0 && bitsAt v 54 10 = 0 && x ≤ 5
    && (x = 2 || x = 3 || bitsAt v 16 2 = 0) && (x = 2 || !cmdSat c) && (k = .xf || !c.getLsbD 21) && (k = .mc || cmdMask c = 0)
    && (!cmdNobar c || (cmdBar c = 0 && !cmdExp c)) && (!cmdGlobal k c || cmdNobar c)

/-- A tensor layout record (R304). -/
structure Layout where
  sfmt : Nat
  dfmt : Nat
  slf : Bool
  dlf : Bool
  blk : Bool
  mant : Nat
  cols : Nat
  rows : Nat
  sstride : Nat
  dstride : Nat
  index : Nat
  status : Nat
deriving DecidableEq, Repr

/-- The fields of a record. -/
def layoutOf (r : BitVec 512) : Layout :=
  let v := r.toNat
  ⟨bitsAt v 0 4, bitsAt v 4 4, bitsAt v 8 1 = 1, bitsAt v 9 1 = 1, bitsAt v 10 1 = 1, bitsAt v 11 3, bitsAt v 16 12, bitsAt v 28 12,
   bitsAt v 64 40, bitsAt v 128 40, bitsAt v 192 48, bitsAt v 256 48⟩

/-- The record's reserved fields are zero. -/
def layoutReservedOk (r : BitVec 512) : Bool :=
  let v := r.toNat
  bitsAt v 14 2 = 0 && bitsAt v 40 24 = 0 && bitsAt v 104 24 = 0 && bitsAt v 168 24 = 0 && bitsAt v 240 16 = 0 && bitsAt v 304 208 = 0

/-- The BFP format of a record. -/
def Layout.bfp (y : Layout) : PlaneFmt := ⟨7, false, y.blk, y.mant, 0⟩

/-- Bits of an element of a format, other than BFP in memory form. -/
def fmtBits (f : Nat) (laneForm : Bool) : Nat :=
  if f = 7 then (if laneForm then 32 else 0)
  else if f ≤ 6 then (fmtOf f).width else (intFmtOf f).w

/-- RowBytes (R305); none where COLS breaks the format's rule or the format is reserved. -/
def Layout.rowBytes (y : Layout) (f : Nat) (laneForm : Bool) : Option Nat :=
  if f = 15 then none
  else if f = 7 && !laneForm then
    (if y.cols % y.bfp.block = 0 then some (y.cols / y.bfp.block * y.bfp.blockBytes) else none)
  else if f = 5 && y.cols % 4 ≠ 0 then none
  else
    let bits := y.cols * fmtBits f laneForm
    if bits % 8 = 0 then some (bits / 8) else none

/-- Bytes of a source row. -/
def Layout.srcBytes (y : Layout) : Nat := (y.rowBytes y.sfmt y.slf).getD 0

/-- Bytes of an element under TRANSPOSE. -/
def Layout.elemBytes (y : Layout) : Nat := fmtBits y.sfmt y.slf / 8

/-- Bytes of a destination row under a transform. -/
def Layout.dstBytes (y : Layout) (xform : Nat) : Nat :=
  if xform = 1 then y.rows * y.elemBytes else (y.rowBytes y.dfmt y.dlf).getD 0

/-- Destination rows under a transform. -/
def Layout.dstRows (y : Layout) (xform : Nat) : Nat := if xform = 1 then y.cols else y.rows

/-- Bytes that a command delivers (R307). -/
def Layout.total (y : Layout) (xform : Nat) : Nat := y.dstRows xform * y.dstBytes xform

/-- The format pair of a transform (R306). -/
def Layout.pairOk (y : Layout) (xform : Nat) : Bool :=
  let same := y.sfmt = y.dfmt && y.slf == y.dlf
  match xform with
  | 0 => same
  | 1 => same && (y.elemBytes = 1 || y.elemBytes = 2 || y.elemBytes = 4) && fmtBits y.sfmt y.slf % 8 = 0 && y.rows ≤ 256 && y.cols ≤ 256
  | 2 => (y.sfmt = 2 && (y.dfmt = 3 || y.dfmt = 4)) || ((y.sfmt = 3 || y.sfmt = 4) && y.dfmt = 2)
  | 3 => (y.sfmt = 0 || (y.sfmt = 7 && y.slf)) && y.dfmt = 7 && !y.dlf
  | 4 => y.sfmt = 7 && !y.slf && (y.dfmt = 0 || (y.dfmt = 7 && y.dlf))
  | _ => same

/-- Every source row begins on an address aligned to a 2-byte or 4-byte element (R305). A scratchpad source's own address is
tested at stage 4. -/
def Layout.sourceAligned (y : Layout) (xform src : Nat) (spad : Bool) : Bool :=
  let e := fmtBits y.sfmt y.slf / 8
  let moves := 1 < y.rows || xform = 5
  !(e = 2 || e = 4) || ((spad || src % e = 0) && (!moves || y.sstride % e = 0))

/-- The record keeps every rule of R304 to R306 under a command. -/
def layoutOk (k : CopyKind) (c : Word64) (r : BitVec 512) (src : Nat) : Bool :=
  let y := layoutOf r
  let x := cmdXform c
  layoutReservedOk r && (y.sfmt = 7 || !y.slf) && (y.dfmt = 7 || !y.dlf) && y.mant ≠ 7 && 1 ≤ y.cols && 1 ≤ y.rows
    && y.index % 4 = 0 && y.status % 8 = 0 && y.pairOk x
    && (y.rowBytes y.sfmt y.slf).isSome && (y.rowBytes y.dfmt y.dlf).isSome
    && y.dstBytes x ≤ y.dstride && (cmdGlobal k c || (y.dstBytes x % 4 = 0 && y.dstride % 4 = 0))
    && y.sourceAligned x src (k = .xf)

/-! ## Acceptance (R303, R305, R310, R311, R317) -/

/-- The record that a command names, read at acceptance (R445, R476). -/
def State.layoutRecord (s : State) (f : Flock) (c : Word64) : Res (State × BitVec 512 × Nat) :=
  let rcb := (s.regionOf (s.herdOf f)).rcb
  let i := bitsAt c.toNat 0 12
  if rcb.lcount ≤ i then traps 0x0D i
  else
    let a := rcb.layout + 64 * i
    match s.fetch f a 64 with
    | .error x => .error x
    | .ok (s, bs) => .ok (s, BitVec.ofNat 512 (ofBytes bs), a)

/-- The members of a gang that a multicast names; a herd outside a gang stands alone on its core (R310). -/
def State.members (s : State) (h : Herd) (mask : Nat) : List Herd :=
  match h.gang with
  | none => if mask = 2 ^ h.seat then [h] else []
  | some g => (List.range 4).filterMap fun i =>
      if bitsAt mask i 1 = 1 then s.gangMember? g i else none

/-- The operand rules of R310. -/
def multicastOk (h : Herd) (c : Word64) (dst : Nat) : Bool :=
  bitsAt dst 19 3 = 0 && bitsAt (cmdBar c) 19 3 = 0 && cmdMask c ≠ 0 && (h.gang.isSome || cmdMask c = 2 ^ h.seat)

/-- Where `n` bytes at a scratchpad address of a herd lie: whole inside the allotment that it names. -/
def State.spadRun (s : State) (h : Herd) (a n : Nat) : Option (Herd × Nat) :=
  match s.spadTarget h (a % 2 ^ 32) with
  | none => none
  | some (t, off) => if off + n ≤ t.spadSize then some (t, off) else none

/-- The allotments, with offsets, that a destination address of a command names: one, or one for each member of a multicast. -/
def State.spadDests (s : State) (k : CopyKind) (h : Herd) (c : Word64) (a n : Nat) : Option (List (Herd × Nat)) :=
  if k = .mc then
    let off := a % 2 ^ 32
    let ms := s.members h (cmdMask c)
    if off < 2 ^ 19 && ms.all fun t => off + n ≤ t.spadSize then some (ms.map (·, off)) else none
  else (s.spadRun h a n).map ([·])

/-- The barrier objects that count a command, each beside the allotment that it counts: one, or one for each member. -/
def State.commandBars (s : State) (k : CopyKind) (h : Herd) (c : Word64) : List (Nat × Nat × Nat) :=
  if cmdNobar c then []
  else if k = .mc then (s.members h (cmdMask c)).map fun t => (t.uid, t.uid, cmdBar c)
  else match s.spadTarget h (cmdBar c) with
    | some (t, off) => [(0, t.uid, off)]
    | none => []

/-- A scratchpad fault of a copy form. -/
def spadFault {α : Type} (a : Nat) (kind : Access) : Res α := .error (.trap (addrTrap 0x09 (a % 2 ^ 32) 0 kind))

/-- The scratchpad destinations and the barriers lie inside their allotments (R305). -/
def State.checkDests (s : State) (k : CopyKind) (h : Herd) (c : Word64) (y : Layout) (dst : Nat) : Res Unit := do
  let x := cmdXform c
  let rowOk (j : Nat) : Bool := (s.spadDests k h c (dst + j * y.dstride) (y.dstBytes x)).isSome
  if dst % 4 ≠ 0 || !(List.range (y.dstRows x)).all rowOk then spadFault dst .write
  else if cmdNobar c then .ok ()
  else if cmdBar c % 32 ≠ 0 || (s.spadDests k h c (cmdBar c) 32).isNone then spadFault (cmdBar c) .write
  else .ok ()

/-- The words of a destination row, cut at 4-byte boundaries: offset and length of each piece. -/
def wordPieces (a n : Nat) : List (Nat × Nat) :=
  ((List.range (n / 4 + 2)).filterMap fun i =>
    let lo := max a (4 * (a / 4 + i))
    let hi := min (a + n) (4 * (a / 4 + i) + 4)
    if lo < hi then some (lo - a, hi - lo) else none)

/-- The failures of a run of bytes of a global destination, page by page: each byte lies in a shadow window whose SHADOW entry lets it be written
(R311). -/
def State.shadowRunFails (s : State) (session va n : Nat) : List (Nat × Nat) :=
  (List.range ((va % 4096 + n + 4095) / 4096)).filterMap fun i =>
    let a := max va (4096 * (va / 4096 + i)) % 2 ^ 64
    match s.shadowLoc session a with
    | .error c => some (c, a)
    | .ok _ => none

/-- The rows of a global destination: the earliest check that one of their bytes fails is reported (R442). -/
def State.checkShadowRows (s : State) (session : Nat) (y : Layout) (x dst : Nat) : Res Unit :=
  match firstFailure ((List.range (y.dstRows x)).flatMap fun j => s.shadowRunFails session ((dst + j * y.dstride) % 2 ^ 64) (y.dstBytes x)) with
  | some (c, a) => .error (addrStop c a 0 .write)
  | none => .ok ()

/-- A scratchpad source lies inside its allotment; a gathered row is tested when its index is read (R305, R309). -/
def State.checkSource (s : State) (h : Herd) (y : Layout) (x src : Nat) : Res Unit :=
  let e := fmtBits y.sfmt y.slf / 8
  let rowOk (i : Nat) : Bool := (s.spadRun h (src + i * y.sstride) y.srcBytes).isSome
  if (e = 2 || e = 4) && src % e ≠ 0 then spadFault src .read
  else if x = 5 then (if (s.spadRun h src 1).isSome then .ok () else spadFault src .read)
  else if (List.range y.rows).all rowOk then .ok () else spadFault src .read

/-- Entries of an engine queue (R303). -/
def engineEntries : Nat := 32

/-- The lowest free entry of an engine queue. -/
def Core.freeEntry (k : Core) : Option Nat := (List.range engineEntries).find? fun e => k.engine.all fun c => c.entry ≠ e

/-- The byte total is added to each counting barrier (R303). -/
def State.expectBytes (s : State) (bars : List (Nat × Nat × Nat)) (n : Nat) : State :=
  bars.foldl (fun s (_, uid, off) => match s.allotment? uid with
    | some h => s.setHerd ((h.setObj off 64 32 ((h.obj off 64 32 + n) % 2 ^ 32)).tryComplete off)
    | none => s) s

/-- The fault record that a suspension of a command would write, but for its cause and address (R456). -/
def State.copyReport (s : State) (f : Flock) (entry : Nat) : FaultRecord :=
  { s.faultRecord f with tcause := 0, tpc := BitVec.ofNat 64 (f.spc % 2 ^ 26), taddr := 0,
                         tinfo := BitVec.ofNat 64 (entry + 3 * 2 ^ 11) }

/-- A copy form of the scalar stream (R301, R303). -/
def copyCommand (k : CopyKind) (d a b : BitVec 6) (s : State) : Host.Outcome State Fault Refusal :=
  runScalar (fun s f => do
    f.useS [d, a, b]
    let c := f.rs d
    let src := (f.rs a).toNat
    let dst := (f.rs b).toNat
    let h := s.herdOf f
    let x := cmdXform c
    trapUnless (cmdOk k c) 0x01
    trapUnless (k != .mc || multicastOk h c dst) 0x02
    let (s, r, at_) ← s.layoutRecord f c
    trapUnless (layoutOk k c r src) 0x0D at_
    let y := layoutOf r
    let global := cmdGlobal k c
    if global then .ok () else s.checkDests k h c y dst
    if k = .xf then s.checkSource h y x src else .ok ()
    if global then s.checkShadowRows h.session y x dst else .ok ()
    match (s.core f.core).freeEntry with
    | none => waits
    | some e => do
      waitUnless (s.memReady f && f.readsReturned && (global || f.counterRoom .s))
      let s := if cmdExp c then s.expectBytes (s.commandBars k h c) (y.total x) else s
      let id := s.nextUid
      let cmd : CopyCmd :=
        { id := id, entry := e, kind := k, flock := f.uid, herd := f.herd, region := h.region, session := h.session, cmd := c,
          src := src, dst := dst, layoutRec := r, windows := if global then s.windows h.session else [],
          op := if global then none else some f.nextId, started := false, row := 0, rows := [], words := [], flags := 0,
          suspended := false, report := s.copyReport f e }
      let s := (s.onCore f.core fun k => { k with engine := k.engine ++ [cmd] }).bumpUid
      let s := s.post (.copyTransferStart f.core id)
      let s := if global then s else s.beginOp f.uid f.spc (some .s) [] 1 none
      .ok (s.onFlock f.uid fun f => f.advance.fence)) s

/-- `s.cp`. -/
def execSCp (d a b : BitVec 6) (s : State) : Host.Outcome State Fault Refusal := copyCommand .cp d a b s

/-- `s.cp.mc` (R310). -/
def execSCpMc (d a b : BitVec 6) (s : State) : Host.Outcome State Fault Refusal := copyCommand .mc d a b s

/-- `s.xf`. -/
def execSXf (d a b : BitVec 6) (s : State) : Host.Outcome State Fault Refusal := copyCommand .xf d a b s

/-- `s.cp.g` (R311). -/
def execSCpG (d a b : BitVec 6) (s : State) : Host.Outcome State Fault Refusal := copyCommand .g d a b s

/-! ## Reading a row (R307, R309, R464) -/

/-- The command of a core with an id. -/
def State.copyCmd? (s : State) (core id : Nat) : Option CopyCmd := (s.core core).engine.find? (·.id == id)

/-- The state with a command replaced. -/
def State.setCmd (s : State) (core : Nat) (c : CopyCmd) : State :=
  s.onCore core fun k => { k with engine := k.engine.map fun x => if x.id = c.id then c else x }

/-- What an engine has read: the state with what the read leaves in the caches, the bytes each with its poison, and how many lines of private
frames it asked for. -/
structure EngineData where
  state : State
  bytes : List (Byte × Bool)
  lines : Nat
deriving DecidableEq, Repr

/-- Bytes of a session's memory as an engine reads them, sector by sector through the caches beside the L1, or over the fabric: the cause and
address of a failure otherwise, with `notYet` for a read that cannot be made at this moment (R82, R121, R396). Reads of commons frames are no
requests that RLIMIT counts (R366, R382). -/
def State.engineRead (s : State) (ag : Agent) : Nat → Nat → Nat → Except (Nat × Nat) EngineData
  | 0, _, _ => .ok ⟨s, [], 0⟩
  | _, _, 0 => .ok ⟨s, [], 0⟩
  | fuel + 1, va, n =>
    let va := va % 2 ^ 64
    let k := min n (64 - va % 64)
    match s.translate ag va .read with
    | .error c => .error (c, va)
    | .ok (s, loc) => match s.readThrough ag loc k false with
      | none => .error (notYet, va)
      | some (s, bs, bad) => match s.engineRead ag fuel (va + k) (n - k) with
        | .error e => .error e
        | .ok r => .ok ⟨r.state, bs.map (·, bad) ++ r.bytes, r.lines + if loc.commons || (va % 256 ≠ 0 && r.lines ≠ 0 && va % 256 + k < 256) then 0 else 1⟩

/-- Bytes of global memory for an engine. -/
def State.engineBytes (s : State) (ag : Agent) (va n : Nat) : Except (Nat × Nat) EngineData := s.engineRead ag (n / 64 + 2) va n

/-- A source row of a command that begins at an address. -/
def State.rowAt (s : State) (core : Nat) (c : CopyCmd) (a : Nat) : Except (Nat × Nat) EngineData :=
  let n := (layoutOf c.layoutRec).srcBytes
  if c.kind = .xf then
    match (s.herd? c.herd).bind fun h => s.spadRun h a n with
    | none => .error (0x09, a % 2 ^ 32)
    | some (t, off) => .ok ⟨s, (List.range n).map fun j => (Memory.byte t.spad (off + j), t.spadPoison.contains ((off + j) / 4)), 0⟩
  else s.engineBytes ⟨c.session, dieOf core, some core⟩ a n

/-- Source row `i` of a command. -/
def State.sourceRow (s : State) (core : Nat) (c : CopyCmd) (i : Nat) : Except (Nat × Nat) EngineData :=
  let y := layoutOf c.layoutRec
  if cmdXform c.cmd = 5 then
    match s.engineBytes ⟨c.session, dieOf core, some core⟩ (y.index + 4 * i) 4 with
    | .error e => .error e
    | .ok x => match x.state.rowAt core c (c.src + ofBytes (x.bytes.map (·.1)) * y.sstride) with
      | .error e => .error e
      | .ok r => .ok ⟨r.state, r.bytes.map fun (b, p) => (b, p || x.bytes.any (·.2)), x.lines + r.lines⟩
  else s.rowAt core c (c.src + i * y.sstride)

/-! ## Transforms (R306, R308) -/

/-- Bytes of a number, all with one poison. -/
def markedBytes (n v : Nat) (bad : Bool) : List (Byte × Bool) := (bytesOf n v).map (·, bad)

/-- The number that marked bytes hold. -/
def markedValue (bs : List (Byte × Bool)) : Nat := ofBytes (bs.map (·.1))

/-- Some byte is poisoned. -/
def markedPoison (bs : List (Byte × Bool)) : Bool := bs.any (·.2)

/-- Consecutive runs of `n` bytes. -/
def runsOf (n : Nat) (bs : List (Byte × Bool)) : List (List (Byte × Bool)) :=
  (List.range (bs.length / n)).map fun i => (bs.drop (n * i)).take n

/-- Each element of a row converted (R147). -/
def convertRow (y : Layout) (c : Word64) (row : List (Byte × Bool)) : List (Byte × Bool) × Flags :=
  let src := fmtOf y.sfmt
  let dst := fmtOf y.dfmt
  let outs := (runsOf (src.width / 8) row).map fun e =>
    let (v, fl) := convert src dst (cmdMode c) false false (cmdSat c) (markedValue e)
    (markedBytes (dst.width / 8) v (markedPoison e), fl)
  (outs.flatMap (·.1), unionFlags (outs.map (·.2)))

/-- The memory form of a block (R135). -/
def bfpMemory (p : PlaneFmt) (ex : Nat) (codes : List Nat) : Nat :=
  ex + 2 ^ 8 * ((codes.zipIdx.map fun (m, i) => m % 2 ^ p.bits * 2 ^ (p.bits * i)).sum)

/-- Each block of a row packed (R137), from FP32 or from the lane form. -/
def packRow (y : Layout) (c : Word64) (row : List (Byte × Bool)) : List (Byte × Bool) × Flags :=
  let p := y.bfp
  let outs := (runsOf (4 * p.block) row).map fun blk =>
    let es := (runsOf 4 blk).map markedValue
    let bad := markedPoison blk
    if y.sfmt = 0 then
      let (ex, ms, fl) := bfpPack p.bits (cmdMode c) es
      (markedBytes p.blockBytes (bfpMemory p ex (ms.map (patternOf p.bits))) bad, fl)
    else (markedBytes p.blockBytes (bfpMemory p (bitsAt (es.headD 0) 8 8) es) bad, 0)
  (outs.flatMap (·.1), unionFlags (outs.map (·.2)))

/-- Each element of a row's blocks unpacked, to FP32 or to the lane form (R136, R235). -/
def unpackRow (y : Layout) (row : List (Byte × Bool)) : List (Byte × Bool) :=
  let p := y.bfp
  (runsOf p.blockBytes row).flatMap fun blk =>
    let v := markedValue blk
    (List.range p.block).flatMap fun i =>
      let m := signedOf p.bits (bitsAt v (8 + p.bits * i) p.bits)
      let first := 1 + p.bits * i / 8
      let last := 1 + (p.bits * i + p.bits - 1) / 8
      let bad := [0, first, last].any fun j => (blk.getD j (0, false)).2
      markedBytes 4 (if y.dfmt = 0 then bfpUnpack p.bits (bitsAt v 0 8) m else bfpLaneForm (bitsAt v 0 8) m) bad

/-- Apply: a destination row from a source row, with the flags of its elements. -/
def applyRow (c : CopyCmd) (row : List (Byte × Bool)) : List (Byte × Bool) × Flags :=
  let y := layoutOf c.layoutRec
  match cmdXform c.cmd with
  | 2 => convertRow y c.cmd row
  | 3 => packRow y c.cmd row
  | 4 => (unpackRow y row, 0)
  | _ => (row, 0)

/-- Destination row `j` of a transposition. -/
def transposedRow (e : Nat) (rows : List (List (Byte × Bool))) (j : Nat) : List (Byte × Bool) :=
  rows.flatMap fun r => (r.drop (j * e)).take e

/-- The runs of bytes that a command has still to write, by address and length (R307). -/
def CopyCmd.rowsLeft (c : CopyCmd) : List (Nat × Nat) :=
  let y := layoutOf c.layoutRec
  let x := cmdXform c.cmd
  if y.rows ≤ c.row then []
  else ((List.range (y.dstRows x)).drop (if x = 1 then 0 else c.row)).map fun j => ((c.dst + j * y.dstride) % 2 ^ 64, y.dstBytes x)

/-! ## Words on their way (R307, R310) -/

/-- One piece of a destination row. -/
def cutPiece (row : List (Byte × Bool)) (o n : Nat) : List Byte × Bool :=
  let bs := (row.drop o).take n
  (bs.map (·.1), markedPoison bs)

/-- The words of a row for a global destination, each with its place by the SHADOW tables as they stood at acceptance; a page may fail. -/
def State.shadowWords (s : State) (c : CopyCmd) (va : Nat) (row : List (Byte × Bool)) :
    List (Nat × Nat) → Except (Nat × Nat) (State × List CopyWord)
  | [] => .ok (s, [])
  | (o, n) :: rest =>
    let (bs, bad) := cutPiece row o n
    match c.windows.find? fun w => w.holds (va + o) with
    | none => .error (0x05, va + o)
    | some w => match s.shadowWrite c.session w.shadow (va + o) with
      | .error e => .error (e, va + o)
      | .ok (s, loc) => match s.shadowWords c va row rest with
        | .error e => .error e
        | .ok (s, ws) => .ok (s, ⟨none, va + o, some loc, bs, bad, none⟩ :: ws)

/-- The words of destination row `j` of a command, each with its place. -/
def State.rowWords (s : State) (c : CopyCmd) (j : Nat) (row : List (Byte × Bool)) : Except (Nat × Nat) (State × List CopyWord) :=
  let y := layoutOf c.layoutRec
  let a := c.dst + j * y.dstride
  if cmdGlobal c.kind c.cmd then s.shadowWords c (a % 2 ^ 64) row (wordPieces (a % 2 ^ 64) row.length)
  else
    match s.herd? c.herd with
    | none => .ok (s, [])
    | some h =>
      let bars := s.commandBars c.kind h c.cmd
      .ok (s, ((s.spadDests c.kind h c.cmd a row.length).getD []).flatMap fun (t, off) =>
        let bar := (bars.find? fun (own, _, _) => own = 0 || own = t.uid).map fun (_, b) => b
        (wordPieces off row.length).map fun (o, n) =>
          let (bs, bad) := cutPiece row o n
          ⟨some t.uid, off + o, none, bs, bad, bar⟩)

/-- The command has stopped at a fault of its present row. -/
def CopyCmd.suspend (c : CopyCmd) (cause addr : Nat) : CopyCmd :=
  { c with suspended := true, report := { c.report with tcause := BitVec.ofNat 64 cause, taddr := BitVec.ofNat 64 addr } }

/-- The words of the rows of a transposition, from row `j` on. -/
def State.transposedWords (s : State) (c : CopyCmd) (rows : List (List (Byte × Bool))) : List Nat → Except (Nat × Nat) (State × List CopyWord)
  | [] => .ok (s, [])
  | j :: r => match s.rowWords c j (transposedRow (layoutOf c.layoutRec).elemBytes rows j) with
    | .error e => .error e
    | .ok (s, ws) => match s.transposedWords c rows r with
      | .error e => .error e
      | .ok (s, vs) => .ok (s, ws ++ vs)

/-- One further row of a command is read and transformed, with the private lines that it asked for; a transposition sends its words after the
last row. The cause and address of a failure otherwise. -/
def State.readRow (s : State) (core : Nat) (c : CopyCmd) : Except (Nat × Nat) (State × CopyCmd × Nat) :=
  let y := layoutOf c.layoutRec
  match s.sourceRow core c c.row with
  | .error e => .error e
  | .ok x =>
    if cmdXform c.cmd = 1 then
      let rows := c.rows ++ [x.bytes]
      if c.row + 1 < y.rows then .ok (x.state, { c with rows := rows, row := c.row + 1 }, x.lines)
      else match x.state.transposedWords c rows (List.range y.cols) with
        | .error e => .error e
        | .ok (s, ws) => .ok (s, { c with rows := [], row := c.row + 1, words := c.words ++ ws }, x.lines)
    else
      let (out, fl) := applyRow c x.bytes
      match x.state.rowWords c c.row out with
      | .error e => .error e
      | .ok (s, ws) => .ok (s, { c with row := c.row + 1, words := c.words ++ ws, flags := c.flags ||| fl }, x.lines)

/-- The engine starts a command, or goes on with it row by row (R303, R307). Earlier commands of the queue start first, and writes that happen
before the command have been performed (R121). That one step reads a whole row, and that words of earlier rows may land before, is the model's
choice (DESIGN CHOICE, log entry 83). A row whose private lines RLIMIT holds back, or which the fabric cannot serve at this moment,
is read later (R366, R396). -/
def execCopyTransferStart (core cmd : Nat) (s : State) : Host.Outcome State Fault Refusal :=
  match s.copyCmd? core cmd with
  | none => .next s
  | some c =>
    let earlier := (s.core core).engine.takeWhile fun x => x.id ≠ cmd
    if c.suspended then .next s
    else if !(c.started || (earlier.all (·.started) && s.netIdle (s.netOf c.session))) then .next (s.post (.copyTransferStart core cmd))
    else
      let ag : Agent := ⟨c.session, dieOf core, some core⟩
      let rows := (layoutOf c.layoutRec).rows
      let c := { c with started := true }
      let again := (s.setCmd core c).post (.copyTransferStart core cmd)
      if rows ≤ c.row then .next (s.setCmd core c)
      else match s.readRow core c with
        | .error (e, a) =>
          .next (if e = notYet then again else (s.setCmd core (c.suspend e a)).post (.copyFaultSuspend core cmd))
        | .ok (t, c, n) =>
          if n ≠ 0 && !s.belowLimit c.session ag.die then .next again
          else
            let t := (t.setCmd core c).noteRequests ag n
            let t := if c.words.isEmpty then t else t.postOnce (.copyWordLand core cmd)
            .next (if c.row < rows then t.post (.copyTransferStart core cmd) else t)

/-! ## Landing (R308, R309) -/

/-- The collected flags are ORed into the status word by one atomic, if there are any (R308). Every core of the cluster on which a flock may
observe the completion loses its L1 copy of the word, and the die its remote-data cache copy (R96, R308). -/
def State.copyStatus (s : State) (core : Nat) (c : CopyCmd) : Except Nat State :=
  let y := layoutOf c.layoutRec
  let ag : Agent := ⟨c.session, dieOf core, some core⟩
  if y.status = 0 || c.flags = 0 then .ok s
  else match s.checkAccess ag y.status 8 .atomic with
    | .error e => .error e
    | .ok (s, loc) =>
      let home := homeDie loc.pa
      if !s.writeNow ag.die loc.pa then .error notYet
      else
        let s := (s.dropCopies ag loc.pa).dropL1 ag.die (lineOf loc.pa) (BitVec.ofNat 24 (2 ^ clusterOf core))
        let s := ((s.touchL2 ag loc true 8).performAtom .or 8 loc.pa c.flags.toNat 0).1
        .ok (if home = ag.die then s else s.shipNew .ordered ag.session ag.die home)

/-- A word lands: in a scratchpad it is counted on its barrier, which may complete. -/
def State.landWord (s : State) (core : Nat) (c : CopyCmd) (w : CopyWord) : State :=
  match w.loc with
  | some loc => s.engineWrite ⟨c.session, dieOf core, none⟩ loc w.bytes w.poison
  | none => match w.herd.bind s.allotment? with
    | none => s
    | some h =>
      let h := h.writeSpad w.addr w.bytes
      let s := s.setHerd (if w.poison then { h with spadPoison := setAdd (w.addr / 4) h.spadPoison } else h)
      match w.bar with
      | none => s
      | some (b, off) => match s.allotment? b with
        | none => s
        | some h => s.setHerd ((h.setObj off 96 32 ((h.obj off 96 32 + 4) % 2 ^ 32)).tryComplete off)

/-- A command ends: its queue entry is freed and counter S falls. -/
def State.endCmd (s : State) (core : Nat) (c : CopyCmd) : State :=
  (s.onCore core fun k => { k with engine := k.engine.filter fun x => x.id ≠ c.id }).landOp c.flock c.op [] 0 0

/-- One word of a command lands, in an order that is free; before the last, the status word is updated (R307 to R310). -/
def execCopyWordLand (core cmd : Nat) (s : State) : Host.Outcome State Fault Refusal :=
  match s.copyCmd? core cmd with
  | none => .next s
  | some c =>
    let i := Config.laneKey s.ticks cmd % c.words.length
    match c.words[i]? with
    | none => .next s
    | some w =>
      let last := c.words.length = 1 && (layoutOf c.layoutRec).rows ≤ c.row
      if w.loc.any fun l => !s.writeNow (dieOf core) l.pa then .next (s.post (.copyWordLand core cmd))
      else match if last then s.copyStatus core c else .ok s with
      | .error e =>
        .next (if e = notYet then s.post (.copyWordLand core cmd)
          else (s.setCmd core (c.suspend e (layoutOf c.layoutRec).status)).post (.copyFaultSuspend core cmd))
      | .ok s =>
        let s := s.landWord core c w
        if last then .next (s.endCmd core c)
        else
          let c := { c with words := c.words.eraseIdx i }
          let s := s.setCmd core c
          .next (if c.words.isEmpty then s else s.postOnce (.copyWordLand core cmd))

/-- A transfer fault suspends its command, and the core reports it (R309, R456). -/
def execCopyFaultSuspend (core cmd : Nat) (s : State) : Host.Outcome State Fault Refusal :=
  match s.copyCmd? core cmd with
  | none => .next s
  | some c => .next (if c.suspended then s.post (.faultRecordWrite c.report) else s)

end Sys2Proof.Machine
end

