-- ==== Sys2Proof/Machine/Async.lean ====
section
/-!
DEFINITION. Publishing a shadow window, pushing a packet, decrementing a dependence counter and sealing a page (R312 to R315, R317),
each shared by the scalar stream and the queue processor where both have it (R350).
-/
namespace Sys2Proof.Machine

/-! ## Publish (R122, R312) -/

/-- A shadow write into a window that has been issued and is not written. -/
def State.windowBusy (s : State) (session : Nat) (w : Window) : Bool :=
  s.cores.any fun (_, k) =>
    (k.engine.any fun c => c.session = session && cmdGlobal c.kind c.cmd &&
      (c.words.any (fun x => w.holds x.addr) || c.rowsLeft.any fun (va, n) => va < w.base + w.len && w.base < va + n))
    || k.mxq.any fun o => match o.kind with
      | .drain _ lanes => ((s.herd? o.herd).any fun h => h.session = session) && lanes.any fun (_, ls) => ls.any fun l => w.holds l.va
      | _ => false

/-- The address of the level-1 entry that covers an address (R78). -/
def State.level1At (s : State) (session va : Nat) : Except Nat Nat :=
  let step (table level : Nat) : Except Nat Nat :=
    match s.readEntry none (table + 16 * vaIndex va level) with
    | .error c => .error c
    | .ok e => if pteBit e 106 && pteSize e = 3 && pointerOk e then .ok (pteFrame e * 2 ^ 12) else .error 0x05
  match step (s.root session * 2 ^ 12) 3 with
  | .error c => .error c
  | .ok t2 => match step t2 2 with
    | .error c => .error c
    | .ok t1 => .ok (t1 + 16 * vaIndex va 1)

/-- The swap of a window's tables: the level-1 entry takes the SHADOW table, and the descriptor the old LIVE table. -/
def State.swapTables (s : State) (session src : Nat) (w : Window) (at_ : Nat) : State :=
  let e := s.clearNum at_ 16
  let s := s.putNum at_ 16 (withBits e 0 40 w.shadow)
  (s.setCtx session (windowBit w.index 128) 40 (pteFrame e)).tlbTell session src none

/-- The window of a publish and the place of its mapping, or the cause that stops it. -/
def State.publishTarget (s : State) (session va : Nat) : Except Nat (Window × Nat) :=
  match s.windowOf session va with
  | none => .error 0x05
  | some w => match s.level1At session va with
    | .error c => .error c
    | .ok a => .ok (w, a)

/-- `s.publish`: it waits for the window's shadow writes and as a fence at system scope, swaps, and acquires. -/
def execSPublish (a : BitVec 6) (s : State) : Host.Outcome State Fault Refusal :=
  runScalar (fun s f => do
    f.useS [a]
    let session := (s.herdOf f).session
    let va := (f.rs a).toNat
    match s.publishTarget session va with
    | .error c => .error (.trap (addrTrap c va 0 .write))
    | .ok (w, at_) => do
      waitUnless (!s.windowBusy session w && s.releaseReady f .sy)
      let s := (s.swapTables session (dieOf f.core) w at_).applyAcquire f.core session .sy
      .ok (s.onFlock f.uid Flock.advance)) s

/-! ## Queues (R313, R346) -/

/-- Fields of a queue descriptor: BASE, SIZELOG, QNUM, PRIV, WRITEIDX, READIDX, and its reserved bits. -/
structure QueueDesc where
  base : Nat
  sizelog : Nat
  qnum : Nat
  priv : Bool
  write : Nat
  read : Nat
  reserved : Bool
deriving DecidableEq, Repr

/-- The descriptor that 64 bytes hold. -/
def queueDesc (v : Nat) : QueueDesc :=
  ⟨bitsAt v 0 64, bitsAt v 64 5, bitsAt v 69 3, bitsAt v 72 1 = 1, bitsAt v 128 64, bitsAt v 192 64,
   bitsAt v 73 55 ≠ 0 || bitsAt v 256 256 ≠ 0⟩

/-- Virtual address of slot `w`. -/
def QueueDesc.slot (d : QueueDesc) (w : Nat) : Nat := (d.base + 64 * (w % 2 ^ d.sizelog)) % 2 ^ 64

/-- A slot is free for a writer. -/
def QueueDesc.free (d : QueueDesc) (w : Nat) : Bool := (w + 2 ^ 64 - d.read) % 2 ^ 64 < 2 ^ d.sizelog

/-- Parity of slot `w`. -/
def QueueDesc.parity (d : QueueDesc) (w : Nat) : Nat := w / 2 ^ d.sizelog % 2

/-- The descriptor at an address as an agent reads it at its home, with its location. -/
def State.readQueue (s : State) (ag : Agent) (va : Nat) : Except Nat (State × Loc × QueueDesc) :=
  match s.translate ag va .write with
  | .error c => .error c
  | .ok (s, loc) =>
    if !(s.die (homeDie loc.pa)).live || s.memPoisoned loc.pa 64 then .error 0x17
    else .ok (s, loc, queueDesc (Memory.read s.mem loc.pa 64))

/-- What `s.qpush` checks before its claim: the packet image, the descriptor, and the slot page (R317, R421). It gives their places, and asks
for no alignment of the descriptor (log entry 80). -/
def State.pushChecks (s : State) (f : Flock) (sq spk : Nat) : Res (State × Loc × QueueDesc × Loc × List Byte) :=
  let ag := s.agentOf f
  if spk % 64 ≠ 0 then spadFault spk .read
  else match s.spadRun (s.herdOf f) spk 64 with
    | none => spadFault spk .read
    | some (h, off) =>
      if h.spadPoisoned off 64 then .error (.trap (addrTrap 0x17 spk 0 .read))
      else match s.readQueue ag sq with
        | .error c => .error (addrStop c sq 0 .atomic)
        | .ok (s, loc, q) =>
          match s.translate ag (q.slot q.write) .write with
          | .error c => .error (addrStop c (q.slot q.write) 0 .write)
          | .ok (s, slot) => .ok (s, loc, q, slot, Memory.bytes h.spad off 64)

/-- The key of a flock's claim at its scalar program counter. -/
def Flock.claimKey (f : Flock) : Nat := 2 * f.spc + if f.hmode then 1 else 0

/-- The claim of `s.qpush`: the write index rises by 1 at system scope, and the old value goes to the destination. -/
def State.claimSlot (s : State) (f : Flock) (d : BitVec 6) (sq spk : Nat) : Res State := do
  let (s, loc, q, slot, image) ← s.pushChecks f sq spk
  let ag := s.agentOf f
  waitUnless (s.releaseReady f .sy && s.reachNow ag loc.pa)
  let s := ((s.dropCopies ag (loc.pa + 16)).touchL2 ag { loc with pa := loc.pa + 16 } true 8).performWrite (loc.pa + 16) (bytesOf 8 (q.write + 1))
  let s := if homeDie loc.pa = ag.die then s else s.shipNew .ordered ag.session ag.die (homeDie loc.pa)
  let s := s.beginOp f.uid f.spc none [{ scalarPiece d.toNat with value := some (BitVec.ofNat 64 q.write) }] 0 none
  .ok (s.onFlock f.uid fun f => { f with claims := SMap.insert f.claims f.claimKey ⟨q.write, loc, slot, image, false⟩ })

/-- The descriptor of a claim, as it now reads. -/
def State.claimQueue (s : State) (c : Claim) : QueueDesc := queueDesc (Memory.read (s.rekey c.queue).mem c.queue.pa 64)

/-- The packet is written into a claimed slot once it is free, its header last. What it needs was checked before the claim, so that it meets
no trap (R317). -/
def State.writePacket (s : State) (f : Flock) (c : Claim) : Res State := do
  let q := s.claimQueue c
  let ag := s.agentOf f
  waitUnless (s.reachNow ag c.queue.pa && q.free c.slot && s.releaseReady f .sy)
  let header := withBits (ofBytes (c.image.take 8)) 8 1 (q.parity c.slot)
  let s := (s.rekey c.place).storePart ag { c.place with pa := c.place.pa + 8, va := c.place.va + 8 } (c.image.drop 8)
  let s := s.storePart ag c.place (bytesOf 8 header)
  .ok (s.onFlock f.uid fun f => { f with claims := SMap.insert f.claims f.claimKey { c with written := true } })

/-- `s.qpush` (R313). The claim is made once; while the queue is full, and until the header is performed, the instruction waits and
the flock remembers its slot. The doorbell rings last. -/
def execSQpush (d a b : BitVec 6) (s : State) : Host.Outcome State Fault Refusal :=
  runScalar (fun s f =>
    match SMap.get? f.claims f.claimKey with
    | none => do
      f.useS [a, b]
      f.defS d
      s.claimSlot f d (f.rs a).toNat (f.rs b).toNat
    | some c =>
      if !c.written then s.writePacket f c
      else do
        waitUnless (s.releaseReady f .sy)
        let session := (s.herdOf f).session
        let s := s.post (.doorbellWrite (64 * (8 * session + (s.claimQueue c).qnum)) (BitVec.ofNat 64 (c.slot + 1)))
        .ok (s.onFlock f.uid fun f => { f.advance.fence with claims := SMap.erase f.claims f.claimKey })) s

/-! ## Dependence counters and seals (R314, R315) -/

/-- `s.dep.dec` (R314): the decrement goes to the scheduler of the named die, on behalf of the flock's session. -/
def execSDepDec (a b : BitVec 6) (s : State) : Host.Outcome State Fault Refusal :=
  runScalar (fun s f => do
    f.useS [a, b]
    let n := bitsAt (f.rs b).toNat 0 16
    trapUnless (n != 0) 0x02
    waitUnless (s.releaseReady f .sy)
    let s := s.post (.depCounterDecrement (bitsAt (f.rs a).toNat 16 2) (bitsAt (f.rs a).toNat 0 16) n (s.herdOf f).session)
    .ok (s.onFlock f.uid Flock.advance)) s

/-- The entry of a page that may be sealed, or the cause that refuses it (R315). -/
def State.sealTarget (s : State) (session va : Nat) : Except Nat (Nat × Nat) :=
  if 2 ^ 48 ≤ va then .error 0x05
  else match s.walk session va with
    | .error c => .error c
    | .ok (pa, e) =>
      if pteSize e ≠ 0 || !pteBit e 107 || pteBit e 108 || pteBit e 109 || pteBit e 110 then .error 0x0E else .ok (pa, e)

/-- A page is sealed at a die: SEALED and COW are set, its TLB copies go, and it is sent to its home die to be digested (R315, R380, R391). -/
def State.sealPage (s : State) (session src va pa e : Nat) : State :=
  let s := (s.putNum pa 16 (withBits (withBits e 108 1 1) 109 1 1)).tlbTell session src (some va)
  let id := s.nextUid
  ((s.post (.sealDigest ⟨id, session, pa, pteFrame e, pteKey e⟩)).bumpUid).ship .control id session src (homeDie (pteFrame e * 4096))

/-- `s.pseal` (R315). -/
def execSPseal (a : BitVec 6) (s : State) : Host.Outcome State Fault Refusal :=
  runScalar (fun s f => do
    f.useS [a]
    let session := (s.herdOf f).session
    let va := (f.rs a).toNat
    match s.sealTarget session va with
    | .error c => if c = 0x0E then traps 0x0E va else .error (.trap (addrTrap c va 0 .write))
    | .ok (pa, e) => do
      waitUnless (s.releaseReady f .sy)
      .ok ((s.sealPage session (dieOf f.core) va pa e).onFlock f.uid Flock.advance)) s

end Sys2Proof.Machine
end

