-- ==== Sys2Proof/Machine/Completion.lean ====
section
/-!
DEFINITION. What the device tells system software: completion actions and records (R352, R353, R475, R477), fault records
(R427), paddock reports (R479), graphics reports (R484), and the completion of regions and packets (R356, R429).
-/
namespace Sys2Proof.Machine

/-! ## Accesses of a device agent -/

/-- What a read gives as a number: `notYet` where the fabric cannot serve it at this moment, cause 0x17 for poison or a removed die (R454,
R464). -/
def readResult : Option (State × List Byte × Bool) → Except Nat (State × Nat)
  | none => .error notYet
  | some (s, bs, bad) => if bad then .error 0x17 else .ok (s, ofBytes bs)

/-- Bytes of one line read by a device agent, through its die's caches or over the fabric (R82, R125, R396); `fresh` reads what other agents
write at the home slice itself, beside the remote-data cache. -/
def State.devRead (s : State) (ag : Agent) (va n : Nat) (fresh : Bool := false) : Except Nat (State × Nat) :=
  match s.translate ag va .read with
  | .error c => .error c
  | .ok (s, loc) => readResult (s.readThrough ag (if fresh then { loc with cclass := 2 } else loc) n)

/-- Bytes of one line of module memory read by a device agent at a physical address, under key slot 0, at their home. -/
def State.physRead (s : State) (ag : Agent) (pa n : Nat) : Except Nat (State × Nat) :=
  if !inModule pa then .error 0x05
  else
    let loc := { tableLoc ag.session pa with cclass := 2 }
    readResult ((s.rekey loc).readThrough ag loc n)

/-- The mutable lines of a session's paddock leave the remote-data cache of a device's die, and replies on their way fill none (R88, R109). -/
def State.deviceAcquire (s : State) (ag : Agent) : State :=
  let n := s.paddockOf ag.session
  (s.dropMutable ag.die n).stopFills (fun _ => false) (s.sharesRdc ag.die n)

/-- Bytes read by a device agent as an acquire at system scope (R127): the read is made where it can be served at once, and stands once its die
has caught up with the home; it applies the invalidation of an acquire. None while it has to be made again. -/
def State.devAcquire (s : State) (ag : Agent) (va n : Nat) : Except Nat (State × Option Nat) :=
  match s.translate ag va .read with
  | .error c => .error c
  | .ok (s, loc) =>
    let home := homeDie loc.pa
    if !(s.die home).live || s.memPoisoned loc.pa n then .error 0x17
    else match s.readThrough ag { loc with cclass := 2 } n with
      | none => .ok (s, none)
      | some (t, bs, _) =>
        let (t, ready) := t.catchUp ag.die home (s.netOf ag.session)
        .ok (if ready then (t.deviceAcquire ag, some (ofBytes bs)) else (t, none))

/-- Bytes written by a device agent at their home. -/
def State.devWrite (s : State) (ag : Agent) (va : Nat) (bs : List Byte) : Except Nat State :=
  match s.translate ag va .write with
  | .error c => .error c
  | .ok (s, loc) => if s.writeNow ag.die loc.pa then .ok (s.engineWrite ag loc bs false) else .error notYet

/-! ## Paddock reports (R479) -/

/-- A bit of a paddock's report register is set; a change from 0 to 1 raises the paddock's vector. -/
def State.paddockReport (s : State) (n bit : Nat) : State :=
  let r := s.padrep.getD n 0
  if r.getLsbD bit then s
  else { s with padrep := setNth s.padrep n (r ||| BitVec.ofNat 64 (2 ^ bit)) }.emit (.msiPaddock n)

/-- LASTDOM of a paddock's report register. -/
def State.setLastDom (s : State) (n : Nat) (domain : BitVec 16) : State :=
  { s with padrep := setNth s.padrep n (BitVec.ofNat 64 (withBits (s.padrep.getD n 0).toNat 16 16 domain.toNat)) }

/-! ## Queue processor state (R347, R348) -/

/-- The state of queue `q` of a session. -/
def State.queue (s : State) (session q : Nat) : QState :=
  (s.queues.find? fun x => x.session = session && x.q = q).getD ⟨session, q, 0, false, false, [], [], false, 0, []⟩

/-- The state with a queue's state replaced. -/
def State.setQueue (s : State) (x : QState) : State :=
  { s with queues := x :: s.queues.filter fun y => !(y.session = x.session && y.q = x.q) }

/-! ## Completion records (R352, R353, R475, R477) -/

/-- Address of a session's completion-queue descriptor. -/
def State.cqAddress (s : State) (session : Nat) : Nat := s.ctx session 512 64

/-- A queue descriptor keeps the rules of R346 and R477 for a queue number. -/
def QueueDesc.good (d : QueueDesc) (q : Nat) : Bool := 4 ≤ d.sizelog && d.sizelog ≤ 16 && d.base % 4096 = 0 && d.qnum = q && !d.reserved

/-- The completion-queue descriptor; `notYet` where it cannot be read at this moment, another cause where it is bad (R477). -/
def State.cqDescriptor (s : State) (session die : Nat) : Except Nat (State × QueueDesc) :=
  match s.devRead (deviceAgent session die) (s.cqAddress session) 64 true with
  | .error c => .error c
  | .ok (s, v) => if (queueDesc v).good 0 then .ok (s, queueDesc v) else .error 0x41

/-- A session's completion queue is found bad: its records wait until the descriptor reads good. -/
def State.cqBad (s : State) (session : Nat) : State :=
  let s := s.paddockReport (s.paddockOf session) 6
  if s.cqFault.contains session then s
  else { s with cqFault := setAdd session s.cqFault }.postOnce (.cqDescriptorRetest session)

/-- The sixteen bytes of a record in slot `w`. -/
def recordHigh (r : CompletionRec) (d : QueueDesc) (w : Nat) : Nat :=
  r.typ % 2 ^ 8 + r.status % 2 ^ 8 * 2 ^ 8 + r.die % 4 * 2 ^ 16 + r.qnum % 8 * 2 ^ 18 + d.parity w * 2 ^ 21

/-- A record is written into the slot it has claimed, and its interrupt follows; a full queue makes it wait, and a slot that cannot be written
or holds poison makes the queue bad (R353, R475, R477). -/
def State.writeRecord (s : State) (r : CompletionRec) (d : QueueDesc) (w : Nat) : State :=
  let ag := deviceAgent r.session r.die
  let again (s : State) : State := s.post (.completionQueueReread { r with slot := some w })
  if !d.free w then again s
  else
    let bytes := bytesOf 8 r.tag.toNat ++ bytesOf 8 (recordHigh r d w) ++ List.replicate 48 0
    match s.devRead ag (d.slot w) 64 true with
    | .error c => if c = notYet then again s else again (s.cqBad r.session)
    | .ok (s, _) => match s.devWrite ag (d.slot w) bytes with
      | .error c => if c = notYet then again s else again (s.cqBad r.session)
      | .ok s => if r.interrupt then s.emit (.msiSession r.session) else s

/-- A completion record is due: it claims a slot by an atomic add to WRITEIDX. -/
def execCompletionRecordWrite (r : CompletionRec) (s : State) : Host.Outcome State Fault Refusal :=
  let again (s : State) : State := s.post (.completionRecordWrite r)
  let failed (c : Nat) (s : State) : State := if c = notYet then again s else again (s.cqBad r.session)
  if s.cqFault.contains r.session then .next (again s)
  else match s.cqDescriptor r.session r.die with
    | .error c => .next (failed c s)
    | .ok (s, d) =>
      match s.devWrite (deviceAgent r.session r.die) (s.cqAddress r.session + 16) (bytesOf 8 (d.write + 1)) with
      | .error c => .next (failed c s)
      | .ok s => .next (s.writeRecord r d d.write)

/-- A record that holds a slot reads READIDX again. -/
def execCompletionQueueReread (r : CompletionRec) (s : State) : Host.Outcome State Fault Refusal :=
  let again := s.post (.completionQueueReread r)
  match r.slot with
  | none => .next (s.post (.completionRecordWrite r))
  | some w =>
    if s.cqFault.contains r.session then .next again
    else match s.cqDescriptor r.session r.die with
      | .error c => .next (if c = notYet then again else again.cqBad r.session)
      | .ok (s, d) => .next (s.writeRecord r d w)

/-- The completion-queue descriptor of a session is tested, and tested again from then on: it is found bad, or reads good, which lets waiting
records be written (R477). -/
def execCqDescriptorRetest (session : Nat) (s : State) : Host.Outcome State Fault Refusal :=
  let again (s : State) : State :=
    if s.sessionState session = 0 && !s.cqFault.contains session then s else s.postOnce (.cqDescriptorRetest session)
  match s.cqDescriptor session (s.home session) with
  | .ok (s, _) => .next (again { s with cqFault := setDel session s.cqFault })
  | .error c => .next (again (if c = notYet then s else s.cqBad session))

/-- A record of a queue's packet or report waits: the queue starts no further packet (R475). -/
def State.recordWaits (s : State) (session q : Nat) : Bool :=
  let same (r : CompletionRec) : Bool := r.session = session && r.queue = some q
  s.agenda.any fun e => match e with
    | .completionRecordWrite r => same r
    | .completionQueueReread r => same r
    | _ => false

/-- A report to a session: a record with its interrupt, whatever any CACT says (R427, R429, R476). -/
def State.report (s : State) (session : Nat) (tag : Word64) (typ status die : Nat) (queue : Option Nat) : State :=
  s.post (.completionRecordWrite ⟨session, tag, typ, status, die, queue.getD 0, true, queue, none⟩)

/-! ## Completion actions (R127, R352) -/

/-- A completion action: none, a decrement, a record, or a record with its interrupt. -/
def execCompletionAction (c : Completion) (s : State) : Host.Outcome State Fault Refusal :=
  .next (match c.cact with
    | 0 => s
    | 1 => s.post (.depCounterDecrement c.cdie c.ctr 1 c.session)
    | n => s.post (.completionRecordWrite ⟨c.session, c.tag, c.typ, c.status, c.die, c.queue.getD 0, n = 3, c.queue, none⟩))

/-! ## Packets that complete (R351, R476) -/

/-- A packet leaves the running set of its queue. -/
def State.retirePacket (s : State) (session q slot : Nat) : State :=
  let x := s.queue session q
  (s.setQueue { x with running := x.running.filter (· ≠ slot) }).postOnce (.queueStep session q)

/-- A header field of a packet. -/
def packetField (p : Packet) (lo n : Nat) : Nat := bitsAt (p.words.getD 0 0).toNat lo n

/-- Type of a packet. -/
def packetType (p : Packet) : Nat := packetField p 0 8

/-- A packet completes: it leaves its queue's running set and its completion action follows. -/
def State.packetDone (s : State) (p : Packet) : State :=
  (s.retirePacket p.session p.q p.slot).post (.completionAction
    ⟨p.session, packetField p 16 2, packetField p 18 16, packetField p 34 2, p.words.getD 7 0, packetType p, 0, s.home p.session, some p.q⟩)

/-- A packet fails: its queue stops and one record tells why. A later packet that has been consumed starts after the restart. -/
def State.packetFailed (s : State) (p : Packet) (status : Nat) : State :=
  let reserved := packetType p = 0 || 9 < packetType p
  let s := s.retirePacket p.session p.q p.slot
  let x := s.queue p.session p.q
  (s.setQueue { x with stopped := true, waiting := x.waiting && packetType p ≠ 4 }).report p.session (p.words.getD 7 0) (if reserved then 0x81 else packetType p)
    status (s.home p.session) (some p.q)

/-! ## Regions that complete (R356, R429) -/

/-- Every access and engine write of a region has been performed (R127; log entry 7). -/
def State.regionQuiet (s : State) (r : Region) : Bool :=
  s.netIdle (s.netOf r.session)
    && (s.cores.all fun (_, k) => k.engine.all fun c => c.region ≠ r.uid)
    && s.agenda.all fun e => match e with
      | .graphicsFaultReport _ region _ => region ≠ r.uid
      | _ => true

/-- A region completes once its herds have ended and its writes are performed: its completion action follows, or, for one that was
aborted or lost a herd, a report. A DISPATCH packet completes with it. -/
def execRegionComplete (region : Nat) (s : State) : Host.Outcome State Fault Refusal :=
  match s.region? region with
  | none => .next s
  | some r =>
    if !s.regionDone region then .next s
    else if !s.regionQuiet r then .next (s.postOnce (.regionComplete region))
    else
      let die := if r.origin.isSome then s.home r.session else r.die
      let s := { s with regions := s.regions.filter fun x => x.uid ≠ region }
      let s := if r.status ≠ 0 then s.report r.session r.rcb.tag 0x81 r.status die (r.origin.map (·.1))
        else s.post (.completionAction ⟨r.session, r.rcb.cact, r.rcb.ctr, r.rcb.cdie, r.rcb.tag, 1, 0, die, r.origin.map (·.1)⟩)
      .next (match r.origin with
        | some (q, slot) => s.retirePacket r.session q slot
        | none => s)

/-! ## Fault records (R427) -/

/-- The queue of the DISPATCH that made a held flock's region. -/
def State.queueOfFault (s : State) (r : FaultRecord) : Option Nat :=
  match s.flocks.find? fun f => f.core = r.core && f.slot = r.slot && f.herdid = r.herdid with
  | some f => (s.regionOf (s.herdOf f)).origin.map (·.1)
  | none => none

/-- The 64 bytes of a fault record. -/
def faultRecordBytes (r : FaultRecord) : List Byte :=
  bytesOf 64 (r.tcause.toNat + r.tpc.toNat * 2 ^ 64 + r.taddr.toNat * 2 ^ 128 + r.tinfo.toNat * 2 ^ 192 + r.core % 512 * 2 ^ 256
    + r.slot % 64 * 2 ^ 265 + r.inherd % 16 * 2 ^ 271 + r.domain.toNat * 2 ^ 280 + r.tag.toNat * 2 ^ 320 + r.herdid.toNat * 2 ^ 384)

/-- A record is written to the session's fault ring, which it waits for while the ring is full; WRITE rises, and a report follows. A
ring that cannot be reached takes no record, and the report still follows (log entry 32). -/
def execFaultRecordWrite (r : FaultRecord) (s : State) : Host.Outcome State Fault Refusal :=
  let ag := deviceAgent r.session (dieOf r.core)
  let save := s.ctx r.session 576 64
  let report (s : State) : State :=
    s.report r.session r.tag 0x81 (bitsAt r.tcause.toNat 0 8) (dieOf r.core) (s.queueOfFault r)
  let again (s : State) : State := s.post (.faultRecordWrite r)
  let failed (c : Nat) (s : State) : State := if c = notYet then again s else report s
  match s.devRead ag save 16 true with
  | .error c => .next (failed c s)
  | .ok (s, v) =>
    let w := bitsAt v 0 64
    if 1023 ≤ (w + 2 ^ 64 - bitsAt v 64 64) % 2 ^ 64 then .next (again s)
    else match s.devWrite ag (save + 64 + 64 * (w % 1023)) (faultRecordBytes r) with
      | .error c => .next (failed c s)
      | .ok s => match s.devWrite ag save (bytesOf 8 (w + 1)) with
        | .error c => .next (failed c s)
        | .ok s => .next (report s)

/-! ## Graphics reports (R484) -/

/-- A core reports a sampler or tree fault: the first of each region, and others no sooner than 1,048,576 cycles after its last report
of that kind. -/
def execGraphicsFaultReport (core region : Nat) (tree : Bool) (s : State) : Host.Outcome State Fault Refusal :=
  match s.region? region with
  | none => .next s
  | some r =>
    let k := s.core core
    let now := (s.die (dieOf core)).cycle
    let seen := if tree then k.treeRegions else k.samplerRegions
    let last := if tree then k.lastTreeReport else k.lastSamplerReport
    let early := last.any fun t => (now - t).toNat < 1048576
    if seen.contains region && early then .next s
    else
      let k := if tree then { k with treeRegions := setAdd region seen, lastTreeReport := some now }
        else { k with samplerRegions := setAdd region seen, lastSamplerReport := some now }
      .next ((s.setCore core k).report r.session r.rcb.tag 0x81 (if tree then 0x4B else 0x4A) (dieOf core) (r.origin.map (·.1)))

end Sys2Proof.Machine
end

