-- ==== Sys2Proof/Machine/LaneMatrix.lean ====
section
/-!
DEFINITION. The instructions that reach the matrix engine: reservations and leases of the scalar stream (R279, R281, R298), and
the matrix class of the lane stream (R282 to R295, R300).
-/
namespace Sys2Proof.Machine

/-! ## Reservations (R279, R281) -/

/-- The lowest free handle of a herd. -/
def Herd.freeHandle (h : Herd) : Option Nat := (List.range 16).find? fun k => (SMap.get? h.rsv k).isNone

/-- `s.opb.rsv` (R279). -/
def execSOpbRsv (d a : BitVec 6) (s : State) : Host.Outcome State Fault Refusal :=
  runScalar (fun s f => do
    f.useS [a]
    f.defS d
    let h := s.herdOf f
    let r := f.rs a
    match if recordOk r h.opbSize then h.freeHandle else none with
    | none => traps 0x0F r.toNat
    | some k => .ok ((s.setHerd { h with rsv := SMap.insert h.rsv k r }).setFlock (f.setS d.toNat (BitVec.ofNat 64 k)).advance)) s

/-- `s.opb.rel` (R281). -/
def execSOpbRel (a : BitVec 6) (s : State) : Host.Outcome State Fault Refusal :=
  runScalar (fun s f => do
    f.useS [a]
    let h := s.herdOf f
    let k := bitsAt (f.rs a).toNat 0 4
    trapUnless (SMap.get? h.rsv k).isSome 0x0F (f.rs a).toNat
    waitUnless ((s.core f.core).mxq.all fun o => o.herd ≠ h.uid || !o.handles.contains k)
    .ok ((s.setHerd { h with rsv := SMap.erase h.rsv k }).setFlock f.advance)) s

/-! ## Leases (R298) -/

/-- A herd's next lease on an engine may start: no other herd holds one, and after an earlier lease of its own the engine has
served other herds as R298 asks. A lease of its own that still runs is replaced (log entry 29). -/
def Core.leaseReady (k : Core) (herd : Nat) : Bool :=
  (match k.lease with
    | some (h, _) => h = herd
    | none => true)
  && ((SMap.get? k.leaseDebt herd).isNone || k.mxq.all fun o => o.herd = herd || o.ctx = noCtx)

/-- `s.mx.lease`. -/
def execSMxLease (d a : BitVec 6) (s : State) : Host.Outcome State Fault Refusal :=
  runScalar (fun s f => do
    f.useS [a]
    f.defS d
    let n := (f.rs a).toNat
    trapUnless (1 ≤ n && n ≤ 65536) 0x02
    let h := s.herdOf f
    if !(s.paddock (s.paddockOf h.session)).desc.cls then .ok (s.setFlock (f.setS d.toNat 0).advance)
    else do
      waitUnless ((s.core f.core).leaseReady h.uid)
      let s := s.onCore f.core fun k => { k with lease := some (h.uid, n), leaseDebt := SMap.erase k.leaseDebt h.uid }
      .ok (s.setFlock (f.setS d.toNat (f.rs a)).advance)) s

/-- The core after a herd's lease, if it holds one, has ended. -/
def Core.endLease (k : Core) (herd : Nat) : Core :=
  match k.lease with
  | some (h, _) => if h = herd then { k with lease := none, leaseDebt := SMap.insert k.leaseDebt herd 1024 } else k
  | none => k

/-- `s.mx.yield`. -/
def execSMxYield (s : State) : Host.Outcome State Fault Refusal :=
  runScalar (fun s f => .ok ((s.onCore f.core fun k => k.endLease f.herd).setFlock f.advance)) s

/-! ## Issue of the matrix class -/

/-- The tile that a word names. -/
def tileOf (w : LaneWord) : Nat := w.sub.toNat

/-- The reservation record that a handle names. -/
def State.recordOf (s : State) (f : Flock) (handle : Nat) : Option Word64 := SMap.get? (s.herdOf f).rsv handle

/-- The tiles of the lanes all lie in the bank of tile `t`, which is one of the herd's (R275, R286). -/
def State.tilesOk (s : State) (f : Flock) (t : Nat) (lanes : List Nat) : Bool :=
  t / 8 < (s.herdOf f).ctxs.length && lanes.all fun l => (t + l / 64) / 8 = t / 8

/-- The operand-buffer fault of a lane form (R445): it names the handle, or the offset of a put, and the lowest failing lane. -/
def opbFault {α : Type} (addr lane : Nat) : Res α := traps 0x0F addr lane

/-- The record that a handle names, for a form that needs one. -/
def needRecord (r : Option Word64) (handle lane : Nat) : Res Word64 :=
  match r with
  | some r => .ok r
  | none => opbFault handle lane

/-- Room in a context's queue for `n` operations: it holds at most 16, but an empty queue takes one instruction's passes. -/
def State.mxRoom (s : State) (f : Flock) (ctx n : Nat) : Bool :=
  let held := ((s.core f.core).mxq.filter fun o => o.herd = f.herd && o.ctx = ctx).length
  held = 0 || held + n ≤ 16

/-- An operation of a path for a context queue. -/
def mxOp (f : Flock) (p : Path) (ctx : Nat) (op : Option Nat) (kind : MxKind) : MxOp :=
  ⟨f.herd, ctx, f.uid, f.slot, p.id, p.arm, p.entries.getLast?, p.pc, op, kind⟩

/-- Operations enter the queue of their context once the engine has started and there is room (R25, R276). -/
def State.queueMx (s : State) (f : Flock) (p : Path) (ctx : Nat) (op : Option Nat) (kinds : List MxKind) : Res State := do
  waitUnless ((s.core f.core).engineOn && s.mxRoom f ctx kinds.length)
  let s := s.onCore f.core fun k => { k with mxq := k.mxq ++ kinds.map (mxOp f p ctx op) }
  .ok (kinds.foldl (fun s _ => s.post (.matrixEngineOperation f.core)) s)

/-- The herd of a flock with the formats that its planes have at issue changed (R288). -/
def State.onIssueFmt (s : State) (f : Flock) (ctx : Nat) (g : Ctx → Ctx) : State :=
  let h := s.herdOf f
  s.setHerd (h.setCtx ctx (g (h.ctx ctx)))

/-- The bank of a plane instruction, if it is one of the herd's. -/
def planeBank (w : LaneWord) : Nat := bitsAt w.imm.toNat 4 1

/-- `v.mx.lds` (R284). -/
def execVMxLds (w : LaneWord) (s : State) : Host.Outcome State Fault Refusal :=
  runConfirmed (fun s f p => do
    let handle := bitsAt w.imm.toNat 0 4
    let bank := planeBank w
    let first := (p.mask.lanes f.lanes).take 1
    trapUnless (192 ≤ w.sa.toNat && bank < (s.herdOf f).ctxs.length) 0x02
    checkOperands f p w first [srcA w] []
    let lane := first.headD 0
    let r ← needRecord (s.recordOf f handle) handle lane
    let srow := bitsAt (f.read32 w (srcA w) lane).toNat 0 16
    if mxClass (recordFmt r).fmt = 4 || !rowInside r (srow + 63) then opbFault handle lane
    else do
      let s ← s.queueMx f p bank none [.lds handle srow]
      .ok ((s.onIssueFmt f bank fun x => { x with issueShadow := recordFmt r }).retireFence f.uid p.id)) s

/-- `v.mx.swap` (R285). -/
def execVMxSwap (w : LaneWord) (s : State) : Host.Outcome State Fault Refusal :=
  runConfirmed (fun s f p => do
    let bank := planeBank w
    trapUnless (bank < (s.herdOf f).ctxs.length) 0x02
    let s ← s.queueMx f p bank none [.swap]
    .ok ((s.onIssueFmt f bank fun x => { x with issueActive := x.issueShadow, issueShadow := x.issueActive }).retireFence f.uid p.id)) s

/-- `.sat` asks for an integer plane (R288). -/
def State.satOk (s : State) (f : Flock) (ctx : Nat) (sat : Bool) : Bool := !sat || mxClass ((s.herdOf f).ctx ctx).issueActive.fmt = 2

/-- The class of the plane that an A row meets, and what `.sat` needs (R288). -/
def State.planeAccepts (s : State) (f : Flock) (ctx aFmt : Nat) (sat : Bool) : Bool :=
  let b := ((s.herdOf f).ctx ctx).issueActive.fmt
  mxClass aFmt ≠ 4 && mxClass aFmt = mxClass b && s.satOk f ctx sat

/-- The lowest lane of the lowest quarter of eight that only part of the executing lanes fill (R287). -/
def partialQuarter (lanes : List Nat) : Option Nat :=
  lanes.find? fun l => !(List.range 8).all fun i => lanes.contains (l / 8 * 8 + i)

/-- The lanes of each mask word that has any: the passes of an instruction (R31, R287). -/
def passes (lanes : List Nat) : List (List Nat) :=
  ((List.range 32).map fun k => lanes.filter fun l => l / 32 = k).filter (· != [])

/-- `.pad`, `.sat` and the format code of a `v.mx.mma`. -/
def mmaPad (w : LaneWord) : Bool := w.imm.getLsbD 9
/-- `.sat`. -/
def mmaSat (w : LaneWord) : Bool := w.imm.getLsbD 10

/-- The partial-quarter check, and the passes queued. -/
def State.mmaIssue (s : State) (f : Flock) (p : Path) (w : LaneWord) (lanes : List Nat) (kind : List Nat → MxKind) : Res State := do
  match if mmaPad w then none else partialQuarter lanes with
  | some l => traps 0x10 0 l
  | none =>
    let s ← s.queueMx f p (tileOf w / 8) none ((passes lanes).map kind)
    .ok (s.retireFence f.uid p.id)

/-- The A row that sixteen registers of a lane hold (R286). -/
def Flock.rowBytes (f : Flock) (w : LaneWord) (l : Nat) : List Byte :=
  (List.range 16).flatMap fun i => bytesOf 4 (f.vreg (w.sa.toNat + i) l).toNat

/-- `v.mx.mma.rf` (R286). -/
def execVMxMmaRf (w : LaneWord) (s : State) : Host.Outcome State Fault Refusal :=
  runConfirmed (fun s f p => do
    let lanes := laneList f p w
    let fmt := bitsAt w.imm.toNat 5 4
    let t := tileOf w
    trapUnless (s.tilesOk f t lanes && w.sa.toNat < 192 && s.planeAccepts f (t / 8) fmt (mmaSat w)) 0x02
    checkOperands f p w lanes [srcA w 16] []
    s.mmaIssue f p w lanes fun ls => .mmaRf t fmt (mmaSat w) (ls.map fun l => (l, f.rowBytes w l))) s

/-- `v.mx.mma.opb` (R286). A handle that names no reservation is met at stage 5. -/
def execVMxMmaOpb (w : LaneWord) (s : State) : Host.Outcome State Fault Refusal :=
  runConfirmed (fun s f p => do
    let lanes := laneList f p w
    let handle := bitsAt w.imm.toNat 1 4
    let t := tileOf w
    let rec? := s.recordOf f handle
    trapUnless (s.tilesOk f t lanes && s.satOk f (t / 8) (mmaSat w) && rec?.all fun r => s.planeAccepts f (t / 8) (recordFmt r).fmt (mmaSat w)) 0x02
    checkOperands f p w lanes [srcA w] []
    let row (l : Nat) : Nat := bitsAt (f.read32 w (srcA w) l).toNat 0 16
    match lanes.find? fun l => !rec?.any fun r => rowInside r (row l) with
    | some l => opbFault handle l
    | none => s.mmaIssue f p w lanes fun ls => .mmaOpb t handle (mmaSat w) (ls.map fun l => (l, row l))) s

/-! ## Accumulator transfers (R289 to R291) -/

/-- The tiles that an operation works on. -/
def MxOp.tiles (o : MxOp) : List Nat :=
  let of (t : Nat) (lanes : List Nat) : List Nat := (lanes.map fun l => t + l / 64).eraseDups
  match o.kind with
  | .mmaRf t _ _ rows => of t (rows.map (·.1))
  | .mmaOpb t _ _ rows => of t (rows.map (·.1))
  | .accLd t _ _ vals => of t (vals.map (·.1))
  | .accMov t _ _ lanes => of t lanes
  | .accZero t => [t]
  | .drain d lanes => of d.tile (lanes.map (·.1))
  | _ => []

/-- The operation comes from another flock, or from the flock's other top arm (R291). -/
def MxOp.other (o : MxOp) (f : Flock) (p : Path) : Bool :=
  o.flock ≠ f.uid || (o.arm ≠ p.arm && o.top.isSome && o.top = p.entries.getLast?)

/-- An accumulator instruction on tiles: it traps while another path's operation is in flight on one of them, and waits for those of its
own path. The trap names the lowest such tile and the oldest operation in flight on it (R291, R421, R432). -/
def State.tilesFree (s : State) (f : Flock) (p : Path) (tiles : List Nat) : Res Unit :=
  let here := (s.core f.core).mxq.filter fun o => o.herd = f.herd && o.tiles.any tiles.contains
  let on (t : Nat) : List MxOp := here.filter fun o => o.tiles.contains t
  match (List.range 16).find? fun t => tiles.contains t && (on t).any (·.other f p) with
  | some t => match on t with
    | o :: _ => traps 0x11 0 (t + o.slot * 2 ^ 4 + (if o.flock = f.uid && o.other f p then 2 ^ 10 else 0) + o.lidx * 2 ^ 11)
    | [] => .ok ()
  | none => waitUnless here.isEmpty

/-- First column and word count of an accumulator form. -/
def accC0 (w : LaneWord) : Nat := bitsAt w.imm.toNat 0 6
/-- Words of each lane. -/
def accN (w : LaneWord) : Nat := bitsAt w.imm.toNat 6 4 + 1

/-- The tiles of the executing lanes. -/
def laneTiles (t : Nat) (lanes : List Nat) : List Nat := (lanes.map fun l => t + l / 64).eraseDups

/-- The registers that a transfer fills, in lane and register order. -/
def accPieces (w : LaneWord) (n : Nat) (lanes : List Nat) : List Piece :=
  lanes.flatMap fun l => (List.range n).map fun i => lanePiece (w.dest.toNat + i) l false

/-- An accumulator operation on counter M is queued; one with no lane has nothing to do. -/
def State.accIssue (s : State) (f : Flock) (p : Path) (ctx : Nat) (lanes : List Nat) (pieces : List Piece) (kind : MxKind) : Res State := do
  waitUnless (f.counterRoom .m)
  let some_ := !lanes.isEmpty
  let s ← s.queueMx f p ctx (some f.nextId) (if some_ then [kind] else [])
  .ok (s.beginOp f.uid p.pc (some .m) pieces (if some_ then 1 else 0) none)

/-- `v.acc.ld` (R289): the registers that it fills are also its sources. -/
def execVAccLd (w : LaneWord) (s : State) : Host.Outcome State Fault Refusal :=
  runConfirmed (fun s f p => do
    let lanes := laneList f p w
    let t := tileOf w
    let n := accN w
    let vd : Src := ⟨w.dest, 3, 0, n, 1⟩
    trapUnless (s.tilesOk f t lanes && accC0 w + n ≤ 64 && w.dest.toNat < 192) 0x02
    checkOperands f p w lanes [vd] [dst w n 1]
    s.tilesFree f p (laneTiles t lanes)
    let vals := lanes.map fun l => (l, (List.range n).map fun i => f.vreg (w.dest.toNat + i) l)
    let s ← s.accIssue f p (t / 8) lanes (accPieces w n lanes) (.accLd t (accC0 w) n vals)
    .ok (s.retireFence f.uid p.id)) s

/-- `v.acc.mov` (R289). -/
def execVAccMov (w : LaneWord) (s : State) : Host.Outcome State Fault Refusal :=
  runConfirmed (fun s f p => do
    let lanes := laneList f p w
    let t := tileOf w
    let n := accN w
    trapUnless (s.tilesOk f t lanes && accC0 w + n ≤ 64) 0x02
    checkOperands f p w lanes [] [dst w n 1]
    s.tilesFree f p (laneTiles t lanes)
    let s ← s.accIssue f p (t / 8) lanes (accPieces w n lanes) (.accMov t (accC0 w) n lanes)
    .ok (s.retirePath f.uid p.id)) s

/-- `v.acc.zero` (R290). -/
def execVAccZero (w : LaneWord) (s : State) : Host.Outcome State Fault Refusal :=
  runConfirmed (fun s f p => do
    let t := tileOf w
    trapUnless (s.tilesOk f t []) 0x02
    s.tilesFree f p [t]
    let s ← s.queueMx f p (t / 8) none [.accZero t]
    .ok (s.retireFence f.uid p.id)) s

/-! ## The drain (R292 to R294) -/

/-- The fields of a drain word, with the zero point it reads. -/
def drainOf (w : LaneWord) (zp : Int) : Drain :=
  let i := w.imm.toNat
  { tile := tileOf w, c0 := accC0 w, n := accN w, zp := zp, handle := if bitsAt i 14 1 = 1 then some (bitsAt i 10 4) else none,
    sh := bitsAt i 16 6, sat := bitsAt i 23 1 = 1, target := bitsAt i 24 4, global := bitsAt i 15 1 = 1 }

/-- The drain field rules of R292 and R293. -/
def drainOk (w : LaneWord) : Bool :=
  let d := drainOf w 0
  192 ≤ w.sb.toNat && (d.target ≤ 4 || (8 ≤ d.target && d.target ≤ 13))
    && (if 8 ≤ d.target then !d.sat else d.sh = 0 && w.sb = 192)
    && d.c0 + 4 * d.n / targetBytes d.target ≤ 64

/-- The multipliers of a drain (R293). -/
def State.drainMultipliers (s : State) (f : Flock) (d : Drain) (lane : Nat) : Res Unit :=
  match d.handle with
  | none => .ok ()
  | some h =>
    match s.recordOf f h with
    | some r => if (recordFmt r).fmt = (if 8 ≤ d.target then 12 else 0) then .ok () else opbFault h lane
    | none => opbFault h lane

/-- The locations of `n` consecutive words of one lane's output; of failing words, the earliest check (R442). -/
def State.laneWords (s : State) (session va n : Nat) : Except Nat (List Loc) :=
  let words := (List.range n).map fun i => (va + 4 * i, s.shadowLoc session (va + 4 * i))
  match firstFailure (words.filterMap fun (a, r) => match r with
    | .error c => some (c, a)
    | .ok _ => none) with
  | some (c, _) => .error c
  | none => .ok (words.filterMap fun (_, r) => r.toOption)

/-- Every lane's shadow addresses are checked; the lowest failing lane traps (R294). -/
def State.drainLocs (s : State) (f : Flock) (w : LaneWord) (n : Nat) : List Nat → Res (List (Nat × List Loc))
  | [] => .ok []
  | l :: r =>
    let va := (f.read64 w (addrPair w) l).toNat
    if va % 4 ≠ 0 then .error (.trap (addrTrap 4 va l .write))
    else match s.laneWords (s.herdOf f).session va n with
      | .error c => .error (addrStop c va l .write)
      | .ok locs => do .ok ((l, locs) :: (← s.drainLocs f w n r))

/-- The zero point that a drain reads, and the checks of stages 2 and 3 (R292, R300). -/
def drainChecks (s : State) (f : Flock) (p : Path) (w : LaneWord) (lanes : List Nat) (srcs : List Src) (dsts : List Dst) : Res Drain := do
  trapUnless (s.tilesOk f (tileOf w) lanes && drainOk w) 0x02
  checkOperands f p w lanes (srcs ++ [srcB w]) dsts
  .ok (drainOf w (f.read32 w (srcB w) (lanes.headD 0)).toInt)

/-- `v.acc.drain` into registers. -/
def execVAccDrain (w : LaneWord) (s : State) : Host.Outcome State Fault Refusal :=
  runConfirmed (fun s f p => do
    let lanes := laneList f p w
    let d ← drainChecks s f p w lanes [] [dst w (accN w) 1]
    if lanes.isEmpty then .ok () else s.drainMultipliers f d (lanes.headD 0)
    s.tilesFree f p (laneTiles d.tile lanes)
    let s ← s.accIssue f p (d.tile / 8) lanes (accPieces w d.n lanes) (.drain d (lanes.map fun l => (l, [])))
    .ok (s.retirePath f.uid p.id)) s

/-- `v.acc.drain` into a shadow window. Every access before it has been performed (R121). -/
def execVAccDrainG (w : LaneWord) (s : State) : Host.Outcome State Fault Refusal :=
  runConfirmed (fun s f p => do
    let lanes := laneList f p w
    let d ← drainChecks s f p w lanes [addrPair w] []
    let locs ← s.drainLocs f w d.n lanes
    if lanes.isEmpty then .ok () else s.drainMultipliers f d (lanes.headD 0)
    s.tilesFree f p (laneTiles d.tile lanes)
    waitUnless (s.releaseReady f .mo)
    let s ← s.accIssue f p (d.tile / 8) lanes [] (.drain d locs)
    .ok (s.retireFence f.uid p.id)) s

/-! ## Writing the operand buffer (R282) -/

/-- `v.opb.put`. The operation is queued with the herd's first context, and that of a herd with `.acc 0`, which has none, in a queue of its own,
which takes its turn like a context's and counts toward no lease (R282 and R298 name no queue for it: DESIGN CHOICE, log entry 29). -/
def execVOpbPut (w : LaneWord) (s : State) : Host.Outcome State Fault Refusal :=
  runConfirmed (fun s f p => do
    let lanes := laneList f p w
    let handle := bitsAt w.imm.toNat 0 4
    let n := bitsAt w.imm.toNat 4 4 + 1
    trapUnless (w.sa.toNat < 192) 0x02
    checkOperands f p w lanes [srcA w n, srcB w] []
    let off (l : Nat) : Nat := (f.read32 w (srcB w) l).toNat + bitsAt w.imm.toNat 8 16
    let fits (r : Word64) (l : Nat) : Bool := off l % 4 = 0 && off l + 4 * n ≤ recordLen r
    match lanes.find? fun l => !(s.recordOf f handle).any fun r => fits r l with
    | some l => opbFault (off l) l
    | none =>
      let rows := lanes.map fun l => (off l, (List.range n).flatMap fun i => bytesOf 4 (f.vreg (w.sa.toNat + i) l).toNat)
      let ctx := if (s.herdOf f).ctxs.isEmpty then noCtx else 0
      let s ← s.queueMx f p ctx none (if lanes.isEmpty then [] else [.put handle rows])
      .ok (s.retireFence f.uid p.id)) s

end Sys2Proof.Machine
end

