-- ==== Sys2Proof/Machine/LaneFlow.lean ====
section
/-!
DEFINITION. Control instructions of the lane stream: blocks, markers and system forms (R67, R260, R272), branches and
reconvergence (R261 to R265), exits (R271), and the events that resolve a predicted branch and end a wait (R53, R265).
-/
namespace Sys2Proof.Machine

/-! ## Moving a path -/

/-- The flock with a path sent to a lane index; the issue is over (R425). -/
def Flock.goTo (f : Flock) (pid pc : Nat) : Flock :=
  { f with block1 := f.block1.filter (· ≠ pid),
           paths := f.paths.map fun p => if p.id = pid then { p with pc := pc, heldFault := none } else p }

/-- The path is a predicted arm that stands at its own branch's reconvergence point, where it waits for the branch to resolve: until then it is
not known whether an entry with that point is open (R264). -/
def Flock.atOwnPoint (f : Flock) (p : Path) : Bool := f.branches.any fun b => p.guess.any (fun u => u.branch = b.path.id) && b.point = p.pc

/-- The innermost open entry of a path. -/
def Flock.innermost (f : Flock) (p : Path) : Option Entry := p.entries.head?.bind f.entry?

/-- Two top arms are live: the outermost entry is open, and each of its arms has lanes (R28, R50). -/
def Flock.twoArms (f : Flock) : Bool :=
  f.entries.any (·.outermost) && f.paths.any (fun p => p.arm = 0 && p.mask ≠ 0) && f.paths.any fun p => p.arm = 1 && p.mask ≠ 0

/-- The path is the only one of its flock that executes: two top arms are not live, and every other path waits at a point, behind a
sibling or at the block's end (R67). -/
def Flock.alone (f : Flock) (pid : Nat) : Bool :=
  !f.twoArms && f.paths.all fun p => p.id = pid || p.status = .arrived || p.status = .pending || p.status = .stopped

/-! ## Markers (R67, R187, R435) -/

/-- An entry of a region's recipe table: its live masks, the index of its first recipe instruction and their number. -/
structure RecipeEntry where
  live : BitVec 192
  liveQ : BitVec 15
  first : Nat
  count : Nat
deriving DecidableEq, Repr

/-- The 48 bytes of a recipe entry (R187). No rule says what becomes of an entry whose zero fields, bit 15 of the q mask and bytes [47:31], are not
zero: they are ignored (DESIGN CHOICE, log entry 113). -/
def recipeEntryOf (bs : List Byte) : RecipeEntry :=
  ⟨BitVec.ofNat 192 (ofBytes (bs.take 24)), BitVec.ofNat 15 (ofBytes ((bs.drop 24).take 2)), ofBytes ((bs.drop 26).take 4),
   ofBytes ((bs.drop 30).take 1)⟩

/-- Entry `i` of the recipe table, if it is one (R435). One whose page no longer translates or holds poison is none: its marker records no
point and takes no trap (DESIGN CHOICE, log entry 27). -/
def State.recipeEntry (s : State) (f : Flock) (i : Nat) : Res (Option RecipeEntry) :=
  let rcb := (s.regionOf (s.herdOf f)).rcb
  if rcb.rcount ≤ i then .ok none
  else match s.fetchItem f (rcb.recipe + 48 * i) 48 with
    | .error (.wait e) => .error (.wait e)
    | .error (.trap _) => .ok none
    | .ok (_, bs) =>
      let e := recipeEntryOf bs
      .ok (if e.count ≤ 16 && decide (e.live.toNat < 2 ^ f.regs) then some e else none)

/-- `v.nop` (R272). -/
def execVNop (_w : LaneWord) (s : State) : Host.Outcome State Fault Refusal :=
  runLane (fun s f p => .ok (s.setFlock (f.retire p.id))) s

/-- The flashback marker (R67, R435): while two top arms are live it records nothing, and a bad entry leaves no point (log entry
27). -/
def execVNopMarker (w : LaneWord) (s : State) : Host.Outcome State Fault Refusal :=
  runConfirmed (fun s f p => do
    let g := f.retire p.id
    let point : Option FlashPoint := (← s.recipeEntry f w.imm.toNat).map fun e =>
      ⟨p.pc, e.live, e.liveQ, e.first, e.count, p.mask, f.entries.length, f.primary, f.second, f.fpmode, f.last, f.nextId⟩
    .ok (s.setFlock (if f.alone p.id then { g with point := point } else g))) s

/-! ## Blocks and system forms (R260, R272) -/

/-- A block header that a path issues does nothing: its checks are those of a block's start (R175, R202). -/
def execVBlk (_w : LaneWord) (s : State) : Host.Outcome State Fault Refusal :=
  runLane (fun s f p => .ok (s.setFlock (f.retire p.id))) s

/-- The registers in which a call flock's path returns results are full (R62). -/
def Flock.resultsFull (f : Flock) (p : Path) : Bool :=
  ((f.call.getD []).filter fun x => p.mask.has x.lane).all fun x => (List.range x.results).all fun i => f.vFull i x.lane

/-- `v.lstop` (R260): the path waits for the block's other paths. Lanes of a call flock that reach it return as at a `v.ret.rg`, once what
they have accessed precedes what their callers do next (R118, R268). -/
def execVLstop (_w : LaneWord) (s : State) : Host.Outcome State Fault Refusal :=
  runConfirmed (fun s f p => do
    if f.call.isSome then
      if !f.resultsFull p then waitsEmpty
      waitUnless (s.handsOver f)
      let s := s.returnLanes f.uid p.mask true
      match s.flock? f.uid with
      | none => .ok s
      | some f => .ok (s.settleFlow f.fence)
    else
      .ok (s.settleFlow ((f.goTo p.id p.pc).setPath { p with status := .stopped }))) s

/-- `v.trap` (R272). -/
def execVTrap (w : LaneWord) (s : State) : Host.Outcome State Fault Refusal :=
  runLane (fun s f p =>
    if execMask f p w = 0 then .ok (s.setFlock (f.retire p.id)) else traps 0x14 0 (bitsAt w.imm.toNat 0 14)) s

/-- `v.brk` (R272). -/
def execVBrk (w : LaneWord) (s : State) : Host.Outcome State Fault Refusal :=
  runLane (fun s f p =>
    if execMask f p w = 0 then .ok (s.setFlock (f.retire p.id)) else traps 0x15) s

/-! ## Branches (R48, R59, R261 to R263, R433, R446) -/

/-- Target lane index of a branch or a call. -/
def laneTarget (w : LaneWord) : Nat := bitsAt w.imm.toNat 0 26

/-- Reconvergence index of a `v.br`: bits [42:17] of the word. -/
def branchPoint (w : LaneWord) : Nat := w.dest.toNat + w.sa.toNat * 2 ^ 8 + w.sb.toNat * 2 ^ 16 + w.sc.toNat % 4 * 2 ^ 24

/-- The instruction at a reconvergence index: whether it is a `v.reconv.w`; none if it is neither reconvergence form. -/
def State.pointKind (s : State) (f : Flock) (index : Nat) : Res (Option Bool) :=
  if s.llen f ≤ index then .ok none
  else match s.fetchLaneAt f index with
    | .error x => .error x
    | .ok (_, .vReconv _) => .ok (some false)
    | .ok (_, .vReconvW _) => .ok (some true)
    | .ok _ => .ok none

/-- `v.bru` (R263): the lowest lane of Active decides for the whole path. -/
def execVBru (w : LaneWord) (s : State) : Host.Outcome State Fault Refusal :=
  runLane (fun s f p => do
    waitUnless (w.pred = 15 || p.guess.isNone)
    trapUnless (laneTarget w < s.llen f) 0x0A (laneTarget w)
    let taken := w.pred = 15 || (match (p.mask.lanes f.lanes).head? with
      | some l => (execMask f p w).has l
      | none => false)
    .ok (s.setFlock (f.goTo p.id (if taken then laneTarget w else p.pc + 1)))) s

/-! ## Reconvergence (R51, R52, R264, R265) -/

/-- `v.reconv`: an arrival at the innermost entry of its path, else a no-operation. -/
def execVReconv (_w : LaneWord) (s : State) : Host.Outcome State Fault Refusal :=
  runLane (fun s f p => do
    waitUnless (!f.atOwnPoint p)
    match f.innermost p with
    | some e =>
      if e.rpoint = p.pc then do
        p.mustConfirm
        .ok (s.settleFlow ((f.goTo p.id p.pc).setPath { p with status := .arrived, heldFault := none }))
      else .ok (s.setFlock (f.retire p.id))
    | none => .ok (s.setFlock (f.retire p.id))) s

/-- A path at a `v.reconv.w` (R52, R265): the first arrival starts the entry's time; a timeout of 0 expires with it unless it completes
the entry. An arrival after the time has passed, or on an entry that has timed out here, goes on at once with its predicate set. Off
its path's point the instruction does nothing (log entry 28). -/
def State.reconvWait (s : State) (f : Flock) (p : Path) (w : LaneWord) : Res State :=
  let qd := qDest w
  let now := (s.die (dieOf f.core)).cycle
  let alone (g : Flock) : Flock := (g.setQ qd p.mask p.mask).retire p.id
  match f.innermost p with
  | none => .ok (s.setFlock (f.retire p.id))
  | some e =>
    if e.timedOut = some p.pc then do
      p.mustConfirm
      .ok (s.setFlock (alone f))
    else if e.rpoint ≠ p.pc then .ok (s.setFlock (f.retire p.id))
    else do
      p.mustConfirm
      let late := match e.timer with
        | some (at_, _, _) => decide (at_ < now)
        | none => false
      if late then .ok (s.settleFlow (alone (f.timeOut e.id p.pc (laneTarget w) qd)))
      else
        let wait := f.read32 w (srcA w) 0
        let first := e.timer.isNone
        let e := if first then { e with timer := some (now + wait.setWidth 64, laneTarget w, qd) } else e
        let g := (f.goTo p.id p.pc).setPath { p with status := .arrived, heldFault := none }
        let g := { g with entries := g.entries.map fun x => if x.id = e.id then e else x }
        if g.entryComplete e then .ok (s.settleFlow g)
        else if first && wait = 0 then .ok (s.settleFlow (g.timeOut e.id p.pc (laneTarget w) qd))
        else .ok (if first then (s.settleFlow g).post (.reconvTimeout f.uid e.id) else s.settleFlow g)

/-- The checks of a `v.reconv.w` (R265), and its wait. -/
def State.reconvAt (s : State) (f : Flock) (p : Path) (w : LaneWord) : Res State := do
  trapUnless (decide (192 ≤ w.sa.toNat)) 0x02
  checkNames f [srcA w] []
  match ← s.pointKind f (laneTarget w) with
  | some false => do
    checkSources f p w (p.mask.lanes f.lanes) [srcA w] []
    waitUnless (!f.atOwnPoint p)
    s.reconvWait f p w
  | _ => traps 0x02

/-- `v.reconv.w`. -/
def execVReconvW (w : LaneWord) (s : State) : Host.Outcome State Fault Refusal :=
  runLaneAt (fun p => .lane p (some (qDest w, laneTarget w))) (fun s f p => s.reconvAt f p w) s

/-- A wait at a `v.reconv.w` reaches its time (R52): the waiting paths go on, each with its predicate set. An arrival in the last cycle
of the wait wins, so that the wait ends once that cycle is over. -/
def execReconvTimeout (flock entry : Nat) (s : State) : Host.Outcome State Fault Refusal :=
  match s.flock? flock with
  | none => .next s
  | some f => match f.entry? entry with
    | none => .next s
    | some e => match e.timer with
      | none => .next s
      | some (at_, fallback, qd) =>
        if (s.die (dieOf f.core)).cycle ≤ at_ || !s.mayIssue f || f.hmode then .next (s.post (.reconvTimeout flock entry))
        else .next (s.settleFlow (f.timeOut entry e.rpoint fallback qd))

/-! ## Resolution (R48, R54, R56 to R59, R262) -/

/-- The lanes of a joining branch that start at a `v.reconv.w` arrive there at once (R262, R264): the path that stands ready at the
point issues its instruction. Where that waits or traps, the path issues it again. -/
def State.joinWait (s : State) (uid rpoint : Nat) (m : LaneMask) : State :=
  match s.flock? uid with
  | none => s
  | some f => match f.paths.find? fun q => q.pc = rpoint && q.mask = m && q.status = .ready with
    | none => s
    | some q => match s.fetchLaneAt f rpoint with
      | .ok (_, .vReconvW w) => match s.reconvAt f q w with
        | .ok t => t
        | .error _ => s
      | _ => s

/-- A branch whose taken set is known acts (R48, R262): none when it would push at depth 32. `arms` are the predicted arms of its path;
the predictor and L are updated at the end (R59). -/
def State.resolveBranch (s : State) (f : Flock) (b : Branch) (arms : List (Path × Guess)) : Option State :=
  let p := { b.path with status := .ready }
  (f.split p b.taken b.target b.point b.atWait).map fun g =>
    let t := s.settleFlow (g.attach b arms)
    let t := if !b.atWait then t else match f.splitKind p b.taken b.target b.point with
      | .join taken => t.joinWait f.uid b.point (b.side taken)
      | _ => t
    t.learn f p.pc p.mask b.taken

/-- The predictor's entry for a branch that may predict: one below depth 32 (R53). -/
def State.predicts (s : State) (f : Flock) (p : Path) : Option PredEntry :=
  if f.entries.length < 32 then (s.core f.core).predict? p.pc else none

/-- `v.br`: its point and target are checked at issue. On an unconfirmed path it waits; a branch that the predictor knows predicts its
arms, and resolves by an event of its own (R53, R54). -/
def execVBr (w : LaneWord) (s : State) : Host.Outcome State Fault Refusal :=
  runLaneAt (fun p => .branch p) (fun s f p => do
    p.mustConfirm
    match ← s.pointKind f (branchPoint w) with
    | none => traps 0x02
    | some atWait => do
      trapUnless (laneTarget w < s.llen f) 0x0A (laneTarget w)
      let g := f.goTo p.id p.pc
      let b : Branch := ⟨{ p with heldFault := none }, execMask f p w, laneTarget w, branchPoint w, atWait⟩
      match s.predicts f p with
      | some e => do
        trapUnless (f.splitKind p b.taken b.target b.point != .overflow) 0x13
        .ok ((s.setFlock (g.predict b (f.predicted p e))).post (.predicateResolution f.uid p.id))
      | none => match s.resolveBranch g b [] with
        | some t => .ok t
        | none => traps 0x13) s

/-- The predicate of a predicted branch resolves (R56 to R59): lanes that were not to run an arm are squashed, and each arm goes on with
its lanes once it has replayed for those that it lacked. A flock that may not issue resolves it once it goes on. Where the branch must
push and the stack has filled meanwhile, its work is squashed and it traps (R433). -/
def execPredicateResolution (flock path : Nat) (s : State) : Host.Outcome State Fault Refusal :=
  match s.flock? flock with
  | none => .next s
  | some f => match f.branches.find? fun b => b.path.id = path with
    | none => .next s
    | some b =>
      if !s.mayIssue f || f.hmode then .next (s.post (.predicateResolution flock path))
      else
        let arms := f.armsOf b
        .next (match (s.setFlock (f.rejoin b false)).resolveBranch (f.rejoin b false) b arms with
          | some t => arms.foldl (fun t a => t.progressOf flock a.2.log) t
          | none => (s.setFlock (f.rejoin b true)).takeTrap flock (.branch path) { cause := 0x13 })

/-! ## Exits (R264, R271) -/

/-- Lanes of a path end for good. A lane of a call flock ends in its caller too (R268). -/
def State.exitPath (s : State) (f : Flock) (p : Path) (ls : LaneMask) (kill : Bool) : State :=
  let f := (f.retire p.id).fence
  let f := if kill then { f with killed := f.killed ||| ls } else f
  match f.call with
  | none => s.settleFlow (f.exitLanes ls)
  | some xs =>
    let own := xs.filter fun x => ls.has x.lane
    let s := s.setFlock f
    let s := if kill then own.foldl (fun s x => s.onFlock x.flock fun c => { c with killed := c.killed ||| LaneMask.single x.callerLane }) s
      else s
    let s := s.returnLanes f.uid ls false
    match s.flock? f.uid with
    | none => s
    | some f => s.settleFlow f

/-- The executing lanes end. Those of a call flock leave it once what it has accessed precedes what their callers do next (R118). -/
def laneExit (w : LaneWord) (kill : Bool) (s : State) : Host.Outcome State Fault Refusal :=
  runHeld .stops (fun s f p => do
    waitUnless (f.call.isNone || s.handsOver f)
    .ok (s.exitPath f p (execMask f p w) kill)) s

/-- `v.exit`. -/
def execVExit (w : LaneWord) (s : State) : Host.Outcome State Fault Refusal := laneExit w false s

/-- `v.kill`. -/
def execVKill (w : LaneWord) (s : State) : Host.Outcome State Fault Refusal := laneExit w true s

end Sys2Proof.Machine
end

