-- ==== Sys2Proof/Machine/Room.lean ====
section
/-!
DEFINITION. What a herd needs of a core, what a core holds, and where a flock is placed in it (R38, R39, R61, R275).
-/
namespace Sys2Proof.Machine

/-- The flocks of a core. -/
def State.flocksOn (s : State) (core : Nat) : List Flock := s.flocks.filter fun f => f.core = core

/-- The herds of a core. -/
def State.herdsOn (s : State) (core : Nat) : List Herd := s.herds.filter fun h => h.core = core

/-- The core number of a herd that is on no core. -/
def noCore : Nat := 384

/-- The lowest free flock slot of a core (R39). -/
def State.freeSlot (s : State) (core : Nat) : Option Nat :=
  (List.range 64).find? fun i => (s.flocksOn core).all fun f => f.slot ≠ i

/-- The datapath with the fewest resident lanes, the lowest of equals, among those with fewer than 16 flocks (R38, R39). R39 does not say what
happens where the datapath with the fewest lanes of all already holds 16 flocks: that the flock then goes to the least loaded of those with room is
the model's choice (DESIGN CHOICE, log entry 111). -/
def State.bindDatapath (s : State) (core : Nat) : Option Nat :=
  let on (i : Nat) : List Flock := (s.flocksOn core).filter fun f => f.datapath = i
  let lanes (i : Nat) : Nat := ((on i).map Flock.lanes).sum
  let room := (List.range 4).filter fun i => (on i).length < 16
  room.find? fun i => room.all fun j => lanes i ≤ lanes j

/-- What a herd needs: its flocks and its call flocks, each by lanes and registers, the registers of the call flock it reserves, its
scratchpad in bytes, its contexts, and its operand buffer in bytes. -/
structure HerdNeed where
  flocks : List (Nat × Nat)
  calls : List (Nat × Nat)
  callRegs : Nat
  spad : Nat
  ctxs : Nat
  opb : Nat
deriving DecidableEq, Repr

/-- Flocks, lanes and lane registers that a herd takes, its reserved call flock included (R38, R61). -/
def HerdNeed.totals (n : HerdNeed) : Nat × Nat × Nat :=
  let lanes (l : List (Nat × Nat)) : Nat := (l.map (·.1)).sum
  let regs (l : List (Nat × Nat)) : Nat := (l.map fun (a, b) => a * b).sum
  let spare : Bool := 0 < n.callRegs
  (n.flocks.length + max n.calls.length (if spare then 1 else 0),
   lanes n.flocks + max (lanes n.calls) (if spare then 128 else 0),
   regs n.flocks + max (regs n.calls) (128 * n.callRegs))

/-- Herds fit on one core together (R38, R275). -/
def roomFor (ns : List HerdNeed) : Bool :=
  let t := ns.map HerdNeed.totals
  decide ((t.map (·.1)).sum ≤ 64 ∧ (t.map (·.2.1)).sum ≤ 4096 ∧ (t.map (·.2.2)).sum ≤ 131072
    ∧ (ns.map (·.spad)).sum ≤ 393216 ∧ (ns.map (·.ctxs)).sum ≤ 2 ∧ (ns.map (·.opb)).sum ≤ 65536)

/-- What a herd of a region needs at its admission. -/
def regionNeed (r : Rcb) (callRegs : Nat) : HerdNeed :=
  ⟨List.replicate r.flocks (r.lanes, r.regs), [], callRegs, 4096 * r.spad4k, r.acc, 256 * r.opbg⟩

/-- What a herd needs as it stands. -/
def State.herdNeed (s : State) (h : Herd) : HerdNeed :=
  let own := s.flocks.filter fun f => f.herd = h.uid
  let pairs (l : List Flock) : List (Nat × Nat) := l.map fun f => (f.lanes, f.regs)
  ⟨pairs (own.filter fun f => f.call.isNone), pairs (own.filter fun f => f.call.isSome), (s.regionOf h).callRegs, h.spadSize,
   h.ctxs.length, h.opbSize⟩

/-- A core accepts herds of a session: it is powered and not excluded, its die lives, and it holds herds of no other session
(R25, R363, R481). -/
def State.coreOpen (s : State) (session core : Nat) : Bool :=
  let k := s.core core
  k.powered && !k.excluded && (s.die (dieOf core)).live && (s.herdsOn core).all fun h => h.session = session

/-- Where an allotment of `n` bytes lies in a core's operand buffer beside those of the herds there: the lowest granule from which `n`
bytes are free (R275; log entry 86). -/
def State.opbPlace (s : State) (core n : Nat) : Option Nat :=
  ((List.range 256).map (256 * ·)).find? fun a =>
    a + n ≤ 65536 && (s.herdsOn core).all fun h => n = 0 || h.opbSize = 0 || a + n ≤ h.opbAt || h.opbAt + h.opbSize ≤ a

/-- A core can admit a herd of a session beside those resident (R38, R275). -/
def State.coreAdmits (s : State) (session core : Nat) (n : HerdNeed) : Bool :=
  s.coreOpen session core && roomFor (n :: (s.herdsOn core).map s.herdNeed) && (s.opbPlace core n.opb).isSome

/-- The lowest physical contexts of a core that no herd holds (R275). -/
def State.freeCtxs (s : State) (core n : Nat) : List Nat :=
  ((List.range 2).filter fun i => (s.herdsOn core).all fun h => !h.ctxPhys.contains i).take n

end Sys2Proof.Machine
end

