-- ==== Sys2Proof/Machine/Regroup.lean ====
section
/-!
DEFINITION. Regrouping (R60 to R64, R266 to R270, R434): calls, returns and moves of lanes, and the events that close a
collection, form its call flocks and end one.
-/
namespace Sys2Proof.Machine

/-! ## `v.call.rg` (R266) -/

/-- Lanes of a collection. -/
def Collection.size (c : Collection) : Nat := (c.arrivals.map fun a => a.keys.length).sum

/-- The collection of the core that takes lanes of a herd at a call site: one that has not closed, is not full and whose time has not
passed (R60). -/
def Core.collection? (k : Core) (site herd : Nat) (now : Word64) : Option Collection :=
  k.collections.find? fun c => c.site = site && c.herd = herd && !c.closed && decide (c.size < 1024 ∧ now < c.deadline)

/-- A path's lanes join the open collection of their call site, or open one, which closes by an event of its own (R60). -/
def State.collect (s : State) (f : Flock) (a : Arrival) (site : Nat) : State :=
  let k := s.core f.core
  let now := (s.die (dieOf f.core)).cycle
  match k.collection? site f.herd now with
  | some c => s.setCore f.core { k with collections := k.collections.map fun x => if x.id = c.id then { c with arrivals := c.arrivals ++ [a] } else x }
  | none =>
    let id := s.nextUid
    let c : Collection := ⟨id, site, f.herd, now + 512, false, [a]⟩
    let s := (s.setCore f.core { k with collections := k.collections ++ [c] }).bumpUid
    (s.post (.regroupCollectionClose f.core id)).post (.regroupCollectionTimeout f.core id)

/-- `v.call.rg`: the limits of its fields, its key source and its live registers, then its target. -/
def execVCallRg (w : LaneWord) (s : State) : Host.Outcome State Fault Refusal :=
  runLaneAs .stops (fun p => .callForm p) (fun s f p => do
    let b := w.dest.toNat
    let n := w.sb.toNat
    let r := w.sc.toNat
    let creg := bitsAt w.imm.toNat 26 6
    trapUnless (f.call.isNone && decide (1 ≤ n ∧ n ≤ 32 ∧ r ≤ n ∧ b + n ≤ f.regs ∧ 1 ≤ creg ∧ creg ≤ 24 ∧ n ≤ 8 * creg)) 0x02
    checkNames f [srcA w] []
    let lanes := p.mask.lanes f.lanes
    checkSources f p w lanes [srcA w] [⟨w.dest, n, 1⟩]
    trapUnless (laneTarget w < s.llen f) 0x0A (laneTarget w)
    waitUnless (s.handsOver f)
    let a : Arrival := ⟨f.uid, p.id, lanes.map fun l => (l, (f.read32 w (srcA w) l).setWidth 16), b, n, r, laneTarget w, 8 * creg⟩
    let g := (f.goTo p.id p.pc).fence.setPath { p with status := .away, heldFault := none }
    .ok ((s.setFlock g).collect g a p.pc)) s

/-! ## Forming call flocks (R60, R61, R267, R434) -/

/-- A collected lane: its target, key, caller's index in the herd and lane, and its arrival. -/
structure Gathered where
  target : Nat
  key : Nat
  inherd : Nat
  lane : Nat
  arrival : Arrival
deriving DecidableEq, Repr

/-- The order in which collected lanes are sorted. -/
def Gathered.before (x y : Gathered) : Bool :=
  if x.target ≠ y.target then x.target < y.target
  else if x.key ≠ y.key then x.key < y.key
  else if x.inherd ≠ y.inherd then x.inherd < y.inherd
  else x.lane ≤ y.lane

/-- The lanes of a collection in sort order. -/
def State.gathered (s : State) (c : Collection) : List Gathered :=
  sortBy Gathered.before (c.arrivals.flatMap fun a => a.keys.map fun (l, k) =>
    (⟨a.target, k.toNat, ((s.flock? a.flock).map Flock.inherd).getD 0, l, a⟩ : Gathered))

/-- The lanes that share the first call flock: at most 128, with one target. -/
def firstGroup (xs : List Gathered) : List Gathered :=
  match xs with
  | [] => []
  | x :: _ => (xs.takeWhile fun y => y.target = x.target).take 128

/-- A call flock's header is a `v.blk` with a zero mask (R267); else its callers take the trap. A malformed `v.blk` or `v.lstop` is
an illegal instruction at its own index (R440). -/
def State.calleeHeader (s : State) (f : Flock) (target : Nat) : Res Unit :=
  match s.fetchLaneAt f target with
  | .error x => .error x
  | .ok (_, .vBlk w) => trapUnless (blkMask w = 0) 0x0B target
  | .ok (_, .reservedEncoding _ w) =>
    if w.extractLsb' 0 8 = 2 ∨ w.extractLsb' 0 8 = 3 then .error (.trap { cause := 0x01, lpc := some target }) else traps 0x0B target
  | .ok _ => traps 0x0B target

/-- A call flock of the grouped lanes (R267, R268). -/
def State.callFlock (s : State) (first : Flock) (xs : List Gathered) (slot dp : Nat) : Flock :=
  let k := xs.length
  let lanes := (k + 31) / 32 * 32
  let regs := (xs.head?.map fun x => x.arrival.regs).getD 8
  let f := Flock.launch s.nextUid first.herd first.core slot dp first.inherd first.herdid lanes regs 0
  let own := xs.zipIdx.map fun (x, i) => (⟨i, x.arrival.flock, x.arrival.path, x.lane, x.arrival.base, x.arrival.results⟩ : CallLane)
  let target := (xs.head?.map Gathered.target).getD 0
  let f := { f with active := LaneMask.below k, primary := 0xACE1, fpmode := first.fpmode, tvec := first.tvec, call := some own,
                    kflock := some first.uid, paths := [Path.start 0 (target + 1) (LaneMask.below k) 0 [] .ready], nextId := 1 }
  xs.zipIdx.foldl (fun f (x, i) => match s.flock? x.arrival.flock with
    | none => f
    | some c => (List.range x.arrival.n).foldl (fun f r => f.copyReg r i c (x.arrival.base + r) x.lane) f) f

/-- A collection without some of its lanes; an arrival left with none goes. -/
def Collection.without (c : Collection) (xs : List Gathered) : Collection :=
  let rest (a : Arrival) : Arrival :=
    { a with keys := a.keys.filter fun (l, _) => !xs.any fun x => x.arrival.flock = a.flock && x.arrival.path = a.path && x.lane = l }
  { c with arrivals := (c.arrivals.map rest).filter fun a => a.keys ≠ [] }

/-- The core's collection replaced; an empty one goes. -/
def State.setCollection (s : State) (core : Nat) (c : Collection) : State :=
  let gone := c.arrivals.isEmpty
  s.onCore core fun k => { k with collections := (k.collections.filter fun x => x.id ≠ c.id || !gone).map fun x => if x.id = c.id then c else x }

/-- The caller's path stands at its call again, with its lanes in their slots; a caller that runs takes the trap of the failed
formation (R434). -/
def State.failCall (s : State) (uid pid lane : Nat) (t : Trap) : State :=
  let s := s.onFlock uid fun f => { f with paths := f.paths.map fun p => if p.id = pid then { p with status := .ready } else p }
  match s.flock? uid with
  | none => s
  | some f =>
    if f.mode = .running && !f.hmode then
      s.takeTrap uid (.callForm pid) { t with info := if t.cause = 0x0B then BitVec.ofNat 64 lane else t.info }
    else s

/-- The callers whose lanes were sorted into a group, each with its lowest lane. -/
def callersOf (xs : List Gathered) : List (Nat × Nat × Nat) :=
  ((xs.map fun x => (x.arrival.flock, x.arrival.path)).eraseDups).map fun (f, p) =>
    (f, p, ((xs.filter fun x => x.arrival.flock = f && x.arrival.path = p).map Gathered.lane).foldl min 1024)

/-- One call flock of a collection is formed, or its callers take the fault of its header. The answer is none when the core has
no room for it now, as the reserved call flock of a herd always has (R61), or its header cannot be fetched yet. -/
def State.formOne (s : State) (core : Nat) (c : Collection) : Option State :=
  let xs := firstGroup (s.gathered c)
  match xs with
  | [] => none
  | x :: _ => match s.flock? x.arrival.flock with
    | none => some (s.setCollection core (c.without xs))
    | some first => match s.calleeHeader first x.target with
      | .error (.wait _) => none
      | .error (.trap t) => some ((callersOf xs).foldl (fun s (f, p, l) => s.failCall f p l t) (s.setCollection core (c.without xs)))
      | .ok _ =>
        let lanes := (xs.length + 31) / 32 * 32
        let need (h : Herd) : HerdNeed :=
          let n := s.herdNeed h
          if h.uid = first.herd then { n with calls := n.calls ++ [(lanes, x.arrival.regs)] } else n
        let fits := roomFor ((s.herdsOn core).map need)
        if fits then
          match s.freeSlot core, s.bindDatapath core with
          | some slot, some dp =>
            let f := s.callFlock first xs slot dp
            let s := s.setCollection core (c.without xs)
            some ({ s with flocks := s.flocks ++ [f], nextUid := s.nextUid + 1 }.enterDatapath f)
          | _, _ => none
        else none

/-- The call flocks of a closed collection are formed, as far as there is room; the rest of it stays. -/
def State.formCalls (s : State) (core id : Nat) : Nat → State
  | 0 => s
  | n + 1 => match (s.core core).collections.find? fun c => c.id = id with
    | none => s
    | some c => match s.formOne core c with
      | none => s
      | some s => s.formCalls core id n

/-- A collection closes (R60): it takes no more lanes, and its call flocks are formed. -/
def State.closeCollection (s : State) (core id : Nat) : State :=
  (s.onCore core fun k => { k with collections := k.collections.map fun c => if c.id = id then { c with closed := true } else c }).formCalls
    core id 4096

/-- A flock of the herd has arrived at the collection, or waits on a barrier or a reconvergence with no path that may issue. R60 does not say when
a flock with several paths counts as arrived or as waiting: that one path of it in the collection is the flock's arrival, whatever its other arm
does, and that a flock waits only when none of its paths may issue, is the model's choice (DESIGN CHOICE, log entry 112). -/
def Flock.waitsFor (f : Flock) (c : Collection) : Bool :=
  c.arrivals.any (fun a => a.flock = f.uid)
    || (f.paths.all (fun p => p.status ≠ .ready && p.status ≠ .unresolved) && (f.bar.isSome || f.paths.any fun p => p.status = .arrived))

/-- The first and third events of R60: every flock of the herd has arrived or waits, or 1,024 lanes are collected. A closed collection
goes on forming call flocks. That call flocks, which can arrive at no collection (R268), are left out of "every unexited flock of the herd" is the
model's choice (R60, R266, R267; DESIGN CHOICE, log entry 112). -/
def State.collectionFull (s : State) (c : Collection) : Bool :=
  c.closed || 1024 ≤ c.size || s.flocks.all fun f => f.herd ≠ c.herd || f.call.isSome || f.waitsFor c

/-- A collection closes because its herd has arrived or it is full. -/
def execRegroupCollectionClose (core coll : Nat) (s : State) : Host.Outcome State Fault Refusal :=
  match (s.core core).collections.find? fun c => c.id = coll with
  | none => .next s
  | some c =>
    let t := if s.collectionFull c then s.closeCollection core coll else s
    .next (if (t.core core).collections.any fun c => c.id = coll then t.post (.regroupCollectionClose core coll) else t)

/-- A collection closes 512 cycles after its first arrival (R60). -/
def execRegroupCollectionTimeout (core coll : Nat) (s : State) : Host.Outcome State Fault Refusal :=
  match (s.core core).collections.find? fun c => c.id = coll with
  | none => .next s
  | some c =>
    let t := if c.closed || c.deadline ≤ (s.die (dieOf core)).cycle then s.closeCollection core coll else s
    .next (if (t.core core).collections.any fun c => c.id = coll then t.post (.regroupCollectionTimeout core coll) else t)

/-! ## Returns (R268, R269) -/

/-- `v.ret.rg`. -/
def execVRetRg (_w : LaneWord) (s : State) : Host.Outcome State Fault Refusal :=
  runConfirmed (fun s f p => do
    trapUnless f.call.isSome 0x02
    if !f.resultsFull p then waitsEmpty
    else do
      waitUnless (s.handsOver f)
      let s := s.returnLanes f.uid p.mask true
      match s.flock? f.uid with
      | none => .ok s
      | some f => .ok (s.settleFlow f.fence)) s

/-- A call flock without lanes ends when its counters read zero (R268). -/
def execCallFlockEnd (flock : Nat) (s : State) : Host.Outcome State Fault Refusal :=
  match s.flock? flock with
  | none => .next s
  | some f =>
    if f.call.isNone || (f.paths != []) then .next s
    else if !f.drained then .next (s.post (.callFlockEnd flock))
    else .next (s.endFlock flock)

/-! ## `v.regroup` (R63, R270) -/

/-- `v.regroup`: the executing lanes sorted by key and lane take those lanes' slots in ascending order. -/
def execVRegroup (w : LaneWord) (s : State) : Host.Outcome State Fault Refusal :=
  runConfirmed (fun s f p => do
    let n := w.sb.toNat
    trapUnless (decide (1 ≤ n ∧ n ≤ 32)) 0x02
    checkNames f [srcA w] [⟨w.dest, n, 1⟩]
    let lanes := p.mask.lanes f.lanes
    checkSources f p w lanes [srcA w] [⟨w.dest, n, 1⟩]
    let key (l : Nat) : Nat := bitsAt (f.read32 w (srcA w) l).toNat 0 16
    let sorted := sortBy (fun x y => key x < key y || (key x = key y && x ≤ y)) lanes
    let g := (List.zip sorted lanes).foldl (fun g (from_, to_) =>
      (List.range n).foldl (fun g i => g.copyReg (w.dest.toNat + i) to_ f (w.dest.toNat + i) from_) g) f
    .ok (s.setFlock (g.retire p.id).fence)) s

end Sys2Proof.Machine
end

