-- ==== Sys2Proof/Machine/Admit.lean ====
section
/-!
DEFINITION. The admission of herds (R29, R38, R39, R66, R275, R276, R356, R389), and pre-emption: the halt, the save and the restore
(R70, R71, R269, R296, R316, R369 to R371, R426, R435, R436, R481).
-/
namespace Sys2Proof.Machine

/-! ## Where a herd goes (R356, R389) -/

/-- Clusters of a die that a session holds, in ascending order. -/
def State.clustersOf (s : State) (session die : Nat) : List Nat :=
  ((List.range 24).map (24 * die + ·)).filter fun c => SMap.get s.owners 0 c = session + 1

/-- The four cores of a cluster. -/
def clusterCores (c : Nat) : List Nat := (List.range 4).map (4 * c + ·)

/-- The cores of a die that can admit one herd, or a gang of four on the four cores of one cluster. -/
def State.placeOn (s : State) (session die : Nat) (needs : List HerdNeed) : Option (List Nat) :=
  let clusters := s.clustersOf session die
  match needs with
  | [n] => ((clusters.flatMap clusterCores).find? fun k => s.coreAdmits session k n).map fun k => [k]
  | _ => (clusters.find? fun c => ((clusterCores c).zip needs).all fun (k, n) => s.coreAdmits session k n).map clusterCores

/-- A die's sum of placement counters of a session in the last epoch (R389). -/
def State.epochSum (s : State) (session die : Nat) : Nat :=
  (((s.die die).epochSums.find? fun x => x.1 = session).map (·.2)).getD 0

/-- The cores that take a herd or a gang: among the dies with room, the largest sum, then HOME, then the lowest number. -/
def State.choosePlace (s : State) (session : Nat) (needs : List HerdNeed) : Option (List Nat) :=
  let dies := (List.range 4).filter fun d => (s.placeOn session d needs).isSome
  let better (a b : Nat) : Bool :=
    let x := s.epochSum session a
    let y := s.epochSum session b
    if x ≠ y then y < x else if (a = s.home session) ≠ (b = s.home session) then a = s.home session else a ≤ b
  match sortBy better dies with
  | [] => none
  | d :: _ => s.placeOn session d needs

/-- Herds of a region may be on cores now: its session is active, its paddock does not quiesce and has come to a boundary since it last did,
and its pool is not exhausted (R359, R386, R480). -/
def State.mayRun (s : State) (r : Region) : Bool :=
  let p := s.paddock (s.paddockOf r.session)
  s.sessionState r.session = 1 && !p.quiesce && !p.resuming && !r.exhausted

/-! ## Admission -/

/-- The core's predictor is cleared when its session changes (R53). -/
def Core.forSession (k : Core) (session : Nat) : Core :=
  if k.predSession = some session then k else { k with predictor := [], predSession := some session }

/-- Flock `i` of a herd is launched (R28, R29, R39). -/
def State.launchFlock (s : State) (h : Herd) (r : Rcb) (i : Nat) : State :=
  match s.freeSlot h.core, s.bindDatapath h.core with
  | some slot, some dp =>
    let f := Flock.launch s.nextUid h.uid h.core slot dp i h.herdid r.lanes r.regs r.sentry
    { s with flocks := s.flocks ++ [f], nextUid := s.nextUid + 1 }.enterDatapath f
  | _, _ => s

/-- The next herd of a region is admitted on a core, with its flocks (R37, R276). It begins with an acquire at system scope, be its
region made ready by a counter or by a packet whose header was read as one (R127; log entry 50). -/
def State.admitHerd (s : State) (r : Region) (core herdid : Nat) (gang : Option Nat) : State :=
  let h : Herd := { Herd.absent with
    uid := s.nextUid, region := r.uid, session := r.session, herdid := BitVec.ofNat 32 herdid, core := core, seat := core % 4, gang := gang,
    spadSize := 4096 * r.rcb.spad4k, opbSize := 256 * r.rcb.opbg, opbAt := (s.opbPlace core (256 * r.rcb.opbg)).getD 0, ctxPhys := s.freeCtxs core r.rcb.acc,
    ctxs := List.replicate r.rcb.acc Ctx.reset, charged := (s.die (dieOf core)).cycle.toNat }
  let s := { s with herds := s.herds ++ [h], nextUid := s.nextUid + 1 }.onCore core fun k => k.forSession r.session
  let s := (List.range r.rcb.flocks).foldl (fun s i => s.launchFlock h r.rcb i) s
  (s.applyAcquire core r.session .sy).post (.budgetCharge h.uid)

/-- The next herd of a ready region, or its next gang of four, is admitted if there is room; until all are, the region goes on
waiting for room. -/
def execHerdAdmit (region : Nat) (s : State) : Host.Outcome State Fault Refusal :=
  match s.region? region with
  | none => .next s
  | some r =>
    let again (s : State) : State := s.postOnce (.herdAdmit region)
    let n := if r.rcb.gang then 4 else 1
    if r.rcb.herds ≤ r.nextHerd then .next s
    else if !s.mayRun r then .next (again s)
    else match s.choosePlace r.session (List.replicate n (regionNeed r.rcb r.callRegs)) with
      | none => .next (again s)
      | some cores =>
        let gang := if r.rcb.gang then some s.nextUid else none
        let s := cores.zipIdx.foldl (fun s (k, i) => s.admitHerd r k (r.nextHerd + i) gang) s
        let s := s.setRegion { r with nextHerd := r.nextHerd + n }
        .next (if r.nextHerd + n < r.rcb.herds then again s else s)

/-! ## The halt (R70, R269, R369, R436) -/

/-- The herds that are targeted, saved and resumed together: a gang, or the herd alone (R369). -/
def State.gangOf (s : State) (h : Herd) : List Herd :=
  match h.gang with
  | none => [h]
  | some g => s.herds.filter fun x => x.gang = some g

/-- A result that is discarded when it returns (R70): it fills s0. -/
def Piece.discard (p : Piece) : Piece := { p with scalar := true, reg := 0, poison := false }

/-- Outside a live set the lane registers are zero and full, and the predicates clear (R70, R491). -/
def Flock.loseRegisters (f : Flock) (live : BitVec 192) (liveQ : BitVec 15) : Flock :=
  let kept (k : Nat) : Bool := live.getLsbD (k / 1024)
  { f with
    v := f.v.filter fun x => kept x.1
    vEmpty := f.vEmpty.filter kept
    vPoison := f.vPoison.filter kept
    q := f.q.zipIdx.map fun (m, i) => if liveQ.getLsbD i then m else 0 }

/-- What is kept of a result asked for before a point: all of it, one register of a pair, or nothing where its registers are lost (R70, R491). -/
def Piece.keep (p : Piece) (live : BitVec 192) : Piece :=
  if p.scalar then p
  else if p.wide then
    if live.getLsbD p.reg then (if live.getLsbD (p.reg + 1) then p else { p with wide := false })
    else if live.getLsbD (p.reg + 1) then { p with wide := false, reg := p.reg + 1, high := true }
    else p.discard
  else if live.getLsbD p.reg then p else p.discard

/-- The in-flight operations of a flock with the lane results discarded that were asked for after a point or whose registers are
lost. -/
def Flock.discardLoads (f : Flock) (pt : FlashPoint) : Flock :=
  let edit (o : Op) : Op := { o with pieces := o.pieces.map fun p =>
    if pt.nextId ≤ o.id then (if p.scalar then p else p.discard) else p.keep pt.live }
  let late := f.ops.filter fun o => pt.nextId ≤ o.id
  let mine := late.flatMap fun o => (o.pieces.filter fun p => !p.scalar).flatMap fun p =>
    if p.wide then [laneKey p.reg p.lane, laneKey (p.reg + 1) p.lane] else [laneKey p.reg p.lane]
  { f with ops := f.ops.map edit, vEmpty := setMark false mine f.vEmpty }

/-- The lane stream is rewound to its flashback point, and its recipe is set to run on resume (R70). -/
def Flock.rewind (f : Flock) (pt : FlashPoint) : Flock :=
  let entries := f.entries.drop (f.entries.length - pt.depth)
  let within (p : Path) : Bool := p.mask &&& ~~~pt.mask = 0
  let old := f.paths.find? within
  let open_ (e : Nat) : Bool := entries.any fun x => x.id = e
  let p : Path := Path.start f.nextId (pt.lidx + 1) pt.mask (if pt.depth = 0 then 0 else (old.map Path.arm).getD 0)
    (((old.map Path.entries).getD []).filter open_) .ready
  let run : RecipeRun := ⟨p.id, pt.lidx, pt.first, pt.count, pt.first, pt.count, f.modeAfter⟩
  let f := (f.discardLoads pt).loseRegisters pt.live pt.liveQ
  { f with
    paths := p :: f.paths.filter fun p => !within p
    entries := entries
    nextId := f.nextId + 1
    primary := pt.primary
    second := pt.second
    last := pt.last
    fpmode := if pt.count = 0 then run.fpmode else pt.fpmode
    recipe := if pt.count = 0 then none else some run }

/-- A flock halts: its unconfirmed work is squashed, and it stops at its flashback point if it has a valid one and neither is held nor
handles a trap, else at its next boundary. -/
def Flock.halt (f : Flock) : Flock :=
  let g := { f.squashAll with bar := none }
  match f.point with
  | some pt => if f.mode = .running && !f.hmode then g.rewind pt else g
  | none => g

/-- The halt of a herd has been requested (R370, R481). -/
def State.askHalt (s : State) (uid : Nat) (abort : Bool) : State :=
  match s.herd? uid with
  | none => s
  | some h => s.setHerd { h with status := .halting, abort := abort || h.abort, haltAt := (s.die (dieOf h.core)).cycle }

/-- A herd halts: its open collections close, barrier waits are withdrawn, its flocks halt and a lease ends (R208, R269, R298). On a core
with a hardware fault the flocks do not halt (R481). -/
def State.haltHerd (s : State) (h : Herd) (abort : Bool) : State :=
  if (s.core h.core).stuck then (s.askHalt h.uid abort).postOnce (.haltBoundFailure h.core)
  else
  let mine := (s.core h.core).collections.filter fun c => c.herd = h.uid
  let s := mine.foldl (fun s c => s.closeCollection h.core c.id) s
  let own := s.flocks.filter fun f => f.herd = h.uid
  let s := own.foldl (fun s f => (s.withdraw f).onFlock f.uid Flock.halt) s
  (s.onCore h.core fun k => k.endLease h.uid).askHalt h.uid abort

/-- A request reaches the scheduler: each resident herd of the target halts, and its save falls due. -/
def State.preempt (s : State) (uid : Nat) (abort : Bool) : State :=
  match s.herd? uid with
  | none => s
  | some h => (s.gangOf h).foldl (fun s h =>
      if h.status = .resident then (s.haltHerd h abort).postOnce (.herdSave h.uid)
      else if abort && h.status = .halting then s.setHerd { h with abort := true }
      else s) s

/-- A pre-emption request. -/
def execPreemptRequest (herd : Nat) (s : State) : Host.Outcome State Fault Refusal := .next (s.preempt herd false)

/-! ## Herds that go (R429, R481) -/

/-- A herd is taken off its core with its flocks, its commands and its matrix operations. -/
def State.dropHerd (s : State) (uid : Nat) : State :=
  match s.herd? uid with
  | none => s
  | some h =>
    let own := s.flocks.filter fun f => f.herd = uid
    let s := if h.core = noCore then s else own.foldl State.leaveDatapath s
    let s := { s with flocks := s.flocks.filter fun f => f.herd ≠ uid }
    (s.mapCores fun k => { k with engine := k.engine.filter fun c => c.herd ≠ uid }).endHerd uid

/-- A region's STATUS is set, unless it has one. -/
def State.failRegion (s : State) (uid status : Nat) : State :=
  match s.region? uid with
  | none => s
  | some r => if r.status = 0 then s.setRegion { r with status := status } else s

/-- Herds are lost, with the gangs they belong to: their regions complete with a status (R473, R481). -/
def State.loseHerds (s : State) (uids : List Nat) (status : Nat) : State :=
  let all := ((uids.filterMap s.herd?).flatMap s.gangOf).eraseDups
  let s := all.foldl (fun s h => s.failRegion h.region status) s
  all.foldl (fun s h => s.dropHerd h.uid) s

/-- The herds on a core that a hardware fault keeps from halting. -/
def State.unhalted (s : State) (core : Nat) : List Herd :=
  if (s.core core).stuck then (s.herdsOn core).filter fun h => h.status = .halting else []

/-- A halt was requested 65,536 cycles of the core's die ago, or earlier. -/
def State.haltLate (s : State) (h : Herd) : Bool := 65536 ≤ ((s.die (dieOf h.core)).cycle - h.haltAt).toNat

/-- A core fails: its herds are lost, and its cluster is excluded from admission. -/
def State.failCore (s : State) (core : Nat) : State :=
  let lost := s.herdsOn core
  let pads := (lost.map fun h => s.paddockOf h.session).eraseDups
  let s := s.loseHerds (lost.map Herd.uid) 0x49
  let s := (clusterCores (clusterIndex core)).foldl (fun s c => s.onCore c fun k => { k with excluded := true }) s
  pads.foldl (fun s n => s.paddockReport n 3) s

/-- A core with a hardware fault fails when a flock on it has not halted within 65,536 cycles of the request (R481). -/
def execHaltBoundFailure (core : Nat) (s : State) : Host.Outcome State Fault Refusal :=
  .next (if (s.unhalted core).any s.haltLate then s.failCore core
    else if s.unhalted core = [] then s
    else s.postOnce (.haltBoundFailure core))

/-- A core's control state is lost: from then on its flocks do not halt, nor do herds leave it that are being saved (R481; log entry 99). -/
def State.stickCore (s : State) (core : Nat) : State :=
  (s.onCore core fun k => { k with stuck := true }).postOnce (.haltBoundFailure core)

/-! ## The save (R71, R95, R296, R316, R371) -/

/-- The in-flight work of a halted herd has drained: its counters read zero, its accesses are performed, its contexts' queues are
empty, and no command of its gang with a scratchpad destination, or suspended, is in an engine; another that writes global memory runs on (R316,
R458), but for a herd that is aborted, whose commands all end first (R429). -/
def State.herdDrained (s : State) (h : Herd) : Bool :=
  let gang := (s.gangOf h).map Herd.uid
  s.flocks.all (fun f => f.herd ≠ h.uid || f.ops.isEmpty) && s.netIdle (s.netOf h.session)
    && s.cores.all fun (_, k) => k.mxq.all (fun o => o.herd ≠ h.uid) && k.engine.all fun c => !gang.contains c.herd || (!h.abort && cmdGlobal c.kind c.cmd && !c.suspended)

/-- The lane registers that a flock's save holds: one rewound to its flashback point saves its live set. -/
def Flock.savedRegs (f : Flock) : Nat :=
  match f.point with
  | some pt => if f.mode = .running && !f.hmode then ((List.range f.regs).filter pt.live.getLsbD).length else f.regs
  | none => f.regs

/-- Bytes of a flock's save: its scalar and control state, and lane registers. -/
def Flock.saveSize (f : Flock) : Nat := 1024 + 4 * f.lanes * f.savedRegs

/-- Bytes of a herd's save: those of its flocks, its scratchpad, 164 KiB for each context, and its operand-buffer allotment. -/
def State.saveSize (s : State) (h : Herd) : Nat :=
  ((s.flocks.filter fun f => f.herd = h.uid).map Flock.saveSize).sum + h.spadSize + 167936 * h.ctxs.length + h.opbSize

/-- Where a session's saves stand that are in use: first byte and end. -/
def State.savesOf (s : State) (session : Nat) : List (Nat × Nat) :=
  s.herds.filterMap fun h => if h.session = session then h.savedAt.map fun a => (a, a + s.saveSize h) else none

/-- The first place for `n` bytes of save among those in use, each on a multiple of 256 (log entry 34). -/
def State.savePlace (s : State) (session n : Nat) : Nat :=
  let used := s.savesOf session
  let free (a : Nat) : Bool := used.all fun (lo, hi) => a + n ≤ lo || hi ≤ a
  let base := s.ctx session 576 64 + 65536
  let starts := sortBy (fun x y => x ≤ y) (base :: used.map fun (_, hi) => (hi + 255) / 256 * 256)
  (starts.find? free).getD base

/-- The 256-byte runs of a save. -/
def saveRuns (start n : Nat) : List Nat := (List.range ((n + 255) / 256)).map (start + 256 * ·)

/-- A run of a save area is reached by a core: its page translates, and its frame lives and is not poisoned (R481). Else the cause, `notYet` where
another die cannot be reached at this moment. -/
def State.saveRun (s : State) (ag : Agent) (kind : Access) (va : Nat) : Except Nat (State × Loc) :=
  match s.translate ag va kind with
  | .error c => .error c
  | .ok (s, loc) =>
    if !(s.die (homeDie loc.pa)).live || s.memPoisoned loc.pa 256 then .error 0x17
    else if s.writeNow ag.die loc.pa then .ok (s, loc) else .error notYet

/-- A save is written, its bytes left free (R371; log entry 34); else the cause for which a run of it cannot be reached. -/
def State.saveWrite (s : State) (ag : Agent) : List Nat → Except Nat State
  | [] => .ok s
  | va :: r => match s.saveRun ag .write va with
    | .error c => .error c
    | .ok (s, loc) => (s.engineWrite ag loc ((List.range 256).map fun i => Config.saveByte s.ticks (va + i)) false).saveWrite ag r

/-- A herd whose save is written at a place leaves its core. -/
def State.leaveSaved (s : State) (h : Herd) (place : Nat) : State :=
  let s := s.oweResidence h
  let own := s.flocks.filter fun f => f.herd = h.uid
  let s := own.foldl State.leaveDatapath s
  let calls := (s.core h.core).collections.filter fun c => c.herd = h.uid
  let s := s.onCore h.core fun k => { k with collections := k.collections.filter fun c => c.herd ≠ h.uid }
  let s := own.foldl (fun s f => s.onFlock f.uid fun f => { f with core := noCore, slot := 64 }) s
  (s.setHerd { h with status := .saved, core := noCore, ctxPhys := [], calls := calls, charged := (s.residence h).2,
                      savedAt := some place }).post (.herdRestore h.uid)

/-- A drained herd is saved, or is lost when its save area cannot be written (R371, R481). None while the area cannot be reached. -/
def State.saveHerd (s : State) (h : Herd) : Option State :=
  let n := s.saveSize h
  let place := s.savePlace h.session n
  match s.saveWrite (deviceAgent h.session (dieOf h.core)) (saveRuns place n) with
  | .ok s => some (s.leaveSaved h place)
  | .error c => if c = notYet then none else some ((s.loseHerds [h.uid] 0x49).paddockReport (s.paddockOf h.session) 3)

/-- The herds of a gang are saved in turn, but for those that have been lost with one before them. -/
def State.saveGang (s : State) : List Herd → Option State
  | [] => some s
  | h :: r => (if (s.herd? h.uid).isSome then s.saveHerd h else some s).bind fun s => s.saveGang r

/-- The save of a halted herd, with its gang: it waits until their work has drained. An aborted herd is freed instead. -/
def execHerdSave (herd : Nat) (s : State) : Host.Outcome State Fault Refusal :=
  match s.herd? herd with
  | none => .next s
  | some h =>
    let gang := s.gangOf h
    let held := gang.any fun x => x.status = .resident || x.core ≠ noCore && (s.core x.core).stuck
    if h.status ≠ .halting then .next s
    else if held || !gang.all s.herdDrained then .next (s.post (.herdSave herd))
    else if h.abort then .next ((gang.foldl (fun s h => s.dropHerd h.uid) s).postAdmissions)
    else .next (match s.saveGang gang with
      | some t => t.postAdmissions
      | none => s.post (.herdSave herd))

/-! ## The restore (R39, R71, R371, R427) -/

/-- A flock as it resumes: a path that waited at a `v.reconv.w` issues it again. -/
def Flock.resume (f : Flock) : Flock :=
  let timed (p : Path) : Bool := p.status = .arrived && (p.entries.head?.bind f.entry?).any fun e => e.timer.isSome
  let back (p : Path) : Path := if timed p then { p with status := .ready } else p
  { f with paths := f.paths.map back, entries := f.entries.map fun e => { e with timer := none } }

/-- A flock of a restored herd takes its slot and datapath; its lane stream starts a queued block, and a held flock reports
again. -/
def State.restoreFlock (s : State) (core : Nat) (f : Flock) : State :=
  match s.freeSlot core, s.bindDatapath core with
  | some slot, some dp =>
    let f := { f.resume with core := core, slot := slot, datapath := dp }
    let s := ((s.setFlock f).enterDatapath f).restartBlocks f.uid
    if f.mode = .held then s.post (.faultRecordWrite (s.faultRecord f)) else s
  | _, _ => s

/-- A saved herd is restored on a core (R119, R296). -/
def State.restoreHerd (s : State) (h : Herd) (core : Nat) : State :=
  let h' := { h with status := .resident, core := core, seat := core % 4, ctxPhys := s.freeCtxs core h.ctxs.length, calls := [],
                     opbAt := (s.opbPlace core h.opbSize).getD 0,
                     charged := ((s.die (dieOf core)).cycle.toNat + 2 ^ 64 - h.charged) % 2 ^ 64, savedAt := none }
  let s := (s.setHerd h').onCore core fun k => { k.forSession h.session with collections := k.collections ++ h.calls }
  let own := sortBy (fun (x y : Flock) => x.inherd ≤ y.inherd) (s.flocks.filter fun f => f.herd = h.uid)
  let s := own.foldl (fun s f => s.restoreFlock core f) s
  let s := h.calls.foldl (fun s c => s.post (.regroupCollectionTimeout core c.id)) s
  let ended := own.filter fun f => f.call.isSome && f.paths.isEmpty
  let s := ended.foldl (fun s f => s.postOnce (.callFlockEnd f.uid)) s
  (s.applyAcquire core h.session .sy).postOnce (.budgetCharge h.uid)

/-- The causes for which runs of a herd's save cannot be read by a core that restores it (R481). -/
def State.saveStops (s : State) (h : Herd) (core : Nat) : List Nat :=
  match h.savedAt with
  | none => [0x05]
  | some a => (saveRuns a (s.saveSize h)).filterMap fun va => match s.saveRun (deviceAgent h.session (dieOf core)) .read va with
    | .error c => some c
    | .ok _ => none

/-- What the herds that resume together need: one herd its own, a gang one for each of its four cores, nothing where the member
has ended (R66). -/
def State.unitNeeds (s : State) (h : Herd) : List HerdNeed :=
  match h.gang with
  | none => [s.herdNeed h]
  | some _ => (List.range 4).map fun i => match (s.gangOf h).find? fun x => x.herdid.toNat % 4 = i with
    | some x => s.herdNeed x
    | none => ⟨[], [], 0, 0, 0, 0⟩

/-- The core, among those chosen, on which a herd of the unit sits: gang member g on core g (R66). -/
def unitCore (h : Herd) (cores : List Nat) : Nat := cores.getD (if h.gang.isSome then h.herdid.toNat % 4 else 0) 0

/-- A saved herd, with its gang, resumes on cores that can admit it. -/
def execHerdRestore (herd : Nat) (s : State) : Host.Outcome State Fault Refusal :=
  match s.herd? herd with
  | none => .next s
  | some h =>
    let gang := sortBy (fun (x y : Herd) => x.herdid.toNat ≤ y.herdid.toNat) (s.gangOf h)
    let again := s.postOnce (.herdRestore herd)
    if h.status ≠ .saved then .next s
    else if gang.any (fun x => x.status ≠ .saved) || !s.mayRun (s.regionOf h) then .next again
    else match s.choosePlace h.session (s.unitNeeds h) with
      | none => .next again
      | some cores =>
        let stops := gang.flatMap fun h => s.saveStops h (unitCore h cores)
        if stops.any fun c => c ≠ notYet then .next ((s.loseHerds [herd] 0x49).paddockReport (s.paddockOf h.session) 3)
        else if stops ≠ [] then .next again
        else .next (gang.foldl (fun s h => s.restoreHerd h (unitCore h cores)) s)

end Sys2Proof.Machine
end

