-- ==== Sys2Proof/Machine/Paddock.lean ====
section
/-!
DEFINITION. How a paddock's clusters are shared: tokens and quanta (R362 to R364), reassignment at once (R365), budget pools (R355,
R480), and quiescence (R358 to R360, R479).
-/
namespace Sys2Proof.Machine

/-! ## Scheduling fields of a session (R362) -/

/-- SHARE: 256 at reset. -/
def State.share (s : State) (i : Nat) : Int := ((if s.ctxBlank i then 256 else s.ctx i 256 16 : Nat))

/-- CAP: 1 at reset. -/
def State.burstCap (s : State) (i : Nat) : Int := ((if s.ctxBlank i then 1 else s.ctx i 272 3 : Nat))

/-- TOKENS, signed. -/
def State.tokens (s : State) (i : Nat) : Int := signedOf 24 (s.ctx i 280 24)

/-- TOKENS of a session as the scheduler sees it between boundaries: as it stood at the last one, with what has been charged since (R373). -/
def State.tokensNow (s : State) (i : Nat) : Int :=
  match (s.paddock (s.paddockOf i)).sched.get? i with
  | some (_, t) => t
  | none => s.tokens i

/-- The state with TOKENS of a session written. -/
def State.setTokens (s : State) (i : Nat) (v : Int) : State := s.setCtx i 280 24 (patternOf 24 v)

/-- A cluster's price is charged to a session between boundaries (R365). -/
def State.chargeTokens (s : State) (i : Nat) : State :=
  let n := s.paddockOf i
  let s := s.setTokens i (s.tokens i - 256)
  let p := s.paddock n
  s.setPaddock n { p with sched := p.sched.map fun (j, limit, t) => (j, limit, if j = i then t - 256 else t) }

/-- A session that becomes schedulable between boundaries: a later change of its SCHED applies at the next of them (R373). -/
def State.latchSched (s : State) (i : Nat) : State :=
  let n := s.paddockOf i
  let p := s.paddock n
  if (p.sched.get? i).isSome then s else s.setPaddock n { p with sched := p.sched ++ [(i, s.ctx i 320 16, s.tokens i)] }

/-- A session that is schedulable no longer. -/
def State.dropSched (s : State) (i : Nat) : State :=
  let n := s.paddockOf i
  let p := s.paddock n
  s.setPaddock n { p with sched := p.sched.filter fun x => x.1 ≠ i }

/-- IDLEQ. -/
def State.idleQ (s : State) (i : Nat) : Nat := s.ctx i 304 6

/-- The schedulable sessions of a paddock, in ascending INDEX (R373). -/
def State.sessionsOf (s : State) (n : Nat) : List Nat :=
  (List.range 1024).filter fun i => s.sessionState i = 1 && s.paddockOf i = n

/-- Clusters of a paddock, 24d + c, in ascending order (R358). -/
def State.paddockClusters (s : State) (n : Nat) : List Nat := (List.range 96).filter fun c => (s.paddock n).desc.clusters.getLsbD c

/-! ## What a session wants (R362, R363) -/

/-- Herds of a session on the cores of a cluster. -/
def State.herdsInCluster (s : State) (c : Nat) : List Herd := s.herds.filter fun h => h.core / 4 = c

/-- Gangs and other herds of a session that are not resident, those of exhausted pools apart. -/
def State.absentHerds (s : State) (session : Nat) : Nat × Nat :=
  let rs := s.regions.filter fun r => r.session = session && !r.exhausted
  let saved (r : Region) : List Herd := s.herds.filter fun h => h.region = r.uid && h.status = .saved
  let left (r : Region) : Nat := r.rcb.herds - r.nextHerd
  ((rs.map fun r => if r.rcb.gang then left r / 4 + ((saved r).map Herd.gang).eraseDups.length else 0).sum,
    (rs.map fun r => if r.rcb.gang then 0 else left r + (saved r).length).sum)

/-- The session has ready work. -/
def State.readyWork (s : State) (session : Nat) : Bool := s.absentHerds session ≠ (0, 0)

/-- A cluster that holds no herd is free (R365), unless it has just been given to a session whose herds are about to be admitted on
it (log entry 51). -/
def State.clusterFree (s : State) (c : Nat) : Bool :=
  let owner := SMap.get s.owners 0 c
  (s.herdsInCluster c).isEmpty && (owner = 0 || !s.readyWork (owner - 1) || s.sessionState (owner - 1) ≠ 1)

/-- Fill: the number of clusters that a session can fill. -/
def State.fill (s : State) (n session : Nat) : Nat :=
  let held := (s.paddockClusters n).filter fun c => (s.herdsInCluster c).any fun h => h.session = session
  let (gangs, others) := s.absentHerds session
  held.length + gangs + (others + 3) / 4

/-- The priority of a session: the highest among its ready regions and those of its resident herds. -/
def State.sessionPrio (s : State) (session : Nat) : Int :=
  let rs := s.regions.filter fun r =>
    r.session = session && (r.nextHerd < r.rcb.herds || s.herds.any fun h => h.region = r.uid)
  (rs.map fun r => (r.prio : Int)).foldl max (-1)

/-- Clusters of a paddock that a session holds. -/
def State.clustersHeld (s : State) (n session : Nat) : List Nat :=
  (s.paddockClusters n).filter fun c => SMap.get s.owners 0 c = session + 1

/-! ## The assignment of a quantum (R362, R363) -/

/-- What the steps of R363 give: how many clusters each session has, in the order in which they first gave it one, what is left, and
the sessions given one by the floor. -/
structure Gifts where
  given : List (Nat × Nat)
  left : Nat
  floor : List Nat
deriving DecidableEq, Repr

/-- Clusters given to a session so far. -/
def Gifts.count (g : Gifts) (session : Nat) : Nat := ((g.given.find? fun x => x.1 = session).map (·.2)).getD 0

/-- `k` more clusters for a session. -/
def Gifts.give (g : Gifts) (session k : Nat) : Gifts :=
  if k = 0 then g
  else
    let given := if g.given.any fun x => x.1 = session then g.given.map fun x => if x.1 = session then (session, x.2 + k) else x
      else g.given ++ [(session, k)]
    { g with given := given, left := g.left - k }

/-- IDLEQ of a session at a boundary (R362; log entry 35). -/
def State.countIdle (s : State) (n session : Nat) : State :=
  if (s.paddock n).held.contains session then s.setCtx session 304 6 0
  else if s.readyWork session then s.setCtx session 304 6 (min 63 (s.idleQ session + 1))
  else s

/-- A session earns its share, up to its cap. -/
def State.earn (s : State) (session : Nat) : State :=
  s.setTokens session (min (s.tokens session + s.share session) (s.share session * (s.burstCap session + 1)))

/-- Step 1: the floor. -/
def State.floorStep (x : State × Gifts) (session : Nat) : State × Gifts :=
  let (s, g) := x
  if s.readyWork session && s.idleQ session = 63 && 0 < g.left then
    (s.setTokens session (s.tokens session - 256), { g.give session 1 with floor := g.floor ++ [session] })
  else x

/-- Step 2: the clusters that a session's tokens pay for. -/
def State.paidStep (n : Nat) (x : State × Gifts) (session : Nat) : State × Gifts :=
  let (s, g) := x
  let k := min (min (s.tokens session / 256).toNat (s.fill n session - g.count session)) g.left
  (s.setTokens session (s.tokens session - 256 * k), g.give session k)

/-- Step 3, one round: a leftover cluster for each session that can still fill one. -/
def State.leftoverRound (s : State) (n : Nat) (order : List Nat) (g : Gifts) : Gifts :=
  order.foldl (fun g i => if 0 < g.left && g.count i < s.fill n i then g.give i 1 else g) g

/-- The order of paid and leftover clusters: priority, then tokens, then index. -/
def State.quantumOrder (s : State) (sessions : List Nat) : List Nat :=
  sortBy (fun a b => if s.sessionPrio a ≠ s.sessionPrio b then s.sessionPrio b < s.sessionPrio a
    else if s.tokens a ≠ s.tokens b then s.tokens b < s.tokens a else a ≤ b) sessions

/-- The clusters themselves: first those that a session keeps, the lowest first, then the others in ascending order to the sessions
in the order of their gifts. -/
def State.chooseClusters (s : State) (n : Nat) (g : Gifts) : List (Nat × Nat) :=
  let kept := g.given.flatMap fun (i, k) => ((s.clustersHeld n i).take k).map fun c => (c, i)
  let rest := (s.paddockClusters n).filter fun c => kept.all fun x => x.1 ≠ c
  let owed := g.given.flatMap fun (i, k) => List.replicate (k - (s.clustersHeld n i).length) i
  kept ++ rest.zip owed

/-- A cluster goes to a session: herds of any other session on it are pre-empted (R363, R369). -/
def State.giveCluster (s : State) (c session : Nat) : State :=
  let s := { s with owners := SMap.put s.owners 0 c (session + 1) }
  ((s.herdsInCluster c).filter fun h => h.session ≠ session).foldl (fun s h => s.preempt h.uid false) s

/-- The pools of a paddock's exhausted regions are read again (R480). -/
def State.rereadPools (s : State) (n : Nat) : State :=
  s.regions.foldl (fun s r =>
    if r.exhausted && s.paddockOf r.session = n then
      let ag := deviceAgent r.session (s.home r.session)
      match s.devRead ag (r.pool + 16) 6 true, s.devRead ag (r.pool + 128) 6 true with
      | .ok (_, budget), .ok (_, used) =>
        if budget = 0 || used < budget then s.setRegion { r with exhausted := false, budget := budget } else s
      | _, _ => s
    else s) s

/-- Every cluster of the paddock is assigned (R363). -/
def State.assign (s : State) (n : Nat) : State :=
  let all := s.sessionsOf n
  let s := all.foldl (fun s i => s.countIdle n i) s
  let s := all.foldl State.earn s
  let (s, g) := all.foldl State.floorStep (s, ⟨[], (s.paddockClusters n).length, []⟩)
  let order := s.quantumOrder (all.filter fun i => 0 < s.fill n i)
  let (s, g) := order.foldl (State.paidStep n) (s, g)
  let g := (List.range g.left).foldl (fun g _ => s.leftoverRound n order g) g
  let plan := s.chooseClusters n g
  let s := plan.foldl (fun s (c, i) => s.giveCluster c i) s
  let floor := g.floor.filterMap fun i => (plan.filter fun x => x.2 = i).head?.map (·.1)
  let holders := (all.filter fun i => (s.clustersHeld n i) ≠ [])
  s.setPaddock n { s.paddock n with
    floorGiven := floor, reassigned := [], held := holders, sched := all.map fun i => (i, s.ctx i 320 16, s.tokens i) }

/-- The die whose task scheduler counts a paddock's quanta: the lowest that holds clusters of it. -/
def State.schedulerDie (s : State) (n : Nat) : Nat := ((s.paddockClusters n).headD 0) / 24

/-- A quantum boundary, once QUANTUM microseconds have passed on the scheduler's die since the last. -/
def execQuantumBoundary (paddock : Nat) (s : State) : Host.Outcome State Fault Refusal :=
  let p := s.paddock paddock
  let now := (s.die (s.schedulerDie paddock)).cycle
  if p.quiesce then .next s
  else if now.toNat < p.boundary.toNat then .next (s.postOnce (.quantumBoundary paddock))
  else
    let s := s.setPaddock paddock { p with boundary := now + 1500 * p.desc.quantum.setWidth 64, resuming := false }
    .next ((((s.rereadPools paddock).assign paddock).postAdmissions).postOnce (.quantumBoundary paddock))

/-! ## A region becomes ready between boundaries (R365) -/

/-- A cluster goes to a session within the quantum. -/
def State.giveNow (s : State) (n c session : Nat) : State :=
  let s := s.giveCluster c session
  s.setPaddock n { s.paddock n with held := setAdd session (s.paddock n).held }

/-- The cluster that an interactive paddock takes for a region of a priority: that of the session with the lowest, then with the fewest
tokens, then with the highest index. -/
def State.clusterToTake (s : State) (n session prio : Nat) : Option Nat :=
  let p := s.paddock n
  let owner (c : Nat) : Nat := SMap.get s.owners 0 c - 1
  let open_ := (s.paddockClusters n).filter fun c =>
    SMap.get s.owners 0 c ≠ 0 && owner c ≠ session && !p.floorGiven.contains c && !p.reassigned.contains c && s.sessionPrio (owner c) < (prio : Int)
  let before (a b : Nat) : Bool :=
    let x := owner a
    let y := owner b
    if s.sessionPrio x ≠ s.sessionPrio y then s.sessionPrio x < s.sessionPrio y
    else if s.tokensNow x ≠ s.tokensNow y then s.tokensNow x < s.tokensNow y else y ≤ x
  (sortBy before open_).head?

/-- A region has become ready: free clusters go to its session, or in an interactive paddock one cluster of a lower priority. -/
def State.regionReady (s : State) (r : Region) : State :=
  let n := s.paddockOf r.session
  let p := s.paddock n
  if p.quiesce || p.resuming then s
  else
    let held := s.clustersHeld n r.session
    let free := (s.paddockClusters n).filter fun c => s.clusterFree c && !held.contains c
    let wanted := s.fill n r.session - held.length
    if wanted = 0 then s
    else if free ≠ [] then (free.take wanted).foldl (fun s c => s.giveNow n c r.session) s
    else if p.desc.cls then s
    else match s.clusterToTake n r.session r.prio with
      | none => s
      | some c =>
        let s := (s.chargeTokens r.session).giveNow n c r.session
        s.setPaddock n { s.paddock n with reassigned := setAdd c (s.paddock n).reassigned }

/-! ## Budgets (R355, R480) -/

/-- A pool is exhausted: its regions admit no herd, their herds are pre-empted, and the session and the paddock manager are told. -/
def State.exhaustPool (s : State) (r : Region) : State :=
  let mine := s.regions.filter fun x => x.session = r.session && x.pool = r.pool
  let s := mine.foldl (fun s x => s.setRegion { x with exhausted := true }) s
  let herds := s.herds.filter fun h => mine.any fun x => x.uid = h.region
  let s := herds.foldl (fun s h => s.preempt h.uid false) s
  let n := s.paddockOf r.session
  ((s.report r.session r.poolTag 0x81 0x47 (s.home r.session) (r.origin.map (·.1))).setLastDom n r.poolDomain).paddockReport n 0

/-- Units of residence are added to USED of a region's pool, which they may exhaust; none while the fabric cannot serve that. A pool node that
cannot be reached is charged nothing (log entry 98). -/
def State.chargePool (s : State) (r : Region) (die units : Nat) : Option State :=
  let ag := deviceAgent r.session die
  match s.devRead ag (r.pool + 128) 6 true with
  | .error c => if c = notYet then none else some s
  | .ok (s, used) => match s.devWrite ag (r.pool + 128) (bytesOf 6 (used + units)) with
    | .error c => if c = notYet then none else some s
    | .ok s =>
      let known := match s.region? r.uid with
        | some x => x.exhausted
        | none => s.regions.any fun x => x.session = r.session && x.pool = r.pool && x.exhausted
      some (if 0 < r.budget && r.budget ≤ used + units && !known then s.exhaustPool r else s)

/-- What a herd that has left its core still owes is charged to its pool (R355). -/
def State.payOwed (s : State) (herd : Nat) : State :=
  let mine := s.owed.filter fun o => o.herd = herd
  mine.foldl (fun s o => match s.chargePool o.region o.die o.units with
    | some s => s
    | none => { s with owed := s.owed ++ [o] }) { s with owed := s.owed.filter fun o => o.herd ≠ herd }

/-- A herd's residence is charged to its pool, one unit for every 1,024 cycles, what it owes from before first. -/
def execBudgetCharge (herd : Nat) (s : State) : Host.Outcome State Fault Refusal :=
  let s := s.payOwed herd
  let s := if s.owed.any fun o => o.herd = herd then s.postOnce (.budgetCharge herd) else s
  match s.herd? herd with
  | none => .next s
  | some h =>
    if h.status = .saved then .next s
    else
      let s := s.postOnce (.budgetCharge herd)
      let (units, rest) := s.residence h
      if units = 0 then .next s
      else
        let now := (s.die (dieOf h.core)).cycle.toNat
        let t := s.setHerd { h with charged := (now + 2 ^ 64 - rest) % 2 ^ 64 }
        .next ((t.chargePool (s.regionOf h) (dieOf h.core) units).getD s)

/-! ## Quiescence (R359, R360, R479) -/

/-- Herds of the sessions of a paddock. -/
def State.paddockHerds (s : State) (n : Nat) : List Herd := s.herds.filter fun h => s.paddockOf h.session = n

/-- QUIESCE is set: no packet of the paddock starts, and every herd is pre-empted. -/
def State.startQuiesce (s : State) (n : Nat) : State :=
  let p := s.paddock n
  if p.quiesce then s
  else
    let s := s.setPaddock n { p with quiesce := true, quiesceAt := s.dies.map (·.cycle) }
    let s := (s.paddockHerds n).foldl (fun s h => s.preempt h.uid false) s
    (s.postOnce (.paddockQuiesced n)).postOnce (.qstuck n)

/-- QUIESCE is cleared: a committed descriptor applies, its rails rise where a locked clock needs it, a locked clock's count starts anew, and
scheduling resumes at a new boundary and not before (R24, R359, R360). The sessions that held clusters when the quantum broke off are those that
the boundary counts (R362). -/
def State.endQuiesce (s : State) (n : Nat) : State :=
  let p := s.paddock n
  let desc := p.next.getD p.desc
  let old := s.paddockClusters n
  let gone := old.filter fun c => !desc.clusters.getLsbD c
  let s := { s with owners := gone.foldl SMap.erase s.owners }
  let s := s.setPaddock n { p with
    desc := desc, next := none, quiesce := false, quiesced := false, pclock := if desc.lock then [0, 0, 0, 0] else p.pclock, prest := if desc.lock then [0, 0, 0, 0] else p.prest,
    floorGiven := [], reassigned := [], resuming := true }
  let s := s.setPaddock n { s.paddock n with boundary := (s.die (s.schedulerDie n)).cycle }
  let qs := s.queues.filter fun q => s.paddockOf q.session = n
  let s := qs.foldl (fun s q => s.postOnce (.queueStep q.session q.q)) s
  s.raiseRails.postOnce (.quantumBoundary n)

/-- A write of QUIESCE. -/
def execQuiesce (paddock : Nat) (value : Bool) (s : State) : Host.Outcome State Fault Refusal :=
  .next (if value then s.startQuiesce paddock else s.endQuiesce paddock)

/-- QUIESCED rises once every save is complete and no access of the paddock is in flight. -/
def execPaddockQuiesced (paddock : Nat) (s : State) : Host.Outcome State Fault Refusal :=
  let p := s.paddock paddock
  if !p.quiesce || p.quiesced then .next s
  else if (s.paddockHerds paddock).any (fun h => h.status ≠ .saved) || !s.netIdle paddock then .next (s.postOnce (.paddockQuiesced paddock))
  else .next (s.setPaddock paddock { p with quiesced := true })

/-- 10 ms after QUIESCE was set, QUIESCED still reads 0. -/
def execQstuck (paddock : Nat) (s : State) : Host.Outcome State Fault Refusal :=
  let p := s.paddock paddock
  if !p.quiesce || p.quiesced then .next s
  else if (s.die 0).cycle.toNat - (p.quiesceAt.getD 0 0).toNat < 15000000 then .next (s.postOnce (.qstuck paddock))
  else .next (s.paddockReport paddock 2)

end Sys2Proof.Machine
end

