-- ==== Sys2Proof/Machine/Fabric.lean ====
section
/-!
DEFINITION. The Ryuzo fabric (R390 to R398, R469 to R473): ordered packets with their stamps, reads over the fabric, delivery reports,
and what follows a removal. Its links are in Link.lean.
-/
namespace Sys2Proof.Machine

/-! ## What the other side of an operation learns -/

/-- Values for the pieces of an operation that still lack one; the reply that is sent next brings them. -/
def State.fillPieces (s : State) (uid id : Nat) (sel : Piece → Bool) (value : Piece → Word64 × Bool) : State :=
  let fill (p : Piece) : Piece :=
    if p.value.isNone && sel p then { p with value := some (value p).1, poison := p.poison || (value p).2, reply := some s.nextUid } else p
  s.onFlock uid fun f => { f with ops := f.ops.map fun o => if o.id = id then { o with pieces := o.pieces.map fill } else o }

/-- An operation has one thing less on its way. -/
def State.opArrived (s : State) (uid id : Nat) : State :=
  (s.onFlock uid fun f => { f with ops := f.ops.map fun o => if o.id = id then { o with packets := o.packets - 1 } else o }).opProgress uid id

/-- The operation of a flock is an acquire that catches up with another die (R396). -/
def State.catchesUp (s : State) (uid id : Nat) : Bool :=
  ((s.flock? uid).bind fun f => f.op? id).any fun o => acqWide o.acq

/-- A 16-bit count field rises, saturating (log entry 42). -/
def bumpCount (r : Word64) (lo n : Nat) : Word64 := BitVec.ofNat 64 (withBits r.toNat lo 16 (min 65535 (bitsAt r.toNat lo 16 + n)))

/-- A piece that receives the old value of an atomic. -/
def answers (g : Nat) (p : Piece) : Bool := p.atomic && p.loc.isNone && p.group = g

/-- An ordered packet is lost or discarded: its write is never performed, an atomic returns poison, and it counts as delivered (R472,
R473). -/
def State.losePacket (s : State) (p : FabPacket) : State :=
  let s := (p.acts.foldl (fun s a => match a with
    | .atom _ _ _ _ _ (some (f, o, g)) => s.fillPieces f o (answers g) fun _ => (0, true)
    | _ => s) s).release p.dst p.id
  match p.note with
  | some (f, o) => s.opArrived f o
  | none => s

/-! ## Sending (R394) -/

/-- A wait of a die's network begins to be timed (R470). -/
def State.stallBegins (s : State) (die net place : Nat) : State :=
  let n := s.net die net
  match n.stall.getD place none with
  | some _ => s
  | none => (s.setNet die net { n with stall := setNth n.stall place (some ((s.die die).cycle, false)) }).postOnce (.fabricStall die)

/-- A packet of the die and network was handed to the fabric earlier than this one. -/
def State.earlierUnsent (s : State) (p : FabPacket) : Bool :=
  s.unsent.any fun q => q.src = p.src && q.net = p.net && q.id < p.id

/-! ## Arbitration (R366) -/

/-- The standing of a waiting packet at its die's arbiter: promoted with the time of its arrival, or of interactive or batch class with the
distance of its session's turn. -/
def State.standing (s : State) (p : FabPacket) : Nat × Nat :=
  let d := s.die p.src
  match d.arbiter.find? fun r => r.id = p.id with
  | some r => if r.promoted then (2, r.since.toNat) else (if r.interactive then 1 else 0, turnOf d.served r.session)
  | none => (2, 0)

/-- The window of its destination lets a packet in (R394). -/
def State.windowOpen (s : State) (p : FabPacket) : Bool :=
  let n := s.net p.src p.net
  decide ((n.k.getD (4 * p.src + p.dst) 0 - n.a.getD p.dst 0).toNat < 16384)

/-- Another waiting packet of the die that could go now is served first: promoted packets, the oldest first, then the interactive
class, and within a class the sessions in turn. -/
def State.yieldsTurn (s : State) (p : FabPacket) : Bool :=
  let mine := s.standing p
  s.unsent.any fun q => q.src = p.src && q.id ≠ p.id && !s.earlierUnsent q && s.windowOpen q &&
    (decide (mine.1 < (s.standing q).1) || (mine.1 = (s.standing q).1 && decide ((s.standing q).2 < mine.2)))

/-- A packet leaves the arbiter of its die. -/
def State.leaveArbiter (s : State) (p : FabPacket) : State :=
  s.onDie p.src fun d => { d with arbiter := d.arbiter.filter (fun r => r.id ≠ p.id), served := p.session }

/-- A request that has waited 8,192 cycles at an arbiter is promoted above both classes. -/
def execArbiterPromotion (die request : Nat) (s : State) : Host.Outcome State Fault Refusal :=
  let d := s.die die
  match d.arbiter.find? fun r => r.id = request with
  | none => .next s
  | some r =>
    if (d.cycle - r.since).toNat < 8192 then .next (s.post (.arbiterPromotion die request))
    else
      let mark (r : ArbRequest) : ArbRequest := if r.id = request then { r with promoted := true } else r
      .next (s.setDie die { d with arbiter := d.arbiter.map mark })

/-- An ordered packet enters the fabric, in its turn and while the window allows, with its stamp. -/
def execOrderedPacketSend (p : FabPacket) (s : State) : Host.Outcome State Fault Refusal :=
  let n := s.net p.src p.net
  let at_ := 4 * p.src + p.dst
  if !(s.die p.src).live || !(s.die p.dst).live then .next ((s.losePacket p).leaveArbiter p)
  else if s.earlierUnsent p || s.yieldsTurn p || s.holds p.src then .next (s.post (.orderedPacketSend p))
  else if !s.windowOpen p then .next ((s.post (.orderedPacketSend p)).stallBegins p.src p.net p.dst)
  else
    let s := s.leaveArbiter p
    let k := setNth n.k at_ (n.k.getD at_ 0 + 1)
    let last := n.sentK.getD p.dst (List.replicate 16 0)
    let upd := (List.range 16).filterMap fun x => if x ≠ at_ && k.getD x 0 ≠ last.getD x 0 then some (x, k.getD x 0) else none
    let q := { p with gen := bitsAt (s.die p.src).fabstat.toNat 0 3, seq := k.getD at_ 0, dep := (List.range 4).map fun x => stampAt k x p.dst,
                      upd := upd }
    let s := s.setNet p.src p.net { n with k := k, sentK := setNth n.sentK p.dst k, stall := setNth n.stall p.dst none }
    .next ((s.post (.orderedPacketArrival q)).ship .ordered p.id p.session p.src p.dst)

/-! ## Delivery (R395, R398, R469) -/

/-- Ready, at the packet's destination. -/
def State.packetReady (s : State) (p : FabPacket) : Bool :=
  let n := s.net p.dst p.net
  n.d.getD p.src 0 = p.seq - 1 && (List.range 4).all fun x => x = p.src || x = p.dst || sge (n.d.getD x 0) (p.dep.getD x 0)

/-- One act of a packet from another die is performed at its home slice, which takes the line as for a write of its own (R87, R90, R100). -/
def State.performAct (s : State) (src die : Nat) (a : MemAct) : State :=
  match a with
  | .write loc bs => ((s.rekey loc).touchL2 ⟨loc.session, src, none⟩ loc true bs.length).performWrite loc.pa bs
  | .poison pa n => s.markPoison pa n
  | .atom op n loc b cmp ret =>
    let (s, old) := ((s.rekey loc).touchL2 ⟨loc.session, src, none⟩ loc true n).performAtom op n loc.pa b.toNat cmp.toNat
    match ret with
    | some (f, o, g) => s.fillPieces f o (answers g) fun p => (atomReturn n (old.getD 0) p.addend.toNat, old.isNone)
    | none => if old.isNone then s.tell die .poisonedReduction else s

/-- The reply to an operation leaves a die; the operation's results wait for it (R390, R395). -/
def State.sendReply (s : State) (uid op src dst session : Nat) : State :=
  let id := s.nextUid
  let s := s.onFlock uid fun f => { f with ops := f.ops.map fun o => if o.id = op then { o with replies := o.replies ++ [id] } else o }
  (s.ship .reply id session src dst).bumpUid

/-- The first delivery after a report starts the 4,096 cycles within which the next is due (R397). -/
def Net.noteDelivery (n : Net) (src : Nat) (now : Word64) : Net :=
  { n with delivered := setNth n.delivered src (n.delivered.getD src 0 + 1),
           reportAt := if n.delivered.all (· = 0) then now + 4096 else n.reportAt }

/-- Deliver, for one packet: it is performed, what it says is learnt, and the operation that counts it goes on. -/
def State.deliverOne (s : State) (p : FabPacket) : State :=
  let s := p.acts.foldl (fun s a => s.performAct p.src p.dst a) s
  let n := s.net p.dst p.net
  let k := p.upd.foldl (fun k (x, v) => raise k x v) (raise n.k (4 * p.src + p.dst) p.seq)
  let n := { n.noteDelivery p.src (s.die p.dst).cycle with k := k, d := setNth n.d p.src p.seq, stall := setNth n.stall p.dst none }
  let s := (s.setNet p.dst p.net n).postOnce (.deliveryReportSend p.dst p.net)
  match p.note with
  | none => s
  | some (f, o) =>
    let id := s.nextUid
    let s := if p.acts.any fun a => (match a with | .atom .. => true | _ => false) then s.sendReply f o p.dst p.src p.session else s
    if s.catchesUp f o then s.post (.acquireCatchup ⟨p.dst, p.src, p.net, k, f, o, id⟩) else s.opArrived f o

/-- Waiting packets of a die's network that have become Ready are delivered. -/
def State.deliverWaiting (s : State) (die net : Nat) : Nat → State
  | 0 => s
  | fuel + 1 =>
    let n := s.net die net
    match n.early.find? s.packetReady with
    | none => s
    | some q =>
      ((s.setNet die net { n with early := n.early.erase q, aside := setDel q.id n.aside }).deliverOne q).deliverWaiting die net fuel

/-- Waiting packets of a network outside the entries set aside. -/
def Net.rest (n : Net) : Nat := n.early.countP fun p => !n.aside.contains p.id

/-- An early-packet buffer has room beside the entries set aside: one of its network's other 45 entries, or one of the 128 that the networks
share, is free (R398, R469; log entry 89). -/
def State.earlyRoom (s : State) (die net : Nat) : Bool :=
  decide ((s.net die net).rest < 45) || decide (((s.die die).nets.map fun n => n.rest - 45).sum < 128)

/-- A die's networks whose early-packet buffers have room are timed no more (R470). -/
def State.clearStalls (s : State) (die : Nat) : State :=
  (List.range 8).foldl (fun s i =>
    let n := s.net die i
    if s.earlyRoom die i && (n.stall.getD die none).isSome then s.setNet die i { n with stall := setNth n.stall die none } else s) s

/-- Deliver (R395). The packet's slot is free again. -/
def State.deliver (s : State) (p : FabPacket) : State :=
  (((s.deliverOne p).deliverWaiting p.dst p.net 512).clearStalls p.dst).release p.dst p.id

/-- A packet that is not Ready comes to wait in the early-packet buffer: in an entry of the rest, or in that of its source where no other packet
of it waits. None where it has to stay on its link (R469). A buffer that is full is timed from then on (R470). -/
def State.waitEarly (s : State) (p : FabPacket) : Option State :=
  let n := s.net p.dst p.net
  let timed (s : State) : State := if s.earlyRoom p.dst p.net then s else s.stallBegins p.dst p.net p.dst
  if s.earlyRoom p.dst p.net then some (timed (s.setNet p.dst p.net { n with early := n.early ++ [p] }))
  else if n.early.all fun q => q.src ≠ p.src then
    some (timed (s.setNet p.dst p.net { n with early := n.early ++ [p], aside := setAdd p.id n.aside }))
  else none

/-- The packet has not come off its links, or an earlier packet of the same source, destination and network is still on its way (R390). -/
def State.earlierArrival (s : State) (p : FabPacket) : Bool :=
  !s.landed p.dst p.id || s.agenda.any fun e => match e with
    | .orderedPacketArrival q => q.src = p.src && q.dst = p.dst && q.net = p.net && q.gen = p.gen && q.seq ≠ p.seq && sge p.seq q.seq
    | _ => false

/-- A packet whose stamp is of another generation, or that is not delivered at a resynchronisation, is discarded and counted. -/
def State.discardPacket (s : State) (p : FabPacket) : State :=
  (s.losePacket p).onDie p.dst fun d => { d with fabstat := bumpCount d.fabstat 32 1 }

/-- An ordered packet arrives. -/
def execOrderedPacketArrival (p : FabPacket) (s : State) : Host.Outcome State Fault Refusal :=
  let again := s.post (.orderedPacketArrival p)
  if !(s.die p.dst).live then .next (s.losePacket p)
  else if p.gen ≠ bitsAt (s.die p.dst).fabstat.toNat 0 3 then .next (s.discardPacket p)
  else if s.earlierArrival p || s.routeBusy p.src p.dst then .next again
  else if s.packetReady p then .next (s.deliver p)
  else match s.waitEarly p with
    | some s => .next (s.release p.dst p.id)
    | none => .next (again.stallBegins p.dst p.net p.dst)

/-! ## Reads (R396) -/

/-- The request has not come off its links, or an earlier one of the same source, destination and network waits before it (R390). -/
def State.earlierRead (s : State) (r : ReadReq) : Bool :=
  !s.landed r.dst r.id || s.agenda.any fun e => match e with
    | .readRequestServe q => q.src = r.src && q.dst = r.dst && q.net = r.net && q.gen = r.gen && q.id < r.id
    | _ => false

/-- A read request's stamp conditions hold at its home. -/
def State.readServable (s : State) (r : ReadReq) : Bool :=
  let n := s.net r.dst r.net
  sge (n.d.getD r.src 0) r.seq && (List.range 4).all fun x => x = r.src || x = r.dst || sge (n.d.getD x 0) (r.dep.getD x 0)

/-- A piece of a read homed on a die. -/
def readsAt (die : Nat) (p : Piece) : Bool := p.value.isNone && p.loc.any fun l => homeDie l.pa = die

/-- A read is answered with poison: its home, or its reply, is gone (R464, R472, R473). -/
def State.poisonRead (s : State) (r : ReadReq) : State :=
  let s := (s.fillPieces r.flock r.op (readsAt r.dst) fun _ => (0, true)).release r.dst r.id
  if r.acq then s.opArrived r.flock r.op else s.opProgress r.flock r.op

/-- A read is served at its home. -/
def State.serveRead (s : State) (r : ReadReq) : State :=
  match s.flock? r.flock with
  | none => s
  | some f =>
    let parts : List (Loc × Bool × Bool) := match f.op? r.op with
      | none => []
      | some o => (o.pieces.filter (readsAt r.dst)).filterMap fun p => p.loc.map fun l => (l, !p.noRdc, !p.noL1)
    let k := (s.net r.dst r.net).k
    let t := parts.foldl (fun (s : State) (x : Loc × Bool × Bool) => (s.rekey x.1).fillFrom (s.agentOf f) x.1 x.2.1 x.2.2) s
    let read (p : Piece) : Word64 × Bool := match p.loc with
      | some l => (BitVec.ofNat 64 (Memory.read t.mem l.pa p.bytes), s.memPoisoned l.pa p.bytes)
      | none => (0, true)
    let t := (t.fillPieces r.flock r.op (readsAt r.dst) read).release r.dst r.id
    let id := t.nextUid
    let t := t.sendReply r.flock r.op r.dst r.src (s.herdOf f).session
    if r.acq then t.post (.acquireCatchup ⟨r.dst, r.src, r.net, k, r.flock, r.op, id⟩) else t.opProgress r.flock r.op

/-- A read request waits at its home for its stamp, and is served. -/
def execReadRequestServe (r : ReadReq) (s : State) : Host.Outcome State Fault Refusal :=
  if !(s.die r.dst).live then .next (s.poisonRead r)
  else if r.gen ≠ bitsAt (s.die r.dst).fabstat.toNat 0 3 then
    .next ((s.poisonRead r).onDie r.dst fun d => { d with fabstat := bumpCount d.fabstat 32 1 })
  else if s.earlierRead r || !s.readServable r || s.routeBusy r.src r.dst then .next (s.post (.readRequestServe r))
  else .next (s.serveRead r)

/-- An acquire completes once its die has delivered what the reply names, and knows what the home die knew. -/
def execAcquireCatchup (r : ReadReply) (s : State) : Host.Outcome State Fault Refusal :=
  let n := s.net r.reader r.net
  if s.onWay r.id then .next (s.post (.acquireCatchup r)) else
  let s := s.setNet r.reader r.net { n with k := raiseAll n.k r.k }
  if (List.range 4).all fun x => x = r.reader || sge (n.d.getD x 0) (stampAt r.k x r.reader) then .next (s.opArrived r.flock r.op)
  else .next (s.post (.acquireCatchup r))

/-! ## Delivery reports and stalls (R397, R470) -/

/-- A delivery report starts on its way, in the network that it is about (R391, R397). -/
def State.sendReport (s : State) (r : DeliveryReport) : State :=
  (((s.post (.deliveryReportReceive r)).enqueue r.src ⟨r.id, r.net, .control, 0, true, 0, (s.pathOf .control r.src r.dst).drop 1, false⟩).settlePorts).bumpUid

/-- A report of a network is due: 1,024 deliveries from one source are unreported, or one has been for 4,096 cycles. -/
def Net.reportDue (n : Net) (now : Word64) : Bool := n.delivered.any (1024 ≤ ·) || decide (n.reportAt.toNat ≤ now.toNat)

/-- A die reports its delivered counts of a network to every other die. -/
def execDeliveryReportSend (die net : Nat) (s : State) : Host.Outcome State Fault Refusal :=
  let n := s.net die net
  if n.delivered.all (· = 0) || !(s.die die).live then .next s
  else if s.holds die || !n.reportDue (s.die die).cycle then .next (s.postOnce (.deliveryReportSend die net))
  else
    let s := s.setNet die net { n with delivered := [0, 0, 0, 0] }
    let others := (List.range 4).filter fun j => j ≠ die && (s.die j).live
    .next (others.foldl (fun s j => s.sendReport ⟨die, j, net, n.d, s.nextUid⟩) s)

/-- A delivery report arrives. -/
def execDeliveryReportReceive (r : DeliveryReport) (s : State) : Host.Outcome State Fault Refusal :=
  if s.onWay r.id then .next (s.post (.deliveryReportReceive r)) else
  let n := s.net r.dst r.net
  let a := setNth n.a r.src (smax (n.a.getD r.src 0) (r.d.getD r.dst 0))
  let k := (List.range 4).foldl (fun k x => if x = r.src then k else raise k (4 * x + r.src) (r.d.getD x 0)) n.k
  .next (s.setNet r.dst r.net { n with a := a, k := k })

/-- A wait of 2^20 cycles at a stamp window or with a full early-packet buffer is counted and told to the shepherd. -/
def execFabricStall (die : Nat) (s : State) : Host.Outcome State Fault Refusal :=
  let d := s.die die
  let due (x : Option (Word64 × Bool)) : Bool := x.any fun (t, counted) => !counted && decide (2 ^ 20 ≤ (d.cycle - t).toNat)
  let count := (d.nets.map fun n => (n.stall.filter due).length).sum
  let mark (x : Option (Word64 × Bool)) : Option (Word64 × Bool) := if due x then x.map fun (t, _) => (t, true) else x
  let nets := d.nets.map fun n => { n with stall := n.stall.map mark }
  let s := s.setDie die { d with nets := nets, fabstat := bumpCount d.fabstat 48 count }
  let s := if 0 < count then s.tell die .fabricStall else s
  let waits := nets.any fun n => n.stall.any fun x => x.any fun (_, counted) => !counted
  .next (if waits then s.postOnce (.fabricStall die) else s)

/-! ## The shepherds' journals (R403, R471, R485) -/

/-- The shepherd of a die. -/
def State.shep (s : State) (die : Nat) : Shepherd := (s.die die).shepherd

/-- The state with a die's shepherd changed. -/
def State.onShep (s : State) (die : Nat) (g : Shepherd → Shepherd) : State := s.onDie die fun d => { d with shepherd := g d.shepherd }

/-- The live dies. -/
def State.liveDies (s : State) : List Nat := (List.range 4).filter fun d => (s.die d).live

/-- A die's shepherd runs its firmware. -/
def State.shepRuns (s : State) (die : Nat) : Bool := (s.shep die).mode = .running

/-- The die whose shepherd coordinates: the lowest live one (R403, R471, R485). -/
def State.coordinator (s : State) : Nat := s.liveDies.headD 0

/-- The commit in progress: a layout change, or the removal of a die or link. -/
def State.inProgress (s : State) : Option (BitVec 32 × Option LayoutChange) := (s.liveDies.filterMap fun d => (s.shep d).staged).head?

/-- A shepherd's journal says that it has come to a state for a commit number. -/
def State.journalled (s : State) (die : Nat) (seq : BitVec 32) (state : Nat) : Bool :=
  let j := (s.shep die).journal
  j.seq = seq && decide (state ≤ j.state.toNat)

/-- A commit begins: under the next number every live shepherd has it to prepare. -/
def State.stage (s : State) (c : Option LayoutChange) : State :=
  let x := (BitVec.ofNat 32 ((s.liveDies.map fun d => (s.shep d).journal.seq.toNat).foldl max 0 + 1), c)
  let s := s.liveDies.foldl (fun s d => s.onShep d fun h => { h with staged := some x }) s
  s.liveDies.foldl (fun s d => s.postOnce (.prepareReport d)) s

/-- The coordinator writes the commit record and tells the others. -/
def State.commit (s : State) : State :=
  let s := s.onShep s.coordinator fun h => { h with journal := { h.journal with state := 2 } }
  s.liveDies.foldl (fun s d => s.postOnce (.commitApply d)) s

/-- The paddocks that a commit touches. -/
def changed (c : LayoutChange) : List Nat := (c.paddocks.map (·.1) ++ c.maps.map (·.1)).eraseDups

/-- Every shepherd discards a commit. Of a layout change the paddock manager is told, and the paddocks stay quiesced (R485); a removal is
prepared anew (R471; log entry 44). -/
def State.rollBack (s : State) (seq : BitVec 32) (c : Option LayoutChange) : State :=
  let clear (h : Shepherd) : Shepherd :=
    { h with staged := none, journal := if h.journal.seq = seq then { h.journal with state := 0 } else h.journal }
  let opens := c.any fun c => c.mapc.isSome
  let s := s.mapDies fun d => { d with shepherd := clear d.shepherd, gateClosed := d.gateClosed && !opens }
  match c with
  | none => s.postOnce .resynchronisation
  | some c => (changed c).foldl (fun s n => s.paddockReport n 5) (s.emit (.commitFailed seq.toNat))

/-- A shepherd has restarted during a commit, or its die has been removed: with a commit record on a live die the commit rolls forward
everywhere, without one it rolls back (R403, R485; log entry 44). -/
def State.resolveCommit (s : State) : State :=
  match s.inProgress with
  | none => s
  | some (seq, c) =>
    if s.liveDies.any fun d => s.journalled d seq 2 then
      let s := s.liveDies.foldl (fun s d => s.onShep d fun h => { h with staged := some (seq, c) }) s
      let s := s.liveDies.foldl (fun s d => if s.journalled d seq 3 then s else s.postOnce (.commitApply d)) s
      if s.liveDies.all fun d => s.journalled d seq 3 then s.postOnce .commitDone else s
    else s.rollBack seq c

/-! ## Removal (R471, R473) -/

/-- A paddock is quiesced by the shepherds after a fabric removal, and its manager is told. -/
def State.fabricQuiesce (s : State) (n : Nat) : State := (s.startQuiesce n).paddockReport n 4

/-- A die leaves the module: its herds and its counters are lost, and the paddocks that held its clusters are quiesced. -/
def State.removeDie (s : State) (r : Nat) : State :=
  let pads := (List.range 8).filter fun n => (s.paddockClusters n).any fun c => c / 24 = r
  let lost := (s.herds.filter fun h => h.core ≠ noCore && dieOf h.core = r).map Herd.uid
  let s := s.onDie r fun d => { d with live := false, counters := [] }
  let s := (List.range 2).foldl (fun s l =>
    let j := neighbour r l
    s.onDie j fun d => { d with links := setNth d.links l { d.links.getD l Link.reset with up := false } }) s
  let s := s.loseHerds lost 0x40
  pads.foldl State.fabricQuiesce s

/-- Both ends of a link go down. -/
def State.removeLink (s : State) (a b : Nat) : State :=
  let cut (s : State) (i l : Nat) : State := s.onDie i fun d => { d with links := setNth d.links l { d.links.getD l Link.reset with up := false } }
  cut (cut s a (linkTo a b)) b (linkTo b a)

/-- Live dies that have lost both their links are removed too (R471). -/
def State.removeCutOff (s : State) : State :=
  ((List.range 4).filter fun d => (s.die d).live && (s.die d).links.all fun k => !k.up).foldl (fun s d => s.postOnce (.dieRemoval (.die d))) s

/-- A removal is decided: what is removed carries and does nothing more, a commit in progress goes on or back without it (R485), and the
resynchronisation that the coordinator commits falls due. -/
def execDieRemoval (what : Removal) (s : State) : Host.Outcome State Fault Refusal :=
  match what with
  | .die r => if (s.die r).live then .next ((s.removeDie r).resolveCommit.removeCutOff.postOnce .resynchronisation) else .next s
  | .link a b => if (s.die a).live && (s.die b).live then .next ((s.removeLink a b).removeCutOff.postOnce .resynchronisation) else .next s

/-! ## Resynchronisation (R472) -/

/-- A packet is held inside a removed die, or on one of its links. -/
def State.wayLost (s : State) (id : Nat) : Bool :=
  let dead (i : Nat) : Bool := !(s.die i).live
  linkEnds.any fun (i, l) =>
    ((s.link i l).outbox.any fun p => p.id = id && dead i)
      || (s.link i l).slots.any fun x => x.id = id && (dead i || (!x.here && dead (neighbour i l)))

/-- What every operation in flight still has to write, changed. -/
def State.mapPieces (s : State) (g : Piece → Piece) : State :=
  { s with flocks := s.flocks.map fun f => { f with ops := f.ops.map fun o => { o with pieces := o.pieces.map g } } }

/-- Values whose reply is lost are poisoned. -/
def State.loseReplies (s : State) : State :=
  let lost (p : Piece) : Bool := p.reply.any s.wayLost
  s.mapPieces fun p => if lost p then { p with value := some 0, poison := true } else p

/-- Step 3: packets on their way arrive in the order they were sent, and every Ready one is delivered. -/
def State.drainFabric (s : State) (ps : List FabPacket) : State :=
  let taken := ps.foldl (fun s p =>
    let n := s.net p.dst p.net
    s.setNet p.dst p.net { n with early := n.early ++ [p] }) s
  (List.range 4).foldl (fun s d => (List.range 8).foldl (fun s n => s.deliverWaiting d n (s.net d n).early.length) s) taken

/-- Step 5 at one die: zero counters, a new generation, and the live dies and links; the caches lose the lines of removed dies (R473). -/
def State.freshStamps (s : State) (i : Nat) : State :=
  let dies := ((List.range 4).filter fun d => (s.die d).live).map (2 ^ ·)
  let links := ((List.range 2).filter fun l => s.linkUp i (neighbour i l)).map (2 ^ ·)
  let live (pa : Nat) : Bool := (s.die (homeDie pa)).live
  let s := s.onDie i fun d =>
    let f := d.fabstat.toNat
    let f := withBits (withBits (withBits f 0 3 (bitsAt f 0 3 + 1)) 3 4 dies.sum) 7 2 links.sum
    { d with fabstat := BitVec.ofNat 64 f, nets := d.nets.map fun _ => Net.reset, rdc := d.rdc.filter fun x => live x.pa
             l2 := d.l2.filter fun x => live x.pa }
  { s with cores := s.cores.map fun (c, k) =>
      (c, if dieOf c = i then { k with l1 := k.l1.filter (fun x => live x.pa), decoders := k.decoders.filter fun x => live x.pa } else k) }

/-- Steps 2 to 4 of a resynchronisation: what the fabric still holds is delivered, or is lost. -/
def State.resync (s : State) : State :=
  let sent := s.agenda.filterMap fun e => match packetOf e with
    | some (p, true) => some p
    | _ => none
  let reads := s.agenda.filterMap fun e => match e with
    | .readRequestServe r => some r
    | _ => none
  let catchup (e : Event) : Option ReadReply := match e with
    | .acquireCatchup r => some r
    | _ => none
  let stays (e : Event) : Bool := match e with
    | .orderedPacketArrival _ => false
    | .readRequestServe _ => false
    | .deliveryReportReceive _ => false
    | _ => true
  let lost (id dst : Nat) : Bool := s.wayLost id || !(s.die dst).live
  let order := sortBy (fun (p q : FabPacket) => sge q.seq p.seq) sent
  let (gone, come) := order.partition fun p => lost p.id p.dst
  let s := { s.loseReplies with agenda := s.agenda.filter stays }.clearPorts
  let s := s.drainFabric come
  let s := gone.foldl State.losePacket s
  let left := s.dies.flatMap fun d => d.nets.flatMap fun n => n.early
  let pads := (left.map FabPacket.net).eraseDups
  let s := left.foldl State.discardPacket s
  let s := reads.foldl (fun s r => if lost r.id r.dst then s.poisonRead r else s.serveRead { r with acq := false }) s
  let acquires := (reads.filter fun r => r.acq && !lost r.id r.dst).map fun r => (r.flock, r.op)
  let catchups := s.agenda.filterMap catchup
  let s := { s with agenda := s.agenda.filter fun e => (catchup e).isNone }
  let s := (acquires ++ catchups.map fun r => (r.flock, r.op)).foldl (fun s (f, o) => s.opArrived f o) s
  pads.foldl State.fabricQuiesce s

/-- The resynchronisation of every network, as the two-phase commit of a removal. It begins as every live shepherd has it to prepare, by
holding what would enter the fabric; once all have, the fabric is emptied and the coordinator commits. A second removal waits for the first, and
a layout change in progress goes before (R403, R471, R472). -/
def execResynchronisation (s : State) : Host.Outcome State Fault Refusal :=
  let again := s.post .resynchronisation
  if !s.shepRuns s.coordinator then .next again
  else match s.inProgress with
    | none => .next (s.stage none)
    | some (_, some _) => .next again
    | some (seq, none) =>
      if s.liveDies.all (fun d => s.journalled d seq 1) && s.liveDies.all fun d => !s.journalled d seq 2 then .next s.resync.commit
      else .next again

end Sys2Proof.Machine
end

