-- ==== Sys2Proof/Machine/Link.lean ====
section
/-!
DEFINITION. The Ryuzo links (R466, R467): groups and their checks, resending, retraining, the loss of a link, and heartbeats (R471).
-/
namespace Sys2Proof.Machine

/-- The state with both ends of a link changed. -/
def State.onBothEnds (s : State) (die link : Nat) (g : Link → Link) : State := (s.onLink die link g).onLink (neighbour die link) link g

/-! ## Groups (R466) -/

/-- The CRC of a group is right. -/
def groupIntact (g : LinkGroup) : Bool := g.crc == crc32 (groupBytes g.payload g.seq g.ack g.nak)

/-- Sequence numbers up to one, in the 12-bit ring. -/
def seqUpTo (a b : BitVec 12) : Bool := decide ((b - a).toNat < 2048)

/-- The far end learns that groups up to a sequence number have been accepted. -/
def Link.acknowledged (k : Link) (seq : BitVec 12) : Link := { k with replay := k.replay.filter fun (g, _) => !seqUpTo g.seq seq }

/-- A group with an earlier number is on its way on the same link: groups arrive in the order they were sent. -/
def State.groupBehind (s : State) (die link : Nat) (g : LinkGroup) : Bool :=
  s.agenda.any fun e => match e with
    | .linkGroupReceive d l h => d = die && l = link && h.seq ≠ g.seq && seqUpTo h.seq g.seq
    | _ => false

/-- What the control flit of an accepted group says of the opposite direction. -/
def State.takeControl (s : State) (die link : Nat) (g : LinkGroup) : State :=
  if g.nak then s.post (.linkNakReceive die link g.ack) else (s.onLink die link fun k => k.acknowledged g.ack).settlePorts

/-- The eighth failure in succession of one group makes the link retrain (R467). -/
def State.countFailure (s : State) (die link : Nat) : State :=
  let now := (s.die die).cycle
  let s := s.onLink die link fun k => { k with fails := k.fails + 1, firstFail := some (k.firstFail.getD now) }
  if (s.link die link).fails = 8 then s.post (.linkRetrain die link) else s

/-- A group arrives: one whose turn it is not is discarded, one in its turn whose CRC fails is discarded and refused by name, and counted, and one
in its turn that is intact is accepted and acknowledged (log entry 41). -/
def execLinkGroupReceive (die link : Nat) (g : LinkGroup) (s : State) : Host.Outcome State Fault Refusal :=
  let k := s.link die link
  let far := neighbour die link
  if !k.up || k.training then .next s
  else if s.groupBehind die link g then .next (s.post (.linkGroupReceive die link g))
  else if g.seq ≠ k.expect then .next s
  else if !groupIntact g then .next ((s.post (.linkNakReceive far link k.expect)).countFailure die link)
  else
    let s := s.onLink die link fun k =>
      { k with expect := k.expect + 1, received := k.received ++ [g.payload], fails := 0, firstFail := none }
    .next ((((s.onLink far link fun k => k.acknowledged g.seq).settlePorts).takeControl die link g).arrive die link g.parcel)

/-- Groups are sent again and counted. -/
def State.resend (s : State) (die link : Nat) (gs : List LinkGroup) : State :=
  let now := (s.die die).cycle
  let again (x : LinkGroup × Word64) : LinkGroup × Word64 := if gs.contains x.1 then (x.1, now) else x
  let s := s.onLink die link fun k => { k with replay := k.replay.map again }
  let s := s.onDie die fun d => { d with fabstat := bumpCount d.fabstat 16 gs.length }
  gs.foldl (fun s g => s.transmit die link g) s

/-- A negative acknowledgement: the named group and all later ones are sent again, in order. -/
def execLinkNakReceive (die link : Nat) (seq : BitVec 12) (s : State) : Host.Outcome State Fault Refusal :=
  let k := s.link die link
  if !k.up then .next s
  else if k.training then .next (s.post (.linkNakReceive die link seq))
  else .next (s.resend die link ((k.replay.filter fun (g, _) => seqUpTo seq g.seq).map (·.1)))

/-- A group left unacknowledged for 2,048 cycles is sent again. -/
def execLinkResendTimeout (die link : Nat) (seq : BitVec 12) (s : State) : Host.Outcome State Fault Refusal :=
  let k := s.link die link
  let again (s : State) : State := s.post (.linkResendTimeout die link seq)
  match k.replay.find? fun (g, _) => g.seq = seq with
  | none => .next s
  | some (g, t) =>
    if !k.up then .next s
    else if k.training || decide (((s.die die).cycle - t).toNat < 2048) then .next (again s)
    else .next (again (s.resend die link [g]))

/-! ## Retraining and loss (R467, R471) -/

/-- A link begins to retrain; how that ends is free. -/
def execLinkRetrain (die link : Nat) (s : State) : Host.Outcome State Fault Refusal :=
  let k := s.link die link
  if !k.up || k.training then .next s
  else .next ((s.onBothEnds die link fun k => { k with training := true }).post (.linkRetrainComplete die link ((s.free 0).getLsbD 0)))

/-- A retrain ends: the link is back, or after four failures in succession or 10 ms it goes down, or it retrains again. -/
def execLinkRetrainComplete (die link : Nat) (ok : Bool) (s : State) : Host.Outcome State Fault Refusal :=
  let k := s.link die link
  if !k.training then .next s
  else
    let s := s.onBothEnds die link fun k => { k with training := false }
    if ok then .next ((s.onBothEnds die link fun k => { k with fails := 0, retrains := 0, firstFail := none }).settlePorts)
    else
      let s := s.onLink die link fun k => { k with retrains := k.retrains + 1 }
      let late := k.firstFail.any fun t => decide (15000000 ≤ ((s.die die).cycle - t).toNat)
      .next (s.post (if 4 ≤ k.retrains + 1 || late then .linkDown die link else .linkRetrain die link))

/-- A link goes down: its shepherds are told, and a die with no link left, or else the link, is removed. -/
def execLinkDown (die link : Nat) (s : State) : Host.Outcome State Fault Refusal :=
  if !(s.link die link).up then .next s
  else
    let far := neighbour die link
    let s := s.onBothEnds die link fun k => { k with up := false, training := false }
    let s := (s.tell die .linkDown).tell far .linkDown
    let cut := [die, far].filter fun d => (s.die d).live && (s.die d).links.all fun k => !k.up
    .next (if cut = [] then s.postOnce (.dieRemoval (.link die far)) else cut.foldl (fun s d => s.postOnce (.dieRemoval (.die d))) s)

/-! ## Heartbeats (R471) -/

/-- The time of a die's heartbeat, every 1 ms: its shepherd sends it, or it is missed; the tenth missed in succession removes the die
(log entry 43). -/
def execHeartbeat (die : Nat) (missed : Bool) (s : State) : Host.Outcome State Fault Refusal :=
  let d := s.die die
  let h := d.shepherd
  if !d.live then .next s
  else if (d.cycle - h.beat).toNat < 1500000 then .next (s.post (.heartbeat die missed))
  else
    let put (n : Nat) : State := s.setDie die { d with shepherd := { h with beat := d.cycle, missed := n } }
    if missed || h.mode ≠ .running then
      .next (if 9 ≤ h.missed then (put 10).postOnce (.dieRemoval (.die die)) else (put (h.missed + 1)).post (.heartbeat die false))
    else .next (((put 0).emit (.heartbeat die)).post (.heartbeat die false))

end Sys2Proof.Machine
end

