-- ==== Sys2Proof/Machine/Queue.lean ====
section
/-!
DEFINITION. Queues and packets (R346 to R351, R475 to R477), the dispatch of a region (R354 to R356, R367, R368), and dependence
counters (R357, R478).
-/
namespace Sys2Proof.Machine

/-! ## Descriptors and doorbells (R346, R347, R477) -/

/-- The physical address of a queue's descriptor. -/
def State.queueAddress (s : State) (session q : Nat) : Nat := s.ctx session 384 64 + 64 * q

/-- The descriptor of a queue as its queue processor reads it; `notYet` where it cannot be read at this moment, another cause where it is bad. -/
def State.queueDescriptor (s : State) (session q : Nat) : Except Nat (State × QueueDesc) :=
  match s.physRead (deviceAgent session (s.home session)) (s.queueAddress session q) 64 with
  | .error c => .error c
  | .ok (s, v) => if (queueDesc v).good q then .ok (s, queueDesc v) else .error 0x41

/-- A queue with a bad descriptor stops, with one report. -/
def State.stopBadQueue (s : State) (x : QState) : State :=
  if x.stopped then s
  else (s.setQueue { x with stopped := true }).post
    (.completionRecordWrite ⟨x.session, 0, 0x81, 0x41, s.home x.session, x.q, true, some x.q, none⟩)

/-- A doorbell write reaches the queue processor of the session's HOME die: DB rises, or a stopped queue restarts. -/
def execDoorbellWrite (offset : Nat) (value : Word64) (s : State) : Host.Outcome State Fault Refusal :=
  let session := offset / 512
  let q := offset / 64 % 8
  if offset % 64 ≠ 0 ∨ 1024 ≤ session ∨ s.ctx session (448 + q) 1 = 0 then .next s
  else
    let x := s.queue session q
    let v := value.toNat
    let x := if value.getLsbD 63 then { x with db := v % 2 ^ 63, stopped := false } else { x with db := max x.db v }
    let s := (s.setQueue x).postOnce (.cqDescriptorRetest session)
    match s.queueDescriptor session q with
    | .error c => .next (if c = notYet then s.postOnce (.queueStep session q) else s.stopBadQueue x)
    | .ok (s, _) => .next (s.postOnce (.queueStep session q))

/-! ## Reading packets (R348, R349, R350) -/

/-- Bytes that may cross lines and page ends, read by a device agent line by line. -/
def State.devReadLong (s : State) (ag : Agent) : Nat → Nat → Nat → Except Nat (List Byte)
  | 0, _, _ => .ok []
  | fuel + 1, va, n =>
    if n = 0 then .ok []
    else
      let k := min n (256 - va % 256)
      match s.devRead ag va k with
      | .error c => .error c
      | .ok (s, v) => match s.devReadLong ag fuel (va + k) (n - k) with
        | .error c => .error c
        | .ok r => .ok (bytesOf k v ++ r)

/-- The eight words of 64 bytes. -/
def packetWords (v : Nat) : List Word64 := (List.range 8).map fun i => BitVec.ofNat 64 (bitsAt v (64 * i) 64)

/-- Word `i` of a packet as a number. -/
def packetWord (p : Packet) (i : Nat) : Nat := (p.words.getD i 0).toNat

/-- BARRIER, or a SIGNAL, which always acts as if it were set. -/
def packetBarrier (p : Packet) : Bool := packetField p 9 1 = 1 || packetType p = 3

/-- LEGACY. -/
def packetLegacy (p : Packet) : Bool := packetField p 10 1 = 1

/-- Words `lo` to 6 of a packet hold nothing. -/
def packetZeroFrom (p : Packet) (lo : Nat) : Bool := (List.range 7).all fun i => i < lo || packetWord p i = 0

/-- The body of a packet keeps the rules of its type: unlisted bytes zero, addresses aligned, values in range (R350, R476). -/
def packetBodyOk (p : Packet) : Bool :=
  let w := packetWord p
  match packetType p with
  | 1 => w 1 % 256 = 0 && (packetLegacy p || w 2 = 0) && packetZeroFrom p 3 && w 7 = 0
  | 2 => w 1 % 4 = 0 && w 2 % 4 = 0 && w 3 % 4 = 0 && decide (4 ≤ w 3 ∧ w 3 ≤ 2 ^ 40) && packetZeroFrom p 4
  | 3 => w 1 % 8 = 0 && packetZeroFrom p 3
  | 4 => w 1 % 8 = 0 && decide (w 3 ≤ 1) && packetZeroFrom p 4
  | 5 => bitsAt (w 1) 10 6 = 0 && bitsAt (w 1) 26 38 = 0 && packetZeroFrom p 2
  | 6 => packetZeroFrom p 2
  | 7 => packetZeroFrom p 2
  | 8 => bitsAt (w 1) 10 6 = 0 && bitsAt (w 1) 18 46 = 0 && packetZeroFrom p 2
  | 9 => packetZeroFrom p 1
  | _ => false

/-- A packet is well formed (R349, R476). -/
def State.packetOk (s : State) (p : Packet) : Bool :=
  packetField p 11 5 = 0 && packetField p 36 28 = 0
    && (packetType p = 1 && packetField p 16 2 = 0 || packetType p ≠ 1 && !packetLegacy p)
    && (packetField p 16 2 ≠ 1 || (s.die (packetField p 34 2)).live)
    && packetBodyOk p

/-! ## The legacy code table (R367, R368) -/

/-- The probe of a table at a frame with `size` entries, from place `j` on. -/
def State.legacyProbe (s : State) (frame size digest : Nat) : Nat → Nat → Option Nat
  | 0, _ => none
  | fuel + 1, j =>
    let e := s.clearNum (frame * 4096 + 32 * ((digest % size + j) % size)) 32
    if bitsAt e 128 1 = 0 then none
    else if bitsAt e 0 64 = digest then some (bitsAt e 64 64)
    else s.legacyProbe frame size digest fuel (j + 1)

/-- The template of a digest in a paddock's table. -/
def State.legacyLookup (s : State) (n digest : Nat) : Option Nat :=
  let d := (s.paddock n).desc
  if d.ltlog = 0 then none else s.legacyProbe d.ltframe.toNat (2 ^ d.ltlog.toNat) digest 8 0

/-! ## One step of a queue (R348, R351, R368, R475) -/

/-- The event that starts a packet. A packet of a reserved type fails in the event of a NOP. -/
def startEvent (p : Packet) : Event :=
  match packetType p with
  | 1 => .packetDispatch p
  | 2 => .packetCopy p
  | 3 => .packetSignal p
  | 4 => .packetWait p
  | 5 => .packetFork p
  | 6 => .packetSeal p
  | 7 => .packetPublish p
  | 8 => .packetMigrate p
  | _ => .packetNop p

/-- A packet is consumed: READIDX passes its slot, and it is due to start. -/
def State.consume (s : State) (x : QState) (d : QueueDesc) (p : Packet) : State :=
  let s := s.engineWrite (deviceAgent x.session (s.home x.session)) (tableLoc x.session (s.queueAddress x.session x.q + 24)) (bytesOf 8 (d.read + 1)) false
  (s.setQueue { x with unstarted := [p.slot], missPosted := false }).post (startEvent p)

/-- The session's packets may start: it is active and its paddock does not quiesce (R359, R386). -/
def State.packetsRun (s : State) (session : Nat) : Bool :=
  s.sessionState session = 1 && !(s.paddock (s.paddockOf session)).quiesce

/-- The next slot of a queue is read, and consumed if its parity is right. -/
def execQueueStep (session q : Nat) (s : State) : Host.Outcome State Fault Refusal :=
  let x := s.queue session q
  let later := s.postOnce (.queueStep session q)
  if x.stopped || x.waiting || (x.unstarted != []) then .next s
  else if s.recordWaits session q || s.sessionState session = 3 then .next later
  else if !s.packetsRun session then .next s
  else match s.queueDescriptor session q with
    | .error c => .next (if c = notYet then later else s.stopBadQueue x)
    | .ok (s, d) =>
      if x.db ≤ d.read then .next s
      else match s.devAcquire (deviceAgent session (s.home session)) (d.slot d.read) 64 with
        | .error c => .next (if c = notYet then s.postOnce (.queueStep session q) else s.stopBadQueue x)
        | .ok (s, none) => .next (s.postOnce (.queueStep session q))
        | .ok (s, some v) =>
          let p : Packet := ⟨session, q, d.read, packetWords v⟩
          if packetField p 8 1 ≠ d.parity d.read then .next s
          else if packetType p = 1 && packetLegacy p && s.packetOk p then
            match s.legacyLookup (s.paddockOf session) (packetWord p 2) with
            | some t => .next (s.consume x d { p with words := p.words ++ [BitVec.ofNat 64 t] })
            | none =>
              if x.missPosted then .next s
              else .next ((s.setQueue { x with missPosted := true }).post
                (.completionRecordWrite ⟨session, p.words.getD 2 0, 0x80, 0, s.home session, q, true, some q, none⟩))
          else .next (s.consume x d p)

/-! ## Starting a packet (R351, R476) -/

/-- A packet event: a packet not yet started waits for what must come first and is checked, and then acts by `go`; one that runs acts
again. -/
def State.runPacket (s : State) (p : Packet) (go : State → State) : State :=
  let x := s.queue p.session p.q
  if x.running.contains p.slot then go s
  else if !x.unstarted.contains p.slot then s
  else if x.stopped || !s.packetsRun p.session || s.recordWaits p.session p.q || (packetBarrier p && (x.running != [])) then s.post (startEvent p)
  else
    let s := s.setQueue { x with unstarted := [], running := x.running ++ [p.slot] }
    if s.packetOk p then go (s.postOnce (.queueStep p.session p.q)) else s.packetFailed p 0x41

/-- The agent of a packet: its queue processor. -/
def State.packetAgent (s : State) (p : Packet) : Agent := deviceAgent p.session (s.home p.session)

/-- NOP completes when it starts; a packet of a reserved type fails here. -/
def execPacketNop (p : Packet) (s : State) : Host.Outcome State Fault Refusal :=
  .next (s.runPacket p fun s => s.packetDone p)

/-- COPY moves one word; the rest of the packet follows by further events. -/
def execPacketCopy (p : Packet) (s : State) : Host.Outcome State Fault Refusal :=
  .next (s.runPacket p fun s =>
    let src := packetWord p 1
    let dst := packetWord p 2
    let len := packetWord p 3
    let failed (s : State) (c : Nat) : State := if c = notYet then s.post (.packetCopy p) else s.packetFailed p c
    match s.devRead (s.packetAgent p) src 4 with
    | .error c => failed s c
    | .ok (s, v) => match s.devWrite (s.packetAgent p) dst (bytesOf 4 v) with
      | .error c => failed s c
      | .ok s =>
        if len ≤ 4 then s.packetDone p
        else
          let num (n : Nat) : Word64 := BitVec.ofNat 64 n
          s.post (.packetCopy { p with words := setNth (setNth (setNth p.words 1 (num (src + 4))) 2 (num (dst + 4))) 3 (num (len - 4)) }))

/-- SIGNAL stores its value as a release at system scope. -/
def execPacketSignal (p : Packet) (s : State) : Host.Outcome State Fault Refusal :=
  .next (s.runPacket p fun s =>
    if !s.netIdle (s.netOf p.session) then s.post (.packetSignal p)
    else match s.devWrite (s.packetAgent p) (packetWord p 1) (bytesOf 8 (packetWord p 2)) with
      | .error c => if c = notYet then s.post (.packetSignal p) else s.packetFailed p c
      | .ok s => s.packetDone p)

/-- A WAIT reads its address once: it completes when its condition holds, and otherwise reads again later. -/
def State.waitRead (s : State) (p : Packet) : State :=
  let done (s : State) : State := s.setQueue { s.queue p.session p.q with waiting := false }
  match s.devAcquire (s.packetAgent p) (packetWord p 1) 8 with
  | .error c => if c = notYet then s.post (.waitReread p) else (done s).packetFailed p c
  | .ok (s, none) => s.post (.waitReread p)
  | .ok (s, some v) =>
    if (packetWord p 3 = 0 ∧ v = packetWord p 2) ∨ (packetWord p 3 = 1 ∧ packetWord p 2 ≤ v) then (done s).packetDone p
    else s.post (.waitReread p)

/-- WAIT: no later packet of its queue starts before its condition holds. -/
def execPacketWait (p : Packet) (s : State) : Host.Outcome State Fault Refusal :=
  .next (s.runPacket p fun s => (s.setQueue { s.queue p.session p.q with waiting := true }).waitRead p)

/-- A WAIT that is running reads its address again. -/
def execWaitReread (p : Packet) (s : State) : Host.Outcome State Fault Refusal :=
  .next (if (s.queue p.session p.q).running.contains p.slot then s.waitRead p else s)

/-- SEAL seals a page as `s.pseal` does (R315). -/
def execPacketSeal (p : Packet) (s : State) : Host.Outcome State Fault Refusal :=
  .next (s.runPacket p fun s =>
    match s.sealTarget p.session (packetWord p 1) with
    | .error c => s.packetFailed p c
    | .ok (pa, e) =>
      if !s.netIdle (s.netOf p.session) then s.post (.packetSeal p)
      else (s.sealPage p.session (s.home p.session) (packetWord p 1) pa e).packetDone p)

/-- PUBLISH swaps a window's tables as `s.publish` does (R312). -/
def execPacketPublish (p : Packet) (s : State) : Host.Outcome State Fault Refusal :=
  .next (s.runPacket p fun s =>
    match s.publishTarget p.session (packetWord p 1) with
    | .error c => s.packetFailed p c
    | .ok (w, at_) =>
      if s.windowBusy p.session w || !s.netIdle (s.netOf p.session) then s.post (.packetPublish p)
      else (s.swapTables p.session (s.home p.session) w at_).packetDone p)

/-! ## Region control blocks (R354, R355) -/

/-- The fields of an RCB. -/
def rcbOf (addr v : Nat) : Rcb :=
  let g := bitsAt v
  { addr := addr, parent := g 0 64, ovrBudget := g 64 1 = 1, ovrPrio := g 65 1 = 1, ovrDomain := g 66 1 = 1, leaf := g 67 1 = 1,
    gang := g 68 1 = 1, prio := g 72 8, domain := BitVec.ofNat 16 (g 80 16), budget := g 128 48, scode := g 192 64, lcode := g 256 64,
    sentry := g 320 26, lentry := g 352 26, slen := g 384 26, llen := g 416 26, herds := g 448 32, flocks := g 480 4 + 1,
    lanes := 32 * (g 484 5 + 1), regs := 8 * g 496 5, spad4k := g 504 7, acc := g 512 2, opbg := g 514 9, karg := g 544 64,
    klen := g 608 13, layout := g 640 64, lcount := g 704 13, recipe := g 768 64, rcount := g 832 16, cact := g 928 2, ctr := g 930 16,
    cdie := g 946 2, tag := BitVec.ofNat 64 (g 960 64) }

/-- Every reserved field of an RCB is zero. -/
def rcbReservedOk (v : Nat) : Bool :=
  [(69, 3), (96, 32), (176, 16), (346, 6), (378, 6), (410, 6), (442, 6), (489, 7), (501, 3), (511, 1), (523, 21), (621, 19), (717, 51),
   (848, 48), (914, 14), (948, 12), (1072, 976)].all fun (lo, n) => bitsAt v lo n = 0

/-- The sections and tables of an RCB are aligned (R354). -/
def Rcb.aligned (r : Rcb) : Bool :=
  r.scode % 256 = 0 && r.lcode % 256 = 0 && r.karg % 64 = 0 && r.layout % 64 = 0 && r.recipe % 16 = 0

/-- The geometry and the needs of an RCB fit a core that holds nothing else (R37, R38, R275, R354). -/
def Rcb.fits (r : Rcb) (callRegs : Nat) : Bool :=
  decide (1 ≤ r.herds ∧ 8 ≤ r.regs ∧ r.regs ≤ 192 ∧ (r.lanes < 1024 ∨ r.regs ≤ 128) ∧ r.flocks * r.lanes ≤ 4096 ∧ r.spad4k ≤ 96 ∧ r.acc ≤ 2
    ∧ r.opbg ≤ 256 ∧ r.klen ≤ 4096 ∧ r.lcount ≤ 4096 ∧ (!r.gang ∨ r.herds % 4 = 0)) && roomFor [regionNeed r callRegs]

/-- The RCB with what a legacy template gives it (R368). -/
def Rcb.withTemplate (r t : Rcb) : Rcb :=
  { r with scode := t.scode, lcode := t.lcode, sentry := t.sentry, lentry := t.lentry, slen := t.slen, llen := t.llen, regs := t.regs,
           spad4k := t.spad4k, acc := t.acc, opbg := t.opbg, recipe := t.recipe, rcount := t.rcount, layout := t.layout, lcount := t.lcount }

/-- The nodes from a leaf to its root, at most `fuel` of them; a longer chain, or a bad node, is malformed. -/
def State.rcbChain (s : State) (ag : Agent) : Nat → Nat → Except Nat (List Rcb)
  | 0, _ => .error 0x42
  | fuel + 1, addr => match s.devReadLong ag 2 addr 256 with
    | .error c => .error c
    | .ok bs =>
      let v := ofBytes bs
      let r := rcbOf addr v
      if !rcbReservedOk v then .error 0x42
      else if r.parent = 0 then .ok [r]
      else match s.rcbChain ag fuel r.parent with
        | .error c => .error c
        | .ok rs => .ok (r :: rs)

/-- The node of a chain at which a walk ends: the first with its override bit, or the root. -/
def chainNode (ovr : Rcb → Bool) (rs : List Rcb) : Rcb := ((rs.find? ovr).or rs.getLast?).getD Rcb.absent

/-! ## The dispatch of a region (R356, R476) -/

/-- Every line of a range can be read through by a device agent. -/
def State.rangeReadable (s : State) (ag : Agent) (va n : Nat) : Except Nat Unit := (s.devReadLong ag (n / 256 + 2) va n).map fun _ => ()

/-- The recipe code that the entries of a recipe table name, as ranges (R187). -/
def State.recipeRanges (s : State) (ag : Agent) (r : Rcb) : Except Nat (List (Nat × Nat)) :=
  match s.devReadLong ag (48 * r.rcount / 256 + 2) r.recipe (48 * r.rcount) with
  | .error c => .error c
  | .ok bs => .ok ((List.range r.rcount).filterMap fun i =>
      let e := recipeEntryOf ((bs.drop (48 * i)).take 48)
      if e.count ≤ 16 then some (r.recipe + 48 * r.rcount + 12 * e.first, 12 * e.count) else none)

/-- The registers of the largest callee that a lane section's calls name; 0 with none (R61). -/
def State.calleeRegs (s : State) (ag : Agent) (r : Rcb) : Nat :=
  ((List.range r.llen).map fun i => match s.devReadLong ag 2 (r.lcode + 12 * i) 12 with
    | .ok bs => match decodedLane (BitVec.ofNat 96 (ofBytes bs)) with
      | .vCallRg w => 8 * bitsAt w.imm.toNat 26 6
      | _ => 0
    | .error _ => 0).foldl max 0

/-- A leaf is dispatched for a session: its region becomes ready. The error holds the status and the tag of the failure. -/
def State.dispatch (s : State) (session addr : Nat) (template : Option Nat) (origin : Option (Nat × Nat)) (die : Nat) :
    Except (Nat × Word64) State :=
  let ag := deviceAgent session die
  match s.devReadLong ag 2 addr 256 with
  | .error c => .error (c, 0)
  | .ok bs =>
    let leaf := rcbOf addr (ofBytes bs)
    let fail {α : Type} (c : Nat) : Except (Nat × Word64) α := .error (c, leaf.tag)
    let lift {α : Type} (x : Except Nat α) : Except (Nat × Word64) α := x.mapError fun c => (c, leaf.tag)
    if !rcbReservedOk (ofBytes bs) || !leaf.leaf then fail 0x42
    else do
      let chain ← lift (s.rcbChain ag 16 addr)
      let r ← match template with
        | none => .ok leaf
        | some t =>
          if t % 256 ≠ 0 then fail 0x42
          else match s.devReadLong ag 2 t 256 with
            | .error c => fail c
            | .ok bs =>
              let x := rcbOf t (ofBytes bs)
              if rcbReservedOk (ofBytes bs) && x.leaf && x.aligned then .ok (leaf.withTemplate x) else fail 0x42
      if !leaf.aligned || !r.aligned || !r.fits 0 then fail 0x42
      else do
        lift (s.rangeReadable ag r.scode (4 * r.slen))
        lift (s.rangeReadable ag r.lcode (12 * r.llen))
        lift (s.rangeReadable ag r.karg r.klen)
        lift (s.rangeReadable ag r.layout (64 * r.lcount))
        lift (s.rangeReadable ag r.recipe (48 * r.rcount))
        let codes ← lift (s.recipeRanges ag r)
        codes.forM fun (a, n) => lift (s.rangeReadable ag a n)
        let callRegs := s.calleeRegs ag r
        if !r.fits callRegs then fail 0x42
        else
          let pool := chainNode Rcb.ovrBudget chain
          let used := (s.devRead ag (pool.addr + 128) 6 true).toOption.map (·.2)
          let region : Region := {
            uid := s.nextUid, session := session, rcb := r, prio := (chainNode Rcb.ovrPrio chain).prio,
            domain := (chainNode Rcb.ovrDomain chain).domain, pool := pool.addr, poolTag := pool.tag, poolDomain := pool.domain,
            budget := pool.budget, callRegs := callRegs, nextHerd := 0,
            exhausted := decide (0 < pool.budget) && used.any (fun u => pool.budget ≤ u), status := 0, origin := origin, die := die }
          let s := { s with regions := s.regions ++ [region], nextUid := s.nextUid + 1 }
          .ok ((s.regionReady region).post (.herdAdmit region.uid))

/-- DISPATCH creates a ready region, with which it completes. -/
def execPacketDispatch (p : Packet) (s : State) : Host.Outcome State Fault Refusal :=
  .next (s.runPacket p fun s =>
    match s.dispatch p.session (packetWord p 1) ((p.words[8]?).map BitVec.toNat) (some (p.q, p.slot)) (s.home p.session) with
    | .ok s => s
    | .error (c, tag) => if c = notYet then s.post (.packetDispatch p) else s.packetFailed { p with words := setNth p.words 7 tag } c)

/-! ## Dependence counters (R314, R357, R478) -/

/-- A counter that no session holds. -/
def DepCounter.free : DepCounter := ⟨0, 0, 0, 0, false⟩

/-- A decrement reaches a scheduler: it is applied, and at zero readies the counter's node; or it is discarded, with a report to the session that
sent it, or where the counter is poisoned to the shepherd (R464). It waits where its node cannot be read at this moment. -/
def execDepCounterDecrement (die ctr amount sender : Nat) (s : State) : Host.Outcome State Fault Refusal :=
  let d := s.die die
  let discarded := s.report sender (BitVec.ofNat 64 (ctr + die * 65536)) 0x81 0x48 die none
  match SMap.get? d.counters ctr with
  | some c =>
    if c.poison then .next (s.tell die .poisonedReduction)
    else if d.live && c.session = sender && amount ≤ c.count.toNat then
      let n := c.count.toNat - amount
      let put (x : DepCounter) : State := s.onDie die fun d => { d with counters := SMap.put d.counters DepCounter.free ctr x }
      if 0 < n then .next (put { c with count := BitVec.ofNat 16 n })
      else
        let t := if c.reload = 0 then s.onDie die fun d => { d with counters := SMap.erase d.counters ctr } else put { c with count := c.reload }
        .next (match if c.node % 256 = 0 then t.dispatch c.session c.node none none die else .error (0x41, 0) with
          | .ok t => t
          | .error (e, tag) =>
            if e = notYet then s.post (.depCounterDecrement die ctr amount sender)
            else t.post (.completionRecordWrite ⟨c.session, tag, 1, e, die, 0, true, none, none⟩))
    else .next discarded
  | none => .next discarded

end Sys2Proof.Machine
end

