-- ==== Sys2Proof/Machine/Session.lean ====
section
/-!
DEFINITION. Sessions at work: sealing and the hash directory (R378 to R383, R461, R462), pools (R375), key loads (R376, R459), forks
and migrations (R384 to R386, R482, R483), and the placement engine (R387, R388).
-/
namespace Sys2Proof.Machine

/-! ## Counters of the directory (R374, R462) -/

/-- A 32-bit counter field of a register rises by 1. -/
def countUp (r : Word64) (lo : Nat) : Word64 := BitVec.ofNat 64 (withBits r.toNat lo 32 (bitsAt r.toNat lo 32 + 1))

/-- MERGES of a die. -/
def Die.countMerge (d : Die) : Die := { d with dirstat0 := countUp d.dirstat0 0 }
/-- PROMOTES of a die. -/
def Die.countPromote (d : Die) : Die := { d with dirstat0 := countUp d.dirstat0 32 }
/-- COLLISIONS of a die. -/
def Die.countCollision (d : Die) : Die := { d with dirstat1 := countUp d.dirstat1 0 }
/-- UNMERGED of a die. -/
def Die.countUnmerged (d : Die) : Die := { d with dirstat1 := countUp d.dirstat1 32 }
/-- BADREL of a die. -/
def Die.countBadRelease (d : Die) : Die := { d with dirstat2 := countUp d.dirstat2 0 }
/-- POISONED of a die. -/
def Die.countPoisoned (d : Die) : Die := { d with dirstat2 := countUp d.dirstat2 32 }

/-! ## References to commons frames (R383) -/

/-- The commons pool header of a die. -/
def State.commonsPool (s : State) (die : Nat) : Nat := bitsAt (s.die die).cpool.toNat 0 52

/-- The directory of a die with the entry at a place replaced, or gone. -/
def setDirEntry (l : List DirEntry) (b i : Nat) (x : Option DirEntry) : List DirEntry :=
  x.toList ++ l.filter fun y => !(y.bucket = b && y.index = i)

/-- The state with a directory entry of a die replaced, or gone. -/
def State.setDir (s : State) (die b i : Nat) (x : Option DirEntry) : State :=
  s.onDie die fun d => { d with directory := setDirEntry d.directory b i x }

/-- Every cached copy of a frame's lines is invalidated, in every cache of the four dies. -/
def State.dropFrame (s : State) (frame : Nat) : State :=
  let out (pa : Nat) : Bool := pa / 4096 ≠ frame
  let apart (x : DecoderEntry) : Bool := x.pa + x.bytes.length ≤ frame * 4096 || (frame + 1) * 4096 ≤ x.pa
  let s := s.mapCores fun k => { k with l1 := k.l1.filter (fun x => out x.pa), decoders := k.decoders.filter apart }
  { s with dies := s.dies.map fun d =>
      { d with l2 := d.l2.filter (fun x => out x.pa), rdc := d.rdc.filter (fun x => out x.pa), xbar := d.xbar.filter fun x => out x.2 } }

/-- A reference of a directory entry is given up; the last frees the entry and its frame. -/
def State.unref (s : State) (die : Nat) (x : DirEntry) : State :=
  if 1 < x.refcnt then s.setDir die x.bucket x.index (some { x with refcnt := x.refcnt - 1 })
  else (((s.setDir die x.bucket x.index none).dropFrame x.frame).poolReturn die (s.commonsPool die) x.frame)

/-- A reference release acts at the frame's home die once it has come there. -/
def execCommonsRelease (frame : FrameRelease) (s : State) : Host.Outcome State Fault Refusal :=
  let j := homeDie (frame.frame * 4096)
  let d := s.die j
  if !d.live then .next s
  else if s.onWay frame.id then .next (s.post (.commonsRelease frame))
  else match d.directory.find? fun x => x.frame = frame.frame with
    | none => .next (s.onDie j Die.countBadRelease)
    | some x => if d.poisonedBuckets.contains x.bucket then .next (s.onDie j Die.countPoisoned) else .next (s.unref j x)

/-- A write of CREL releases one reference. -/
def execCrel (_die : Nat) (value : Word64) (s : State) : Host.Outcome State Fault Refusal :=
  .next ((s.post (.commonsRelease ⟨s.nextUid, bitsAt value.toNat 0 40⟩)).bumpUid)

/-! ## Waiting pool returns (R375) -/

/-- A waiting return reads the header again. -/
def execPoolReturnRetry (die header frame : Nat) (since : Word64) (s : State) : Host.Outcome State Fault Refusal :=
  let n := s.poolCount header
  if n < s.poolCap header then
    let array := s.clearNum (header + 8) 8
    .next ((s.putNum (array + 8 * n) 8 frame).putNum header 4 (n + 1))
  else .next (s.post (.poolReturnRetry die header frame since))

/-- A return that still waits after 2^20 cycles is told to the die's shepherd. -/
def execPoolReturnStall (die header frame : Nat) (since : Word64) (s : State) : Host.Outcome State Fault Refusal :=
  if !s.agenda.contains (.poolReturnRetry die header frame since) then .next s
  else if ((s.die die).cycle - since).toNat < 2 ^ 20 then .next (s.post (.poolReturnStall die header frame since))
  else .next (s.tell die .poolReturn)

/-! ## Seals (R379 to R381, R461) -/

/-- Memory with a frame's units shown under a key slot (R85). -/
def State.frameUnder (s : State) (frame slot : Nat) : State :=
  (List.range 16).foldl (fun s i => s.rekey ⟨0, frame * 4096 + 256 * i, slot, 0, false, none, 0, false⟩) s

/-- The plaintext of a frame under a key slot, none where its die is removed or a part is poisoned. -/
def State.plaintext (s : State) (frame slot : Nat) : Option (List Byte) :=
  let pa := frame * 4096
  if !(s.die (homeDie pa)).live || s.memPoisoned pa 4096 then none else some (Memory.bytes (s.frameUnder frame slot).mem pa 4096)

/-- The digest of a page of a session under the dedup secret. -/
def State.pageDigest (s : State) (session die : Nat) (secret : BitVec 256) (page : List Byte) : Nat :=
  let dg := ofBytes (shake256 (bytesOf 32 secret.toNat ++ bytesOf 8 (s.title session) ++ page) 8)
  if (s.die die).ptest.getD (s.paddockOf session) false then dg % 2 ^ 12 else dg

/-- Merge: the entry of a sealed page comes to name a commons frame, if it has not changed; else the reference is given back. The TLB copies of
the session go, and no copy of the old frame's lines stays for its next use (R381). -/
def State.merge (s : State) (die : Nat) (j : SealJob) (x : DirEntry) : State :=
  let e := s.clearNum j.entryPa 16
  if pteFrame e = j.frame && pteKey e = j.keyslot && pteBit e 108 then
    let e := withBits (withBits (withBits e 0 40 x.frame) 96 10 (s.tkeyslot j.session)) 110 1 1
    let home := homeDie (j.frame * 4096)
    let s := ((s.putNum j.entryPa 16 e).tlbTell j.session home none).dropStale (j.frame * 4096) 4096
    (s.poolReturn home (s.framePool j.session home) j.frame).onDie die Die.countMerge
  else s.unref die x

/-- A page of no equal in its bucket is promoted to a new commons frame, if the bucket and the pool have room (R380). -/
def State.promote (s : State) (die bucket dg : Nat) (j : SealJob) (page : List Byte) (collided : Bool) : State :=
  let mine := (s.die die).directory.filter fun x => x.bucket = bucket
  match (List.range 4).find? fun i => mine.all fun x => x.index ≠ i with
  | none => s.onDie die Die.countUnmerged
  | some i => match s.poolTake (s.commonsPool die) with
    | none => s.onDie die Die.countUnmerged
    | some (s, c) =>
      let s := s.putUnits (c * 4096) page (s.keyPair (s.tkeyslot j.session) die)
      let x : DirEntry := ⟨bucket, i, BitVec.ofNat 64 dg, BitVec.ofNat 64 (s.title j.session), c, 1, collided⟩
      ((s.setDir die bucket i (some x)).onDie die Die.countPromote).merge die j x

/-- The entries of a bucket whose digest is that of the page, from one of them on: an equal page of the same title merges, and each
other counts a collision. -/
def State.matchPage (s : State) (die bucket dg : Nat) (j : SealJob) (page : List Byte) (collided : Bool) : List DirEntry → State
  | [] => s.promote die bucket dg j page collided
  | x :: r =>
    if x.title.toNat = s.title j.session && s.plaintext x.frame (s.tkeyslot j.session) = some page then
      if x.refcnt = 2 ^ 24 - 1 then s.onDie die Die.countUnmerged
      else
        let x := { x with refcnt := x.refcnt + 1 }
        (s.setDir die bucket x.index (some x)).merge die j x
    else (s.onDie die Die.countCollision).matchPage die bucket dg j page true r

/-- Some access to a frame has been translated and is not performed (R381, R388). -/
def State.frameBusy (s : State) (frame : Nat) : Bool :=
  let here (pa : Nat) : Bool := pa / 4096 = frame
  (s.flocks.any fun f => f.ops.any fun o => o.pieces.any fun p => p.value.isNone && p.loc.any fun l => here l.pa)
    || (s.undelivered.any fun p => p.acts.any fun a => here (actPa a))
    || (s.cores.any fun (_, k) => k.engine.any fun c => c.words.any fun w => w.loc.any fun l => here l.pa)
    || s.cores.any fun (_, k) => k.mxq.any fun o => match o.kind with
      | .drain _ lanes => lanes.any fun (_, ls) => ls.any fun l => here l.pa
      | _ => false

/-- A sealed page is digested at its home die and offered to the directory, once it has come there, while no access to its frame is pending
and its session is no bellwether (R381, R384; log entry 38). -/
def execSealDigest (j : SealJob) (s : State) : Host.Outcome State Fault Refusal :=
  let i := homeDie (j.frame * 4096)
  if !(s.die i).live then .next s
  else if s.onWay j.id || s.frameBusy j.frame || s.sessionState j.session = 2 then .next (s.post (.sealDigest j))
  else match (s.die i).shepherd.dedup with
    | none => .next (s.post (.sealDigest j))
    | some secret =>
      match if s.keyOk j.session j.keyslot i then s.plaintext j.frame j.keyslot else none with
      | none => .next (s.onDie i Die.countUnmerged)
      | some page =>
        let dg := s.pageDigest j.session i secret page
        let die := bitsAt dg 62 2
        let bucket := bitsAt dg 0 22
        let d := s.die die
        if !d.live then .next (s.onDie i Die.countUnmerged)
        else if d.poisonedBuckets.contains bucket then .next (s.onDie die fun d => d.countUnmerged.countPoisoned)
        else
          let s := s.shipNew .control j.session i die
          let mine := sortBy (fun (x y : DirEntry) => x.index ≤ y.index) (d.directory.filter fun x => x.bucket = bucket && x.digest.toNat = dg)
          .next (s.matchPage die bucket dg j page false mine)

/-! ## Key loads (R376, R459) -/

/-- A location is under a key slot and homed on a die. -/
def Loc.under (l : Loc) (slot die : Nat) : Bool := l.key = slot && homeDie l.pa = die

/-- Some access that uses a key slot on a die has been translated and is not performed. -/
def State.keyInUse (s : State) (slot die : Nat) : Bool :=
  (s.flocks.any fun f => f.ops.any fun o => o.packets ≠ 0 || o.pieces.any fun p => p.value.isNone && p.loc.any fun l => l.under slot die)
    || (s.flocks.any fun f => f.claims.any fun (_, c) => c.queue.under slot die || c.place.under slot die)
    || (s.cores.any fun (_, k) => k.engine.any fun c => c.words.any fun w => w.loc.any fun l => l.under slot die)
    || (s.cores.any fun (_, k) => k.mxq.any fun o => match o.kind with
      | .drain _ lanes => lanes.any fun (_, ls) => ls.any fun l => l.under slot die
      | _ => false)
    || !s.undelivered.isEmpty

/-- Every cached line filled under a key slot from a die's frames is written back and invalidated, on all dies. The crossbar caches, which record
no slot, lose every line of the die. -/
def State.flushKey (s : State) (slot die : Nat) : State :=
  let out (key pa : Nat) : Bool := !(key = slot && homeDie pa = die)
  let s := s.mapCores fun k => { k with l1 := k.l1.filter fun x => out x.keyslot x.pa, decoders := [] }
  s.mapDies fun d =>
    { d with l2 := d.l2.filter (fun x => out x.keyslot x.pa), rdc := d.rdc.filter (fun x => out x.keyslot x.pa)
             xbar := d.xbar.filter fun x => homeDie x.2 ≠ die }

/-- A key load: the slot is erased once no access uses it, and takes the unwrapped key; a blob that fails its check leaves it
empty. -/
def execKeyLoad (die slot : Nat) (blob : List Byte) (s : State) : Host.Outcome State Fault Refusal :=
  let h := (s.die die).shepherd
  match if h.mode = .running then h.vaultKey else none with
  | none => .next (s.post (.keyLoad die slot blob))
  | some v =>
    if slot = 0 ∨ 1024 ≤ slot then .next (s.emit (.keyLoad die slot false))
    else if s.keyInUse slot die then .next (s.post (.keyLoad die slot blob))
    else
      let s := (s.flushKey slot die).onDie die fun d => { d with keys := SMap.erase d.keys slot }
      match if blob.length = 72 then unwrapKey (bytesOf 32 v.toNat) blob else none with
      | none => .next (s.emit (.keyLoad die slot false))
      | some key =>
        let s := s.onDie die fun d => { d with keys := SMap.insert d.keys slot (BitVec.ofNat 512 (ofBytes key)) }
        .next (s.emit (.keyLoad die slot true))

/-! ## Page tables as a whole (R78, R384, R385) -/

/-- The entries of a table that can be read, none where its die is removed or a part is poisoned. -/
def State.tableEntries (s : State) (table : Nat) : Option (List Nat) :=
  if !inModule table || !(s.die (homeDie table)).live || s.memPoisoned table 8192 then none
  else some ((List.range 512).map fun i => s.clearNum (table + 16 * i) 16)

/-- An entry points to a table of the level below. -/
def isPointer (level e : Nat) : Bool := 0 < level && pteBit e 106 && pteSize e = 3

/-- The frames of the tables below and with a table, and the leaf entries under it with their virtual addresses, in ascending order;
none where a table cannot be read. -/
def State.tableTree (s : State) : Nat → Nat → Nat → Option (List Nat × List (Nat × Nat))
  | level, frame, va =>
    match s.tableEntries (frame * 4096) with
    | none => none
    | some es =>
      let at_ (i : Nat) : Nat := va + i * 2 ^ (12 + 9 * level)
      match level with
      | 0 => some ([frame], (es.zipIdx.filter fun (e, _) => pteBit e 106).map fun (e, i) => (at_ i, e))
      | l + 1 => es.zipIdx.foldl (fun x (e, i) => match x with
        | none => none
        | some (fs, ls) =>
          if isPointer (l + 1) e then match s.tableTree l (pteFrame e) (at_ i) with
            | none => none
            | some (fs', ls') => some (fs ++ fs', ls ++ ls')
          else if pteBit e 106 then some (fs, ls ++ [(at_ i, e)])
          else x) (some ([frame], []))

/-- The tables and leaf entries of a session. -/
def State.sessionTree (s : State) (session : Nat) : Option (List Nat × List (Nat × Nat)) := s.tableTree 3 (s.root session) 0

/-! ## Forks (R384, R385, R482) -/

/-- A session's tables and windows are as a bellwether's must be (R384). -/
def State.bellwetherOk (s : State) (b : Nat) (leaves : List (Nat × Nat)) : Bool :=
  (s.windows b).isEmpty && leaves.all fun (_, e) => pteOverlay e = 0 && (pteSize e = 0 || !pteBit e 107)

/-- The checks of a fork that read the contexts alone (R385). -/
def State.kin (s : State) (b c : Nat) : Bool :=
  s.sessionState b = 2 && s.ctx c 1012 1 = 1 && s.ctx c 992 10 = b && s.paddockOf c = s.paddockOf b

/-- The checks of a fork that read the bellwether's tables. -/
def State.forkOk (s : State) (b : Nat) (tree : List Nat × List (Nat × Nat)) : Bool :=
  let slot := s.keyslot b
  let loaded (frame : Nat) : Bool := ((s.die (homeDie (frame * 4096))).keys.get? slot).isSome
  tree.1.all loaded && tree.2.all (fun (_, e) => pteKey e ≠ slot || loaded (pteFrame e)) && s.bellwetherOk b tree.2

/-- One more reference to a commons frame; none where its count is full (R385). -/
def State.addRef (s : State) (frame : Nat) : Option State :=
  let j := homeDie (frame * 4096)
  match (s.die j).directory.find? fun x => x.frame = frame with
  | none => some s
  | some x => if x.refcnt = 2 ^ 24 - 1 then none else some (s.setDir j x.bucket x.index (some { x with refcnt := x.refcnt + 1 }))

/-- A leaf entry as the child holds it, with the reference it takes. -/
def State.forkLeaf (s : State) (e : Nat) : Option (State × Nat) :=
  if !pteBit e 106 || pteSize e ≠ 0 then some (s, e)
  else if pteBit e 110 then (s.addRef (pteFrame e)).map fun s => (s, withBits e 108 1 1)
  else some (s, withBits e 108 1 1)

/-- The state with a whole table written. -/
def State.writeTable (s : State) (frame : Nat) (es : List Nat) : State :=
  s.putUnits (frame * 4096) (es.flatMap (bytesOf 16)) none

/-- `n` bytes are read from one die and written to another line by line, by an agent of a session at die `by_`: over the session's network where
they are not its own (R391). -/
def State.shipLines (s : State) (session by_ src dst n : Nat) : State :=
  (List.range (n / 256)).foldl (fun s _ =>
    (if src = by_ then s else s.shipRead session by_ src).shipNew .ordered session by_ dst) s

/-- A table and the tables below it, down to level `stop`, are copied by the queue processor of die `by_` for a session into pairs of a table
pool, and the entries of the lowest level by `leaf`. None where a pool is empty, a count is full or a table cannot be read. -/
def State.copyTables (s : State) (session by_ pool stop : Nat) (leaf : State → Nat → Option (State × Nat)) : Nat → Nat → Option (State × Nat)
  | level, frame =>
    match s.tableEntries (frame * 4096), s.poolTake pool with
    | some es, some (s, new) =>
      let put (x : Option (State × List Nat)) : Option (State × Nat) := x.map fun (s, es) =>
        ((s.writeTable new es).shipLines session by_ (homeDie (frame * 4096)) (homeDie (new * 4096)) 8192, new)
      let each (go : State → Nat → Option (State × Nat)) : Option (State × List Nat) :=
        es.foldl (fun x e => match x with
          | none => none
          | some (s, es) => (go s e).map fun (s, e) => (s, es ++ [e])) (some (s, []))
      match level with
      | 0 => put (each leaf)
      | l + 1 =>
        if l + 1 = stop then put (each leaf)
        else put (each fun s e =>
          if isPointer (l + 1) e then (s.copyTables session by_ pool stop leaf l (pteFrame e)).map fun (s, f) => (s, withBits e 0 40 f) else leaf s e)
    | _, _ => none

/-- What a child takes from its bellwether (R385 step 1). -/
def State.inherit (s : State) (b c : Nat) : State :=
  [(51, 10), (112, 16), (128, 64), (192, 64), (704, 64), (768, 20), (800, 64), (864, 12), (896, 64), (960, 16)].foldl
    (fun s (lo, n) => s.setCtx c lo n (s.ctx b lo n)) s

/-- Packets of a session start, or start again: its queues are looked at. -/
def State.wakeQueues (s : State) (session : Nat) : State :=
  (s.queues.filter fun x => x.session = session).foldl (fun s x => s.postOnce (.queueStep x.session x.q)) s

/-- The bellwether and the child that a FORK names. -/
def forkArgs (p : Packet) : Nat × Nat := (bitsAt (packetWord p 1) 0 10, bitsAt (packetWord p 1) 16 10)

/-- A FORK claims its free child, whose STATE reads 3 and TKIND 1 until the fork has ended (R482). -/
def State.forkClaim (s : State) (p : Packet) : State :=
  let x := s.queue p.session p.q
  ((s.setQueue { x with forks := x.forks ++ [p.slot] }).setCtx (forkArgs p).2 33 2 3).setCtx (forkArgs p).2 61 1 1

/-- A FORK gives its claim up: the child's STATE is `state`, and its TKIND 0. -/
def State.forkRelease (s : State) (p : Packet) (state : Nat) : State :=
  let x := s.queue p.session p.q
  ((s.setQueue { x with forks := x.forks.filter (· ≠ p.slot) }).setCtx (forkArgs p).2 33 2 state).setCtx (forkArgs p).2 61 1 0

/-- A FORK that holds its claim makes its checks and copies the tables of the bellwether. -/
def State.forkCopy (s : State) (p : Packet) : State :=
  let (b, c) := forkArgs p
  let fails (code : Nat) : State := (s.forkRelease p 0).packetFailed p code
  if !s.kin b c || !(s.windows b).isEmpty then fails 0x44
  else match s.sessionTree b with
  | none => fails 0x45
  | some tree =>
    if !s.forkOk b tree then fails 0x44
    else match s.copyTables c (s.home p.session) (s.tablePool c (s.home c)) 0 State.forkLeaf 3 (s.root b) with
      | none => fails 0x45
      | some (s, root) =>
        let s := (s.inherit b c).setCtx c 64 40 root
        let s := s.setCtx b 1002 10 (s.ctx b 1002 10 + 1)
        (((s.forkRelease p 1).latchSched c).wakeQueues c).packetDone p

/-- FORK: the child is claimed, where it is free, and in a later step the checks are made and the tables of the bellwether copied. -/
def execPacketFork (p : Packet) (s : State) : Host.Outcome State Fault Refusal :=
  .next (s.runPacket p fun s =>
    if (s.queue p.session p.q).forks.contains p.slot then s.forkCopy p
    else if s.sessionState (forkArgs p).2 ≠ 0 then s.packetFailed p 0x44
    else (s.forkClaim p).post (.packetFork p))

/-! ## Migrations (R386, R483) -/

/-- The session and the die that a MIGRATE names. -/
def migrateArgs (p : Packet) : Nat × Nat := (bitsAt (packetWord p 1) 0 10, bitsAt (packetWord p 1) 16 2)

/-- MIGRATE: on a privileged queue, an active session stops and its herds are pre-empted. -/
def execPacketMigrate (p : Packet) (s : State) : Host.Outcome State Fault Refusal :=
  .next (s.runPacket p fun s =>
    let (session, _) := migrateArgs p
    let priv : Option Bool := match s.queueDescriptor p.session p.q with
      | .ok (_, d) => some d.priv
      | .error c => if c = notYet then none else some false
    if priv = none then s.post (.packetMigrate p)
    else if priv = some false then s.packetFailed p 0x43
    else if (s.paddock (s.paddockOf session)).quiesce then s.post (.packetMigrate p)
    else if s.sessionState session ≠ 1 then s.packetFailed p 0x46
    else
      let s := (s.setCtx session 33 2 3).setCtx session 61 1 0
      let s := (s.herds.filter fun h => h.session = session).foldl (fun s h => s.preempt h.uid false) s
      s.post (.migrateMove p))

/-- A shepherd that would move the key of a session to a die is restarting: what it has to do waits (R485). -/
def State.keyMoveWaits (s : State) (session die : Nat) : Bool :=
  let mask := s.ctx session 37 4
  bitsAt mask die 1 = 0 && ((List.range 4).find? fun d => bitsAt mask d 1 = 1).any fun d =>
    [d, die].any fun i => (s.die i).live && (s.die i).shepherd.mode = .reset

/-- The key of a session comes to a die that does not hold it: the lowest die that does wraps it under the other's vault key, and the blob
of 72 bytes goes over the fabric and is unwrapped. None where it cannot, or where the slot holds another key (R376, R386 step 3, R483). -/
def State.moveKey (s : State) (session die : Nat) : Option State :=
  let slot := s.keyslot session
  let mask := s.ctx session 37 4
  if bitsAt mask die 1 = 1 then some s
  else
    let source := (List.range 4).find? fun d => bitsAt mask d 1 = 1
    let here := SMap.get? (s.die die).keys slot
    match source with
    | none => none
    | some d => match SMap.get? (s.die d).keys slot, (s.die die).shepherd.vaultKey with
      | some k, some v =>
        let kek := bytesOf 32 v.toNat
        match unwrapKey kek (wrapKey kek (bytesOf 64 k.toNat)) with
        | none => none
        | some bs =>
          let key : BitVec 512 := BitVec.ofNat 512 (ofBytes bs)
          if !(s.die d).live || !(s.die die).live || here.any (· ≠ key) then none
          else
            let s := (s.shipNew .control session d die).onDie die fun x => { x with keys := SMap.insert x.keys slot key }
            some (s.setCtx session 37 4 (mask + 2 ^ die))
      | _, _ => none

/-- The rest of a migration, once every herd of the session is saved: the upper tables are copied, the key moves, and HOME changes
(log entry 39). -/
def execMigrateMove (p : Packet) (s : State) : Host.Outcome State Fault Refusal :=
  let (session, die) := migrateArgs p
  let active (s : State) : State := (((s.setCtx session 33 2 1).setCtx session 61 1 0).latchSched session).wakeQueues session
  if (s.herds.any fun h => h.session = session && h.status ≠ .saved) || s.keyMoveWaits session die then .next (s.post (.migrateMove p))
  else
    let moved := if (s.die die).live then
        (s.copyTables session (s.home session) (s.tablePool session die) 2 (fun s e => some (s, e)) 3 (s.root session)).bind fun (s, root) =>
          ((s.setCtx session 64 40 root).tlbTell session (s.home session) none).moveKey session die
      else none
    match moved with
    | none => .next ((active (s.tlbTell session (s.home session) none)).packetFailed p 0x46)
    | some s => .next ((active (s.setCtx session 35 2 die)).packetDone p)

/-! ## The placement engine (R387, R388, R389) -/

/-- The die whose cores have filled most lines of a region, the lowest of equals. -/
def PlaceRec.busiest (r : PlaceRec) : Nat :=
  let most := (r.counts.map BitVec.toNat).foldl max 0
  ((List.range 4).find? fun d => (r.counts.getD d 0).toNat = most).getD 0

/-- The region is to move from its home die (R387). -/
def State.selected (s : State) (home : Nat) (r : PlaceRec) : Bool :=
  let e := r.busiest
  let n := (r.counts.getD e 0).toNat
  e ≠ home && decide (64 ≤ n ∧ 2 * (r.counts.getD home 0).toNat ≤ n) && s.ctx r.session (37 + e) 1 = 1

/-- The sums of a die's counters by session (R389). -/
def epochSums (l : List PlaceRec) : List (Nat × Nat) :=
  ((l.map PlaceRec.session).eraseDups).map fun i =>
    (i, ((l.filter fun r => r.session = i).map fun r => (r.counts.map BitVec.toNat).sum).sum)

/-- The end of an epoch: sums are kept, regions are selected for at most 256 frames, and every counter is halved (log entry 40). -/
def execPlacementEpoch (die : Nat) (s : State) : Host.Outcome State Fault Refusal :=
  let d := s.die die
  if !d.live then .next s
  else if d.cycle.toNat < d.epochAt.toNat then .next (s.post (.placementEpoch die))
  else
    let chosen := (d.placement.filter (s.selected die)).take 16
    let moves := chosen.flatMap fun r => (List.range 16).map fun i => Event.frameMove ⟨r.session, r.va + 4096 * i, die, r.busiest⟩
    let halved := d.placement.map fun r => { r with counts := r.counts.map fun (c : BitVec 8) => c >>> 1 }
    let kept := halved.filter fun r => r.counts.any fun (c : BitVec 8) => c ≠ 0
    let s := s.setDie die { d with placement := kept, epochSums := epochSums d.placement, epochAt := d.cycle + 1048576 }
    .next ((moves.foldl State.post s).post (.placementEpoch die))

/-- A page move: a private frame that still lies where it did is copied to the other die and its entry swapped (R388). A frame of a 64 KiB page
stays, since the sixteen entries of one keep consecutive frames (R80; log entry 40), and so do those of a bellwether (R384). -/
def execFrameMove (m : FrameMove) (s : State) : Host.Outcome State Fault Refusal :=
  match s.walk m.session m.va with
  | .error _ => .next s
  | .ok (pa, e) =>
    let frame := pteFrame e
    let may := s.sessionState m.session % 2 = 1 && homeDie (frame * 4096) = m.home && pteSize e = 0 && !pteBit e 108 && !pteBit e 110
      && pteGranules e = 0 && (s.die m.dest).live && s.keyOk m.session (pteKey e) m.home && s.keyOk m.session (pteKey e) m.dest
      && (s.windowOf m.session m.va).isNone
      && (s.sessionTree m.session).any fun t => !t.1.contains frame && !t.1.contains (frame - 1)
    if !may then .next s
    else if s.frameBusy frame then .next (s.post (.frameMove m))
    else match s.poolTake (s.framePool m.session m.dest) with
      | none => .next s
      | some (s, new) =>
        let s := (s.frameUnder frame (pteKey e)).copyBytes (frame * 4096) (new * 4096) 4096 (s.keyPair (pteKey e) m.dest)
        let s := s.shipLines m.session m.home m.home m.dest 4096
        let s := (s.putNum pa 16 (withBits e 0 40 new)).tlbTell m.session m.home (some m.va)
        .next ((s.dropStale (frame * 4096) 4096).poolReturn m.home (s.framePool m.session m.home) frame)

end Sys2Proof.Machine
end

