-- ==== Sys2Proof/Machine/Shepherd.lean ====
section
/-!
DEFINITION. The shepherds: boot and bring-up (R25, R400, R401, R487), recovery (R488), attestation (R402, R489), the partition commit
(R99, R403, R485), and resets (R399, R485, R486).
-/
namespace Sys2Proof.Machine

/-! ## Keys (R401, R486) -/

/-- The vault key of a die: the ASCII bytes are those of "vault". -/
def vaultKey (die : Nat) : BitVec 256 :=
  BitVec.ofNat 256 (ofBytes (shake256 (bytesOf 32 Config.moduleWrapKey.toNat ++ [0x76, 0x61, 0x75, 0x6C, 0x74] ++ [BitVec.ofNat 8 die]) 32))

/-- The dedup secret on its way to a die, wrapped under that die's vault key. -/
def State.sendSecret (s : State) (secret : BitVec 256) (die : Nat) : State :=
  s.post (.dedupSecretReceive die (wrapKey (bytesOf 32 (vaultKey die).toNat) (bytesOf 32 secret.toNat)))

/-- A shepherd without the dedup secret obtains it: die 0 draws it for the first time and sends it to the others, or fetches it from
die 1; another die fetches it from die 0. -/
def State.seekSecret (s : State) (die : Nat) : State :=
  if (s.shep die).dedup.isSome then s
  else if die ≠ 0 then match (s.shep 0).dedup with
    | some x => s.sendSecret x die
    | none => s
  else match (s.shep 1).dedup with
    | some x => s.sendSecret x 0
    | none =>
      let x := Config.randomDraw s.ticks
      [1, 2, 3].foldl (fun s d => s.sendSecret x d) (s.onShep 0 fun h => { h with dedup := some x })

/-- The wrapped dedup secret reaches a shepherd, which keeps what unwraps; die 0's answers the shepherds that have asked it in vain (R486). -/
def execDedupSecretReceive (die : Nat) (blob : List Byte) (s : State) : Host.Outcome State Fault Refusal :=
  match if s.shepRuns die then (s.shep die).vaultKey else none with
  | none => .next (s.post (.dedupSecretReceive die blob))
  | some v => match unwrapKey (bytesOf 32 v.toNat) blob with
    | none => .next s
    | some x =>
      let x := BitVec.ofNat 256 (ofBytes x)
      let s := s.onShep die fun h => { h with dedup := some x }
      .next (if die ≠ 0 then s
        else (s.liveDies.filter fun d => d ≠ 0 && (s.shep d).dedup.isNone).foldl (fun s d => s.sendSecret x d) s)

/-! ## The partition commit (R99, R358, R360, R403) -/

/-- A clock ratio within 1.2 to 1.9 GHz of 1.6 GHz. -/
def ratioOk (num den : Nat) : Bool := decide (1 ≤ num ∧ 1 ≤ den ∧ 12 * den ≤ 16 * num ∧ 16 * num ≤ 19 * den)

/-- A descriptor holds no value that is reserved or forbidden. -/
def descOk (d : PaddockDesc) : Bool :=
  d.reserved = 0 && d.reservedHigh = 0 && 1 ≤ d.quantum.toNat && d.bgblog.toNat ≤ 10
    && (d.ltlog.toNat = 0 || (4 ≤ d.ltlog.toNat && d.ltlog.toNat ≤ 12)) && (!d.lock || ratioOk d.lnum.toNat d.lden.toNat)

/-- A map holds no value that is reserved; a paddock's map has no CWAYS. -/
def mapOk (m : MapReg) (commons : Bool) : Bool := m.sglog.toNat ≤ 5 && m.reserved = 0 && (commons || m.cways = 0)

/-- PADMASK of a change. -/
def padmask (c : LayoutChange) : BitVec 8 := BitVec.ofNat 8 ((changed c).map (2 ^ ·)).sum

/-- The descriptors as a change leaves them. -/
def State.newDescs (s : State) (c : LayoutChange) : List PaddockDesc :=
  (List.range 8).map fun n => ((c.paddocks.find? fun x => x.1 = n).map (·.2)).getD (s.paddock n).desc

/-- No cluster is named in two paddocks. -/
def disjointClusters : List PaddockDesc → Bool
  | [] => true
  | d :: r => (r.all fun e => d.clusters &&& e.clusters = 0) && disjointClusters r

/-- A change may be made: its values are allowed, and every paddock it touches is quiesced. -/
def State.changeOk (s : State) (c : LayoutChange) : Bool :=
  (changed c).all (fun n => n < 8 && (s.paddock n).quiesced) && c.paddocks.all (fun x => descOk x.2) && c.maps.all (fun x => mapOk x.2 false)
    && c.mapc.all (fun m => mapOk m true) && disjointClusters (s.newDescs c)

/-- A layout change is requested: it waits for the one before it, and is refused or sent to every shepherd to prepare. -/
def execPartitionCommitRequest (c : LayoutChange) (s : State) : Host.Outcome State Fault Refusal :=
  let k := s.coordinator
  if !s.shepRuns k || s.inProgress.isSome then .next (s.post (.partitionCommitRequest c))
  else if !s.changeOk c then .next (s.emit .commitRefused)
  else .next (s.stage (some c))

/-- A fill of a commons line is in flight on a die. -/
def State.commonsFill (s : State) (die : Nat) : Bool :=
  s.flocks.any fun f => dieOf f.core = die && f.ops.any fun o => o.pieces.any fun p => p.value.isNone && p.loc.any fun l => l.commons

/-- A shepherd prepares and reports. For a change of the commons map its gate closes, and the record is written once no commons fill is in
flight. With the last report of a layout change the coordinator commits, unless its shepherd is restarting: then the change rolls back (R485);
with that of a removal the fabric is to be emptied first (R472). -/
def execPrepareReport (die : Nat) (s : State) : Host.Outcome State Fault Refusal :=
  let again (s : State) : State := s.post (.prepareReport die)
  match if (s.die die).live then (s.shep die).staged else none with
  | none => .next s
  | some (seq, c) =>
    let gate := c.any fun c => c.mapc.isSome
    if !s.shepRuns die then .next (again s)
    else if s.journalled die seq 1 then .next s
    else
      let s := if gate then s.onDie die fun d => { d with gateClosed := true } else s
      if gate && s.commonsFill die then .next (again s)
      else
        let s := s.onShep die fun h => { h with journal := ⟨seq, 1, (c.map padmask).getD 0, gate⟩ }
        if !(s.liveDies.all (fun d => s.journalled d seq 1) && s.shepRuns s.coordinator) then .next s
        else .next (if c.isSome then s.commit else s.postOnce .resynchronisation)

/-- The lines of a die that were filled under a map that changes are written back and invalidated, with the L1 copies under them. -/
def State.dropLines (s : State) (die : Nat) (out : Line → Bool) : State :=
  let gone := (s.die die).l2.filter out
  let s := gone.foldl (fun s l => s.dropL1 die l.pa l.presence) s
  s.onDie die fun d => { d with l2 := d.l2.filter (fun l => !out l), rdc := d.rdc.filter fun l => !out l }

/-- The new descriptors and maps take effect on a die. -/
def State.applyChange (s : State) (die : Nat) (c : LayoutChange) : State :=
  let remapped (l : Line) : Bool := match l.session with
    | none => c.mapc.isSome
    | some _ => c.maps.any fun x => x.1 = l.paddock
  let s := s.dropLines die remapped
  let s := c.maps.foldl (fun s (n, m) => s.onDie die fun d => { d with maps := setNth d.maps n m }) s
  let s := match c.mapc with
    | some m => s.onDie die fun d => { d with mapc := m, gateClosed := false }
    | none => s
  c.paddocks.foldl (fun s (n, d) => s.setPaddock n { s.paddock n with next := some d }) s

/-- A shepherd applies a commit and reports; with the last report the commit is done. Without a commit record it does nothing. -/
def execCommitApply (die : Nat) (s : State) : Host.Outcome State Fault Refusal :=
  match if (s.die die).live then (s.shep die).staged else none with
  | none => .next s
  | some (seq, c) =>
    if !s.shepRuns die then .next (s.post (.commitApply die))
    else if !s.liveDies.any fun d => s.journalled d seq 2 then .next s
    else
      let s := match c with
        | some c => s.applyChange die c
        | none => if s.journalled die seq 3 then s else s.freshStamps die
      let s := s.onShep die fun h => { h with journal := ⟨seq, 3, (c.map padmask).getD 0, c.any fun c => c.mapc.isSome⟩ }
      .next (if s.liveDies.all fun d => s.journalled d seq 3 then s.postOnce .commitDone else s)

/-- Every shepherd has applied a commit. The coordinator releases the paddocks of a layout change; after a removal the dies send again. -/
def execCommitDone (s : State) : Host.Outcome State Fault Refusal :=
  match s.inProgress with
  | none => .next s
  | some (seq, c) =>
    if !s.liveDies.all fun d => s.journalled d seq 3 then .next s
    else if !s.shepRuns s.coordinator then .next (s.post .commitDone)
    else
      let k := s.die s.coordinator
      let t := s.mapDies fun d => { d with shepherd := { d.shepherd with staged := none } }
      .next (match c with
        | none => t
        | some c => (changed c).foldl State.endQuiesce { t with committed := ⟨s.newDescs c, k.maps, k.mapc⟩ })

/-! ## Boot (R25, R400, R487) -/

/-- The boot ROM verifies the image: it runs, with its measurements recorded and its keys derived, or the shepherd recovers. -/
def execBoot (die : Nat) (s : State) : Host.Outcome State Fault Refusal :=
  let h := s.shep die
  if h.mode ≠ .reset then .next s
  else if !Config.imageVerifies die h.flash then .next (s.onShep die fun h => { h with mode := .recovery })
  else
    let now := (s.die die).cycle
    let first := (s.die die).stage = 0
    let s := s.onShep die fun h =>
      { h with mode := .running, romDigest := some (sha3 (Config.romImage die)), imageDigest := some (sha3 h.flash),
               vaultKey := some (vaultKey die), identity := some (Config.identityKey (Config.dieSecret die)), started := now }
    let s := (s.seekSecret die).resolveCommit
    let events := [Event.dieBringup die, .bootPeerTimeout die, .heartbeat die false, .powerSample die]
    .next (if first then events.foldl State.postOnce s else s)

/-- The common release: die d starts its clusters at d times 5 microseconds after it. -/
def State.releaseDies (s : State) : State :=
  s.liveDies.foldl (fun s d =>
    if (s.die d).stage = 1 then
      (s.onDie d fun x => { x with stage := 2, nextPower := x.cycle + BitVec.ofNat 64 (7500 * d), epochAt := x.cycle + 1048576 }).post (.clusterPowerUp d 0)
        |>.post (.placementEpoch d)
    else s) s

/-- The dies are released once every one that counts is ready. -/
def State.releaseIfReady (s : State) : State := if s.liveDies.all fun d => (s.shep d).ready then s.releaseDies else s

/-- A link that fails training is down from the start. -/
def State.trainLink (s : State) (die link : Nat) (ok : Bool) : State :=
  if ok then s
  else
    let cut (s : State) (d : Nat) : State := (s.onLink d link fun k => { k with up := false }).onDie d fun x =>
      { x with fabstat := BitVec.ofNat 64 (withBits x.fabstat.toNat (7 + link) 1 0) }
    cut (cut s die) (neighbour die link)

/-- Steps 1 and 2 of a die's bring-up: memory is trained, then its links. Whether each training succeeds is free. -/
def execDieBringup (die : Nat) (s : State) : Host.Outcome State Fault Refusal :=
  let d := s.die die
  let ok (i : Nat) : Bool := (s.free i).getLsbD 0
  if d.stage ≠ 0 || !d.live || !s.shepRuns die then .next s
  else if !ok 0 then .next s
  else
    let s := (s.trainLink die 0 (ok 1)).trainLink die 1 (ok 2)
    let s := (s.onDie die fun d => { d with stage := 1 }).onShep die fun h => { h with ready := true }
    .next s.releaseIfReady

/-- A second after its firmware's start a shepherd waits no longer: a die that is not ready counts as removed from the start. -/
def execBootPeerTimeout (die : Nat) (s : State) : Host.Outcome State Fault Refusal :=
  let late := s.liveDies.filter fun d => !(s.shep d).ready
  if late = [] || !(s.die die).live then .next s
  else if !(s.shep die).ready || ((s.die die).cycle - (s.shep die).started).toNat < 1500000000 then .next (s.post (.bootPeerTimeout die))
  else
    let s := late.foldl State.removeDie s
    let dies := (s.liveDies.map (2 ^ ·)).sum
    let mark (s : State) (i : Nat) : State :=
      let links := (((List.range 2).filter fun l => s.linkUp i (neighbour i l)).map (2 ^ ·)).sum
      s.onDie i fun d => { d with fabstat := BitVec.ofNat 64 (withBits (withBits d.fabstat.toNat 3 4 dies) 7 2 links) }
    .next (s.liveDies.foldl mark s).releaseIfReady

/-- A core as its cluster is powered: whatever it held is gone. -/
def Core.powerUp (k : Core) : Core := if k.powered && !k.excluded then k else { Core.reset with powered := true }

/-- A cluster is powered: the next follows after 20 microseconds at the earliest. At bring-up step 3 goes from cluster to cluster, and the matrix
engines follow its last. A cluster that is powered back up meanwhile gets its engines in step 4, in its turn; later it is followed by its own
engines alone. -/
def execClusterPowerUp (die cluster : Nat) (s : State) : Host.Outcome State Fault Refusal :=
  let d := s.die die
  let further (e : Event) : Bool := match e with
    | .clusterPowerUp i c => i = die && decide (cluster < c)
    | _ => false
  let inOrder := d.stage = 2 && (List.range cluster).all d.clusters.getLsbD && !s.agenda.any further
  if !d.live || d.stage < 2 || 24 ≤ cluster then .next s
  else if d.cycle.toNat < d.nextPower.toNat then .next (s.post (.clusterPowerUp die cluster))
  else
    let fresh := (clusterCores (24 * die + cluster)).any fun c => !(s.core c).powered || (s.core c).excluded
    let engines := d.cycle + 15000
    let s := s.setDie die { d with clusters := d.clusters ||| (1 <<< cluster), stage := if inOrder && cluster = 23 then 3 else d.stage,
                                   engines := if fresh then d.engines &&& ~~~(1#24 <<< cluster) else d.engines,
                                   nextPower := d.cycle + 30000,
                                   nextEngine := if d.nextEngine.toNat < engines.toNat then engines else d.nextEngine }
    let s := (clusterCores (24 * die + cluster)).foldl (fun s c => s.onCore c Core.powerUp) s
    let s := if d.stage ≠ 2 then s.postOnce (.matrixEngineEnable die cluster)
      else if !inOrder then s
      else if cluster = 23 then s.postOnce (.matrixEngineEnable die 0)
      else s.post (.clusterPowerUp die (cluster + 1))
    .next s.postAdmissions

/-- The lowest powered cluster of a die whose matrix engines are not enabled. -/
def Die.nextEngines (d : Die) : Option Nat := (List.range 24).find? fun c => d.clusters.getLsbD c && !d.engines.getLsbD c

/-- The four matrix engines of a powered cluster are enabled, 10 microseconds after those before, in ascending order while step 4 of the bring-up
lasts. It ends when every cluster has its engines. -/
def execMatrixEngineEnable (die cluster : Nat) (s : State) : Host.Outcome State Fault Refusal :=
  let d := s.die die
  if !d.live || 24 ≤ cluster || !d.clusters.getLsbD cluster then .next s
  else if d.cycle.toNat < d.nextEngine.toNat then .next (s.post (.matrixEngineEnable die cluster))
  else match if d.stage = 3 then d.nextEngines.filter (· < cluster) else none with
    | some c => .next (s.postOnce (.matrixEngineEnable die c))
    | none =>
      let engines := d.engines ||| (1 <<< cluster)
      let d := { d with engines := engines, stage := if d.stage = 3 && engines = BitVec.allOnes 24 then 4 else d.stage, nextEngine := d.cycle + 15000 }
      let s := s.setDie die d
      let s := (clusterCores (24 * die + cluster)).foldl (fun s c => s.onCore c fun k => { k with engineOn := true }) s
      .next (match if d.stage = 3 then d.nextEngines else none with
        | some c => s.postOnce (.matrixEngineEnable die c)
        | none => s)

/-! ## Recovery (R400, R488) -/

/-- A reply on the management port. -/
def State.reply (s : State) (die : Nat) (r : MgmtReply) : State := s.emit (.reply die r)

/-- IMG_BEGIN: a partial image is discarded, and one of an allowed length begins. -/
def execImgBegin (die len : Nat) (s : State) : Host.Outcome State Fault Refusal :=
  if (s.shep die).mode ≠ .recovery then .next s
  else
    let ok := decide (1024 ≤ len ∧ len ≤ 4194304)
    .next ((s.onShep die fun h => { h with image := if ok then some (len, []) else none }).reply die (.status (if ok then 0 else 2)))

/-- IMG_DATA: the next bytes of the image, in their place. -/
def execImgData (die offset : Nat) (bytes : List Byte) (s : State) : Host.Outcome State Fault Refusal :=
  if (s.shep die).mode ≠ .recovery then .next s
  else match (s.shep die).image with
    | some (len, got) =>
      if offset = got.length ∧ bytes.length ≤ 1024 ∧ got.length + bytes.length ≤ len then
        .next ((s.onShep die fun h => { h with image := some (len, got ++ bytes) }).reply die (.status 0))
      else .next (s.reply die (.status 3))
    | none => .next (s.reply die (.status 3))

/-- IMG_END: an image that verifies is written to the flash, unless that fails, and the shepherd resets. -/
def execImgEnd (die : Nat) (s : State) : Host.Outcome State Fault Refusal :=
  if (s.shep die).mode ≠ .recovery then .next s
  else match (s.shep die).image with
    | some (len, got) =>
      if got.length ≠ len || !Config.imageVerifies die got then .next (s.reply die (.status 1))
      else if (s.free 0).getLsbD 0 then .next (s.reply die (.status 4))
      else .next (((s.onShep die fun h => { h with flash := got, image := none, mode := .reset }).reply die (.status 0)).postOnce (.boot die))
    | none => .next (s.reply die (.status 1))

/-! ## Attestation (R402, R489) -/

/-- The answer to an SPDM request: firmware answers it, the boot ROM in recovery gives ERROR Unspecified, and during a restart nothing
answers (log entry 45). -/
def State.answer (s : State) (die : Nat) (r : MgmtReply) : State :=
  match (s.shep die).mode with
  | .running => s.reply die r
  | .recovery => s.reply die .errorUnspecified
  | .reset => s

/-- The identity key of a die. -/
def State.identityOf (s : State) (die : Nat) : BitVec 256 := (s.shep die).identity.getD 0

/-- GET_VERSION. -/
def execGetVersion (die : Nat) (s : State) : Host.Outcome State Fault Refusal := .next (s.answer die .version)

/-- GET_CAPABILITIES. -/
def execGetCapabilities (die : Nat) (s : State) : Host.Outcome State Fault Refusal := .next (s.answer die .capabilities)

/-- NEGOTIATE_ALGORITHMS: Ed448 signatures and SHA3-512 hashes are the only choice. -/
def execNegotiateAlgorithms (die : Nat) (ed448 sha3 : Bool) (s : State) : Host.Outcome State Fault Refusal :=
  .next (s.answer die (.algorithms (ed448 && sha3)))

/-- The digest of a die's certificate chain, which fills slot 0. -/
def chainDigest (die : Nat) : List Byte := bytesOf 64 (sha3 (Config.certificateChain die)).toNat

/-- The chain can be read from flash: free (R489). -/
def State.chainReadable (s : State) : Bool := (s.free 0).getLsbD 0

/-- GET_DIGESTS. -/
def execGetDigests (die : Nat) (s : State) : Host.Outcome State Fault Refusal := .next (s.answer die (.digests (chainDigest die)))

/-- GET_CERTIFICATE: a part of the chain of slot 0. -/
def execGetCertificate (die slot offset len : Nat) (s : State) : Host.Outcome State Fault Refusal :=
  let chain := Config.certificateChain die
  .next (s.answer die (if slot ≠ 0 || chain.length ≤ offset then .errorInvalid
    else if !s.chainReadable then .errorUnspecified else .certificate ((chain.drop offset).take len)))

/-- CHALLENGE: the chain's digest, signed with the nonce. -/
def execChallenge (die slot : Nat) (nonce : BitVec 256) (s : State) : Host.Outcome State Fault Refusal :=
  .next (s.answer die (if slot ≠ 0 then .errorInvalid
    else if !s.chainReadable then .errorUnspecified
    else .auth (chainDigest die) (Config.signature (s.identityOf die) (chainDigest die ++ bytesOf 32 nonce.toNat))))

/-- The 32 bytes of a paddock descriptor (R358). -/
def descBytes (d : PaddockDesc) : List Byte :=
  bytesOf 32 (d.reservedHigh ++ d.ltframe ++ d.ltlog ++ d.bgblog ++ d.quantum ++ d.reserved ++ d.lden ++ d.lnum ++ BitVec.ofBool d.lock
    ++ BitVec.ofBool d.cls ++ d.clusters).toNat

/-- The 8 bytes of a set-group map register (R99). -/
def mapBytes (m : MapReg) : List Byte :=
  bytesOf 8 (m.sgbase.toNat + m.sglog.toNat * 2 ^ 5 + m.cways.toNat * 2 ^ 16 + bitsAt m.reserved.toNat 0 8 * 2 ^ 8 + m.reserved.toNat / 2 ^ 8 * 2 ^ 32)

/-- The bellwethers, in ascending INDEX. -/
def State.bellwethers (s : State) : List Nat := (List.range 1024).filter fun i => s.sessionState i = 2

/-- The digest of a bellwether, as bytes. -/
def State.bellDigest (s : State) (i : Nat) : List Byte := bytesOf 64 (SMap.get s.digests 0 i).toNat

/-- The measurement blocks that a die answers with. -/
def State.blocks (s : State) (die : Nat) : List (Nat × List Byte) :=
  let h := s.shep die
  let layout := s.committed.descs.flatMap descBytes ++ s.committed.maps.flatMap mapBytes ++ mapBytes s.committed.mapc
  let bells := s.bellwethers
  let manifest := bells.flatMap fun i => bytesOf 2 i ++ s.bellDigest i
  [(1, bytesOf 64 (h.romDigest.getD 0).toNat), (2, bytesOf 64 (h.imageDigest.getD 0).toNat), (3, bytesOf 64 (sha3 layout).toNat),
    (4, bytesOf 64 (sha3 manifest).toNat)] ++ (bells.take 235).zipIdx.map fun (b, i) => (5 + i, s.bellDigest b)

/-- GET_MEASUREMENTS: the number of blocks, one block, or all of them, signed with the nonce. -/
def execGetMeasurements (die index : Nat) (nonce : BitVec 256) (s : State) : Host.Outcome State Fault Refusal :=
  let all := s.blocks die
  let chosen := if index = 0 then [] else if index = 255 then all else all.filter fun x => x.1 = index
  let signed := chosen.flatMap (·.2) ++ bytesOf 32 nonce.toNat
  .next (s.answer die (if index ≠ 0 && chosen = [] then .errorInvalid
    else .measurements all.length chosen (Config.signature (s.identityOf die) signed)))

/-- The code is that of a request for a session, a key exchange or mutual authentication, 0xE4 to 0xEC in SPDM 1.3 (PRESUMED, log entry 109). -/
def sessionRequest (code : Nat) : Bool := 0xE4 ≤ code && code ≤ 0xEC

/-- A request that no other event carries: sessions, key exchange and mutual authentication are not supported, and anything else is malformed
(R402, R489). -/
def execSpdmUnsupportedRequest (die code : Nat) (s : State) : Host.Outcome State Fault Refusal :=
  .next (s.answer die (if sessionRequest code then .errorUnsupported else .errorInvalid))

/-! ## Resets (R399, R485, R486) -/

/-- The shepherd restarts, which it ends within 4 ms; its die runs on. -/
def State.restartShepherd (s : State) (die : Nat) : State :=
  (s.onShep die fun h => { h with mode := .reset, started := (s.die die).cycle }).postOnce (.boot die)

/-- The watchdog of a shepherd that runs expires. -/
def execWatchdogExpiry (die : Nat) (s : State) : Host.Outcome State Fault Refusal :=
  if !s.shepRuns die then .next s else .next ((s.tell die .watchdog).restartShepherd die)

/-- An uncorrectable error in retention SRAM: what it held is lost, and the restart rebuilds it. -/
def execRetentionSramUe (die : Nat) (lost : RetentionItem) (s : State) : Host.Outcome State Fault Refusal :=
  let s := s.onShep die fun h => match lost with
    | .measurements => { h with romDigest := none, imageDigest := none }
    | .vaultKey => { h with vaultKey := none }
    | .dedupSecret => { h with dedup := none }
    | .journal => { h with journal := ⟨0, 0, 0, false⟩ }
  .next (if (s.shep die).mode = .recovery then s else s.restartShepherd die)

/-- The module loses power: nothing but the boot flash keeps its contents. -/
def execModulePowerLoss (s : State) : Host.Outcome State Fault Refusal :=
  let keep (d : Die × Nat) : Die := { Die.reset d.2 with shepherd := { Shepherd.reset d.2 with flash := d.1.shepherd.flash } }
  .next { State.reset with dies := s.dies.zipIdx.map keep, out := s.out, nextUid := s.nextUid, ticks := s.ticks }

end Sys2Proof.Machine
end

