-- ==== Sys2Proof/Machine/Manage.lean ====
section
/-!
DEFINITION. What system software and the hardware's own upkeep do to the machine: invalidations (R361), held flocks (R428, R429),
suspended commands (R457), snapshots (R404), power (R26, R405, R479), soft errors (R463 to R465), plain register writes (R5), host
accesses (R20, R128, R384), and RLIMIT windows (R366).
-/
namespace Sys2Proof.Machine

/-! ## TLB invalidation (R361) -/

/-- An access that may have used a translation of a PASID has been translated and is not performed. -/
def State.pasidBusy (s : State) (pasid : Nat) : Bool :=
  let mine (l : Loc) : Bool := s.pasid l.session = pasid
  (s.flocks.any fun f => f.ops.any fun o => o.pieces.any fun p => p.value.isNone && p.loc.any mine)
    || (s.cores.any fun (_, k) => k.engine.any fun c => c.words.any fun w => w.loc.any mine)
    || (s.cores.any fun (_, k) => k.mxq.any fun o => match o.kind with
      | .drain _ lanes => lanes.any fun (_, ls) => ls.any mine
      | _ => false)
    || !s.undelivered.isEmpty

/-- A write of TLBINV1: the copies of a translation, or of a PASID, are invalidated on all dies; BUSY lasts until every access that used
one is performed, and a further write waits. Reserved bits read as zero (R6). -/
def execTlbinv1 (die : Nat) (value : Word64) (s : State) : Host.Outcome State Fault Refusal :=
  let old := (s.die die).tlbinv1
  let busy := old.getLsbD 63
  let v := value.toNat % 2 ^ 23
  let pasid := bitsAt v 0 20
  let put (s : State) (b : Nat) : State := s.onDie die fun d => { d with tlbinv1 := BitVec.ofNat 64 (v + b * 2 ^ 63) }
  if busy && old.toNat % 2 ^ 63 ≠ v then .next (s.post (.tlbinv1 die value))
  else
    let va := bitsAt (s.die die).tlbinv0.toNat 12 36 * 2 ^ 12
    let hit (t : TlbEntry) : Bool := t.pasid = pasid && (bitsAt v 22 1 = 1 || (t.size = bitsAt v 20 2 && t.page = pageBase t.size va))
    let s := if busy then s else s.keepTlb (fun t => !hit t) (· = pasid)
    if s.pasidBusy pasid then .next ((put s 1).post (.tlbinv1 die value)) else .next (put s 0)

/-! ## Held flocks (R428, R429) -/

/-- The held flock that a FLTCTL value names. -/
def State.heldFlock (s : State) (die : Nat) (v : Nat) : Option Flock :=
  s.flocks.find? fun f => f.mode = .held && f.core = bitsAt v 0 9 && dieOf f.core = die && f.slot = bitsAt v 9 6

/-- A write of FLTCTL with an action: it waits while another is being applied, is rejected where it names no held flock or may not act
on it, and acts; `act` gives none while it has still to wait. -/
def State.fltctl (s : State) (die : Nat) (value : Word64) (action : Nat) (again : Event) (allowed : Flock → Bool)
    (act : State → Flock → Option State) : State :=
  let old := (s.die die).fltctl.toNat
  let v := bitsAt value.toNat 0 19
  let put (s : State) (top : Nat) : State := s.onDie die fun d => { d with fltctl := BitVec.ofNat 64 (v + top * 2 ^ 62) }
  if bitsAt old 63 1 = 1 && bitsAt old 0 19 ≠ v then s.post again
  else match s.heldFlock die v with
    | none => put s 1
    | some f =>
      if bitsAt v 15 3 ≠ action || !allowed f then put s 1
      else match act s f with
        | some s => put s 0
        | none => (put s 2).post again

/-- The trap came from a recipe instruction, which may not be skipped (R435). -/
def Flock.recipeFault (f : Flock) : Bool := f.tcause.getLsbD 11

/-- FLTCTL retry. -/
def execFltctlRetry (die : Nat) (value : Word64) (s : State) : Host.Outcome State Fault Refusal :=
  .next (s.fltctl die value 0 (.fltctlRetry die value) (fun _ => true) fun s f => some (s.resumeTrap f false (value.getLsbD 18)))

/-- FLTCTL skip. -/
def execFltctlSkip (die : Nat) (value : Word64) (s : State) : Host.Outcome State Fault Refusal :=
  .next (s.fltctl die value 1 (.fltctlSkip die value) (fun f => !f.recipeFault) fun s f => some (s.resumeTrap f true false))

/-- FLTCTL enter handler: the entry of R423 for the held trap. -/
def execFltctlEnterHandler (die : Nat) (value : Word64) (s : State) : Host.Outcome State Fault Refusal :=
  .next (s.fltctl die value 2 (.fltctlEnterHandler die value) (fun f => f.tvec.getLsbD 26 && !f.tcause.getLsbD 10)
    fun s f => some (s.setFlock f.enterHandler))

/-- FLTCTL end: as `s.exit` in handler mode. -/
def execFltctlEnd (die : Nat) (value : Word64) (s : State) : Host.Outcome State Fault Refusal :=
  .next (s.fltctl die value 3 (.fltctlEnd die value) (fun _ => true) fun s f =>
    if f.drained && s.enginesDone f then some ((s.setFlock { f with queue := [], paths := [], entries := [] }).endFlock f.uid) else none)

/-- Every region of a session with a fault domain is aborted: what is not admitted is discarded, what runs halts and is freed once it has
drained, and each region completes with STATUS 0x40. -/
def State.abortDomain (s : State) (session : Nat) (domain : BitVec 16) : State :=
  let rs := s.regions.filter fun r => r.session = session && r.domain = domain
  let s := rs.foldl (fun s r =>
    s.setRegion { r with status := if r.status = 0 then 0x40 else r.status, nextHerd := r.rcb.herds }) s
  let herds := s.herds.filter fun h => rs.any fun r => r.uid = h.region
  let s := herds.foldl (fun s h => if h.status = .saved then s.dropHerd h.uid else s.preempt h.uid true) s
  rs.foldl (fun s r => s.postOnce (.regionComplete r.uid)) s

/-- FLTCTL abort of the fault domain. -/
def execFltctlAbortDomain (die : Nat) (value : Word64) (s : State) : Host.Outcome State Fault Refusal :=
  .next (s.fltctl die value 4 (.fltctlAbortDomain die value) (fun _ => true) fun s f =>
    let r := s.regionOf (s.herdOf f)
    some (s.abortDomain r.session r.domain))

/-! ## Suspended copy commands (R457) -/

/-- A write of ENGCTL with an action on the suspended command that it names. -/
def State.engctl (s : State) (die : Nat) (value : Word64) (action : Nat) (act : State → Nat → CopyCmd → State) : State :=
  let v := bitsAt value.toNat 0 16
  let core := bitsAt v 0 9
  let put (s : State) (top : Nat) : State := s.onDie die fun d => { d with engctl := BitVec.ofNat 64 (v + top * 2 ^ 62) }
  match (s.core core).engine.find? fun c => c.suspended && c.entry = bitsAt v 9 5 with
  | none => put s 1
  | some c => if dieOf core ≠ die || bitsAt v 14 2 ≠ action then put s 1 else put (act s core c) 0

/-- ENGCTL resume: the faulting row is read and checked again. -/
def execEngctlResume (die : Nat) (value : Word64) (s : State) : Host.Outcome State Fault Refusal :=
  .next (s.engctl die value 0 fun s core c =>
    (s.setCmd core { c with suspended := false }).post (.copyTransferStart core c.id))

/-- ENGCTL abandon: the command ends, and words that have not landed never land. -/
def execEngctlAbandon (die : Nat) (value : Word64) (s : State) : Host.Outcome State Fault Refusal :=
  .next (s.engctl die value 1 fun s core c => s.endCmd core c)

/-! ## Snapshots (R404) -/

/-- A set-group map as its register reads. -/
def mapWord (m : MapReg) : Word64 := BitVec.ofNat 64 (ofBytes (mapBytes m))

/-- The state registers of the blocks of a die outside its cores: registers, maps and power, the shepherd's journal, the ends of its links, and
the stamps of its networks (log entry 46). Block b, register i of a set has place 4,096 b + i. -/
def Die.blocks (d : Die) : List (Nat × List Word64) :=
  let j := d.shepherd.journal
  let link (k : Link) : List Word64 := [BitVec.ofNat 64 (k.up.toNat + 2 * k.training.toNat), k.expect.setWidth 64, k.sent.setWidth 64]
  [(0, [d.sessbase, d.cpool, d.dirstat0, d.dirstat1, d.dirstat2, d.eccstat, d.eccaddr, d.fabstat, d.tlbinv0, d.tlbinv1, d.fltctl, d.engctl,
      d.pwrcap, d.pwrnow, d.clusters.setWidth 64, d.engines.setWidth 64] ++ d.maps.map mapWord ++ [mapWord d.mapc]
      ++ d.ptest.map fun b => BitVec.ofNat 64 b.toNat),
    (1, [BitVec.ofNat 64 (j.seq.toNat + 2 ^ 32 * j.state.toNat + 2 ^ 34 * j.padmask.toNat + 2 ^ 42 * j.commons.toNat)])]
    ++ d.links.zipIdx.map (fun (k, i) => (2 + i, link k))
    ++ d.nets.zipIdx.map fun (n, i) => (4 + i, (n.k ++ n.d ++ n.a).map fun x => x.setWidth 64)

/-- The state registers of a resident flock's block: its k-registers and its scalar program counter. -/
def Flock.blockRegisters (f : Flock) : List Word64 :=
  [f.fpmode, f.flags, f.primary.setWidth 64, f.second.setWidth 64, f.tcause, f.tpc, f.taddr, f.tinfo, f.tvec, f.tret, f.tscr0, f.tscr1,
    BitVec.ofNat 64 f.spc]

/-- The state registers of a queue entry of a core's copy engine. -/
def CopyCmd.blockRegisters (c : CopyCmd) : List Word64 :=
  [c.cmd, BitVec.ofNat 64 c.src, BitVec.ofNat 64 c.dst,
    BitVec.ofNat 64 (c.entry + c.started.toNat * 2 ^ 8 + c.suspended.toNat * 2 ^ 9 + c.row * 2 ^ 16 + c.flags.toNat * 2 ^ 32)]

/-- The state registers of the cores of a die with their copy engines, and of their resident flocks by slot. -/
def State.coreBlocks (s : State) (die : Nat) : List (Nat × List Word64) :=
  (List.range 96).flatMap fun i =>
    let k := s.core (96 * die + i)
    (16 + i, BitVec.ofNat 64 (k.powered.toNat + 2 * k.engineOn.toNat + 4 * k.excluded.toNat) :: k.engine.flatMap CopyCmd.blockRegisters)
      :: (s.flocks.filter fun f => f.core = 96 * die + i).map fun f => (128 + 64 * i + f.slot, f.blockRegisters)

/-- The occupancy counters of a die that are not 0, each with its place: those of a slice by session, the commons first, and those of the
remote-data cache (R101). -/
def Die.occupancies (d : Die) : List (Nat × Word64) :=
  let at_ (b : Nat) (i : Option Nat) : Nat := 4096 * b + (i.map (· + 1)).getD 0
  ((d.l2.map fun l => (l.slice, l.session)).eraseDups.map fun (k, i) => (at_ (8192 + k) i, (d.occupancy k i).setWidth 64))
    ++ (d.rdc.map (·.session)).eraseDups.map fun i => (at_ 8240 i, (d.remoteOccupancy i).setWidth 64)

/-- The dependence counters of a die, each with its place: COUNT, RELOAD, the session and the node (R357). -/
def Die.countersLatched (d : Die) : List (Nat × Word64) :=
  d.counters.flatMap fun (i, c) =>
    ([c.count.setWidth 64, c.reload.setWidth 64, BitVec.ofNat 64 c.session, BitVec.ofNat 64 c.node].zipIdx).map fun (v, j) =>
      (4096 * (8448 + i / 1024) + 4 * (i % 1024) + j, v)

/-- The state registers of a die's queue processor and of the paddocks: DB of each queue (R347), and QUIESCE, QUIESCED and PADREP (R358,
R479). -/
def State.managementBlocks (s : State) (die : Nat) : List (Nat × Word64) :=
  ((s.queues.filter fun x => s.home x.session = die).map fun x => (4096 * 8320 + 8 * x.session + x.q, BitVec.ofNat 64 x.db))
    ++ ((List.range 8).map fun n => (4096 * 8384 + n, BitVec.ofNat 64 ((s.paddock n).quiesce.toNat + 2 * (s.paddock n).quiesced.toNat)))
    ++ if die = s.coordinator then s.padrep.zipIdx.map fun (v, n) => (4096 * 8384 + 8 + n, v) else []

/-- The set that a die latches, by block and place. -/
def State.snapshotSet (s : State) (die : Nat) : SMap Word64 :=
  let d := s.die die
  let blocks := (d.blocks ++ s.coreBlocks die).flatMap fun (b, rs) => rs.zipIdx.map fun (v, i) => (4096 * b + i, v)
  (blocks ++ d.occupancies ++ d.countersLatched ++ s.managementBlocks die).foldl (fun m (i, v) => SMap.put m 0 i v) []

/-- The trigger fires on an armed die: its set is latched, and ARM is cleared. -/
def State.latch (s : State) (die : Nat) : State :=
  s.onDie die fun d => { d with snapshot := s.snapshotSet die, snapcyc := d.cycle, snapctl := (d.snapctl &&& ~~~1) ||| 16 }

/-- The trigger of a die fires if it is armed; a wide one is sent to the other dies. -/
def State.fireSnapshot (s : State) (die : Nat) : State :=
  let d := s.die die
  if !d.snapctl.getLsbD 0 then s
  else
    let s := s.latch die
    if d.snapctl.getLsbD 3 then (s.liveDies.filter (· ≠ die)).foldl (fun s i => s.postOnce (.snapshotWideTrigger i)) s else s

/-- A write of SNAPCTL: ARM, ATCYC and WIDE are written, and FIRE fires at once. -/
def execSnapctlArm (die : Nat) (value : Word64) (s : State) : Host.Outcome State Fault Refusal :=
  if (s.shep die).mode = .reset then .next (s.post (.snapctlArm die value))
  else
    let s := s.onDie die fun d => { d with snapctl := (d.snapctl &&& 16) ||| (value &&& 13) }
    let s := if value.getLsbD 0 && value.getLsbD 2 then s.postOnce (.snapshotAtCycle die) else s
    .next (if value.getLsbD 1 then s.fireSnapshot die else s)

/-- A write of FIRE. -/
def execSnapctlFire (die : Nat) (s : State) : Host.Outcome State Fault Refusal :=
  .next (if (s.shep die).mode = .reset then s.post (.snapctlFire die) else s.fireSnapshot die)

/-- CYCLE reaches SNAPAT on an armed die with ATCYC set; a restart of the shepherd is waited for (R485). -/
def execSnapshotAtCycle (die : Nat) (s : State) : Host.Outcome State Fault Refusal :=
  let d := s.die die
  if !d.snapctl.getLsbD 0 || !d.snapctl.getLsbD 2 then .next s
  else .next (if d.cycle.toNat < d.snapat.toNat || (s.shep die).mode = .reset then s.postOnce (.snapshotAtCycle die) else s.fireSnapshot die)

/-- The trigger of another die arrives; a restart of the shepherd is waited for (R485). -/
def execSnapshotWideTrigger (die : Nat) (s : State) : Host.Outcome State Fault Refusal :=
  .next (if !(s.die die).snapctl.getLsbD 0 then s
    else if (s.shep die).mode = .reset then s.postOnce (.snapshotWideTrigger die) else s.latch die)

/-! ## Power (R26, R405, R479) -/

/-- PWRCAP as a write of it stores it. -/
def clampWatts (v : Nat) : Nat := min 1200 (max 300 (bitsAt v 0 11))

/-- A write of PWRCAP reaches every die. -/
def execPwrcap (die : Nat) (value : Word64) (s : State) : Host.Outcome State Fault Refusal :=
  if (s.shep die).mode = .reset then .next (s.post (.pwrcap die value))
  else .next (s.mapDies fun d => { d with pwrcap := BitVec.ofNat 64 (clampWatts value.toNat) })

/-- Clusters of the live dies, as die and cluster, that may be slowed and are not at their lowest clock, those of batch-class paddocks first
(R26). -/
def State.throttleOrder (s : State) : List (Nat × Nat) :=
  let all := (s.liveDies.flatMap fun d => (List.range 24).map fun c => (d, c)).filter fun (d, c) =>
    (s.clusterOwner d c).all (fun x => !x.lock) && SMap.get (s.die d).slowed 0 c < 2
  let batch (x : Nat × Nat) : Bool := (s.clusterOwner x.1 x.2).any PaddockDesc.cls
  all.filter batch ++ all.filter fun x => !batch x

/-- Sector rails of the live dies, as die and sector, that stand above the highest need of their clusters, those of sectors without a cluster of
an interactive-class paddock first (R26; log entry 47). -/
def State.railOrder (s : State) : List (Nat × Nat) :=
  let all := (s.liveDies.flatMap fun d => (List.range 3).map fun r => (d, r)).filter fun (d, r) =>
    (s.die d).railSteps.getD r 0 < s.sectorNeed d r
  let batch (x : Nat × Nat) : Bool := (List.range 8).all fun c => (s.clusterOwner x.1 (8 * x.2 + c)).all PaddockDesc.cls
  all.filter batch ++ all.filter fun x => !batch x

/-- What a shepherd reads at a sample: its rails, and what its die draws; module power is the sum over the live dies, and PWRNOW its average
over the last hundred samples, that is 1 ms (R405). -/
def State.sample (s : State) (die : Nat) : State :=
  let reading (r : Nat) : RailReading :=
    let v := Config.railReading die r s.ticks
    ⟨v.extractLsb' 0 16, v.extractLsb' 16 16, v.extractLsb' 32 16⟩
  let s := s.onDie die fun d => { d with draw := (Config.powerReading die s.ticks).toNat, sampleAt := d.cycle + 15000,
                                         rails := (List.range 3).map reading }
  let power := (s.liveDies.map fun i => (s.die i).draw).sum
  s.onDie die fun d =>
    let log := (d.samples ++ [power]).drop (d.samples.length - 99)
    { d with samples := log, pwrnow := BitVec.ofNat 64 (min 2047 (log.sum / log.length)) }

/-- A shepherd samples every 10 microseconds: while module power is above the cap a cluster is slowed, then a rail lowered, and what cannot be
lowered further begins to count toward the report; below it clocks may rise again, and the die's rails are set to what its clusters need (R22,
R26; log entry 47). -/
def execPowerSample (die : Nat) (s : State) : Host.Outcome State Fault Refusal :=
  if !(s.die die).live then .next s
  else if !s.shepRuns die || (s.die die).cycle.toNat < (s.die die).sampleAt.toNat then .next (s.post (.powerSample die))
  else
    let s := (s.sample die).post (.powerSample die)
    let d := s.die die
    if d.samples.getLastD 0 ≤ d.pwrcap.toNat then
      let rise := (s.free 0).getLsbD 0
      .next ((s.setDie die { d with aboveSince := none, slowed := if rise then [] else d.slowed }).settleRails die)
    else match s.throttleOrder, s.railOrder with
      | (i, c) :: _, _ => .next ((s.onDie die fun d => { d with aboveSince := none }).onDie i fun d =>
          { d with slowed := SMap.put d.slowed 0 c (SMap.get d.slowed 0 c + 1) })
      | [], (i, r) :: _ => .next ((s.onDie die fun d => { d with aboveSince := none }).onDie i fun d =>
          { d with railSteps := setNth d.railSteps r (d.railSteps.getD r 0 + 1) })
      | [], [] =>
        let locked := (List.range 8).filter fun n => (s.paddock n).desc.lock && (s.paddock n).desc.clusters ≠ 0
        let s := s.setDie die { d with aboveSince := some (d.aboveSince.getD d.cycle) }
        .next (locked.foldl (fun s n => s.postOnce (.powerCapUnmet n)) s)

/-- The cap has stayed unmet for 10 ms with every unlocked cluster at its lowest settings: the paddock manager is told. -/
def execPowerCapUnmet (paddock : Nat) (s : State) : Host.Outcome State Fault Refusal :=
  let dies := s.liveDies.map s.die
  let exceeds (d : Die) : Bool := d.aboveSince.any fun t => decide (15000000 ≤ (d.cycle - t).toNat)
  if !dies.all fun d => d.aboveSince.isSome then .next s
  else .next (if dies.all exceeds then s.paddockReport paddock 1 else s.postOnce (.powerCapUnmet paddock))

/-! ## Soft errors (R433, R463 to R465) -/

/-- The SRC code of a source; a parity error has none. -/
def EccSource.code : EccSource → Option Nat
  | .laneRegister => some 0 | .scalarRegister => some 1 | .scratchpad => some 2 | .matrix => some 3 | .l2 => some 4
  | .remoteCache => some 5 | .lpddr => some 6 | .fabric => some 7 | .directory => some 8 | .retention => some 9 | .parity => none

/-- A corrected error is counted. -/
def execEccCorrectable (die : Nat) (src : EccSource) (s : State) : Host.Outcome State Fault Refusal :=
  .next (match EccSource.code src with
    | none => s
    | some _ => s.onDie die fun d => { d with eccstat := bumpCount d.eccstat 0 1 })

/-- An uncorrectable error is counted with its source and, in a cache or in memory, its address, and told to the shepherd. -/
def State.countUe (s : State) (die src addr : Nat) : State :=
  (s.onDie die fun d => { d with eccstat := BitVec.ofNat 64 (withBits (bumpCount d.eccstat 16 1).toNat 32 4 src),
                                 eccaddr := BitVec.ofNat 64 (addr % 2 ^ 52) }).tell die .uncorrectable

/-- The state with the herd of a uid changed. -/
def State.onHerd (s : State) (uid : Nat) (g : Herd → Herd) : State :=
  match s.herd? uid with
  | none => s
  | some h => s.setHerd (g h)

/-- A herd changed in one of its contexts. -/
def State.onCtx (s : State) (uid i : Nat) (g : Ctx → Ctx) : State := s.onHerd uid fun h => h.setCtx i (g (h.ctx i))

/-- A directory bucket is poisoned as a whole (R462). -/
def State.poisonBucket (s : State) (die bucket : Nat) : State :=
  if (s.die die).poisonedBuckets.contains bucket then s
  else (s.onDie die fun d => { d with poisonedBuckets := setAdd bucket d.poisonedBuckets }).tell die .poisonedBucket

/-- A packet that is lost from the fabric's buffers (R463, R472): an ordered one is never performed, a read without its request or its reply
returns poison, and a report or a release has no effect. -/
def State.loseEvent (s : State) (id : Nat) (e : Event) : State :=
  match e with
  | .orderedPacketArrival p => if p.id = id then { s with agenda := s.agenda.erase e }.losePacket p else s
  | .readRequestServe r => if r.id = id then { s with agenda := s.agenda.erase e }.poisonRead r else s
  | .deliveryReportReceive r => if r.id = id then { s with agenda := s.agenda.erase e } else s
  | .commonsRelease x => if x.id = id then { s with agenda := s.agenda.erase e } else s
  | .sealDigest j => if j.id = id then { s with agenda := s.agenda.erase e } else s
  | _ => s

/-- The packet of a number is lost, wherever it lies in the fabric: in an early-packet buffer, an input slot or a replay buffer. The dies
resynchronise (R463, R472). -/
def State.dropPacket (s : State) (id : Nat) : State :=
  let early := s.dies.flatMap fun d => d.nets.flatMap fun n => n.early.filter fun p => p.id = id
  let s := s.mapDies fun d => { d with
    nets := d.nets.map fun n => { n with early := n.early.filter (fun p => p.id ≠ id), aside := setDel id n.aside }
    links := d.links.map fun k => { k with outbox := k.outbox.filter (fun p => p.id ≠ id), slots := k.slots.filter fun x => x.id ≠ id } }
  let s := (early.foldl State.losePacket s).mapPieces fun p => if p.reply = some id then { p with value := some 0, poison := true } else p
  (s.agenda.foldl (fun s e => s.loseEvent id e) s).settlePorts.postOnce .resynchronisation

/-- A parity error: the entry is invalidated, and comes back when it is next looked for (R433, R463). -/
def State.parityError (s : State) (die : Nat) (p : ParityPlace) : State :=
  match p with
  | .l1 core pa => s.onCore core fun k => { k with l1 := k.l1.filter fun x => x.pa ≠ pa / 64 * 64 }
  | .crossbar sector pa => s.onDie die fun d => { d with xbar := d.xbar.filter fun x => x ≠ (sector, lineOf pa) }
  | .tlb1 core va => s.onCore core fun k => { k with tlb := k.tlb.filter fun t => t.page ≠ pageBase t.size va }
  | .tlb2 cluster va => s.onDie die fun d =>
      { d with tlb2 := SMap.put d.tlb2 [] cluster ((SMap.get d.tlb2 [] cluster).filter fun t => t.page ≠ pageBase t.size va) }
  | .predictor core entry => s.onCore core fun k => { k with predictor := SMap.erase k.predictor entry }
  | .decoder core pa => s.onCore core fun k => { k with decoders := k.decoders.filter fun x => x.pa ≠ pa }
  | .constant => s
  | .directory => s

/-- A die's dependence counter changed. -/
def State.onCounter (s : State) (die i : Nat) (g : DepCounter → DepCounter) : State :=
  s.onDie die fun d => { d with counters := SMap.put d.counters DepCounter.free (i % 65536) (g (SMap.get d.counters DepCounter.free (i % 65536))) }

/-- An uncorrectable error strikes (R463). -/
def execEccUncorrectable (die : Nat) (at_ : EccPlace) (s : State) : Host.Outcome State Fault Refusal :=
  .next (match at_ with
    | .laneRegister uid lane reg =>
      (s.onFlock uid fun f => { f with vPoison := setAdd (laneKey reg lane) f.vPoison, vBorn := setAdd (laneKey reg lane) f.vBorn }).countUe die 0 0
    | .scalarRegister uid reg =>
      (s.onFlock uid fun f => if reg = 0 then f else { f with sPoison := setAdd reg f.sPoison, sBorn := setAdd reg f.sBorn }).countUe die 1 0
    | .scratchpad uid word =>
      (s.onHerd uid fun h => { h with spadPoison := setAdd word h.spadPoison }).countUe die 2 0
    | .tile uid tile word =>
      (s.onCtx uid (tile / 8) fun x => { x with tilePoison := setAdd (4096 * (tile % 8) + word % 4096) x.tilePoison }).countUe die 3 0
    | .plane uid i row shadow =>
      let hit (p : Plane) : Plane := { p with poison := setAdd row p.poison }
      (s.onCtx uid i fun x => if shadow then { x with shadow := hit x.shadow } else { x with active := hit x.active }).countUe die 3 0
    | .operandBuffer uid word =>
      (s.onHerd uid fun h => { h with opbPoison := setAdd word h.opbPoison }).countUe die 3 0
    | .l2 pa => match (s.die die).l2.find? fun l => l.pa = lineOf pa with
      | none => s
      | some l => (if l.dirty.getLsbD (pa % 256 / 64) then { s with memPoison := setAdd (pa / 64) s.memPoison } else s).countUe die 4 pa
    | .remoteCache pa =>
      (s.onDie die fun d => { d with rdc := d.rdc.filter fun l => l.pa ≠ lineOf pa }).countUe die 5 pa
    | .lpddr pa again =>
      if again then { s with memPoison := setAdd (pa / 64) s.memPoison }.countUe die 6 pa else s
    | .fabric id => (s.dropPacket id).countUe die 7 0
    | .directory bucket => (s.poisonBucket die bucket).countUe die 8 0
    | .retention lost => (s.post (.retentionSramUe die lost)).countUe die 9 0
    | .parity p => s.parityError die p
    | .control core => s.stickCore core
    | .counter i => s.onCounter die i fun c => { c with poison := true })

/-- The scrub of a sector of a die's memory: an uncorrectable error poisons it. -/
def execMemoryScrub (die sector : Nat) (bad : Bool) (s : State) : Host.Outcome State Fault Refusal :=
  let cell := die * 2 ^ 31 + sector % 2 ^ 31
  .next (if bad then { s with memPoison := setAdd cell s.memPoison }.countUe die 6 (64 * cell) else s)

/-! ## Plain register writes (R5) -/

/-- A W1C counter field: a 1 in any of its bits clears it whole. -/
def clearCounter (v : Nat) (r : Nat) (lo n : Nat) : Nat := if bitsAt v lo n = 0 then r else withBits r lo n 0

/-- The register with W1C counter fields written. -/
def writeCounters (r v : Word64) (fields : List (Nat × Nat)) : Word64 :=
  BitVec.ofNat 64 (fields.foldl (fun x (lo, n) => clearCounter v.toNat x lo n) r.toNat)

/-- A register is written: read-only bits keep their value (log entry 48). -/
def execRegisterWrite (die : Nat) (r : RegName) (value : Word64) (s : State) : Host.Outcome State Fault Refusal :=
  let v := value.toNat
  let on (g : Die → Die) : State := s.onDie die g
  .next (match r with
    | .sessbase => s.mapDies fun d => { d with sessbase := BitVec.ofNat 64 (bitsAt v 20 32 * 2 ^ 20) }
    | .cpool => on fun d => { d with cpool := BitVec.ofNat 64 (bitsAt v 0 52) }
    | .dirstat0 => on fun d => { d with dirstat0 := writeCounters d.dirstat0 value [(0, 32), (32, 32)] }
    | .dirstat1 => on fun d => { d with dirstat1 := writeCounters d.dirstat1 value [(0, 32), (32, 32)] }
    | .dirstat2 => on fun d => { d with dirstat2 := writeCounters d.dirstat2 value [(0, 32), (32, 32)] }
    | .ptest n => s.mapDies fun d => { d with ptest := setNth d.ptest n (value.getLsbD 0) }
    | .eccstat => on fun d => { d with eccstat := writeCounters d.eccstat value [(0, 16), (16, 16)] }
    | .fabstat => on fun d => { d with fabstat := writeCounters d.fabstat value [(16, 16), (32, 16), (48, 16)] }
    | .tlbinv0 => on fun d => { d with tlbinv0 := BitVec.ofNat 64 (bitsAt v 12 36 * 2 ^ 12) }
    | .snapat => on fun d => { d with snapat := value }
    | .padrep n => { s with padrep := setNth s.padrep n (s.padrep.getD n 0 &&& ~~~(value &&& 0x7F)) }
    | .counter i => s.onCounter die i fun c => { c with count := BitVec.ofNat 16 v, reload := BitVec.ofNat 16 (v / 65536), poison := false }
    | .counterSession i => s.onCounter die i fun c => { c with session := bitsAt v 0 10 }
    | .counterNode i => s.onCounter die i fun c => { c with node := v })

/-! ## The host complex (R20, R128, R384, R402, R455) -/

/-- The runs of at most a granule that `n` bytes at an address cover. -/
def granuleRuns : Nat → Nat → Nat → List (Nat × Nat)
  | 0, _, _ => []
  | fuel + 1, a, n =>
    if n = 0 then []
    else
      let k := min n (256 - a % 256)
      (a, k) :: granuleRuns fuel (a + k) (n - k)

/-- Where a run of a host access lies: a physical address, which is accessed under key slot 0, or one of a session; else the cause for which it
fails, `notYet` where its walk has to wait for another die. -/
def State.hostPlace (s : State) (session : Option Nat) (a : Nat) (kind : Access) : Except Nat (State × Nat) :=
  match session with
  | none => if inModule a then .ok (s.rekey (tableLoc 0 a), a) else .error 0x05
  | some i => match s.translate (deviceAgent i (s.home i)) a kind with
    | .error c => .error c
    | .ok (s, l) => .ok (s, l.pa)

/-- A line comes to the caches of a host complex, and its home slice's snoop filter tracks it (R20; log entry 105). -/
def State.hostHolds (s : State) (pa : Nat) : State := s.onDie (homeDie pa) fun d => { d with snoop := setAdd (lineOf pa) d.snoop }

/-- The bytes of a host load and whether any is poisoned, one run after the other; else the cause for which a run fails. -/
def State.hostLoad (s : State) (session : Option Nat) : List (Nat × Nat) → Except Nat (State × List Byte × Bool)
  | [] => .ok (s, [], false)
  | (a, n) :: r => match s.hostPlace session a .read with
    | .error c => .error c
    | .ok (s, pa) => match (s.hostHolds pa).hostLoad session r with
      | .error c => .error c
      | .ok (t, bs, bad) =>
        .ok (t, Memory.bytes s.mem pa n ++ bs, bad || !(s.die (homeDie pa)).live || s.memPoisoned pa n)

/-- A host store performed run by run, with the cause for which a run fails after what came before it is performed. -/
def State.hostStore (s : State) (session : Option Nat) : List (Nat × Nat) → List Byte → State × Option Nat
  | [], _ => (s, none)
  | (a, n) :: r, bs => match s.hostPlace session a .write with
    | .error c => (s, some c)
    | .ok (s, pa) => ((s.performWrite pa (bs.take n)).hostHolds pa).hostStore session r (bs.drop n)

/-- The digest of a bellwether: its level-0 frames in ascending address, each followed by its plaintext; free where a table cannot be
read. -/
def State.bellwetherDigest (s : State) (i : Nat) : BitVec 512 :=
  match s.sessionTree i with
  | none => s.free 0 ++ s.free 1 ++ s.free 2 ++ s.free 3 ++ s.free 4 ++ s.free 5 ++ s.free 6 ++ s.free 7
  | some (_, leaves) =>
    let small := leaves.filter fun (_, e) => pteSize e ≠ 2
    sha3 (small.flatMap fun (_, e) =>
      Config.frameBytes (pteFrame e) ++ Memory.bytes (s.frameUnder (pteFrame e) (pteKey e)).mem (pteFrame e * 4096) 4096)

/-- Session contexts of whose bytes `[lo, hi)` some lie under a physical store. -/
def State.contextsWritten (s : State) (lo hi pa n : Nat) : List Nat :=
  let base := s.context 0
  (List.range 1024).filter fun i => pa < base + 1024 * i + hi && base + 1024 * i + lo < pa + n

/-- Session contexts whose STATE field lies under a physical store. -/
def State.statesWritten (s : State) (pa n : Nat) : List Nat := s.contextsWritten 4 5 pa n

/-- A session's decoder-table heap is bound anew: no core keeps a table that the session has used (R336, R372). -/
def State.heapBound (s : State) (i : Nat) : State :=
  let pasid := s.pasid i
  s.mapCores fun k => { k with decoders := k.decoders.filter fun x => x.users.all fun (p, _) => p ≠ pasid }

/-- A write of STATE acts: a bellwether's digest is taken, and an active session becomes schedulable and its queues are looked at. -/
def State.stateWritten (s : State) (i : Nat) : State :=
  if s.sessionState i = 2 then { s with digests := SMap.put s.digests 0 i (s.bellwetherDigest i) }.dropSched i
  else if s.sessionState i = 1 then (s.latchSched i).wakeQueues i
  else s.dropSched i

/-- A load or store of a host core; one that cannot be made at this moment is made later. -/
def execHostMemoryAccess (h : HostAccess) (s : State) : Host.Outcome State Fault Refusal :=
  match h with
  | .load session a n => match s.hostLoad session (granuleRuns (n + 1) a n) with
    | .error c => .next (if c = notYet then s.post (.hostMemoryAccess h) else s.emit .hostError)
    | .ok (t, bs, bad) => .next (t.emit (.hostData bs bad))
  | .store session a bs =>
    let (t, stop) := s.hostStore session (granuleRuns (bs.length + 1) a bs.length) bs
    if stop = some notYet then .next (s.post (.hostMemoryAccess h))
    else
    let t := if session.isNone then
        (s.contextsWritten 112 122 a bs.length).foldl State.heapBound ((s.statesWritten a bs.length).foldl State.stateWritten t)
      else t
    .next (if stop = none then t else t.emit .hostError)

/-! ## RLIMIT windows (R366) -/

/-- The present window of a core ends: its sessions may send requests again, less what an instruction sent beyond the limit (log entry 97). -/
def execRlimitWindow (core : Nat) (s : State) : Host.Outcome State Fault Refusal :=
  match (s.core core).rlimitEnd with
  | none => .next s
  | some t =>
    if (s.die (dieOf core)).cycle.toNat < t.toNat then .next (s.post (.rlimitWindow core))
    else
      let beyond (i : Nat) : Nat := s.sentBy i (dieOf core) - s.sessionLimit i
      let left := (s.core core).rlimit.filterMap fun (i, n) => if beyond i = 0 then none else some (i, min n (beyond i))
      let s := s.onCore core fun k => { k with rlimit := left, rlimitEnd := if left.isEmpty then none else some (t + 1024) }
      .next (if left.isEmpty then s else s.post (.rlimitWindow core))

end Sys2Proof.Machine
end

