-- ==== Sys2Proof/Machine/Raster.lean ====
section
/-!
DEFINITION. The triangle walker, the binning unit and the export path (R318 to R329).
-/
namespace Sys2Proof.Machine

/-- A value over a positive integer, exact enough for one rounding. -/
def Mag.over (x : Mag) (d : Nat) : Mag :=
  let k := d.log2 + 64
  ⟨x.neg, x.m * 2 ^ k / d, x.e - k, x.more || x.m * 2 ^ k % d ≠ 0⟩

/-- The quotient of an integer and a positive integer. -/
def quotient (n : Int) (d : Nat) : Mag := (Mag.ofInt n 0 false).over d

/-- A value rounded once to FP32 nearest-even. -/
def roundF32 (x : Mag) : Nat := (fp32.round .ne false false x).1

/-! ## Triangles (R319, R320) -/

/-- A vertex: its 16.8 screen coordinates, depth and 1/w. -/
structure Vertex where
  x : Int
  y : Int
  z : Num
  q : Num
deriving DecidableEq, Repr

/-- The vertex that two scalar registers hold. -/
def Flock.vertex (f : Flock) (n : Nat) : Vertex :=
  let a := (f.sreg n).toNat
  let b := (f.sreg (n + 1)).toNat
  ⟨signedOf 24 a, signedOf 24 (a / 2 ^ 32), fp32.decode (bitsAt b 0 32), fp32.decode (bitsAt b 32 32)⟩

/-- The edge function E_ij at a point. -/
def edge (i j : Vertex) (px py : Int) : Int := (j.x - i.x) * (py - i.y) - (j.y - i.y) * (px - i.x)

/-- A triangle. -/
structure Triangle where
  p0 : Vertex
  p1 : Vertex
  p2 : Vertex
deriving DecidableEq, Repr

/-- The signed area A. -/
def Triangle.area (t : Triangle) : Int := edge t.p0 t.p1 t.p2.x t.p2.y

/-- A value that is finite and above zero. -/
def Num.positive (x : Num) : Bool :=
  match x with
  | .fin m => !m.neg && m.m ≠ 0
  | _ => false

/-- The triangle is rejected under a cull code (R318, R320). -/
def Triangle.rejected (t : Triangle) (cull : Nat) : Bool :=
  t.area = 0 || (cull = 1 && t.area < 0) || (cull = 2 && 0 < t.area) || !(t.p0.q.positive && t.p1.q.positive && t.p2.q.positive)

/-- An edge that owns the samples on it, by its direction. -/
def owns (dx dy : Int) : Bool := dy < 0 || (dy = 0 && 0 < dx)

/-- The edge values E_12, E_20 and E_01 of a covered point, made positive; none for a point that the triangle does not cover. -/
def Triangle.cover (t : Triangle) (px py : Int) : Option (Nat × Nat × Nat) :=
  let g : Int := if t.area < 0 then -1 else 1
  let side (i j : Vertex) : Int × Bool := (g * edge i j px py, owns (g * (j.x - i.x)) (g * (j.y - i.y)))
  let inside (e : Int × Bool) : Bool := 0 < e.1 || (e.1 = 0 && e.2)
  let a := side t.p1 t.p2
  let b := side t.p2 t.p0
  let c := side t.p0 t.p1
  if inside a && inside b && inside c then some (a.1.toNat, b.1.toNat, c.1.toNat) else none

/-- The sample positions of a pixel in sixteenths, by sample count (R319). -/
def samplePositions (code : Nat) : List (Nat × Nat) :=
  match code with
  | 0 => [(8, 8)]
  | 1 => [(4, 4), (12, 12)]
  | 2 => [(6, 2), (14, 6), (2, 10), (10, 14)]
  | _ => [(7, 1), (13, 3), (3, 5), (11, 7), (1, 9), (9, 11), (15, 13), (5, 15)]

/-! ## The walk (R321, R322) -/

/-- A covered sample: pixel index and sample, pixel coordinates, and the edge values. -/
structure Sample where
  p : Nat
  s : Nat
  x : Nat
  y : Nat
  e : Nat × Nat × Nat
deriving DecidableEq, Repr

/-- The covered samples of a tile from a position on, in walk order. -/
def Triangle.walk (t : Triangle) (tileX tileY code fromPix fromSample : Nat) : List Sample :=
  ((List.range 1024).filter fun p => fromPix ≤ p).flatMap fun p =>
    let x := 32 * tileX + p % 32
    let y := 32 * tileY + p / 32
    ((samplePositions code).zipIdx.filter fun (_, s) => fromPix < p || fromSample ≤ s).filterMap fun ((sx, sy), s) =>
      (t.cover (256 * x + 16 * sx : Nat) (256 * y + 16 * sy : Nat)).map fun e => ⟨p, s, x, y, e⟩

/-- Interpolation of z in screen space: the canonical NaN for a vertex whose depth is not finite. -/
def Triangle.depth (t : Triangle) (e : Nat × Nat × Nat) : Nat :=
  match t.p0.z, t.p1.z, t.p2.z with
  | .fin a, .fin b, .fin c =>
    let ex := min a.e (min b.e c.e)
    let n : Int := e.1 * a.scaled ex + e.2.1 * b.scaled ex + e.2.2 * c.scaled ex
    let q := quotient n t.area.natAbs
    roundF32 { q with e := q.e + ex }
  | _, _, _ => fp32.nanCode

/-- The perspective-correct barycentrics b1 and b2. -/
def Triangle.barycentrics (t : Triangle) (e : Nat × Nat × Nat) : Nat × Nat :=
  match t.p0.q, t.p1.q, t.p2.q with
  | .fin a, .fin b, .fin c =>
    let ex := min a.e (min b.e c.e)
    let m0 : Int := e.1 * a.scaled ex
    let m1 : Int := e.2.1 * b.scaled ex
    let m2 : Int := e.2.2 * c.scaled ex
    let d := (m0 + m1 + m2).natAbs
    (roundF32 (quotient m1 d), roundF32 (quotient m2 d))
  | _, _, _ => (0, 0)

/-- What Assign writes in a lane (R322). -/
def Triangle.assign (t : Triangle) (x : Sample) : List Word32 :=
  let (b1, b2) := t.barycentrics x.e
  [BitVec.ofNat 32 (x.x + x.y * 65536), BitVec.ofNat 32 (x.s + if 0 < t.area then 256 else 0), BitVec.ofNat 32 b1, BitVec.ofNat 32 b2,
   BitVec.ofNat 32 (t.depth x.e)]

/-- The token keeps its reserved fields zero and names an existing sample (R323). -/
def tokenOk (tok code : Nat) : Bool := bitsAt tok 13 2 = 0 && bitsAt tok 16 48 = 0 && bitsAt tok 10 3 < 2 ^ code

/-- The six vertex registers as sources, the tile register and the token register. -/
def rastSources (w : LaneWord) : List Src :=
  ((List.range 6).map fun i => { srcA w with code := w.sa + BitVec.ofNat 8 i }) ++ [srcB w, srcC w]

/-- The flock after one issue of `v.rast` on a path, with the token that the issue leaves (R321). -/
def Flock.rastIssue (f : Flock) (p : Path) (w : LaneWord) : Flock × Nat :=
  let n := w.sa.toNat - 192
  let code := w.sub.toNat % 4
  let t : Triangle := ⟨f.vertex n, f.vertex (n + 2), f.vertex (n + 4)⟩
  let tok := (f.sreg (w.sc.toNat - 192)).toNat
  let tile := (f.sreg (w.sb.toNat - 192)).toNat
  let base := p.mask ||| f.parked
  let lanes := base.lanes f.lanes
  let cov := if t.rejected (w.sub.toNat / 4) || bitsAt tok 15 1 = 1 then []
    else t.walk (bitsAt tile 0 10) (bitsAt tile 16 10) code (bitsAt tok 0 10) (bitsAt tok 10 3)
  let given := lanes.zip cov
  let mask := LaneMask.ofList (given.map (·.1))
  let next := match cov[lanes.length]? with
    | none => 0x8000
    | some x => x.p + x.s * 1024
  let f := given.foldl (fun f (l, x) => (t.assign x).zipIdx.foldl (fun f (v, i) => f.setV (w.dest.toNat + i) l v) f) f
  let f := f.setQ (bitsAt w.imm.toNat 0 4) base (if next = 0x8000 then 0 else base)
  let f := f.setPath { p with mask := mask }
  ({ f with active := (f.active &&& ~~~base) ||| mask, parked := base &&& ~~~mask }, next)

/-- `v.rast`. Its token is tested at stage 2, once it is full (R323, R442), and the token register is empty until the issue ends. -/
def execVRast (w : LaneWord) (s : State) : Host.Outcome State Fault Refusal :=
  runConfirmed (fun s f p => do
    trapUnless (193 ≤ w.sa.toNat && w.sa.toNat ≤ 250 && 192 ≤ w.sb.toNat && 193 ≤ w.sc.toNat) 0x02
    checkNames f (rastSources w) [dst w 5]
    let tr := w.sc.toNat - 192
    trapUnless (p.entries.isEmpty && (!f.sFull tr || tokenOk (f.sreg tr).toNat (w.sub.toNat % 4))) 0x02
    checkSources f p w ((p.mask ||| f.parked).lanes f.lanes) (rastSources w) [dst w 5]
    let (g, token) := f.rastIssue p w
    let id := g.nextId
    let piece := { scalarPiece tr with value := some (BitVec.ofNat 64 token) }
    let o : Op := { id := id, counter := none, lidx := p.pc, pieces := [piece], packets := 0, acq := none, flags := 0, tos := true,
                    written := false, replies := [] }
    let g := { g.markEmpty piece with nextId := id + 1, ops := g.ops ++ [o] }
    .ok ((s.settleFlow (g.retire p.id).fence).post (.tosWrite f.uid id))) s

/-! ## Accesses of the units (R325 to R329) -/

/-- A unit reads at the home slice, beside the caches of its own core and die: the state, the value and whether it is poisoned. None while the
home cannot serve it (R18, R396; log entry 7). -/
def State.homeRead (s : State) (ag : Agent) (loc : Loc) (n : Nat) : Option (State × Nat × Bool) :=
  (s.readThrough ag { loc with cclass := 2 } n).map fun (s, bs, bad) => (s, ofBytes bs, bad)

/-- A unit reads bytes of a structure for a lane. -/
def State.unitRead (s : State) (ag : Agent) (lane va n align : Nat) : Res (State × Nat) :=
  match s.checkAccess ag va align .read with
  | .error c => .error (addrStop c va lane .read)
  | .ok (s, loc) => match s.homeRead ag loc n with
    | none => waits
    | some (s, v, bad) => if bad then .error (.trap (addrTrap 0x17 va lane .read)) else .ok (s, v)

/-- A unit writes bytes at their home slice; the copies of its own core and die go. -/
def State.homeWrite (s : State) (ag : Agent) (loc : Loc) (n v : Nat) : State := (s.dropCopies ag loc.pa).engineWrite ag loc (bytesOf n v) false

/-- A unit writes bytes of a structure for a lane. -/
def State.unitWrite (s : State) (ag : Agent) (lane va n align v : Nat) : Res State :=
  match s.checkAccess ag va align .write with
  | .error c => .error (addrStop c va lane .write)
  | .ok (s, loc) => do
    waitUnless (s.writeNow ag.die loc.pa)
    .ok (s.homeWrite ag loc n v)

/-! ## Binning (R324 to R326, R484) -/

/-- The fields of a bin-set header. -/
structure BinSet where
  pool : Nat
  nchunk : Nat
  free : Nat
  table : Nat
  twm1 : Nat
  thm1 : Nat
deriving DecidableEq, Repr

/-- The header that 64 bytes hold. -/
def binSet (v : Nat) : BinSet := ⟨bitsAt v 0 64, bitsAt v 64 32, bitsAt v 96 32, bitsAt v 128 64, bitsAt v 192 8, bitsAt v 200 8⟩

/-- Address of the table entry of a tile. -/
def BinSet.entry (b : BinSet) (x y : Nat) : Nat := (b.table + 16 * (y * (b.twm1 + 1) + x)) % 2 ^ 64

/-- Address of a chunk. -/
def BinSet.chunk (b : BinSet) (c : Nat) : Nat := (b.pool + 256 * c) % 2 ^ 64

/-- The tiles of a rectangle, row-major. -/
def BinSet.tiles (b : BinSet) (rect : Nat) : List (Nat × Nat) :=
  let upTo (lo hi : Nat) : List Nat := (List.range (hi + 1)).filter fun i => lo ≤ i
  (upTo (bitsAt rect 8 8) (min (bitsAt rect 24 8) b.thm1)).flatMap fun y =>
    (upTo (bitsAt rect 0 8) (min (bitsAt rect 16 8) b.twm1)).map fun x => (x, y)

/-- The table entries of some tiles: address, HEAD, TAIL and COUNT. -/
def State.binEntries (s : State) (ag : Agent) (b : BinSet) (lane : Nat) :
    List (Nat × Nat) → Res (State × List (Nat × Nat × Nat × Nat))
  | [] => .ok (s, [])
  | (x, y) :: r => do
    let a := b.entry x y
    let (s, v) ← s.unitRead ag lane a 16 16
    let (s, es) ← s.binEntries ag b lane r
    .ok (s, (a, bitsAt v 0 32, bitsAt v 32 32, bitsAt v 64 32) :: es)

/-- One primitive is appended to one bin, with the next free chunk. -/
def State.binTile (s : State) (ag : Agent) (b : BinSet) (lane prim free : Nat) (e : Nat × Nat × Nat × Nat) : Res (State × Nat) := do
  let (a, head, tail, count) := e
  let k := count % 63
  let put (s : State) (chunk : Nat) : Res State := s.unitWrite ag lane (chunk + 4 + 4 * k) 4 4 prim
  if k ≠ 0 then do
    let s ← put s (b.chunk (tail - 1))
    let s ← s.unitWrite ag lane (a + 8) 4 4 (count + 1)
    .ok (s, free)
  else do
    let c := free
    let s ← s.unitWrite ag lane (b.chunk c) 4 256 0
    let s ← if head = 0 then s.unitWrite ag lane a 4 4 (c + 1)
      else s.unitWrite ag lane (b.chunk ((tail + 2 ^ 32 - 1) % 2 ^ 32)) 4 256 (c + 1)
    let s ← s.unitWrite ag lane (a + 4) 4 4 (c + 1)
    let s ← put s (b.chunk c)
    let s ← s.unitWrite ag lane (a + 8) 4 4 (count + 1)
    .ok (s, free + 1)

/-- One primitive is appended to bins in turn. -/
def State.binTiles (s : State) (ag : Agent) (b : BinSet) (lane prim free : Nat) : List (Nat × Nat × Nat × Nat) → Res (State × Nat)
  | [] => .ok (s, free)
  | e :: r => do
    let (s, free) ← s.binTile ag b lane prim free e
    s.binTiles ag b lane prim free r

/-- The lanes of `v.bin` in turn: the lanes that are not binned. The first lane that finds the set full ends the binning. -/
def State.binLanes (s : State) (ag : Agent) (b : BinSet) (set : Nat) : List (Nat × Nat × Nat) → Res (State × List Nat)
  | [] => .ok (s, [])
  | (lane, prim, rect) :: r => do
    let (s, es) ← s.binEntries ag b lane (b.tiles rect)
    let need := (es.filter fun (_, _, _, count) => count % 63 = 0).length
    let broken := es.any fun (_, _, tail, count) => count % 63 ≠ 0 && b.nchunk ≤ (tail + 2 ^ 32 - 1) % 2 ^ 32
    if broken || b.nchunk < b.free + need then .ok (s, lane :: r.map (·.1))
    else do
      let (s, free) ← s.binTiles ag b lane prim b.free es
      let s ← if free = b.free then .ok s else s.unitWrite ag lane (set + 12) 4 4 free
      s.binLanes ag { b with free := free } set r

/-- `v.bin`. -/
def execVBin (w : LaneWord) (s : State) : Host.Outcome State Fault Refusal :=
  runHeld .stops (fun s f p => do
    let lanes := laneList f p w
    trapUnless (192 ≤ w.sc.toNat) 0x02
    checkOperands f p w lanes [srcA w, srcB w, srcC w] []
    match lanes with
    | [] => .ok (s.retireFence f.uid p.id)
    | first :: _ => do
      let ag := s.agentOf f
      let set := (f.sreg (w.sc.toNat - 192)).toNat
      let (s, v) ← s.unitRead ag first set 64 64
      waitUnless (s.releaseReady f .sy)
      let (s, left) ← s.binLanes ag (binSet v) set
        (lanes.map fun l => (l, (f.read32 w (srcA w) l).toNat, (f.read32 w (srcB w) l).toNat))
      let s := s.onFlock f.uid fun f => f.setQ (qDest w) (LaneMask.ofList lanes) (LaneMask.ofList left)
      .ok (s.retireFence f.uid p.id)) s

/-! ## Vertex export (R327) -/

/-- A value rounded to a signed 24-bit integer after a product by 256; NaN gives 0. -/
def screenCoord (x : Nat) : Nat :=
  patternOf 24 (floatToInt fp32 ⟨24, true⟩ .ne false (fp32.mul FpCtx.plain x 0x43800000).1).1

/-- The two vertex words that a clip-space vertex gives: coordinates, then depth and 1/w. -/
def vertexWords (x y z w vw vh : Nat) : Nat × Nat :=
  let mul (a b : Nat) : Nat := (fp32.mul FpCtx.plain a b).1
  let add (a b : Nat) : Nat := (fp32.add FpCtx.plain a b).1
  let sub (a b : Nat) : Nat := (fp32.sub FpCtx.plain a b).1
  let one := fp32.one
  let half (v : Nat) : Nat := roundF32 ⟨false, v, -1, false⟩
  if (fp32.decode w).positive then
    let q := (fp32.frcp FpCtx.plain w).1
    let xs := mul (add (mul x q) one) (half vw)
    let ys := mul (sub one (mul y q)) (half vh)
    (screenCoord xs + screenCoord ys * 2 ^ 32, mul z q + q * 2 ^ 32)
  else (0, 0)

/-- `v.exp.pos`. -/
def execVExpPos (w : LaneWord) (s : State) : Host.Outcome State Fault Refusal :=
  runHeld .holds (fun s f p => do
    let lanes := laneList f p w
    let vw := bitsAt w.imm.toNat 0 16
    let vh := bitsAt w.imm.toNat 16 16
    let src := srcA w 4
    trapUnless (w.sa.toNat < 192 && 192 ≤ w.sc.toNat && 1 ≤ vw && vw ≤ 32767 && 1 ≤ vh && vh ≤ 32767) 0x02
    checkOperands f p w lanes [src, srcB w, srcC w] []
    let out (l : Nat) : Nat := ((f.sreg (w.sc.toNat - 192)).toNat + 16 * (f.read32 w (srcB w) l).toNat) % 2 ^ 64
    let (s, locs) ← s.checkLanes (s.agentOf f) .write 16 (lanes.map fun l => (l, out l))
    let parts := locs.flatMap fun (l, loc) =>
      let v (i : Nat) : Nat := (f.read32 w src l i).toNat
      let (a, b) := vertexWords (v 0) (v 1) (v 2) (v 3) vw vh
      [(loc, bytesOf 8 a), ({ loc with pa := loc.pa + 8, va := loc.va + 8 }, bytesOf 8 b)]
    let s ← s.store f parts none
    .ok (s.retireFence f.uid p.id)) s

/-! ## Pixel export (R328, R329) -/

/-- The fields of a render-target descriptor. -/
structure Target where
  cbase : Nat
  dbase : Nat
  width : Nat
  height : Nat
  samples : Nat
  cfmt : Nat
deriving DecidableEq, Repr

/-- The descriptor that 64 bytes hold. -/
def targetOf (v : Nat) : Target :=
  ⟨bitsAt v 0 64, bitsAt v 64 64, bitsAt v 128 16 + 1, bitsAt v 144 16 + 1, 2 ^ bitsAt v 160 2, bitsAt v 162 2⟩

/-- Bytes of a colour. A reserved CFMT has no stated size (log entry 30). -/
def State.colourBytes (s : State) (t : Target) : Nat :=
  match t.cfmt with
  | 0 => 4
  | 1 => 8
  | _ => if (s.free 0).getLsbD 0 then 8 else 4

/-- One channel of an export: `c` itself, or blended over `d` by `a`, each channel scaled by `k` so that it is exact. -/
def blendChannel (blend : Bool) (k : Nat) (c a d : Num) : Option Num :=
  let scale (x : Num) : Option Num := x.mul (.fin ⟨false, k, 0, false⟩)
  let one : Num := .fin ⟨false, 1, 0, false⟩
  if !blend then scale c
  else match (scale c).bind (·.mul a), (one.add false a.negate).bind (·.mul d) with
    | some x, some y => x.add false y
    | _, _ => none

/-- A colour channel of RGBA8: clamped and rounded, NaN giving 0 (R329). The value is 255 times the channel. -/
def encodeUnorm (x : Option Num) : Nat :=
  match x with
  | some (.fin m) => if m.neg then 0 else min (quanta .ne m 0).1 255
  | some (.inf neg) => if neg then 0 else 255
  | _ => 0

/-- The new colour of a sample: source channels R, G, B and A as FP16 codes over the old colour. -/
def Target.colour (t : Target) (blend : Bool) (src : List Nat) (old : Nat) (free : Nat) : Nat :=
  let a := src.getD 3 0
  let nan (x : Nat) : Bool := fp16.isNan x
  let channel (i : Nat) : Nat :=
    let c := src.getD i 0
    match t.cfmt with
    | 0 =>
      if nan c || (blend && nan a) then 0
      else encodeUnorm (blendChannel blend 255 (fp16.decode c) (fp16.decode a) (.fin ⟨false, bitsAt old (8 * i) 8, 0, false⟩)) * 2 ^ (8 * i)
    | _ =>
      let d := bitsAt old (16 * i) 16
      (withNans fp16 (if blend then [(fp16, c), (fp16, a), (fp16, d)] else [(fp16, c)])
        (fp16.deliver FpCtx.plain (blendChannel blend 1 (fp16.decode c) (fp16.decode a) (fp16.decode d)))).1 * 2 ^ (16 * i)
  if 2 ≤ t.cfmt then free else ((List.range 4).map channel).sum

/-- The fields of one lane's export: lane, pixel, sample, depth and the four channels. -/
structure Export where
  lane : Nat
  x : Nat
  y : Nat
  s : Nat
  z : Nat
  channels : List Nat
deriving DecidableEq, Repr

/-- Number of a sample (R328). -/
def Export.number (e : Export) (t : Target) : Nat := (e.y * t.width + e.x) * t.samples + e.s

/-- The export lies inside the target. -/
def Export.inside (e : Export) (t : Target) : Bool := e.x < t.width && e.y < t.height && e.s < t.samples

/-- What a lane of `v.exp.px` reads from its registers. -/
def Flock.exportOf (f : Flock) (w : LaneWord) (l : Nat) : Export :=
  let d (i : Nat) : Nat := (f.read32 w (srcA w 5) l i).toNat
  let c (i : Nat) : Nat := (f.read32 w (srcB w 2) l i).toNat
  ⟨l, bitsAt (d 0) 0 16, bitsAt (d 0) 16 16, bitsAt (d 1) 0 3, d 4, [bitsAt (c 0) 0 16, bitsAt (c 0) 16 16, bitsAt (c 1) 0 16, bitsAt (c 1) 16 16]⟩

/-- The depth test of an export applies. -/
def depthTest (w : LaneWord) (t : Target) : Bool := w.sub.getLsbD 0 && t.dbase ≠ 0

/-- Address of an export's depth. -/
def Export.depthAt (e : Export) (t : Target) : Nat := (t.dbase + 4 * e.number t) % 2 ^ 64

/-- Address of an export's colour. -/
def Export.colourAt (e : Export) (t : Target) (n : Nat) : Nat := (t.cbase + n * e.number t) % 2 ^ 64

/-- The places that an export may write: depth, where it is tested, and then colour. -/
def Export.places (e : Export) (w : LaneWord) (t : Target) (n : Nat) : List (Nat × Nat) :=
  (if depthTest w t then [(e.depthAt t, 4)] else []) ++ [(e.colourAt t n, n)]

/-- The places of one lane are checked: their locations, or the cause and address of the earliest check that one of them fails (R442). -/
def State.checkPlaces (s : State) (ag : Agent) : List (Nat × Nat) → Except (Nat × Nat) (State × List Loc)
  | [] => .ok (s, [])
  | (va, n) :: r =>
    match s.checkAccess ag va n .write with
    | .error c => match s.checkPlaces ag r with
      | .error x => .error ((firstFailure [(c, va), x]).getD (c, va))
      | .ok _ => .error (c, va)
    | .ok (s, l) => match s.checkPlaces ag r with
      | .error x => .error x
      | .ok (s, ls) => .ok (s, l :: ls)

/-- The addresses that exports may write are checked, with the locations of each; the lowest failing lane traps, also where a value that it would
read is poisoned. -/
def State.checkExports (s : State) (ag : Agent) (w : LaneWord) (t : Target) (n : Nat) : List Export → Res (State × List (Export × List Loc))
  | [] => .ok (s, [])
  | e :: r =>
    match s.checkPlaces ag (e.places w t n) with
    | .error (c, va) => .error (addrStop c va e.lane .write)
    | .ok (s, ls) =>
      let bad (x : Loc × Nat × Nat) : Bool := !(s.die (homeDie x.1.pa)).live || s.memPoisoned x.1.pa x.2.2
      let reads := (ls.zip (e.places w t n)).take (if w.sub.getLsbD 1 then 2 else ls.length - 1)
      match reads.find? bad with
      | some x => .error (.trap (addrTrap 0x17 x.2.1 e.lane .read))
      | none => match s.checkExports ag w t n r with
        | .error x => .error ((e.places w t n).foldr (fun (va, n) x => x.after ⟨ag, .write, n, va⟩) x)
        | .ok (s, rest) => .ok (s, (e, ls) :: rest)

/-- The colour of an export is written, blended over what is there where the instruction blends. -/
def State.exportColour (s : State) (ag : Agent) (w : LaneWord) (t : Target) (n : Nat) (e : Export) (c : Loc) : State :=
  let blend := w.sub.getLsbD 1
  let (s, old) := if blend then ((s.homeRead ag c n).map fun (s, v, _) => (s, v)).getD (s, 0) else (s, 0)
  s.homeWrite ag c n (t.colour blend e.channels old (s.free 1).toNat)

/-- One export is performed at its colour's location, or at those of its depth and its colour (R329). -/
def State.exportSample (s : State) (ag : Agent) (w : LaneWord) (t : Target) (n : Nat) (x : Export × List Loc) : State :=
  match x with
  | (e, [c]) => s.exportColour ag w t n e c
  | (e, [d, c]) =>
    match s.homeRead ag d 4 with
    | none => s
    | some (s, z, _) =>
      if !fp32.isNan e.z && !fp32.isNan z && (fp32.decode e.z).lt (fp32.decode z) then (s.homeWrite ag d 4 e.z).exportColour ag w t n e c else s
  | _ => s

/-- `v.exp.px`. -/
def execVExpPx (w : LaneWord) (s : State) : Host.Outcome State Fault Refusal :=
  runHeld .holds (fun s f p => do
    let lanes := laneList f p w
    trapUnless (w.sa.toNat < 192 && 192 ≤ w.sc.toNat) 0x02
    checkNames f [srcA w 5, srcB w 2, srcC w] []
    checkSources f p w lanes [srcA w 2, { srcA w with code := w.sa + 4 }, srcB w 2, srcC w] []
    match lanes with
    | [] => .ok (s.retireFence f.uid p.id)
    | first :: _ => do
      let ag := s.agentOf f
      let (s, v) ← s.unitRead ag first (f.sreg (w.sc.toNat - 192)).toNat 64 64
      let t := targetOf v
      let n := s.colourBytes t
      let (s, xs) ← s.checkExports ag w t n ((lanes.map (f.exportOf w)).filter fun e => e.inside t)
      waitUnless (s.releaseReady f .sy && xs.all fun (_, ls) => ls.all fun l => s.reachNow ag l.pa)
      .ok ((xs.foldl (fun s x => s.exportSample ag w t n x) s).retireFence f.uid p.id)) s

end Sys2Proof.Machine
end

