-- ==== Sys2Proof/Machine/Sampler.lean ====
section
/-!
DEFINITION. The sampler and its latent-texture decoder (R330 to R339, R484). Values are exact until their one rounding.
-/
namespace Sys2Proof.Machine

/-! ## Reads of the sampler and the tree unit (R339, R344) -/

/-- Why a unit's reads end early: a condition of R484, or a line of another die that it cannot read at this moment. -/
inductive UnitStop where
  | fault
  | later
deriving DecidableEq, Repr

/-- Reads of a unit: they pass on the state of the caches. -/
abbrev UnitM (α : Type) := StateT State (Except UnitStop) α

/-- The unit meets a condition of R484. -/
def unitFault {α : Type} : UnitM α := fun _ => .error .fault

/-- What a failed translation is to a unit. -/
def unitStop (cause : Nat) : UnitStop := if cause = notYet then .later else .fault

/-- The unit goes on unless the condition fails. -/
def unitCheck (c : Bool) : UnitM Unit := if c then pure () else unitFault

/-- A read that lies within 64 bytes: an ordinary load, made as a whole (R18; log entry 7). -/
def State.unitLine (s : State) (ag : Agent) (va n : Nat) : Except UnitStop (List Byte × State) :=
  match s.translate ag va .read with
  | .error c => .error (unitStop c)
  | .ok (s, loc) =>
    match s.readThrough ag loc n with
    | some (t, bs, bad) => if bad then .error .fault else .ok (bs, if loc.commons then t else t.noteRequests ag 1)
    | none => .error .later

/-- A read of a run of bytes, line by line. -/
def unitRun (ag : Agent) : Nat → Nat → Nat → UnitM (List Byte)
  | 0, _, _ => pure []
  | _, _, 0 => pure []
  | fuel + 1, va, n => do
    let va := va % 2 ^ 64
    let k := min n (64 - va % 64)
    let a ← fun s => s.unitLine ag va k
    let b ← unitRun ag fuel (va + k) (n - k)
    pure (a ++ b)

/-- The bytes of a run as a number. -/
def unitLoad (ag : Agent) (va n : Nat) : UnitM Nat := do pure (ofBytes (← unitRun ag (n / 64 + 2) va n))

/-! ## Descriptors (R330 to R332) -/

/-- A texture descriptor. -/
structure Texture where
  base : Nat
  width : Nat
  height : Nat
  fmt : Nat
  mips : Nat
  tiled : Bool
  dtab : Nat
deriving DecidableEq, Repr

/-- The texture that 64 bytes describe, if its fields are as R331 asks. -/
def textureOf (v : Nat) : Option Texture :=
  let t : Texture := ⟨bitsAt v 0 64, bitsAt v 64 14 + 1, bitsAt v 78 14 + 1, bitsAt v 92 4, bitsAt v 96 4, bitsAt v 100 1 = 1, bitsAt v 112 16⟩
  if t.base % 256 = 0 && t.fmt ≤ 3 && bitsAt v 101 11 = 0 && bitsAt v 128 384 = 0 && (t.fmt = 1 || !t.tiled) && (t.fmt = 0 || t.dtab = 0)
  then some t else none

/-- A sampler descriptor. -/
structure Sampler where
  addru : Nat
  addrv : Nat
  mag : Bool
  min : Bool
  mip : Bool
  aniso : Nat
  lodBias : Nat
  minLod : Nat
  maxLod : Nat
deriving DecidableEq, Repr

/-- The sampler that 32 bytes describe, if its reserved fields are zero. -/
def samplerOf (v : Nat) : Option Sampler :=
  if bitsAt v 11 5 = 0 && bitsAt v 64 192 = 0 then
    some ⟨bitsAt v 0 2, bitsAt v 2 2, bitsAt v 4 1 = 1, bitsAt v 5 1 = 1, bitsAt v 6 1 = 1, bitsAt v 7 4 + 1, bitsAt v 16 16, bitsAt v 32 16,
      bitsAt v 48 16⟩
  else none

/-- An entry of a heap of the session context: its base and count fields, its size, and its index. -/
def heapEntry (ag : Agent) (base count countBits size i : Nat) : UnitM Nat := fun s =>
  if i < s.ctx ag.session count countBits then unitLoad ag (s.ctx ag.session base 64 + size * i) size s else .error .fault

/-- The texture of a binding. -/
def bindTexture (ag : Agent) (binding : Nat) : UnitM Texture := do
  match textureOf (← heapEntry ag 704 768 20 64 (bitsAt binding 0 20)) with
  | some t => pure t
  | none => unitFault

/-- The sampler of a binding. -/
def bindSampler (ag : Agent) (binding : Nat) : UnitM Sampler := do
  match samplerOf (← heapEntry ag 800 864 12 32 (bitsAt binding 20 12)) with
  | some t => pure t
  | none => unitFault

/-! ## The decoder (R334 to R336) -/

/-- A decoder table is well formed. -/
def tableOk (b : List Byte) : Bool :=
  let zero (lo n : Nat) : Bool := ((b.drop lo).take n).all (· == 0)
  ofBytes (b.take 2) = 0x584C && b.getD 2 0 = 1 && b.getD 3 0 ≤ 1 && zero 4 12 && zero 1224 56
    && ((b.drop 16).take 1104).all (fun w => !e4m3.isNan w.toNat)
    && (List.range 52).all fun o => bitsAt (ofBytes ((b.drop (1120 + 2 * o)).take 2)) 10 5 ≠ 31

/-- The decoder cache of a core with a table used at an address of a PASID: 16 tables, the least recent leaving. -/
def decoderUse (l : List DecoderEntry) (pa pasid va : Nat) (b : List Byte) : List DecoderEntry :=
  let old := ((l.find? fun x => x.pa = pa).map DecoderEntry.users).getD []
  let l := l.filter fun x => x.pa ≠ pa
  (if l.length < 16 then l else l.drop 1) ++ [⟨pa, (pasid, va) :: old.filter (· ≠ (pasid, va)), b⟩]

/-- A decoder table of the session. While its cached copy survives, a decode uses that copy or the table in memory, a free choice. -/
def decoderTable (ag : Agent) (i : Nat) : UnitM (List Byte) := fun s =>
  if s.ctx ag.session 960 16 ≤ i then .error .fault
  else
    let va := (s.ctx ag.session 896 64 + 1280 * i) % 2 ^ 64
    match s.translate ag va .read, ag.core with
    | .ok (s, loc), some c =>
      let use (b : List Byte) (s : State) : State :=
        s.onCore c fun k => { k with decoders := decoderUse k.decoders loc.pa (s.pasid ag.session) va b }
      let read (s : State) (keep : List Byte → List Byte) : Except UnitStop (List Byte × State) := do
        let (b, s) ← unitRun ag 22 va 1280 s
        if tableOk b then .ok (b, use (keep b) s) else .error .fault
      match (s.core c).decoders.find? fun x => x.pa = loc.pa with
      | some x => if (s.free 2).getLsbD 0 then .ok (x.bytes, use x.bytes s) else read s fun _ => x.bytes
      | none => read s id
    | .error e, _ => .error (unitStop e)
    | _, none => .error .fault

/-- A finite FP16 code in units of 2^-24; an input's NaN reads as zero and its infinities as the largest finite value. -/
def fixed16 (c : Nat) : Int :=
  match fp16.decode (c % 65536) with
  | .fin m => m.scaled (-24)
  | .inf neg => if neg then -(65504 * 2 ^ 24) else 65504 * 2 ^ 24
  | .nan _ _ _ => 0

/-- A finite E4M3 code in units of 2^-9. -/
def fixed8 (c : Nat) : Int :=
  match e4m3.decode c with
  | .fin m => m.scaled (-9)
  | _ => 0

/-- One layer: for each neuron the exact sum of weighted inputs and bias, rounded once to FP16 and saturated. -/
def decoderLayer (b : List Byte) (weights biases n : Nat) (xs : List Int) : List Nat :=
  (List.range n).map fun o =>
    let w := (b.drop (weights + xs.length * o)).take xs.length
    let h := ((w.zip xs).map fun (w, x) => fixed8 w.toNat * x).sum + fixed16 (ofBytes ((b.drop (biases + 2 * o)).take 2)) * 2 ^ 9
    (fp16.round .ne false true (Mag.ofInt h (-33) false)).1

/-- ReLU on an FP16 value. -/
def relu (c : Nat) : Int := let v := fixed16 c; if v ≤ 0 then 0 else v

/-- The decoded texel of 18 inputs in units of 2^-24: R, G, B and A in FP16. -/
def decodeTexel (b : List Byte) (xs : List Int) : List Nat :=
  let h1 := (decoderLayer b 16 1120 24 xs).map relu
  let h2 := (decoderLayer b 448 1168 24 h1).map relu
  let out := decoderLayer b 1024 1216 4 h2
  if b.getD 3 0 = 1 then out.map fun c => if fixed16 c < 0 then 0 else if 2 ^ 24 < fixed16 c then 0x3C00 else c else out

/-! ## Texels (R331, R333) -/

/-- Width and height of a level. -/
def Texture.size (t : Texture) (d : Nat) : Nat × Nat := (max 1 (t.width / 2 ^ d), max 1 (t.height / 2 ^ d))

/-- Bytes of a texel of a linear or tiled level. -/
def Texture.texelBytes (t : Texture) : Nat := if t.fmt = 2 then 8 else 4

/-- Bytes of a row of a linear level. -/
def Texture.pitch (t : Texture) (d : Nat) : Nat := ((t.size d).1 * t.texelBytes + 255) / 256 * 256

/-- Bytes of a level. -/
def Texture.levelBytes (t : Texture) (d : Nat) : Nat :=
  let (w, h) := t.size d
  if t.fmt = 0 then 36 * ((w + 7) / 8) * ((h + 7) / 8)
  else if t.tiled then 4096 * ((w + 31) / 32) * ((h + 31) / 32)
  else t.pitch d * h

/-- Address of a level. -/
def Texture.level (t : Texture) (d : Nat) : Nat :=
  t.base + ((List.range d).map fun i => (t.levelBytes i + 255) / 256 * 256).sum

/-- Bits of a number spread to the even places. -/
def spread (n x : Nat) : Nat := ((List.range n).map fun i => bitsAt x i 1 * 2 ^ (2 * i)).sum

/-- The LEGACY bit of the page that holds an address (R331). -/
def legacyPage (ag : Agent) (va : Nat) : UnitM Bool := fun s =>
  if 2 ^ 48 ≤ va then .error .fault
  else match s.lookup ag va with
    | .ok (s, e) => .ok (pteBit e 121, s)
    | .error c => .error (unitStop c)

/-- Address of a texel of a linear or tiled level. -/
def Texture.address (t : Texture) (ag : Agent) (d x y : Nat) : UnitM Nat := do
  if t.tiled then
    let tile := t.level d + 4096 * (y / 32 * (((t.size d).1 + 31) / 32) + x / 32)
    let old ← legacyPage ag (tile % 2 ^ 64)
    pure (tile + 4 * (if old then spread 5 (x % 32) + 2 * spread 5 (y % 32) else 32 * (y % 32) + x % 32))
  else pure (t.level d + y * t.pitch d + x * t.texelBytes)

/-- One latent of a level: its 16 elements in units of 2^-130, NaV as zero. -/
def Texture.latent (t : Texture) (ag : Agent) (d i j : Nat) : UnitM (List Int) := do
  let blocks := ((t.size d).1 + 7) / 8
  let v ← unitLoad ag (t.level d + 36 * (j / 2 * blocks + i / 2) + 9 * (2 * (j % 2) + i % 2)) 9
  pure ((List.range 16).map fun k =>
    let m := signedOf 4 (bitsAt v (8 + 4 * k) 4)
    if m = -8 then 0 else m * 2 ^ bitsAt v 0 8)

/-- A latent weighted in 64ths, where it contributes. -/
def Texture.weighted (t : Texture) (ag : Agent) (d : Nat) (x : Nat × Nat × Nat) : UnitM (List Int) :=
  if x.2.2 = 0 then pure (List.replicate 16 0)
  else do pure ((← t.latent ag d x.1 x.2.1).map fun v => v * x.2.2)

/-- A decoded texel of an LX level (R333). -/
def Texture.decodeLx (t : Texture) (ag : Agent) (d x y : Nat) : UnitM (List Nat) := do
  let (w, h) := t.size d
  let split (v n : Nat) : Nat × Nat × Nat :=
    let g : Int := 2 * v - 3
    let at_ (i : Int) : Nat := min (max i 0).toNat (2 * ((n + 7) / 8) - 1)
    (at_ (g / 8), at_ (g / 8 + 1), (g % 8).toNat)
  let (i0, i1, fx) := split x w
  let (j0, j1, fy) := split y h
  let parts ← [(i0, j0, (8 - fx) * (8 - fy)), (i1, j0, fx * (8 - fy)), (i0, j1, (8 - fx) * fy), (i1, j1, fx * fy)].mapM (t.weighted ag d)
  let channel (k : Nat) : Int := (parts.map fun p => p.getD k 0).sum
  let xs := (List.range 16).map fun k => fixed16 (fp16.round .ne false true (Mag.ofInt (channel k) (-136) false)).1
  let sub (v : Nat) : Int := (2 * (v % 4) + 1) * 2 ^ 21
  pure (decodeTexel (← decoderTable ag t.dtab) (xs ++ [sub x, sub y]))

/-- The divisor that turns a texture's texel values into channels. -/
def Texture.unit (t : Texture) : Nat := if t.fmt = 1 then 255 else 1

/-- The channels of a texel, times `unit`. -/
def Texture.texel (t : Texture) (ag : Agent) (d x y : Nat) : UnitM (List Num) := do
  if t.fmt = 0 then pure ((← t.decodeLx ag d x y).map fp16.decode)
  else
    let v ← unitLoad ag (← t.address ag d x y) t.texelBytes
    let int (n : Nat) : Num := .fin ⟨false, n, 0, false⟩
    pure (match t.fmt with
      | 1 => (List.range 4).map fun k => int (bitsAt v (8 * k) 8)
      | 2 => (List.range 4).map fun k => fp16.decode (bitsAt v (16 * k) 16)
      | _ => [fp32.decode v, int 0, int 0, int 1])

/-- A sum of contributions over a divisor, as FP16; NaN gives 0x7E00 (R337). -/
def channel16 (x : Option Num) (d : Nat) : Nat :=
  match x with
  | some (.fin m) => (fp16.round .ne false false (m.over d)).1
  | some (.inf neg) => fp16.signed neg fp16.infCode
  | _ => 0x7E00

/-! ## Level of detail (R337) -/

/-- The rules in force for a sampler instruction: modern, or those that LSAMPLE selects. -/
structure SampleRules where
  lw6 : Bool
  lrho : Bool
  lapow2 : Bool
  llod16 : Bool
deriving DecidableEq, Repr

/-- The rules of an instruction. -/
def State.sampleRules (s : State) (session : Nat) (rnd : BitVec 2) : SampleRules :=
  let bit (i : Nat) : Bool := rnd = 3 && bitsAt (s.legacyMode session) i 1 = 1
  ⟨bit 8, bit 9, bit 10, bit 11⟩

/-- Derivatives of the coordinates: u_x, v_x, u_y, v_y. -/
structure Gradient where
  ux : Mag
  vx : Mag
  uy : Mag
  vy : Mag
deriving DecidableEq, Repr

/-- The square of a footprint's length along one axis. -/
def rhoSquared (r : SampleRules) (u v : Mag) (w h : Nat) : Mag :=
  let sq (x : Mag) (n : Nat) : Mag := ⟨false, (x.m * n) ^ 2, 2 * x.e, false⟩
  let a := sq u w
  let b := sq v h
  if r.lrho then (if Num.lt (.fin a) (.fin b) then b else a) else a.add false b

/-- The least n from 1 up with n²·y ≥ x, not above a limit. -/
def ratioCeil (x y : Mag) (limit : Nat) : Nat :=
  ((List.range limit).find? fun i => !Num.lt (.fin { y with m := y.m * (i + 1) ^ 2 }) (.fin x)).elim limit (· + 1)

/-- The number of probes. -/
def probes (r : SampleRules) (rmax rmin : Mag) (limit : Nat) : Nat :=
  let down := 2 ^ limit.log2
  let limit := if r.lapow2 then down else limit
  if rmin.zero then limit
  else
    let n := ratioCeil rmax rmin limit
    if r.lapow2 then min limit (if 2 ^ n.log2 = n then n else 2 ^ (n.log2 + 1)) else n

/-- log2 of ρmax over N, from the square of ρmax. -/
def lodBase (sq : Mag) (n : Nat) : Num :=
  if sq.zero then .inf true
  else
    let twos := ((List.range 5).filter fun i => n % 2 ^ (i + 1) = 0).length
    let odd := (n / 2 ^ twos) ^ 2
    let half (x : Mag) : Mag := { x with e := x.e - 1 }
    if sq.m % odd = 0 then .fin (half (Mag.log2of ⟨false, sq.m / odd, sq.e - 2 * twos, false⟩))
    else
      let a := half (Mag.log2of sq)
      let b := half (Mag.log2of ⟨false, odd, 2 * twos, false⟩)
      .fin { a.add false { b with neg := !b.neg } with more := true }

/-- λ from the sum of its exact terms, rounded once to FP32. -/
def lambdaOf (terms : List Num) : Option Num :=
  match sumExact false (terms.map some) with
  | some (.fin m) =>
    let more := terms.any fun t => match t with
      | .fin m => m.more
      | _ => false
    some (fp32.decode (fp32.round .ne false false { m with more := more }).1)
  | r => r

/-- A value that is not a NaN. -/
def Num.known (x : Num) : Option Num :=
  match x with
  | .nan _ _ _ => none
  | y => some y

/-- λ clamped and quantised, in units of 1/256; none where the rule gives no value. -/
def clampLod (r : SampleRules) (sm : Sampler) (t : Texture) (x : Num) : Option Int := do
  let x ← x.known
  let lo ← (fp16.decode sm.minLod).known
  let top ← (fp16.decode sm.maxLod).known
  let mips : Num := .fin ⟨false, t.mips, 0, false⟩
  let hi := if mips.lt top then mips else top
  if hi.lt lo then none
  else
    let x := if x.lt lo then lo else if hi.lt x then hi else x
    match x with
    | .fin m =>
      let q : Nat := if r.llod16 then 16 * (quanta .rz m (-4)).1 else (quanta .ne m (-8)).1
      some (if m.neg then -(q : Int) else q)
    | .inf true => some (-1)
    | _ => none

/-! ## Filtering (R337) -/

/-- An integer texel coordinate brought into a level: none is the border. -/
def addressTexel (mode size : Nat) (x : Int) : Option Nat :=
  match mode with
  | 0 => some (x % size).toNat
  | 1 => let t := (x % (2 * size : Nat)).toNat; some (if t < size then t else 2 * size - 1 - t)
  | 2 => some (min (max x 0).toNat (size - 1))
  | _ => if 0 ≤ x ∧ x < size then some x.toNat else none

/-- Texel coordinates and weights in 256ths along one axis, for a coordinate num/den in units of the level's size. -/
def axisTexels (r : SampleRules) (linear : Bool) (num : Int) (den size : Nat) : List (Int × Nat) :=
  if !linear then [(num * size / den, 256)]
  else
    let n := 2 * num * size - den
    let x0 := n / (2 * den : Nat)
    let rem := (n % (2 * den : Nat)).toNat
    let f := if r.lw6 then 4 * (64 * rem / (2 * den)) else (quanta .ne ((Mag.mk false (256 * rem) 0 false).over (2 * den)) 0).1
    [(x0, 256 - f), (x0 + 1, f)]

/-- A contribution: level, texel coordinates and weight. -/
structure Tap where
  level : Nat
  x : Int
  y : Int
  weight : Nat
deriving DecidableEq, Repr

/-- The taps of one probe in a level; `u` and `v` over `den`. -/
def probeTaps (r : SampleRules) (t : Texture) (linear : Bool) (level weight : Nat) (u v : Int) (den : Nat) : List Tap :=
  let (w, h) := t.size level
  (axisTexels r linear v den h).flatMap fun (y, wy) =>
    (axisTexels r linear u den w).filterMap fun (x, wx) => if wx * wy * weight = 0 then none else some ⟨level, x, y, wx * wy * weight⟩

/-- The levels that λ selects, with their weights in 256ths and whether each filters linearly. -/
def lodLevels (sm : Sampler) (t : Texture) (lam : Int) : List (Nat × Nat × Bool) :=
  if lam ≤ 0 then [(0, 256, sm.mag)]
  else
    let d := lam.toNat / 256
    let f := lam.toNat % 256
    if sm.mip then [(d, 256 - f, sm.min), (min (d + 1) t.mips, f, sm.min)] else [(d, 256, sm.min)]

/-- The taps of `n` probes along the major axis. -/
def sampleTaps (r : SampleRules) (sm : Sampler) (t : Texture) (lam : Int) (u v du dv : Mag) (n : Nat) : List Tap :=
  let e := min 0 (min (min u.e v.e) (min du.e dv.e))
  let at_ (c d : Mag) (k : Nat) : Int := 2 * n * c.scaled e + (2 * k + 1 - n) * d.scaled e
  let den := 2 * n * 2 ^ (-e).toNat
  (List.range n).flatMap fun k => (lodLevels sm t lam).flatMap fun (level, weight, linear) =>
    probeTaps r t linear level weight (at_ u du k) (at_ v dv k) den

/-- A tap's channels, the border's being zero. -/
def tapTexel (ag : Agent) (sm : Sampler) (t : Texture) (x : Tap) : UnitM (List Num) := do
  let (w, h) := t.size x.level
  match addressTexel sm.addru w x.x, addressTexel sm.addrv h x.y with
  | some i, some j => t.texel ag x.level i j
  | _, _ => pure (List.replicate 4 (.fin ⟨false, 0, 0, false⟩))

/-- A tap's channels times its weight. -/
def tapPart (ag : Agent) (sm : Sampler) (t : Texture) (x : Tap) : UnitM (List (Option Num)) := do
  pure ((← tapTexel ag sm t x).map fun c => c.mul (.fin ⟨false, x.weight, 0, false⟩))

/-- The filtered result of taps whose weights sum to `n` times 2^24. -/
def filterTaps (ag : Agent) (sm : Sampler) (t : Texture) (n : Nat) (taps : List Tap) : UnitM (List Nat) := do
  let parts ← taps.mapM (tapPart ag sm t)
  pure ((List.range 4).map fun k => channel16 (sumExact false (parts.map fun p => p.getD k none)) (n * 2 ^ 24 * t.unit))

/-! ## The forms (R338, R339) -/

/-- What a lane of a sampler instruction gives: nothing where it meets a fault, else its channels, none where the manual states no
result. -/
abbrev LaneSample := UnitM (Option (List Nat))

/-- A finite FP32 operand. -/
def finite32 (c : Nat) : Option Mag :=
  match fp32.decode c with
  | .fin m => some m
  | _ => none

/-- Filtering at given coordinates, with derivatives and λ's extra terms or with λ itself. -/
def sampleAt (s : State) (ag : Agent) (rnd : BitVec 2) (binding : Nat) (u v : Option Mag) (g : Option (Option Gradient))
    (extra : Num) : LaneSample := do
  let t ← bindTexture ag binding
  let sm ← bindSampler ag binding
  let r := s.sampleRules ag.session rnd
  match u, v, g with
  | some u, some v, none =>
    match clampLod r sm t extra with
    | none => pure none
    | some lam =>
      let zero : Mag := ⟨false, 0, 0, false⟩
      pure (some (← filterTaps ag sm t 1 (sampleTaps r sm t lam u v zero zero 1)))
  | some u, some v, some (some g) =>
    let rx := rhoSquared r g.ux g.vx t.width t.height
    let ry := rhoSquared r g.uy g.vy t.width t.height
    let major := !Num.lt (.fin rx) (.fin ry)
    let (rmax, rmin, du, dv) := if major then (rx, ry, g.ux, g.vx) else (ry, rx, g.uy, g.vy)
    let n := probes r rmax rmin sm.aniso
    match (lambdaOf [lodBase rmax n, extra, fp16.decode sm.lodBias]).bind (clampLod r sm t) with
    | none => pure none
    | some lam => pure (some (← filterTaps ag sm t n (sampleTaps r sm t lam u v du dv n)))
  | _, _, _ => pure none

/-- A gradient of four FP32 codes. -/
def gradientOf (ux vx uy vy : Nat) : Option Gradient := do
  pure ⟨← finite32 ux, ← finite32 vx, ← finite32 uy, ← finite32 vy⟩

/-- The fault colour (R484). -/
def faultColour : List Nat := [0x3C00, 0, 0x3C00, 0x3C00]

/-- The lanes of a unit's instruction in turn: what each gives, none where it meets a fault. None of it while a read has to wait. -/
def State.unitLanes {α : Type} (s : State) (one : Nat → UnitM α) : List Nat → Option (State × List (Nat × Option α))
  | [] => some (s, [])
  | l :: r =>
    match one l s with
    | .error .later => none
    | .error .fault => (s.unitLanes one r).map fun (s, vs) => (s, (l, none) :: vs)
    | .ok (a, s) => (s.unitLanes one r).map fun (s, vs) => (s, (l, some a) :: vs)

/-- Register `i` of the destination of a lane: the channels that it has sampled, the fault colour (R484), or a free value where the manual states no
result. -/
def State.sampleWord (s : State) (l i : Nat) (x : Option (Option (List Nat))) : Word32 :=
  let word (c : List Nat) : Word32 := BitVec.ofNat 32 (c.getD (2 * i) 0 + c.getD (2 * i + 1) 0 * 65536)
  match x with
  | none => word faultColour
  | some none => (s.free (16 + 2 * l + i)).setWidth 32
  | some (some c) => word c

/-- A sampler instruction: its sources are checked, its lanes are read and filtered, and its result returns later on counter T. One that reads the
other lanes of its quads waits while a mask of its flock is unconfirmed (R173, R338). -/
def sampler (w : LaneWord) (srcs : List Src) (quads : Bool) (one : State → Flock → Agent → Nat → LaneSample) (s : State) :
    Host.Outcome State Fault Refusal :=
  runHeld .loads (fun s f p => do
    let lanes := laneList f p w
    trapUnless (srcs.all fun x => x.regs ≤ 2 || x.code.toNat < 192) 0x02
    checkNames f srcs [dst w 2]
    waitUnless (!quads || f.branches.isEmpty)
    checkSourcesVia f p w lanes srcs [dst w 2] fun x l =>
      if quads && x.slot = 0 then (List.range 4).map fun i => some (l / 4 * 4 + i) else [some l]
    let ag := s.agentOf f
    waitUnless (f.counterRoom .t && s.memReady f && f.readsReturned)
    match s.unitLanes (one s f ag) lanes with
    | none => waits
    | some (t, vals) =>
      let bad := vals.any fun x => x.2.isNone
      waitUnless (s.mayHaveSent t ag && (!bad || p.guess.isNone))
      let pieces := vals.flatMap fun (l, x) => (List.range 2).map fun i =>
        { lanePiece (w.dest.toNat + i) l false with value := some ((t.sampleWord l i x).setWidth 64) }
      let t := (t.beginOp f.uid p.pc (some .t) pieces 0 none).retirePath f.uid p.id
      .ok (if bad then t.post (.graphicsFaultReport f.core (t.herdOf f).region false) else t)) s

/-- A 32-bit source register of a lane as a number. -/
def Flock.num (f : Flock) (w : LaneWord) (x : Src) (l : Nat) (i : Nat := 0) : Nat := (f.read32 w x l i).toNat

/-- The coordinates of a lane. -/
def Flock.uv (f : Flock) (w : LaneWord) (l : Nat) : Option Mag × Option Mag :=
  (finite32 (f.num w (srcA w 2) l 0), finite32 (f.num w (srcA w 2) l 1))

/-- A lane of `v.tex.smp`: derivatives are differences within the quad. -/
def texSmpLane (w : LaneWord) (s : State) (f : Flock) (ag : Agent) (l : Nat) : LaneSample :=
  let c (i j : Nat) : Nat := f.num w (srcA w 2) (l / 4 * 4 + j) i
  let diff (i j : Nat) : Nat := (fp32.sub FpCtx.plain (c i j) (c i 0)).1
  let (u, v) := f.uv w l
  sampleAt s ag w.rnd (f.num w (srcB w) l) u v (some (gradientOf (diff 0 1) (diff 1 1) (diff 0 2) (diff 1 2)))
    (fp32.decode (f.num w (srcC w) l))

/-- `v.tex.smp`. -/
def execVTexSmp (w : LaneWord) (s : State) : Host.Outcome State Fault Refusal :=
  sampler w [srcA w 2, srcB w, srcC w] true (texSmpLane w) s

/-- A lane of `v.tex.lod`. -/
def texLodLane (w : LaneWord) (s : State) (f : Flock) (ag : Agent) (l : Nat) : LaneSample :=
  let (u, v) := f.uv w l
  sampleAt s ag w.rnd (f.num w (srcB w) l) u v none (fp32.decode (f.num w (srcC w) l))

/-- `v.tex.lod`. -/
def execVTexLod (w : LaneWord) (s : State) : Host.Outcome State Fault Refusal :=
  sampler w [srcA w 2, srcB w, srcC w] false (texLodLane w) s

/-- A lane of `v.tex.grad`. -/
def texGradLane (w : LaneWord) (s : State) (f : Flock) (ag : Agent) (l : Nat) : LaneSample :=
  let d (i : Nat) : Nat := f.num w (srcC w 4) l i
  let (u, v) := f.uv w l
  sampleAt s ag w.rnd (f.num w (srcB w) l) u v (some (gradientOf (d 0) (d 1) (d 2) (d 3))) (.fin ⟨false, 0, 0, false⟩)

/-- `v.tex.grad`. -/
def execVTexGrad (w : LaneWord) (s : State) : Host.Outcome State Fault Refusal :=
  sampler w [srcA w 2, srcB w, srcC w 4] false (texGradLane w) s

/-- A lane of `v.tex.fetch`. A negative coordinate or level reads as a large number, which is out of range alike. -/
def texFetchLane (w : LaneWord) (_ : State) (f : Flock) (ag : Agent) (l : Nat) : LaneSample := do
  let t ← bindTexture ag (f.num w (srcB w) l)
  let x := f.num w (srcA w 2) l 0
  let y := f.num w (srcA w 2) l 1
  let d := f.num w (srcC w) l
  let size := t.size d
  if t.mips < d || size.1 ≤ x || size.2 ≤ y then pure (some [0, 0, 0, 0])
  else
    let c ← t.texel ag d x y
    pure (some (c.map fun x => channel16 (some x) t.unit))

/-- `v.tex.fetch`. -/
def execVTexFetch (w : LaneWord) (s : State) : Host.Outcome State Fault Refusal :=
  sampler w [srcA w 2, srcB w, srcC w] false (texFetchLane w) s

/-- `v.tex.gather`: channel `ch` of the bilinear footprint at level 0. -/
def gatherAt (ag : Agent) (sm : Sampler) (t : Texture) (ch : Nat) (u v : Mag) : UnitM (List Nat) := do
  let e := min 0 (min u.e v.e)
  let (w, h) := t.size 0
  let den := 2 ^ (-e).toNat
  let corner (c : Mag) (n : Nat) : Int := (2 * c.scaled e * n - den) / (2 * den : Nat)
  let x0 := corner u w
  let y0 := corner v h
  let texels ← [(x0, y0), (x0 + 1, y0), (x0, y0 + 1), (x0 + 1, y0 + 1)].mapM fun x => tapTexel ag sm t ⟨0, x.1, x.2, 1⟩
  pure (texels.map fun c => channel16 (c.drop ch).head? t.unit)

/-- A lane of `v.tex.gather`. -/
def texGatherLane (w : LaneWord) (_ : State) (f : Flock) (ag : Agent) (l : Nat) : LaneSample := do
  let t ← bindTexture ag (f.num w (srcB w) l)
  let sm ← bindSampler ag (f.num w (srcB w) l)
  match f.uv w l with
  | (some u, some v) => do pure (some (← gatherAt ag sm t w.sub.toNat u v))
  | _ => pure none

/-- `v.tex.gather`. -/
def execVTexGather (w : LaneWord) (s : State) : Host.Outcome State Fault Refusal :=
  sampler w [srcA w 2, srcB w] false (texGatherLane w) s

/-- A lane of `v.tex.dec`. -/
def texDecLane (w : LaneWord) (_ : State) (f : Flock) (ag : Agent) (l : Nat) : LaneSample := do
  let half (v : Nat) (i : Nat) : Int := fixed16 (bitsAt v (16 * i) 16)
  let latents := (List.range 16).map fun k => half (f.num w (srcA w 8) l (k / 2)) (k % 2)
  let st := f.num w (srcB w) l
  let table ← decoderTable ag (bitsAt (f.num w (srcC w) l) 0 16)
  pure (some (decodeTexel table (latents ++ [half st 0, half st 1])))

/-- `v.tex.dec`. -/
def execVTexDec (w : LaneWord) (s : State) : Host.Outcome State Fault Refusal :=
  sampler w [srcA w 8, srcB w, srcC w] false (texDecLane w) s

/-- The result of a sampler instruction is written and counter T falls (R45, R339). -/
def execSamplerResultReturn (flock op : Nat) (s : State) : Host.Outcome State Fault Refusal :=
  .next (s.finishOp flock op (.samplerResultReturn flock op))

end Sys2Proof.Machine
end

