-- ==== Sys2Proof/Machine/Tree.lean ====
section
/-!
DEFINITION. The tree unit (R340 to R344, R484): ray, radius, nearest and range queries over trees in memory, and the geometric
tests by themselves. Every step is FP32, rounded to nearest-even.
-/
namespace Sys2Proof.Machine

/-! ## FP32 steps (R341) -/

/-- `a + b`. -/
def fadd (a b : Nat) : Nat := (fp32.add FpCtx.plain a b).1
/-- `a - b`. -/
def fsub (a b : Nat) : Nat := (fp32.sub FpCtx.plain a b).1
/-- `a × b`. -/
def fmul (a b : Nat) : Nat := (fp32.mul FpCtx.plain a b).1

/-- `a ÷ b`: a zero divisor gives infinity, and 0/0 and ∞/∞ the canonical NaN. -/
def fdiv (a b : Nat) : Nat :=
  (withNans fp32 [(fp32, a), (fp32, b)] (
    match fp32.decode a, fp32.decode b with
    | .fin x, .fin y =>
      if y.zero then (if x.zero then fp32.invalid else (fp32.signed (x.neg ^^ y.neg) fp32.infCode, 0))
      else
        let q := ({ x with neg := x.neg ^^ y.neg, e := x.e - y.e } : Mag).over y.m
        fp32.round .ne false false q
    | .inf n, .fin y => (fp32.signed (n ^^ y.neg) fp32.infCode, 0)
    | .fin x, .inf n => (fp32.signed (x.neg ^^ n) 0, 0)
    | _, _ => fp32.invalid)).1

/-- `a ≤ b`, false for a NaN. -/
def fle (a b : Nat) : Bool := (fp32.compare FpCtx.plain 3 a b).1
/-- `a < b`, false for a NaN. -/
def flt (a b : Nat) : Bool := (fp32.compare FpCtx.plain 2 a b).1

/-- The smaller or larger of two values; a NaN carries through (log entry 31). -/
def fpick (larger : Bool) (a b : Nat) : Nat :=
  (withNans fp32 [(fp32, a), (fp32, b)] (fp32.minmax FpCtx.plain larger a b)).1

/-- FP32 plus infinity. -/
def posInf : Nat := 0x7F800000
/-- FP32 minus infinity. -/
def negInf : Nat := 0xFF800000

/-- A vector of three FP32 values. -/
structure Vec3 where
  x : Nat
  y : Nat
  z : Nat
deriving DecidableEq, Repr

/-- A difference of vectors. -/
def Vec3.sub (a b : Vec3) : Vec3 := ⟨fsub a.x b.x, fsub a.y b.y, fsub a.z b.z⟩

/-- A dot product, in the order written. -/
def Vec3.dot (a b : Vec3) : Nat := fadd (fadd (fmul a.x b.x) (fmul a.y b.y)) (fmul a.z b.z)

/-- A cross product. -/
def Vec3.cross (a b : Vec3) : Vec3 :=
  ⟨fsub (fmul a.y b.z) (fmul a.z b.y), fsub (fmul a.z b.x) (fmul a.x b.z), fsub (fmul a.x b.y) (fmul a.y b.x)⟩

/-- A ray: origin, direction and its interval. -/
structure Ray where
  o : Vec3
  d : Vec3
  tmin : Nat
  tmax : Nat
deriving DecidableEq, Repr

/-- One axis of IsectBox: entry and exit. -/
def boxAxis (o d lo hi : Nat) : Nat × Nat :=
  let a := fsub lo o
  let b := fsub hi o
  let zero (x : Nat) : Bool := x % 2 ^ 31 = 0
  if zero d && (zero a || zero b) then (negInf, posInf)
  else (fpick false (fdiv a d) (fdiv b d), fpick true (fdiv a d) (fdiv b d))

/-- IsectBox. -/
def isectBox (r : Ray) (lo hi : Vec3) : Nat × Nat :=
  let x := boxAxis r.o.x r.d.x lo.x hi.x
  let y := boxAxis r.o.y r.d.y lo.y hi.y
  let z := boxAxis r.o.z r.d.z lo.z hi.z
  (fpick true r.tmin (fpick true (fpick true x.1 y.1) z.1), fpick false r.tmax (fpick false (fpick false x.2 y.2) z.2))

/-- IsectTri: t, u and v of a hit. -/
def isectTri (r : Ray) (v0 v1 v2 : Vec3) (cull : Bool) : Option (Nat × Nat × Nat) :=
  let e1 := v1.sub v0
  let e2 := v2.sub v0
  let p := r.d.cross e2
  let det := e1.dot p
  if det % 2 ^ 31 = 0 || (cull && flt det 0) then none
  else
    let s := r.o.sub v0
    let u := fdiv (s.dot p) det
    let q := s.cross e1
    let v := fdiv (r.d.dot q) det
    let t := fdiv (e2.dot q) det
    if fle 0 u && fle 0 v && fle (fadd u v) fp32.one && fle r.tmin t && fle t r.tmax then some (t, u, v) else none

/-- Three registers of a range as a vector. -/
def Flock.vec (f : Flock) (w : LaneWord) (x : Src) (l i : Nat) : Vec3 := ⟨f.num w x l i, f.num w x l (i + 1), f.num w x l (i + 2)⟩

/-- The ray in eight registers. -/
def Flock.ray (f : Flock) (w : LaneWord) (l : Nat) : Ray :=
  let x := srcA w 8
  ⟨f.vec w x l 0, f.vec w x l 3, f.num w x l 6, f.num w x l 7⟩

/-! ## Traversal (R340, R342) -/

/-- What a traversal has yet to do: visit a node at a depth, or test a leaf of a kind. -/
inductive TreeItem where
  | node (index depth : Nat)
  | leaf (kind index : Nat)
deriving DecidableEq, Repr

/-- A record of a tree, read for a lane. -/
def treeRecord (ag : Agent) (base size i : Nat) : UnitM Nat := do
  let a := (base + size * i) % 2 ^ 64
  unitCheck (a % 4 = 0)
  unitLoad ag a size

/-- A depth-first traversal in the order of the items, with limits of depth 64 and 1,048,576 visits. A leaf test may end it. -/
def traverse {α : Type} (visit : Nat → Nat → UnitM (List TreeItem)) (leaf : α → Nat → Nat → UnitM (α × Bool)) :
    Nat → Nat → List TreeItem → α → UnitM α
  | 0, _, _, _ => unitFault
  | _, _, [], acc => pure acc
  | fuel + 1, n, .node i d :: r, acc => do
    unitCheck (d ≤ 64 && n < 1048576)
    let xs ← visit i d
    traverse visit leaf fuel (n + 1) (xs ++ r) acc
  | fuel + 1, n, .leaf k i :: r, acc => do
    let (acc, stop) ← leaf acc k i
    if stop then pure acc else traverse visit leaf fuel n r acc

/-- Items that a traversal can take within its limits. -/
def treeFuel : Nat := 2 ^ 23

/-- The box children of a node that `enter` lets through: empty children are passed over, and a leaf of a kind other than
`kind` is a fault. -/
def boxChildren (enter : Vec3 → Vec3 → Bool) (kind depth v : Nat) : Option (List TreeItem) :=
  let wide (i : Nat) : Nat := (convert fp16 fp32 .ne false false false (bitsAt v (16 * i) 16)).1
  let child (c : Nat) : Option (List TreeItem) :=
    let w := bitsAt v (384 + 32 * c) 32
    let lo : Vec3 := ⟨wide (6 * c), wide (6 * c + 1), wide (6 * c + 2)⟩
    let hi : Vec3 := ⟨wide (6 * c + 3), wide (6 * c + 4), wide (6 * c + 5)⟩
    let k := bitsAt w 30 2
    if k = 0 || !enter lo hi then some []
    else if k = 1 then some [.node (bitsAt w 0 30) (depth + 1)]
    else if k = kind then some [.leaf k (bitsAt w 0 30)]
    else none
  (List.range 4).foldl (fun acc c => match acc, child c with
    | some a, some b => some (a ++ b)
    | _, _ => none) (some [])

/-- A visit of a box node. -/
def visitBox (ag : Agent) (base : Nat) (enter : Vec3 → Vec3 → Bool) (kind : Nat) (i depth : Nat) : UnitM (List TreeItem) := do
  match boxChildren enter kind depth (← treeRecord ag base 64 i) with
  | some xs => pure xs
  | none => unitFault

/-- A hit of a ray. -/
structure Hit where
  t : Nat
  id : Nat
  u : Nat
  v : Nat
deriving DecidableEq, Repr

/-- The miss of a ray. -/
def missHit : Hit := ⟨posInf, 0xFFFFFFFF, 0, 0⟩

/-- The hit comes before another in the order of (t, id). -/
def Hit.before (a b : Hit) : Bool := flt a.t b.t || (fle a.t b.t && a.id < b.id)

/-- Vertices and id of a triangle record. -/
def triangleOf (v : Nat) : Vec3 × Vec3 × Vec3 × Nat :=
  let c (i : Nat) : Nat := bitsAt v (32 * i) 32
  (⟨c 0, c 1, c 2⟩, ⟨c 3, c 4, c 5⟩, ⟨c 6, c 7, c 8⟩, c 9)

/-- A ray query. -/
def rayQuery (ag : Agent) (base : Nat) (r : Ray) (anyHit cull : Bool) : UnitM Hit := do
  let enter (lo hi : Vec3) : Bool := let (a, b) := isectBox r lo hi; fle a b
  let leaf (best : Option Hit) (_ i : Nat) : UnitM (Option Hit × Bool) := do
    let (v0, v1, v2, id) := triangleOf (← treeRecord ag base 64 i)
    match isectTri r v0 v1 v2 cull with
    | none => pure (best, false)
    | some (t, u, v) =>
      let h : Hit := ⟨t, id, u, v⟩
      pure (match best with
        | none => (some h, anyHit)
        | some b => (some (if h.before b then h else b), anyHit))
  let best ← traverse (visitBox ag base enter 2) leaf treeFuel 0 [.node 0 1] none
  pure (best.getD missHit)

/-- Squared distance of a centre to a point. -/
def distance2 (c p : Vec3) : Nat := let d := p.sub c; d.dot d

/-- Squared distance of a centre to a box: zero along an axis on which the centre lies inside (log entry 31). -/
def boxDistance2 (c lo hi : Vec3) : Nat :=
  let axis (c lo hi : Nat) : Nat := fpick true (fpick true (fsub lo c) (fsub c hi)) 0
  let d : Vec3 := ⟨axis c.x lo.x hi.x, axis c.y lo.y hi.y, axis c.z lo.z hi.z⟩
  d.dot d

/-- The points within a squared radius: ids with squared distances. -/
def pointQuery (ag : Agent) (base : Nat) (c : Vec3) (rsq : Nat) : UnitM (List (Nat × Nat)) := do
  let enter (lo hi : Vec3) : Bool := fle (boxDistance2 c lo hi) rsq
  let leaf (acc : List (Nat × Nat)) (_ i : Nat) : UnitM (List (Nat × Nat) × Bool) := do
    let v ← treeRecord ag base 16 i
    let p : Vec3 := ⟨bitsAt v 0 32, bitsAt v 32 32, bitsAt v 64 32⟩
    let d := distance2 c p
    pure (if fle d rsq then (bitsAt v 96 32, d) :: acc else acc, false)
  traverse (visitBox ag base enter 3) leaf treeFuel 0 [.node 0 1] []

/-- The item ids of a range query. -/
def rangeQuery (ag : Agent) (base lo hi : Nat) : UnitM (List Nat) := do
  let meets (v : Nat) : Bool := bitsAt v 0 64 ≤ hi && lo ≤ bitsAt v 64 64
  let child (w depth : Nat) : List TreeItem :=
    if w = 0xFFFFFFFF then [] else if bitsAt w 31 1 = 1 then [.leaf 0 (bitsAt w 0 31)] else [.node w (depth + 1)]
  let visit (i depth : Nat) : UnitM (List TreeItem) := do
    let v ← treeRecord ag base 32 i
    pure (if meets v then child (bitsAt v 128 32) depth ++ child (bitsAt v 160 32) depth else [])
  let leaf (acc : List Nat) (_ i : Nat) : UnitM (List Nat × Bool) := do
    let v ← treeRecord ag base 32 i
    pure (if meets v then bitsAt v 128 32 :: acc else acc, false)
  traverse visit leaf treeFuel 0 [.node 0 1] []

/-! ## Results (R342, R344) -/

/-- Where the entries of a lane go in a result buffer, up to the first whose address fails; whether none does (R484). -/
def bufferPlaces (ag : Agent) : List (Nat × List Byte) → UnitM (List (Loc × List Byte) × Bool)
  | [] => pure ([], true)
  | (va, bs) :: r => fun s =>
    if va % 4 ≠ 0 then .ok (([], false), s)
    else match s.translate ag va .write with
      | .error c => if c = notYet then .error .later else .ok (([], false), s)
      | .ok (s, loc) => match bufferPlaces ag r s with
        | .error x => .error x
        | .ok ((ps, ok), s) => .ok (((loc, bs) :: ps, ok), s)

/-- What a lane of a tree query gives: the registers from vD on, and the entries for its buffer. -/
abbrev LaneQuery := UnitM (List Nat × List (Nat × List Byte))

/-- A lane of a tree query with the places of its entries: its registers, none where an address of its buffer fails. -/
def placedQuery (ag : Agent) (q : LaneQuery) : UnitM (Option (List Nat) × List (Loc × List Byte)) := do
  let (vals, entries) ← q
  let (places, ok) ← bufferPlaces ag entries
  pure (if ok then some vals else none, places)

/-- A tree instruction: its result returns later on counter X. -/
def treeOp (w : LaneWord) (srcs : List Src) (regs : Nat) (checks buffer : Bool) (fault : List Nat)
    (one : State → Flock → Agent → Nat → LaneQuery) (s : State) : Host.Outcome State Fault Refusal :=
  runHeld (if buffer then .stops else .loads) (fun s f p => do
    let lanes := laneList f p w
    trapUnless checks 0x02
    checkOperands f p w lanes srcs [dst w regs]
    let ag := s.agentOf f
    waitUnless (f.counterRoom .x && s.memReady f && f.readsReturned)
    match s.unitLanes (fun l => placedQuery ag (one s f ag l)) lanes with
    | none => waits
    | some (t, xs) =>
      let vals := xs.map fun (l, x) => (l, x.bind (·.1))
      let bad := vals.any fun x => x.2.isNone
      waitUnless (s.mayHaveSent t ag && (!bad || p.guess.isNone))
      let places := xs.flatMap fun (_, x) => (x.map (·.2)).getD []
      let t := places.foldl (fun t (loc, bs) => t.ffPart ag f.uid f.nextId loc bs) t
      let packets := (places.filter fun (loc, _) => homeDie loc.pa ≠ ag.die).length
      let pieces := vals.flatMap fun (l, vs) => ((vs.getD fault).zipIdx).map fun (v, i) =>
        { lanePiece (w.dest.toNat + i) l false with value := some (BitVec.ofNat 64 v) }
      let t := t.beginOp f.uid p.pc (some .x) pieces packets none
      let t := if buffer then t.retireFence f.uid p.id else t.retirePath f.uid p.id
      .ok (if bad then t.post (.graphicsFaultReport f.core (t.herdOf f).region true) else t)) s

/-- The tree base of a `v.trav`. -/
def Flock.treeBase (f : Flock) (w : LaneWord) : Nat := (f.sreg (w.sc.toNat - 192)).toNat

/-- The result buffer of a `v.trav`, if it names one. -/
def Flock.buffer (f : Flock) (w : LaneWord) : Option Nat :=
  if w.sb = 192 then none else some (f.sreg (w.sb.toNat - 192)).toNat

/-- The sources of a `v.trav`. -/
def travSources (w : LaneWord) (q : Src) : List Src := [q, srcB w, srcC w]

/-- The scalar codes of a `v.trav`, and lane codes for its query. -/
def travOk (w : LaneWord) : Bool := w.sa.toNat < 192 && 192 ≤ w.sb.toNat && 192 ≤ w.sc.toNat

/-- The buffer entries of up to `cap` ids of a lane. -/
def idEntries (buffer : Option Nat) (stride l cap : Nat) (ids : List Nat) : List (Nat × List Byte) :=
  match buffer with
  | none => []
  | some b => (ids.take cap).zipIdx.map fun (id, i) => ((b + stride * l + 4 * i) % 2 ^ 64, bytesOf 4 id)

/-- Ids in ascending order. -/
def ascending (ids : List Nat) : List Nat := sortBy (fun a b => a ≤ b) ids

/-- A lane of `v.trav.ray`. -/
def travRayLane (w : LaneWord) (_ : State) (f : Flock) (ag : Agent) (l : Nat) : LaneQuery := do
  let h ← rayQuery ag (f.treeBase w) (f.ray w l) (w.imm.getLsbD 0) (w.imm.getLsbD 1)
  pure ([h.t, h.id, h.u, h.v], [])

/-- `v.trav.ray`. -/
def execVTravRay (w : LaneWord) (s : State) : Host.Outcome State Fault Refusal :=
  treeOp w (travSources w (srcA w 8)) 4 (travOk w) false [fp32.nanCode, 0xFFFFFFFE, 0, 0] (travRayLane w) s

/-- A lane of `v.trav.rad`: its buffer takes the ids in ascending order. -/
def travRadLane (w : LaneWord) (_ : State) (f : Flock) (ag : Agent) (l : Nat) : LaneQuery := do
  let x := srcA w 4
  let cap := bitsAt w.imm.toNat 0 16
  let ps ← pointQuery ag (f.treeBase w) (f.vec w x l 0) (f.num w x l 3)
  pure ([ps.length], idEntries (f.buffer w) (4 * cap) l cap (ascending (ps.map (·.1))))

/-- `v.trav.rad`. -/
def execVTravRad (w : LaneWord) (s : State) : Host.Outcome State Fault Refusal :=
  treeOp w (travSources w (srcA w 4)) 1 (travOk w) (w.sb != 192) [0xFFFFFFFF] (travRadLane w) s

/-- A lane of `v.trav.knn`: its buffer takes the nearest first. -/
def travKnnLane (w : LaneWord) (_ : State) (f : Flock) (ag : Agent) (l : Nat) : LaneQuery := do
  let x := srcA w 4
  let k := bitsAt w.imm.toNat 16 4 + 1
  let ps ← pointQuery ag (f.treeBase w) (f.vec w x l 0) (f.num w x l 3)
  let best := (sortBy (fun a b => flt a.2 b.2 || (fle a.2 b.2 && a.1 ≤ b.1)) ps).take k
  let entries := match f.buffer w with
    | none => []
    | some b => best.zipIdx.map fun (p, i) => ((b + 128 * l + 8 * i) % 2 ^ 64, bytesOf 4 p.1 ++ bytesOf 4 p.2)
  pure ([best.length], entries)

/-- `v.trav.knn`. -/
def execVTravKnn (w : LaneWord) (s : State) : Host.Outcome State Fault Refusal :=
  treeOp w (travSources w (srcA w 4)) 1 (travOk w) (w.sb != 192) [0xFFFFFFFF] (travKnnLane w) s

/-- A lane of `v.trav.rng`. -/
def travRngLane (w : LaneWord) (_ : State) (f : Flock) (ag : Agent) (l : Nat) : LaneQuery := do
  let x := srcA w 4 2
  let cap := bitsAt w.imm.toNat 0 16
  let key (i : Nat) : Nat := f.num w x l i + f.num w x l (i + 1) * 2 ^ 32
  let ids ← rangeQuery ag (f.treeBase w) (key 0) (key 2)
  pure ([ids.length], idEntries (f.buffer w) (4 * cap) l cap (ascending ids))

/-- `v.trav.rng`. -/
def execVTravRng (w : LaneWord) (s : State) : Host.Outcome State Fault Refusal :=
  treeOp w (travSources w (srcA w 4 2)) 1 (travOk w) (w.sb != 192) [0xFFFFFFFF] (travRngLane w) s

/-- A lane of `v.isect.box` (R343). -/
def isectBoxLane (w : LaneWord) (_ : State) (f : Flock) (_ : Agent) (l : Nat) : LaneQuery :=
  let b := srcB w 6
  let (tn, tf) := isectBox (f.ray w l) (f.vec w b l 0) (f.vec w b l 3)
  pure ([tn, tf], [])

/-- `v.isect.box`. -/
def execVIsectBox (w : LaneWord) (s : State) : Host.Outcome State Fault Refusal :=
  treeOp w [srcA w 8, srcB w 6] 2 (w.sa.toNat < 192 && w.sb.toNat < 192) false [] (isectBoxLane w) s

/-- A lane of `v.isect.tri` (R343). -/
def isectTriLane (w : LaneWord) (_ : State) (f : Flock) (_ : Agent) (l : Nat) : LaneQuery :=
  let b := srcB w 9
  let (t, u, v) := (isectTri (f.ray w l) (f.vec w b l 0) (f.vec w b l 3) (f.vec w b l 6) (w.imm.getLsbD 1)).getD (posInf, 0, 0)
  pure ([t, u, v], [])

/-- `v.isect.tri`. -/
def execVIsectTri (w : LaneWord) (s : State) : Host.Outcome State Fault Refusal :=
  treeOp w [srcA w 8, srcB w 9] 3 (w.sa.toNat < 192 && w.sb.toNat < 192) false [] (isectTriLane w) s

/-- The result of a tree instruction is written and counter X falls (R344). -/
def execTreeResultReturn (flock op : Nat) (s : State) : Host.Outcome State Fault Refusal :=
  .next (s.finishOp flock op (.treeResultReturn flock op))

end Sys2Proof.Machine
end

