-- ==== Sys2Proof/Machine/Dispatch.lean ====
section
/-!
DEFINITION. The dispatch: one arm per constructor of `Instr`, each one call of the instruction's meaning.
-/
namespace Sys2Proof.Machine

/-- What an instruction does. -/
def exec (i : Instr) (s : State) : Host.Outcome State Fault Refusal :=
  match i with
  | .sAdd d a b => Sys2Proof.Machine.execSAdd d a b s
  | .sSub d a b => Sys2Proof.Machine.execSSub d a b s
  | .sMul d a b => Sys2Proof.Machine.execSMul d a b s
  | .sMulh d a b => Sys2Proof.Machine.execSMulh d a b s
  | .sMulhu d a b => Sys2Proof.Machine.execSMulhu d a b s
  | .sDiv d a b => Sys2Proof.Machine.execSDiv d a b s
  | .sDivu d a b => Sys2Proof.Machine.execSDivu d a b s
  | .sRem d a b => Sys2Proof.Machine.execSRem d a b s
  | .sRemu d a b => Sys2Proof.Machine.execSRemu d a b s
  | .sAnd d a b => Sys2Proof.Machine.execSAnd d a b s
  | .sOr d a b => Sys2Proof.Machine.execSOr d a b s
  | .sXor d a b => Sys2Proof.Machine.execSXor d a b s
  | .sShl d a b => Sys2Proof.Machine.execSShl d a b s
  | .sShr d a b => Sys2Proof.Machine.execSShr d a b s
  | .sSra d a b => Sys2Proof.Machine.execSSra d a b s
  | .sMin d a b => Sys2Proof.Machine.execSMin d a b s
  | .sMinu d a b => Sys2Proof.Machine.execSMinu d a b s
  | .sMax d a b => Sys2Proof.Machine.execSMax d a b s
  | .sMaxu d a b => Sys2Proof.Machine.execSMaxu d a b s
  | .sClz d a => Sys2Proof.Machine.execSClz d a s
  | .sCtz d a => Sys2Proof.Machine.execSCtz d a s
  | .sPopc d a => Sys2Proof.Machine.execSPopc d a s
  | .sBitint d a b => Sys2Proof.Machine.execSBitint d a b s
  | .sBitdeint d a => Sys2Proof.Machine.execSBitdeint d a s
  | .sSel d a b z neg => Sys2Proof.Machine.execSSel d a b z neg s
  | .sCmp zd cc a b => Sys2Proof.Machine.execSCmp zd cc a b s
  | .sAddi d a imm => Sys2Proof.Machine.execSAddi d a imm s
  | .sAndi d a imm => Sys2Proof.Machine.execSAndi d a imm s
  | .sOri d a imm => Sys2Proof.Machine.execSOri d a imm s
  | .sXori d a imm => Sys2Proof.Machine.execSXori d a imm s
  | .sShli d a imm => Sys2Proof.Machine.execSShli d a imm s
  | .sShri d a imm => Sys2Proof.Machine.execSShri d a imm s
  | .sSrai d a imm => Sys2Proof.Machine.execSSrai d a imm s
  | .sLui d imm => Sys2Proof.Machine.execSLui d imm s
  | .sCmpi zd cc a imm => Sys2Proof.Machine.execSCmpi zd cc a imm s
  | .sLdB d a off => Sys2Proof.Machine.execSLdB d a off s
  | .sLdH d a off => Sys2Proof.Machine.execSLdH d a off s
  | .sLdW d a off => Sys2Proof.Machine.execSLdW d a off s
  | .sLdD d a off => Sys2Proof.Machine.execSLdD d a off s
  | .sStB d a off => Sys2Proof.Machine.execSStB d a off s
  | .sStH d a off => Sys2Proof.Machine.execSStH d a off s
  | .sStW d a off => Sys2Proof.Machine.execSStW d a off s
  | .sStD d a off => Sys2Proof.Machine.execSStD d a off s
  | .sLdAcq d a scope size off => Sys2Proof.Machine.execSLdAcq d a scope size off s
  | .sStRel d a scope size off => Sys2Proof.Machine.execSStRel d a scope size off s
  | .sLdk d a size off => Sys2Proof.Machine.execSLdk d a size off s
  | .sAtomW op ord d a b => Sys2Proof.Machine.execSAtomW op ord d a b s
  | .sAtomD op ord d a b => Sys2Proof.Machine.execSAtomD op ord d a b s
  | .sFenceAcq scope => Sys2Proof.Machine.execSFenceAcq scope s
  | .sFenceRel scope => Sys2Proof.Machine.execSFenceRel scope s
  | .sFenceAr scope => Sys2Proof.Machine.execSFenceAr scope s
  | .sB z neg off => Sys2Proof.Machine.execSB z neg off s
  | .sCall z neg off => Sys2Proof.Machine.execSCall z neg off s
  | .sBz a imm => Sys2Proof.Machine.execSBz a imm s
  | .sLoop d imm => Sys2Proof.Machine.execSLoop d imm s
  | .sRet => Sys2Proof.Machine.execSRet s
  | .sJr a => Sys2Proof.Machine.execSJr a s
  | .sLgo index => Sys2Proof.Machine.execSLgo index s
  | .sLwait => Sys2Proof.Machine.execSLwait s
  | .sBarInit a b => Sys2Proof.Machine.execSBarInit a b s
  | .sBarArrive zd a => Sys2Proof.Machine.execSBarArrive zd a s
  | .sBarExpect a b => Sys2Proof.Machine.execSBarExpect a b s
  | .sBarWait a b => Sys2Proof.Machine.execSBarWait a b s
  | .sCntWait path a => Sys2Proof.Machine.execSCntWait path a s
  | .sCp d a b => Sys2Proof.Machine.execSCp d a b s
  | .sCpMc d a b => Sys2Proof.Machine.execSCpMc d a b s
  | .sXf d a b => Sys2Proof.Machine.execSXf d a b s
  | .sCpG d a b => Sys2Proof.Machine.execSCpG d a b s
  | .sPublish a => Sys2Proof.Machine.execSPublish a s
  | .sQpush d a b => Sys2Proof.Machine.execSQpush d a b s
  | .sDepDec a b => Sys2Proof.Machine.execSDepDec a b s
  | .sPseal a => Sys2Proof.Machine.execSPseal a s
  | .sOpbRsv d a => Sys2Proof.Machine.execSOpbRsv d a s
  | .sOpbRel a => Sys2Proof.Machine.execSOpbRel a s
  | .sMxLease d a => Sys2Proof.Machine.execSMxLease d a s
  | .sMxYield => Sys2Proof.Machine.execSMxYield s
  | .sKget d k => Sys2Proof.Machine.execSKget d k s
  | .sKput k a => Sys2Proof.Machine.execSKput k a s
  | .sTrap code => Sys2Proof.Machine.execSTrap code s
  | .sNop => Sys2Proof.Machine.execSNop s
  | .sTret => Sys2Proof.Machine.execSTret s
  | .sYield => Sys2Proof.Machine.execSYield s
  | .sExit => Sys2Proof.Machine.execSExit s
  | .vNop w => Sys2Proof.Machine.execVNop w s
  | .vNopMarker w => Sys2Proof.Machine.execVNopMarker w s
  | .vBlk w => Sys2Proof.Machine.execVBlk w s
  | .vLstop w => Sys2Proof.Machine.execVLstop w s
  | .vTrap w => Sys2Proof.Machine.execVTrap w s
  | .vBrk w => Sys2Proof.Machine.execVBrk w s
  | .vAdd w => Sys2Proof.Machine.execVAdd w s
  | .vSub w => Sys2Proof.Machine.execVSub w s
  | .vMul w => Sys2Proof.Machine.execVMul w s
  | .vMad w => Sys2Proof.Machine.execVMad w s
  | .vMin w => Sys2Proof.Machine.execVMin w s
  | .vMax w => Sys2Proof.Machine.execVMax w s
  | .vAbs w => Sys2Proof.Machine.execVAbs w s
  | .vAnd w => Sys2Proof.Machine.execVAnd w s
  | .vOr w => Sys2Proof.Machine.execVOr w s
  | .vXor w => Sys2Proof.Machine.execVXor w s
  | .vNot w => Sys2Proof.Machine.execVNot w s
  | .vShl w => Sys2Proof.Machine.execVShl w s
  | .vShr w => Sys2Proof.Machine.execVShr w s
  | .vSra w => Sys2Proof.Machine.execVSra w s
  | .vClz w => Sys2Proof.Machine.execVClz w s
  | .vPopc w => Sys2Proof.Machine.execVPopc w s
  | .vBrev w => Sys2Proof.Machine.execVBrev w s
  | .vBfe w => Sys2Proof.Machine.execVBfe w s
  | .vBfi w => Sys2Proof.Machine.execVBfi w s
  | .vBitint w => Sys2Proof.Machine.execVBitint w s
  | .vCmp w => Sys2Proof.Machine.execVCmp w s
  | .vSel w => Sys2Proof.Machine.execVSel w s
  | .vMov w => Sys2Proof.Machine.execVMov w s
  | .vMovi w => Sys2Proof.Machine.execVMovi w s
  | .vLane w => Sys2Proof.Machine.execVLane w s
  | .vKget w => Sys2Proof.Machine.execVKget w s
  | .vFadd w => Sys2Proof.Machine.execVFadd w s
  | .vFsub w => Sys2Proof.Machine.execVFsub w s
  | .vFmul w => Sys2Proof.Machine.execVFmul w s
  | .vFfma w => Sys2Proof.Machine.execVFfma w s
  | .vFmin w => Sys2Proof.Machine.execVFmin w s
  | .vFmax w => Sys2Proof.Machine.execVFmax w s
  | .vFcmp w => Sys2Proof.Machine.execVFcmp w s
  | .vFclass w => Sys2Proof.Machine.execVFclass w s
  | .vFrcp w => Sys2Proof.Machine.execVFrcp w s
  | .vFrsq w => Sys2Proof.Machine.execVFrsq w s
  | .vFsqrt w => Sys2Proof.Machine.execVFsqrt w s
  | .vFexp2 w => Sys2Proof.Machine.execVFexp2 w s
  | .vFlog2 w => Sys2Proof.Machine.execVFlog2 w s
  | .vFsin w => Sys2Proof.Machine.execVFsin w s
  | .vFcos w => Sys2Proof.Machine.execVFcos w s
  | .vFfloor w => Sys2Proof.Machine.execVFfloor w s
  | .vFceil w => Sys2Proof.Machine.execVFceil w s
  | .vFtrunc w => Sys2Proof.Machine.execVFtrunc w s
  | .vFrnd w => Sys2Proof.Machine.execVFrnd w s
  | .vFfract w => Sys2Proof.Machine.execVFfract w s
  | .vFdot2 w => Sys2Proof.Machine.execVFdot2 w s
  | .vCvt w => Sys2Proof.Machine.execVCvt w s
  | .vCvtN w => Sys2Proof.Machine.execVCvtN w s
  | .vCvtW w => Sys2Proof.Machine.execVCvtW w s
  | .vCvtEf w => Sys2Proof.Machine.execVCvtEf w s
  | .vBfpPack w => Sys2Proof.Machine.execVBfpPack w s
  | .vBfpUnpack w => Sys2Proof.Machine.execVBfpUnpack w s
  | .vPack w => Sys2Proof.Machine.execVPack w s
  | .vUnpack w => Sys2Proof.Machine.execVUnpack w s
  | .vShflIdx w => Sys2Proof.Machine.execVShflIdx w s
  | .vShflUp w => Sys2Proof.Machine.execVShflUp w s
  | .vShflDown w => Sys2Proof.Machine.execVShflDown w s
  | .vShflXor w => Sys2Proof.Machine.execVShflXor w s
  | .vBcast w => Sys2Proof.Machine.execVBcast w s
  | .vVoteAll w => Sys2Proof.Machine.execVVoteAll w s
  | .vVoteAny w => Sys2Proof.Machine.execVVoteAny w s
  | .vVoteEq w => Sys2Proof.Machine.execVVoteEq w s
  | .vVoteBallot w => Sys2Proof.Machine.execVVoteBallot w s
  | .vScan w => Sys2Proof.Machine.execVScan w s
  | .vRed w => Sys2Proof.Machine.execVRed w s
  | .vMatch w => Sys2Proof.Machine.execVMatch w s
  | .vTosFirst w => Sys2Proof.Machine.execVTosFirst w s
  | .vTosLane w => Sys2Proof.Machine.execVTosLane w s
  | .vTosMask w => Sys2Proof.Machine.execVTosMask w s
  | .vTosCount w => Sys2Proof.Machine.execVTosCount w s
  | .vLd w => Sys2Proof.Machine.execVLd w s
  | .vSt w => Sys2Proof.Machine.execVSt w s
  | .vLdSp w => Sys2Proof.Machine.execVLdSp w s
  | .vStSp w => Sys2Proof.Machine.execVStSp w s
  | .vLdAcq w => Sys2Proof.Machine.execVLdAcq w s
  | .vStRel w => Sys2Proof.Machine.execVStRel w s
  | .vAtom w => Sys2Proof.Machine.execVAtom w s
  | .vAtomSp w => Sys2Proof.Machine.execVAtomSp w s
  | .vAred w => Sys2Proof.Machine.execVAred w s
  | .vStFf w => Sys2Proof.Machine.execVStFf w s
  | .vPrefetch w => Sys2Proof.Machine.execVPrefetch w s
  | .vBr w => Sys2Proof.Machine.execVBr w s
  | .vBru w => Sys2Proof.Machine.execVBru w s
  | .vReconv w => Sys2Proof.Machine.execVReconv w s
  | .vReconvW w => Sys2Proof.Machine.execVReconvW w s
  | .vCallRg w => Sys2Proof.Machine.execVCallRg w s
  | .vRetRg w => Sys2Proof.Machine.execVRetRg w s
  | .vRegroup w => Sys2Proof.Machine.execVRegroup w s
  | .vExit w => Sys2Proof.Machine.execVExit w s
  | .vKill w => Sys2Proof.Machine.execVKill w s
  | .vMxLds w => Sys2Proof.Machine.execVMxLds w s
  | .vMxSwap w => Sys2Proof.Machine.execVMxSwap w s
  | .vMxMmaRf w => Sys2Proof.Machine.execVMxMmaRf w s
  | .vMxMmaOpb w => Sys2Proof.Machine.execVMxMmaOpb w s
  | .vAccLd w => Sys2Proof.Machine.execVAccLd w s
  | .vAccMov w => Sys2Proof.Machine.execVAccMov w s
  | .vAccZero w => Sys2Proof.Machine.execVAccZero w s
  | .vAccDrain w => Sys2Proof.Machine.execVAccDrain w s
  | .vAccDrainG w => Sys2Proof.Machine.execVAccDrainG w s
  | .vOpbPut w => Sys2Proof.Machine.execVOpbPut w s
  | .vRast w => Sys2Proof.Machine.execVRast w s
  | .vBin w => Sys2Proof.Machine.execVBin w s
  | .vTexSmp w => Sys2Proof.Machine.execVTexSmp w s
  | .vTexLod w => Sys2Proof.Machine.execVTexLod w s
  | .vTexGrad w => Sys2Proof.Machine.execVTexGrad w s
  | .vTexFetch w => Sys2Proof.Machine.execVTexFetch w s
  | .vTexGather w => Sys2Proof.Machine.execVTexGather w s
  | .vTexDec w => Sys2Proof.Machine.execVTexDec w s
  | .vExpPx w => Sys2Proof.Machine.execVExpPx w s
  | .vExpPos w => Sys2Proof.Machine.execVExpPos w s
  | .vTravRay w => Sys2Proof.Machine.execVTravRay w s
  | .vTravRad w => Sys2Proof.Machine.execVTravRad w s
  | .vTravKnn w => Sys2Proof.Machine.execVTravKnn w s
  | .vTravRng w => Sys2Proof.Machine.execVTravRng w s
  | .vIsectBox w => Sys2Proof.Machine.execVIsectBox w s
  | .vIsectTri w => Sys2Proof.Machine.execVIsectTri w s
  | .reservedEncoding lane word => Sys2Proof.Machine.execReservedEncoding lane word s
  | .fetchBeyondSection lane => Sys2Proof.Machine.execFetchBeyondSection lane s
  | .longLatencyReturn flock op => Sys2Proof.Machine.execLongLatencyReturn flock op s
  | .samplerResultReturn flock op => Sys2Proof.Machine.execSamplerResultReturn flock op s
  | .treeResultReturn flock op => Sys2Proof.Machine.execTreeResultReturn flock op s
  | .accTransferComplete flock op => Sys2Proof.Machine.execAccTransferComplete flock op s
  | .ffStoreDelivered flock op => Sys2Proof.Machine.execFfStoreDelivered flock op s
  | .tosWrite flock op => Sys2Proof.Machine.execTosWrite flock op s
  | .laneBlockStart flock => Sys2Proof.Machine.execLaneBlockStart flock s
  | .roundEndExchange core dp => Sys2Proof.Machine.execRoundEndExchange core dp s
  | .flockExchange core dp flock => Sys2Proof.Machine.execFlockExchange core dp flock s
  | .predicateResolution flock path => Sys2Proof.Machine.execPredicateResolution flock path s
  | .reconvTimeout flock entry => Sys2Proof.Machine.execReconvTimeout flock entry s
  | .regroupCollectionClose core coll => Sys2Proof.Machine.execRegroupCollectionClose core coll s
  | .regroupCollectionTimeout core coll => Sys2Proof.Machine.execRegroupCollectionTimeout core coll s
  | .callFlockEnd flock => Sys2Proof.Machine.execCallFlockEnd flock s
  | .barWaitComplete flock => Sys2Proof.Machine.execBarWaitComplete flock s
  | .herdAdmit region => Sys2Proof.Machine.execHerdAdmit region s
  | .regionComplete region => Sys2Proof.Machine.execRegionComplete region s
  | .completionAction c => Sys2Proof.Machine.execCompletionAction c s
  | .completionRecordWrite r => Sys2Proof.Machine.execCompletionRecordWrite r s
  | .preemptRequest herd => Sys2Proof.Machine.execPreemptRequest herd s
  | .herdSave herd => Sys2Proof.Machine.execHerdSave herd s
  | .herdRestore herd => Sys2Proof.Machine.execHerdRestore herd s
  | .haltBoundFailure core => Sys2Proof.Machine.execHaltBoundFailure core s
  | .matrixEngineOperation core => Sys2Proof.Machine.execMatrixEngineOperation core s
  | .copyTransferStart core cmd => Sys2Proof.Machine.execCopyTransferStart core cmd s
  | .copyWordLand core cmd => Sys2Proof.Machine.execCopyWordLand core cmd s
  | .copyFaultSuspend core cmd => Sys2Proof.Machine.execCopyFaultSuspend core cmd s
  | .faultRecordWrite r => Sys2Proof.Machine.execFaultRecordWrite r s
  | .sealDigest j => Sys2Proof.Machine.execSealDigest j s
  | .commonsRelease frame => Sys2Proof.Machine.execCommonsRelease frame s
  | .poolReturnRetry die header frame since => Sys2Proof.Machine.execPoolReturnRetry die header frame since s
  | .poolReturnStall die header frame since => Sys2Proof.Machine.execPoolReturnStall die header frame since s
  | .doorbellWrite offset value => Sys2Proof.Machine.execDoorbellWrite offset value s
  | .queueStep session q => Sys2Proof.Machine.execQueueStep session q s
  | .packetDispatch p => Sys2Proof.Machine.execPacketDispatch p s
  | .packetCopy p => Sys2Proof.Machine.execPacketCopy p s
  | .packetSignal p => Sys2Proof.Machine.execPacketSignal p s
  | .packetWait p => Sys2Proof.Machine.execPacketWait p s
  | .waitReread p => Sys2Proof.Machine.execWaitReread p s
  | .packetFork p => Sys2Proof.Machine.execPacketFork p s
  | .packetSeal p => Sys2Proof.Machine.execPacketSeal p s
  | .packetPublish p => Sys2Proof.Machine.execPacketPublish p s
  | .packetMigrate p => Sys2Proof.Machine.execPacketMigrate p s
  | .migrateMove p => Sys2Proof.Machine.execMigrateMove p s
  | .packetNop p => Sys2Proof.Machine.execPacketNop p s
  | .depCounterDecrement die ctr amount sender => Sys2Proof.Machine.execDepCounterDecrement die ctr amount sender s
  | .quantumBoundary paddock => Sys2Proof.Machine.execQuantumBoundary paddock s
  | .budgetCharge herd => Sys2Proof.Machine.execBudgetCharge herd s
  | .arbiterPromotion die request => Sys2Proof.Machine.execArbiterPromotion die request s
  | .quiesce paddock value => Sys2Proof.Machine.execQuiesce paddock value s
  | .paddockQuiesced paddock => Sys2Proof.Machine.execPaddockQuiesced paddock s
  | .qstuck paddock => Sys2Proof.Machine.execQstuck paddock s
  | .tlbinv1 die value => Sys2Proof.Machine.execTlbinv1 die value s
  | .fltctlRetry die value => Sys2Proof.Machine.execFltctlRetry die value s
  | .fltctlSkip die value => Sys2Proof.Machine.execFltctlSkip die value s
  | .fltctlEnterHandler die value => Sys2Proof.Machine.execFltctlEnterHandler die value s
  | .fltctlEnd die value => Sys2Proof.Machine.execFltctlEnd die value s
  | .fltctlAbortDomain die value => Sys2Proof.Machine.execFltctlAbortDomain die value s
  | .engctlResume die value => Sys2Proof.Machine.execEngctlResume die value s
  | .engctlAbandon die value => Sys2Proof.Machine.execEngctlAbandon die value s
  | .crel die value => Sys2Proof.Machine.execCrel die value s
  | .keyLoad die slot blob => Sys2Proof.Machine.execKeyLoad die slot blob s
  | .placementEpoch die => Sys2Proof.Machine.execPlacementEpoch die s
  | .frameMove m => Sys2Proof.Machine.execFrameMove m s
  | .orderedPacketSend p => Sys2Proof.Machine.execOrderedPacketSend p s
  | .orderedPacketArrival p => Sys2Proof.Machine.execOrderedPacketArrival p s
  | .readRequestServe r => Sys2Proof.Machine.execReadRequestServe r s
  | .acquireCatchup r => Sys2Proof.Machine.execAcquireCatchup r s
  | .deliveryReportSend die net => Sys2Proof.Machine.execDeliveryReportSend die net s
  | .deliveryReportReceive r => Sys2Proof.Machine.execDeliveryReportReceive r s
  | .linkGroupReceive die link g => Sys2Proof.Machine.execLinkGroupReceive die link g s
  | .linkNakReceive die link seq => Sys2Proof.Machine.execLinkNakReceive die link seq s
  | .linkResendTimeout die link seq => Sys2Proof.Machine.execLinkResendTimeout die link seq s
  | .linkRetrain die link => Sys2Proof.Machine.execLinkRetrain die link s
  | .linkDown die link => Sys2Proof.Machine.execLinkDown die link s
  | .fabricStall die => Sys2Proof.Machine.execFabricStall die s
  | .heartbeat die missed => Sys2Proof.Machine.execHeartbeat die missed s
  | .dieRemoval what => Sys2Proof.Machine.execDieRemoval what s
  | .resynchronisation => Sys2Proof.Machine.execResynchronisation s
  | .boot die => Sys2Proof.Machine.execBoot die s
  | .dedupSecretReceive die blob => Sys2Proof.Machine.execDedupSecretReceive die blob s
  | .dieBringup die => Sys2Proof.Machine.execDieBringup die s
  | .clusterPowerUp die cluster => Sys2Proof.Machine.execClusterPowerUp die cluster s
  | .matrixEngineEnable die cluster => Sys2Proof.Machine.execMatrixEngineEnable die cluster s
  | .bootPeerTimeout die => Sys2Proof.Machine.execBootPeerTimeout die s
  | .imgBegin die len => Sys2Proof.Machine.execImgBegin die len s
  | .imgData die offset bytes => Sys2Proof.Machine.execImgData die offset bytes s
  | .imgEnd die => Sys2Proof.Machine.execImgEnd die s
  | .getVersion die => Sys2Proof.Machine.execGetVersion die s
  | .getCapabilities die => Sys2Proof.Machine.execGetCapabilities die s
  | .negotiateAlgorithms die ed448 sha3 => Sys2Proof.Machine.execNegotiateAlgorithms die ed448 sha3 s
  | .getDigests die => Sys2Proof.Machine.execGetDigests die s
  | .getCertificate die slot offset len => Sys2Proof.Machine.execGetCertificate die slot offset len s
  | .challenge die slot nonce => Sys2Proof.Machine.execChallenge die slot nonce s
  | .getMeasurements die index nonce => Sys2Proof.Machine.execGetMeasurements die index nonce s
  | .spdmUnsupportedRequest die code => Sys2Proof.Machine.execSpdmUnsupportedRequest die code s
  | .partitionCommitRequest c => Sys2Proof.Machine.execPartitionCommitRequest c s
  | .prepareReport die => Sys2Proof.Machine.execPrepareReport die s
  | .commitApply die => Sys2Proof.Machine.execCommitApply die s
  | .commitDone => Sys2Proof.Machine.execCommitDone s
  | .watchdogExpiry die => Sys2Proof.Machine.execWatchdogExpiry die s
  | .retentionSramUe die lost => Sys2Proof.Machine.execRetentionSramUe die lost s
  | .snapctlArm die value => Sys2Proof.Machine.execSnapctlArm die value s
  | .snapctlFire die => Sys2Proof.Machine.execSnapctlFire die s
  | .snapshotAtCycle die => Sys2Proof.Machine.execSnapshotAtCycle die s
  | .snapshotWideTrigger die => Sys2Proof.Machine.execSnapshotWideTrigger die s
  | .pwrcap die value => Sys2Proof.Machine.execPwrcap die value s
  | .powerSample die => Sys2Proof.Machine.execPowerSample die s
  | .powerCapUnmet paddock => Sys2Proof.Machine.execPowerCapUnmet paddock s
  | .eccCorrectable die src => Sys2Proof.Machine.execEccCorrectable die src s
  | .eccUncorrectable die at_ => Sys2Proof.Machine.execEccUncorrectable die at_ s
  | .memoryScrub die sector bad => Sys2Proof.Machine.execMemoryScrub die sector bad s
  | .cqDescriptorRetest session => Sys2Proof.Machine.execCqDescriptorRetest session s
  | .graphicsFaultReport core region tree => Sys2Proof.Machine.execGraphicsFaultReport core region tree s
  | .registerWrite die r value => Sys2Proof.Machine.execRegisterWrite die r value s
  | .hostMemoryAccess h => Sys2Proof.Machine.execHostMemoryAccess h s
  | .completionQueueReread r => Sys2Proof.Machine.execCompletionQueueReread r s
  | .linkRetrainComplete die link ok => Sys2Proof.Machine.execLinkRetrainComplete die link ok s
  | .modulePowerLoss => Sys2Proof.Machine.execModulePowerLoss s
  | .rlimitWindow core => Sys2Proof.Machine.execRlimitWindow core s

end Sys2Proof.Machine
end

