-- ==== Sys2Proof/Machine/Events.lean ====
section
/-!
DEFINITION. The events of the agenda: each is the instruction of `Instr` of the same name, and has its meaning
(Sys2Proof/Laws/Events.lean proves that the two dispatches agree).
-/
namespace Sys2Proof.Machine

/-- What a due event does. -/
def execEvent (e : Event) (s : State) : Host.Outcome State Fault Refusal :=
  match e with
  | .longLatencyReturn flock op => execLongLatencyReturn flock op s
  | .samplerResultReturn flock op => execSamplerResultReturn flock op s
  | .treeResultReturn flock op => execTreeResultReturn flock op s
  | .accTransferComplete flock op => execAccTransferComplete flock op s
  | .ffStoreDelivered flock op => execFfStoreDelivered flock op s
  | .tosWrite flock op => execTosWrite flock op s
  | .laneBlockStart flock => execLaneBlockStart flock s
  | .roundEndExchange core dp => execRoundEndExchange core dp s
  | .flockExchange core dp flock => execFlockExchange core dp flock s
  | .predicateResolution flock path => execPredicateResolution flock path s
  | .reconvTimeout flock entry => execReconvTimeout flock entry s
  | .regroupCollectionClose core coll => execRegroupCollectionClose core coll s
  | .regroupCollectionTimeout core coll => execRegroupCollectionTimeout core coll s
  | .callFlockEnd flock => execCallFlockEnd flock s
  | .barWaitComplete flock => execBarWaitComplete flock s
  | .herdAdmit region => execHerdAdmit region s
  | .regionComplete region => execRegionComplete region s
  | .completionAction c => execCompletionAction c s
  | .completionRecordWrite r => execCompletionRecordWrite r s
  | .preemptRequest herd => execPreemptRequest herd s
  | .herdSave herd => execHerdSave herd s
  | .herdRestore herd => execHerdRestore herd s
  | .haltBoundFailure core => execHaltBoundFailure core s
  | .matrixEngineOperation core => execMatrixEngineOperation core s
  | .copyTransferStart core cmd => execCopyTransferStart core cmd s
  | .copyWordLand core cmd => execCopyWordLand core cmd s
  | .copyFaultSuspend core cmd => execCopyFaultSuspend core cmd s
  | .faultRecordWrite r => execFaultRecordWrite r s
  | .sealDigest j => execSealDigest j s
  | .commonsRelease frame => execCommonsRelease frame s
  | .poolReturnRetry die header frame since => execPoolReturnRetry die header frame since s
  | .poolReturnStall die header frame since => execPoolReturnStall die header frame since s
  | .doorbellWrite offset value => execDoorbellWrite offset value s
  | .queueStep session q => execQueueStep session q s
  | .packetDispatch p => execPacketDispatch p s
  | .packetCopy p => execPacketCopy p s
  | .packetSignal p => execPacketSignal p s
  | .packetWait p => execPacketWait p s
  | .waitReread p => execWaitReread p s
  | .packetFork p => execPacketFork p s
  | .packetSeal p => execPacketSeal p s
  | .packetPublish p => execPacketPublish p s
  | .packetMigrate p => execPacketMigrate p s
  | .migrateMove p => execMigrateMove p s
  | .packetNop p => execPacketNop p s
  | .depCounterDecrement die ctr amount sender => execDepCounterDecrement die ctr amount sender s
  | .quantumBoundary paddock => execQuantumBoundary paddock s
  | .budgetCharge herd => execBudgetCharge herd s
  | .arbiterPromotion die request => execArbiterPromotion die request s
  | .quiesce paddock value => execQuiesce paddock value s
  | .paddockQuiesced paddock => execPaddockQuiesced paddock s
  | .qstuck paddock => execQstuck paddock s
  | .tlbinv1 die value => execTlbinv1 die value s
  | .fltctlRetry die value => execFltctlRetry die value s
  | .fltctlSkip die value => execFltctlSkip die value s
  | .fltctlEnterHandler die value => execFltctlEnterHandler die value s
  | .fltctlEnd die value => execFltctlEnd die value s
  | .fltctlAbortDomain die value => execFltctlAbortDomain die value s
  | .engctlResume die value => execEngctlResume die value s
  | .engctlAbandon die value => execEngctlAbandon die value s
  | .crel die value => execCrel die value s
  | .keyLoad die slot blob => execKeyLoad die slot blob s
  | .placementEpoch die => execPlacementEpoch die s
  | .frameMove m => execFrameMove m s
  | .orderedPacketSend p => execOrderedPacketSend p s
  | .orderedPacketArrival p => execOrderedPacketArrival p s
  | .readRequestServe r => execReadRequestServe r s
  | .acquireCatchup r => execAcquireCatchup r s
  | .deliveryReportSend die net => execDeliveryReportSend die net s
  | .deliveryReportReceive r => execDeliveryReportReceive r s
  | .linkGroupReceive die link g => execLinkGroupReceive die link g s
  | .linkNakReceive die link seq => execLinkNakReceive die link seq s
  | .linkResendTimeout die link seq => execLinkResendTimeout die link seq s
  | .linkRetrain die link => execLinkRetrain die link s
  | .linkDown die link => execLinkDown die link s
  | .fabricStall die => execFabricStall die s
  | .heartbeat die missed => execHeartbeat die missed s
  | .dieRemoval what => execDieRemoval what s
  | .resynchronisation => execResynchronisation s
  | .boot die => execBoot die s
  | .dedupSecretReceive die blob => execDedupSecretReceive die blob s
  | .dieBringup die => execDieBringup die s
  | .clusterPowerUp die cluster => execClusterPowerUp die cluster s
  | .matrixEngineEnable die cluster => execMatrixEngineEnable die cluster s
  | .bootPeerTimeout die => execBootPeerTimeout die s
  | .imgBegin die len => execImgBegin die len s
  | .imgData die offset bytes => execImgData die offset bytes s
  | .imgEnd die => execImgEnd die s
  | .getVersion die => execGetVersion die s
  | .getCapabilities die => execGetCapabilities die s
  | .negotiateAlgorithms die ed448 sha3 => execNegotiateAlgorithms die ed448 sha3 s
  | .getDigests die => execGetDigests die s
  | .getCertificate die slot offset len => execGetCertificate die slot offset len s
  | .challenge die slot nonce => execChallenge die slot nonce s
  | .getMeasurements die index nonce => execGetMeasurements die index nonce s
  | .spdmUnsupportedRequest die code => execSpdmUnsupportedRequest die code s
  | .partitionCommitRequest c => execPartitionCommitRequest c s
  | .prepareReport die => execPrepareReport die s
  | .commitApply die => execCommitApply die s
  | .commitDone => execCommitDone s
  | .watchdogExpiry die => execWatchdogExpiry die s
  | .retentionSramUe die lost => execRetentionSramUe die lost s
  | .snapctlArm die value => execSnapctlArm die value s
  | .snapctlFire die => execSnapctlFire die s
  | .snapshotAtCycle die => execSnapshotAtCycle die s
  | .snapshotWideTrigger die => execSnapshotWideTrigger die s
  | .pwrcap die value => execPwrcap die value s
  | .powerSample die => execPowerSample die s
  | .powerCapUnmet paddock => execPowerCapUnmet paddock s
  | .eccCorrectable die src => execEccCorrectable die src s
  | .eccUncorrectable die at_ => execEccUncorrectable die at_ s
  | .memoryScrub die sector bad => execMemoryScrub die sector bad s
  | .cqDescriptorRetest session => execCqDescriptorRetest session s
  | .graphicsFaultReport core region tree => execGraphicsFaultReport core region tree s
  | .registerWrite die r value => execRegisterWrite die r value s
  | .hostMemoryAccess h => execHostMemoryAccess h s
  | .completionQueueReread r => execCompletionQueueReread r s
  | .linkRetrainComplete die link ok => execLinkRetrainComplete die link ok s
  | .modulePowerLoss => execModulePowerLoss s
  | .rlimitWindow core => execRlimitWindow core s

/-- The event that an instruction of the other agents names; none for an instruction of a stream. -/
def eventOf? (i : Instr) : Option Event :=
  match i with
  | .longLatencyReturn flock op => some (.longLatencyReturn flock op)
  | .samplerResultReturn flock op => some (.samplerResultReturn flock op)
  | .treeResultReturn flock op => some (.treeResultReturn flock op)
  | .accTransferComplete flock op => some (.accTransferComplete flock op)
  | .ffStoreDelivered flock op => some (.ffStoreDelivered flock op)
  | .tosWrite flock op => some (.tosWrite flock op)
  | .laneBlockStart flock => some (.laneBlockStart flock)
  | .roundEndExchange core dp => some (.roundEndExchange core dp)
  | .flockExchange core dp flock => some (.flockExchange core dp flock)
  | .predicateResolution flock path => some (.predicateResolution flock path)
  | .reconvTimeout flock entry => some (.reconvTimeout flock entry)
  | .regroupCollectionClose core coll => some (.regroupCollectionClose core coll)
  | .regroupCollectionTimeout core coll => some (.regroupCollectionTimeout core coll)
  | .callFlockEnd flock => some (.callFlockEnd flock)
  | .barWaitComplete flock => some (.barWaitComplete flock)
  | .herdAdmit region => some (.herdAdmit region)
  | .regionComplete region => some (.regionComplete region)
  | .completionAction c => some (.completionAction c)
  | .completionRecordWrite r => some (.completionRecordWrite r)
  | .preemptRequest herd => some (.preemptRequest herd)
  | .herdSave herd => some (.herdSave herd)
  | .herdRestore herd => some (.herdRestore herd)
  | .haltBoundFailure core => some (.haltBoundFailure core)
  | .matrixEngineOperation core => some (.matrixEngineOperation core)
  | .copyTransferStart core cmd => some (.copyTransferStart core cmd)
  | .copyWordLand core cmd => some (.copyWordLand core cmd)
  | .copyFaultSuspend core cmd => some (.copyFaultSuspend core cmd)
  | .faultRecordWrite r => some (.faultRecordWrite r)
  | .sealDigest j => some (.sealDigest j)
  | .commonsRelease frame => some (.commonsRelease frame)
  | .poolReturnRetry die header frame since => some (.poolReturnRetry die header frame since)
  | .poolReturnStall die header frame since => some (.poolReturnStall die header frame since)
  | .doorbellWrite offset value => some (.doorbellWrite offset value)
  | .queueStep session q => some (.queueStep session q)
  | .packetDispatch p => some (.packetDispatch p)
  | .packetCopy p => some (.packetCopy p)
  | .packetSignal p => some (.packetSignal p)
  | .packetWait p => some (.packetWait p)
  | .waitReread p => some (.waitReread p)
  | .packetFork p => some (.packetFork p)
  | .packetSeal p => some (.packetSeal p)
  | .packetPublish p => some (.packetPublish p)
  | .packetMigrate p => some (.packetMigrate p)
  | .migrateMove p => some (.migrateMove p)
  | .packetNop p => some (.packetNop p)
  | .depCounterDecrement die ctr amount sender => some (.depCounterDecrement die ctr amount sender)
  | .quantumBoundary paddock => some (.quantumBoundary paddock)
  | .budgetCharge herd => some (.budgetCharge herd)
  | .arbiterPromotion die request => some (.arbiterPromotion die request)
  | .quiesce paddock value => some (.quiesce paddock value)
  | .paddockQuiesced paddock => some (.paddockQuiesced paddock)
  | .qstuck paddock => some (.qstuck paddock)
  | .tlbinv1 die value => some (.tlbinv1 die value)
  | .fltctlRetry die value => some (.fltctlRetry die value)
  | .fltctlSkip die value => some (.fltctlSkip die value)
  | .fltctlEnterHandler die value => some (.fltctlEnterHandler die value)
  | .fltctlEnd die value => some (.fltctlEnd die value)
  | .fltctlAbortDomain die value => some (.fltctlAbortDomain die value)
  | .engctlResume die value => some (.engctlResume die value)
  | .engctlAbandon die value => some (.engctlAbandon die value)
  | .crel die value => some (.crel die value)
  | .keyLoad die slot blob => some (.keyLoad die slot blob)
  | .placementEpoch die => some (.placementEpoch die)
  | .frameMove m => some (.frameMove m)
  | .orderedPacketSend p => some (.orderedPacketSend p)
  | .orderedPacketArrival p => some (.orderedPacketArrival p)
  | .readRequestServe r => some (.readRequestServe r)
  | .acquireCatchup r => some (.acquireCatchup r)
  | .deliveryReportSend die net => some (.deliveryReportSend die net)
  | .deliveryReportReceive r => some (.deliveryReportReceive r)
  | .linkGroupReceive die link g => some (.linkGroupReceive die link g)
  | .linkNakReceive die link seq => some (.linkNakReceive die link seq)
  | .linkResendTimeout die link seq => some (.linkResendTimeout die link seq)
  | .linkRetrain die link => some (.linkRetrain die link)
  | .linkDown die link => some (.linkDown die link)
  | .fabricStall die => some (.fabricStall die)
  | .heartbeat die missed => some (.heartbeat die missed)
  | .dieRemoval what => some (.dieRemoval what)
  | .resynchronisation => some (.resynchronisation)
  | .boot die => some (.boot die)
  | .dedupSecretReceive die blob => some (.dedupSecretReceive die blob)
  | .dieBringup die => some (.dieBringup die)
  | .clusterPowerUp die cluster => some (.clusterPowerUp die cluster)
  | .matrixEngineEnable die cluster => some (.matrixEngineEnable die cluster)
  | .bootPeerTimeout die => some (.bootPeerTimeout die)
  | .imgBegin die len => some (.imgBegin die len)
  | .imgData die offset bytes => some (.imgData die offset bytes)
  | .imgEnd die => some (.imgEnd die)
  | .getVersion die => some (.getVersion die)
  | .getCapabilities die => some (.getCapabilities die)
  | .negotiateAlgorithms die ed448 sha3 => some (.negotiateAlgorithms die ed448 sha3)
  | .getDigests die => some (.getDigests die)
  | .getCertificate die slot offset len => some (.getCertificate die slot offset len)
  | .challenge die slot nonce => some (.challenge die slot nonce)
  | .getMeasurements die index nonce => some (.getMeasurements die index nonce)
  | .spdmUnsupportedRequest die code => some (.spdmUnsupportedRequest die code)
  | .partitionCommitRequest c => some (.partitionCommitRequest c)
  | .prepareReport die => some (.prepareReport die)
  | .commitApply die => some (.commitApply die)
  | .commitDone => some (.commitDone)
  | .watchdogExpiry die => some (.watchdogExpiry die)
  | .retentionSramUe die lost => some (.retentionSramUe die lost)
  | .snapctlArm die value => some (.snapctlArm die value)
  | .snapctlFire die => some (.snapctlFire die)
  | .snapshotAtCycle die => some (.snapshotAtCycle die)
  | .snapshotWideTrigger die => some (.snapshotWideTrigger die)
  | .pwrcap die value => some (.pwrcap die value)
  | .powerSample die => some (.powerSample die)
  | .powerCapUnmet paddock => some (.powerCapUnmet paddock)
  | .eccCorrectable die src => some (.eccCorrectable die src)
  | .eccUncorrectable die at_ => some (.eccUncorrectable die at_)
  | .memoryScrub die sector bad => some (.memoryScrub die sector bad)
  | .cqDescriptorRetest session => some (.cqDescriptorRetest session)
  | .graphicsFaultReport core region tree => some (.graphicsFaultReport core region tree)
  | .registerWrite die r value => some (.registerWrite die r value)
  | .hostMemoryAccess h => some (.hostMemoryAccess h)
  | .completionQueueReread r => some (.completionQueueReread r)
  | .linkRetrainComplete die link ok => some (.linkRetrainComplete die link ok)
  | .modulePowerLoss => some (.modulePowerLoss)
  | .rlimitWindow core => some (.rlimitWindow core)
  | _ => none

end Sys2Proof.Machine
end

