-- ==== Sys2Proof/Machine/Issue.lean ====
section
/-!
DEFINITION. What a step does (R40 to R43, R50, R103; log entry 4): a due event of another agent, or one instruction of one stream, chosen
by the round robin of its datapath.
-/
namespace Sys2Proof.Machine

/-! ## One attempt to issue -/

/-- What the next instruction of a stream answers. -/
def State.attempt (s : State) (x : Issuer) : Host.Outcome State Fault Refusal :=
  match { s with cur := some x }.fetchNext x with
  | (t, .issue i) => exec i t
  | (t, .idle) => .next t

/-- Whether an answer is that the instruction does not issue now, and then whether it waits on an empty register. -/
def stallOf (o : Host.Outcome State Fault Refusal) : Option Bool :=
  match o with
  | .next t => t.stalled
  | _ => none

/-- The streams of a flock are tried in turn: the answer of the first that has a ready instruction, or whether one of them waits on an
empty register. -/
def State.tryStreams (s : State) (uid : Nat) : List (Option Nat) → Except Bool (Host.Outcome State Fault Refusal)
  | [] => .error false
  | x :: r =>
    let o := s.attempt ⟨uid, x⟩
    match stallOf o with
    | none => .ok o
    | some e => match s.tryStreams uid r with
      | .ok o => .ok o
      | .error e' => .error (e || e')

/-- The flock has a ready instruction (R40). -/
def State.flockReady (s : State) (f : Flock) : Bool :=
  s.mayIssue f && match s.tryStreams f.uid f.streams with
    | .ok _ => true
    | .error _ => false

/-- The state with the readiness, as it is now, of every flock of a datapath that has a pending one. -/
def State.refresh (s : State) : State :=
  let here := s.cores.flatMap fun (_, k) => k.datapaths.flatMap fun d =>
    if d.pending.isEmpty then [] else d.pending.map (·.1) ++ d.active.filterMap id
  if here.isEmpty then s
  else { s with flocks := s.flocks.map fun f => if here.contains f.uid then { f with ready := s.flockReady f } else f }

/-! ## The round robin (R41, R42) -/

/-- The flock at the pointer of a datapath. -/
def State.atPointer (s : State) (core dp : Nat) : Option Flock :=
  let d := (s.core core).datapaths.getD dp Datapath.reset
  ((d.active.getD d.pointer none).bind s.flock?).filter s.mayIssue

/-- The flock's next turn tries the other kind of stream first. -/
def State.turn (s : State) (uid : Nat) : State := s.onFlock uid fun f => { f with nextStream := 1 - f.nextStream }

/-- The pointer of a datapath passes over its slots until the flock at one of them issues; a flock that waits on an empty register offers
its slot to a ready pending flock. A round that ends with pending flocks ends the sweep: its exchange comes first (R42). -/
def State.sweep (s : State) (core dp : Nat) : Nat → State × Option (Host.Outcome State Fault Refusal)
  | 0 => (s, none)
  | n + 1 =>
    let t := s.movePointer core dp
    let ended := t.agenda.contains (.roundEndExchange core dp)
    match s.atPointer core dp with
    | none => if ended then (t, none) else t.sweep core dp n
    | some f => match (t.turn f.uid).tryStreams f.uid f.streams with
      | .ok o => (t, some o)
      | .error e =>
        let pending := ((s.core core).datapaths.getD dp Datapath.reset).pending
        let t := if e && pending.any fun x => s.pendingReady x.1 then t.postOnce (.flockExchange core dp f.uid) else t
        if ended then (t, none) else t.sweep core dp n

/-- The datapaths that are listed are swept in turn until one of them issues. -/
def State.issueFrom (s : State) : List ((Nat × Nat) × Nat) → Host.Outcome State Fault Refusal
  | [] => .next { s with cur := none }
  | ((c, d), i) :: r =>
    match { s with cursor := i + 1 }.sweep c d 8 with
    | (_, some o) => o
    | (t, none) => t.issueFrom r

/-- The datapaths of the module take turns: one stream issues its next ready instruction, if any has one. -/
def State.issue (s : State) : Host.Outcome State Fault Refusal :=
  let all := s.datapaths.zipIdx
  s.issueFrom (all.drop (s.cursor % all.length) ++ all.take (s.cursor % all.length))

/-! ## Events (R8, R103; log entry 4) -/

/-- An event that acts before anything else: the time that it waits for has passed, or its cause asks for it at once. -/
def State.urgent (s : State) (e : Event) : Bool :=
  match e with
  | .roundEndExchange _ _ => true
  | .flockExchange _ _ _ => true
  | .reconvTimeout flock entry => (s.flock? flock).any fun f => s.mayIssue f && !f.hmode && (f.entry? entry).any fun x => x.timer.any fun (at_, _, _) =>
      at_ < (s.die (dieOf f.core)).cycle
  | .haltBoundFailure core => (s.unhalted core).any s.haltLate
  | .regroupCollectionClose core coll => (s.core core).collections.any fun c => c.id = coll && !c.closed && s.collectionFull c
  | .snapshotAtCycle die =>
    let d := s.die die
    d.snapctl.getLsbD 0 && d.snapctl.getLsbD 2 && d.snapat.toNat ≤ d.cycle.toNat && d.shepherd.mode ≠ .reset
  | .snapshotWideTrigger die => (s.die die).shepherd.mode ≠ .reset
  | .boot die => (s.die die).stage ≠ 0 && 6000000 ≤ ((s.die die).cycle - (s.die die).shepherd.started).toNat
  | .regroupCollectionTimeout core coll => (s.core core).collections.any fun c => c.id = coll && !c.closed && c.deadline ≤ (s.die (dieOf core)).cycle
  | _ => false

/-- The event that acts in a step: the first urgent one; with none, a free choice between one of those due and an issue (log entry 4). -/
def State.eventNow (s : State) (pick : Nat) : Option Nat :=
  if s.agenda.isEmpty then none
  else match s.agenda.findIdx? s.urgent with
    | some k => some k
    | none => match pick % (s.agenda.length + 1) with
      | 0 => none
      | k + 1 => some k

/-- The state as a step begins: time has passed, and it is known which pending flocks are ready. -/
def State.begin (s : State) : State := { s.tick with cur := none, stalled := none }.refresh

/-- The state with a due event taken off the agenda. -/
def State.take (s : State) (k : Nat) : State := { s with agenda := s.agenda.eraseIdx k }

/-- What a step does. -/
def State.act (s : State) (pick : Nat) : Host.Outcome State Fault Refusal :=
  match (s.eventNow pick).bind fun k => s.agenda[k]?.map fun e => (k, e) with
  | some (k, e) => execEvent e (s.take k)
  | none => s.issue

end Sys2Proof.Machine
end

