-- ==== Sys2Proof/Machine/Step.lean ====
section
/-!
DEFINITION. One step of the module: time passes, and either a due event acts or one stream issues its next instruction.
-/
namespace Sys2Proof.Machine

/-- One step. -/
def step (s : State) : Host.Outcome State Fault Refusal := s.begin.act (Config.pick s.ticks)

/-- The state with an instruction stored where the next step fetches (log entry 11). -/
def State.withFetchWord (s : State) (nbits w : Nat) : State :=
  let lane := decide (32 < nbits)
  s.fetchState lane (bytesOf (if lane then 12 else 4) (w % 2 ^ nbits))

end Sys2Proof.Machine
end

