-- ==== Sys2Proof/Safety.lean ====
section
/-!
DEFINITION. What a safe run is: the steps of the module, the runs they make, the invariant that every step keeps, and when an
instruction of a stream has what it needs to issue.
-/
namespace Sys2Proof.Machine

/-- One step leads from a state to another. -/
def Steps (s t : State) : Prop := step s = .next t

/-- A state can be reached from another by any number of steps. -/
inductive Reaches (s : State) : State → Prop where
  | refl : Reaches s s
  | step {t u : State} : Reaches s t → Steps t u → Reaches s u

/-- An outcome is a next state, neither a fault nor a refusal. -/
def Completes (o : Host.Outcome State Fault Refusal) : Prop := ∃ t, o = .next t

/-- The module's next step completes. -/
def State.Progresses (s : State) : Prop := Completes (step s)

/-- What holds of the module however it is used: memory is in its canonical form (R4), and the module has four dies, eight paddocks
and a report register for each of those (R1, R358, R479). -/
structure State.Sound (s : State) : Prop where
  memory : Memory.wf s.mem = true
  dies : s.dies.length = 4
  paddocks : s.paddocks.length = 8
  reports : s.padrep.length = 8

/-! ## When an instruction issues (R40, R44, R46, R155, R442) -/

/-- The scalar stream of flock `f` is issuing. -/
abbrev IssuesScalar (s : State) (f : Flock) : Prop := s.cur = some ⟨f.uid, none⟩ ∧ s.flock? f.uid = some f

/-- Path `p` of the lane stream of flock `f` is issuing: under a confirmed mask, with no instruction to issue anew (R54, R57, R58). -/
abbrev IssuesLane (s : State) (f : Flock) (p : Path) : Prop :=
  s.cur = some ⟨f.uid, some p.id⟩ ∧ s.flock? f.uid = some f ∧ f.path? p.id = some p ∧ p.guess = none ∧ p.redo = []

/-- A scalar register is full and holds no poison; s0 always is (R44, R464). -/
abbrev Readable (f : Flock) (r : BitVec 6) : Prop := r = 0 ∨ (r.toNat ∉ f.sEmpty ∧ r.toNat ∉ f.sPoison)

/-- A scalar register awaits no earlier producer, and outside a handler no queued or running block names it (R34, R46, R424). -/
abbrev Writable (f : Flock) (d : BitVec 6) : Prop :=
  d = 0 ∨ (d.toNat ∉ f.sEmpty ∧ (f.hmode = true ∨ ∀ e ∈ f.queue, e.mask.getLsbD d.toNat = false))

/-- The registers that a lane instruction names lie within the flock's (R155, R168), its sources are full and hold no poison in every
lane that it reads, its destinations await no earlier producer (R44, R46, R464), and no mask of the flock is unconfirmed while a source
reads other lanes (R173). -/
abbrev LaneReady (f : Flock) (p : Path) (w : LaneWord) (srcs : List Src) (dsts : List Dst) : Prop :=
  (∀ x ∈ srcs, x.ok f = true) ∧ (∀ x ∈ dsts, x.ok f = true) ∧ (f.branches = [] ∨ ∀ x ∈ srcs, x.mod ≠ 4 ∧ x.mod ≠ 5) ∧
  ∀ l ∈ laneList f p w,
    (∀ x ∈ srcs, x.emptyAt f (laneRead w f.lanes x.mod l) = false ∧ x.poisonedAt f (laneRead w f.lanes x.mod l) = false) ∧
    (∀ x ∈ dsts, ∀ i ∈ List.range x.regs, f.vFull (x.code.toNat + i) l = true)

/-! ## What lane instructions write (R134, R157, R169, R171) -/

/-- Element `i` of an integer source in lane `l`, after its sign modifier. -/
def elementOf (f : Flock) (w : LaneWord) (t : IntTy) (x : Src) (l i : Nat) : Nat :=
  intModifier t x.mod (bitsAt (if t.w = 64 then (f.read64 w x l).toNat else (f.read32 w x l).toNat) (t.w * i) t.w)

/-- The instruction completes when its `k` sources of type `t` and its destination are ready: it writes vD in the executing lanes, each
element of which satisfies `P`, and its path moves on. -/
def LaneWrites (s : State) (f : Flock) (p : Path) (w : LaneWord) (i : Instr) (t : IntTy) (k : Nat) (P : Nat → Nat → Nat → Prop) : Prop :=
  LaneReady f p w (intSources w t k) [dst w t.regs t.regs] → ∃ v : Nat → Nat,
    exec i s = .next (s.setFlock ((f.intWrite t w.dest.toNat ((laneList f p w).map fun l => (l, v l))).retire p.id)) ∧
    ∀ l ∈ laneList f p w, ∀ j, j < t.size / t.w → P l j (bitsAt (v l) (t.w * j) t.w)

/-- Element `i` of a floating-point source in lane `l`, after its sign modifier. -/
def floatElementOf (f : Flock) (w : LaneWord) (t : Fmt) (x : Src) (l i : Nat) : Nat :=
  signModifier t.width x.mod (bitsAt (f.read32 w x l).toNat (t.width * i) t.width)

/-- The instruction completes when its `k` sources and its destination are ready: it writes vD in the executing lanes, whose element `j` is
the code of `r l j`, ORs into FLAGS every flag of those, and its path moves on. -/
def FloatWrites (s : State) (f : Flock) (p : Path) (w : LaneWord) (i : Instr) (n : Nat) (k : Nat) (r : Nat → Nat → Nat × Flags) : Prop :=
  LaneReady f p w (floatSources w k) [dst w] → ∃ (v : Nat → Word32) (x : Flags),
    exec i s = .next (s.setFlock (((f.writeLanes w.dest.toNat ((laneList f p w).map fun l => (l, v l))).raise x).retire p.id)) ∧
    (∀ l ∈ laneList f p w, ∀ j, j < 32 / n → bitsAt (v l).toNat (n * j) n = (r l j).1 % 2 ^ n) ∧
    ∀ b, x.getLsbD b = true ↔ ∃ l ∈ laneList f p w, ∃ j, j < 32 / n ∧ (r l j).2.getLsbD b = true

end Sys2Proof.Machine
end

