-- ==== Sys2Proof/Certificates/Slice0/Obligations.lean ====
section
/-!
DEFINITION. The statements about the model: each formalises rules of the manual, or says of a choice of the model that it is one.
-/
open Sys2Proof Sys2Proof.Machine

/-! ## The scalar stream: arithmetic (R190 to R195) -/

/-- `s.add` to `s.maxu` write sa op sb, mod 2^64 (R190); an operand is readable and the destination writable by R44, R46 and R34.

The bit forms of R190: leading and trailing zeros, set bits, interleaving and its reverse. -/
def Obligations.ScalarArithmetic : Prop :=
  (∀ (s : State) (f : Flock) (d a b : BitVec 6), IssuesScalar s f → Readable f a → Readable f b → Writable f d →
       let x := f.sreg a.toNat
       let y := f.sreg b.toNat
       let writes (v : Word64) : Host.Outcome State Fault Refusal := .next (s.setFlock (f.setS d.toNat v).advance)
       exec (.sAdd d a b) s = writes (x + y) ∧
       exec (.sSub d a b) s = writes (x - y) ∧
       exec (.sMul d a b) s = writes (BitVec.ofNat 64 (x.toNat * y.toNat)) ∧
       exec (.sMulh d a b) s = writes (BitVec.ofInt 64 (x.toInt * y.toInt / 2 ^ 64)) ∧
       exec (.sMulhu d a b) s = writes (BitVec.ofNat 64 (x.toNat * y.toNat / 2 ^ 64)) ∧
       exec (.sAnd d a b) s = writes (x &&& y) ∧
       exec (.sOr d a b) s = writes (x ||| y) ∧
       exec (.sXor d a b) s = writes (x ^^^ y) ∧
       exec (.sMin d a b) s = writes (BitVec.ofInt 64 (min x.toInt y.toInt)) ∧
       exec (.sMinu d a b) s = writes (BitVec.ofNat 64 (min x.toNat y.toNat)) ∧
       exec (.sMax d a b) s = writes (BitVec.ofInt 64 (max x.toInt y.toInt)) ∧
       exec (.sMaxu d a b) s = writes (BitVec.ofNat 64 (max x.toNat y.toNat))) ∧
  (∀ (s : State) (f : Flock) (d a b : BitVec 6), IssuesScalar s f → Readable f a → Readable f b → Writable f d →
       let x := f.sreg a.toNat
       let y := f.sreg b.toNat
       let writes (v : Word64) : Host.Outcome State Fault Refusal := .next (s.setFlock (f.setS d.toNat v).advance)
       (∃ n, n ≤ 64 ∧ exec (.sClz d a) s = writes (BitVec.ofNat 64 n) ∧ (∀ i, i < n → x.getLsbD (63 - i) = false) ∧
         (n < 64 → x.getLsbD (63 - n) = true)) ∧
       (∃ n, n ≤ 64 ∧ exec (.sCtz d a) s = writes (BitVec.ofNat 64 n) ∧ (∀ i, i < n → x.getLsbD i = false) ∧
         (n < 64 → x.getLsbD n = true)) ∧
       exec (.sPopc d a) s = writes (BitVec.ofNat 64 ((List.range 64).countP x.getLsbD)) ∧
       (∃ v : Word64, exec (.sBitint d a b) s = writes v ∧ ∀ i, i < 32 → v.getLsbD (2 * i) = x.getLsbD i ∧ v.getLsbD (2 * i + 1) = y.getLsbD i) ∧
       (∃ v : Word64, exec (.sBitdeint d a) s = writes v ∧ ∀ i, i < 32 → v.getLsbD i = x.getLsbD (2 * i) ∧ v.getLsbD (32 + i) = x.getLsbD (2 * i + 1)))

/-- Division truncates toward zero; a zero divisor and the signed overflow give the results of R191.

A shift count is the whole 64-bit value of sb, or of the sign-extended immediate, read as unsigned (R192). -/
def Obligations.ScalarDivisionAndShifts : Prop :=
  (∀ (s : State) (f : Flock) (d a b : BitVec 6), IssuesScalar s f → Readable f a → Readable f b → Writable f d →
       let x := f.sreg a.toNat
       let y := f.sreg b.toNat
       let writes (v : Word64) : Host.Outcome State Fault Refusal := .next (s.setFlock (f.setS d.toNat v).advance)
       let q := x.toInt.tdiv y.toInt
       (y = 0 → exec (.sDiv d a b) s = writes (BitVec.allOnes 64) ∧ exec (.sRem d a b) s = writes x ∧
         exec (.sDivu d a b) s = writes (BitVec.allOnes 64) ∧ exec (.sRemu d a b) s = writes x) ∧
       (x.toInt = -2 ^ 63 → y.toInt = -1 → exec (.sDiv d a b) s = writes (BitVec.ofInt 64 (-2 ^ 63)) ∧ exec (.sRem d a b) s = writes 0) ∧
       (y ≠ 0 → ¬(x.toInt = -2 ^ 63 ∧ y.toInt = -1) →
         exec (.sDiv d a b) s = writes (BitVec.ofInt 64 q) ∧ exec (.sRem d a b) s = writes (BitVec.ofInt 64 (x.toInt - q * y.toInt))) ∧
       (y ≠ 0 → exec (.sDivu d a b) s = writes (BitVec.ofNat 64 (x.toNat / y.toNat)) ∧
         exec (.sRemu d a b) s = writes (BitVec.ofNat 64 (x.toNat - x.toNat / y.toNat * y.toNat)))) ∧
  (∀ (s : State) (f : Flock) (d a b : BitVec 6) (imm : BitVec 14), IssuesScalar s f → Readable f a → Readable f b → Writable f d →
       let x := f.sreg a.toNat
       let writes (v : Word64) : Host.Outcome State Fault Refusal := .next (s.setFlock (f.setS d.toNat v).advance)
       let shifts (i j k : Instr) (c : Nat) : Prop :=
         (c < 64 → exec i s = writes (BitVec.ofNat 64 (x.toNat * 2 ^ c)) ∧ exec j s = writes (BitVec.ofNat 64 (x.toNat / 2 ^ c)) ∧
           ∃ v : Word64, exec k s = writes v ∧ ∀ n, n < 64 → v.getLsbD n = if n + c < 64 then x.getLsbD (n + c) else x.getLsbD 63) ∧
         (64 ≤ c → exec i s = writes 0 ∧ exec j s = writes 0 ∧
           exec k s = writes (if x.getLsbD 63 then BitVec.allOnes 64 else 0))
       shifts (.sShl d a b) (.sShr d a b) (.sSra d a b) (f.sreg b.toNat).toNat ∧
       shifts (.sShli d a imm) (.sShri d a imm) (.sSrai d a imm) (imm.signExtend 64).toNat)

/-- The other immediate forms compute as their register forms do, with the sign-extended immediate; `s.lui` writes SignExtend(imm) × 2^14
(R195). `s.sel` writes sa where the predicate xor NEG is 1, and sb otherwise; z7 reads as set (R193, R154). `s.cmp` and `s.cmpi` write to
zd whether the condition holds: signed for lt, le, gt and ge, unsigned for the others (R194). -/
def Obligations.ScalarImmediatesAndCompares : Prop :=
  ∀ (s : State) (f : Flock) (d a b : BitVec 6) (imm : BitVec 14) (z : BitVec 3) (neg : Bool),
    IssuesScalar s f → Readable f a → Readable f b → Writable f d →
    let x := f.sreg a.toNat
    let writes (v : Word64) : Host.Outcome State Fault Refusal := .next (s.setFlock (f.setS d.toNat v).advance)
    let tests (v : Prop) [Decidable v] : Host.Outcome State Fault Refusal := .next (s.setFlock (f.setZ z.toNat (decide v)).advance)
    let holds (i : Cond → Instr) (y : Word64) : Prop :=
      exec (i .eq) s = tests (x = y) ∧ exec (i .ne) s = tests (x ≠ y) ∧
      exec (i .lt) s = tests (x.toInt < y.toInt) ∧ exec (i .le) s = tests (x.toInt ≤ y.toInt) ∧
      exec (i .gt) s = tests (y.toInt < x.toInt) ∧ exec (i .ge) s = tests (y.toInt ≤ x.toInt) ∧
      exec (i .ltu) s = tests (x.toNat < y.toNat) ∧ exec (i .geu) s = tests (y.toNat ≤ x.toNat)
    exec (.sAddi d a imm) s = writes (x + imm.signExtend 64) ∧
    exec (.sAndi d a imm) s = writes (x &&& imm.signExtend 64) ∧
    exec (.sOri d a imm) s = writes (x ||| imm.signExtend 64) ∧
    exec (.sXori d a imm) s = writes (x ^^^ imm.signExtend 64) ∧
    exec (.sLui d imm) s = writes (BitVec.ofInt 64 (imm.toInt * 2 ^ 14)) ∧
    exec (.sSel d a b z neg) s = writes (if (z = 7 ∨ f.z.getLsbD z.toNat = true) ↔ neg = false then x else f.sreg b.toNat) ∧
    holds (fun cc => .sCmp z cc a b) (f.sreg b.toNat) ∧
    exec (.sCmp z .leu a b) s = tests (x.toNat ≤ (f.sreg b.toNat).toNat) ∧
    exec (.sCmp z .gtu a b) s = tests ((f.sreg b.toNat).toNat < x.toNat) ∧
    holds (fun cc => .sCmpi z cc a imm) (imm.signExtend 64)

/-- The registers (R154 to R157): s0 reads zero and discards writes, z7 and q15 read as set and discard writes, and any other register or
predicate reads what was last written to it, every other one staying as it was. A pair holds bits [31:0] in its even register. The lanes
that an instruction executes are those of its path in which its predicate, inverted by NEG, holds.

An instruction of the scalar stream whose source is empty waits, and one whose source is poisoned takes the poison trap, which names the
flock's most recent access that returned poison, and no address where all the poison that it reads arose in registers
(R40, R44, R464, R465); shown for the two-source forms of R190 to R192 and R194. -/
def Obligations.RegistersAndStalls : Prop :=
  ((∀ (f : Flock) (n m : Nat) (v : Word64), f.sreg 0 = 0 ∧ f.setS 0 v = f ∧ (n ≠ 0 → (f.setS n v).sreg n = v) ∧
       (n ≠ m → (f.setS n v).sreg m = f.sreg m)) ∧
     (∀ (f : Flock) (n m : Nat) (v : Bool), f.zbit 7 = true ∧ f.setZ 7 v = f ∧ (n < 7 → (f.setZ n v).zbit n = v) ∧
       (n ≠ m → m ≤ 7 → (f.setZ n v).zbit m = f.zbit m)) ∧
     (∀ (f : Flock) (r l : Nat) (v : Word32), (f.setV r l v).vreg r l = v ∧
       ∀ k m, l < 1024 → m < 1024 → (k ≠ r ∨ m ≠ l) → (f.setV r l v).vreg k m = f.vreg k m) ∧
     (∀ (f : Flock) (r l : Nat) (v : Word64), (f.setVpair r l v).vpair r l = v ∧ (f.setVpair r l v).vreg r l = v.setWidth 32) ∧
     (∀ (f : Flock) (n m l : Nat) (on v : LaneMask), f.qbit 15 l = true ∧ f.setQ 15 on v = f ∧
       (n < 15 → l < 1024 → (f.setQ n on v).qbit n l = if on.has l then v.has l else f.qbit n l) ∧
       (n < 15 → m < 15 → n ≠ m → (f.setQ n on v).qbit m l = f.qbit m l)) ∧
     (∀ (f : Flock) (p : Path) (w : LaneWord) (l : Nat), l ∈ laneList f p w ↔
       l < f.lanes ∧ p.mask.has l = true ∧ (w.pred = 15 ∨ (f.qbit w.pred.toNat l = true ↔ w.neg = false)))) ∧
  (∀ (s : State) (f : Flock) (d a b : BitVec 6) (zd : BitVec 3) (cc : Cond) (i : Instr), IssuesScalar s f →
       i ∈ ([.sAdd d a b, .sSub d a b, .sMul d a b, .sMulh d a b, .sMulhu d a b, .sDiv d a b, .sDivu d a b, .sRem d a b, .sRemu d a b,
         .sAnd d a b, .sOr d a b, .sXor d a b, .sShl d a b, .sShr d a b, .sSra d a b, .sMin d a b, .sMinu d a b, .sMax d a b, .sMaxu d a b,
         .sBitint d a b, .sCmp zd cc a b] : List Instr) →
       (a ≠ 0 ∧ a.toNat ∈ f.sEmpty ∨ b ≠ 0 ∧ b.toNat ∈ f.sEmpty → exec i s = .next (s.waiting true)) ∧
       ((a = 0 ∨ a.toNat ∉ f.sEmpty) → (b = 0 ∨ b.toNat ∉ f.sEmpty) → (a ≠ 0 ∧ a.toNat ∈ f.sPoison ∨ b ≠ 0 ∧ b.toNat ∈ f.sPoison) →
         let loaded : Prop := a ≠ 0 ∧ a.toNat ∈ f.sPoison ∧ a.toNat ∉ f.sBorn ∨ b ≠ 0 ∧ b.toNat ∈ f.sPoison ∧ b.toNat ∉ f.sBorn
         (loaded → exec i s = .next (s.takeTrap f.uid .scalar
           { cause := 0x17, addr := f.poisonAddr, info := BitVec.ofNat 64 (f.poisonKind.toNat * 2 ^ 11) })) ∧
         (¬loaded → exec i s = .next (s.takeTrap f.uid .scalar { cause := 0x17 }))))

/-! ## The scalar stream: memory (R196 to R200) -/

/-- A scalar load of an aligned, translated address issues as an operation on counter G that reads that place: `s.ld` of each size, and
`s.ld.acq` as an acquire at its scope (R196, R197, R93). It waits while G is full, an acquire is incomplete, an access that precedes it over
a join is pending, an ordered packet of the die waits to be sent, or an access of the flock to the bytes is on its way (R93, R109, R113,
R118, R396).

A scalar store of an aligned, translated address writes the low bytes of sd there and invalidates the flashback point: `s.st` of each
size, and `s.st.rel` as a release at its scope (R196, R197, R69, R110). It waits as a load does but for the counter and the fabric, and a
release until it may be performed.

A misaligned address traps with cause 0x04 and one that fails translation with the cause of its failure, each with the address in TADDR
and the kind of access in TINFO (R77, R421, R442, R452 to R455); a walk that cannot be made at this moment makes the access wait
(R396; log entry 7). -/
def Obligations.ScalarLoadsAndStores : Prop :=
  (∀ (s u v : State) (f : Flock) (d a : BitVec 6) (off : BitVec 14) (off9 : BitVec 9) (scope : Scope) (size : Size) (loc : Loc),
       IssuesScalar s f → Readable f a → Writable f d →
       let issues (i : Instr) (n : Nat) (offset : Int) (acq : Option Scope) : Prop :=
         let addr := (f.sreg a.toNat + BitVec.ofInt 64 (offset * n)).toNat
         addr % n = 0 → s.translate (s.agentOf f) addr .read = .ok (u, loc) →
         f.count .g < 255 → u.memReady f = true → u.readReady f = true → f.overlaps loc.pa n = false →
         u.countRequests f [(0, loc)] = some v →
         let r := v.readPart (u.agentOf f) (acqWide acq) ⟨{ scalarPiece d.toNat with bytes := n }, loc⟩
         exec i s = .next ((r.1.beginOp f.uid f.spc (some .g) [r.2] 0 acq).onFlock f.uid Flock.advance)
       let held (i : Instr) (n : Nat) (offset : Int) : Prop :=
         let addr := (f.sreg a.toNat + BitVec.ofInt 64 (offset * n)).toNat
         let traps (c : Nat) : Host.Outcome State Fault Refusal := .next (s.takeTrap f.uid .scalar { cause := c, addr := BitVec.ofNat 64 addr })
         (addr % n ≠ 0 → exec i s = traps 0x04) ∧
         (∀ c, addr % n = 0 → s.translate (s.agentOf f) addr .read = .error c →
           (c = notYet → exec i s = .next (s.waiting false)) ∧ (c ≠ notYet → exec i s = traps c)) ∧
         (addr % n = 0 → s.translate (s.agentOf f) addr .read = .ok (u, loc) →
           255 ≤ f.count .g ∨ u.memReady f = false ∨ u.readReady f = false ∨ f.overlaps loc.pa n = true ∨ u.countRequests f [(0, loc)] = none →
           exec i s = .next (s.waiting false))
       issues (.sLdB d a off) 1 off.toInt none ∧ issues (.sLdH d a off) 2 off.toInt none ∧ issues (.sLdW d a off) 4 off.toInt none ∧
       issues (.sLdD d a off) 8 off.toInt none ∧ issues (.sLdAcq d a scope size off9) (sizeBytes size) off9.toInt (some scope) ∧
       held (.sLdB d a off) 1 off.toInt ∧ held (.sLdH d a off) 2 off.toInt ∧ held (.sLdW d a off) 4 off.toInt ∧
       held (.sLdD d a off) 8 off.toInt ∧ held (.sLdAcq d a scope size off9) (sizeBytes size) off9.toInt) ∧
  (∀ (s u v : State) (f : Flock) (d a : BitVec 6) (off : BitVec 14) (off9 : BitVec 9) (scope : Scope) (size : Size) (loc : Loc),
       IssuesScalar s f → Readable f a → Readable f d →
       let issues (i : Instr) (n : Nat) (offset : Int) (rel : Option Scope) : Prop :=
         let addr := (f.sreg a.toNat + BitVec.ofInt 64 (offset * n)).toNat
         addr % n = 0 → s.translate (s.agentOf f) addr .write = .ok (u, loc) →
         u.memReady f = true → f.overlaps loc.pa n = false → (∀ sc, rel = some sc → u.releaseReady f sc = true) →
         u.countRequests f [(0, loc)] = some v →
         exec i s = .next ((v.storePart (u.agentOf f) loc (bytesOf n (f.sreg d.toNat).toNat)).onFlock f.uid fun g => g.advance.fence)
       let held (i : Instr) (n : Nat) (offset : Int) (rel : Option Scope) : Prop :=
         let addr := (f.sreg a.toNat + BitVec.ofInt 64 (offset * n)).toNat
         let traps (c : Nat) : Host.Outcome State Fault Refusal :=
           .next (s.takeTrap f.uid .scalar { cause := c, addr := BitVec.ofNat 64 addr, info := 2 ^ 11 })
         (addr % n ≠ 0 → exec i s = traps 0x04) ∧
         (∀ c, addr % n = 0 → s.translate (s.agentOf f) addr .write = .error c →
           (c = notYet → exec i s = .next (s.waiting false)) ∧ (c ≠ notYet → exec i s = traps c)) ∧
         (addr % n = 0 → s.translate (s.agentOf f) addr .write = .ok (u, loc) →
           u.memReady f = false ∨ f.overlaps loc.pa n = true ∨ (∃ sc, rel = some sc ∧ u.releaseReady f sc = false) ∨
             u.countRequests f [(0, loc)] = none →
           exec i s = .next (s.waiting false))
       issues (.sStB d a off) 1 off.toInt none ∧ issues (.sStH d a off) 2 off.toInt none ∧ issues (.sStW d a off) 4 off.toInt none ∧
       issues (.sStD d a off) 8 off.toInt none ∧ issues (.sStRel d a scope size off9) (sizeBytes size) off9.toInt (some scope) ∧
       held (.sStB d a off) 1 off.toInt none ∧ held (.sStH d a off) 2 off.toInt none ∧ held (.sStW d a off) 4 off.toInt none ∧
       held (.sStD d a off) 8 off.toInt none ∧ held (.sStRel d a scope size off9) (sizeBytes size) off9.toInt (some scope))

/-- A scalar atomic of an aligned, translated address issues one request on counter G; in `.cas` the destination supplies the expected
value (R199, R96, R112). It waits while it may not be performed, and traps where its address is misaligned or fails translation (R442,
R452 to R455).

A fence of the scalar stream completes once earlier reads have returned and, for a release, once its scope's writes are performed; an
acquire then applies its invalidation, which at module or system scope follows an operation that asks every other live die (R111, R114,
R200, R396; log entry 7). -/
def Obligations.ScalarAtomicsAndFences : Prop :=
  (∀ (s u v : State) (f : Flock) (d a b : BitVec 6) (op : AtomOp) (ord : Order) (loc : Loc),
       IssuesScalar s f → Readable f a → Readable f b → Readable f d → Writable f d →
       let issues (i : Instr) (n : Nat) : Prop :=
         (f.sreg a.toNat).toNat % n = 0 → s.translate (s.agentOf f) (f.sreg a.toNat).toNat .atomic = .ok (u, loc) →
         f.count .g < 255 → u.memReady f = true → f.overlaps loc.pa n = false →
         (∀ sc, relScope ord = some sc → u.releaseReady f sc = true) → u.countRequests f [(0, loc)] = some v →
         let far := homeDie loc.pa ≠ (u.agentOf f).die
         let r := v.atomPart (u.agentOf f) op n (some (f.uid, f.nextId)) 0 (fun _ => scalarPiece d.toNat)
           ⟨[(0, 0)], loc, (f.sreg b.toNat).toNat % 2 ^ (8 * n), if op = .add then 0 else (f.sreg d.toNat).toNat % 2 ^ (8 * n)⟩
         exec i s = .next ((r.1.beginOp f.uid f.spc (some .g) r.2 (if far then 1 else 0) (acqScope ord)).onFlock f.uid
           fun g => g.advance.fence)
       let held (i : Instr) (n : Nat) : Prop :=
         let addr := (f.sreg a.toNat).toNat
         let traps (c : Nat) : Host.Outcome State Fault Refusal :=
           .next (s.takeTrap f.uid .scalar { cause := c, addr := BitVec.ofNat 64 addr, info := 2 ^ 12 })
         (addr % n ≠ 0 → exec i s = traps 0x04) ∧
         (∀ c, addr % n = 0 → s.translate (s.agentOf f) addr .atomic = .error c →
           (c = notYet → exec i s = .next (s.waiting false)) ∧ (c ≠ notYet → exec i s = traps c)) ∧
         (addr % n = 0 → s.translate (s.agentOf f) addr .atomic = .ok (u, loc) →
           255 ≤ f.count .g ∨ u.memReady f = false ∨ f.overlaps loc.pa n = true ∨ (∃ sc, relScope ord = some sc ∧ u.releaseReady f sc = false) ∨
             u.countRequests f [(0, loc)] = none →
           exec i s = .next (s.waiting false))
       issues (.sAtomW op ord d a b) 4 ∧ issues (.sAtomD op ord d a b) 8 ∧ held (.sAtomW op ord d a b) 4 ∧ held (.sAtomD op ord d a b) 8) ∧
  (∀ (s : State) (f : Flock) (sc : Scope), IssuesScalar s f → s.memReady f = false ∨ f.readsReturned = false →
       exec (.sFenceAcq sc) s = .next (s.waiting false) ∧ exec (.sFenceRel sc) s = .next (s.waiting false) ∧
         exec (.sFenceAr sc) s = .next (s.waiting false)) ∧
  (∀ (s : State) (f : Flock) (sc : Scope), IssuesScalar s f → s.memReady f = true → f.readsReturned = true →
       (s.releaseReady f sc = false → exec (.sFenceRel sc) s = .next (s.waiting false) ∧ exec (.sFenceAr sc) s = .next (s.waiting false)) ∧
       let others := (List.range 4).filter fun d => d ≠ dieOf f.core && (s.die d).live
       let invalidated := if sc = .mo ∨ sc = .sy then s.startOp f.uid f.spc none [] 0 (some sc) others
         else s.applyAcquire f.core (s.herdOf f).session sc
       exec (.sFenceAcq sc) s = .next (invalidated.onFlock f.uid Flock.advance) ∧
       (s.releaseReady f sc = true → exec (.sFenceRel sc) s = .next (s.onFlock f.uid Flock.advance) ∧
         exec (.sFenceAr sc) s = .next (invalidated.onFlock f.uid Flock.advance)))

/-- `s.ldk` reads the kernel-argument block: at an aligned offset below 4,096 it writes the zero-extended bytes, those past the end of the
block reading as zero, and any other offset is an argument fault (R198). On the die that holds the block the bytes are those of memory;
elsewhere they come through the remote-data cache or over the fabric, and the instruction waits while that cannot be served (R18, R396). That a
word which software writes meanwhile reads as its present value is the model's choice (R75 allows the old or the new: log entry 21), and so
is that memory that nothing has written reads as zero (log entry 9). -/
def Obligations.KernelArguments : Prop :=
  ∀ (s u v : State) (f : Flock) (d a : BitVec 6) (size : Size) (off : BitVec 9) (loc : Loc) (bs : List Byte),
    IssuesScalar s f → Readable f a → Writable f d →
    let n := sizeBytes size
    let o := (f.sreg a.toNat + BitVec.ofInt 64 (off.toInt * n)).toNat
    let rcb := (s.regionOf (s.herdOf f)).rcb
    (o % n ≠ 0 ∨ 4096 < o + n → exec (.sLdk d a size off) s = .next (s.takeTrap f.uid .scalar { cause := 0x08, addr := BitVec.ofNat 64 o })) ∧
    (o % n = 0 → o + n ≤ 4096 → rcb.klen ≤ o → exec (.sLdk d a size off) s = .next (s.setFlock (f.setS d.toNat 0).advance)) ∧
    (o % n = 0 → o + n ≤ 4096 → o < rcb.klen → s.translate (s.agentOf f) (rcb.karg + o) .read = .ok (u, loc) →
      u.readThrough (u.agentOf f) loc (min n (rcb.klen - o)) false = some (v, bs, false) →
      exec (.sLdk d a size off) s = .next (v.setFlock (f.setS d.toNat (BitVec.ofNat 64 (ofBytes bs))).advance) ∧
        (homeDie loc.pa = dieOf f.core → ofBytes bs = Memory.read u.mem loc.pa (min n (rcb.klen - o)))) ∧
    (o % n = 0 → o + n ≤ 4096 → o < rcb.klen → s.translate (s.agentOf f) (rcb.karg + o) .read = .ok (u, loc) →
      u.readThrough (u.agentOf f) loc (min n (rcb.klen - o)) false = none → exec (.sLdk d a size off) s = .next (s.waiting false))

/-- An operation begins: its destinations are emptied, its counter rises by one, and no register, predicate, stream or byte of memory
changes (R45, R93). The ids of the flock's operations lie below its next one.

The end of an operation: when every value is there and nothing of it, nor any of its replies, is on its way, the events of R45 and R339, R344, R123 and R127 write its
registers and let its counter fall; until then the event stays due. A result reaches its register with the value, sign-extended
where the operation asks, and the register is full (R45, R46, R464). -/
def Obligations.Operations : Prop :=
  (∀ (s : State) (f : Flock) (lidx n : Nat) (c : Option Counter) (ps : List Piece) (acq : Option Scope),
       s.flock? f.uid = some f → (∀ o ∈ f.ops, o.id < f.nextId) →
       let t := s.beginOp f.uid lidx c ps n acq
       t.mem = s.mem ∧ t.herds = s.herds ∧ ∃ g, t.flock? f.uid = some g ∧
         (∀ p ∈ ps, p.scalar = true → p.reg ≠ 0 → p.reg ∈ g.sEmpty) ∧ (∀ p ∈ ps, p.scalar = false → laneKey p.reg p.lane ∈ g.vEmpty) ∧
         (∀ k, g.count k = f.count k + if c = some k then 1 else 0) ∧
         g.s = f.s ∧ g.v = f.v ∧ g.q = f.q ∧ g.z = f.z ∧ g.spc = f.spc ∧ g.paths = f.paths ∧ g.queue = f.queue ∧ g.flags = f.flags) ∧
  ((∀ (s : State) (f : Flock) (o : Op) (id : Nat), s.flock? f.uid = some f → f.op? id = some o →
       let ends (i : Instr) (again : Event) : Prop :=
         (o.complete = true → (∀ r ∈ o.replies, s.onWay r = false) → exec i s = .next (s.setFlock (f.endOp o))) ∧
         (o.complete = false ∨ (∃ r ∈ o.replies, s.onWay r = true) → exec i s = .next (s.post again))
       ends (.longLatencyReturn f.uid id) (.longLatencyReturn f.uid id) ∧
       ends (.samplerResultReturn f.uid id) (.samplerResultReturn f.uid id) ∧
       ends (.treeResultReturn f.uid id) (.treeResultReturn f.uid id) ∧
       ends (.accTransferComplete f.uid id) (.accTransferComplete f.uid id) ∧
       ends (.ffStoreDelivered f.uid id) (.ffStoreDelivered f.uid id)) ∧
     (∀ (f : Flock) (p : Piece) (v : Word64) (born : Bool), p.value = some v →
       let w := match p.sext with
         | some n => BitVec.ofInt 64 (signedOf n v.toNat)
         | none => v
       let g := Flock.fill born f p
       (p.scalar = true → p.reg ≠ 0 → g.sreg p.reg = w ∧ p.reg ∉ g.sEmpty ∧ (p.poison = true → p.reg ∈ g.sPoison)) ∧
       (p.scalar = false → p.wide = false → g.vreg p.reg p.lane = (if p.high then w.extractLsb' 32 32 else w.setWidth 32) ∧
         laneKey p.reg p.lane ∉ g.vEmpty ∧ (p.poison = true → laneKey p.reg p.lane ∈ g.vPoison)) ∧
       (p.scalar = false → p.wide = true → p.lane < 1024 → g.vpair p.reg p.lane = w ∧ laneKey p.reg p.lane ∉ g.vEmpty ∧
         laneKey (p.reg + 1) p.lane ∉ g.vEmpty) ∧
       (p.poison = true → born = false → g.poisonAddr = BitVec.ofNat 64 p.addr)))

/-! ## The scalar stream: control (R201 to R212) -/

/-- A transfer whose condition holds goes to its target when that lies within the section; one whose condition fails goes on to the next
word. A taken `s.call` leaves the next index in s63, and `s.loop` always writes back its counter (R201).

A taken transfer to an index outside the section, or to a register with bits [63:26] set, is a fetch fault at the transfer itself, with
the target in TADDR and before any of its effect (R201, R446). The site of that of an `s.loop` names its counter, which a skip counts down as
for a loop not taken (R445). That TADDR holds a negative target in two's complement is the model's choice (log entry 25).

`s.cnt.wait` goes on once the counter is at or below sa, `s.nop` has no effect, and `s.yield` exchanges the flock with a ready pending
one (R209, R211). -/
def Obligations.ScalarControl : Prop :=
  (∀ (s : State) (f : Flock) (z : BitVec 3) (neg : Bool) (off : BitVec 22) (a d : BitVec 6) (imm : BitVec 14),
       IssuesScalar s f → Readable f a → Readable f d → Writable f d → Writable f 63 →
       let taken : Prop := (z = 7 ∨ f.z.getLsbD z.toNat = true) ↔ neg = false
       let next : Flock := { f with spc := f.spc + 1 }
       let goes (t : Int) : Flock := { f with spc := t.toNat }
       let inside (t : Int) : Prop := 0 ≤ t ∧ t < s.slen f
       let count := f.sreg d.toNat - 1
       (¬taken → exec (.sB z neg off) s = .next (s.setFlock next) ∧ exec (.sCall z neg off) s = .next (s.setFlock next)) ∧
       (taken → inside (f.spc + off.toInt) → exec (.sB z neg off) s = .next (s.setFlock (goes (f.spc + off.toInt))) ∧
         exec (.sCall z neg off) s = .next (s.setFlock ((goes (f.spc + off.toInt)).setS 63 (BitVec.ofNat 64 (f.spc + 1))))) ∧
       (f.sreg a.toNat ≠ 0 → exec (.sBz a imm) s = .next (s.setFlock next)) ∧
       (f.sreg a.toNat = 0 → inside (f.spc + imm.toInt) → exec (.sBz a imm) s = .next (s.setFlock (goes (f.spc + imm.toInt)))) ∧
       (count = 0 → exec (.sLoop d imm) s = .next (s.setFlock (next.setS d.toNat count))) ∧
       (count ≠ 0 → inside (f.spc + imm.toInt) → exec (.sLoop d imm) s = .next (s.setFlock ((goes (f.spc + imm.toInt)).setS d.toNat count))) ∧
       ((f.sreg a.toNat).toNat < s.slen f → (f.sreg a.toNat).toNat < 2 ^ 26 →
         exec (.sJr a) s = .next (s.setFlock (goes (f.sreg a.toNat).toNat))) ∧
       (Readable f 63 → (f.sreg 63).toNat < s.slen f → (f.sreg 63).toNat < 2 ^ 26 → exec .sRet s = .next (s.setFlock (goes (f.sreg 63).toNat)))) ∧
  (∀ (s : State) (f : Flock) (z : BitVec 3) (neg : Bool) (off : BitVec 22) (a d : BitVec 6) (imm : BitVec 14),
       IssuesScalar s f → Readable f a → Readable f d → Writable f d → Writable f 63 →
       let taken : Prop := (z = 7 ∨ f.z.getLsbD z.toNat = true) ↔ neg = false
       let outside (t : Int) : Prop := t < 0 ∨ (s.slen f : Int) ≤ t
       let traps (v : Word64) : Host.Outcome State Fault Refusal := .next (s.takeTrap f.uid .scalar { cause := 0x0A, addr := v })
       (taken → outside (f.spc + off.toInt) → exec (.sB z neg off) s = traps (BitVec.ofInt 64 (f.spc + off.toInt)) ∧
         exec (.sCall z neg off) s = traps (BitVec.ofInt 64 (f.spc + off.toInt))) ∧
       (f.sreg a.toNat = 0 → outside (f.spc + imm.toInt) → exec (.sBz a imm) s = traps (BitVec.ofInt 64 (f.spc + imm.toInt))) ∧
       (f.sreg d.toNat ≠ 1 → outside (f.spc + imm.toInt) → exec (.sLoop d imm) s =
         .next (s.takeTrap f.uid (.loop d.toNat) { cause := 0x0A, addr := BitVec.ofInt 64 (f.spc + imm.toInt) })) ∧
       (f.site = some (.loop d.toNat) → f.skip.sreg d.toNat = (if d = 0 then 0 else f.sreg d.toNat - 1) ∧ f.skip.spc = f.haltSpc + 1) ∧
       (s.slen f ≤ (f.sreg a.toNat).toNat ∨ 2 ^ 26 ≤ (f.sreg a.toNat).toNat → exec (.sJr a) s = traps (f.sreg a.toNat)) ∧
       (Readable f 63 → s.slen f ≤ (f.sreg 63).toNat ∨ 2 ^ 26 ≤ (f.sreg 63).toNat → exec .sRet s = traps (f.sreg 63))) ∧
  (∀ (s : State) (f : Flock) (c : Counter) (a : BitVec 6), IssuesScalar s f → Readable f a →
       (f.count c ≤ (f.sreg a.toNat).toNat → exec (.sCntWait c a) s = .next (s.setFlock f.advance)) ∧
       ((f.sreg a.toNat).toNat < f.count c → exec (.sCntWait c a) s = .next (s.waiting false)) ∧
       exec .sNop s = .next (s.setFlock f.advance) ∧
       exec .sYield s = .next ((s.setFlock f.advance).yieldSlot f.core f.datapath f.uid))

/-- `s.lgo` queues its block, stalls while the queue holds four, and is illegal in a handler; `s.lwait` goes on once the queue is empty and
what the blocks wrote by `v.tos` has landed (R32, R36, R202, R203, R424).

The lane stream starts its next queued block (R202): a header there sets the read mask and starts a path after it with the flock's
active lanes; an index beyond the lane section, or an instruction that is no header, is a block-header fault, and a malformed header
or `v.lstop` an illegal instruction (R440). -/
def Obligations.LaneDispatchAndStart : Prop :=
  (∀ (s : State) (f : Flock) (index : BitVec 26), IssuesScalar s f →
       let queued (u : State) (m : Word64) := u.setFlock { f with spc := f.spc + 1, queue := f.queue ++ [⟨index.toNat, m, false⟩] }
       let illegal : Host.Outcome State Fault Refusal := .next (s.takeTrap f.uid .scalar { cause := 0x01 })
       (∀ m, s.headerMask f index.toNat = .ok m →
         (f.hmode = false → f.queue = [] → exec (.sLgo index) s = .next ((queued s m).post (.laneBlockStart f.uid))) ∧
         (f.hmode = false → f.queue ≠ [] → f.queue.length < 4 → exec (.sLgo index) s = .next (queued s m))) ∧
       (f.hmode = false → 4 ≤ f.queue.length → exec (.sLgo index) s = .next (s.waiting false)) ∧
       (f.hmode = false → f.queue = [] → (∀ o ∈ f.ops, o.tos = false) → exec .sLwait s = .next (s.setFlock f.advance)) ∧
       (f.hmode = false → f.queue ≠ [] → exec .sLwait s = .next (s.waiting false)) ∧
       (f.hmode = true → exec (.sLgo index) s = illegal ∧ exec .sLwait s = illegal)) ∧
  (∀ (s u : State) (f : Flock) (e : QEntry) (rest : List QEntry) (i : Instr), s.flock? f.uid = some f → f.queue = e :: rest →
       e.running = false → f.hmode = false → s.mayIssue f = true →
       let noHeader (t : State) : Host.Outcome State Fault Refusal :=
         .next (t.takeTrap f.uid .blockStart { cause := 0x0B, addr := BitVec.ofNat 64 e.target })
       (s.llen f ≤ e.target → exec (.laneBlockStart f.uid) s = noHeader s) ∧
       (e.target < s.llen f → s.fetchLaneAt f e.target = .ok (u, i) →
         (∀ w, i = .vBlk w → exec (.laneBlockStart f.uid) s = .next (u.settleFlow { f with
           queue := ⟨e.target, w.sc ++ w.sb ++ w.sa ++ w.dest ++ w.imm, true⟩ :: rest
           paths := if f.active = 0 then [] else [Path.start f.nextId (e.target + 1) f.active 0 [] .ready]
           nextId := f.nextId + 1 })) ∧
         ((∀ w, i ≠ .vBlk w) → (∀ l w, i ≠ .reservedEncoding l w) → exec (.laneBlockStart f.uid) s = noHeader u) ∧
         (∀ l w, i = .reservedEncoding l w → exec (.laneBlockStart f.uid) s =
           if w.toNat % 256 = 2 ∨ w.toNat % 256 = 3 then .next (u.takeTrap f.uid .blockStart { cause := 0x01 }) else noHeader u)))

/-- `s.bar.init` writes the whole object, `s.bar.arrive` counts an arrival after its release and is refused while a completed phase drains,
and `s.bar.expect` adds to the bytes expected; each but the first tests the phase for completion (R205, R206). Misuse traps (R447).

`s.bar.wait` on phase p with δ := (PHASE − p) mod 2^16: for a completed phase it acquires and goes on, for the present phase it
registers and waits for the event of its completion, and for a phase ahead it is barrier misuse. A registered waiter completes when PHASE
moves past its phase: it observes the completion, acquires at the object's scope and goes on; until then its completion stays due (R205,
R207). -/
def Obligations.Barriers : Prop :=
  (∀ (s : State) (f : Flock) (zd : BitVec 3) (a b : BitVec 6) (h : Herd) (off : Nat), IssuesScalar s f → Readable f a → Readable f b →
       s.barrierAt f a = .ok (h, off) →
       let x := (f.sreg b.toNat).toNat
       let misused : Host.Outcome State Fault Refusal :=
         .next (s.takeTrap f.uid .scalar { cause := 0x0C, addr := BitVec.ofNat 64 ((f.sreg a.toNat).toNat % 2 ^ 32) })
       let arrived := h.setObj off 32 16 (h.obj off 32 16 + 1)
       let expecting := h.setObj off 64 32 (h.obj off 64 32 + x % 2 ^ 32)
       (h.obj off 48 8 = 0 → s.memReady f = true → exec (.sBarInit a b) s =
         .next ((s.setHerd (h.writeSpad off (bytesOf 32 (x % 2 ^ 16 * 2 ^ 16 + x / 2 ^ 32 % 2 ^ 32 * 2 ^ 64)))).setFlock f.advance)) ∧
       (h.obj off 48 8 ≠ 0 → exec (.sBarInit a b) s = misused) ∧
       (s.releaseReady f (barrierScope f a) = true →
         (h.obj off 128 1 = 1 → exec (.sBarArrive zd a) s = .next (s.setFlock (f.setZ zd.toNat true).advance)) ∧
         (h.obj off 128 1 = 0 → h.obj off 32 16 ≠ h.obj off 16 16 → exec (.sBarArrive zd a) s =
           .next ((s.setHerd (arrived.tryComplete off)).setFlock (f.setZ zd.toNat false).advance.fence)) ∧
         (h.obj off 128 1 = 0 → h.obj off 32 16 = h.obj off 16 16 → exec (.sBarArrive zd a) s = misused)) ∧
       (s.memReady f = true → exec (.sBarExpect a b) s = .next ((s.setHerd (expecting.tryComplete off)).setFlock f.advance))) ∧
  ((∀ (s : State) (f : Flock) (a b : BitVec 6) (h : Herd) (off : Nat), IssuesScalar s f → Readable f a → Readable f b →
       f.bar = none → s.barrierAt f a = .ok (h, off) →
       let p := (f.sreg b.toNat).toNat % 2 ^ 16
       let delta := (h.obj off 0 16 + 2 ^ 16 - p) % 2 ^ 16
       (1 ≤ delta → delta < 32768 → s.memReady f = true → f.readsReturned = true → exec (.sBarWait a b) s =
         .next ((s.applyAcquire f.core (s.herdOf f).session (barrierScope f a)).onFlock f.uid Flock.advance)) ∧
       (delta = 0 → s.memReady f = true → h.obj off 128 1 = 0 → h.obj off 48 8 ≠ 255 → exec (.sBarWait a b) s =
         .next (((s.setHerd (h.setObj off 48 8 (h.obj off 48 8 + 1))).setFlock
           { f with bar := some ⟨(f.sreg a.toNat).setWidth 32, BitVec.ofNat 16 p⟩ }).post (.barWaitComplete f.uid))) ∧
       (delta = 0 → h.obj off 128 1 = 1 ∨ h.obj off 48 8 = 255 → exec (.sBarWait a b) s = .next (s.waiting false)) ∧
       (32768 ≤ delta → exec (.sBarWait a b) s =
         .next (s.takeTrap f.uid .scalar { cause := 0x0C, addr := BitVec.ofNat 64 ((f.sreg a.toNat).toNat % 2 ^ 32) }))) ∧
     (∀ (s : State) (f : Flock) (b : BarWait) (h : Herd) (off : Nat), s.flock? f.uid = some f → f.bar = some b →
       s.spadTarget (s.herdOf f) b.addr.toNat = some (h, off) →
       let delta := (h.obj off 0 16 + 2 ^ 16 - b.phase.toNat) % 2 ^ 16
       (delta = 0 ∨ 32768 ≤ delta → exec (.barWaitComplete f.uid) s = .next (s.post (.barWaitComplete f.uid))) ∧
       (1 ≤ delta → delta < 32768 →
         let t := s.setHerd (h.observe off)
         exec (.barWaitComplete f.uid) s =
           .next ((t.applyAcquire f.core (t.herdOf f).session (if b.addr.getLsbD 21 then .cl else .hd)).onFlock f.uid
             fun g => { g.advance with bar := none }))))

/-- TryComplete and Observe (R205), on a barrier object whose 32 bytes are read as fields and written back. The last observation of a phase
clears WAITERS, OBSERVED and DRAIN, and the object so cleared is tested for completion again. -/
def Obligations.BarrierCompletion : Prop :=
  ∀ (h : Herd) (off : Nat),
    let o := h.tryComplete off
    (h.obj off 128 1 = 0 → h.obj off 32 16 = h.obj off 16 16 → h.obj off 64 32 ≤ h.obj off 96 32 →
      o.obj off 96 32 = h.obj off 96 32 - h.obj off 64 32 ∧ o.obj off 64 32 = 0 ∧ o.obj off 32 16 = 0 ∧
      o.obj off 0 16 = (h.obj off 0 16 + 1) % 2 ^ 16 ∧ o.obj off 128 1 = (if 0 < h.obj off 48 8 then 1 else 0) ∧
      o.obj off 16 16 = h.obj off 16 16 ∧ o.obj off 48 8 = h.obj off 48 8 ∧ o.obj off 56 8 = h.obj off 56 8) ∧
    (h.obj off 128 1 = 1 ∨ h.obj off 32 16 ≠ h.obj off 16 16 ∨ h.obj off 96 32 < h.obj off 64 32 → o = h) ∧
    (h.obj off 56 8 + 1 < h.obj off 48 8 → (h.observe off).obj off 56 8 = h.obj off 56 8 + 1 ∧
      (h.observe off).obj off 48 8 = h.obj off 48 8 ∧ (h.observe off).obj off 128 1 = h.obj off 128 1) ∧
    (h.obj off 56 8 + 1 = h.obj off 48 8 →
      let cleared := (((h.setObj off 56 8 (h.obj off 56 8 + 1)).setObj off 48 8 0).setObj off 56 8 0).setObj off 128 1 0
      h.observe off = cleared.tryComplete off ∧
      cleared.obj off 48 8 = 0 ∧ cleared.obj off 56 8 = 0 ∧ cleared.obj off 128 1 = 0 ∧ cleared.obj off 0 16 = h.obj off 0 16 ∧
      cleared.obj off 16 16 = h.obj off 16 16 ∧ cleared.obj off 32 16 = h.obj off 32 16 ∧ cleared.obj off 64 32 = h.obj off 64 32 ∧
      cleared.obj off 96 32 = h.obj off 96 32 ∧
      (h.observe off).obj off 48 8 = 0 ∧ (h.observe off).obj off 56 8 = 0 ∧ (h.observe off).obj off 128 1 = 0 ∧
      (h.observe off).obj off 0 16 =
        if h.obj off 32 16 = h.obj off 16 16 ∧ h.obj off 64 32 ≤ h.obj off 96 32 then (h.obj off 0 16 + 1) % 2 ^ 16 else h.obj off 0 16)

/-- `s.kget` reads an index that a flock may read and `s.kput` writes one that it may write, with its Reserved field zero; any other access
is a privileged-register access. Outside a handler FLAGS is read, and FPMODE, FLAGS and LFSRSEED are written, only while the lane queue is
empty (R158 to R161, R145, R210, R424).

What the k-registers of a flock hold (R158 to R161, R28, R420): those it reads of itself, what a write of each leaves to be read, and the
indices that trap on a write. -/
def Obligations.KRegisters : Prop :=
  (∀ (s : State) (f : Flock) (d a : BitVec 6) (k : BitVec 12), IssuesScalar s f → Readable f a → Writable f d →
       let denied : Host.Outcome State Fault Refusal := .next (s.takeTrap f.uid .scalar { cause := 0x03 })
       (∀ v, s.kread f k.toNat = some v → k ≠ 0x042 ∨ f.hmode = true ∨ f.queue = [] →
         exec (.sKget d k) s = .next (s.setFlock (f.setS d.toNat v).advance)) ∧
       (s.kread f k.toNat = none → exec (.sKget d k) s = denied) ∧
       (∀ low, kwritable k.toNat = some low → (f.sreg a.toNat).toNat < 2 ^ low → 0x100 ≤ k.toNat ∨ f.hmode = true ∨ f.queue = [] →
         exec (.sKput k a) s = .next (s.setFlock (f.kwrite k.toNat (f.sreg a.toNat)).advance)) ∧
       (∀ low, kwritable k.toNat = some low → 2 ^ low ≤ (f.sreg a.toNat).toNat → exec (.sKput k a) s = denied) ∧
       (kwritable k.toNat = none → exec (.sKput k a) s = denied)) ∧
  (∀ (s : State) (f : Flock) (v : Word64),
       s.kread f 0x000 = some (s.die (dieOf f.core)).cycle ∧ (f.recipe = none → s.kread f 0x040 = some f.fpmode) ∧ s.kread f 0x042 = some f.flags ∧
       s.kread f 0x100 = some f.tcause ∧ s.kread f 0x101 = some f.tpc ∧ s.kread f 0x102 = some f.taddr ∧ s.kread f 0x103 = some f.tinfo ∧
       s.kread f 0x104 = some f.tvec ∧ s.kread f 0x105 = some f.tret ∧ s.kread f 0x106 = some f.tscr0 ∧ s.kread f 0x107 = some f.tscr1 ∧
       (∀ k ∈ [0x040, 0x042, 0x104, 0x105, 0x106, 0x107], s.kread (f.kwrite k v) k = some v) ∧
       (f.kwrite 0x023 v).primary = (if v.setWidth 16 = (0 : BitVec 16) then 0xACE1 else v.setWidth 16) ∧ (f.kwrite 0x023 v).second = f.second ∧
       (∀ k, 0x108 ≤ k → s.kread f k = none ∧ kwritable k = none) ∧
       (∀ k ∈ [0x000, 0x001, 0x010, 0x011, 0x012, 0x020, 0x021, 0x022, 0x030, 0x031, 0x041, 0x043, 0x100, 0x101, 0x102, 0x103], kwritable k = none))

/-! ## Traps (R417 to R425, R440, R446) -/

/-- A flock takes a trap: the record is written, the handler is entered where TVEC enables it, HMODE is 0 and R417 names it as first
receiver, and otherwise the flock is held and its report falls due. Entry changes no register, predicate, FLAGS or FPMODE and leaves
the lane stream as it stands (R417, R418, R420 to R423). A registered barrier wait, whose withdrawal changes its object, is apart. -/
def Obligations.TrapTaken : Prop :=
  ∀ (s : State) (f : Flock) (site : TrapSite) (t : Trap), s.flock? f.uid = some f → f.bar = none → t.cause < 256 → (f.siteRecord site).1 ≤ 1 →
    let u := s.takeTrap f.uid site t
    let delivered : Prop := f.tvec.getLsbD 26 = true ∧ f.hmode = false ∧ (1 ≤ t.cause ∧ t.cause ≤ 4 ∨ 8 ≤ t.cause ∧ t.cause ≤ 0x15)
    ∃ g, u.flock? f.uid = some g ∧ u.herds = s.herds ∧ u.mem = s.mem ∧
      bitsAt g.tcause.toNat 0 8 = t.cause ∧ g.taddr = t.addr ∧ g.tinfo = t.info ∧ bitsAt g.tpc.toNat 0 26 = f.spc % 2 ^ 26 ∧
      bitsAt g.tcause.toNat 10 1 = (if f.hmode then 1 else 0) ∧ bitsAt g.tcause.toNat 16 8 = (if f.hmode then bitsAt f.tcause.toNat 0 8 else 0) ∧
      bitsAt g.tcause.toNat 8 1 = (if (f.siteRecord site).2.2 then 1 else 0) ∧ (f.siteRecord .scalar).2.2 = false ∧
      (∀ d, (f.siteRecord (.loop d)).2.2 = false) ∧
      (∀ p q, (f.siteRecord (.lane p q)).2.2 = true ∧ (f.siteRecord (.branch p)).2.2 = true ∧ (f.siteRecord (.callForm p)).2.2 = true) ∧
      (f.siteRecord .blockStart).2.2 = true ∧ (f.siteRecord .recipe).2.2 = true ∧ bitsAt g.tcause.toNat 12 1 = (if t.held then 1 else 0) ∧
      (delivered → u = s.setFlock g ∧ g.hmode = true ∧ g.mode = .running ∧ g.spc = bitsAt f.tvec.toNat 0 26 ∧
        g.tret = (if t.cause = 0x14 ∨ t.cause = 0x15 then 1 else 0)) ∧
      (¬delivered → u = (s.setFlock g).post (.faultRecordWrite (s.faultRecord g)) ∧ g.hmode = f.hmode ∧ g.mode = .held ∧ g.spc = f.spc ∧
        g.tret = f.tret) ∧
      g.s = f.s ∧ g.v = f.v ∧ g.q = f.q ∧ g.z = f.z ∧ g.flags = f.flags ∧ g.fpmode = f.fpmode ∧ g.queue = f.queue ∧ g.paths = f.paths ∧
      g.entries = f.entries ∧ g.ops = f.ops ∧ g.tvec = f.tvec ∧ g.tscr0 = f.tscr0 ∧ g.tscr1 = f.tscr1

/-- The instructions whose effect is a trap: `s.trap` and `v.trap` with their code, `v.brk`, a reserved word in either stream, and a run
past the end of a section (R211, R272, R440, R443, R446). A `v.trap` or `v.brk` without an executing lane retires. A trap of the lane stream
whose fault was held while the mask was unconfirmed sets HELD (R419, R420).

`s.tret` leaves handler mode: on retry the instruction issues again, on skip the stream goes on after it, and the scalar stream
resumes at the halt point; outside a handler and with the reserved action it is illegal (R425). `s.exit`, and `s.tret` with action 2, end
the flock once its counters read zero; outside a handler `s.exit` first waits as `s.lwait` does (R212, R424). -/
def Obligations.TrapInstructionsAndReturns : Prop :=
  ((∀ (s : State) (f : Flock) (code : BitVec 14) (word : BitVec 96), IssuesScalar s f →
       exec (.sTrap code) s = .next (s.takeTrap f.uid .scalar { cause := 0x14, info := code.setWidth 64 }) ∧
       exec (.reservedEncoding false word) s = .next (s.takeTrap f.uid .scalar { cause := 0x01 }) ∧
       (f.hmode = false → f.spc = s.slen f → exec (.fetchBeyondSection false) s =
         .next ((s.setFlock f).takeTrap f.uid .scalar { cause := 0x0A, addr := BitVec.ofNat 64 (s.slen f) }))) ∧
     (∀ (s : State) (f : Flock) (p : Path) (w : LaneWord) (word : BitVec 96), IssuesLane s f p → f.recipe = none →
       let traps (t : Trap) : Host.Outcome State Fault Refusal :=
         .next ((s.onFlock f.uid fun g => g.setPath { p with heldFault := none }).takeTrap f.uid (.lane p.id none)
           { t with held := decide (p.heldFault = some p.pc) })
       (execMask f p w ≠ 0 → exec (.vTrap w) s = traps { cause := 0x14, info := (w.imm.extractLsb' 0 14).setWidth 64 } ∧
         exec (.vBrk w) s = traps { cause := 0x15 }) ∧
       (execMask f p w = 0 → exec (.vTrap w) s = .next (s.setFlock (f.retire p.id)) ∧ exec (.vBrk w) s = .next (s.setFlock (f.retire p.id))) ∧
       exec (.reservedEncoding true word) s = traps { cause := 0x01 } ∧
       (p.pc = s.llen f → p.heldFault = none → exec (.fetchBeyondSection true) s =
         .next (((s.setFlock (f.setPath p)).onFlock f.uid fun g => g.setPath p).takeTrap f.uid (.lane p.id none)
           { cause := 0x0A, addr := BitVec.ofNat 64 (s.llen f) })))) ∧
  (∀ (s : State) (f : Flock), IssuesScalar s f →
       let act := bitsAt f.tret.toNat 0 2
       let illegal : Host.Outcome State Fault Refusal := .next (s.takeTrap f.uid .scalar { cause := 0x01 })
       let leaves (P : Flock → Prop) : Prop := ∃ t g, exec .sTret s = .next t ∧ t.flock? f.uid = some g ∧ t.herds = s.herds ∧ t.mem = s.mem ∧
         g.hmode = false ∧ g.mode = .running ∧ g.s = f.s ∧ g.v = f.v ∧ g.z = f.z ∧ g.flags = f.flags ∧ g.tscr0 = f.tscr0 ∧ P g
       let ended : Prop := ∃ t, t.flock? f.uid = none ∧ (exec .sExit s = .next t) ∧ (act = 2 → f.hmode = true → exec .sTret s = .next t)
       (f.hmode = true → act = 0 → leaves fun g => g.spc = f.haltSpc ∧ g.paths = f.paths ∧ g.queue = f.queue ∧ g.q = f.q ∧
         ∀ p w, f.site = some (.lane p w) → ∀ x, x ∈ g.block1 ↔ if x = p then f.tret.getLsbD 2 = true else x ∈ f.block1) ∧
       (f.hmode = true → act = 1 → f.site = some .scalar → leaves fun g => g.spc = f.haltSpc + 1 ∧ g.paths = f.paths ∧ g.queue = f.queue) ∧
       (∀ pid p, f.hmode = true → act = 1 → f.site = some (.lane pid none) → f.path? pid = some p → leaves fun g =>
         g.spc = f.haltSpc ∧ g.queue = f.queue ∧ g.q = f.q ∧ pid ∉ g.block1 ∧
           g.path? pid = some { p with pc := p.pc + 1, heldFault := none }) ∧
       (f.hmode = true → act = 1 → f.site = some .blockStart → leaves fun g => g.spc = f.haltSpc ∧ g.queue = f.queue.drop 1 ∧ g.paths = f.paths) ∧
       (f.hmode = true → act = 3 → exec .sTret s = illegal) ∧ (f.hmode = false → exec .sTret s = illegal) ∧
       (f.hmode = true → f.drained = true → ended) ∧
       (f.hmode = false → f.queue = [] → (∀ o ∈ f.ops, o.tos = false) → f.drained = true → s.enginesDone f = true → ended))

/-! ## Copies, publications and the matrix engine of the scalar stream (R279 to R281, R298, R301 to R317) -/

/-- A copy form that passes its checks is accepted: a command with its words enters the engine queue of the core, its start falls due, and
a form that lands in a scratchpad counts on S. It waits for the reads that the flock has in flight (R121), for a free entry of the engine, and
while S is full. Its registers and memory are not touched (R301 to R305, R310, R311, R317). -/
def Obligations.CopyAccepted : Prop :=
  ∀ (s u : State) (f : Flock) (d a b : BitVec 6) (r : BitVec 512) (n e : Nat), IssuesScalar s f → Readable f d → Readable f a → Readable f b →
    (∀ o ∈ f.ops, o.id < f.nextId) →
    let c := f.sreg d.toNat
    let src := (f.sreg a.toNat).toNat
    let dst := (f.sreg b.toNat).toNat
    let h := s.herdOf f
    let y := layoutOf r
    s.layoutRecord f c = .ok (u, r, n) →
    let passes (k : CopyKind) : Prop :=
      cmdOk k c = true ∧ (k = .mc → multicastOk h c dst = true) ∧ layoutOk k c r src = true ∧
      (cmdGlobal k c = true → u.checkShadowRows h.session y (cmdXform c) dst = .ok ()) ∧
      (cmdGlobal k c = false → u.checkDests k h c y dst = .ok ()) ∧ (k = .xf → u.checkSource h y (cmdXform c) src = .ok ())
    let accepts (i : Instr) (k : CopyKind) : Prop :=
      let global := cmdGlobal k c
      (passes k → (u.core f.core).freeEntry = none ∨ u.memReady f = false ∨ f.readsReturned = false ∨ (global = false ∧ 255 ≤ f.count .s) →
        exec i s = .next (s.waiting false)) ∧
      (passes k → (u.core f.core).freeEntry = some e → u.memReady f = true → f.readsReturned = true → (global = true ∨ f.count .s < 255) →
      ∃ t g cmd, exec i s = .next t ∧ t.mem = u.mem ∧ t.flock? f.uid = some g ∧ g.spc = f.spc + 1 ∧ g.point = none ∧ g.s = f.s ∧
        g.count .s = f.count .s + (if global then 0 else 1) ∧ cmd ∈ (t.core f.core).engine ∧ cmd.kind = k ∧ cmd.cmd = c ∧ cmd.src = src ∧
        cmd.dst = dst ∧ cmd.layoutRec = r ∧ cmd.entry = e ∧ cmd.row = 0 ∧ .copyTransferStart f.core cmd.id ∈ t.agenda)
    accepts (.sCp d a b) .cp ∧ accepts (.sCpMc d a b) .mc ∧ accepts (.sXf d a b) .xf ∧ accepts (.sCpG d a b) .g

/-- `s.publish`, `s.dep.dec` and `s.pseal` act once writes at system scope are performed, and wait until then (R312, R314, R315): a publication,
which also waits for the shadow writes of its window, swaps the window's tables and acquires, a decrement goes to the scheduler of the named
die, and a seal sets SEALED and COW in the page's entry and sends the page to be digested. A decrement of 0 and a page that may not be sealed
trap.

`s.qpush` (R313): the claim raises the queue's write index by one and returns its old value in the destination, by an operation without a
counter whose end is due; the claimed slot, once free, receives the
packet, as its image stood at the claim (the model's choice, log entry 80), with the parity of its turn, its header last; and when the
header is performed the doorbell rings and the instruction, a fence, completes (R69). While the queue is full and while what it needs is not
performed the instruction waits. -/
def Obligations.PublicationsAndPushes : Prop :=
  (∀ (s : State) (f : Flock) (a b : BitVec 6) (w : Window) (at_ pa e : Nat), IssuesScalar s f → Readable f a → Readable f b →
       let session := (s.herdOf f).session
       let va := (f.sreg a.toNat).toNat
       let late : Prop := s.releaseReady f .sy = false
       (s.publishTarget session va = .ok (w, at_) → late ∨ s.windowBusy session w = true → exec (.sPublish a) s = .next (s.waiting false)) ∧
       (∀ c, s.publishTarget session va = .error c → c ≠ notYet → exec (.sPublish a) s =
         .next (s.takeTrap f.uid .scalar { cause := c, addr := f.sreg a.toNat, info := 2 ^ 11 })) ∧
       ((f.sreg b.toNat).toNat % 2 ^ 16 ≠ 0 → late → exec (.sDepDec a b) s = .next (s.waiting false)) ∧
       (s.sealTarget session va = .ok (pa, e) → late → exec (.sPseal a) s = .next (s.waiting false))) ∧
  (∀ (s : State) (f : Flock) (a b : BitVec 6) (w : Window) (at_ pa e : Nat), IssuesScalar s f → Readable f a → Readable f b →
       s.releaseReady f .sy = true →
       let session := (s.herdOf f).session
       let va := (f.sreg a.toNat).toNat
       let n := (f.sreg b.toNat).toNat % 2 ^ 16
       (s.publishTarget session va = .ok (w, at_) → s.windowBusy session w = false →
         exec (.sPublish a) s = .next (((s.swapTables session (dieOf f.core) w at_).applyAcquire f.core session .sy).onFlock f.uid Flock.advance)) ∧
       (n ≠ 0 → exec (.sDepDec a b) s = .next ((s.post (.depCounterDecrement (va / 2 ^ 16 % 4) (va % 2 ^ 16) n session)).onFlock f.uid Flock.advance)) ∧
       (n = 0 → exec (.sDepDec a b) s = .next (s.takeTrap f.uid .scalar { cause := 0x02 })) ∧
       (s.sealTarget session va = .ok (pa, e) → exec (.sPseal a) s = .next ((s.sealPage session (dieOf f.core) va pa e).onFlock f.uid Flock.advance)) ∧
       (s.sealTarget session va = .error 0x0E →
         exec (.sPseal a) s = .next (s.takeTrap f.uid .scalar { cause := 0x0E, addr := f.sreg a.toNat })) ∧
       (let t := s.sealPage session (dieOf f.core) va pa e
        bitsAt (Memory.read t.mem pa 16) 108 2 = 3 ∧ .sealDigest ⟨s.nextUid, session, pa, pteFrame e, pteKey e⟩ ∈ t.agenda)) ∧
  (∀ (s u : State) (f : Flock) (d a b : BitVec 6) (loc slot : Loc) (q : QueueDesc) (image : List Byte), IssuesScalar s f →
       let key := f.claimKey
       (SMap.get? f.claims key = none → Readable f a → Readable f b → Writable f d →
         s.pushChecks f (f.sreg a.toNat).toNat (f.sreg b.toNat).toNat = .ok (u, loc, q, slot, image) →
         u.releaseReady f .sy = false ∨ u.reachNow (u.agentOf f) loc.pa = false → exec (.sQpush d a b) s = .next (s.waiting false)) ∧
       (∀ c, SMap.get? f.claims key = some c → (c.written = true → s.releaseReady f .sy = false) →
         (c.written = false → s.releaseReady f .sy = false ∨ s.reachNow (s.agentOf f) c.queue.pa = false ∨ (s.claimQueue c).free c.slot = false) →
         exec (.sQpush d a b) s = .next (s.waiting false)) ∧
       (SMap.get? f.claims key = none → Readable f a → Readable f b → Writable f d →
         s.pushChecks f (f.sreg a.toNat).toNat (f.sreg b.toNat).toNat = .ok (u, loc, q, slot, image) → u.releaseReady f .sy = true →
         u.reachNow (u.agentOf f) loc.pa = true → (∀ o ∈ f.ops, o.id < f.nextId) → (u.die (homeDie (loc.pa + 16))).live = true →
         ∃ t g, exec (.sQpush d a b) s = .next t ∧ t.flock? f.uid = some g ∧ g.spc = f.spc ∧
           SMap.get? g.claims key = some ⟨q.write, loc, slot, image, false⟩ ∧
           (∃ o ∈ g.ops, o.id = f.nextId ∧ o.counter = none ∧ o.written = false ∧
             o.pieces = [{ scalarPiece d.toNat with value := some (BitVec.ofNat 64 q.write) }]) ∧
           .longLatencyReturn f.uid f.nextId ∈ t.agenda ∧ (d ≠ 0 → d.toNat ∈ g.sEmpty) ∧
           Memory.read t.mem (loc.pa + 16) 8 = (q.write + 1) % 2 ^ 64) ∧
       (∀ c, SMap.get? f.claims key = some c → c.written = true → s.releaseReady f .sy = true →
         exec (.sQpush d a b) s = .next ((s.post (.doorbellWrite (64 * (8 * (s.herdOf f).session + (s.claimQueue c).qnum))
             (BitVec.ofNat 64 (c.slot + 1)))).onFlock f.uid
           fun g => { g.advance.fence with claims := SMap.erase g.claims g.claimKey })) ∧
       (∀ c, SMap.get? f.claims key = some c → c.written = false → s.releaseReady f .sy = true → s.reachNow (s.agentOf f) c.queue.pa = true →
         let now := s.claimQueue c
         (c.slot + 2 ^ 64 - now.read) % 2 ^ 64 < 2 ^ now.sizelog →
         exec (.sQpush d a b) s = .next ((((s.rekey c.place).storePart (s.agentOf f) { c.place with pa := c.place.pa + 8, va := c.place.va + 8 }
             (c.image.drop 8)).storePart (s.agentOf f) c.place
             (bytesOf 8 (withBits (ofBytes (c.image.take 8)) 8 1 (c.slot / 2 ^ now.sizelog % 2)))).onFlock f.uid
           fun g => { g with claims := SMap.insert g.claims g.claimKey { c with written := true } })))

/-- Reservations and leases: `s.opb.rsv` gives a record that keeps its rules the lowest free handle, `s.opb.rel` frees one that no queued
operation names, `s.mx.lease` leases the engine in a real-time paddock and gives 0 in another, and `s.mx.yield` ends the herd's lease
(R279, R281, R298). -/
def Obligations.ReservationsAndLeases : Prop :=
  ∀ (s : State) (f : Flock) (d a : BitVec 6) (k : Nat), IssuesScalar s f → Readable f a → Writable f d →
    let h := s.herdOf f
    let x := f.sreg a.toNat
    let opbFault : Host.Outcome State Fault Refusal := .next (s.takeTrap f.uid .scalar { cause := 0x0F, addr := x })
    let wrote (t : State) (v : Word64) : Host.Outcome State Fault Refusal := .next (t.setFlock (f.setS d.toNat v).advance)
    let rt := (s.paddock (s.paddockOf h.session)).desc.cls
    (recordOk x h.opbSize = true → k < 16 → SMap.get? h.rsv k = none → (∀ j, j < k → SMap.get? h.rsv j ≠ none) →
      exec (.sOpbRsv d a) s = wrote (s.setHerd { h with rsv := SMap.insert h.rsv k x }) (BitVec.ofNat 64 k)) ∧
    (recordOk x h.opbSize = false ∨ (∀ j, j < 16 → SMap.get? h.rsv j ≠ none) → exec (.sOpbRsv d a) s = opbFault) ∧
    (SMap.get? h.rsv (x.toNat % 16) ≠ none → (∀ o ∈ (s.core f.core).mxq, o.herd = h.uid → x.toNat % 16 ∉ o.handles) →
      exec (.sOpbRel a) s = .next ((s.setHerd { h with rsv := SMap.erase h.rsv (x.toNat % 16) }).setFlock f.advance)) ∧
    (SMap.get? h.rsv (x.toNat % 16) = none → exec (.sOpbRel a) s = opbFault) ∧
    (x = 0 ∨ 65536 < x.toNat → exec (.sMxLease d a) s = .next (s.takeTrap f.uid .scalar { cause := 0x02 })) ∧
    (x ≠ 0 → x.toNat ≤ 65536 → rt = false → exec (.sMxLease d a) s = wrote s 0) ∧
    (x ≠ 0 → x.toNat ≤ 65536 → rt = true → (s.core f.core).leaseReady h.uid = true →
      exec (.sMxLease d a) s = wrote (s.onCore f.core fun c => { c with lease := some (h.uid, x.toNat), leaseDebt := SMap.erase c.leaseDebt h.uid }) x) ∧
    exec .sMxYield s = .next ((s.onCore f.core fun c => c.endLease f.herd).setFlock f.advance)

/-! ## The lane stream: registers (R214 to R243) -/

/-- The arithmetic, logic, shift and count forms of R217 and R218 in every executing lane and element: exact arithmetic, saturated under
`.sat` and else cut; a shift count is the whole element of b, read as unsigned.

Bit fields, interleaving, comparison, selection and moves in every executing lane (R219 to R223). The sources of `v.bitint` take sign
modifiers as 32-bit signed values (the model's choice, log entry 26). A `v.kget` reads what the flock reads by `s.kget`, but for FPMODE, which
reads as the mode under which the instruction runs (R68); for FLAGS it waits until the flock's matrix drains have raised theirs (R145). -/
def Obligations.LaneIntegers : Prop :=
  (∀ (s : State) (f : Flock) (p : Path) (w : LaneWord), IssuesLane s f p →
       let t := intTy w.sub
       let a := elementOf f w t (srcA w t.regs t.regs)
       let b := elementOf f w t (srcB w t.regs t.regs)
       let c := elementOf f w t (srcC w t.regs t.regs)
       let lo : Int := if t.signed then -2 ^ (t.w - 1) else 0
       let hi : Int := if t.signed then 2 ^ (t.w - 1) - 1 else 2 ^ t.w - 1
       let cut (x : Int) : Nat := ((if w.sub.getLsbD 3 then max lo (min hi x) else x) % 2 ^ t.w).toNat
       let writes (i : LaneWord → Instr) (k : Nat) (P : Nat → Nat → Nat → Prop) : Prop := LaneWrites s f p w (i w) t k P
       writes .vAdd 2 (fun l j v => v = cut (t.value (a l j) + t.value (b l j))) ∧
       writes .vSub 2 (fun l j v => v = cut (t.value (a l j) - t.value (b l j))) ∧
       writes .vMul 2 (fun l j v => v = cut (t.value (a l j) * t.value (b l j))) ∧
       writes .vMad 3 (fun l j v => v = cut (t.value (a l j) * t.value (b l j) + t.value (c l j))) ∧
       writes .vMin 2 (fun l j v => v = cut (min (t.value (a l j)) (t.value (b l j)))) ∧
       writes .vMax 2 (fun l j v => v = cut (max (t.value (a l j)) (t.value (b l j)))) ∧
       writes .vAbs 1 (fun l j v => v = cut (t.value (a l j)).natAbs) ∧
       writes .vAnd 2 (fun l j v => v = a l j &&& b l j) ∧ writes .vOr 2 (fun l j v => v = a l j ||| b l j) ∧
       writes .vXor 2 (fun l j v => v = a l j ^^^ b l j) ∧ writes .vNot 1 (fun l j v => v = 2 ^ t.w - 1 - a l j) ∧
       writes .vShl 2 (fun l j v => v = if b l j < t.w then a l j * 2 ^ b l j % 2 ^ t.w else 0) ∧
       writes .vShr 2 (fun l j v => v = if b l j < t.w then a l j / 2 ^ b l j else 0) ∧
       writes .vSra 2 (fun l j v => v = (signedOf t.w (a l j) / 2 ^ min (b l j) t.w % 2 ^ t.w).toNat) ∧
       writes .vClz 1 (fun l j v => v ≤ t.w ∧ a l j < 2 ^ (t.w - v) ∧ (v < t.w → 2 ^ (t.w - 1 - v) ≤ a l j)) ∧
       writes .vPopc 1 (fun l j v => v = (List.range t.w).countP (a l j).testBit) ∧
       writes .vBrev 1 (fun l j v => ∀ n, n < t.w → v.testBit n = (a l j).testBit (t.w - 1 - n))) ∧
  (∀ (s : State) (f : Flock) (p : Path) (w : LaneWord), IssuesLane s f p →
       let t := intTy w.sub
       let i32 : IntTy := ⟨32, true⟩
       let lanes := laneList f p w
       let a := elementOf f w t (srcA w t.regs t.regs)
       let b := elementOf f w t (srcB w t.regs t.regs)
       let c := elementOf f w t (srcC w t.regs t.regs)
       let wa (l : Nat) := elementOf f w i32 (srcA w) l 0
       let wb (l : Nat) := elementOf f w i32 (srcB w) l 0
       let wc (l : Nat) := elementOf f w i32 (srcC w) l 0
       let first (x : Nat) : Nat := x % 2 ^ 8
       let size (x : Nat) : Nat := if 32 ≤ first x then 0 else min (x / 2 ^ 8 % 2 ^ 8) (32 - first x)
       let writes (i : LaneWord → Instr) (u : IntTy) (k : Nat) (P : Nat → Nat → Nat → Prop) : Prop := LaneWrites s f p w (i w) u k P
       let holds (x y : Int) : Prop := match cond w with
         | 0 => x = y | 1 => x ≠ y | 2 => x < y | 3 => x ≤ y | 4 => y < x | _ => y ≤ x
       (t.w = 32 → writes .vBfe t 2 (fun l j v => v = if size (b l j) = 0 then 0 else
         let x := a l j / 2 ^ first (b l j) % 2 ^ size (b l j)
         if t.signed then (signedOf (size (b l j)) x % 2 ^ 32).toNat else x)) ∧
       (t.w = 32 → writes .vBfi t 3 (fun l j v => ∀ n, n < 32 → v.testBit n =
         if first (c l j) ≤ n ∧ n < first (c l j) + size (c l j) then (b l j).testBit (n - first (c l j)) else (a l j).testBit n)) ∧
       (w.sub = 0 → writes .vBitint i32 2 (fun l _ v => ∀ n, n < 32 → v.testBit n = (if n % 2 = 0 then wa l else wb l).testBit (n / 2))) ∧
       (w.sub ≠ 0 → writes .vBitint i32 3 (fun l _ v => v < 2 ^ 30 ∧ ∀ n, n < 30 → v.testBit n =
         (if n % 3 = 0 then wa l else if n % 3 = 1 then wb l else wc l).testBit (n / 3))) ∧
       (32 ≤ t.w → LaneReady f p w (intSources w t 2) [] → ∃ m : LaneMask,
         (∀ l, l < 1024 → (m.has l = true ↔ l ∈ lanes ∧ holds (t.value (a l 0)) (t.value (b l 0)))) ∧
         exec (.vCmp w) s = .next (s.setFlock ((f.setQ (qDest w) (LaneMask.ofList lanes) m).retire p.id))) ∧
       writes .vSel t 2 (fun l j v => v = if (f.qbit (cond w) l = true ↔ w.imm.getLsbD 28 = false) then a l j else b l j) ∧
       writes .vMov t 1 (fun l j v => v = a l j) ∧
       (t.w ≤ 32 → writes .vMovi t 0 (fun _ j v => v = bitsAt w.imm.toNat (t.w * j) t.w)) ∧
       (t.w = 64 → writes .vMovi t 0 (fun _ _ v => v = if t.signed then (w.imm.signExtend 64).toNat else w.imm.toNat)) ∧
       writes .vLane i32 0 (fun l _ v => v = l % 2 ^ 32) ∧
       (let k := w.imm.toNat % 2 ^ 12
        let drains : Prop := ∃ o ∈ f.ops, o.counter = some .m ∧ o.written = false
        (∀ v, (if k = 0x040 then some f.fpmode else s.kread f k) = some v → LaneReady f p w [] [dst w] →
          (k ≠ 0x042 ∨ ¬drains → exec (.vKget w) s = .next (s.setFlock
            ((f.writeLanes w.dest.toNat (lanes.map fun l => (l, v.extractLsb' (if w.imm.getLsbD 12 then 32 else 0) 32))).retire p.id))) ∧
          (k = 0x042 → drains → exec (.vKget w) s = .next (s.waiting false)))))

/-- The floating-point forms of R225 to R229: each computes on every element of every executing lane in the effective context of RND (R143)
and raises the flags of all of them (R150). -/
def Obligations.LaneFloats : Prop :=
  ∀ (s : State) (f : Flock) (p : Path) (w : LaneWord), IssuesLane s f p →
    let t := floatTy w.sub
    let k := s.fpCtx f w.rnd
    let lanes := laneList f p w
    let a := floatElementOf f w t (srcA w)
    let b := floatElementOf f w t (srcB w)
    let c := floatElementOf f w t (srcC w)
    let writes (i : LaneWord → Instr) (n : Nat) (r : Nat → Nat → Nat × Flags) : Prop := FloatWrites s f p w (i w) t.width n r
    let unary (i : LaneWord → Instr) (g : Nat → Nat × Flags) : Prop := writes i 1 fun l j => g (a l j)
    let compared (l j : Nat) : Bool × Flags := t.compare k (cond w) (a l j) (b l j)
    writes .vFadd 2 (fun l j => t.add k (a l j) (b l j)) ∧ writes .vFsub 2 (fun l j => t.sub k (a l j) (b l j)) ∧
    writes .vFmul 2 (fun l j => t.mul k (a l j) (b l j)) ∧ writes .vFfma 3 (fun l j => t.fma k (a l j) (b l j) (c l j)) ∧
    writes .vFmin 2 (fun l j => t.minmax k false (a l j) (b l j)) ∧ writes .vFmax 2 (fun l j => t.minmax k true (a l j) (b l j)) ∧
    (t.width = 16 → FloatWrites s f p w (.vFdot2 w) 32 3 fun l _ =>
      t.dot2 k (a l 0 + a l 1 * 2 ^ 16) (b l 0 + b l 1 * 2 ^ 16) (floatElementOf f w fp32 (srcC w) l 0)) ∧
    unary .vFclass (fun x => (t.classify x, 0)) ∧ unary .vFrcp (t.frcp k) ∧ unary .vFrsq (t.frsq k) ∧ unary .vFsqrt (t.fsqrt k) ∧
    unary .vFexp2 (t.fexp2 k) ∧ unary .vFlog2 (t.flog2 k) ∧ unary .vFsin (t.fsin k) ∧ unary .vFcos (t.fcos k) ∧
    unary .vFfloor (t.toIntegral k .rd) ∧ unary .vFceil (t.toIntegral k .ru) ∧ unary .vFtrunc (t.toIntegral k .rz) ∧
    unary .vFrnd (t.toIntegral k k.mode) ∧ unary .vFfract (t.fract k) ∧
    (LaneReady f p w (floatSources w 2) [] → ∃ (m : LaneMask) (x : Flags),
      (∀ l, l < 1024 → (m.has l = true ↔ l ∈ lanes ∧ ∀ j, j < 32 / t.width → (compared l j).1 = true)) ∧
      (∀ n, x.getLsbD n = true ↔ ∃ l ∈ lanes, ∃ j, j < 32 / t.width ∧ (compared l j).2.getLsbD n = true) ∧
      exec (.vFcmp w) s = .next (s.setFlock (((f.setQ (qDest w) (LaneMask.ofList lanes) m).raise x).retire p.id)))

/-- Rounding (R138): the number of quanta is the exact quotient cut toward zero, or rounded up or down by sign, or to the nearest with ties
to even, and it is inexact where a part is lost. A value that a format holds rounds to its own code without a flag.

Round to a format (R138 to R140): the quantum is that of the value's binade, not below the format's least; what is delivered has the value of
the rounded number of quanta, with inexact and, for a tiny result, underflow; a rounded value above the largest finite one overflows, with the
value of R139; and a tiny result is flushed where the context asks.

The arithmetic of R225, R226, R228 and R229 on finite operands, after flush on inputs: a sum, a difference, a product, a fused multiply-add and
a dot product are the one rounding of the exact value; a minimum, a maximum and a comparison are those of the values; a reciprocal and the
roots round a bracket of the exact value that is finer than any format, and is marked where it is not exact; and an integral form delivers the
value rounded to units without a flag. The special operands of R228 give what its table says. -/
def Obligations.RoundingRules : Prop :=
  (∀ (x : Mag) (qe : Int), x.more = false → x.e < qe →
    let q := 2 ^ (qe - x.e).toNat
    (∀ mode, (quanta mode x qe).2 = true ↔ x.m % q ≠ 0) ∧
    (quanta .rz x qe).1 = x.m / q ∧
    (quanta .rd x qe).1 = (if x.neg then (x.m + q - 1) / q else x.m / q) ∧ (quanta .ru x qe).1 = (if x.neg then x.m / q else (x.m + q - 1) / q) ∧
    (∀ n, n = (quanta .ne x qe).1 →
      2 * (n * q) ≤ 2 * x.m + q ∧ 2 * x.m ≤ 2 * (n * q) + q ∧ (2 * (n * q) = 2 * x.m + q ∨ 2 * x.m = 2 * (n * q) + q → n % 2 = 0))) ∧
  (∀ (t : Fmt) (mode : Rounding) (sat : Bool) (code : Nat) (x : Mag), t ∈ [fp32, fp16, bf16, e5m2, e4m3, e3m2, e2m1] →
    code < 2 ^ t.width → t.decode code = .fin x → t.round mode false sat x = (code, 0)) ∧
  (∀ (t : Fmt) (mode : Rounding) (ftz sat : Bool) (x : Mag) (big : Mag), t ∈ [fp32, fp16, bf16, e5m2, e4m3, e3m2, e2m1] →
    x.more = false → x.m ≠ 0 → t.decode t.maxCode = .fin big →
    let low := t.emin - t.mbits
    let qe := max ((x.m.log2 : Int) + x.e - t.mbits) low
    let n := (quanta mode x qe).1
    let lost := (quanta mode x qe).2
    let units := n * 2 ^ (qe - low).toNat
    let most := big.m * 2 ^ (big.e - low).toNat
    let tiny : Prop := units < 2 ^ t.mbits
    let r := t.round mode ftz sat x
    let up : Prop := mode = .ne ∨ (mode = .rd ∧ x.neg = true) ∨ (mode = .ru ∧ x.neg = false)
    let sign := if x.neg then 2 ^ (t.width - 1) else 0
    (tiny → ftz = true → r = (sign, flagUF ||| flagNX)) ∧
    (units ≤ most → (tiny → ftz = false) → ∃ y, t.decode r.1 = .fin y ∧ y.neg = x.neg ∧ low ≤ y.e ∧ y.m * 2 ^ (y.e - low).toNat = units ∧
      r.2 = (if lost then flagNX else 0) ||| (if lost ∧ units < 2 ^ t.mbits then flagUF else 0)) ∧
    (most < units → r.2 = (flagOF ||| flagNX) ∧
      (up → sat = false → t.specials = .infAndNan → t.decode r.1 = .inf x.neg) ∧
      (up → sat = false → t.specials = .oneNan → t.isNan r.1 = true ∧ r.1 = sign + t.nanCode) ∧
      (¬up ∨ sat = true ∨ t.specials = .none → r.1 = sign + t.maxCode))) ∧
  (∀ (t : Fmt) (k : FpCtx) (a b c : Nat) (x y z : Mag), t ∈ [fp32, fp16, bf16] →
    t.decode (t.flush k.daz a) = .fin x → t.decode (t.flush k.daz b) = .fin y → t.decode (t.flush k.daz c) = .fin z →
    let rounds (r : Nat × Flags) (P : Mag → Prop) : Prop := ∃ v : Mag, v.more = false ∧ r = t.round k.mode k.ftz false v ∧ P v
    let product : Mag := ⟨x.neg ^^ y.neg, x.m * y.m, x.e + y.e, false⟩
    let e := min x.e y.e
    rounds (t.add k a b) (fun v => v.e = e ∧ v.scaled e = x.scaled e + y.scaled e) ∧
    rounds (t.sub k a b) (fun v => v.e = e ∧ v.scaled e = x.scaled e - y.scaled e) ∧
    rounds (t.mul k a b) (fun v => v = product) ∧
    (k.unfused = false → rounds (t.fma k a b c) (fun v => let u := min (x.e + y.e) z.e
      v.e = u ∧ v.scaled u = product.scaled u + z.scaled u)) ∧
    (∀ larger, let r := t.minmax k larger a b
      r.2 = 0 ∧ (r.1 = t.flush k.daz a ∨ r.1 = t.flush k.daz b) ∧
      ∀ v, t.decode r.1 = .fin v → let u := min v.e e
        if larger then x.scaled u ≤ v.scaled u ∧ y.scaled u ≤ v.scaled u else v.scaled u ≤ x.scaled u ∧ v.scaled u ≤ y.scaled u) ∧
    (∀ larger, x.m = 0 → y.m = 0 → x.neg ≠ y.neg → ∃ v, t.decode (t.minmax k larger a b).1 = .fin v ∧ v.neg = !larger) ∧
    (∀ cc, cc < 8 → (t.compare k cc a b).2 = 0 ∧ ((t.compare k cc a b).1 = true ↔ match cc with
      | 0 => x.scaled e = y.scaled e | 1 => x.scaled e ≠ y.scaled e | 2 => x.scaled e < y.scaled e | 3 => x.scaled e ≤ y.scaled e
      | 4 => y.scaled e < x.scaled e | 5 => y.scaled e ≤ x.scaled e | 6 => False | _ => True)) ∧
    (x.m ≠ 0 → ∃ v : Mag, let q := (-x.e - v.e).toNat
      t.frcp k a = t.round k.mode k.ftz false v ∧ v.neg = x.neg ∧ 2 ^ 63 ≤ v.m ∧ v.e ≤ -x.e ∧ v.m * x.m ≤ 2 ^ q ∧ 2 ^ q < (v.m + 1) * x.m ∧
      (v.more = true ↔ v.m * x.m ≠ 2 ^ q)) ∧
    (x.m ≠ 0 → x.neg = false → ∃ v : Mag, let q := x.m * 2 ^ (x.e - 2 * v.e).toNat
      t.fsqrt k a = t.round k.mode k.ftz false v ∧ v.neg = false ∧ 2 ^ 63 ≤ v.m ∧ 2 * v.e ≤ x.e ∧ v.m * v.m ≤ q ∧ q < (v.m + 1) * (v.m + 1) ∧
      (v.more = true ↔ v.m * v.m ≠ q)) ∧
    (x.m ≠ 0 → x.neg = false → ∃ v : Mag, let q := (-x.e - 2 * v.e).toNat
      t.frsq k a = t.round k.mode k.ftz false v ∧ v.neg = false ∧ 2 ^ 63 ≤ v.m ∧ 2 * v.e ≤ -x.e ∧ v.m * v.m * x.m ≤ 2 ^ q ∧
      2 ^ q < (v.m + 1) * (v.m + 1) * x.m ∧ (v.more = true ↔ v.m * v.m * x.m ≠ 2 ^ q)) ∧
    (∀ mode, ∃ v : Mag, t.decode (t.toIntegral k mode a).1 = .fin v ∧ (t.toIntegral k mode a).2 = 0 ∧ v.neg = x.neg ∧
      let low := t.emin - t.mbits
      low ≤ v.e ∧ v.m * 2 ^ (v.e - low).toNat = (quanta mode x 0).1 * 2 ^ (-low).toNat)) ∧
  (∀ (t : Fmt) (k : FpCtx) (a b c : Nat) (x y : Nat → Mag) (z : Mag), t ∈ [fp16, bf16] → k.unfused = false →
    (∀ i < 2, t.decode (t.flush k.daz (a / 2 ^ (16 * i) % 2 ^ 16)) = .fin (x i) ∧ t.decode (t.flush k.daz (b / 2 ^ (16 * i) % 2 ^ 16)) = .fin (y i)) →
    fp32.decode (fp32.flush k.daz c) = .fin z →
    let product (i : Nat) : Mag := ⟨(x i).neg ^^ (y i).neg, (x i).m * (y i).m, (x i).e + (y i).e, false⟩
    ∃ v : Mag, v.more = false ∧ t.dot2 k a b c = fp32.round k.mode k.ftz false v ∧
      let u := min v.e (min (min (product 0).e (product 1).e) z.e)
      v.scaled u = (product 0).scaled u + (product 1).scaled u + z.scaled u) ∧
  (∀ (t : Fmt) (k : FpCtx) (a : Nat) (neg : Bool), t ∈ [fp32, fp16, bf16] →
    let infinite (n : Bool) : Nat := (if n then 2 ^ (t.width - 1) else 0) + t.infCode
    let zero (n : Bool) : Nat := if n then 2 ^ (t.width - 1) else 0
    let bad : Nat × Flags := (t.nanCode, flagNV)
    (t.flush k.daz a = infinite neg →
      t.frcp k a = (zero neg, 0) ∧ t.frsq k a = (if neg then bad else (0, 0)) ∧ t.fsqrt k a = (if neg then bad else (t.infCode, 0)) ∧
      t.fexp2 k a = (if neg then 0 else t.infCode, 0) ∧ t.flog2 k a = (if neg then bad else (t.infCode, 0)) ∧ t.fsin k a = bad ∧ t.fcos k a = bad) ∧
    (t.flush k.daz a = zero neg →
      t.frcp k a = (infinite neg, flagDZ) ∧ t.frsq k a = (infinite neg, flagDZ) ∧ t.fsqrt k a = (zero neg, 0) ∧
      t.fexp2 k a = (t.bias * 2 ^ t.mbits, 0) ∧ t.flog2 k a = (infinite true, flagDZ) ∧ t.fsin k a = (zero neg, 0) ∧
      t.fcos k a = (t.bias * 2 ^ t.mbits, 0)) ∧
    (∀ x, t.decode (t.flush k.daz a) = .fin x → x.m ≠ 0 → x.neg = true → t.frsq k a = bad ∧ t.fsqrt k a = bad ∧ t.flog2 k a = bad))

/-- The conversions of R230 to R236 complete when their operands are ready: between formats, from an element, of pairs into elements, with
error feedback, to and from block floating point, and integer packing. Each writes the converted value in every executing lane, and raises
every flag that a conversion of it gives (R150). Where a conversion's destination and its residue register are one, the residue remains (the model's
choice, log entry 110). -/
def Obligations.LaneConversions : Prop :=
  (∀ (s : State) (f : Flock) (p : Path) (w : LaneWord), IssuesLane s f p →
    let k := s.fpCtx f w.rnd
    let lanes := laneList f p w
    let sf := sfmt w
    let df := dfmt w
    let sat := w.imm.getLsbD 23
    let ef := w.imm.getLsbD 22
    let word (x : Src) (l : Nat) : Nat := (f.read32 w x l).toNat
    let real (x : Src) (l : Nat) : Nat := f.fp32Source w x l
    let n := w.sub.toNat
    let completes (i : Instr) (srcs : List Src) (dsts : List Dst) (g : Flock) : Prop :=
      LaneReady f p w srcs dsts → exec i s = .next (s.setFlock (g.retire p.id))
    let writes (v : Nat → Nat × Flags) : Flock :=
      (f.writeLanes w.dest.toNat (lanes.map fun l => (l, BitVec.ofNat 32 (v l).1))).raise (unionFlags (lanes.map fun l => (v l).2))
    let values (v : Nat → Nat) : Flock := f.writeLanes w.dest.toNat (lanes.map fun l => (l, BitVec.ofNat 32 (v l)))
    let two (v base x y : Nat) : Nat := setElement (setElement base v (2 * n) x) v (2 * n + 1) y
    let kept (wide : Bool) (l : Nat) : Nat := if wide then word (srcC w) l else 0
    let sources (wide : Bool) : List Src := if wide then [srcA w, srcB w, srcC w] else [srcA w, srcB w]
    let cvt (l : Nat) : Nat × Flags := cvtValue k sf df sat (f.cvtSource w sf (srcA w (cvtRegs sf) (cvtRegs sf)) l)
    let block := if n % 2 = 1 then 32 else 16
    let blocks := (List.range (f.lanes / block)).map fun j => packBlock k (n / 2 + 2) ef
      ((lanes.filter fun l => l / block = j).map fun l => (l, real (srcA w) l, if ef then word (srcB w) l else 0))
    let packed := blocks.flatMap (·.1)
    let packs : Flock := (f.writeLanes w.dest.toNat (packed.map fun y => (y.1, BitVec.ofNat 32 y.2.1))).raise (unionFlags (blocks.map (·.2)))
    (df ≠ 14 → completes (.vCvt w) [srcA w (cvtRegs sf) (cvtRegs sf)] [dst w] (writes cvt)) ∧
    (df = 14 → completes (.vCvt w) [srcA w (cvtRegs sf) (cvtRegs sf)] [dst w 2 2]
      ((f.writePairs w.dest.toNat (lanes.map fun l => (l, BitVec.ofNat 64 (cvt l).1))).raise (unionFlags (lanes.map fun l => (cvt l).2)))) ∧
    completes (.vCvtW w) [srcA w] [dst w]
      (writes fun l => convert (fmtOf sf) fp32 k.cvt k.daz false false (bitsAt (word (srcA w) l) ((fmtOf sf).width * n) (fmtOf sf).width)) ∧
    completes (.vCvtN w) (sources (decide (2 < df))) [dst w] (writes fun l =>
      let y (x : Src) := convert fp32 (fmtOf df) k.cvt k.daz k.ftz sat (real x l)
      (two (fmtOf df).width (kept (decide (2 < df)) l) (y (srcA w)).1 (y (srcB w)).1, (y (srcA w)).2 ||| (y (srcB w)).2)) ∧
    (let r (l : Nat) := convertEf (fmtOf df) (real (srcA w) l) (word (srcB w) l)
     completes (.vCvtEf w) [srcA w, srcB w, srcC w] [dst w, ⟨w.sb, 1, 1⟩]
        ((writes fun l => (setElement (word (srcC w) l) (fmtOf df).width n (r l).1, (r l).2.2)).writeLanes w.sb.toNat
          (lanes.map fun l => (l, BitVec.ofNat 32 (r l).2.1)))) ∧
    (ef = false → completes (.vBfpPack w) [srcA w] [dst w] packs) ∧
    (ef = true → completes (.vBfpPack w) [srcA w, srcB w] [dst w, ⟨w.sb, 1, 1⟩]
      (packs.writeLanes w.sb.toNat (packed.map fun y => (y.1, BitVec.ofNat 32 y.2.2)))) ∧
    completes (.vBfpUnpack w) [srcA w] [dst w]
      (values fun l => bfpUnpack (n / 2 + 2) (bitsAt (word (srcA w) l) 8 8) (signedOf (n / 2 + 2) (word (srcA w) l))) ∧
    completes (.vPack w) (sources (decide (df < 10))) [dst w] (values fun l =>
      let y (x : Src) : Nat := narrow (intFmtOf df) sat ((intFmtOf sf).value (intModifier (intFmtOf sf) x.mod (word x l)))
      two (intFmtOf df).w (kept (decide (df < 10)) l) (y (srcA w)) (y (srcB w))) ∧
    completes (.vUnpack w) [srcA w] [dst w]
      (values fun l => (BitVec.ofInt 32 ((intFmtOf sf).value (bitsAt (word (srcA w) l) ((intFmtOf sf).w * n) (intFmtOf sf).w))).toNat)) ∧
  ∀ (xs : List Flags) (b : Nat), (unionFlags xs).getLsbD b = true ↔ ∃ x ∈ xs, x.getLsbD b = true

/-! ## The lane stream: across lanes, and memory (R237 to R259) -/

/-- The cross-lane forms of R237 to R242 in every executing lane: shuffles read the lane that their mode gives, zero beyond the flock, a
broadcast the lowest executing lane of the segment; a shuffle is shown while no mask of its flock is unconfirmed (R173), as it then issues;
votes, ballots, scans, totals and matches run over the executing lanes. A `v.tos` takes
its value at issue and marks its scalar register empty (R243), and the event of its arrival writes it (R36). -/
def Obligations.LaneCross : Prop :=
  (∀ (s : State) (f : Flock) (p : Path) (w : LaneWord), IssuesLane s f p →
    let lanes := laneList f p w
    let k := s.fpCtx f w.rnd
    let r := if w.sub.getLsbD 3 then 2 else 1
    let n := 2 ^ (w.imm.toNat % 16)
    let a := srcA w r r
    let b (l : Nat) : Nat := (f.read32 w (srcB w) l).toNat
    let inside (j : Nat) : Option Nat := if j < f.lanes then some j else none
    let here (l : Nat) : List Nat := lanes.filter fun j => j / n = l / n
    let moves (i : Instr) (v : Nat → Word64) : Prop := exec i s = .next (s.setFlock ((f.crossWrite w (lanes.map fun l => (l, v l))).retire p.id))
    let shuffles (i : Instr) (source : Nat → Nat → Nat) : Prop :=
      checkNames f [a, srcB w] [dst w r r] = .ok () → f.branches = [] → (∀ l ∈ lanes, (srcB w).emptyAt f (some l) = false ∧ (srcB w).poisonedAt f (some l) = false ∧
        a.emptyAt f (inside (source l (b l))) = false ∧ a.poisonedAt f (inside (source l (b l))) = false ∧
        (∀ i ∈ List.range r, f.vFull (w.dest.toNat + i) l = true)) →
      moves i fun l => if source l (b l) < f.lanes then f.crossRead w a (source l (b l)) else 0
    let votes : List Nat := lanes.filter fun l => f.qbit (w.imm.toNat % 16) l ^^ w.imm.getLsbD 4
    let votesFor (i : Instr) (c : Prop) : Prop := ∃ m : LaneMask, (∀ l, l < 1024 → (m.has l = true ↔ l ∈ lanes ∧ c)) ∧
      exec i s = .next (s.setFlock ((f.setQ (qDest w) (LaneMask.ofList lanes) m).retire p.id))
    let runs := (segments w f lanes).map (scanLanes k w.sub.toNat (fun l => (f.read32 w (srcA w) l).toNat) (scanIdentity w.sub.toNat))
    let scans (i : Instr) (v : List (Nat × Nat × Nat) → List (Nat × Nat)) : Prop := LaneReady f p w [srcA w] [dst w] → ∃ x : Flags,
      exec i s = .next (s.setFlock (((f.writeLanes w.dest.toNat (runs.flatMap fun y => (v y.1).map fun z => (z.1, BitVec.ofNat 32 z.2))).raise x).retire p.id))
    shuffles (.vShflIdx w) (fun l b => n * (l / n) + b % n) ∧ shuffles (.vShflUp w) (fun l b => if b ≤ l % n then l - b else l) ∧
    shuffles (.vShflDown w) (fun l b => if l % n + b < n then l + b else l) ∧
    shuffles (.vShflXor w) (fun l b => n * (l / n) + ((l % n) ^^^ (b % n))) ∧
    (checkNames f [a] [dst w r r] = .ok () → (∀ l ∈ lanes, (a.emptyAt f (some ((here l).headD l)) = false ∧
        a.poisonedAt f (some ((here l).headD l)) = false) ∧ ∀ i ∈ List.range r, f.vFull (w.dest.toNat + i) l = true) →
      moves (.vBcast w) fun l => f.crossRead w a ((here l).headD l)) ∧
    votesFor (.vVoteAll w) (votes.length = lanes.length) ∧ votesFor (.vVoteAny w) (votes ≠ []) ∧
    votesFor (.vVoteEq w) (votes = [] ∨ votes.length = lanes.length) ∧
    (LaneReady f p w [] [dst w] → exec (.vVoteBallot w) s = .next (s.setFlock
      ((f.writeLanes w.dest.toNat (lanes.map fun l => (l, (LaneMask.ofList votes).word (l / 32)))).retire p.id))) ∧
    scans (.vScan w) (fun r => r.map fun x => (x.1, if w.imm.getLsbD 4 then x.2.1 else x.2.2)) ∧
    scans (.vRed w) (fun r => r.map fun x => (x.1, (r.getLast?.map fun y => y.2.2).getD 0)) ∧
    (LaneReady f p w [a] [dst w] → exec (.vMatch w) s = .next (s.setFlock ((f.writeLanes w.dest.toNat (lanes.map fun l =>
      (l, BitVec.ofNat 32 (((here l).find? fun j => f.crossRead w a j == f.crossRead w a l).getD l)))).retire p.id))) ∧
    (let given (i : Instr) (v : Word64) : Prop := ∃ t g o, exec i s = .next t ∧ t.flock? f.uid = some g ∧ t.mem = s.mem ∧ t.herds = s.herds ∧
        g.v = f.v ∧ g.s = f.s ∧ (w.dest ≠ 192 → w.dest.toNat - 192 ∈ g.sEmpty) ∧ g.point = none ∧ o ∈ g.ops ∧ o.tos = true ∧
        o.pieces.map (fun q => (q.reg, q.value)) = [(w.dest.toNat - 192, some v)] ∧ .tosWrite f.uid o.id ∈ t.agenda
      let named : Prop := 192 ≤ w.dest.toNat ∧ f.mayName (w.dest.toNat - 192) = true ∧ f.sFull (w.dest.toNat - 192) = true
      let held (j : Nat) : Prop := a.emptyAt f (inside j) = false ∧ a.poisonedAt f (inside j) = false
      let j := w.imm.toNat % 2 ^ 11
      named →
        (a.ok f = true → (∀ l ∈ lanes.take 1, held l) →
          given (.vTosFirst w) ((lanes.head?.map (f.crossRead w a)).getD 0)) ∧
        (a.ok f = true → held j → given (.vTosLane w) (if j < f.lanes then f.crossRead w a j else 0)) ∧
        given (.vTosMask w) (((LaneMask.ofList lanes).word (w.imm.toNat % 32)).setWidth 64) ∧
        given (.vTosCount w) (BitVec.ofNat 64 lanes.length))) ∧
  (∀ (s : State) (f : Flock) (o : Op) (id : Nat), s.flock? f.uid = some f → f.op? id = some o → o.complete = true →
    (∀ r ∈ o.replies, s.onWay r = false) → exec (.tosWrite f.uid id) s = .next (s.setFlock (f.endOp o)))

/-- Global memory of the lane stream (R245 to R252, R254, R256 to R258): when every executing lane's address is aligned and translates, the
loads issue one operation on G that reads those places, the stores write the low bytes of vC there in ascending lane order, and the
atomics act at each; stores and atomics invalidate the flashback point. None is performed before an acquire of the flock is complete, or
before the accesses that precede it over a join (R109, R113, R118): until then, and while its counter is full, RLIMIT or a release holds it back,
or an access of the flock to the bytes is on its way, it waits. A prefetch brings in each lane's line in turn, and while no unit of
memory is encrypted and no key is loaded it changes no byte of it; which alignment it asks of its address is the model's choice (log entry 68).

The lowest lane whose address is misaligned or fails translation traps with that cause, its address and its number (R247, R421, R442, R452 to
R455); the copies that the lanes below it have made stay (the model's choice, log entry 61). -/
def Obligations.LaneGlobalMemory : Prop :=
  ∀ (s u v : State) (f : Flock) (p : Path) (w : LaneWord) (locs : List (Nat × Loc)), IssuesLane s f p →
    let lanes := laneList f p w
    let n := memBytes w
    let ag := u.agentOf f
    let at_ (kind : Access) (n : Nat) (index : Bool) : Prop :=
      s.checkLanes (s.agentOf f) kind n (lanes.map fun l => (l, f.globalAddr w index l)) = .ok (u, locs)
    let clear (n : Nat) : Prop := u.memReady f = true ∧ (∀ x ∈ locs, f.overlaps x.2.pa n = false) ∧ u.countRequests f locs = some v
    let fenced (t : State) : Host.Outcome State Fault Refusal := .next (t.onFlock f.uid fun g => (g.retire p.id).fence)
    let data (l : Nat) : List Byte := f.dataBytes w (srcC w) n l
    let loads (i : Instr) (acq : Option Scope) : Prop :=
      LaneReady f p w [addrPair w, srcB w] [dst w (memRegs w) (memRegs w)] → at_ .read n true → f.count .g < 255 → u.memReady f = true →
      u.readReady f = true → (∀ x ∈ locs.flatMap (fun x => loadParts w x.1 x.2), f.overlaps x.loc.pa x.piece.bytes = false) →
      u.countRequests f ((locs.flatMap fun x => loadParts w x.1 x.2).map fun x => (0, x.loc)) = some v →
      let r := v.readParts ag (acqWide acq) (locs.flatMap fun x => loadParts w x.1 x.2)
      exec i s = .next ((r.1.beginOp f.uid p.pc (some .g) r.2 0 acq).onFlock f.uid fun g => g.retire p.id)
    let waits (i : Instr) (reads : List Src) (writes : List Dst) (kind : Access) (n : Nat) (index : Bool) (late : Prop) : Prop :=
      LaneReady f p w reads writes → at_ kind n index → late → exec i s = .next (s.waiting false)
    let fails (i : Instr) (reads : List Src) (writes : List Dst) (kind : Access) (n : Nat) (index : Bool) : Prop :=
      LaneReady f p w reads writes → f.recipe = none → ∀ below l above c, lanes = below ++ l :: above →
      s.checkLanes (s.agentOf f) kind n (below.map fun l => (l, f.globalAddr w index l)) = .ok (u, locs) →
      let va := f.globalAddr w index l
      (va % n ≠ 0 ∧ c = 0x04) ∨ (va % n = 0 ∧ u.translate (s.agentOf f) va kind = .error c) →
      (c = notYet → exec i s = .next (s.waiting false)) ∧
      (c ≠ notYet → exec i s = .next ((u.onFlock f.uid fun g => g.setPath { p with heldFault := none }).takeTrap f.uid (.lane p.id none)
        { cause := c, addr := BitVec.ofNat 64 va, info := BitVec.ofNat 64 (l + kind.code * 2 ^ 11), held := decide (p.heldFault = some p.pc) }))
    let busy (n : Nat) (rel : Option Scope) : Prop := u.memReady f = false ∨ (∃ x ∈ locs, f.overlaps x.2.pa n = true) ∨
      (∃ sc, rel = some sc ∧ u.releaseReady f sc = false) ∨ u.countRequests f locs = none
    let stores (i : Instr) (rel : Option Scope) : Prop :=
      LaneReady f p w [addrPair w, srcB w, srcC w (memRegs w) (memRegs w)] [] → at_ .write n true → u.memReady f = true →
      (∀ x ∈ locs, f.overlaps x.2.pa n = false) → (∀ sc, rel = some sc → u.releaseReady f sc = true) → u.countRequests f (locs.map fun x => (0, x.2)) = some v →
      exec i s = fenced (locs.foldl (fun t x => t.storePart ag x.2 (data x.1)) v)
    let m := if w.sub = 3 then 8 else 4
    let op := atomOpOf (sfmt w)
    let ord := Machine.orderOf (cond w)
    let reqs := atomReqs op m v.ticks (f.atomLanes w locs)
    let waited : Prop := ∀ sc, relScope ord = some sc → u.releaseReady f sc = true
    loads (.vLd w) none ∧ loads (.vLdAcq w) (acqScope ord) ∧ stores (.vSt w) none ∧ stores (.vStRel w) (relScope ord) ∧
    (LaneReady f p w [addrPair w, srcB w, srcC w (memRegs w) (memRegs w)] [] → at_ .write n true → f.count .f < 255 → clear n →
      exec (.vStFf w) s = fenced ((locs.foldl (fun t x => t.ffPart ag f.uid f.nextId x.2 (data x.1)) v).beginOp f.uid p.pc (some .f) []
        (locs.countP fun x => homeDie x.2.pa ≠ ag.die) none)) ∧
    (LaneReady f p w ([addrPair w, srcB w (m / 4) (m / 4)] ++ if op = .cas then [srcC w (m / 4) (m / 4)] else []) [dst w (m / 4) (m / 4)] →
      at_ .atomic m false → f.count .g < 255 → waited → clear m →
      let r := v.atomParts ag op m (some (f.uid, f.nextId)) (fun l => lanePiece w.dest.toNat l (m = 8)) 0 reqs
      exec (.vAtom w) s = fenced (r.1.beginOp f.uid p.pc (some .g) r.2 (reqs.countP fun x => homeDie x.loc.pa ≠ ag.die) (acqScope ord))) ∧
    (LaneReady f p w [addrPair w, srcB w (m / 4) (m / 4)] [] → at_ .atomic m false → waited → clear m →
      let r := v.atomParts ag op m none (fun l => lanePiece 0 l false) 0 reqs
      exec (.vAred w) s = fenced (if r.2.any (·.poison) then r.1.tell ag.die .poisonedReduction else r.1)) ∧
    (let parts := locs.flatMap fun x => loadParts w x.1 x.2
     let late : Prop := 255 ≤ f.count .g ∨ u.memReady f = false ∨ u.readReady f = false ∨ (∃ x ∈ parts, f.overlaps x.loc.pa x.piece.bytes = true) ∨
       u.countRequests f (parts.map fun x => (0, x.loc)) = none
     let load : List Src := [addrPair w, srcB w]
     let store : List Src := [addrPair w, srcB w, srcC w (memRegs w) (memRegs w)]
     let atom : List Src := [addrPair w, srcB w (m / 4) (m / 4)] ++ if op = .cas then [srcC w (m / 4) (m / 4)] else []
     waits (.vLd w) load [dst w (memRegs w) (memRegs w)] .read n true late ∧ waits (.vLdAcq w) load [dst w (memRegs w) (memRegs w)] .read n true late ∧
     fails (.vLd w) load [dst w (memRegs w) (memRegs w)] .read n true ∧ fails (.vLdAcq w) load [dst w (memRegs w) (memRegs w)] .read n true ∧
     waits (.vStFf w) store [] .write n true (255 ≤ f.count .f ∨ busy n none) ∧
     fails (.vSt w) store [] .write n true ∧ fails (.vStRel w) store [] .write n true ∧ fails (.vStFf w) store [] .write n true ∧
     waits (.vSt w) store [] .write n true (busy n none) ∧ waits (.vStRel w) store [] .write n true (busy n (relScope ord)) ∧
     waits (.vAtom w) atom [dst w (m / 4) (m / 4)] .atomic m false (255 ≤ f.count .g ∨ busy m (relScope ord)) ∧
     fails (.vAtom w) atom [dst w (m / 4) (m / 4)] .atomic m false ∧
     waits (.vAred w) [addrPair w, srcB w (m / 4) (m / 4)] [] .atomic m false (busy m (relScope ord)) ∧
     fails (.vAred w) [addrPair w, srcB w (m / 4) (m / 4)] [] .atomic m false) ∧
    (LaneReady f p w [addrPair w, srcB w] [] →
      let lines := lanes.foldl (fun x l => x.bind fun t => t.prefetchLine (s.agentOf f) (w.sub = 0) (f.globalAddr w true l)) (some s)
      (lines = none → exec (.vPrefetch w) s = .next (s.waiting false)) ∧
      (∀ t, lines = some t → s.mayHaveSent t (s.agentOf f) = false → exec (.vPrefetch w) s = .next (s.waiting false)) ∧
      (∀ t, lines = some t → s.mayHaveSent t (s.agentOf f) = true →
        exec (.vPrefetch w) s = .next (t.onFlock f.uid fun g => g.retire p.id) ∧ t.flocks = s.flocks ∧ t.herds = s.herds ∧
        (s.memKeys = [] → (∀ d, (s.die d).keys = []) → t.mem = s.mem)))

/-- Addresses, and what a write and an atomic leave in memory at a home die that is present (R4, R72, R77, R78, R80, R82 to R84, R87, R96, R377, R452).
The walk passes four levels of entries that are present, and a leaf or an entry that is not ends it. A translation fails with cause 0x05 beyond 2^48 and for a
frame outside the module, 0x06 for a write without W and 0x07 for a key slot that is not the session's or not loaded; a write to a granule of a
copy-on-write page copies it first, and the new entry is tested in full. A misaligned access is cause 0x04. The bytes written read back, every other
byte is as it was, and an atomic of 4 or 8 bytes leaves its operation of the old value, which it returns. -/
def Obligations.MemoryPerformed : Prop :=
  (∀ (s : State) (by_ : Option Agent) (root va : Nat) (e3 e2 e1 e0 : Nat),
    let at_ (e n : Nat) : Nat := pteFrame e * 4096 + 16 * (va / 2 ^ n % 512)
    let walk := s.walkFrom by_ va 3 (root * 4096)
    let a3 := root * 4096 + 16 * (va / 2 ^ 39 % 512)
    let points (e : Nat) : Prop := pteBit e 106 = true ∧ pteSize e = 3 ∧ pointerOk e = true
    let leaf (e n : Nat) : Prop := pteBit e 106 = true ∧ pteSize e = n ∧ leafOk e = true
    let absent (e : Nat) : Prop := pteBit e 106 = false
    (∀ c, s.readEntry by_ a3 = .error c → walk = .error c) ∧
    (s.readEntry by_ a3 = .ok e3 → (absent e3 ∨ leaf e3 2 → walk = .error 0x05) ∧ (points e3 → s.readEntry by_ (at_ e3 30) = .ok e2 →
      (absent e2 ∨ leaf e2 2 → walk = .error 0x05) ∧ (points e2 → s.readEntry by_ (at_ e2 21) = .ok e1 →
        (absent e1 → walk = .error 0x05) ∧ (leaf e1 2 → walk = .ok (at_ e2 21, e1)) ∧ (points e1 → s.readEntry by_ (at_ e1 12) = .ok e0 →
          (absent e0 → walk = .error 0x05) ∧ (leaf e0 0 → walk = .ok (at_ e1 12, e0)) ∧
          (leaf e0 1 → ((∀ k, k < 16 → s.readEntry by_ (pteFrame e1 * 4096 + 16 * (va / 2 ^ 12 % 512 / 16 * 16 + k)) =
              .ok (withBits e0 0 40 (pteFrame e0 / 16 * 16 + k))) → pteFrame e0 % 16 = va / 2 ^ 12 % 16 → walk = .ok (at_ e1 12, e0)) ∧
            (pteFrame e0 % 16 ≠ va / 2 ^ 12 % 512 % 16 → ∀ r, walk ≠ .ok r))))))) ∧
  (∀ (s : State) (ag : Agent) (va n : Nat) (kind : Access), let got := s.translate ag va kind
    (2 ^ 48 ≤ va → got = .error 0x05) ∧ (va % n ≠ 0 → s.checkAccess ag va n kind = .error 0x04) ∧ (va % n = 0 → s.checkAccess ag va n kind = got) ∧
    (∀ c, va < 2 ^ 48 → s.lookup ag va = .error c → got = .error c) ∧
    (∀ u e, va < 2 ^ 48 → s.lookup ag va = .ok (u, e) →
      let may (u : State) (e : Nat) : Prop := inModule (u.locate ag.session va e).pa = true ∧ (kind = .read ∨ pteBit e 107 = true) ∧
        u.keyOk ag.session (u.locate ag.session va e).key (homeDie (u.locate ag.session va e).pa) = true
      let copies (e : Nat) : Prop := kind ≠ .read ∧ pteSize e ≠ 2 ∧ pteBit e 108 = true ∧ pteGranules e / 2 ^ (va / 256 % 16) % 2 = 0
      let loc := u.locate ag.session va e
      (inModule loc.pa = false → got = .error 0x05) ∧ (inModule loc.pa = true → kind ≠ .read → pteBit e 107 = false → got = .error 0x06) ∧
      (inModule loc.pa = true → (kind = .read ∨ pteBit e 107 = true) → u.keyOk ag.session loc.key (homeDie loc.pa) = false → got = .error 0x07) ∧
      (may u e → ¬ copies e → got = .ok (u.rekey loc, loc)) ∧
      (∀ pa v pa' e', may u e → copies e → u.walk ag.session va = .ok (pa, e) → u.copyGranule ag.session va pa e = .ok v →
        v.walk ag.session va = .ok (pa', e') → may v e' → got = .ok (v.rekey (v.locate ag.session va e'), v.locate ag.session va e')) ∧
      (∀ pa c, may u e → copies e → u.walk ag.session va = .ok (pa, e) → u.copyGranule ag.session va pa e = .error c → got = .error c) ∧
      (∀ pa e', may u e → copies e → u.walk ag.session va = .ok (pa, e') → ¬ may u e' → ∃ c, got = .error c) ∧
      (pteSize e ≠ 2 → pteGranules e / 2 ^ (va / 256 % 16) % 2 = 1 → loc.pa = pteOverlay e * 4096 + va % 4096 ∧ loc.key = u.keyslot ag.session) ∧
      (pteSize e ≠ 2 → pteGranules e / 2 ^ (va / 256 % 16) % 2 = 0 → loc.pa = pteFrame e * 4096 + va % 4096 ∧ loc.key = pteKey e) ∧
      (pteSize e = 2 → loc.pa = pteFrame e * 4096 + va % 2 ^ 21 ∧ loc.key = pteKey e))) ∧
  (∀ (s v : State) (session va pa e : Nat), let g := va / 256 % 16
    let gr := pteGranules e ||| 2 ^ g
    s.copyGranule session va pa e = .ok v → s.memKeys = [] → (∀ d, (s.die d).keys = []) → e < 2 ^ 128 → pteOverlay e ≠ 0 → pteFrame e ≠ pteOverlay e →
    pa + 16 ≤ pteOverlay e * 4096 ∨ pteOverlay e * 4096 + 4096 ≤ pa → gr ≠ 0xFFFF →
      Memory.bytes v.mem (pteOverlay e * 4096 + 256 * g) 256 = Memory.bytes s.mem (pteFrame e * 4096 + 256 * g) 256 ∧
      Memory.read v.mem pa 16 = withBits e 80 16 gr ∧ ∀ t ∈ (v.cores.flatMap fun x => x.2.tlb), t.covers (v.pasid session) va = false) ∧
  (∀ (s : State) (pa : Nat) (bs : List Byte), (s.die (homeDie pa)).live = true →
    Memory.bytes (s.performWrite pa bs).mem pa bs.length = bs ∧
    (∀ b, b < pa ∨ pa + bs.length ≤ b → Memory.byte (s.performWrite pa bs).mem b = Memory.byte s.mem b) ∧
    (s.performWrite pa bs).flocks = s.flocks ∧ (s.performWrite pa bs).herds = s.herds) ∧
  (∀ (s : State) (op : AtomOp) (n pa b cmp : Nat), (s.die (homeDie pa)).live = true → s.memPoisoned pa n = false → n = 4 ∨ n = 8 →
    b < 2 ^ (8 * n) → cmp < 2 ^ (8 * n) →
    let old := Memory.read s.mem pa n
    let signed (x : Nat) : Int := if x < 2 ^ (8 * n - 1) then x else x - 2 ^ (8 * n)
    let r := s.performAtom op n pa b cmp
    r.2 = some old ∧ (∀ c, c < pa ∨ pa + n ≤ c → Memory.byte r.1.mem c = Memory.byte s.mem c) ∧
    Memory.read r.1.mem pa n = (match op with
      | .add => (old + b) % 2 ^ (8 * n) | .and => old &&& b | .or => old ||| b | .xor => old ^^^ b | .swap => b
      | .min => if signed old ≤ signed b then old else b | .max => if signed b ≤ signed old then old else b
      | .minu => min old b | .maxu => max old b | .cas => if old = cmp then b else old)) ∧
  (∀ (s : State) (op : AtomOp) (n pa b cmp : Nat), s.memPoisoned pa n = true → s.performAtom op n pa b cmp = (s, none))

/-- Scratchpad accesses of the lane stream (R73, R253, R255): a load fills at issue the lanes that read their own herd's allotment and the
others through an operation, a store writes the low bytes of vC in ascending lane order, and an atomic's lanes act in turn. They too follow
an acquire of the flock that is incomplete (R109, R252) and an atomic its release: until then they wait. The lowest lane whose address is
misaligned, has an invalid form or lies outside the allotment that it names traps (R73, R247, R421, R442). -/
def Obligations.LaneScratchpad : Prop :=
  ∀ (s : State) (f : Flock) (p : Path) (w : LaneWord) (xs : List (Nat × Nat × Nat)), IssuesLane s f p →
    let lanes := laneList f p w
    let m := if w.sub = 3 then 8 else 4
    let op := atomOpOf (sfmt w)
    let ord := Machine.orderOf (cond w)
    let at_ (kind : Access) (n : Nat) (index : Bool) : Prop :=
      s.checkSpadLanes (s.herdOf f) kind n (lanes.map fun l => (l, f.spadAddr w index l)) = .ok xs
    let pieces (ys : List (Nat × Nat × Nat)) : List Piece := ys.flatMap fun x => s.spadPieces w x.1 x.2.1 x.2.2 (f.spadAddr w true x.1)
    let atoms := (spadOrder op s.ticks xs).foldl (fun t x =>
      let r := t.1.spadAtom w x.1 x.2.1 x.2.2 (f.spadAddr w false x.1) (f.atomValues w x.1).1 (f.atomValues w x.1).2
      (r.1, t.2 ++ [r.2])) (s, [])
    let waits (i : Instr) (reads : List Src) (writes : List Dst) (kind : Access) (n : Nat) (index : Bool) (late : Prop) : Prop :=
      LaneReady f p w reads writes → at_ kind n index → late → exec i s = .next (s.waiting false)
    let fails (i : Instr) (reads : List Src) (writes : List Dst) (kind : Access) (n : Nat) (index : Bool) : Prop :=
      LaneReady f p w reads writes → f.recipe = none → ∀ below l above c, lanes = below ++ l :: above →
      s.checkSpadLanes (s.herdOf f) kind n (below.map fun l => (l, f.spadAddr w index l)) = .ok xs →
      let a := f.spadAddr w index l
      (a % n ≠ 0 ∧ c = 0x04) ∨ (a % n = 0 ∧ c = 0x09 ∧ ∀ t off, s.spadTarget (s.herdOf f) a = some (t, off) → t.spadSize ≤ off) →
      exec i s = .next ((s.onFlock f.uid fun g => g.setPath { p with heldFault := none }).takeTrap f.uid (.lane p.id none)
        { cause := c, addr := BitVec.ofNat 64 a, info := BitVec.ofNat 64 (l + kind.code * 2 ^ 11), held := decide (p.heldFault = some p.pc) })
    let store : List Src := [srcA w, srcB w, srcC w (memRegs w) (memRegs w)]
    let atom : List Src := [srcA w, srcB w (m / 4) (m / 4)] ++ if op = .cas then [srcC w (m / 4) (m / 4)] else []
    waits (.vLdSp w) [srcA w, srcB w] [dst w (memRegs w) (memRegs w)] .read (memBytes w) true (s.memReady f = false) ∧
    waits (.vStSp w) store [] .write (memBytes w) true (s.memReady f = false) ∧
    waits (.vAtomSp w) atom [dst w (m / 4) (m / 4)] .atomic m false (match relScope ord with
      | some sc => s.releaseReady f sc = false
      | none => s.memReady f = false) ∧
    fails (.vLdSp w) [srcA w, srcB w] [dst w (memRegs w) (memRegs w)] .read (memBytes w) true ∧ fails (.vStSp w) store [] .write (memBytes w) true ∧
    fails (.vAtomSp w) atom [dst w (m / 4) (m / 4)] .atomic m false ∧
    (LaneReady f p w [srcA w, srcB w] [dst w (memRegs w) (memRegs w)] → at_ .read (memBytes w) true → s.memReady f = true →
      ∃ t, exec (.vLdSp w) s = .next t ∧ let near := s.setFlock (((pieces (xs.filter fun x => x.2.1 = f.herd)).foldl (Flock.fill false) f).retire p.id)
        ((∀ x ∈ xs, x.2.1 = f.herd) → t = near) ∧
        ((∃ x ∈ xs, x.2.1 ≠ f.herd) → t = near.beginOp f.uid p.pc none (pieces (xs.filter fun x => x.2.1 ≠ f.herd)) 0 none)) ∧
    (LaneReady f p w [srcA w, srcB w, srcC w (memRegs w) (memRegs w)] [] → at_ .write (memBytes w) true → s.memReady f = true →
      exec (.vStSp w) s = .next ((xs.foldl (fun t x => t.spadWrite x.2.1 x.2.2 (f.dataBytes w (srcC w) (memBytes w) x.1)) s).onFlock f.uid
        fun g => (g.retire p.id).fence)) ∧
    (LaneReady f p w ([srcA w, srcB w (m / 4) (m / 4)] ++ if op = .cas then [srcC w (m / 4) (m / 4)] else []) [dst w (m / 4) (m / 4)] →
      at_ .atomic m false → s.memReady f = true → (∀ sc, relScope ord = some sc → s.releaseReady f sc = true) →
      exec (.vAtomSp w) s = .next ((atoms.1.beginOp f.uid p.pc none atoms.2 0 (acqScope ord)).onFlock f.uid fun g => (g.retire p.id).fence))

/-! ## The lane stream: control, matrix and graphics (R60 to R64, R67, R260 to R300, R318 to R343) -/

/-- Branches and reconvergence (R48, R51, R261 to R265). A `v.br` whose predicate holds in all lanes of its path or in none keeps the path
whole; otherwise the path is split or joins its innermost entry. Where the predictor knows the branch, its predicted arms issue under
unconfirmed masks until the branch resolves (R53, R54). A branch that must push at depth 32 traps (R433). A `v.bru` follows the lowest lane.
A `v.br` or `v.bru` with a target outside the section traps at the transfer (R446). A `v.reconv` at its path's point arrives there, and
elsewhere is a no-operation; that a `v.reconv.w` off its point is one too is the model's choice (log entry 28). The first arrival at a
`v.reconv.w` starts its entry's time, a time of 0 ends with the first arrival unless that completes the entry, and an arrival after that
time has passed goes on alone (R52, R265). -/
def Obligations.LaneBranches : Prop :=
  ∀ (s : State) (f : Flock) (p : Path) (w : LaneWord) (atWait : Bool), IssuesLane s f p →
    let p' := { p with heldFault := none }
    let target := w.imm.toNat % 2 ^ 26
    let point := branchPoint w
    let t := execMask f p w
    let whole (pc : Nat) : State := (s.settleFlow ((f.goTo p.id p.pc).setPath { p' with pc := pc, status := .ready })).learn f p.pc p.mask t
    let inside : Prop := target < s.llen f
    let traps (c : Nat) : Host.Outcome State Fault Refusal := .next (match f.recipe with
      | none => (s.onFlock f.uid fun g => g.setPath p').takeTrap f.uid (.branch p.id) { cause := c, held := p.heldFault = some p.pc }
      | some _ => s.takeTrap f.uid .recipe { cause := 0x16 })
    let beyond (site : TrapSite) : Host.Outcome State Fault Refusal := .next (match f.recipe with
      | none => (s.onFlock f.uid fun g => g.setPath p').takeTrap f.uid site { cause := 0x0A, addr := BitVec.ofNat 64 target, held := p.heldFault = some p.pc }
      | some _ => s.takeTrap f.uid .recipe { cause := 0x16 })
    let retires : Host.Outcome State Fault Refusal := .next (s.setFlock (f.retire p.id))
    let arrives : Host.Outcome State Fault Refusal := .next (s.settleFlow ((f.goTo p.id p.pc).setPath { p' with status := .arrived }))
    let wait := f.read32 w (srcA w) 0
    let waitOk : Prop := (f.branches = [] ∨ (srcA w).mod ≠ 4 ∧ (srcA w).mod ≠ 5) ∧ 192 ≤ w.sa.toNat ∧ (srcA w).ok f = true ∧ s.pointKind f target = .ok (some false) ∧
      (srcA w).emptyAt f (some 0) = false ∧ (srcA w).poisonedAt f (some 0) = false
    (s.pointKind f point = .ok (some atWait) → inside → s.predicts f p = none →
      (t = 0 → exec (.vBr w) s = .next (whole (p.pc + 1))) ∧
      (t ≠ 0 → p.mask &&& ~~~t = 0 → exec (.vBr w) s = .next (whole target)) ∧
      (f.splitKind p t target point = .push → exec (.vBr w) s = .next
        ((s.settleFlow ((f.goTo p.id p.pc).push { p' with status := .ready } t target point)).learn f p.pc p.mask t)) ∧
      (∀ b, f.splitKind p t target point = .join b →
        let joined := s.settleFlow ((f.goTo p.id p.pc).join { p' with status := .ready } t target point b atWait)
        exec (.vBr w) s = .next ((if atWait = true then joined.joinWait f.uid point (if b then t else p.mask &&& ~~~t) else joined).learn f p.pc p.mask t))) ∧
    (∀ e, s.pointKind f point = .ok (some atWait) → inside → s.predicts f p = some e → f.splitKind p t target point ≠ .overflow →
      exec (.vBr w) s = .next ((s.setFlock ((f.goTo p.id p.pc).predict ⟨p', t, target, point, atWait⟩ (f.predicted p e))).post
        (.predicateResolution f.uid p.id))) ∧
    (¬inside → (s.pointKind f point = .ok (some atWait) → exec (.vBr w) s = beyond (.branch p.id)) ∧
      exec (.vBru w) s = beyond (.lane p.id none)) ∧
    (s.pointKind f point = .ok (some atWait) → inside → f.splitKind p t target point = .overflow → exec (.vBr w) s = traps 0x13) ∧
    (s.pointKind f point = .ok none → exec (.vBr w) s = traps 0x02) ∧
    (inside → exec (.vBru w) s = .next (s.setFlock (f.goTo p.id (if w.pred = 15 ∨ (p.mask.lanes f.lanes).head?.any t.has = true then target
      else p.pc + 1)))) ∧
    (∀ e, f.innermost p = some e → e.rpoint = p.pc → exec (.vReconv w) s = arrives) ∧
    (∀ e, f.innermost p = some e → e.rpoint ≠ p.pc → exec (.vReconv w) s = retires) ∧ (f.innermost p = none → exec (.vReconv w) s = retires) ∧
    (waitOk → f.innermost p = none → exec (.vReconvW w) s = retires) ∧
    (∀ e, waitOk → f.innermost p = some e → e.timedOut ≠ some p.pc → e.rpoint ≠ p.pc → exec (.vReconvW w) s = retires) ∧
    (∀ e, waitOk → f.innermost p = some e → e.timedOut = some p.pc →
      exec (.vReconvW w) s = .next (s.setFlock ((f.setQ (qDest w) p.mask p.mask).retire p.id))) ∧
    (∀ e, waitOk → f.innermost p = some e → e.timedOut = none → e.rpoint = p.pc → e.timer = none → wait ≠ 0 →
      let e' := { e with timer := some ((s.die (dieOf f.core)).cycle + wait.setWidth 64, target, qDest w) }
      let g := (f.goTo p.id p.pc).setPath { p' with status := .arrived }
      let g := { g with entries := g.entries.map fun x => if x.id = e.id then e' else x }
      exec (.vReconvW w) s = .next (if g.entryComplete e' then s.settleFlow g else (s.settleFlow g).post (.reconvTimeout f.uid e.id))) ∧
    (∀ e, waitOk → f.innermost p = some e → e.timedOut = none → e.rpoint = p.pc → e.timer = none → wait = 0 →
      let e' := { e with timer := some ((s.die (dieOf f.core)).cycle, target, qDest w) }
      let g := (f.goTo p.id p.pc).setPath { p' with status := .arrived }
      let g := { g with entries := g.entries.map fun x => if x.id = e.id then e' else x }
      exec (.vReconvW w) s = .next (s.settleFlow (if g.entryComplete e' then g else g.timeOut e.id p.pc target (qDest w)))) ∧
    (∀ e at_ fb qd, waitOk → f.innermost p = some e → e.timedOut = none → e.rpoint = p.pc → e.timer = some (at_, fb, qd) →
      (at_ < (s.die (dieOf f.core)).cycle → exec (.vReconvW w) s = .next (s.settleFlow
        (((f.timeOut e.id p.pc target (qDest w)).setQ (qDest w) p.mask p.mask).retire p.id))) ∧
      ((s.die (dieOf f.core)).cycle ≤ at_ → exec (.vReconvW w) s =
        let g := (f.goTo p.id p.pc).setPath { p' with status := .arrived }
        .next (s.settleFlow { g with entries := g.entries.map fun x => if x.id = e.id then e else x })))

/-- How paths split, meet and end (R48 to R51, R264). A push opens an entry with the path's lanes as members and leaves two paths whose
masks part those lanes, at the target and at the next index, in the order of the LFSR; the arms of the outermost entry both issue, those
of a nested one run one after the other under the LFSR of their top arm; lanes that end leave Active, their path and every open entry; an
entry whose members have all arrived, in however many paths, is popped, and one path goes on after its point with them, with the predicate
of a timed wait clear; and the second of two nested arms starts once every other path of its entry stands at the entry's point or at the
block's end. -/
def Obligations.Divergence : Prop :=
  (∀ (f : Flock) (p : Path) (t : LaneMask) (target point : Nat), p.entries = [] → f.paths = [p] →
    let bit := f.primary.getLsbD 15 ^^ f.primary.getLsbD 13 ^^ f.primary.getLsbD 12 ^^ f.primary.getLsbD 10
    let g := f.push p t target point
    let taken : Nat × LaneMask := (target, t)
    let fall : Nat × LaneMask := (p.pc + 1, p.mask &&& ~~~t)
    g.primary = (f.primary <<< 1) ||| (BitVec.ofBool bit).setWidth 16 ∧
    g.entries.map (fun e => (e.rpoint, e.members, e.outermost)) = (point, p.mask, true) :: f.entries.map (fun e => (e.rpoint, e.members, e.outermost))
      ∧ g.paths.map (fun q => (q.pc, q.mask)) = (if bit then [taken, fall] else [fall, taken]) ∧ g.paths.map (·.arm) = [0, 1] ∧
    ∀ q ∈ g.paths, q.status = .ready ∧ q.entries.length = 1) ∧
  (∀ (f : Flock) (ls : LaneMask), (f.exitLanes ls).active = f.active &&& ~~~ls ∧ (f.exitLanes ls).paths.map (·.mask) = f.paths.map (fun p => p.mask &&& ~~~ls) ∧
    (f.exitLanes ls).entries.map (·.members) = f.entries.map fun e => e.members &&& ~~~ls) ∧
  (∀ (f : Flock) (e : Entry) (p q : Path), f.paths = [p, q] → p.status = .arrived → q.status = .arrived → p.entries = [e.id] → q.entries = [e.id] →
    e.members = p.mask ||| q.mask → e.members ≠ 0 → f.entryComplete e = true ∧
    (f.pop e).paths.map (fun x => (x.pc, x.mask, x.status, x.entries)) = [(e.rpoint + 1, e.members, .ready, [])]) ∧
  (∀ (f : Flock) (p : Path) (t : LaneMask) (target point : Nat), p.entries ≠ [] →
    let own := if p.arm = 0 then f.primary else f.second
    let bit := own.getLsbD 15 ^^ own.getLsbD 13 ^^ own.getLsbD 12 ^^ own.getLsbD 10
    let stepped := (own <<< 1) ||| (BitVec.ofBool bit).setWidth 16
    let g := f.push p t target point
    g.primary = (if p.arm = 0 then stepped else f.primary) ∧ g.second = (if p.arm = 0 then f.second else stepped) ∧
    ∃ e one two, g.entries = e :: f.entries ∧ (e.rpoint, e.members, e.arm, e.outermost, e.timer, e.timedOut) = (point, p.mask, p.arm, false, none, none) ∧
      g.paths = one :: two :: f.paths.filter (fun x => x.id ≠ p.id) ∧ one.entries = e.id :: p.entries ∧ two.entries = e.id :: p.entries ∧
      (one.arm, two.arm, one.status, two.status) = (p.arm, p.arm, .ready, .pending) ∧ one.guess = none ∧ two.guess = none ∧
      ((one.pc, one.mask), (two.pc, two.mask)) =
        if bit then ((target, t), (p.pc + 1, p.mask &&& ~~~t)) else ((p.pc + 1, p.mask &&& ~~~t), (target, t))) ∧
  (∀ (f : Flock) (e : Entry), f.entryComplete e = true ↔ e.members ≠ 0 ∧ ∀ l, e.members.has l =
    f.paths.any fun p => decide (p.status = .arrived ∧ p.entries.head? = some e.id) && p.mask.has l) ∧
  (∀ (f : Flock) (e : Entry) (p : Path) (rest : List Path), f.arrivedAt e.id = p :: rest →
    let g := f.pop e
    g.paths = { p with pc := e.rpoint + 1, mask := e.members, arm := if e.outermost then 0 else e.arm, entries := p.entries.drop 1, status := .ready } ::
      f.paths.filter (fun x => !decide (x.status = .arrived ∧ x.entries.head? = some e.id)) ∧
    g.entries = f.entries.filter (fun x => x.id ≠ e.id) ∧ g.second = (if e.outermost then 0 else f.second) ∧ g.primary = f.primary ∧
    g.active = f.active ∧ g.v = f.v ∧ g.s = f.s ∧ g.q = (match e.timer with
      | some (_, _, qd) => (f.setQ qd e.members 0).q
      | none => f.q)) ∧
  (∀ (f : Flock) (q : Path) (e : Nat), (∀ x ∈ f.paths, x.mask ≠ 0) → (∀ x ∈ f.entries, x.members ≠ 0 ∧ f.entryComplete x = false) → q ∈ f.paths →
    q.status = .pending → q.entries.head? = some e →
    let over_ : Prop := ∀ x ∈ f.paths, x.id = q.id ∨ e ∉ x.entries ∨ x.status = .stopped ∨ x.status = .arrived ∧ x.entries.head? = some e
    (over_ → { q with status := .ready } ∈ f.settleOnce.paths) ∧ (¬over_ → q ∈ f.settleOnce.paths))

/-- Issue under an unconfirmed mask, squash and replay (R54 to R57, R93, R419). At most 32 instructions issue there; register forms run and
leave FLAGS as it was; what cannot be held waits; the effect of a store is held with the registers that it read, and a load after it, like
an atomic or a lane's end, ends the arm's issue until the branch resolves, as a fault does, which is held. A squash gives lanes back their
registers and predicates and withdraws their loads; a replay issues what an arm issued, in program order, for the lanes that need it, and
again for all lanes what has read too early (R117); and a trap from a held fault says so. Which instructions beside those of R55 wait or
are held is the model's choice (log entry 6). -/
def Obligations.UnconfirmedIssue : Prop :=
  (∀ (s : State) (f : Flock) (p : Path) (w : LaneWord) (u : Guess), s.cur = some ⟨f.uid, some p.id⟩ → s.flock? f.uid = some f →
    f.path? p.id = some p → p.guess = some u →
    let t := intTy w.sub
    let held : Host.Outcome State Fault Refusal := .next (s.setFlock (f.stall p true))
    let answers (i : Instr) (r : State) : Prop := (∃ e, exec i s = .next (s.waiting e)) ∨
      (∃ k : State, exec i s = .next (k.setFlock (f.stall p true))) ∨ exec i s = .next r
    (∀ i ∈ [Instr.vShflIdx w, .vShflUp w, .vShflDown w, .vShflXor w, .vBcast w, .vVoteAll w, .vVoteAny w, .vVoteEq w, .vVoteBallot w, .vScan w,
      .vRed w, .vMatch w, .vMxLds w, .vMxSwap w, .vMxMmaRf w, .vMxMmaOpb w, .vAccLd w, .vAccMov w, .vAccZero w, .vAccDrain w, .vAccDrainG w, .vOpbPut w,
      .vRast w, .vRegroup w, .vBr w, .vBfpPack w, .vNopMarker w, .vLstop w], exec i s = .next (s.waiting false)) ∧
    (32 ≤ u.log.length → ∀ i ∈ [Instr.vAdd w, .vFadd w, .vMov w, .vLd w, .vLdSp w, .vSt w, .vStSp w, .vAtom w, .vTosMask w, .vTrap w, .vNop w],
      exec i s = .next (s.waiting false)) ∧
    (u.log.length < 32 →
      (∀ i ∈ [Instr.vSt w, .vStRel w, .vStFf w, .vStSp w, .vAred w], answers i (s.setFlock (f.hold p u))) ∧
      (u.holdsStore = true → ∀ i ∈ [Instr.vLd w, .vLdAcq w, .vLdSp w], answers i (s.setFlock (f.stall p false))) ∧
      (∀ i ∈ [Instr.vAtom w, .vAtomSp w, .vTosMask w, .vTosCount w, .vTosFirst w, .vTosLane w, .vExit w, .vKill w],
        answers i (s.setFlock (f.stall p false))) ∧
      (execMask f p w ≠ 0 → exec (.vTrap w) s = held ∧ exec (.vBrk w) s = held) ∧
      (LaneReady f p w (intSources w t 2) [dst w t.regs t.regs] → ∀ i ∈ [Instr.vAdd w, .vSub w, .vMul w, .vAnd w, .vOr w, .vXor w],
        ∃ v : Nat → Nat, exec i s = .next ((s.setFlock ((f.intWrite t w.dest.toNat ((laneList f p w).map fun l => (l, v l))).retire p.id)).onFlock
          f.uid fun g => f.issued g p u [] .runs)))) ∧
  (∀ (f g : Flock) (p : Path) (u : Guess) (flags : List (Nat × Word64)) (kind : Holding), let h := f.issued g p u flags kind
    h.flags = f.flags ∧ h.v = g.v ∧ h.q = g.q ∧ ∀ x ∈ h.paths, x.id = p.id → ∃ i, x.guess = some { u with log := u.log ++ [i] } ∧
      (i.pc, i.held, i.flags, i.firstOp, i.nextOp, i.q) = (p.pc, none, flags, f.nextId, g.nextId, f.q) ∧
      ∀ k, p.mask.has (k % 1024) = true → SMap.get f.v 0 k ≠ SMap.get g.v 0 k →
        SMap.get? i.undo k = some ⟨SMap.get f.v 0 k, f.vPoison.contains k, f.vBorn.contains k⟩) ∧
  (∀ (f : Flock) (log : List Issued) (m : LaneMask), let g := f.unissue log m
    g.flags = f.flags ∧ g.s = f.s ∧ (∀ k, m.has (k % 1024) = false → SMap.get g.v 0 k = SMap.get f.v 0 k) ∧
    (∀ i rest k x, log = i :: rest → i.undo = [(k, x)] → m.has (k % 1024) = true →
      SMap.get g.v 0 k = x.value ∧ k ∉ g.vEmpty ∧ (k ∈ g.vPoison ↔ x.poison = true) ∧ (k ∈ g.vBorn ↔ x.born = true)) ∧
    (∀ i rest n l, log = i :: rest → n < f.q.length →
      (g.q.getD n 0).has l = if m.has l then (i.q.getD n 0).has l else (f.q.getD n 0).has l) ∧
    (∀ o ∈ g.ops, ∀ i ∈ log, i.firstOp ≤ o.id → o.id < i.nextOp → ∀ x ∈ o.pieces, x.scalar = true ∨ m.has x.lane = false) ∧
    (∀ o, ∀ i ∈ log, f.ops = [o] → i.firstOp ≤ o.id → o.id < i.nextOp → o.pieces ≠ [] →
      (∀ x ∈ o.pieces, x.scalar = false ∧ m.has x.lane = true) → g.ops = [])) ∧
  (∀ (p : Path) (log : List Issued) (side : LaneMask), let new := side &&& ~~~p.mask
    (redoList p side log).map (·.pc) = (log.filter fun i => i.held.isSome || new != 0).map (·.pc) ∧
    ∀ r ∈ redoList p side log, r.from_ = side &&& p.mask ∧ r.rest ≠ [] ∧ (r.held = none → r.lanes = new) ∧ (r.held ≠ none → r.lanes = side)) ∧
  (∀ (s : State) (f : Flock) (p : Path) (w : LaneWord) (r : Redo) (rest : List Redo), s.cur = some ⟨f.uid, some p.id⟩ → s.flock? f.uid = some f →
    f.path? p.id = some p → p.guess = none → p.redo = r :: rest → r.held = none →
    let t := intTy w.sub
    let lanes := laneList f { p with mask := r.lanes } w
    LaneReady f { p with mask := r.lanes } w (intSources w t 2) [dst w t.regs t.regs] →
    (∀ i ∈ [Instr.vAdd w, .vSub w, .vMul w, .vAnd w, .vOr w, .vXor w], ∃ v : Nat → Nat, exec i s = .next (((s.setFlock
      ((f.intWrite t w.dest.toNat (lanes.map fun l => (l, v l))).retire p.id)).onFlock f.uid fun h => h.swapOut f p r).progressOf f.uid r.rest)) ∧
    ∀ (g : Flock), ∀ x ∈ (g.swapOut f p r).paths, x.id = p.id →
      let early := r.tooEarly (g.readsFrom f.nextId)
      x.redo = (rest.filter fun y => early.length < y.rest.length) ∧
      x.pc = (x.redo.head?.map (·.pc)).getD ((early.head?.map (·.pc)).getD p.after) ∧
      (early = [] → (∀ y ∈ rest, y.rest ≠ []) → x.redo = rest)) ∧
  (∀ (s : State) (f : Flock) (p : Path) (w : LaneWord), IssuesLane s f p → f.recipe = none → p.heldFault = some p.pc → execMask f p w ≠ 0 →
    exec (.vBrk w) s = .next ((s.onFlock f.uid fun g => g.setPath { p with heldFault := none }).takeTrap f.uid (.lane p.id none)
      { cause := 0x15, held := true })) ∧
  ∀ (f : Flock) (p : Path) (wait : Option (Nat × Nat)) (t : Trap), f.path? p.id = some p → p.arm < 2 → t.cause < 2 ^ 8 →
    (f.record (.lane p.id wait) t).tcause.getLsbD 12 = t.held

/-- The system forms of the lane stream, the end of a block, and lanes that end (R67, R260, R271, R272, R435): `v.nop` and a header issued on
a path do nothing else; a marker on the one path that executes records a point where its recipe entry is good, and none where it is not;
`v.lstop` stops its path, and the block retires once every path has; `v.exit` and `v.kill` end the executing lanes. Lanes of a call flock
return at a `v.lstop` once their results are full, and those that end there end in their callers too (R268); both wait until what the call
flock has accessed precedes what its callers do next (R118). That a recipe entry which cannot be read is none, and that a path is alone in the
way of `Flock.alone`, is the model's choice (log entry 27). -/
def Obligations.LaneBlocksAndExits : Prop :=
  ∀ (s : State) (f : Flock) (p : Path) (w : LaneWord), IssuesLane s f p →
    let retires (g : Flock → Flock) : Host.Outcome State Fault Refusal := .next (s.setFlock (g (f.retire p.id)))
    let stopped := (f.goTo p.id p.pc).setPath { p with status := .stopped }
    let returned (t : State) : State := match t.flock? f.uid with
      | none => t
      | some g => t.settleFlow g.fence
    let pointOf (e : RecipeEntry) : FlashPoint :=
      ⟨p.pc, e.live, e.liveQ, e.first, e.count, p.mask, f.entries.length, f.primary, f.second, f.fpmode, f.last, f.nextId⟩
    exec (.vNop w) s = retires id ∧ exec (.vBlk w) s = retires id ∧
    (f.alone p.id = true → s.recipeEntry f w.imm.toNat = .ok none → exec (.vNopMarker w) s = retires fun g => { g with point := none }) ∧
    (∀ e, f.alone p.id = true → s.recipeEntry f w.imm.toNat = .ok (some e) → exec (.vNopMarker w) s = retires fun g => { g with point := some (pointOf e) }) ∧
    (∀ x, f.alone p.id = false → s.recipeEntry f w.imm.toNat = .ok x → exec (.vNopMarker w) s = retires id) ∧
    (f.call = none → exec (.vLstop w) s = .next (s.settleFlow stopped)) ∧
    (∀ e rest, f.call = none → f.queue = e :: rest → e.running = true → f.paths = [p] → f.entries = [] → p.mask ≠ 0 → ∃ t g,
      exec (.vLstop w) s = .next t ∧ t.flock? f.uid = some g ∧ g.queue = rest ∧ g.paths = [] ∧ g.active = p.mask ||| f.parked ∧ g.parked = 0 ∧
      (rest ≠ [] → .laneBlockStart f.uid ∈ t.agenda)) ∧
    (f.call ≠ none → f.resultsFull p = true → s.handsOver f = true → exec (.vLstop w) s = .next (returned (s.returnLanes f.uid p.mask true))) ∧
    (f.call ≠ none → f.resultsFull p = false → exec (.vLstop w) s = .next (s.waiting true)) ∧
    (f.call ≠ none → s.handsOver f = false → (f.resultsFull p = true → exec (.vLstop w) s = .next (s.waiting false)) ∧
      exec (.vExit w) s = .next (s.waiting false) ∧ exec (.vKill w) s = .next (s.waiting false)) ∧
    (f.call = none → exec (.vExit w) s = .next (s.settleFlow ((f.retire p.id).fence.exitLanes (execMask f p w)))) ∧
    (f.call = none → exec (.vKill w) s = .next (s.settleFlow
      ({ (f.retire p.id).fence with killed := f.killed ||| execMask f p w }.exitLanes (execMask f p w)))) ∧
    (∀ xs, f.call = some xs → s.handsOver f = true →
      let fenced := (f.retire p.id).fence
      let callers (t : State) : State := (xs.filter fun x => (execMask f p w).has x.lane).foldl (fun t x => t.onFlock x.flock fun c =>
        { c with killed := c.killed ||| LaneMask.single x.callerLane }) t
      let gone (t : State) : State := match t.flock? f.uid with
        | none => t
        | some g => t.settleFlow g
      exec (.vExit w) s = .next (gone ((s.setFlock fenced).returnLanes f.uid (execMask f p w) false)) ∧
      exec (.vKill w) s = .next (gone ((callers (s.setFlock { fenced with killed := f.killed ||| execMask f p w })).returnLanes f.uid
        (execMask f p w) false)))

/-- Regrouping (R60 to R63, R266 to R270): a `v.call.rg` whose fields keep their limits hands its path's lanes with their keys to the
collection of its call site, a `v.ret.rg` of a call flock whose results are full returns its lanes, and a `v.regroup` moves the named
registers of its path's lanes into key order. A call and a return wait until the flock's accesses precede those of the other side: its
reads have returned, its acquires are complete and its packets have entered the fabric (R118). Each form waits while a register that it moves
is empty; a call within a call flock or with a field outside its limits, and a return outside a call flock, is an illegal operand, and a call of
a target beyond the section is a fetch fault (R266, R446). -/
def Obligations.Regrouping : Prop :=
  ∀ (s : State) (f : Flock) (p : Path) (w : LaneWord), IssuesLane s f p →
    let b := w.dest.toNat
    let n := w.sb.toNat
    let r := w.sc.toNat
    let creg := w.imm.toNat / 2 ^ 26 % 2 ^ 6
    let lanes := p.mask.lanes f.lanes
    let key (l : Nat) : Nat := (f.read32 w (srcA w) l).toNat % 2 ^ 16
    let full : Prop := (f.branches = [] ∨ (srcA w).mod ≠ 4 ∧ (srcA w).mod ≠ 5) ∧ ∀ l ∈ lanes, (srcA w).emptyAt f (laneRead w f.lanes (srcA w).mod l) = false ∧
      (srcA w).poisonedAt f (laneRead w f.lanes (srcA w).mod l) = false ∧ ∀ i ∈ List.range n, f.vFull (b + i) l = true
    let someEmpty : Prop := (f.branches = [] ∨ (srcA w).mod ≠ 4 ∧ (srcA w).mod ≠ 5) ∧ (srcA w).trapping f p w = false ∧
      ∃ l ∈ lanes, (srcA w).emptyAt f (laneRead w f.lanes (srcA w).mod l) = true ∨ ∃ i ∈ List.range n, f.vFull (b + i) l = false
    let fields : Prop := f.call = none ∧ 1 ≤ n ∧ n ≤ 32 ∧ r ≤ n ∧ b + n ≤ f.regs ∧ 1 ≤ creg ∧ creg ≤ 24 ∧ n ≤ 8 * creg
    let traps (site : TrapSite) (t : Trap) : Host.Outcome State Fault Refusal := .next (s.laneTrap f p site t)
    (f.call = none → 1 ≤ n → n ≤ 32 → r ≤ n → b + n ≤ f.regs → 1 ≤ creg → creg ≤ 24 → n ≤ 8 * creg → (srcA w).ok f = true → full →
      w.imm.toNat % 2 ^ 26 < s.llen f → s.handsOver f = true → ∃ t c a, exec (.vCallRg w) s = .next t ∧ c ∈ (t.core f.core).collections ∧ c.site = p.pc ∧
        c.herd = f.herd ∧ c.closed = false ∧ a ∈ c.arrivals ∧ a.flock = f.uid ∧ a.path = p.id ∧ a.keys.map (·.1) = lanes ∧
        (∀ x ∈ a.keys, x.2.toNat = key x.1) ∧ a.target = w.imm.toNat % 2 ^ 26) ∧
    (fields → (srcA w).ok f = true →
      (someEmpty → exec (.vCallRg w) s = .next (s.waiting true)) ∧
      (full → s.llen f ≤ w.imm.toNat % 2 ^ 26 → exec (.vCallRg w) s = traps (.callForm p.id) { cause := 0x0A, addr := BitVec.ofNat 64 (w.imm.toNat % 2 ^ 26) }) ∧
      (full → w.imm.toNat % 2 ^ 26 < s.llen f → s.handsOver f = false → exec (.vCallRg w) s = .next (s.waiting false))) ∧
    (¬fields → exec (.vCallRg w) s = traps (.callForm p.id) { cause := 0x02 }) ∧
    (f.call = none → exec (.vRetRg w) s = traps (.lane p.id none) { cause := 0x02 }) ∧
    (f.call ≠ none → f.resultsFull p = false → exec (.vRetRg w) s = .next (s.waiting true)) ∧
    (f.call ≠ none → f.resultsFull p = true → s.handsOver f = false → exec (.vRetRg w) s = .next (s.waiting false)) ∧
    (¬(1 ≤ n ∧ n ≤ 32) → exec (.vRegroup w) s = traps (.lane p.id none) { cause := 0x02 }) ∧
    (1 ≤ n → n ≤ 32 → checkNames f [srcA w] [⟨w.dest, n, 1⟩] = .ok () → someEmpty → exec (.vRegroup w) s = .next (s.waiting true)) ∧
    (f.call ≠ none → f.resultsFull p = true → s.handsOver f = true →
      let t := s.returnLanes f.uid p.mask true
      ∃ u, exec (.vRetRg w) s = .next u ∧ (∀ g, t.flock? f.uid = some g → u = t.settleFlow g.fence) ∧
        ∀ c, u.flock? f.uid = some c → c.point = none) ∧
    (1 ≤ n → n ≤ 32 → checkNames f [srcA w] [⟨w.dest, n, 1⟩] = .ok () → full → ∃ order : List Nat, order.Perm lanes ∧
      order.Pairwise (fun x y => key x < key y ∨ key x = key y ∧ x < y) ∧ ∃ g, exec (.vRegroup w) s = .next (s.setFlock g) ∧ g.point = none ∧
        g.s = f.s ∧ g.q = f.q ∧ (∀ x ∈ order.zip lanes, ∀ i, i < n → x.2 < 1024 → f.lanes ≤ 1024 → g.vreg (b + i) x.2 = f.vreg (b + i) x.1))

/-- The matrix class (R282 to R295): an instruction that passes its checks, on an engine that has started and with room in its context's
queue, leaves its operations at the end of the core's queue, each due; accumulator transfers and drains count on M, a plane load names the
shadow format and a swap exchanges the formats. No register, no tile and no byte of memory changes before an operation is performed. -/
def Obligations.MatrixInstructions : Prop :=
  ∀ (s : State) (f : Flock) (p : Path) (w : LaneWord) (r : Word64) (locs : List (Nat × List Loc)), IssuesLane s f p →
    (∀ o ∈ f.ops, o.id < f.nextId) → (s.core f.core).engineOn = true →
    let h := s.herdOf f
    let lanes := laneList f p w
    let i := w.imm.toNat
    let t := w.sub.toNat
    let n := i / 2 ^ 6 % 2 ^ 4 + 1
    let bank := i / 2 ^ 4 % 2
    let first := (p.mask.lanes f.lanes).take 1
    let ready (ls : List Nat) (srcs : List Src) (dsts : List Dst) : Prop := checkOperands f p w ls srcs dsts = .ok ()
    let queues (x : Instr) (ctx : Nat) (counted : Bool) (kinds : List MxKind) (after : Ctx → Ctx) : Prop :=
      s.mxRoom f ctx kinds.length = true → (counted = true → f.count .m < 255) → ∃ u g, exec x s = .next u ∧ u.mem = s.mem ∧
        (u.core f.core).mxq = (s.core f.core).mxq ++ kinds.map (mxOp f p ctx (if counted then some f.nextId else none)) ∧
        (kinds ≠ [] → .matrixEngineOperation f.core ∈ u.agenda) ∧ u.flock? f.uid = some g ∧ g.v = f.v ∧ g.s = f.s ∧
        g.count .m = f.count .m + (if counted then 1 else 0) ∧ (s.herd? f.herd = some h → ctx < h.ctxs.length →
          ∃ k, u.herd? f.herd = some k ∧ k.ctx ctx = after (h.ctx ctx) ∧ k.opb = h.opb ∧ k.spad = h.spad)
    let clear (tiles : List Nat) : Prop := s.tilesFree f p tiles = .ok ()
    let banked : Prop := s.tilesOk f t lanes = true
    let some_ (k : MxKind) : List MxKind := if lanes = [] then [] else [k]
    let whole : Prop := mmaPad w = true ∨ partialQuarter lanes = none
    let drain := drainOf w (f.read32 w (srcB w) (lanes.headD 0)).toInt
    let target : Prop := lanes = [] ∨ s.drainMultipliers f drain (lanes.headD 0) = .ok ()
    let srow := (f.read32 w (srcA w) (first.headD 0)).toNat % 2 ^ 16
    (192 ≤ w.sa.toNat → bank < h.ctxs.length → ready first [srcA w] [] → s.recordOf f (i % 2 ^ 4) = some r → mxClass (recordFmt r).fmt ≠ 4 →
      rowInside r (srow + 63) = true → queues (.vMxLds w) bank false [.lds (i % 2 ^ 4) srow] fun x => { x with issueShadow := recordFmt r }) ∧
    (bank < h.ctxs.length → queues (.vMxSwap w) bank false [.swap] fun x => { x with issueActive := x.issueShadow, issueShadow := x.issueActive }) ∧
    (banked → w.sa.toNat < 192 → s.planeAccepts f (t / 8) (i / 2 ^ 5 % 2 ^ 4) (mmaSat w) = true → ready lanes [srcA w 16] [] → whole →
      queues (.vMxMmaRf w) (t / 8) false ((passes lanes).map fun ls => .mmaRf t (i / 2 ^ 5 % 2 ^ 4) (mmaSat w) (ls.map fun l => (l, f.rowBytes w l))) id) ∧
    (banked → s.recordOf f (i / 2 % 2 ^ 4) = some r → s.planeAccepts f (t / 8) (recordFmt r).fmt (mmaSat w) = true → ready lanes [srcA w] [] →
      (∀ l ∈ lanes, rowInside r ((f.read32 w (srcA w) l).toNat % 2 ^ 16) = true) → whole →
      queues (.vMxMmaOpb w) (t / 8) false ((passes lanes).map fun ls => .mmaOpb t (i / 2 % 2 ^ 4) (mmaSat w)
        (ls.map fun l => (l, (f.read32 w (srcA w) l).toNat % 2 ^ 16))) id) ∧
    (banked → i % 2 ^ 6 + n ≤ 64 → w.dest.toNat < 192 → ready lanes [⟨w.dest, 3, 0, n, 1⟩] [dst w n 1] → clear (laneTiles t lanes) →
      queues (.vAccLd w) (t / 8) true (some_ (.accLd t (i % 2 ^ 6) n (lanes.map fun l =>
        (l, (List.range n).map fun j => f.vreg (w.dest.toNat + j) l)))) id) ∧
    (banked → i % 2 ^ 6 + n ≤ 64 → ready lanes [] [dst w n 1] → clear (laneTiles t lanes) →
      queues (.vAccMov w) (t / 8) true (some_ (.accMov t (i % 2 ^ 6) n lanes)) id) ∧
    (s.tilesOk f t [] = true → clear [t] → queues (.vAccZero w) (t / 8) false [.accZero t] id) ∧
    (banked → drainOk w = true → ready lanes [srcB w] [dst w (accN w) 1] → target → clear (laneTiles drain.tile lanes) →
      queues (.vAccDrain w) (drain.tile / 8) true (some_ (.drain drain (lanes.map fun l => (l, [])))) id) ∧
    (banked → drainOk w = true → ready lanes [addrPair w, srcB w] [] → s.drainLocs f w drain.n lanes = .ok locs → target →
      clear (laneTiles drain.tile lanes) → s.releaseReady f .mo = true →
      queues (.vAccDrainG w) (drain.tile / 8) true (some_ (.drain drain locs)) id) ∧
    (w.sa.toNat < 192 → ready lanes [srcA w (i / 2 ^ 4 % 2 ^ 4 + 1), srcB w] [] → s.recordOf f (i % 2 ^ 4) = some r →
      let off (l : Nat) : Nat := (f.read32 w (srcB w) l).toNat + i / 2 ^ 8 % 2 ^ 16
      let k := i / 2 ^ 4 % 2 ^ 4 + 1
      (∀ l ∈ lanes, off l % 4 = 0 ∧ off l + 4 * k ≤ recordLen r) → queues (.vOpbPut w) 0 false (some_ (.put (i % 2 ^ 4) (lanes.map fun l =>
        (off l, (List.range k).flatMap fun j => bytesOf 4 (f.vreg (w.sa.toNat + j) l).toNat)))) id)

/-- The matrix engine takes its next operation when it has started, and keeps it due until then (R283, R297); while two context queues hold
work it alternates between them (R297). What operations leave (R152,
R153, R284 to R290): an A row accumulates into each of the 64 columns of its own row of the tile and into no other; an INT8 plane adds
the exact sum of the products once, saturated under `.sat`; a swap exchanges the planes; `v.acc.zero` clears its tile alone; a transfer
exchanges columns of the tile. -/
def Obligations.MatrixEngine : Prop :=
  (∀ (s : State) (core : Nat) (o : MxOp), let k := s.core core
    (k.engineOn = true → k.nextMx = some o →
      exec (.matrixEngineOperation core) s = .next ((s.setCore core (k.takeMx o)).performMx core o)) ∧
    (k.engineOn = false → k.mxq ≠ [] → exec (.matrixEngineOperation core) s = .next (s.post (.matrixEngineOperation core))) ∧
    (k.nextMx = some o → (∃ x ∈ k.mxReady, (x.herd, x.ctx) ≠ k.mxTurn) → (o.herd, o.ctx) ≠ k.mxTurn)) ∧
  (∀ (x : Ctx) (tile l : Nat) (af : PlaneFmt) (a : List Byte) (bad sat : Bool), let t := (tile + l / 64) % 8
    let y := x.mma tile sat [(l, af, a, bad)]
    (∀ c, c < 64 → y.elem t (l % 64) c = (BitVec.ofNat 32 (accumulate (x.elem t (l % 64) c).1.toNat af a x.active.form (x.active.row c) sat),
      (x.elem t (l % 64) c).2 || bad || x.active.poison.contains c)) ∧
    (∀ u r c, r < 64 → c < 64 → (u ≠ t ∨ r ≠ l % 64) → y.elem u r c = x.elem u r c) ∧ y.active = x.active ∧ y.shadow = x.shadow) ∧
  (∀ (acc : Nat) (a b : List Int) (sat : Bool), let sum := signedOf 32 acc + (a.zipWith (· * ·) b).sum
    intAccumulate acc a b sat = ((if sat then max (-2 ^ 31) (min (2 ^ 31 - 1) sum) else sum) % 2 ^ 32).toNat) ∧
  (∀ (s : State) (core : Nat) (o : MxOp) (h : Herd), s.herd? o.herd = some h → o.ctx < h.ctxs.length →
    let x := h.ctx o.ctx
    let leaves (P : Ctx → Prop) : Prop := ∃ k, (s.performMx core o).herd? o.herd = some k ∧ P (k.ctx o.ctx)
    (o.kind = .swap → leaves fun y => y.active = x.shadow ∧ y.shadow = x.active ∧ y.tiles = x.tiles) ∧
    (∀ t, o.kind = .accZero t → leaves fun y => ∀ u r c, u < 8 → r < 64 → c < 64 → y.elem u r c = if u = t % 8 then (0, false) else x.elem u r c) ∧
    (∀ t c0 n l vs, o.kind = .accLd t c0 n [(l, vs)] → o.op = none → vs.length = n → c0 + n ≤ 64 → leaves fun y =>
      ∀ j, j < n → y.elem ((t + l / 64) % 8) (l % 64) (c0 + j) = (vs.getD j 0, false)) ∧
    (∀ k srow, o.kind = .lds k srow → leaves fun y => y.shadow.form = recordFmt (h.record k) ∧ y.active = x.active))

/-- Sampler and tree instructions (R318 to R320, R330 to R344, R484): the unit reads and computes for the executing lanes in turn; with room in
counter T or X, the flock's access queue free and its earlier reads returned, and the session below its limit of requests where the unit sends
some (R366), the instruction becomes an operation whose pieces are its destination registers in those lanes, with the unit's results, or those
of a fault (R484), which is reported. It waits while its operands are full but one of these fails, or while a read of the unit waits. Registers
wait for the event of its return, and, while no unit of memory is encrypted and no key is loaded, memory is changed by a result buffer alone.
That the values are taken at issue, and how a unit reads and writes another die's memory, is the model's choice (log entries 5 and 7). -/
def Obligations.SamplerAndTree : Prop :=
  ∀ (s : State) (f : Flock) (p : Path) (w : LaneWord), IssuesLane s f p → (∀ o ∈ f.ops, o.id < f.nextId) →
    let ag := s.agentOf f
    let lanes := laneList f p w
    let waits (i : Instr) : Prop := exec i s = .next (s.waiting false)
    let ready (c : Counter) : Prop := f.count c < 255 ∧ s.memReady f = true ∧ f.readsReturned = true
    let becomes (c : Counter) (regs : Nat) (buffer : Bool) (t : State) : Prop := ∃ g o, t.flock? f.uid = some g ∧
      g.count c = f.count c + 1 ∧ g.v = f.v ∧ g.s = f.s ∧ t.herds = s.herds ∧
      (buffer = false → s.memKeys = [] → (∀ d, (s.die d).keys = []) → t.mem = s.mem) ∧ o ∈ g.ops ∧ o.counter = some c ∧
      o.pieces.map (fun q => (q.reg, q.lane)) = lanes.flatMap (fun l => (List.range regs).map fun j => (w.dest.toNat + j, l)) ∧
      (∀ q ∈ o.pieces, q.value.isSome = true) ∧ (o.packets = 0 → endEvent (some c) f.uid o.id ∈ t.agenda)
    let samples (i : Instr) (srcs : List Src) (quad : Bool) (lane : State → Flock → Agent → Nat → LaneSample) : Prop :=
      checkNames f srcs [dst w 2] = .ok () → (∀ x ∈ srcs, x.regs ≤ 2 ∨ x.code.toNat < 192) → (quad = true → f.branches = []) →
      (∀ l ∈ lanes, (∀ x ∈ srcs, ∀ j ∈ (if quad ∧ x.slot = 0 then (List.range 4).map (l / 4 * 4 + ·) else [l]),
        x.emptyAt f (some j) = false ∧ x.poisonedAt f (some j) = false) ∧ ∀ j ∈ List.range 2, f.vFull (w.dest.toNat + j) l = true) →
      let results := s.unitLanes (lane s f ag) lanes
      (¬ready .t → waits i) ∧ (results = none → waits i) ∧
      ∀ t vals, results = some (t, vals) → (s.mayHaveSent t ag = false → waits i) ∧
        (ready .t → s.mayHaveSent t ag = true →
          let pieces := vals.flatMap fun (l, x) => (List.range 2).map fun j =>
            { lanePiece (w.dest.toNat + j) l false with value := some ((t.sampleWord l j x).setWidth 64) }
          let u := (t.beginOp f.uid p.pc (some .t) pieces 0 none).retirePath f.uid p.id
          let r := if vals.any (·.2.isNone) then u.post (.graphicsFaultReport f.core (t.herdOf f).region false) else u
          exec i s = .next r ∧ becomes .t 2 false r)
    let queries (i : Instr) (srcs : List Src) (regs : Nat) (buffer : Bool) (fault : List Nat) (lane : State → Flock → Agent → Nat → LaneQuery) : Prop :=
      LaneReady f p w srcs [dst w regs] →
      let results := s.unitLanes (fun l => placedQuery ag (lane s f ag l)) lanes
      (¬ready .x → waits i) ∧ (results = none → waits i) ∧
      ∀ t xs, results = some (t, xs) → (s.mayHaveSent t ag = false → waits i) ∧
        (ready .x → s.mayHaveSent t ag = true →
          let vals := xs.map fun (l, x) => (l, x.bind (·.1))
          let places := xs.flatMap fun (_, x) => (x.map (·.2)).getD []
          let pieces := vals.flatMap fun (l, vs) => ((vs.getD fault).zipIdx).map fun (v, j) =>
            { lanePiece (w.dest.toNat + j) l false with value := some (BitVec.ofNat 64 v) }
          let u := (places.foldl (fun t x => t.ffPart ag f.uid f.nextId x.1 x.2) t).beginOp f.uid p.pc (some .x) pieces
            (places.filter fun x => homeDie x.1.pa ≠ ag.die).length none
          let u := if buffer then u.retireFence f.uid p.id else u.retirePath f.uid p.id
          let r := if vals.any (·.2.isNone) then u.post (.graphicsFaultReport f.core (u.herdOf f).region true) else u
          exec i s = .next r ∧ becomes .x regs buffer r)
    let travels (i : Instr) (q : Src) (regs : Nat) (buffer : Bool) (fault : List Nat) (lane : State → Flock → Agent → Nat → LaneQuery) : Prop :=
      w.sa.toNat < 192 → 192 ≤ w.sb.toNat → 192 ≤ w.sc.toNat → queries i [q, srcB w, srcC w] regs buffer fault lane
    let buffer : Bool := w.sb ≠ 192
    samples (.vTexSmp w) [srcA w 2, srcB w, srcC w] true (texSmpLane w) ∧ samples (.vTexLod w) [srcA w 2, srcB w, srcC w] false (texLodLane w) ∧
    samples (.vTexGrad w) [srcA w 2, srcB w, srcC w 4] false (texGradLane w) ∧
    samples (.vTexFetch w) [srcA w 2, srcB w, srcC w] false (texFetchLane w) ∧
    samples (.vTexGather w) [srcA w 2, srcB w] false (texGatherLane w) ∧ samples (.vTexDec w) [srcA w 8, srcB w, srcC w] false (texDecLane w) ∧
    travels (.vTravRay w) (srcA w 8) 4 false [fp32.nanCode, 0xFFFFFFFE, 0, 0] (travRayLane w) ∧
    travels (.vTravRad w) (srcA w 4) 1 buffer [0xFFFFFFFF] (travRadLane w) ∧
    travels (.vTravKnn w) (srcA w 4) 1 buffer [0xFFFFFFFF] (travKnnLane w) ∧
    travels (.vTravRng w) (srcA w 4 2) 1 buffer [0xFFFFFFFF] (travRngLane w) ∧
    (w.sa.toNat < 192 → w.sb.toNat < 192 → queries (.vIsectBox w) [srcA w 8, srcB w 6] 2 false [] (isectBoxLane w) ∧
      queries (.vIsectTri w) [srcA w 8, srcB w 9] 3 false [] (isectTriLane w))

/-- Rasterisation, binning and export (R318 to R329): each acts on its executing lanes when its operands and its structures are readable,
and is a flashback fence. `v.rast` assigns the samples of its triangle to the lanes of its path and sends the next token to its register,
`v.bin` marks in qd the lanes that its set could not take, and the exports write their samples in lane order. An access that has to wait makes
the instruction wait, and one that may not be made traps.

Coverage (R320): the edge functions, the triangles that are rejected, and the samples on an edge, which exactly one of two triangles with
opposite orientations owns. The walk (R319, R321): the covered samples from a position on, each once, by pixel and then sample. An issue
(R321, R322): the lanes of the path and of the parked set take the next samples in ascending order, the others are parked with their registers,
and the token names the first sample not handed out, or DONE.

Binning (R325, R326): tiles row-major, one primitive appended to each, in a new chunk where the last is full; the first lane that needs more
chunks than there are, and every later one, is left. Pixel export (R328, R329): the sample's number, the depth test, which NaN fails, and the
colour that is encoded. -/
def Obligations.RasterAndExport : Prop :=
  (∀ (i j : Vertex) (px py : Int), edge i j px py = (j.x - i.x) * (py - i.y) - (j.y - i.y) * (px - i.x) ∧ edge j i px py = - edge i j px py ∧
    ((i.x, i.y) ≠ (j.x, j.y) → (owns (j.x - i.x) (j.y - i.y) = true ↔ owns (i.x - j.x) (i.y - j.y) = false))) ∧
  (∀ (t : Triangle) (cull : Nat) (px py : Int),
    let a := edge t.p0 t.p1 t.p2.x t.p2.y
    let g : Int := if a < 0 then -1 else 1
    let good (q : Machine.Num) : Prop := ∃ m, q = .fin m ∧ m.neg = false ∧ m.m ≠ 0
    let within (i j : Vertex) : Prop := 0 < g * edge i j px py ∨ edge i j px py = 0 ∧
      (g * (j.y - i.y) < 0 ∨ j.y = i.y ∧ 0 < g * (j.x - i.x))
    (t.rejected cull = true ↔ a = 0 ∨ cull = 1 ∧ a < 0 ∨ cull = 2 ∧ 0 < a ∨ ¬(good t.p0.q ∧ good t.p1.q ∧ good t.p2.q)) ∧
    (∀ e, t.cover px py = some e ↔ (within t.p1 t.p2 ∧ within t.p2 t.p0 ∧ within t.p0 t.p1) ∧
      e = ((g * edge t.p1 t.p2 px py).toNat, (g * edge t.p2 t.p0 px py).toNat, (g * edge t.p0 t.p1 px py).toNat))) ∧
  (∀ (t : Triangle) (tx ty code pix samp : Nat),
    let xs := t.walk tx ty code pix samp
    let at_ (p : Nat) (pos : Nat × Nat) : Option (Nat × Nat × Nat) :=
      t.cover (256 * (32 * tx + p % 32) + 16 * pos.1 : Nat) (256 * (32 * ty + p / 32) + 16 * pos.2 : Nat)
    xs.Pairwise (fun x y => x.p < y.p ∨ x.p = y.p ∧ x.s < y.s) ∧
    ∀ x, x ∈ xs ↔ x.p < 1024 ∧ (pix < x.p ∨ pix = x.p ∧ samp ≤ x.s) ∧ x.x = 32 * tx + x.p % 32 ∧ x.y = 32 * ty + x.p / 32 ∧
      ∃ pos, (samplePositions code)[x.s]? = some pos ∧ at_ x.p pos = some x.e) ∧
  (∀ (f : Flock) (p : Path) (w : LaneWord), f.lanes ≤ 1024 →
    let n := w.sa.toNat - 192
    let t : Triangle := ⟨f.vertex n, f.vertex (n + 2), f.vertex (n + 4)⟩
    let token := (f.sreg (w.sc.toNat - 192)).toNat
    let tile := (f.sreg (w.sb.toNat - 192)).toNat
    let base := p.mask ||| f.parked
    let lanes := base.lanes f.lanes
    let cov : List Sample := if t.rejected (w.sub.toNat / 4) = true ∨ token.testBit 15 = true then []
      else t.walk (tile % 2 ^ 10) (tile / 2 ^ 16 % 2 ^ 10) (w.sub.toNat % 4) (token % 2 ^ 10) (token / 2 ^ 10 % 2 ^ 3)
    let g := (f.rastIssue p w).1
    let next := (f.rastIssue p w).2
    let mask := LaneMask.ofList (lanes.take cov.length)
    next = (match cov[lanes.length]? with
      | none => 0x8000
      | some x => x.p + x.s * 2 ^ 10) ∧
    g.active = (f.active &&& ~~~base) ||| mask ∧ g.parked = base &&& ~~~mask ∧ g.s = f.s ∧
    g.q = (f.setQ (w.imm.toNat % 16) base (if next = 0x8000 then 0 else base)).q ∧
    (∀ (k l j : Nat) (x : Sample), lanes[k]? = some l → cov[k]? = some x → j < 5 → g.vreg (w.dest.toNat + j) l = (t.assign x).getD j 0) ∧
    (∀ r l, l < 1024 → (mask.has l = false ∨ r < w.dest.toNat ∨ w.dest.toNat + 5 ≤ r) → g.vreg r l = f.vreg r l)) ∧
  (∀ (t : Triangle) (x : Sample), x.x < 2 ^ 16 → x.y < 2 ^ 16 → x.s < 8 →
    let v (j : Nat) : Nat := ((t.assign x).getD j 0).toNat
    v 0 % 2 ^ 16 = x.x ∧ v 0 / 2 ^ 16 = x.y ∧ v 1 = x.s + (if 0 < t.area then 2 ^ 8 else 0) ∧
    ((∀ m, t.p0.z ≠ .fin m) ∨ (∀ m, t.p1.z ≠ .fin m) ∨ (∀ m, t.p2.z ≠ .fin m) → v 4 = fp32.nanCode)) ∧
  (∀ (b : BinSet) (rect : Nat),
    let field (lo : Nat) : Nat := rect / 2 ^ lo % 2 ^ 8
    (b.tiles rect).Pairwise (fun x y => x.2 < y.2 ∨ x.2 = y.2 ∧ x.1 < y.1) ∧
    ∀ x y, (x, y) ∈ b.tiles rect ↔ field 0 ≤ x ∧ x ≤ field 16 ∧ x ≤ b.twm1 ∧ field 8 ≤ y ∧ y ≤ field 24 ∧ y ≤ b.thm1) ∧
  (∀ (s u : State) (ag : Agent) (b : BinSet) (set lane prim rect : Nat) (r : List (Nat × Nat × Nat)) (es : List (Nat × Nat × Nat × Nat)),
    s.binEntries ag b lane (b.tiles rect) = .ok (u, es) →
    let need := (es.filter fun e => e.2.2.2 % 63 = 0).length
    (b.nchunk < b.free + need → s.binLanes ag b set ((lane, prim, rect) :: r) = .ok (u, lane :: r.map (·.1))) ∧
    (es = [] → b.free ≤ b.nchunk → s.binLanes ag b set ((lane, prim, rect) :: r) = u.binLanes ag b set r) ∧
    (∀ v v' free, b.free + need ≤ b.nchunk → (∀ e ∈ es, e.2.2.2 % 63 ≠ 0 → (e.2.2.1 + 2 ^ 32 - 1) % 2 ^ 32 < b.nchunk) →
      u.binTiles ag b lane prim b.free es = .ok (v, free) → b.free < free → v.unitWrite ag lane (set + 12) 4 4 free = .ok v' →
      s.binLanes ag b set ((lane, prim, rect) :: r) = v'.binLanes ag { b with free := free } set r)) ∧
  (∀ (s s1 s2 s3 s4 s5 : State) (ag : Agent) (b : BinSet) (lane prim free a head tail count : Nat),
    let slot (c : Nat) : Nat := b.chunk c + 4 + 4 * (count % 63)
    let last := (tail + 2 ^ 32 - 1) % 2 ^ 32
    (count % 63 ≠ 0 → s.unitWrite ag lane (slot (tail - 1)) 4 4 prim = .ok s1 → s1.unitWrite ag lane (a + 8) 4 4 (count + 1) = .ok s2 →
      s.binTile ag b lane prim free (a, head, tail, count) = .ok (s2, free)) ∧
    (count % 63 = 0 → s.unitWrite ag lane (b.chunk free) 4 256 0 = .ok s1 →
      (if head = 0 then s1.unitWrite ag lane a 4 4 (free + 1) else s1.unitWrite ag lane (b.chunk last) 4 256 (free + 1)) = .ok s2 →
      s2.unitWrite ag lane (a + 4) 4 4 (free + 1) = .ok s3 → s3.unitWrite ag lane (slot free) 4 4 prim = .ok s4 →
      s4.unitWrite ag lane (a + 8) 4 4 (count + 1) = .ok s5 →
      s.binTile ag b lane prim free (a, head, tail, count) = .ok (s5, free + 1))) ∧
  (∀ (s u : State) (ag : Agent) (w : LaneWord) (t : Target) (n z : Nat) (e : Export) (c d : Loc) (bad : Bool),
    e.number t = (e.y * t.width + e.x) * t.samples + e.s ∧ (e.inside t = true ↔ e.x < t.width ∧ e.y < t.height ∧ e.s < t.samples) ∧
    (e.places w t n).map (·.1) = (if w.sub.getLsbD 0 = true ∧ t.dbase ≠ 0 then [(t.dbase + 4 * e.number t) % 2 ^ 64] else []) ++
      [(t.cbase + n * e.number t) % 2 ^ 64] ∧
    s.exportSample ag w t n (e, [c]) = s.exportColour ag w t n e c ∧
    (s.homeRead ag d 4 = some (u, z, bad) → s.exportSample ag w t n (e, [d, c]) =
      if fp32.isNan e.z = false ∧ fp32.isNan z = false ∧ (fp32.decode e.z).lt (fp32.decode z) = true
      then (u.homeWrite ag d 4 e.z).exportColour ag w t n e c else u) ∧
    (w.sub.getLsbD 1 = false → s.exportColour ag w t n e c = s.homeWrite ag c n (t.colour false e.channels 0 (s.free 1).toNat))) ∧
  (encodeUnorm none = 0 ∧ (∀ neg n quiet, encodeUnorm (some (.nan neg n quiet)) = 0) ∧ (∀ b, encodeUnorm (some (.inf b)) = if b then 0 else 255) ∧
    ∀ m, encodeUnorm (some (.fin m)) = if m.neg then 0 else min (quanta .ne m 0).1 255) ∧
  ∀ (s u t : State) (f : Flock) (p : Path) (w : LaneWord) (v : Nat) (left : List Nat), IssuesLane s f p →
    let lanes := laneList f p w
    let tr := w.sc.toNat - 192
    let base := f.sreg tr
    let fenced (t : State) : Host.Outcome State Fault Refusal := .next (t.onFlock f.uid fun g => (g.retire p.id).fence)
    let stops {α : Type} (r : Res α) (i : Instr) : Prop := (∀ e, r = .error (.wait e) → exec i s = .next (s.waiting e)) ∧
      ∀ x, r = .error (.trap x) → exec i s = .next (s.laneTrap f p (.lane p.id none) x)
    let next := (f.rastIssue p w).2
    (193 ≤ w.sa.toNat → w.sa.toNat ≤ 250 → 192 ≤ w.sb.toNat → 193 ≤ w.sc.toNat → p.entries = [] →
      checkNames f (rastSources w) [dst w 5] = .ok () → checkSources f p w ((p.mask ||| f.parked).lanes f.lanes) (rastSources w) [dst w 5] = .ok () →
      tokenOk base.toNat (w.sub.toNat % 4) = true → ∃ g o, o ∈ g.ops ∧ o.pieces.map (fun q => (q.reg, q.value)) = [(tr, some (BitVec.ofNat 64 next))] ∧
        g.v = (f.rastIssue p w).1.v ∧ g.active = (f.rastIssue p w).1.active ∧ g.parked = (f.rastIssue p w).1.parked ∧ g.s = f.s ∧ g.point = none ∧
        exec (.vRast w) s = .next ((s.settleFlow g).post (.tosWrite f.uid o.id))) ∧
    (192 ≤ w.sc.toNat → LaneReady f p w [srcA w, srcB w, srcC w] [] → lanes = [] → exec (.vBin w) s = fenced s) ∧
    (192 ≤ w.sc.toNat → LaneReady f p w [srcA w, srcB w, srcC w] [] → lanes ≠ [] →
      s.unitRead (s.agentOf f) (lanes.headD 0) base.toNat 64 64 = .ok (u, v) → u.releaseReady f .sy = true →
      u.binLanes (s.agentOf f) (binSet v) base.toNat (lanes.map fun l => (l, (f.read32 w (srcA w) l).toNat, (f.read32 w (srcB w) l).toNat)) = .ok (t, left) →
      exec (.vBin w) s = fenced (t.onFlock f.uid fun g => g.setQ (qDest w) (LaneMask.ofList lanes) (LaneMask.ofList left))) ∧
    (192 ≤ w.sc.toNat → LaneReady f p w [srcA w, srcB w, srcC w] [] → lanes ≠ [] →
      let header := s.unitRead (s.agentOf f) (lanes.headD 0) base.toNat 64 64
      stops header (.vBin w) ∧ (header = .ok (u, v) → (u.releaseReady f .sy = false → exec (.vBin w) s = .next (s.waiting false)) ∧
        (u.releaseReady f .sy = true → stops (u.binLanes (s.agentOf f) (binSet v) base.toNat
          (lanes.map fun l => (l, (f.read32 w (srcA w) l).toNat, (f.read32 w (srcB w) l).toNat))) (.vBin w)))) ∧
    (let width := w.imm.toNat % 2 ^ 16
      let height := w.imm.toNat / 2 ^ 16
      let out (l : Nat) : Nat := (base.toNat + 16 * (f.read32 w (srcB w) l).toNat) % 2 ^ 64
      let words (l : Nat) : Nat × Nat :=
        let x (i : Nat) : Nat := (f.read32 w (srcA w 4) l i).toNat
        vertexWords (x 0) (x 1) (x 2) (x 3) width height
      let places := s.checkLanes (s.agentOf f) .write 16 (lanes.map fun l => (l, out l))
      w.sa.toNat < 192 → 192 ≤ w.sc.toNat → 1 ≤ width → width ≤ 32767 → 1 ≤ height → height ≤ 32767 → LaneReady f p w [srcA w 4, srcB w, srcC w] [] →
        stops places (.vExpPos w) ∧ ∀ locs, places = .ok (u, locs) →
          let stored := u.store f (locs.flatMap fun x => [(x.2, bytesOf 8 (words x.1).1), ({ x.2 with pa := x.2.pa + 8, va := x.2.va + 8 }, bytesOf 8 (words x.1).2)]) none
          stops stored (.vExpPos w) ∧ (stored = .ok t → exec (.vExpPos w) s = fenced t)) ∧
    (w.sa.toNat < 192 → 192 ≤ w.sc.toNat → checkNames f [srcA w 5, srcB w 2, srcC w] [] = .ok () →
      checkSources f p w lanes [srcA w 2, { srcA w with code := w.sa + 4 }, srcB w 2, srcC w] [] = .ok () →
      (lanes = [] → exec (.vExpPx w) s = fenced s) ∧
      (lanes ≠ [] → stops (s.unitRead (s.agentOf f) (lanes.headD 0) base.toNat 64 64) (.vExpPx w)) ∧
      (lanes ≠ [] → s.unitRead (s.agentOf f) (lanes.headD 0) base.toNat 64 64 = .ok (u, v) →
        let target := targetOf v
        let size := u.colourBytes target
        let places := u.checkExports (s.agentOf f) w target size ((lanes.map (f.exportOf w)).filter fun e => e.inside target)
        stops places (.vExpPx w) ∧ ∀ xs, places = .ok (t, xs) →
          let ready : Prop := t.releaseReady f .sy = true ∧ ∀ x ∈ xs, ∀ l ∈ x.2, t.reachNow (s.agentOf f) l.pa = true
          (¬ready → exec (.vExpPx w) s = .next (s.waiting false)) ∧
          (ready → exec (.vExpPx w) s = fenced (xs.foldl (fun y x => y.exportSample (s.agentOf f) w target size x) t))))

/-! ## Events of flocks, herds and paddocks (R42, R53, R60 to R62, R356 to R371, R479 to R481) -/

/-- Flocks change places in a datapath (R42): at the end of a round a lone pending flock that is ready counts one round more, and after its
fourth takes the slot of the flock of the longest active residence; a waiting active flock gives its slot to the pending flock that has
been ready longest, unless it has itself become ready. What it is to be ready is the model's choice (log entry 22).

The events of a flock's paths (R52, R56 to R62, R267, R268): a predicted branch resolves as an unpredicted one acts, with the lanes of its
arms back at the branch but for those that each arm keeps, a wait that has
passed its time lets its paths go on alone with the predicate set, a collection that is full or has waited its time forms a call flock
of its lanes, and a call flock without lanes ends when its counters read zero. Before its time each event stays due. -/
def Obligations.FlockEvents : Prop :=
  (∀ (s : State) (core dp : Nat),
       let d := s.datapath core dp
       let swapped (out into : Nat) (pending : List (Nat × Nat)) : State := s.setDatapath core dp
         { d with active := d.active.map (fun x => if x = some out then some into else x), pending := pending ++ [(out, 0)],
                  order := d.order.filter (· ≠ out) ++ [into] }
       ((∀ x ∈ d.pending, s.pendingReady x.1 = false) →
         exec (.roundEndExchange core dp) s = .next (s.setDatapath core dp { d with pending := d.pending.map fun x => (x.1, 0) })) ∧
       (∀ u n, d.pending = [(u, n)] → s.pendingReady u = true → n < 3 →
         exec (.roundEndExchange core dp) s = .next (s.setDatapath core dp { d with pending := [(u, n + 1)] })) ∧
       (∀ u n out rest, d.pending = [(u, n)] → s.pendingReady u = true → 3 ≤ n → d.order = out :: rest →
         exec (.roundEndExchange core dp) s = .next (swapped out u [])) ∧
       (∀ out u n before after g, s.flock? out = some g → g.ready = false → d.active.contains (some out) = true → d.pending = before ++ (u, n) :: after → s.pendingReady u = true →
         (∀ x ∈ before, s.pendingReady x.1 = true → x.2 < n) → (∀ x ∈ after, s.pendingReady x.1 = true → x.2 ≤ n) →
         exec (.flockExchange core dp out) s = .next (swapped out u (d.pending.filter fun x => x.1 ≠ u))) ∧
       (∀ out, (∀ x ∈ d.pending, s.pendingReady x.1 = false) → exec (.flockExchange core dp out) s = .next s) ∧
       (∀ out g, s.flock? out = some g → g.ready = true → exec (.flockExchange core dp out) s = .next s)) ∧
  (∀ (s : State) (f : Flock), s.flock? f.uid = some f →
       (∀ (b : Branch) (path : Nat), (f.branches.find? fun b => b.path.id = path) = some b →
         let event := exec (.predicateResolution f.uid path) s
         let g := f.rejoin b false
         let p := { b.path with status := .ready }
         let arms := f.armsOf b
         let goes (h : Flock) : State := arms.foldl (fun t a => t.progressOf f.uid a.2.log)
           (((s.setFlock g).settleFlow (h.attach b arms)).learn g p.pc p.mask b.taken)
         (s.mayIssue f = false ∨ f.hmode = true → event = .next (s.post (.predicateResolution f.uid path))) ∧
         (s.mayIssue f = true → f.hmode = false →
           (b.taken = 0 → event = .next (goes (g.setPath { p with pc := p.pc + 1 }))) ∧
           (b.taken ≠ 0 → p.mask &&& ~~~b.taken = 0 → event = .next (goes (g.setPath { p with pc := b.target }))) ∧
           (g.splitKind p b.taken b.target b.point = .push → event = .next (goes (g.push p b.taken b.target b.point))) ∧
           (∀ k, g.splitKind p b.taken b.target b.point = .join k → b.atWait = false →
             event = .next (goes (g.join p b.taken b.target b.point k false))) ∧
           (g.splitKind p b.taken b.target b.point = .overflow →
             event = .next ((s.setFlock (f.rejoin b true)).takeTrap f.uid (.branch path) { cause := 0x13 })))) ∧
       (∀ e at_ fallback q, f.entry? e.id = some e → e.timer = some (at_, fallback, q) →
         ((s.die (dieOf f.core)).cycle ≤ at_ → exec (.reconvTimeout f.uid e.id) s = .next (s.post (.reconvTimeout f.uid e.id))) ∧
         (at_ < (s.die (dieOf f.core)).cycle → s.mayIssue f = true → f.hmode = false →
           exec (.reconvTimeout f.uid e.id) s = .next (s.settleFlow (f.timeOut e.id e.rpoint fallback q)))) ∧
       (∀ p e index fallback q, f.paths = [p] → p.status = .arrived → p.entries.head? = some e →
         (f.timeOut e index fallback q).paths = [{ p with pc := index + 1, status := .ready }] ∧
         (f.timeOut e index fallback q).q = (f.setQ q p.mask p.mask).q) ∧
       (∀ core c x slot dp, (s.core core).collections = [c] → (s.gathered c).head? = some x → x.arrival.flock = f.uid →
         let shut : Collection := { c with closed := true }
         let u := s.onCore core fun k => { k with collections := [shut] }
         firstGroup (s.gathered c) = s.gathered c → u.calleeHeader f x.target = .ok () → s.freeSlot core = some slot → s.bindDatapath core = some dp →
         let callee := ((s.gathered c).length + 31) / 32 * 32
         let need (h : Herd) : HerdNeed := if h.uid = f.herd then
           { s.herdNeed h with calls := (s.herdNeed h).calls ++ [(callee, x.arrival.regs)] } else s.herdNeed h
         let g := s.callFlock f (s.gathered c) slot dp
         let t := { u.setCollection core (shut.without (s.gathered c)) with flocks := s.flocks ++ [g], nextUid := s.nextUid + 1 }.enterDatapath g
         roomFor ((s.herdsOn core).map need) = true →
         (s.collectionFull c = true → exec (.regroupCollectionClose core c.id) s = .next t) ∧
         (s.collectionFull c = false → exec (.regroupCollectionClose core c.id) s = .next (s.post (.regroupCollectionClose core c.id))) ∧
         (c.deadline ≤ (s.die (dieOf core)).cycle → exec (.regroupCollectionTimeout core c.id) s = .next t) ∧
         (c.closed = false → (s.die (dieOf core)).cycle < c.deadline → exec (.regroupCollectionTimeout core c.id) s = .next (s.post (.regroupCollectionTimeout core c.id))) ∧
         g.lanes = callee ∧ g.regs = x.arrival.regs ∧ g.active = LaneMask.below (s.gathered c).length ∧ g.fpmode = f.fpmode ∧ g.tvec = f.tvec ∧
         g.paths.map (·.pc) = [x.target + 1]) ∧
       (f.call ≠ none → f.paths = [] → f.drained = true →
         exec (.callFlockEnd f.uid) s = .next (s.endFlock f.uid) ∧ (s.endFlock f.uid).flock? f.uid = none) ∧
       (f.call ≠ none → f.paths = [] → f.drained = false → exec (.callFlockEnd f.uid) s = .next (s.post (.callFlockEnd f.uid))))

/-- A herd's life (R29, R37, R38, R276, R369 to R371, R426, R481): admission puts its flocks at their entry on a core with room, a
pre-emption request halts it, it is saved once its work has drained and restored where there is room with what it held, and is lost where
its save cannot be written or read, while one that another die holds and cannot be reached keeps it waiting (R481); the layout of a save is
the model's choice (log entry 34); outside the live set of its flashback point a halted flock's lane registers are zero and full (R491); a core
whose flocks have not halted 65,536 cycles after the request loses its herds and excludes the cluster. -/
def Obligations.HerdLife : Prop :=
  (∀ (s : State) (r : Region) (k : Nat), s.region? r.uid = some r → r.rcb.gang = false → r.nextHerd < r.rcb.herds → s.mayRun r = true →
    (s.choosePlace r.session [regionNeed r.rcb r.callRegs] = some [k] → (∀ f ∈ s.flocks, f.herd < s.nextUid) → ∃ t h, exec (.herdAdmit r.uid) s = .next t ∧
      h ∈ t.herds ∧ h.uid = s.nextUid ∧ h.region = r.uid ∧ h.session = r.session ∧ h.herdid = BitVec.ofNat 32 r.nextHerd ∧ h.core = k ∧
      h.status = .resident ∧ h.spadSize = 4096 * r.rcb.spad4k ∧ h.opbSize = 256 * r.rcb.opbg ∧ h.ctxs = List.replicate r.rcb.acc Ctx.reset ∧
      (∀ f ∈ t.flocks, f.herd = h.uid → f.spc = r.rcb.sentry ∧ f.mode = .running ∧ f.lanes = r.rcb.lanes ∧ f.regs = r.rcb.regs ∧ f.core = k ∧ f.s = [] ∧
        f.v = [] ∧ f.paths = [] ∧ f.active = LaneMask.below r.rcb.lanes) ∧
      (t.region? r.uid).map (·.nextHerd) = some (r.nextHerd + 1) ∧ (r.nextHerd + 1 < r.rcb.herds → .herdAdmit r.uid ∈ t.agenda)) ∧
    (s.choosePlace r.session [regionNeed r.rcb r.callRegs] = none → exec (.herdAdmit r.uid) s = .next (s.postOnce (.herdAdmit r.uid)))) ∧
  (∀ (s : State) (h : Herd), s.herd? h.uid = some h → h.gang = none →
    let free : Prop := h.core = noCore ∨ (s.core h.core).stuck = false
    let place := s.savePlace h.session (s.saveSize h)
    let written := s.saveWrite (deviceAgent h.session (dieOf h.core)) (saveRuns place (s.saveSize h))
    (h.status = .resident → ∃ t, exec (.preemptRequest h.uid) s = .next t ∧ (∀ g, t.herd? h.uid = some g → g.status = .halting) ∧
      .herdSave h.uid ∈ t.agenda) ∧
    (h.status = .halting → s.herdDrained h = false ∨ ¬ free → exec (.herdSave h.uid) s = .next (s.post (.herdSave h.uid))) ∧
    (h.status = .halting → s.herdDrained h = true → free → h.abort = true → ∃ t, exec (.herdSave h.uid) s = .next t ∧ t.herd? h.uid = none) ∧
    (h.status = .halting → s.herdDrained h = true → free → h.abort = false → written = .error notYet →
      exec (.herdSave h.uid) s = .next (s.post (.herdSave h.uid))) ∧
    (∀ c, h.status = .halting → s.herdDrained h = true → free → h.abort = false → written = .error c → c ≠ notYet →
      exec (.herdSave h.uid) s = .next (((s.loseHerds [h.uid] 0x49).paddockReport (s.paddockOf h.session) 3).postAdmissions)) ∧
    (∀ u, h.status = .halting → s.herdDrained h = true → free → h.abort = false → written = .ok u →
      ∃ t g, exec (.herdSave h.uid) s = .next t ∧ t.herd? h.uid = some g ∧ g.status = .saved ∧ g.core = noCore ∧ g.savedAt = some place ∧ g.spad = h.spad ∧ g.opb = h.opb ∧
        g.ctxs = h.ctxs ∧ g.rsv = h.rsv ∧ .herdRestore h.uid ∈ t.agenda) ∧
    (∀ k, h.status = .saved → s.mayRun (s.regionOf h) = true → s.choosePlace h.session [s.herdNeed h] = some [k] →
      s.saveStops h k = [] → ∃ t g, exec (.herdRestore h.uid) s = .next t ∧ t.herd? h.uid = some g ∧ g.status = .resident ∧
        g.core = k ∧ g.savedAt = none ∧ g.spad = h.spad ∧ g.opb = h.opb ∧ g.ctxs = h.ctxs ∧ g.rsv = h.rsv ∧ .budgetCharge h.uid ∈ t.agenda) ∧
    (∀ k c, h.status = .saved → s.mayRun (s.regionOf h) = true → s.choosePlace h.session [s.herdNeed h] = some [k] → c ∈ s.saveStops h k →
      (c ≠ notYet → exec (.herdRestore h.uid) s = .next ((s.loseHerds [h.uid] 0x49).paddockReport (s.paddockOf h.session) 3)) ∧
      ((∀ x ∈ s.saveStops h k, x = notYet) → exec (.herdRestore h.uid) s = .next (s.postOnce (.herdRestore h.uid)))) ∧
    (h.status = .saved → s.mayRun (s.regionOf h) = false → exec (.herdRestore h.uid) s = .next (s.postOnce (.herdRestore h.uid)))) ∧
  (∀ (f : Flock) (pt : FlashPoint), f.point = some pt → f.mode = .running → f.hmode = false → f.lanes ≤ 1024 →
    let g := f.halt
    g.s = f.s ∧ g.bar = none ∧ g.primary = pt.primary ∧ g.second = pt.second ∧ g.last = pt.last ∧
    (g.paths.head?.map fun p => (p.pc, p.mask, p.status)) = some (pt.lidx + 1, pt.mask, .ready) ∧
    (g.recipe.map fun r => (r.index, r.left)) = (if pt.count = 0 then none else some (pt.first, pt.count)) ∧
    ∀ r l, r < f.regs → l < f.lanes → (f.branches = [] → pt.live.getLsbD r = true → g.vreg r l = f.vreg r l) ∧
      (pt.live.getLsbD r = false → g.vreg r l = 0 ∧ g.vFull r l = true)) ∧
  ∀ (s : State) (core : Nat),
    ((∃ h ∈ s.unhalted core, s.haltLate h = true) → ∃ t, exec (.haltBoundFailure core) s = .next t ∧ (∀ h ∈ t.herds, h.core ≠ core) ∧
      ∀ c ∈ clusterCores (clusterIndex core), (t.core c).excluded = true) ∧
    (s.unhalted core = [] → exec (.haltBoundFailure core) s = .next s) ∧
    (s.unhalted core ≠ [] → (∀ h ∈ s.unhalted core, s.haltLate h = false) →
      exec (.haltBoundFailure core) s = .next (s.postOnce (.haltBoundFailure core)))

/-- Paddocks in time (R355, R359 to R366, R479, R480): a boundary that is due reads exhausted pools again, assigns the clusters and sets the
next boundary QUANTUM microseconds on; a herd's residence is charged by units of 1,024 cycles to its pool, which may exhaust it, and what
a herd owes as it leaves is charged after it; QUIESCE
pre-empts every herd, QUIESCED rises once all are saved and nothing is in flight, 10 ms without it are reported, and scheduling resumes at the
boundary that follows; a window of RLIMIT ends. Before its time each event stays due, and so does a charge that the fabric cannot serve. That a
boundary counts from the last one, that a pool node which cannot be reached is charged nothing, and that what an instruction sent beyond the limit
is left for the next window, is the model's choice (log entries 93, 98 and 97). -/
def Obligations.Paddocks : Prop :=
  ∀ (s : State),
    (∀ n, let p := s.paddock n
      let now := (s.die (s.schedulerDie n)).cycle
      let next := p.boundary.toNat ≤ now.toNat
      p.quiesce = false → (next → exec (.quantumBoundary n) s = .next
        ((((s.setPaddock n { p with boundary := now + 1500 * p.desc.quantum.setWidth 64, resuming := false }).rereadPools n).assign n).postAdmissions.postOnce
          (.quantumBoundary n))) ∧
        (¬ next → exec (.quantumBoundary n) s = .next (s.postOnce (.quantumBoundary n)))) ∧
    (∀ h, (∀ o ∈ s.owed, o.herd ≠ h.uid) → s.herd? h.uid = some h → h.status ≠ .saved →
      let u := s.postOnce (.budgetCharge h.uid)
      let now := (s.die (dieOf h.core)).cycle.toNat
      let passed := (now + 2 ^ 64 - h.charged) % 2 ^ 64
      let charged := u.setHerd { h with charged := (now + 2 ^ 64 - passed % 1024) % 2 ^ 64 }
      let r := charged.regionOf h
      let agent := deviceAgent r.session (dieOf h.core)
      (passed < 1024 → exec (.budgetCharge h.uid) s = .next u) ∧
      (∀ e, 1024 ≤ passed → charged.devRead agent (r.pool + 128) 6 true = .error e →
        exec (.budgetCharge h.uid) s = .next (if e = notYet then u else charged)) ∧
      (∀ e v used, 1024 ≤ passed → charged.devRead agent (r.pool + 128) 6 true = .ok (v, used) →
        v.devWrite agent (r.pool + 128) (bytesOf 6 (used + passed / 1024)) = .error e →
        exec (.budgetCharge h.uid) s = .next (if e = notYet then u else charged)) ∧
      ∀ v w used, 1024 ≤ passed → charged.devRead agent (r.pool + 128) 6 true = .ok (v, used) →
        v.devWrite agent (r.pool + 128) (bytesOf 6 (used + passed / 1024)) = .ok w → w.regions = s.regions →
        exec (.budgetCharge h.uid) s =
          .next (if 0 < r.budget ∧ r.budget ≤ used + passed / 1024 ∧ (∀ x, s.region? r.uid = some x → x.exhausted = false) ∧
              (s.region? r.uid = none → ∀ x ∈ s.regions, x.session = r.session → x.pool = r.pool → x.exhausted = false)
            then w.exhaustPool r else w)) ∧
    (∀ o v w used, s.owed = [o] → s.herd? o.herd = none → o.region.budget = 0 →
      let agent := deviceAgent o.region.session o.die
      { s with owed := [] }.devRead agent (o.region.pool + 128) 6 true = .ok (v, used) →
      v.devWrite agent (o.region.pool + 128) (bytesOf 6 (used + o.units)) = .ok w → w.herds = s.herds →
      exec (.budgetCharge o.herd) s = .next w) ∧
    (∀ o, s.owed = [o] → s.herd? o.herd = none →
      { s with owed := [] }.devRead (deviceAgent o.region.session o.die) (o.region.pool + 128) 6 true = .error notYet →
      exec (.budgetCharge o.herd) s = .next (s.postOnce (.budgetCharge o.herd))) ∧
    (∀ n, n < s.paddocks.length → (s.paddock n).quiesce = false → ∃ t, exec (.quiesce n true) s = .next t ∧ (t.paddock n).quiesce = true ∧
      (t.paddock n).quiesceAt = s.dies.map (·.cycle) ∧ .paddockQuiesced n ∈ t.agenda ∧ .qstuck n ∈ t.agenda) ∧
    (∀ n, n < s.paddocks.length → let p := s.paddock n
      ∃ t, exec (.quiesce n false) s = .next t ∧ (t.paddock n).quiesce = false ∧ (t.paddock n).quiesced = false ∧ (t.paddock n).desc = p.next.getD p.desc ∧
        ((p.next.getD p.desc).lock = true → (t.paddock n).pclock = [0, 0, 0, 0]) ∧ .quantumBoundary n ∈ t.agenda ∧
        (t.paddock n).resuming = true ∧ ∀ r, t.paddockOf r.session = n → t.regionReady r = t) ∧
    (∀ n, (s.paddock n).quiesce = true → (s.paddock n).quiesced = false →
      let saved : Prop := (∀ h ∈ s.herds, s.paddockOf h.session = n → h.status = .saved) ∧ s.netIdle n = true
      let passed := (s.die 0).cycle.toNat - ((s.paddock n).quiesceAt.getD 0 0).toNat
      (saved → exec (.paddockQuiesced n) s = .next (s.setPaddock n { s.paddock n with quiesced := true })) ∧
      (¬ saved → exec (.paddockQuiesced n) s = .next (s.postOnce (.paddockQuiesced n))) ∧
      (15000000 ≤ passed → exec (.qstuck n) s = .next (s.paddockReport n 2)) ∧
      (passed < 15000000 → exec (.qstuck n) s = .next (s.postOnce (.qstuck n)))) ∧
    ∀ core t, (s.core core).rlimitEnd = some t →
      let debt (i : Nat) : Nat := s.sentBy i (dieOf core) - s.sessionLimit i
      (t.toNat ≤ (s.die (dieOf core)).cycle.toNat → (∀ x ∈ (s.core core).rlimit, debt x.1 = 0) →
        exec (.rlimitWindow core) s = .next (s.onCore core fun k => { k with rlimit := [], rlimitEnd := none })) ∧
      (t.toNat ≤ (s.die (dieOf core)).cycle.toNat → (∃ x ∈ (s.core core).rlimit, debt x.1 ≠ 0) →
        let left := (s.core core).rlimit.filterMap fun x => if debt x.1 = 0 then none else some (x.1, min x.2 (debt x.1))
        exec (.rlimitWindow core) s = .next ((s.onCore core fun k => { k with rlimit := left, rlimitEnd := some (t + 1024) }).post
          (.rlimitWindow core))) ∧
      ((s.die (dieOf core)).cycle.toNat < t.toNat → exec (.rlimitWindow core) s = .next (s.post (.rlimitWindow core)))

/-! ## Completions, fault records and copies on their way (R307 to R310, R352, R353, R356, R427, R429, R456, R475, R477, R484) -/

/-- Completion records (R352, R353, R475, R477): a record claims the slot of WRITEIDX and is written there with the slot's parity, its
interrupt follows; with the queue full it keeps its slot and reads READIDX again; a bad descriptor, or a slot that is poisoned or cannot be
written, stops a session's records until the descriptor, which is tested again and again, reads good. An access that the fabric cannot serve leaves
its event due.

Regions and their reports (R127, R352, R356, R427, R429, R484): a completion action decrements a counter, posts a record, or posts
one with its interrupt; a region whose herds have ended and whose writes are performed is done with and its action follows, or a report of
its STATUS; a fault record goes to the session's ring with WRITE raised, and a report follows; a graphics fault of the sampler and one of the
tree are each reported once for each region, and again no sooner than 1,048,576 cycles after the core's last report of the kind. -/
def Obligations.CompletionsAndReports : Prop :=
  (∀ (s : State) (r : CompletionRec),
       let agent := deviceAgent r.session r.die
       let bytes (d : QueueDesc) (w : Nat) : List Byte := bytesOf 8 r.tag.toNat ++
         bytesOf 8 (r.typ % 256 + r.status % 256 * 2 ^ 8 + r.die % 4 * 2 ^ 16 + r.qnum % 8 * 2 ^ 18 + w / 2 ^ d.sizelog % 2 * 2 ^ 21) ++ List.replicate 48 0
       let told (t : State) : State := if r.interrupt then t.emit (.msiSession r.session) else t
       let waits (t : State) (w : Nat) : State := t.post (.completionQueueReread { r with slot := some w })
       let room (d : QueueDesc) (w : Nat) : Prop := (w + 2 ^ 64 - d.read) % 2 ^ 64 < 2 ^ d.sizelog
       let stops (t : State) (c w : Nat) : State := if c = notYet then waits t w else waits (t.cqBad r.session) w
       let slot (d : QueueDesc) (w : Nat) : Nat := (d.base + 64 * (w % 2 ^ d.sizelog)) % 2 ^ 64
       let goes (i : Instr) (t : State) (d : QueueDesc) (w : Nat) : Prop :=
         (¬ room d w → exec i s = .next (waits t w)) ∧
         (∀ c, room d w → t.devRead agent (slot d w) 64 true = .error c → exec i s = .next (stops t c w)) ∧
         ∀ t' x, room d w → t.devRead agent (slot d w) 64 true = .ok (t', x) →
           (∀ c, t'.devWrite agent (slot d w) (bytes d w) = .error c → exec i s = .next (stops t' c w)) ∧
           ∀ t'', t'.devWrite agent (slot d w) (bytes d w) = .ok t'' → exec i s = .next (told t'')
       let failed (t : State) (c : Nat) : State := (if c = notYet then t else t.cqBad r.session).post (.completionRecordWrite r)
       (∀ u d, s.cqFault.contains r.session = false → s.cqDescriptor r.session r.die = .ok (u, d) →
         (∀ v, u.devWrite agent (u.cqAddress r.session + 16) (bytesOf 8 (d.write + 1)) = .ok v → goes (.completionRecordWrite r) v d d.write) ∧
         ∀ c, u.devWrite agent (u.cqAddress r.session + 16) (bytesOf 8 (d.write + 1)) = .error c →
           exec (.completionRecordWrite r) s = .next (failed u c)) ∧
       (s.cqFault.contains r.session = true → exec (.completionRecordWrite r) s = .next (s.post (.completionRecordWrite r))) ∧
       (∀ c, s.cqFault.contains r.session = false → s.cqDescriptor r.session r.die = .error c →
         exec (.completionRecordWrite r) s = .next (failed s c)) ∧
       (∀ u d w, r.slot = some w → s.cqFault.contains r.session = false → s.cqDescriptor r.session r.die = .ok (u, d) →
         goes (.completionQueueReread r) u d w) ∧
       (s.sessionState r.session = 1 →
         (∀ u d, s.cqDescriptor r.session (s.home r.session) = .ok (u, d) → u.sessionState r.session = 1 →
           exec (.cqDescriptorRetest r.session) s = .next ({ u with cqFault := setDel r.session u.cqFault }.postOnce (.cqDescriptorRetest r.session))) ∧
         (s.cqDescriptor r.session (s.home r.session) = .error notYet →
           exec (.cqDescriptorRetest r.session) s = .next (s.postOnce (.cqDescriptorRetest r.session))) ∧
         ∀ c, c ≠ notYet → s.cqDescriptor r.session (s.home r.session) = .error c → ∃ t, exec (.cqDescriptorRetest r.session) s = .next t ∧
           t.cqFault.contains r.session = true ∧ (t.padrep.getD (s.paddockOf r.session) 0).getLsbD 6 = true ∧
           .cqDescriptorRetest r.session ∈ t.agenda)) ∧
  (∀ (s : State),
       (∀ c : Completion, (c.cact = 0 → exec (.completionAction c) s = .next s) ∧
         (c.cact = 1 → exec (.completionAction c) s = .next (s.post (.depCounterDecrement c.cdie c.ctr 1 c.session))) ∧
         (c.cact = 2 ∨ c.cact = 3 → exec (.completionAction c) s = .next
           (s.post (.completionRecordWrite ⟨c.session, c.tag, c.typ, c.status, c.die, c.queue.getD 0, c.cact = 3, c.queue, none⟩)))) ∧
       (∀ r : Region, s.region? r.uid = some r → r.rcb.herds ≤ r.nextHerd → (∀ h ∈ s.herds, h.region ≠ r.uid) →
         let die := if r.origin.isSome then s.home r.session else r.die
         let q := (r.origin.map (·.1)).getD 0
         (s.regionQuiet r = false → exec (.regionComplete r.uid) s = .next (s.postOnce (.regionComplete r.uid))) ∧
         (s.regionQuiet r = true → ∃ t, exec (.regionComplete r.uid) s = .next t ∧ t.region? r.uid = none ∧ t.mem = s.mem ∧
           (r.status = 0 → .completionAction ⟨r.session, r.rcb.cact, r.rcb.ctr, r.rcb.cdie, r.rcb.tag, 1, 0, die, r.origin.map (·.1)⟩ ∈ t.agenda) ∧
           (r.status ≠ 0 → .completionRecordWrite ⟨r.session, r.rcb.tag, 0x81, r.status, die, q, true, r.origin.map (·.1), none⟩ ∈ t.agenda) ∧
           ∀ k slot, r.origin = some (k, slot) → slot ∉ (t.queue r.session k).running ∧ .queueStep r.session k ∈ t.agenda)) ∧
       (∀ (r : FaultRecord) (u v w : State) (n : Nat),
         let agent := deviceAgent r.session (dieOf r.core)
         let area := s.ctx r.session 576 64
         let fill := (bitsAt n 0 64 + 2 ^ 64 - bitsAt n 64 64) % 2 ^ 64
         (s.devRead agent area 16 true = .error notYet → exec (.faultRecordWrite r) s = .next (s.post (.faultRecordWrite r))) ∧
         (s.devRead agent area 16 true = .ok (u, n) →
         (1023 ≤ fill → exec (.faultRecordWrite r) s = .next (u.post (.faultRecordWrite r))) ∧
         (fill < 1023 → u.devWrite agent (area + 64 + 64 * (bitsAt n 0 64 % 1023)) (faultRecordBytes r) = .ok v →
           v.devWrite agent area (bytesOf 8 (bitsAt n 0 64 + 1)) = .ok w →
           exec (.faultRecordWrite r) s = .next (w.report r.session r.tag 0x81 (r.tcause.toNat % 256) (dieOf r.core) (w.queueOfFault r))))) ∧
       ∀ (core : Nat) (r : Region), s.region? r.uid = some r →
         let k := s.core core
         let now := (s.die (dieOf core)).cycle
         let reports (k : Core) (status : Nat) : Host.Outcome State Fault Refusal :=
           .next ((s.setCore core k).report r.session r.rcb.tag 0x81 status (dieOf core) (r.origin.map (·.1)))
         (k.samplerRegions.contains r.uid = false ∨ k.lastSamplerReport = none → exec (.graphicsFaultReport core r.uid false) s =
           reports { k with samplerRegions := setAdd r.uid k.samplerRegions, lastSamplerReport := some now } 0x4A) ∧
         (k.treeRegions.contains r.uid = false ∨ k.lastTreeReport = none → exec (.graphicsFaultReport core r.uid true) s =
           reports { k with treeRegions := setAdd r.uid k.treeRegions, lastTreeReport := some now } 0x4B) ∧
         (∀ t, k.samplerRegions.contains r.uid = true → k.lastSamplerReport = some t →
           ((now - t).toNat < 1048576 → exec (.graphicsFaultReport core r.uid false) s = .next s) ∧
           (1048576 ≤ (now - t).toNat → exec (.graphicsFaultReport core r.uid false) s =
             reports { k with samplerRegions := setAdd r.uid k.samplerRegions, lastSamplerReport := some now } 0x4A)) ∧
         (∀ t, k.treeRegions.contains r.uid = true → k.lastTreeReport = some t →
           ((now - t).toNat < 1048576 → exec (.graphicsFaultReport core r.uid true) s = .next s) ∧
           (1048576 ≤ (now - t).toNat → exec (.graphicsFaultReport core r.uid true) s =
             reports { k with treeRegions := setAdd r.uid k.treeRegions, lastTreeReport := some now } 0x4B)))

/-- A copy command on its way (R303, R307 to R310, R366, R382, R456). It starts once earlier commands of its queue have and its session's writes
are performed. A row is read, transformed and cut into words, and its lines of private frames count as requests, without which they wait where the
session is at its limit; a transposition cuts its words after its last row. Each word lands by itself, and the last ends the command after its
status word is updated. What the fabric cannot serve is done later. A row that faults suspends the command with a fault record. That a row is
read in one step, before or after words of earlier rows have landed, and that a fault of the status word suspends too, is the model's choice (log
entries 83 and 79). -/
def Obligations.CopyTransfers : Prop :=
  ∀ (s : State) (core : Nat) (c : CopyCmd) (before : List CopyCmd), s.copyCmd? core c.id = some c →
    (s.core core).engine.takeWhile (fun x => x.id ≠ c.id) = before →
    let rows := (layoutOf c.layoutRec).rows
    let agent : Agent := ⟨c.session, dieOf core, some core⟩
    let ready : Prop := c.started = true ∨ (∀ x ∈ before, x.started = true) ∧ s.netIdle (s.netOf c.session) = true
    let d := { c with started := true }
    let again := (s.setCmd core d).post (.copyTransferStart core c.id)
    let stops (e a : Nat) : Host.Outcome State Fault Refusal := .next (if e = notYet then again
      else (s.setCmd core (d.suspend e a)).post (.copyFaultSuspend core c.id))
    let allowed (lines : Nat) : Prop := lines = 0 ∨ s.belowLimit c.session (dieOf core) = true
    let goes (u : State) (d : CopyCmd) (lines : Nat) : State :=
      let t := (u.setCmd core d).noteRequests agent lines
      let t := if d.words = [] then t else t.postOnce (.copyWordLand core c.id)
      if d.row < rows then t.post (.copyTransferStart core c.id) else t
    let start := exec (.copyTransferStart core c.id) s
    let land := exec (.copyWordLand core c.id) s
    (c.suspended = false → ¬ ready → start = .next (s.post (.copyTransferStart core c.id))) ∧
    (c.suspended = false → ready → c.row < rows →
      (∀ e a, s.sourceRow core d c.row = .error (e, a) → start = stops e a) ∧
      (∀ x, s.sourceRow core d c.row = .ok x →
        (cmdXform c.cmd ≠ 1 →
          let out := applyRow d x.bytes
          (∀ e a, x.state.rowWords d c.row out.1 = .error (e, a) → start = stops e a) ∧
          ∀ u words, x.state.rowWords d c.row out.1 = .ok (u, words) → (¬ allowed x.lines → start = .next again) ∧
            (allowed x.lines → start = .next (goes u { d with row := c.row + 1, words := c.words ++ words, flags := c.flags ||| out.2 } x.lines))) ∧
        (cmdXform c.cmd = 1 →
          (c.row + 1 < rows → (¬ allowed x.lines → start = .next again) ∧
            (allowed x.lines → start = .next (goes x.state { d with rows := c.rows ++ [x.bytes], row := c.row + 1 } x.lines))) ∧
          ∀ u words, c.row + 1 = rows → x.state.transposedWords d (c.rows ++ [x.bytes]) (List.range (layoutOf c.layoutRec).cols) = .ok (u, words) →
            (¬ allowed x.lines → start = .next again) ∧
            (allowed x.lines → start = .next (goes u { d with rows := [], row := c.row + 1, words := c.words ++ words } x.lines))))) ∧
    (∀ row, (transposedRow (layoutOf c.layoutRec).elemBytes [row] 0) = row.take (layoutOf c.layoutRec).elemBytes) ∧
    (c.words ≠ [] → ∃ i w, c.words[i]? = some w ∧
      let open_ : Prop := ∀ l, w.loc = some l → s.writeNow (dieOf core) l.pa = true
      (¬ open_ → land = .next (s.post (.copyWordLand core c.id))) ∧
      (open_ → 1 < c.words.length → land =
        .next (((s.landWord core c w).setCmd core { c with words := c.words.eraseIdx i }).postOnce (.copyWordLand core c.id))) ∧
      (open_ → c.words = [w] → c.row < rows → land = .next ((s.landWord core c w).setCmd core { c with words := [] })) ∧
      (∀ u, open_ → c.words = [w] → rows ≤ c.row → s.copyStatus core c = .ok u → land = .next ((u.landWord core c w).endCmd core c)) ∧
      (∀ e, open_ → c.words = [w] → rows ≤ c.row → s.copyStatus core c = .error e → land = .next (if e = notYet then s.post (.copyWordLand core c.id)
        else (s.setCmd core (c.suspend e (layoutOf c.layoutRec).status)).post (.copyFaultSuspend core c.id)))) ∧
    ((layoutOf c.layoutRec).status = 0 ∨ c.flags = 0 → s.copyStatus core c = .ok s) ∧
    (c.suspended = true → exec (.copyFaultSuspend core c.id) s = .next (s.post (.faultRecordWrite c.report))) ∧
    (∀ h w bar, w.loc = none → w.herd = some h → w.bar = some bar → s.allotment? h = none → s.landWord core c w = s) ∧
    (∀ (t : Herd) w a, w.loc = none → w.herd = some t.uid → w.bar = none → w.poison = false → s.allotment? t.uid = some t → t.spad = [] →
      w.addr ≤ a → a < w.addr + w.bytes.length → ∃ g, (s.landWord core c w).allotment? t.uid = some g ∧
        Memory.byte g.spad a = w.bytes.getD (a - w.addr) 0)

/-! ## Queues, packets and sessions (R346 to R357, R375 to R388, R459, R461, R475 to R478, R482, R483) -/

/-- The queue processor (R346 to R348, R351, R357, R368, R475, R477, R478): a doorbell raises DB, or with bit 63 restarts a stopped queue;
a queue's next slot is consumed once DB has passed it and its parity is right; and a decrement lowers its counter, which at zero is
reloaded or freed and readies its node, which a misaligned address refuses; one of a poisoned counter is discarded and told to the shepherd (R464).
A slot is read as an acquire at system scope, again and again until its die has caught up with what the reader saw (R127). A doorbell has the
completion queue tested too (R477). What the fabric cannot serve is tried again. That the record of a legacy lookup that misses interrupts is the
model's choice (log entry 90). -/
def Obligations.QueueProcessor : Prop :=
  ∀ (s : State),
    (∀ session q (value : Word64), session < 1024 → q < 8 →
      let ring := exec (.doorbellWrite (64 * (8 * session + q)) value) s
      let x := s.queue session q
      let x' := if value.getLsbD 63 then { x with db := value.toNat % 2 ^ 63, stopped := false } else { x with db := max x.db value.toNat }
      let told := (s.setQueue x').postOnce (.cqDescriptorRetest session)
      (s.ctx session (448 + q) 1 = 0 → ring = .next s) ∧
      (∀ u d, s.ctx session (448 + q) 1 ≠ 0 → told.queueDescriptor session q = .ok (u, d) → ring = .next (u.postOnce (.queueStep session q))) ∧
      (∀ c, s.ctx session (448 + q) 1 ≠ 0 → told.queueDescriptor session q = .error c →
        ring = .next (if c = notYet then told.postOnce (.queueStep session q) else told.stopBadQueue x'))) ∧
    (∀ session q r d, let x := s.queue session q
      let step := exec (.queueStep session q) s
      x.stopped = false → x.waiting = false → x.unstarted = [] → s.recordWaits session q = false → s.sessionState session = 1 →
      s.packetsRun session = true →
      (∀ c, s.queueDescriptor session q = .error c → step = .next (if c = notYet then s.postOnce (.queueStep session q) else s.stopBadQueue x)) ∧
      (s.queueDescriptor session q = .ok (r, d) →
      (x.db ≤ d.read → step = .next r) ∧
      (∀ c, d.read < x.db → r.devAcquire (deviceAgent session (r.home session)) (d.slot d.read) 64 = .error c →
        step = .next (if c = notYet then r.postOnce (.queueStep session q) else r.stopBadQueue x)) ∧
      (∀ u, d.read < x.db → r.devAcquire (deviceAgent session (r.home session)) (d.slot d.read) 64 = .ok (u, none) →
        step = .next (u.postOnce (.queueStep session q))) ∧
      (∀ u v, d.read < x.db → r.devAcquire (deviceAgent session (r.home session)) (d.slot d.read) 64 = .ok (u, some v) →
        let p : Packet := ⟨session, q, d.read, packetWords v⟩
        let consumed (p : Packet) : Prop := ∃ t, step = .next t ∧ t = u.consume x d p ∧ (t.queue session q).unstarted = [d.read] ∧
          startEvent p ∈ t.agenda
        (v / 2 ^ 8 % 2 ≠ d.read / 2 ^ d.sizelog % 2 → step = .next u) ∧
        (v / 2 ^ 8 % 2 = d.read / 2 ^ d.sizelog % 2 → packetType p ≠ 1 ∨ packetLegacy p = false → consumed p) ∧
        (∀ template, v / 2 ^ 8 % 2 = d.read / 2 ^ d.sizelog % 2 → packetType p = 1 → packetLegacy p = true → u.packetOk p = true →
          u.legacyLookup (u.paddockOf session) (packetWord p 2) = some template →
          consumed { p with words := p.words ++ [BitVec.ofNat 64 template] }) ∧
        (v / 2 ^ 8 % 2 = d.read / 2 ^ d.sizelog % 2 → packetType p = 1 → packetLegacy p = true → u.packetOk p = true → x.missPosted = false →
          u.legacyLookup (u.paddockOf session) (packetWord p 2) = none → step = .next ((u.setQueue { x with missPosted := true }).post
            (.completionRecordWrite ⟨session, BitVec.ofNat 64 (packetWord p 2), 0x80, 0, u.home session, q, true, some q, none⟩)))))) ∧
    ∀ die ctr amount sender (c : DepCounter), die < s.dies.length → SMap.get? (s.die die).counters ctr = some c →
      let decrement := exec (.depCounterDecrement die ctr amount sender) s
      let refused : Host.Outcome State Fault Refusal := .next (s.report sender (BitVec.ofNat 64 (ctr + die * 65536)) 0x81 0x48 die none)
      let put (x : Option DepCounter) : State := s.onDie die fun d => { d with counters := match x with
        | some x => SMap.insert d.counters ctr x
        | none => SMap.erase d.counters ctr }
      let zero := put (if c.reload = 0 then none else some { c with count := c.reload })
      (c.poison = true → decrement = .next (s.tell die .poisonedReduction)) ∧
      (c.poison = false → (s.die die).live = true → c.session = sender → amount < c.count.toNat →
        decrement = .next (put (some { c with count := c.count - BitVec.ofNat 16 amount }))) ∧
      (c.poison = false → (s.die die).live = true → c.session = sender → amount = c.count.toNat →
        (c.node % 256 ≠ 0 → decrement = .next (zero.post (.completionRecordWrite ⟨c.session, 0, 1, 0x41, die, 0, true, none, none⟩))) ∧
        (∀ t, c.node % 256 = 0 → zero.dispatch c.session c.node none none die = .ok t → decrement = .next t) ∧
        ∀ e tag, c.node % 256 = 0 → zero.dispatch c.session c.node none none die = .error (e, tag) → decrement =
          .next (if e = notYet then s.post (.depCounterDecrement die ctr amount sender)
            else zero.post (.completionRecordWrite ⟨c.session, tag, 1, e, die, 0, true, none, none⟩))) ∧
      (c.poison = false → c.session ≠ sender ∨ c.count.toNat < amount → decrement = refused)

/-- Packets (R350, R351, R476): a packet starts once it may and keeps its rules, in slot order and behind a barrier; COPY moves a word at a
time, SIGNAL stores once the session's writes are performed, WAIT reads until its condition holds, SEAL, PUBLISH and DISPATCH act as the
instructions do, FORK claims a free child and then copies the bellwether's tables into it, MIGRATE stops its session; a packet that fails stops its queue
with one report. What the fabric cannot serve is tried again. -/
def Obligations.Packets : Prop :=
  ∀ (s : State) (p : Packet),
    let x := s.queue p.session p.q
    let due : Prop := p.slot ∉ x.running ∧ p.slot ∈ x.unstarted
    let may : Prop := x.stopped = false ∧ s.packetsRun p.session = true ∧ s.recordWaits p.session p.q = false ∧
      (packetBarrier p = true → x.running = [])
    let started := s.setQueue { x with unstarted := [], running := x.running ++ [p.slot] }
    let u := started.postOnce (.queueStep p.session p.q)
    let agent := u.packetAgent p
    let w := packetWord p
    let runs (i : Instr) (t : State) : Prop := exec i s = .next t
    (due → ¬ may → packetType p = 9 → runs (.packetNop p) (s.post (.packetNop p))) ∧
    (due → may → s.packetOk p = false → runs (.packetNop p) (started.packetFailed p 0x41)) ∧
    (due → may → s.packetOk p = true →
      runs (.packetNop p) (u.packetDone p) ∧
      (∀ v t, u.devRead agent (w 1) 4 = .ok (v, t) → ∀ v', v.devWrite agent (w 2) (bytesOf 4 t) = .ok v' →
        (w 3 ≤ 4 → runs (.packetCopy p) (v'.packetDone p)) ∧
        (4 < w 3 → ∃ p', runs (.packetCopy p) (v'.post (.packetCopy p')) ∧ p'.slot = p.slot ∧
          (8 = p.words.length → packetWord p' 1 = (w 1 + 4) % 2 ^ 64 ∧ packetWord p' 2 = (w 2 + 4) % 2 ^ 64 ∧ packetWord p' 3 = w 3 - 4))) ∧
      (∀ e, u.devRead agent (w 1) 4 = .error e → runs (.packetCopy p) (if e = notYet then u.post (.packetCopy p) else u.packetFailed p e)) ∧
      (∀ v t e, u.devRead agent (w 1) 4 = .ok (v, t) → v.devWrite agent (w 2) (bytesOf 4 t) = .error e →
        runs (.packetCopy p) (if e = notYet then v.post (.packetCopy p) else v.packetFailed p e)) ∧
      (u.netIdle (u.netOf p.session) = false → runs (.packetSignal p) (u.post (.packetSignal p))) ∧
      (∀ v, u.netIdle (u.netOf p.session) = true → u.devWrite agent (w 1) (bytesOf 8 (w 2)) = .ok v →
        runs (.packetSignal p) (v.packetDone p)) ∧
      (∀ e, u.netIdle (u.netOf p.session) = true → u.devWrite agent (w 1) (bytesOf 8 (w 2)) = .error e →
        runs (.packetSignal p) (if e = notYet then u.post (.packetSignal p) else u.packetFailed p e)) ∧
      (∃ t, runs (.packetWait p) t ∧ t = (u.setQueue { u.queue p.session p.q with waiting := true }).waitRead p) ∧
      (∀ pa e, u.sealTarget p.session (w 1) = .ok (pa, e) → u.netIdle (u.netOf p.session) = true →
        runs (.packetSeal p) ((u.sealPage p.session (u.home p.session) (w 1) pa e).packetDone p)) ∧
      (∀ c, u.sealTarget p.session (w 1) = .error c → runs (.packetSeal p) (u.packetFailed p c)) ∧
      (∀ x, u.sealTarget p.session (w 1) = .ok x → u.netIdle (u.netOf p.session) = false → runs (.packetSeal p) (u.post (.packetSeal p))) ∧
      (∀ c, u.publishTarget p.session (w 1) = .error c → runs (.packetPublish p) (u.packetFailed p c)) ∧
      (∀ y at_, u.publishTarget p.session (w 1) = .ok (y, at_) → u.windowBusy p.session y = true ∨ u.netIdle (u.netOf p.session) = false →
        runs (.packetPublish p) (u.post (.packetPublish p))) ∧
      (∀ y at_, u.publishTarget p.session (w 1) = .ok (y, at_) → u.windowBusy p.session y = false → u.netIdle (u.netOf p.session) = true →
        runs (.packetPublish p) ((u.swapTables p.session (u.home p.session) y at_).packetDone p)) ∧
      (∀ v, u.dispatch p.session (w 1) ((p.words[8]?).map BitVec.toNat) (some (p.q, p.slot)) (u.home p.session) = .ok v →
        runs (.packetDispatch p) v) ∧
      (∀ e tag, u.dispatch p.session (w 1) ((p.words[8]?).map BitVec.toNat) (some (p.q, p.slot)) (u.home p.session) = .error (e, tag) →
        runs (.packetDispatch p) (if e = notYet then u.post (.packetDispatch p) else u.packetFailed { p with words := setNth p.words 7 tag } e)) ∧
      (p.slot ∉ x.forks →
        (u.sessionState (w 1 / 2 ^ 16 % 2 ^ 10) ≠ 0 → runs (.packetFork p) (u.packetFailed p 0x44)) ∧
        (∀ c, c = w 1 / 2 ^ 16 % 2 ^ 10 → u.sessionState c = 0 →
          runs (.packetFork p) ((((u.setQueue { u.queue p.session p.q with forks := (u.queue p.session p.q).forks ++ [p.slot] }).setCtx c 33 2 3).setCtx
            c 61 1 1).post (.packetFork p)))) ∧
      (∀ e, u.queueDescriptor p.session p.q = .error e →
        runs (.packetMigrate p) (if e = notYet then u.post (.packetMigrate p) else u.packetFailed p 0x43)) ∧
      (∀ y d m, u.queueDescriptor p.session p.q = .ok (y, d) → m = w 1 % 2 ^ 10 → (u.paddock (u.paddockOf m)).quiesce = false →
        (d.priv = true → u.sessionState m = 1 → ∃ t, runs (.packetMigrate p) t ∧ .migrateMove p ∈ t.agenda) ∧
        (d.priv = false → runs (.packetMigrate p) (u.packetFailed p 0x43)) ∧
        (d.priv = true → u.sessionState m ≠ 1 → runs (.packetMigrate p) (u.packetFailed p 0x46)))) ∧
    (∀ b c, p.slot ∈ x.running → p.slot ∈ x.forks → b = w 1 % 2 ^ 10 → c = w 1 / 2 ^ 16 % 2 ^ 10 →
      let free (v : State) (n : Nat) : State :=
        ((v.setQueue { v.queue p.session p.q with forks := (v.queue p.session p.q).forks.filter (· ≠ p.slot) }).setCtx c 33 2 n).setCtx c 61 1 0
      (s.kin b c = false ∨ s.windows b ≠ [] → runs (.packetFork p) ((free s 0).packetFailed p 0x44)) ∧
      (s.kin b c = true → s.windows b = [] → s.sessionTree b = none → runs (.packetFork p) ((free s 0).packetFailed p 0x45)) ∧
      (∀ tree, s.kin b c = true → s.windows b = [] → s.sessionTree b = some tree →
        let copied := s.copyTables c (s.home p.session) (s.tablePool c (s.home c)) 0 State.forkLeaf 3 (s.root b)
        (s.forkOk b tree = false → runs (.packetFork p) ((free s 0).packetFailed p 0x44)) ∧
        (s.forkOk b tree = true → copied = none → runs (.packetFork p) ((free s 0).packetFailed p 0x45)) ∧
        (∀ v root, s.forkOk b tree = true → copied = some (v, root) →
          let t := (v.inherit b c).setCtx c 64 40 root
          runs (.packetFork p) ((((free (t.setCtx b 1002 10 (t.ctx b 1002 10 + 1)) 1).latchSched c).wakeQueues c).packetDone p)))) ∧
    (∀ v, p.slot ∈ x.running → s.devAcquire (s.packetAgent p) (w 1) 8 = .ok (v, none) → runs (.waitReread p) (v.post (.waitReread p))) ∧
    (∀ v t, p.slot ∈ x.running → s.devAcquire (s.packetAgent p) (w 1) 8 = .ok (v, some t) →
      let holds : Prop := (w 3 = 0 ∧ t = w 2) ∨ (w 3 = 1 ∧ w 2 ≤ t)
      (holds → runs (.waitReread p) ((v.setQueue { v.queue p.session p.q with waiting := false }).packetDone p)) ∧
      (¬ holds → runs (.waitReread p) (v.post (.waitReread p)))) ∧
    ((s.packetDone p).queue p.session p.q).running = x.running.filter (· ≠ p.slot) ∧
    .completionAction ⟨p.session, packetField p 16 2, packetField p 18 16, packetField p 34 2, p.words.getD 7 0, packetType p, 0, s.home p.session, some p.q⟩ ∈
      (s.packetDone p).agenda ∧
    ∀ status, ((s.packetFailed p status).queue p.session p.q).stopped = true

/-- The commons and the pools (R375, R379 to R383, R461): a sealed page is digested under the dedup secret, which a page of equal
content and title merges with and a new one promotes to, which waits while it is on its way, its frame is in use or its session is a
bellwether; a release that has come to its frame's home gives up one reference of its frame, and the last frees it; a waiting
pool return writes its entry once there is room, and is told to the shepherd after 2^20 cycles. When a page is digested is the model's choice (log
entry 38). -/
def Obligations.SealsAndPools : Prop :=
  ∀ (s : State),
    (∀ (j : SealJob) (secret : BitVec 256) (page : List Byte),
      let i := homeDie (j.frame * 4096)
      let dg := s.pageDigest j.session i secret page
      let bucket := dg % 2 ^ 22
      let die := dg / 2 ^ 62 % 4
      let d := s.die die
      let mine := d.directory.filter fun x => x.bucket = bucket ∧ x.digest.toNat = dg
      let event := exec (.sealDigest j) s
      let u := s.shipNew .control j.session i die
      let equal (x : DirEntry) : Prop := x.title.toNat = u.title j.session ∧ u.plaintext x.frame (u.tkeyslot j.session) = some page
      let held : Prop := s.onWay j.id = true ∨ s.frameBusy j.frame = true ∨ s.sessionState j.session = 2
      (s.die i).live = true → (held ∨ (s.die i).shepherd.dedup = none → event = .next (s.post (.sealDigest j))) ∧
      (¬ held → (s.die i).shepherd.dedup = some secret → s.keyOk j.session j.keyslot i = true → s.plaintext j.frame j.keyslot = some page →
        d.live = true → d.poisonedBuckets.contains bucket = false →
        (mine = [] → event = .next (u.promote die bucket dg j page false)) ∧
        (∀ x, mine = [x] → equal x → x.refcnt < 2 ^ 24 - 1 →
          event = .next ((u.setDir die bucket x.index (some { x with refcnt := x.refcnt + 1 })).merge die j { x with refcnt := x.refcnt + 1 })) ∧
        (∀ x, mine = [x] → ¬ equal x → event = .next ((u.onDie die Die.countCollision).promote die bucket dg j page true)))) ∧
    (∀ (j : SealJob) (x : DirEntry) (die : Nat),
      let e := s.clearNum j.entryPa 16
      let home := homeDie (j.frame * 4096)
      let same : Prop := pteFrame e = j.frame ∧ pteKey e = j.keyslot ∧ pteBit e 108 = true
      (¬ same → s.merge die j x = s.unref die x) ∧
      (same → die < s.dies.length →
        let t := ((s.putNum j.entryPa 16 (withBits (withBits (withBits e 0 40 x.frame) 96 10 (s.tkeyslot j.session)) 110 1 1)).tlbTell
          j.session home none).dropStale (j.frame * 4096) 4096
        s.merge die j x = (t.poolReturn home (t.framePool j.session home) j.frame).onDie die Die.countMerge ∧
        ((s.merge die j x).die die).dirstat0 = countUp (s.die die).dirstat0 0)) ∧
    (∀ id frame, (s.die (homeDie (frame * 4096))).live = true → s.onWay id = true →
      exec (.commonsRelease ⟨id, frame⟩) s = .next (s.post (.commonsRelease ⟨id, frame⟩))) ∧
    (∀ id frame x, s.onWay id = false → let j := homeDie (frame * 4096)
      (s.die j).live = true → ((s.die j).directory.find? fun y => y.frame = frame) = some x →
      (s.die j).poisonedBuckets.contains x.bucket = false →
      (1 < x.refcnt → exec (.commonsRelease ⟨id, frame⟩) s = .next (s.setDir j x.bucket x.index (some { x with refcnt := x.refcnt - 1 }))) ∧
      (x.refcnt ≤ 1 → exec (.commonsRelease ⟨id, frame⟩) s = .next
        (((s.setDir j x.bucket x.index none).dropFrame x.frame).poolReturn j (s.commonsPool j) x.frame))) ∧
    (∀ id frame, s.onWay id = false → let j := homeDie (frame * 4096)
      (s.die j).live = true → ((s.die j).directory.find? fun y => y.frame = frame) = none →
      exec (.commonsRelease ⟨id, frame⟩) s = .next (s.onDie j Die.countBadRelease)) ∧
    (∀ die (value : Word64), exec (.crel die value) s = .next ((s.post (.commonsRelease ⟨s.nextUid, value.toNat % 2 ^ 40⟩)).bumpUid)) ∧
    ∀ die header frame (since : Word64),
      let n := s.poolCount header
      let again := Event.poolReturnRetry die header frame since
      (n < s.poolCap header → exec (.poolReturnRetry die header frame since) s = .next
        ((s.putNum (s.clearNum (header + 8) 8 + 8 * n) 8 frame).putNum header 4 (n + 1))) ∧
      (s.poolCap header ≤ n → exec (.poolReturnRetry die header frame since) s = .next (s.post again)) ∧
      (again ∉ s.agenda → exec (.poolReturnStall die header frame since) s = .next s) ∧
      (again ∈ s.agenda → 2 ^ 20 ≤ ((s.die die).cycle - since).toNat →
        exec (.poolReturnStall die header frame since) s = .next (s.tell die .poolReturn)) ∧
      (again ∈ s.agenda → ((s.die die).cycle - since).toNat < 2 ^ 20 →
        exec (.poolReturnStall die header frame since) s = .next (s.post (.poolReturnStall die header frame since)))

/-- Moves of sessions, keys and pages (R376, R386 to R389, R459, R483): a migration waits for its herds' saves, then copies the upper
tables, moves the key and changes HOME; a key load waits until no access uses the slot, erases it, and takes the key that the blob holds;
an epoch sums and halves the placement counters and selects pages to move; and a page that may move is copied to a frame of the other die,
to which its entry then points. That a migration's copy, key and HOME change in one step, which regions an epoch takes, and which frames stay, is
the model's choice (log entries 39 and 40). -/
def Obligations.Moves : Prop :=
  ∀ (s : State),
    (∀ (p : Packet), let session := packetWord p 1 % 2 ^ 10
      let die := packetWord p 1 / 2 ^ 16 % 4
      let saved : Prop := ∀ h ∈ s.herds, h.session = session → h.status = .saved
      let copied := s.copyTables session (s.home session) (s.tablePool session die) 2 (fun s e => some (s, e)) 3 (s.root session)
      let active (s : State) : State := (((s.setCtx session 33 2 1).setCtx session 61 1 0).latchSched session).wakeQueues session
      let rooted (t : State) (root : Nat) : State := (t.setCtx session 64 40 root).tlbTell session (t.home session) none
      (¬ saved ∨ s.keyMoveWaits session die = true → exec (.migrateMove p) s = .next (s.post (.migrateMove p))) ∧
      (∀ t root v, saved → s.keyMoveWaits session die = false → (s.die die).live = true → copied = some (t, root) →
        (rooted t root).moveKey session die = some v →
        exec (.migrateMove p) s = .next ((active (v.setCtx session 35 2 die)).packetDone p)) ∧
      (saved → s.keyMoveWaits session die = false → (s.die die).live = false ∨ copied = none ∨ (∀ t root, copied = some (t, root) → (rooted t root).moveKey session die = none) →
        exec (.migrateMove p) s = .next ((active (s.tlbTell session (s.home session) none)).packetFailed p 0x46))) ∧
    (∀ die slot blob, let h := (s.die die).shepherd
      let wait : Host.Outcome State Fault Refusal := .next (s.post (.keyLoad die slot blob))
      let erased := (s.flushKey slot die).onDie die fun d => { d with keys := SMap.erase d.keys slot }
      (h.mode ≠ .running ∨ h.vaultKey = none → exec (.keyLoad die slot blob) s = wait) ∧
      ∀ v, h.mode = .running → h.vaultKey = some v →
        (slot = 0 ∨ 1024 ≤ slot → exec (.keyLoad die slot blob) s = .next (s.emit (.keyLoad die slot false))) ∧
        (0 < slot → slot < 1024 → s.keyInUse slot die = true → exec (.keyLoad die slot blob) s = wait) ∧
        (0 < slot → slot < 1024 → s.keyInUse slot die = false → exec (.keyLoad die slot blob) s =
          .next (match if blob.length = 72 then unwrapKey (bytesOf 32 v.toNat) blob else none with
            | some key => (erased.onDie die fun d => { d with keys := SMap.insert d.keys slot (BitVec.ofNat 512 (ofBytes key)) }).emit (.keyLoad die slot true)
            | none => erased.emit (.keyLoad die slot false)))) ∧
    (∀ die, let d := s.die die
      d.live = true → (d.cycle.toNat < d.epochAt.toNat → exec (.placementEpoch die) s = .next (s.post (.placementEpoch die))) ∧
      (die < s.dies.length → d.epochAt.toNat ≤ d.cycle.toNat → ∃ t, exec (.placementEpoch die) s = .next t ∧ (t.die die).epochAt = d.cycle + 1048576 ∧
        (t.die die).epochSums = epochSums d.placement ∧ .placementEpoch die ∈ t.agenda ∧
        (∀ r ∈ (t.die die).placement, ∃ x ∈ d.placement, r = { x with counts := x.counts.map fun (c : BitVec 8) => c >>> 1 } ∧ ∃ c ∈ r.counts, c ≠ 0) ∧
        (∀ r i, i < 16 → d.placement = [r] → s.selected die r = true → .frameMove ⟨r.session, r.va + 4096 * i, die, r.busiest⟩ ∈ t.agenda) ∧
        t.mem = s.mem)) ∧
    ∀ (m : FrameMove) pa e t new, s.walk m.session m.va = .ok (pa, e) →
      let frame := pteFrame e
      let may : Prop := s.sessionState m.session % 2 = 1 ∧ homeDie (frame * 4096) = m.home ∧ pteSize e = 0 ∧ pteBit e 108 = false ∧ pteBit e 110 = false ∧
        pteGranules e = 0 ∧ (s.die m.dest).live = true ∧ s.keyOk m.session (pteKey e) m.home = true ∧ s.keyOk m.session (pteKey e) m.dest = true ∧
        s.windowOf m.session m.va = none ∧ ∃ x, s.sessionTree m.session = some x ∧ frame ∉ x.1 ∧ frame - 1 ∉ x.1
      let copy := ((t.frameUnder frame (pteKey e)).copyBytes (frame * 4096) (new * 4096) 4096 (t.keyPair (pteKey e) m.dest)).shipLines
        m.session m.home m.home m.dest 4096
      let named := (copy.putNum pa 16 (withBits e 0 40 new)).tlbTell m.session m.home (some m.va)
      (¬ may → exec (.frameMove m) s = .next s) ∧
      (may → s.frameBusy frame = true → exec (.frameMove m) s = .next (s.post (.frameMove m))) ∧
      (may → s.frameBusy frame = false → s.poolTake (s.framePool m.session m.dest) = some (t, new) →
        exec (.frameMove m) s = .next ((named.dropStale (frame * 4096) 4096).poolReturn m.home (named.framePool m.session m.home) frame))

/-! ## The Ryuzo fabric and its links (R366, R390 to R398, R466 to R473) -/

/-- Ordered packets, reads and reports of the fabric (R366, R392 to R398, R469, R470): a packet enters with its stamp while its window is
open and no removal is prepared, and is delivered when its stamp is Ready, else kept early, in an entry of its own where the others are taken and no
other packet of its source waits; a read is served once its stamp conditions hold; an acquire catches up
with what its reply names; a report is sent once 1,024 deliveries of one source are unreported or 4,096 cycles have passed, and raises A
and K; and a wait of 2^20 cycles is counted and told. What room the entries set aside leave, that a removal prepared holds what
would enter the fabric, and that a notice raises the shepherd's vector are the model's readings (log entries 89, 44 and 96). -/
def Obligations.FabricTransport : Prop :=
  ∀ (s : State),
    (∀ die r, ((s.die die).arbiter.find? fun x => x.id = r.id) = some r →
      let now := (s.die die).cycle
      ((now - r.since).toNat < 8192 → exec (.arbiterPromotion die r.id) s = .next (s.post (.arbiterPromotion die r.id))) ∧
      (8192 ≤ (now - r.since).toNat → exec (.arbiterPromotion die r.id) s = .next (s.setDie die { s.die die with
        arbiter := (s.die die).arbiter.map fun x => if x.id = r.id then { x with promoted := true } else x }))) ∧
    (∀ p : FabPacket, let n := s.net p.src p.net
      let i := 4 * p.src + p.dst
      let live : Prop := (s.die p.src).live = true ∧ (s.die p.dst).live = true
      let open_ : Prop := (n.k.getD i 0 - n.a.getD p.dst 0).toNat < 16384
      let turn : Prop := s.earlierUnsent p = false ∧ s.yieldsTurn p = false ∧ s.holds p.src = false
      (¬ live → exec (.orderedPacketSend p) s = .next ((s.losePacket p).leaveArbiter p)) ∧
      (live → ¬ turn → exec (.orderedPacketSend p) s = .next (s.post (.orderedPacketSend p))) ∧
      (live → turn → ¬ open_ → ∃ t, exec (.orderedPacketSend p) s = .next t ∧ .orderedPacketSend p ∈ t.agenda ∧ t.mem = s.mem) ∧
      (live → turn → open_ → ∃ t q, exec (.orderedPacketSend p) s = .next t ∧ .orderedPacketArrival q ∈ t.agenda ∧ q.src = p.src ∧ q.dst = p.dst ∧
        q.net = p.net ∧ q.acts = p.acts ∧ q.note = p.note ∧ q.gen = (s.die p.src).fabstat.toNat % 8 ∧ t.mem = s.mem ∧
        (n.k.length = 16 → p.src < 4 → p.dst < 4 → q.seq = n.k.getD i 0 + 1 ∧ (∀ x, x < 4 → x ≠ p.src → q.dep.getD x 0 = n.k.getD (4 * x + p.dst) 0) ∧
          (p.src < s.dies.length → p.net < (s.die p.src).nets.length → (t.net p.src p.net).k.getD i 0 = n.k.getD i 0 + 1)))) ∧
    (∀ p : FabPacket, let n := s.net p.dst p.net
      let gen := (s.die p.dst).fabstat.toNat % 8
      let arrive := exec (.orderedPacketArrival p) s
      let held : Prop := s.earlierArrival p = true ∨ s.routeBusy p.src p.dst = true
      let ready : Prop := n.d.getD p.src 0 = p.seq - 1 ∧ ∀ x, x < 4 → x ≠ p.src → x ≠ p.dst → (n.d.getD x 0 - p.dep.getD x 0).toNat < 2 ^ 15
      ((s.die p.dst).live = false → arrive = .next (s.losePacket p)) ∧
      ((s.die p.dst).live = true → p.gen ≠ gen → arrive = .next (s.discardPacket p)) ∧
      ((s.die p.dst).live = true → p.gen = gen → held → arrive = .next (s.post (.orderedPacketArrival p))) ∧
      ((s.die p.dst).live = true → p.gen = gen → ¬ held → ready → arrive = .next (s.deliver p)) ∧
      let rest (m : Net) : Nat := m.early.countP fun x => !m.aside.contains x.id
      let room : Prop := rest n < 45 ∨ ((s.die p.dst).nets.map fun m => rest m - 45).sum < 128
      let kept (aside : List Nat) : Prop := ∃ t : State, arrive = .next (t.release p.dst p.id) ∧ t.mem = s.mem ∧
        (p.dst < s.dies.length → p.net < (s.die p.dst).nets.length → (t.net p.dst p.net).early = n.early ++ [p] ∧
          (t.net p.dst p.net).aside = aside ∧ (t.net p.dst p.net).d = n.d)
      ((s.die p.dst).live = true → p.gen = gen → ¬ held → ¬ ready →
        (room → kept n.aside) ∧
        (¬ room → (∀ q ∈ n.early, q.src ≠ p.src) → kept (setAdd p.id n.aside)) ∧
        (¬ room → (∃ q ∈ n.early, q.src = p.src) →
          arrive = .next ((s.post (.orderedPacketArrival p)).stallBegins p.dst p.net p.dst))) ∧
      (p.dst < s.dies.length → p.net < (s.die p.dst).nets.length → p.src < n.d.length → n.early = [] → p.note = none → p.acts = [] →
        ((s.deliver p).net p.dst p.net).d.getD p.src 0 = p.seq ∧ .deliveryReportSend p.dst p.net ∈ (s.deliver p).agenda) ∧
      (∀ loc bytes, n.early = [] → p.note = none → p.acts = [.write loc bytes] → (s.deliver p).mem = ((s.rekey loc).performWrite loc.pa bytes).mem)) ∧
    (∀ r : ReadReq, let n := s.net r.dst r.net
      let gen := (s.die r.dst).fabstat.toNat % 8
      let servable : Prop := (n.d.getD r.src 0 - r.seq).toNat < 2 ^ 15 ∧
        ∀ x, x < 4 → x ≠ r.src → x ≠ r.dst → (n.d.getD x 0 - r.dep.getD x 0).toNat < 2 ^ 15
      ((s.die r.dst).live = false → exec (.readRequestServe r) s = .next (s.poisonRead r)) ∧
      ((s.die r.dst).live = true → r.gen ≠ gen → exec (.readRequestServe r) s =
        .next ((s.poisonRead r).onDie r.dst fun d => { d with fabstat := bumpCount d.fabstat 32 1 })) ∧
      ((s.die r.dst).live = true → r.gen = gen → servable → s.earlierRead r = false → s.routeBusy r.src r.dst = false →
        exec (.readRequestServe r) s = .next (s.serveRead r)) ∧
      ((s.die r.dst).live = true → r.gen = gen → ¬ servable ∨ s.earlierRead r = true ∨ s.routeBusy r.src r.dst = true → exec (.readRequestServe r) s = .next (s.post (.readRequestServe r)))) ∧
    (∀ r : ReadReply, let n := s.net r.reader r.net
      let known := s.setNet r.reader r.net { n with k := raiseAll n.k r.k }
      let caught : Prop := ∀ x, x < 4 → x ≠ r.reader → (n.d.getD x 0 - r.k.getD (4 * x + r.reader) 0).toNat < 2 ^ 15
      (s.onWay r.id = true → exec (.acquireCatchup r) s = .next (s.post (.acquireCatchup r))) ∧
      (s.onWay r.id = false → caught → exec (.acquireCatchup r) s = .next (known.opArrived r.flock r.op)) ∧
      (s.onWay r.id = false → ¬ caught → exec (.acquireCatchup r) s = .next (known.post (.acquireCatchup r)))) ∧
    (∀ die net, let n := s.net die net
      let none_ : Prop := ∀ c ∈ n.delivered, c = 0
      let due : Prop := s.holds die = false ∧ ((∃ c ∈ n.delivered, 1024 ≤ c) ∨ n.reportAt.toNat ≤ (s.die die).cycle.toNat)
      (none_ → exec (.deliveryReportSend die net) s = .next s) ∧
      (¬ none_ → (s.die die).live = true → ¬ due → exec (.deliveryReportSend die net) s = .next (s.postOnce (.deliveryReportSend die net))) ∧
      (¬ none_ → (s.die die).live = true → due → ∃ t, exec (.deliveryReportSend die net) s = .next t ∧
        (die < s.dies.length → net < (s.die die).nets.length → (t.net die net).delivered = [0, 0, 0, 0]) ∧
        ∀ j, j < 4 → j ≠ die → (s.die j).live = true → ∃ id, .deliveryReportReceive ⟨die, j, net, n.d, id⟩ ∈ t.agenda)) ∧
    (∀ r : DeliveryReport, let n := s.net r.dst r.net
      (s.onWay r.id = true → exec (.deliveryReportReceive r) s = .next (s.post (.deliveryReportReceive r))) ∧
      (s.onWay r.id = false → r.dst < s.dies.length → r.net < (s.die r.dst).nets.length → r.src < n.a.length → n.k.length = 16 → ∃ t, exec (.deliveryReportReceive r) s = .next t ∧
        (t.net r.dst r.net).a.getD r.src 0 = smax (n.a.getD r.src 0) (r.d.getD r.dst 0) ∧
        (∀ x, x < 4 → x ≠ r.src → r.src < 4 → (t.net r.dst r.net).k.getD (4 * x + r.src) 0 = smax (n.k.getD (4 * x + r.src) 0) (r.d.getD x 0)) ∧
        (t.net r.dst r.net).d = n.d)) ∧
    ∀ die, let late (x : Option (Word64 × Bool)) : Bool := x.any fun y => y.2 = false && 2 ^ 20 ≤ ((s.die die).cycle - y.1).toNat
      let count := ((s.die die).nets.map fun n => (n.stall.filter late).length).sum
      die < s.dies.length → ∃ t, exec (.fabricStall die) s = .next t ∧ (t.die die).fabstat = bumpCount (s.die die).fabstat 48 count ∧
        (0 < count → t.out = s.out ++ [.shepherd die .fabricStall, .msiShepherd die]) ∧ (count = 0 → t.out = s.out)

/-- Links, heartbeats and removals (R466, R467, R471 to R473). A group that is intact and in its turn is accepted and acknowledged, one in its turn
whose CRC fails is refused by name and its failure counted; the refused group and all later ones go again, as one does that is left
unacknowledged, and no more than 64 are unacknowledged; a link that retrains in vain goes down; the tenth heartbeat missed in succession removes
its die (the model's reading, log entry 43); a die with both links down is removed; and a removal is a commit in two phases: every live shepherd
has it to prepare, once all have, the fabric is emptied and the coordinator writes the commit record, and each die takes zero counters, the next
generation and the live dies. That a removal takes effect on what is removed before its commit, that what the fabric holds is delivered or lost
in the one step that commits, and that a notice raises the shepherd's vector are the model's readings (log entries 44, 88 and 96). -/
def Obligations.FabricLinks : Prop :=
  ∀ (s : State),
    (∀ die link g, let k := s.link die link
      let far := neighbour die link
      let up : Prop := k.up = true ∧ k.training = false ∧ s.groupBehind die link g = false
      let intact : Prop := g.crc = crc32 (g.payload.flatMap (fun f => bytesOf 32 f.toNat) ++ Config.controlBytes g.seq g.ack g.nak)
      let receive := exec (.linkGroupReceive die link g) s
      let failed : State := (s.post (.linkNakReceive far link k.expect)).onLink die link fun k =>
        { k with fails := k.fails + 1, firstFail := some (k.firstFail.getD (s.die die).cycle) }
      (k.up = false ∨ k.training = true → receive = .next s) ∧
      (k.up = true → k.training = false → s.groupBehind die link g = true → receive = .next (s.post (.linkGroupReceive die link g))) ∧
      (up → g.seq ≠ k.expect → receive = .next s) ∧
      (up → g.seq = k.expect → ¬ intact → die < s.dies.length → link < (s.die die).links.length →
        receive = .next (if k.fails = 7 then failed.post (.linkRetrain die link) else failed)) ∧
      (up → intact → g.seq = k.expect → die < 4 → link < 2 → s.dies.length = 4 → (∀ d ∈ s.dies, d.links.length = 2) → ∃ t, receive = .next t ∧
        (t.link die link).expect = k.expect + 1 ∧ (t.link die link).received = k.received ++ [g.payload] ∧ (t.link die link).fails = 0 ∧
        (t.link die link).firstFail = none ∧ t.mem = s.mem) ∧
      (64 ≤ k.replay.length → s.nextParcel die link = none)) ∧
    (∀ die link (seq : BitVec 12), let k := s.link die link
      let again := s.post (.linkResendTimeout die link seq)
      (k.up = true → k.training = false → exec (.linkNakReceive die link seq) s = .next
        (s.resend die link ((k.replay.filter fun x => (x.1.seq - seq).toNat < 2048).map (·.1)))) ∧
      (k.up = true → k.training = true → exec (.linkNakReceive die link seq) s = .next (s.post (.linkNakReceive die link seq))) ∧
      (∀ g t, (k.replay.find? fun x => x.1.seq = seq) = some (g, t) → k.up = true → k.training = false →
        (((s.die die).cycle - t).toNat < 2048 → exec (.linkResendTimeout die link seq) s = .next again) ∧
        (2048 ≤ ((s.die die).cycle - t).toNat →
          exec (.linkResendTimeout die link seq) s = .next ((s.resend die link [g]).post (.linkResendTimeout die link seq)))) ∧
      ((k.replay.find? fun x => x.1.seq = seq) = none → exec (.linkResendTimeout die link seq) s = .next s)) ∧
    (∀ die link, let k := s.link die link
      let both (g : Link → Link) : State := s.onBothEnds die link g
      let far := neighbour die link
      (k.up = true → k.training = false → ∃ ok, exec (.linkRetrain die link) s =
        .next ((both fun k => { k with training := true }).post (.linkRetrainComplete die link ok))) ∧
      (k.training = true → exec (.linkRetrainComplete die link true) s = .next (((both fun k => { k with training := false }).onBothEnds die link
        fun k => { k with fails := 0, retrains := 0, firstFail := none }).settlePorts)) ∧
      (k.training = true → ∃ t, exec (.linkRetrainComplete die link false) s = .next t ∧
        (3 ≤ k.retrains → .linkDown die link ∈ t.agenda) ∧
        (∀ at_, k.firstFail = some at_ → 15000000 ≤ ((s.die die).cycle - at_).toNat → .linkDown die link ∈ t.agenda) ∧
        (k.retrains < 3 → k.firstFail = none → .linkRetrain die link ∈ t.agenda)) ∧
      (k.up = true → ∃ t, exec (.linkDown die link) s = .next t ∧
        t.out = s.out ++ [.shepherd die .linkDown, .msiShepherd die, .shepherd far .linkDown, .msiShepherd far] ∧
        (.dieRemoval (.link die far) ∈ t.agenda ∨ .dieRemoval (.die die) ∈ t.agenda ∨ .dieRemoval (.die far) ∈ t.agenda))) ∧
    (∀ die, let d := s.die die
      let h := d.shepherd
      let due : Prop := d.live = true ∧ 1500000 ≤ (d.cycle - h.beat).toNat
      let put (n : Nat) : State := s.setDie die { d with shepherd := { h with beat := d.cycle, missed := n } }
      (d.live = true → (d.cycle - h.beat).toNat < 1500000 → exec (.heartbeat die false) s = .next (s.post (.heartbeat die false))) ∧
      (due → h.mode = .running → exec (.heartbeat die false) s = .next (((put 0).emit (.heartbeat die)).post (.heartbeat die false))) ∧
      (due → h.missed < 9 → exec (.heartbeat die true) s = .next ((put (h.missed + 1)).post (.heartbeat die false))) ∧
      (due → 9 ≤ h.missed → exec (.heartbeat die true) s = .next ((put 10).postOnce (.dieRemoval (.die die))))) ∧
    (∀ r, (s.die r).live = true →
      exec (.dieRemoval (.die r)) s = .next ((s.removeDie r).resolveCommit.removeCutOff.postOnce .resynchronisation)) ∧
    (∀ r, s.herds = [] → r < 4 → s.dies.length = 4 → (∀ d ∈ s.dies, d.links.length = 2) → s.paddocks.length = 8 →
      let t := s.removeDie r
      (t.die r).live = false ∧ (t.die r).counters = [] ∧ (∀ l, l < 2 → (t.link (neighbour r l) l).up = false) ∧
        ∀ n, n < 8 → (∃ c ∈ s.paddockClusters n, c / 24 = r) → (t.paddock n).quiesce = true) ∧
    (∀ a b, (s.die a).live = true → (s.die b).live = true →
      exec (.dieRemoval (.link a b)) s = .next ((s.removeLink a b).removeCutOff.postOnce .resynchronisation)) ∧
    (∀ r, (s.die r).live = false → exec (.dieRemoval (.die r)) s = .next s) ∧
    (∀ d, d < 4 → (s.die d).live = true → (∀ k ∈ (s.die d).links, k.up = false) → .dieRemoval (.die d) ∈ s.removeCutOff.agenda) ∧
    (let again : Host.Outcome State Fault Refusal := .next (s.post .resynchronisation)
      let runs : Prop := (s.shep s.coordinator).mode = .running
      let has (i : Nat) (seq : BitVec 32) (n : Nat) : Prop := (s.shep i).journal.seq = seq ∧ n ≤ (s.shep i).journal.state.toNat
      (¬ runs → exec .resynchronisation s = again) ∧
      (runs → s.dies.length = 4 → (∀ i ∈ s.liveDies, (s.shep i).staged = none) → ∃ t seq, exec .resynchronisation s = .next t ∧ t.mem = s.mem ∧
        ∀ i ∈ s.liveDies, (t.shep i).staged = some (seq, none) ∧ .prepareReport i ∈ t.agenda) ∧
      (∀ seq c, runs → s.inProgress = some (seq, some c) → exec .resynchronisation s = again) ∧
      (∀ seq, runs → s.inProgress = some (seq, none) →
        ((∀ i ∈ s.liveDies, has i seq 1 ∧ ¬ has i seq 2) → exec .resynchronisation s = .next s.resync.commit) ∧
        ((∃ i ∈ s.liveDies, ¬ has i seq 1 ∨ has i seq 2) → exec .resynchronisation s = again)) ∧
      ∀ i seq, (s.die i).live = true → (s.shep i).staged = some (seq, none) → has i seq 1 → s.holds i = true) ∧
    ((∀ e ∈ s.agenda, packetOf e = none ∧ (∀ r, e ≠ .readRequestServe r) ∧ (∀ r, e ≠ .acquireCatchup r) ∧ ∀ r, e ≠ .deliveryReportReceive r) →
      (∀ d ∈ s.dies, ∀ n ∈ d.nets, n.early = []) → s.resync.mem = s.mem ∧ s.resync.agenda = s.agenda ∧
        ∀ d ∈ s.resync.dies, ∀ k ∈ d.links, k.outbox = [] ∧ k.slots = []) ∧
    ∀ die seq, die < 4 → s.dies.length = 4 → (s.die die).live = true → (s.shep die).mode = .running → (s.shep die).staged = some (seq, none) →
      let has (i : Nat) (n : Nat) : Prop := (s.shep i).journal.seq = seq ∧ n ≤ (s.shep i).journal.state.toNat
      ((∀ i ∈ s.liveDies, ¬ has i 2) → exec (.commitApply die) s = .next s) ∧
      ((∃ i ∈ s.liveDies, has i 2) → ¬ has die 3 → ∃ t, exec (.commitApply die) s = .next t ∧ t.mem = s.mem ∧
        (t.shep die).journal = ⟨seq, 3, 0, false⟩ ∧ (t.die die).nets = (s.die die).nets.map (fun _ => Net.reset) ∧
        (t.die die).fabstat.toNat % 8 = ((s.die die).fabstat.toNat % 8 + 1) % 8 ∧
        (∀ e, e < 4 → (t.die die).fabstat.getLsbD (3 + e) = (s.die e).live) ∧
        ((∀ i ∈ s.liveDies, i ≠ die → has i 3) → .commitDone ∈ t.agenda))

/-! ## System software and upkeep (R5, R26, R361, R366, R404, R405, R428, R429, R455, R457, R463 to R465, R479) -/

/-- Invalidations, held flocks and suspended commands (R361, R428, R429, R457). TLBINV1 removes copies on all dies and stays busy until
accesses of the PASID are performed, whether or not they used one (the model's choice, log entry 57); FLTCTL retries, skips, enters the handler of, ends or aborts the domain of the held flock it
names, and is rejected where there is none or the action is not allowed; ENGCTL resumes or abandons a suspended command. -/
def Obligations.SystemControl : Prop :=
  ∀ (s : State) (die : Nat) (value : Word64), let v := value.toNat
    let fltctl (t : State) (top : Nat) : State := t.onDie die fun d => { d with fltctl := BitVec.ofNat 64 (v % 2 ^ 19 + top * 2 ^ 62) }
    let engctl (t : State) (top : Nat) : State := t.onDie die fun d => { d with engctl := BitVec.ofNat 64 (v % 2 ^ 16 + top * 2 ^ 62) }
    let idle : Prop := (s.die die).fltctl.getLsbD 63 = false
    let held := s.flocks.find? fun f => f.mode = .held ∧ f.core = v % 2 ^ 9 ∧ dieOf f.core = die ∧ f.slot = v / 2 ^ 9 % 2 ^ 6
    let action := v / 2 ^ 15 % 2 ^ 3
    let command := (s.core (v % 2 ^ 9)).engine.find? fun c => c.suspended = true ∧ c.entry = v / 2 ^ 9 % 2 ^ 5
    (let old := (s.die die).tlbinv1
      let goes (t : TlbEntry) : Bool := t.pasid = v % 2 ^ 20 &&
        (value.getLsbD 22 || (t.size = v / 2 ^ 20 % 4 && t.page = pageBase t.size ((s.die die).tlbinv0.toNat / 2 ^ 12 % 2 ^ 36 * 2 ^ 12)))
      let busy (t : State) (b : Nat) : State := t.onDie die fun d => { d with tlbinv1 := BitVec.ofNat 64 (v % 2 ^ 23 + b * 2 ^ 63) }
      let ends (t : State) : Prop := (t.pasidBusy (v % 2 ^ 20) = false → exec (.tlbinv1 die value) s = .next (busy t 0)) ∧
        (t.pasidBusy (v % 2 ^ 20) = true → exec (.tlbinv1 die value) s = .next ((busy t 1).post (.tlbinv1 die value)))
      let kept := s.keepTlb (fun t => !goes t) fun i => i = v % 2 ^ 20
      (old.getLsbD 63 = false → ends kept) ∧
      (∀ c, (kept.core c).tlb = (s.core c).tlb.filter fun t => !goes t) ∧
      (∀ i, (kept.die i).tlb2.flatMap (·.2) = ((s.die i).tlb2.flatMap (·.2)).filter fun t => !goes t) ∧
      (old.getLsbD 63 = true → old.toNat % 2 ^ 63 = v % 2 ^ 23 → ends s) ∧
      (old.getLsbD 63 = true → old.toNat % 2 ^ 63 ≠ v % 2 ^ 23 → exec (.tlbinv1 die value) s = .next (s.post (.tlbinv1 die value)))) ∧
    (idle → held = none → ∀ i ∈ [Instr.fltctlRetry die value, .fltctlSkip die value, .fltctlEnterHandler die value, .fltctlEnd die value,
      .fltctlAbortDomain die value], exec i s = .next (fltctl s 1)) ∧
    (∀ f, idle → held = some f →
      (action = 0 → exec (.fltctlRetry die value) s = .next (fltctl (s.resumeTrap f false (value.getLsbD 18)) 0)) ∧
      (action = 1 → f.tcause.getLsbD 11 = false → exec (.fltctlSkip die value) s = .next (fltctl (s.resumeTrap f true false) 0)) ∧
      (action = 1 → f.tcause.getLsbD 11 = true → exec (.fltctlSkip die value) s = .next (fltctl s 1)) ∧
      (action = 2 → f.tvec.getLsbD 26 = true → f.tcause.getLsbD 10 = false →
        exec (.fltctlEnterHandler die value) s = .next (fltctl (s.setFlock f.enterHandler) 0)) ∧
      (action = 2 → f.tvec.getLsbD 26 = false → exec (.fltctlEnterHandler die value) s = .next (fltctl s 1)) ∧
      (action = 3 → f.drained = false ∨ s.enginesDone f = false →
        exec (.fltctlEnd die value) s = .next ((fltctl s 2).post (.fltctlEnd die value))) ∧
      (action = 3 → f.drained = true → s.enginesDone f = true → ∃ t, exec (.fltctlEnd die value) s = .next t ∧ t.flock? f.uid = none) ∧
      (action = 4 → exec (.fltctlAbortDomain die value) s = .next
        (fltctl (s.abortDomain (s.regionOf (s.herdOf f)).session (s.regionOf (s.herdOf f)).domain) 0))) ∧
    (∀ f : Flock, f.hmode = false → f.site = some .scalar → s.flock? f.uid = some f → f.queue = [] →
      (∃ g, (s.resumeTrap f true false).flock? f.uid = some g ∧ g.spc = f.haltSpc + 1 ∧ g.mode = .running ∧ g.site = none) ∧
      ∃ g, (s.resumeTrap f false false).flock? f.uid = some g ∧ g.spc = f.haltSpc ∧ g.mode = .running ∧ g.site = none) ∧
    (∀ (session : Nat) (domain : BitVec 16) (r : Region), s.herds = [] → s.regions = [r] → r.session = session → r.domain = domain → r.status = 0 →
      (s.abortDomain session domain).regions = [{ r with status := 0x40, nextHerd := r.rcb.herds }] ∧
      .regionComplete r.uid ∈ (s.abortDomain session domain).agenda) ∧
    (command = none → exec (.engctlResume die value) s = .next (engctl s 1) ∧ exec (.engctlAbandon die value) s = .next (engctl s 1)) ∧
    ∀ c core, command = some c → core = v % 2 ^ 9 → dieOf core = die →
      (v / 2 ^ 14 % 4 = 0 → exec (.engctlResume die value) s =
        .next (engctl ((s.setCmd core { c with suspended := false }).post (.copyTransferStart core c.id)) 0)) ∧
      (v / 2 ^ 14 % 4 = 1 → exec (.engctlAbandon die value) s = .next (engctl (s.endCmd core c) 0))

/-- Snapshots and power (R26, R404, R405, R479): an armed die latches its snapshot when its trigger fires, by FIRE, at SNAPAT or from
another die; PWRCAP is kept between 300 and 1,200 W on every die; every 10 microseconds a shepherd samples, and keeps the module's power
averaged over its last samples in PWRNOW; a sample above the cap slows a cluster, then lowers a rail, and a cap unmet for 10 ms with every
unlocked cluster at its lowest is reported; at or below the cap the die's rails stand at what their clusters need; a restart of the shepherd is
waited for. Which registers a block latches (log entry 46), the interval of the samples, and the order of the clusters and of the rails within a class
(log entry 47) are the model's. -/
def Obligations.SnapshotsAndPower : Prop :=
  ∀ (s : State) (die : Nat), s.dies.length = 4 → die < 4 →
    let d := s.die die
    let runs : Prop := (s.shep die).mode ≠ .reset
    let latched (t : State) (i : Nat) : Prop := (t.die i).snapcyc = (s.die i).cycle ∧ (t.die i).snapctl.getLsbD 0 = false ∧
      (t.die i).snapctl.getLsbD 4 = true ∧ (t.die i).snapshot = s.snapshotSet i
    (runs → d.snapctl.getLsbD 0 = true → ∃ t, exec (.snapctlFire die) s = .next t ∧ latched t die ∧
      (d.snapctl.getLsbD 3 = true → ∀ i, i < 4 → i ≠ die → (s.die i).live = true → .snapshotWideTrigger i ∈ t.agenda)) ∧
    (runs → d.snapctl.getLsbD 0 = false → exec (.snapctlFire die) s = .next s) ∧
    (¬ runs → exec (.snapctlFire die) s = .next (s.post (.snapctlFire die)) ∧
      ∀ value, exec (.snapctlArm die value) s = .next (s.post (.snapctlArm die value)) ∧ exec (.pwrcap die value) s = .next (s.post (.pwrcap die value))) ∧
    (d.snapctl.getLsbD 0 = true → d.snapctl.getLsbD 2 = true →
      (runs → d.snapat.toNat ≤ d.cycle.toNat → ∃ t, exec (.snapshotAtCycle die) s = .next t ∧ latched t die) ∧
      (¬ runs ∨ d.cycle.toNat < d.snapat.toNat → exec (.snapshotAtCycle die) s = .next (s.postOnce (.snapshotAtCycle die)))) ∧
    (d.snapctl.getLsbD 0 = false → exec (.snapshotAtCycle die) s = .next s ∧ exec (.snapshotWideTrigger die) s = .next s) ∧
    (d.snapctl.getLsbD 0 = true → (runs → ∃ t, exec (.snapshotWideTrigger die) s = .next t ∧ latched t die) ∧
      (¬ runs → exec (.snapshotWideTrigger die) s = .next (s.postOnce (.snapshotWideTrigger die)))) ∧
    (∀ value : Word64, runs → ∃ t, exec (.snapctlArm die value) s = .next t ∧
      (value.getLsbD 0 = true → value.getLsbD 1 = true → latched t die) ∧
      (value.getLsbD 0 = false ∨ value.getLsbD 1 = false → ∀ b, b < 64 → (t.die die).snapctl.getLsbD b =
        (if b = 4 then d.snapctl.getLsbD 4 else if b = 0 ∨ b = 2 ∨ b = 3 then value.getLsbD b else false)) ∧
      (value.getLsbD 0 = true → value.getLsbD 2 = true → .snapshotAtCycle die ∈ t.agenda)) ∧
    (∀ value : Word64, runs → ∃ t, exec (.pwrcap die value) s = .next t ∧
      ∀ i, i < 4 → (t.die i).pwrcap.toNat = min 1200 (max 300 (value.toNat % 2 ^ 11))) ∧
    (d.live = true → s.shepRuns die = false ∨ d.cycle.toNat < d.sampleAt.toNat → exec (.powerSample die) s = .next (s.post (.powerSample die))) ∧
    (d.live = true → s.shepRuns die = true → d.sampleAt.toNat ≤ d.cycle.toNat →
      let u := (s.sample die).post (.powerSample die)
      let e := u.die die
      let w := e.samples.getLastD 0
      e.sampleAt = d.cycle + 15000 ∧ w = (s.liveDies.map fun i => (u.die i).draw).sum ∧ e.samples.length ≤ max 100 d.samples.length ∧
      ∃ t, exec (.powerSample die) s = .next t ∧ .powerSample die ∈ t.agenda ∧
        (t.die die).pwrnow = BitVec.ofNat 64 (min 2047 (e.samples.sum / e.samples.length)) ∧
        (w ≤ d.pwrcap.toNat → (t.die die).aboveSince = none ∧ (t.die die).railSteps = (List.range 3).map (t.sectorNeed die)) ∧
        (d.pwrcap.toNat < w → ∀ i c rest, u.throttleOrder = (i, c) :: rest →
          (t.die i).slowed = SMap.put (u.die i).slowed 0 c (SMap.get (u.die i).slowed 0 c + 1)) ∧
        (d.pwrcap.toNat < w → u.throttleOrder = [] → ∀ i r rest, u.railOrder = (i, r) :: rest →
          (t.die i).railSteps = setNth (u.die i).railSteps r ((u.die i).railSteps.getD r 0 + 1)) ∧
        (d.pwrcap.toNat < w → u.throttleOrder = [] → u.railOrder = [] → (t.die die).aboveSince = some (d.aboveSince.getD d.cycle) ∧
          ∀ n, n < 8 → (s.paddock n).desc.lock = true → (s.paddock n).desc.clusters ≠ 0 → .powerCapUnmet n ∈ t.agenda)) ∧
    ∀ n, let dies := s.liveDies.map s.die
      ((∀ x ∈ dies, ∃ t, x.aboveSince = some t ∧ 15000000 ≤ (x.cycle - t).toNat) → exec (.powerCapUnmet n) s = .next (s.paddockReport n 1)) ∧
      ((∃ x ∈ dies, x.aboveSince = none) → exec (.powerCapUnmet n) s = .next s)

/-- Soft errors, register writes and host accesses (R5, R20, R128, R384, R455, R463 to R465): a corrected error is counted; an uncorrectable one
poisons what it strikes, is counted with its source and told; a write of a register keeps its read-only bits and clears a W1C counter; a
host load returns memory's bytes and its poison, a host store is performed, each at its address or where the session's tables lead, and an access that
cannot be is answered with an error. The bits of the counter window, what is lost with a packet and its interrupt, the errors in a core's control state
and in a counter, and the lines that a host holds are the model's choices (log entries 48, 56, 96, 99, 108 and 105). -/
def Obligations.ErrorsAndAccesses : Prop :=
  ∀ (s : State) (die : Nat), s.dies.length = 4 → die < 4 →
    let d := s.die die
    let counted (t u : State) (src : Nat) : Prop := (t.die die).eccstat.toNat % 2 ^ 16 = d.eccstat.toNat % 2 ^ 16 ∧
      (t.die die).eccstat.toNat / 2 ^ 16 % 2 ^ 16 = min 65535 (d.eccstat.toNat / 2 ^ 16 % 2 ^ 16 + 1) ∧
      (t.die die).eccstat.toNat / 2 ^ 32 % 2 ^ 4 = src ∧ t.out = u.out ++ [.shepherd die .uncorrectable, .msiShepherd die]
    let strike (place : EccPlace) (t : State) : Prop := exec (.eccUncorrectable die place) s = .next t
    let wrote (r : RegName) (value : Word64) (t : State) : Prop := exec (.registerWrite die r value) s = .next t
    (∀ src, src ≠ .parity → exec (.eccCorrectable die src) s = .next (s.onDie die fun d => { d with eccstat := bumpCount d.eccstat 0 1 })) ∧
    exec (.eccCorrectable die .parity) s = .next s ∧
    (∀ p, ∃ t, strike (.parity p) t ∧ t.mem = s.mem ∧ t.out = s.out ∧ (t.die die).eccstat = d.eccstat) ∧
    (∀ core entry, strike (.parity (.predictor core entry)) (s.onCore core fun k => { k with predictor := SMap.erase k.predictor entry })) ∧
    (∀ core pa, ∃ t, strike (.parity (.l1 core pa)) t ∧ ∀ x ∈ (t.core core).l1, x.pa ≠ pa / 64 * 64) ∧
    (∀ core, ∃ t, strike (.control core) t ∧ (t.core core).stuck = true ∧ .haltBoundFailure core ∈ t.agenda) ∧
    (∀ (f : Flock) lane reg, s.flock? f.uid = some f → ∃ t g, strike (.laneRegister f.uid lane reg) t ∧ counted t s 0 ∧ t.flock? f.uid = some g ∧
      laneKey reg lane ∈ g.vPoison ∧ g.v = f.v) ∧
    (∀ (f : Flock) reg, s.flock? f.uid = some f → reg ≠ 0 → ∃ t g, strike (.scalarRegister f.uid reg) t ∧ counted t s 1 ∧ t.flock? f.uid = some g ∧
      reg ∈ g.sPoison ∧ g.s = f.s) ∧
    (∀ (h : Herd) word, s.herd? h.uid = some h → (∃ t g, strike (.scratchpad h.uid word) t ∧ counted t s 2 ∧ t.herd? h.uid = some g ∧ word ∈ g.spadPoison) ∧
      ∃ t g, strike (.operandBuffer h.uid word) t ∧ counted t s 3 ∧ t.herd? h.uid = some g ∧ word ∈ g.opbPoison) ∧
    (∀ uid i j, (∃ t, strike (.tile uid i j) t ∧ counted t s 3) ∧ ∀ b, ∃ t, strike (.plane uid i j b) t ∧ counted t s 3) ∧
    (∀ pa, ((d.l2.find? fun l => l.pa = lineOf pa) = none → strike (.l2 pa) s) ∧
      (∀ l, (d.l2.find? fun l => l.pa = lineOf pa) = some l → ∃ t, strike (.l2 pa) t ∧ counted t s 4 ∧ (t.die die).eccaddr.toNat = pa % 2 ^ 52 ∧
        (l.dirty.getLsbD (pa % 256 / 64) = true → pa / 64 ∈ t.memPoison) ∧
        (l.dirty.getLsbD (pa % 256 / 64) = false → t.memPoison = s.memPoison)) ∧
      (∃ t, strike (.remoteCache pa) t ∧ counted t s 5 ∧ ∀ l ∈ (t.die die).rdc, l.pa ≠ lineOf pa) ∧
      (∃ t, strike (.lpddr pa true) t ∧ counted t s 6 ∧ pa / 64 ∈ t.memPoison) ∧ strike (.lpddr pa false) s) ∧
    (∀ id, ∃ t, strike (.fabric id) t ∧ .resynchronisation ∈ t.agenda ∧ (t.die die).eccstat.toNat / 2 ^ 32 % 2 ^ 4 = 7 ∧
      ∀ i n, i < 4 → ∀ q ∈ (t.net i n).early, q.id ≠ id) ∧
    (∀ i, i < 65536 → ∃ t, strike (.counter i) t ∧ (SMap.get (t.die die).counters DepCounter.free i).poison = true) ∧
    (∀ bucket, ∃ t, strike (.directory bucket) t ∧ (t.die die).eccstat.toNat / 2 ^ 32 % 2 ^ 4 = 8 ∧ bucket ∈ (t.die die).poisonedBuckets) ∧
    (∀ lost, ∃ t, strike (.retention lost) t ∧ .retentionSramUe die lost ∈ t.agenda ∧ counted t s 9) ∧
    (∀ sector, exec (.memoryScrub die sector false) s = .next s ∧
      ∃ t, exec (.memoryScrub die sector true) s = .next t ∧ die * 2 ^ 31 + sector % 2 ^ 31 ∈ t.memPoison ∧ counted t s 6) ∧
    (∀ (value : Word64), (∃ t, wrote .sessbase value t ∧ ∀ i, i < 4 → (t.die i).sessbase.toNat = value.toNat / 2 ^ 20 % 2 ^ 32 * 2 ^ 20) ∧
      (∃ t, wrote .cpool value t ∧ (t.die die).cpool.toNat = value.toNat % 2 ^ 52) ∧
      (∃ t, wrote .snapat value t ∧ (t.die die).snapat = value) ∧ (∃ t, wrote .tlbinv0 value t ∧ (t.die die).tlbinv0.toNat = value.toNat / 2 ^ 12 % 2 ^ 36 * 2 ^ 12) ∧
      (∃ t, wrote .dirstat0 value t ∧
        (t.die die).dirstat0.toNat % 2 ^ 32 = (if value.toNat % 2 ^ 32 = 0 then d.dirstat0.toNat % 2 ^ 32 else 0) ∧
        (t.die die).dirstat0.toNat / 2 ^ 32 = (if value.toNat / 2 ^ 32 = 0 then d.dirstat0.toNat / 2 ^ 32 else 0)) ∧
      (∀ n, n < s.padrep.length → ∃ t, wrote (.padrep n) value t ∧ t.padrep.getD n 0 = s.padrep.getD n 0 &&& ~~~(value &&& 0x7F)) ∧
      ∀ i, ∃ t, wrote (.counter i) value t ∧ (SMap.get (t.die die).counters DepCounter.free (i % 65536)).count = value.setWidth 16 ∧
        (SMap.get (t.die die).counters DepCounter.free (i % 65536)).reload = (value >>> 16).setWidth 16 ∧
        (SMap.get (t.die die).counters DepCounter.free (i % 65536)).poison = false) ∧
    (∀ a n, a % 256 + n ≤ 256 → 0 < n → let u := s.rekey (tableLoc 0 a)
      (inModule a = true → exec (.hostMemoryAccess (.load none a n)) s = .next ((u.hostHolds a).emit (.hostData (Memory.bytes u.mem a n)
        (!(u.die (homeDie a)).live || u.memPoisoned a n)))) ∧
      (inModule a = false → exec (.hostMemoryAccess (.load none a n)) s = .next (s.emit .hostError))) ∧
    (∀ i a n, a % 256 + n ≤ 256 → 0 < n → exec (.hostMemoryAccess (.load (some i) a n)) s =
      match s.translate (deviceAgent i (s.home i)) a .read with
      | .ok (u, l) => .next ((u.hostHolds l.pa).emit (.hostData (Memory.bytes u.mem l.pa n) (!(u.die (homeDie l.pa)).live || u.memPoisoned l.pa n)))
      | .error c => .next (if c = notYet then s.post (.hostMemoryAccess (.load (some i) a n)) else s.emit .hostError)) ∧
    (∀ i a bs, a % 256 + bs.length ≤ 256 → bs ≠ [] → exec (.hostMemoryAccess (.store (some i) a bs)) s =
      match s.translate (deviceAgent i (s.home i)) a .write with
      | .ok (u, l) => .next ((u.performWrite l.pa bs).hostHolds l.pa)
      | .error c => .next (if c = notYet then s.post (.hostMemoryAccess (.store (some i) a bs)) else s.emit .hostError)) ∧
    ∀ a bs, a % 256 + bs.length ≤ 256 → bs ≠ [] → s.statesWritten a bs.length = [] → s.contextsWritten 112 122 a bs.length = [] →
      let u := s.rekey (tableLoc 0 a)
      (inModule a = true → exec (.hostMemoryAccess (.store none a bs)) s = .next ((u.performWrite a bs).hostHolds a)) ∧
      (inModule a = false → exec (.hostMemoryAccess (.store none a bs)) s = .next (s.emit .hostError))

/-! ## The shepherds (R25, R99, R379, R399 to R403, R471, R485 to R489) -/

/-- Boot, bring-up and recovery (R25, R400, R401, R487, R488): an image that verifies runs with its measurements and keys, another leaves
the shepherd in recovery, where it takes an image in order and writes one that verifies; a trained die is ready, and once all are they
are released; clusters are powered in their order and then their engines; after a second a die that is not ready is removed. -/
def Obligations.BringUp : Prop :=
  ∀ (s : State) (die : Nat), s.dies.length = 4 → die < 4 →
    let d := s.die die
    let h := s.shep die
    let told (code : Nat) (g : Shepherd → Shepherd) : Host.Outcome State Fault Refusal := .next ((s.onShep die g).emit (.reply die (.status code)))
    let runs : Prop := h.mode = .running
    let recovers : Prop := h.mode = .recovery
    (h.mode = .reset → ∃ t, exec (.boot die) s = .next t ∧
      if Config.imageVerifies die h.flash then (t.shep die).mode = .running ∧
        (t.shep die).romDigest = some (sha3 (Config.romImage die)) ∧ (t.shep die).imageDigest = some (sha3 h.flash) ∧
        (t.shep die).vaultKey = some (vaultKey die) ∧ (die = 0 → (s.shep 1).dedup = none → (t.shep 0).dedup.isSome = true) ∧
        (d.stage = 0 → .dieBringup die ∈ t.agenda ∧ .heartbeat die false ∈ t.agenda)
      else t = s.onShep die fun h => { h with mode := .recovery }) ∧
    (¬ runs ∨ h.vaultKey = none → ∀ blob, exec (.dedupSecretReceive die blob) s = .next (s.post (.dedupSecretReceive die blob))) ∧
    (∀ blob v, runs → h.vaultKey = some v →
      let took (x : List Byte) : State := s.onShep die fun h => { h with dedup := some (BitVec.ofNat 256 (ofBytes x)) }
      (unwrapKey (bytesOf 32 v.toNat) blob = none → exec (.dedupSecretReceive die blob) s = .next s) ∧
      (∀ x, unwrapKey (bytesOf 32 v.toNat) blob = some x → die ≠ 0 → exec (.dedupSecretReceive die blob) s = .next (took x)) ∧
      (∀ x, unwrapKey (bytesOf 32 v.toNat) blob = some x → die = 0 → ∃ t, exec (.dedupSecretReceive die blob) s = .next t ∧
        t.dies = (took x).dies ∧ ∀ i ∈ s.liveDies, i ≠ 0 → (s.shep i).dedup = none →
          .dedupSecretReceive i (wrapKey (bytesOf 32 (vaultKey i).toNat) (bytesOf 32 (BitVec.ofNat 256 (ofBytes x)).toNat)) ∈ t.agenda)) ∧
    (d.stage = 0 → d.live = true → runs → ∃ t, exec (.dieBringup die) s = .next t ∧ if (s.free 0).getLsbD 0 then (t.shep die).ready = true ∧
        ((∀ i ∈ s.liveDies, i ≠ die → (s.shep i).ready = true) → (t.die die).stage = 2 ∧ .clusterPowerUp die 0 ∈ t.agenda) ∧
        ((∃ i ∈ s.liveDies, i ≠ die ∧ (s.shep i).ready = false) → (t.die die).stage = 1)
      else t = s) ∧
    (∀ cluster, d.live = true → 2 ≤ d.stage → cluster < 24 →
      let inOrder : Prop := (∀ c, c < cluster → d.clusters.getLsbD c = true) ∧ (∀ c, cluster < c → .clusterPowerUp die c ∉ s.agenda)
      let before (c : Nat) : Prop := c < 24 ∧ d.clusters.getLsbD c = true ∧ d.engines.getLsbD c = false
      (d.cycle.toNat < d.nextPower.toNat → exec (.clusterPowerUp die cluster) s = .next (s.post (.clusterPowerUp die cluster))) ∧
      (d.nextPower.toNat ≤ d.cycle.toNat → ∃ t, exec (.clusterPowerUp die cluster) s = .next t ∧ (t.die die).clusters = d.clusters ||| (1 <<< cluster) ∧
        (t.die die).nextPower = d.cycle + 30000 ∧ (∀ c ∈ clusterCores (24 * die + cluster), (t.core c).powered = true) ∧
        (d.stage = 2 → inOrder → cluster < 23 → .clusterPowerUp die (cluster + 1) ∈ t.agenda ∧ (t.die die).stage = 2) ∧
        (d.stage = 2 → inOrder → cluster = 23 → .matrixEngineEnable die 0 ∈ t.agenda ∧ (t.die die).stage = 3) ∧
        (d.stage = 2 → ¬ inOrder → (t.die die).stage = 2 ∧ ∀ i c, .clusterPowerUp i c ∈ t.agenda → .clusterPowerUp i c ∈ s.agenda) ∧
        (2 < d.stage → .matrixEngineEnable die cluster ∈ t.agenda ∧ (t.die die).stage = d.stage)) ∧
      (d.clusters.getLsbD cluster = true → d.cycle.toNat < d.nextEngine.toNat →
        exec (.matrixEngineEnable die cluster) s = .next (s.post (.matrixEngineEnable die cluster))) ∧
      (d.clusters.getLsbD cluster = true → d.nextEngine.toNat ≤ d.cycle.toNat →
        (∀ c, d.stage = 3 → c < cluster → before c → (∀ x, before x → c ≤ x) →
          exec (.matrixEngineEnable die cluster) s = .next (s.postOnce (.matrixEngineEnable die c))) ∧
        (d.stage ≠ 3 ∨ (∀ c, before c → cluster ≤ c) → ∃ t, exec (.matrixEngineEnable die cluster) s = .next t ∧
          (t.die die).engines = d.engines ||| (1 <<< cluster) ∧ (t.die die).nextEngine = d.cycle + 15000 ∧
          (∀ c ∈ clusterCores (24 * die + cluster), (t.core c).engineOn = true) ∧
          (d.stage = 3 → ∀ c, before c → c ≠ cluster → (∀ x, before x → x ≠ cluster → c ≤ x) → .matrixEngineEnable die c ∈ t.agenda)))) ∧
    (let late := s.liveDies.filter fun i => (s.shep i).ready = false
      let waited := (d.cycle - h.started).toNat
      (late = [] → exec (.bootPeerTimeout die) s = .next s) ∧
      (late ≠ [] → d.live = true → h.ready = false ∨ waited < 1500000000 →
        exec (.bootPeerTimeout die) s = .next (s.post (.bootPeerTimeout die))) ∧
      (late ≠ [] → d.live = true → h.ready = true → 1500000000 ≤ waited → s.herds = [] → ∃ t, exec (.bootPeerTimeout die) s = .next t ∧
        ∀ i ∈ late, (t.die i).live = false)) ∧
    (∀ len, recovers → 1024 ≤ len → len ≤ 4194304 → exec (.imgBegin die len) s = told 0 fun h => { h with image := some (len, []) }) ∧
    (∀ len, recovers → len < 1024 ∨ 4194304 < len → exec (.imgBegin die len) s = told 2 fun h => { h with image := none }) ∧
    (∀ offset bytes len got, recovers → h.image = some (len, got) →
      let fits : Prop := offset = got.length ∧ bytes.length ≤ 1024 ∧ got.length + bytes.length ≤ len
      (fits → exec (.imgData die offset bytes) s = told 0 fun h => { h with image := some (len, got ++ bytes) }) ∧
      (¬ fits → exec (.imgData die offset bytes) s = .next (s.emit (.reply die (.status 3)))) ∧
      if got.length = len ∧ Config.imageVerifies die got = true then exec (.imgEnd die) s = .next (s.emit (.reply die (.status 4))) ∨
        exec (.imgEnd die) s = .next (((s.onShep die fun h => { h with flash := got, image := none, mode := .reset }).emit
          (.reply die (.status 0))).postOnce (.boot die))
      else exec (.imgEnd die) s = .next (s.emit (.reply die (.status 1)))) ∧
    (h.mode = .running ∨ h.mode = .reset → ∀ len, exec (.imgBegin die len) s = .next s)

/-- The management port (R402, R488, R489): a running shepherd answers each request, one in recovery answers ERROR Unspecified, and one that
restarts answers nothing. A part of the chain that cannot be read is the model's free choice (log entry 45), and the codes of the requests that are
not supported are those of SPDM 1.3 (PRESUMED, log entry 109). -/
def Obligations.ManagementPort : Prop :=
  ∀ (s : State) (die : Nat),
    let h := s.shep die
    let answers (i : Instr) (r : MgmtReply) : Prop := (h.mode = .running → exec i s = .next (s.emit (.reply die r))) ∧
      (h.mode = .recovery → exec i s = .next (s.emit (.reply die .errorUnspecified))) ∧ (h.mode = .reset → exec i s = .next s)
    let chain := Config.certificateChain die
    let digest := bytesOf 64 (sha3 chain).toNat
    let sign (bs : List Byte) : List Byte := Config.signature (h.identity.getD 0) bs
    let all := s.blocks die
    answers (.getVersion die) .version ∧ answers (.getCapabilities die) .capabilities ∧
    (∀ ed448 sha, answers (.negotiateAlgorithms die ed448 sha) (.algorithms (ed448 && sha))) ∧ answers (.getDigests die) (.digests digest) ∧
    (∀ slot offset len, slot ≠ 0 ∨ chain.length ≤ offset → answers (.getCertificate die slot offset len) .errorInvalid) ∧
    (∀ offset len, (answers (.getCertificate die 0 offset len)
        (if offset < chain.length then .certificate ((chain.drop offset).take len) else .errorInvalid)) ∨
      answers (.getCertificate die 0 offset len) .errorUnspecified) ∧
    (∀ slot nonce, slot ≠ 0 → answers (.challenge die slot nonce) .errorInvalid) ∧
    (∀ nonce : BitVec 256, answers (.challenge die 0 nonce) (.auth digest (sign (digest ++ bytesOf 32 nonce.toNat))) ∨
      answers (.challenge die 0 nonce) .errorUnspecified) ∧
    (∀ nonce : BitVec 256, answers (.getMeasurements die 0 nonce) (.measurements all.length [] (sign (bytesOf 32 nonce.toNat))) ∧
      answers (.getMeasurements die 255 nonce) (.measurements all.length all (sign (all.flatMap (·.2) ++ bytesOf 32 nonce.toNat))) ∧
      (∀ i b, 0 < i → i < 255 → (all.filter fun x => x.1 = i) = [(i, b)] →
        answers (.getMeasurements die i nonce) (.measurements all.length [(i, b)] (sign (b ++ bytesOf 32 nonce.toNat)))) ∧
      ∀ i, 240 ≤ i → i < 255 → answers (.getMeasurements die i nonce) .errorInvalid) ∧
    (∀ code, answers (.spdmUnsupportedRequest die code) (if 0xE4 ≤ code ∧ code ≤ 0xEC then .errorUnsupported else .errorInvalid)) ∧
    all.take 2 = [(1, bytesOf 64 (h.romDigest.getD 0).toNat), (2, bytesOf 64 (h.imageDigest.getD 0).toNat)] ∧ all.length ≤ 239

/-- The partition commit and resets (R99, R399, R403, R485, R486): a change that is allowed is sent to every live shepherd to prepare under
the next number; each writes its record, and the last report makes the commit record; each applies the change once one die
holds the commit record, and the last report releases its paddocks; a shepherd whose watchdog expires or whose retention SRAM fails restarts alone, and at its boot a commit in progress goes forward
where a live die holds the commit record and else back; and a loss of power leaves the flash. Which journals count as a commit record, and that a
notice raises the shepherd's vector, are the model's readings (log entries 44 and 96). -/
def Obligations.CommitsAndResets : Prop :=
  ∀ (s : State), s.dies.length = 4 →
    let live := s.liveDies
    let k := s.coordinator
    let ready (i seq n : Nat) : Prop := (s.shep i).journal.seq.toNat = seq ∧ n ≤ (s.shep i).journal.state.toNat
    (∀ c : LayoutChange, (s.shep k).mode = .running → (∀ i ∈ live, (s.shep i).staged = none) →
      (s.changeOk c = false → exec (.partitionCommitRequest c) s = .next (s.emit .commitRefused)) ∧
      (s.changeOk c = true → ∃ t, ∃ seq : BitVec 32, exec (.partitionCommitRequest c) s = .next t ∧ (∀ i ∈ live, (t.shep i).staged = some (seq, some c) ∧
        .prepareReport i ∈ t.agenda) ∧ ((∀ i ∈ live, (s.shep i).journal.seq.toNat < 2 ^ 32 - 1) → ∀ i ∈ live, (s.shep i).journal.seq.toNat < seq.toNat))) ∧
    (∀ (c : LayoutChange) n, n ∈ (c.paddocks.map (·.1)) → (s.paddock n).quiesced = false → s.changeOk c = false) ∧
    (∀ (c : LayoutChange) n d, (n, d) ∈ c.paddocks → d.reserved ≠ 0 ∨ (d.lock = true ∧ ratioOk d.lnum.toNat d.lden.toNat = false) → s.changeOk c = false) ∧
    (∀ (c : LayoutChange), (s.shep k).mode ≠ .running → exec (.partitionCommitRequest c) s = .next (s.post (.partitionCommitRequest c))) ∧
    (∀ c seq x, s.inProgress = some (seq, x) → exec (.partitionCommitRequest c) s = .next (s.post (.partitionCommitRequest c))) ∧
    (∀ die seq (c : LayoutChange), die ∈ live → (s.shep die).staged = some (seq, some c) → (s.shep die).mode = .running →
      (¬ ready die seq.toNat 1 → c.mapc = none → ∃ t, exec (.prepareReport die) s = .next t ∧
        (t.shep die).journal.seq = seq ∧ (t.shep die).journal.padmask = padmask c ∧ (t.shep die).journal.commons = false ∧
        ((∃ i ∈ live, i ≠ die ∧ ¬ ready i seq.toNat 1) ∨ (s.shep k).mode ≠ .running → (t.shep die).journal.state = 1 ∧ t.agenda = s.agenda) ∧
        ((∀ i ∈ live, i ≠ die → ready i seq.toNat 1) → (s.shep k).mode = .running → (t.shep k).journal.state = 2 ∧ ∀ i ∈ live, .commitApply i ∈ t.agenda)) ∧
      (¬ ready die seq.toNat 1 → c.mapc ≠ none → s.commonsFill die = true → ∃ t, exec (.prepareReport die) s = .next t ∧ (t.die die).gateClosed = true ∧
        .prepareReport die ∈ t.agenda) ∧
      ((∀ i ∈ live, ¬ ready i seq.toNat 2) → exec (.commitApply die) s = .next s) ∧
      ((∃ i ∈ live, ready i seq.toNat 2) → ∃ t, exec (.commitApply die) s = .next t ∧ (t.shep die).journal = ⟨seq, 3, padmask c, c.mapc.isSome⟩ ∧
        (∀ n m, c.maps = [(n, m)] → n < (s.die die).maps.length → (t.die die).maps.getD n m = m) ∧
        (∀ m, c.mapc = some m → (t.die die).mapc = m ∧ (t.die die).gateClosed = false) ∧
        (∀ n d, c.paddocks = [(n, d)] → n < s.paddocks.length → (t.paddock n).next = some d) ∧
        ((∀ i ∈ live, i ≠ die → ready i seq.toNat 3) → .commitDone ∈ t.agenda))) ∧
    (∀ seq (c : LayoutChange), s.inProgress = some (seq, some c) → (∀ i ∈ live, ready i seq.toNat 3) → (s.shep k).mode = .running →
      ∃ t, exec .commitDone s = .next t ∧ (∀ i, i < 4 → (t.shep i).staged = none) ∧ t.committed.maps = (s.die k).maps ∧ t.committed.mapc = (s.die k).mapc ∧
        ∀ n, n ∈ c.paddocks.map (·.1) → n < s.paddocks.length → (t.paddock n).quiesce = false) ∧
    (∀ die, die < 4 → (s.shep die).mode = .reset → Config.imageVerifies die (s.shep die).flash = true → (s.die die).stage ≠ 0 →
      (s.shep die).dedup.isSome = true → exec (.boot die) s = .next (s.onShep die fun h => { h with
        mode := .running, started := (s.die die).cycle, romDigest := some (sha3 (Config.romImage die)), imageDigest := some (sha3 h.flash),
        vaultKey := some (vaultKey die), identity := some (Config.identityKey (Config.dieSecret die)) }).resolveCommit) ∧
    (∀ seq (c : LayoutChange), s.inProgress = some (seq, some c) → let t := s.resolveCommit
      ((∃ i ∈ live, ready i seq.toNat 2) → ∀ i ∈ live, (t.shep i).staged = some (seq, some c) ∧ (¬ ready i seq.toNat 3 → .commitApply i ∈ t.agenda)) ∧
      ((∀ i ∈ live, ¬ ready i seq.toNat 2) → .commitFailed seq.toNat ∈ t.out ∧ (∀ n, (t.paddock n).quiesce = (s.paddock n).quiesce) ∧
        ∀ i ∈ live, (t.shep i).staged = none ∧ ((s.shep i).journal.seq = seq → (t.shep i).journal.state = 0))) ∧
    (∀ die, die < 4 → (s.shep die).mode = .running → ∃ t, exec (.watchdogExpiry die) s = .next t ∧ (t.shep die).mode = .reset ∧ .boot die ∈ t.agenda ∧
      t.mem = s.mem ∧ t.flocks = s.flocks ∧ t.herds = s.herds ∧ t.out = s.out ++ [.shepherd die .watchdog, .msiShepherd die]) ∧
    (∀ die lost, die < 4 → (s.shep die).mode ≠ .recovery → ∃ t, exec (.retentionSramUe die lost) s = .next t ∧ (t.shep die).mode = .reset ∧
      .boot die ∈ t.agenda ∧ (lost = .vaultKey → (t.shep die).vaultKey = none) ∧ (lost = .dedupSecret → (t.shep die).dedup = none) ∧
      (lost = .journal → (t.shep die).journal.state = 0) ∧ (lost = .measurements → (t.shep die).imageDigest = none)) ∧
    ∃ t, exec .modulePowerLoss s = .next t ∧ t.mem = [] ∧ t.flocks = [] ∧ t.herds = [] ∧ t.regions = [] ∧ t.agenda = [.boot 0, .boot 1, .boot 2, .boot 3] ∧
      ∀ i, i < 4 → (t.shep i).flash = (s.shep i).flash ∧ (t.shep i).mode = .reset

/-! ## The whole machine: encoding, frames, reset, steps (R4, R5, R162 to R176, R437 to R440) -/

/-- Decoding undoes encoding: the bytes of every well-formed instruction that has a word decode, in its own section, to that instruction and
leave what follows them; and bytes that decode are those that their instruction, a well-formed one, encodes to (R162 to R176, R437 to R440). -/
def Obligations.DecodeEncode : Prop :=
  (∀ (i : Instr) (bs rest : List Byte), WellFormed i → encode i = some bs → decodeBytes (encodeLane i).isSome (bs ++ rest) = some (i, rest)) ∧
  ∀ (lane : Bool) (bs rest : List Byte) (i : Instr), decodeBytes lane bs = some (i, rest) →
    WellFormed i ∧ encode i = some (bs.take (if lane then 12 else 4)) ∧ rest = bs.drop (if lane then 12 else 4)

/-- What a step does (R27, R40 to R43, R50, R440; that a due event and an issue are chosen between freely, and that the datapaths and a flock's
streams take turns, is the model's, log entry 4). When time has passed, an event whose time has come acts first; else a free choice falls on
a due event, which is the step of its name, or on an issue. Of an issue the turn is the next datapath's: its pointer moves on, and the
flock there issues from the first of its streams whose instruction does not wait. A stream at whose program counter four bytes decode, or
twelve at its lane index, answers what their instruction does; bytes that do not decode issue as a reserved word. -/
def Obligations.StepRunsDecoded : Prop :=
  ∀ (s : State),
    let t := s.begin
    let pick := Config.pick s.ticks
    (∀ k e, t.eventNow pick = some k → t.agenda[k]? = some e → ∃ i, eventOf? i = some e ∧ step s = exec i (t.take k)) ∧
    ((∃ e ∈ t.agenda, t.urgent e = true) → ∃ k e, t.eventNow pick = some k ∧ t.agenda[k]? = some e ∧ t.urgent e = true) ∧
    ((∀ e ∈ t.agenda, t.urgent e = false) →
      t.eventNow pick = if pick % (t.agenda.length + 1) = 0 then none else some (pick % (t.agenda.length + 1) - 1)) ∧
    (∀ e, ∃ i, eventOf? i = some e) ∧
    (t.eventNow pick = none → t.datapaths = [] → step s = .next { t with cur := none }) ∧
    (∀ core dp f, t.eventNow pick = none → t.datapaths[t.cursor % t.datapaths.length]? = some (core, dp) →
      let u : State := { t with cursor := t.cursor % t.datapaths.length + 1 }
      let w := (u.movePointer core dp).turn f.uid
      u.atPointer core dp = some f →
      (∀ y r, f.streams = y :: r → stallOf (w.attempt ⟨f.uid, y⟩) = none → step s = w.attempt ⟨f.uid, y⟩) ∧
      (∀ y z r, f.streams = y :: z :: r → stallOf (w.attempt ⟨f.uid, y⟩) ≠ none → stallOf (w.attempt ⟨f.uid, z⟩) = none →
        step s = w.attempt ⟨f.uid, z⟩)) ∧
    (∀ (w v : State) (f : Flock) bs, w.flock? f.uid = some f →
      let x : State := { w with cur := some ⟨f.uid, none⟩ }
      f.spc < x.slen f → x.fetchItem f ((x.regionOf (x.herdOf f)).rcb.scode + 4 * f.spc) 4 = .ok (v, bs) → IssuesScalar v f ∧
      (∀ i, decodeBytes false bs = some (i, []) → w.attempt ⟨f.uid, none⟩ = exec i v) ∧
      (bs.length = 4 → decodeBytes false bs = none → ∃ n, w.attempt ⟨f.uid, none⟩ = exec (.reservedEncoding false n) v)) ∧
    ∀ (w v : State) (f : Flock) (p : Path) bs, w.flock? f.uid = some f → f.path? p.id = some p → f.recipe = none →
      let x : State := { w with cur := some ⟨f.uid, some p.id⟩ }
      p.pc < x.llen f → x.fetchItem f ((x.regionOf (x.herdOf f)).rcb.lcode + 12 * p.pc) 12 = .ok (v, bs) →
      (p.guess = none → p.redo = [] → IssuesLane v f p) ∧
      (∀ i, decodeBytes true bs = some (i, []) → w.attempt ⟨f.uid, some p.id⟩ = exec i v) ∧
      (bs.length = 12 → decodeBytes true bs = none → ∃ n, w.attempt ⟨f.uid, some p.id⟩ = exec (.reservedEncoding true n) v)

/-- The frame of the scalar stream. Of the register forms: whatever comes of one, no byte of memory, no scalar register but its
destination, no lane register or lane predicate, no LFSR, FPMODE, FLAGS, TVEC, TRET or scratch register and no other flock changes, the
predicates change in `s.cmp`, `s.cmpi` alone, and the trap record only where the instruction traps. Of a store: every byte outside those
at its translated address, of its width, reads as it did once the address had been translated, or as before where it traps or waits. -/
def Obligations.ScalarFrames : Prop :=
  (∀ (s t : State) (f : Flock) (d a b : BitVec 6) (imm : BitVec 14) (z : BitVec 3) (neg : Bool) (cc : Cond) (x : Instr × Nat × Bool),
    IssuesScalar s f → f.bar = none →
    x ∈ [(Instr.sAdd d a b, d.toNat, false), (.sSub d a b, d.toNat, false), (.sMul d a b, d.toNat, false), (.sMulh d a b, d.toNat, false),
      (.sMulhu d a b, d.toNat, false), (.sDiv d a b, d.toNat, false), (.sDivu d a b, d.toNat, false), (.sRem d a b, d.toNat, false),
      (.sRemu d a b, d.toNat, false), (.sAnd d a b, d.toNat, false), (.sOr d a b, d.toNat, false), (.sXor d a b, d.toNat, false),
      (.sShl d a b, d.toNat, false), (.sShr d a b, d.toNat, false), (.sSra d a b, d.toNat, false), (.sMin d a b, d.toNat, false),
      (.sMinu d a b, d.toNat, false), (.sMax d a b, d.toNat, false), (.sMaxu d a b, d.toNat, false), (.sClz d a, d.toNat, false),
      (.sCtz d a, d.toNat, false), (.sPopc d a, d.toNat, false), (.sBitint d a b, d.toNat, false), (.sBitdeint d a, d.toNat, false),
      (.sSel d a b z neg, d.toNat, false), (.sCmp z cc a b, 0, true), (.sAddi d a imm, d.toNat, false), (.sAndi d a imm, d.toNat, false),
      (.sOri d a imm, d.toNat, false), (.sXori d a imm, d.toNat, false), (.sShli d a imm, d.toNat, false), (.sShri d a imm, d.toNat, false),
      (.sSrai d a imm, d.toNat, false), (.sCmpi z cc a imm, 0, true), (.sLui d imm, d.toNat, false), (.sNop, 0, false)] →
    exec x.1 s = .next t →
    (∀ adr, Memory.byte t.mem adr = Memory.byte s.mem adr) ∧ t.herds = s.herds ∧ (∀ u, u ≠ f.uid → t.flock? u = s.flock? u) ∧
    ∃ g, t.flock? f.uid = some g ∧ (∀ r, r ≠ x.2.1 → g.sreg r = f.sreg r) ∧ g.v = f.v ∧ g.q = f.q ∧ (x.2.2 = false → g.z = f.z) ∧
      g.primary = f.primary ∧ g.second = f.second ∧ g.fpmode = f.fpmode ∧ g.flags = f.flags ∧ g.tvec = f.tvec ∧ g.tscr0 = f.tscr0 ∧ g.tscr1 = f.tscr1 ∧
      g.paths = f.paths ∧ g.queue = f.queue ∧ ((g.tcause = f.tcause ∧ g.tpc = f.tpc ∧ g.taddr = f.taddr ∧ g.tinfo = f.tinfo ∧ g.tret = f.tret) ∨
        ∃ c, t = s.takeTrap f.uid .scalar c)) ∧
  (∀ (s t u : State) (f : Flock) (d a : BitVec 6) (off : BitVec 14) (off9 : BitVec 9) (scope : Scope) (size : Size) (loc : Loc)
    (x : Instr × Nat × Int), IssuesScalar s f →
    x ∈ [(Instr.sStB d a off, 1, off.toInt), (.sStH d a off, 2, off.toInt), (.sStW d a off, 4, off.toInt), (.sStD d a off, 8, off.toInt),
      (.sStRel d a scope size off9, sizeBytes size, off9.toInt)] →
    s.translate (s.agentOf f) (f.sreg a.toNat + BitVec.ofInt 64 (x.2.2 * x.2.1)).toNat .write = .ok (u, loc) → exec x.1 s = .next t →
    t.mem = s.mem ∨ ∀ adr, adr < loc.pa ∨ loc.pa + x.2.1 ≤ adr → Memory.byte t.mem adr = Memory.byte u.mem adr)

/-- The frame of the lane stream. Of its register forms: whatever comes of one, no byte of memory, no scalar register or predicate, no lane
predicate, no FPMODE, TVEC or scratch register and no other flock changes, FLAGS in the floating-point forms alone, and no lane register
but those of its destination in the lanes it executes. Of the stores, atomics and reductions of global memory: every byte outside those at the
translated addresses of the executing lanes, of the form's width, reads as it did once the addresses had been translated, or all of memory is as before where
it traps or waits. Of the scratchpad store and atomic: no byte of memory, and no byte of an allotment outside those its lanes name. No one of them
writes a scalar or lane register, a predicate, a mode or another flock when it issues; what an atomic returns comes with its operation. -/
def Obligations.LaneFrames : Prop :=
  (∀ (s t u : State) (f : Flock) (p : Path) (w : LaneWord) (locs : List (Nat × Loc)) (x : Instr × Access × Nat × Bool), IssuesLane s f p → f.bar = none →
    let m := if w.sub = 3 then 8 else 4
    x ∈ [(Instr.vSt w, Access.write, memBytes w, true), (.vStRel w, .write, memBytes w, true), (.vStFf w, .write, memBytes w, true),
      (.vAtom w, .atomic, m, false), (.vAred w, .atomic, m, false)] →
    s.checkLanes (s.agentOf f) x.2.1 x.2.2.1 ((laneList f p w).map fun l => (l, f.globalAddr w x.2.2.2 l)) = .ok (u, locs) → exec x.1 s = .next t →
    (t.mem = s.mem ∨ ∀ adr, (∀ y ∈ locs, adr < y.2.pa ∨ y.2.pa + x.2.2.1 ≤ adr) → Memory.byte t.mem adr = Memory.byte u.mem adr) ∧
    t.herds = s.herds ∧ (∀ i, i ≠ f.uid → t.flock? i = s.flock? i) ∧
    ∃ g, t.flock? f.uid = some g ∧ g.s = f.s ∧ g.v = f.v ∧ g.z = f.z ∧ g.q = f.q ∧ g.fpmode = f.fpmode ∧ g.flags = f.flags ∧ g.tvec = f.tvec ∧
      g.tscr0 = f.tscr0 ∧ g.tscr1 = f.tscr1) ∧
  (∀ (s t : State) (f : Flock) (p : Path) (w : LaneWord) (xs : List (Nat × Nat × Nat)) (x : Instr × Access × Nat × Bool), IssuesLane s f p → f.bar = none →
    x ∈ [(Instr.vStSp w, Access.write, memBytes w, true), (.vAtomSp w, .atomic, if w.sub = 3 then 8 else 4, false)] →
    s.checkSpadLanes (s.herdOf f) x.2.1 x.2.2.1 ((laneList f p w).map fun l => (l, f.spadAddr w x.2.2.2 l)) = .ok xs → exec x.1 s = .next t →
    t.mem = s.mem ∧ (∀ i, i ≠ f.uid → t.flock? i = s.flock? i) ∧
    (∀ uid off, (∀ y ∈ xs, y.2.1 = uid → off < y.2.2 ∨ y.2.2 + x.2.2.1 ≤ off) → (t.spadRead uid off 1).1 = (s.spadRead uid off 1).1) ∧
    ∃ g, t.flock? f.uid = some g ∧ g.s = f.s ∧ g.v = f.v ∧ g.z = f.z ∧ g.q = f.q ∧ g.fpmode = f.fpmode ∧ g.flags = f.flags ∧ g.tvec = f.tvec ∧
      g.tscr0 = f.tscr0 ∧ g.tscr1 = f.tscr1) ∧
  ∀ (s t : State) (f : Flock) (p : Path) (w : LaneWord) (x : (LaneWord → Instr) × Nat × Bool), IssuesLane s f p → f.bar = none → f.recipe = none → f.lanes ≤ 1024 →
    let n := (intTy w.sub).regs
    x ∈ [(Instr.vAdd, n, false), (.vSub, n, false), (.vMul, n, false), (.vMad, n, false), (.vMin, n, false), (.vMax, n, false), (.vAbs, n, false),
      (.vAnd, n, false), (.vOr, n, false), (.vXor, n, false), (.vNot, n, false), (.vShl, n, false), (.vShr, n, false), (.vSra, n, false),
      (.vClz, n, false), (.vPopc, n, false), (.vBrev, n, false), (.vSel, n, false), (.vMov, n, false), (.vMovi, n, false), (.vLane, 1, false),
      (.vFadd, 1, true), (.vFsub, 1, true), (.vFmul, 1, true), (.vFfma, 1, true), (.vFmin, 1, true), (.vFmax, 1, true), (.vFclass, 1, true),
      (.vFrcp, 1, true), (.vFrsq, 1, true), (.vFsqrt, 1, true), (.vFexp2, 1, true), (.vFlog2, 1, true), (.vFsin, 1, true), (.vFcos, 1, true),
      (.vFfloor, 1, true), (.vFceil, 1, true), (.vFtrunc, 1, true), (.vFrnd, 1, true), (.vFfract, 1, true)] →
    exec (x.1 w) s = .next t →
    (∀ adr, Memory.byte t.mem adr = Memory.byte s.mem adr) ∧ t.herds = s.herds ∧ (∀ u, u ≠ f.uid → t.flock? u = s.flock? u) ∧
    ∃ g, t.flock? f.uid = some g ∧ g.s = f.s ∧ g.z = f.z ∧ g.q = f.q ∧ g.fpmode = f.fpmode ∧ (x.2.2 = false → g.flags = f.flags) ∧ g.tvec = f.tvec ∧
      g.tscr0 = f.tscr0 ∧ g.tscr1 = f.tscr1 ∧ g.queue = f.queue ∧
      ∀ r l, l < 1024 → (r < w.dest.toNat ∨ w.dest.toNat + x.2.1 ≤ r ∨ l ∉ laneList f p w) → g.vreg r l = f.vreg r l

/-- The module right after reset, where the manual gives a value (R25, R28, R29, R94, R99, R358, R361, R374, R392, R403 to R405, R428, R457, R462,
R465, R468, R479): nothing is powered and no flock is resident, every die's registers hold their reset values, the paddocks are empty, and
the invariant of every step holds. A flock at its launch has every lane active and every register zero and full. -/
def Obligations.ResetState : Prop :=
  let s := State.reset
  s.Sound ∧ s.flocks = [] ∧ s.herds = [] ∧ s.regions = [] ∧ s.mem = [] ∧ s.padrep = List.replicate 8 0 ∧
  (∀ n, n < 8 → (s.paddock n).desc.clusters = 0 ∧ (s.paddock n).desc.cls = false ∧ (s.paddock n).desc.lock = false ∧ (s.paddock n).desc.lnum = 0 ∧
    (s.paddock n).desc.lden = 0 ∧ (s.paddock n).desc.quantum = 250 ∧ (s.paddock n).desc.bgblog = 6 ∧ (s.paddock n).desc.ltlog = 0 ∧
    (s.paddock n).quiesce = false ∧ (s.paddock n).quiesced = false) ∧
  (∀ i, i < 4 → let d := s.die i
    d.cycle = 0 ∧ d.clusters = 0 ∧ d.engines = 0 ∧ d.sessbase = 0 ∧ d.cpool = 0 ∧ d.dirstat0 = 0 ∧ d.dirstat1 = 0 ∧ d.dirstat2 = 0 ∧
    d.ptest = List.replicate 8 false ∧ d.eccstat = 0 ∧ d.eccaddr = 0 ∧ d.fabstat = 0x1F8 ∧ d.tlbinv0 = 0 ∧ d.tlbinv1 = 0 ∧ d.fltctl = 0 ∧ d.engctl = 0 ∧
    d.snapctl = 0 ∧ d.snapat = 0 ∧ d.snapcyc = 0 ∧ d.pwrcap = 1200 ∧ d.pwrnow = 0 ∧ d.mapc.cways = 0xFFFF ∧ d.mapc.sglog = 5 ∧
    (∀ m ∈ d.maps, m.sgbase = 0 ∧ m.sglog = 5 ∧ m.cways = 0) ∧ d.shepherd.journal = ⟨0, 0, 0, false⟩ ∧
    ∀ n ∈ d.nets, n.k = List.replicate 16 0 ∧ n.d = List.replicate 4 0 ∧ n.a = List.replicate 4 0) ∧
  ∀ (uid herd core slot dp inherd lanes regs spc r l : Nat) (herdid : BitVec 32),
    let f := Flock.launch uid herd core slot dp inherd herdid lanes regs spc
    f.spc = spc ∧ f.sreg r = 0 ∧ f.vreg r l = 0 ∧ f.sEmpty = [] ∧ f.vEmpty = [] ∧ f.z = 0 ∧ (∀ n, n < 15 → f.qbit n l = false) ∧ f.queue = [] ∧ f.paths = [] ∧
    f.active = LaneMask.below lanes ∧ f.primary = 0xACE1 ^^^ BitVec.ofNat 16 (herdid.toNat % 256 * 256) ^^^ BitVec.ofNat 16 inherd ∧ f.second = 0 ∧
    f.fpmode = 0 ∧ f.flags = 0 ∧ f.tcause = 0 ∧ f.tvec = 0

/-- Every step keeps the invariant: from a state whose memory is in its canonical form and that has its four dies, eight paddocks and
eight report registers, a step leads to such a state. -/
def Obligations.StepKeepsSound : Prop := ∀ s t : State, s.Sound → step s = .next t → t.Sound

/-- The module never stops: whatever its state, its next step completes, without a fault and without a refusal. -/
def Obligations.StepCompletes : Prop := ∀ s : State, s.Progresses

/-- A few words written out from the manual's encodings, its own examples among them, are the instructions that they stand for (R162 to R176),
and the all-zero word is none in either section (R165, R176). -/
def Obligations.DecodedWords : Prop :=
  let scalar (w : Nat) (i : Instr) : Prop := decodeTableWord 32 w = some i
  let lane (w : Nat) (i : Instr) : Prop := decodeTableWord 96 w = some i
  let word : LaneWord := ⟨0, 15, false, 0, 0, 0, 0, 0, 0, 0, 0, false, 0, 0⟩
  scalar 0x001C6141 (.sAdd 5 6 7) ∧ scalar 0x0050B0D8 (.sLdAcq 3 11 .mo .w 0) ∧ scalar 0x00000031 .sNop ∧
  scalar 0xFFFFFDE0 (.sB 7 false (-1)) ∧ scalar 0x00000168 (.sLgo 5) ∧ scalar 0x041000AE (.sKget 2 0x104) ∧ scalar 0x000C206C (.sCp 1 2 3) ∧
  scalar 0x0308102A (.sBarWait 1 2) ∧ scalar 0x00240030 (.sTrap 9) ∧
  lane 0x00000000000004080C10F033 (.vFfma { word with dest := 8, sa := 6, sb := 4, sc := 2 }) ∧
  lane 0x000000280008018A0E153011 (.vSub { word with pred := 3, neg := true, dest := 10, sa := 7, sb := 197, moda := 4, imm := 40 }) ∧
  lane 0x00000820000000000000F002 (.vBlk { word with imm := 0x820 }) ∧ lane 0x00000000000000000000F087 (.vExit word) ∧
  decodeTableWord 32 0 = none ∧ decodeTableWord 96 0 = none
end

