-- ==== Sys2Proof/Laws/Events.lean ====
section
/-!
SUPPORT. The two dispatches agree: a due event does what the instruction of its name does.
-/
namespace Sys2Proof.Machine

/-- The dispatch of events and the dispatch of instructions agree. -/
theorem exec_of_event {i : Instr} {e : Event} (h : eventOf? i = some e) (s : State) : exec i s = execEvent e s := by
  cases i <;> first | (cases h; rfl) | cases h

/-- Every event is named by an instruction. -/
theorem event_named (e : Event) : ∃ i : Instr, eventOf? i = some e :=
  match e with
  | .longLatencyReturn flock op => ⟨.longLatencyReturn flock op, rfl⟩
  | .samplerResultReturn flock op => ⟨.samplerResultReturn flock op, rfl⟩
  | .treeResultReturn flock op => ⟨.treeResultReturn flock op, rfl⟩
  | .accTransferComplete flock op => ⟨.accTransferComplete flock op, rfl⟩
  | .ffStoreDelivered flock op => ⟨.ffStoreDelivered flock op, rfl⟩
  | .tosWrite flock op => ⟨.tosWrite flock op, rfl⟩
  | .laneBlockStart flock => ⟨.laneBlockStart flock, rfl⟩
  | .roundEndExchange core dp => ⟨.roundEndExchange core dp, rfl⟩
  | .flockExchange core dp flock => ⟨.flockExchange core dp flock, rfl⟩
  | .predicateResolution flock path => ⟨.predicateResolution flock path, rfl⟩
  | .reconvTimeout flock entry => ⟨.reconvTimeout flock entry, rfl⟩
  | .regroupCollectionClose core coll => ⟨.regroupCollectionClose core coll, rfl⟩
  | .regroupCollectionTimeout core coll => ⟨.regroupCollectionTimeout core coll, rfl⟩
  | .callFlockEnd flock => ⟨.callFlockEnd flock, rfl⟩
  | .barWaitComplete flock => ⟨.barWaitComplete flock, rfl⟩
  | .herdAdmit region => ⟨.herdAdmit region, rfl⟩
  | .regionComplete region => ⟨.regionComplete region, rfl⟩
  | .completionAction c => ⟨.completionAction c, rfl⟩
  | .completionRecordWrite r => ⟨.completionRecordWrite r, rfl⟩
  | .preemptRequest herd => ⟨.preemptRequest herd, rfl⟩
  | .herdSave herd => ⟨.herdSave herd, rfl⟩
  | .herdRestore herd => ⟨.herdRestore herd, rfl⟩
  | .haltBoundFailure core => ⟨.haltBoundFailure core, rfl⟩
  | .matrixEngineOperation core => ⟨.matrixEngineOperation core, rfl⟩
  | .copyTransferStart core cmd => ⟨.copyTransferStart core cmd, rfl⟩
  | .copyWordLand core cmd => ⟨.copyWordLand core cmd, rfl⟩
  | .copyFaultSuspend core cmd => ⟨.copyFaultSuspend core cmd, rfl⟩
  | .faultRecordWrite r => ⟨.faultRecordWrite r, rfl⟩
  | .sealDigest j => ⟨.sealDigest j, rfl⟩
  | .commonsRelease frame => ⟨.commonsRelease frame, rfl⟩
  | .poolReturnRetry die header frame since => ⟨.poolReturnRetry die header frame since, rfl⟩
  | .poolReturnStall die header frame since => ⟨.poolReturnStall die header frame since, rfl⟩
  | .doorbellWrite offset value => ⟨.doorbellWrite offset value, rfl⟩
  | .queueStep session q => ⟨.queueStep session q, rfl⟩
  | .packetDispatch p => ⟨.packetDispatch p, rfl⟩
  | .packetCopy p => ⟨.packetCopy p, rfl⟩
  | .packetSignal p => ⟨.packetSignal p, rfl⟩
  | .packetWait p => ⟨.packetWait p, rfl⟩
  | .waitReread p => ⟨.waitReread p, rfl⟩
  | .packetFork p => ⟨.packetFork p, rfl⟩
  | .packetSeal p => ⟨.packetSeal p, rfl⟩
  | .packetPublish p => ⟨.packetPublish p, rfl⟩
  | .packetMigrate p => ⟨.packetMigrate p, rfl⟩
  | .migrateMove p => ⟨.migrateMove p, rfl⟩
  | .packetNop p => ⟨.packetNop p, rfl⟩
  | .depCounterDecrement die ctr amount sender => ⟨.depCounterDecrement die ctr amount sender, rfl⟩
  | .quantumBoundary paddock => ⟨.quantumBoundary paddock, rfl⟩
  | .budgetCharge herd => ⟨.budgetCharge herd, rfl⟩
  | .arbiterPromotion die request => ⟨.arbiterPromotion die request, rfl⟩
  | .quiesce paddock value => ⟨.quiesce paddock value, rfl⟩
  | .paddockQuiesced paddock => ⟨.paddockQuiesced paddock, rfl⟩
  | .qstuck paddock => ⟨.qstuck paddock, rfl⟩
  | .tlbinv1 die value => ⟨.tlbinv1 die value, rfl⟩
  | .fltctlRetry die value => ⟨.fltctlRetry die value, rfl⟩
  | .fltctlSkip die value => ⟨.fltctlSkip die value, rfl⟩
  | .fltctlEnterHandler die value => ⟨.fltctlEnterHandler die value, rfl⟩
  | .fltctlEnd die value => ⟨.fltctlEnd die value, rfl⟩
  | .fltctlAbortDomain die value => ⟨.fltctlAbortDomain die value, rfl⟩
  | .engctlResume die value => ⟨.engctlResume die value, rfl⟩
  | .engctlAbandon die value => ⟨.engctlAbandon die value, rfl⟩
  | .crel die value => ⟨.crel die value, rfl⟩
  | .keyLoad die slot blob => ⟨.keyLoad die slot blob, rfl⟩
  | .placementEpoch die => ⟨.placementEpoch die, rfl⟩
  | .frameMove m => ⟨.frameMove m, rfl⟩
  | .orderedPacketSend p => ⟨.orderedPacketSend p, rfl⟩
  | .orderedPacketArrival p => ⟨.orderedPacketArrival p, rfl⟩
  | .readRequestServe r => ⟨.readRequestServe r, rfl⟩
  | .acquireCatchup r => ⟨.acquireCatchup r, rfl⟩
  | .deliveryReportSend die net => ⟨.deliveryReportSend die net, rfl⟩
  | .deliveryReportReceive r => ⟨.deliveryReportReceive r, rfl⟩
  | .linkGroupReceive die link g => ⟨.linkGroupReceive die link g, rfl⟩
  | .linkNakReceive die link seq => ⟨.linkNakReceive die link seq, rfl⟩
  | .linkResendTimeout die link seq => ⟨.linkResendTimeout die link seq, rfl⟩
  | .linkRetrain die link => ⟨.linkRetrain die link, rfl⟩
  | .linkDown die link => ⟨.linkDown die link, rfl⟩
  | .fabricStall die => ⟨.fabricStall die, rfl⟩
  | .heartbeat die missed => ⟨.heartbeat die missed, rfl⟩
  | .dieRemoval what => ⟨.dieRemoval what, rfl⟩
  | .resynchronisation => ⟨.resynchronisation, rfl⟩
  | .boot die => ⟨.boot die, rfl⟩
  | .dedupSecretReceive die blob => ⟨.dedupSecretReceive die blob, rfl⟩
  | .dieBringup die => ⟨.dieBringup die, rfl⟩
  | .clusterPowerUp die cluster => ⟨.clusterPowerUp die cluster, rfl⟩
  | .matrixEngineEnable die cluster => ⟨.matrixEngineEnable die cluster, rfl⟩
  | .bootPeerTimeout die => ⟨.bootPeerTimeout die, rfl⟩
  | .imgBegin die len => ⟨.imgBegin die len, rfl⟩
  | .imgData die offset bytes => ⟨.imgData die offset bytes, rfl⟩
  | .imgEnd die => ⟨.imgEnd die, rfl⟩
  | .getVersion die => ⟨.getVersion die, rfl⟩
  | .getCapabilities die => ⟨.getCapabilities die, rfl⟩
  | .negotiateAlgorithms die ed448 sha3 => ⟨.negotiateAlgorithms die ed448 sha3, rfl⟩
  | .getDigests die => ⟨.getDigests die, rfl⟩
  | .getCertificate die slot offset len => ⟨.getCertificate die slot offset len, rfl⟩
  | .challenge die slot nonce => ⟨.challenge die slot nonce, rfl⟩
  | .getMeasurements die index nonce => ⟨.getMeasurements die index nonce, rfl⟩
  | .spdmUnsupportedRequest die code => ⟨.spdmUnsupportedRequest die code, rfl⟩
  | .partitionCommitRequest c => ⟨.partitionCommitRequest c, rfl⟩
  | .prepareReport die => ⟨.prepareReport die, rfl⟩
  | .commitApply die => ⟨.commitApply die, rfl⟩
  | .commitDone => ⟨.commitDone, rfl⟩
  | .watchdogExpiry die => ⟨.watchdogExpiry die, rfl⟩
  | .retentionSramUe die lost => ⟨.retentionSramUe die lost, rfl⟩
  | .snapctlArm die value => ⟨.snapctlArm die value, rfl⟩
  | .snapctlFire die => ⟨.snapctlFire die, rfl⟩
  | .snapshotAtCycle die => ⟨.snapshotAtCycle die, rfl⟩
  | .snapshotWideTrigger die => ⟨.snapshotWideTrigger die, rfl⟩
  | .pwrcap die value => ⟨.pwrcap die value, rfl⟩
  | .powerSample die => ⟨.powerSample die, rfl⟩
  | .powerCapUnmet paddock => ⟨.powerCapUnmet paddock, rfl⟩
  | .eccCorrectable die src => ⟨.eccCorrectable die src, rfl⟩
  | .eccUncorrectable die at_ => ⟨.eccUncorrectable die at_, rfl⟩
  | .memoryScrub die sector bad => ⟨.memoryScrub die sector bad, rfl⟩
  | .cqDescriptorRetest session => ⟨.cqDescriptorRetest session, rfl⟩
  | .graphicsFaultReport core region tree => ⟨.graphicsFaultReport core region tree, rfl⟩
  | .registerWrite die r value => ⟨.registerWrite die r value, rfl⟩
  | .hostMemoryAccess h => ⟨.hostMemoryAccess h, rfl⟩
  | .completionQueueReread r => ⟨.completionQueueReread r, rfl⟩
  | .linkRetrainComplete die link ok => ⟨.linkRetrainComplete die link ok, rfl⟩
  | .modulePowerLoss => ⟨.modulePowerLoss, rfl⟩
  | .rlimitWindow core => ⟨.rlimitWindow core, rfl⟩

end Sys2Proof.Machine
end

