-- ==== Sys2Proof/Laws/Issue.lean ====
section
/-!
SUPPORT. What the issue of an instruction answers: when its operands are there it completes with its effect, and otherwise it waits
or traps. The instruction lemmas cite these and never unfold `runScalar` or `runLaneAt`.
-/
namespace Sys2Proof.Machine

theorem scalarIssuer_of {s : State} {f : Flock} (h : IssuesScalar s f) : s.scalarIssuer? = some f := by
  simp [State.scalarIssuer?, h.1, h.2]

theorem laneIssuer_of {s : State} {f : Flock} {p : Path} (h : IssuesLane s f p) : s.laneIssuer? = some (f, p) := by
  simp [State.laneIssuer?, h.1, h.2.1, h.2.2.1]

theorem sFull_of_readable {f : Flock} {r : BitVec 6} (h : Readable f r) : f.sFull r.toNat = true := by
  rcases h with rfl | h <;> simp_all [Flock.sFull]

theorem useS_of {f : Flock} {rs : List (BitVec 6)} (h : ∀ r ∈ rs, Readable f r) : f.useS rs = .ok () := by
  have h1 : rs.all (fun r => f.sFull r.toNat) = true := by
    simp only [List.all_eq_true]; exact fun r hr => sFull_of_readable (h r hr)
  have h2 : (rs.any fun r => decide (r ≠ 0) && f.sPoison.contains r.toNat) = false := by
    simp only [List.any_eq_false]
    intro r hr
    rcases h r hr with rfl | h <;> simp_all
  simp only [Flock.useS, h1, h2]; rfl

theorem defS_of {f : Flock} {d : BitVec 6} (h : Writable f d) : f.defS d = .ok () := by
  rcases h with rfl | ⟨h, hn⟩
  · simp [Flock.defS, Flock.sFull, Flock.named, waitUnless]
  · have h1 : f.sFull d.toNat = true := by simp [Flock.sFull, h]
    have h2 : (f.hmode || !f.named d.toNat) = true := by
      rcases hn with hn | hn
      · simp [hn]
      · simp only [Flock.named, Bool.or_eq_true, Bool.not_eq_true', Bool.and_eq_false_iff, List.any_eq_false]
        exact .inr (.inr fun e he => by simp [hn e he])
    simp [Flock.defS, h1, h2, waitUnless]

/-- What an instruction of the scalar stream answers, with the place at which it traps. -/
theorem runScalarAt_eq {s : State} {f : Flock} (h : IssuesScalar s f) (site : Trap → TrapSite) (body : State → Flock → Res State) :
    runScalarAt site body s = match body s f with
      | .ok t => .next t
      | .error (.wait e) => .next (s.waiting e)
      | .error (.trap t) => .next ((t.stateOf s).takeTrap f.uid (site t) t) := by
  simp only [runScalarAt, scalarIssuer_of h] <;> rfl

/-- What an instruction of the scalar stream answers. -/
theorem runScalar_eq {s : State} {f : Flock} (h : IssuesScalar s f) (body : State → Flock → Res State) :
    runScalar body s = match body s f with
      | .ok t => .next t
      | .error (.wait e) => .next (s.waiting e)
      | .error (.trap t) => .next ((t.stateOf s).takeTrap f.uid .scalar t) :=
  runScalarAt_eq h _ body

/-- A scalar instruction that writes one register completes when its sources are readable and its destination is writable. -/
theorem scalarWrite_eq {s : State} {f : Flock} {d : BitVec 6} {srcs : List (BitVec 6)} (h : IssuesScalar s f)
    (hs : ∀ r ∈ srcs, Readable f r) (hd : Writable f d) (value : Flock → Word64) :
    scalarWrite d srcs value s = .next (s.setFlock (f.setS d.toNat (value f)).advance) := by
  simp only [scalarWrite, runScalar_eq h, useS_of hs, defS_of hd]; rfl

/-- A scalar instruction that writes one predicate completes when its sources are readable. -/
theorem scalarTest_eq {s : State} {f : Flock} {z : BitVec 3} {srcs : List (BitVec 6)} (h : IssuesScalar s f)
    (hs : ∀ r ∈ srcs, Readable f r) (value : Flock → Bool) :
    scalarTest z srcs value s = .next (s.setFlock (f.setZ z.toNat (value f)).advance) := by
  simp only [scalarTest, runScalar_eq h, useS_of hs]; rfl

/-- What an instruction of the lane stream answers under a confirmed mask. -/
theorem runLaneAs_eq {s : State} {f : Flock} {p : Path} (h : IssuesLane s f p) (k : Holding) (site : Nat → TrapSite)
    (body : State → Flock → Path → Res State) :
    runLaneAs k site body s = match body s f p with
      | .ok t => .next t
      | .error (.wait e) => .next (s.waiting e)
      | .error (.trap t) => .next (s.laneTrap f p (site p.id) t) := by
  simp only [runLaneAs, laneIssuer_of h, h.2.2.2.1, h.2.2.2.2]
  cases body s f p with
  | ok t => rfl
  | error x => cases x <;> rfl

/-- What an instruction that waits for a confirmed mask answers under one. -/
theorem runConfirmed_eq {s : State} {f : Flock} {p : Path} (h : IssuesLane s f p) (body : State → Flock → Path → Res State) :
    runConfirmed body s = match body s f p with
      | .ok t => .next t
      | .error (.wait e) => .next (s.waiting e)
      | .error (.trap t) => .next (s.laneTrap f p (.lane p.id none) t) := by
  simp only [runConfirmed, runLane, runHeld, runLaneAs_eq h, Path.mustConfirm, h.2.2.2.1, Option.isNone_none, waitUnless, if_true]
  rfl

theorem checkOperands_of {f : Flock} {p : Path} {w : LaneWord} {srcs : List Src} {dsts : List Dst} (h : LaneReady f p w srcs dsts) :
    checkOperands f p w (laneList f p w) srcs dsts = .ok () := by
  obtain ⟨h1, h2, hm, h3⟩ := h
  have b0 : (f.branches.isEmpty || srcs.all fun x => decide (x.mod ≠ 4) && decide (x.mod ≠ 5)) = true := by
    rcases hm with hm | hm
    · simp [hm]
    · simp only [Bool.or_eq_true, List.all_eq_true]
      exact .inr fun x hx => by simpa using hm x hx
  have a1 : srcs.all (·.ok f) = true := List.all_eq_true.2 h1
  have a2 : dsts.all (·.ok f) = true := List.all_eq_true.2 h2
  have b1 : (laneList f p w).findSome? (fun l => (srcs.find? fun x => x.trapping f p w &&
      [laneRead w f.lanes x.mod l].any (x.emptyAt f)).map fun x => (l, x)) = none := by
    simp only [List.findSome?_eq_none_iff, Option.map_eq_none_iff, List.find?_eq_none]
    intro l hl x hx
    simp [((h3 l hl).1 x hx).1]
  have b2 : ((laneList f p w).any fun l => srcs.any fun x => [laneRead w f.lanes x.mod l].any (x.emptyAt f)) = false := by
    simp only [List.any_eq_false]
    intro l hl
    simp only [Bool.not_eq_true, List.any_eq_false]
    intro x hx; simp [((h3 l hl).1 x hx).1]
  have b3 : ((laneList f p w).any fun l => dsts.any fun x => (List.range x.regs).any fun i => !f.vFull (x.code.toNat + i) l) = false := by
    simp only [List.any_eq_false]
    intro l hl
    simp only [Bool.not_eq_true, List.any_eq_false]
    intro x hx i hi
    simp [(h3 l hl).2 x hx i hi]
  have b4 : ((laneList f p w).find? fun l => srcs.any fun x => [laneRead w f.lanes x.mod l].any (x.poisonedAt f)) = none := by
    simp only [List.find?_eq_none, Bool.not_eq_true, List.any_eq_false]
    intro l hl x hx; simp [((h3 l hl).1 x hx).2]
  simp only [checkOperands, checkNames, a1, a2, checkSources, b0, waitUnless, checkSourcesVia, b1, b2, b3, b4]
  rfl

/-- A lane instruction that computes on registers completes when its operands are ready. -/
theorem laneCompute_eq {s : State} {f : Flock} {p : Path} {w : LaneWord} {srcs : List Src} {dsts : List Dst} (h : IssuesLane s f p)
    (hr : LaneReady f p w srcs dsts) (effect : State → Flock → List Nat → Flock) :
    laneCompute w srcs dsts effect s = .next (s.setFlock ((effect s f (laneList f p w)).retire p.id)) := by
  simp only [laneCompute, runLane, runHeld, runLaneAs_eq h, checkOperands_of hr]; rfl

/-- A lane instruction that combines lanes completes when its operands are ready. -/
theorem crossCompute_eq {s : State} {f : Flock} {p : Path} {w : LaneWord} {srcs : List Src} {dsts : List Dst} (h : IssuesLane s f p)
    (hr : LaneReady f p w srcs dsts) (effect : State → Flock → List Nat → Flock) :
    crossCompute w srcs dsts effect s = .next (s.setFlock ((effect s f (laneList f p w)).retire p.id)) := by
  simp only [crossCompute, runConfirmed_eq h, checkOperands_of hr]; rfl

end Sys2Proof.Machine
end

