-- ==== Sys2Proof/Laws/Memory.lean ====
section
/-!
SUPPORT. Sparse maps and memories: what a read gives after a write, and that every operation on a memory keeps its canonical
form.
-/
namespace Sys2Proof.Machine

variable {α : Type} [DecidableEq α]

/-! ## Canonical maps -/

/-- A canonical map with an entry in front is one whose first value is listed, whose keys all lie above the entry's, and whose
rest is canonical. -/
theorem SMap.wf_cons {d : α} {j : Nat} {v : α} {r : SMap α} :
    SMap.wf d ((j, v) :: r) = true ↔ v ≠ d ∧ (∀ x ∈ r.head?, j < x.1) ∧ SMap.wf d r = true := by
  cases r with
  | nil => simp [SMap.wf]
  | cons x r => cases x; simp [SMap.wf, and_assoc]

omit [DecidableEq α] in
/-- The first key of a placing is the new key or the old first key. -/
theorem SMap.head_place {r : SMap α} {k : Nat} {v : α} {x : Nat × α} (h : x ∈ (SMap.place r k v).head?) :
    x.1 = k ∨ ∃ y ∈ r.head?, x.1 = y.1 := by
  cases r with
  | nil => simp only [SMap.place, List.head?_cons, Option.mem_def, Option.some.injEq] at h; left; rw [← h]
  | cons y r =>
    obtain ⟨j, u⟩ := y
    simp only [SMap.place] at h
    split at h
    · simp at h; left; rw [← h]
    · simp at h; right; exact ⟨(j, u), rfl, by rw [← h]⟩

omit [DecidableEq α] in
/-- The first key of an erasure lies above what all keys of a rising list lie above. -/
theorem SMap.head_erase [DecidableEq α] {d : α} {r : SMap α} {k b : Nat} (hr : SMap.wf d r = true) (hb : ∀ y ∈ r.head?, b < y.1)
    {x : Nat × α} (h : x ∈ (SMap.erase r k).head?) : b < x.1 := by
  induction r generalizing b with
  | nil => simp [SMap.erase] at h
  | cons y r ih =>
    obtain ⟨j, u⟩ := y
    rw [SMap.wf_cons] at hr
    have hj : b < j := hb (j, u) rfl
    simp only [SMap.erase] at h
    split at h
    · exact Nat.lt_trans hj (ih hr.2.2 hr.2.1 h)
    · simp at h; rw [← h]; exact hj

/-- An erasure keeps the canonical form. -/
theorem SMap.wf_erase {d : α} {r : SMap α} {k : Nat} (h : SMap.wf d r = true) : SMap.wf d (SMap.erase r k) = true := by
  induction r with
  | nil => rfl
  | cons y r ih =>
    obtain ⟨j, u⟩ := y
    have h' := SMap.wf_cons.1 h
    simp only [SMap.erase]
    split
    · exact ih h'.2.2
    · exact SMap.wf_cons.2 ⟨h'.1, fun x hx => SMap.head_erase h'.2.2 h'.2.1 hx, ih h'.2.2⟩

omit [DecidableEq α] in
/-- No key of an erasure is the key erased. -/
theorem SMap.key_erase {r : SMap α} {k : Nat} : ∀ x ∈ SMap.erase r k, x.1 ≠ k := by
  induction r with
  | nil => simp [SMap.erase]
  | cons y r ih =>
    obtain ⟨j, u⟩ := y
    simp only [SMap.erase]
    split
    · exact ih
    · rename_i hj
      intro x hx
      rcases List.mem_cons.1 hx with rfl | hx
      · exact hj
      · exact ih x hx

/-- Placing an entry whose key no other has keeps the canonical form. -/
theorem SMap.wf_place {d : α} {r : SMap α} {k : Nat} {v : α} (hv : v ≠ d) (hk : ∀ x ∈ r, x.1 ≠ k) (h : SMap.wf d r = true) :
    SMap.wf d (SMap.place r k v) = true := by
  induction r with
  | nil => simp [SMap.place, SMap.wf, hv]
  | cons y r ih =>
    obtain ⟨j, u⟩ := y
    have h' := SMap.wf_cons.1 h
    simp only [SMap.place]
    split
    · rename_i hlt
      exact SMap.wf_cons.2 ⟨hv, fun x hx => by simp at hx; rw [← hx]; exact hlt, h⟩
    · rename_i hge
      have hne : j ≠ k := hk (j, u) (List.mem_cons_self ..)
      refine SMap.wf_cons.2 ⟨h'.1, fun x hx => ?_, ih (fun x hx => hk x (List.mem_cons_of_mem _ hx)) h'.2.2⟩
      rcases SMap.head_place hx with hx | ⟨y, hy, hx⟩
      · rw [hx]; omega
      · rw [hx]; exact h'.2.1 y hy

/-- An insertion of a value other than the default keeps the canonical form. -/
theorem SMap.wf_insert {d : α} {r : SMap α} {k : Nat} {v : α} (hv : v ≠ d) (h : SMap.wf d r = true) :
    SMap.wf d (SMap.insert r k v) = true := SMap.wf_place hv SMap.key_erase (SMap.wf_erase h)

/-- Setting a key keeps the canonical form. -/
theorem SMap.wf_put {d : α} {r : SMap α} {k : Nat} {v : α} (h : SMap.wf d r = true) : SMap.wf d (SMap.put r d k v) = true := by
  unfold SMap.put
  split
  · exact SMap.wf_erase h
  · exact SMap.wf_insert ‹_› h

omit [DecidableEq α] in
/-- A lookup after an erasure. -/
theorem SMap.get_erase {d : α} {r : SMap α} {k j : Nat} :
    SMap.get (SMap.erase r k) d j = if j = k then d else SMap.get r d j := by
  induction r with
  | nil => simp [SMap.erase, SMap.get]
  | cons x r ih =>
    obtain ⟨i, u⟩ := x
    grind [SMap.erase, SMap.get]

omit [DecidableEq α] in
/-- A lookup after an entry is placed whose key no other has. -/
theorem SMap.get_place {d : α} {r : SMap α} {k j : Nat} {v : α} (hk : ∀ x ∈ r, x.1 ≠ k) :
    SMap.get (SMap.place r k v) d j = if j = k then v else SMap.get r d j := by
  induction r with
  | nil => grind [SMap.place, SMap.get]
  | cons x r ih =>
    obtain ⟨i, u⟩ := x
    have := hk (i, u) (List.mem_cons_self ..)
    have := ih fun x hx => hk x (List.mem_cons_of_mem _ hx)
    grind [SMap.place, SMap.get]

omit [DecidableEq α] in
/-- A lookup after an insertion. -/
theorem SMap.get_insert {d : α} {r : SMap α} {k j : Nat} {v : α} :
    SMap.get (SMap.insert r k v) d j = if j = k then v else SMap.get r d j := by
  rw [SMap.insert, SMap.get_place SMap.key_erase, SMap.get_erase]
  split <;> rfl

/-- A lookup after a key is set. -/
theorem SMap.get_put {d : α} {r : SMap α} {k j : Nat} {v : α} :
    SMap.get (SMap.put r d k v) d j = if j = k then v else SMap.get r d j := by
  unfold SMap.put
  split
  · subst_vars; exact SMap.get_erase
  · exact SMap.get_insert

/-! ## Memories -/

/-- One byte written keeps the canonical form. -/
theorem Memory.wf_setByte {m : List Host.Cell} {a : Nat} {b : Byte} (h : Memory.wf m = true) :
    Memory.wf (Memory.setByte m a b) = true := SMap.wf_put h

/-- A write keeps the canonical form. -/
theorem Memory.wf_write {m : List Host.Cell} {a : Nat} {bs : List Byte} (h : Memory.wf m = true) :
    Memory.wf (Memory.write m a bs) = true := by
  induction bs generalizing m a with
  | nil => exact h
  | cons b bs ih => exact ih (Memory.wf_setByte h)

/-- A write of a number keeps the canonical form. -/
theorem Memory.wf_writeNum {m : List Host.Cell} {a n v : Nat} (h : Memory.wf m = true) :
    Memory.wf (Memory.writeNum m a n v) = true := Memory.wf_write h

/-- A byte read after one byte is written. -/
theorem Memory.byte_setByte {m : List Host.Cell} {a b : Nat} {v : Byte} :
    Memory.byte (Memory.setByte m a v) b = if b = a then v else Memory.byte m b := SMap.get_put

/-- A byte read after a write: the byte laid there, or what was there before. -/
theorem Memory.byte_write {m : List Host.Cell} {a b : Nat} {bs : List Byte} :
    Memory.byte (Memory.write m a bs) b = if a ≤ b ∧ b < a + bs.length then bs.getD (b - a) 0 else Memory.byte m b := by
  induction bs generalizing m a with
  | nil => simp [Memory.write] <;> intro h1 h2 <;> omega
  | cons c bs ih =>
    rw [Memory.write, ih, Memory.byte_setByte]
    by_cases h1 : b = a
    · subst h1; simp <;> intro h2 <;> omega
    · by_cases h2 : a + 1 ≤ b ∧ b < a + 1 + bs.length
      · have h3 : a ≤ b ∧ b < a + (c :: bs).length := by simp; omega
        rw [if_pos h2, if_pos h3]
        obtain ⟨n, hn⟩ : ∃ n, b - a = n + 1 := ⟨b - a - 1, by omega⟩
        rw [hn, show b - (a + 1) = n by omega]; simp
      · have h3 : ¬(a ≤ b ∧ b < a + (c :: bs).length) := by simp; omega
        rw [if_neg h2, if_neg h1, if_neg h3]

/-- A byte outside a write is unchanged. -/
theorem Memory.byte_write_outside {m : List Host.Cell} {a b : Nat} {bs : List Byte}
    (hb : ¬(a ≤ b ∧ b < a + bs.length)) : Memory.byte (Memory.write m a bs) b = Memory.byte m b := by
  rw [Memory.byte_write, if_neg hb]

/-- The bytes of a write read back. -/
theorem Memory.bytes_write {m : List Host.Cell} {a : Nat} {bs : List Byte} :
    Memory.bytes (Memory.write m a bs) a bs.length = bs := by
  apply List.ext_getElem
  · simp [Memory.bytes]
  · intro i h1 h2
    simp only [Memory.bytes, List.getElem_map, List.getElem_range]
    rw [Memory.byte_write, if_pos ⟨Nat.le_add_right a i, Nat.add_lt_add_left h2 a⟩]
    simp [h2]

end Sys2Proof.Machine
end

