-- ==== Sys2Proof/Laws/PerInstr.lean ====
section
/-!
SUPPORT. A statement about every instruction, one lemma per constructor: the encoder writes a scalar instruction as the four bytes of
its word and a lane instruction as twelve (R162, R167), and nothing else has a word.
-/
namespace Sys2Proof.Laws.WordLength

/-- The length in bytes of the word that an instruction has: twelve for a lane instruction, four for a scalar one. -/
def wordLength (i : Instr) : Nat := if (laneShape i).isSome then 12 else 4

/-- The encoder writes exactly the word's bytes. -/
def Statement (i : Instr) : Prop := ∀ bs, encode i = some bs → bs.length = wordLength i

theorem length_bytesOf (n v : Nat) : (bytesOf n v).length = n := by
  induction n generalizing v with
  | zero => rfl
  | succ n ih => simp [bytesOf, ih]

/-- An instruction with no lane word has four bytes where it is encoded. -/
theorem of_scalar {i : Instr} (h : laneShape i = none) : Statement i := by
  intro bs hb
  unfold encode at hb
  cases hw : encodeScalar i with
  | some w => simp only [hw, Option.some.injEq] at hb; subst hb; simp [wordLength, h, length_bytesOf]
  | none => simp [hw, encodeLane, h] at hb

/-- An instruction with a lane word has twelve bytes where it is encoded. -/
theorem of_lane {i : Instr} (hw : encodeScalar i = none) (h : (laneShape i).isSome = true) : Statement i := by
  intro bs hb
  simp only [encode, hw, Option.map_eq_some_iff] at hb
  obtain ⟨w, -, rfl⟩ := hb
  simp [wordLength, h, length_bytesOf]

theorem sAdd (d a b : BitVec 6) : Statement (.sAdd d a b) := of_scalar rfl
theorem sSub (d a b : BitVec 6) : Statement (.sSub d a b) := of_scalar rfl
theorem sMul (d a b : BitVec 6) : Statement (.sMul d a b) := of_scalar rfl
theorem sMulh (d a b : BitVec 6) : Statement (.sMulh d a b) := of_scalar rfl
theorem sMulhu (d a b : BitVec 6) : Statement (.sMulhu d a b) := of_scalar rfl
theorem sDiv (d a b : BitVec 6) : Statement (.sDiv d a b) := of_scalar rfl
theorem sDivu (d a b : BitVec 6) : Statement (.sDivu d a b) := of_scalar rfl
theorem sRem (d a b : BitVec 6) : Statement (.sRem d a b) := of_scalar rfl
theorem sRemu (d a b : BitVec 6) : Statement (.sRemu d a b) := of_scalar rfl
theorem sAnd (d a b : BitVec 6) : Statement (.sAnd d a b) := of_scalar rfl
theorem sOr (d a b : BitVec 6) : Statement (.sOr d a b) := of_scalar rfl
theorem sXor (d a b : BitVec 6) : Statement (.sXor d a b) := of_scalar rfl
theorem sShl (d a b : BitVec 6) : Statement (.sShl d a b) := of_scalar rfl
theorem sShr (d a b : BitVec 6) : Statement (.sShr d a b) := of_scalar rfl
theorem sSra (d a b : BitVec 6) : Statement (.sSra d a b) := of_scalar rfl
theorem sMin (d a b : BitVec 6) : Statement (.sMin d a b) := of_scalar rfl
theorem sMinu (d a b : BitVec 6) : Statement (.sMinu d a b) := of_scalar rfl
theorem sMax (d a b : BitVec 6) : Statement (.sMax d a b) := of_scalar rfl
theorem sMaxu (d a b : BitVec 6) : Statement (.sMaxu d a b) := of_scalar rfl
theorem sClz (d a : BitVec 6) : Statement (.sClz d a) := of_scalar rfl
theorem sCtz (d a : BitVec 6) : Statement (.sCtz d a) := of_scalar rfl
theorem sPopc (d a : BitVec 6) : Statement (.sPopc d a) := of_scalar rfl
theorem sBitint (d a b : BitVec 6) : Statement (.sBitint d a b) := of_scalar rfl
theorem sBitdeint (d a : BitVec 6) : Statement (.sBitdeint d a) := of_scalar rfl
theorem sSel (d a b : BitVec 6) (z : BitVec 3) (neg : Bool) : Statement (.sSel d a b z neg) := of_scalar rfl
theorem sCmp (zd : BitVec 3) (cc : Cond) (a b : BitVec 6) : Statement (.sCmp zd cc a b) := of_scalar rfl
theorem sAddi (d a : BitVec 6) (imm : BitVec 14) : Statement (.sAddi d a imm) := of_scalar rfl
theorem sAndi (d a : BitVec 6) (imm : BitVec 14) : Statement (.sAndi d a imm) := of_scalar rfl
theorem sOri (d a : BitVec 6) (imm : BitVec 14) : Statement (.sOri d a imm) := of_scalar rfl
theorem sXori (d a : BitVec 6) (imm : BitVec 14) : Statement (.sXori d a imm) := of_scalar rfl
theorem sShli (d a : BitVec 6) (imm : BitVec 14) : Statement (.sShli d a imm) := of_scalar rfl
theorem sShri (d a : BitVec 6) (imm : BitVec 14) : Statement (.sShri d a imm) := of_scalar rfl
theorem sSrai (d a : BitVec 6) (imm : BitVec 14) : Statement (.sSrai d a imm) := of_scalar rfl
theorem sLui (d : BitVec 6) (imm : BitVec 14) : Statement (.sLui d imm) := of_scalar rfl
theorem sCmpi (zd : BitVec 3) (cc : Cond) (a : BitVec 6) (imm : BitVec 14) : Statement (.sCmpi zd cc a imm) := of_scalar rfl
theorem sLdB (d a : BitVec 6) (off : BitVec 14) : Statement (.sLdB d a off) := of_scalar rfl
theorem sLdH (d a : BitVec 6) (off : BitVec 14) : Statement (.sLdH d a off) := of_scalar rfl
theorem sLdW (d a : BitVec 6) (off : BitVec 14) : Statement (.sLdW d a off) := of_scalar rfl
theorem sLdD (d a : BitVec 6) (off : BitVec 14) : Statement (.sLdD d a off) := of_scalar rfl
theorem sStB (d a : BitVec 6) (off : BitVec 14) : Statement (.sStB d a off) := of_scalar rfl
theorem sStH (d a : BitVec 6) (off : BitVec 14) : Statement (.sStH d a off) := of_scalar rfl
theorem sStW (d a : BitVec 6) (off : BitVec 14) : Statement (.sStW d a off) := of_scalar rfl
theorem sStD (d a : BitVec 6) (off : BitVec 14) : Statement (.sStD d a off) := of_scalar rfl
theorem sLdAcq (d a : BitVec 6) (scope : Scope) (size : Size) (off : BitVec 9) : Statement (.sLdAcq d a scope size off) := of_scalar rfl
theorem sStRel (d a : BitVec 6) (scope : Scope) (size : Size) (off : BitVec 9) : Statement (.sStRel d a scope size off) := of_scalar rfl
theorem sLdk (d a : BitVec 6) (size : Size) (off : BitVec 9) : Statement (.sLdk d a size off) := of_scalar rfl
theorem sAtomW (op : AtomOp) (ord : Order) (d a b : BitVec 6) : Statement (.sAtomW op ord d a b) := of_scalar rfl
theorem sAtomD (op : AtomOp) (ord : Order) (d a b : BitVec 6) : Statement (.sAtomD op ord d a b) := of_scalar rfl
theorem sFenceAcq (scope : Scope) : Statement (.sFenceAcq scope) := of_scalar rfl
theorem sFenceRel (scope : Scope) : Statement (.sFenceRel scope) := of_scalar rfl
theorem sFenceAr (scope : Scope) : Statement (.sFenceAr scope) := of_scalar rfl
theorem sB (z : BitVec 3) (neg : Bool) (off : BitVec 22) : Statement (.sB z neg off) := of_scalar rfl
theorem sCall (z : BitVec 3) (neg : Bool) (off : BitVec 22) : Statement (.sCall z neg off) := of_scalar rfl
theorem sBz (a : BitVec 6) (imm : BitVec 14) : Statement (.sBz a imm) := of_scalar rfl
theorem sLoop (d : BitVec 6) (imm : BitVec 14) : Statement (.sLoop d imm) := of_scalar rfl
theorem sRet : Statement .sRet := of_scalar rfl
theorem sJr (a : BitVec 6) : Statement (.sJr a) := of_scalar rfl
theorem sLgo (index : BitVec 26) : Statement (.sLgo index) := of_scalar rfl
theorem sLwait : Statement .sLwait := of_scalar rfl
theorem sBarInit (a b : BitVec 6) : Statement (.sBarInit a b) := of_scalar rfl
theorem sBarArrive (zd : BitVec 3) (a : BitVec 6) : Statement (.sBarArrive zd a) := of_scalar rfl
theorem sBarExpect (a b : BitVec 6) : Statement (.sBarExpect a b) := of_scalar rfl
theorem sBarWait (a b : BitVec 6) : Statement (.sBarWait a b) := of_scalar rfl
theorem sCntWait (path : Counter) (a : BitVec 6) : Statement (.sCntWait path a) := of_scalar rfl
theorem sCp (d a b : BitVec 6) : Statement (.sCp d a b) := of_scalar rfl
theorem sCpMc (d a b : BitVec 6) : Statement (.sCpMc d a b) := of_scalar rfl
theorem sXf (d a b : BitVec 6) : Statement (.sXf d a b) := of_scalar rfl
theorem sCpG (d a b : BitVec 6) : Statement (.sCpG d a b) := of_scalar rfl
theorem sPublish (a : BitVec 6) : Statement (.sPublish a) := of_scalar rfl
theorem sQpush (d a b : BitVec 6) : Statement (.sQpush d a b) := of_scalar rfl
theorem sDepDec (a b : BitVec 6) : Statement (.sDepDec a b) := of_scalar rfl
theorem sPseal (a : BitVec 6) : Statement (.sPseal a) := of_scalar rfl
theorem sOpbRsv (d a : BitVec 6) : Statement (.sOpbRsv d a) := of_scalar rfl
theorem sOpbRel (a : BitVec 6) : Statement (.sOpbRel a) := of_scalar rfl
theorem sMxLease (d a : BitVec 6) : Statement (.sMxLease d a) := of_scalar rfl
theorem sMxYield : Statement .sMxYield := of_scalar rfl
theorem sKget (d : BitVec 6) (k : BitVec 12) : Statement (.sKget d k) := of_scalar rfl
theorem sKput (k : BitVec 12) (a : BitVec 6) : Statement (.sKput k a) := of_scalar rfl
theorem sTrap (code : BitVec 14) : Statement (.sTrap code) := of_scalar rfl
theorem sNop : Statement .sNop := of_scalar rfl
theorem sTret : Statement .sTret := of_scalar rfl
theorem sYield : Statement .sYield := of_scalar rfl
theorem sExit : Statement .sExit := of_scalar rfl
theorem vNop (w : LaneWord) : Statement (.vNop w) := of_lane rfl rfl
theorem vNopMarker (w : LaneWord) : Statement (.vNopMarker w) := of_lane rfl rfl
theorem vBlk (w : LaneWord) : Statement (.vBlk w) := of_lane rfl rfl
theorem vLstop (w : LaneWord) : Statement (.vLstop w) := of_lane rfl rfl
theorem vTrap (w : LaneWord) : Statement (.vTrap w) := of_lane rfl rfl
theorem vBrk (w : LaneWord) : Statement (.vBrk w) := of_lane rfl rfl
theorem vAdd (w : LaneWord) : Statement (.vAdd w) := of_lane rfl rfl
theorem vSub (w : LaneWord) : Statement (.vSub w) := of_lane rfl rfl
theorem vMul (w : LaneWord) : Statement (.vMul w) := of_lane rfl rfl
theorem vMad (w : LaneWord) : Statement (.vMad w) := of_lane rfl rfl
theorem vMin (w : LaneWord) : Statement (.vMin w) := of_lane rfl rfl
theorem vMax (w : LaneWord) : Statement (.vMax w) := of_lane rfl rfl
theorem vAbs (w : LaneWord) : Statement (.vAbs w) := of_lane rfl rfl
theorem vAnd (w : LaneWord) : Statement (.vAnd w) := of_lane rfl rfl
theorem vOr (w : LaneWord) : Statement (.vOr w) := of_lane rfl rfl
theorem vXor (w : LaneWord) : Statement (.vXor w) := of_lane rfl rfl
theorem vNot (w : LaneWord) : Statement (.vNot w) := of_lane rfl rfl
theorem vShl (w : LaneWord) : Statement (.vShl w) := of_lane rfl rfl
theorem vShr (w : LaneWord) : Statement (.vShr w) := of_lane rfl rfl
theorem vSra (w : LaneWord) : Statement (.vSra w) := of_lane rfl rfl
theorem vClz (w : LaneWord) : Statement (.vClz w) := of_lane rfl rfl
theorem vPopc (w : LaneWord) : Statement (.vPopc w) := of_lane rfl rfl
theorem vBrev (w : LaneWord) : Statement (.vBrev w) := of_lane rfl rfl
theorem vBfe (w : LaneWord) : Statement (.vBfe w) := of_lane rfl rfl
theorem vBfi (w : LaneWord) : Statement (.vBfi w) := of_lane rfl rfl
theorem vBitint (w : LaneWord) : Statement (.vBitint w) := of_lane rfl rfl
theorem vCmp (w : LaneWord) : Statement (.vCmp w) := of_lane rfl rfl
theorem vSel (w : LaneWord) : Statement (.vSel w) := of_lane rfl rfl
theorem vMov (w : LaneWord) : Statement (.vMov w) := of_lane rfl rfl
theorem vMovi (w : LaneWord) : Statement (.vMovi w) := of_lane rfl rfl
theorem vLane (w : LaneWord) : Statement (.vLane w) := of_lane rfl rfl
theorem vKget (w : LaneWord) : Statement (.vKget w) := of_lane rfl rfl
theorem vFadd (w : LaneWord) : Statement (.vFadd w) := of_lane rfl rfl
theorem vFsub (w : LaneWord) : Statement (.vFsub w) := of_lane rfl rfl
theorem vFmul (w : LaneWord) : Statement (.vFmul w) := of_lane rfl rfl
theorem vFfma (w : LaneWord) : Statement (.vFfma w) := of_lane rfl rfl
theorem vFmin (w : LaneWord) : Statement (.vFmin w) := of_lane rfl rfl
theorem vFmax (w : LaneWord) : Statement (.vFmax w) := of_lane rfl rfl
theorem vFcmp (w : LaneWord) : Statement (.vFcmp w) := of_lane rfl rfl
theorem vFclass (w : LaneWord) : Statement (.vFclass w) := of_lane rfl rfl
theorem vFrcp (w : LaneWord) : Statement (.vFrcp w) := of_lane rfl rfl
theorem vFrsq (w : LaneWord) : Statement (.vFrsq w) := of_lane rfl rfl
theorem vFsqrt (w : LaneWord) : Statement (.vFsqrt w) := of_lane rfl rfl
theorem vFexp2 (w : LaneWord) : Statement (.vFexp2 w) := of_lane rfl rfl
theorem vFlog2 (w : LaneWord) : Statement (.vFlog2 w) := of_lane rfl rfl
theorem vFsin (w : LaneWord) : Statement (.vFsin w) := of_lane rfl rfl
theorem vFcos (w : LaneWord) : Statement (.vFcos w) := of_lane rfl rfl
theorem vFfloor (w : LaneWord) : Statement (.vFfloor w) := of_lane rfl rfl
theorem vFceil (w : LaneWord) : Statement (.vFceil w) := of_lane rfl rfl
theorem vFtrunc (w : LaneWord) : Statement (.vFtrunc w) := of_lane rfl rfl
theorem vFrnd (w : LaneWord) : Statement (.vFrnd w) := of_lane rfl rfl
theorem vFfract (w : LaneWord) : Statement (.vFfract w) := of_lane rfl rfl
theorem vFdot2 (w : LaneWord) : Statement (.vFdot2 w) := of_lane rfl rfl
theorem vCvt (w : LaneWord) : Statement (.vCvt w) := of_lane rfl rfl
theorem vCvtN (w : LaneWord) : Statement (.vCvtN w) := of_lane rfl rfl
theorem vCvtW (w : LaneWord) : Statement (.vCvtW w) := of_lane rfl rfl
theorem vCvtEf (w : LaneWord) : Statement (.vCvtEf w) := of_lane rfl rfl
theorem vBfpPack (w : LaneWord) : Statement (.vBfpPack w) := of_lane rfl rfl
theorem vBfpUnpack (w : LaneWord) : Statement (.vBfpUnpack w) := of_lane rfl rfl
theorem vPack (w : LaneWord) : Statement (.vPack w) := of_lane rfl rfl
theorem vUnpack (w : LaneWord) : Statement (.vUnpack w) := of_lane rfl rfl
theorem vShflIdx (w : LaneWord) : Statement (.vShflIdx w) := of_lane rfl rfl
theorem vShflUp (w : LaneWord) : Statement (.vShflUp w) := of_lane rfl rfl
theorem vShflDown (w : LaneWord) : Statement (.vShflDown w) := of_lane rfl rfl
theorem vShflXor (w : LaneWord) : Statement (.vShflXor w) := of_lane rfl rfl
theorem vBcast (w : LaneWord) : Statement (.vBcast w) := of_lane rfl rfl
theorem vVoteAll (w : LaneWord) : Statement (.vVoteAll w) := of_lane rfl rfl
theorem vVoteAny (w : LaneWord) : Statement (.vVoteAny w) := of_lane rfl rfl
theorem vVoteEq (w : LaneWord) : Statement (.vVoteEq w) := of_lane rfl rfl
theorem vVoteBallot (w : LaneWord) : Statement (.vVoteBallot w) := of_lane rfl rfl
theorem vScan (w : LaneWord) : Statement (.vScan w) := of_lane rfl rfl
theorem vRed (w : LaneWord) : Statement (.vRed w) := of_lane rfl rfl
theorem vMatch (w : LaneWord) : Statement (.vMatch w) := of_lane rfl rfl
theorem vTosFirst (w : LaneWord) : Statement (.vTosFirst w) := of_lane rfl rfl
theorem vTosLane (w : LaneWord) : Statement (.vTosLane w) := of_lane rfl rfl
theorem vTosMask (w : LaneWord) : Statement (.vTosMask w) := of_lane rfl rfl
theorem vTosCount (w : LaneWord) : Statement (.vTosCount w) := of_lane rfl rfl
theorem vLd (w : LaneWord) : Statement (.vLd w) := of_lane rfl rfl
theorem vSt (w : LaneWord) : Statement (.vSt w) := of_lane rfl rfl
theorem vLdSp (w : LaneWord) : Statement (.vLdSp w) := of_lane rfl rfl
theorem vStSp (w : LaneWord) : Statement (.vStSp w) := of_lane rfl rfl
theorem vLdAcq (w : LaneWord) : Statement (.vLdAcq w) := of_lane rfl rfl
theorem vStRel (w : LaneWord) : Statement (.vStRel w) := of_lane rfl rfl
theorem vAtom (w : LaneWord) : Statement (.vAtom w) := of_lane rfl rfl
theorem vAtomSp (w : LaneWord) : Statement (.vAtomSp w) := of_lane rfl rfl
theorem vAred (w : LaneWord) : Statement (.vAred w) := of_lane rfl rfl
theorem vStFf (w : LaneWord) : Statement (.vStFf w) := of_lane rfl rfl
theorem vPrefetch (w : LaneWord) : Statement (.vPrefetch w) := of_lane rfl rfl
theorem vBr (w : LaneWord) : Statement (.vBr w) := of_lane rfl rfl
theorem vBru (w : LaneWord) : Statement (.vBru w) := of_lane rfl rfl
theorem vReconv (w : LaneWord) : Statement (.vReconv w) := of_lane rfl rfl
theorem vReconvW (w : LaneWord) : Statement (.vReconvW w) := of_lane rfl rfl
theorem vCallRg (w : LaneWord) : Statement (.vCallRg w) := of_lane rfl rfl
theorem vRetRg (w : LaneWord) : Statement (.vRetRg w) := of_lane rfl rfl
theorem vRegroup (w : LaneWord) : Statement (.vRegroup w) := of_lane rfl rfl
theorem vExit (w : LaneWord) : Statement (.vExit w) := of_lane rfl rfl
theorem vKill (w : LaneWord) : Statement (.vKill w) := of_lane rfl rfl
theorem vMxLds (w : LaneWord) : Statement (.vMxLds w) := of_lane rfl rfl
theorem vMxSwap (w : LaneWord) : Statement (.vMxSwap w) := of_lane rfl rfl
theorem vMxMmaRf (w : LaneWord) : Statement (.vMxMmaRf w) := of_lane rfl rfl
theorem vMxMmaOpb (w : LaneWord) : Statement (.vMxMmaOpb w) := of_lane rfl rfl
theorem vAccLd (w : LaneWord) : Statement (.vAccLd w) := of_lane rfl rfl
theorem vAccMov (w : LaneWord) : Statement (.vAccMov w) := of_lane rfl rfl
theorem vAccZero (w : LaneWord) : Statement (.vAccZero w) := of_lane rfl rfl
theorem vAccDrain (w : LaneWord) : Statement (.vAccDrain w) := of_lane rfl rfl
theorem vAccDrainG (w : LaneWord) : Statement (.vAccDrainG w) := of_lane rfl rfl
theorem vOpbPut (w : LaneWord) : Statement (.vOpbPut w) := of_lane rfl rfl
theorem vRast (w : LaneWord) : Statement (.vRast w) := of_lane rfl rfl
theorem vBin (w : LaneWord) : Statement (.vBin w) := of_lane rfl rfl
theorem vTexSmp (w : LaneWord) : Statement (.vTexSmp w) := of_lane rfl rfl
theorem vTexLod (w : LaneWord) : Statement (.vTexLod w) := of_lane rfl rfl
theorem vTexGrad (w : LaneWord) : Statement (.vTexGrad w) := of_lane rfl rfl
theorem vTexFetch (w : LaneWord) : Statement (.vTexFetch w) := of_lane rfl rfl
theorem vTexGather (w : LaneWord) : Statement (.vTexGather w) := of_lane rfl rfl
theorem vTexDec (w : LaneWord) : Statement (.vTexDec w) := of_lane rfl rfl
theorem vExpPx (w : LaneWord) : Statement (.vExpPx w) := of_lane rfl rfl
theorem vExpPos (w : LaneWord) : Statement (.vExpPos w) := of_lane rfl rfl
theorem vTravRay (w : LaneWord) : Statement (.vTravRay w) := of_lane rfl rfl
theorem vTravRad (w : LaneWord) : Statement (.vTravRad w) := of_lane rfl rfl
theorem vTravKnn (w : LaneWord) : Statement (.vTravKnn w) := of_lane rfl rfl
theorem vTravRng (w : LaneWord) : Statement (.vTravRng w) := of_lane rfl rfl
theorem vIsectBox (w : LaneWord) : Statement (.vIsectBox w) := of_lane rfl rfl
theorem vIsectTri (w : LaneWord) : Statement (.vIsectTri w) := of_lane rfl rfl
theorem reservedEncoding (lane : Bool) (word : BitVec 96) : Statement (.reservedEncoding lane word) := of_scalar rfl
theorem fetchBeyondSection (lane : Bool) : Statement (.fetchBeyondSection lane) := of_scalar rfl
theorem longLatencyReturn (flock op : Nat) : Statement (.longLatencyReturn flock op) := of_scalar rfl
theorem samplerResultReturn (flock op : Nat) : Statement (.samplerResultReturn flock op) := of_scalar rfl
theorem treeResultReturn (flock op : Nat) : Statement (.treeResultReturn flock op) := of_scalar rfl
theorem accTransferComplete (flock op : Nat) : Statement (.accTransferComplete flock op) := of_scalar rfl
theorem ffStoreDelivered (flock op : Nat) : Statement (.ffStoreDelivered flock op) := of_scalar rfl
theorem tosWrite (flock op : Nat) : Statement (.tosWrite flock op) := of_scalar rfl
theorem laneBlockStart (flock : Nat) : Statement (.laneBlockStart flock) := of_scalar rfl
theorem roundEndExchange (core dp : Nat) : Statement (.roundEndExchange core dp) := of_scalar rfl
theorem flockExchange (core dp flock : Nat) : Statement (.flockExchange core dp flock) := of_scalar rfl
theorem predicateResolution (flock path : Nat) : Statement (.predicateResolution flock path) := of_scalar rfl
theorem reconvTimeout (flock entry : Nat) : Statement (.reconvTimeout flock entry) := of_scalar rfl
theorem regroupCollectionClose (core coll : Nat) : Statement (.regroupCollectionClose core coll) := of_scalar rfl
theorem regroupCollectionTimeout (core coll : Nat) : Statement (.regroupCollectionTimeout core coll) := of_scalar rfl
theorem callFlockEnd (flock : Nat) : Statement (.callFlockEnd flock) := of_scalar rfl
theorem barWaitComplete (flock : Nat) : Statement (.barWaitComplete flock) := of_scalar rfl
theorem herdAdmit (region : Nat) : Statement (.herdAdmit region) := of_scalar rfl
theorem regionComplete (region : Nat) : Statement (.regionComplete region) := of_scalar rfl
theorem completionAction (c : Completion) : Statement (.completionAction c) := of_scalar rfl
theorem completionRecordWrite (r : CompletionRec) : Statement (.completionRecordWrite r) := of_scalar rfl
theorem preemptRequest (herd : Nat) : Statement (.preemptRequest herd) := of_scalar rfl
theorem herdSave (herd : Nat) : Statement (.herdSave herd) := of_scalar rfl
theorem herdRestore (herd : Nat) : Statement (.herdRestore herd) := of_scalar rfl
theorem haltBoundFailure (core : Nat) : Statement (.haltBoundFailure core) := of_scalar rfl
theorem matrixEngineOperation (core : Nat) : Statement (.matrixEngineOperation core) := of_scalar rfl
theorem copyTransferStart (core cmd : Nat) : Statement (.copyTransferStart core cmd) := of_scalar rfl
theorem copyWordLand (core cmd : Nat) : Statement (.copyWordLand core cmd) := of_scalar rfl
theorem copyFaultSuspend (core cmd : Nat) : Statement (.copyFaultSuspend core cmd) := of_scalar rfl
theorem faultRecordWrite (r : FaultRecord) : Statement (.faultRecordWrite r) := of_scalar rfl
theorem sealDigest (j : SealJob) : Statement (.sealDigest j) := of_scalar rfl
theorem commonsRelease (frame : FrameRelease) : Statement (.commonsRelease frame) := of_scalar rfl
theorem poolReturnRetry (die header frame : Nat) (since : Word64) : Statement (.poolReturnRetry die header frame since) := of_scalar rfl
theorem poolReturnStall (die header frame : Nat) (since : Word64) : Statement (.poolReturnStall die header frame since) := of_scalar rfl
theorem doorbellWrite (offset : Nat) (value : Word64) : Statement (.doorbellWrite offset value) := of_scalar rfl
theorem queueStep (session q : Nat) : Statement (.queueStep session q) := of_scalar rfl
theorem packetDispatch (p : Packet) : Statement (.packetDispatch p) := of_scalar rfl
theorem packetCopy (p : Packet) : Statement (.packetCopy p) := of_scalar rfl
theorem packetSignal (p : Packet) : Statement (.packetSignal p) := of_scalar rfl
theorem packetWait (p : Packet) : Statement (.packetWait p) := of_scalar rfl
theorem waitReread (p : Packet) : Statement (.waitReread p) := of_scalar rfl
theorem packetFork (p : Packet) : Statement (.packetFork p) := of_scalar rfl
theorem packetSeal (p : Packet) : Statement (.packetSeal p) := of_scalar rfl
theorem packetPublish (p : Packet) : Statement (.packetPublish p) := of_scalar rfl
theorem packetMigrate (p : Packet) : Statement (.packetMigrate p) := of_scalar rfl
theorem migrateMove (p : Packet) : Statement (.migrateMove p) := of_scalar rfl
theorem packetNop (p : Packet) : Statement (.packetNop p) := of_scalar rfl
theorem depCounterDecrement (die ctr amount sender : Nat) : Statement (.depCounterDecrement die ctr amount sender) := of_scalar rfl
theorem quantumBoundary (paddock : Nat) : Statement (.quantumBoundary paddock) := of_scalar rfl
theorem budgetCharge (herd : Nat) : Statement (.budgetCharge herd) := of_scalar rfl
theorem arbiterPromotion (die request : Nat) : Statement (.arbiterPromotion die request) := of_scalar rfl
theorem quiesce (paddock : Nat) (value : Bool) : Statement (.quiesce paddock value) := of_scalar rfl
theorem paddockQuiesced (paddock : Nat) : Statement (.paddockQuiesced paddock) := of_scalar rfl
theorem qstuck (paddock : Nat) : Statement (.qstuck paddock) := of_scalar rfl
theorem tlbinv1 (die : Nat) (value : Word64) : Statement (.tlbinv1 die value) := of_scalar rfl
theorem fltctlRetry (die : Nat) (value : Word64) : Statement (.fltctlRetry die value) := of_scalar rfl
theorem fltctlSkip (die : Nat) (value : Word64) : Statement (.fltctlSkip die value) := of_scalar rfl
theorem fltctlEnterHandler (die : Nat) (value : Word64) : Statement (.fltctlEnterHandler die value) := of_scalar rfl
theorem fltctlEnd (die : Nat) (value : Word64) : Statement (.fltctlEnd die value) := of_scalar rfl
theorem fltctlAbortDomain (die : Nat) (value : Word64) : Statement (.fltctlAbortDomain die value) := of_scalar rfl
theorem engctlResume (die : Nat) (value : Word64) : Statement (.engctlResume die value) := of_scalar rfl
theorem engctlAbandon (die : Nat) (value : Word64) : Statement (.engctlAbandon die value) := of_scalar rfl
theorem crel (die : Nat) (value : Word64) : Statement (.crel die value) := of_scalar rfl
theorem keyLoad (die slot : Nat) (blob : List Byte) : Statement (.keyLoad die slot blob) := of_scalar rfl
theorem placementEpoch (die : Nat) : Statement (.placementEpoch die) := of_scalar rfl
theorem frameMove (m : FrameMove) : Statement (.frameMove m) := of_scalar rfl
theorem orderedPacketSend (p : FabPacket) : Statement (.orderedPacketSend p) := of_scalar rfl
theorem orderedPacketArrival (p : FabPacket) : Statement (.orderedPacketArrival p) := of_scalar rfl
theorem readRequestServe (r : ReadReq) : Statement (.readRequestServe r) := of_scalar rfl
theorem acquireCatchup (r : ReadReply) : Statement (.acquireCatchup r) := of_scalar rfl
theorem deliveryReportSend (die net : Nat) : Statement (.deliveryReportSend die net) := of_scalar rfl
theorem deliveryReportReceive (r : DeliveryReport) : Statement (.deliveryReportReceive r) := of_scalar rfl
theorem linkGroupReceive (die link : Nat) (g : LinkGroup) : Statement (.linkGroupReceive die link g) := of_scalar rfl
theorem linkNakReceive (die link : Nat) (seq : BitVec 12) : Statement (.linkNakReceive die link seq) := of_scalar rfl
theorem linkResendTimeout (die link : Nat) (seq : BitVec 12) : Statement (.linkResendTimeout die link seq) := of_scalar rfl
theorem linkRetrain (die link : Nat) : Statement (.linkRetrain die link) := of_scalar rfl
theorem linkDown (die link : Nat) : Statement (.linkDown die link) := of_scalar rfl
theorem fabricStall (die : Nat) : Statement (.fabricStall die) := of_scalar rfl
theorem heartbeat (die : Nat) (missed : Bool) : Statement (.heartbeat die missed) := of_scalar rfl
theorem dieRemoval (what : Removal) : Statement (.dieRemoval what) := of_scalar rfl
theorem resynchronisation : Statement .resynchronisation := of_scalar rfl
theorem boot (die : Nat) : Statement (.boot die) := of_scalar rfl
theorem dedupSecretReceive (die : Nat) (blob : List Byte) : Statement (.dedupSecretReceive die blob) := of_scalar rfl
theorem dieBringup (die : Nat) : Statement (.dieBringup die) := of_scalar rfl
theorem clusterPowerUp (die cluster : Nat) : Statement (.clusterPowerUp die cluster) := of_scalar rfl
theorem matrixEngineEnable (die cluster : Nat) : Statement (.matrixEngineEnable die cluster) := of_scalar rfl
theorem bootPeerTimeout (die : Nat) : Statement (.bootPeerTimeout die) := of_scalar rfl
theorem imgBegin (die len : Nat) : Statement (.imgBegin die len) := of_scalar rfl
theorem imgData (die offset : Nat) (bytes : List Byte) : Statement (.imgData die offset bytes) := of_scalar rfl
theorem imgEnd (die : Nat) : Statement (.imgEnd die) := of_scalar rfl
theorem getVersion (die : Nat) : Statement (.getVersion die) := of_scalar rfl
theorem getCapabilities (die : Nat) : Statement (.getCapabilities die) := of_scalar rfl
theorem negotiateAlgorithms (die : Nat) (ed448 sha3 : Bool) : Statement (.negotiateAlgorithms die ed448 sha3) := of_scalar rfl
theorem getDigests (die : Nat) : Statement (.getDigests die) := of_scalar rfl
theorem getCertificate (die slot offset len : Nat) : Statement (.getCertificate die slot offset len) := of_scalar rfl
theorem challenge (die slot : Nat) (nonce : BitVec 256) : Statement (.challenge die slot nonce) := of_scalar rfl
theorem getMeasurements (die index : Nat) (nonce : BitVec 256) : Statement (.getMeasurements die index nonce) := of_scalar rfl
theorem spdmUnsupportedRequest (die code : Nat) : Statement (.spdmUnsupportedRequest die code) := of_scalar rfl
theorem partitionCommitRequest (c : LayoutChange) : Statement (.partitionCommitRequest c) := of_scalar rfl
theorem prepareReport (die : Nat) : Statement (.prepareReport die) := of_scalar rfl
theorem commitApply (die : Nat) : Statement (.commitApply die) := of_scalar rfl
theorem commitDone : Statement .commitDone := of_scalar rfl
theorem watchdogExpiry (die : Nat) : Statement (.watchdogExpiry die) := of_scalar rfl
theorem retentionSramUe (die : Nat) (lost : RetentionItem) : Statement (.retentionSramUe die lost) := of_scalar rfl
theorem snapctlArm (die : Nat) (value : Word64) : Statement (.snapctlArm die value) := of_scalar rfl
theorem snapctlFire (die : Nat) : Statement (.snapctlFire die) := of_scalar rfl
theorem snapshotAtCycle (die : Nat) : Statement (.snapshotAtCycle die) := of_scalar rfl
theorem snapshotWideTrigger (die : Nat) : Statement (.snapshotWideTrigger die) := of_scalar rfl
theorem pwrcap (die : Nat) (value : Word64) : Statement (.pwrcap die value) := of_scalar rfl
theorem powerSample (die : Nat) : Statement (.powerSample die) := of_scalar rfl
theorem powerCapUnmet (paddock : Nat) : Statement (.powerCapUnmet paddock) := of_scalar rfl
theorem eccCorrectable (die : Nat) (src : EccSource) : Statement (.eccCorrectable die src) := of_scalar rfl
theorem eccUncorrectable (die : Nat) (at_ : EccPlace) : Statement (.eccUncorrectable die at_) := of_scalar rfl
theorem memoryScrub (die sector : Nat) (bad : Bool) : Statement (.memoryScrub die sector bad) := of_scalar rfl
theorem cqDescriptorRetest (session : Nat) : Statement (.cqDescriptorRetest session) := of_scalar rfl
theorem graphicsFaultReport (core region : Nat) (tree : Bool) : Statement (.graphicsFaultReport core region tree) := of_scalar rfl
theorem registerWrite (die : Nat) (r : RegName) (value : Word64) : Statement (.registerWrite die r value) := of_scalar rfl
theorem hostMemoryAccess (h : HostAccess) : Statement (.hostMemoryAccess h) := of_scalar rfl
theorem completionQueueReread (r : CompletionRec) : Statement (.completionQueueReread r) := of_scalar rfl
theorem linkRetrainComplete (die link : Nat) (ok : Bool) : Statement (.linkRetrainComplete die link ok) := of_scalar rfl
theorem modulePowerLoss : Statement .modulePowerLoss := of_scalar rfl
theorem rlimitWindow (core : Nat) : Statement (.rlimitWindow core) := of_scalar rfl

end Sys2Proof.Laws.WordLength
end

