-- ==== Sys2Proof/Laws/Progress.lean ====
section
/-!
SUPPORT. What completes: a due event always does; an instruction of a stream does whenever its stream is issuing.
-/
namespace Sys2Proof.Machine

/-! ## Meanings of the two streams -/

theorem runScalarAt_next {site : Trap → TrapSite} {body : State → Flock → Res State} {s : State} (h : s.scalarIssuer?.isSome) :
    Completes (runScalarAt site body s) := by
  unfold runScalarAt
  (repeat' split) <;> first | exact ⟨_, rfl⟩ | simp_all

theorem runScalar_next {body : State → Flock → Res State} {s : State} (h : s.scalarIssuer?.isSome) :
    Completes (runScalar body s) := by
  unfold runScalar
  (repeat' split) <;> first | exact runScalarAt_next h

theorem scalarWrite_next {d : BitVec 6} {srcs : List (BitVec 6)} {value : Flock → Word64} {s : State} (h : s.scalarIssuer?.isSome) :
    Completes (scalarWrite d srcs value s) := by
  unfold scalarWrite
  (repeat' split) <;> first | exact runScalar_next h

theorem scalarTest_next {zd : BitVec 3} {srcs : List (BitVec 6)} {value : Flock → Bool} {s : State} (h : s.scalarIssuer?.isSome) :
    Completes (scalarTest zd srcs value s) := by
  unfold scalarTest
  (repeat' split) <;> first | exact runScalar_next h

theorem runLaneAs_next {k : Holding} {site : Nat → TrapSite} {body : State → Flock → Path → Res State} {s : State} (h : s.laneIssuer?.isSome) :
    Completes (runLaneAs k site body s) := by
  unfold runLaneAs
  (repeat' split) <;> first | exact ⟨_, rfl⟩ | simp_all

theorem runLaneAt_next {site : Nat → TrapSite} {body : State → Flock → Path → Res State} {s : State} (h : s.laneIssuer?.isSome) :
    Completes (runLaneAt site body s) := by
  unfold runLaneAt
  (repeat' split) <;> first | exact runLaneAs_next h

theorem runHeld_next {k : Holding} {body : State → Flock → Path → Res State} {s : State} (h : s.laneIssuer?.isSome) :
    Completes (runHeld k body s) := by
  unfold runHeld
  (repeat' split) <;> first | exact runLaneAs_next h

theorem runLane_next {body : State → Flock → Path → Res State} {s : State} (h : s.laneIssuer?.isSome) :
    Completes (runLane body s) := by
  unfold runLane
  (repeat' split) <;> first | exact runHeld_next h

theorem runConfirmed_next {body : State → Flock → Path → Res State} {s : State} (h : s.laneIssuer?.isSome) :
    Completes (runConfirmed body s) := by
  unfold runConfirmed
  (repeat' split) <;> first | exact runLane_next h

theorem laneCompute_next {w : LaneWord} {srcs : List Src} {dsts : List Dst} {effect : State → Flock → List Nat → Flock} {s : State} (h : s.laneIssuer?.isSome) :
    Completes (laneCompute w srcs dsts effect s) := by
  unfold laneCompute
  (repeat' split) <;> first | exact runLane_next h

theorem crossCompute_next {w : LaneWord} {srcs : List Src} {dsts : List Dst} {effect : State → Flock → List Nat → Flock} {s : State} (h : s.laneIssuer?.isSome) :
    Completes (crossCompute w srcs dsts effect s) := by
  unfold crossCompute
  (repeat' split) <;> first | exact runConfirmed_next h

theorem scalarLoad_next {d a : BitVec 6} {off : Int} {n : Nat} {acq : Option Scope} {s : State} (h : s.scalarIssuer?.isSome) :
    Completes (scalarLoad d a off n acq s) := by
  unfold scalarLoad
  (repeat' split) <;> first | exact runScalar_next h

theorem scalarStore_next {d a : BitVec 6} {off : Int} {n : Nat} {rel : Option Scope} {s : State} (h : s.scalarIssuer?.isSome) :
    Completes (scalarStore d a off n rel s) := by
  unfold scalarStore
  (repeat' split) <;> first | exact runScalar_next h

theorem scalarAtom_next {n : Nat} {op : AtomOp} {ord : Order} {d a b : BitVec 6} {s : State} (h : s.scalarIssuer?.isSome) :
    Completes (scalarAtom n op ord d a b s) := by
  unfold scalarAtom
  (repeat' split) <;> first | exact runScalar_next h

theorem scalarFence_next {acq rel : Bool} {sc : Scope} {s : State} (h : s.scalarIssuer?.isSome) :
    Completes (scalarFence acq rel sc s) := by
  unfold scalarFence
  (repeat' split) <;> first | exact runScalar_next h

theorem jumpTo_next {a : BitVec 6} {s : State} (h : s.scalarIssuer?.isSome) :
    Completes (jumpTo a s) := by
  unfold jumpTo
  (repeat' split) <;> first | exact runScalar_next h

theorem laneWhole_next {w : LaneWord} {t : IntTy} {k : Nat} {g : Flock → Nat → List Nat → Nat} {s : State} (h : s.laneIssuer?.isSome) :
    Completes (laneWhole w t k g s) := by
  unfold laneWhole
  (repeat' split) <;> first | exact laneCompute_next h

theorem laneElements_next {w : LaneWord} {k : Nat} {g : IntTy → List Nat → Nat} {s : State} (h : s.laneIssuer?.isSome) :
    Completes (laneElements w k g s) := by
  unfold laneElements
  (repeat' split) <;> first | exact laneWhole_next h

theorem laneArith_next {w : LaneWord} {k : Nat} {g : Int → Int → Int → Int} {s : State} (h : s.laneIssuer?.isSome) :
    Completes (laneArith w k g s) := by
  unfold laneArith
  (repeat' split) <;> first | exact laneElements_next h

theorem laneFloatWhole_next {w : LaneWord} {k : Nat} {g : Flock → FpCtx → Nat → Word32 × Flags} {s : State} (h : s.laneIssuer?.isSome) :
    Completes (laneFloatWhole w k g s) := by
  unfold laneFloatWhole
  (repeat' split) <;> first | exact laneCompute_next h

theorem laneFloat_next {w : LaneWord} {k : Nat} {g : Fmt → FpCtx → List Nat → Nat × Flags} {s : State} (h : s.laneIssuer?.isSome) :
    Completes (laneFloat w k g s) := by
  unfold laneFloat
  (repeat' split) <;> first | exact laneFloatWhole_next h

theorem shuffle_next {w : LaneWord} {from_ : Nat → Nat → Nat → Nat} {s : State} (h : s.laneIssuer?.isSome) :
    Completes (shuffle w from_ s) := by
  unfold shuffle
  (repeat' split) <;> first | exact runConfirmed_next h

theorem vote_next {w : LaneWord} {g : Nat → Nat → Bool} {s : State} (h : s.laneIssuer?.isSome) :
    Completes (vote w g s) := by
  unfold vote
  (repeat' split) <;> first | exact crossCompute_next h

theorem scan_next {w : LaneWord} {result : List (Nat × Nat × Nat) → List (Nat × Nat)} {s : State} (h : s.laneIssuer?.isSome) :
    Completes (scan w result s) := by
  unfold scan
  (repeat' split) <;> first | exact crossCompute_next h

theorem toScalar_next {w : LaneWord} {src : Option Src} {reads : Flock → List Nat → List Nat} {value : Flock → List Nat → Word64} {s : State} (h : s.laneIssuer?.isSome) :
    Completes (toScalar w src reads value s) := by
  unfold toScalar
  (repeat' split) <;> first | exact runHeld_next h

theorem laneLoad_next {w : LaneWord} {acq : Option Scope} {s : State} (h : s.laneIssuer?.isSome) :
    Completes (laneLoad w acq s) := by
  unfold laneLoad
  (repeat' split) <;> first | exact runHeld_next h

theorem laneStore_next {w : LaneWord} {rel : Option Scope} {s : State} (h : s.laneIssuer?.isSome) :
    Completes (laneStore w rel s) := by
  unfold laneStore
  (repeat' split) <;> first | exact runHeld_next h

theorem laneExit_next {w : LaneWord} {kill : Bool} {s : State} (h : s.laneIssuer?.isSome) :
    Completes (laneExit w kill s) := by
  unfold laneExit
  (repeat' split) <;> first | exact runHeld_next h

theorem copyCommand_next {k : CopyKind} {d a b : BitVec 6} {s : State} (h : s.scalarIssuer?.isSome) :
    Completes (copyCommand k d a b s) := by
  unfold copyCommand
  (repeat' split) <;> first | exact runScalar_next h

theorem sampler_next {w : LaneWord} {srcs : List Src} {quads : Bool} {one : State → Flock → Agent → Nat → LaneSample} {s : State} (h : s.laneIssuer?.isSome) :
    Completes (sampler w srcs quads one s) := by
  unfold sampler
  (repeat' split) <;> first | exact runHeld_next h

theorem treeOp_next {w : LaneWord} {srcs : List Src} {regs : Nat} {checks buffer : Bool} {fault : List Nat} {one : State → Flock → Agent → Nat → LaneQuery} {s : State} (h : s.laneIssuer?.isSome) :
    Completes (treeOp w srcs regs checks buffer fault one s) := by
  unfold treeOp
  (repeat' split) <;> first | exact runHeld_next h

/-- An instruction of the scalar stream completes, waits or traps. -/
theorem exec_scalar_next {s : State} (i : Instr) (hi : (encodeScalar i).isSome) (h : s.scalarIssuer?.isSome) : Completes (exec i s) :=
  match i with
  | .sAdd d a b => show Completes (execSAdd d a b s) from scalarWrite_next h
  | .sSub d a b => show Completes (execSSub d a b s) from scalarWrite_next h
  | .sMul d a b => show Completes (execSMul d a b s) from scalarWrite_next h
  | .sMulh d a b => show Completes (execSMulh d a b s) from scalarWrite_next h
  | .sMulhu d a b => show Completes (execSMulhu d a b s) from scalarWrite_next h
  | .sDiv d a b => show Completes (execSDiv d a b s) from scalarWrite_next h
  | .sDivu d a b => show Completes (execSDivu d a b s) from scalarWrite_next h
  | .sRem d a b => show Completes (execSRem d a b s) from scalarWrite_next h
  | .sRemu d a b => show Completes (execSRemu d a b s) from scalarWrite_next h
  | .sAnd d a b => show Completes (execSAnd d a b s) from scalarWrite_next h
  | .sOr d a b => show Completes (execSOr d a b s) from scalarWrite_next h
  | .sXor d a b => show Completes (execSXor d a b s) from scalarWrite_next h
  | .sShl d a b => show Completes (execSShl d a b s) from scalarWrite_next h
  | .sShr d a b => show Completes (execSShr d a b s) from scalarWrite_next h
  | .sSra d a b => show Completes (execSSra d a b s) from scalarWrite_next h
  | .sMin d a b => show Completes (execSMin d a b s) from scalarWrite_next h
  | .sMinu d a b => show Completes (execSMinu d a b s) from scalarWrite_next h
  | .sMax d a b => show Completes (execSMax d a b s) from scalarWrite_next h
  | .sMaxu d a b => show Completes (execSMaxu d a b s) from scalarWrite_next h
  | .sClz d a => show Completes (execSClz d a s) from scalarWrite_next h
  | .sCtz d a => show Completes (execSCtz d a s) from scalarWrite_next h
  | .sPopc d a => show Completes (execSPopc d a s) from scalarWrite_next h
  | .sBitint d a b => show Completes (execSBitint d a b s) from scalarWrite_next h
  | .sBitdeint d a => show Completes (execSBitdeint d a s) from scalarWrite_next h
  | .sSel d a b z neg => show Completes (execSSel d a b z neg s) from scalarWrite_next h
  | .sCmp zd cc a b => show Completes (execSCmp zd cc a b s) from scalarTest_next h
  | .sAddi d a imm => show Completes (execSAddi d a imm s) from scalarWrite_next h
  | .sAndi d a imm => show Completes (execSAndi d a imm s) from scalarWrite_next h
  | .sOri d a imm => show Completes (execSOri d a imm s) from scalarWrite_next h
  | .sXori d a imm => show Completes (execSXori d a imm s) from scalarWrite_next h
  | .sShli d a imm => show Completes (execSShli d a imm s) from scalarWrite_next h
  | .sShri d a imm => show Completes (execSShri d a imm s) from scalarWrite_next h
  | .sSrai d a imm => show Completes (execSSrai d a imm s) from scalarWrite_next h
  | .sLui d imm => show Completes (execSLui d imm s) from scalarWrite_next h
  | .sCmpi zd cc a imm => show Completes (execSCmpi zd cc a imm s) from scalarTest_next h
  | .sLdB d a off => show Completes (execSLdB d a off s) from scalarLoad_next h
  | .sLdH d a off => show Completes (execSLdH d a off s) from scalarLoad_next h
  | .sLdW d a off => show Completes (execSLdW d a off s) from scalarLoad_next h
  | .sLdD d a off => show Completes (execSLdD d a off s) from scalarLoad_next h
  | .sStB d a off => show Completes (execSStB d a off s) from scalarStore_next h
  | .sStH d a off => show Completes (execSStH d a off s) from scalarStore_next h
  | .sStW d a off => show Completes (execSStW d a off s) from scalarStore_next h
  | .sStD d a off => show Completes (execSStD d a off s) from scalarStore_next h
  | .sLdAcq d a scope size off => show Completes (execSLdAcq d a scope size off s) from scalarLoad_next h
  | .sStRel d a scope size off => show Completes (execSStRel d a scope size off s) from scalarStore_next h
  | .sLdk d a size off => by change Completes (execSLdk d a size off s); unfold execSLdk; exact runScalar_next h
  | .sAtomW op ord d a b => show Completes (execSAtomW op ord d a b s) from scalarAtom_next h
  | .sAtomD op ord d a b => show Completes (execSAtomD op ord d a b s) from scalarAtom_next h
  | .sFenceAcq scope => show Completes (execSFenceAcq scope s) from scalarFence_next h
  | .sFenceRel scope => show Completes (execSFenceRel scope s) from scalarFence_next h
  | .sFenceAr scope => show Completes (execSFenceAr scope s) from scalarFence_next h
  | .sB z neg off => by change Completes (execSB z neg off s); unfold execSB; exact runScalar_next h
  | .sCall z neg off => by change Completes (execSCall z neg off s); unfold execSCall; exact runScalar_next h
  | .sBz a imm => by change Completes (execSBz a imm s); unfold execSBz; exact runScalar_next h
  | .sLoop d imm => by change Completes (execSLoop d imm s); unfold execSLoop; exact runScalarAt_next h
  | .sRet => show Completes (execSRet s) from jumpTo_next h
  | .sJr a => show Completes (execSJr a s) from jumpTo_next h
  | .sLgo index => by change Completes (execSLgo index s); unfold execSLgo; exact runScalar_next h
  | .sLwait => by change Completes (execSLwait s); unfold execSLwait; exact runScalar_next h
  | .sBarInit a b => by change Completes (execSBarInit a b s); unfold execSBarInit; exact runScalar_next h
  | .sBarArrive zd a => by change Completes (execSBarArrive zd a s); unfold execSBarArrive; exact runScalar_next h
  | .sBarExpect a b => by change Completes (execSBarExpect a b s); unfold execSBarExpect; exact runScalar_next h
  | .sBarWait a b => by change Completes (execSBarWait a b s); unfold execSBarWait; exact runScalar_next h
  | .sCntWait path a => by change Completes (execSCntWait path a s); unfold execSCntWait; exact runScalar_next h
  | .sCp d a b => show Completes (execSCp d a b s) from copyCommand_next h
  | .sCpMc d a b => show Completes (execSCpMc d a b s) from copyCommand_next h
  | .sXf d a b => show Completes (execSXf d a b s) from copyCommand_next h
  | .sCpG d a b => show Completes (execSCpG d a b s) from copyCommand_next h
  | .sPublish a => by change Completes (execSPublish a s); unfold execSPublish; exact runScalar_next h
  | .sQpush d a b => by change Completes (execSQpush d a b s); unfold execSQpush; exact runScalar_next h
  | .sDepDec a b => by change Completes (execSDepDec a b s); unfold execSDepDec; exact runScalar_next h
  | .sPseal a => by change Completes (execSPseal a s); unfold execSPseal; exact runScalar_next h
  | .sOpbRsv d a => by change Completes (execSOpbRsv d a s); unfold execSOpbRsv; exact runScalar_next h
  | .sOpbRel a => by change Completes (execSOpbRel a s); unfold execSOpbRel; exact runScalar_next h
  | .sMxLease d a => by change Completes (execSMxLease d a s); unfold execSMxLease; exact runScalar_next h
  | .sMxYield => by change Completes (execSMxYield s); unfold execSMxYield; exact runScalar_next h
  | .sKget d k => by change Completes (execSKget d k s); unfold execSKget; exact runScalar_next h
  | .sKput k a => by change Completes (execSKput k a s); unfold execSKput; exact runScalar_next h
  | .sTrap code => by change Completes (execSTrap code s); unfold execSTrap; exact runScalar_next h
  | .sNop => by change Completes (execSNop s); unfold execSNop; exact runScalar_next h
  | .sTret => by change Completes (execSTret s); unfold execSTret; exact runScalar_next h
  | .sYield => by change Completes (execSYield s); unfold execSYield; exact runScalar_next h
  | .sExit => by change Completes (execSExit s); unfold execSExit; exact runScalar_next h
  | .vNop _ => absurd hi Bool.false_ne_true
  | .vNopMarker _ => absurd hi Bool.false_ne_true
  | .vBlk _ => absurd hi Bool.false_ne_true
  | .vLstop _ => absurd hi Bool.false_ne_true
  | .vTrap _ => absurd hi Bool.false_ne_true
  | .vBrk _ => absurd hi Bool.false_ne_true
  | .vAdd _ => absurd hi Bool.false_ne_true
  | .vSub _ => absurd hi Bool.false_ne_true
  | .vMul _ => absurd hi Bool.false_ne_true
  | .vMad _ => absurd hi Bool.false_ne_true
  | .vMin _ => absurd hi Bool.false_ne_true
  | .vMax _ => absurd hi Bool.false_ne_true
  | .vAbs _ => absurd hi Bool.false_ne_true
  | .vAnd _ => absurd hi Bool.false_ne_true
  | .vOr _ => absurd hi Bool.false_ne_true
  | .vXor _ => absurd hi Bool.false_ne_true
  | .vNot _ => absurd hi Bool.false_ne_true
  | .vShl _ => absurd hi Bool.false_ne_true
  | .vShr _ => absurd hi Bool.false_ne_true
  | .vSra _ => absurd hi Bool.false_ne_true
  | .vClz _ => absurd hi Bool.false_ne_true
  | .vPopc _ => absurd hi Bool.false_ne_true
  | .vBrev _ => absurd hi Bool.false_ne_true
  | .vBfe _ => absurd hi Bool.false_ne_true
  | .vBfi _ => absurd hi Bool.false_ne_true
  | .vBitint _ => absurd hi Bool.false_ne_true
  | .vCmp _ => absurd hi Bool.false_ne_true
  | .vSel _ => absurd hi Bool.false_ne_true
  | .vMov _ => absurd hi Bool.false_ne_true
  | .vMovi _ => absurd hi Bool.false_ne_true
  | .vLane _ => absurd hi Bool.false_ne_true
  | .vKget _ => absurd hi Bool.false_ne_true
  | .vFadd _ => absurd hi Bool.false_ne_true
  | .vFsub _ => absurd hi Bool.false_ne_true
  | .vFmul _ => absurd hi Bool.false_ne_true
  | .vFfma _ => absurd hi Bool.false_ne_true
  | .vFmin _ => absurd hi Bool.false_ne_true
  | .vFmax _ => absurd hi Bool.false_ne_true
  | .vFcmp _ => absurd hi Bool.false_ne_true
  | .vFclass _ => absurd hi Bool.false_ne_true
  | .vFrcp _ => absurd hi Bool.false_ne_true
  | .vFrsq _ => absurd hi Bool.false_ne_true
  | .vFsqrt _ => absurd hi Bool.false_ne_true
  | .vFexp2 _ => absurd hi Bool.false_ne_true
  | .vFlog2 _ => absurd hi Bool.false_ne_true
  | .vFsin _ => absurd hi Bool.false_ne_true
  | .vFcos _ => absurd hi Bool.false_ne_true
  | .vFfloor _ => absurd hi Bool.false_ne_true
  | .vFceil _ => absurd hi Bool.false_ne_true
  | .vFtrunc _ => absurd hi Bool.false_ne_true
  | .vFrnd _ => absurd hi Bool.false_ne_true
  | .vFfract _ => absurd hi Bool.false_ne_true
  | .vFdot2 _ => absurd hi Bool.false_ne_true
  | .vCvt _ => absurd hi Bool.false_ne_true
  | .vCvtN _ => absurd hi Bool.false_ne_true
  | .vCvtW _ => absurd hi Bool.false_ne_true
  | .vCvtEf _ => absurd hi Bool.false_ne_true
  | .vBfpPack _ => absurd hi Bool.false_ne_true
  | .vBfpUnpack _ => absurd hi Bool.false_ne_true
  | .vPack _ => absurd hi Bool.false_ne_true
  | .vUnpack _ => absurd hi Bool.false_ne_true
  | .vShflIdx _ => absurd hi Bool.false_ne_true
  | .vShflUp _ => absurd hi Bool.false_ne_true
  | .vShflDown _ => absurd hi Bool.false_ne_true
  | .vShflXor _ => absurd hi Bool.false_ne_true
  | .vBcast _ => absurd hi Bool.false_ne_true
  | .vVoteAll _ => absurd hi Bool.false_ne_true
  | .vVoteAny _ => absurd hi Bool.false_ne_true
  | .vVoteEq _ => absurd hi Bool.false_ne_true
  | .vVoteBallot _ => absurd hi Bool.false_ne_true
  | .vScan _ => absurd hi Bool.false_ne_true
  | .vRed _ => absurd hi Bool.false_ne_true
  | .vMatch _ => absurd hi Bool.false_ne_true
  | .vTosFirst _ => absurd hi Bool.false_ne_true
  | .vTosLane _ => absurd hi Bool.false_ne_true
  | .vTosMask _ => absurd hi Bool.false_ne_true
  | .vTosCount _ => absurd hi Bool.false_ne_true
  | .vLd _ => absurd hi Bool.false_ne_true
  | .vSt _ => absurd hi Bool.false_ne_true
  | .vLdSp _ => absurd hi Bool.false_ne_true
  | .vStSp _ => absurd hi Bool.false_ne_true
  | .vLdAcq _ => absurd hi Bool.false_ne_true
  | .vStRel _ => absurd hi Bool.false_ne_true
  | .vAtom _ => absurd hi Bool.false_ne_true
  | .vAtomSp _ => absurd hi Bool.false_ne_true
  | .vAred _ => absurd hi Bool.false_ne_true
  | .vStFf _ => absurd hi Bool.false_ne_true
  | .vPrefetch _ => absurd hi Bool.false_ne_true
  | .vBr _ => absurd hi Bool.false_ne_true
  | .vBru _ => absurd hi Bool.false_ne_true
  | .vReconv _ => absurd hi Bool.false_ne_true
  | .vReconvW _ => absurd hi Bool.false_ne_true
  | .vCallRg _ => absurd hi Bool.false_ne_true
  | .vRetRg _ => absurd hi Bool.false_ne_true
  | .vRegroup _ => absurd hi Bool.false_ne_true
  | .vExit _ => absurd hi Bool.false_ne_true
  | .vKill _ => absurd hi Bool.false_ne_true
  | .vMxLds _ => absurd hi Bool.false_ne_true
  | .vMxSwap _ => absurd hi Bool.false_ne_true
  | .vMxMmaRf _ => absurd hi Bool.false_ne_true
  | .vMxMmaOpb _ => absurd hi Bool.false_ne_true
  | .vAccLd _ => absurd hi Bool.false_ne_true
  | .vAccMov _ => absurd hi Bool.false_ne_true
  | .vAccZero _ => absurd hi Bool.false_ne_true
  | .vAccDrain _ => absurd hi Bool.false_ne_true
  | .vAccDrainG _ => absurd hi Bool.false_ne_true
  | .vOpbPut _ => absurd hi Bool.false_ne_true
  | .vRast _ => absurd hi Bool.false_ne_true
  | .vBin _ => absurd hi Bool.false_ne_true
  | .vTexSmp _ => absurd hi Bool.false_ne_true
  | .vTexLod _ => absurd hi Bool.false_ne_true
  | .vTexGrad _ => absurd hi Bool.false_ne_true
  | .vTexFetch _ => absurd hi Bool.false_ne_true
  | .vTexGather _ => absurd hi Bool.false_ne_true
  | .vTexDec _ => absurd hi Bool.false_ne_true
  | .vExpPx _ => absurd hi Bool.false_ne_true
  | .vExpPos _ => absurd hi Bool.false_ne_true
  | .vTravRay _ => absurd hi Bool.false_ne_true
  | .vTravRad _ => absurd hi Bool.false_ne_true
  | .vTravKnn _ => absurd hi Bool.false_ne_true
  | .vTravRng _ => absurd hi Bool.false_ne_true
  | .vIsectBox _ => absurd hi Bool.false_ne_true
  | .vIsectTri _ => absurd hi Bool.false_ne_true
  | .reservedEncoding _ _ => absurd hi Bool.false_ne_true
  | .fetchBeyondSection _ => absurd hi Bool.false_ne_true
  | .longLatencyReturn _ _ => absurd hi Bool.false_ne_true
  | .samplerResultReturn _ _ => absurd hi Bool.false_ne_true
  | .treeResultReturn _ _ => absurd hi Bool.false_ne_true
  | .accTransferComplete _ _ => absurd hi Bool.false_ne_true
  | .ffStoreDelivered _ _ => absurd hi Bool.false_ne_true
  | .tosWrite _ _ => absurd hi Bool.false_ne_true
  | .laneBlockStart _ => absurd hi Bool.false_ne_true
  | .roundEndExchange _ _ => absurd hi Bool.false_ne_true
  | .flockExchange _ _ _ => absurd hi Bool.false_ne_true
  | .predicateResolution _ _ => absurd hi Bool.false_ne_true
  | .reconvTimeout _ _ => absurd hi Bool.false_ne_true
  | .regroupCollectionClose _ _ => absurd hi Bool.false_ne_true
  | .regroupCollectionTimeout _ _ => absurd hi Bool.false_ne_true
  | .callFlockEnd _ => absurd hi Bool.false_ne_true
  | .barWaitComplete _ => absurd hi Bool.false_ne_true
  | .herdAdmit _ => absurd hi Bool.false_ne_true
  | .regionComplete _ => absurd hi Bool.false_ne_true
  | .completionAction _ => absurd hi Bool.false_ne_true
  | .completionRecordWrite _ => absurd hi Bool.false_ne_true
  | .preemptRequest _ => absurd hi Bool.false_ne_true
  | .herdSave _ => absurd hi Bool.false_ne_true
  | .herdRestore _ => absurd hi Bool.false_ne_true
  | .haltBoundFailure _ => absurd hi Bool.false_ne_true
  | .matrixEngineOperation _ => absurd hi Bool.false_ne_true
  | .copyTransferStart _ _ => absurd hi Bool.false_ne_true
  | .copyWordLand _ _ => absurd hi Bool.false_ne_true
  | .copyFaultSuspend _ _ => absurd hi Bool.false_ne_true
  | .faultRecordWrite _ => absurd hi Bool.false_ne_true
  | .sealDigest _ => absurd hi Bool.false_ne_true
  | .commonsRelease _ => absurd hi Bool.false_ne_true
  | .poolReturnRetry _ _ _ _ => absurd hi Bool.false_ne_true
  | .poolReturnStall _ _ _ _ => absurd hi Bool.false_ne_true
  | .doorbellWrite _ _ => absurd hi Bool.false_ne_true
  | .queueStep _ _ => absurd hi Bool.false_ne_true
  | .packetDispatch _ => absurd hi Bool.false_ne_true
  | .packetCopy _ => absurd hi Bool.false_ne_true
  | .packetSignal _ => absurd hi Bool.false_ne_true
  | .packetWait _ => absurd hi Bool.false_ne_true
  | .waitReread _ => absurd hi Bool.false_ne_true
  | .packetFork _ => absurd hi Bool.false_ne_true
  | .packetSeal _ => absurd hi Bool.false_ne_true
  | .packetPublish _ => absurd hi Bool.false_ne_true
  | .packetMigrate _ => absurd hi Bool.false_ne_true
  | .migrateMove _ => absurd hi Bool.false_ne_true
  | .packetNop _ => absurd hi Bool.false_ne_true
  | .depCounterDecrement _ _ _ _ => absurd hi Bool.false_ne_true
  | .quantumBoundary _ => absurd hi Bool.false_ne_true
  | .budgetCharge _ => absurd hi Bool.false_ne_true
  | .arbiterPromotion _ _ => absurd hi Bool.false_ne_true
  | .quiesce _ _ => absurd hi Bool.false_ne_true
  | .paddockQuiesced _ => absurd hi Bool.false_ne_true
  | .qstuck _ => absurd hi Bool.false_ne_true
  | .tlbinv1 _ _ => absurd hi Bool.false_ne_true
  | .fltctlRetry _ _ => absurd hi Bool.false_ne_true
  | .fltctlSkip _ _ => absurd hi Bool.false_ne_true
  | .fltctlEnterHandler _ _ => absurd hi Bool.false_ne_true
  | .fltctlEnd _ _ => absurd hi Bool.false_ne_true
  | .fltctlAbortDomain _ _ => absurd hi Bool.false_ne_true
  | .engctlResume _ _ => absurd hi Bool.false_ne_true
  | .engctlAbandon _ _ => absurd hi Bool.false_ne_true
  | .crel _ _ => absurd hi Bool.false_ne_true
  | .keyLoad _ _ _ => absurd hi Bool.false_ne_true
  | .placementEpoch _ => absurd hi Bool.false_ne_true
  | .frameMove _ => absurd hi Bool.false_ne_true
  | .orderedPacketSend _ => absurd hi Bool.false_ne_true
  | .orderedPacketArrival _ => absurd hi Bool.false_ne_true
  | .readRequestServe _ => absurd hi Bool.false_ne_true
  | .acquireCatchup _ => absurd hi Bool.false_ne_true
  | .deliveryReportSend _ _ => absurd hi Bool.false_ne_true
  | .deliveryReportReceive _ => absurd hi Bool.false_ne_true
  | .linkGroupReceive _ _ _ => absurd hi Bool.false_ne_true
  | .linkNakReceive _ _ _ => absurd hi Bool.false_ne_true
  | .linkResendTimeout _ _ _ => absurd hi Bool.false_ne_true
  | .linkRetrain _ _ => absurd hi Bool.false_ne_true
  | .linkDown _ _ => absurd hi Bool.false_ne_true
  | .fabricStall _ => absurd hi Bool.false_ne_true
  | .heartbeat _ _ => absurd hi Bool.false_ne_true
  | .dieRemoval _ => absurd hi Bool.false_ne_true
  | .resynchronisation => absurd hi Bool.false_ne_true
  | .boot _ => absurd hi Bool.false_ne_true
  | .dedupSecretReceive _ _ => absurd hi Bool.false_ne_true
  | .dieBringup _ => absurd hi Bool.false_ne_true
  | .clusterPowerUp _ _ => absurd hi Bool.false_ne_true
  | .matrixEngineEnable _ _ => absurd hi Bool.false_ne_true
  | .bootPeerTimeout _ => absurd hi Bool.false_ne_true
  | .imgBegin _ _ => absurd hi Bool.false_ne_true
  | .imgData _ _ _ => absurd hi Bool.false_ne_true
  | .imgEnd _ => absurd hi Bool.false_ne_true
  | .getVersion _ => absurd hi Bool.false_ne_true
  | .getCapabilities _ => absurd hi Bool.false_ne_true
  | .negotiateAlgorithms _ _ _ => absurd hi Bool.false_ne_true
  | .getDigests _ => absurd hi Bool.false_ne_true
  | .getCertificate _ _ _ _ => absurd hi Bool.false_ne_true
  | .challenge _ _ _ => absurd hi Bool.false_ne_true
  | .getMeasurements _ _ _ => absurd hi Bool.false_ne_true
  | .spdmUnsupportedRequest _ _ => absurd hi Bool.false_ne_true
  | .partitionCommitRequest _ => absurd hi Bool.false_ne_true
  | .prepareReport _ => absurd hi Bool.false_ne_true
  | .commitApply _ => absurd hi Bool.false_ne_true
  | .commitDone => absurd hi Bool.false_ne_true
  | .watchdogExpiry _ => absurd hi Bool.false_ne_true
  | .retentionSramUe _ _ => absurd hi Bool.false_ne_true
  | .snapctlArm _ _ => absurd hi Bool.false_ne_true
  | .snapctlFire _ => absurd hi Bool.false_ne_true
  | .snapshotAtCycle _ => absurd hi Bool.false_ne_true
  | .snapshotWideTrigger _ => absurd hi Bool.false_ne_true
  | .pwrcap _ _ => absurd hi Bool.false_ne_true
  | .powerSample _ => absurd hi Bool.false_ne_true
  | .powerCapUnmet _ => absurd hi Bool.false_ne_true
  | .eccCorrectable _ _ => absurd hi Bool.false_ne_true
  | .eccUncorrectable _ _ => absurd hi Bool.false_ne_true
  | .memoryScrub _ _ _ => absurd hi Bool.false_ne_true
  | .cqDescriptorRetest _ => absurd hi Bool.false_ne_true
  | .graphicsFaultReport _ _ _ => absurd hi Bool.false_ne_true
  | .registerWrite _ _ _ => absurd hi Bool.false_ne_true
  | .hostMemoryAccess _ => absurd hi Bool.false_ne_true
  | .completionQueueReread _ => absurd hi Bool.false_ne_true
  | .linkRetrainComplete _ _ _ => absurd hi Bool.false_ne_true
  | .modulePowerLoss => absurd hi Bool.false_ne_true
  | .rlimitWindow _ => absurd hi Bool.false_ne_true

/-- An instruction of the lane stream completes, waits or traps. -/
theorem exec_lane_next {s : State} (i : Instr) (hi : (laneMajor i).isSome) (h : s.laneIssuer?.isSome) : Completes (exec i s) :=
  match i with
  | .vNop w => by change Completes (execVNop w s); unfold execVNop; exact runLane_next h
  | .vNopMarker w => by change Completes (execVNopMarker w s); unfold execVNopMarker; exact runConfirmed_next h
  | .vBlk w => by change Completes (execVBlk w s); unfold execVBlk; exact runLane_next h
  | .vLstop w => by change Completes (execVLstop w s); unfold execVLstop; exact runConfirmed_next h
  | .vTrap w => by change Completes (execVTrap w s); unfold execVTrap; exact runLane_next h
  | .vBrk w => by change Completes (execVBrk w s); unfold execVBrk; exact runLane_next h
  | .vAdd w => show Completes (execVAdd w s) from laneArith_next h
  | .vSub w => show Completes (execVSub w s) from laneArith_next h
  | .vMul w => show Completes (execVMul w s) from laneArith_next h
  | .vMad w => show Completes (execVMad w s) from laneArith_next h
  | .vMin w => show Completes (execVMin w s) from laneArith_next h
  | .vMax w => show Completes (execVMax w s) from laneArith_next h
  | .vAbs w => show Completes (execVAbs w s) from laneArith_next h
  | .vAnd w => show Completes (execVAnd w s) from laneElements_next h
  | .vOr w => show Completes (execVOr w s) from laneElements_next h
  | .vXor w => show Completes (execVXor w s) from laneElements_next h
  | .vNot w => show Completes (execVNot w s) from laneElements_next h
  | .vShl w => show Completes (execVShl w s) from laneElements_next h
  | .vShr w => show Completes (execVShr w s) from laneElements_next h
  | .vSra w => show Completes (execVSra w s) from laneElements_next h
  | .vClz w => show Completes (execVClz w s) from laneElements_next h
  | .vPopc w => show Completes (execVPopc w s) from laneElements_next h
  | .vBrev w => show Completes (execVBrev w s) from laneElements_next h
  | .vBfe w => show Completes (execVBfe w s) from laneElements_next h
  | .vBfi w => show Completes (execVBfi w s) from laneElements_next h
  | .vBitint w => by change Completes (execVBitint w s); unfold execVBitint; (repeat' split) <;> exact laneWhole_next h
  | .vCmp w => by change Completes (execVCmp w s); unfold execVCmp; exact laneCompute_next h
  | .vSel w => show Completes (execVSel w s) from laneWhole_next h
  | .vMov w => show Completes (execVMov w s) from laneWhole_next h
  | .vMovi w => by change Completes (execVMovi w s); unfold execVMovi; exact laneWhole_next h
  | .vLane w => show Completes (execVLane w s) from laneWhole_next h
  | .vKget w => by change Completes (execVKget w s); unfold execVKget; exact runConfirmed_next h
  | .vFadd w => show Completes (execVFadd w s) from laneFloat_next h
  | .vFsub w => show Completes (execVFsub w s) from laneFloat_next h
  | .vFmul w => show Completes (execVFmul w s) from laneFloat_next h
  | .vFfma w => show Completes (execVFfma w s) from laneFloat_next h
  | .vFmin w => show Completes (execVFmin w s) from laneFloat_next h
  | .vFmax w => show Completes (execVFmax w s) from laneFloat_next h
  | .vFcmp w => by change Completes (execVFcmp w s); unfold execVFcmp; exact laneCompute_next h
  | .vFclass w => show Completes (execVFclass w s) from laneFloat_next h
  | .vFrcp w => show Completes (execVFrcp w s) from laneFloat_next h
  | .vFrsq w => show Completes (execVFrsq w s) from laneFloat_next h
  | .vFsqrt w => show Completes (execVFsqrt w s) from laneFloat_next h
  | .vFexp2 w => show Completes (execVFexp2 w s) from laneFloat_next h
  | .vFlog2 w => show Completes (execVFlog2 w s) from laneFloat_next h
  | .vFsin w => show Completes (execVFsin w s) from laneFloat_next h
  | .vFcos w => show Completes (execVFcos w s) from laneFloat_next h
  | .vFfloor w => show Completes (execVFfloor w s) from laneFloat_next h
  | .vFceil w => show Completes (execVFceil w s) from laneFloat_next h
  | .vFtrunc w => show Completes (execVFtrunc w s) from laneFloat_next h
  | .vFrnd w => show Completes (execVFrnd w s) from laneFloat_next h
  | .vFfract w => show Completes (execVFfract w s) from laneFloat_next h
  | .vFdot2 w => by change Completes (execVFdot2 w s); unfold execVFdot2; exact laneFloatWhole_next h
  | .vCvt w => by change Completes (execVCvt w s); unfold execVCvt; exact laneCompute_next h
  | .vCvtN w => by change Completes (execVCvtN w s); unfold execVCvtN; exact laneCompute_next h
  | .vCvtW w => by change Completes (execVCvtW w s); unfold execVCvtW; exact laneCompute_next h
  | .vCvtEf w => by change Completes (execVCvtEf w s); unfold execVCvtEf; exact laneCompute_next h
  | .vBfpPack w => by change Completes (execVBfpPack w s); unfold execVBfpPack; (repeat' split) <;> exact crossCompute_next h
  | .vBfpUnpack w => by change Completes (execVBfpUnpack w s); unfold execVBfpUnpack; exact laneCompute_next h
  | .vPack w => by change Completes (execVPack w s); unfold execVPack; exact laneCompute_next h
  | .vUnpack w => by change Completes (execVUnpack w s); unfold execVUnpack; exact laneCompute_next h
  | .vShflIdx w => show Completes (execVShflIdx w s) from shuffle_next h
  | .vShflUp w => show Completes (execVShflUp w s) from shuffle_next h
  | .vShflDown w => show Completes (execVShflDown w s) from shuffle_next h
  | .vShflXor w => show Completes (execVShflXor w s) from shuffle_next h
  | .vBcast w => by change Completes (execVBcast w s); unfold execVBcast; exact runConfirmed_next h
  | .vVoteAll w => show Completes (execVVoteAll w s) from vote_next h
  | .vVoteAny w => show Completes (execVVoteAny w s) from vote_next h
  | .vVoteEq w => show Completes (execVVoteEq w s) from vote_next h
  | .vVoteBallot w => show Completes (execVVoteBallot w s) from crossCompute_next h
  | .vScan w => show Completes (execVScan w s) from scan_next h
  | .vRed w => show Completes (execVRed w s) from scan_next h
  | .vMatch w => by change Completes (execVMatch w s); unfold execVMatch; exact crossCompute_next h
  | .vTosFirst w => by change Completes (execVTosFirst w s); unfold execVTosFirst; exact toScalar_next h
  | .vTosLane w => by change Completes (execVTosLane w s); unfold execVTosLane; exact toScalar_next h
  | .vTosMask w => show Completes (execVTosMask w s) from toScalar_next h
  | .vTosCount w => show Completes (execVTosCount w s) from toScalar_next h
  | .vLd w => show Completes (execVLd w s) from laneLoad_next h
  | .vSt w => show Completes (execVSt w s) from laneStore_next h
  | .vLdSp w => by change Completes (execVLdSp w s); unfold execVLdSp; exact runHeld_next h
  | .vStSp w => by change Completes (execVStSp w s); unfold execVStSp; exact runHeld_next h
  | .vLdAcq w => show Completes (execVLdAcq w s) from laneLoad_next h
  | .vStRel w => show Completes (execVStRel w s) from laneStore_next h
  | .vAtom w => by change Completes (execVAtom w s); unfold execVAtom; exact runHeld_next h
  | .vAtomSp w => by change Completes (execVAtomSp w s); unfold execVAtomSp; exact runHeld_next h
  | .vAred w => by change Completes (execVAred w s); unfold execVAred; exact runHeld_next h
  | .vStFf w => by change Completes (execVStFf w s); unfold execVStFf; exact runHeld_next h
  | .vPrefetch w => by change Completes (execVPrefetch w s); unfold execVPrefetch; exact runLane_next h
  | .vBr w => by change Completes (execVBr w s); unfold execVBr; exact runLaneAt_next h
  | .vBru w => by change Completes (execVBru w s); unfold execVBru; exact runLane_next h
  | .vReconv w => by change Completes (execVReconv w s); unfold execVReconv; exact runLane_next h
  | .vReconvW w => by change Completes (execVReconvW w s); unfold execVReconvW; exact runLaneAt_next h
  | .vCallRg w => by change Completes (execVCallRg w s); unfold execVCallRg; exact runLaneAs_next h
  | .vRetRg w => by change Completes (execVRetRg w s); unfold execVRetRg; exact runConfirmed_next h
  | .vRegroup w => by change Completes (execVRegroup w s); unfold execVRegroup; exact runConfirmed_next h
  | .vExit w => show Completes (execVExit w s) from laneExit_next h
  | .vKill w => show Completes (execVKill w s) from laneExit_next h
  | .vMxLds w => by change Completes (execVMxLds w s); unfold execVMxLds; exact runConfirmed_next h
  | .vMxSwap w => by change Completes (execVMxSwap w s); unfold execVMxSwap; exact runConfirmed_next h
  | .vMxMmaRf w => by change Completes (execVMxMmaRf w s); unfold execVMxMmaRf; exact runConfirmed_next h
  | .vMxMmaOpb w => by change Completes (execVMxMmaOpb w s); unfold execVMxMmaOpb; exact runConfirmed_next h
  | .vAccLd w => by change Completes (execVAccLd w s); unfold execVAccLd; exact runConfirmed_next h
  | .vAccMov w => by change Completes (execVAccMov w s); unfold execVAccMov; exact runConfirmed_next h
  | .vAccZero w => by change Completes (execVAccZero w s); unfold execVAccZero; exact runConfirmed_next h
  | .vAccDrain w => by change Completes (execVAccDrain w s); unfold execVAccDrain; exact runConfirmed_next h
  | .vAccDrainG w => by change Completes (execVAccDrainG w s); unfold execVAccDrainG; exact runConfirmed_next h
  | .vOpbPut w => by change Completes (execVOpbPut w s); unfold execVOpbPut; exact runConfirmed_next h
  | .vRast w => by change Completes (execVRast w s); unfold execVRast; exact runConfirmed_next h
  | .vBin w => by change Completes (execVBin w s); unfold execVBin; exact runHeld_next h
  | .vTexSmp w => show Completes (execVTexSmp w s) from sampler_next h
  | .vTexLod w => show Completes (execVTexLod w s) from sampler_next h
  | .vTexGrad w => show Completes (execVTexGrad w s) from sampler_next h
  | .vTexFetch w => show Completes (execVTexFetch w s) from sampler_next h
  | .vTexGather w => show Completes (execVTexGather w s) from sampler_next h
  | .vTexDec w => show Completes (execVTexDec w s) from sampler_next h
  | .vExpPx w => by change Completes (execVExpPx w s); unfold execVExpPx; exact runHeld_next h
  | .vExpPos w => by change Completes (execVExpPos w s); unfold execVExpPos; exact runHeld_next h
  | .vTravRay w => show Completes (execVTravRay w s) from treeOp_next h
  | .vTravRad w => by change Completes (execVTravRad w s); unfold execVTravRad; exact treeOp_next h
  | .vTravKnn w => by change Completes (execVTravKnn w s); unfold execVTravKnn; exact treeOp_next h
  | .vTravRng w => by change Completes (execVTravRng w s); unfold execVTravRng; exact treeOp_next h
  | .vIsectBox w => by change Completes (execVIsectBox w s); unfold execVIsectBox; exact treeOp_next h
  | .vIsectTri w => by change Completes (execVIsectTri w s); unfold execVIsectTri; exact treeOp_next h
  | .sAdd _ _ _ => absurd hi Bool.false_ne_true
  | .sSub _ _ _ => absurd hi Bool.false_ne_true
  | .sMul _ _ _ => absurd hi Bool.false_ne_true
  | .sMulh _ _ _ => absurd hi Bool.false_ne_true
  | .sMulhu _ _ _ => absurd hi Bool.false_ne_true
  | .sDiv _ _ _ => absurd hi Bool.false_ne_true
  | .sDivu _ _ _ => absurd hi Bool.false_ne_true
  | .sRem _ _ _ => absurd hi Bool.false_ne_true
  | .sRemu _ _ _ => absurd hi Bool.false_ne_true
  | .sAnd _ _ _ => absurd hi Bool.false_ne_true
  | .sOr _ _ _ => absurd hi Bool.false_ne_true
  | .sXor _ _ _ => absurd hi Bool.false_ne_true
  | .sShl _ _ _ => absurd hi Bool.false_ne_true
  | .sShr _ _ _ => absurd hi Bool.false_ne_true
  | .sSra _ _ _ => absurd hi Bool.false_ne_true
  | .sMin _ _ _ => absurd hi Bool.false_ne_true
  | .sMinu _ _ _ => absurd hi Bool.false_ne_true
  | .sMax _ _ _ => absurd hi Bool.false_ne_true
  | .sMaxu _ _ _ => absurd hi Bool.false_ne_true
  | .sClz _ _ => absurd hi Bool.false_ne_true
  | .sCtz _ _ => absurd hi Bool.false_ne_true
  | .sPopc _ _ => absurd hi Bool.false_ne_true
  | .sBitint _ _ _ => absurd hi Bool.false_ne_true
  | .sBitdeint _ _ => absurd hi Bool.false_ne_true
  | .sSel _ _ _ _ _ => absurd hi Bool.false_ne_true
  | .sCmp _ _ _ _ => absurd hi Bool.false_ne_true
  | .sAddi _ _ _ => absurd hi Bool.false_ne_true
  | .sAndi _ _ _ => absurd hi Bool.false_ne_true
  | .sOri _ _ _ => absurd hi Bool.false_ne_true
  | .sXori _ _ _ => absurd hi Bool.false_ne_true
  | .sShli _ _ _ => absurd hi Bool.false_ne_true
  | .sShri _ _ _ => absurd hi Bool.false_ne_true
  | .sSrai _ _ _ => absurd hi Bool.false_ne_true
  | .sLui _ _ => absurd hi Bool.false_ne_true
  | .sCmpi _ _ _ _ => absurd hi Bool.false_ne_true
  | .sLdB _ _ _ => absurd hi Bool.false_ne_true
  | .sLdH _ _ _ => absurd hi Bool.false_ne_true
  | .sLdW _ _ _ => absurd hi Bool.false_ne_true
  | .sLdD _ _ _ => absurd hi Bool.false_ne_true
  | .sStB _ _ _ => absurd hi Bool.false_ne_true
  | .sStH _ _ _ => absurd hi Bool.false_ne_true
  | .sStW _ _ _ => absurd hi Bool.false_ne_true
  | .sStD _ _ _ => absurd hi Bool.false_ne_true
  | .sLdAcq _ _ _ _ _ => absurd hi Bool.false_ne_true
  | .sStRel _ _ _ _ _ => absurd hi Bool.false_ne_true
  | .sLdk _ _ _ _ => absurd hi Bool.false_ne_true
  | .sAtomW _ _ _ _ _ => absurd hi Bool.false_ne_true
  | .sAtomD _ _ _ _ _ => absurd hi Bool.false_ne_true
  | .sFenceAcq _ => absurd hi Bool.false_ne_true
  | .sFenceRel _ => absurd hi Bool.false_ne_true
  | .sFenceAr _ => absurd hi Bool.false_ne_true
  | .sB _ _ _ => absurd hi Bool.false_ne_true
  | .sCall _ _ _ => absurd hi Bool.false_ne_true
  | .sBz _ _ => absurd hi Bool.false_ne_true
  | .sLoop _ _ => absurd hi Bool.false_ne_true
  | .sRet => absurd hi Bool.false_ne_true
  | .sJr _ => absurd hi Bool.false_ne_true
  | .sLgo _ => absurd hi Bool.false_ne_true
  | .sLwait => absurd hi Bool.false_ne_true
  | .sBarInit _ _ => absurd hi Bool.false_ne_true
  | .sBarArrive _ _ => absurd hi Bool.false_ne_true
  | .sBarExpect _ _ => absurd hi Bool.false_ne_true
  | .sBarWait _ _ => absurd hi Bool.false_ne_true
  | .sCntWait _ _ => absurd hi Bool.false_ne_true
  | .sCp _ _ _ => absurd hi Bool.false_ne_true
  | .sCpMc _ _ _ => absurd hi Bool.false_ne_true
  | .sXf _ _ _ => absurd hi Bool.false_ne_true
  | .sCpG _ _ _ => absurd hi Bool.false_ne_true
  | .sPublish _ => absurd hi Bool.false_ne_true
  | .sQpush _ _ _ => absurd hi Bool.false_ne_true
  | .sDepDec _ _ => absurd hi Bool.false_ne_true
  | .sPseal _ => absurd hi Bool.false_ne_true
  | .sOpbRsv _ _ => absurd hi Bool.false_ne_true
  | .sOpbRel _ => absurd hi Bool.false_ne_true
  | .sMxLease _ _ => absurd hi Bool.false_ne_true
  | .sMxYield => absurd hi Bool.false_ne_true
  | .sKget _ _ => absurd hi Bool.false_ne_true
  | .sKput _ _ => absurd hi Bool.false_ne_true
  | .sTrap _ => absurd hi Bool.false_ne_true
  | .sNop => absurd hi Bool.false_ne_true
  | .sTret => absurd hi Bool.false_ne_true
  | .sYield => absurd hi Bool.false_ne_true
  | .sExit => absurd hi Bool.false_ne_true
  | .reservedEncoding _ _ => absurd hi Bool.false_ne_true
  | .fetchBeyondSection _ => absurd hi Bool.false_ne_true
  | .longLatencyReturn _ _ => absurd hi Bool.false_ne_true
  | .samplerResultReturn _ _ => absurd hi Bool.false_ne_true
  | .treeResultReturn _ _ => absurd hi Bool.false_ne_true
  | .accTransferComplete _ _ => absurd hi Bool.false_ne_true
  | .ffStoreDelivered _ _ => absurd hi Bool.false_ne_true
  | .tosWrite _ _ => absurd hi Bool.false_ne_true
  | .laneBlockStart _ => absurd hi Bool.false_ne_true
  | .roundEndExchange _ _ => absurd hi Bool.false_ne_true
  | .flockExchange _ _ _ => absurd hi Bool.false_ne_true
  | .predicateResolution _ _ => absurd hi Bool.false_ne_true
  | .reconvTimeout _ _ => absurd hi Bool.false_ne_true
  | .regroupCollectionClose _ _ => absurd hi Bool.false_ne_true
  | .regroupCollectionTimeout _ _ => absurd hi Bool.false_ne_true
  | .callFlockEnd _ => absurd hi Bool.false_ne_true
  | .barWaitComplete _ => absurd hi Bool.false_ne_true
  | .herdAdmit _ => absurd hi Bool.false_ne_true
  | .regionComplete _ => absurd hi Bool.false_ne_true
  | .completionAction _ => absurd hi Bool.false_ne_true
  | .completionRecordWrite _ => absurd hi Bool.false_ne_true
  | .preemptRequest _ => absurd hi Bool.false_ne_true
  | .herdSave _ => absurd hi Bool.false_ne_true
  | .herdRestore _ => absurd hi Bool.false_ne_true
  | .haltBoundFailure _ => absurd hi Bool.false_ne_true
  | .matrixEngineOperation _ => absurd hi Bool.false_ne_true
  | .copyTransferStart _ _ => absurd hi Bool.false_ne_true
  | .copyWordLand _ _ => absurd hi Bool.false_ne_true
  | .copyFaultSuspend _ _ => absurd hi Bool.false_ne_true
  | .faultRecordWrite _ => absurd hi Bool.false_ne_true
  | .sealDigest _ => absurd hi Bool.false_ne_true
  | .commonsRelease _ => absurd hi Bool.false_ne_true
  | .poolReturnRetry _ _ _ _ => absurd hi Bool.false_ne_true
  | .poolReturnStall _ _ _ _ => absurd hi Bool.false_ne_true
  | .doorbellWrite _ _ => absurd hi Bool.false_ne_true
  | .queueStep _ _ => absurd hi Bool.false_ne_true
  | .packetDispatch _ => absurd hi Bool.false_ne_true
  | .packetCopy _ => absurd hi Bool.false_ne_true
  | .packetSignal _ => absurd hi Bool.false_ne_true
  | .packetWait _ => absurd hi Bool.false_ne_true
  | .waitReread _ => absurd hi Bool.false_ne_true
  | .packetFork _ => absurd hi Bool.false_ne_true
  | .packetSeal _ => absurd hi Bool.false_ne_true
  | .packetPublish _ => absurd hi Bool.false_ne_true
  | .packetMigrate _ => absurd hi Bool.false_ne_true
  | .migrateMove _ => absurd hi Bool.false_ne_true
  | .packetNop _ => absurd hi Bool.false_ne_true
  | .depCounterDecrement _ _ _ _ => absurd hi Bool.false_ne_true
  | .quantumBoundary _ => absurd hi Bool.false_ne_true
  | .budgetCharge _ => absurd hi Bool.false_ne_true
  | .arbiterPromotion _ _ => absurd hi Bool.false_ne_true
  | .quiesce _ _ => absurd hi Bool.false_ne_true
  | .paddockQuiesced _ => absurd hi Bool.false_ne_true
  | .qstuck _ => absurd hi Bool.false_ne_true
  | .tlbinv1 _ _ => absurd hi Bool.false_ne_true
  | .fltctlRetry _ _ => absurd hi Bool.false_ne_true
  | .fltctlSkip _ _ => absurd hi Bool.false_ne_true
  | .fltctlEnterHandler _ _ => absurd hi Bool.false_ne_true
  | .fltctlEnd _ _ => absurd hi Bool.false_ne_true
  | .fltctlAbortDomain _ _ => absurd hi Bool.false_ne_true
  | .engctlResume _ _ => absurd hi Bool.false_ne_true
  | .engctlAbandon _ _ => absurd hi Bool.false_ne_true
  | .crel _ _ => absurd hi Bool.false_ne_true
  | .keyLoad _ _ _ => absurd hi Bool.false_ne_true
  | .placementEpoch _ => absurd hi Bool.false_ne_true
  | .frameMove _ => absurd hi Bool.false_ne_true
  | .orderedPacketSend _ => absurd hi Bool.false_ne_true
  | .orderedPacketArrival _ => absurd hi Bool.false_ne_true
  | .readRequestServe _ => absurd hi Bool.false_ne_true
  | .acquireCatchup _ => absurd hi Bool.false_ne_true
  | .deliveryReportSend _ _ => absurd hi Bool.false_ne_true
  | .deliveryReportReceive _ => absurd hi Bool.false_ne_true
  | .linkGroupReceive _ _ _ => absurd hi Bool.false_ne_true
  | .linkNakReceive _ _ _ => absurd hi Bool.false_ne_true
  | .linkResendTimeout _ _ _ => absurd hi Bool.false_ne_true
  | .linkRetrain _ _ => absurd hi Bool.false_ne_true
  | .linkDown _ _ => absurd hi Bool.false_ne_true
  | .fabricStall _ => absurd hi Bool.false_ne_true
  | .heartbeat _ _ => absurd hi Bool.false_ne_true
  | .dieRemoval _ => absurd hi Bool.false_ne_true
  | .resynchronisation => absurd hi Bool.false_ne_true
  | .boot _ => absurd hi Bool.false_ne_true
  | .dedupSecretReceive _ _ => absurd hi Bool.false_ne_true
  | .dieBringup _ => absurd hi Bool.false_ne_true
  | .clusterPowerUp _ _ => absurd hi Bool.false_ne_true
  | .matrixEngineEnable _ _ => absurd hi Bool.false_ne_true
  | .bootPeerTimeout _ => absurd hi Bool.false_ne_true
  | .imgBegin _ _ => absurd hi Bool.false_ne_true
  | .imgData _ _ _ => absurd hi Bool.false_ne_true
  | .imgEnd _ => absurd hi Bool.false_ne_true
  | .getVersion _ => absurd hi Bool.false_ne_true
  | .getCapabilities _ => absurd hi Bool.false_ne_true
  | .negotiateAlgorithms _ _ _ => absurd hi Bool.false_ne_true
  | .getDigests _ => absurd hi Bool.false_ne_true
  | .getCertificate _ _ _ _ => absurd hi Bool.false_ne_true
  | .challenge _ _ _ => absurd hi Bool.false_ne_true
  | .getMeasurements _ _ _ => absurd hi Bool.false_ne_true
  | .spdmUnsupportedRequest _ _ => absurd hi Bool.false_ne_true
  | .partitionCommitRequest _ => absurd hi Bool.false_ne_true
  | .prepareReport _ => absurd hi Bool.false_ne_true
  | .commitApply _ => absurd hi Bool.false_ne_true
  | .commitDone => absurd hi Bool.false_ne_true
  | .watchdogExpiry _ => absurd hi Bool.false_ne_true
  | .retentionSramUe _ _ => absurd hi Bool.false_ne_true
  | .snapctlArm _ _ => absurd hi Bool.false_ne_true
  | .snapctlFire _ => absurd hi Bool.false_ne_true
  | .snapshotAtCycle _ => absurd hi Bool.false_ne_true
  | .snapshotWideTrigger _ => absurd hi Bool.false_ne_true
  | .pwrcap _ _ => absurd hi Bool.false_ne_true
  | .powerSample _ => absurd hi Bool.false_ne_true
  | .powerCapUnmet _ => absurd hi Bool.false_ne_true
  | .eccCorrectable _ _ => absurd hi Bool.false_ne_true
  | .eccUncorrectable _ _ => absurd hi Bool.false_ne_true
  | .memoryScrub _ _ _ => absurd hi Bool.false_ne_true
  | .cqDescriptorRetest _ => absurd hi Bool.false_ne_true
  | .graphicsFaultReport _ _ _ => absurd hi Bool.false_ne_true
  | .registerWrite _ _ _ => absurd hi Bool.false_ne_true
  | .hostMemoryAccess _ => absurd hi Bool.false_ne_true
  | .completionQueueReread _ => absurd hi Bool.false_ne_true
  | .linkRetrainComplete _ _ _ => absurd hi Bool.false_ne_true
  | .modulePowerLoss => absurd hi Bool.false_ne_true
  | .rlimitWindow _ => absurd hi Bool.false_ne_true

/-! ## Events -/

/-- A due event completes. -/
theorem execEvent_next (e : Event) (s : State) : Completes (execEvent e s) :=
  match e with
  | .longLatencyReturn _ _ => ⟨_, rfl⟩
  | .samplerResultReturn _ _ => ⟨_, rfl⟩
  | .treeResultReturn _ _ => ⟨_, rfl⟩
  | .accTransferComplete _ _ => ⟨_, rfl⟩
  | .ffStoreDelivered _ _ => ⟨_, rfl⟩
  | .tosWrite _ _ => ⟨_, rfl⟩
  | .laneBlockStart flock => by
    change Completes (execLaneBlockStart flock s)
    unfold execLaneBlockStart; (repeat' first | exact ⟨_, rfl⟩ | split | dsimp only)
  | .roundEndExchange core dp => by
    change Completes (execRoundEndExchange core dp s)
    unfold execRoundEndExchange; (repeat' first | exact ⟨_, rfl⟩ | split | dsimp only)
  | .flockExchange _ _ _ => ⟨_, rfl⟩
  | .predicateResolution flock path => by
    change Completes (execPredicateResolution flock path s)
    unfold execPredicateResolution; (repeat' first | exact ⟨_, rfl⟩ | split | dsimp only)
  | .reconvTimeout flock entry => by
    change Completes (execReconvTimeout flock entry s)
    unfold execReconvTimeout; (repeat' first | exact ⟨_, rfl⟩ | split | dsimp only)
  | .regroupCollectionClose core coll => by
    change Completes (execRegroupCollectionClose core coll s)
    unfold execRegroupCollectionClose; (repeat' first | exact ⟨_, rfl⟩ | split | dsimp only)
  | .regroupCollectionTimeout core coll => by
    change Completes (execRegroupCollectionTimeout core coll s)
    unfold execRegroupCollectionTimeout; (repeat' first | exact ⟨_, rfl⟩ | split | dsimp only)
  | .callFlockEnd flock => by
    change Completes (execCallFlockEnd flock s)
    unfold execCallFlockEnd; (repeat' first | exact ⟨_, rfl⟩ | split | dsimp only)
  | .barWaitComplete flock => by
    change Completes (execBarWaitComplete flock s)
    unfold execBarWaitComplete; (repeat' first | exact ⟨_, rfl⟩ | split | dsimp only)
  | .herdAdmit region => by
    change Completes (execHerdAdmit region s)
    unfold execHerdAdmit; (repeat' first | exact ⟨_, rfl⟩ | split | dsimp only)
  | .regionComplete region => by
    change Completes (execRegionComplete region s)
    unfold execRegionComplete; (repeat' first | exact ⟨_, rfl⟩ | split | dsimp only)
  | .completionAction _ => ⟨_, rfl⟩
  | .completionRecordWrite r => by
    change Completes (execCompletionRecordWrite r s)
    unfold execCompletionRecordWrite; (repeat' first | exact ⟨_, rfl⟩ | split | dsimp only)
  | .preemptRequest _ => ⟨_, rfl⟩
  | .herdSave herd => by
    change Completes (execHerdSave herd s)
    unfold execHerdSave; (repeat' first | exact ⟨_, rfl⟩ | split | dsimp only)
  | .herdRestore herd => by
    change Completes (execHerdRestore herd s)
    unfold execHerdRestore; (repeat' first | exact ⟨_, rfl⟩ | split | dsimp only)
  | .haltBoundFailure _ => ⟨_, rfl⟩
  | .matrixEngineOperation core => by
    change Completes (execMatrixEngineOperation core s)
    unfold execMatrixEngineOperation; (repeat' first | exact ⟨_, rfl⟩ | split | dsimp only)
  | .copyTransferStart core cmd => by
    change Completes (execCopyTransferStart core cmd s)
    unfold execCopyTransferStart; (repeat' first | exact ⟨_, rfl⟩ | split | dsimp only)
  | .copyWordLand core cmd => by
    change Completes (execCopyWordLand core cmd s)
    unfold execCopyWordLand; (repeat' first | exact ⟨_, rfl⟩ | split | dsimp only)
  | .copyFaultSuspend core cmd => by
    change Completes (execCopyFaultSuspend core cmd s)
    unfold execCopyFaultSuspend; (repeat' first | exact ⟨_, rfl⟩ | split | dsimp only)
  | .faultRecordWrite r => by
    change Completes (execFaultRecordWrite r s)
    unfold execFaultRecordWrite; (repeat' first | exact ⟨_, rfl⟩ | split | dsimp only)
  | .sealDigest j => by
    change Completes (execSealDigest j s)
    unfold execSealDigest; (repeat' first | exact ⟨_, rfl⟩ | split | dsimp only)
  | .commonsRelease frame => by
    change Completes (execCommonsRelease frame s)
    unfold execCommonsRelease; (repeat' first | exact ⟨_, rfl⟩ | split | dsimp only)
  | .poolReturnRetry die header frame since => by
    change Completes (execPoolReturnRetry die header frame since s)
    unfold execPoolReturnRetry; (repeat' first | exact ⟨_, rfl⟩ | split | dsimp only)
  | .poolReturnStall die header frame since => by
    change Completes (execPoolReturnStall die header frame since s)
    unfold execPoolReturnStall; (repeat' first | exact ⟨_, rfl⟩ | split | dsimp only)
  | .doorbellWrite offset value => by
    change Completes (execDoorbellWrite offset value s)
    unfold execDoorbellWrite; (repeat' first | exact ⟨_, rfl⟩ | split | dsimp only)
  | .queueStep session q => by
    change Completes (execQueueStep session q s)
    unfold execQueueStep; (repeat' first | exact ⟨_, rfl⟩ | split | dsimp only)
  | .packetDispatch _ => ⟨_, rfl⟩
  | .packetCopy _ => ⟨_, rfl⟩
  | .packetSignal _ => ⟨_, rfl⟩
  | .packetWait _ => ⟨_, rfl⟩
  | .waitReread _ => ⟨_, rfl⟩
  | .packetFork _ => ⟨_, rfl⟩
  | .packetSeal _ => ⟨_, rfl⟩
  | .packetPublish _ => ⟨_, rfl⟩
  | .packetMigrate _ => ⟨_, rfl⟩
  | .migrateMove p => by
    change Completes (execMigrateMove p s)
    unfold execMigrateMove; (repeat' first | exact ⟨_, rfl⟩ | split | dsimp only)
  | .packetNop _ => ⟨_, rfl⟩
  | .depCounterDecrement die ctr amount sender => by
    change Completes (execDepCounterDecrement die ctr amount sender s)
    unfold execDepCounterDecrement; (repeat' first | exact ⟨_, rfl⟩ | split | dsimp only)
  | .quantumBoundary paddock => by
    change Completes (execQuantumBoundary paddock s)
    unfold execQuantumBoundary; (repeat' first | exact ⟨_, rfl⟩ | split | dsimp only)
  | .budgetCharge herd => by
    change Completes (execBudgetCharge herd s)
    unfold execBudgetCharge; (repeat' first | exact ⟨_, rfl⟩ | split | dsimp only)
  | .arbiterPromotion die request => by
    change Completes (execArbiterPromotion die request s)
    unfold execArbiterPromotion; (repeat' first | exact ⟨_, rfl⟩ | split | dsimp only)
  | .quiesce _ _ => ⟨_, rfl⟩
  | .paddockQuiesced paddock => by
    change Completes (execPaddockQuiesced paddock s)
    unfold execPaddockQuiesced; (repeat' first | exact ⟨_, rfl⟩ | split | dsimp only)
  | .qstuck paddock => by
    change Completes (execQstuck paddock s)
    unfold execQstuck; (repeat' first | exact ⟨_, rfl⟩ | split | dsimp only)
  | .tlbinv1 die value => by
    change Completes (execTlbinv1 die value s)
    unfold execTlbinv1; (repeat' first | exact ⟨_, rfl⟩ | split | dsimp only)
  | .fltctlRetry _ _ => ⟨_, rfl⟩
  | .fltctlSkip _ _ => ⟨_, rfl⟩
  | .fltctlEnterHandler _ _ => ⟨_, rfl⟩
  | .fltctlEnd _ _ => ⟨_, rfl⟩
  | .fltctlAbortDomain _ _ => ⟨_, rfl⟩
  | .engctlResume _ _ => ⟨_, rfl⟩
  | .engctlAbandon _ _ => ⟨_, rfl⟩
  | .crel _ _ => ⟨_, rfl⟩
  | .keyLoad die slot blob => by
    change Completes (execKeyLoad die slot blob s)
    unfold execKeyLoad; (repeat' first | exact ⟨_, rfl⟩ | split | dsimp only)
  | .placementEpoch die => by
    change Completes (execPlacementEpoch die s)
    unfold execPlacementEpoch; (repeat' first | exact ⟨_, rfl⟩ | split | dsimp only)
  | .frameMove m => by
    change Completes (execFrameMove m s)
    unfold execFrameMove; (repeat' first | exact ⟨_, rfl⟩ | split | dsimp only)
  | .orderedPacketSend p => by
    change Completes (execOrderedPacketSend p s)
    unfold execOrderedPacketSend; (repeat' first | exact ⟨_, rfl⟩ | split | dsimp only)
  | .orderedPacketArrival p => by
    change Completes (execOrderedPacketArrival p s)
    unfold execOrderedPacketArrival; (repeat' first | exact ⟨_, rfl⟩ | split | dsimp only)
  | .readRequestServe r => by
    change Completes (execReadRequestServe r s)
    unfold execReadRequestServe; (repeat' first | exact ⟨_, rfl⟩ | split | dsimp only)
  | .acquireCatchup r => by
    change Completes (execAcquireCatchup r s)
    unfold execAcquireCatchup; (repeat' first | exact ⟨_, rfl⟩ | split | dsimp only)
  | .deliveryReportSend die net => by
    change Completes (execDeliveryReportSend die net s)
    unfold execDeliveryReportSend; (repeat' first | exact ⟨_, rfl⟩ | split | dsimp only)
  | .deliveryReportReceive r => by
    change Completes (execDeliveryReportReceive r s)
    unfold execDeliveryReportReceive; (repeat' first | exact ⟨_, rfl⟩ | split | dsimp only)
  | .linkGroupReceive die link g => by
    change Completes (execLinkGroupReceive die link g s)
    unfold execLinkGroupReceive; (repeat' first | exact ⟨_, rfl⟩ | split | dsimp only)
  | .linkNakReceive die link seq => by
    change Completes (execLinkNakReceive die link seq s)
    unfold execLinkNakReceive; (repeat' first | exact ⟨_, rfl⟩ | split | dsimp only)
  | .linkResendTimeout die link seq => by
    change Completes (execLinkResendTimeout die link seq s)
    unfold execLinkResendTimeout; (repeat' first | exact ⟨_, rfl⟩ | split | dsimp only)
  | .linkRetrain die link => by
    change Completes (execLinkRetrain die link s)
    unfold execLinkRetrain; (repeat' first | exact ⟨_, rfl⟩ | split | dsimp only)
  | .linkDown die link => by
    change Completes (execLinkDown die link s)
    unfold execLinkDown; (repeat' first | exact ⟨_, rfl⟩ | split | dsimp only)
  | .fabricStall die => by
    change Completes (execFabricStall die s)
    unfold execFabricStall; (repeat' first | exact ⟨_, rfl⟩ | split | dsimp only)
  | .heartbeat die missed => by
    change Completes (execHeartbeat die missed s)
    unfold execHeartbeat; (repeat' first | exact ⟨_, rfl⟩ | split | dsimp only)
  | .dieRemoval what => by
    change Completes (execDieRemoval what s)
    unfold execDieRemoval; (repeat' first | exact ⟨_, rfl⟩ | split | dsimp only)
  | .resynchronisation => by
    change Completes (execResynchronisation s)
    unfold execResynchronisation; (repeat' first | exact ⟨_, rfl⟩ | split | dsimp only)
  | .boot die => by
    change Completes (execBoot die s)
    unfold execBoot; (repeat' first | exact ⟨_, rfl⟩ | split | dsimp only)
  | .dedupSecretReceive die blob => by
    change Completes (execDedupSecretReceive die blob s)
    unfold execDedupSecretReceive; (repeat' first | exact ⟨_, rfl⟩ | split | dsimp only)
  | .dieBringup die => by
    change Completes (execDieBringup die s)
    unfold execDieBringup; (repeat' first | exact ⟨_, rfl⟩ | split | dsimp only)
  | .clusterPowerUp die cluster => by
    change Completes (execClusterPowerUp die cluster s)
    unfold execClusterPowerUp; (repeat' first | exact ⟨_, rfl⟩ | split | dsimp only)
  | .matrixEngineEnable die cluster => by
    change Completes (execMatrixEngineEnable die cluster s)
    unfold execMatrixEngineEnable; (repeat' first | exact ⟨_, rfl⟩ | split | dsimp only)
  | .bootPeerTimeout die => by
    change Completes (execBootPeerTimeout die s)
    unfold execBootPeerTimeout; (repeat' first | exact ⟨_, rfl⟩ | split | dsimp only)
  | .imgBegin die len => by
    change Completes (execImgBegin die len s)
    unfold execImgBegin; (repeat' first | exact ⟨_, rfl⟩ | split | dsimp only)
  | .imgData die offset bytes => by
    change Completes (execImgData die offset bytes s)
    unfold execImgData; (repeat' first | exact ⟨_, rfl⟩ | split | dsimp only)
  | .imgEnd die => by
    change Completes (execImgEnd die s)
    unfold execImgEnd; (repeat' first | exact ⟨_, rfl⟩ | split | dsimp only)
  | .getVersion _ => ⟨_, rfl⟩
  | .getCapabilities _ => ⟨_, rfl⟩
  | .negotiateAlgorithms _ _ _ => ⟨_, rfl⟩
  | .getDigests _ => ⟨_, rfl⟩
  | .getCertificate die slot offset len => by
    change Completes (execGetCertificate die slot offset len s)
    unfold execGetCertificate; (repeat' first | exact ⟨_, rfl⟩ | split | dsimp only)
  | .challenge _ _ _ => ⟨_, rfl⟩
  | .getMeasurements die index nonce => by
    change Completes (execGetMeasurements die index nonce s)
    unfold execGetMeasurements; (repeat' first | exact ⟨_, rfl⟩ | split | dsimp only)
  | .spdmUnsupportedRequest _ _ => ⟨_, rfl⟩
  | .partitionCommitRequest c => by
    change Completes (execPartitionCommitRequest c s)
    unfold execPartitionCommitRequest; (repeat' first | exact ⟨_, rfl⟩ | split | dsimp only)
  | .prepareReport die => by
    change Completes (execPrepareReport die s)
    unfold execPrepareReport; (repeat' first | exact ⟨_, rfl⟩ | split | dsimp only)
  | .commitApply die => by
    change Completes (execCommitApply die s)
    unfold execCommitApply; (repeat' first | exact ⟨_, rfl⟩ | split | dsimp only)
  | .commitDone => by
    change Completes (execCommitDone s)
    unfold execCommitDone; (repeat' first | exact ⟨_, rfl⟩ | split | dsimp only)
  | .watchdogExpiry die => by
    change Completes (execWatchdogExpiry die s)
    unfold execWatchdogExpiry; (repeat' first | exact ⟨_, rfl⟩ | split | dsimp only)
  | .retentionSramUe die lost => by
    change Completes (execRetentionSramUe die lost s)
    unfold execRetentionSramUe; (repeat' first | exact ⟨_, rfl⟩ | split | dsimp only)
  | .snapctlArm die value => by
    change Completes (execSnapctlArm die value s)
    unfold execSnapctlArm; (repeat' first | exact ⟨_, rfl⟩ | split | dsimp only)
  | .snapctlFire _ => ⟨_, rfl⟩
  | .snapshotAtCycle die => by
    change Completes (execSnapshotAtCycle die s)
    unfold execSnapshotAtCycle; (repeat' first | exact ⟨_, rfl⟩ | split | dsimp only)
  | .snapshotWideTrigger _ => ⟨_, rfl⟩
  | .pwrcap die value => by
    change Completes (execPwrcap die value s)
    unfold execPwrcap; (repeat' first | exact ⟨_, rfl⟩ | split | dsimp only)
  | .powerSample die => by
    change Completes (execPowerSample die s)
    unfold execPowerSample; (repeat' first | exact ⟨_, rfl⟩ | split | dsimp only)
  | .powerCapUnmet paddock => by
    change Completes (execPowerCapUnmet paddock s)
    unfold execPowerCapUnmet; (repeat' first | exact ⟨_, rfl⟩ | split | dsimp only)
  | .eccCorrectable _ _ => ⟨_, rfl⟩
  | .eccUncorrectable _ _ => ⟨_, rfl⟩
  | .memoryScrub die sector bad => by
    change Completes (execMemoryScrub die sector bad s)
    unfold execMemoryScrub; (repeat' first | exact ⟨_, rfl⟩ | split | dsimp only)
  | .cqDescriptorRetest session => by
    change Completes (execCqDescriptorRetest session s)
    unfold execCqDescriptorRetest; (repeat' first | exact ⟨_, rfl⟩ | split | dsimp only)
  | .graphicsFaultReport core region tree => by
    change Completes (execGraphicsFaultReport core region tree s)
    unfold execGraphicsFaultReport; (repeat' first | exact ⟨_, rfl⟩ | split | dsimp only)
  | .registerWrite die r value => by
    change Completes (execRegisterWrite die r value s)
    unfold execRegisterWrite; (repeat' first | exact ⟨_, rfl⟩ | split | dsimp only)
  | .hostMemoryAccess h => by
    change Completes (execHostMemoryAccess h s)
    unfold execHostMemoryAccess; (repeat' first | exact ⟨_, rfl⟩ | split | dsimp only)
  | .completionQueueReread r => by
    change Completes (execCompletionQueueReread r s)
    unfold execCompletionQueueReread; (repeat' first | exact ⟨_, rfl⟩ | split | dsimp only)
  | .linkRetrainComplete die link ok => by
    change Completes (execLinkRetrainComplete die link ok s)
    unfold execLinkRetrainComplete; (repeat' first | exact ⟨_, rfl⟩ | split | dsimp only)
  | .modulePowerLoss => by
    change Completes (execModulePowerLoss s)
    unfold execModulePowerLoss; (repeat' first | exact ⟨_, rfl⟩ | split | dsimp only)
  | .rlimitWindow core => by
    change Completes (execRlimitWindow core s)
    unfold execRlimitWindow; (repeat' first | exact ⟨_, rfl⟩ | split | dsimp only)

end Sys2Proof.Machine
end

