-- ==== Sys2Proof/Laws/Sound.lean ====
section
/-!
SUPPORT. The invariant `State.Sound` is kept by the shared operations, scheduling, memory accesses and divergence: one lemma for each operation that
gives a state.
-/
set_option linter.unusedSimpArgs false

namespace Sys2Proof.Machine

theorem length_setNth {α : Type} (l : List α) (n : Nat) (v : α) : (setNth l n v).length = l.length := by
  induction l generalizing n with
  | nil => rfl
  | cons x l ih => cases n <;> simp [setNth, ih]

/-- The invariant of a state written out. -/
theorem State.sound_mk {mem : List Host.Cell} {memPoison : List Nat} {memKeys : SMap (BitVec 512)} {dies : List Die} {cores : SMap Core}
    {herds ended : List Herd} {flocks : List Flock} {regions : List Region} {owed : List Owed} {queues : List QState} {paddocks : List Paddock}
    {padrep : List Word64} {owners : SMap Nat} {digests : SMap (BitVec 512)} {committed : CommittedLayout} {agenda : List Event} {out : List Output}
    {cur : Option Issuer} {stalled : Option Bool} {cursor nextUid ticks : Nat} {cqFault : List Nat} :
    (State.mk mem memPoison memKeys dies cores herds ended flocks regions owed queues paddocks padrep owners digests committed agenda out cur
      stalled cursor nextUid ticks cqFault).Sound ↔
    Memory.wf mem = true ∧ dies.length = 4 ∧ paddocks.length = 8 ∧ padrep.length = 8 :=
  ⟨fun x => ⟨x.1, x.2, x.3, x.4⟩, fun x => ⟨x.1, x.2.1, x.2.2.1, x.2.2.2⟩⟩

/-- What a bind in an instruction's meaning answers. -/
theorem bind_ok {α β : Type} {x : Res α} {g : α → Res β} {b : β} (h : (x >>= g) = .ok b) : ∃ a, x = .ok a ∧ g a = .ok b := by
  cases x with
  | error _ => cases h
  | ok a => exact ⟨a, rfl, h⟩

/-- A fold whose step keeps the invariant keeps it. -/
theorem foldl_sound {α : Type} {g : State → α → State} {l : List α} {s : State} (h : s.Sound)
    (hg : ∀ u x, u.Sound → (g u x).Sound) : (l.foldl g s).Sound := by
  induction l generalizing s with
  | nil => exact h
  | cons x l ih => exact ih (hg _ _ h)

/-- As `foldl_sound`, for a fold that carries something beside the state. -/
theorem foldl_pair_sound {α β : Type} {g : State × β → α → State × β} {l : List α} {x : State × β} (h : x.1.Sound)
    (hg : ∀ u y, u.1.Sound → (g u y).1.Sound) : (l.foldl g x).1.Sound := by
  induction l generalizing x with
  | nil => exact h
  | cons y l ih => exact ih (hg _ _ h)

/-! ## Ops.lean -/

theorem State.setDie_sound {s : State} {d : Nat} {x : Die} (hs : s.Sound) : (State.setDie s d x).Sound := by
  unfold State.setDie; grind [State.sound_mk, cases State.Sound, length_setNth, List.length_map, List.length_zipIdx]

theorem State.onDie_sound {s : State} {d : Nat} {g : Die → Die} (hs : s.Sound) : (State.onDie s d g).Sound := by
  unfold State.onDie; grind [State.setDie_sound]

theorem State.setCore_sound {s : State} {c : Nat} {x : Core} (hs : s.Sound) : (State.setCore s c x).Sound := by
  unfold State.setCore; grind [State.sound_mk, cases State.Sound]

theorem State.onCore_sound {s : State} {c : Nat} {g : Core → Core} (hs : s.Sound) : (State.onCore s c g).Sound := by
  unfold State.onCore; grind [State.setCore_sound]

theorem State.mapCores_sound {s : State} {g : Core → Core} (hs : s.Sound) : (State.mapCores s g).Sound := by
  unfold State.mapCores; grind [State.sound_mk, cases State.Sound]

theorem State.mapDies_sound {s : State} {g : Die → Die} (hs : s.Sound) : (State.mapDies s g).Sound := by
  unfold State.mapDies; grind [State.sound_mk, cases State.Sound]

theorem State.setFlock_sound {s : State} {f : Flock} (hs : s.Sound) : (State.setFlock s f).Sound := by
  unfold State.setFlock; grind [State.sound_mk, cases State.Sound]

theorem State.onFlock_sound {s : State} {uid : Nat} {g : Flock → Flock} (hs : s.Sound) : (State.onFlock s uid g).Sound := by
  unfold State.onFlock; grind [State.sound_mk, cases State.Sound]

theorem State.setHerd_sound {s : State} {h : Herd} (hs : s.Sound) : (State.setHerd s h).Sound := by
  unfold State.setHerd; grind [State.sound_mk, cases State.Sound]

theorem State.setRegion_sound {s : State} {r : Region} (hs : s.Sound) : (State.setRegion s r).Sound := by
  unfold State.setRegion; grind [State.sound_mk, cases State.Sound]

theorem State.post_sound {s : State} {e : Event} (hs : s.Sound) : (State.post s e).Sound := by
  unfold State.post; grind [State.sound_mk, cases State.Sound]

theorem State.postOnce_sound {s : State} {e : Event} (hs : s.Sound) : (State.postOnce s e).Sound := by
  unfold State.postOnce; grind [State.post_sound]

theorem State.emit_sound {s : State} {o : Output} (hs : s.Sound) : (State.emit s o).Sound := by
  unfold State.emit; grind [State.sound_mk, cases State.Sound]

theorem State.tell_sound {s : State} {die : Nat} {n : Notice} (hs : s.Sound) : (State.tell s die n).Sound := by
  unfold State.tell; grind [State.emit_sound]

theorem State.bumpUid_sound {s : State} (hs : s.Sound) : (State.bumpUid s).Sound := by
  unfold State.bumpUid; grind [State.sound_mk, cases State.Sound]

theorem State.setPaddock_sound {s : State} {n : Nat} {p : Paddock} (hs : s.Sound) : (State.setPaddock s n p).Sound := by
  unfold State.setPaddock; grind [State.sound_mk, cases State.Sound, length_setNth, List.length_map, List.length_zipIdx]

theorem State.withdraw_sound {s : State} {f : Flock} (hs : s.Sound) : (State.withdraw s f).Sound := by
  unfold State.withdraw; grind [State.onFlock_sound, State.setHerd_sound]

theorem State.takeTrap_sound {s : State} {uid : Nat} {site : TrapSite} {t : Trap} (hs : s.Sound) :
    (State.takeTrap s uid site t).Sound := by
  unfold State.takeTrap; grind [State.setFlock_sound, State.post_sound, State.withdraw_sound]

theorem State.restartBlocks_sound {s : State} {uid : Nat} (hs : s.Sound) : (State.restartBlocks s uid).Sound := by
  unfold State.restartBlocks; grind [State.post_sound]

theorem State.leaveTrap_sound {s : State} {f : Flock} {skip block1 : Bool} (hs : s.Sound) :
    (State.leaveTrap s f skip block1).Sound := by
  unfold State.leaveTrap; grind [State.setFlock_sound, State.restartBlocks_sound]

theorem State.resumeTrap_sound {s : State} {f : Flock} {skip block1 : Bool} (hs : s.Sound) :
    (State.resumeTrap s f skip block1).Sound := by
  unfold State.resumeTrap; grind [State.setFlock_sound, State.restartBlocks_sound, State.leaveTrap_sound]

/-! ## Context.lean -/

theorem State.settleRails_sound {s : State} {die : Nat} (hs : s.Sound) : (State.settleRails s die).Sound := by
  unfold State.settleRails; grind [State.onDie_sound]

theorem State.raiseRails_sound {s : State} (hs : s.Sound) : (State.raiseRails s).Sound := by
  unfold State.raiseRails; grind [foldl_sound, State.onDie_sound]

theorem State.rekeyUnit_sound {s : State} {key : Option (BitVec 512)} {unit : Nat} (hs : s.Sound) :
    (State.rekeyUnit s key unit).Sound := by
  unfold State.rekeyUnit; grind [State.sound_mk, cases State.Sound, Memory.wf_write, Memory.wf_writeNum, Memory.wf_setByte]

theorem State.dropXbar_sound {s : State} {pa n : Nat} (hs : s.Sound) : (State.dropXbar s pa n).Sound := by
  unfold State.dropXbar; grind [State.onDie_sound]

theorem State.putBytes_sound {s : State} {pa : Nat} {bs : List Byte} (hs : s.Sound) : (State.putBytes s pa bs).Sound := by
  unfold State.putBytes; grind [State.sound_mk, cases State.Sound, foldl_sound, length_setNth, List.length_map, List.length_zipIdx,
    Memory.wf_write, Memory.wf_writeNum, Memory.wf_setByte, State.rekeyUnit_sound, State.dropXbar_sound]

theorem State.putNum_sound {s : State} {pa n v : Nat} (hs : s.Sound) : (State.putNum s pa n v).Sound := by
  unfold State.putNum; grind [State.putBytes_sound]

theorem State.setCtx_sound {s : State} {i lo n v : Nat} (hs : s.Sound) : (State.setCtx s i lo n v).Sound := by
  unfold State.setCtx; grind [State.putNum_sound]

/-! ## Ports.lean -/

theorem State.setNet_sound {s : State} {die n : Nat} {x : Net} (hs : s.Sound) : (State.setNet s die n x).Sound := by
  unfold State.setNet; grind [State.onDie_sound]

theorem State.catchUp_sound {s : State} {reader home n : Nat} (hs : s.Sound) : (State.catchUp s reader home n).1.Sound := by
  unfold State.catchUp; grind [State.setNet_sound]

theorem State.onLink_sound {s : State} {die link : Nat} {g : Link → Link} (hs : s.Sound) : (State.onLink s die link g).Sound := by
  unfold State.onLink; grind [State.onDie_sound]

theorem State.transmit_sound {s : State} {die link : Nat} {g : LinkGroup} (hs : s.Sound) : (State.transmit s die link g).Sound
    := by
  unfold State.transmit; grind [State.post_sound]

theorem State.sendGroup_sound {s : State} {die link : Nat} {p : Parcel} (hs : s.Sound) : (State.sendGroup s die link p).Sound
    := by
  unfold State.sendGroup; grind [State.post_sound, State.onLink_sound, State.transmit_sound]

theorem State.sendParcel_sound {s : State} {die link : Nat} {p : Parcel} (hs : s.Sound) : (State.sendParcel s die link p).Sound
    := by
  unfold State.sendParcel; grind [State.onDie_sound, State.onLink_sound, State.sendGroup_sound]

theorem State.pump_sound {y0 : Nat} {y1 : State} (hs : y1.Sound) : (State.pump y0 y1).Sound := by
  induction y0 generalizing y1 with
  | zero => exact hs
  | succ n ih =>
    unfold State.pump
    split
    · exact hs
    · exact ih (State.sendParcel_sound hs)

theorem State.settlePorts_sound {s : State} (hs : s.Sound) : (State.settlePorts s).Sound := by
  unfold State.settlePorts; grind [State.pump_sound]

theorem State.enqueue_sound {s : State} {die : Nat} {p : Parcel} (hs : s.Sound) : (State.enqueue s die p).Sound := by
  unfold State.enqueue; grind [State.onLink_sound]

theorem State.shipAs_sound {s : State} {done : Bool} {cls : MsgClass} {id session src dst : Nat} (hs : s.Sound) :
    (State.shipAs s done cls id session src dst).Sound := by
  unfold State.shipAs; grind [State.settlePorts_sound, State.enqueue_sound]

theorem State.ship_sound {s : State} {cls : MsgClass} {id session src dst : Nat} (hs : s.Sound) :
    (State.ship s cls id session src dst).Sound := by
  unfold State.ship; grind [State.shipAs_sound]

theorem State.shipNew_sound {s : State} {cls : MsgClass} {session src dst : Nat} (hs : s.Sound) :
    (State.shipNew s cls session src dst).Sound := by
  unfold State.shipNew; grind [State.bumpUid_sound, State.shipAs_sound]

theorem State.shipRead_sound {s : State} {session src home : Nat} (hs : s.Sound) : (State.shipRead s session src home).Sound := by
  unfold State.shipRead; grind [State.shipNew_sound]

theorem State.release_sound {s : State} {die id : Nat} (hs : s.Sound) : (State.release s die id).Sound := by
  unfold State.release; grind [State.onDie_sound, State.settlePorts_sound]

theorem State.arrive_sound {s : State} {die link : Nat} {p : Parcel} (hs : s.Sound) : (State.arrive s die link p).Sound := by
  unfold State.arrive; grind [State.onLink_sound, State.settlePorts_sound, State.enqueue_sound, State.release_sound]

theorem State.clearPorts_sound {s : State} (hs : s.Sound) : (State.clearPorts s).Sound := by
  unfold State.clearPorts; grind [State.mapDies_sound]

/-! ## Memory.lean -/

theorem State.rekey_sound {s : State} {loc : Loc} (hs : s.Sound) : (State.rekey s loc).Sound := by
  unfold State.rekey; grind [State.rekeyUnit_sound]

theorem State.dropL1_sound {s : State} {die line : Nat} {presence : BitVec 24} (hs : s.Sound) :
    (State.dropL1 s die line presence).Sound := by
  unfold State.dropL1; grind [State.sound_mk, cases State.Sound]

theorem State.dropStale_sound {s : State} {pa n : Nat} (hs : s.Sound) : (State.dropStale s pa n).Sound := by
  unfold State.dropStale; grind [State.mapCores_sound, State.mapDies_sound]

theorem State.countFill_sound {s : State} {die : Nat} {loc : Loc} (hs : s.Sound) : (State.countFill s die loc).Sound := by
  unfold State.countFill; grind [State.onDie_sound]

theorem State.touchL2_sound {s : State} {ag : Agent} {loc : Loc} {write : Bool} {n : Nat} (hs : s.Sound) :
    (State.touchL2 s ag loc write n).Sound := by
  unfold State.touchL2; grind [State.onDie_sound, State.dropL1_sound, State.countFill_sound]

theorem State.fillRdc_sound {s : State} {ag : Agent} {loc : Loc} {bytes : List Byte} (hs : s.Sound) :
    (State.fillRdc s ag loc bytes).Sound := by
  unfold State.fillRdc; grind [State.onDie_sound, State.countFill_sound]

theorem State.fillL1_sound {s : State} {ag : Agent} {loc : Loc} {line64 : List Byte} {poison : Bool} (hs : s.Sound) :
    (State.fillL1 s ag loc line64 poison).Sound := by
  unfold State.fillL1; grind [State.onDie_sound, State.onCore_sound]

theorem State.touchRdc_sound {s : State} {die : Nat} {l : Line} (hs : s.Sound) : (State.touchRdc s die l).Sound := by
  unfold State.touchRdc; grind [State.onDie_sound]

theorem State.touchXbar_sound {s : State} {ag : Agent} {loc : Loc} (hs : s.Sound) : (State.touchXbar s ag loc).Sound := by
  unfold State.touchXbar; grind [State.onDie_sound]

theorem State.cacheRead_sound {s : State} {ag : Agent} {loc : Loc} {n : Nat} {l1 : Bool} (hs : s.Sound)
    {fin : State × List Byte × Bool} (ok : State.cacheRead s ag loc n l1 = some fin) : fin.1.Sound := by
  unfold State.cacheRead at ok; grind [State.onCore_sound, State.touchL2_sound, State.fillL1_sound, State.touchRdc_sound,
    State.touchXbar_sound]

theorem State.clearPoison_sound {s : State} {pa n : Nat} (hs : s.Sound) : (State.clearPoison s pa n).Sound := by
  unfold State.clearPoison; grind [State.sound_mk, cases State.Sound]

theorem State.performWrite_sound {s : State} {pa : Nat} {bs : List Byte} (hs : s.Sound) : (State.performWrite s pa bs).Sound := by
  unfold State.performWrite; grind [State.sound_mk, cases State.Sound, Memory.wf_write, Memory.wf_writeNum, Memory.wf_setByte,
    State.dropXbar_sound, State.clearPoison_sound]

theorem State.putUnits_sound {s : State} {pa : Nat} {bs : List Byte} {key : Option (BitVec 512)} (hs : s.Sound) :
    (State.putUnits s pa bs key).Sound := by
  unfold State.putUnits; grind [State.sound_mk, cases State.Sound, Memory.wf_write, Memory.wf_writeNum, Memory.wf_setByte,
    State.dropXbar_sound, State.dropStale_sound, State.clearPoison_sound]

theorem State.copyBytes_sound {s : State} {src dst n : Nat} {key : Option (BitVec 512)} (hs : s.Sound) :
    (State.copyBytes s src dst n key).Sound := by
  unfold State.copyBytes; grind [State.sound_mk, cases State.Sound, Memory.wf_write, Memory.wf_writeNum, Memory.wf_setByte,
    State.dropXbar_sound, State.dropStale_sound]

theorem State.storeL1_sound {s : State} {ag : Agent} {pa : Nat} {bs : List Byte} (hs : s.Sound) : (State.storeL1 s ag pa bs).Sound
    := by
  unfold State.storeL1; grind [State.onCore_sound]

theorem State.storeRdc_sound {s : State} {die pa : Nat} {bs : List Byte} {bad : Bool} (hs : s.Sound) :
    (State.storeRdc s die pa bs bad).Sound := by
  unfold State.storeRdc; grind [State.onDie_sound]

theorem State.dropCopies_sound {s : State} {ag : Agent} {pa : Nat} (hs : s.Sound) : (State.dropCopies s ag pa).Sound := by
  unfold State.dropCopies; grind [State.onDie_sound, State.onCore_sound]

theorem State.dropMutable_sound {s : State} {die paddock : Nat} (hs : s.Sound) : (State.dropMutable s die paddock).Sound := by
  unfold State.dropMutable; grind [State.onDie_sound]

theorem State.acquire_sound {s : State} {core session : Nat} {sc : Scope} (hs : s.Sound) : (State.acquire s core session sc).Sound
    := by
  unfold State.acquire; grind [State.onCore_sound, State.dropMutable_sound]

theorem State.fillFrom_sound {s : State} {ag : Agent} {loc : Loc} {rdc l1 : Bool} (hs : s.Sound) :
    (State.fillFrom s ag loc rdc l1).Sound := by
  unfold State.fillFrom; grind [State.touchL2_sound, State.fillRdc_sound, State.fillL1_sound]

theorem State.readThrough_sound {s : State} {ag : Agent} {loc : Loc} {n : Nat} {l1 : Bool} (hs : s.Sound)
    {fin : State × List Byte × Bool} (ok : State.readThrough s ag loc n l1 = some fin) : fin.1.Sound := by
  unfold State.readThrough at ok; grind [State.shipRead_sound, State.cacheRead_sound, State.fillFrom_sound]

theorem State.poolTake_sound {s : State} {h : Nat} (hs : s.Sound) {fin : State × Nat} (ok : State.poolTake s h = some fin)
    : fin.1.Sound := by
  unfold State.poolTake at ok; grind [State.putNum_sound]

theorem State.poolReturn_sound {s : State} {die h frame : Nat} (hs : s.Sound) : (State.poolReturn s die h frame).Sound := by
  unfold State.poolReturn; grind [State.post_sound, State.putNum_sound]

theorem State.tableTouch_sound {s : State} {ag : Agent} {pa : Nat} (hs : s.Sound) : (State.tableTouch s ag pa).Sound := by
  unfold State.tableTouch; grind [State.rekey_sound, → State.readThrough_sound]

theorem State.walkTouch_sound {s : State} {ag : Agent} {va : Nat} {y0 : Nat} {y1 : Nat} (hs : s.Sound) :
    (State.walkTouch s ag va y0 y1).Sound := by
  induction y0 generalizing s y1 <;> grind [State.walkTouch, State.tableTouch_sound]

theorem State.lookup_sound {s : State} {ag : Agent} {va : Nat} (hs : s.Sound) {fin : State × Nat}
    (ok : State.lookup s ag va = .ok fin) : fin.1.Sound := by
  unfold State.lookup at ok; grind [State.onDie_sound, State.onCore_sound, State.walkTouch_sound]

theorem State.keepTlb_sound {s : State} {keep : TlbEntry → Bool} {named : Nat → Bool} (hs : s.Sound) :
    (State.keepTlb s keep named).Sound := by
  unfold State.keepTlb; grind [State.mapCores_sound, State.mapDies_sound]

theorem State.tlbInvalidate_sound {s : State} {pasid : Nat} {va : Option Nat} (hs : s.Sound) :
    (State.tlbInvalidate s pasid va).Sound := by
  unfold State.tlbInvalidate; grind [State.keepTlb_sound]

theorem State.tlbTell_sound {s : State} {session src : Nat} {va : Option Nat} (hs : s.Sound) :
    (State.tlbTell s session src va).Sound := by
  unfold State.tlbTell; grind [foldl_sound, State.shipNew_sound, State.tlbInvalidate_sound]

theorem State.sendRelease_sound {s : State} {session src frame : Nat} (hs : s.Sound) :
    (State.sendRelease s session src frame).Sound := by
  unfold State.sendRelease; grind [State.post_sound, State.bumpUid_sound, State.ship_sound]

theorem State.copyGranule_sound {s : State} {session va pa e : Nat} (hs : s.Sound) {fin : State}
    (ok : State.copyGranule s session va pa e = .ok fin) : fin.Sound := by
  unfold State.copyGranule at ok; grind [State.putNum_sound, State.rekey_sound, State.copyBytes_sound, → State.poolTake_sound,
    State.tlbTell_sound, State.sendRelease_sound]

theorem State.reach_sound {s : State} {loc : Loc} (hs : s.Sound) {fin : State × Loc} (ok : State.reach s loc = .ok fin)
    : fin.1.Sound := by
  unfold State.reach at ok; grind [State.rekey_sound]

theorem State.byEntry_sound {s : State} {session va : Nat} {kind : Access} {pa e : Nat} {again : State → Except Nat Nat}
    (hs : s.Sound) {fin : State × Loc} (ok : State.byEntry s session va kind pa e again = .ok fin) : fin.1.Sound := by
  unfold State.byEntry at ok
  (repeat' split at ok) <;> (first | cases ok | skip) <;> grind [→ State.copyGranule_sound, → State.reach_sound]

theorem State.useEntry_sound {s : State} {session va : Nat} {kind : Access} {e : Nat} (hs : s.Sound) {fin : State × Loc}
    (ok : State.useEntry s session va kind e = .ok fin) : fin.1.Sound := by
  unfold State.useEntry at ok; grind [State.reach_sound, State.byEntry_sound]

theorem State.translate_sound {s : State} {ag : Agent} {va : Nat} {kind : Access} (hs : s.Sound) {fin : State × Loc}
    (ok : State.translate s ag va kind = .ok fin) : fin.1.Sound := by
  unfold State.translate at ok; grind [→ State.lookup_sound, → State.useEntry_sound]

theorem State.checkAccess_sound {s : State} {ag : Agent} {va n : Nat} {kind : Access} (hs : s.Sound) {fin : State × Loc}
    (ok : State.checkAccess s ag va n kind = .ok fin) : fin.1.Sound := by
  unfold State.checkAccess at ok; grind [State.translate_sound]

theorem Trap.stateOf_sound {t : Trap} {s : State} (hs : s.Sound) : (Trap.stateOf t s).Sound := by
  unfold Trap.stateOf; grind [foldl_sound, → State.checkAccess_sound]

/-! ## InFlight.lean -/

theorem State.stopFills_sound {s : State} {l1 rdc : Flock → Bool} (hs : s.Sound) : (State.stopFills s l1 rdc).Sound := by
  unfold State.stopFills; grind [State.sound_mk, cases State.Sound]

theorem State.applyAcquire_sound {s : State} {core session : Nat} {sc : Scope} (hs : s.Sound) :
    (State.applyAcquire s core session sc).Sound := by
  unfold State.applyAcquire; grind [State.acquire_sound, State.stopFills_sound]

theorem State.opProgress_sound {s : State} {uid id : Nat} (hs : s.Sound) : (State.opProgress s uid id).Sound := by
  unfold State.opProgress; grind [State.onFlock_sound, State.post_sound, State.applyAcquire_sound]

/-! ## Unconfirmed.lean -/

theorem State.progressOf_sound {s : State} {uid : Nat} {log : List Issued} (hs : s.Sound) : (State.progressOf s uid log).Sound
    := by
  unfold State.progressOf; grind [foldl_sound, State.opProgress_sound]

/-! ## Operands.lean -/

theorem State.waiting_sound {s : State} {empty : Bool} (hs : s.Sound) : (State.waiting s empty).Sound := by
  unfold State.waiting; grind [State.sound_mk, cases State.Sound]

theorem runScalarAt_sound {site : Trap → TrapSite} {body : State → Flock → Res State} {s : State} (hs : s.Sound) (hb : ∀ v x1 u,
    v.Sound → body v x1 = .ok u → u.Sound) {fin : State} (ok : runScalarAt site body s = .next fin) : fin.Sound := by
  unfold runScalarAt at ok
  split at ok
  · cases ok
  · split at ok <;> cases ok
    · rename_i h; exact hb _ _ _ hs h
    · exact State.waiting_sound hs
    · exact State.takeTrap_sound (Trap.stateOf_sound hs)

theorem runScalar_sound {body : State → Flock → Res State} {s : State} (hs : s.Sound) (hb : ∀ v x1 u,
    v.Sound → body v x1 = .ok u → u.Sound) {fin : State} (ok : runScalar body s = .next fin) : fin.Sound := by
  exact runScalarAt_sound hs hb ok

theorem scalarWrite_sound {d : BitVec 6} {srcs : List (BitVec 6)} {value : Flock → Word64} {s : State} (hs : s.Sound)
    {fin : State} (ok : scalarWrite d srcs value s = .next fin) : fin.Sound := by
  refine runScalar_sound hs (fun v f u hs ok => ?_) ok
  simp only [bind, Except.bind] at ok
  grind [State.setFlock_sound, runScalar_sound]

theorem scalarTest_sound {zd : BitVec 3} {srcs : List (BitVec 6)} {value : Flock → Bool} {s : State} (hs : s.Sound) {fin : State}
    (ok : scalarTest zd srcs value s = .next fin) : fin.Sound := by
  refine runScalar_sound hs (fun v f u hs ok => ?_) ok
  simp only [bind, Except.bind] at ok
  grind [State.setFlock_sound, runScalar_sound]

theorem State.laneTrap_sound {s : State} {f : Flock} {p : Path} {site : TrapSite} {t : Trap} (hs : s.Sound) :
    (State.laneTrap s f p site t).Sound := by
  unfold State.laneTrap
  dsimp only
  split
  · exact State.takeTrap_sound (State.onFlock_sound (Trap.stateOf_sound hs))
  · exact State.takeTrap_sound (Trap.stateOf_sound hs)

theorem State.issueUnsure_sound {s : State} {k : Holding} {body : State → Flock → Path → Res State} {f : Flock} {p : Path}
    {u : Guess} (hs : s.Sound) (hb : ∀ v x1 x2 u, v.Sound → body v x1 x2 = .ok u → u.Sound) :
    (State.issueUnsure s k body f p u).Sound := by
  unfold State.issueUnsure
  split
  · exact State.waiting_sound hs
  · split
    · exact State.waiting_sound hs
    · exact State.setFlock_sound (Trap.stateOf_sound hs)
    · rename_i h
      split
      · exact State.setFlock_sound hs
      · split
        · exact State.setFlock_sound hs
        · exact State.onFlock_sound (hb _ _ _ _ hs h)

theorem State.issueAgain_sound {s : State} {site : Nat → TrapSite} {body : State → Flock → Path → Res State} {f : Flock}
    {p : Path} {r : Redo} (hs : s.Sound) (hb : ∀ v x1 x2 u, v.Sound → body v x1 x2 = .ok u → u.Sound) :
    (State.issueAgain s site body f p r).Sound := by
  unfold State.issueAgain; grind [State.setFlock_sound, State.onFlock_sound, State.progressOf_sound, State.waiting_sound,
    State.laneTrap_sound]

theorem runLaneAs_sound {k : Holding} {site : Nat → TrapSite} {body : State → Flock → Path → Res State} {s : State} (hs : s.Sound)
    (hb : ∀ v x1 x2 u, v.Sound → body v x1 x2 = .ok u → u.Sound) {fin : State} (ok : runLaneAs k site body s = .next fin)
    : fin.Sound := by
  unfold runLaneAs at ok; grind [State.waiting_sound, State.laneTrap_sound, State.issueUnsure_sound, State.issueAgain_sound]

theorem runLaneAt_sound {site : Nat → TrapSite} {body : State → Flock → Path → Res State} {s : State} (hs : s.Sound)
    (hb : ∀ v x1 x2 u, v.Sound → body v x1 x2 = .ok u → u.Sound) {fin : State} (ok : runLaneAt site body s = .next fin)
    : fin.Sound := by
  refine runLaneAs_sound hs (fun v f p u hs ok => ?_) ok
  (try simp only [bind, Except.bind, pure, Except.pure] at ok)
  grind [runLaneAs_sound, traps, waits, waitsEmpty]

theorem runHeld_sound {k : Holding} {body : State → Flock → Path → Res State} {s : State} (hs : s.Sound) (hb : ∀ v x1 x2 u,
    v.Sound → body v x1 x2 = .ok u → u.Sound) {fin : State} (ok : runHeld k body s = .next fin) : fin.Sound := by
  refine runLaneAs_sound hs (fun v f p u hs ok => ?_) ok
  (try simp only [bind, Except.bind, pure, Except.pure] at ok)
  grind [runLaneAs_sound, traps, waits, waitsEmpty]

theorem runLane_sound {body : State → Flock → Path → Res State} {s : State} (hs : s.Sound) (hb : ∀ v x1 x2 u,
    v.Sound → body v x1 x2 = .ok u → u.Sound) {fin : State} (ok : runLane body s = .next fin) : fin.Sound := by
  refine runHeld_sound hs (fun v f p u hs ok => ?_) ok
  (try simp only [bind, Except.bind, pure, Except.pure] at ok)
  grind [runHeld_sound, traps, waits, waitsEmpty]

theorem runConfirmed_sound {body : State → Flock → Path → Res State} {s : State} (hs : s.Sound) (hb : ∀ v x1 x2 u,
    v.Sound → body v x1 x2 = .ok u → u.Sound) {fin : State} (ok : runConfirmed body s = .next fin) : fin.Sound := by
  refine runLane_sound hs (fun v f p u hs ok => ?_) ok
  simp only [bind, Except.bind] at ok
  grind [runLane_sound]

theorem laneCompute_sound {w : LaneWord} {srcs : List Src} {dsts : List Dst} {effect : State → Flock → List Nat → Flock}
    {s : State} (hs : s.Sound) {fin : State} (ok : laneCompute w srcs dsts effect s = .next fin) : fin.Sound := by
  refine runLane_sound hs (fun v f p u hs ok => ?_) ok
  simp only [bind, Except.bind] at ok
  grind [State.setFlock_sound, runLane_sound]

theorem crossCompute_sound {w : LaneWord} {srcs : List Src} {dsts : List Dst} {effect : State → Flock → List Nat → Flock}
    {s : State} (hs : s.Sound) {fin : State} (ok : crossCompute w srcs dsts effect s = .next fin) : fin.Sound := by
  refine runConfirmed_sound hs (fun v f p u hs ok => ?_) ok
  simp only [bind, Except.bind] at ok
  grind [State.setFlock_sound, runConfirmed_sound]

/-! ## Access.lean -/

theorem State.sendPacket_sound {s : State} {src session : Nat} {loc : Loc} {acts : List MemAct} {note : Option (Nat × Nat)}
    (hs : s.Sound) : (State.sendPacket s src session loc acts note).Sound := by
  unfold State.sendPacket; grind [State.onDie_sound, State.post_sound, State.bumpUid_sound]

theorem State.checkLanes_sound {s : State} {ag : Agent} {kind : Access} {n : Nat} {y0 : List (Nat × Nat)} (hs : s.Sound)
    {fin : State × List (Nat × Loc)} (ok : State.checkLanes s ag kind n y0 = .ok fin) : fin.1.Sound := by
  induction y0 generalizing s fin <;> simp only [State.checkLanes, bind, Except.bind, pure, Except.pure] at ok <;>
    grind [→ State.checkAccess_sound]

theorem State.sendRead_sound {s : State} {f : Flock} {op : Nat} {acq : Bool} {home : Nat} (hs : s.Sound) :
    (State.sendRead s f op acq home).Sound := by
  unfold State.sendRead; grind [State.post_sound, State.bumpUid_sound, State.ship_sound]

theorem State.startOp_sound {s : State} {uid lidx : Nat} {counter : Option Counter} {pieces : List Piece} {packets : Nat}
    {acq : Option Scope} {homes : List Nat} (hs : s.Sound) : (State.startOp s uid lidx counter pieces packets acq homes).Sound
    := by
  unfold State.startOp; grind [foldl_sound, State.setFlock_sound, State.opProgress_sound, State.sendRead_sound]

theorem State.beginOp_sound {s : State} {uid lidx : Nat} {counter : Option Counter} {pieces : List Piece} {packets : Nat}
    {acq : Option Scope} (hs : s.Sound) : (State.beginOp s uid lidx counter pieces packets acq).Sound := by
  unfold State.beginOp; grind [State.startOp_sound]

theorem State.finishOp_sound {s : State} {uid id : Nat} {again : Event} (hs : s.Sound) : (State.finishOp s uid id again).Sound
    := by
  unfold State.finishOp; grind [State.setFlock_sound, State.post_sound]

theorem State.addRequests_sound {s : State} {core session n : Nat} (hs : s.Sound) : (State.addRequests s core session n).Sound
    := by
  unfold State.addRequests; grind [State.setCore_sound, State.post_sound]

theorem State.chargeRequests_sound {s : State} {core session n : Nat} (hs : s.Sound) {fin : State}
    (ok : State.chargeRequests s core session n = some fin) : fin.Sound := by
  unfold State.chargeRequests at ok; grind [State.addRequests_sound]

theorem State.noteRequests_sound {s : State} {ag : Agent} {n : Nat} (hs : s.Sound) : (State.noteRequests s ag n).Sound := by
  unfold State.noteRequests; grind [State.addRequests_sound]

theorem State.countRequests_sound {s : State} {f : Flock} {locs : List (Nat × Loc)} (hs : s.Sound) {fin : State}
    (ok : State.countRequests s f locs = some fin) : fin.Sound := by
  unfold State.countRequests at ok; grind [State.chargeRequests_sound]

theorem State.readPart_sound {s : State} {ag : Agent} {wide : Bool} {x : LoadPart} (hs : s.Sound) :
    (State.readPart s ag wide x).1.Sound := by
  unfold State.readPart; grind [→ State.cacheRead_sound]

theorem State.readParts_sound {s : State} {ag : Agent} {wide : Bool} {y0 : List LoadPart} (hs : s.Sound) :
    (State.readParts s ag wide y0).1.Sound := by
  induction y0 generalizing s <;> grind [State.readParts, State.readPart_sound]

theorem State.load_sound {s : State} {f : Flock} {lidx : Nat} {parts : List LoadPart} {acq : Option Scope} (hs : s.Sound)
    {fin : State} (ok : State.load s f lidx parts acq = .ok fin) : fin.Sound := by
  unfold State.load at ok; simp only [bind, Except.bind] at ok
  (repeat' split at ok) <;> (first | cases ok | skip) <;> grind [State.beginOp_sound, → State.countRequests_sound,
      State.readParts_sound]

theorem State.storePart_sound {s : State} {ag : Agent} {loc : Loc} {bs : List Byte} (hs : s.Sound) :
    (State.storePart s ag loc bs).Sound := by
  unfold State.storePart; grind [State.touchL2_sound, State.performWrite_sound, State.storeL1_sound, State.storeRdc_sound,
    State.sendPacket_sound]

theorem State.storeParts_sound {s : State} {ag : Agent} {y0 : List (Loc × List Byte)} (hs : s.Sound) :
    (State.storeParts s ag y0).Sound := by
  induction y0 generalizing s <;> grind [State.storeParts, State.storePart_sound]

theorem State.store_sound {s : State} {f : Flock} {parts : List (Loc × List Byte)} {rel : Option Scope} (hs : s.Sound)
    {fin : State} (ok : State.store s f parts rel = .ok fin) : fin.Sound := by
  unfold State.store at ok; simp only [bind, Except.bind] at ok
  (repeat' split at ok) <;> (first | cases ok | skip) <;> grind [→ State.countRequests_sound, State.storeParts_sound]

theorem State.performAtom_sound {s : State} {op : AtomOp} {n pa b cmp : Nat} (hs : s.Sound) :
    (State.performAtom s op n pa b cmp).1.Sound := by
  unfold State.performAtom; grind [State.performWrite_sound]

theorem State.atomPart_sound {s : State} {ag : Agent} {op : AtomOp} {n : Nat} {ret : Option (Nat × Nat)} {g : Nat}
    {dest : Nat → Piece} {r : AtomReq} (hs : s.Sound) : (State.atomPart s ag op n ret g dest r).1.Sound := by
  unfold State.atomPart; grind [State.touchL2_sound, State.dropCopies_sound, State.sendPacket_sound, State.performAtom_sound]

theorem State.atomParts_sound {s : State} {ag : Agent} {op : AtomOp} {n : Nat} {ret : Option (Nat × Nat)} {dest : Nat → Piece}
    {y0 : Nat} {y1 : List AtomReq} (hs : s.Sound) : (State.atomParts s ag op n ret dest y0 y1).1.Sound := by
  induction y1 generalizing s y0 <;> grind [State.atomParts, State.atomPart_sound]

theorem State.atomic_sound {s : State} {f : Flock} {lidx : Nat} {op : AtomOp} {n : Nat} {ord : Order} {dest : Nat → Piece}
    {xs : List (Nat × Loc × Nat × Nat)} (hs : s.Sound) {fin : State} (ok : State.atomic s f lidx op n ord dest xs = .ok fin)
    : fin.Sound := by
  unfold State.atomic at ok; simp only [bind, Except.bind] at ok
  (repeat' split at ok) <;> (first | cases ok | skip) <;> grind [State.beginOp_sound, → State.countRequests_sound,
      State.atomParts_sound]

theorem State.reduce_sound {s : State} {f : Flock} {op : AtomOp} {n : Nat} {ord : Order} {xs : List (Nat × Loc × Nat × Nat)}
    (hs : s.Sound) {fin : State} (ok : State.reduce s f op n ord xs = .ok fin) : fin.Sound := by
  unfold State.reduce at ok; simp only [bind, Except.bind] at ok
  (repeat' split at ok) <;> (first | cases ok | skip) <;> grind [State.tell_sound, → State.countRequests_sound,
      State.atomParts_sound]

theorem State.spadWrite_sound {s : State} {herd off : Nat} {bs : List Byte} (hs : s.Sound) : (State.spadWrite s herd off bs).Sound
    := by
  unfold State.spadWrite; grind [State.setHerd_sound]

/-! ## Schedule.lean -/

theorem State.tick_sound {s : State} (hs : s.Sound) : (State.tick s).Sound := by
  unfold State.tick; grind [State.sound_mk, cases State.Sound, length_setNth, List.length_map, List.length_zipIdx]

theorem State.fetch_sound {s : State} {f : Flock} {va n : Nat} (hs : s.Sound) {fin : State × List Byte}
    (ok : State.fetch s f va n = .ok fin) : fin.1.Sound := by
  unfold State.fetch at ok
  (repeat' split at ok) <;> (first | cases ok | skip) <;> grind [→ State.readThrough_sound, → State.translate_sound]

theorem State.fetchItem_sound {s : State} {f : Flock} {va n : Nat} (hs : s.Sound) {fin : State × List Byte}
    (ok : State.fetchItem s f va n = .ok fin) : fin.1.Sound := by
  unfold State.fetchItem at ok; grind [→ State.fetch_sound]

theorem State.fetchScalar_sound {s : State} {f : Flock} (hs : s.Sound) {fin : State × Instr}
    (ok : State.fetchScalar s f = .ok fin) : fin.1.Sound := by
  unfold State.fetchScalar at ok; grind [→ State.fetchItem_sound]

theorem State.fetchLaneAt_sound {s : State} {f : Flock} {index : Nat} (hs : s.Sound) {fin : State × Instr}
    (ok : State.fetchLaneAt s f index = .ok fin) : fin.1.Sound := by
  unfold State.fetchLaneAt at ok; grind [→ State.fetchItem_sound]

theorem State.fetchLane_sound {s : State} {f : Flock} {p : Path} (hs : s.Sound) {fin : State × Instr}
    (ok : State.fetchLane s f p = .ok fin) : fin.1.Sound := by
  unfold State.fetchLane at ok; grind [→ State.fetchItem_sound, → State.fetchLaneAt_sound]

theorem State.movePointer_sound {s : State} {core dp : Nat} (hs : s.Sound) : (State.movePointer s core dp).Sound := by
  unfold State.movePointer; grind [State.onCore_sound, State.postOnce_sound]

theorem State.fetchNext_sound {s : State} {x : Issuer} (hs : s.Sound) : (State.fetchNext s x).1.Sound := by
  unfold State.fetchNext; (repeat' split) <;> grind [State.setFlock_sound, State.takeTrap_sound, State.waiting_sound,
    State.laneTrap_sound, → State.fetchScalar_sound, → State.fetchLane_sound]

/-! ## Diverge.lean -/

theorem State.learn_sound {s : State} {f : Flock} {index : Nat} {a t : LaneMask} (hs : s.Sound) :
    (State.learn s f index a t).Sound := by
  unfold State.learn; grind [State.onCore_sound, State.onFlock_sound]

theorem State.retireBlock_sound {s : State} {f : Flock} (hs : s.Sound) : (State.retireBlock s f).Sound := by
  unfold State.retireBlock; grind [State.setFlock_sound, State.post_sound]

theorem State.settleFlow_sound {s : State} {f : Flock} (hs : s.Sound) : (State.settleFlow s f).Sound := by
  unfold State.settleFlow; grind [State.setFlock_sound, State.retireBlock_sound]

theorem State.resumeCallers_sound {s : State} {callers : List (Nat × Nat)} (hs : s.Sound) : (State.resumeCallers s callers).Sound
    := by
  unfold State.resumeCallers; grind [foldl_sound, State.settleFlow_sound]

theorem State.returnLanes_sound {s : State} {uid : Nat} {ls : LaneMask} {back : Bool} (hs : s.Sound) :
    (State.returnLanes s uid ls back).Sound := by
  unfold State.returnLanes; grind [foldl_sound, State.onFlock_sound, State.resumeCallers_sound]

end Sys2Proof.Machine
end

