-- ==== Sys2Proof/Laws/Rest.lean ====
section
/-!
SUPPORT. What the memory system leaves alone: a translation, a fill, a write or a packet sent changes memory with its keys, dies, cores, the agenda
and the supply of fresh uids, and nothing else.
-/
set_option linter.unusedSimpArgs false

namespace Sys2Proof.Machine

/-- The state without what the memory system changes: memory, dies, cores, the agenda and fresh uids. -/
def State.rest (s : State) : State :=
  { s with mem := [], memPoison := [], memKeys := [], dies := [], cores := [], agenda := [], nextUid := 0 }

theorem State.rest_herds {s t : State} (h : t.rest = s.rest) : t.herds = s.herds := show t.rest.herds = s.rest.herds from h ▸ rfl
theorem State.rest_ended {s t : State} (h : t.rest = s.rest) : t.ended = s.ended := show t.rest.ended = s.rest.ended from h ▸ rfl
theorem State.rest_flocks {s t : State} (h : t.rest = s.rest) : t.flocks = s.flocks := show t.rest.flocks = s.rest.flocks from h ▸ rfl
theorem State.rest_regions {s t : State} (h : t.rest = s.rest) : t.regions = s.regions := show t.rest.regions = s.rest.regions from h ▸ rfl
theorem State.rest_owed {s t : State} (h : t.rest = s.rest) : t.owed = s.owed := show t.rest.owed = s.rest.owed from h ▸ rfl
theorem State.rest_queues {s t : State} (h : t.rest = s.rest) : t.queues = s.queues := show t.rest.queues = s.rest.queues from h ▸ rfl
theorem State.rest_paddocks {s t : State} (h : t.rest = s.rest) : t.paddocks = s.paddocks := show t.rest.paddocks = s.rest.paddocks from h ▸ rfl
theorem State.rest_padrep {s t : State} (h : t.rest = s.rest) : t.padrep = s.padrep := show t.rest.padrep = s.rest.padrep from h ▸ rfl
theorem State.rest_owners {s t : State} (h : t.rest = s.rest) : t.owners = s.owners := show t.rest.owners = s.rest.owners from h ▸ rfl
theorem State.rest_digests {s t : State} (h : t.rest = s.rest) : t.digests = s.digests := show t.rest.digests = s.rest.digests from h ▸ rfl
theorem State.rest_committed {s t : State} (h : t.rest = s.rest) : t.committed = s.committed := show t.rest.committed = s.rest.committed from h ▸ rfl
theorem State.rest_out {s t : State} (h : t.rest = s.rest) : t.out = s.out := show t.rest.out = s.rest.out from h ▸ rfl
theorem State.rest_cur {s t : State} (h : t.rest = s.rest) : t.cur = s.cur := show t.rest.cur = s.rest.cur from h ▸ rfl
theorem State.rest_stalled {s t : State} (h : t.rest = s.rest) : t.stalled = s.stalled := show t.rest.stalled = s.rest.stalled from h ▸ rfl
theorem State.rest_cursor {s t : State} (h : t.rest = s.rest) : t.cursor = s.cursor := show t.rest.cursor = s.rest.cursor from h ▸ rfl
theorem State.rest_ticks {s t : State} (h : t.rest = s.rest) : t.ticks = s.ticks := show t.rest.ticks = s.rest.ticks from h ▸ rfl
theorem State.rest_cqFault {s t : State} (h : t.rest = s.rest) : t.cqFault = s.cqFault := show t.rest.cqFault = s.rest.cqFault from h ▸ rfl

/-- A fold whose step leaves the rest alone leaves it alone. -/
theorem foldl_rest {α : Type} {g : State → α → State} {l : List α} {s : State} (hg : ∀ u x, (g u x).rest = u.rest) :
    (l.foldl g s).rest = s.rest := by
  induction l generalizing s with
  | nil => rfl
  | cons x l ih => exact ih.trans (hg _ _)

theorem State.setDie_rest {s : State} {d : Nat} {x : Die} : (State.setDie s d x).rest = s.rest := by
  rfl

theorem State.onDie_rest {s : State} {d : Nat} {g : Die → Die} : (State.onDie s d g).rest = s.rest := by
  rfl

theorem State.setCore_rest {s : State} {c : Nat} {x : Core} : (State.setCore s c x).rest = s.rest := by
  rfl

theorem State.onCore_rest {s : State} {c : Nat} {g : Core → Core} : (State.onCore s c g).rest = s.rest := by
  rfl

theorem State.mapCores_rest {s : State} {g : Core → Core} : (State.mapCores s g).rest = s.rest := by
  rfl

theorem State.mapDies_rest {s : State} {g : Die → Die} : (State.mapDies s g).rest = s.rest := by
  rfl

theorem State.post_rest {s : State} {e : Event} : (State.post s e).rest = s.rest := by
  rfl

theorem State.postOnce_rest {s : State} {e : Event} : (State.postOnce s e).rest = s.rest := by
  unfold State.postOnce; grind [State.post_rest]

theorem State.bumpUid_rest {s : State} : (State.bumpUid s).rest = s.rest := by
  rfl

theorem State.settleRails_rest {s : State} {die : Nat} : (State.settleRails s die).rest = s.rest := by
  rfl

theorem State.raiseRails_rest {s : State} : (State.raiseRails s).rest = s.rest := by
  rfl

theorem State.rekeyUnit_rest {s : State} {key : Option (BitVec 512)} {unit : Nat} : (State.rekeyUnit s key unit).rest = s.rest
    := by
  unfold State.rekeyUnit; grind [State.rest, foldl_rest]

theorem State.dropXbar_rest {s : State} {pa n : Nat} : (State.dropXbar s pa n).rest = s.rest := by
  rfl

theorem State.putBytes_rest {s : State} {pa : Nat} {bs : List Byte} : (State.putBytes s pa bs).rest = s.rest := by
  unfold State.putBytes; grind [State.rest, foldl_rest, State.rekeyUnit_rest, State.dropXbar_rest]

theorem State.putNum_rest {s : State} {pa n v : Nat} : (State.putNum s pa n v).rest = s.rest := by
  unfold State.putNum; grind [State.putBytes_rest]

theorem State.setCtx_rest {s : State} {i lo n v : Nat} : (State.setCtx s i lo n v).rest = s.rest := by
  unfold State.setCtx; grind [State.putNum_rest]

theorem State.setNet_rest {s : State} {die n : Nat} {x : Net} : (State.setNet s die n x).rest = s.rest := by
  rfl

theorem State.catchUp_rest {s : State} {reader home n : Nat} : (State.catchUp s reader home n).1.rest = s.rest := by
  unfold State.catchUp; grind [State.setNet_rest]

theorem State.onLink_rest {s : State} {die link : Nat} {g : Link → Link} : (State.onLink s die link g).rest = s.rest := by
  rfl

theorem State.transmit_rest {s : State} {die link : Nat} {g : LinkGroup} : (State.transmit s die link g).rest = s.rest := by
  rfl

theorem State.sendGroup_rest {s : State} {die link : Nat} {p : Parcel} : (State.sendGroup s die link p).rest = s.rest := by
  rfl

theorem State.sendParcel_rest {s : State} {die link : Nat} {p : Parcel} : (State.sendParcel s die link p).rest = s.rest := by
  rfl

theorem State.pump_rest {y0 : Nat} {y1 : State} : (State.pump y0 y1).rest = y1.rest := by
  induction y0 generalizing y1 with
  | zero => rfl
  | succ n ih =>
    unfold State.pump
    split
    · rfl
    · exact ih.trans State.sendParcel_rest

theorem State.settlePorts_rest {s : State} : (State.settlePorts s).rest = s.rest := by
  unfold State.settlePorts; grind [State.pump_rest]

theorem State.enqueue_rest {s : State} {die : Nat} {p : Parcel} : (State.enqueue s die p).rest = s.rest := by
  unfold State.enqueue; grind [State.onLink_rest]

theorem State.shipAs_rest {s : State} {done : Bool} {cls : MsgClass} {id session src dst : Nat} :
    (State.shipAs s done cls id session src dst).rest = s.rest := by
  unfold State.shipAs; grind [State.settlePorts_rest, State.enqueue_rest]

theorem State.ship_rest {s : State} {cls : MsgClass} {id session src dst : Nat} :
    (State.ship s cls id session src dst).rest = s.rest := by
  unfold State.ship; grind [State.shipAs_rest]

theorem State.shipNew_rest {s : State} {cls : MsgClass} {session src dst : Nat} :
    (State.shipNew s cls session src dst).rest = s.rest := by
  unfold State.shipNew; grind [State.bumpUid_rest, State.shipAs_rest]

theorem State.shipRead_rest {s : State} {session src home : Nat} : (State.shipRead s session src home).rest = s.rest := by
  unfold State.shipRead; grind [State.shipNew_rest]

theorem State.release_rest {s : State} {die id : Nat} : (State.release s die id).rest = s.rest := by
  unfold State.release; grind [State.onDie_rest, State.settlePorts_rest]

theorem State.arrive_rest {s : State} {die link : Nat} {p : Parcel} : (State.arrive s die link p).rest = s.rest := by
  unfold State.arrive; grind [State.onLink_rest, State.settlePorts_rest, State.enqueue_rest, State.release_rest]

theorem State.clearPorts_rest {s : State} : (State.clearPorts s).rest = s.rest := by
  rfl

theorem State.rekey_rest {s : State} {loc : Loc} : (State.rekey s loc).rest = s.rest := by
  unfold State.rekey; grind [State.rekeyUnit_rest]

theorem State.dropL1_rest {s : State} {die line : Nat} {presence : BitVec 24} : (State.dropL1 s die line presence).rest = s.rest
    := by
  rfl

theorem State.dropStale_rest {s : State} {pa n : Nat} : (State.dropStale s pa n).rest = s.rest := by
  rfl

theorem State.countFill_rest {s : State} {die : Nat} {loc : Loc} : (State.countFill s die loc).rest = s.rest := by
  unfold State.countFill; grind [State.onDie_rest]

theorem State.touchL2_rest {s : State} {ag : Agent} {loc : Loc} {write : Bool} {n : Nat} :
    (State.touchL2 s ag loc write n).rest = s.rest := by
  unfold State.touchL2; grind [State.onDie_rest, State.dropL1_rest, State.countFill_rest]

theorem State.fillRdc_rest {s : State} {ag : Agent} {loc : Loc} {bytes : List Byte} : (State.fillRdc s ag loc bytes).rest = s.rest
    := by
  unfold State.fillRdc; grind [State.onDie_rest, State.countFill_rest]

theorem State.fillL1_rest {s : State} {ag : Agent} {loc : Loc} {line64 : List Byte} {poison : Bool} :
    (State.fillL1 s ag loc line64 poison).rest = s.rest := by
  unfold State.fillL1; grind [State.onDie_rest, State.onCore_rest]

theorem State.touchRdc_rest {s : State} {die : Nat} {l : Line} : (State.touchRdc s die l).rest = s.rest := by
  rfl

theorem State.touchXbar_rest {s : State} {ag : Agent} {loc : Loc} : (State.touchXbar s ag loc).rest = s.rest := by
  unfold State.touchXbar; grind [State.onDie_rest]

theorem State.cacheRead_rest {s : State} {ag : Agent} {loc : Loc} {n : Nat} {l1 : Bool} {fin : State × List Byte × Bool}
    (ok : State.cacheRead s ag loc n l1 = some fin) : fin.1.rest = s.rest := by
  unfold State.cacheRead at ok; grind [State.onCore_rest, State.touchL2_rest, State.fillL1_rest, State.touchRdc_rest,
    State.touchXbar_rest]

theorem State.clearPoison_rest {s : State} {pa n : Nat} : (State.clearPoison s pa n).rest = s.rest := by
  rfl

theorem State.performWrite_rest {s : State} {pa : Nat} {bs : List Byte} : (State.performWrite s pa bs).rest = s.rest := by
  unfold State.performWrite; grind [State.rest, foldl_rest, State.dropXbar_rest, State.clearPoison_rest]

theorem State.putUnits_rest {s : State} {pa : Nat} {bs : List Byte} {key : Option (BitVec 512)} :
    (State.putUnits s pa bs key).rest = s.rest := by
  rfl

theorem State.copyBytes_rest {s : State} {src dst n : Nat} {key : Option (BitVec 512)} :
    (State.copyBytes s src dst n key).rest = s.rest := by
  rfl

theorem State.storeL1_rest {s : State} {ag : Agent} {pa : Nat} {bs : List Byte} : (State.storeL1 s ag pa bs).rest = s.rest := by
  unfold State.storeL1; grind [State.onCore_rest]

theorem State.storeRdc_rest {s : State} {die pa : Nat} {bs : List Byte} {bad : Bool} :
    (State.storeRdc s die pa bs bad).rest = s.rest := by
  rfl

theorem State.dropCopies_rest {s : State} {ag : Agent} {pa : Nat} : (State.dropCopies s ag pa).rest = s.rest := by
  unfold State.dropCopies; grind [State.onDie_rest, State.onCore_rest]

theorem State.dropMutable_rest {s : State} {die paddock : Nat} : (State.dropMutable s die paddock).rest = s.rest := by
  rfl

theorem State.acquire_rest {s : State} {core session : Nat} {sc : Scope} : (State.acquire s core session sc).rest = s.rest := by
  unfold State.acquire; grind [State.onCore_rest, State.dropMutable_rest]

theorem State.fillFrom_rest {s : State} {ag : Agent} {loc : Loc} {rdc l1 : Bool} : (State.fillFrom s ag loc rdc l1).rest = s.rest
    := by
  unfold State.fillFrom; grind [State.touchL2_rest, State.fillRdc_rest, State.fillL1_rest]

theorem State.readThrough_rest {s : State} {ag : Agent} {loc : Loc} {n : Nat} {l1 : Bool} {fin : State × List Byte × Bool}
    (ok : State.readThrough s ag loc n l1 = some fin) : fin.1.rest = s.rest := by
  unfold State.readThrough at ok; grind [State.shipRead_rest, State.cacheRead_rest, State.fillFrom_rest]

theorem State.poolTake_rest {s : State} {h : Nat} {fin : State × Nat} (ok : State.poolTake s h = some fin) : fin.1.rest = s.rest
    := by
  unfold State.poolTake at ok; grind [State.putNum_rest]

theorem State.poolReturn_rest {s : State} {die h frame : Nat} : (State.poolReturn s die h frame).rest = s.rest := by
  unfold State.poolReturn; grind [State.post_rest, State.putNum_rest]

theorem State.tableTouch_rest {s : State} {ag : Agent} {pa : Nat} : (State.tableTouch s ag pa).rest = s.rest := by
  unfold State.tableTouch; grind [foldl_rest, State.rekey_rest, → State.readThrough_rest]

theorem State.walkTouch_rest {s : State} {ag : Agent} {va : Nat} {y0 : Nat} {y1 : Nat} :
    (State.walkTouch s ag va y0 y1).rest = s.rest := by
  induction y0 generalizing s y1 <;> grind [State.walkTouch, State.tableTouch_rest]

theorem State.lookup_rest {s : State} {ag : Agent} {va : Nat} {fin : State × Nat} (ok : State.lookup s ag va = .ok fin)
    : fin.1.rest = s.rest := by
  unfold State.lookup at ok; grind [State.onDie_rest, State.onCore_rest, State.walkTouch_rest]

theorem State.keepTlb_rest {s : State} {keep : TlbEntry → Bool} {named : Nat → Bool} : (State.keepTlb s keep named).rest = s.rest
    := by
  rfl

theorem State.tlbInvalidate_rest {s : State} {pasid : Nat} {va : Option Nat} : (State.tlbInvalidate s pasid va).rest = s.rest
    := by
  rfl

theorem State.tlbTell_rest {s : State} {session src : Nat} {va : Option Nat} : (State.tlbTell s session src va).rest = s.rest
    := by
  unfold State.tlbTell; grind [foldl_rest, State.shipNew_rest, State.tlbInvalidate_rest]

theorem State.sendRelease_rest {s : State} {session src frame : Nat} : (State.sendRelease s session src frame).rest = s.rest := by
  unfold State.sendRelease; grind [State.post_rest, State.bumpUid_rest, State.ship_rest]

theorem State.copyGranule_rest {s : State} {session va pa e : Nat} {fin : State}
    (ok : State.copyGranule s session va pa e = .ok fin) : fin.rest = s.rest := by
  unfold State.copyGranule at ok; grind [foldl_rest, State.putNum_rest, State.rekey_rest, State.copyBytes_rest,
    → State.poolTake_rest, State.tlbTell_rest, State.sendRelease_rest]

theorem State.reach_rest {s : State} {loc : Loc} {fin : State × Loc} (ok : State.reach s loc = .ok fin) : fin.1.rest = s.rest
    := by
  unfold State.reach at ok; grind [State.rekey_rest]

theorem State.byEntry_rest {s : State} {session va : Nat} {kind : Access} {pa e : Nat} {again : State → Except Nat Nat}
    {fin : State × Loc} (ok : State.byEntry s session va kind pa e again = .ok fin) : fin.1.rest = s.rest := by
  unfold State.byEntry at ok
  (repeat' split at ok) <;> (first | cases ok | skip) <;> grind [State.rest, foldl_rest, → State.copyGranule_rest,
      → State.reach_rest]

theorem State.useEntry_rest {s : State} {session va : Nat} {kind : Access} {e : Nat} {fin : State × Loc}
    (ok : State.useEntry s session va kind e = .ok fin) : fin.1.rest = s.rest := by
  unfold State.useEntry at ok; grind [State.reach_rest, State.byEntry_rest]

theorem State.translate_rest {s : State} {ag : Agent} {va : Nat} {kind : Access} {fin : State × Loc}
    (ok : State.translate s ag va kind = .ok fin) : fin.1.rest = s.rest := by
  unfold State.translate at ok; grind [foldl_rest, → State.lookup_rest, → State.useEntry_rest]

theorem State.checkAccess_rest {s : State} {ag : Agent} {va n : Nat} {kind : Access} {fin : State × Loc}
    (ok : State.checkAccess s ag va n kind = .ok fin) : fin.1.rest = s.rest := by
  unfold State.checkAccess at ok; grind [State.translate_rest]

theorem Trap.stateOf_rest {t : Trap} {s : State} : (Trap.stateOf t s).rest = s.rest := by
  unfold Trap.stateOf; grind [foldl_rest, → State.checkAccess_rest]

theorem State.sendPacket_rest {s : State} {src session : Nat} {loc : Loc} {acts : List MemAct} {note : Option (Nat × Nat)} :
    (State.sendPacket s src session loc acts note).rest = s.rest := by
  rfl

theorem State.checkLanes_rest {s : State} {ag : Agent} {kind : Access} {n : Nat} {y0 : List (Nat × Nat)}
    {fin : State × List (Nat × Loc)} (ok : State.checkLanes s ag kind n y0 = .ok fin) : fin.1.rest = s.rest := by
  induction y0 generalizing s fin <;> simp only [State.checkLanes, bind, Except.bind] at ok <;> grind [foldl_rest,
    → State.checkAccess_rest]

theorem State.addRequests_rest {s : State} {core session n : Nat} : (State.addRequests s core session n).rest = s.rest := by
  unfold State.addRequests; grind [State.setCore_rest, State.post_rest]

theorem State.chargeRequests_rest {s : State} {core session n : Nat} {fin : State}
    (ok : State.chargeRequests s core session n = some fin) : fin.rest = s.rest := by
  unfold State.chargeRequests at ok; grind [State.addRequests_rest]

theorem State.noteRequests_rest {s : State} {ag : Agent} {n : Nat} : (State.noteRequests s ag n).rest = s.rest := by
  unfold State.noteRequests; grind [State.addRequests_rest]

theorem State.countRequests_rest {s : State} {f : Flock} {locs : List (Nat × Loc)} {fin : State}
    (ok : State.countRequests s f locs = some fin) : fin.rest = s.rest := by
  unfold State.countRequests at ok; grind [State.chargeRequests_rest]

theorem State.readPart_rest {s : State} {ag : Agent} {wide : Bool} {x : LoadPart} : (State.readPart s ag wide x).1.rest = s.rest
    := by
  unfold State.readPart; grind [foldl_rest, → State.cacheRead_rest]

theorem State.readParts_rest {s : State} {ag : Agent} {wide : Bool} {y0 : List LoadPart} :
    (State.readParts s ag wide y0).1.rest = s.rest := by
  induction y0 generalizing s <;> simp only [State.readParts, bind, Except.bind] <;> grind [foldl_rest, State.readPart_rest]

theorem State.storePart_rest {s : State} {ag : Agent} {loc : Loc} {bs : List Byte} : (State.storePart s ag loc bs).rest = s.rest
    := by
  unfold State.storePart; grind [State.touchL2_rest, State.performWrite_rest, State.storeL1_rest, State.storeRdc_rest,
    State.sendPacket_rest]

theorem State.storeParts_rest {s : State} {ag : Agent} {y0 : List (Loc × List Byte)} : (State.storeParts s ag y0).rest = s.rest
    := by
  induction y0 generalizing s <;> simp only [State.storeParts, bind, Except.bind] <;> grind [foldl_rest, State.storePart_rest]

theorem State.performAtom_rest {s : State} {op : AtomOp} {n pa b cmp : Nat} : (State.performAtom s op n pa b cmp).1.rest = s.rest
    := by
  unfold State.performAtom; grind [State.performWrite_rest]

theorem State.atomPart_rest {s : State} {ag : Agent} {op : AtomOp} {n : Nat} {ret : Option (Nat × Nat)} {g : Nat}
    {dest : Nat → Piece} {r : AtomReq} : (State.atomPart s ag op n ret g dest r).1.rest = s.rest := by
  unfold State.atomPart; grind [State.touchL2_rest, State.dropCopies_rest, State.sendPacket_rest, State.performAtom_rest]

theorem State.atomParts_rest {s : State} {ag : Agent} {op : AtomOp} {n : Nat} {ret : Option (Nat × Nat)} {dest : Nat → Piece}
    {y0 : Nat} {y1 : List AtomReq} : (State.atomParts s ag op n ret dest y0 y1).1.rest = s.rest := by
  induction y1 generalizing s y0 <;> simp only [State.atomParts, bind, Except.bind] <;> grind [foldl_rest, State.atomPart_rest]

theorem State.fetch_rest {s : State} {f : Flock} {va n : Nat} {fin : State × List Byte} (ok : State.fetch s f va n = .ok fin)
    : fin.1.rest = s.rest := by
  unfold State.fetch at ok
  (repeat' split at ok) <;> (first | cases ok | skip) <;> grind [State.rest, foldl_rest, → State.readThrough_rest,
      → State.translate_rest]

theorem State.fetchItem_rest {s : State} {f : Flock} {va n : Nat} {fin : State × List Byte}
    (ok : State.fetchItem s f va n = .ok fin) : fin.1.rest = s.rest := by
  unfold State.fetchItem at ok; grind [foldl_rest, → State.fetch_rest]

theorem State.fetchScalar_rest {s : State} {f : Flock} {fin : State × Instr} (ok : State.fetchScalar s f = .ok fin)
    : fin.1.rest = s.rest := by
  unfold State.fetchScalar at ok; grind [foldl_rest, → State.fetchItem_rest]

theorem State.fetchLaneAt_rest {s : State} {f : Flock} {index : Nat} {fin : State × Instr}
    (ok : State.fetchLaneAt s f index = .ok fin) : fin.1.rest = s.rest := by
  unfold State.fetchLaneAt at ok; grind [foldl_rest, → State.fetchItem_rest]

theorem State.fetchLane_rest {s : State} {f : Flock} {p : Path} {fin : State × Instr} (ok : State.fetchLane s f p = .ok fin)
    : fin.1.rest = s.rest := by
  unfold State.fetchLane at ok; grind [foldl_rest, → State.fetchItem_rest, → State.fetchLaneAt_rest]

end Sys2Proof.Machine
end

