-- ==== Sys2Proof/Laws/SoundScalar.lean ====
section
/-!
SUPPORT. The invariant `State.Sound` is kept by the scalar instructions and the life of flocks and herds: one lemma for each operation that
gives a state.
-/
set_option linter.unusedSimpArgs false

namespace Sys2Proof.Machine

/-! ## Scalar.lean -/

theorem execSAdd_sound {d a b : BitVec 6} {s : State} (hs : s.Sound) {fin : State} (ok : execSAdd d a b s = .next fin) : fin.Sound
    := by
  exact scalarWrite_sound hs ok

theorem execSSub_sound {d a b : BitVec 6} {s : State} (hs : s.Sound) {fin : State} (ok : execSSub d a b s = .next fin) : fin.Sound
    := by
  exact scalarWrite_sound hs ok

theorem execSMul_sound {d a b : BitVec 6} {s : State} (hs : s.Sound) {fin : State} (ok : execSMul d a b s = .next fin) : fin.Sound
    := by
  exact scalarWrite_sound hs ok

theorem execSMulh_sound {d a b : BitVec 6} {s : State} (hs : s.Sound) {fin : State} (ok : execSMulh d a b s = .next fin)
    : fin.Sound := by
  exact scalarWrite_sound hs ok

theorem execSMulhu_sound {d a b : BitVec 6} {s : State} (hs : s.Sound) {fin : State} (ok : execSMulhu d a b s = .next fin)
    : fin.Sound := by
  exact scalarWrite_sound hs ok

theorem execSDiv_sound {d a b : BitVec 6} {s : State} (hs : s.Sound) {fin : State} (ok : execSDiv d a b s = .next fin) : fin.Sound
    := by
  exact scalarWrite_sound hs ok

theorem execSDivu_sound {d a b : BitVec 6} {s : State} (hs : s.Sound) {fin : State} (ok : execSDivu d a b s = .next fin)
    : fin.Sound := by
  exact scalarWrite_sound hs ok

theorem execSRem_sound {d a b : BitVec 6} {s : State} (hs : s.Sound) {fin : State} (ok : execSRem d a b s = .next fin) : fin.Sound
    := by
  exact scalarWrite_sound hs ok

theorem execSRemu_sound {d a b : BitVec 6} {s : State} (hs : s.Sound) {fin : State} (ok : execSRemu d a b s = .next fin)
    : fin.Sound := by
  exact scalarWrite_sound hs ok

theorem execSAnd_sound {d a b : BitVec 6} {s : State} (hs : s.Sound) {fin : State} (ok : execSAnd d a b s = .next fin) : fin.Sound
    := by
  exact scalarWrite_sound hs ok

theorem execSOr_sound {d a b : BitVec 6} {s : State} (hs : s.Sound) {fin : State} (ok : execSOr d a b s = .next fin) : fin.Sound
    := by
  exact scalarWrite_sound hs ok

theorem execSXor_sound {d a b : BitVec 6} {s : State} (hs : s.Sound) {fin : State} (ok : execSXor d a b s = .next fin) : fin.Sound
    := by
  exact scalarWrite_sound hs ok

theorem execSShl_sound {d a b : BitVec 6} {s : State} (hs : s.Sound) {fin : State} (ok : execSShl d a b s = .next fin) : fin.Sound
    := by
  exact scalarWrite_sound hs ok

theorem execSShr_sound {d a b : BitVec 6} {s : State} (hs : s.Sound) {fin : State} (ok : execSShr d a b s = .next fin) : fin.Sound
    := by
  exact scalarWrite_sound hs ok

theorem execSSra_sound {d a b : BitVec 6} {s : State} (hs : s.Sound) {fin : State} (ok : execSSra d a b s = .next fin) : fin.Sound
    := by
  exact scalarWrite_sound hs ok

theorem execSMin_sound {d a b : BitVec 6} {s : State} (hs : s.Sound) {fin : State} (ok : execSMin d a b s = .next fin) : fin.Sound
    := by
  exact scalarWrite_sound hs ok

theorem execSMinu_sound {d a b : BitVec 6} {s : State} (hs : s.Sound) {fin : State} (ok : execSMinu d a b s = .next fin)
    : fin.Sound := by
  exact scalarWrite_sound hs ok

theorem execSMax_sound {d a b : BitVec 6} {s : State} (hs : s.Sound) {fin : State} (ok : execSMax d a b s = .next fin) : fin.Sound
    := by
  exact scalarWrite_sound hs ok

theorem execSMaxu_sound {d a b : BitVec 6} {s : State} (hs : s.Sound) {fin : State} (ok : execSMaxu d a b s = .next fin)
    : fin.Sound := by
  exact scalarWrite_sound hs ok

theorem execSClz_sound {d a : BitVec 6} {s : State} (hs : s.Sound) {fin : State} (ok : execSClz d a s = .next fin) : fin.Sound
    := by
  exact scalarWrite_sound hs ok

theorem execSCtz_sound {d a : BitVec 6} {s : State} (hs : s.Sound) {fin : State} (ok : execSCtz d a s = .next fin) : fin.Sound
    := by
  exact scalarWrite_sound hs ok

theorem execSPopc_sound {d a : BitVec 6} {s : State} (hs : s.Sound) {fin : State} (ok : execSPopc d a s = .next fin) : fin.Sound
    := by
  exact scalarWrite_sound hs ok

theorem execSBitint_sound {d a b : BitVec 6} {s : State} (hs : s.Sound) {fin : State} (ok : execSBitint d a b s = .next fin)
    : fin.Sound := by
  exact scalarWrite_sound hs ok

theorem execSBitdeint_sound {d a : BitVec 6} {s : State} (hs : s.Sound) {fin : State} (ok : execSBitdeint d a s = .next fin)
    : fin.Sound := by
  exact scalarWrite_sound hs ok

theorem execSSel_sound {d a b : BitVec 6} {z : BitVec 3} {neg : Bool} {s : State} (hs : s.Sound) {fin : State}
    (ok : execSSel d a b z neg s = .next fin) : fin.Sound := by
  exact scalarWrite_sound hs ok

theorem execSCmp_sound {zd : BitVec 3} {cc : Cond} {a b : BitVec 6} {s : State} (hs : s.Sound) {fin : State}
    (ok : execSCmp zd cc a b s = .next fin) : fin.Sound := by
  exact scalarTest_sound hs ok

theorem execSCmpi_sound {zd : BitVec 3} {cc : Cond} {a : BitVec 6} {imm : BitVec 14} {s : State} (hs : s.Sound) {fin : State}
    (ok : execSCmpi zd cc a imm s = .next fin) : fin.Sound := by
  exact scalarTest_sound hs ok

theorem execSAddi_sound {d a : BitVec 6} {imm : BitVec 14} {s : State} (hs : s.Sound) {fin : State}
    (ok : execSAddi d a imm s = .next fin) : fin.Sound := by
  exact scalarWrite_sound hs ok

theorem execSAndi_sound {d a : BitVec 6} {imm : BitVec 14} {s : State} (hs : s.Sound) {fin : State}
    (ok : execSAndi d a imm s = .next fin) : fin.Sound := by
  exact scalarWrite_sound hs ok

theorem execSOri_sound {d a : BitVec 6} {imm : BitVec 14} {s : State} (hs : s.Sound) {fin : State}
    (ok : execSOri d a imm s = .next fin) : fin.Sound := by
  exact scalarWrite_sound hs ok

theorem execSXori_sound {d a : BitVec 6} {imm : BitVec 14} {s : State} (hs : s.Sound) {fin : State}
    (ok : execSXori d a imm s = .next fin) : fin.Sound := by
  exact scalarWrite_sound hs ok

theorem execSShli_sound {d a : BitVec 6} {imm : BitVec 14} {s : State} (hs : s.Sound) {fin : State}
    (ok : execSShli d a imm s = .next fin) : fin.Sound := by
  exact scalarWrite_sound hs ok

theorem execSShri_sound {d a : BitVec 6} {imm : BitVec 14} {s : State} (hs : s.Sound) {fin : State}
    (ok : execSShri d a imm s = .next fin) : fin.Sound := by
  exact scalarWrite_sound hs ok

theorem execSSrai_sound {d a : BitVec 6} {imm : BitVec 14} {s : State} (hs : s.Sound) {fin : State}
    (ok : execSSrai d a imm s = .next fin) : fin.Sound := by
  exact scalarWrite_sound hs ok

theorem execSLui_sound {d : BitVec 6} {imm : BitVec 14} {s : State} (hs : s.Sound) {fin : State}
    (ok : execSLui d imm s = .next fin) : fin.Sound := by
  exact scalarWrite_sound hs ok

/-! ## ScalarMem.lean -/

theorem scalarLoad_sound {d a : BitVec 6} {off : Int} {n : Nat} {acq : Option Scope} {s : State} (hs : s.Sound) {fin : State}
    (ok : scalarLoad d a off n acq s = .next fin) : fin.Sound := by
  refine runScalar_sound hs (fun v f u hs ok => ?_) ok
  simp only [bind, Except.bind] at ok
  grind [State.onFlock_sound, → runScalar_sound, → State.checkLanes_sound, → State.load_sound]

theorem scalarStore_sound {d a : BitVec 6} {off : Int} {n : Nat} {rel : Option Scope} {s : State} (hs : s.Sound) {fin : State}
    (ok : scalarStore d a off n rel s = .next fin) : fin.Sound := by
  refine runScalar_sound hs (fun v f u hs ok => ?_) ok
  simp only [bind, Except.bind] at ok
  grind [State.onFlock_sound, → runScalar_sound, → State.checkLanes_sound, → State.store_sound]

theorem execSLdB_sound {d a : BitVec 6} {off : BitVec 14} {s : State} (hs : s.Sound) {fin : State}
    (ok : execSLdB d a off s = .next fin) : fin.Sound := by
  exact scalarLoad_sound hs ok

theorem execSLdH_sound {d a : BitVec 6} {off : BitVec 14} {s : State} (hs : s.Sound) {fin : State}
    (ok : execSLdH d a off s = .next fin) : fin.Sound := by
  exact scalarLoad_sound hs ok

theorem execSLdW_sound {d a : BitVec 6} {off : BitVec 14} {s : State} (hs : s.Sound) {fin : State}
    (ok : execSLdW d a off s = .next fin) : fin.Sound := by
  exact scalarLoad_sound hs ok

theorem execSLdD_sound {d a : BitVec 6} {off : BitVec 14} {s : State} (hs : s.Sound) {fin : State}
    (ok : execSLdD d a off s = .next fin) : fin.Sound := by
  exact scalarLoad_sound hs ok

theorem execSStB_sound {d a : BitVec 6} {off : BitVec 14} {s : State} (hs : s.Sound) {fin : State}
    (ok : execSStB d a off s = .next fin) : fin.Sound := by
  exact scalarStore_sound hs ok

theorem execSStH_sound {d a : BitVec 6} {off : BitVec 14} {s : State} (hs : s.Sound) {fin : State}
    (ok : execSStH d a off s = .next fin) : fin.Sound := by
  exact scalarStore_sound hs ok

theorem execSStW_sound {d a : BitVec 6} {off : BitVec 14} {s : State} (hs : s.Sound) {fin : State}
    (ok : execSStW d a off s = .next fin) : fin.Sound := by
  exact scalarStore_sound hs ok

theorem execSStD_sound {d a : BitVec 6} {off : BitVec 14} {s : State} (hs : s.Sound) {fin : State}
    (ok : execSStD d a off s = .next fin) : fin.Sound := by
  exact scalarStore_sound hs ok

theorem execSLdAcq_sound {d a : BitVec 6} {scope : Scope} {size : Size} {off : BitVec 9} {s : State} (hs : s.Sound) {fin : State}
    (ok : execSLdAcq d a scope size off s = .next fin) : fin.Sound := by
  exact scalarLoad_sound hs ok

theorem execSStRel_sound {d a : BitVec 6} {scope : Scope} {size : Size} {off : BitVec 9} {s : State} (hs : s.Sound) {fin : State}
    (ok : execSStRel d a scope size off s = .next fin) : fin.Sound := by
  exact scalarStore_sound hs ok

theorem State.readArgs_sound {s : State} {f : Flock} {o n : Nat} (hs : s.Sound) {fin : State × Nat × Option Nat}
    (ok : State.readArgs s f o n = .ok fin) : fin.1.Sound := by
  unfold State.readArgs at ok; simp only [bind, Except.bind] at ok
  (repeat' split at ok) <;> (first | cases ok | skip) <;> grind [→ State.readThrough_sound, → State.translate_sound]

theorem execSLdk_sound {d a : BitVec 6} {size : Size} {off : BitVec 9} {s : State} (hs : s.Sound) {fin : State}
    (ok : execSLdk d a size off s = .next fin) : fin.Sound := by
  unfold execSLdk at ok; simp only [bind, Except.bind] at ok; grind [State.setFlock_sound, → runScalar_sound,
    → State.readArgs_sound]

theorem scalarAtom_sound {n : Nat} {op : AtomOp} {ord : Order} {d a b : BitVec 6} {s : State} (hs : s.Sound) {fin : State}
    (ok : scalarAtom n op ord d a b s = .next fin) : fin.Sound := by
  refine runScalar_sound hs (fun v f u hs ok => ?_) ok
  simp only [bind, Except.bind] at ok
  grind [State.onFlock_sound, → runScalar_sound, → State.checkLanes_sound, → State.atomic_sound]

theorem execSAtomW_sound {op : AtomOp} {ord : Order} {d a b : BitVec 6} {s : State} (hs : s.Sound) {fin : State}
    (ok : execSAtomW op ord d a b s = .next fin) : fin.Sound := by
  exact scalarAtom_sound hs ok

theorem execSAtomD_sound {op : AtomOp} {ord : Order} {d a b : BitVec 6} {s : State} (hs : s.Sound) {fin : State}
    (ok : execSAtomD op ord d a b s = .next fin) : fin.Sound := by
  exact scalarAtom_sound hs ok

theorem scalarFence_sound {acq rel : Bool} {sc : Scope} {s : State} (hs : s.Sound) {fin : State}
    (ok : scalarFence acq rel sc s = .next fin) : fin.Sound := by
  refine runScalar_sound hs (fun v f u hs ok => ?_) ok
  simp only [bind, Except.bind] at ok
  grind [State.onFlock_sound, State.applyAcquire_sound, runScalar_sound, State.startOp_sound]

theorem execSFenceAcq_sound {scope : Scope} {s : State} (hs : s.Sound) {fin : State} (ok : execSFenceAcq scope s = .next fin)
    : fin.Sound := by
  exact scalarFence_sound hs ok

theorem execSFenceRel_sound {scope : Scope} {s : State} (hs : s.Sound) {fin : State} (ok : execSFenceRel scope s = .next fin)
    : fin.Sound := by
  exact scalarFence_sound hs ok

theorem execSFenceAr_sound {scope : Scope} {s : State} (hs : s.Sound) {fin : State} (ok : execSFenceAr scope s = .next fin)
    : fin.Sound := by
  exact scalarFence_sound hs ok

/-! ## Lifecycle.lean -/

theorem State.setDatapath_sound {s : State} {core dp : Nat} {d : Datapath} (hs : s.Sound) : (State.setDatapath s core dp d).Sound
    := by
  unfold State.setDatapath; grind [State.onCore_sound]

theorem State.yieldSlot_sound {s : State} {core dp uid : Nat} (hs : s.Sound) : (State.yieldSlot s core dp uid).Sound := by
  unfold State.yieldSlot; grind [State.setDatapath_sound]

theorem State.leaveDatapath_sound {s : State} {f : Flock} (hs : s.Sound) : (State.leaveDatapath s f).Sound := by
  unfold State.leaveDatapath; grind [State.setDatapath_sound]

theorem State.enterDatapath_sound {s : State} {f : Flock} (hs : s.Sound) : (State.enterDatapath s f).Sound := by
  unfold State.enterDatapath; grind [State.setDatapath_sound]

theorem execRoundEndExchange_sound {core dp : Nat} {s : State} (hs : s.Sound) {fin : State}
    (ok : execRoundEndExchange core dp s = .next fin) : fin.Sound := by
  unfold execRoundEndExchange at ok; grind [State.setDatapath_sound]

theorem execFlockExchange_sound {core dp flock : Nat} {s : State} (hs : s.Sound) {fin : State}
    (ok : execFlockExchange core dp flock s = .next fin) : fin.Sound := by
  unfold execFlockExchange at ok; grind [State.yieldSlot_sound]

theorem State.postAdmissions_sound {s : State} (hs : s.Sound) : (State.postAdmissions s).Sound := by
  unfold State.postAdmissions; grind [foldl_sound, State.postOnce_sound]

theorem State.oweResidence_sound {s : State} {h : Herd} (hs : s.Sound) : (State.oweResidence s h).Sound := by
  unfold State.oweResidence; grind [State.sound_mk, cases State.Sound, State.postOnce_sound]

theorem State.endHerd_sound {s : State} {uid : Nat} (hs : s.Sound) : (State.endHerd s uid).Sound := by
  unfold State.endHerd; grind [State.sound_mk, cases State.Sound, State.onCore_sound, State.post_sound, State.postAdmissions_sound,
    State.oweResidence_sound]

theorem State.recallLanes_sound {s : State} {uid : Nat} (hs : s.Sound) : (State.recallLanes s uid).Sound := by
  unfold State.recallLanes; grind [foldl_sound, State.mapCores_sound, State.settleFlow_sound]

theorem State.endFlock_sound {s : State} {uid : Nat} (hs : s.Sound) : (State.endFlock s uid).Sound := by
  unfold State.endFlock; grind [State.sound_mk, cases State.Sound, State.withdraw_sound, State.returnLanes_sound,
    State.leaveDatapath_sound, State.endHerd_sound, State.recallLanes_sound]

/-! ## ScalarSys.lean -/

theorem execSB_sound {z : BitVec 3} {neg : Bool} {off : BitVec 22} {s : State} (hs : s.Sound) {fin : State}
    (ok : execSB z neg off s = .next fin) : fin.Sound := by
  refine runScalar_sound hs (fun v f u hs ok => ?_) ok
  simp only [bind, Except.bind] at ok
  grind [State.setFlock_sound, runScalar_sound]

theorem execSCall_sound {z : BitVec 3} {neg : Bool} {off : BitVec 22} {s : State} (hs : s.Sound) {fin : State}
    (ok : execSCall z neg off s = .next fin) : fin.Sound := by
  refine runScalar_sound hs (fun v f u hs ok => ?_) ok
  simp only [bind, Except.bind] at ok
  grind [State.setFlock_sound, runScalar_sound]

theorem execSBz_sound {a : BitVec 6} {imm : BitVec 14} {s : State} (hs : s.Sound) {fin : State} (ok : execSBz a imm s = .next fin)
    : fin.Sound := by
  refine runScalar_sound hs (fun v f u hs ok => ?_) ok
  simp only [bind, Except.bind] at ok
  grind [State.setFlock_sound, runScalar_sound]

theorem execSLoop_sound {d : BitVec 6} {imm : BitVec 14} {s : State} (hs : s.Sound) {fin : State}
    (ok : execSLoop d imm s = .next fin) : fin.Sound := by
  refine runScalarAt_sound hs (fun v f u hs ok => ?_) ok
  simp only [bind, Except.bind] at ok
  grind [State.setFlock_sound, runScalarAt_sound]

theorem jumpTo_sound {a : BitVec 6} {s : State} (hs : s.Sound) {fin : State} (ok : jumpTo a s = .next fin) : fin.Sound := by
  refine runScalar_sound hs (fun v f u hs ok => ?_) ok
  simp only [bind, Except.bind] at ok
  grind [State.setFlock_sound, runScalar_sound]

theorem execSRet_sound {s : State} (hs : s.Sound) {fin : State} (ok : execSRet s = .next fin) : fin.Sound := by
  exact jumpTo_sound hs ok

theorem execSJr_sound {a : BitVec 6} {s : State} (hs : s.Sound) {fin : State} (ok : execSJr a s = .next fin) : fin.Sound := by
  exact jumpTo_sound hs ok

theorem execSLgo_sound {index : BitVec 26} {s : State} (hs : s.Sound) {fin : State} (ok : execSLgo index s = .next fin)
    : fin.Sound := by
  refine runScalar_sound hs (fun v f u hs ok => ?_) ok
  simp only [bind, Except.bind] at ok
  grind [State.setFlock_sound, State.post_sound, runScalar_sound]

theorem execSLwait_sound {s : State} (hs : s.Sound) {fin : State} (ok : execSLwait s = .next fin) : fin.Sound := by
  refine runScalar_sound hs (fun v f u hs ok => ?_) ok
  simp only [bind, Except.bind] at ok
  grind [State.setFlock_sound, runScalar_sound]

theorem execLaneBlockStart_sound {flock : Nat} {s : State} (hs : s.Sound) {fin : State}
    (ok : execLaneBlockStart flock s = .next fin) : fin.Sound := by
  unfold execLaneBlockStart at ok
  (repeat' split at ok) <;> (first | cases ok | skip) <;> grind [State.post_sound, State.takeTrap_sound,
      → State.fetchLaneAt_sound, State.settleFlow_sound]

theorem execSBarInit_sound {a b : BitVec 6} {s : State} (hs : s.Sound) {fin : State} (ok : execSBarInit a b s = .next fin)
    : fin.Sound := by
  refine runScalar_sound hs (fun v f u hs ok => ?_) ok
  simp only [bind, Except.bind] at ok
  (repeat' split at ok) <;> (first | cases ok | skip) <;> grind [State.setFlock_sound, State.setHerd_sound, → runScalar_sound]

theorem execSBarArrive_sound {zd : BitVec 3} {a : BitVec 6} {s : State} (hs : s.Sound) {fin : State}
    (ok : execSBarArrive zd a s = .next fin) : fin.Sound := by
  refine runScalar_sound hs (fun v f u hs ok => ?_) ok
  simp only [bind, Except.bind] at ok
  (repeat' split at ok) <;> (first | cases ok | skip) <;> grind [State.setFlock_sound, State.setHerd_sound, → runScalar_sound]

theorem execSBarExpect_sound {a b : BitVec 6} {s : State} (hs : s.Sound) {fin : State} (ok : execSBarExpect a b s = .next fin)
    : fin.Sound := by
  refine runScalar_sound hs (fun v f u hs ok => ?_) ok
  simp only [bind, Except.bind] at ok
  grind [State.setFlock_sound, State.setHerd_sound, runScalar_sound]

theorem execSBarWait_sound {a b : BitVec 6} {s : State} (hs : s.Sound) {fin : State} (ok : execSBarWait a b s = .next fin)
    : fin.Sound := by
  refine runScalar_sound hs (fun v f u hs ok => ?_) ok
  simp only [bind, Except.bind] at ok
  (repeat' split at ok) <;> (first | cases ok | skip) <;> grind [State.setFlock_sound, State.onFlock_sound, State.setHerd_sound,
      State.post_sound, State.applyAcquire_sound, → runScalar_sound]

theorem execBarWaitComplete_sound {flock : Nat} {s : State} (hs : s.Sound) {fin : State}
    (ok : execBarWaitComplete flock s = .next fin) : fin.Sound := by
  unfold execBarWaitComplete at ok; grind [State.onFlock_sound, State.setHerd_sound, State.post_sound, State.applyAcquire_sound]

theorem execSCntWait_sound {path : Counter} {a : BitVec 6} {s : State} (hs : s.Sound) {fin : State}
    (ok : execSCntWait path a s = .next fin) : fin.Sound := by
  refine runScalar_sound hs (fun v f u hs ok => ?_) ok
  simp only [bind, Except.bind] at ok
  grind [State.setFlock_sound, runScalar_sound]

theorem execSKget_sound {d : BitVec 6} {k : BitVec 12} {s : State} (hs : s.Sound) {fin : State} (ok : execSKget d k s = .next fin)
    : fin.Sound := by
  refine runScalar_sound hs (fun v f u hs ok => ?_) ok
  (try simp only [bind, Except.bind, pure, Except.pure] at ok)
  grind [State.setFlock_sound, runScalar_sound, traps, waits, waitsEmpty]

theorem execSKput_sound {k : BitVec 12} {a : BitVec 6} {s : State} (hs : s.Sound) {fin : State} (ok : execSKput k a s = .next fin)
    : fin.Sound := by
  refine runScalar_sound hs (fun v f u hs ok => ?_) ok
  (try simp only [bind, Except.bind, pure, Except.pure] at ok)
  grind [State.setFlock_sound, runScalar_sound, traps, waits, waitsEmpty]

theorem execSNop_sound {s : State} (hs : s.Sound) {fin : State} (ok : execSNop s = .next fin) : fin.Sound := by
  refine runScalar_sound hs (fun v f u hs ok => ?_) ok
  (try simp only [bind, Except.bind, pure, Except.pure] at ok)
  grind [State.setFlock_sound, runScalar_sound, traps, waits, waitsEmpty]

theorem execSTrap_sound {code : BitVec 14} {s : State} (hs : s.Sound) {fin : State} (ok : execSTrap code s = .next fin)
    : fin.Sound := by
  refine runScalar_sound hs (fun v f u hs ok => ?_) ok
  (try simp only [bind, Except.bind, pure, Except.pure] at ok)
  grind [runScalar_sound, traps, waits, waitsEmpty]

theorem execSYield_sound {s : State} (hs : s.Sound) {fin : State} (ok : execSYield s = .next fin) : fin.Sound := by
  refine runScalar_sound hs (fun v f u hs ok => ?_) ok
  (try simp only [bind, Except.bind, pure, Except.pure] at ok)
  grind [State.setFlock_sound, runScalar_sound, State.yieldSlot_sound, traps, waits, waitsEmpty]

theorem State.endInHandler_sound {s : State} {f : Flock} (hs : s.Sound) {fin : State} (ok : State.endInHandler s f = .ok fin)
    : fin.Sound := by
  unfold State.endInHandler at ok; simp only [bind, Except.bind] at ok; grind [State.setFlock_sound, State.endFlock_sound]

theorem execSExit_sound {s : State} (hs : s.Sound) {fin : State} (ok : execSExit s = .next fin) : fin.Sound := by
  refine runScalar_sound hs (fun v f u hs ok => ?_) ok
  simp only [bind, Except.bind] at ok
  grind [runScalar_sound, State.endFlock_sound, State.endInHandler_sound]

theorem execSTret_sound {s : State} (hs : s.Sound) {fin : State} (ok : execSTret s = .next fin) : fin.Sound := by
  refine runScalar_sound hs (fun v f u hs ok => ?_) ok
  (try simp only [bind, Except.bind, pure, Except.pure] at ok)
  grind [State.leaveTrap_sound, runScalar_sound, State.endInHandler_sound, traps, waits, waitsEmpty]

theorem execReservedEncoding_sound {lane : Bool} {_word : BitVec 96} {s : State} (hs : s.Sound) {fin : State}
    (ok : execReservedEncoding lane _word s = .next fin) : fin.Sound := by
  unfold execReservedEncoding at ok
  split at ok
  · exact runLane_sound hs (fun _ _ _ _ _ h => by simp [traps] at h) ok
  · exact runScalar_sound hs (fun _ _ _ _ h => by simp [traps] at h) ok

theorem execFetchBeyondSection_sound {lane : Bool} {s : State} (hs : s.Sound) {fin : State}
    (ok : execFetchBeyondSection lane s = .next fin) : fin.Sound := by
  unfold execFetchBeyondSection at ok
  (repeat' split at ok) <;> first
    | exact runLane_sound (State.setFlock_sound hs) (fun _ _ _ _ _ h => by simp [traps] at h) ok
    | exact runScalar_sound (State.setFlock_sound hs) (fun _ _ _ _ h => by simp [traps] at h) ok
    | cases ok

end Sys2Proof.Machine
end

