-- ==== Sys2Proof/Laws/SoundLane.lean ====
section
/-!
SUPPORT. The invariant `State.Sound` is kept by the lane instructions: one lemma for each operation that
gives a state.
-/
set_option linter.unusedSimpArgs false

namespace Sys2Proof.Machine

/-! ## LaneInt.lean -/

theorem laneWhole_sound {w : LaneWord} {t : IntTy} {k : Nat} {g : Flock → Nat → List Nat → Nat} {s : State} (hs : s.Sound)
    {fin : State} (ok : laneWhole w t k g s = .next fin) : fin.Sound := by
  unfold laneWhole at ok; grind [laneCompute_sound]

theorem laneElements_sound {w : LaneWord} {k : Nat} {g : IntTy → List Nat → Nat} {s : State} (hs : s.Sound) {fin : State}
    (ok : laneElements w k g s = .next fin) : fin.Sound := by
  unfold laneElements at ok; grind [laneWhole_sound]

theorem laneArith_sound {w : LaneWord} {k : Nat} {g : Int → Int → Int → Int} {s : State} (hs : s.Sound) {fin : State}
    (ok : laneArith w k g s = .next fin) : fin.Sound := by
  exact laneElements_sound hs ok

theorem execVAdd_sound {w : LaneWord} {s : State} (hs : s.Sound) {fin : State} (ok : execVAdd w s = .next fin) : fin.Sound := by
  exact laneArith_sound hs ok

theorem execVSub_sound {w : LaneWord} {s : State} (hs : s.Sound) {fin : State} (ok : execVSub w s = .next fin) : fin.Sound := by
  exact laneArith_sound hs ok

theorem execVMul_sound {w : LaneWord} {s : State} (hs : s.Sound) {fin : State} (ok : execVMul w s = .next fin) : fin.Sound := by
  exact laneArith_sound hs ok

theorem execVMad_sound {w : LaneWord} {s : State} (hs : s.Sound) {fin : State} (ok : execVMad w s = .next fin) : fin.Sound := by
  exact laneArith_sound hs ok

theorem execVMin_sound {w : LaneWord} {s : State} (hs : s.Sound) {fin : State} (ok : execVMin w s = .next fin) : fin.Sound := by
  exact laneArith_sound hs ok

theorem execVMax_sound {w : LaneWord} {s : State} (hs : s.Sound) {fin : State} (ok : execVMax w s = .next fin) : fin.Sound := by
  exact laneArith_sound hs ok

theorem execVAbs_sound {w : LaneWord} {s : State} (hs : s.Sound) {fin : State} (ok : execVAbs w s = .next fin) : fin.Sound := by
  exact laneArith_sound hs ok

theorem execVAnd_sound {w : LaneWord} {s : State} (hs : s.Sound) {fin : State} (ok : execVAnd w s = .next fin) : fin.Sound := by
  exact laneElements_sound hs ok

theorem execVOr_sound {w : LaneWord} {s : State} (hs : s.Sound) {fin : State} (ok : execVOr w s = .next fin) : fin.Sound := by
  exact laneElements_sound hs ok

theorem execVXor_sound {w : LaneWord} {s : State} (hs : s.Sound) {fin : State} (ok : execVXor w s = .next fin) : fin.Sound := by
  exact laneElements_sound hs ok

theorem execVNot_sound {w : LaneWord} {s : State} (hs : s.Sound) {fin : State} (ok : execVNot w s = .next fin) : fin.Sound := by
  exact laneElements_sound hs ok

theorem execVShl_sound {w : LaneWord} {s : State} (hs : s.Sound) {fin : State} (ok : execVShl w s = .next fin) : fin.Sound := by
  exact laneElements_sound hs ok

theorem execVShr_sound {w : LaneWord} {s : State} (hs : s.Sound) {fin : State} (ok : execVShr w s = .next fin) : fin.Sound := by
  exact laneElements_sound hs ok

theorem execVSra_sound {w : LaneWord} {s : State} (hs : s.Sound) {fin : State} (ok : execVSra w s = .next fin) : fin.Sound := by
  exact laneElements_sound hs ok

theorem execVClz_sound {w : LaneWord} {s : State} (hs : s.Sound) {fin : State} (ok : execVClz w s = .next fin) : fin.Sound := by
  exact laneElements_sound hs ok

theorem execVPopc_sound {w : LaneWord} {s : State} (hs : s.Sound) {fin : State} (ok : execVPopc w s = .next fin) : fin.Sound := by
  exact laneElements_sound hs ok

theorem execVBrev_sound {w : LaneWord} {s : State} (hs : s.Sound) {fin : State} (ok : execVBrev w s = .next fin) : fin.Sound := by
  exact laneElements_sound hs ok

theorem execVBfe_sound {w : LaneWord} {s : State} (hs : s.Sound) {fin : State} (ok : execVBfe w s = .next fin) : fin.Sound := by
  exact laneElements_sound hs ok

theorem execVBfi_sound {w : LaneWord} {s : State} (hs : s.Sound) {fin : State} (ok : execVBfi w s = .next fin) : fin.Sound := by
  exact laneElements_sound hs ok

theorem execVBitint_sound {w : LaneWord} {s : State} (hs : s.Sound) {fin : State} (ok : execVBitint w s = .next fin) : fin.Sound
    := by
  unfold execVBitint at ok; grind [laneWhole_sound]

theorem execVCmp_sound {w : LaneWord} {s : State} (hs : s.Sound) {fin : State} (ok : execVCmp w s = .next fin) : fin.Sound := by
  unfold execVCmp at ok; grind [laneCompute_sound]

theorem execVSel_sound {w : LaneWord} {s : State} (hs : s.Sound) {fin : State} (ok : execVSel w s = .next fin) : fin.Sound := by
  exact laneWhole_sound hs ok

theorem execVMov_sound {w : LaneWord} {s : State} (hs : s.Sound) {fin : State} (ok : execVMov w s = .next fin) : fin.Sound := by
  exact laneWhole_sound hs ok

theorem execVMovi_sound {w : LaneWord} {s : State} (hs : s.Sound) {fin : State} (ok : execVMovi w s = .next fin) : fin.Sound := by
  unfold execVMovi at ok; grind [laneWhole_sound]

theorem execVLane_sound {w : LaneWord} {s : State} (hs : s.Sound) {fin : State} (ok : execVLane w s = .next fin) : fin.Sound := by
  exact laneWhole_sound hs ok

theorem execVKget_sound {w : LaneWord} {s : State} (hs : s.Sound) {fin : State} (ok : execVKget w s = .next fin) : fin.Sound := by
  refine runConfirmed_sound hs (fun v f p u hs ok => ?_) ok
  (try simp only [bind, Except.bind, pure, Except.pure] at ok)
  grind [State.setFlock_sound, runConfirmed_sound, traps, waits, waitsEmpty]

/-! ## LaneFloat.lean -/

theorem laneFloatWhole_sound {w : LaneWord} {k : Nat} {g : Flock → FpCtx → Nat → Word32 × Flags} {s : State} (hs : s.Sound)
    {fin : State} (ok : laneFloatWhole w k g s = .next fin) : fin.Sound := by
  exact laneCompute_sound hs ok

theorem laneFloat_sound {w : LaneWord} {k : Nat} {g : Fmt → FpCtx → List Nat → Nat × Flags} {s : State} (hs : s.Sound)
    {fin : State} (ok : laneFloat w k g s = .next fin) : fin.Sound := by
  unfold laneFloat at ok; grind [laneFloatWhole_sound]

theorem execVFadd_sound {w : LaneWord} {s : State} (hs : s.Sound) {fin : State} (ok : execVFadd w s = .next fin) : fin.Sound := by
  exact laneFloat_sound hs ok

theorem execVFsub_sound {w : LaneWord} {s : State} (hs : s.Sound) {fin : State} (ok : execVFsub w s = .next fin) : fin.Sound := by
  exact laneFloat_sound hs ok

theorem execVFmul_sound {w : LaneWord} {s : State} (hs : s.Sound) {fin : State} (ok : execVFmul w s = .next fin) : fin.Sound := by
  exact laneFloat_sound hs ok

theorem execVFfma_sound {w : LaneWord} {s : State} (hs : s.Sound) {fin : State} (ok : execVFfma w s = .next fin) : fin.Sound := by
  exact laneFloat_sound hs ok

theorem execVFmin_sound {w : LaneWord} {s : State} (hs : s.Sound) {fin : State} (ok : execVFmin w s = .next fin) : fin.Sound := by
  exact laneFloat_sound hs ok

theorem execVFmax_sound {w : LaneWord} {s : State} (hs : s.Sound) {fin : State} (ok : execVFmax w s = .next fin) : fin.Sound := by
  exact laneFloat_sound hs ok

theorem execVFdot2_sound {w : LaneWord} {s : State} (hs : s.Sound) {fin : State} (ok : execVFdot2 w s = .next fin) : fin.Sound
    := by
  unfold execVFdot2 at ok; grind [laneFloatWhole_sound]

theorem execVFcmp_sound {w : LaneWord} {s : State} (hs : s.Sound) {fin : State} (ok : execVFcmp w s = .next fin) : fin.Sound := by
  unfold execVFcmp at ok; grind [laneCompute_sound]

theorem execVFclass_sound {w : LaneWord} {s : State} (hs : s.Sound) {fin : State} (ok : execVFclass w s = .next fin) : fin.Sound
    := by
  exact laneFloat_sound hs ok

theorem execVFrcp_sound {w : LaneWord} {s : State} (hs : s.Sound) {fin : State} (ok : execVFrcp w s = .next fin) : fin.Sound := by
  exact laneFloat_sound hs ok

theorem execVFrsq_sound {w : LaneWord} {s : State} (hs : s.Sound) {fin : State} (ok : execVFrsq w s = .next fin) : fin.Sound := by
  exact laneFloat_sound hs ok

theorem execVFsqrt_sound {w : LaneWord} {s : State} (hs : s.Sound) {fin : State} (ok : execVFsqrt w s = .next fin) : fin.Sound
    := by
  exact laneFloat_sound hs ok

theorem execVFexp2_sound {w : LaneWord} {s : State} (hs : s.Sound) {fin : State} (ok : execVFexp2 w s = .next fin) : fin.Sound
    := by
  exact laneFloat_sound hs ok

theorem execVFlog2_sound {w : LaneWord} {s : State} (hs : s.Sound) {fin : State} (ok : execVFlog2 w s = .next fin) : fin.Sound
    := by
  exact laneFloat_sound hs ok

theorem execVFsin_sound {w : LaneWord} {s : State} (hs : s.Sound) {fin : State} (ok : execVFsin w s = .next fin) : fin.Sound := by
  exact laneFloat_sound hs ok

theorem execVFcos_sound {w : LaneWord} {s : State} (hs : s.Sound) {fin : State} (ok : execVFcos w s = .next fin) : fin.Sound := by
  exact laneFloat_sound hs ok

theorem execVFfloor_sound {w : LaneWord} {s : State} (hs : s.Sound) {fin : State} (ok : execVFfloor w s = .next fin) : fin.Sound
    := by
  exact laneFloat_sound hs ok

theorem execVFceil_sound {w : LaneWord} {s : State} (hs : s.Sound) {fin : State} (ok : execVFceil w s = .next fin) : fin.Sound
    := by
  exact laneFloat_sound hs ok

theorem execVFtrunc_sound {w : LaneWord} {s : State} (hs : s.Sound) {fin : State} (ok : execVFtrunc w s = .next fin) : fin.Sound
    := by
  exact laneFloat_sound hs ok

theorem execVFrnd_sound {w : LaneWord} {s : State} (hs : s.Sound) {fin : State} (ok : execVFrnd w s = .next fin) : fin.Sound := by
  exact laneFloat_sound hs ok

theorem execVFfract_sound {w : LaneWord} {s : State} (hs : s.Sound) {fin : State} (ok : execVFfract w s = .next fin) : fin.Sound
    := by
  exact laneFloat_sound hs ok

/-! ## LaneConv.lean -/

theorem execVCvt_sound {w : LaneWord} {s : State} (hs : s.Sound) {fin : State} (ok : execVCvt w s = .next fin) : fin.Sound := by
  unfold execVCvt at ok; grind [laneCompute_sound]

theorem execVCvtW_sound {w : LaneWord} {s : State} (hs : s.Sound) {fin : State} (ok : execVCvtW w s = .next fin) : fin.Sound := by
  unfold execVCvtW at ok; grind [laneCompute_sound]

theorem execVCvtN_sound {w : LaneWord} {s : State} (hs : s.Sound) {fin : State} (ok : execVCvtN w s = .next fin) : fin.Sound := by
  unfold execVCvtN at ok; grind [laneCompute_sound]

theorem execVCvtEf_sound {w : LaneWord} {s : State} (hs : s.Sound) {fin : State} (ok : execVCvtEf w s = .next fin) : fin.Sound
    := by
  unfold execVCvtEf at ok; grind [laneCompute_sound]

theorem execVBfpPack_sound {w : LaneWord} {s : State} (hs : s.Sound) {fin : State} (ok : execVBfpPack w s = .next fin) : fin.Sound
    := by
  unfold execVBfpPack at ok; grind [crossCompute_sound]

theorem execVBfpUnpack_sound {w : LaneWord} {s : State} (hs : s.Sound) {fin : State} (ok : execVBfpUnpack w s = .next fin)
    : fin.Sound := by
  unfold execVBfpUnpack at ok; grind [laneCompute_sound]

theorem execVPack_sound {w : LaneWord} {s : State} (hs : s.Sound) {fin : State} (ok : execVPack w s = .next fin) : fin.Sound := by
  unfold execVPack at ok; grind [laneCompute_sound]

theorem execVUnpack_sound {w : LaneWord} {s : State} (hs : s.Sound) {fin : State} (ok : execVUnpack w s = .next fin) : fin.Sound
    := by
  unfold execVUnpack at ok; grind [laneCompute_sound]

/-! ## LaneCross.lean -/

theorem shuffle_sound {w : LaneWord} {from_ : Nat → Nat → Nat → Nat} {s : State} (hs : s.Sound) {fin : State}
    (ok : shuffle w from_ s = .next fin) : fin.Sound := by
  unfold shuffle at ok; simp only [bind, Except.bind] at ok; grind [State.setFlock_sound, runConfirmed_sound]

theorem execVShflIdx_sound {w : LaneWord} {s : State} (hs : s.Sound) {fin : State} (ok : execVShflIdx w s = .next fin) : fin.Sound
    := by
  exact shuffle_sound hs ok

theorem execVShflUp_sound {w : LaneWord} {s : State} (hs : s.Sound) {fin : State} (ok : execVShflUp w s = .next fin) : fin.Sound
    := by
  exact shuffle_sound hs ok

theorem execVShflDown_sound {w : LaneWord} {s : State} (hs : s.Sound) {fin : State} (ok : execVShflDown w s = .next fin)
    : fin.Sound := by
  exact shuffle_sound hs ok

theorem execVShflXor_sound {w : LaneWord} {s : State} (hs : s.Sound) {fin : State} (ok : execVShflXor w s = .next fin) : fin.Sound
    := by
  exact shuffle_sound hs ok

theorem execVBcast_sound {w : LaneWord} {s : State} (hs : s.Sound) {fin : State} (ok : execVBcast w s = .next fin) : fin.Sound
    := by
  unfold execVBcast at ok; simp only [bind, Except.bind] at ok; grind [State.setFlock_sound, runConfirmed_sound]

theorem vote_sound {w : LaneWord} {g : Nat → Nat → Bool} {s : State} (hs : s.Sound) {fin : State} (ok : vote w g s = .next fin)
    : fin.Sound := by
  exact crossCompute_sound hs ok

theorem execVVoteAll_sound {w : LaneWord} {s : State} (hs : s.Sound) {fin : State} (ok : execVVoteAll w s = .next fin) : fin.Sound
    := by
  exact vote_sound hs ok

theorem execVVoteAny_sound {w : LaneWord} {s : State} (hs : s.Sound) {fin : State} (ok : execVVoteAny w s = .next fin) : fin.Sound
    := by
  exact vote_sound hs ok

theorem execVVoteEq_sound {w : LaneWord} {s : State} (hs : s.Sound) {fin : State} (ok : execVVoteEq w s = .next fin) : fin.Sound
    := by
  exact vote_sound hs ok

theorem execVVoteBallot_sound {w : LaneWord} {s : State} (hs : s.Sound) {fin : State} (ok : execVVoteBallot w s = .next fin)
    : fin.Sound := by
  exact crossCompute_sound hs ok

theorem scan_sound {w : LaneWord} {result : List (Nat × Nat × Nat) → List (Nat × Nat)} {s : State} (hs : s.Sound) {fin : State}
    (ok : scan w result s = .next fin) : fin.Sound := by
  exact crossCompute_sound hs ok

theorem execVScan_sound {w : LaneWord} {s : State} (hs : s.Sound) {fin : State} (ok : execVScan w s = .next fin) : fin.Sound := by
  exact scan_sound hs ok

theorem execVRed_sound {w : LaneWord} {s : State} (hs : s.Sound) {fin : State} (ok : execVRed w s = .next fin) : fin.Sound := by
  exact scan_sound hs ok

theorem execVMatch_sound {w : LaneWord} {s : State} (hs : s.Sound) {fin : State} (ok : execVMatch w s = .next fin) : fin.Sound
    := by
  unfold execVMatch at ok; grind [crossCompute_sound]

theorem toScalar_sound {w : LaneWord} {src : Option Src} {reads : Flock → List Nat → List Nat} {value : Flock → List Nat → Word64}
    {s : State} (hs : s.Sound) {fin : State} (ok : toScalar w src reads value s = .next fin) : fin.Sound := by
  refine runHeld_sound hs (fun v f p u hs ok => ?_) ok
  simp only [bind, Except.bind] at ok
  (repeat' split at ok) <;> (first | cases ok | skip) <;> grind [State.setFlock_sound, State.post_sound, → runHeld_sound]

theorem execVTosFirst_sound {w : LaneWord} {s : State} (hs : s.Sound) {fin : State} (ok : execVTosFirst w s = .next fin)
    : fin.Sound := by
  unfold execVTosFirst at ok; grind [toScalar_sound]

theorem execVTosLane_sound {w : LaneWord} {s : State} (hs : s.Sound) {fin : State} (ok : execVTosLane w s = .next fin) : fin.Sound
    := by
  unfold execVTosLane at ok; grind [toScalar_sound]

theorem execVTosMask_sound {w : LaneWord} {s : State} (hs : s.Sound) {fin : State} (ok : execVTosMask w s = .next fin) : fin.Sound
    := by
  exact toScalar_sound hs ok

theorem execVTosCount_sound {w : LaneWord} {s : State} (hs : s.Sound) {fin : State} (ok : execVTosCount w s = .next fin)
    : fin.Sound := by
  exact toScalar_sound hs ok

theorem execTosWrite_sound {flock op : Nat} {s : State} (hs : s.Sound) {fin : State} (ok : execTosWrite flock op s = .next fin)
    : fin.Sound := by
  unfold execTosWrite at ok; grind [State.finishOp_sound]

/-! ## LaneMem.lean -/

theorem State.retirePath_sound {s : State} {uid pid : Nat} (hs : s.Sound) : (State.retirePath s uid pid).Sound := by
  unfold State.retirePath; grind [State.onFlock_sound]

theorem State.retireFence_sound {s : State} {uid pid : Nat} (hs : s.Sound) : (State.retireFence s uid pid).Sound := by
  unfold State.retireFence; grind [State.onFlock_sound]

theorem laneLoad_sound {w : LaneWord} {acq : Option Scope} {s : State} (hs : s.Sound) {fin : State}
    (ok : laneLoad w acq s = .next fin) : fin.Sound := by
  refine runHeld_sound hs (fun v f p u hs ok => ?_) ok
  simp only [bind, Except.bind] at ok
  grind [→ runHeld_sound, → State.checkLanes_sound, → State.load_sound, State.retirePath_sound]

theorem execVLd_sound {w : LaneWord} {s : State} (hs : s.Sound) {fin : State} (ok : execVLd w s = .next fin) : fin.Sound := by
  exact laneLoad_sound hs ok

theorem execVLdAcq_sound {w : LaneWord} {s : State} (hs : s.Sound) {fin : State} (ok : execVLdAcq w s = .next fin) : fin.Sound
    := by
  exact laneLoad_sound hs ok

theorem laneStore_sound {w : LaneWord} {rel : Option Scope} {s : State} (hs : s.Sound) {fin : State}
    (ok : laneStore w rel s = .next fin) : fin.Sound := by
  refine runHeld_sound hs (fun v f p u hs ok => ?_) ok
  simp only [bind, Except.bind] at ok
  grind [→ runHeld_sound, → State.checkLanes_sound, → State.store_sound, State.retireFence_sound]

theorem execVSt_sound {w : LaneWord} {s : State} (hs : s.Sound) {fin : State} (ok : execVSt w s = .next fin) : fin.Sound := by
  exact laneStore_sound hs ok

theorem execVStRel_sound {w : LaneWord} {s : State} (hs : s.Sound) {fin : State} (ok : execVStRel w s = .next fin) : fin.Sound
    := by
  exact laneStore_sound hs ok

theorem State.ffPart_sound {s : State} {ag : Agent} {uid op : Nat} {loc : Loc} {bs : List Byte} (hs : s.Sound) :
    (State.ffPart s ag uid op loc bs).Sound := by
  unfold State.ffPart; grind [State.touchL2_sound, State.performWrite_sound, State.dropCopies_sound, State.sendPacket_sound]

theorem execVStFf_sound {w : LaneWord} {s : State} (hs : s.Sound) {fin : State} (ok : execVStFf w s = .next fin) : fin.Sound := by
  refine runHeld_sound hs (fun v f p u hs ok => ?_) ok
  simp only [bind, Except.bind] at ok
  (repeat' split at ok) <;> (first | cases ok | skip) <;> grind [foldl_sound, → runHeld_sound, → State.checkLanes_sound,
      State.beginOp_sound, → State.countRequests_sound, State.retireFence_sound, State.ffPart_sound]

theorem execFfStoreDelivered_sound {flock op : Nat} {s : State} (hs : s.Sound) {fin : State}
    (ok : execFfStoreDelivered flock op s = .next fin) : fin.Sound := by
  unfold execFfStoreDelivered at ok; grind [State.finishOp_sound]

theorem State.prefetchLine_sound {s : State} {ag : Agent} {l1 : Bool} {va : Nat} (hs : s.Sound) {fin : State}
    (ok : State.prefetchLine s ag l1 va = some fin) : fin.Sound := by
  unfold State.prefetchLine at ok
  split at ok
  · split at ok <;> cases ok
    exact hs
  · rename_i hc
    have hu := State.checkAccess_sound hs hc
    split at ok
    · cases ok; exact hu
    · obtain ⟨x, hx, rfl⟩ := Option.map_eq_some_iff.1 ok
      have := State.readThrough_sound hu hx
      dsimp only
      split
      · exact this
      · exact State.noteRequests_sound this

theorem execVPrefetch_sound {w : LaneWord} {s : State} (hs : s.Sound) {fin : State} (ok : execVPrefetch w s = .next fin)
    : fin.Sound := by
  refine runLane_sound hs (fun s f p u hs ok => ?_) ok
  obtain ⟨_, -, ok⟩ := bind_ok ok
  dsimp only at ok
  split at ok
  · cases ok
  · rename_i t ht
    obtain ⟨_, -, ok⟩ := bind_ok ok
    cases ok
    refine State.retirePath_sound ?_
    generalize State.agentOf _ f = ag at ht
    suffices h : ∀ (l : List Nat) (o : Option State), (∀ u, o = some u → u.Sound) →
        l.foldl (fun x l => x.bind fun s => s.prefetchLine ag (w.sub = 0) (f.globalAddr w true l)) o = some t → t.Sound from
      h _ (some s) (fun u h => by cases h; exact hs) ht
    intro l
    induction l with
    | nil => exact fun o ho h => ho _ h
    | cons x l ih =>
      refine fun o ho h => ih _ (fun u hu => ?_) h
      obtain ⟨y, hy, hu⟩ := Option.bind_eq_some_iff.1 hu
      exact State.prefetchLine_sound (ho y hy) hu

theorem execVLdSp_sound {w : LaneWord} {s : State} (hs : s.Sound) {fin : State} (ok : execVLdSp w s = .next fin) : fin.Sound := by
  refine runHeld_sound hs (fun v f p u hs ok => ?_) ok
  simp only [bind, Except.bind] at ok
  grind [State.setFlock_sound, runHeld_sound, State.beginOp_sound]

theorem execVStSp_sound {w : LaneWord} {s : State} (hs : s.Sound) {fin : State} (ok : execVStSp w s = .next fin) : fin.Sound := by
  refine runHeld_sound hs (fun v f p u hs ok => ?_) ok
  simp only [bind, Except.bind] at ok
  grind [foldl_sound, runHeld_sound, State.spadWrite_sound, State.retireFence_sound]

theorem execVAtom_sound {w : LaneWord} {s : State} (hs : s.Sound) {fin : State} (ok : execVAtom w s = .next fin) : fin.Sound := by
  refine runHeld_sound hs (fun v f p u hs ok => ?_) ok
  simp only [bind, Except.bind] at ok
  grind [→ runHeld_sound, → State.checkLanes_sound, → State.atomic_sound, State.retireFence_sound]

theorem execVAred_sound {w : LaneWord} {s : State} (hs : s.Sound) {fin : State} (ok : execVAred w s = .next fin) : fin.Sound := by
  refine runHeld_sound hs (fun v f p u hs ok => ?_) ok
  simp only [bind, Except.bind] at ok
  grind [→ runHeld_sound, → State.checkLanes_sound, → State.atomic_sound, → State.reduce_sound, State.retireFence_sound]

theorem State.spadAtom_sound {s : State} {w : LaneWord} {l herd off addr b cmp : Nat} (hs : s.Sound) :
    (State.spadAtom s w l herd off addr b cmp).1.Sound := by
  unfold State.spadAtom; grind [State.spadWrite_sound]

theorem execVAtomSp_sound {w : LaneWord} {s : State} (hs : s.Sound) {fin : State} (ok : execVAtomSp w s = .next fin) : fin.Sound
    := by
  refine runHeld_sound hs (fun s f p u hs ok => ?_) ok
  obtain ⟨_, -, ok⟩ := bind_ok ok
  obtain ⟨xs, -, ok⟩ := bind_ok ok
  obtain ⟨_, -, ok⟩ := bind_ok ok
  cases ok
  refine State.retireFence_sound (State.beginOp_sound ?_)
  generalize spadOrder (atomOp w) s.ticks xs = l
  suffices h : ∀ (l : List (Nat × Nat × Nat)) (q : State × List Piece), q.1.Sound →
      (l.foldl (fun x y => ((x.1.spadAtom w y.1 y.2.1 y.2.2 (f.spadAddr w false y.1) (f.atomValues w y.1).1 (f.atomValues w y.1).2).1,
        x.2 ++ [(x.1.spadAtom w y.1 y.2.1 y.2.2 (f.spadAddr w false y.1) (f.atomValues w y.1).1 (f.atomValues w y.1).2).2])) q).1.Sound from
    h l (s, []) hs
  intro l
  induction l with
  | nil => exact fun q h => h
  | cons y r ih => exact fun q h => ih _ (State.spadAtom_sound (l := y.1) (addr := f.spadAddr w false y.1) h)

theorem execLongLatencyReturn_sound {flock op : Nat} {s : State} (hs : s.Sound) {fin : State}
    (ok : execLongLatencyReturn flock op s = .next fin) : fin.Sound := by
  unfold execLongLatencyReturn at ok; grind [State.finishOp_sound]

/-! ## LaneFlow.lean -/

theorem execVNop_sound {_w : LaneWord} {s : State} (hs : s.Sound) {fin : State} (ok : execVNop _w s = .next fin) : fin.Sound := by
  refine runLane_sound hs (fun v f p u hs ok => ?_) ok
  (try simp only [bind, Except.bind, pure, Except.pure] at ok)
  grind [State.setFlock_sound, runLane_sound, traps, waits, waitsEmpty]

theorem execVNopMarker_sound {w : LaneWord} {s : State} (hs : s.Sound) {fin : State} (ok : execVNopMarker w s = .next fin)
    : fin.Sound := by
  refine runConfirmed_sound hs (fun v f p u hs ok => ?_) ok
  simp only [bind, Except.bind] at ok
  grind [State.setFlock_sound, runConfirmed_sound]

theorem execVBlk_sound {_w : LaneWord} {s : State} (hs : s.Sound) {fin : State} (ok : execVBlk _w s = .next fin) : fin.Sound := by
  refine runLane_sound hs (fun v f p u hs ok => ?_) ok
  (try simp only [bind, Except.bind, pure, Except.pure] at ok)
  grind [State.setFlock_sound, runLane_sound, traps, waits, waitsEmpty]

theorem execVLstop_sound {_w : LaneWord} {s : State} (hs : s.Sound) {fin : State} (ok : execVLstop _w s = .next fin) : fin.Sound
    := by
  refine runConfirmed_sound hs (fun v f p u hs ok => ?_) ok
  simp only [bind, Except.bind] at ok
  grind [runConfirmed_sound, State.settleFlow_sound, State.returnLanes_sound]

theorem execVTrap_sound {w : LaneWord} {s : State} (hs : s.Sound) {fin : State} (ok : execVTrap w s = .next fin) : fin.Sound := by
  refine runLane_sound hs (fun v f p u hs ok => ?_) ok
  (try simp only [bind, Except.bind, pure, Except.pure] at ok)
  grind [State.setFlock_sound, runLane_sound, traps, waits, waitsEmpty]

theorem execVBrk_sound {w : LaneWord} {s : State} (hs : s.Sound) {fin : State} (ok : execVBrk w s = .next fin) : fin.Sound := by
  refine runLane_sound hs (fun v f p u hs ok => ?_) ok
  (try simp only [bind, Except.bind, pure, Except.pure] at ok)
  grind [State.setFlock_sound, runLane_sound, traps, waits, waitsEmpty]

theorem execVBru_sound {w : LaneWord} {s : State} (hs : s.Sound) {fin : State} (ok : execVBru w s = .next fin) : fin.Sound := by
  refine runLane_sound hs (fun v f p u hs ok => ?_) ok
  simp only [bind, Except.bind] at ok
  grind [State.setFlock_sound, runLane_sound]

theorem execVReconv_sound {_w : LaneWord} {s : State} (hs : s.Sound) {fin : State} (ok : execVReconv _w s = .next fin) : fin.Sound
    := by
  refine runLane_sound hs (fun v f p u hs ok => ?_) ok
  simp only [bind, Except.bind] at ok
  grind [State.setFlock_sound, runLane_sound, State.settleFlow_sound]

theorem State.reconvWait_sound {s : State} {f : Flock} {p : Path} {w : LaneWord} (hs : s.Sound) {fin : State}
    (ok : State.reconvWait s f p w = .ok fin) : fin.Sound := by
  unfold State.reconvWait at ok; simp only [bind, Except.bind] at ok; grind [State.setFlock_sound, State.post_sound,
    State.settleFlow_sound]

theorem State.reconvAt_sound {s : State} {f : Flock} {p : Path} {w : LaneWord} (hs : s.Sound) {fin : State}
    (ok : State.reconvAt s f p w = .ok fin) : fin.Sound := by
  unfold State.reconvAt at ok; simp only [bind, Except.bind] at ok
  (repeat' split at ok) <;> (first | cases ok | skip) <;> grind [→ State.reconvWait_sound]

theorem execVReconvW_sound {w : LaneWord} {s : State} (hs : s.Sound) {fin : State} (ok : execVReconvW w s = .next fin) : fin.Sound
    := by
  refine runLaneAt_sound hs (fun v f p u hs ok => ?_) ok
  (try simp only [bind, Except.bind, pure, Except.pure] at ok)
  grind [runLaneAt_sound, State.reconvAt_sound, traps, waits, waitsEmpty]

theorem execReconvTimeout_sound {flock entry : Nat} {s : State} (hs : s.Sound) {fin : State}
    (ok : execReconvTimeout flock entry s = .next fin) : fin.Sound := by
  unfold execReconvTimeout at ok; grind [State.post_sound, State.settleFlow_sound]

theorem State.joinWait_sound {s : State} {uid rpoint : Nat} {m : LaneMask} (hs : s.Sound) : (State.joinWait s uid rpoint m).Sound
    := by
  unfold State.joinWait; grind [State.fetchLaneAt_sound, State.reconvAt_sound]

theorem State.resolveBranch_sound {s : State} {f : Flock} {b : Branch} {arms : List (Path × Guess)} (hs : s.Sound) {fin : State}
    (ok : State.resolveBranch s f b arms = some fin) : fin.Sound := by
  obtain ⟨g, _, rfl⟩ := Option.map_eq_some_iff.1 ok
  refine State.learn_sound ?_
  (repeat' split) <;> first
    | exact State.joinWait_sound (State.settleFlow_sound hs)
    | exact State.settleFlow_sound hs

theorem execVBr_sound {w : LaneWord} {s : State} (hs : s.Sound) {fin : State} (ok : execVBr w s = .next fin) : fin.Sound := by
  refine runLaneAt_sound hs (fun v f p u hs ok => ?_) ok
  simp only [bind, Except.bind] at ok
  (repeat' split at ok) <;> (first | cases ok | skip) <;> grind [State.setFlock_sound, State.post_sound, → runLaneAt_sound,
      → State.resolveBranch_sound]

theorem execPredicateResolution_sound {flock path : Nat} {s : State} (hs : s.Sound) {fin : State}
    (ok : execPredicateResolution flock path s = .next fin) : fin.Sound := by
  unfold execPredicateResolution at ok; grind [foldl_sound, State.setFlock_sound, State.post_sound, State.takeTrap_sound,
    State.progressOf_sound, State.resolveBranch_sound]

theorem State.exitPath_sound {s : State} {f : Flock} {p : Path} {ls : LaneMask} {kill : Bool} (hs : s.Sound) :
    (State.exitPath s f p ls kill).Sound := by
  unfold State.exitPath; grind [foldl_sound, State.setFlock_sound, State.onFlock_sound, State.settleFlow_sound,
    State.returnLanes_sound]

theorem laneExit_sound {w : LaneWord} {kill : Bool} {s : State} (hs : s.Sound) {fin : State} (ok : laneExit w kill s = .next fin)
    : fin.Sound := by
  refine runHeld_sound hs (fun v f p u hs ok => ?_) ok
  simp only [bind, Except.bind] at ok
  grind [runHeld_sound, State.exitPath_sound]

theorem execVExit_sound {w : LaneWord} {s : State} (hs : s.Sound) {fin : State} (ok : execVExit w s = .next fin) : fin.Sound := by
  exact laneExit_sound hs ok

theorem execVKill_sound {w : LaneWord} {s : State} (hs : s.Sound) {fin : State} (ok : execVKill w s = .next fin) : fin.Sound := by
  exact laneExit_sound hs ok

/-! ## Regroup.lean -/

theorem State.collect_sound {s : State} {f : Flock} {a : Arrival} {site : Nat} (hs : s.Sound) : (State.collect s f a site).Sound
    := by
  unfold State.collect; grind [State.setCore_sound, State.post_sound, State.bumpUid_sound]

theorem execVCallRg_sound {w : LaneWord} {s : State} (hs : s.Sound) {fin : State} (ok : execVCallRg w s = .next fin) : fin.Sound
    := by
  refine runLaneAs_sound hs (fun v f p u hs ok => ?_) ok
  simp only [bind, Except.bind] at ok
  grind [State.setFlock_sound, runLaneAs_sound, State.collect_sound]

theorem State.setCollection_sound {s : State} {core : Nat} {c : Collection} (hs : s.Sound) : (State.setCollection s core c).Sound
    := by
  unfold State.setCollection; grind [State.onCore_sound]

theorem State.failCall_sound {s : State} {uid pid lane : Nat} {t : Trap} (hs : s.Sound) : (State.failCall s uid pid lane t).Sound
    := by
  unfold State.failCall; grind [State.onFlock_sound, State.takeTrap_sound]

theorem State.formOne_sound {s : State} {core : Nat} {c : Collection} (hs : s.Sound) {fin : State}
    (ok : State.formOne s core c = some fin) : fin.Sound := by
  unfold State.formOne at ok
  (repeat' split at ok) <;> (first | cases ok | skip) <;> grind [State.sound_mk, cases State.Sound, foldl_sound, length_setNth,
      List.length_map, List.length_zipIdx, Memory.wf_write, Memory.wf_writeNum, Memory.wf_setByte, State.enterDatapath_sound,
      State.setCollection_sound, State.failCall_sound]

theorem State.formCalls_sound {s : State} {core id : Nat} {y0 : Nat} (hs : s.Sound) : (State.formCalls s core id y0).Sound := by
  induction y0 generalizing s <;> grind [State.formCalls, → State.formOne_sound]

theorem State.closeCollection_sound {s : State} {core id : Nat} (hs : s.Sound) : (State.closeCollection s core id).Sound := by
  unfold State.closeCollection; grind [State.onCore_sound, State.formCalls_sound]

theorem execRegroupCollectionClose_sound {core coll : Nat} {s : State} (hs : s.Sound) {fin : State}
    (ok : execRegroupCollectionClose core coll s = .next fin) : fin.Sound := by
  unfold execRegroupCollectionClose at ok; grind [State.post_sound, State.closeCollection_sound]

theorem execRegroupCollectionTimeout_sound {core coll : Nat} {s : State} (hs : s.Sound) {fin : State}
    (ok : execRegroupCollectionTimeout core coll s = .next fin) : fin.Sound := by
  unfold execRegroupCollectionTimeout at ok; grind [State.post_sound, State.closeCollection_sound]

theorem execVRetRg_sound {_w : LaneWord} {s : State} (hs : s.Sound) {fin : State} (ok : execVRetRg _w s = .next fin) : fin.Sound
    := by
  refine runConfirmed_sound hs (fun v f p u hs ok => ?_) ok
  (try simp only [bind, Except.bind, pure, Except.pure] at ok)
  grind [runConfirmed_sound, State.settleFlow_sound, State.returnLanes_sound, traps, waits, waitsEmpty]

theorem execCallFlockEnd_sound {flock : Nat} {s : State} (hs : s.Sound) {fin : State} (ok : execCallFlockEnd flock s = .next fin)
    : fin.Sound := by
  unfold execCallFlockEnd at ok; grind [State.post_sound, State.endFlock_sound]

theorem execVRegroup_sound {w : LaneWord} {s : State} (hs : s.Sound) {fin : State} (ok : execVRegroup w s = .next fin) : fin.Sound
    := by
  refine runConfirmed_sound hs (fun v f p u hs ok => ?_) ok
  simp only [bind, Except.bind] at ok
  grind [State.setFlock_sound, runConfirmed_sound]

end Sys2Proof.Machine
end

