-- ==== Sys2Proof/Laws/SoundUnits.lean ====
section
/-!
SUPPORT. The invariant `State.Sound` is kept by the engines and the graphics units: one lemma for each operation that
gives a state.
-/
set_option linter.unusedSimpArgs false

namespace Sys2Proof.Machine

/-! ## Shadow.lean -/

theorem State.shadowWrite_sound {s : State} {session shadow va : Nat} (hs : s.Sound) {fin : State × Loc}
    (ok : State.shadowWrite s session shadow va = .ok fin) : fin.1.Sound := by
  unfold State.shadowWrite at ok; grind [State.byEntry_sound]

theorem State.markPoison_sound {s : State} {pa n : Nat} (hs : s.Sound) : (State.markPoison s pa n).Sound := by
  unfold State.markPoison; grind [State.sound_mk, cases State.Sound]

theorem State.engineWrite_sound {s : State} {ag : Agent} {loc : Loc} {bs : List Byte} {bad : Bool} (hs : s.Sound) :
    (State.engineWrite s ag loc bs bad).Sound := by
  unfold State.engineWrite; grind [State.shipNew_sound, State.rekey_sound, State.touchL2_sound, State.performWrite_sound,
    State.storeRdc_sound, State.markPoison_sound]

/-! ## Matrix.lean -/

theorem State.landOp_sound {s : State} {uid : Nat} {id : Option Nat} {vals : List (Word32 × Bool)} {fl : Flags} {packets : Nat}
    (hs : s.Sound) : (State.landOp s uid id vals fl packets).Sound := by
  unfold State.landOp; grind [State.onFlock_sound, State.opProgress_sound]

theorem State.performMx_sound {s : State} {core : Nat} {o : MxOp} (hs : s.Sound) : (State.performMx s core o).Sound := by
  unfold State.performMx; grind [foldl_sound, State.setHerd_sound, State.setCtx_sound, State.engineWrite_sound, State.landOp_sound]

theorem execMatrixEngineOperation_sound {core : Nat} {s : State} (hs : s.Sound) {fin : State}
    (ok : execMatrixEngineOperation core s = .next fin) : fin.Sound := by
  unfold execMatrixEngineOperation at ok; grind [State.setCore_sound, State.post_sound, State.performMx_sound]

theorem execAccTransferComplete_sound {flock op : Nat} {s : State} (hs : s.Sound) {fin : State}
    (ok : execAccTransferComplete flock op s = .next fin) : fin.Sound := by
  unfold execAccTransferComplete at ok; grind [State.finishOp_sound]

/-! ## LaneMatrix.lean -/

theorem execSOpbRsv_sound {d a : BitVec 6} {s : State} (hs : s.Sound) {fin : State} (ok : execSOpbRsv d a s = .next fin)
    : fin.Sound := by
  refine runScalar_sound hs (fun v f u hs ok => ?_) ok
  (try simp only [bind, Except.bind, pure, Except.pure] at ok)
  grind [State.setFlock_sound, State.setHerd_sound, runScalar_sound, traps, waits, waitsEmpty]

theorem execSOpbRel_sound {a : BitVec 6} {s : State} (hs : s.Sound) {fin : State} (ok : execSOpbRel a s = .next fin) : fin.Sound
    := by
  refine runScalar_sound hs (fun v f u hs ok => ?_) ok
  simp only [bind, Except.bind] at ok
  grind [State.setFlock_sound, State.setHerd_sound, runScalar_sound]

theorem execSMxLease_sound {d a : BitVec 6} {s : State} (hs : s.Sound) {fin : State} (ok : execSMxLease d a s = .next fin)
    : fin.Sound := by
  refine runScalar_sound hs (fun v f u hs ok => ?_) ok
  simp only [bind, Except.bind] at ok
  grind [State.onCore_sound, State.setFlock_sound, runScalar_sound]

theorem execSMxYield_sound {s : State} (hs : s.Sound) {fin : State} (ok : execSMxYield s = .next fin) : fin.Sound := by
  refine runScalar_sound hs (fun v f u hs ok => ?_) ok
  (try simp only [bind, Except.bind, pure, Except.pure] at ok)
  grind [State.onCore_sound, State.setFlock_sound, runScalar_sound, traps, waits, waitsEmpty]

theorem State.queueMx_sound {s : State} {f : Flock} {p : Path} {ctx : Nat} {op : Option Nat} {kinds : List MxKind} (hs : s.Sound)
    {fin : State} (ok : State.queueMx s f p ctx op kinds = .ok fin) : fin.Sound := by
  unfold State.queueMx at ok; simp only [bind, Except.bind] at ok; grind [foldl_sound, State.onCore_sound, State.post_sound]

theorem State.onIssueFmt_sound {s : State} {f : Flock} {ctx : Nat} {g : Ctx → Ctx} (hs : s.Sound) :
    (State.onIssueFmt s f ctx g).Sound := by
  unfold State.onIssueFmt; grind [State.setHerd_sound, State.setCtx_sound]

theorem execVMxLds_sound {w : LaneWord} {s : State} (hs : s.Sound) {fin : State} (ok : execVMxLds w s = .next fin) : fin.Sound
    := by
  refine runConfirmed_sound hs (fun v f p u hs ok => ?_) ok
  simp only [bind, Except.bind] at ok
  (repeat' split at ok) <;> (first | cases ok | skip) <;> grind [→ runConfirmed_sound, State.retireFence_sound,
      → State.queueMx_sound, State.onIssueFmt_sound]

theorem execVMxSwap_sound {w : LaneWord} {s : State} (hs : s.Sound) {fin : State} (ok : execVMxSwap w s = .next fin) : fin.Sound
    := by
  refine runConfirmed_sound hs (fun v f p u hs ok => ?_) ok
  simp only [bind, Except.bind] at ok
  grind [runConfirmed_sound, State.retireFence_sound, State.queueMx_sound, State.onIssueFmt_sound]

theorem State.mmaIssue_sound {s : State} {f : Flock} {p : Path} {w : LaneWord} {lanes : List Nat} {kind : List Nat → MxKind}
    (hs : s.Sound) {fin : State} (ok : State.mmaIssue s f p w lanes kind = .ok fin) : fin.Sound := by
  unfold State.mmaIssue at ok; simp only [bind, Except.bind] at ok
  (repeat' split at ok) <;> (first | cases ok | skip) <;> grind [State.retireFence_sound, → State.queueMx_sound]

theorem execVMxMmaRf_sound {w : LaneWord} {s : State} (hs : s.Sound) {fin : State} (ok : execVMxMmaRf w s = .next fin) : fin.Sound
    := by
  refine runConfirmed_sound hs (fun v f p u hs ok => ?_) ok
  simp only [bind, Except.bind] at ok
  grind [runConfirmed_sound, State.mmaIssue_sound]

theorem execVMxMmaOpb_sound {w : LaneWord} {s : State} (hs : s.Sound) {fin : State} (ok : execVMxMmaOpb w s = .next fin)
    : fin.Sound := by
  refine runConfirmed_sound hs (fun v f p u hs ok => ?_) ok
  simp only [bind, Except.bind] at ok
  (repeat' split at ok) <;> (first | cases ok | skip) <;> grind [→ runConfirmed_sound, → State.mmaIssue_sound]

theorem State.accIssue_sound {s : State} {f : Flock} {p : Path} {ctx : Nat} {lanes : List Nat} {pieces : List Piece}
    {kind : MxKind} (hs : s.Sound) {fin : State} (ok : State.accIssue s f p ctx lanes pieces kind = .ok fin) : fin.Sound := by
  unfold State.accIssue at ok; simp only [bind, Except.bind] at ok; grind [State.beginOp_sound, State.queueMx_sound]

theorem execVAccLd_sound {w : LaneWord} {s : State} (hs : s.Sound) {fin : State} (ok : execVAccLd w s = .next fin) : fin.Sound
    := by
  refine runConfirmed_sound hs (fun v f p u hs ok => ?_) ok
  simp only [bind, Except.bind] at ok
  grind [runConfirmed_sound, State.retireFence_sound, State.accIssue_sound]

theorem execVAccMov_sound {w : LaneWord} {s : State} (hs : s.Sound) {fin : State} (ok : execVAccMov w s = .next fin) : fin.Sound
    := by
  refine runConfirmed_sound hs (fun v f p u hs ok => ?_) ok
  simp only [bind, Except.bind] at ok
  grind [runConfirmed_sound, State.retirePath_sound, State.accIssue_sound]

theorem execVAccZero_sound {w : LaneWord} {s : State} (hs : s.Sound) {fin : State} (ok : execVAccZero w s = .next fin) : fin.Sound
    := by
  refine runConfirmed_sound hs (fun v f p u hs ok => ?_) ok
  simp only [bind, Except.bind] at ok
  grind [runConfirmed_sound, State.retireFence_sound, State.queueMx_sound]

theorem execVAccDrain_sound {w : LaneWord} {s : State} (hs : s.Sound) {fin : State} (ok : execVAccDrain w s = .next fin)
    : fin.Sound := by
  refine runConfirmed_sound hs (fun v f p u hs ok => ?_) ok
  simp only [bind, Except.bind] at ok
  grind [→ runConfirmed_sound, State.retirePath_sound, → State.accIssue_sound]

theorem execVAccDrainG_sound {w : LaneWord} {s : State} (hs : s.Sound) {fin : State} (ok : execVAccDrainG w s = .next fin)
    : fin.Sound := by
  refine runConfirmed_sound hs (fun v f p u hs ok => ?_) ok
  simp only [bind, Except.bind] at ok
  (repeat' split at ok) <;> (first | cases ok | skip) <;> grind [→ runConfirmed_sound, State.retireFence_sound,
      → State.accIssue_sound]

theorem execVOpbPut_sound {w : LaneWord} {s : State} (hs : s.Sound) {fin : State} (ok : execVOpbPut w s = .next fin) : fin.Sound
    := by
  refine runConfirmed_sound hs (fun v f p u hs ok => ?_) ok
  simp only [bind, Except.bind] at ok
  (repeat' split at ok) <;> (first | cases ok | skip) <;> grind [→ runConfirmed_sound, State.retireFence_sound,
      → State.queueMx_sound]

/-! ## Copy.lean -/

theorem State.layoutRecord_sound {s : State} {f : Flock} {c : Word64} (hs : s.Sound) {fin : State × BitVec 512 × Nat}
    (ok : State.layoutRecord s f c = .ok fin) : fin.1.Sound := by
  unfold State.layoutRecord at ok; simp only [bind, Except.bind] at ok
  (repeat' split at ok) <;> (first | cases ok | skip) <;> grind [→ State.fetch_sound]

theorem State.expectBytes_sound {s : State} {bars : List (Nat × Nat × Nat)} {n : Nat} (hs : s.Sound) :
    (State.expectBytes s bars n).Sound := by
  unfold State.expectBytes; grind [foldl_sound, State.setHerd_sound]

theorem copyCommand_sound {k : CopyKind} {d a b : BitVec 6} {s : State} (hs : s.Sound) {fin : State}
    (ok : copyCommand k d a b s = .next fin) : fin.Sound := by
  refine runScalar_sound hs (fun v f u hs ok => ?_) ok
  simp only [bind, Except.bind] at ok
  (repeat' split at ok) <;> (first | cases ok | skip) <;> grind [State.onCore_sound, State.onFlock_sound, State.post_sound,
      State.bumpUid_sound, → runScalar_sound, State.beginOp_sound, → State.layoutRecord_sound, State.expectBytes_sound]

theorem execSCp_sound {d a b : BitVec 6} {s : State} (hs : s.Sound) {fin : State} (ok : execSCp d a b s = .next fin) : fin.Sound
    := by
  exact copyCommand_sound hs ok

theorem execSCpMc_sound {d a b : BitVec 6} {s : State} (hs : s.Sound) {fin : State} (ok : execSCpMc d a b s = .next fin)
    : fin.Sound := by
  exact copyCommand_sound hs ok

theorem execSXf_sound {d a b : BitVec 6} {s : State} (hs : s.Sound) {fin : State} (ok : execSXf d a b s = .next fin) : fin.Sound
    := by
  exact copyCommand_sound hs ok

theorem execSCpG_sound {d a b : BitVec 6} {s : State} (hs : s.Sound) {fin : State} (ok : execSCpG d a b s = .next fin) : fin.Sound
    := by
  exact copyCommand_sound hs ok

theorem State.setCmd_sound {s : State} {core : Nat} {c : CopyCmd} (hs : s.Sound) : (State.setCmd s core c).Sound := by
  unfold State.setCmd; grind [State.onCore_sound]

theorem State.engineRead_sound {s : State} {ag : Agent} {y0 : Nat} {y1 : Nat} {y2 : Nat} (hs : s.Sound) {fin : EngineData}
    (ok : State.engineRead s ag y0 y1 y2 = .ok fin) : fin.state.Sound := by
  induction y0 generalizing s y1 y2 fin with
  | zero => cases ok; exact hs
  | succ k ih =>
    cases y2 with
    | zero => cases ok; exact hs
    | succ n =>
      simp only [State.engineRead] at ok
      split at ok
      · cases ok
      · rename_i h1
        split at ok
        · cases ok
        · rename_i h2
          split at ok
          · cases ok
          · rename_i h3
            cases ok
            have hu := State.readThrough_sound (State.translate_sound hs h1) h2
            have h := ih hu h3
            exact h

theorem State.engineBytes_sound {s : State} {ag : Agent} {va n : Nat} (hs : s.Sound) {fin : EngineData}
    (ok : State.engineBytes s ag va n = .ok fin) : fin.state.Sound := by
  unfold State.engineBytes at ok; grind [State.engineRead_sound]

theorem State.rowAt_sound {s : State} {core : Nat} {c : CopyCmd} {a : Nat} (hs : s.Sound) {fin : EngineData}
    (ok : State.rowAt s core c a = .ok fin) : fin.state.Sound := by
  unfold State.rowAt at ok; grind [State.engineBytes_sound]

theorem State.sourceRow_sound {s : State} {core : Nat} {c : CopyCmd} {i : Nat} (hs : s.Sound) {fin : EngineData}
    (ok : State.sourceRow s core c i = .ok fin) : fin.state.Sound := by
  unfold State.sourceRow at ok; grind [State.engineBytes_sound, State.rowAt_sound]

theorem State.shadowWords_sound {s : State} {c : CopyCmd} {va : Nat} {row : List (Byte × Bool)} {y0 : List (Nat × Nat)}
    (hs : s.Sound) {fin : State × List CopyWord} (ok : State.shadowWords s c va row y0 = .ok fin) : fin.1.Sound := by
  induction y0 generalizing s fin <;> simp only [State.shadowWords, bind, Except.bind, pure, Except.pure] at ok <;>
    grind [→ State.shadowWrite_sound]

theorem State.rowWords_sound {s : State} {c : CopyCmd} {j : Nat} {row : List (Byte × Bool)} (hs : s.Sound)
    {fin : State × List CopyWord} (ok : State.rowWords s c j row = .ok fin) : fin.1.Sound := by
  unfold State.rowWords at ok; grind [State.shadowWords_sound]

theorem State.transposedWords_sound {s : State} {c : CopyCmd} {rows : List (List (Byte × Bool))} {y0 : List Nat} (hs : s.Sound)
    {fin : State × List CopyWord} (ok : State.transposedWords s c rows y0 = .ok fin) : fin.1.Sound := by
  induction y0 generalizing s fin <;> simp only [State.transposedWords, bind, Except.bind, pure, Except.pure] at ok <;>
    grind [→ State.rowWords_sound]

theorem State.readRow_sound {s : State} {core : Nat} {c : CopyCmd} (hs : s.Sound) {fin : State × CopyCmd × Nat}
    (ok : State.readRow s core c = .ok fin) : fin.1.Sound := by
  unfold State.readRow at ok; grind [→ State.sourceRow_sound, → State.rowWords_sound, → State.transposedWords_sound]

theorem execCopyTransferStart_sound {core cmd : Nat} {s : State} (hs : s.Sound) {fin : State}
    (ok : execCopyTransferStart core cmd s = .next fin) : fin.Sound := by
  unfold execCopyTransferStart at ok; grind [State.post_sound, State.postOnce_sound, State.noteRequests_sound, State.setCmd_sound,
    → State.readRow_sound]

theorem State.copyStatus_sound {s : State} {core : Nat} {c : CopyCmd} (hs : s.Sound) {fin : State}
    (ok : State.copyStatus s core c = .ok fin) : fin.Sound := by
  unfold State.copyStatus at ok; grind [State.shipNew_sound, State.dropL1_sound, State.touchL2_sound, State.dropCopies_sound,
    → State.checkAccess_sound, State.performAtom_sound, → State.atomic_sound]

theorem State.landWord_sound {s : State} {core : Nat} {c : CopyCmd} {w : CopyWord} (hs : s.Sound) :
    (State.landWord s core c w).Sound := by
  unfold State.landWord; grind [State.setHerd_sound, State.engineWrite_sound]

theorem State.endCmd_sound {s : State} {core : Nat} {c : CopyCmd} (hs : s.Sound) : (State.endCmd s core c).Sound := by
  unfold State.endCmd; grind [State.onCore_sound, State.landOp_sound]

theorem execCopyWordLand_sound {core cmd : Nat} {s : State} (hs : s.Sound) {fin : State}
    (ok : execCopyWordLand core cmd s = .next fin) : fin.Sound := by
  unfold execCopyWordLand at ok; grind [State.post_sound, State.postOnce_sound, State.setCmd_sound, State.copyStatus_sound,
    State.landWord_sound, State.endCmd_sound]

theorem execCopyFaultSuspend_sound {core cmd : Nat} {s : State} (hs : s.Sound) {fin : State}
    (ok : execCopyFaultSuspend core cmd s = .next fin) : fin.Sound := by
  unfold execCopyFaultSuspend at ok; grind [State.post_sound]

/-! ## Async.lean -/

theorem State.swapTables_sound {s : State} {session src : Nat} {w : Window} {at_ : Nat} (hs : s.Sound) :
    (State.swapTables s session src w at_).Sound := by
  unfold State.swapTables; grind [State.putNum_sound, State.setCtx_sound, State.tlbTell_sound]

theorem execSPublish_sound {a : BitVec 6} {s : State} (hs : s.Sound) {fin : State} (ok : execSPublish a s = .next fin) : fin.Sound
    := by
  refine runScalar_sound hs (fun v f u hs ok => ?_) ok
  simp only [bind, Except.bind] at ok
  grind [State.onFlock_sound, State.applyAcquire_sound, runScalar_sound, State.swapTables_sound]

theorem State.readQueue_sound {s : State} {ag : Agent} {va : Nat} (hs : s.Sound) {fin : State × Loc × QueueDesc}
    (ok : State.readQueue s ag va = .ok fin) : fin.1.Sound := by
  unfold State.readQueue at ok; grind [→ State.translate_sound]

theorem State.pushChecks_sound {s : State} {f : Flock} {sq spk : Nat} (hs : s.Sound)
    {fin : State × Loc × QueueDesc × Loc × List Byte} (ok : State.pushChecks s f sq spk = .ok fin) : fin.1.Sound := by
  unfold State.pushChecks at ok
  (repeat' split at ok) <;> (first | cases ok | skip) <;> grind [→ State.translate_sound, → State.atomic_sound,
      → State.readQueue_sound]

theorem State.claimSlot_sound {s : State} {f : Flock} {d : BitVec 6} {sq spk : Nat} (hs : s.Sound) {fin : State}
    (ok : State.claimSlot s f d sq spk = .ok fin) : fin.Sound := by
  unfold State.claimSlot at ok; simp only [bind, Except.bind] at ok; grind [State.onFlock_sound, State.shipNew_sound,
    State.touchL2_sound, State.performWrite_sound, State.dropCopies_sound, State.beginOp_sound, → State.pushChecks_sound]

theorem State.writePacket_sound {s : State} {f : Flock} {c : Claim} (hs : s.Sound) {fin : State}
    (ok : State.writePacket s f c = .ok fin) : fin.Sound := by
  obtain ⟨_, -, ok⟩ := bind_ok ok
  cases ok
  exact State.onFlock_sound (State.storePart_sound (State.storePart_sound (State.rekey_sound hs)))

theorem execSQpush_sound {d a b : BitVec 6} {s : State} (hs : s.Sound) {fin : State} (ok : execSQpush d a b s = .next fin)
    : fin.Sound := by
  refine runScalar_sound hs (fun v f u hs ok => ?_) ok
  simp only [bind, Except.bind] at ok
  grind [State.onFlock_sound, State.post_sound, runScalar_sound, State.claimSlot_sound, State.writePacket_sound]

theorem execSDepDec_sound {a b : BitVec 6} {s : State} (hs : s.Sound) {fin : State} (ok : execSDepDec a b s = .next fin)
    : fin.Sound := by
  refine runScalar_sound hs (fun v f u hs ok => ?_) ok
  simp only [bind, Except.bind] at ok
  grind [State.onFlock_sound, State.post_sound, runScalar_sound]

theorem State.sealPage_sound {s : State} {session src va pa e : Nat} (hs : s.Sound) : (State.sealPage s session src va pa e).Sound
    := by
  unfold State.sealPage; grind [State.post_sound, State.bumpUid_sound, State.putNum_sound, State.ship_sound, State.tlbTell_sound]

theorem execSPseal_sound {a : BitVec 6} {s : State} (hs : s.Sound) {fin : State} (ok : execSPseal a s = .next fin) : fin.Sound
    := by
  refine runScalar_sound hs (fun v f u hs ok => ?_) ok
  (try simp only [bind, Except.bind, pure, Except.pure] at ok)
  grind [State.onFlock_sound, runScalar_sound, State.sealPage_sound, traps, waits, waitsEmpty]

/-! ## Raster.lean -/

theorem execVRast_sound {w : LaneWord} {s : State} (hs : s.Sound) {fin : State} (ok : execVRast w s = .next fin) : fin.Sound := by
  refine runConfirmed_sound hs (fun v f p u hs ok => ?_) ok
  simp only [bind, Except.bind] at ok
  grind [State.post_sound, runConfirmed_sound, State.settleFlow_sound]

theorem State.homeRead_sound {s : State} {ag : Agent} {loc : Loc} {n : Nat} (hs : s.Sound) {fin : State × Nat × Bool}
    (ok : State.homeRead s ag loc n = some fin) : fin.1.Sound := by
  obtain ⟨x, hx, rfl⟩ := Option.map_eq_some_iff.1 ok
  exact State.readThrough_sound hs hx

theorem State.unitRead_sound {s : State} {ag : Agent} {lane va n align : Nat} (hs : s.Sound) {fin : State × Nat}
    (ok : State.unitRead s ag lane va n align = .ok fin) : fin.1.Sound := by
  unfold State.unitRead at ok
  (repeat' split at ok) <;> (first | cases ok | skip) <;> grind [→ State.checkAccess_sound, → State.homeRead_sound]

theorem State.homeWrite_sound {s : State} {ag : Agent} {loc : Loc} {n v : Nat} (hs : s.Sound) :
    (State.homeWrite s ag loc n v).Sound := by
  unfold State.homeWrite; grind [State.dropCopies_sound, State.engineWrite_sound]

theorem State.unitWrite_sound {s : State} {ag : Agent} {lane va n align v : Nat} (hs : s.Sound) {fin : State}
    (ok : State.unitWrite s ag lane va n align v = .ok fin) : fin.Sound := by
  unfold State.unitWrite at ok; simp only [bind, Except.bind] at ok; grind [→ State.checkAccess_sound, State.homeWrite_sound]

theorem State.binEntries_sound {s : State} {ag : Agent} {b : BinSet} {lane : Nat} {y0 : List (Nat × Nat)} (hs : s.Sound)
    {fin : State × List (Nat × Nat × Nat × Nat)} (ok : State.binEntries s ag b lane y0 = .ok fin) : fin.1.Sound := by
  induction y0 generalizing s fin <;> simp only [State.binEntries, bind, Except.bind, pure, Except.pure] at ok <;>
    grind [→ State.unitRead_sound]

theorem State.binTile_sound {s : State} {ag : Agent} {b : BinSet} {lane prim free : Nat} {e : Nat × Nat × Nat × Nat}
    (hs : s.Sound) {fin : State × Nat} (ok : State.binTile s ag b lane prim free e = .ok fin) : fin.1.Sound := by
  unfold State.binTile at ok
  dsimp only at ok
  split at ok
  · obtain ⟨a, h1, ok⟩ := bind_ok ok
    obtain ⟨b, h2, ok⟩ := bind_ok ok
    cases ok
    exact State.unitWrite_sound (State.unitWrite_sound hs h1) h2
  · obtain ⟨a, h1, ok⟩ := bind_ok ok
    have ha := State.unitWrite_sound hs h1
    split at ok <;> (
      obtain ⟨b, h2, ok⟩ := bind_ok ok
      obtain ⟨c, h3, ok⟩ := bind_ok ok
      obtain ⟨d, h4, ok⟩ := bind_ok ok
      obtain ⟨_, h5, ok⟩ := bind_ok ok
      cases ok
      exact State.unitWrite_sound (State.unitWrite_sound (State.unitWrite_sound (State.unitWrite_sound ha h2) h3) h4) h5)

theorem State.binTiles_sound {s : State} {ag : Agent} {b : BinSet} {lane prim free : Nat} {y0 : List (Nat × Nat × Nat × Nat)}
    (hs : s.Sound) {fin : State × Nat} (ok : State.binTiles s ag b lane prim free y0 = .ok fin) : fin.1.Sound := by
  induction y0 generalizing s free with
  | nil => cases ok; exact hs
  | cons e r ih =>
    obtain ⟨x, h1, ok⟩ := bind_ok ok
    exact ih (State.binTile_sound hs h1) ok

theorem State.binLanes_sound {s : State} {ag : Agent} {b : BinSet} {set : Nat} {y0 : List (Nat × Nat × Nat)} (hs : s.Sound)
    {fin : State × List Nat} (ok : State.binLanes s ag b set y0 = .ok fin) : fin.1.Sound := by
  induction y0 generalizing s b fin with
  | nil => cases ok; exact hs
  | cons e r ih =>
    obtain ⟨x, h1, ok⟩ := bind_ok ok
    have hx := State.binEntries_sound hs h1
    dsimp only at ok
    split at ok
    · cases ok; exact hx
    · obtain ⟨y, h2, ok⟩ := bind_ok ok
      have hy := State.binTiles_sound hx h2
      split at ok
      · obtain ⟨z, h3, ok⟩ := bind_ok ok
        cases h3
        exact ih hy ok
      · obtain ⟨z, h3, ok⟩ := bind_ok ok
        exact ih (State.unitWrite_sound hy h3) ok

theorem execVBin_sound {w : LaneWord} {s : State} (hs : s.Sound) {fin : State} (ok : execVBin w s = .next fin) : fin.Sound := by
  refine runHeld_sound hs (fun v f p u hs ok => ?_) ok
  simp only [bind, Except.bind] at ok
  (repeat' split at ok) <;> (first | cases ok | skip) <;> grind [State.onFlock_sound, → runHeld_sound, State.retireFence_sound,
      → State.unitRead_sound, → State.binLanes_sound]

theorem execVExpPos_sound {w : LaneWord} {s : State} (hs : s.Sound) {fin : State} (ok : execVExpPos w s = .next fin) : fin.Sound
    := by
  refine runHeld_sound hs (fun v f p u hs ok => ?_) ok
  simp only [bind, Except.bind] at ok
  grind [→ runHeld_sound, → State.checkLanes_sound, → State.store_sound, State.retireFence_sound]

theorem State.checkPlaces_sound {s : State} {ag : Agent} {y0 : List (Nat × Nat)} (hs : s.Sound) {fin : State × List Loc}
    (ok : State.checkPlaces s ag y0 = .ok fin) : fin.1.Sound := by
  induction y0 generalizing s fin <;> simp only [State.checkPlaces, bind, Except.bind, pure, Except.pure] at ok <;>
    grind [→ State.checkAccess_sound]

theorem State.checkExports_sound {s : State} {ag : Agent} {w : LaneWord} {t : Target} {n : Nat} {y0 : List Export} (hs : s.Sound)
    {fin : State × List (Export × List Loc)} (ok : State.checkExports s ag w t n y0 = .ok fin) : fin.1.Sound := by
  induction y0 generalizing s fin <;> simp only [State.checkExports, bind, Except.bind, pure, Except.pure] at ok <;>
    grind [→ State.checkPlaces_sound]

theorem State.exportColour_sound {s : State} {ag : Agent} {w : LaneWord} {t : Target} {n : Nat} {e : Export} {c : Loc}
    (hs : s.Sound) : (State.exportColour s ag w t n e c).Sound := by
  unfold State.exportColour
  cases w.sub.getLsbD 1 with
  | false => exact State.homeWrite_sound hs
  | true =>
    refine State.homeWrite_sound ?_
    cases h : s.homeRead ag c n with
    | none => exact hs
    | some x => exact State.homeRead_sound hs h

theorem State.exportSample_sound {s : State} {ag : Agent} {w : LaneWord} {t : Target} {n : Nat} {x : Export × List Loc}
    (hs : s.Sound) : (State.exportSample s ag w t n x).Sound := by
  unfold State.exportSample; grind [→ State.homeRead_sound, State.homeWrite_sound, State.exportColour_sound]

theorem execVExpPx_sound {w : LaneWord} {s : State} (hs : s.Sound) {fin : State} (ok : execVExpPx w s = .next fin) : fin.Sound
    := by
  refine runHeld_sound hs (fun v f p u hs ok => ?_) ok
  simp only [bind, Except.bind] at ok
  (repeat' split at ok) <;> (first | cases ok | skip) <;> grind [foldl_sound, → runHeld_sound, State.retireFence_sound,
      → State.unitRead_sound, → State.checkExports_sound, State.exportSample_sound]

/-! ## Reads of the units (R330 to R342) -/

/-- A unit's program keeps the invariant. -/
def UnitSound {α : Type} (m : UnitM α) : Prop := ∀ s r, s.Sound → m s = .ok r → r.2.Sound

theorem unitSound_pure {α : Type} (a : α) : UnitSound (pure a : UnitM α) := fun _ _ hs h => by
  cases h; exact hs

theorem unitSound_bind {α β : Type} {m : UnitM α} {g : α → UnitM β} (hm : UnitSound m) (hg : ∀ a, UnitSound (g a)) :
    UnitSound (m >>= g) := fun s r hs h => by
  change (m s).bind (fun x => g x.1 x.2) = .ok r at h
  cases hx : m s with
  | error _ => rw [hx] at h; cases h
  | ok x => rw [hx] at h; exact hg x.1 x.2 r (hm s x hs hx) h

theorem unitSound_fault {α : Type} : UnitSound (unitFault : UnitM α) := fun _ _ _ h => by cases h

theorem unitSound_check (c : Bool) : UnitSound (unitCheck c) := by
  unfold unitCheck; split
  · exact unitSound_pure ()
  · exact unitSound_fault

theorem unitSound_mapM {α β : Type} {g : α → UnitM β} (hg : ∀ a, UnitSound (g a)) (l : List α) : UnitSound (l.mapM g) := by
  induction l with
  | nil => exact unitSound_pure _
  | cons x l ih =>
    rw [List.mapM_cons]
    exact unitSound_bind (hg x) fun _ => unitSound_bind ih fun _ => unitSound_pure _

theorem unitSound_line (ag : Agent) (va n : Nat) : UnitSound (fun s => s.unitLine ag va n) := fun s r hs h => by
  simp only [State.unitLine] at h
  grind [→ State.translate_sound, → State.readThrough_sound, State.noteRequests_sound]

theorem unitSound_run (ag : Agent) (fuel va n : Nat) : UnitSound (unitRun ag fuel va n) := by
  induction fuel generalizing va n with
  | zero => exact unitSound_pure _
  | succ f ih =>
    cases n with
    | zero => exact unitSound_pure _
    | succ n => exact unitSound_bind (unitSound_line ag _ _) fun _ => unitSound_bind (ih _ _) fun _ => unitSound_pure _

theorem unitSound_load (ag : Agent) (va n : Nat) : UnitSound (unitLoad ag va n) :=
  unitSound_bind (unitSound_run ag _ va n) fun _ => unitSound_pure _

theorem unitSound_heapEntry (ag : Agent) (base count bits size i : Nat) : UnitSound (heapEntry ag base count bits size i) :=
  fun s r hs h => by
    unfold heapEntry at h
    split at h
    · exact unitSound_load ag _ _ s r hs h
    · cases h

theorem unitSound_bindTexture (ag : Agent) (b : Nat) : UnitSound (bindTexture ag b) := by
  refine unitSound_bind (unitSound_heapEntry ag _ _ _ _ _) fun v => ?_
  cases textureOf v
  · exact unitSound_fault
  · exact unitSound_pure _

theorem unitSound_bindSampler (ag : Agent) (b : Nat) : UnitSound (bindSampler ag b) := by
  refine unitSound_bind (unitSound_heapEntry ag _ _ _ _ _) fun v => ?_
  cases samplerOf v
  · exact unitSound_fault
  · exact unitSound_pure _

theorem unitSound_decoderTable (ag : Agent) (i : Nat) : UnitSound (decoderTable ag i) := fun s r hs h => by
  have run : ∀ (t : State) (va : Nat) (x : List Byte × State), t.Sound → unitRun ag 22 va 1280 t = .ok x → x.2.Sound :=
    fun t va x ht hx => unitSound_run ag 22 va 1280 t x ht hx
  unfold decoderTable at h
  simp only [bind, Except.bind] at h
  grind [→ State.translate_sound, State.onCore_sound]

theorem unitSound_legacyPage (ag : Agent) (va : Nat) : UnitSound (legacyPage ag va) := fun s r hs h => by
  unfold legacyPage at h
  grind [→ State.lookup_sound]

theorem unitSound_address (t : Texture) (ag : Agent) (d x y : Nat) : UnitSound (t.address ag d x y) := by
  unfold Texture.address
  split
  · exact unitSound_bind (unitSound_legacyPage ag _) fun _ => unitSound_pure _
  · exact unitSound_pure _

theorem unitSound_latent (t : Texture) (ag : Agent) (d i j : Nat) : UnitSound (t.latent ag d i j) :=
  unitSound_bind (unitSound_load ag _ _) fun _ => unitSound_pure _

theorem unitSound_weighted (t : Texture) (ag : Agent) (d : Nat) (x : Nat × Nat × Nat) : UnitSound (t.weighted ag d x) := by
  unfold Texture.weighted
  split
  · exact unitSound_pure _
  · exact unitSound_bind (unitSound_latent t ag _ _ _) fun _ => unitSound_pure _

theorem unitSound_decodeLx (t : Texture) (ag : Agent) (d x y : Nat) : UnitSound (t.decodeLx ag d x y) :=
  unitSound_bind (unitSound_mapM (fun _ => unitSound_weighted t ag d _) _) fun _ =>
    unitSound_bind (unitSound_decoderTable ag _) fun _ => unitSound_pure _

theorem unitSound_texel (t : Texture) (ag : Agent) (d x y : Nat) : UnitSound (t.texel ag d x y) := by
  unfold Texture.texel
  split
  · exact unitSound_bind (unitSound_decodeLx t ag d x y) fun _ => unitSound_pure _
  · exact unitSound_bind (unitSound_address t ag d x y) fun _ => unitSound_bind (unitSound_load ag _ _) fun _ => unitSound_pure _

theorem unitSound_tapTexel (ag : Agent) (sm : Sampler) (t : Texture) (x : Tap) : UnitSound (tapTexel ag sm t x) := by
  unfold tapTexel
  dsimp only
  split
  · exact unitSound_texel t ag _ _ _
  · exact unitSound_pure _

theorem unitSound_filterTaps (ag : Agent) (sm : Sampler) (t : Texture) (n : Nat) (taps : List Tap) :
    UnitSound (filterTaps ag sm t n taps) :=
  unitSound_bind (unitSound_mapM (fun x => unitSound_bind (unitSound_tapTexel ag sm t x) fun _ => unitSound_pure _) _)
    fun _ => unitSound_pure _

theorem unitSound_sampleAt (s : State) (ag : Agent) (rnd : BitVec 2) (b : Nat) (u v : Option Mag) (g : Option (Option Gradient))
    (extra : Num) : UnitSound (sampleAt s ag rnd b u v g extra) := by
  unfold sampleAt
  refine unitSound_bind (unitSound_bindTexture ag b) fun t => unitSound_bind (unitSound_bindSampler ag b) fun sm => ?_
  dsimp only
  (repeat' split) <;> first
    | exact unitSound_pure _
    | exact unitSound_bind (unitSound_filterTaps ag sm t _ _) fun _ => unitSound_pure _

theorem unitSound_gatherAt (ag : Agent) (sm : Sampler) (t : Texture) (ch : Nat) (u v : Mag) : UnitSound (gatherAt ag sm t ch u v) :=
  unitSound_bind (unitSound_mapM (fun _ => unitSound_tapTexel ag sm t _) _) fun _ => unitSound_pure _

theorem unitSound_treeRecord (ag : Agent) (base size i : Nat) : UnitSound (treeRecord ag base size i) :=
  unitSound_bind (unitSound_check _) fun _ => unitSound_load ag _ _

theorem unitSound_traverse {α : Type} {visit : Nat → Nat → UnitM (List TreeItem)} {leaf : α → Nat → Nat → UnitM (α × Bool)}
    (hv : ∀ i d, UnitSound (visit i d)) (hl : ∀ a k i, UnitSound (leaf a k i)) (fuel n : Nat) (l : List TreeItem) (a : α) :
    UnitSound (traverse visit leaf fuel n l a) := by
  induction fuel generalizing n l a with
  | zero => exact unitSound_fault
  | succ f ih =>
    match l with
    | [] => exact unitSound_pure _
    | .node i d :: r => exact unitSound_bind (unitSound_check _) fun _ => unitSound_bind (hv i d) fun _ => ih _ _ _
    | .leaf k i :: r =>
      refine unitSound_bind (hl a k i) fun x => ?_
      dsimp only
      split
      · exact unitSound_pure _
      · exact ih _ _ _

theorem unitSound_visitBox (ag : Agent) (base : Nat) (enter : Vec3 → Vec3 → Bool) (kind i depth : Nat) :
    UnitSound (visitBox ag base enter kind i depth) := by
  refine unitSound_bind (unitSound_treeRecord ag _ _ _) fun v => ?_
  cases boxChildren enter kind depth v
  · exact unitSound_fault
  · exact unitSound_pure _

theorem unitSound_rayQuery (ag : Agent) (base : Nat) (r : Ray) (anyHit cull : Bool) : UnitSound (rayQuery ag base r anyHit cull) := by
  refine unitSound_bind (unitSound_traverse (unitSound_visitBox ag base _ 2) (fun a k i => ?_) _ _ _ _) fun _ => unitSound_pure _
  refine unitSound_bind (unitSound_treeRecord ag _ _ _) fun v => ?_
  dsimp only
  split <;> exact unitSound_pure _

theorem unitSound_pointQuery (ag : Agent) (base : Nat) (c : Vec3) (rsq : Nat) : UnitSound (pointQuery ag base c rsq) :=
  unitSound_traverse (unitSound_visitBox ag base _ 3) (fun _ _ _ => unitSound_bind (unitSound_treeRecord ag _ _ _) fun _ => unitSound_pure _) _ _ _ _

theorem unitSound_rangeQuery (ag : Agent) (base lo hi : Nat) : UnitSound (rangeQuery ag base lo hi) :=
  unitSound_traverse (fun _ _ => unitSound_bind (unitSound_treeRecord ag _ _ _) fun _ => unitSound_pure _)
    (fun _ _ _ => unitSound_bind (unitSound_treeRecord ag _ _ _) fun _ => unitSound_pure _) _ _ _ _

theorem unitSound_bufferPlaces (ag : Agent) (l : List (Nat × List Byte)) : UnitSound (bufferPlaces ag l) := by
  induction l with
  | nil => exact unitSound_pure _
  | cons x r ih =>
    obtain ⟨va, bs⟩ := x
    intro s y hs h
    simp only [bufferPlaces] at h
    split at h
    · cases h; exact hs
    · split at h
      · split at h <;> cases h
        exact hs
      · rename_i ht
        split at h
        · cases h
        · rename_i hr
          cases h
          have hu := ih _ _ (State.translate_sound hs ht) hr
          exact hu

theorem unitSound_placedQuery (ag : Agent) {q : LaneQuery} (hq : UnitSound q) : UnitSound (placedQuery ag q) :=
  unitSound_bind hq fun _ => unitSound_bind (unitSound_bufferPlaces ag _) fun _ => unitSound_pure _

/-! ## Sampler.lean -/

theorem State.unitLanes_sound {α : Type} {s : State} {one : Nat → UnitM α} {y0 : List Nat} (hs : s.Sound) (ho : ∀ x0,
    UnitSound (one x0)) {fin : State × List (Nat × Option α)} (ok : State.unitLanes s one y0 = some fin) : fin.1.Sound := by
  induction y0 generalizing s fin with
  | nil => cases ok; exact hs
  | cons l r ih =>
    have hl := ho l
    simp only [State.unitLanes] at ok
    split at ok
    · cases ok
    · obtain ⟨x, hx, rfl⟩ := Option.map_eq_some_iff.1 ok
      have h := ih hs hx
      exact h
    · rename_i h
      obtain ⟨x, hx, rfl⟩ := Option.map_eq_some_iff.1 ok
      have hu := hl s _ hs h
      have h := ih hu hx
      exact h

theorem sampler_sound {w : LaneWord} {srcs : List Src} {quads : Bool} {one : State → Flock → Agent → Nat → LaneSample} {s : State}
    (hs : s.Sound) (ho : ∀ x0 x1 x2 x3, UnitSound (one x0 x1 x2 x3)) {fin : State} (ok : sampler w srcs quads one s = .next fin)
    : fin.Sound := by
  refine runHeld_sound hs (fun s f p u hs ok => ?_) ok
  obtain ⟨_, -, ok⟩ := bind_ok ok
  obtain ⟨_, -, ok⟩ := bind_ok ok
  obtain ⟨_, -, ok⟩ := bind_ok ok
  obtain ⟨_, -, ok⟩ := bind_ok ok
  obtain ⟨_, -, ok⟩ := bind_ok ok
  split at ok
  · cases ok
  · rename_i h
    obtain ⟨_, -, ok⟩ := bind_ok ok
    cases ok
    have h := State.unitLanes_sound hs (ho s f (s.agentOf f)) h
    split
    · exact State.post_sound (State.retirePath_sound (State.beginOp_sound h))
    · exact State.retirePath_sound (State.beginOp_sound h)

theorem execVTexSmp_sound {w : LaneWord} {s : State} (hs : s.Sound) {fin : State} (ok : execVTexSmp w s = .next fin) : fin.Sound
    := by
  exact sampler_sound hs (fun _ _ _ _ => unitSound_sampleAt _ _ _ _ _ _ _ _) ok

theorem execVTexLod_sound {w : LaneWord} {s : State} (hs : s.Sound) {fin : State} (ok : execVTexLod w s = .next fin) : fin.Sound
    := by
  exact sampler_sound hs (fun _ _ _ _ => unitSound_sampleAt _ _ _ _ _ _ _ _) ok

theorem execVTexGrad_sound {w : LaneWord} {s : State} (hs : s.Sound) {fin : State} (ok : execVTexGrad w s = .next fin) : fin.Sound
    := by
  exact sampler_sound hs (fun _ _ _ _ => unitSound_sampleAt _ _ _ _ _ _ _ _) ok

theorem execVTexFetch_sound {w : LaneWord} {s : State} (hs : s.Sound) {fin : State} (ok : execVTexFetch w s = .next fin)
    : fin.Sound := by
  refine sampler_sound hs (fun _ _ ag _ => unitSound_bind (unitSound_bindTexture ag _) fun t => ?_) ok
  dsimp only
  split
  · exact unitSound_pure _
  · exact unitSound_bind (unitSound_texel t ag _ _ _) fun _ => unitSound_pure _

theorem execVTexGather_sound {w : LaneWord} {s : State} (hs : s.Sound) {fin : State} (ok : execVTexGather w s = .next fin)
    : fin.Sound := by
  refine sampler_sound hs (fun _ _ ag _ => unitSound_bind (unitSound_bindTexture ag _) fun t =>
    unitSound_bind (unitSound_bindSampler ag _) fun sm => ?_) ok
  split
  · exact unitSound_bind (unitSound_gatherAt ag sm t _ _ _) fun _ => unitSound_pure _
  · exact unitSound_pure _

theorem execVTexDec_sound {w : LaneWord} {s : State} (hs : s.Sound) {fin : State} (ok : execVTexDec w s = .next fin) : fin.Sound
    := by
  exact sampler_sound hs (fun _ _ ag _ => unitSound_bind (unitSound_decoderTable ag _) fun _ => unitSound_pure _) ok

theorem execSamplerResultReturn_sound {flock op : Nat} {s : State} (hs : s.Sound) {fin : State}
    (ok : execSamplerResultReturn flock op s = .next fin) : fin.Sound := by
  unfold execSamplerResultReturn at ok; grind [State.finishOp_sound]

/-! ## Tree.lean -/

theorem treeOp_sound {w : LaneWord} {srcs : List Src} {regs : Nat} {checks buffer : Bool} {fault : List Nat}
    {one : State → Flock → Agent → Nat → LaneQuery} {s : State} (hs : s.Sound) (ho : ∀ x0 x1 x2 x3, UnitSound (one x0 x1 x2 x3))
    {fin : State} (ok : treeOp w srcs regs checks buffer fault one s = .next fin) : fin.Sound := by
  refine runHeld_sound hs (fun s f p u hs ok => ?_) ok
  obtain ⟨_, -, ok⟩ := bind_ok ok
  obtain ⟨_, -, ok⟩ := bind_ok ok
  obtain ⟨_, -, ok⟩ := bind_ok ok
  split at ok
  · cases ok
  · rename_i t xs h
    obtain ⟨_, -, ok⟩ := bind_ok ok
    cases ok
    have h := State.unitLanes_sound hs (fun l => unitSound_placedQuery _ (ho s f (s.agentOf f) l)) h
    have h := foldl_sound (l := xs.flatMap fun (_, x) => (x.map (·.2)).getD []) h
      (g := fun t (loc, bs) => t.ffPart (s.agentOf f) f.uid f.nextId loc bs) fun _ _ hu => State.ffPart_sound hu
    (repeat' split) <;> first
      | exact State.post_sound (State.retireFence_sound (State.beginOp_sound h))
      | exact State.post_sound (State.retirePath_sound (State.beginOp_sound h))
      | exact State.retireFence_sound (State.beginOp_sound h)
      | exact State.retirePath_sound (State.beginOp_sound h)

theorem execVTravRay_sound {w : LaneWord} {s : State} (hs : s.Sound) {fin : State} (ok : execVTravRay w s = .next fin) : fin.Sound
    := by
  exact treeOp_sound hs (fun _ _ ag _ => unitSound_bind (unitSound_rayQuery ag _ _ _ _) fun _ => unitSound_pure _) ok

theorem execVTravRad_sound {w : LaneWord} {s : State} (hs : s.Sound) {fin : State} (ok : execVTravRad w s = .next fin) : fin.Sound
    := by
  unfold execVTravRad at ok
  exact treeOp_sound hs (fun _ _ ag _ => unitSound_bind (unitSound_pointQuery ag _ _ _) fun _ => unitSound_pure _) ok

theorem execVTravKnn_sound {w : LaneWord} {s : State} (hs : s.Sound) {fin : State} (ok : execVTravKnn w s = .next fin) : fin.Sound
    := by
  unfold execVTravKnn at ok
  exact treeOp_sound hs (fun _ _ ag _ => unitSound_bind (unitSound_pointQuery ag _ _ _) fun _ => unitSound_pure _) ok

theorem execVTravRng_sound {w : LaneWord} {s : State} (hs : s.Sound) {fin : State} (ok : execVTravRng w s = .next fin) : fin.Sound
    := by
  unfold execVTravRng at ok
  exact treeOp_sound hs (fun _ _ ag _ => unitSound_bind (unitSound_rangeQuery ag _ _ _) fun _ => unitSound_pure _) ok

theorem execVIsectBox_sound {w : LaneWord} {s : State} (hs : s.Sound) {fin : State} (ok : execVIsectBox w s = .next fin)
    : fin.Sound := by
  unfold execVIsectBox at ok
  exact treeOp_sound hs (fun _ _ _ _ => unitSound_pure _) ok

theorem execVIsectTri_sound {w : LaneWord} {s : State} (hs : s.Sound) {fin : State} (ok : execVIsectTri w s = .next fin)
    : fin.Sound := by
  unfold execVIsectTri at ok
  exact treeOp_sound hs (fun _ _ _ _ => unitSound_pure _) ok

theorem execTreeResultReturn_sound {flock op : Nat} {s : State} (hs : s.Sound) {fin : State}
    (ok : execTreeResultReturn flock op s = .next fin) : fin.Sound := by
  unfold execTreeResultReturn at ok; grind [State.finishOp_sound]

end Sys2Proof.Machine
end

