-- ==== Sys2Proof/Laws/SoundTask.lean ====
section
/-!
SUPPORT. The invariant `State.Sound` is kept by the task scheduler and the queue processor: one lemma for each operation that
gives a state.
-/
set_option linter.unusedSimpArgs false

namespace Sys2Proof.Machine

/-! ## Completion.lean -/

theorem readResult_sound {x : Option (State × List Byte × Bool)} (hx : ∀ y, x = some y → y.1.Sound) {fin : State × Nat}
    (ok : readResult x = .ok fin) : fin.1.Sound := by
  unfold readResult at ok
  split at ok
  · cases ok
  · split at ok <;> cases ok
    exact hx _ rfl

theorem State.devRead_sound {s : State} {ag : Agent} {va n : Nat} {fresh : Bool} (hs : s.Sound) {fin : State × Nat}
    (ok : State.devRead s ag va n fresh = .ok fin) : fin.1.Sound := by
  unfold State.devRead at ok
  split at ok
  · cases ok
  · rename_i h
    exact readResult_sound (fun y hy => State.readThrough_sound (State.translate_sound hs h) hy) ok

theorem State.physRead_sound {s : State} {ag : Agent} {pa n : Nat} (hs : s.Sound) {fin : State × Nat}
    (ok : State.physRead s ag pa n = .ok fin) : fin.1.Sound := by
  unfold State.physRead at ok
  split at ok
  · cases ok
  · exact readResult_sound (fun y hy => State.readThrough_sound (State.rekey_sound hs) hy) ok

theorem State.deviceAcquire_sound {s : State} {ag : Agent} (hs : s.Sound) : (State.deviceAcquire s ag).Sound := by
  unfold State.deviceAcquire; grind [State.dropMutable_sound, State.stopFills_sound]

theorem State.devAcquire_sound {s : State} {ag : Agent} {va n : Nat} (hs : s.Sound) {fin : State × Option Nat}
    (ok : State.devAcquire s ag va n = .ok fin) : fin.1.Sound := by
  unfold State.devAcquire at ok; grind [State.catchUp_sound, → State.readThrough_sound, → State.translate_sound,
    State.deviceAcquire_sound]

theorem State.devWrite_sound {s : State} {ag : Agent} {va : Nat} {bs : List Byte} (hs : s.Sound) {fin : State}
    (ok : State.devWrite s ag va bs = .ok fin) : fin.Sound := by
  unfold State.devWrite at ok; grind [→ State.translate_sound, State.engineWrite_sound]

theorem State.paddockReport_sound {s : State} {n bit : Nat} (hs : s.Sound) : (State.paddockReport s n bit).Sound := by
  unfold State.paddockReport; grind [State.sound_mk, cases State.Sound, length_setNth, List.length_map, List.length_zipIdx,
    State.emit_sound]

theorem State.setLastDom_sound {s : State} {n : Nat} {domain : BitVec 16} (hs : s.Sound) : (State.setLastDom s n domain).Sound
    := by
  unfold State.setLastDom; grind [State.sound_mk, cases State.Sound, length_setNth, List.length_map, List.length_zipIdx]

theorem State.setQueue_sound {s : State} {x : QState} (hs : s.Sound) : (State.setQueue s x).Sound := by
  unfold State.setQueue; grind [State.sound_mk, cases State.Sound]

theorem State.cqDescriptor_sound {s : State} {session die : Nat} (hs : s.Sound) {fin : State × QueueDesc}
    (ok : State.cqDescriptor s session die = .ok fin) : fin.1.Sound := by
  unfold State.cqDescriptor at ok; grind [→ State.devRead_sound]

theorem State.cqBad_sound {s : State} {session : Nat} (hs : s.Sound) : (State.cqBad s session).Sound := by
  unfold State.cqBad; grind [State.sound_mk, cases State.Sound, State.postOnce_sound, State.paddockReport_sound]

theorem State.writeRecord_sound {s : State} {r : CompletionRec} {d : QueueDesc} {w : Nat} (hs : s.Sound) :
    (State.writeRecord s r d w).Sound := by
  unfold State.writeRecord; (repeat' split) <;> grind [State.post_sound, State.emit_sound, → State.devRead_sound,
    → State.devWrite_sound, State.cqBad_sound]

theorem execCompletionRecordWrite_sound {r : CompletionRec} {s : State} (hs : s.Sound) {fin : State}
    (ok : execCompletionRecordWrite r s = .next fin) : fin.Sound := by
  unfold execCompletionRecordWrite at ok; grind [State.post_sound, → State.devWrite_sound, → State.cqDescriptor_sound,
    State.cqBad_sound, State.writeRecord_sound]

theorem execCompletionQueueReread_sound {r : CompletionRec} {s : State} (hs : s.Sound) {fin : State}
    (ok : execCompletionQueueReread r s = .next fin) : fin.Sound := by
  unfold execCompletionQueueReread at ok; grind [State.post_sound, → State.cqDescriptor_sound, State.cqBad_sound,
    State.writeRecord_sound]

theorem execCqDescriptorRetest_sound {session : Nat} {s : State} (hs : s.Sound) {fin : State}
    (ok : execCqDescriptorRetest session s = .next fin) : fin.Sound := by
  unfold execCqDescriptorRetest at ok; grind [State.sound_mk, cases State.Sound, State.postOnce_sound, → State.cqDescriptor_sound,
    State.cqBad_sound]

theorem State.report_sound {s : State} {session : Nat} {tag : Word64} {typ status die : Nat} {queue : Option Nat} (hs : s.Sound) :
    (State.report s session tag typ status die queue).Sound := by
  unfold State.report; grind [State.post_sound]

theorem execCompletionAction_sound {c : Completion} {s : State} (hs : s.Sound) {fin : State}
    (ok : execCompletionAction c s = .next fin) : fin.Sound := by
  unfold execCompletionAction at ok; grind [State.post_sound]

theorem State.retirePacket_sound {s : State} {session q slot : Nat} (hs : s.Sound) : (State.retirePacket s session q slot).Sound
    := by
  unfold State.retirePacket; grind [State.postOnce_sound, State.setQueue_sound]

theorem State.packetDone_sound {s : State} {p : Packet} (hs : s.Sound) : (State.packetDone s p).Sound := by
  unfold State.packetDone; grind [State.post_sound, State.retirePacket_sound]

theorem State.packetFailed_sound {s : State} {p : Packet} {status : Nat} (hs : s.Sound) : (State.packetFailed s p status).Sound
    := by
  unfold State.packetFailed; grind [State.waiting_sound, State.setQueue_sound, State.report_sound, State.retirePacket_sound]

theorem execRegionComplete_sound {region : Nat} {s : State} (hs : s.Sound) {fin : State}
    (ok : execRegionComplete region s = .next fin) : fin.Sound := by
  unfold execRegionComplete at ok; grind [State.sound_mk, cases State.Sound, State.post_sound, State.postOnce_sound,
    State.report_sound, State.retirePacket_sound]

theorem execFaultRecordWrite_sound {r : FaultRecord} {s : State} (hs : s.Sound) {fin : State}
    (ok : execFaultRecordWrite r s = .next fin) : fin.Sound := by
  unfold execFaultRecordWrite at ok; simp only [bind, Except.bind] at ok
  (repeat' split at ok) <;> (first | cases ok | skip) <;> grind [State.post_sound, → State.devRead_sound, → State.devWrite_sound,
      State.report_sound]

theorem execGraphicsFaultReport_sound {core region : Nat} {tree : Bool} {s : State} (hs : s.Sound) {fin : State}
    (ok : execGraphicsFaultReport core region tree s = .next fin) : fin.Sound := by
  unfold execGraphicsFaultReport at ok; grind [State.setCore_sound, State.report_sound]

/-! ## Admit.lean -/

theorem State.launchFlock_sound {s : State} {h : Herd} {r : Rcb} {i : Nat} (hs : s.Sound) : (State.launchFlock s h r i).Sound
    := by
  unfold State.launchFlock; grind [State.sound_mk, cases State.Sound, State.enterDatapath_sound]

theorem State.admitHerd_sound {s : State} {r : Region} {core herdid : Nat} {gang : Option Nat} (hs : s.Sound) :
    (State.admitHerd s r core herdid gang).Sound := by
  unfold State.admitHerd; grind [State.sound_mk, cases State.Sound, foldl_sound, length_setNth, List.length_map, List.length_zipIdx,
    Memory.wf_write, Memory.wf_writeNum, Memory.wf_setByte, State.onCore_sound, State.post_sound, State.applyAcquire_sound,
    State.launchFlock_sound]

theorem execHerdAdmit_sound {region : Nat} {s : State} (hs : s.Sound) {fin : State} (ok : execHerdAdmit region s = .next fin)
    : fin.Sound := by
  unfold execHerdAdmit at ok; grind [foldl_sound, State.setRegion_sound, State.postOnce_sound, State.admitHerd_sound]

theorem State.askHalt_sound {s : State} {uid : Nat} {abort : Bool} (hs : s.Sound) : (State.askHalt s uid abort).Sound := by
  unfold State.askHalt; grind [State.setHerd_sound]

theorem State.haltHerd_sound {s : State} {h : Herd} {abort : Bool} (hs : s.Sound) : (State.haltHerd s h abort).Sound := by
  unfold State.haltHerd; grind [foldl_sound, State.onCore_sound, State.onFlock_sound, State.postOnce_sound, State.withdraw_sound,
    State.closeCollection_sound, State.askHalt_sound]

theorem State.preempt_sound {s : State} {uid : Nat} {abort : Bool} (hs : s.Sound) : (State.preempt s uid abort).Sound := by
  unfold State.preempt; grind [foldl_sound, State.setHerd_sound, State.postOnce_sound, State.haltHerd_sound]

theorem execPreemptRequest_sound {herd : Nat} {s : State} (hs : s.Sound) {fin : State}
    (ok : execPreemptRequest herd s = .next fin) : fin.Sound := by
  unfold execPreemptRequest at ok; grind [State.preempt_sound]

theorem State.dropHerd_sound {s : State} {uid : Nat} (hs : s.Sound) : (State.dropHerd s uid).Sound := by
  unfold State.dropHerd; grind [State.sound_mk, cases State.Sound, foldl_sound, length_setNth, List.length_map, List.length_zipIdx,
    Memory.wf_write, Memory.wf_writeNum, Memory.wf_setByte, State.mapCores_sound, State.leaveDatapath_sound, State.endHerd_sound]

theorem State.failRegion_sound {s : State} {uid status : Nat} (hs : s.Sound) : (State.failRegion s uid status).Sound := by
  unfold State.failRegion; grind [State.setRegion_sound]

theorem State.loseHerds_sound {s : State} {uids : List Nat} {status : Nat} (hs : s.Sound) : (State.loseHerds s uids status).Sound
    := by
  unfold State.loseHerds; grind [foldl_sound, State.dropHerd_sound, State.failRegion_sound]

theorem State.failCore_sound {s : State} {core : Nat} (hs : s.Sound) : (State.failCore s core).Sound := by
  unfold State.failCore; grind [foldl_sound, State.onCore_sound, State.paddockReport_sound, State.loseHerds_sound]

theorem execHaltBoundFailure_sound {core : Nat} {s : State} (hs : s.Sound) {fin : State}
    (ok : execHaltBoundFailure core s = .next fin) : fin.Sound := by
  unfold execHaltBoundFailure at ok; grind [State.postOnce_sound, State.failCore_sound]

theorem State.stickCore_sound {s : State} {core : Nat} (hs : s.Sound) : (State.stickCore s core).Sound := by
  unfold State.stickCore; grind [State.onCore_sound, State.postOnce_sound]

theorem State.saveRun_sound {s : State} {ag : Agent} {kind : Access} {va : Nat} (hs : s.Sound) {fin : State × Loc}
    (ok : State.saveRun s ag kind va = .ok fin) : fin.1.Sound := by
  unfold State.saveRun at ok; grind [State.translate_sound]

theorem State.saveWrite_sound {s : State} {ag : Agent} {y0 : List Nat} (hs : s.Sound) {fin : State}
    (ok : State.saveWrite s ag y0 = .ok fin) : fin.Sound := by
  induction y0 generalizing s fin <;> simp only [State.saveWrite, bind, Except.bind, pure, Except.pure] at ok <;>
    grind [State.engineWrite_sound, → State.saveRun_sound]

theorem State.leaveSaved_sound {s : State} {h : Herd} {place : Nat} (hs : s.Sound) : (State.leaveSaved s h place).Sound := by
  unfold State.leaveSaved; grind [foldl_sound, State.onCore_sound, State.onFlock_sound, State.setHerd_sound, State.post_sound,
    State.leaveDatapath_sound, State.oweResidence_sound]

theorem State.saveHerd_sound {s : State} {h : Herd} (hs : s.Sound) {fin : State} (ok : State.saveHerd s h = some fin) : fin.Sound
    := by
  unfold State.saveHerd at ok; grind [State.paddockReport_sound, State.loseHerds_sound, State.saveWrite_sound,
    State.leaveSaved_sound]

theorem State.saveGang_sound {s : State} {y0 : List Herd} (hs : s.Sound) {fin : State} (ok : State.saveGang s y0 = some fin)
    : fin.Sound := by
  induction y0 generalizing s fin with
  | nil => cases ok; exact hs
  | cons h r ih =>
    obtain ⟨u, hu, ok⟩ := Option.bind_eq_some_iff.1 ok
    refine ih ?_ ok
    split at hu
    · exact State.saveHerd_sound hs hu
    · cases hu; exact hs

theorem execHerdSave_sound {herd : Nat} {s : State} (hs : s.Sound) {fin : State} (ok : execHerdSave herd s = .next fin)
    : fin.Sound := by
  unfold execHerdSave at ok; grind [foldl_sound, State.post_sound, State.postAdmissions_sound, State.dropHerd_sound,
    State.saveGang_sound]

theorem State.restoreFlock_sound {s : State} {core : Nat} {f : Flock} (hs : s.Sound) : (State.restoreFlock s core f).Sound := by
  unfold State.restoreFlock; grind [State.setFlock_sound, State.post_sound, State.restartBlocks_sound, State.enterDatapath_sound]

theorem State.restoreHerd_sound {s : State} {h : Herd} {core : Nat} (hs : s.Sound) : (State.restoreHerd s h core).Sound := by
  unfold State.restoreHerd; grind [foldl_sound, State.onCore_sound, State.setHerd_sound, State.post_sound, State.postOnce_sound,
    State.applyAcquire_sound, State.restoreFlock_sound]

theorem execHerdRestore_sound {herd : Nat} {s : State} (hs : s.Sound) {fin : State} (ok : execHerdRestore herd s = .next fin)
    : fin.Sound := by
  unfold execHerdRestore at ok; grind [foldl_sound, State.postOnce_sound, State.paddockReport_sound, State.loseHerds_sound,
    State.restoreHerd_sound]

/-! ## Paddock.lean -/

theorem State.setTokens_sound {s : State} {i : Nat} {v : Int} (hs : s.Sound) : (State.setTokens s i v).Sound := by
  unfold State.setTokens; grind [State.setCtx_sound]

theorem State.chargeTokens_sound {s : State} {i : Nat} (hs : s.Sound) : (State.chargeTokens s i).Sound := by
  unfold State.chargeTokens; grind [State.setPaddock_sound, State.setTokens_sound]

theorem State.latchSched_sound {s : State} {i : Nat} (hs : s.Sound) : (State.latchSched s i).Sound := by
  unfold State.latchSched; grind [State.setPaddock_sound]

theorem State.dropSched_sound {s : State} {i : Nat} (hs : s.Sound) : (State.dropSched s i).Sound := by
  unfold State.dropSched; grind [State.setPaddock_sound]

theorem State.countIdle_sound {s : State} {n session : Nat} (hs : s.Sound) : (State.countIdle s n session).Sound := by
  unfold State.countIdle; grind [State.setCtx_sound]

theorem State.earn_sound {s : State} {session : Nat} (hs : s.Sound) : (State.earn s session).Sound := by
  unfold State.earn; grind [State.setTokens_sound]

theorem State.floorStep_sound {x : State × Gifts} {session : Nat} (hs : x.1.Sound) : (State.floorStep x session).1.Sound := by
  unfold State.floorStep; grind [State.setTokens_sound]

theorem State.paidStep_sound {n : Nat} {x : State × Gifts} {session : Nat} (hs : x.1.Sound) : (State.paidStep n x session).1.Sound
    := by
  unfold State.paidStep; grind [State.setTokens_sound]

theorem State.giveCluster_sound {s : State} {c session : Nat} (hs : s.Sound) : (State.giveCluster s c session).Sound := by
  unfold State.giveCluster; grind [State.sound_mk, cases State.Sound, foldl_sound, length_setNth, List.length_map,
    List.length_zipIdx, Memory.wf_write, Memory.wf_writeNum, Memory.wf_setByte, State.preempt_sound]

theorem State.rereadPools_sound {s : State} {n : Nat} (hs : s.Sound) : (State.rereadPools s n).Sound := by
  unfold State.rereadPools; grind [foldl_sound, State.setRegion_sound, State.devRead_sound]

theorem State.assign_sound {s : State} {n : Nat} (hs : s.Sound) : (State.assign s n).Sound := by
  unfold State.assign
  dsimp only
  apply State.setPaddock_sound
  apply foldl_sound
  · apply foldl_pair_sound
    · apply foldl_pair_sound
      · apply foldl_sound
        · apply foldl_sound hs
          exact fun _ _ h => State.countIdle_sound h
        · exact fun _ _ h => State.earn_sound h
      · exact fun _ _ h => State.floorStep_sound h
    · exact fun _ _ h => State.paidStep_sound h
  · exact fun _ _ h => State.giveCluster_sound h

theorem execQuantumBoundary_sound {paddock : Nat} {s : State} (hs : s.Sound) {fin : State}
    (ok : execQuantumBoundary paddock s = .next fin) : fin.Sound := by
  unfold execQuantumBoundary at ok; grind [State.postOnce_sound, State.setPaddock_sound, State.postAdmissions_sound,
    State.rereadPools_sound, State.assign_sound]

theorem State.giveNow_sound {s : State} {n c session : Nat} (hs : s.Sound) : (State.giveNow s n c session).Sound := by
  unfold State.giveNow; grind [State.setPaddock_sound, State.giveCluster_sound]

theorem State.regionReady_sound {s : State} {r : Region} (hs : s.Sound) : (State.regionReady s r).Sound := by
  unfold State.regionReady; grind [foldl_sound, State.setPaddock_sound, State.chargeTokens_sound, State.giveNow_sound]

theorem State.exhaustPool_sound {s : State} {r : Region} (hs : s.Sound) : (State.exhaustPool s r).Sound := by
  unfold State.exhaustPool; grind [foldl_sound, State.setRegion_sound, State.paddockReport_sound, State.setLastDom_sound,
    State.report_sound, State.preempt_sound]

theorem State.chargePool_sound {s : State} {r : Region} {die units : Nat} (hs : s.Sound) {fin : State}
    (ok : State.chargePool s r die units = some fin) : fin.Sound := by
  unfold State.chargePool at ok; grind [→ State.devRead_sound, → State.devWrite_sound, State.exhaustPool_sound]

theorem State.payOwed_sound {s : State} {herd : Nat} (hs : s.Sound) : (State.payOwed s herd).Sound := by
  unfold State.payOwed; grind [State.sound_mk, cases State.Sound, foldl_sound, length_setNth, List.length_map, List.length_zipIdx,
    Memory.wf_write, Memory.wf_writeNum, Memory.wf_setByte, State.chargePool_sound]

theorem execBudgetCharge_sound {herd : Nat} {s : State} (hs : s.Sound) {fin : State} (ok : execBudgetCharge herd s = .next fin)
    : fin.Sound := by
  unfold execBudgetCharge at ok
  have h1 : ∀ u : State, u.Sound → (if u.owed.any fun o => o.herd = herd then u.postOnce (.budgetCharge herd) else u).Sound :=
    fun u hu => by split <;> first | exact State.postOnce_sound hu | exact hu
  have h2 := h1 _ (State.payOwed_sound hs (herd := herd))
  dsimp only at ok
  generalize (if (s.payOwed herd).owed.any fun o => o.herd = herd then (s.payOwed herd).postOnce (.budgetCharge herd)
    else s.payOwed herd) = t at h2 ok
  have h3 := State.postOnce_sound h2 (e := .budgetCharge herd)
  split at ok
  · cases ok; exact h2
  · split at ok
    · cases ok; exact h2
    · split at ok
      · cases ok; exact h3
      · rename_i x _ _ _
        cases ok
        cases hc : ((t.postOnce (.budgetCharge herd)).setHerd { x with charged := _ }).chargePool
            ((t.postOnce (.budgetCharge herd)).regionOf x) (dieOf x.core) ((t.postOnce (.budgetCharge herd)).residence x).1 with
        | none => exact h3
        | some y => exact State.chargePool_sound (State.setHerd_sound h3) hc

theorem State.startQuiesce_sound {s : State} {n : Nat} (hs : s.Sound) : (State.startQuiesce s n).Sound := by
  unfold State.startQuiesce; grind [foldl_sound, State.postOnce_sound, State.setPaddock_sound, State.preempt_sound]

theorem State.endQuiesce_sound {s : State} {n : Nat} (hs : s.Sound) : (State.endQuiesce s n).Sound := by
  unfold State.endQuiesce; grind [State.sound_mk, cases State.Sound, foldl_sound, length_setNth, List.length_map,
    List.length_zipIdx, Memory.wf_write, Memory.wf_writeNum, Memory.wf_setByte, State.postOnce_sound, State.setPaddock_sound,
    State.raiseRails_sound]

theorem execQuiesce_sound {paddock : Nat} {value : Bool} {s : State} (hs : s.Sound) {fin : State}
    (ok : execQuiesce paddock value s = .next fin) : fin.Sound := by
  unfold execQuiesce at ok; grind [State.startQuiesce_sound, State.endQuiesce_sound]

theorem execPaddockQuiesced_sound {paddock : Nat} {s : State} (hs : s.Sound) {fin : State}
    (ok : execPaddockQuiesced paddock s = .next fin) : fin.Sound := by
  unfold execPaddockQuiesced at ok; grind [State.postOnce_sound, State.setPaddock_sound]

theorem execQstuck_sound {paddock : Nat} {s : State} (hs : s.Sound) {fin : State} (ok : execQstuck paddock s = .next fin)
    : fin.Sound := by
  unfold execQstuck at ok; grind [State.postOnce_sound, State.paddockReport_sound]

/-! ## Queue.lean -/

theorem State.queueDescriptor_sound {s : State} {session q : Nat} (hs : s.Sound) {fin : State × QueueDesc}
    (ok : State.queueDescriptor s session q = .ok fin) : fin.1.Sound := by
  unfold State.queueDescriptor at ok; grind [→ State.physRead_sound]

theorem State.stopBadQueue_sound {s : State} {x : QState} (hs : s.Sound) : (State.stopBadQueue s x).Sound := by
  unfold State.stopBadQueue; grind [State.post_sound, State.setQueue_sound]

theorem execDoorbellWrite_sound {offset : Nat} {value : Word64} {s : State} (hs : s.Sound) {fin : State}
    (ok : execDoorbellWrite offset value s = .next fin) : fin.Sound := by
  unfold execDoorbellWrite at ok; grind [State.postOnce_sound, State.setQueue_sound, → State.queueDescriptor_sound,
    State.stopBadQueue_sound]

theorem State.consume_sound {s : State} {x : QState} {d : QueueDesc} {p : Packet} (hs : s.Sound) : (State.consume s x d p).Sound
    := by
  unfold State.consume; grind [State.post_sound, State.engineWrite_sound, State.setQueue_sound]

theorem execQueueStep_sound {session q : Nat} {s : State} (hs : s.Sound) {fin : State}
    (ok : execQueueStep session q s = .next fin) : fin.Sound := by
  unfold execQueueStep at ok; grind [State.post_sound, State.postOnce_sound, State.waiting_sound, → State.devAcquire_sound,
    State.setQueue_sound, → State.queueDescriptor_sound, State.stopBadQueue_sound, State.consume_sound]

theorem State.runPacket_sound {s : State} {p : Packet} {go : State → State} (hs : s.Sound) (hb : ∀ u, u.Sound → (go u).Sound) :
    (State.runPacket s p go).Sound := by
  unfold State.runPacket; grind [State.post_sound, State.postOnce_sound, State.setQueue_sound, State.packetFailed_sound]

theorem execPacketNop_sound {p : Packet} {s : State} (hs : s.Sound) {fin : State} (ok : execPacketNop p s = .next fin) : fin.Sound
    := by
  unfold execPacketNop at ok; grind [State.packetDone_sound, State.runPacket_sound]

theorem execPacketCopy_sound {p : Packet} {s : State} (hs : s.Sound) {fin : State} (ok : execPacketCopy p s = .next fin)
    : fin.Sound := by
  unfold execPacketCopy at ok; grind [State.post_sound, → State.devRead_sound, → State.devWrite_sound, State.packetDone_sound,
    State.packetFailed_sound, State.runPacket_sound]

theorem execPacketSignal_sound {p : Packet} {s : State} (hs : s.Sound) {fin : State} (ok : execPacketSignal p s = .next fin)
    : fin.Sound := by
  unfold execPacketSignal at ok; grind [State.post_sound, State.devWrite_sound, State.packetDone_sound, State.packetFailed_sound,
    State.runPacket_sound]

theorem State.waitRead_sound {s : State} {p : Packet} (hs : s.Sound) : (State.waitRead s p).Sound := by
  unfold State.waitRead; grind [State.post_sound, → State.devAcquire_sound, State.setQueue_sound, State.packetDone_sound,
    State.packetFailed_sound]

theorem execPacketWait_sound {p : Packet} {s : State} (hs : s.Sound) {fin : State} (ok : execPacketWait p s = .next fin)
    : fin.Sound := by
  unfold execPacketWait at ok; grind [State.setQueue_sound, State.runPacket_sound, State.waitRead_sound]

theorem execWaitReread_sound {p : Packet} {s : State} (hs : s.Sound) {fin : State} (ok : execWaitReread p s = .next fin)
    : fin.Sound := by
  unfold execWaitReread at ok; grind [State.waitRead_sound]

theorem execPacketSeal_sound {p : Packet} {s : State} (hs : s.Sound) {fin : State} (ok : execPacketSeal p s = .next fin)
    : fin.Sound := by
  unfold execPacketSeal at ok; grind [State.post_sound, State.sealPage_sound, State.packetDone_sound, State.packetFailed_sound,
    State.runPacket_sound]

theorem execPacketPublish_sound {p : Packet} {s : State} (hs : s.Sound) {fin : State} (ok : execPacketPublish p s = .next fin)
    : fin.Sound := by
  unfold execPacketPublish at ok; grind [State.post_sound, State.swapTables_sound, State.packetDone_sound, State.packetFailed_sound,
    State.runPacket_sound]

theorem State.dispatch_sound {s : State} {session addr : Nat} {template : Option Nat} {origin : Option (Nat × Nat)} {die : Nat}
    (hs : s.Sound) {fin : State} (ok : State.dispatch s session addr template origin die = .ok fin) : fin.Sound := by
  unfold State.dispatch at ok; simp only [bind, Except.bind] at ok
  (repeat' split at ok) <;> (first | cases ok | skip) <;> grind [State.sound_mk, cases State.Sound, State.post_sound,
      → State.devRead_sound, State.regionReady_sound]

theorem execPacketDispatch_sound {p : Packet} {s : State} (hs : s.Sound) {fin : State} (ok : execPacketDispatch p s = .next fin)
    : fin.Sound := by
  unfold execPacketDispatch at ok; grind [State.post_sound, State.packetFailed_sound, State.runPacket_sound, State.dispatch_sound]

theorem execDepCounterDecrement_sound {die ctr amount sender : Nat} {s : State} (hs : s.Sound) {fin : State}
    (ok : execDepCounterDecrement die ctr amount sender s = .next fin) : fin.Sound := by
  unfold execDepCounterDecrement at ok; grind [State.onDie_sound, State.post_sound, State.tell_sound, State.report_sound,
    State.dispatch_sound]

end Sys2Proof.Machine
end

