-- ==== Sys2Proof/Laws/SoundModule.lean ====
section
/-!
SUPPORT. The invariant `State.Sound` is kept by sessions, the fabric, the shepherds and the management of the module: one lemma for each operation that
gives a state.
-/
set_option linter.unusedSimpArgs false

namespace Sys2Proof.Machine

/-! ## Session.lean -/

theorem State.setDir_sound {s : State} {die b i : Nat} {x : Option DirEntry} (hs : s.Sound) : (State.setDir s die b i x).Sound
    := by
  unfold State.setDir; grind [State.onDie_sound]

theorem State.dropFrame_sound {s : State} {frame : Nat} (hs : s.Sound) : (State.dropFrame s frame).Sound := by
  unfold State.dropFrame; grind [State.sound_mk, cases State.Sound, State.mapCores_sound]

theorem State.unref_sound {s : State} {die : Nat} {x : DirEntry} (hs : s.Sound) : (State.unref s die x).Sound := by
  unfold State.unref; grind [State.poolReturn_sound, State.setDir_sound, State.dropFrame_sound]

theorem execCommonsRelease_sound {frame : FrameRelease} {s : State} (hs : s.Sound) {fin : State}
    (ok : execCommonsRelease frame s = .next fin) : fin.Sound := by
  unfold execCommonsRelease at ok; grind [State.onDie_sound, State.post_sound, State.unref_sound]

theorem execCrel_sound {_die : Nat} {value : Word64} {s : State} (hs : s.Sound) {fin : State}
    (ok : execCrel _die value s = .next fin) : fin.Sound := by
  unfold execCrel at ok; grind [State.post_sound, State.bumpUid_sound]

theorem execPoolReturnRetry_sound {die header frame : Nat} {since : Word64} {s : State} (hs : s.Sound) {fin : State}
    (ok : execPoolReturnRetry die header frame since s = .next fin) : fin.Sound := by
  unfold execPoolReturnRetry at ok; grind [State.post_sound, State.putNum_sound]

theorem execPoolReturnStall_sound {die header frame : Nat} {since : Word64} {s : State} (hs : s.Sound) {fin : State}
    (ok : execPoolReturnStall die header frame since s = .next fin) : fin.Sound := by
  unfold execPoolReturnStall at ok; grind [State.post_sound, State.tell_sound, State.poolReturn_sound]

theorem State.frameUnder_sound {s : State} {frame slot : Nat} (hs : s.Sound) : (State.frameUnder s frame slot).Sound := by
  unfold State.frameUnder; grind [foldl_sound, State.rekey_sound]

theorem State.merge_sound {s : State} {die : Nat} {j : SealJob} {x : DirEntry} (hs : s.Sound) : (State.merge s die j x).Sound
    := by
  unfold State.merge; grind [State.onDie_sound, State.putNum_sound, State.dropStale_sound, State.poolReturn_sound,
    State.tlbTell_sound, State.unref_sound]

theorem State.promote_sound {s : State} {die bucket dg : Nat} {j : SealJob} {page : List Byte} {collided : Bool} (hs : s.Sound) :
    (State.promote s die bucket dg j page collided).Sound := by
  unfold State.promote; grind [State.onDie_sound, State.putUnits_sound, → State.poolTake_sound, State.setDir_sound,
    State.merge_sound]

theorem State.matchPage_sound {s : State} {die bucket dg : Nat} {j : SealJob} {page : List Byte} {collided : Bool}
    {y0 : List DirEntry} (hs : s.Sound) : (State.matchPage s die bucket dg j page collided y0).Sound := by
  induction y0 generalizing s collided with
  | nil => exact State.promote_sound hs
  | cons x r ih =>
    simp only [State.matchPage]
    (repeat' split) <;> first
      | exact State.onDie_sound hs
      | exact State.merge_sound (State.setDir_sound hs)
      | exact ih (State.onDie_sound hs)

theorem execSealDigest_sound {j : SealJob} {s : State} (hs : s.Sound) {fin : State} (ok : execSealDigest j s = .next fin)
    : fin.Sound := by
  unfold execSealDigest at ok; grind [State.onDie_sound, State.post_sound, State.shipNew_sound, State.matchPage_sound]

theorem State.flushKey_sound {s : State} {slot die : Nat} (hs : s.Sound) : (State.flushKey s slot die).Sound := by
  unfold State.flushKey; grind [State.mapCores_sound, State.mapDies_sound]

theorem execKeyLoad_sound {die slot : Nat} {blob : List Byte} {s : State} (hs : s.Sound) {fin : State}
    (ok : execKeyLoad die slot blob s = .next fin) : fin.Sound := by
  unfold execKeyLoad at ok; grind [State.onDie_sound, State.post_sound, State.emit_sound, State.flushKey_sound]

theorem State.addRef_sound {s : State} {frame : Nat} (hs : s.Sound) {fin : State} (ok : State.addRef s frame = some fin)
    : fin.Sound := by
  unfold State.addRef at ok; grind [State.setDir_sound]

theorem State.forkLeaf_sound {s : State} {e : Nat} (hs : s.Sound) {fin : State × Nat} (ok : State.forkLeaf s e = some fin)
    : fin.1.Sound := by
  unfold State.forkLeaf at ok
  split at ok
  · cases ok; exact hs
  · split at ok
    · obtain ⟨t, ht, rfl⟩ := Option.map_eq_some_iff.1 ok
      exact State.addRef_sound hs ht
    · cases ok; exact hs

theorem State.writeTable_sound {s : State} {frame : Nat} {es : List Nat} (hs : s.Sound) : (State.writeTable s frame es).Sound
    := by
  unfold State.writeTable; grind [State.putUnits_sound]

theorem State.shipLines_sound {s : State} {session by_ src dst n : Nat} (hs : s.Sound) :
    (State.shipLines s session by_ src dst n).Sound := by
  unfold State.shipLines; grind [foldl_sound, State.shipNew_sound, State.shipRead_sound]

theorem State.copyTables_sound {s : State} {session by_ pool stop : Nat} {leaf : State → Nat → Option (State × Nat)} {y0 : Nat}
    {y1 : Nat} (hs : s.Sound) (hb : ∀ u x1 v, u.Sound → leaf u x1 = some v → v.1.Sound) {fin : State × Nat}
    (ok : State.copyTables s session by_ pool stop leaf y0 y1 = some fin) : fin.1.Sound := by
  have each : ∀ (go : State → Nat → Option (State × Nat)), (∀ u e v, u.Sound → go u e = some v → v.1.Sound) →
      ∀ (es : List Nat) (x : Option (State × List Nat)) (r : State × List Nat), (∀ y, x = some y → y.1.Sound) →
      es.foldl (fun x e => match x with
          | none => none
          | some (s, es) => (go s e).map fun (s, e) => (s, es ++ [e])) x = some r → r.1.Sound := by
    intro go hgo es
    induction es with
    | nil => exact fun x r hx h => hx r h
    | cons e es ih =>
      intro x r hx h
      refine ih _ r (fun y hy => ?_) h
      match x, hx with
      | none, _ => cases hy
      | some (s, l), hx =>
        obtain ⟨z, hz, rfl⟩ := Option.map_eq_some_iff.1 hy
        exact hgo s e z (hx _ rfl) hz
  induction y0 generalizing s y1 fin with
  | zero =>
    unfold State.copyTables at ok
    dsimp only at ok
    split at ok
    · rename_i hp
      obtain ⟨y, hy, rfl⟩ := Option.map_eq_some_iff.1 ok
      refine State.shipLines_sound (State.writeTable_sound (each leaf (fun u e v => hb u e v) _ _ y (fun z hz => ?_) hy))
      cases hz; exact State.poolTake_sound hs hp
    · cases ok
  | succ l ih =>
    unfold State.copyTables at ok
    dsimp only at ok
    split at ok
    · rename_i hp
      have hq := State.poolTake_sound hs hp
      split at ok
      · obtain ⟨y, hy, rfl⟩ := Option.map_eq_some_iff.1 ok
        refine State.shipLines_sound (State.writeTable_sound (each leaf (fun u e v => hb u e v) _ _ y (fun z hz => ?_) hy))
        cases hz; exact hq
      · obtain ⟨y, hy, rfl⟩ := Option.map_eq_some_iff.1 ok
        refine State.shipLines_sound (State.writeTable_sound (each _ (fun u e v hu he => ?_) _ _ y (fun z hz => ?_) hy))
        · split at he
          · obtain ⟨w, hw, rfl⟩ := Option.map_eq_some_iff.1 he
            exact ih (fin := w) hu hw
          · exact hb u e v hu he
        · cases hz; exact hq
    · cases ok

theorem State.inherit_sound {s : State} {b c : Nat} (hs : s.Sound) : (State.inherit s b c).Sound := by
  unfold State.inherit; grind [foldl_sound, State.setCtx_sound]

theorem State.wakeQueues_sound {s : State} {session : Nat} (hs : s.Sound) : (State.wakeQueues s session).Sound := by
  unfold State.wakeQueues; grind [foldl_sound, State.postOnce_sound]

theorem State.forkClaim_sound {s : State} {p : Packet} (hs : s.Sound) : (State.forkClaim s p).Sound := by
  unfold State.forkClaim; grind [State.setCtx_sound, State.setQueue_sound]

theorem State.forkRelease_sound {s : State} {p : Packet} {state : Nat} (hs : s.Sound) : (State.forkRelease s p state).Sound := by
  unfold State.forkRelease; grind [State.setCtx_sound, State.setQueue_sound]

theorem State.forkCopy_sound {s : State} {p : Packet} (hs : s.Sound) : (State.forkCopy s p).Sound := by
  unfold State.forkCopy; grind [State.setCtx_sound, State.packetDone_sound, State.packetFailed_sound, State.latchSched_sound,
    → State.forkLeaf_sound, → State.copyTables_sound, State.inherit_sound, State.wakeQueues_sound, State.forkRelease_sound]

theorem execPacketFork_sound {p : Packet} {s : State} (hs : s.Sound) {fin : State} (ok : execPacketFork p s = .next fin)
    : fin.Sound := by
  unfold execPacketFork at ok; grind [State.post_sound, State.packetFailed_sound, State.runPacket_sound, State.forkClaim_sound,
    State.forkCopy_sound]

theorem execPacketMigrate_sound {p : Packet} {s : State} (hs : s.Sound) {fin : State} (ok : execPacketMigrate p s = .next fin)
    : fin.Sound := by
  unfold execPacketMigrate at ok; grind [foldl_sound, State.post_sound, State.setCtx_sound, State.packetFailed_sound,
    State.preempt_sound, State.queueDescriptor_sound, State.runPacket_sound]

theorem State.moveKey_sound {s : State} {session die : Nat} (hs : s.Sound) {fin : State}
    (ok : State.moveKey s session die = some fin) : fin.Sound := by
  unfold State.moveKey at ok; grind [State.onDie_sound, State.setCtx_sound, State.shipNew_sound]

theorem execMigrateMove_sound {p : Packet} {s : State} (hs : s.Sound) {fin : State} (ok : execMigrateMove p s = .next fin)
    : fin.Sound := by
  have act : ∀ (t : State) (session : Nat), t.Sound →
      ((((t.setCtx session 33 2 1).setCtx session 61 1 0).latchSched session).wakeQueues session).Sound :=
    fun t session h => State.wakeQueues_sound (State.latchSched_sound (State.setCtx_sound (State.setCtx_sound h)))
  unfold execMigrateMove at ok
  dsimp only at ok
  split at ok
  · cases ok; exact State.post_sound hs
  · split at ok
    · cases ok
      exact State.packetFailed_sound (act _ _ (State.tlbTell_sound hs))
    · rename_i t ht
      cases ok
      refine State.packetDone_sound (act _ _ (State.setCtx_sound ?_))
      split at ht
      · obtain ⟨x, hx, h⟩ := Option.bind_eq_some_iff.1 ht
        have := State.copyTables_sound hs (fun u e v hu hv => by cases hv; exact hu) hx
        exact State.moveKey_sound (State.tlbTell_sound (State.setCtx_sound this)) h
      · cases ht

theorem execPlacementEpoch_sound {die : Nat} {s : State} (hs : s.Sound) {fin : State} (ok : execPlacementEpoch die s = .next fin)
    : fin.Sound := by
  unfold execPlacementEpoch at ok; grind [foldl_sound, State.setDie_sound, State.post_sound]

theorem execFrameMove_sound {m : FrameMove} {s : State} (hs : s.Sound) {fin : State} (ok : execFrameMove m s = .next fin)
    : fin.Sound := by
  unfold execFrameMove at ok; grind [State.post_sound, State.putNum_sound, State.dropStale_sound, State.copyBytes_sound,
    → State.poolTake_sound, State.poolReturn_sound, State.tlbTell_sound, State.frameUnder_sound, State.shipLines_sound]

/-! ## Fabric.lean -/

theorem State.fillPieces_sound {s : State} {uid id : Nat} {sel : Piece → Bool} {value : Piece → Word64 × Bool} (hs : s.Sound) :
    (State.fillPieces s uid id sel value).Sound := by
  unfold State.fillPieces; grind [State.onFlock_sound]

theorem State.opArrived_sound {s : State} {uid id : Nat} (hs : s.Sound) : (State.opArrived s uid id).Sound := by
  unfold State.opArrived; grind [State.onFlock_sound, State.opProgress_sound]

theorem State.losePacket_sound {s : State} {p : FabPacket} (hs : s.Sound) : (State.losePacket s p).Sound := by
  unfold State.losePacket; grind [foldl_sound, State.release_sound, State.fillPieces_sound, State.opArrived_sound]

theorem State.stallBegins_sound {s : State} {die net place : Nat} (hs : s.Sound) : (State.stallBegins s die net place).Sound := by
  unfold State.stallBegins; grind [State.postOnce_sound, State.setNet_sound]

theorem State.leaveArbiter_sound {s : State} {p : FabPacket} (hs : s.Sound) : (State.leaveArbiter s p).Sound := by
  unfold State.leaveArbiter; grind [State.onDie_sound]

theorem execArbiterPromotion_sound {die request : Nat} {s : State} (hs : s.Sound) {fin : State}
    (ok : execArbiterPromotion die request s = .next fin) : fin.Sound := by
  unfold execArbiterPromotion at ok; grind [State.setDie_sound, State.post_sound]

theorem execOrderedPacketSend_sound {p : FabPacket} {s : State} (hs : s.Sound) {fin : State}
    (ok : execOrderedPacketSend p s = .next fin) : fin.Sound := by
  unfold execOrderedPacketSend at ok; grind [State.post_sound, State.setNet_sound, State.ship_sound, State.losePacket_sound,
    State.stallBegins_sound, State.leaveArbiter_sound]

theorem State.performAct_sound {s : State} {src die : Nat} {a : MemAct} (hs : s.Sound) : (State.performAct s src die a).Sound
    := by
  unfold State.performAct; grind [State.tell_sound, State.rekey_sound, State.touchL2_sound, State.performWrite_sound,
    State.performAtom_sound, State.markPoison_sound, State.fillPieces_sound]

theorem State.sendReply_sound {s : State} {uid op src dst session : Nat} (hs : s.Sound) :
    (State.sendReply s uid op src dst session).Sound := by
  unfold State.sendReply; grind [State.onFlock_sound, State.bumpUid_sound, State.ship_sound]

theorem State.deliverOne_sound {s : State} {p : FabPacket} (hs : s.Sound) : (State.deliverOne s p).Sound := by
  unfold State.deliverOne; grind [foldl_sound, State.post_sound, State.postOnce_sound, State.setNet_sound, State.opArrived_sound,
    State.performAct_sound, State.sendReply_sound]

theorem State.deliverWaiting_sound {s : State} {die net : Nat} {y0 : Nat} (hs : s.Sound) :
    (State.deliverWaiting s die net y0).Sound := by
  induction y0 generalizing s <;> grind [State.deliverWaiting, State.setNet_sound, State.deliverOne_sound]

theorem State.clearStalls_sound {s : State} {die : Nat} (hs : s.Sound) : (State.clearStalls s die).Sound := by
  unfold State.clearStalls; grind [foldl_sound, State.setNet_sound]

theorem State.deliver_sound {s : State} {p : FabPacket} (hs : s.Sound) : (State.deliver s p).Sound := by
  unfold State.deliver; grind [State.release_sound, State.deliverOne_sound, State.deliverWaiting_sound, State.clearStalls_sound]

theorem State.waitEarly_sound {s : State} {p : FabPacket} (hs : s.Sound) {fin : State} (ok : State.waitEarly s p = some fin)
    : fin.Sound := by
  unfold State.waitEarly at ok; grind [State.setNet_sound, State.stallBegins_sound]

theorem State.discardPacket_sound {s : State} {p : FabPacket} (hs : s.Sound) : (State.discardPacket s p).Sound := by
  unfold State.discardPacket; grind [State.onDie_sound, State.losePacket_sound]

theorem execOrderedPacketArrival_sound {p : FabPacket} {s : State} (hs : s.Sound) {fin : State}
    (ok : execOrderedPacketArrival p s = .next fin) : fin.Sound := by
  unfold execOrderedPacketArrival at ok; grind [State.post_sound, State.release_sound, State.losePacket_sound,
    State.stallBegins_sound, State.deliver_sound, State.waitEarly_sound, State.discardPacket_sound]

theorem State.poisonRead_sound {s : State} {r : ReadReq} (hs : s.Sound) : (State.poisonRead s r).Sound := by
  unfold State.poisonRead; grind [State.release_sound, State.opProgress_sound, State.fillPieces_sound, State.opArrived_sound]

theorem State.serveRead_sound {s : State} {r : ReadReq} (hs : s.Sound) : (State.serveRead s r).Sound := by
  unfold State.serveRead; grind [foldl_sound, State.post_sound, State.release_sound, State.rekey_sound, State.fillFrom_sound,
    State.opProgress_sound, State.fillPieces_sound, State.sendReply_sound]

theorem execReadRequestServe_sound {r : ReadReq} {s : State} (hs : s.Sound) {fin : State}
    (ok : execReadRequestServe r s = .next fin) : fin.Sound := by
  unfold execReadRequestServe at ok; grind [State.onDie_sound, State.post_sound, State.poisonRead_sound, State.serveRead_sound]

theorem execAcquireCatchup_sound {r : ReadReply} {s : State} (hs : s.Sound) {fin : State}
    (ok : execAcquireCatchup r s = .next fin) : fin.Sound := by
  unfold execAcquireCatchup at ok; grind [State.post_sound, State.setNet_sound, State.opArrived_sound]

theorem State.sendReport_sound {s : State} {r : DeliveryReport} (hs : s.Sound) : (State.sendReport s r).Sound := by
  unfold State.sendReport; grind [State.post_sound, State.bumpUid_sound, State.settlePorts_sound, State.enqueue_sound]

theorem execDeliveryReportSend_sound {die net : Nat} {s : State} (hs : s.Sound) {fin : State}
    (ok : execDeliveryReportSend die net s = .next fin) : fin.Sound := by
  unfold execDeliveryReportSend at ok; grind [foldl_sound, State.postOnce_sound, State.setNet_sound, State.sendReport_sound]

theorem execDeliveryReportReceive_sound {r : DeliveryReport} {s : State} (hs : s.Sound) {fin : State}
    (ok : execDeliveryReportReceive r s = .next fin) : fin.Sound := by
  unfold execDeliveryReportReceive at ok; grind [State.post_sound, State.setNet_sound]

theorem execFabricStall_sound {die : Nat} {s : State} (hs : s.Sound) {fin : State} (ok : execFabricStall die s = .next fin)
    : fin.Sound := by
  unfold execFabricStall at ok; grind [State.setDie_sound, State.postOnce_sound, State.tell_sound]

theorem State.onShep_sound {s : State} {die : Nat} {g : Shepherd → Shepherd} (hs : s.Sound) : (State.onShep s die g).Sound := by
  unfold State.onShep; grind [State.onDie_sound]

theorem State.stage_sound {s : State} {c : Option LayoutChange} (hs : s.Sound) : (State.stage s c).Sound := by
  unfold State.stage; grind [foldl_sound, State.postOnce_sound, State.onShep_sound]

theorem State.commit_sound {s : State} (hs : s.Sound) : (State.commit s).Sound := by
  unfold State.commit; grind [foldl_sound, State.postOnce_sound, State.onShep_sound]

theorem State.rollBack_sound {s : State} {seq : BitVec 32} {c : Option LayoutChange} (hs : s.Sound) :
    (State.rollBack s seq c).Sound := by
  unfold State.rollBack; grind [foldl_sound, State.mapDies_sound, State.postOnce_sound, State.emit_sound, State.paddockReport_sound]

theorem State.resolveCommit_sound {s : State} (hs : s.Sound) : (State.resolveCommit s).Sound := by
  unfold State.resolveCommit; grind [foldl_sound, State.postOnce_sound, State.onShep_sound, State.rollBack_sound]

theorem State.fabricQuiesce_sound {s : State} {n : Nat} (hs : s.Sound) : (State.fabricQuiesce s n).Sound := by
  unfold State.fabricQuiesce; grind [State.paddockReport_sound, State.startQuiesce_sound]

theorem State.removeDie_sound {s : State} {r : Nat} (hs : s.Sound) : (State.removeDie s r).Sound := by
  unfold State.removeDie; grind [foldl_sound, State.onDie_sound, State.loseHerds_sound, State.fabricQuiesce_sound]

theorem State.removeLink_sound {s : State} {a b : Nat} (hs : s.Sound) : (State.removeLink s a b).Sound := by
  unfold State.removeLink; grind [State.onDie_sound]

theorem State.removeCutOff_sound {s : State} (hs : s.Sound) : (State.removeCutOff s).Sound := by
  unfold State.removeCutOff; grind [foldl_sound, State.postOnce_sound]

theorem execDieRemoval_sound {what : Removal} {s : State} (hs : s.Sound) {fin : State} (ok : execDieRemoval what s = .next fin)
    : fin.Sound := by
  unfold execDieRemoval at ok; grind [State.postOnce_sound, State.resolveCommit_sound, State.removeDie_sound,
    State.removeLink_sound, State.removeCutOff_sound]

theorem State.mapPieces_sound {s : State} {g : Piece → Piece} (hs : s.Sound) : (State.mapPieces s g).Sound := by
  unfold State.mapPieces; grind [State.sound_mk, cases State.Sound]

theorem State.loseReplies_sound {s : State} (hs : s.Sound) : (State.loseReplies s).Sound := by
  unfold State.loseReplies; grind [State.mapPieces_sound]

theorem State.drainFabric_sound {s : State} {ps : List FabPacket} (hs : s.Sound) : (State.drainFabric s ps).Sound := by
  unfold State.drainFabric; grind [foldl_sound, State.setNet_sound, State.deliverWaiting_sound]

theorem State.freshStamps_sound {s : State} {i : Nat} (hs : s.Sound) : (State.freshStamps s i).Sound := by
  unfold State.freshStamps; grind [State.sound_mk, cases State.Sound, State.onDie_sound]

theorem State.resync_sound {s : State} (hs : s.Sound) : (State.resync s).Sound := by
  unfold State.resync; grind [State.sound_mk, cases State.Sound, foldl_sound, length_setNth, List.length_map, List.length_zipIdx,
    Memory.wf_write, Memory.wf_writeNum, Memory.wf_setByte, State.clearPorts_sound, State.opArrived_sound, State.losePacket_sound,
    State.discardPacket_sound, State.poisonRead_sound, State.serveRead_sound, State.fabricQuiesce_sound, State.loseReplies_sound,
    State.drainFabric_sound]

theorem execResynchronisation_sound {s : State} (hs : s.Sound) {fin : State} (ok : execResynchronisation s = .next fin)
    : fin.Sound := by
  unfold execResynchronisation at ok; grind [State.post_sound, State.stage_sound, State.commit_sound, State.resync_sound]

/-! ## Link.lean -/

theorem State.onBothEnds_sound {s : State} {die link : Nat} {g : Link → Link} (hs : s.Sound) :
    (State.onBothEnds s die link g).Sound := by
  unfold State.onBothEnds; grind [State.onLink_sound]

theorem State.takeControl_sound {s : State} {die link : Nat} {g : LinkGroup} (hs : s.Sound) :
    (State.takeControl s die link g).Sound := by
  unfold State.takeControl; grind [State.post_sound, State.onLink_sound, State.settlePorts_sound]

theorem State.countFailure_sound {s : State} {die link : Nat} (hs : s.Sound) : (State.countFailure s die link).Sound := by
  unfold State.countFailure; grind [State.post_sound, State.onLink_sound]

theorem execLinkGroupReceive_sound {die link : Nat} {g : LinkGroup} {s : State} (hs : s.Sound) {fin : State}
    (ok : execLinkGroupReceive die link g s = .next fin) : fin.Sound := by
  unfold execLinkGroupReceive at ok; grind [State.post_sound, State.onLink_sound, State.settlePorts_sound, State.arrive_sound,
    State.takeControl_sound, State.countFailure_sound]

theorem State.resend_sound {s : State} {die link : Nat} {gs : List LinkGroup} (hs : s.Sound) : (State.resend s die link gs).Sound
    := by
  unfold State.resend; grind [foldl_sound, State.onDie_sound, State.onLink_sound, State.transmit_sound]

theorem execLinkNakReceive_sound {die link : Nat} {seq : BitVec 12} {s : State} (hs : s.Sound) {fin : State}
    (ok : execLinkNakReceive die link seq s = .next fin) : fin.Sound := by
  unfold execLinkNakReceive at ok; grind [State.post_sound, State.resend_sound]

theorem execLinkResendTimeout_sound {die link : Nat} {seq : BitVec 12} {s : State} (hs : s.Sound) {fin : State}
    (ok : execLinkResendTimeout die link seq s = .next fin) : fin.Sound := by
  unfold execLinkResendTimeout at ok; grind [State.post_sound, State.resend_sound]

theorem execLinkRetrain_sound {die link : Nat} {s : State} (hs : s.Sound) {fin : State}
    (ok : execLinkRetrain die link s = .next fin) : fin.Sound := by
  unfold execLinkRetrain at ok; grind [State.post_sound, State.onBothEnds_sound]

theorem execLinkRetrainComplete_sound {die link : Nat} {ok : Bool} {s : State} (hs : s.Sound) {fin : State}
    (ok : execLinkRetrainComplete die link ok s = .next fin) : fin.Sound := by
  unfold execLinkRetrainComplete at ok; grind [State.post_sound, State.onLink_sound, State.settlePorts_sound,
    State.onBothEnds_sound]

theorem execLinkDown_sound {die link : Nat} {s : State} (hs : s.Sound) {fin : State} (ok : execLinkDown die link s = .next fin)
    : fin.Sound := by
  unfold execLinkDown at ok; grind [State.postOnce_sound, State.tell_sound, State.onBothEnds_sound]

theorem execHeartbeat_sound {die : Nat} {missed : Bool} {s : State} (hs : s.Sound) {fin : State}
    (ok : execHeartbeat die missed s = .next fin) : fin.Sound := by
  unfold execHeartbeat at ok; grind [State.setDie_sound, State.post_sound, State.postOnce_sound, State.emit_sound]

/-! ## Shepherd.lean -/

theorem State.sendSecret_sound {s : State} {secret : BitVec 256} {die : Nat} (hs : s.Sound) :
    (State.sendSecret s secret die).Sound := by
  unfold State.sendSecret; grind [State.post_sound]

theorem State.seekSecret_sound {s : State} {die : Nat} (hs : s.Sound) : (State.seekSecret s die).Sound := by
  unfold State.seekSecret; grind [State.onShep_sound, State.sendSecret_sound]

theorem execDedupSecretReceive_sound {die : Nat} {blob : List Byte} {s : State} (hs : s.Sound) {fin : State}
    (ok : execDedupSecretReceive die blob s = .next fin) : fin.Sound := by
  unfold execDedupSecretReceive at ok; grind [foldl_sound, State.post_sound, State.onShep_sound, State.sendSecret_sound]

theorem execPartitionCommitRequest_sound {c : LayoutChange} {s : State} (hs : s.Sound) {fin : State}
    (ok : execPartitionCommitRequest c s = .next fin) : fin.Sound := by
  unfold execPartitionCommitRequest at ok; grind [State.post_sound, State.emit_sound, State.stage_sound]

theorem execPrepareReport_sound {die : Nat} {s : State} (hs : s.Sound) {fin : State} (ok : execPrepareReport die s = .next fin)
    : fin.Sound := by
  unfold execPrepareReport at ok; grind [State.onDie_sound, State.post_sound, State.postOnce_sound, State.onShep_sound,
    State.commit_sound]

theorem State.dropLines_sound {s : State} {die : Nat} {out : Line → Bool} (hs : s.Sound) : (State.dropLines s die out).Sound := by
  unfold State.dropLines; grind [foldl_sound, State.onDie_sound, State.dropL1_sound]

theorem State.applyChange_sound {s : State} {die : Nat} {c : LayoutChange} (hs : s.Sound) : (State.applyChange s die c).Sound
    := by
  unfold State.applyChange; grind [foldl_sound, State.onDie_sound, State.setPaddock_sound, State.dropLines_sound]

theorem execCommitApply_sound {die : Nat} {s : State} (hs : s.Sound) {fin : State} (ok : execCommitApply die s = .next fin)
    : fin.Sound := by
  unfold execCommitApply at ok; grind [State.post_sound, State.postOnce_sound, State.onShep_sound, State.freshStamps_sound,
    State.applyChange_sound]

theorem execCommitDone_sound {s : State} (hs : s.Sound) {fin : State} (ok : execCommitDone s = .next fin) : fin.Sound := by
  unfold execCommitDone at ok; grind [State.sound_mk, cases State.Sound, foldl_sound, length_setNth, List.length_map,
    List.length_zipIdx, Memory.wf_write, Memory.wf_writeNum, Memory.wf_setByte, State.mapDies_sound, State.post_sound,
    State.endQuiesce_sound]

theorem execBoot_sound {die : Nat} {s : State} (hs : s.Sound) {fin : State} (ok : execBoot die s = .next fin) : fin.Sound := by
  unfold execBoot at ok; grind [State.postOnce_sound, State.onShep_sound, State.stage_sound, State.resolveCommit_sound,
    State.seekSecret_sound]

theorem State.releaseDies_sound {s : State} (hs : s.Sound) : (State.releaseDies s).Sound := by
  unfold State.releaseDies; grind [foldl_sound, State.onDie_sound, State.post_sound, State.stage_sound]

theorem State.releaseIfReady_sound {s : State} (hs : s.Sound) : (State.releaseIfReady s).Sound := by
  unfold State.releaseIfReady; grind [State.releaseDies_sound]

theorem State.trainLink_sound {s : State} {die link : Nat} {ok : Bool} (hs : s.Sound) : (State.trainLink s die link ok).Sound
    := by
  unfold State.trainLink; grind [State.onDie_sound, State.onLink_sound]

theorem execDieBringup_sound {die : Nat} {s : State} (hs : s.Sound) {fin : State} (ok : execDieBringup die s = .next fin)
    : fin.Sound := by
  unfold execDieBringup at ok; grind [State.onDie_sound, State.onShep_sound, State.stage_sound, State.releaseIfReady_sound,
    State.trainLink_sound]

theorem execBootPeerTimeout_sound {die : Nat} {s : State} (hs : s.Sound) {fin : State}
    (ok : execBootPeerTimeout die s = .next fin) : fin.Sound := by
  unfold execBootPeerTimeout at ok; grind [foldl_sound, State.onDie_sound, State.post_sound, State.removeDie_sound,
    State.releaseIfReady_sound]

theorem execClusterPowerUp_sound {die cluster : Nat} {s : State} (hs : s.Sound) {fin : State}
    (ok : execClusterPowerUp die cluster s = .next fin) : fin.Sound := by
  unfold execClusterPowerUp at ok
  dsimp only at ok
  split at ok
  · cases ok; exact hs
  · split at ok <;> cases ok
    · exact State.post_sound hs
    · refine State.postAdmissions_sound ?_
      split
      · exact State.postOnce_sound (foldl_sound (State.setDie_sound hs) fun _ _ hu => State.onCore_sound hu)
      · split
        · exact foldl_sound (State.setDie_sound hs) fun _ _ hu => State.onCore_sound hu
        · split
          · exact State.postOnce_sound (foldl_sound (State.setDie_sound hs) fun _ _ hu => State.onCore_sound hu)
          · exact State.post_sound (foldl_sound (State.setDie_sound hs) fun _ _ hu => State.onCore_sound hu)

theorem execMatrixEngineEnable_sound {die cluster : Nat} {s : State} (hs : s.Sound) {fin : State}
    (ok : execMatrixEngineEnable die cluster s = .next fin) : fin.Sound := by
  unfold execMatrixEngineEnable at ok; grind [foldl_sound, State.setDie_sound, State.onCore_sound, State.post_sound,
    State.postOnce_sound, State.stage_sound]

theorem State.reply_sound {s : State} {die : Nat} {r : MgmtReply} (hs : s.Sound) : (State.reply s die r).Sound := by
  unfold State.reply; grind [State.emit_sound]

theorem execImgBegin_sound {die len : Nat} {s : State} (hs : s.Sound) {fin : State} (ok : execImgBegin die len s = .next fin)
    : fin.Sound := by
  unfold execImgBegin at ok; grind [State.onShep_sound, State.reply_sound]

theorem execImgData_sound {die offset : Nat} {bytes : List Byte} {s : State} (hs : s.Sound) {fin : State}
    (ok : execImgData die offset bytes s = .next fin) : fin.Sound := by
  unfold execImgData at ok; grind [State.onShep_sound, State.reply_sound]

theorem execImgEnd_sound {die : Nat} {s : State} (hs : s.Sound) {fin : State} (ok : execImgEnd die s = .next fin) : fin.Sound
    := by
  unfold execImgEnd at ok; grind [State.postOnce_sound, State.onShep_sound, State.reply_sound]

theorem State.answer_sound {s : State} {die : Nat} {r : MgmtReply} (hs : s.Sound) : (State.answer s die r).Sound := by
  unfold State.answer; grind [State.reply_sound]

theorem execGetVersion_sound {die : Nat} {s : State} (hs : s.Sound) {fin : State} (ok : execGetVersion die s = .next fin)
    : fin.Sound := by
  unfold execGetVersion at ok; grind [State.answer_sound]

theorem execGetCapabilities_sound {die : Nat} {s : State} (hs : s.Sound) {fin : State}
    (ok : execGetCapabilities die s = .next fin) : fin.Sound := by
  unfold execGetCapabilities at ok; grind [State.answer_sound]

theorem execNegotiateAlgorithms_sound {die : Nat} {ed448 sha3 : Bool} {s : State} (hs : s.Sound) {fin : State}
    (ok : execNegotiateAlgorithms die ed448 sha3 s = .next fin) : fin.Sound := by
  unfold execNegotiateAlgorithms at ok; grind [State.answer_sound]

theorem execGetDigests_sound {die : Nat} {s : State} (hs : s.Sound) {fin : State} (ok : execGetDigests die s = .next fin)
    : fin.Sound := by
  unfold execGetDigests at ok; grind [State.answer_sound]

theorem execGetCertificate_sound {die slot offset len : Nat} {s : State} (hs : s.Sound) {fin : State}
    (ok : execGetCertificate die slot offset len s = .next fin) : fin.Sound := by
  unfold execGetCertificate at ok; grind [State.answer_sound]

theorem execChallenge_sound {die slot : Nat} {nonce : BitVec 256} {s : State} (hs : s.Sound) {fin : State}
    (ok : execChallenge die slot nonce s = .next fin) : fin.Sound := by
  unfold execChallenge at ok; grind [State.answer_sound]

theorem execGetMeasurements_sound {die index : Nat} {nonce : BitVec 256} {s : State} (hs : s.Sound) {fin : State}
    (ok : execGetMeasurements die index nonce s = .next fin) : fin.Sound := by
  unfold execGetMeasurements at ok; grind [State.answer_sound]

theorem execSpdmUnsupportedRequest_sound {die code : Nat} {s : State} (hs : s.Sound) {fin : State}
    (ok : execSpdmUnsupportedRequest die code s = .next fin) : fin.Sound := by
  unfold execSpdmUnsupportedRequest at ok; grind [State.answer_sound]

theorem State.restartShepherd_sound {s : State} {die : Nat} (hs : s.Sound) : (State.restartShepherd s die).Sound := by
  unfold State.restartShepherd; grind [State.postOnce_sound, State.onShep_sound]

theorem execWatchdogExpiry_sound {die : Nat} {s : State} (hs : s.Sound) {fin : State} (ok : execWatchdogExpiry die s = .next fin)
    : fin.Sound := by
  unfold execWatchdogExpiry at ok; grind [State.tell_sound, State.restartShepherd_sound]

theorem execRetentionSramUe_sound {die : Nat} {lost : RetentionItem} {s : State} (hs : s.Sound) {fin : State}
    (ok : execRetentionSramUe die lost s = .next fin) : fin.Sound := by
  unfold execRetentionSramUe at ok; grind [State.onShep_sound, State.restartShepherd_sound]

theorem execModulePowerLoss_sound {s : State} (hs : s.Sound) {fin : State} (ok : execModulePowerLoss s = .next fin) : fin.Sound
    := by
  cases ok
  exact ⟨rfl, (List.length_map ..).trans (List.length_zipIdx.trans hs.dies), rfl, rfl⟩

/-! ## Manage.lean -/

theorem execTlbinv1_sound {die : Nat} {value : Word64} {s : State} (hs : s.Sound) {fin : State}
    (ok : execTlbinv1 die value s = .next fin) : fin.Sound := by
  unfold execTlbinv1 at ok; grind [State.onDie_sound, State.post_sound, State.keepTlb_sound]

theorem State.fltctl_sound {s : State} {die : Nat} {value : Word64} {action : Nat} {again : Event} {allowed : Flock → Bool}
    {act : State → Flock → Option State} (hs : s.Sound) (hb : ∀ u x1 v, u.Sound → act u x1 = some v → v.Sound) :
    (State.fltctl s die value action again allowed act).Sound := by
  unfold State.fltctl; grind [State.onDie_sound, State.post_sound]

theorem execFltctlRetry_sound {die : Nat} {value : Word64} {s : State} (hs : s.Sound) {fin : State}
    (ok : execFltctlRetry die value s = .next fin) : fin.Sound := by
  unfold execFltctlRetry at ok; grind [State.resumeTrap_sound, State.fltctl_sound]

theorem execFltctlSkip_sound {die : Nat} {value : Word64} {s : State} (hs : s.Sound) {fin : State}
    (ok : execFltctlSkip die value s = .next fin) : fin.Sound := by
  unfold execFltctlSkip at ok; grind [State.resumeTrap_sound, State.fltctl_sound]

theorem execFltctlEnterHandler_sound {die : Nat} {value : Word64} {s : State} (hs : s.Sound) {fin : State}
    (ok : execFltctlEnterHandler die value s = .next fin) : fin.Sound := by
  unfold execFltctlEnterHandler at ok; grind [State.setFlock_sound, State.fltctl_sound]

theorem execFltctlEnd_sound {die : Nat} {value : Word64} {s : State} (hs : s.Sound) {fin : State}
    (ok : execFltctlEnd die value s = .next fin) : fin.Sound := by
  unfold execFltctlEnd at ok; grind [State.setFlock_sound, State.endFlock_sound, State.fltctl_sound]

theorem State.abortDomain_sound {s : State} {session : Nat} {domain : BitVec 16} (hs : s.Sound) :
    (State.abortDomain s session domain).Sound := by
  unfold State.abortDomain; grind [foldl_sound, State.setRegion_sound, State.postOnce_sound, State.preempt_sound,
    State.dropHerd_sound]

theorem execFltctlAbortDomain_sound {die : Nat} {value : Word64} {s : State} (hs : s.Sound) {fin : State}
    (ok : execFltctlAbortDomain die value s = .next fin) : fin.Sound := by
  unfold execFltctlAbortDomain at ok; grind [State.fltctl_sound, State.abortDomain_sound]

theorem State.engctl_sound {s : State} {die : Nat} {value : Word64} {action : Nat} {act : State → Nat → CopyCmd → State}
    (hs : s.Sound) (hb : ∀ u x1 x2, u.Sound → (act u x1 x2).Sound) : (State.engctl s die value action act).Sound := by
  unfold State.engctl; grind [State.onDie_sound]

theorem execEngctlResume_sound {die : Nat} {value : Word64} {s : State} (hs : s.Sound) {fin : State}
    (ok : execEngctlResume die value s = .next fin) : fin.Sound := by
  unfold execEngctlResume at ok; grind [State.post_sound, State.setCmd_sound, State.engctl_sound]

theorem execEngctlAbandon_sound {die : Nat} {value : Word64} {s : State} (hs : s.Sound) {fin : State}
    (ok : execEngctlAbandon die value s = .next fin) : fin.Sound := by
  unfold execEngctlAbandon at ok; grind [State.endCmd_sound, State.engctl_sound]

theorem State.latch_sound {s : State} {die : Nat} (hs : s.Sound) : (State.latch s die).Sound := by
  unfold State.latch; grind [State.onDie_sound]

theorem State.fireSnapshot_sound {s : State} {die : Nat} (hs : s.Sound) : (State.fireSnapshot s die).Sound := by
  unfold State.fireSnapshot; grind [foldl_sound, State.postOnce_sound, State.latch_sound]

theorem execSnapctlArm_sound {die : Nat} {value : Word64} {s : State} (hs : s.Sound) {fin : State}
    (ok : execSnapctlArm die value s = .next fin) : fin.Sound := by
  unfold execSnapctlArm at ok; grind [State.onDie_sound, State.post_sound, State.postOnce_sound, State.fireSnapshot_sound]

theorem execSnapctlFire_sound {die : Nat} {s : State} (hs : s.Sound) {fin : State} (ok : execSnapctlFire die s = .next fin)
    : fin.Sound := by
  unfold execSnapctlFire at ok; grind [State.post_sound, State.fireSnapshot_sound]

theorem execSnapshotAtCycle_sound {die : Nat} {s : State} (hs : s.Sound) {fin : State}
    (ok : execSnapshotAtCycle die s = .next fin) : fin.Sound := by
  unfold execSnapshotAtCycle at ok; grind [State.postOnce_sound, State.fireSnapshot_sound]

theorem execSnapshotWideTrigger_sound {die : Nat} {s : State} (hs : s.Sound) {fin : State}
    (ok : execSnapshotWideTrigger die s = .next fin) : fin.Sound := by
  unfold execSnapshotWideTrigger at ok; grind [State.postOnce_sound, State.latch_sound]

theorem execPwrcap_sound {die : Nat} {value : Word64} {s : State} (hs : s.Sound) {fin : State}
    (ok : execPwrcap die value s = .next fin) : fin.Sound := by
  unfold execPwrcap at ok; grind [State.mapDies_sound, State.post_sound]

theorem State.sample_sound {s : State} {die : Nat} (hs : s.Sound) : (State.sample s die).Sound := by
  unfold State.sample; grind [State.onDie_sound]

theorem execPowerSample_sound {die : Nat} {s : State} (hs : s.Sound) {fin : State} (ok : execPowerSample die s = .next fin)
    : fin.Sound := by
  unfold execPowerSample at ok; grind [foldl_sound, State.setDie_sound, State.onDie_sound, State.post_sound, State.postOnce_sound,
    State.settleRails_sound, State.sample_sound]

theorem execPowerCapUnmet_sound {paddock : Nat} {s : State} (hs : s.Sound) {fin : State}
    (ok : execPowerCapUnmet paddock s = .next fin) : fin.Sound := by
  unfold execPowerCapUnmet at ok; grind [State.postOnce_sound, State.paddockReport_sound]

theorem execEccCorrectable_sound {die : Nat} {src : EccSource} {s : State} (hs : s.Sound) {fin : State}
    (ok : execEccCorrectable die src s = .next fin) : fin.Sound := by
  unfold execEccCorrectable at ok; grind [State.onDie_sound]

theorem State.countUe_sound {s : State} {die src addr : Nat} (hs : s.Sound) : (State.countUe s die src addr).Sound := by
  unfold State.countUe; grind [State.onDie_sound, State.tell_sound]

theorem State.onHerd_sound {s : State} {uid : Nat} {g : Herd → Herd} (hs : s.Sound) : (State.onHerd s uid g).Sound := by
  unfold State.onHerd; grind [State.setHerd_sound]

theorem State.onCtx_sound {s : State} {uid i : Nat} {g : Ctx → Ctx} (hs : s.Sound) : (State.onCtx s uid i g).Sound := by
  unfold State.onCtx; grind [State.setCtx_sound, State.onHerd_sound]

theorem State.poisonBucket_sound {s : State} {die bucket : Nat} (hs : s.Sound) : (State.poisonBucket s die bucket).Sound := by
  unfold State.poisonBucket; grind [State.onDie_sound, State.tell_sound]

theorem State.loseEvent_sound {s : State} {id : Nat} {e : Event} (hs : s.Sound) : (State.loseEvent s id e).Sound := by
  unfold State.loseEvent; grind [State.sound_mk, cases State.Sound, State.losePacket_sound, State.poisonRead_sound]

theorem State.dropPacket_sound {s : State} {id : Nat} (hs : s.Sound) : (State.dropPacket s id).Sound := by
  unfold State.dropPacket; grind [foldl_sound, State.mapDies_sound, State.postOnce_sound, State.settlePorts_sound,
    State.losePacket_sound, State.mapPieces_sound, State.reply_sound, State.loseEvent_sound]

theorem State.parityError_sound {s : State} {die : Nat} {p : ParityPlace} (hs : s.Sound) : (State.parityError s die p).Sound := by
  unfold State.parityError; grind [State.onDie_sound, State.onCore_sound]

theorem State.onCounter_sound {s : State} {die i : Nat} {g : DepCounter → DepCounter} (hs : s.Sound) :
    (State.onCounter s die i g).Sound := by
  unfold State.onCounter; grind [State.onDie_sound]

theorem execEccUncorrectable_sound {die : Nat} {at_ : EccPlace} {s : State} (hs : s.Sound) {fin : State}
    (ok : execEccUncorrectable die at_ s = .next fin) : fin.Sound := by
  unfold execEccUncorrectable at ok; grind [State.sound_mk, cases State.Sound, State.onDie_sound, State.onFlock_sound,
    State.post_sound, State.stickCore_sound, State.countUe_sound, State.onHerd_sound, State.onCtx_sound, State.poisonBucket_sound,
    State.dropPacket_sound, State.parityError_sound, State.onCounter_sound]

theorem execMemoryScrub_sound {die sector : Nat} {bad : Bool} {s : State} (hs : s.Sound) {fin : State}
    (ok : execMemoryScrub die sector bad s = .next fin) : fin.Sound := by
  unfold execMemoryScrub at ok; grind [State.sound_mk, cases State.Sound, State.countUe_sound]

theorem execRegisterWrite_sound {die : Nat} {r : RegName} {value : Word64} {s : State} (hs : s.Sound) {fin : State}
    (ok : execRegisterWrite die r value s = .next fin) : fin.Sound := by
  unfold execRegisterWrite at ok; grind [State.sound_mk, cases State.Sound, length_setNth, List.length_map, List.length_zipIdx,
    State.onDie_sound, State.mapDies_sound, State.onCounter_sound]

theorem State.hostPlace_sound {s : State} {session : Option Nat} {a : Nat} {kind : Access} (hs : s.Sound) {fin : State × Nat}
    (ok : State.hostPlace s session a kind = .ok fin) : fin.1.Sound := by
  unfold State.hostPlace at ok; grind [State.rekey_sound, → State.translate_sound]

theorem State.hostHolds_sound {s : State} {pa : Nat} (hs : s.Sound) : (State.hostHolds s pa).Sound := by
  unfold State.hostHolds; grind [State.onDie_sound]

theorem State.hostLoad_sound {s : State} {session : Option Nat} {y0 : List (Nat × Nat)} (hs : s.Sound)
    {fin : State × List Byte × Bool} (ok : State.hostLoad s session y0 = .ok fin) : fin.1.Sound := by
  induction y0 generalizing s fin <;> simp only [State.hostLoad, bind, Except.bind, pure, Except.pure] at ok <;>
    grind [→ State.hostPlace_sound, State.hostHolds_sound]

theorem State.hostStore_sound {s : State} {session : Option Nat} {y0 : List (Nat × Nat)} {y1 : List Byte} (hs : s.Sound) :
    (State.hostStore s session y0 y1).1.Sound := by
  induction y0 generalizing s y1 <;> grind [State.hostStore, State.performWrite_sound, → State.hostPlace_sound,
    State.hostHolds_sound]

theorem State.heapBound_sound {s : State} {i : Nat} (hs : s.Sound) : (State.heapBound s i).Sound := by
  unfold State.heapBound; grind [State.mapCores_sound]

theorem State.stateWritten_sound {s : State} {i : Nat} (hs : s.Sound) : (State.stateWritten s i).Sound := by
  unfold State.stateWritten; grind [State.sound_mk, cases State.Sound, State.latchSched_sound, State.dropSched_sound,
    State.wakeQueues_sound]

theorem execHostMemoryAccess_sound {h : HostAccess} {s : State} (hs : s.Sound) {fin : State}
    (ok : execHostMemoryAccess h s = .next fin) : fin.Sound := by
  unfold execHostMemoryAccess at ok; grind [foldl_sound, State.post_sound, State.emit_sound, → State.load_sound,
    → State.store_sound, → State.hostLoad_sound, State.hostStore_sound, State.heapBound_sound, State.stateWritten_sound]

theorem execRlimitWindow_sound {core : Nat} {s : State} (hs : s.Sound) {fin : State} (ok : execRlimitWindow core s = .next fin)
    : fin.Sound := by
  unfold execRlimitWindow at ok; grind [State.onCore_sound, State.post_sound]

end Sys2Proof.Machine
end

