-- ==== Sys2Proof/Laws/SoundStep.lean ====
section
/-!
SUPPORT. The invariant `State.Sound` is kept by every instruction and by every due event.
-/
namespace Sys2Proof.Machine

/-- Every instruction keeps the invariant. -/
theorem exec_sound {s fin : State} (i : Instr) (hs : s.Sound) (ok : exec i s = .next fin) : fin.Sound :=
  match i with
  | .sAdd _ _ _ => execSAdd_sound hs ok
  | .sSub _ _ _ => execSSub_sound hs ok
  | .sMul _ _ _ => execSMul_sound hs ok
  | .sMulh _ _ _ => execSMulh_sound hs ok
  | .sMulhu _ _ _ => execSMulhu_sound hs ok
  | .sDiv _ _ _ => execSDiv_sound hs ok
  | .sDivu _ _ _ => execSDivu_sound hs ok
  | .sRem _ _ _ => execSRem_sound hs ok
  | .sRemu _ _ _ => execSRemu_sound hs ok
  | .sAnd _ _ _ => execSAnd_sound hs ok
  | .sOr _ _ _ => execSOr_sound hs ok
  | .sXor _ _ _ => execSXor_sound hs ok
  | .sShl _ _ _ => execSShl_sound hs ok
  | .sShr _ _ _ => execSShr_sound hs ok
  | .sSra _ _ _ => execSSra_sound hs ok
  | .sMin _ _ _ => execSMin_sound hs ok
  | .sMinu _ _ _ => execSMinu_sound hs ok
  | .sMax _ _ _ => execSMax_sound hs ok
  | .sMaxu _ _ _ => execSMaxu_sound hs ok
  | .sClz _ _ => execSClz_sound hs ok
  | .sCtz _ _ => execSCtz_sound hs ok
  | .sPopc _ _ => execSPopc_sound hs ok
  | .sBitint _ _ _ => execSBitint_sound hs ok
  | .sBitdeint _ _ => execSBitdeint_sound hs ok
  | .sSel _ _ _ _ _ => execSSel_sound hs ok
  | .sCmp _ _ _ _ => execSCmp_sound hs ok
  | .sAddi _ _ _ => execSAddi_sound hs ok
  | .sAndi _ _ _ => execSAndi_sound hs ok
  | .sOri _ _ _ => execSOri_sound hs ok
  | .sXori _ _ _ => execSXori_sound hs ok
  | .sShli _ _ _ => execSShli_sound hs ok
  | .sShri _ _ _ => execSShri_sound hs ok
  | .sSrai _ _ _ => execSSrai_sound hs ok
  | .sLui _ _ => execSLui_sound hs ok
  | .sCmpi _ _ _ _ => execSCmpi_sound hs ok
  | .sLdB _ _ _ => execSLdB_sound hs ok
  | .sLdH _ _ _ => execSLdH_sound hs ok
  | .sLdW _ _ _ => execSLdW_sound hs ok
  | .sLdD _ _ _ => execSLdD_sound hs ok
  | .sStB _ _ _ => execSStB_sound hs ok
  | .sStH _ _ _ => execSStH_sound hs ok
  | .sStW _ _ _ => execSStW_sound hs ok
  | .sStD _ _ _ => execSStD_sound hs ok
  | .sLdAcq _ _ _ _ _ => execSLdAcq_sound hs ok
  | .sStRel _ _ _ _ _ => execSStRel_sound hs ok
  | .sLdk _ _ _ _ => execSLdk_sound hs ok
  | .sAtomW _ _ _ _ _ => execSAtomW_sound hs ok
  | .sAtomD _ _ _ _ _ => execSAtomD_sound hs ok
  | .sFenceAcq _ => execSFenceAcq_sound hs ok
  | .sFenceRel _ => execSFenceRel_sound hs ok
  | .sFenceAr _ => execSFenceAr_sound hs ok
  | .sB _ _ _ => execSB_sound hs ok
  | .sCall _ _ _ => execSCall_sound hs ok
  | .sBz _ _ => execSBz_sound hs ok
  | .sLoop _ _ => execSLoop_sound hs ok
  | .sRet => execSRet_sound hs ok
  | .sJr _ => execSJr_sound hs ok
  | .sLgo _ => execSLgo_sound hs ok
  | .sLwait => execSLwait_sound hs ok
  | .sBarInit _ _ => execSBarInit_sound hs ok
  | .sBarArrive _ _ => execSBarArrive_sound hs ok
  | .sBarExpect _ _ => execSBarExpect_sound hs ok
  | .sBarWait _ _ => execSBarWait_sound hs ok
  | .sCntWait _ _ => execSCntWait_sound hs ok
  | .sCp _ _ _ => execSCp_sound hs ok
  | .sCpMc _ _ _ => execSCpMc_sound hs ok
  | .sXf _ _ _ => execSXf_sound hs ok
  | .sCpG _ _ _ => execSCpG_sound hs ok
  | .sPublish _ => execSPublish_sound hs ok
  | .sQpush _ _ _ => execSQpush_sound hs ok
  | .sDepDec _ _ => execSDepDec_sound hs ok
  | .sPseal _ => execSPseal_sound hs ok
  | .sOpbRsv _ _ => execSOpbRsv_sound hs ok
  | .sOpbRel _ => execSOpbRel_sound hs ok
  | .sMxLease _ _ => execSMxLease_sound hs ok
  | .sMxYield => execSMxYield_sound hs ok
  | .sKget _ _ => execSKget_sound hs ok
  | .sKput _ _ => execSKput_sound hs ok
  | .sTrap _ => execSTrap_sound hs ok
  | .sNop => execSNop_sound hs ok
  | .sTret => execSTret_sound hs ok
  | .sYield => execSYield_sound hs ok
  | .sExit => execSExit_sound hs ok
  | .vNop w => execVNop_sound (_w := w) hs ok
  | .vNopMarker _ => execVNopMarker_sound hs ok
  | .vBlk w => execVBlk_sound (_w := w) hs ok
  | .vLstop w => execVLstop_sound (_w := w) hs ok
  | .vTrap _ => execVTrap_sound hs ok
  | .vBrk _ => execVBrk_sound hs ok
  | .vAdd _ => execVAdd_sound hs ok
  | .vSub _ => execVSub_sound hs ok
  | .vMul _ => execVMul_sound hs ok
  | .vMad _ => execVMad_sound hs ok
  | .vMin _ => execVMin_sound hs ok
  | .vMax _ => execVMax_sound hs ok
  | .vAbs _ => execVAbs_sound hs ok
  | .vAnd _ => execVAnd_sound hs ok
  | .vOr _ => execVOr_sound hs ok
  | .vXor _ => execVXor_sound hs ok
  | .vNot _ => execVNot_sound hs ok
  | .vShl _ => execVShl_sound hs ok
  | .vShr _ => execVShr_sound hs ok
  | .vSra _ => execVSra_sound hs ok
  | .vClz _ => execVClz_sound hs ok
  | .vPopc _ => execVPopc_sound hs ok
  | .vBrev _ => execVBrev_sound hs ok
  | .vBfe _ => execVBfe_sound hs ok
  | .vBfi _ => execVBfi_sound hs ok
  | .vBitint _ => execVBitint_sound hs ok
  | .vCmp _ => execVCmp_sound hs ok
  | .vSel _ => execVSel_sound hs ok
  | .vMov _ => execVMov_sound hs ok
  | .vMovi _ => execVMovi_sound hs ok
  | .vLane _ => execVLane_sound hs ok
  | .vKget _ => execVKget_sound hs ok
  | .vFadd _ => execVFadd_sound hs ok
  | .vFsub _ => execVFsub_sound hs ok
  | .vFmul _ => execVFmul_sound hs ok
  | .vFfma _ => execVFfma_sound hs ok
  | .vFmin _ => execVFmin_sound hs ok
  | .vFmax _ => execVFmax_sound hs ok
  | .vFcmp _ => execVFcmp_sound hs ok
  | .vFclass _ => execVFclass_sound hs ok
  | .vFrcp _ => execVFrcp_sound hs ok
  | .vFrsq _ => execVFrsq_sound hs ok
  | .vFsqrt _ => execVFsqrt_sound hs ok
  | .vFexp2 _ => execVFexp2_sound hs ok
  | .vFlog2 _ => execVFlog2_sound hs ok
  | .vFsin _ => execVFsin_sound hs ok
  | .vFcos _ => execVFcos_sound hs ok
  | .vFfloor _ => execVFfloor_sound hs ok
  | .vFceil _ => execVFceil_sound hs ok
  | .vFtrunc _ => execVFtrunc_sound hs ok
  | .vFrnd _ => execVFrnd_sound hs ok
  | .vFfract _ => execVFfract_sound hs ok
  | .vFdot2 _ => execVFdot2_sound hs ok
  | .vCvt _ => execVCvt_sound hs ok
  | .vCvtN _ => execVCvtN_sound hs ok
  | .vCvtW _ => execVCvtW_sound hs ok
  | .vCvtEf _ => execVCvtEf_sound hs ok
  | .vBfpPack _ => execVBfpPack_sound hs ok
  | .vBfpUnpack _ => execVBfpUnpack_sound hs ok
  | .vPack _ => execVPack_sound hs ok
  | .vUnpack _ => execVUnpack_sound hs ok
  | .vShflIdx _ => execVShflIdx_sound hs ok
  | .vShflUp _ => execVShflUp_sound hs ok
  | .vShflDown _ => execVShflDown_sound hs ok
  | .vShflXor _ => execVShflXor_sound hs ok
  | .vBcast _ => execVBcast_sound hs ok
  | .vVoteAll _ => execVVoteAll_sound hs ok
  | .vVoteAny _ => execVVoteAny_sound hs ok
  | .vVoteEq _ => execVVoteEq_sound hs ok
  | .vVoteBallot _ => execVVoteBallot_sound hs ok
  | .vScan _ => execVScan_sound hs ok
  | .vRed _ => execVRed_sound hs ok
  | .vMatch _ => execVMatch_sound hs ok
  | .vTosFirst _ => execVTosFirst_sound hs ok
  | .vTosLane _ => execVTosLane_sound hs ok
  | .vTosMask _ => execVTosMask_sound hs ok
  | .vTosCount _ => execVTosCount_sound hs ok
  | .vLd _ => execVLd_sound hs ok
  | .vSt _ => execVSt_sound hs ok
  | .vLdSp _ => execVLdSp_sound hs ok
  | .vStSp _ => execVStSp_sound hs ok
  | .vLdAcq _ => execVLdAcq_sound hs ok
  | .vStRel _ => execVStRel_sound hs ok
  | .vAtom _ => execVAtom_sound hs ok
  | .vAtomSp _ => execVAtomSp_sound hs ok
  | .vAred _ => execVAred_sound hs ok
  | .vStFf _ => execVStFf_sound hs ok
  | .vPrefetch _ => execVPrefetch_sound hs ok
  | .vBr _ => execVBr_sound hs ok
  | .vBru _ => execVBru_sound hs ok
  | .vReconv w => execVReconv_sound (_w := w) hs ok
  | .vReconvW _ => execVReconvW_sound hs ok
  | .vCallRg _ => execVCallRg_sound hs ok
  | .vRetRg w => execVRetRg_sound (_w := w) hs ok
  | .vRegroup _ => execVRegroup_sound hs ok
  | .vExit _ => execVExit_sound hs ok
  | .vKill _ => execVKill_sound hs ok
  | .vMxLds _ => execVMxLds_sound hs ok
  | .vMxSwap _ => execVMxSwap_sound hs ok
  | .vMxMmaRf _ => execVMxMmaRf_sound hs ok
  | .vMxMmaOpb _ => execVMxMmaOpb_sound hs ok
  | .vAccLd _ => execVAccLd_sound hs ok
  | .vAccMov _ => execVAccMov_sound hs ok
  | .vAccZero _ => execVAccZero_sound hs ok
  | .vAccDrain _ => execVAccDrain_sound hs ok
  | .vAccDrainG _ => execVAccDrainG_sound hs ok
  | .vOpbPut _ => execVOpbPut_sound hs ok
  | .vRast _ => execVRast_sound hs ok
  | .vBin _ => execVBin_sound hs ok
  | .vTexSmp _ => execVTexSmp_sound hs ok
  | .vTexLod _ => execVTexLod_sound hs ok
  | .vTexGrad _ => execVTexGrad_sound hs ok
  | .vTexFetch _ => execVTexFetch_sound hs ok
  | .vTexGather _ => execVTexGather_sound hs ok
  | .vTexDec _ => execVTexDec_sound hs ok
  | .vExpPx _ => execVExpPx_sound hs ok
  | .vExpPos _ => execVExpPos_sound hs ok
  | .vTravRay _ => execVTravRay_sound hs ok
  | .vTravRad _ => execVTravRad_sound hs ok
  | .vTravKnn _ => execVTravKnn_sound hs ok
  | .vTravRng _ => execVTravRng_sound hs ok
  | .vIsectBox _ => execVIsectBox_sound hs ok
  | .vIsectTri _ => execVIsectTri_sound hs ok
  | .reservedEncoding _ word => execReservedEncoding_sound (_word := word) hs ok
  | .fetchBeyondSection _ => execFetchBeyondSection_sound hs ok
  | .longLatencyReturn _ _ => execLongLatencyReturn_sound hs ok
  | .samplerResultReturn _ _ => execSamplerResultReturn_sound hs ok
  | .treeResultReturn _ _ => execTreeResultReturn_sound hs ok
  | .accTransferComplete _ _ => execAccTransferComplete_sound hs ok
  | .ffStoreDelivered _ _ => execFfStoreDelivered_sound hs ok
  | .tosWrite _ _ => execTosWrite_sound hs ok
  | .laneBlockStart _ => execLaneBlockStart_sound hs ok
  | .roundEndExchange _ _ => execRoundEndExchange_sound hs ok
  | .flockExchange _ _ _ => execFlockExchange_sound hs ok
  | .predicateResolution _ _ => execPredicateResolution_sound hs ok
  | .reconvTimeout _ _ => execReconvTimeout_sound hs ok
  | .regroupCollectionClose _ _ => execRegroupCollectionClose_sound hs ok
  | .regroupCollectionTimeout _ _ => execRegroupCollectionTimeout_sound hs ok
  | .callFlockEnd _ => execCallFlockEnd_sound hs ok
  | .barWaitComplete _ => execBarWaitComplete_sound hs ok
  | .herdAdmit _ => execHerdAdmit_sound hs ok
  | .regionComplete _ => execRegionComplete_sound hs ok
  | .completionAction _ => execCompletionAction_sound hs ok
  | .completionRecordWrite _ => execCompletionRecordWrite_sound hs ok
  | .preemptRequest _ => execPreemptRequest_sound hs ok
  | .herdSave _ => execHerdSave_sound hs ok
  | .herdRestore _ => execHerdRestore_sound hs ok
  | .haltBoundFailure _ => execHaltBoundFailure_sound hs ok
  | .matrixEngineOperation _ => execMatrixEngineOperation_sound hs ok
  | .copyTransferStart _ _ => execCopyTransferStart_sound hs ok
  | .copyWordLand _ _ => execCopyWordLand_sound hs ok
  | .copyFaultSuspend _ _ => execCopyFaultSuspend_sound hs ok
  | .faultRecordWrite _ => execFaultRecordWrite_sound hs ok
  | .sealDigest _ => execSealDigest_sound hs ok
  | .commonsRelease _ => execCommonsRelease_sound hs ok
  | .poolReturnRetry _ _ _ _ => execPoolReturnRetry_sound hs ok
  | .poolReturnStall _ _ _ _ => execPoolReturnStall_sound hs ok
  | .doorbellWrite _ _ => execDoorbellWrite_sound hs ok
  | .queueStep _ _ => execQueueStep_sound hs ok
  | .packetDispatch _ => execPacketDispatch_sound hs ok
  | .packetCopy _ => execPacketCopy_sound hs ok
  | .packetSignal _ => execPacketSignal_sound hs ok
  | .packetWait _ => execPacketWait_sound hs ok
  | .waitReread _ => execWaitReread_sound hs ok
  | .packetFork _ => execPacketFork_sound hs ok
  | .packetSeal _ => execPacketSeal_sound hs ok
  | .packetPublish _ => execPacketPublish_sound hs ok
  | .packetMigrate _ => execPacketMigrate_sound hs ok
  | .migrateMove _ => execMigrateMove_sound hs ok
  | .packetNop _ => execPacketNop_sound hs ok
  | .depCounterDecrement _ _ _ _ => execDepCounterDecrement_sound hs ok
  | .quantumBoundary _ => execQuantumBoundary_sound hs ok
  | .budgetCharge _ => execBudgetCharge_sound hs ok
  | .arbiterPromotion _ _ => execArbiterPromotion_sound hs ok
  | .quiesce _ _ => execQuiesce_sound hs ok
  | .paddockQuiesced _ => execPaddockQuiesced_sound hs ok
  | .qstuck _ => execQstuck_sound hs ok
  | .tlbinv1 _ _ => execTlbinv1_sound hs ok
  | .fltctlRetry _ _ => execFltctlRetry_sound hs ok
  | .fltctlSkip _ _ => execFltctlSkip_sound hs ok
  | .fltctlEnterHandler _ _ => execFltctlEnterHandler_sound hs ok
  | .fltctlEnd _ _ => execFltctlEnd_sound hs ok
  | .fltctlAbortDomain _ _ => execFltctlAbortDomain_sound hs ok
  | .engctlResume _ _ => execEngctlResume_sound hs ok
  | .engctlAbandon _ _ => execEngctlAbandon_sound hs ok
  | .crel die _ => execCrel_sound (_die := die) hs ok
  | .keyLoad _ _ _ => execKeyLoad_sound hs ok
  | .placementEpoch _ => execPlacementEpoch_sound hs ok
  | .frameMove _ => execFrameMove_sound hs ok
  | .orderedPacketSend _ => execOrderedPacketSend_sound hs ok
  | .orderedPacketArrival _ => execOrderedPacketArrival_sound hs ok
  | .readRequestServe _ => execReadRequestServe_sound hs ok
  | .acquireCatchup _ => execAcquireCatchup_sound hs ok
  | .deliveryReportSend _ _ => execDeliveryReportSend_sound hs ok
  | .deliveryReportReceive _ => execDeliveryReportReceive_sound hs ok
  | .linkGroupReceive _ _ _ => execLinkGroupReceive_sound hs ok
  | .linkNakReceive _ _ _ => execLinkNakReceive_sound hs ok
  | .linkResendTimeout _ _ _ => execLinkResendTimeout_sound hs ok
  | .linkRetrain _ _ => execLinkRetrain_sound hs ok
  | .linkDown _ _ => execLinkDown_sound hs ok
  | .fabricStall _ => execFabricStall_sound hs ok
  | .heartbeat _ _ => execHeartbeat_sound hs ok
  | .dieRemoval _ => execDieRemoval_sound hs ok
  | .resynchronisation => execResynchronisation_sound hs ok
  | .boot _ => execBoot_sound hs ok
  | .dedupSecretReceive _ _ => execDedupSecretReceive_sound hs ok
  | .dieBringup _ => execDieBringup_sound hs ok
  | .clusterPowerUp _ _ => execClusterPowerUp_sound hs ok
  | .matrixEngineEnable _ _ => execMatrixEngineEnable_sound hs ok
  | .bootPeerTimeout _ => execBootPeerTimeout_sound hs ok
  | .imgBegin _ _ => execImgBegin_sound hs ok
  | .imgData _ _ _ => execImgData_sound hs ok
  | .imgEnd _ => execImgEnd_sound hs ok
  | .getVersion _ => execGetVersion_sound hs ok
  | .getCapabilities _ => execGetCapabilities_sound hs ok
  | .negotiateAlgorithms _ _ _ => execNegotiateAlgorithms_sound hs ok
  | .getDigests _ => execGetDigests_sound hs ok
  | .getCertificate _ _ _ _ => execGetCertificate_sound hs ok
  | .challenge _ _ _ => execChallenge_sound hs ok
  | .getMeasurements _ _ _ => execGetMeasurements_sound hs ok
  | .spdmUnsupportedRequest _ code => execSpdmUnsupportedRequest_sound (code := code) hs ok
  | .partitionCommitRequest _ => execPartitionCommitRequest_sound hs ok
  | .prepareReport _ => execPrepareReport_sound hs ok
  | .commitApply _ => execCommitApply_sound hs ok
  | .commitDone => execCommitDone_sound hs ok
  | .watchdogExpiry _ => execWatchdogExpiry_sound hs ok
  | .retentionSramUe _ _ => execRetentionSramUe_sound hs ok
  | .snapctlArm _ _ => execSnapctlArm_sound hs ok
  | .snapctlFire _ => execSnapctlFire_sound hs ok
  | .snapshotAtCycle _ => execSnapshotAtCycle_sound hs ok
  | .snapshotWideTrigger _ => execSnapshotWideTrigger_sound hs ok
  | .pwrcap _ _ => execPwrcap_sound hs ok
  | .powerSample _ => execPowerSample_sound hs ok
  | .powerCapUnmet _ => execPowerCapUnmet_sound hs ok
  | .eccCorrectable _ _ => execEccCorrectable_sound hs ok
  | .eccUncorrectable _ _ => execEccUncorrectable_sound hs ok
  | .memoryScrub _ _ _ => execMemoryScrub_sound hs ok
  | .cqDescriptorRetest _ => execCqDescriptorRetest_sound hs ok
  | .graphicsFaultReport _ _ _ => execGraphicsFaultReport_sound hs ok
  | .registerWrite _ _ _ => execRegisterWrite_sound hs ok
  | .hostMemoryAccess _ => execHostMemoryAccess_sound hs ok
  | .completionQueueReread _ => execCompletionQueueReread_sound hs ok
  | .linkRetrainComplete _ _ _ => execLinkRetrainComplete_sound hs ok
  | .modulePowerLoss => execModulePowerLoss_sound hs ok
  | .rlimitWindow _ => execRlimitWindow_sound hs ok

/-- Every due event keeps the invariant. -/
theorem execEvent_sound {s fin : State} (e : Event) (hs : s.Sound) (ok : execEvent e s = .next fin) : fin.Sound := by
  obtain ⟨i, hi⟩ := event_named e
  exact exec_sound i hs (exec_of_event hi s ▸ ok)

/-! ## Issue.lean -/

theorem State.refresh_sound {s : State} (hs : s.Sound) : s.refresh.Sound := by
  unfold State.refresh
  dsimp only
  split
  · exact hs
  · exact ⟨hs.1, hs.2, hs.3, hs.4⟩

/-- A step begins with the invariant. -/
theorem State.begin_sound {s : State} (hs : s.Sound) : s.begin.Sound := by
  have h := State.tick_sound hs
  exact State.refresh_sound ⟨h.1, h.2, h.3, h.4⟩

theorem State.turn_sound {s : State} {uid : Nat} (hs : s.Sound) : (s.turn uid).Sound := State.onFlock_sound hs

theorem State.take_sound {s : State} {k : Nat} (hs : s.Sound) : (s.take k).Sound := ⟨hs.1, hs.2, hs.3, hs.4⟩

/-- What a stream answers keeps the invariant. -/
theorem State.attempt_sound {s fin : State} {x : Issuer} (hs : s.Sound) (ok : s.attempt x = .next fin) : fin.Sound := by
  have hf := State.fetchNext_sound (s := { s with cur := some x }) (x := x) ⟨hs.1, hs.2, hs.3, hs.4⟩
  unfold State.attempt at ok
  split at ok
  · rename_i h; rw [h] at hf; exact exec_sound _ hf ok
  · rename_i h; rw [h] at hf; cases ok; exact hf

end Sys2Proof.Machine
end

