-- ==== Sys2Proof/Laws/State.lean ====
section
/-!
SUPPORT. What each update of the state, of a flock and of a herd leaves alone: one equation for each field, so that
no proof unfolds a record update.
-/
namespace Sys2Proof.Machine

/-! ## `State.setDie` -/

@[simp] theorem State.setDie_mem (s : State) (d : Nat) (x : Die) : (s.setDie d x).mem = s.mem := rfl
@[simp] theorem State.setDie_memPoison (s : State) (d : Nat) (x : Die) : (s.setDie d x).memPoison = s.memPoison := rfl
@[simp] theorem State.setDie_memKeys (s : State) (d : Nat) (x : Die) : (s.setDie d x).memKeys = s.memKeys := rfl
@[simp] theorem State.setDie_cores (s : State) (d : Nat) (x : Die) : (s.setDie d x).cores = s.cores := rfl
@[simp] theorem State.setDie_herds (s : State) (d : Nat) (x : Die) : (s.setDie d x).herds = s.herds := rfl
@[simp] theorem State.setDie_ended (s : State) (d : Nat) (x : Die) : (s.setDie d x).ended = s.ended := rfl
@[simp] theorem State.setDie_flocks (s : State) (d : Nat) (x : Die) : (s.setDie d x).flocks = s.flocks := rfl
@[simp] theorem State.setDie_regions (s : State) (d : Nat) (x : Die) : (s.setDie d x).regions = s.regions := rfl
@[simp] theorem State.setDie_owed (s : State) (d : Nat) (x : Die) : (s.setDie d x).owed = s.owed := rfl
@[simp] theorem State.setDie_queues (s : State) (d : Nat) (x : Die) : (s.setDie d x).queues = s.queues := rfl
@[simp] theorem State.setDie_paddocks (s : State) (d : Nat) (x : Die) : (s.setDie d x).paddocks = s.paddocks := rfl
@[simp] theorem State.setDie_padrep (s : State) (d : Nat) (x : Die) : (s.setDie d x).padrep = s.padrep := rfl
@[simp] theorem State.setDie_owners (s : State) (d : Nat) (x : Die) : (s.setDie d x).owners = s.owners := rfl
@[simp] theorem State.setDie_digests (s : State) (d : Nat) (x : Die) : (s.setDie d x).digests = s.digests := rfl
@[simp] theorem State.setDie_committed (s : State) (d : Nat) (x : Die) : (s.setDie d x).committed = s.committed := rfl
@[simp] theorem State.setDie_agenda (s : State) (d : Nat) (x : Die) : (s.setDie d x).agenda = s.agenda := rfl
@[simp] theorem State.setDie_out (s : State) (d : Nat) (x : Die) : (s.setDie d x).out = s.out := rfl
@[simp] theorem State.setDie_cur (s : State) (d : Nat) (x : Die) : (s.setDie d x).cur = s.cur := rfl
@[simp] theorem State.setDie_stalled (s : State) (d : Nat) (x : Die) : (s.setDie d x).stalled = s.stalled := rfl
@[simp] theorem State.setDie_cursor (s : State) (d : Nat) (x : Die) : (s.setDie d x).cursor = s.cursor := rfl
@[simp] theorem State.setDie_nextUid (s : State) (d : Nat) (x : Die) : (s.setDie d x).nextUid = s.nextUid := rfl
@[simp] theorem State.setDie_ticks (s : State) (d : Nat) (x : Die) : (s.setDie d x).ticks = s.ticks := rfl
@[simp] theorem State.setDie_cqFault (s : State) (d : Nat) (x : Die) : (s.setDie d x).cqFault = s.cqFault := rfl

/-! ## `State.onDie` -/

@[simp] theorem State.onDie_mem (s : State) (d : Nat) (g : Die → Die) : (s.onDie d g).mem = s.mem := rfl
@[simp] theorem State.onDie_memPoison (s : State) (d : Nat) (g : Die → Die) : (s.onDie d g).memPoison = s.memPoison := rfl
@[simp] theorem State.onDie_memKeys (s : State) (d : Nat) (g : Die → Die) : (s.onDie d g).memKeys = s.memKeys := rfl
@[simp] theorem State.onDie_cores (s : State) (d : Nat) (g : Die → Die) : (s.onDie d g).cores = s.cores := rfl
@[simp] theorem State.onDie_herds (s : State) (d : Nat) (g : Die → Die) : (s.onDie d g).herds = s.herds := rfl
@[simp] theorem State.onDie_ended (s : State) (d : Nat) (g : Die → Die) : (s.onDie d g).ended = s.ended := rfl
@[simp] theorem State.onDie_flocks (s : State) (d : Nat) (g : Die → Die) : (s.onDie d g).flocks = s.flocks := rfl
@[simp] theorem State.onDie_regions (s : State) (d : Nat) (g : Die → Die) : (s.onDie d g).regions = s.regions := rfl
@[simp] theorem State.onDie_owed (s : State) (d : Nat) (g : Die → Die) : (s.onDie d g).owed = s.owed := rfl
@[simp] theorem State.onDie_queues (s : State) (d : Nat) (g : Die → Die) : (s.onDie d g).queues = s.queues := rfl
@[simp] theorem State.onDie_paddocks (s : State) (d : Nat) (g : Die → Die) : (s.onDie d g).paddocks = s.paddocks := rfl
@[simp] theorem State.onDie_padrep (s : State) (d : Nat) (g : Die → Die) : (s.onDie d g).padrep = s.padrep := rfl
@[simp] theorem State.onDie_owners (s : State) (d : Nat) (g : Die → Die) : (s.onDie d g).owners = s.owners := rfl
@[simp] theorem State.onDie_digests (s : State) (d : Nat) (g : Die → Die) : (s.onDie d g).digests = s.digests := rfl
@[simp] theorem State.onDie_committed (s : State) (d : Nat) (g : Die → Die) : (s.onDie d g).committed = s.committed := rfl
@[simp] theorem State.onDie_agenda (s : State) (d : Nat) (g : Die → Die) : (s.onDie d g).agenda = s.agenda := rfl
@[simp] theorem State.onDie_out (s : State) (d : Nat) (g : Die → Die) : (s.onDie d g).out = s.out := rfl
@[simp] theorem State.onDie_cur (s : State) (d : Nat) (g : Die → Die) : (s.onDie d g).cur = s.cur := rfl
@[simp] theorem State.onDie_stalled (s : State) (d : Nat) (g : Die → Die) : (s.onDie d g).stalled = s.stalled := rfl
@[simp] theorem State.onDie_cursor (s : State) (d : Nat) (g : Die → Die) : (s.onDie d g).cursor = s.cursor := rfl
@[simp] theorem State.onDie_nextUid (s : State) (d : Nat) (g : Die → Die) : (s.onDie d g).nextUid = s.nextUid := rfl
@[simp] theorem State.onDie_ticks (s : State) (d : Nat) (g : Die → Die) : (s.onDie d g).ticks = s.ticks := rfl
@[simp] theorem State.onDie_cqFault (s : State) (d : Nat) (g : Die → Die) : (s.onDie d g).cqFault = s.cqFault := rfl

/-! ## `State.setCore` -/

@[simp] theorem State.setCore_mem (s : State) (c : Nat) (x : Core) : (s.setCore c x).mem = s.mem := rfl
@[simp] theorem State.setCore_memPoison (s : State) (c : Nat) (x : Core) : (s.setCore c x).memPoison = s.memPoison := rfl
@[simp] theorem State.setCore_memKeys (s : State) (c : Nat) (x : Core) : (s.setCore c x).memKeys = s.memKeys := rfl
@[simp] theorem State.setCore_dies (s : State) (c : Nat) (x : Core) : (s.setCore c x).dies = s.dies := rfl
@[simp] theorem State.setCore_herds (s : State) (c : Nat) (x : Core) : (s.setCore c x).herds = s.herds := rfl
@[simp] theorem State.setCore_ended (s : State) (c : Nat) (x : Core) : (s.setCore c x).ended = s.ended := rfl
@[simp] theorem State.setCore_flocks (s : State) (c : Nat) (x : Core) : (s.setCore c x).flocks = s.flocks := rfl
@[simp] theorem State.setCore_regions (s : State) (c : Nat) (x : Core) : (s.setCore c x).regions = s.regions := rfl
@[simp] theorem State.setCore_owed (s : State) (c : Nat) (x : Core) : (s.setCore c x).owed = s.owed := rfl
@[simp] theorem State.setCore_queues (s : State) (c : Nat) (x : Core) : (s.setCore c x).queues = s.queues := rfl
@[simp] theorem State.setCore_paddocks (s : State) (c : Nat) (x : Core) : (s.setCore c x).paddocks = s.paddocks := rfl
@[simp] theorem State.setCore_padrep (s : State) (c : Nat) (x : Core) : (s.setCore c x).padrep = s.padrep := rfl
@[simp] theorem State.setCore_owners (s : State) (c : Nat) (x : Core) : (s.setCore c x).owners = s.owners := rfl
@[simp] theorem State.setCore_digests (s : State) (c : Nat) (x : Core) : (s.setCore c x).digests = s.digests := rfl
@[simp] theorem State.setCore_committed (s : State) (c : Nat) (x : Core) : (s.setCore c x).committed = s.committed := rfl
@[simp] theorem State.setCore_agenda (s : State) (c : Nat) (x : Core) : (s.setCore c x).agenda = s.agenda := rfl
@[simp] theorem State.setCore_out (s : State) (c : Nat) (x : Core) : (s.setCore c x).out = s.out := rfl
@[simp] theorem State.setCore_cur (s : State) (c : Nat) (x : Core) : (s.setCore c x).cur = s.cur := rfl
@[simp] theorem State.setCore_stalled (s : State) (c : Nat) (x : Core) : (s.setCore c x).stalled = s.stalled := rfl
@[simp] theorem State.setCore_cursor (s : State) (c : Nat) (x : Core) : (s.setCore c x).cursor = s.cursor := rfl
@[simp] theorem State.setCore_nextUid (s : State) (c : Nat) (x : Core) : (s.setCore c x).nextUid = s.nextUid := rfl
@[simp] theorem State.setCore_ticks (s : State) (c : Nat) (x : Core) : (s.setCore c x).ticks = s.ticks := rfl
@[simp] theorem State.setCore_cqFault (s : State) (c : Nat) (x : Core) : (s.setCore c x).cqFault = s.cqFault := rfl

/-! ## `State.onCore` -/

@[simp] theorem State.onCore_mem (s : State) (c : Nat) (g : Core → Core) : (s.onCore c g).mem = s.mem := rfl
@[simp] theorem State.onCore_memPoison (s : State) (c : Nat) (g : Core → Core) : (s.onCore c g).memPoison = s.memPoison := rfl
@[simp] theorem State.onCore_memKeys (s : State) (c : Nat) (g : Core → Core) : (s.onCore c g).memKeys = s.memKeys := rfl
@[simp] theorem State.onCore_dies (s : State) (c : Nat) (g : Core → Core) : (s.onCore c g).dies = s.dies := rfl
@[simp] theorem State.onCore_herds (s : State) (c : Nat) (g : Core → Core) : (s.onCore c g).herds = s.herds := rfl
@[simp] theorem State.onCore_ended (s : State) (c : Nat) (g : Core → Core) : (s.onCore c g).ended = s.ended := rfl
@[simp] theorem State.onCore_flocks (s : State) (c : Nat) (g : Core → Core) : (s.onCore c g).flocks = s.flocks := rfl
@[simp] theorem State.onCore_regions (s : State) (c : Nat) (g : Core → Core) : (s.onCore c g).regions = s.regions := rfl
@[simp] theorem State.onCore_owed (s : State) (c : Nat) (g : Core → Core) : (s.onCore c g).owed = s.owed := rfl
@[simp] theorem State.onCore_queues (s : State) (c : Nat) (g : Core → Core) : (s.onCore c g).queues = s.queues := rfl
@[simp] theorem State.onCore_paddocks (s : State) (c : Nat) (g : Core → Core) : (s.onCore c g).paddocks = s.paddocks := rfl
@[simp] theorem State.onCore_padrep (s : State) (c : Nat) (g : Core → Core) : (s.onCore c g).padrep = s.padrep := rfl
@[simp] theorem State.onCore_owners (s : State) (c : Nat) (g : Core → Core) : (s.onCore c g).owners = s.owners := rfl
@[simp] theorem State.onCore_digests (s : State) (c : Nat) (g : Core → Core) : (s.onCore c g).digests = s.digests := rfl
@[simp] theorem State.onCore_committed (s : State) (c : Nat) (g : Core → Core) : (s.onCore c g).committed = s.committed := rfl
@[simp] theorem State.onCore_agenda (s : State) (c : Nat) (g : Core → Core) : (s.onCore c g).agenda = s.agenda := rfl
@[simp] theorem State.onCore_out (s : State) (c : Nat) (g : Core → Core) : (s.onCore c g).out = s.out := rfl
@[simp] theorem State.onCore_cur (s : State) (c : Nat) (g : Core → Core) : (s.onCore c g).cur = s.cur := rfl
@[simp] theorem State.onCore_stalled (s : State) (c : Nat) (g : Core → Core) : (s.onCore c g).stalled = s.stalled := rfl
@[simp] theorem State.onCore_cursor (s : State) (c : Nat) (g : Core → Core) : (s.onCore c g).cursor = s.cursor := rfl
@[simp] theorem State.onCore_nextUid (s : State) (c : Nat) (g : Core → Core) : (s.onCore c g).nextUid = s.nextUid := rfl
@[simp] theorem State.onCore_ticks (s : State) (c : Nat) (g : Core → Core) : (s.onCore c g).ticks = s.ticks := rfl
@[simp] theorem State.onCore_cqFault (s : State) (c : Nat) (g : Core → Core) : (s.onCore c g).cqFault = s.cqFault := rfl

/-! ## `State.mapCores` -/

@[simp] theorem State.mapCores_mem (s : State) (g : Core → Core) : (s.mapCores g).mem = s.mem := rfl
@[simp] theorem State.mapCores_memPoison (s : State) (g : Core → Core) : (s.mapCores g).memPoison = s.memPoison := rfl
@[simp] theorem State.mapCores_memKeys (s : State) (g : Core → Core) : (s.mapCores g).memKeys = s.memKeys := rfl
@[simp] theorem State.mapCores_dies (s : State) (g : Core → Core) : (s.mapCores g).dies = s.dies := rfl
@[simp] theorem State.mapCores_herds (s : State) (g : Core → Core) : (s.mapCores g).herds = s.herds := rfl
@[simp] theorem State.mapCores_ended (s : State) (g : Core → Core) : (s.mapCores g).ended = s.ended := rfl
@[simp] theorem State.mapCores_flocks (s : State) (g : Core → Core) : (s.mapCores g).flocks = s.flocks := rfl
@[simp] theorem State.mapCores_regions (s : State) (g : Core → Core) : (s.mapCores g).regions = s.regions := rfl
@[simp] theorem State.mapCores_owed (s : State) (g : Core → Core) : (s.mapCores g).owed = s.owed := rfl
@[simp] theorem State.mapCores_queues (s : State) (g : Core → Core) : (s.mapCores g).queues = s.queues := rfl
@[simp] theorem State.mapCores_paddocks (s : State) (g : Core → Core) : (s.mapCores g).paddocks = s.paddocks := rfl
@[simp] theorem State.mapCores_padrep (s : State) (g : Core → Core) : (s.mapCores g).padrep = s.padrep := rfl
@[simp] theorem State.mapCores_owners (s : State) (g : Core → Core) : (s.mapCores g).owners = s.owners := rfl
@[simp] theorem State.mapCores_digests (s : State) (g : Core → Core) : (s.mapCores g).digests = s.digests := rfl
@[simp] theorem State.mapCores_committed (s : State) (g : Core → Core) : (s.mapCores g).committed = s.committed := rfl
@[simp] theorem State.mapCores_agenda (s : State) (g : Core → Core) : (s.mapCores g).agenda = s.agenda := rfl
@[simp] theorem State.mapCores_out (s : State) (g : Core → Core) : (s.mapCores g).out = s.out := rfl
@[simp] theorem State.mapCores_cur (s : State) (g : Core → Core) : (s.mapCores g).cur = s.cur := rfl
@[simp] theorem State.mapCores_stalled (s : State) (g : Core → Core) : (s.mapCores g).stalled = s.stalled := rfl
@[simp] theorem State.mapCores_cursor (s : State) (g : Core → Core) : (s.mapCores g).cursor = s.cursor := rfl
@[simp] theorem State.mapCores_nextUid (s : State) (g : Core → Core) : (s.mapCores g).nextUid = s.nextUid := rfl
@[simp] theorem State.mapCores_ticks (s : State) (g : Core → Core) : (s.mapCores g).ticks = s.ticks := rfl
@[simp] theorem State.mapCores_cqFault (s : State) (g : Core → Core) : (s.mapCores g).cqFault = s.cqFault := rfl

/-! ## `State.mapDies` -/

@[simp] theorem State.mapDies_mem (s : State) (g : Die → Die) : (s.mapDies g).mem = s.mem := rfl
@[simp] theorem State.mapDies_memPoison (s : State) (g : Die → Die) : (s.mapDies g).memPoison = s.memPoison := rfl
@[simp] theorem State.mapDies_memKeys (s : State) (g : Die → Die) : (s.mapDies g).memKeys = s.memKeys := rfl
@[simp] theorem State.mapDies_cores (s : State) (g : Die → Die) : (s.mapDies g).cores = s.cores := rfl
@[simp] theorem State.mapDies_herds (s : State) (g : Die → Die) : (s.mapDies g).herds = s.herds := rfl
@[simp] theorem State.mapDies_ended (s : State) (g : Die → Die) : (s.mapDies g).ended = s.ended := rfl
@[simp] theorem State.mapDies_flocks (s : State) (g : Die → Die) : (s.mapDies g).flocks = s.flocks := rfl
@[simp] theorem State.mapDies_regions (s : State) (g : Die → Die) : (s.mapDies g).regions = s.regions := rfl
@[simp] theorem State.mapDies_owed (s : State) (g : Die → Die) : (s.mapDies g).owed = s.owed := rfl
@[simp] theorem State.mapDies_queues (s : State) (g : Die → Die) : (s.mapDies g).queues = s.queues := rfl
@[simp] theorem State.mapDies_paddocks (s : State) (g : Die → Die) : (s.mapDies g).paddocks = s.paddocks := rfl
@[simp] theorem State.mapDies_padrep (s : State) (g : Die → Die) : (s.mapDies g).padrep = s.padrep := rfl
@[simp] theorem State.mapDies_owners (s : State) (g : Die → Die) : (s.mapDies g).owners = s.owners := rfl
@[simp] theorem State.mapDies_digests (s : State) (g : Die → Die) : (s.mapDies g).digests = s.digests := rfl
@[simp] theorem State.mapDies_committed (s : State) (g : Die → Die) : (s.mapDies g).committed = s.committed := rfl
@[simp] theorem State.mapDies_agenda (s : State) (g : Die → Die) : (s.mapDies g).agenda = s.agenda := rfl
@[simp] theorem State.mapDies_out (s : State) (g : Die → Die) : (s.mapDies g).out = s.out := rfl
@[simp] theorem State.mapDies_cur (s : State) (g : Die → Die) : (s.mapDies g).cur = s.cur := rfl
@[simp] theorem State.mapDies_stalled (s : State) (g : Die → Die) : (s.mapDies g).stalled = s.stalled := rfl
@[simp] theorem State.mapDies_cursor (s : State) (g : Die → Die) : (s.mapDies g).cursor = s.cursor := rfl
@[simp] theorem State.mapDies_nextUid (s : State) (g : Die → Die) : (s.mapDies g).nextUid = s.nextUid := rfl
@[simp] theorem State.mapDies_ticks (s : State) (g : Die → Die) : (s.mapDies g).ticks = s.ticks := rfl
@[simp] theorem State.mapDies_cqFault (s : State) (g : Die → Die) : (s.mapDies g).cqFault = s.cqFault := rfl

/-! ## `State.setFlock` -/

@[simp] theorem State.setFlock_mem (s : State) (f : Flock) : (s.setFlock f).mem = s.mem := rfl
@[simp] theorem State.setFlock_memPoison (s : State) (f : Flock) : (s.setFlock f).memPoison = s.memPoison := rfl
@[simp] theorem State.setFlock_memKeys (s : State) (f : Flock) : (s.setFlock f).memKeys = s.memKeys := rfl
@[simp] theorem State.setFlock_dies (s : State) (f : Flock) : (s.setFlock f).dies = s.dies := rfl
@[simp] theorem State.setFlock_cores (s : State) (f : Flock) : (s.setFlock f).cores = s.cores := rfl
@[simp] theorem State.setFlock_herds (s : State) (f : Flock) : (s.setFlock f).herds = s.herds := rfl
@[simp] theorem State.setFlock_ended (s : State) (f : Flock) : (s.setFlock f).ended = s.ended := rfl
@[simp] theorem State.setFlock_regions (s : State) (f : Flock) : (s.setFlock f).regions = s.regions := rfl
@[simp] theorem State.setFlock_owed (s : State) (f : Flock) : (s.setFlock f).owed = s.owed := rfl
@[simp] theorem State.setFlock_queues (s : State) (f : Flock) : (s.setFlock f).queues = s.queues := rfl
@[simp] theorem State.setFlock_paddocks (s : State) (f : Flock) : (s.setFlock f).paddocks = s.paddocks := rfl
@[simp] theorem State.setFlock_padrep (s : State) (f : Flock) : (s.setFlock f).padrep = s.padrep := rfl
@[simp] theorem State.setFlock_owners (s : State) (f : Flock) : (s.setFlock f).owners = s.owners := rfl
@[simp] theorem State.setFlock_digests (s : State) (f : Flock) : (s.setFlock f).digests = s.digests := rfl
@[simp] theorem State.setFlock_committed (s : State) (f : Flock) : (s.setFlock f).committed = s.committed := rfl
@[simp] theorem State.setFlock_agenda (s : State) (f : Flock) : (s.setFlock f).agenda = s.agenda := rfl
@[simp] theorem State.setFlock_out (s : State) (f : Flock) : (s.setFlock f).out = s.out := rfl
@[simp] theorem State.setFlock_cur (s : State) (f : Flock) : (s.setFlock f).cur = s.cur := rfl
@[simp] theorem State.setFlock_stalled (s : State) (f : Flock) : (s.setFlock f).stalled = s.stalled := rfl
@[simp] theorem State.setFlock_cursor (s : State) (f : Flock) : (s.setFlock f).cursor = s.cursor := rfl
@[simp] theorem State.setFlock_nextUid (s : State) (f : Flock) : (s.setFlock f).nextUid = s.nextUid := rfl
@[simp] theorem State.setFlock_ticks (s : State) (f : Flock) : (s.setFlock f).ticks = s.ticks := rfl
@[simp] theorem State.setFlock_cqFault (s : State) (f : Flock) : (s.setFlock f).cqFault = s.cqFault := rfl

/-! ## `State.onFlock` -/

@[simp] theorem State.onFlock_mem (s : State) (u : Nat) (g : Flock → Flock) : (s.onFlock u g).mem = s.mem := rfl
@[simp] theorem State.onFlock_memPoison (s : State) (u : Nat) (g : Flock → Flock) : (s.onFlock u g).memPoison = s.memPoison := rfl
@[simp] theorem State.onFlock_memKeys (s : State) (u : Nat) (g : Flock → Flock) : (s.onFlock u g).memKeys = s.memKeys := rfl
@[simp] theorem State.onFlock_dies (s : State) (u : Nat) (g : Flock → Flock) : (s.onFlock u g).dies = s.dies := rfl
@[simp] theorem State.onFlock_cores (s : State) (u : Nat) (g : Flock → Flock) : (s.onFlock u g).cores = s.cores := rfl
@[simp] theorem State.onFlock_herds (s : State) (u : Nat) (g : Flock → Flock) : (s.onFlock u g).herds = s.herds := rfl
@[simp] theorem State.onFlock_ended (s : State) (u : Nat) (g : Flock → Flock) : (s.onFlock u g).ended = s.ended := rfl
@[simp] theorem State.onFlock_regions (s : State) (u : Nat) (g : Flock → Flock) : (s.onFlock u g).regions = s.regions := rfl
@[simp] theorem State.onFlock_owed (s : State) (u : Nat) (g : Flock → Flock) : (s.onFlock u g).owed = s.owed := rfl
@[simp] theorem State.onFlock_queues (s : State) (u : Nat) (g : Flock → Flock) : (s.onFlock u g).queues = s.queues := rfl
@[simp] theorem State.onFlock_paddocks (s : State) (u : Nat) (g : Flock → Flock) : (s.onFlock u g).paddocks = s.paddocks := rfl
@[simp] theorem State.onFlock_padrep (s : State) (u : Nat) (g : Flock → Flock) : (s.onFlock u g).padrep = s.padrep := rfl
@[simp] theorem State.onFlock_owners (s : State) (u : Nat) (g : Flock → Flock) : (s.onFlock u g).owners = s.owners := rfl
@[simp] theorem State.onFlock_digests (s : State) (u : Nat) (g : Flock → Flock) : (s.onFlock u g).digests = s.digests := rfl
@[simp] theorem State.onFlock_committed (s : State) (u : Nat) (g : Flock → Flock) : (s.onFlock u g).committed = s.committed := rfl
@[simp] theorem State.onFlock_agenda (s : State) (u : Nat) (g : Flock → Flock) : (s.onFlock u g).agenda = s.agenda := rfl
@[simp] theorem State.onFlock_out (s : State) (u : Nat) (g : Flock → Flock) : (s.onFlock u g).out = s.out := rfl
@[simp] theorem State.onFlock_cur (s : State) (u : Nat) (g : Flock → Flock) : (s.onFlock u g).cur = s.cur := rfl
@[simp] theorem State.onFlock_stalled (s : State) (u : Nat) (g : Flock → Flock) : (s.onFlock u g).stalled = s.stalled := rfl
@[simp] theorem State.onFlock_cursor (s : State) (u : Nat) (g : Flock → Flock) : (s.onFlock u g).cursor = s.cursor := rfl
@[simp] theorem State.onFlock_nextUid (s : State) (u : Nat) (g : Flock → Flock) : (s.onFlock u g).nextUid = s.nextUid := rfl
@[simp] theorem State.onFlock_ticks (s : State) (u : Nat) (g : Flock → Flock) : (s.onFlock u g).ticks = s.ticks := rfl
@[simp] theorem State.onFlock_cqFault (s : State) (u : Nat) (g : Flock → Flock) : (s.onFlock u g).cqFault = s.cqFault := rfl

/-! ## `State.setHerd` -/

@[simp] theorem State.setHerd_mem (s : State) (h : Herd) : (s.setHerd h).mem = s.mem := rfl
@[simp] theorem State.setHerd_memPoison (s : State) (h : Herd) : (s.setHerd h).memPoison = s.memPoison := rfl
@[simp] theorem State.setHerd_memKeys (s : State) (h : Herd) : (s.setHerd h).memKeys = s.memKeys := rfl
@[simp] theorem State.setHerd_dies (s : State) (h : Herd) : (s.setHerd h).dies = s.dies := rfl
@[simp] theorem State.setHerd_cores (s : State) (h : Herd) : (s.setHerd h).cores = s.cores := rfl
@[simp] theorem State.setHerd_flocks (s : State) (h : Herd) : (s.setHerd h).flocks = s.flocks := rfl
@[simp] theorem State.setHerd_regions (s : State) (h : Herd) : (s.setHerd h).regions = s.regions := rfl
@[simp] theorem State.setHerd_owed (s : State) (h : Herd) : (s.setHerd h).owed = s.owed := rfl
@[simp] theorem State.setHerd_queues (s : State) (h : Herd) : (s.setHerd h).queues = s.queues := rfl
@[simp] theorem State.setHerd_paddocks (s : State) (h : Herd) : (s.setHerd h).paddocks = s.paddocks := rfl
@[simp] theorem State.setHerd_padrep (s : State) (h : Herd) : (s.setHerd h).padrep = s.padrep := rfl
@[simp] theorem State.setHerd_owners (s : State) (h : Herd) : (s.setHerd h).owners = s.owners := rfl
@[simp] theorem State.setHerd_digests (s : State) (h : Herd) : (s.setHerd h).digests = s.digests := rfl
@[simp] theorem State.setHerd_committed (s : State) (h : Herd) : (s.setHerd h).committed = s.committed := rfl
@[simp] theorem State.setHerd_agenda (s : State) (h : Herd) : (s.setHerd h).agenda = s.agenda := rfl
@[simp] theorem State.setHerd_out (s : State) (h : Herd) : (s.setHerd h).out = s.out := rfl
@[simp] theorem State.setHerd_cur (s : State) (h : Herd) : (s.setHerd h).cur = s.cur := rfl
@[simp] theorem State.setHerd_stalled (s : State) (h : Herd) : (s.setHerd h).stalled = s.stalled := rfl
@[simp] theorem State.setHerd_cursor (s : State) (h : Herd) : (s.setHerd h).cursor = s.cursor := rfl
@[simp] theorem State.setHerd_nextUid (s : State) (h : Herd) : (s.setHerd h).nextUid = s.nextUid := rfl
@[simp] theorem State.setHerd_ticks (s : State) (h : Herd) : (s.setHerd h).ticks = s.ticks := rfl
@[simp] theorem State.setHerd_cqFault (s : State) (h : Herd) : (s.setHerd h).cqFault = s.cqFault := rfl

/-! ## `State.setRegion` -/

@[simp] theorem State.setRegion_mem (s : State) (r : Region) : (s.setRegion r).mem = s.mem := rfl
@[simp] theorem State.setRegion_memPoison (s : State) (r : Region) : (s.setRegion r).memPoison = s.memPoison := rfl
@[simp] theorem State.setRegion_memKeys (s : State) (r : Region) : (s.setRegion r).memKeys = s.memKeys := rfl
@[simp] theorem State.setRegion_dies (s : State) (r : Region) : (s.setRegion r).dies = s.dies := rfl
@[simp] theorem State.setRegion_cores (s : State) (r : Region) : (s.setRegion r).cores = s.cores := rfl
@[simp] theorem State.setRegion_herds (s : State) (r : Region) : (s.setRegion r).herds = s.herds := rfl
@[simp] theorem State.setRegion_ended (s : State) (r : Region) : (s.setRegion r).ended = s.ended := rfl
@[simp] theorem State.setRegion_flocks (s : State) (r : Region) : (s.setRegion r).flocks = s.flocks := rfl
@[simp] theorem State.setRegion_owed (s : State) (r : Region) : (s.setRegion r).owed = s.owed := rfl
@[simp] theorem State.setRegion_queues (s : State) (r : Region) : (s.setRegion r).queues = s.queues := rfl
@[simp] theorem State.setRegion_paddocks (s : State) (r : Region) : (s.setRegion r).paddocks = s.paddocks := rfl
@[simp] theorem State.setRegion_padrep (s : State) (r : Region) : (s.setRegion r).padrep = s.padrep := rfl
@[simp] theorem State.setRegion_owners (s : State) (r : Region) : (s.setRegion r).owners = s.owners := rfl
@[simp] theorem State.setRegion_digests (s : State) (r : Region) : (s.setRegion r).digests = s.digests := rfl
@[simp] theorem State.setRegion_committed (s : State) (r : Region) : (s.setRegion r).committed = s.committed := rfl
@[simp] theorem State.setRegion_agenda (s : State) (r : Region) : (s.setRegion r).agenda = s.agenda := rfl
@[simp] theorem State.setRegion_out (s : State) (r : Region) : (s.setRegion r).out = s.out := rfl
@[simp] theorem State.setRegion_cur (s : State) (r : Region) : (s.setRegion r).cur = s.cur := rfl
@[simp] theorem State.setRegion_stalled (s : State) (r : Region) : (s.setRegion r).stalled = s.stalled := rfl
@[simp] theorem State.setRegion_cursor (s : State) (r : Region) : (s.setRegion r).cursor = s.cursor := rfl
@[simp] theorem State.setRegion_nextUid (s : State) (r : Region) : (s.setRegion r).nextUid = s.nextUid := rfl
@[simp] theorem State.setRegion_ticks (s : State) (r : Region) : (s.setRegion r).ticks = s.ticks := rfl
@[simp] theorem State.setRegion_cqFault (s : State) (r : Region) : (s.setRegion r).cqFault = s.cqFault := rfl

/-! ## `State.post` -/

@[simp] theorem State.post_mem (s : State) (e : Event) : (s.post e).mem = s.mem := rfl
@[simp] theorem State.post_memPoison (s : State) (e : Event) : (s.post e).memPoison = s.memPoison := rfl
@[simp] theorem State.post_memKeys (s : State) (e : Event) : (s.post e).memKeys = s.memKeys := rfl
@[simp] theorem State.post_dies (s : State) (e : Event) : (s.post e).dies = s.dies := rfl
@[simp] theorem State.post_cores (s : State) (e : Event) : (s.post e).cores = s.cores := rfl
@[simp] theorem State.post_herds (s : State) (e : Event) : (s.post e).herds = s.herds := rfl
@[simp] theorem State.post_ended (s : State) (e : Event) : (s.post e).ended = s.ended := rfl
@[simp] theorem State.post_flocks (s : State) (e : Event) : (s.post e).flocks = s.flocks := rfl
@[simp] theorem State.post_regions (s : State) (e : Event) : (s.post e).regions = s.regions := rfl
@[simp] theorem State.post_owed (s : State) (e : Event) : (s.post e).owed = s.owed := rfl
@[simp] theorem State.post_queues (s : State) (e : Event) : (s.post e).queues = s.queues := rfl
@[simp] theorem State.post_paddocks (s : State) (e : Event) : (s.post e).paddocks = s.paddocks := rfl
@[simp] theorem State.post_padrep (s : State) (e : Event) : (s.post e).padrep = s.padrep := rfl
@[simp] theorem State.post_owners (s : State) (e : Event) : (s.post e).owners = s.owners := rfl
@[simp] theorem State.post_digests (s : State) (e : Event) : (s.post e).digests = s.digests := rfl
@[simp] theorem State.post_committed (s : State) (e : Event) : (s.post e).committed = s.committed := rfl
@[simp] theorem State.post_out (s : State) (e : Event) : (s.post e).out = s.out := rfl
@[simp] theorem State.post_cur (s : State) (e : Event) : (s.post e).cur = s.cur := rfl
@[simp] theorem State.post_stalled (s : State) (e : Event) : (s.post e).stalled = s.stalled := rfl
@[simp] theorem State.post_cursor (s : State) (e : Event) : (s.post e).cursor = s.cursor := rfl
@[simp] theorem State.post_nextUid (s : State) (e : Event) : (s.post e).nextUid = s.nextUid := rfl
@[simp] theorem State.post_ticks (s : State) (e : Event) : (s.post e).ticks = s.ticks := rfl
@[simp] theorem State.post_cqFault (s : State) (e : Event) : (s.post e).cqFault = s.cqFault := rfl

/-! ## `State.emit` -/

@[simp] theorem State.emit_mem (s : State) (o : Output) : (s.emit o).mem = s.mem := rfl
@[simp] theorem State.emit_memPoison (s : State) (o : Output) : (s.emit o).memPoison = s.memPoison := rfl
@[simp] theorem State.emit_memKeys (s : State) (o : Output) : (s.emit o).memKeys = s.memKeys := rfl
@[simp] theorem State.emit_dies (s : State) (o : Output) : (s.emit o).dies = s.dies := rfl
@[simp] theorem State.emit_cores (s : State) (o : Output) : (s.emit o).cores = s.cores := rfl
@[simp] theorem State.emit_herds (s : State) (o : Output) : (s.emit o).herds = s.herds := rfl
@[simp] theorem State.emit_ended (s : State) (o : Output) : (s.emit o).ended = s.ended := rfl
@[simp] theorem State.emit_flocks (s : State) (o : Output) : (s.emit o).flocks = s.flocks := rfl
@[simp] theorem State.emit_regions (s : State) (o : Output) : (s.emit o).regions = s.regions := rfl
@[simp] theorem State.emit_owed (s : State) (o : Output) : (s.emit o).owed = s.owed := rfl
@[simp] theorem State.emit_queues (s : State) (o : Output) : (s.emit o).queues = s.queues := rfl
@[simp] theorem State.emit_paddocks (s : State) (o : Output) : (s.emit o).paddocks = s.paddocks := rfl
@[simp] theorem State.emit_padrep (s : State) (o : Output) : (s.emit o).padrep = s.padrep := rfl
@[simp] theorem State.emit_owners (s : State) (o : Output) : (s.emit o).owners = s.owners := rfl
@[simp] theorem State.emit_digests (s : State) (o : Output) : (s.emit o).digests = s.digests := rfl
@[simp] theorem State.emit_committed (s : State) (o : Output) : (s.emit o).committed = s.committed := rfl
@[simp] theorem State.emit_agenda (s : State) (o : Output) : (s.emit o).agenda = s.agenda := rfl
@[simp] theorem State.emit_cur (s : State) (o : Output) : (s.emit o).cur = s.cur := rfl
@[simp] theorem State.emit_stalled (s : State) (o : Output) : (s.emit o).stalled = s.stalled := rfl
@[simp] theorem State.emit_cursor (s : State) (o : Output) : (s.emit o).cursor = s.cursor := rfl
@[simp] theorem State.emit_nextUid (s : State) (o : Output) : (s.emit o).nextUid = s.nextUid := rfl
@[simp] theorem State.emit_ticks (s : State) (o : Output) : (s.emit o).ticks = s.ticks := rfl
@[simp] theorem State.emit_cqFault (s : State) (o : Output) : (s.emit o).cqFault = s.cqFault := rfl

/-! ## `State.bumpUid` -/

@[simp] theorem State.bumpUid_mem (s : State) : (s.bumpUid).mem = s.mem := rfl
@[simp] theorem State.bumpUid_memPoison (s : State) : (s.bumpUid).memPoison = s.memPoison := rfl
@[simp] theorem State.bumpUid_memKeys (s : State) : (s.bumpUid).memKeys = s.memKeys := rfl
@[simp] theorem State.bumpUid_dies (s : State) : (s.bumpUid).dies = s.dies := rfl
@[simp] theorem State.bumpUid_cores (s : State) : (s.bumpUid).cores = s.cores := rfl
@[simp] theorem State.bumpUid_herds (s : State) : (s.bumpUid).herds = s.herds := rfl
@[simp] theorem State.bumpUid_ended (s : State) : (s.bumpUid).ended = s.ended := rfl
@[simp] theorem State.bumpUid_flocks (s : State) : (s.bumpUid).flocks = s.flocks := rfl
@[simp] theorem State.bumpUid_regions (s : State) : (s.bumpUid).regions = s.regions := rfl
@[simp] theorem State.bumpUid_owed (s : State) : (s.bumpUid).owed = s.owed := rfl
@[simp] theorem State.bumpUid_queues (s : State) : (s.bumpUid).queues = s.queues := rfl
@[simp] theorem State.bumpUid_paddocks (s : State) : (s.bumpUid).paddocks = s.paddocks := rfl
@[simp] theorem State.bumpUid_padrep (s : State) : (s.bumpUid).padrep = s.padrep := rfl
@[simp] theorem State.bumpUid_owners (s : State) : (s.bumpUid).owners = s.owners := rfl
@[simp] theorem State.bumpUid_digests (s : State) : (s.bumpUid).digests = s.digests := rfl
@[simp] theorem State.bumpUid_committed (s : State) : (s.bumpUid).committed = s.committed := rfl
@[simp] theorem State.bumpUid_agenda (s : State) : (s.bumpUid).agenda = s.agenda := rfl
@[simp] theorem State.bumpUid_out (s : State) : (s.bumpUid).out = s.out := rfl
@[simp] theorem State.bumpUid_cur (s : State) : (s.bumpUid).cur = s.cur := rfl
@[simp] theorem State.bumpUid_stalled (s : State) : (s.bumpUid).stalled = s.stalled := rfl
@[simp] theorem State.bumpUid_cursor (s : State) : (s.bumpUid).cursor = s.cursor := rfl
@[simp] theorem State.bumpUid_ticks (s : State) : (s.bumpUid).ticks = s.ticks := rfl
@[simp] theorem State.bumpUid_cqFault (s : State) : (s.bumpUid).cqFault = s.cqFault := rfl

/-! ## `State.setPaddock` -/

@[simp] theorem State.setPaddock_mem (s : State) (n : Nat) (p : Paddock) : (s.setPaddock n p).mem = s.mem := rfl
@[simp] theorem State.setPaddock_memPoison (s : State) (n : Nat) (p : Paddock) : (s.setPaddock n p).memPoison = s.memPoison := rfl
@[simp] theorem State.setPaddock_memKeys (s : State) (n : Nat) (p : Paddock) : (s.setPaddock n p).memKeys = s.memKeys := rfl
@[simp] theorem State.setPaddock_dies (s : State) (n : Nat) (p : Paddock) : (s.setPaddock n p).dies = s.dies := rfl
@[simp] theorem State.setPaddock_cores (s : State) (n : Nat) (p : Paddock) : (s.setPaddock n p).cores = s.cores := rfl
@[simp] theorem State.setPaddock_herds (s : State) (n : Nat) (p : Paddock) : (s.setPaddock n p).herds = s.herds := rfl
@[simp] theorem State.setPaddock_ended (s : State) (n : Nat) (p : Paddock) : (s.setPaddock n p).ended = s.ended := rfl
@[simp] theorem State.setPaddock_flocks (s : State) (n : Nat) (p : Paddock) : (s.setPaddock n p).flocks = s.flocks := rfl
@[simp] theorem State.setPaddock_regions (s : State) (n : Nat) (p : Paddock) : (s.setPaddock n p).regions = s.regions := rfl
@[simp] theorem State.setPaddock_owed (s : State) (n : Nat) (p : Paddock) : (s.setPaddock n p).owed = s.owed := rfl
@[simp] theorem State.setPaddock_queues (s : State) (n : Nat) (p : Paddock) : (s.setPaddock n p).queues = s.queues := rfl
@[simp] theorem State.setPaddock_padrep (s : State) (n : Nat) (p : Paddock) : (s.setPaddock n p).padrep = s.padrep := rfl
@[simp] theorem State.setPaddock_owners (s : State) (n : Nat) (p : Paddock) : (s.setPaddock n p).owners = s.owners := rfl
@[simp] theorem State.setPaddock_digests (s : State) (n : Nat) (p : Paddock) : (s.setPaddock n p).digests = s.digests := rfl
@[simp] theorem State.setPaddock_committed (s : State) (n : Nat) (p : Paddock) : (s.setPaddock n p).committed = s.committed := rfl
@[simp] theorem State.setPaddock_agenda (s : State) (n : Nat) (p : Paddock) : (s.setPaddock n p).agenda = s.agenda := rfl
@[simp] theorem State.setPaddock_out (s : State) (n : Nat) (p : Paddock) : (s.setPaddock n p).out = s.out := rfl
@[simp] theorem State.setPaddock_cur (s : State) (n : Nat) (p : Paddock) : (s.setPaddock n p).cur = s.cur := rfl
@[simp] theorem State.setPaddock_stalled (s : State) (n : Nat) (p : Paddock) : (s.setPaddock n p).stalled = s.stalled := rfl
@[simp] theorem State.setPaddock_cursor (s : State) (n : Nat) (p : Paddock) : (s.setPaddock n p).cursor = s.cursor := rfl
@[simp] theorem State.setPaddock_nextUid (s : State) (n : Nat) (p : Paddock) : (s.setPaddock n p).nextUid = s.nextUid := rfl
@[simp] theorem State.setPaddock_ticks (s : State) (n : Nat) (p : Paddock) : (s.setPaddock n p).ticks = s.ticks := rfl
@[simp] theorem State.setPaddock_cqFault (s : State) (n : Nat) (p : Paddock) : (s.setPaddock n p).cqFault = s.cqFault := rfl

/-! ## `State.setCtx` -/

/-- A write of hardware's own structures changes memory, the keys of its units, and the copies that dies keep of their lines. -/
theorem State.putBytes_eq (s : State) (pa : Nat) (bs : List Byte) :
    ∃ m k d, s.putBytes pa bs = { s with mem := m, memKeys := k, dies := d } := by
  have shown (u : State) (l : List Nat) : ∃ m k, l.foldl (fun (s : State) u => if s.inL2 (256 * u) then s else s.rekeyUnit none u) u =
      { u with mem := m, memKeys := k } := by
    induction l generalizing u with
    | nil => exact ⟨u.mem, u.memKeys, rfl⟩
    | cons x l ih =>
      obtain ⟨m, k, h⟩ : ∃ m k, (if u.inL2 (256 * x) then u else u.rekeyUnit none x) = { u with mem := m, memKeys := k } := by
        unfold State.rekeyUnit
        (repeat' split) <;> exact ⟨_, _, rfl⟩
      obtain ⟨m', k', h'⟩ := ih { u with mem := m, memKeys := k }
      exact ⟨m', k', by rw [List.foldl_cons, h, h']⟩
  obtain ⟨m, k, h⟩ := shown s (unitsOf pa bs.length)
  exact ⟨_, _, _, by unfold State.putBytes; rw [h]; rfl⟩

theorem State.setCtx_eq (s : State) (i lo n v : Nat) : ∃ m k d, s.setCtx i lo n v = { s with mem := m, memKeys := k, dies := d } :=
  s.putBytes_eq _ _

@[simp] theorem State.setCtx_memPoison (s : State) (i lo n v : Nat) : (s.setCtx i lo n v).memPoison = s.memPoison := by obtain ⟨_, _, _, h⟩ := s.setCtx_eq i lo n v; rw [h]
@[simp] theorem State.setCtx_cores (s : State) (i lo n v : Nat) : (s.setCtx i lo n v).cores = s.cores := by obtain ⟨_, _, _, h⟩ := s.setCtx_eq i lo n v; rw [h]
@[simp] theorem State.setCtx_herds (s : State) (i lo n v : Nat) : (s.setCtx i lo n v).herds = s.herds := by obtain ⟨_, _, _, h⟩ := s.setCtx_eq i lo n v; rw [h]
@[simp] theorem State.setCtx_ended (s : State) (i lo n v : Nat) : (s.setCtx i lo n v).ended = s.ended := by obtain ⟨_, _, _, h⟩ := s.setCtx_eq i lo n v; rw [h]
@[simp] theorem State.setCtx_flocks (s : State) (i lo n v : Nat) : (s.setCtx i lo n v).flocks = s.flocks := by obtain ⟨_, _, _, h⟩ := s.setCtx_eq i lo n v; rw [h]
@[simp] theorem State.setCtx_regions (s : State) (i lo n v : Nat) : (s.setCtx i lo n v).regions = s.regions := by obtain ⟨_, _, _, h⟩ := s.setCtx_eq i lo n v; rw [h]
@[simp] theorem State.setCtx_owed (s : State) (i lo n v : Nat) : (s.setCtx i lo n v).owed = s.owed := by obtain ⟨_, _, _, h⟩ := s.setCtx_eq i lo n v; rw [h]
@[simp] theorem State.setCtx_queues (s : State) (i lo n v : Nat) : (s.setCtx i lo n v).queues = s.queues := by obtain ⟨_, _, _, h⟩ := s.setCtx_eq i lo n v; rw [h]
@[simp] theorem State.setCtx_paddocks (s : State) (i lo n v : Nat) : (s.setCtx i lo n v).paddocks = s.paddocks := by obtain ⟨_, _, _, h⟩ := s.setCtx_eq i lo n v; rw [h]
@[simp] theorem State.setCtx_padrep (s : State) (i lo n v : Nat) : (s.setCtx i lo n v).padrep = s.padrep := by obtain ⟨_, _, _, h⟩ := s.setCtx_eq i lo n v; rw [h]
@[simp] theorem State.setCtx_owners (s : State) (i lo n v : Nat) : (s.setCtx i lo n v).owners = s.owners := by obtain ⟨_, _, _, h⟩ := s.setCtx_eq i lo n v; rw [h]
@[simp] theorem State.setCtx_digests (s : State) (i lo n v : Nat) : (s.setCtx i lo n v).digests = s.digests := by obtain ⟨_, _, _, h⟩ := s.setCtx_eq i lo n v; rw [h]
@[simp] theorem State.setCtx_committed (s : State) (i lo n v : Nat) : (s.setCtx i lo n v).committed = s.committed := by obtain ⟨_, _, _, h⟩ := s.setCtx_eq i lo n v; rw [h]
@[simp] theorem State.setCtx_agenda (s : State) (i lo n v : Nat) : (s.setCtx i lo n v).agenda = s.agenda := by obtain ⟨_, _, _, h⟩ := s.setCtx_eq i lo n v; rw [h]
@[simp] theorem State.setCtx_out (s : State) (i lo n v : Nat) : (s.setCtx i lo n v).out = s.out := by obtain ⟨_, _, _, h⟩ := s.setCtx_eq i lo n v; rw [h]
@[simp] theorem State.setCtx_cur (s : State) (i lo n v : Nat) : (s.setCtx i lo n v).cur = s.cur := by obtain ⟨_, _, _, h⟩ := s.setCtx_eq i lo n v; rw [h]
@[simp] theorem State.setCtx_stalled (s : State) (i lo n v : Nat) : (s.setCtx i lo n v).stalled = s.stalled := by obtain ⟨_, _, _, h⟩ := s.setCtx_eq i lo n v; rw [h]
@[simp] theorem State.setCtx_cursor (s : State) (i lo n v : Nat) : (s.setCtx i lo n v).cursor = s.cursor := by obtain ⟨_, _, _, h⟩ := s.setCtx_eq i lo n v; rw [h]
@[simp] theorem State.setCtx_nextUid (s : State) (i lo n v : Nat) : (s.setCtx i lo n v).nextUid = s.nextUid := by obtain ⟨_, _, _, h⟩ := s.setCtx_eq i lo n v; rw [h]
@[simp] theorem State.setCtx_ticks (s : State) (i lo n v : Nat) : (s.setCtx i lo n v).ticks = s.ticks := by obtain ⟨_, _, _, h⟩ := s.setCtx_eq i lo n v; rw [h]
@[simp] theorem State.setCtx_cqFault (s : State) (i lo n v : Nat) : (s.setCtx i lo n v).cqFault = s.cqFault := by obtain ⟨_, _, _, h⟩ := s.setCtx_eq i lo n v; rw [h]

/-! ## `State.postOnce` -/

@[simp] theorem State.postOnce_mem (s : State) (e : Event) : (s.postOnce e).mem = s.mem := by unfold State.postOnce; split <;> rfl
@[simp] theorem State.postOnce_memPoison (s : State) (e : Event) : (s.postOnce e).memPoison = s.memPoison := by unfold State.postOnce; split <;> rfl
@[simp] theorem State.postOnce_memKeys (s : State) (e : Event) : (s.postOnce e).memKeys = s.memKeys := by unfold State.postOnce; split <;> rfl
@[simp] theorem State.postOnce_dies (s : State) (e : Event) : (s.postOnce e).dies = s.dies := by unfold State.postOnce; split <;> rfl
@[simp] theorem State.postOnce_cores (s : State) (e : Event) : (s.postOnce e).cores = s.cores := by unfold State.postOnce; split <;> rfl
@[simp] theorem State.postOnce_herds (s : State) (e : Event) : (s.postOnce e).herds = s.herds := by unfold State.postOnce; split <;> rfl
@[simp] theorem State.postOnce_ended (s : State) (e : Event) : (s.postOnce e).ended = s.ended := by unfold State.postOnce; split <;> rfl
@[simp] theorem State.postOnce_flocks (s : State) (e : Event) : (s.postOnce e).flocks = s.flocks := by unfold State.postOnce; split <;> rfl
@[simp] theorem State.postOnce_regions (s : State) (e : Event) : (s.postOnce e).regions = s.regions := by unfold State.postOnce; split <;> rfl
@[simp] theorem State.postOnce_owed (s : State) (e : Event) : (s.postOnce e).owed = s.owed := by unfold State.postOnce; split <;> rfl
@[simp] theorem State.postOnce_queues (s : State) (e : Event) : (s.postOnce e).queues = s.queues := by unfold State.postOnce; split <;> rfl
@[simp] theorem State.postOnce_paddocks (s : State) (e : Event) : (s.postOnce e).paddocks = s.paddocks := by unfold State.postOnce; split <;> rfl
@[simp] theorem State.postOnce_padrep (s : State) (e : Event) : (s.postOnce e).padrep = s.padrep := by unfold State.postOnce; split <;> rfl
@[simp] theorem State.postOnce_owners (s : State) (e : Event) : (s.postOnce e).owners = s.owners := by unfold State.postOnce; split <;> rfl
@[simp] theorem State.postOnce_digests (s : State) (e : Event) : (s.postOnce e).digests = s.digests := by unfold State.postOnce; split <;> rfl
@[simp] theorem State.postOnce_committed (s : State) (e : Event) : (s.postOnce e).committed = s.committed := by unfold State.postOnce; split <;> rfl
@[simp] theorem State.postOnce_out (s : State) (e : Event) : (s.postOnce e).out = s.out := by unfold State.postOnce; split <;> rfl
@[simp] theorem State.postOnce_cur (s : State) (e : Event) : (s.postOnce e).cur = s.cur := by unfold State.postOnce; split <;> rfl
@[simp] theorem State.postOnce_stalled (s : State) (e : Event) : (s.postOnce e).stalled = s.stalled := by unfold State.postOnce; split <;> rfl
@[simp] theorem State.postOnce_cursor (s : State) (e : Event) : (s.postOnce e).cursor = s.cursor := by unfold State.postOnce; split <;> rfl
@[simp] theorem State.postOnce_nextUid (s : State) (e : Event) : (s.postOnce e).nextUid = s.nextUid := by unfold State.postOnce; split <;> rfl
@[simp] theorem State.postOnce_ticks (s : State) (e : Event) : (s.postOnce e).ticks = s.ticks := by unfold State.postOnce; split <;> rfl
@[simp] theorem State.postOnce_cqFault (s : State) (e : Event) : (s.postOnce e).cqFault = s.cqFault := by unfold State.postOnce; split <;> rfl

/-! ## `Flock.setS` -/

@[simp] theorem Flock.setS_uid (f : Flock) (n : Nat) (v : Word64) : (f.setS n v).uid = f.uid := by unfold Flock.setS; split <;> rfl
@[simp] theorem Flock.setS_herd (f : Flock) (n : Nat) (v : Word64) : (f.setS n v).herd = f.herd := by unfold Flock.setS; split <;> rfl
@[simp] theorem Flock.setS_core (f : Flock) (n : Nat) (v : Word64) : (f.setS n v).core = f.core := by unfold Flock.setS; split <;> rfl
@[simp] theorem Flock.setS_slot (f : Flock) (n : Nat) (v : Word64) : (f.setS n v).slot = f.slot := by unfold Flock.setS; split <;> rfl
@[simp] theorem Flock.setS_datapath (f : Flock) (n : Nat) (v : Word64) : (f.setS n v).datapath = f.datapath := by unfold Flock.setS; split <;> rfl
@[simp] theorem Flock.setS_inherd (f : Flock) (n : Nat) (v : Word64) : (f.setS n v).inherd = f.inherd := by unfold Flock.setS; split <;> rfl
@[simp] theorem Flock.setS_herdid (f : Flock) (n : Nat) (v : Word64) : (f.setS n v).herdid = f.herdid := by unfold Flock.setS; split <;> rfl
@[simp] theorem Flock.setS_lanes (f : Flock) (n : Nat) (v : Word64) : (f.setS n v).lanes = f.lanes := by unfold Flock.setS; split <;> rfl
@[simp] theorem Flock.setS_regs (f : Flock) (n : Nat) (v : Word64) : (f.setS n v).regs = f.regs := by unfold Flock.setS; split <;> rfl
@[simp] theorem Flock.setS_mode (f : Flock) (n : Nat) (v : Word64) : (f.setS n v).mode = f.mode := by unfold Flock.setS; split <;> rfl
@[simp] theorem Flock.setS_sEmpty (f : Flock) (n : Nat) (v : Word64) : (f.setS n v).sEmpty = f.sEmpty := by unfold Flock.setS; split <;> rfl
@[simp] theorem Flock.setS_v (f : Flock) (n : Nat) (v : Word64) : (f.setS n v).v = f.v := by unfold Flock.setS; split <;> rfl
@[simp] theorem Flock.setS_vEmpty (f : Flock) (n : Nat) (v : Word64) : (f.setS n v).vEmpty = f.vEmpty := by unfold Flock.setS; split <;> rfl
@[simp] theorem Flock.setS_vPoison (f : Flock) (n : Nat) (v : Word64) : (f.setS n v).vPoison = f.vPoison := by unfold Flock.setS; split <;> rfl
@[simp] theorem Flock.setS_q (f : Flock) (n : Nat) (v : Word64) : (f.setS n v).q = f.q := by unfold Flock.setS; split <;> rfl
@[simp] theorem Flock.setS_z (f : Flock) (n : Nat) (v : Word64) : (f.setS n v).z = f.z := by unfold Flock.setS; split <;> rfl
@[simp] theorem Flock.setS_spc (f : Flock) (n : Nat) (v : Word64) : (f.setS n v).spc = f.spc := by unfold Flock.setS; split <;> rfl
@[simp] theorem Flock.setS_queue (f : Flock) (n : Nat) (v : Word64) : (f.setS n v).queue = f.queue := by unfold Flock.setS; split <;> rfl
@[simp] theorem Flock.setS_active (f : Flock) (n : Nat) (v : Word64) : (f.setS n v).active = f.active := by unfold Flock.setS; split <;> rfl
@[simp] theorem Flock.setS_parked (f : Flock) (n : Nat) (v : Word64) : (f.setS n v).parked = f.parked := by unfold Flock.setS; split <;> rfl
@[simp] theorem Flock.setS_killed (f : Flock) (n : Nat) (v : Word64) : (f.setS n v).killed = f.killed := by unfold Flock.setS; split <;> rfl
@[simp] theorem Flock.setS_paths (f : Flock) (n : Nat) (v : Word64) : (f.setS n v).paths = f.paths := by unfold Flock.setS; split <;> rfl
@[simp] theorem Flock.setS_entries (f : Flock) (n : Nat) (v : Word64) : (f.setS n v).entries = f.entries := by unfold Flock.setS; split <;> rfl
@[simp] theorem Flock.setS_branches (f : Flock) (n : Nat) (v : Word64) : (f.setS n v).branches = f.branches := by unfold Flock.setS; split <;> rfl
@[simp] theorem Flock.setS_nextId (f : Flock) (n : Nat) (v : Word64) : (f.setS n v).nextId = f.nextId := by unfold Flock.setS; split <;> rfl
@[simp] theorem Flock.setS_nextStream (f : Flock) (n : Nat) (v : Word64) : (f.setS n v).nextStream = f.nextStream := by unfold Flock.setS; split <;> rfl
@[simp] theorem Flock.setS_ready (f : Flock) (n : Nat) (v : Word64) : (f.setS n v).ready = f.ready := by unfold Flock.setS; split <;> rfl
@[simp] theorem Flock.setS_last (f : Flock) (n : Nat) (v : Word64) : (f.setS n v).last = f.last := by unfold Flock.setS; split <;> rfl
@[simp] theorem Flock.setS_primary (f : Flock) (n : Nat) (v : Word64) : (f.setS n v).primary = f.primary := by unfold Flock.setS; split <;> rfl
@[simp] theorem Flock.setS_second (f : Flock) (n : Nat) (v : Word64) : (f.setS n v).second = f.second := by unfold Flock.setS; split <;> rfl
@[simp] theorem Flock.setS_fpmode (f : Flock) (n : Nat) (v : Word64) : (f.setS n v).fpmode = f.fpmode := by unfold Flock.setS; split <;> rfl
@[simp] theorem Flock.setS_flags (f : Flock) (n : Nat) (v : Word64) : (f.setS n v).flags = f.flags := by unfold Flock.setS; split <;> rfl
@[simp] theorem Flock.setS_tcause (f : Flock) (n : Nat) (v : Word64) : (f.setS n v).tcause = f.tcause := by unfold Flock.setS; split <;> rfl
@[simp] theorem Flock.setS_tpc (f : Flock) (n : Nat) (v : Word64) : (f.setS n v).tpc = f.tpc := by unfold Flock.setS; split <;> rfl
@[simp] theorem Flock.setS_taddr (f : Flock) (n : Nat) (v : Word64) : (f.setS n v).taddr = f.taddr := by unfold Flock.setS; split <;> rfl
@[simp] theorem Flock.setS_tinfo (f : Flock) (n : Nat) (v : Word64) : (f.setS n v).tinfo = f.tinfo := by unfold Flock.setS; split <;> rfl
@[simp] theorem Flock.setS_tvec (f : Flock) (n : Nat) (v : Word64) : (f.setS n v).tvec = f.tvec := by unfold Flock.setS; split <;> rfl
@[simp] theorem Flock.setS_tret (f : Flock) (n : Nat) (v : Word64) : (f.setS n v).tret = f.tret := by unfold Flock.setS; split <;> rfl
@[simp] theorem Flock.setS_tscr0 (f : Flock) (n : Nat) (v : Word64) : (f.setS n v).tscr0 = f.tscr0 := by unfold Flock.setS; split <;> rfl
@[simp] theorem Flock.setS_tscr1 (f : Flock) (n : Nat) (v : Word64) : (f.setS n v).tscr1 = f.tscr1 := by unfold Flock.setS; split <;> rfl
@[simp] theorem Flock.setS_ops (f : Flock) (n : Nat) (v : Word64) : (f.setS n v).ops = f.ops := by unfold Flock.setS; split <;> rfl
@[simp] theorem Flock.setS_bar (f : Flock) (n : Nat) (v : Word64) : (f.setS n v).bar = f.bar := by unfold Flock.setS; split <;> rfl
@[simp] theorem Flock.setS_point (f : Flock) (n : Nat) (v : Word64) : (f.setS n v).point = f.point := by unfold Flock.setS; split <;> rfl
@[simp] theorem Flock.setS_site (f : Flock) (n : Nat) (v : Word64) : (f.setS n v).site = f.site := by unfold Flock.setS; split <;> rfl
@[simp] theorem Flock.setS_claims (f : Flock) (n : Nat) (v : Word64) : (f.setS n v).claims = f.claims := by unfold Flock.setS; split <;> rfl
@[simp] theorem Flock.setS_haltSpc (f : Flock) (n : Nat) (v : Word64) : (f.setS n v).haltSpc = f.haltSpc := by unfold Flock.setS; split <;> rfl
@[simp] theorem Flock.setS_block1 (f : Flock) (n : Nat) (v : Word64) : (f.setS n v).block1 = f.block1 := by unfold Flock.setS; split <;> rfl
@[simp] theorem Flock.setS_call (f : Flock) (n : Nat) (v : Word64) : (f.setS n v).call = f.call := by unfold Flock.setS; split <;> rfl
@[simp] theorem Flock.setS_kflock (f : Flock) (n : Nat) (v : Word64) : (f.setS n v).kflock = f.kflock := by unfold Flock.setS; split <;> rfl
@[simp] theorem Flock.setS_orderedAfter (f : Flock) (n : Nat) (v : Word64) : (f.setS n v).orderedAfter = f.orderedAfter := by unfold Flock.setS; split <;> rfl
@[simp] theorem Flock.setS_sentAfter (f : Flock) (n : Nat) (v : Word64) : (f.setS n v).sentAfter = f.sentAfter := by unfold Flock.setS; split <;> rfl
@[simp] theorem Flock.setS_poisonAddr (f : Flock) (n : Nat) (v : Word64) : (f.setS n v).poisonAddr = f.poisonAddr := by unfold Flock.setS; split <;> rfl
@[simp] theorem Flock.setS_poisonKind (f : Flock) (n : Nat) (v : Word64) : (f.setS n v).poisonKind = f.poisonKind := by unfold Flock.setS; split <;> rfl
@[simp] theorem Flock.setS_sBorn (f : Flock) (n : Nat) (v : Word64) : (f.setS n v).sBorn = f.sBorn := by unfold Flock.setS; split <;> rfl
@[simp] theorem Flock.setS_vBorn (f : Flock) (n : Nat) (v : Word64) : (f.setS n v).vBorn = f.vBorn := by unfold Flock.setS; split <;> rfl
@[simp] theorem Flock.setS_recipe (f : Flock) (n : Nat) (v : Word64) : (f.setS n v).recipe = f.recipe := by unfold Flock.setS; split <;> rfl

/-! ## `Flock.setV` -/

@[simp] theorem Flock.setV_uid (f : Flock) (r l : Nat) (v : Word32) : (f.setV r l v).uid = f.uid := rfl
@[simp] theorem Flock.setV_herd (f : Flock) (r l : Nat) (v : Word32) : (f.setV r l v).herd = f.herd := rfl
@[simp] theorem Flock.setV_core (f : Flock) (r l : Nat) (v : Word32) : (f.setV r l v).core = f.core := rfl
@[simp] theorem Flock.setV_slot (f : Flock) (r l : Nat) (v : Word32) : (f.setV r l v).slot = f.slot := rfl
@[simp] theorem Flock.setV_datapath (f : Flock) (r l : Nat) (v : Word32) : (f.setV r l v).datapath = f.datapath := rfl
@[simp] theorem Flock.setV_inherd (f : Flock) (r l : Nat) (v : Word32) : (f.setV r l v).inherd = f.inherd := rfl
@[simp] theorem Flock.setV_herdid (f : Flock) (r l : Nat) (v : Word32) : (f.setV r l v).herdid = f.herdid := rfl
@[simp] theorem Flock.setV_lanes (f : Flock) (r l : Nat) (v : Word32) : (f.setV r l v).lanes = f.lanes := rfl
@[simp] theorem Flock.setV_regs (f : Flock) (r l : Nat) (v : Word32) : (f.setV r l v).regs = f.regs := rfl
@[simp] theorem Flock.setV_mode (f : Flock) (r l : Nat) (v : Word32) : (f.setV r l v).mode = f.mode := rfl
@[simp] theorem Flock.setV_s (f : Flock) (r l : Nat) (v : Word32) : (f.setV r l v).s = f.s := rfl
@[simp] theorem Flock.setV_sEmpty (f : Flock) (r l : Nat) (v : Word32) : (f.setV r l v).sEmpty = f.sEmpty := rfl
@[simp] theorem Flock.setV_sPoison (f : Flock) (r l : Nat) (v : Word32) : (f.setV r l v).sPoison = f.sPoison := rfl
@[simp] theorem Flock.setV_vEmpty (f : Flock) (r l : Nat) (v : Word32) : (f.setV r l v).vEmpty = f.vEmpty := rfl
@[simp] theorem Flock.setV_q (f : Flock) (r l : Nat) (v : Word32) : (f.setV r l v).q = f.q := rfl
@[simp] theorem Flock.setV_z (f : Flock) (r l : Nat) (v : Word32) : (f.setV r l v).z = f.z := rfl
@[simp] theorem Flock.setV_spc (f : Flock) (r l : Nat) (v : Word32) : (f.setV r l v).spc = f.spc := rfl
@[simp] theorem Flock.setV_queue (f : Flock) (r l : Nat) (v : Word32) : (f.setV r l v).queue = f.queue := rfl
@[simp] theorem Flock.setV_active (f : Flock) (r l : Nat) (v : Word32) : (f.setV r l v).active = f.active := rfl
@[simp] theorem Flock.setV_parked (f : Flock) (r l : Nat) (v : Word32) : (f.setV r l v).parked = f.parked := rfl
@[simp] theorem Flock.setV_killed (f : Flock) (r l : Nat) (v : Word32) : (f.setV r l v).killed = f.killed := rfl
@[simp] theorem Flock.setV_paths (f : Flock) (r l : Nat) (v : Word32) : (f.setV r l v).paths = f.paths := rfl
@[simp] theorem Flock.setV_entries (f : Flock) (r l : Nat) (v : Word32) : (f.setV r l v).entries = f.entries := rfl
@[simp] theorem Flock.setV_branches (f : Flock) (r l : Nat) (v : Word32) : (f.setV r l v).branches = f.branches := rfl
@[simp] theorem Flock.setV_nextId (f : Flock) (r l : Nat) (v : Word32) : (f.setV r l v).nextId = f.nextId := rfl
@[simp] theorem Flock.setV_nextStream (f : Flock) (r l : Nat) (v : Word32) : (f.setV r l v).nextStream = f.nextStream := rfl
@[simp] theorem Flock.setV_ready (f : Flock) (r l : Nat) (v : Word32) : (f.setV r l v).ready = f.ready := rfl
@[simp] theorem Flock.setV_last (f : Flock) (r l : Nat) (v : Word32) : (f.setV r l v).last = f.last := rfl
@[simp] theorem Flock.setV_primary (f : Flock) (r l : Nat) (v : Word32) : (f.setV r l v).primary = f.primary := rfl
@[simp] theorem Flock.setV_second (f : Flock) (r l : Nat) (v : Word32) : (f.setV r l v).second = f.second := rfl
@[simp] theorem Flock.setV_fpmode (f : Flock) (r l : Nat) (v : Word32) : (f.setV r l v).fpmode = f.fpmode := rfl
@[simp] theorem Flock.setV_flags (f : Flock) (r l : Nat) (v : Word32) : (f.setV r l v).flags = f.flags := rfl
@[simp] theorem Flock.setV_tcause (f : Flock) (r l : Nat) (v : Word32) : (f.setV r l v).tcause = f.tcause := rfl
@[simp] theorem Flock.setV_tpc (f : Flock) (r l : Nat) (v : Word32) : (f.setV r l v).tpc = f.tpc := rfl
@[simp] theorem Flock.setV_taddr (f : Flock) (r l : Nat) (v : Word32) : (f.setV r l v).taddr = f.taddr := rfl
@[simp] theorem Flock.setV_tinfo (f : Flock) (r l : Nat) (v : Word32) : (f.setV r l v).tinfo = f.tinfo := rfl
@[simp] theorem Flock.setV_tvec (f : Flock) (r l : Nat) (v : Word32) : (f.setV r l v).tvec = f.tvec := rfl
@[simp] theorem Flock.setV_tret (f : Flock) (r l : Nat) (v : Word32) : (f.setV r l v).tret = f.tret := rfl
@[simp] theorem Flock.setV_tscr0 (f : Flock) (r l : Nat) (v : Word32) : (f.setV r l v).tscr0 = f.tscr0 := rfl
@[simp] theorem Flock.setV_tscr1 (f : Flock) (r l : Nat) (v : Word32) : (f.setV r l v).tscr1 = f.tscr1 := rfl
@[simp] theorem Flock.setV_ops (f : Flock) (r l : Nat) (v : Word32) : (f.setV r l v).ops = f.ops := rfl
@[simp] theorem Flock.setV_bar (f : Flock) (r l : Nat) (v : Word32) : (f.setV r l v).bar = f.bar := rfl
@[simp] theorem Flock.setV_point (f : Flock) (r l : Nat) (v : Word32) : (f.setV r l v).point = f.point := rfl
@[simp] theorem Flock.setV_site (f : Flock) (r l : Nat) (v : Word32) : (f.setV r l v).site = f.site := rfl
@[simp] theorem Flock.setV_claims (f : Flock) (r l : Nat) (v : Word32) : (f.setV r l v).claims = f.claims := rfl
@[simp] theorem Flock.setV_haltSpc (f : Flock) (r l : Nat) (v : Word32) : (f.setV r l v).haltSpc = f.haltSpc := rfl
@[simp] theorem Flock.setV_block1 (f : Flock) (r l : Nat) (v : Word32) : (f.setV r l v).block1 = f.block1 := rfl
@[simp] theorem Flock.setV_call (f : Flock) (r l : Nat) (v : Word32) : (f.setV r l v).call = f.call := rfl
@[simp] theorem Flock.setV_kflock (f : Flock) (r l : Nat) (v : Word32) : (f.setV r l v).kflock = f.kflock := rfl
@[simp] theorem Flock.setV_orderedAfter (f : Flock) (r l : Nat) (v : Word32) : (f.setV r l v).orderedAfter = f.orderedAfter := rfl
@[simp] theorem Flock.setV_sentAfter (f : Flock) (r l : Nat) (v : Word32) : (f.setV r l v).sentAfter = f.sentAfter := rfl
@[simp] theorem Flock.setV_poisonAddr (f : Flock) (r l : Nat) (v : Word32) : (f.setV r l v).poisonAddr = f.poisonAddr := rfl
@[simp] theorem Flock.setV_poisonKind (f : Flock) (r l : Nat) (v : Word32) : (f.setV r l v).poisonKind = f.poisonKind := rfl
@[simp] theorem Flock.setV_sBorn (f : Flock) (r l : Nat) (v : Word32) : (f.setV r l v).sBorn = f.sBorn := rfl
@[simp] theorem Flock.setV_vBorn (f : Flock) (r l : Nat) (v : Word32) : (f.setV r l v).vBorn = f.vBorn := rfl
@[simp] theorem Flock.setV_recipe (f : Flock) (r l : Nat) (v : Word32) : (f.setV r l v).recipe = f.recipe := rfl

/-! ## `Flock.setVpair` -/

@[simp] theorem Flock.setVpair_uid (f : Flock) (r l : Nat) (v : Word64) : (f.setVpair r l v).uid = f.uid := rfl
@[simp] theorem Flock.setVpair_herd (f : Flock) (r l : Nat) (v : Word64) : (f.setVpair r l v).herd = f.herd := rfl
@[simp] theorem Flock.setVpair_core (f : Flock) (r l : Nat) (v : Word64) : (f.setVpair r l v).core = f.core := rfl
@[simp] theorem Flock.setVpair_slot (f : Flock) (r l : Nat) (v : Word64) : (f.setVpair r l v).slot = f.slot := rfl
@[simp] theorem Flock.setVpair_datapath (f : Flock) (r l : Nat) (v : Word64) : (f.setVpair r l v).datapath = f.datapath := rfl
@[simp] theorem Flock.setVpair_inherd (f : Flock) (r l : Nat) (v : Word64) : (f.setVpair r l v).inherd = f.inherd := rfl
@[simp] theorem Flock.setVpair_herdid (f : Flock) (r l : Nat) (v : Word64) : (f.setVpair r l v).herdid = f.herdid := rfl
@[simp] theorem Flock.setVpair_lanes (f : Flock) (r l : Nat) (v : Word64) : (f.setVpair r l v).lanes = f.lanes := rfl
@[simp] theorem Flock.setVpair_regs (f : Flock) (r l : Nat) (v : Word64) : (f.setVpair r l v).regs = f.regs := rfl
@[simp] theorem Flock.setVpair_mode (f : Flock) (r l : Nat) (v : Word64) : (f.setVpair r l v).mode = f.mode := rfl
@[simp] theorem Flock.setVpair_s (f : Flock) (r l : Nat) (v : Word64) : (f.setVpair r l v).s = f.s := rfl
@[simp] theorem Flock.setVpair_sEmpty (f : Flock) (r l : Nat) (v : Word64) : (f.setVpair r l v).sEmpty = f.sEmpty := rfl
@[simp] theorem Flock.setVpair_sPoison (f : Flock) (r l : Nat) (v : Word64) : (f.setVpair r l v).sPoison = f.sPoison := rfl
@[simp] theorem Flock.setVpair_vEmpty (f : Flock) (r l : Nat) (v : Word64) : (f.setVpair r l v).vEmpty = f.vEmpty := rfl
@[simp] theorem Flock.setVpair_q (f : Flock) (r l : Nat) (v : Word64) : (f.setVpair r l v).q = f.q := rfl
@[simp] theorem Flock.setVpair_z (f : Flock) (r l : Nat) (v : Word64) : (f.setVpair r l v).z = f.z := rfl
@[simp] theorem Flock.setVpair_spc (f : Flock) (r l : Nat) (v : Word64) : (f.setVpair r l v).spc = f.spc := rfl
@[simp] theorem Flock.setVpair_queue (f : Flock) (r l : Nat) (v : Word64) : (f.setVpair r l v).queue = f.queue := rfl
@[simp] theorem Flock.setVpair_active (f : Flock) (r l : Nat) (v : Word64) : (f.setVpair r l v).active = f.active := rfl
@[simp] theorem Flock.setVpair_parked (f : Flock) (r l : Nat) (v : Word64) : (f.setVpair r l v).parked = f.parked := rfl
@[simp] theorem Flock.setVpair_killed (f : Flock) (r l : Nat) (v : Word64) : (f.setVpair r l v).killed = f.killed := rfl
@[simp] theorem Flock.setVpair_paths (f : Flock) (r l : Nat) (v : Word64) : (f.setVpair r l v).paths = f.paths := rfl
@[simp] theorem Flock.setVpair_entries (f : Flock) (r l : Nat) (v : Word64) : (f.setVpair r l v).entries = f.entries := rfl
@[simp] theorem Flock.setVpair_branches (f : Flock) (r l : Nat) (v : Word64) : (f.setVpair r l v).branches = f.branches := rfl
@[simp] theorem Flock.setVpair_nextId (f : Flock) (r l : Nat) (v : Word64) : (f.setVpair r l v).nextId = f.nextId := rfl
@[simp] theorem Flock.setVpair_nextStream (f : Flock) (r l : Nat) (v : Word64) : (f.setVpair r l v).nextStream = f.nextStream := rfl
@[simp] theorem Flock.setVpair_ready (f : Flock) (r l : Nat) (v : Word64) : (f.setVpair r l v).ready = f.ready := rfl
@[simp] theorem Flock.setVpair_last (f : Flock) (r l : Nat) (v : Word64) : (f.setVpair r l v).last = f.last := rfl
@[simp] theorem Flock.setVpair_primary (f : Flock) (r l : Nat) (v : Word64) : (f.setVpair r l v).primary = f.primary := rfl
@[simp] theorem Flock.setVpair_second (f : Flock) (r l : Nat) (v : Word64) : (f.setVpair r l v).second = f.second := rfl
@[simp] theorem Flock.setVpair_fpmode (f : Flock) (r l : Nat) (v : Word64) : (f.setVpair r l v).fpmode = f.fpmode := rfl
@[simp] theorem Flock.setVpair_flags (f : Flock) (r l : Nat) (v : Word64) : (f.setVpair r l v).flags = f.flags := rfl
@[simp] theorem Flock.setVpair_tcause (f : Flock) (r l : Nat) (v : Word64) : (f.setVpair r l v).tcause = f.tcause := rfl
@[simp] theorem Flock.setVpair_tpc (f : Flock) (r l : Nat) (v : Word64) : (f.setVpair r l v).tpc = f.tpc := rfl
@[simp] theorem Flock.setVpair_taddr (f : Flock) (r l : Nat) (v : Word64) : (f.setVpair r l v).taddr = f.taddr := rfl
@[simp] theorem Flock.setVpair_tinfo (f : Flock) (r l : Nat) (v : Word64) : (f.setVpair r l v).tinfo = f.tinfo := rfl
@[simp] theorem Flock.setVpair_tvec (f : Flock) (r l : Nat) (v : Word64) : (f.setVpair r l v).tvec = f.tvec := rfl
@[simp] theorem Flock.setVpair_tret (f : Flock) (r l : Nat) (v : Word64) : (f.setVpair r l v).tret = f.tret := rfl
@[simp] theorem Flock.setVpair_tscr0 (f : Flock) (r l : Nat) (v : Word64) : (f.setVpair r l v).tscr0 = f.tscr0 := rfl
@[simp] theorem Flock.setVpair_tscr1 (f : Flock) (r l : Nat) (v : Word64) : (f.setVpair r l v).tscr1 = f.tscr1 := rfl
@[simp] theorem Flock.setVpair_ops (f : Flock) (r l : Nat) (v : Word64) : (f.setVpair r l v).ops = f.ops := rfl
@[simp] theorem Flock.setVpair_bar (f : Flock) (r l : Nat) (v : Word64) : (f.setVpair r l v).bar = f.bar := rfl
@[simp] theorem Flock.setVpair_point (f : Flock) (r l : Nat) (v : Word64) : (f.setVpair r l v).point = f.point := rfl
@[simp] theorem Flock.setVpair_site (f : Flock) (r l : Nat) (v : Word64) : (f.setVpair r l v).site = f.site := rfl
@[simp] theorem Flock.setVpair_claims (f : Flock) (r l : Nat) (v : Word64) : (f.setVpair r l v).claims = f.claims := rfl
@[simp] theorem Flock.setVpair_haltSpc (f : Flock) (r l : Nat) (v : Word64) : (f.setVpair r l v).haltSpc = f.haltSpc := rfl
@[simp] theorem Flock.setVpair_block1 (f : Flock) (r l : Nat) (v : Word64) : (f.setVpair r l v).block1 = f.block1 := rfl
@[simp] theorem Flock.setVpair_call (f : Flock) (r l : Nat) (v : Word64) : (f.setVpair r l v).call = f.call := rfl
@[simp] theorem Flock.setVpair_kflock (f : Flock) (r l : Nat) (v : Word64) : (f.setVpair r l v).kflock = f.kflock := rfl
@[simp] theorem Flock.setVpair_orderedAfter (f : Flock) (r l : Nat) (v : Word64) : (f.setVpair r l v).orderedAfter = f.orderedAfter := rfl
@[simp] theorem Flock.setVpair_sentAfter (f : Flock) (r l : Nat) (v : Word64) : (f.setVpair r l v).sentAfter = f.sentAfter := rfl
@[simp] theorem Flock.setVpair_poisonAddr (f : Flock) (r l : Nat) (v : Word64) : (f.setVpair r l v).poisonAddr = f.poisonAddr := rfl
@[simp] theorem Flock.setVpair_poisonKind (f : Flock) (r l : Nat) (v : Word64) : (f.setVpair r l v).poisonKind = f.poisonKind := rfl
@[simp] theorem Flock.setVpair_sBorn (f : Flock) (r l : Nat) (v : Word64) : (f.setVpair r l v).sBorn = f.sBorn := rfl
@[simp] theorem Flock.setVpair_vBorn (f : Flock) (r l : Nat) (v : Word64) : (f.setVpair r l v).vBorn = f.vBorn := rfl
@[simp] theorem Flock.setVpair_recipe (f : Flock) (r l : Nat) (v : Word64) : (f.setVpair r l v).recipe = f.recipe := rfl

/-! ## `Flock.setQ` -/

@[simp] theorem Flock.setQ_uid (f : Flock) (n : Nat) (on v : LaneMask) : (f.setQ n on v).uid = f.uid := by unfold Flock.setQ; split <;> rfl
@[simp] theorem Flock.setQ_herd (f : Flock) (n : Nat) (on v : LaneMask) : (f.setQ n on v).herd = f.herd := by unfold Flock.setQ; split <;> rfl
@[simp] theorem Flock.setQ_core (f : Flock) (n : Nat) (on v : LaneMask) : (f.setQ n on v).core = f.core := by unfold Flock.setQ; split <;> rfl
@[simp] theorem Flock.setQ_slot (f : Flock) (n : Nat) (on v : LaneMask) : (f.setQ n on v).slot = f.slot := by unfold Flock.setQ; split <;> rfl
@[simp] theorem Flock.setQ_datapath (f : Flock) (n : Nat) (on v : LaneMask) : (f.setQ n on v).datapath = f.datapath := by unfold Flock.setQ; split <;> rfl
@[simp] theorem Flock.setQ_inherd (f : Flock) (n : Nat) (on v : LaneMask) : (f.setQ n on v).inherd = f.inherd := by unfold Flock.setQ; split <;> rfl
@[simp] theorem Flock.setQ_herdid (f : Flock) (n : Nat) (on v : LaneMask) : (f.setQ n on v).herdid = f.herdid := by unfold Flock.setQ; split <;> rfl
@[simp] theorem Flock.setQ_lanes (f : Flock) (n : Nat) (on v : LaneMask) : (f.setQ n on v).lanes = f.lanes := by unfold Flock.setQ; split <;> rfl
@[simp] theorem Flock.setQ_regs (f : Flock) (n : Nat) (on v : LaneMask) : (f.setQ n on v).regs = f.regs := by unfold Flock.setQ; split <;> rfl
@[simp] theorem Flock.setQ_mode (f : Flock) (n : Nat) (on v : LaneMask) : (f.setQ n on v).mode = f.mode := by unfold Flock.setQ; split <;> rfl
@[simp] theorem Flock.setQ_s (f : Flock) (n : Nat) (on v : LaneMask) : (f.setQ n on v).s = f.s := by unfold Flock.setQ; split <;> rfl
@[simp] theorem Flock.setQ_sEmpty (f : Flock) (n : Nat) (on v : LaneMask) : (f.setQ n on v).sEmpty = f.sEmpty := by unfold Flock.setQ; split <;> rfl
@[simp] theorem Flock.setQ_sPoison (f : Flock) (n : Nat) (on v : LaneMask) : (f.setQ n on v).sPoison = f.sPoison := by unfold Flock.setQ; split <;> rfl
@[simp] theorem Flock.setQ_v (f : Flock) (n : Nat) (on v : LaneMask) : (f.setQ n on v).v = f.v := by unfold Flock.setQ; split <;> rfl
@[simp] theorem Flock.setQ_vEmpty (f : Flock) (n : Nat) (on v : LaneMask) : (f.setQ n on v).vEmpty = f.vEmpty := by unfold Flock.setQ; split <;> rfl
@[simp] theorem Flock.setQ_vPoison (f : Flock) (n : Nat) (on v : LaneMask) : (f.setQ n on v).vPoison = f.vPoison := by unfold Flock.setQ; split <;> rfl
@[simp] theorem Flock.setQ_z (f : Flock) (n : Nat) (on v : LaneMask) : (f.setQ n on v).z = f.z := by unfold Flock.setQ; split <;> rfl
@[simp] theorem Flock.setQ_spc (f : Flock) (n : Nat) (on v : LaneMask) : (f.setQ n on v).spc = f.spc := by unfold Flock.setQ; split <;> rfl
@[simp] theorem Flock.setQ_queue (f : Flock) (n : Nat) (on v : LaneMask) : (f.setQ n on v).queue = f.queue := by unfold Flock.setQ; split <;> rfl
@[simp] theorem Flock.setQ_active (f : Flock) (n : Nat) (on v : LaneMask) : (f.setQ n on v).active = f.active := by unfold Flock.setQ; split <;> rfl
@[simp] theorem Flock.setQ_parked (f : Flock) (n : Nat) (on v : LaneMask) : (f.setQ n on v).parked = f.parked := by unfold Flock.setQ; split <;> rfl
@[simp] theorem Flock.setQ_killed (f : Flock) (n : Nat) (on v : LaneMask) : (f.setQ n on v).killed = f.killed := by unfold Flock.setQ; split <;> rfl
@[simp] theorem Flock.setQ_paths (f : Flock) (n : Nat) (on v : LaneMask) : (f.setQ n on v).paths = f.paths := by unfold Flock.setQ; split <;> rfl
@[simp] theorem Flock.setQ_entries (f : Flock) (n : Nat) (on v : LaneMask) : (f.setQ n on v).entries = f.entries := by unfold Flock.setQ; split <;> rfl
@[simp] theorem Flock.setQ_branches (f : Flock) (n : Nat) (on v : LaneMask) : (f.setQ n on v).branches = f.branches := by unfold Flock.setQ; split <;> rfl
@[simp] theorem Flock.setQ_nextId (f : Flock) (n : Nat) (on v : LaneMask) : (f.setQ n on v).nextId = f.nextId := by unfold Flock.setQ; split <;> rfl
@[simp] theorem Flock.setQ_nextStream (f : Flock) (n : Nat) (on v : LaneMask) : (f.setQ n on v).nextStream = f.nextStream := by unfold Flock.setQ; split <;> rfl
@[simp] theorem Flock.setQ_ready (f : Flock) (n : Nat) (on v : LaneMask) : (f.setQ n on v).ready = f.ready := by unfold Flock.setQ; split <;> rfl
@[simp] theorem Flock.setQ_last (f : Flock) (n : Nat) (on v : LaneMask) : (f.setQ n on v).last = f.last := by unfold Flock.setQ; split <;> rfl
@[simp] theorem Flock.setQ_primary (f : Flock) (n : Nat) (on v : LaneMask) : (f.setQ n on v).primary = f.primary := by unfold Flock.setQ; split <;> rfl
@[simp] theorem Flock.setQ_second (f : Flock) (n : Nat) (on v : LaneMask) : (f.setQ n on v).second = f.second := by unfold Flock.setQ; split <;> rfl
@[simp] theorem Flock.setQ_fpmode (f : Flock) (n : Nat) (on v : LaneMask) : (f.setQ n on v).fpmode = f.fpmode := by unfold Flock.setQ; split <;> rfl
@[simp] theorem Flock.setQ_flags (f : Flock) (n : Nat) (on v : LaneMask) : (f.setQ n on v).flags = f.flags := by unfold Flock.setQ; split <;> rfl
@[simp] theorem Flock.setQ_tcause (f : Flock) (n : Nat) (on v : LaneMask) : (f.setQ n on v).tcause = f.tcause := by unfold Flock.setQ; split <;> rfl
@[simp] theorem Flock.setQ_tpc (f : Flock) (n : Nat) (on v : LaneMask) : (f.setQ n on v).tpc = f.tpc := by unfold Flock.setQ; split <;> rfl
@[simp] theorem Flock.setQ_taddr (f : Flock) (n : Nat) (on v : LaneMask) : (f.setQ n on v).taddr = f.taddr := by unfold Flock.setQ; split <;> rfl
@[simp] theorem Flock.setQ_tinfo (f : Flock) (n : Nat) (on v : LaneMask) : (f.setQ n on v).tinfo = f.tinfo := by unfold Flock.setQ; split <;> rfl
@[simp] theorem Flock.setQ_tvec (f : Flock) (n : Nat) (on v : LaneMask) : (f.setQ n on v).tvec = f.tvec := by unfold Flock.setQ; split <;> rfl
@[simp] theorem Flock.setQ_tret (f : Flock) (n : Nat) (on v : LaneMask) : (f.setQ n on v).tret = f.tret := by unfold Flock.setQ; split <;> rfl
@[simp] theorem Flock.setQ_tscr0 (f : Flock) (n : Nat) (on v : LaneMask) : (f.setQ n on v).tscr0 = f.tscr0 := by unfold Flock.setQ; split <;> rfl
@[simp] theorem Flock.setQ_tscr1 (f : Flock) (n : Nat) (on v : LaneMask) : (f.setQ n on v).tscr1 = f.tscr1 := by unfold Flock.setQ; split <;> rfl
@[simp] theorem Flock.setQ_ops (f : Flock) (n : Nat) (on v : LaneMask) : (f.setQ n on v).ops = f.ops := by unfold Flock.setQ; split <;> rfl
@[simp] theorem Flock.setQ_bar (f : Flock) (n : Nat) (on v : LaneMask) : (f.setQ n on v).bar = f.bar := by unfold Flock.setQ; split <;> rfl
@[simp] theorem Flock.setQ_point (f : Flock) (n : Nat) (on v : LaneMask) : (f.setQ n on v).point = f.point := by unfold Flock.setQ; split <;> rfl
@[simp] theorem Flock.setQ_site (f : Flock) (n : Nat) (on v : LaneMask) : (f.setQ n on v).site = f.site := by unfold Flock.setQ; split <;> rfl
@[simp] theorem Flock.setQ_claims (f : Flock) (n : Nat) (on v : LaneMask) : (f.setQ n on v).claims = f.claims := by unfold Flock.setQ; split <;> rfl
@[simp] theorem Flock.setQ_haltSpc (f : Flock) (n : Nat) (on v : LaneMask) : (f.setQ n on v).haltSpc = f.haltSpc := by unfold Flock.setQ; split <;> rfl
@[simp] theorem Flock.setQ_block1 (f : Flock) (n : Nat) (on v : LaneMask) : (f.setQ n on v).block1 = f.block1 := by unfold Flock.setQ; split <;> rfl
@[simp] theorem Flock.setQ_call (f : Flock) (n : Nat) (on v : LaneMask) : (f.setQ n on v).call = f.call := by unfold Flock.setQ; split <;> rfl
@[simp] theorem Flock.setQ_kflock (f : Flock) (n : Nat) (on v : LaneMask) : (f.setQ n on v).kflock = f.kflock := by unfold Flock.setQ; split <;> rfl
@[simp] theorem Flock.setQ_orderedAfter (f : Flock) (n : Nat) (on v : LaneMask) : (f.setQ n on v).orderedAfter = f.orderedAfter := by unfold Flock.setQ; split <;> rfl
@[simp] theorem Flock.setQ_sentAfter (f : Flock) (n : Nat) (on v : LaneMask) : (f.setQ n on v).sentAfter = f.sentAfter := by unfold Flock.setQ; split <;> rfl
@[simp] theorem Flock.setQ_poisonAddr (f : Flock) (n : Nat) (on v : LaneMask) : (f.setQ n on v).poisonAddr = f.poisonAddr := by unfold Flock.setQ; split <;> rfl
@[simp] theorem Flock.setQ_poisonKind (f : Flock) (n : Nat) (on v : LaneMask) : (f.setQ n on v).poisonKind = f.poisonKind := by unfold Flock.setQ; split <;> rfl
@[simp] theorem Flock.setQ_sBorn (f : Flock) (n : Nat) (on v : LaneMask) : (f.setQ n on v).sBorn = f.sBorn := by unfold Flock.setQ; split <;> rfl
@[simp] theorem Flock.setQ_vBorn (f : Flock) (n : Nat) (on v : LaneMask) : (f.setQ n on v).vBorn = f.vBorn := by unfold Flock.setQ; split <;> rfl
@[simp] theorem Flock.setQ_recipe (f : Flock) (n : Nat) (on v : LaneMask) : (f.setQ n on v).recipe = f.recipe := by unfold Flock.setQ; split <;> rfl

/-! ## `Flock.setZ` -/

@[simp] theorem Flock.setZ_uid (f : Flock) (n : Nat) (v : Bool) : (f.setZ n v).uid = f.uid := by unfold Flock.setZ; split <;> rfl
@[simp] theorem Flock.setZ_herd (f : Flock) (n : Nat) (v : Bool) : (f.setZ n v).herd = f.herd := by unfold Flock.setZ; split <;> rfl
@[simp] theorem Flock.setZ_core (f : Flock) (n : Nat) (v : Bool) : (f.setZ n v).core = f.core := by unfold Flock.setZ; split <;> rfl
@[simp] theorem Flock.setZ_slot (f : Flock) (n : Nat) (v : Bool) : (f.setZ n v).slot = f.slot := by unfold Flock.setZ; split <;> rfl
@[simp] theorem Flock.setZ_datapath (f : Flock) (n : Nat) (v : Bool) : (f.setZ n v).datapath = f.datapath := by unfold Flock.setZ; split <;> rfl
@[simp] theorem Flock.setZ_inherd (f : Flock) (n : Nat) (v : Bool) : (f.setZ n v).inherd = f.inherd := by unfold Flock.setZ; split <;> rfl
@[simp] theorem Flock.setZ_herdid (f : Flock) (n : Nat) (v : Bool) : (f.setZ n v).herdid = f.herdid := by unfold Flock.setZ; split <;> rfl
@[simp] theorem Flock.setZ_lanes (f : Flock) (n : Nat) (v : Bool) : (f.setZ n v).lanes = f.lanes := by unfold Flock.setZ; split <;> rfl
@[simp] theorem Flock.setZ_regs (f : Flock) (n : Nat) (v : Bool) : (f.setZ n v).regs = f.regs := by unfold Flock.setZ; split <;> rfl
@[simp] theorem Flock.setZ_mode (f : Flock) (n : Nat) (v : Bool) : (f.setZ n v).mode = f.mode := by unfold Flock.setZ; split <;> rfl
@[simp] theorem Flock.setZ_s (f : Flock) (n : Nat) (v : Bool) : (f.setZ n v).s = f.s := by unfold Flock.setZ; split <;> rfl
@[simp] theorem Flock.setZ_sEmpty (f : Flock) (n : Nat) (v : Bool) : (f.setZ n v).sEmpty = f.sEmpty := by unfold Flock.setZ; split <;> rfl
@[simp] theorem Flock.setZ_sPoison (f : Flock) (n : Nat) (v : Bool) : (f.setZ n v).sPoison = f.sPoison := by unfold Flock.setZ; split <;> rfl
@[simp] theorem Flock.setZ_v (f : Flock) (n : Nat) (v : Bool) : (f.setZ n v).v = f.v := by unfold Flock.setZ; split <;> rfl
@[simp] theorem Flock.setZ_vEmpty (f : Flock) (n : Nat) (v : Bool) : (f.setZ n v).vEmpty = f.vEmpty := by unfold Flock.setZ; split <;> rfl
@[simp] theorem Flock.setZ_vPoison (f : Flock) (n : Nat) (v : Bool) : (f.setZ n v).vPoison = f.vPoison := by unfold Flock.setZ; split <;> rfl
@[simp] theorem Flock.setZ_q (f : Flock) (n : Nat) (v : Bool) : (f.setZ n v).q = f.q := by unfold Flock.setZ; split <;> rfl
@[simp] theorem Flock.setZ_spc (f : Flock) (n : Nat) (v : Bool) : (f.setZ n v).spc = f.spc := by unfold Flock.setZ; split <;> rfl
@[simp] theorem Flock.setZ_queue (f : Flock) (n : Nat) (v : Bool) : (f.setZ n v).queue = f.queue := by unfold Flock.setZ; split <;> rfl
@[simp] theorem Flock.setZ_active (f : Flock) (n : Nat) (v : Bool) : (f.setZ n v).active = f.active := by unfold Flock.setZ; split <;> rfl
@[simp] theorem Flock.setZ_parked (f : Flock) (n : Nat) (v : Bool) : (f.setZ n v).parked = f.parked := by unfold Flock.setZ; split <;> rfl
@[simp] theorem Flock.setZ_killed (f : Flock) (n : Nat) (v : Bool) : (f.setZ n v).killed = f.killed := by unfold Flock.setZ; split <;> rfl
@[simp] theorem Flock.setZ_paths (f : Flock) (n : Nat) (v : Bool) : (f.setZ n v).paths = f.paths := by unfold Flock.setZ; split <;> rfl
@[simp] theorem Flock.setZ_entries (f : Flock) (n : Nat) (v : Bool) : (f.setZ n v).entries = f.entries := by unfold Flock.setZ; split <;> rfl
@[simp] theorem Flock.setZ_branches (f : Flock) (n : Nat) (v : Bool) : (f.setZ n v).branches = f.branches := by unfold Flock.setZ; split <;> rfl
@[simp] theorem Flock.setZ_nextId (f : Flock) (n : Nat) (v : Bool) : (f.setZ n v).nextId = f.nextId := by unfold Flock.setZ; split <;> rfl
@[simp] theorem Flock.setZ_nextStream (f : Flock) (n : Nat) (v : Bool) : (f.setZ n v).nextStream = f.nextStream := by unfold Flock.setZ; split <;> rfl
@[simp] theorem Flock.setZ_ready (f : Flock) (n : Nat) (v : Bool) : (f.setZ n v).ready = f.ready := by unfold Flock.setZ; split <;> rfl
@[simp] theorem Flock.setZ_last (f : Flock) (n : Nat) (v : Bool) : (f.setZ n v).last = f.last := by unfold Flock.setZ; split <;> rfl
@[simp] theorem Flock.setZ_primary (f : Flock) (n : Nat) (v : Bool) : (f.setZ n v).primary = f.primary := by unfold Flock.setZ; split <;> rfl
@[simp] theorem Flock.setZ_second (f : Flock) (n : Nat) (v : Bool) : (f.setZ n v).second = f.second := by unfold Flock.setZ; split <;> rfl
@[simp] theorem Flock.setZ_fpmode (f : Flock) (n : Nat) (v : Bool) : (f.setZ n v).fpmode = f.fpmode := by unfold Flock.setZ; split <;> rfl
@[simp] theorem Flock.setZ_flags (f : Flock) (n : Nat) (v : Bool) : (f.setZ n v).flags = f.flags := by unfold Flock.setZ; split <;> rfl
@[simp] theorem Flock.setZ_tcause (f : Flock) (n : Nat) (v : Bool) : (f.setZ n v).tcause = f.tcause := by unfold Flock.setZ; split <;> rfl
@[simp] theorem Flock.setZ_tpc (f : Flock) (n : Nat) (v : Bool) : (f.setZ n v).tpc = f.tpc := by unfold Flock.setZ; split <;> rfl
@[simp] theorem Flock.setZ_taddr (f : Flock) (n : Nat) (v : Bool) : (f.setZ n v).taddr = f.taddr := by unfold Flock.setZ; split <;> rfl
@[simp] theorem Flock.setZ_tinfo (f : Flock) (n : Nat) (v : Bool) : (f.setZ n v).tinfo = f.tinfo := by unfold Flock.setZ; split <;> rfl
@[simp] theorem Flock.setZ_tvec (f : Flock) (n : Nat) (v : Bool) : (f.setZ n v).tvec = f.tvec := by unfold Flock.setZ; split <;> rfl
@[simp] theorem Flock.setZ_tret (f : Flock) (n : Nat) (v : Bool) : (f.setZ n v).tret = f.tret := by unfold Flock.setZ; split <;> rfl
@[simp] theorem Flock.setZ_tscr0 (f : Flock) (n : Nat) (v : Bool) : (f.setZ n v).tscr0 = f.tscr0 := by unfold Flock.setZ; split <;> rfl
@[simp] theorem Flock.setZ_tscr1 (f : Flock) (n : Nat) (v : Bool) : (f.setZ n v).tscr1 = f.tscr1 := by unfold Flock.setZ; split <;> rfl
@[simp] theorem Flock.setZ_ops (f : Flock) (n : Nat) (v : Bool) : (f.setZ n v).ops = f.ops := by unfold Flock.setZ; split <;> rfl
@[simp] theorem Flock.setZ_bar (f : Flock) (n : Nat) (v : Bool) : (f.setZ n v).bar = f.bar := by unfold Flock.setZ; split <;> rfl
@[simp] theorem Flock.setZ_point (f : Flock) (n : Nat) (v : Bool) : (f.setZ n v).point = f.point := by unfold Flock.setZ; split <;> rfl
@[simp] theorem Flock.setZ_site (f : Flock) (n : Nat) (v : Bool) : (f.setZ n v).site = f.site := by unfold Flock.setZ; split <;> rfl
@[simp] theorem Flock.setZ_claims (f : Flock) (n : Nat) (v : Bool) : (f.setZ n v).claims = f.claims := by unfold Flock.setZ; split <;> rfl
@[simp] theorem Flock.setZ_haltSpc (f : Flock) (n : Nat) (v : Bool) : (f.setZ n v).haltSpc = f.haltSpc := by unfold Flock.setZ; split <;> rfl
@[simp] theorem Flock.setZ_block1 (f : Flock) (n : Nat) (v : Bool) : (f.setZ n v).block1 = f.block1 := by unfold Flock.setZ; split <;> rfl
@[simp] theorem Flock.setZ_call (f : Flock) (n : Nat) (v : Bool) : (f.setZ n v).call = f.call := by unfold Flock.setZ; split <;> rfl
@[simp] theorem Flock.setZ_kflock (f : Flock) (n : Nat) (v : Bool) : (f.setZ n v).kflock = f.kflock := by unfold Flock.setZ; split <;> rfl
@[simp] theorem Flock.setZ_orderedAfter (f : Flock) (n : Nat) (v : Bool) : (f.setZ n v).orderedAfter = f.orderedAfter := by unfold Flock.setZ; split <;> rfl
@[simp] theorem Flock.setZ_sentAfter (f : Flock) (n : Nat) (v : Bool) : (f.setZ n v).sentAfter = f.sentAfter := by unfold Flock.setZ; split <;> rfl
@[simp] theorem Flock.setZ_poisonAddr (f : Flock) (n : Nat) (v : Bool) : (f.setZ n v).poisonAddr = f.poisonAddr := by unfold Flock.setZ; split <;> rfl
@[simp] theorem Flock.setZ_poisonKind (f : Flock) (n : Nat) (v : Bool) : (f.setZ n v).poisonKind = f.poisonKind := by unfold Flock.setZ; split <;> rfl
@[simp] theorem Flock.setZ_sBorn (f : Flock) (n : Nat) (v : Bool) : (f.setZ n v).sBorn = f.sBorn := by unfold Flock.setZ; split <;> rfl
@[simp] theorem Flock.setZ_vBorn (f : Flock) (n : Nat) (v : Bool) : (f.setZ n v).vBorn = f.vBorn := by unfold Flock.setZ; split <;> rfl
@[simp] theorem Flock.setZ_recipe (f : Flock) (n : Nat) (v : Bool) : (f.setZ n v).recipe = f.recipe := by unfold Flock.setZ; split <;> rfl

/-! ## `Flock.setPath` -/

@[simp] theorem Flock.setPath_uid (f : Flock) (p : Path) : (f.setPath p).uid = f.uid := rfl
@[simp] theorem Flock.setPath_herd (f : Flock) (p : Path) : (f.setPath p).herd = f.herd := rfl
@[simp] theorem Flock.setPath_core (f : Flock) (p : Path) : (f.setPath p).core = f.core := rfl
@[simp] theorem Flock.setPath_slot (f : Flock) (p : Path) : (f.setPath p).slot = f.slot := rfl
@[simp] theorem Flock.setPath_datapath (f : Flock) (p : Path) : (f.setPath p).datapath = f.datapath := rfl
@[simp] theorem Flock.setPath_inherd (f : Flock) (p : Path) : (f.setPath p).inherd = f.inherd := rfl
@[simp] theorem Flock.setPath_herdid (f : Flock) (p : Path) : (f.setPath p).herdid = f.herdid := rfl
@[simp] theorem Flock.setPath_lanes (f : Flock) (p : Path) : (f.setPath p).lanes = f.lanes := rfl
@[simp] theorem Flock.setPath_regs (f : Flock) (p : Path) : (f.setPath p).regs = f.regs := rfl
@[simp] theorem Flock.setPath_mode (f : Flock) (p : Path) : (f.setPath p).mode = f.mode := rfl
@[simp] theorem Flock.setPath_s (f : Flock) (p : Path) : (f.setPath p).s = f.s := rfl
@[simp] theorem Flock.setPath_sEmpty (f : Flock) (p : Path) : (f.setPath p).sEmpty = f.sEmpty := rfl
@[simp] theorem Flock.setPath_sPoison (f : Flock) (p : Path) : (f.setPath p).sPoison = f.sPoison := rfl
@[simp] theorem Flock.setPath_v (f : Flock) (p : Path) : (f.setPath p).v = f.v := rfl
@[simp] theorem Flock.setPath_vEmpty (f : Flock) (p : Path) : (f.setPath p).vEmpty = f.vEmpty := rfl
@[simp] theorem Flock.setPath_vPoison (f : Flock) (p : Path) : (f.setPath p).vPoison = f.vPoison := rfl
@[simp] theorem Flock.setPath_q (f : Flock) (p : Path) : (f.setPath p).q = f.q := rfl
@[simp] theorem Flock.setPath_z (f : Flock) (p : Path) : (f.setPath p).z = f.z := rfl
@[simp] theorem Flock.setPath_spc (f : Flock) (p : Path) : (f.setPath p).spc = f.spc := rfl
@[simp] theorem Flock.setPath_queue (f : Flock) (p : Path) : (f.setPath p).queue = f.queue := rfl
@[simp] theorem Flock.setPath_active (f : Flock) (p : Path) : (f.setPath p).active = f.active := rfl
@[simp] theorem Flock.setPath_parked (f : Flock) (p : Path) : (f.setPath p).parked = f.parked := rfl
@[simp] theorem Flock.setPath_killed (f : Flock) (p : Path) : (f.setPath p).killed = f.killed := rfl
@[simp] theorem Flock.setPath_entries (f : Flock) (p : Path) : (f.setPath p).entries = f.entries := rfl
@[simp] theorem Flock.setPath_branches (f : Flock) (p : Path) : (f.setPath p).branches = f.branches := rfl
@[simp] theorem Flock.setPath_nextId (f : Flock) (p : Path) : (f.setPath p).nextId = f.nextId := rfl
@[simp] theorem Flock.setPath_nextStream (f : Flock) (p : Path) : (f.setPath p).nextStream = f.nextStream := rfl
@[simp] theorem Flock.setPath_ready (f : Flock) (p : Path) : (f.setPath p).ready = f.ready := rfl
@[simp] theorem Flock.setPath_last (f : Flock) (p : Path) : (f.setPath p).last = f.last := rfl
@[simp] theorem Flock.setPath_primary (f : Flock) (p : Path) : (f.setPath p).primary = f.primary := rfl
@[simp] theorem Flock.setPath_second (f : Flock) (p : Path) : (f.setPath p).second = f.second := rfl
@[simp] theorem Flock.setPath_fpmode (f : Flock) (p : Path) : (f.setPath p).fpmode = f.fpmode := rfl
@[simp] theorem Flock.setPath_flags (f : Flock) (p : Path) : (f.setPath p).flags = f.flags := rfl
@[simp] theorem Flock.setPath_tcause (f : Flock) (p : Path) : (f.setPath p).tcause = f.tcause := rfl
@[simp] theorem Flock.setPath_tpc (f : Flock) (p : Path) : (f.setPath p).tpc = f.tpc := rfl
@[simp] theorem Flock.setPath_taddr (f : Flock) (p : Path) : (f.setPath p).taddr = f.taddr := rfl
@[simp] theorem Flock.setPath_tinfo (f : Flock) (p : Path) : (f.setPath p).tinfo = f.tinfo := rfl
@[simp] theorem Flock.setPath_tvec (f : Flock) (p : Path) : (f.setPath p).tvec = f.tvec := rfl
@[simp] theorem Flock.setPath_tret (f : Flock) (p : Path) : (f.setPath p).tret = f.tret := rfl
@[simp] theorem Flock.setPath_tscr0 (f : Flock) (p : Path) : (f.setPath p).tscr0 = f.tscr0 := rfl
@[simp] theorem Flock.setPath_tscr1 (f : Flock) (p : Path) : (f.setPath p).tscr1 = f.tscr1 := rfl
@[simp] theorem Flock.setPath_ops (f : Flock) (p : Path) : (f.setPath p).ops = f.ops := rfl
@[simp] theorem Flock.setPath_bar (f : Flock) (p : Path) : (f.setPath p).bar = f.bar := rfl
@[simp] theorem Flock.setPath_point (f : Flock) (p : Path) : (f.setPath p).point = f.point := rfl
@[simp] theorem Flock.setPath_site (f : Flock) (p : Path) : (f.setPath p).site = f.site := rfl
@[simp] theorem Flock.setPath_claims (f : Flock) (p : Path) : (f.setPath p).claims = f.claims := rfl
@[simp] theorem Flock.setPath_haltSpc (f : Flock) (p : Path) : (f.setPath p).haltSpc = f.haltSpc := rfl
@[simp] theorem Flock.setPath_block1 (f : Flock) (p : Path) : (f.setPath p).block1 = f.block1 := rfl
@[simp] theorem Flock.setPath_call (f : Flock) (p : Path) : (f.setPath p).call = f.call := rfl
@[simp] theorem Flock.setPath_kflock (f : Flock) (p : Path) : (f.setPath p).kflock = f.kflock := rfl
@[simp] theorem Flock.setPath_orderedAfter (f : Flock) (p : Path) : (f.setPath p).orderedAfter = f.orderedAfter := rfl
@[simp] theorem Flock.setPath_sentAfter (f : Flock) (p : Path) : (f.setPath p).sentAfter = f.sentAfter := rfl
@[simp] theorem Flock.setPath_poisonAddr (f : Flock) (p : Path) : (f.setPath p).poisonAddr = f.poisonAddr := rfl
@[simp] theorem Flock.setPath_poisonKind (f : Flock) (p : Path) : (f.setPath p).poisonKind = f.poisonKind := rfl
@[simp] theorem Flock.setPath_sBorn (f : Flock) (p : Path) : (f.setPath p).sBorn = f.sBorn := rfl
@[simp] theorem Flock.setPath_vBorn (f : Flock) (p : Path) : (f.setPath p).vBorn = f.vBorn := rfl
@[simp] theorem Flock.setPath_recipe (f : Flock) (p : Path) : (f.setPath p).recipe = f.recipe := rfl

/-! ## `Flock.advance` -/

@[simp] theorem Flock.advance_uid (f : Flock) : (f.advance).uid = f.uid := rfl
@[simp] theorem Flock.advance_herd (f : Flock) : (f.advance).herd = f.herd := rfl
@[simp] theorem Flock.advance_core (f : Flock) : (f.advance).core = f.core := rfl
@[simp] theorem Flock.advance_slot (f : Flock) : (f.advance).slot = f.slot := rfl
@[simp] theorem Flock.advance_datapath (f : Flock) : (f.advance).datapath = f.datapath := rfl
@[simp] theorem Flock.advance_inherd (f : Flock) : (f.advance).inherd = f.inherd := rfl
@[simp] theorem Flock.advance_herdid (f : Flock) : (f.advance).herdid = f.herdid := rfl
@[simp] theorem Flock.advance_lanes (f : Flock) : (f.advance).lanes = f.lanes := rfl
@[simp] theorem Flock.advance_regs (f : Flock) : (f.advance).regs = f.regs := rfl
@[simp] theorem Flock.advance_mode (f : Flock) : (f.advance).mode = f.mode := rfl
@[simp] theorem Flock.advance_s (f : Flock) : (f.advance).s = f.s := rfl
@[simp] theorem Flock.advance_sEmpty (f : Flock) : (f.advance).sEmpty = f.sEmpty := rfl
@[simp] theorem Flock.advance_sPoison (f : Flock) : (f.advance).sPoison = f.sPoison := rfl
@[simp] theorem Flock.advance_v (f : Flock) : (f.advance).v = f.v := rfl
@[simp] theorem Flock.advance_vEmpty (f : Flock) : (f.advance).vEmpty = f.vEmpty := rfl
@[simp] theorem Flock.advance_vPoison (f : Flock) : (f.advance).vPoison = f.vPoison := rfl
@[simp] theorem Flock.advance_q (f : Flock) : (f.advance).q = f.q := rfl
@[simp] theorem Flock.advance_z (f : Flock) : (f.advance).z = f.z := rfl
@[simp] theorem Flock.advance_queue (f : Flock) : (f.advance).queue = f.queue := rfl
@[simp] theorem Flock.advance_active (f : Flock) : (f.advance).active = f.active := rfl
@[simp] theorem Flock.advance_parked (f : Flock) : (f.advance).parked = f.parked := rfl
@[simp] theorem Flock.advance_killed (f : Flock) : (f.advance).killed = f.killed := rfl
@[simp] theorem Flock.advance_paths (f : Flock) : (f.advance).paths = f.paths := rfl
@[simp] theorem Flock.advance_entries (f : Flock) : (f.advance).entries = f.entries := rfl
@[simp] theorem Flock.advance_branches (f : Flock) : (f.advance).branches = f.branches := rfl
@[simp] theorem Flock.advance_nextId (f : Flock) : (f.advance).nextId = f.nextId := rfl
@[simp] theorem Flock.advance_nextStream (f : Flock) : (f.advance).nextStream = f.nextStream := rfl
@[simp] theorem Flock.advance_ready (f : Flock) : (f.advance).ready = f.ready := rfl
@[simp] theorem Flock.advance_last (f : Flock) : (f.advance).last = f.last := rfl
@[simp] theorem Flock.advance_primary (f : Flock) : (f.advance).primary = f.primary := rfl
@[simp] theorem Flock.advance_second (f : Flock) : (f.advance).second = f.second := rfl
@[simp] theorem Flock.advance_fpmode (f : Flock) : (f.advance).fpmode = f.fpmode := rfl
@[simp] theorem Flock.advance_flags (f : Flock) : (f.advance).flags = f.flags := rfl
@[simp] theorem Flock.advance_tcause (f : Flock) : (f.advance).tcause = f.tcause := rfl
@[simp] theorem Flock.advance_tpc (f : Flock) : (f.advance).tpc = f.tpc := rfl
@[simp] theorem Flock.advance_taddr (f : Flock) : (f.advance).taddr = f.taddr := rfl
@[simp] theorem Flock.advance_tinfo (f : Flock) : (f.advance).tinfo = f.tinfo := rfl
@[simp] theorem Flock.advance_tvec (f : Flock) : (f.advance).tvec = f.tvec := rfl
@[simp] theorem Flock.advance_tret (f : Flock) : (f.advance).tret = f.tret := rfl
@[simp] theorem Flock.advance_tscr0 (f : Flock) : (f.advance).tscr0 = f.tscr0 := rfl
@[simp] theorem Flock.advance_tscr1 (f : Flock) : (f.advance).tscr1 = f.tscr1 := rfl
@[simp] theorem Flock.advance_ops (f : Flock) : (f.advance).ops = f.ops := rfl
@[simp] theorem Flock.advance_bar (f : Flock) : (f.advance).bar = f.bar := rfl
@[simp] theorem Flock.advance_point (f : Flock) : (f.advance).point = f.point := rfl
@[simp] theorem Flock.advance_site (f : Flock) : (f.advance).site = f.site := rfl
@[simp] theorem Flock.advance_claims (f : Flock) : (f.advance).claims = f.claims := rfl
@[simp] theorem Flock.advance_haltSpc (f : Flock) : (f.advance).haltSpc = f.haltSpc := rfl
@[simp] theorem Flock.advance_block1 (f : Flock) : (f.advance).block1 = f.block1 := rfl
@[simp] theorem Flock.advance_call (f : Flock) : (f.advance).call = f.call := rfl
@[simp] theorem Flock.advance_kflock (f : Flock) : (f.advance).kflock = f.kflock := rfl
@[simp] theorem Flock.advance_orderedAfter (f : Flock) : (f.advance).orderedAfter = f.orderedAfter := rfl
@[simp] theorem Flock.advance_sentAfter (f : Flock) : (f.advance).sentAfter = f.sentAfter := rfl
@[simp] theorem Flock.advance_poisonAddr (f : Flock) : (f.advance).poisonAddr = f.poisonAddr := rfl
@[simp] theorem Flock.advance_poisonKind (f : Flock) : (f.advance).poisonKind = f.poisonKind := rfl
@[simp] theorem Flock.advance_sBorn (f : Flock) : (f.advance).sBorn = f.sBorn := rfl
@[simp] theorem Flock.advance_vBorn (f : Flock) : (f.advance).vBorn = f.vBorn := rfl
@[simp] theorem Flock.advance_recipe (f : Flock) : (f.advance).recipe = f.recipe := rfl

/-! ## `Flock.fence` -/

@[simp] theorem Flock.fence_uid (f : Flock) : (f.fence).uid = f.uid := rfl
@[simp] theorem Flock.fence_herd (f : Flock) : (f.fence).herd = f.herd := rfl
@[simp] theorem Flock.fence_core (f : Flock) : (f.fence).core = f.core := rfl
@[simp] theorem Flock.fence_slot (f : Flock) : (f.fence).slot = f.slot := rfl
@[simp] theorem Flock.fence_datapath (f : Flock) : (f.fence).datapath = f.datapath := rfl
@[simp] theorem Flock.fence_inherd (f : Flock) : (f.fence).inherd = f.inherd := rfl
@[simp] theorem Flock.fence_herdid (f : Flock) : (f.fence).herdid = f.herdid := rfl
@[simp] theorem Flock.fence_lanes (f : Flock) : (f.fence).lanes = f.lanes := rfl
@[simp] theorem Flock.fence_regs (f : Flock) : (f.fence).regs = f.regs := rfl
@[simp] theorem Flock.fence_mode (f : Flock) : (f.fence).mode = f.mode := rfl
@[simp] theorem Flock.fence_s (f : Flock) : (f.fence).s = f.s := rfl
@[simp] theorem Flock.fence_sEmpty (f : Flock) : (f.fence).sEmpty = f.sEmpty := rfl
@[simp] theorem Flock.fence_sPoison (f : Flock) : (f.fence).sPoison = f.sPoison := rfl
@[simp] theorem Flock.fence_v (f : Flock) : (f.fence).v = f.v := rfl
@[simp] theorem Flock.fence_vEmpty (f : Flock) : (f.fence).vEmpty = f.vEmpty := rfl
@[simp] theorem Flock.fence_vPoison (f : Flock) : (f.fence).vPoison = f.vPoison := rfl
@[simp] theorem Flock.fence_q (f : Flock) : (f.fence).q = f.q := rfl
@[simp] theorem Flock.fence_z (f : Flock) : (f.fence).z = f.z := rfl
@[simp] theorem Flock.fence_spc (f : Flock) : (f.fence).spc = f.spc := rfl
@[simp] theorem Flock.fence_queue (f : Flock) : (f.fence).queue = f.queue := rfl
@[simp] theorem Flock.fence_active (f : Flock) : (f.fence).active = f.active := rfl
@[simp] theorem Flock.fence_parked (f : Flock) : (f.fence).parked = f.parked := rfl
@[simp] theorem Flock.fence_killed (f : Flock) : (f.fence).killed = f.killed := rfl
@[simp] theorem Flock.fence_paths (f : Flock) : (f.fence).paths = f.paths := rfl
@[simp] theorem Flock.fence_entries (f : Flock) : (f.fence).entries = f.entries := rfl
@[simp] theorem Flock.fence_branches (f : Flock) : (f.fence).branches = f.branches := rfl
@[simp] theorem Flock.fence_nextId (f : Flock) : (f.fence).nextId = f.nextId := rfl
@[simp] theorem Flock.fence_nextStream (f : Flock) : (f.fence).nextStream = f.nextStream := rfl
@[simp] theorem Flock.fence_ready (f : Flock) : (f.fence).ready = f.ready := rfl
@[simp] theorem Flock.fence_last (f : Flock) : (f.fence).last = f.last := rfl
@[simp] theorem Flock.fence_primary (f : Flock) : (f.fence).primary = f.primary := rfl
@[simp] theorem Flock.fence_second (f : Flock) : (f.fence).second = f.second := rfl
@[simp] theorem Flock.fence_fpmode (f : Flock) : (f.fence).fpmode = f.fpmode := rfl
@[simp] theorem Flock.fence_flags (f : Flock) : (f.fence).flags = f.flags := rfl
@[simp] theorem Flock.fence_tcause (f : Flock) : (f.fence).tcause = f.tcause := rfl
@[simp] theorem Flock.fence_tpc (f : Flock) : (f.fence).tpc = f.tpc := rfl
@[simp] theorem Flock.fence_taddr (f : Flock) : (f.fence).taddr = f.taddr := rfl
@[simp] theorem Flock.fence_tinfo (f : Flock) : (f.fence).tinfo = f.tinfo := rfl
@[simp] theorem Flock.fence_tvec (f : Flock) : (f.fence).tvec = f.tvec := rfl
@[simp] theorem Flock.fence_tret (f : Flock) : (f.fence).tret = f.tret := rfl
@[simp] theorem Flock.fence_tscr0 (f : Flock) : (f.fence).tscr0 = f.tscr0 := rfl
@[simp] theorem Flock.fence_tscr1 (f : Flock) : (f.fence).tscr1 = f.tscr1 := rfl
@[simp] theorem Flock.fence_ops (f : Flock) : (f.fence).ops = f.ops := rfl
@[simp] theorem Flock.fence_bar (f : Flock) : (f.fence).bar = f.bar := rfl
@[simp] theorem Flock.fence_site (f : Flock) : (f.fence).site = f.site := rfl
@[simp] theorem Flock.fence_claims (f : Flock) : (f.fence).claims = f.claims := rfl
@[simp] theorem Flock.fence_haltSpc (f : Flock) : (f.fence).haltSpc = f.haltSpc := rfl
@[simp] theorem Flock.fence_block1 (f : Flock) : (f.fence).block1 = f.block1 := rfl
@[simp] theorem Flock.fence_call (f : Flock) : (f.fence).call = f.call := rfl
@[simp] theorem Flock.fence_kflock (f : Flock) : (f.fence).kflock = f.kflock := rfl
@[simp] theorem Flock.fence_orderedAfter (f : Flock) : (f.fence).orderedAfter = f.orderedAfter := rfl
@[simp] theorem Flock.fence_sentAfter (f : Flock) : (f.fence).sentAfter = f.sentAfter := rfl
@[simp] theorem Flock.fence_poisonAddr (f : Flock) : (f.fence).poisonAddr = f.poisonAddr := rfl
@[simp] theorem Flock.fence_poisonKind (f : Flock) : (f.fence).poisonKind = f.poisonKind := rfl
@[simp] theorem Flock.fence_sBorn (f : Flock) : (f.fence).sBorn = f.sBorn := rfl
@[simp] theorem Flock.fence_vBorn (f : Flock) : (f.fence).vBorn = f.vBorn := rfl
@[simp] theorem Flock.fence_recipe (f : Flock) : (f.fence).recipe = f.recipe := rfl

/-! ## `Flock.retire` -/

@[simp] theorem Flock.retire_uid (f : Flock) (p : Nat) : (f.retire p).uid = f.uid := by unfold Flock.retire; dsimp only; (repeat' split) <;> rfl
@[simp] theorem Flock.retire_herd (f : Flock) (p : Nat) : (f.retire p).herd = f.herd := by unfold Flock.retire; dsimp only; (repeat' split) <;> rfl
@[simp] theorem Flock.retire_core (f : Flock) (p : Nat) : (f.retire p).core = f.core := by unfold Flock.retire; dsimp only; (repeat' split) <;> rfl
@[simp] theorem Flock.retire_slot (f : Flock) (p : Nat) : (f.retire p).slot = f.slot := by unfold Flock.retire; dsimp only; (repeat' split) <;> rfl
@[simp] theorem Flock.retire_datapath (f : Flock) (p : Nat) : (f.retire p).datapath = f.datapath := by unfold Flock.retire; dsimp only; (repeat' split) <;> rfl
@[simp] theorem Flock.retire_inherd (f : Flock) (p : Nat) : (f.retire p).inherd = f.inherd := by unfold Flock.retire; dsimp only; (repeat' split) <;> rfl
@[simp] theorem Flock.retire_herdid (f : Flock) (p : Nat) : (f.retire p).herdid = f.herdid := by unfold Flock.retire; dsimp only; (repeat' split) <;> rfl
@[simp] theorem Flock.retire_lanes (f : Flock) (p : Nat) : (f.retire p).lanes = f.lanes := by unfold Flock.retire; dsimp only; (repeat' split) <;> rfl
@[simp] theorem Flock.retire_regs (f : Flock) (p : Nat) : (f.retire p).regs = f.regs := by unfold Flock.retire; dsimp only; (repeat' split) <;> rfl
@[simp] theorem Flock.retire_mode (f : Flock) (p : Nat) : (f.retire p).mode = f.mode := by unfold Flock.retire; dsimp only; (repeat' split) <;> rfl
@[simp] theorem Flock.retire_s (f : Flock) (p : Nat) : (f.retire p).s = f.s := by unfold Flock.retire; dsimp only; (repeat' split) <;> rfl
@[simp] theorem Flock.retire_sEmpty (f : Flock) (p : Nat) : (f.retire p).sEmpty = f.sEmpty := by unfold Flock.retire; dsimp only; (repeat' split) <;> rfl
@[simp] theorem Flock.retire_sPoison (f : Flock) (p : Nat) : (f.retire p).sPoison = f.sPoison := by unfold Flock.retire; dsimp only; (repeat' split) <;> rfl
@[simp] theorem Flock.retire_v (f : Flock) (p : Nat) : (f.retire p).v = f.v := by unfold Flock.retire; dsimp only; (repeat' split) <;> rfl
@[simp] theorem Flock.retire_vEmpty (f : Flock) (p : Nat) : (f.retire p).vEmpty = f.vEmpty := by unfold Flock.retire; dsimp only; (repeat' split) <;> rfl
@[simp] theorem Flock.retire_vPoison (f : Flock) (p : Nat) : (f.retire p).vPoison = f.vPoison := by unfold Flock.retire; dsimp only; (repeat' split) <;> rfl
@[simp] theorem Flock.retire_q (f : Flock) (p : Nat) : (f.retire p).q = f.q := by unfold Flock.retire; dsimp only; (repeat' split) <;> rfl
@[simp] theorem Flock.retire_z (f : Flock) (p : Nat) : (f.retire p).z = f.z := by unfold Flock.retire; dsimp only; (repeat' split) <;> rfl
@[simp] theorem Flock.retire_spc (f : Flock) (p : Nat) : (f.retire p).spc = f.spc := by unfold Flock.retire; dsimp only; (repeat' split) <;> rfl
@[simp] theorem Flock.retire_queue (f : Flock) (p : Nat) : (f.retire p).queue = f.queue := by unfold Flock.retire; dsimp only; (repeat' split) <;> rfl
@[simp] theorem Flock.retire_active (f : Flock) (p : Nat) : (f.retire p).active = f.active := by unfold Flock.retire; dsimp only; (repeat' split) <;> rfl
@[simp] theorem Flock.retire_parked (f : Flock) (p : Nat) : (f.retire p).parked = f.parked := by unfold Flock.retire; dsimp only; (repeat' split) <;> rfl
@[simp] theorem Flock.retire_killed (f : Flock) (p : Nat) : (f.retire p).killed = f.killed := by unfold Flock.retire; dsimp only; (repeat' split) <;> rfl
@[simp] theorem Flock.retire_entries (f : Flock) (p : Nat) : (f.retire p).entries = f.entries := by unfold Flock.retire; dsimp only; (repeat' split) <;> rfl
@[simp] theorem Flock.retire_branches (f : Flock) (p : Nat) : (f.retire p).branches = f.branches := by unfold Flock.retire; dsimp only; (repeat' split) <;> rfl
@[simp] theorem Flock.retire_nextId (f : Flock) (p : Nat) : (f.retire p).nextId = f.nextId := by unfold Flock.retire; dsimp only; (repeat' split) <;> rfl
@[simp] theorem Flock.retire_nextStream (f : Flock) (p : Nat) : (f.retire p).nextStream = f.nextStream := by unfold Flock.retire; dsimp only; (repeat' split) <;> rfl
@[simp] theorem Flock.retire_ready (f : Flock) (p : Nat) : (f.retire p).ready = f.ready := by unfold Flock.retire; dsimp only; (repeat' split) <;> rfl
@[simp] theorem Flock.retire_last (f : Flock) (p : Nat) : (f.retire p).last = f.last := by unfold Flock.retire; dsimp only; (repeat' split) <;> rfl
@[simp] theorem Flock.retire_primary (f : Flock) (p : Nat) : (f.retire p).primary = f.primary := by unfold Flock.retire; dsimp only; (repeat' split) <;> rfl
@[simp] theorem Flock.retire_second (f : Flock) (p : Nat) : (f.retire p).second = f.second := by unfold Flock.retire; dsimp only; (repeat' split) <;> rfl
@[simp] theorem Flock.retire_flags (f : Flock) (p : Nat) : (f.retire p).flags = f.flags := by unfold Flock.retire; dsimp only; (repeat' split) <;> rfl
@[simp] theorem Flock.retire_tcause (f : Flock) (p : Nat) : (f.retire p).tcause = f.tcause := by unfold Flock.retire; dsimp only; (repeat' split) <;> rfl
@[simp] theorem Flock.retire_tpc (f : Flock) (p : Nat) : (f.retire p).tpc = f.tpc := by unfold Flock.retire; dsimp only; (repeat' split) <;> rfl
@[simp] theorem Flock.retire_taddr (f : Flock) (p : Nat) : (f.retire p).taddr = f.taddr := by unfold Flock.retire; dsimp only; (repeat' split) <;> rfl
@[simp] theorem Flock.retire_tinfo (f : Flock) (p : Nat) : (f.retire p).tinfo = f.tinfo := by unfold Flock.retire; dsimp only; (repeat' split) <;> rfl
@[simp] theorem Flock.retire_tvec (f : Flock) (p : Nat) : (f.retire p).tvec = f.tvec := by unfold Flock.retire; dsimp only; (repeat' split) <;> rfl
@[simp] theorem Flock.retire_tret (f : Flock) (p : Nat) : (f.retire p).tret = f.tret := by unfold Flock.retire; dsimp only; (repeat' split) <;> rfl
@[simp] theorem Flock.retire_tscr0 (f : Flock) (p : Nat) : (f.retire p).tscr0 = f.tscr0 := by unfold Flock.retire; dsimp only; (repeat' split) <;> rfl
@[simp] theorem Flock.retire_tscr1 (f : Flock) (p : Nat) : (f.retire p).tscr1 = f.tscr1 := by unfold Flock.retire; dsimp only; (repeat' split) <;> rfl
@[simp] theorem Flock.retire_ops (f : Flock) (p : Nat) : (f.retire p).ops = f.ops := by unfold Flock.retire; dsimp only; (repeat' split) <;> rfl
@[simp] theorem Flock.retire_bar (f : Flock) (p : Nat) : (f.retire p).bar = f.bar := by unfold Flock.retire; dsimp only; (repeat' split) <;> rfl
@[simp] theorem Flock.retire_point (f : Flock) (p : Nat) : (f.retire p).point = f.point := by unfold Flock.retire; dsimp only; (repeat' split) <;> rfl
@[simp] theorem Flock.retire_site (f : Flock) (p : Nat) : (f.retire p).site = f.site := by unfold Flock.retire; dsimp only; (repeat' split) <;> rfl
@[simp] theorem Flock.retire_claims (f : Flock) (p : Nat) : (f.retire p).claims = f.claims := by unfold Flock.retire; dsimp only; (repeat' split) <;> rfl
@[simp] theorem Flock.retire_haltSpc (f : Flock) (p : Nat) : (f.retire p).haltSpc = f.haltSpc := by unfold Flock.retire; dsimp only; (repeat' split) <;> rfl
@[simp] theorem Flock.retire_call (f : Flock) (p : Nat) : (f.retire p).call = f.call := by unfold Flock.retire; dsimp only; (repeat' split) <;> rfl
@[simp] theorem Flock.retire_kflock (f : Flock) (p : Nat) : (f.retire p).kflock = f.kflock := by unfold Flock.retire; dsimp only; (repeat' split) <;> rfl
@[simp] theorem Flock.retire_orderedAfter (f : Flock) (p : Nat) : (f.retire p).orderedAfter = f.orderedAfter := by unfold Flock.retire; dsimp only; (repeat' split) <;> rfl
@[simp] theorem Flock.retire_sentAfter (f : Flock) (p : Nat) : (f.retire p).sentAfter = f.sentAfter := by unfold Flock.retire; dsimp only; (repeat' split) <;> rfl
@[simp] theorem Flock.retire_poisonAddr (f : Flock) (p : Nat) : (f.retire p).poisonAddr = f.poisonAddr := by unfold Flock.retire; dsimp only; (repeat' split) <;> rfl
@[simp] theorem Flock.retire_poisonKind (f : Flock) (p : Nat) : (f.retire p).poisonKind = f.poisonKind := by unfold Flock.retire; dsimp only; (repeat' split) <;> rfl
@[simp] theorem Flock.retire_sBorn (f : Flock) (p : Nat) : (f.retire p).sBorn = f.sBorn := by unfold Flock.retire; dsimp only; (repeat' split) <;> rfl
@[simp] theorem Flock.retire_vBorn (f : Flock) (p : Nat) : (f.retire p).vBorn = f.vBorn := by unfold Flock.retire; dsimp only; (repeat' split) <;> rfl

/-! ## `Flock.writeLanes` -/

@[simp] theorem Flock.writeLanes_uid (f : Flock) (r : Nat) (vals : List (Nat × Word32)) : (f.writeLanes r vals).uid = f.uid := by
  induction vals generalizing f with
  | nil => rfl
  | cons x r ih => exact (ih (f.setV _ x.1 x.2)).trans (Flock.setV_uid ..)
@[simp] theorem Flock.writeLanes_herd (f : Flock) (r : Nat) (vals : List (Nat × Word32)) : (f.writeLanes r vals).herd = f.herd := by
  induction vals generalizing f with
  | nil => rfl
  | cons x r ih => exact (ih (f.setV _ x.1 x.2)).trans (Flock.setV_herd ..)
@[simp] theorem Flock.writeLanes_core (f : Flock) (r : Nat) (vals : List (Nat × Word32)) : (f.writeLanes r vals).core = f.core := by
  induction vals generalizing f with
  | nil => rfl
  | cons x r ih => exact (ih (f.setV _ x.1 x.2)).trans (Flock.setV_core ..)
@[simp] theorem Flock.writeLanes_slot (f : Flock) (r : Nat) (vals : List (Nat × Word32)) : (f.writeLanes r vals).slot = f.slot := by
  induction vals generalizing f with
  | nil => rfl
  | cons x r ih => exact (ih (f.setV _ x.1 x.2)).trans (Flock.setV_slot ..)
@[simp] theorem Flock.writeLanes_datapath (f : Flock) (r : Nat) (vals : List (Nat × Word32)) : (f.writeLanes r vals).datapath = f.datapath := by
  induction vals generalizing f with
  | nil => rfl
  | cons x r ih => exact (ih (f.setV _ x.1 x.2)).trans (Flock.setV_datapath ..)
@[simp] theorem Flock.writeLanes_inherd (f : Flock) (r : Nat) (vals : List (Nat × Word32)) : (f.writeLanes r vals).inherd = f.inherd := by
  induction vals generalizing f with
  | nil => rfl
  | cons x r ih => exact (ih (f.setV _ x.1 x.2)).trans (Flock.setV_inherd ..)
@[simp] theorem Flock.writeLanes_herdid (f : Flock) (r : Nat) (vals : List (Nat × Word32)) : (f.writeLanes r vals).herdid = f.herdid := by
  induction vals generalizing f with
  | nil => rfl
  | cons x r ih => exact (ih (f.setV _ x.1 x.2)).trans (Flock.setV_herdid ..)
@[simp] theorem Flock.writeLanes_lanes (f : Flock) (r : Nat) (vals : List (Nat × Word32)) : (f.writeLanes r vals).lanes = f.lanes := by
  induction vals generalizing f with
  | nil => rfl
  | cons x r ih => exact (ih (f.setV _ x.1 x.2)).trans (Flock.setV_lanes ..)
@[simp] theorem Flock.writeLanes_regs (f : Flock) (r : Nat) (vals : List (Nat × Word32)) : (f.writeLanes r vals).regs = f.regs := by
  induction vals generalizing f with
  | nil => rfl
  | cons x r ih => exact (ih (f.setV _ x.1 x.2)).trans (Flock.setV_regs ..)
@[simp] theorem Flock.writeLanes_mode (f : Flock) (r : Nat) (vals : List (Nat × Word32)) : (f.writeLanes r vals).mode = f.mode := by
  induction vals generalizing f with
  | nil => rfl
  | cons x r ih => exact (ih (f.setV _ x.1 x.2)).trans (Flock.setV_mode ..)
@[simp] theorem Flock.writeLanes_s (f : Flock) (r : Nat) (vals : List (Nat × Word32)) : (f.writeLanes r vals).s = f.s := by
  induction vals generalizing f with
  | nil => rfl
  | cons x r ih => exact (ih (f.setV _ x.1 x.2)).trans (Flock.setV_s ..)
@[simp] theorem Flock.writeLanes_sEmpty (f : Flock) (r : Nat) (vals : List (Nat × Word32)) : (f.writeLanes r vals).sEmpty = f.sEmpty := by
  induction vals generalizing f with
  | nil => rfl
  | cons x r ih => exact (ih (f.setV _ x.1 x.2)).trans (Flock.setV_sEmpty ..)
@[simp] theorem Flock.writeLanes_sPoison (f : Flock) (r : Nat) (vals : List (Nat × Word32)) : (f.writeLanes r vals).sPoison = f.sPoison := by
  induction vals generalizing f with
  | nil => rfl
  | cons x r ih => exact (ih (f.setV _ x.1 x.2)).trans (Flock.setV_sPoison ..)
@[simp] theorem Flock.writeLanes_vEmpty (f : Flock) (r : Nat) (vals : List (Nat × Word32)) : (f.writeLanes r vals).vEmpty = f.vEmpty := by
  induction vals generalizing f with
  | nil => rfl
  | cons x r ih => exact (ih (f.setV _ x.1 x.2)).trans (Flock.setV_vEmpty ..)
@[simp] theorem Flock.writeLanes_q (f : Flock) (r : Nat) (vals : List (Nat × Word32)) : (f.writeLanes r vals).q = f.q := by
  induction vals generalizing f with
  | nil => rfl
  | cons x r ih => exact (ih (f.setV _ x.1 x.2)).trans (Flock.setV_q ..)
@[simp] theorem Flock.writeLanes_z (f : Flock) (r : Nat) (vals : List (Nat × Word32)) : (f.writeLanes r vals).z = f.z := by
  induction vals generalizing f with
  | nil => rfl
  | cons x r ih => exact (ih (f.setV _ x.1 x.2)).trans (Flock.setV_z ..)
@[simp] theorem Flock.writeLanes_spc (f : Flock) (r : Nat) (vals : List (Nat × Word32)) : (f.writeLanes r vals).spc = f.spc := by
  induction vals generalizing f with
  | nil => rfl
  | cons x r ih => exact (ih (f.setV _ x.1 x.2)).trans (Flock.setV_spc ..)
@[simp] theorem Flock.writeLanes_queue (f : Flock) (r : Nat) (vals : List (Nat × Word32)) : (f.writeLanes r vals).queue = f.queue := by
  induction vals generalizing f with
  | nil => rfl
  | cons x r ih => exact (ih (f.setV _ x.1 x.2)).trans (Flock.setV_queue ..)
@[simp] theorem Flock.writeLanes_active (f : Flock) (r : Nat) (vals : List (Nat × Word32)) : (f.writeLanes r vals).active = f.active := by
  induction vals generalizing f with
  | nil => rfl
  | cons x r ih => exact (ih (f.setV _ x.1 x.2)).trans (Flock.setV_active ..)
@[simp] theorem Flock.writeLanes_parked (f : Flock) (r : Nat) (vals : List (Nat × Word32)) : (f.writeLanes r vals).parked = f.parked := by
  induction vals generalizing f with
  | nil => rfl
  | cons x r ih => exact (ih (f.setV _ x.1 x.2)).trans (Flock.setV_parked ..)
@[simp] theorem Flock.writeLanes_killed (f : Flock) (r : Nat) (vals : List (Nat × Word32)) : (f.writeLanes r vals).killed = f.killed := by
  induction vals generalizing f with
  | nil => rfl
  | cons x r ih => exact (ih (f.setV _ x.1 x.2)).trans (Flock.setV_killed ..)
@[simp] theorem Flock.writeLanes_paths (f : Flock) (r : Nat) (vals : List (Nat × Word32)) : (f.writeLanes r vals).paths = f.paths := by
  induction vals generalizing f with
  | nil => rfl
  | cons x r ih => exact (ih (f.setV _ x.1 x.2)).trans (Flock.setV_paths ..)
@[simp] theorem Flock.writeLanes_entries (f : Flock) (r : Nat) (vals : List (Nat × Word32)) : (f.writeLanes r vals).entries = f.entries := by
  induction vals generalizing f with
  | nil => rfl
  | cons x r ih => exact (ih (f.setV _ x.1 x.2)).trans (Flock.setV_entries ..)
@[simp] theorem Flock.writeLanes_branches (f : Flock) (r : Nat) (vals : List (Nat × Word32)) : (f.writeLanes r vals).branches = f.branches := by
  induction vals generalizing f with
  | nil => rfl
  | cons x r ih => exact (ih (f.setV _ x.1 x.2)).trans (Flock.setV_branches ..)
@[simp] theorem Flock.writeLanes_nextId (f : Flock) (r : Nat) (vals : List (Nat × Word32)) : (f.writeLanes r vals).nextId = f.nextId := by
  induction vals generalizing f with
  | nil => rfl
  | cons x r ih => exact (ih (f.setV _ x.1 x.2)).trans (Flock.setV_nextId ..)
@[simp] theorem Flock.writeLanes_nextStream (f : Flock) (r : Nat) (vals : List (Nat × Word32)) : (f.writeLanes r vals).nextStream = f.nextStream := by
  induction vals generalizing f with
  | nil => rfl
  | cons x r ih => exact (ih (f.setV _ x.1 x.2)).trans (Flock.setV_nextStream ..)
@[simp] theorem Flock.writeLanes_ready (f : Flock) (r : Nat) (vals : List (Nat × Word32)) : (f.writeLanes r vals).ready = f.ready := by
  induction vals generalizing f with
  | nil => rfl
  | cons x r ih => exact (ih (f.setV _ x.1 x.2)).trans (Flock.setV_ready ..)
@[simp] theorem Flock.writeLanes_last (f : Flock) (r : Nat) (vals : List (Nat × Word32)) : (f.writeLanes r vals).last = f.last := by
  induction vals generalizing f with
  | nil => rfl
  | cons x r ih => exact (ih (f.setV _ x.1 x.2)).trans (Flock.setV_last ..)
@[simp] theorem Flock.writeLanes_primary (f : Flock) (r : Nat) (vals : List (Nat × Word32)) : (f.writeLanes r vals).primary = f.primary := by
  induction vals generalizing f with
  | nil => rfl
  | cons x r ih => exact (ih (f.setV _ x.1 x.2)).trans (Flock.setV_primary ..)
@[simp] theorem Flock.writeLanes_second (f : Flock) (r : Nat) (vals : List (Nat × Word32)) : (f.writeLanes r vals).second = f.second := by
  induction vals generalizing f with
  | nil => rfl
  | cons x r ih => exact (ih (f.setV _ x.1 x.2)).trans (Flock.setV_second ..)
@[simp] theorem Flock.writeLanes_fpmode (f : Flock) (r : Nat) (vals : List (Nat × Word32)) : (f.writeLanes r vals).fpmode = f.fpmode := by
  induction vals generalizing f with
  | nil => rfl
  | cons x r ih => exact (ih (f.setV _ x.1 x.2)).trans (Flock.setV_fpmode ..)
@[simp] theorem Flock.writeLanes_flags (f : Flock) (r : Nat) (vals : List (Nat × Word32)) : (f.writeLanes r vals).flags = f.flags := by
  induction vals generalizing f with
  | nil => rfl
  | cons x r ih => exact (ih (f.setV _ x.1 x.2)).trans (Flock.setV_flags ..)
@[simp] theorem Flock.writeLanes_tcause (f : Flock) (r : Nat) (vals : List (Nat × Word32)) : (f.writeLanes r vals).tcause = f.tcause := by
  induction vals generalizing f with
  | nil => rfl
  | cons x r ih => exact (ih (f.setV _ x.1 x.2)).trans (Flock.setV_tcause ..)
@[simp] theorem Flock.writeLanes_tpc (f : Flock) (r : Nat) (vals : List (Nat × Word32)) : (f.writeLanes r vals).tpc = f.tpc := by
  induction vals generalizing f with
  | nil => rfl
  | cons x r ih => exact (ih (f.setV _ x.1 x.2)).trans (Flock.setV_tpc ..)
@[simp] theorem Flock.writeLanes_taddr (f : Flock) (r : Nat) (vals : List (Nat × Word32)) : (f.writeLanes r vals).taddr = f.taddr := by
  induction vals generalizing f with
  | nil => rfl
  | cons x r ih => exact (ih (f.setV _ x.1 x.2)).trans (Flock.setV_taddr ..)
@[simp] theorem Flock.writeLanes_tinfo (f : Flock) (r : Nat) (vals : List (Nat × Word32)) : (f.writeLanes r vals).tinfo = f.tinfo := by
  induction vals generalizing f with
  | nil => rfl
  | cons x r ih => exact (ih (f.setV _ x.1 x.2)).trans (Flock.setV_tinfo ..)
@[simp] theorem Flock.writeLanes_tvec (f : Flock) (r : Nat) (vals : List (Nat × Word32)) : (f.writeLanes r vals).tvec = f.tvec := by
  induction vals generalizing f with
  | nil => rfl
  | cons x r ih => exact (ih (f.setV _ x.1 x.2)).trans (Flock.setV_tvec ..)
@[simp] theorem Flock.writeLanes_tret (f : Flock) (r : Nat) (vals : List (Nat × Word32)) : (f.writeLanes r vals).tret = f.tret := by
  induction vals generalizing f with
  | nil => rfl
  | cons x r ih => exact (ih (f.setV _ x.1 x.2)).trans (Flock.setV_tret ..)
@[simp] theorem Flock.writeLanes_tscr0 (f : Flock) (r : Nat) (vals : List (Nat × Word32)) : (f.writeLanes r vals).tscr0 = f.tscr0 := by
  induction vals generalizing f with
  | nil => rfl
  | cons x r ih => exact (ih (f.setV _ x.1 x.2)).trans (Flock.setV_tscr0 ..)
@[simp] theorem Flock.writeLanes_tscr1 (f : Flock) (r : Nat) (vals : List (Nat × Word32)) : (f.writeLanes r vals).tscr1 = f.tscr1 := by
  induction vals generalizing f with
  | nil => rfl
  | cons x r ih => exact (ih (f.setV _ x.1 x.2)).trans (Flock.setV_tscr1 ..)
@[simp] theorem Flock.writeLanes_ops (f : Flock) (r : Nat) (vals : List (Nat × Word32)) : (f.writeLanes r vals).ops = f.ops := by
  induction vals generalizing f with
  | nil => rfl
  | cons x r ih => exact (ih (f.setV _ x.1 x.2)).trans (Flock.setV_ops ..)
@[simp] theorem Flock.writeLanes_bar (f : Flock) (r : Nat) (vals : List (Nat × Word32)) : (f.writeLanes r vals).bar = f.bar := by
  induction vals generalizing f with
  | nil => rfl
  | cons x r ih => exact (ih (f.setV _ x.1 x.2)).trans (Flock.setV_bar ..)
@[simp] theorem Flock.writeLanes_point (f : Flock) (r : Nat) (vals : List (Nat × Word32)) : (f.writeLanes r vals).point = f.point := by
  induction vals generalizing f with
  | nil => rfl
  | cons x r ih => exact (ih (f.setV _ x.1 x.2)).trans (Flock.setV_point ..)
@[simp] theorem Flock.writeLanes_site (f : Flock) (r : Nat) (vals : List (Nat × Word32)) : (f.writeLanes r vals).site = f.site := by
  induction vals generalizing f with
  | nil => rfl
  | cons x r ih => exact (ih (f.setV _ x.1 x.2)).trans (Flock.setV_site ..)
@[simp] theorem Flock.writeLanes_claims (f : Flock) (r : Nat) (vals : List (Nat × Word32)) : (f.writeLanes r vals).claims = f.claims := by
  induction vals generalizing f with
  | nil => rfl
  | cons x r ih => exact (ih (f.setV _ x.1 x.2)).trans (Flock.setV_claims ..)
@[simp] theorem Flock.writeLanes_haltSpc (f : Flock) (r : Nat) (vals : List (Nat × Word32)) : (f.writeLanes r vals).haltSpc = f.haltSpc := by
  induction vals generalizing f with
  | nil => rfl
  | cons x r ih => exact (ih (f.setV _ x.1 x.2)).trans (Flock.setV_haltSpc ..)
@[simp] theorem Flock.writeLanes_block1 (f : Flock) (r : Nat) (vals : List (Nat × Word32)) : (f.writeLanes r vals).block1 = f.block1 := by
  induction vals generalizing f with
  | nil => rfl
  | cons x r ih => exact (ih (f.setV _ x.1 x.2)).trans (Flock.setV_block1 ..)
@[simp] theorem Flock.writeLanes_call (f : Flock) (r : Nat) (vals : List (Nat × Word32)) : (f.writeLanes r vals).call = f.call := by
  induction vals generalizing f with
  | nil => rfl
  | cons x r ih => exact (ih (f.setV _ x.1 x.2)).trans (Flock.setV_call ..)
@[simp] theorem Flock.writeLanes_kflock (f : Flock) (r : Nat) (vals : List (Nat × Word32)) : (f.writeLanes r vals).kflock = f.kflock := by
  induction vals generalizing f with
  | nil => rfl
  | cons x r ih => exact (ih (f.setV _ x.1 x.2)).trans (Flock.setV_kflock ..)
@[simp] theorem Flock.writeLanes_orderedAfter (f : Flock) (r : Nat) (vals : List (Nat × Word32)) : (f.writeLanes r vals).orderedAfter = f.orderedAfter := by
  induction vals generalizing f with
  | nil => rfl
  | cons x r ih => exact (ih (f.setV _ x.1 x.2)).trans (Flock.setV_orderedAfter ..)
@[simp] theorem Flock.writeLanes_sentAfter (f : Flock) (r : Nat) (vals : List (Nat × Word32)) : (f.writeLanes r vals).sentAfter = f.sentAfter := by
  induction vals generalizing f with
  | nil => rfl
  | cons x r ih => exact (ih (f.setV _ x.1 x.2)).trans (Flock.setV_sentAfter ..)
@[simp] theorem Flock.writeLanes_poisonAddr (f : Flock) (r : Nat) (vals : List (Nat × Word32)) : (f.writeLanes r vals).poisonAddr = f.poisonAddr := by
  induction vals generalizing f with
  | nil => rfl
  | cons x r ih => exact (ih (f.setV _ x.1 x.2)).trans (Flock.setV_poisonAddr ..)
@[simp] theorem Flock.writeLanes_poisonKind (f : Flock) (r : Nat) (vals : List (Nat × Word32)) : (f.writeLanes r vals).poisonKind = f.poisonKind := by
  induction vals generalizing f with
  | nil => rfl
  | cons x r ih => exact (ih (f.setV _ x.1 x.2)).trans (Flock.setV_poisonKind ..)
@[simp] theorem Flock.writeLanes_sBorn (f : Flock) (r : Nat) (vals : List (Nat × Word32)) : (f.writeLanes r vals).sBorn = f.sBorn := by
  induction vals generalizing f with
  | nil => rfl
  | cons x r ih => exact (ih (f.setV _ x.1 x.2)).trans (Flock.setV_sBorn ..)
@[simp] theorem Flock.writeLanes_vBorn (f : Flock) (r : Nat) (vals : List (Nat × Word32)) : (f.writeLanes r vals).vBorn = f.vBorn := by
  induction vals generalizing f with
  | nil => rfl
  | cons x r ih => exact (ih (f.setV _ x.1 x.2)).trans (Flock.setV_vBorn ..)
@[simp] theorem Flock.writeLanes_recipe (f : Flock) (r : Nat) (vals : List (Nat × Word32)) : (f.writeLanes r vals).recipe = f.recipe := by
  induction vals generalizing f with
  | nil => rfl
  | cons x r ih => exact (ih (f.setV _ x.1 x.2)).trans (Flock.setV_recipe ..)

/-! ## `Flock.writePairs` -/

@[simp] theorem Flock.writePairs_uid (f : Flock) (r : Nat) (vals : List (Nat × Word64)) : (f.writePairs r vals).uid = f.uid := by
  induction vals generalizing f with
  | nil => rfl
  | cons x r ih => exact (ih (f.setVpair _ x.1 x.2)).trans (Flock.setVpair_uid ..)
@[simp] theorem Flock.writePairs_herd (f : Flock) (r : Nat) (vals : List (Nat × Word64)) : (f.writePairs r vals).herd = f.herd := by
  induction vals generalizing f with
  | nil => rfl
  | cons x r ih => exact (ih (f.setVpair _ x.1 x.2)).trans (Flock.setVpair_herd ..)
@[simp] theorem Flock.writePairs_core (f : Flock) (r : Nat) (vals : List (Nat × Word64)) : (f.writePairs r vals).core = f.core := by
  induction vals generalizing f with
  | nil => rfl
  | cons x r ih => exact (ih (f.setVpair _ x.1 x.2)).trans (Flock.setVpair_core ..)
@[simp] theorem Flock.writePairs_slot (f : Flock) (r : Nat) (vals : List (Nat × Word64)) : (f.writePairs r vals).slot = f.slot := by
  induction vals generalizing f with
  | nil => rfl
  | cons x r ih => exact (ih (f.setVpair _ x.1 x.2)).trans (Flock.setVpair_slot ..)
@[simp] theorem Flock.writePairs_datapath (f : Flock) (r : Nat) (vals : List (Nat × Word64)) : (f.writePairs r vals).datapath = f.datapath := by
  induction vals generalizing f with
  | nil => rfl
  | cons x r ih => exact (ih (f.setVpair _ x.1 x.2)).trans (Flock.setVpair_datapath ..)
@[simp] theorem Flock.writePairs_inherd (f : Flock) (r : Nat) (vals : List (Nat × Word64)) : (f.writePairs r vals).inherd = f.inherd := by
  induction vals generalizing f with
  | nil => rfl
  | cons x r ih => exact (ih (f.setVpair _ x.1 x.2)).trans (Flock.setVpair_inherd ..)
@[simp] theorem Flock.writePairs_herdid (f : Flock) (r : Nat) (vals : List (Nat × Word64)) : (f.writePairs r vals).herdid = f.herdid := by
  induction vals generalizing f with
  | nil => rfl
  | cons x r ih => exact (ih (f.setVpair _ x.1 x.2)).trans (Flock.setVpair_herdid ..)
@[simp] theorem Flock.writePairs_lanes (f : Flock) (r : Nat) (vals : List (Nat × Word64)) : (f.writePairs r vals).lanes = f.lanes := by
  induction vals generalizing f with
  | nil => rfl
  | cons x r ih => exact (ih (f.setVpair _ x.1 x.2)).trans (Flock.setVpair_lanes ..)
@[simp] theorem Flock.writePairs_regs (f : Flock) (r : Nat) (vals : List (Nat × Word64)) : (f.writePairs r vals).regs = f.regs := by
  induction vals generalizing f with
  | nil => rfl
  | cons x r ih => exact (ih (f.setVpair _ x.1 x.2)).trans (Flock.setVpair_regs ..)
@[simp] theorem Flock.writePairs_mode (f : Flock) (r : Nat) (vals : List (Nat × Word64)) : (f.writePairs r vals).mode = f.mode := by
  induction vals generalizing f with
  | nil => rfl
  | cons x r ih => exact (ih (f.setVpair _ x.1 x.2)).trans (Flock.setVpair_mode ..)
@[simp] theorem Flock.writePairs_s (f : Flock) (r : Nat) (vals : List (Nat × Word64)) : (f.writePairs r vals).s = f.s := by
  induction vals generalizing f with
  | nil => rfl
  | cons x r ih => exact (ih (f.setVpair _ x.1 x.2)).trans (Flock.setVpair_s ..)
@[simp] theorem Flock.writePairs_sEmpty (f : Flock) (r : Nat) (vals : List (Nat × Word64)) : (f.writePairs r vals).sEmpty = f.sEmpty := by
  induction vals generalizing f with
  | nil => rfl
  | cons x r ih => exact (ih (f.setVpair _ x.1 x.2)).trans (Flock.setVpair_sEmpty ..)
@[simp] theorem Flock.writePairs_sPoison (f : Flock) (r : Nat) (vals : List (Nat × Word64)) : (f.writePairs r vals).sPoison = f.sPoison := by
  induction vals generalizing f with
  | nil => rfl
  | cons x r ih => exact (ih (f.setVpair _ x.1 x.2)).trans (Flock.setVpair_sPoison ..)
@[simp] theorem Flock.writePairs_vEmpty (f : Flock) (r : Nat) (vals : List (Nat × Word64)) : (f.writePairs r vals).vEmpty = f.vEmpty := by
  induction vals generalizing f with
  | nil => rfl
  | cons x r ih => exact (ih (f.setVpair _ x.1 x.2)).trans (Flock.setVpair_vEmpty ..)
@[simp] theorem Flock.writePairs_q (f : Flock) (r : Nat) (vals : List (Nat × Word64)) : (f.writePairs r vals).q = f.q := by
  induction vals generalizing f with
  | nil => rfl
  | cons x r ih => exact (ih (f.setVpair _ x.1 x.2)).trans (Flock.setVpair_q ..)
@[simp] theorem Flock.writePairs_z (f : Flock) (r : Nat) (vals : List (Nat × Word64)) : (f.writePairs r vals).z = f.z := by
  induction vals generalizing f with
  | nil => rfl
  | cons x r ih => exact (ih (f.setVpair _ x.1 x.2)).trans (Flock.setVpair_z ..)
@[simp] theorem Flock.writePairs_spc (f : Flock) (r : Nat) (vals : List (Nat × Word64)) : (f.writePairs r vals).spc = f.spc := by
  induction vals generalizing f with
  | nil => rfl
  | cons x r ih => exact (ih (f.setVpair _ x.1 x.2)).trans (Flock.setVpair_spc ..)
@[simp] theorem Flock.writePairs_queue (f : Flock) (r : Nat) (vals : List (Nat × Word64)) : (f.writePairs r vals).queue = f.queue := by
  induction vals generalizing f with
  | nil => rfl
  | cons x r ih => exact (ih (f.setVpair _ x.1 x.2)).trans (Flock.setVpair_queue ..)
@[simp] theorem Flock.writePairs_active (f : Flock) (r : Nat) (vals : List (Nat × Word64)) : (f.writePairs r vals).active = f.active := by
  induction vals generalizing f with
  | nil => rfl
  | cons x r ih => exact (ih (f.setVpair _ x.1 x.2)).trans (Flock.setVpair_active ..)
@[simp] theorem Flock.writePairs_parked (f : Flock) (r : Nat) (vals : List (Nat × Word64)) : (f.writePairs r vals).parked = f.parked := by
  induction vals generalizing f with
  | nil => rfl
  | cons x r ih => exact (ih (f.setVpair _ x.1 x.2)).trans (Flock.setVpair_parked ..)
@[simp] theorem Flock.writePairs_killed (f : Flock) (r : Nat) (vals : List (Nat × Word64)) : (f.writePairs r vals).killed = f.killed := by
  induction vals generalizing f with
  | nil => rfl
  | cons x r ih => exact (ih (f.setVpair _ x.1 x.2)).trans (Flock.setVpair_killed ..)
@[simp] theorem Flock.writePairs_paths (f : Flock) (r : Nat) (vals : List (Nat × Word64)) : (f.writePairs r vals).paths = f.paths := by
  induction vals generalizing f with
  | nil => rfl
  | cons x r ih => exact (ih (f.setVpair _ x.1 x.2)).trans (Flock.setVpair_paths ..)
@[simp] theorem Flock.writePairs_entries (f : Flock) (r : Nat) (vals : List (Nat × Word64)) : (f.writePairs r vals).entries = f.entries := by
  induction vals generalizing f with
  | nil => rfl
  | cons x r ih => exact (ih (f.setVpair _ x.1 x.2)).trans (Flock.setVpair_entries ..)
@[simp] theorem Flock.writePairs_branches (f : Flock) (r : Nat) (vals : List (Nat × Word64)) : (f.writePairs r vals).branches = f.branches := by
  induction vals generalizing f with
  | nil => rfl
  | cons x r ih => exact (ih (f.setVpair _ x.1 x.2)).trans (Flock.setVpair_branches ..)
@[simp] theorem Flock.writePairs_nextId (f : Flock) (r : Nat) (vals : List (Nat × Word64)) : (f.writePairs r vals).nextId = f.nextId := by
  induction vals generalizing f with
  | nil => rfl
  | cons x r ih => exact (ih (f.setVpair _ x.1 x.2)).trans (Flock.setVpair_nextId ..)
@[simp] theorem Flock.writePairs_nextStream (f : Flock) (r : Nat) (vals : List (Nat × Word64)) : (f.writePairs r vals).nextStream = f.nextStream := by
  induction vals generalizing f with
  | nil => rfl
  | cons x r ih => exact (ih (f.setVpair _ x.1 x.2)).trans (Flock.setVpair_nextStream ..)
@[simp] theorem Flock.writePairs_ready (f : Flock) (r : Nat) (vals : List (Nat × Word64)) : (f.writePairs r vals).ready = f.ready := by
  induction vals generalizing f with
  | nil => rfl
  | cons x r ih => exact (ih (f.setVpair _ x.1 x.2)).trans (Flock.setVpair_ready ..)
@[simp] theorem Flock.writePairs_last (f : Flock) (r : Nat) (vals : List (Nat × Word64)) : (f.writePairs r vals).last = f.last := by
  induction vals generalizing f with
  | nil => rfl
  | cons x r ih => exact (ih (f.setVpair _ x.1 x.2)).trans (Flock.setVpair_last ..)
@[simp] theorem Flock.writePairs_primary (f : Flock) (r : Nat) (vals : List (Nat × Word64)) : (f.writePairs r vals).primary = f.primary := by
  induction vals generalizing f with
  | nil => rfl
  | cons x r ih => exact (ih (f.setVpair _ x.1 x.2)).trans (Flock.setVpair_primary ..)
@[simp] theorem Flock.writePairs_second (f : Flock) (r : Nat) (vals : List (Nat × Word64)) : (f.writePairs r vals).second = f.second := by
  induction vals generalizing f with
  | nil => rfl
  | cons x r ih => exact (ih (f.setVpair _ x.1 x.2)).trans (Flock.setVpair_second ..)
@[simp] theorem Flock.writePairs_fpmode (f : Flock) (r : Nat) (vals : List (Nat × Word64)) : (f.writePairs r vals).fpmode = f.fpmode := by
  induction vals generalizing f with
  | nil => rfl
  | cons x r ih => exact (ih (f.setVpair _ x.1 x.2)).trans (Flock.setVpair_fpmode ..)
@[simp] theorem Flock.writePairs_flags (f : Flock) (r : Nat) (vals : List (Nat × Word64)) : (f.writePairs r vals).flags = f.flags := by
  induction vals generalizing f with
  | nil => rfl
  | cons x r ih => exact (ih (f.setVpair _ x.1 x.2)).trans (Flock.setVpair_flags ..)
@[simp] theorem Flock.writePairs_tcause (f : Flock) (r : Nat) (vals : List (Nat × Word64)) : (f.writePairs r vals).tcause = f.tcause := by
  induction vals generalizing f with
  | nil => rfl
  | cons x r ih => exact (ih (f.setVpair _ x.1 x.2)).trans (Flock.setVpair_tcause ..)
@[simp] theorem Flock.writePairs_tpc (f : Flock) (r : Nat) (vals : List (Nat × Word64)) : (f.writePairs r vals).tpc = f.tpc := by
  induction vals generalizing f with
  | nil => rfl
  | cons x r ih => exact (ih (f.setVpair _ x.1 x.2)).trans (Flock.setVpair_tpc ..)
@[simp] theorem Flock.writePairs_taddr (f : Flock) (r : Nat) (vals : List (Nat × Word64)) : (f.writePairs r vals).taddr = f.taddr := by
  induction vals generalizing f with
  | nil => rfl
  | cons x r ih => exact (ih (f.setVpair _ x.1 x.2)).trans (Flock.setVpair_taddr ..)
@[simp] theorem Flock.writePairs_tinfo (f : Flock) (r : Nat) (vals : List (Nat × Word64)) : (f.writePairs r vals).tinfo = f.tinfo := by
  induction vals generalizing f with
  | nil => rfl
  | cons x r ih => exact (ih (f.setVpair _ x.1 x.2)).trans (Flock.setVpair_tinfo ..)
@[simp] theorem Flock.writePairs_tvec (f : Flock) (r : Nat) (vals : List (Nat × Word64)) : (f.writePairs r vals).tvec = f.tvec := by
  induction vals generalizing f with
  | nil => rfl
  | cons x r ih => exact (ih (f.setVpair _ x.1 x.2)).trans (Flock.setVpair_tvec ..)
@[simp] theorem Flock.writePairs_tret (f : Flock) (r : Nat) (vals : List (Nat × Word64)) : (f.writePairs r vals).tret = f.tret := by
  induction vals generalizing f with
  | nil => rfl
  | cons x r ih => exact (ih (f.setVpair _ x.1 x.2)).trans (Flock.setVpair_tret ..)
@[simp] theorem Flock.writePairs_tscr0 (f : Flock) (r : Nat) (vals : List (Nat × Word64)) : (f.writePairs r vals).tscr0 = f.tscr0 := by
  induction vals generalizing f with
  | nil => rfl
  | cons x r ih => exact (ih (f.setVpair _ x.1 x.2)).trans (Flock.setVpair_tscr0 ..)
@[simp] theorem Flock.writePairs_tscr1 (f : Flock) (r : Nat) (vals : List (Nat × Word64)) : (f.writePairs r vals).tscr1 = f.tscr1 := by
  induction vals generalizing f with
  | nil => rfl
  | cons x r ih => exact (ih (f.setVpair _ x.1 x.2)).trans (Flock.setVpair_tscr1 ..)
@[simp] theorem Flock.writePairs_ops (f : Flock) (r : Nat) (vals : List (Nat × Word64)) : (f.writePairs r vals).ops = f.ops := by
  induction vals generalizing f with
  | nil => rfl
  | cons x r ih => exact (ih (f.setVpair _ x.1 x.2)).trans (Flock.setVpair_ops ..)
@[simp] theorem Flock.writePairs_bar (f : Flock) (r : Nat) (vals : List (Nat × Word64)) : (f.writePairs r vals).bar = f.bar := by
  induction vals generalizing f with
  | nil => rfl
  | cons x r ih => exact (ih (f.setVpair _ x.1 x.2)).trans (Flock.setVpair_bar ..)
@[simp] theorem Flock.writePairs_point (f : Flock) (r : Nat) (vals : List (Nat × Word64)) : (f.writePairs r vals).point = f.point := by
  induction vals generalizing f with
  | nil => rfl
  | cons x r ih => exact (ih (f.setVpair _ x.1 x.2)).trans (Flock.setVpair_point ..)
@[simp] theorem Flock.writePairs_site (f : Flock) (r : Nat) (vals : List (Nat × Word64)) : (f.writePairs r vals).site = f.site := by
  induction vals generalizing f with
  | nil => rfl
  | cons x r ih => exact (ih (f.setVpair _ x.1 x.2)).trans (Flock.setVpair_site ..)
@[simp] theorem Flock.writePairs_claims (f : Flock) (r : Nat) (vals : List (Nat × Word64)) : (f.writePairs r vals).claims = f.claims := by
  induction vals generalizing f with
  | nil => rfl
  | cons x r ih => exact (ih (f.setVpair _ x.1 x.2)).trans (Flock.setVpair_claims ..)
@[simp] theorem Flock.writePairs_haltSpc (f : Flock) (r : Nat) (vals : List (Nat × Word64)) : (f.writePairs r vals).haltSpc = f.haltSpc := by
  induction vals generalizing f with
  | nil => rfl
  | cons x r ih => exact (ih (f.setVpair _ x.1 x.2)).trans (Flock.setVpair_haltSpc ..)
@[simp] theorem Flock.writePairs_block1 (f : Flock) (r : Nat) (vals : List (Nat × Word64)) : (f.writePairs r vals).block1 = f.block1 := by
  induction vals generalizing f with
  | nil => rfl
  | cons x r ih => exact (ih (f.setVpair _ x.1 x.2)).trans (Flock.setVpair_block1 ..)
@[simp] theorem Flock.writePairs_call (f : Flock) (r : Nat) (vals : List (Nat × Word64)) : (f.writePairs r vals).call = f.call := by
  induction vals generalizing f with
  | nil => rfl
  | cons x r ih => exact (ih (f.setVpair _ x.1 x.2)).trans (Flock.setVpair_call ..)
@[simp] theorem Flock.writePairs_kflock (f : Flock) (r : Nat) (vals : List (Nat × Word64)) : (f.writePairs r vals).kflock = f.kflock := by
  induction vals generalizing f with
  | nil => rfl
  | cons x r ih => exact (ih (f.setVpair _ x.1 x.2)).trans (Flock.setVpair_kflock ..)
@[simp] theorem Flock.writePairs_orderedAfter (f : Flock) (r : Nat) (vals : List (Nat × Word64)) : (f.writePairs r vals).orderedAfter = f.orderedAfter := by
  induction vals generalizing f with
  | nil => rfl
  | cons x r ih => exact (ih (f.setVpair _ x.1 x.2)).trans (Flock.setVpair_orderedAfter ..)
@[simp] theorem Flock.writePairs_sentAfter (f : Flock) (r : Nat) (vals : List (Nat × Word64)) : (f.writePairs r vals).sentAfter = f.sentAfter := by
  induction vals generalizing f with
  | nil => rfl
  | cons x r ih => exact (ih (f.setVpair _ x.1 x.2)).trans (Flock.setVpair_sentAfter ..)
@[simp] theorem Flock.writePairs_poisonAddr (f : Flock) (r : Nat) (vals : List (Nat × Word64)) : (f.writePairs r vals).poisonAddr = f.poisonAddr := by
  induction vals generalizing f with
  | nil => rfl
  | cons x r ih => exact (ih (f.setVpair _ x.1 x.2)).trans (Flock.setVpair_poisonAddr ..)
@[simp] theorem Flock.writePairs_poisonKind (f : Flock) (r : Nat) (vals : List (Nat × Word64)) : (f.writePairs r vals).poisonKind = f.poisonKind := by
  induction vals generalizing f with
  | nil => rfl
  | cons x r ih => exact (ih (f.setVpair _ x.1 x.2)).trans (Flock.setVpair_poisonKind ..)
@[simp] theorem Flock.writePairs_sBorn (f : Flock) (r : Nat) (vals : List (Nat × Word64)) : (f.writePairs r vals).sBorn = f.sBorn := by
  induction vals generalizing f with
  | nil => rfl
  | cons x r ih => exact (ih (f.setVpair _ x.1 x.2)).trans (Flock.setVpair_sBorn ..)
@[simp] theorem Flock.writePairs_vBorn (f : Flock) (r : Nat) (vals : List (Nat × Word64)) : (f.writePairs r vals).vBorn = f.vBorn := by
  induction vals generalizing f with
  | nil => rfl
  | cons x r ih => exact (ih (f.setVpair _ x.1 x.2)).trans (Flock.setVpair_vBorn ..)
@[simp] theorem Flock.writePairs_recipe (f : Flock) (r : Nat) (vals : List (Nat × Word64)) : (f.writePairs r vals).recipe = f.recipe := by
  induction vals generalizing f with
  | nil => rfl
  | cons x r ih => exact (ih (f.setVpair _ x.1 x.2)).trans (Flock.setVpair_recipe ..)

/-! ## `Herd.writeSpad` -/

@[simp] theorem Herd.writeSpad_uid (h : Herd) (o : Nat) (bs : List Byte) : (h.writeSpad o bs).uid = h.uid := rfl
@[simp] theorem Herd.writeSpad_region (h : Herd) (o : Nat) (bs : List Byte) : (h.writeSpad o bs).region = h.region := rfl
@[simp] theorem Herd.writeSpad_session (h : Herd) (o : Nat) (bs : List Byte) : (h.writeSpad o bs).session = h.session := rfl
@[simp] theorem Herd.writeSpad_herdid (h : Herd) (o : Nat) (bs : List Byte) : (h.writeSpad o bs).herdid = h.herdid := rfl
@[simp] theorem Herd.writeSpad_core (h : Herd) (o : Nat) (bs : List Byte) : (h.writeSpad o bs).core = h.core := rfl
@[simp] theorem Herd.writeSpad_seat (h : Herd) (o : Nat) (bs : List Byte) : (h.writeSpad o bs).seat = h.seat := rfl
@[simp] theorem Herd.writeSpad_gang (h : Herd) (o : Nat) (bs : List Byte) : (h.writeSpad o bs).gang = h.gang := rfl
@[simp] theorem Herd.writeSpad_status (h : Herd) (o : Nat) (bs : List Byte) : (h.writeSpad o bs).status = h.status := rfl
@[simp] theorem Herd.writeSpad_abort (h : Herd) (o : Nat) (bs : List Byte) : (h.writeSpad o bs).abort = h.abort := rfl
@[simp] theorem Herd.writeSpad_haltAt (h : Herd) (o : Nat) (bs : List Byte) : (h.writeSpad o bs).haltAt = h.haltAt := rfl
@[simp] theorem Herd.writeSpad_spadSize (h : Herd) (o : Nat) (bs : List Byte) : (h.writeSpad o bs).spadSize = h.spadSize := rfl
@[simp] theorem Herd.writeSpad_opbSize (h : Herd) (o : Nat) (bs : List Byte) : (h.writeSpad o bs).opbSize = h.opbSize := rfl
@[simp] theorem Herd.writeSpad_opbAt (h : Herd) (o : Nat) (bs : List Byte) : (h.writeSpad o bs).opbAt = h.opbAt := rfl
@[simp] theorem Herd.writeSpad_opb (h : Herd) (o : Nat) (bs : List Byte) : (h.writeSpad o bs).opb = h.opb := rfl
@[simp] theorem Herd.writeSpad_opbPoison (h : Herd) (o : Nat) (bs : List Byte) : (h.writeSpad o bs).opbPoison = h.opbPoison := rfl
@[simp] theorem Herd.writeSpad_rsv (h : Herd) (o : Nat) (bs : List Byte) : (h.writeSpad o bs).rsv = h.rsv := rfl
@[simp] theorem Herd.writeSpad_ctxPhys (h : Herd) (o : Nat) (bs : List Byte) : (h.writeSpad o bs).ctxPhys = h.ctxPhys := rfl
@[simp] theorem Herd.writeSpad_ctxs (h : Herd) (o : Nat) (bs : List Byte) : (h.writeSpad o bs).ctxs = h.ctxs := rfl
@[simp] theorem Herd.writeSpad_calls (h : Herd) (o : Nat) (bs : List Byte) : (h.writeSpad o bs).calls = h.calls := rfl
@[simp] theorem Herd.writeSpad_charged (h : Herd) (o : Nat) (bs : List Byte) : (h.writeSpad o bs).charged = h.charged := rfl
@[simp] theorem Herd.writeSpad_savedAt (h : Herd) (o : Nat) (bs : List Byte) : (h.writeSpad o bs).savedAt = h.savedAt := rfl

/-! ## `Herd.setObj` -/

@[simp] theorem Herd.setObj_uid (h : Herd) (o lo n v : Nat) : (h.setObj o lo n v).uid = h.uid := rfl
@[simp] theorem Herd.setObj_region (h : Herd) (o lo n v : Nat) : (h.setObj o lo n v).region = h.region := rfl
@[simp] theorem Herd.setObj_session (h : Herd) (o lo n v : Nat) : (h.setObj o lo n v).session = h.session := rfl
@[simp] theorem Herd.setObj_herdid (h : Herd) (o lo n v : Nat) : (h.setObj o lo n v).herdid = h.herdid := rfl
@[simp] theorem Herd.setObj_core (h : Herd) (o lo n v : Nat) : (h.setObj o lo n v).core = h.core := rfl
@[simp] theorem Herd.setObj_seat (h : Herd) (o lo n v : Nat) : (h.setObj o lo n v).seat = h.seat := rfl
@[simp] theorem Herd.setObj_gang (h : Herd) (o lo n v : Nat) : (h.setObj o lo n v).gang = h.gang := rfl
@[simp] theorem Herd.setObj_status (h : Herd) (o lo n v : Nat) : (h.setObj o lo n v).status = h.status := rfl
@[simp] theorem Herd.setObj_abort (h : Herd) (o lo n v : Nat) : (h.setObj o lo n v).abort = h.abort := rfl
@[simp] theorem Herd.setObj_haltAt (h : Herd) (o lo n v : Nat) : (h.setObj o lo n v).haltAt = h.haltAt := rfl
@[simp] theorem Herd.setObj_spadSize (h : Herd) (o lo n v : Nat) : (h.setObj o lo n v).spadSize = h.spadSize := rfl
@[simp] theorem Herd.setObj_spadPoison (h : Herd) (o lo n v : Nat) : (h.setObj o lo n v).spadPoison = h.spadPoison := rfl
@[simp] theorem Herd.setObj_opbSize (h : Herd) (o lo n v : Nat) : (h.setObj o lo n v).opbSize = h.opbSize := rfl
@[simp] theorem Herd.setObj_opbAt (h : Herd) (o lo n v : Nat) : (h.setObj o lo n v).opbAt = h.opbAt := rfl
@[simp] theorem Herd.setObj_opb (h : Herd) (o lo n v : Nat) : (h.setObj o lo n v).opb = h.opb := rfl
@[simp] theorem Herd.setObj_opbPoison (h : Herd) (o lo n v : Nat) : (h.setObj o lo n v).opbPoison = h.opbPoison := rfl
@[simp] theorem Herd.setObj_rsv (h : Herd) (o lo n v : Nat) : (h.setObj o lo n v).rsv = h.rsv := rfl
@[simp] theorem Herd.setObj_ctxPhys (h : Herd) (o lo n v : Nat) : (h.setObj o lo n v).ctxPhys = h.ctxPhys := rfl
@[simp] theorem Herd.setObj_ctxs (h : Herd) (o lo n v : Nat) : (h.setObj o lo n v).ctxs = h.ctxs := rfl
@[simp] theorem Herd.setObj_calls (h : Herd) (o lo n v : Nat) : (h.setObj o lo n v).calls = h.calls := rfl
@[simp] theorem Herd.setObj_charged (h : Herd) (o lo n v : Nat) : (h.setObj o lo n v).charged = h.charged := rfl
@[simp] theorem Herd.setObj_savedAt (h : Herd) (o lo n v : Nat) : (h.setObj o lo n v).savedAt = h.savedAt := rfl

end Sys2Proof.Machine
end

