-- ==== Sys2Proof/Laws/Tables.lean ====
section
/-!
SUPPORT. Memory that lists nothing in a range, and the page tables that lie in such a range but for their first entry: what reading,
walking and copying them gives.
-/
namespace Sys2Proof.Machine

/-- A byte that memory does not list reads as zero. -/
theorem Memory.byte_absent {m : List Host.Cell} {a : Nat} (h : ∀ c ∈ m, c.1 ≠ a) : Memory.byte m a = 0 := by
  induction m with
  | nil => rfl
  | cons c r ih =>
    obtain ⟨j, v⟩ := c
    have h1 : j ≠ a := h (j, v) (by simp)
    show (if j = a then v else SMap.get r memDefault a) = 0
    rw [if_neg h1]
    exact ih fun c hc => h c (by simp [hc])

/-- Bytes of zeros are the number zero. -/
theorem ofBytes_zero (n : Nat) : ofBytes (List.replicate n 0) = 0 := by
  induction n with
  | zero => rfl
  | succ n ih => simp only [List.replicate_succ, ofBytes, ih]; rfl

/-- Bytes that memory does not list read as the number zero. -/
theorem Memory.read_absent {m : List Host.Cell} {a n : Nat} (h : ∀ c ∈ m, c.1 < a ∨ a + n ≤ c.1) : Memory.read m a n = 0 := by
  have e : Memory.bytes m a n = List.replicate n 0 := by
    unfold Memory.bytes
    apply List.eq_replicate_iff.2
    refine ⟨by simp, fun b hb => ?_⟩
    obtain ⟨i, hi, rfl⟩ := List.mem_map.1 hb
    refine Memory.byte_absent fun c hc => ?_
    have := h c hc
    have := List.mem_range.1 hi
    omega
  rw [Memory.read, e, ofBytes_zero]

/-- What hardware reads in memory that holds no ciphertext. -/
theorem State.clearNum_bare {s : State} (hm : s.memKeys = []) (a n : Nat) : s.clearNum a n = Memory.read s.mem a n := by
  unfold State.clearNum State.clearBytes
  rw [hm]
  rfl

/-- The entries of a table with a first entry alone. -/
theorem State.tableEntries_lone {s : State} {t e : Nat} (h : (s.mem.all fun c => Nat.blt c.1 (t + 16) || Nat.ble (t + 8192) c.1) = true)
    (g : (!inModule t || !(s.die (homeDie t)).live || s.memPoisoned t 8192) = false) (he : Memory.read s.mem t 16 = e)
    (hm : s.memKeys = []) : s.tableEntries t = some (e :: List.replicate 511 0) := by
  have hz : ∀ i, i < 511 → Memory.read s.mem (t + 16 * (i + 1)) 16 = 0 := fun i hi => Memory.read_absent fun c hc => by
    have := List.all_eq_true.1 h c hc
    simp only [Bool.or_eq_true, Nat.blt_eq, Nat.ble_eq] at this
    omega
  unfold State.tableEntries
  rw [g]
  simp only [Bool.false_eq_true, if_false, Option.some.injEq]
  rw [show List.range 512 = 0 :: (List.range 511).map (· + 1) from by rw [List.range_succ_eq_map]]
  simp only [State.clearNum_bare hm, List.map_cons, List.map_map, Nat.mul_zero, Nat.add_zero, he, List.cons.injEq, true_and]
  apply List.eq_replicate_iff.2
  refine ⟨by simp, fun b hb => ?_⟩
  obtain ⟨i, hi, rfl⟩ := List.mem_map.1 hb
  exact hz i (List.mem_range.1 hi)

/-- A fold whose every step leaves its value alone. -/
theorem foldl_fixed {α β : Type} {f : α → β → α} {x : α} {l : List β} (h : ∀ y ∈ l, f x y = x) : l.foldl f x = x := by
  induction l with
  | nil => rfl
  | cons y r ih =>
    rw [List.foldl_cons, h y (by simp)]
    exact ih fun z hz => h z (by simp [hz])

/-- A numbered member of a list of zeros is zero. -/
theorem zipIdx_zero {n k : Nat} {y : Nat × Nat} (h : y ∈ (List.replicate n 0).zipIdx k) : y.1 = 0 := by
  obtain ⟨a, b⟩ := y
  exact List.eq_of_mem_replicate (List.fst_mem_of_mem_zipIdx h)

/-- The tree of a lowest table with one present entry. -/
theorem State.tableTree_leaf {s : State} {frame va e : Nat} (h : s.tableEntries (frame * 4096) = some (e :: List.replicate 511 0)) (p : pteBit e 106 = true) :
    s.tableTree 0 frame va = some ([frame], [(va, e)]) := by
  unfold State.tableTree
  rw [h]
  simp only [List.zipIdx_cons, List.filter_cons, p, if_true, List.map_cons]
  rw [List.filter_eq_nil_iff.2 fun y hy => by rw [zipIdx_zero hy]; decide]
  simp

/-- The tree of a table with one pointer. -/
theorem State.tableTree_node {s : State} {l frame va e : Nat} {fs : List Nat} {ls : List (Nat × Nat)}
    (h : s.tableEntries (frame * 4096) = some (e :: List.replicate 511 0)) (p : isPointer (l + 1) e = true)
    (r : s.tableTree l (pteFrame e) va = some (fs, ls)) : s.tableTree (l + 1) frame va = some (frame :: fs, ls) := by
  unfold State.tableTree
  rw [h]
  simp only [List.zipIdx_cons, List.foldl_cons, p, if_true, Nat.zero_mul, Nat.add_zero, r]
  rw [foldl_fixed]
  · simp
  · intro y hy
    simp [zipIdx_zero hy, isPointer, pteBit, bitsAt]

/-- The tree of an empty table. -/
theorem State.tableTree_empty {s : State} {l frame va : Nat} (h : s.tableEntries (frame * 4096) = some (0 :: List.replicate 511 0)) :
    s.tableTree (l + 1) frame va = some ([frame], []) := by
  unfold State.tableTree
  rw [h]
  exact foldl_fixed fun y hy => by
    have : y.1 = 0 := by
      rw [List.zipIdx_cons, List.mem_cons] at hy
      rcases hy with rfl | hy
      · rfl
      · exact zipIdx_zero hy
    simp [this, isPointer, pteBit, bitsAt]

/-- Entries of zero copied one by one. -/
theorem foldl_copies_zero {go : State → Nat → Option (State × Nat)} (h : ∀ s, go s 0 = some (s, 0)) (n : Nat) (s : State) (es : List Nat) :
    (List.replicate n 0).foldl (fun (x : Option (State × List Nat)) e => match x with
      | none => none
      | some (s, es) => (go s e).map fun (s, e) => (s, es ++ [e])) (some (s, es)) = some (s, es ++ List.replicate n 0) := by
  induction n generalizing es with
  | zero => simp
  | succ n ih =>
    rw [List.replicate_succ, List.foldl_cons]
    simp only [h, Option.map_some]
    exact (ih _).trans (by simp)

/-- An empty table copied: a new table of zeros, and the lines that carry it. -/
theorem State.copyTables_empty {s t : State} {session agent pool stop l frame new : Nat} {leaf : State → Nat → Option (State × Nat)}
    (h : s.tableEntries (frame * 4096) = some (0 :: List.replicate 511 0)) (p : s.poolTake pool = some (t, new)) (hl : ∀ s, leaf s 0 = some (s, 0)) :
    s.copyTables session agent pool stop leaf (l + 1) frame =
      some ((t.writeTable new (0 :: List.replicate 511 0)).shipLines session agent (homeDie (frame * 4096)) (homeDie (new * 4096)) 8192, new) := by
  obtain ⟨n, hn⟩ : ∃ n, (0 :: List.replicate 511 0 : List Nat) = List.replicate n 0 := ⟨512, rfl⟩
  rw [hn] at h ⊢
  unfold State.copyTables
  simp only [h, p]
  split
  · exact congrArg (Option.map _) (foldl_copies_zero hl n t [])
  · exact congrArg (Option.map _) (foldl_copies_zero (go := fun s e =>
      if isPointer (l + 1) e then
        (s.copyTables session agent pool stop leaf l (pteFrame e)).map fun (s, f) => (s, withBits e 0 40 f) else leaf s e)
      (fun s => by simp [isPointer, pteBit, bitsAt, hl]) n t [])

/-- A key that a map does not list, erased. -/
theorem SMap.erase_absent {m : List Host.Cell} {a : Nat} (h : ∀ c ∈ m, c.1 ≠ a) : SMap.erase m a = m := by
  induction m with
  | nil => rfl
  | cons c r ih =>
    obtain ⟨j, v⟩ := c
    have h1 : j ≠ a := h (j, v) (by simp)
    show (if j = a then SMap.erase r a else (j, v) :: SMap.erase r a) = _
    rw [if_neg h1, ih fun c hc => h c (by simp [hc])]

/-- Zeros written where memory lists nothing. -/
theorem Memory.write_absent {m : List Host.Cell} {a n : Nat} (h : ∀ c ∈ m, c.1 < a ∨ a + n ≤ c.1) : Memory.write m a (List.replicate n 0) = m := by
  induction n generalizing a with
  | zero => rfl
  | succ n ih =>
    rw [List.replicate_succ]
    show Memory.write (SMap.erase m a) (a + 1) _ = m
    rw [SMap.erase_absent fun c hc => by have := h c hc; omega]
    exact ih fun c hc => by have := h c hc; omega

/-- The bytes of entries of zero. -/
theorem flatMap_bytesOf_zero (n : Nat) : (List.replicate n 0).flatMap (bytesOf 16) = List.replicate (16 * n) 0 := by
  induction n with
  | zero => rfl
  | succ n ih =>
    rw [List.replicate_succ, List.flatMap_cons, ih, show 16 * (n + 1) = 16 + 16 * n by omega, ← List.replicate_append_replicate]
    rfl

/-- No key is taken from units that have none. -/
theorem setKeys_none (n a : Nat) : (List.range n).foldl (fun m i => setKey m (a + i) none) ([] : SMap (BitVec 512)) = [] := by
  generalize List.range n = l
  induction l with
  | nil => rfl
  | cons x l ih => exact ih

/-- A table of zeros written where memory lists nothing, no unit is keyed, and no cache holds a line of it. -/
theorem State.writeTable_absent {t : State} {new : Nat} (h : (t.mem.all fun c => Nat.blt c.1 (new * 4096) || Nat.ble (new * 4096 + 8192) c.1) = true)
    (hd : ((t.dropXbar (new * 4096) 8192).dropStale (new * 4096) 8192).clearPoison (new * 4096) 8192 = t) (hm : t.memKeys = []) :
    t.writeTable new (0 :: List.replicate 511 0) = t := by
  obtain ⟨n, hn, hk⟩ : ∃ n, (0 :: List.replicate 511 0 : List Nat) = List.replicate n 0 ∧ 16 * n = 8192 := ⟨512, rfl, rfl⟩
  unfold State.writeTable State.putUnits
  rw [hn, flatMap_bytesOf_zero, hk]
  simp only [List.length_replicate, hd, hm, setKeys_none]
  rw [Memory.write_absent fun c hc => ?_]
  · clear hd h; cases t; cases hm; rfl
  have := List.all_eq_true.1 h c hc
  simpa only [Bool.or_eq_true, Nat.blt_eq, Nat.ble_eq] using this

/-- An element put back where it stood. -/
theorem setNth_same {α : Type} {l : List α} {i : Nat} {d x : α} (h : i < l.length → x = l.getD i d) : setNth l i x = l := by
  induction l generalizing i with
  | nil => rfl
  | cons y l ih =>
    cases i with
    | zero => simp [setNth, h (Nat.zero_lt_succ _)]
    | succ i => exact congrArg _ (ih fun hi => h (Nat.succ_lt_succ hi))

/-- The caches of a module hold nothing, and no granule is poisoned. -/
def State.cold (s : State) : Bool :=
  s.memPoison.isEmpty && (s.dies.all fun d => d.xbar.isEmpty && d.snoop.isEmpty && d.rdc.isEmpty) &&
    s.cores.all fun x => x.2.l1.isEmpty && x.2.decoders.isEmpty

/-- Nothing is dropped from caches that hold nothing. -/
theorem State.cold_drops {s : State} (h : s.cold = true) (pa n : Nat) : ((s.dropXbar pa n).dropStale pa n).clearPoison pa n = s := by
  simp only [State.cold, Bool.and_eq_true, List.isEmpty_iff, List.all_eq_true] at h
  obtain ⟨⟨hp, hd⟩, hc⟩ := h
  have hx : s.dropXbar pa n = s := by
    have : (s.die (homeDie pa)).xbar = [] ∧ (s.die (homeDie pa)).snoop = [] := by
      unfold State.die
      rw [List.getD_eq_getElem?_getD]
      cases hg : s.dies[homeDie pa]? with
      | none => exact ⟨rfl, rfl⟩
      | some d => exact ⟨(hd d (List.mem_of_getElem? hg)).1.1, (hd d (List.mem_of_getElem? hg)).1.2⟩
    have same : (fun d : Die => { d with
        xbar := d.xbar.filter (fun x => x.2 + 256 ≤ pa || pa + n ≤ x.2), snoop := d.snoop.filter fun y => y + 256 ≤ pa || pa + n ≤ y })
          (s.die (homeDie pa)) = s.die (homeDie pa) := by
      generalize s.die (homeDie pa) = d at this
      obtain ⟨h1, h2⟩ := this
      cases d; cases h1; cases h2; rfl
    exact (congrArg (s.setDie (homeDie pa)) same).trans
      (congrArg (fun l => { s with dies := l }) (setNth_same (d := Die.reset (homeDie pa)) fun _ => rfl))
  rw [hx]
  have hk : s.cores.map (fun x => (x.1, { x.2 with
      l1 := x.2.l1.filter (fun y => y.pa + 64 ≤ pa || pa + n ≤ y.pa)
      decoders := x.2.decoders.filter fun y => y.pa + y.bytes.length ≤ pa || pa + n ≤ y.pa })) = s.cores := by
    refine (List.map_congr_left fun x hx => ?_).trans (List.map_id _)
    obtain ⟨c, k⟩ := x
    obtain ⟨h1, h2⟩ := hc _ hx
    cases k; cases h1; cases h2; rfl
  have hr : s.dies.map (fun d => { d with rdc := d.rdc.filter fun x => x.pa + 256 ≤ pa || pa + n ≤ x.pa }) = s.dies := by
    refine (List.map_congr_left fun d hx => ?_).trans (List.map_id _)
    have := (hd _ hx).2
    cases d; cases this; rfl
  unfold State.dropStale State.mapCores State.mapDies State.clearPoison
  simp only [hk, hr, hp, List.filter_nil]
  cases s; cases hp; rfl

end Sys2Proof.Machine
end

