-- ==== Sys2Proof/Tests/Slice0.lean ====
section
/-!
SUPPORT. Tests: ill-formed terms that the checks refuse, a word of every constructor that has one, written out from the manual's encoding
tables (R162 to R176), and for each statement with hypotheses a concrete state and operands that meet them.
-/
namespace Sys2Proof.Tests

set_option Elab.async false

/-- A lane word with every field zero but PRED, which names no predicate. -/
def all : LaneWord := ⟨0, 15, false, 0, 0, 0, 0, 0, 0, 0, 0, false, 0, 0⟩

/-- A scalar word decodes to an instruction. -/
abbrev scalar (w : Nat) (i : Instr) : Prop := decodeTableWord 32 w = some i

/-- A lane word decodes to an instruction. -/
abbrev lane (w : Nat) (i : Instr) : Prop := decodeTableWord 96 w = some i

/-! ## Ill-formed terms, one for each check (R157, R163 to R176, R437 to R439) -/

/-- The scalar checks: NEG with z7, `s.cmpi` without `.leu` and `.gtu`, an ordered atomic at flock scope, `s.bar.arrive` with z7. -/
theorem test_ill_formed_scalar :
    wellFormed (.sSel 1 2 3 7 true) = false ∧ wellFormed (.sB 7 true 0) = false ∧ wellFormed (.sCall 7 true 0) = false ∧
    wellFormed (.sCmpi 0 .leu 1 0) = false ∧ wellFormed (.sCmpi 0 .gtu 1 0) = false ∧ wellFormed (.sAtomW .add (.acq .fl) 1 2 3) = false ∧
    wellFormed (.sAtomD .add (.rel .fl) 1 2 3) = false ∧ wellFormed (.sAtomD .add (.ar .fl) 1 2 3) = false ∧
    wellFormed (.sBarArrive 7 1) = false := by decide

/-- The fields that every lane form checks: SUB, NEG with q15, PRED of a form without one, DEST, a q destination, source codes, modifiers,
policy bits, RND and IMM. -/
theorem test_ill_formed_lane_fields :
    wellFormed (.vAnd { all with sub := 8 }) = false ∧ wellFormed (.vAdd { all with neg := true }) = false ∧
    wellFormed (.vNop all) = false ∧ wellFormed (.vRetRg { all with pred := 3 }) = false ∧ wellFormed (.vBrk { all with dest := 1 }) = false ∧
    wellFormed (.vCmp { all with dest := 16 }) = false ∧ wellFormed (.vMovi { all with sa := 1 }) = false ∧
    wellFormed (.vNot { all with sb := 1 }) = false ∧ wellFormed (.vAdd { all with sc := 1 }) = false ∧
    wellFormed (.vAdd { all with moda := 6 }) = false ∧ wellFormed (.vLd { all with modb := 1 }) = false ∧
    wellFormed (.vAdd { all with modc := 1 }) = false ∧ wellFormed (.vMovi { all with fep := 1 }) = false ∧
    wellFormed (.vNot { all with fep := 2 }) = false ∧ wellFormed (.vAdd { all with fep := 4 }) = false ∧
    wellFormed (.vAdd { all with rnd := 1 }) = false ∧ wellFormed (.vAdd { all with imm := 1 }) = false ∧
    wellFormed (.vAdd { all with modb := 5, imm := 0x10001 }) = false := by decide

/-- The forms' own checks: conditions, the predicate of `v.sel`, formats and positions of conversions, segments, order and operation codes. -/
theorem test_ill_formed_lane_codes :
    wellFormed (.vCmp { all with imm := 0x06000000 }) = false ∧ wellFormed (.vFcmp { all with imm := 0x08000000 }) = false ∧
    wellFormed (.vSel { all with imm := 0x0F000000 }) = false ∧ wellFormed (.vCvt { all with imm := 0x33000000 }) = false ∧
    wellFormed (.vCvt { all with imm := 0x11000000 }) = false ∧ wellFormed (.vCvt { all with rnd := 1, imm := 0x8C000000 }) = false ∧
    wellFormed (.vCvtN { all with sub := 1, imm := 0x01000000 }) = false ∧ wellFormed (.vCvtW { all with sub := 2, imm := 0x10000000 }) = false ∧
    wellFormed (.vCvtEf { all with sub := 4, imm := 0x03000000 }) = false ∧ wellFormed (.vBfpPack { all with sub := 14, imm := 0x07000000 }) = false ∧
    wellFormed (.vBfpUnpack { all with sub := 1, imm := 0x70000000 }) = false ∧ wellFormed (.vPack { all with sub := 1, imm := 0xCA000000 }) = false ∧
    wellFormed (.vUnpack { all with sub := 2, imm := 0xAC000000 }) = false ∧ wellFormed (.vShflIdx { all with imm := 11 }) = false ∧
    wellFormed (.vLd { all with imm := 0x01000000 }) = false ∧ wellFormed (.vLdAcq { all with sub := 4, imm := 0x01000000 }) = false ∧
    wellFormed (.vStRel { all with imm := 0x05000000 }) = false ∧ wellFormed (.vAtom { all with sub := 2, imm := 0xA0000000 }) = false ∧
    wellFormed (.vAred { all with sub := 2, imm := 0x80000000 }) = false := by decide

/-- The checks of the matrix and graphics forms, and of `v.br`. -/
theorem test_ill_formed_lane_units :
    wellFormed (.vBr { all with sc := 4 }) = false ∧ wellFormed (.vMxMmaRf { all with imm := 0 }) = false ∧
    wellFormed (.vMxMmaOpb { all with imm := 0x21 }) = false ∧ wellFormed (.vTravRay { all with sb := 193 }) = false ∧
    wellFormed (.vTexSmp { all with rnd := 1 }) = false ∧ wellFormed (.vVoteAll { all with dest := 15 }) = true := by decide

/-- A reserved major, function, scope, size of a fence, or unused field decodes to nothing in the scalar section (R163, R165, R166). -/
theorem test_reserved_scalar_words :
    decodeTableWord 32 0x00000000 = none ∧ decodeTableWord 32 0x0000000D = none ∧ decodeTableWord 32 0x09000001 = none ∧
    decodeTableWord 32 0x28040001 = none ∧ decodeTableWord 32 0x00180018 = none ∧ decodeTableWord 32 0x0000001E = none ∧
    decodeTableWord 32 0x0A00001C = none ∧ decodeTableWord 32 0x0A000003 = none ∧ decodeTableWord 32 0x06000200 = none ∧
    decodeTableWord 32 0x00000071 = none ∧ decodeTableWord 32 0x04000031 = none ∧ decodeTableWord 32 0x0400002A = none ∧
    decodeTableWord 32 0x0600002B = none ∧ decodeTableWord 32 0x0800002C = none ∧ decodeTableWord 32 0x0400002D = none ∧
    decodeTableWord 32 0x4000002E = none ∧ decodeTableWord 32 0x0000003F = none := by decide

/-- A reserved major or SUB decodes to nothing in the lane section (R176). -/
theorem test_reserved_lane_words :
    decodeTableWord 96 0x000F000 = none ∧ decodeTableWord 96 0xF006 = none ∧ decodeTableWord 96 0xF0C0 = none ∧ decodeTableWord 96 0xF0FF = none ∧
    decodeTableWord 96 0x0201 = none ∧ decodeTableWord 96 0xF462 = none ∧ decodeTableWord 96 0xF4B0 = none ∧ decodeTableWord 96 0xF460 = none ∧
    decodeTableWord 96 0xF345 = none := by decide

/-! ## Words (R162 to R176) -/

theorem test_words_scalar_integer_1 :
    scalar 0x0017F041 (.sAdd 1 63 5) ∧
    scalar 0x011FE081 (.sSub 2 62 7) ∧
    scalar 0x0227D0C1 (.sMul 3 61 9) ∧
    scalar 0x032FC101 (.sMulh 4 60 11) ∧
    scalar 0x0437B141 (.sMulhu 5 59 13) ∧
    scalar 0x053FA181 (.sDiv 6 58 15) ∧
    scalar 0x064791C1 (.sDivu 7 57 17) ∧
    scalar 0x074F8201 (.sRem 8 56 19) ∧
    scalar 0x08577241 (.sRemu 9 55 21) ∧
    scalar 0x105F6281 (.sAnd 10 54 23) ∧
    scalar 0x116752C1 (.sOr 11 53 25) ∧
    scalar 0x126F4301 (.sXor 12 52 27) := by decide

theorem test_words_scalar_integer_2 :
    scalar 0x18773341 (.sShl 13 51 29) ∧
    scalar 0x197F2381 (.sShr 14 50 31) ∧
    scalar 0x1A8713C1 (.sSra 15 49 33) ∧
    scalar 0x208F0401 (.sMin 16 48 35) ∧
    scalar 0x2196F441 (.sMinu 17 47 37) ∧
    scalar 0x229EE481 (.sMax 18 46 39) ∧
    scalar 0x23A6D4C1 (.sMaxu 19 45 41) ∧
    scalar 0x30AEC501 (.sBitint 20 44 43) ∧
    scalar 0x28021F81 (.sClz 62 33) ∧
    scalar 0x29021F81 (.sCtz 62 33) ∧
    scalar 0x2A021F81 (.sPopc 62 33) ∧
    scalar 0x31021F81 (.sBitdeint 62 33) := by decide

theorem test_words_scalar_integer_3 :
    scalar 0x0D0C2042 (.sSel 1 2 3 5 true) ∧
    scalar 0x070C2042 (.sSel 1 2 3 7 false) := by decide

theorem test_words_scalar_compare_1 :
    scalar 0x0050A003 (.sCmp 0 .eq 10 20) ∧
    scalar 0x0150A043 (.sCmp 1 .ne 10 20) ∧
    scalar 0x0250A083 (.sCmp 2 .lt 10 20) ∧
    scalar 0x0350A0C3 (.sCmp 3 .le 10 20) ∧
    scalar 0x0450A103 (.sCmp 4 .gt 10 20) ∧
    scalar 0x0550A143 (.sCmp 5 .ge 10 20) ∧
    scalar 0x0650A183 (.sCmp 6 .ltu 10 20) ∧
    scalar 0x0750A1C3 (.sCmp 7 .leu 10 20) ∧
    scalar 0x0850A003 (.sCmp 0 .gtu 10 20) ∧
    scalar 0x0950A043 (.sCmp 1 .geu 10 20) ∧
    scalar 0xFFFE818C (.sCmpi 6 .eq 40 (-1)) ∧
    scalar 0xFFFE838C (.sCmpi 6 .ne 40 (-1)) := by decide

theorem test_words_scalar_compare_2 :
    scalar 0xFFFE858C (.sCmpi 6 .lt 40 (-1)) ∧
    scalar 0xFFFE878C (.sCmpi 6 .le 40 (-1)) ∧
    scalar 0xFFFE898C (.sCmpi 6 .gt 40 (-1)) ∧
    scalar 0xFFFE8B8C (.sCmpi 6 .ge 40 (-1)) ∧
    scalar 0xFFFE8D8C (.sCmpi 6 .ltu 40 (-1)) ∧
    scalar 0xFFFE8F8C (.sCmpi 6 .geu 40 (-1)) := by decide

theorem test_words_scalar_immediate :
    scalar 0xE0011244 (.sAddi 9 17 (-2048)) ∧
    scalar 0xE0011245 (.sAndi 9 17 (-2048)) ∧
    scalar 0xE0011246 (.sOri 9 17 (-2048)) ∧
    scalar 0xE0011247 (.sXori 9 17 (-2048)) ∧
    scalar 0xE0011248 (.sShli 9 17 (-2048)) ∧
    scalar 0xE0011249 (.sShri 9 17 (-2048)) ∧
    scalar 0xE001124A (.sSrai 9 17 (-2048)) ∧
    scalar 0x7FFC024B (.sLui 9 0x1FFF) := by decide

theorem test_words_scalar_memory_1 :
    scalar 0xFFE6C0D0 (.sLdB 3 44 (-7)) ∧
    scalar 0xFFE6C0D1 (.sLdH 3 44 (-7)) ∧
    scalar 0xFFE6C0D2 (.sLdW 3 44 (-7)) ∧
    scalar 0xFFE6C0D3 (.sLdD 3 44 (-7)) ∧
    scalar 0xFFE6C0D4 (.sStB 3 44 (-7)) ∧
    scalar 0xFFE6C0D5 (.sStH 3 44 (-7)) ∧
    scalar 0xFFE6C0D6 (.sStW 3 44 (-7)) ∧
    scalar 0xFFE6C0D7 (.sStD 3 44 (-7)) ∧
    scalar 0x8000B0D8 (.sLdAcq 3 11 .fl .b (-256)) ∧
    scalar 0x8024B0D8 (.sLdAcq 3 11 .hd .h (-256)) ∧
    scalar 0x8048B0D8 (.sLdAcq 3 11 .cl .w (-256)) ∧
    scalar 0x806CB0D8 (.sLdAcq 3 11 .di .d (-256)) := by decide

theorem test_words_scalar_memory_2 :
    scalar 0x8010B0D8 (.sLdAcq 3 11 .mo .b (-256)) ∧
    scalar 0x8034B0D8 (.sLdAcq 3 11 .sy .h (-256)) ∧
    scalar 0x7FF41FD9 (.sStRel 63 1 .sy .d 255) ∧
    scalar 0xFFA0615A (.sLdk 5 6 .h (-1)) := by decide

theorem test_words_scalar_atomic_1 :
    scalar 0x000C205C (.sAtomW .add .plain 1 2 3) ∧
    scalar 0x110C205D (.sAtomD .and (.acq .hd) 1 2 3) ∧
    scalar 0x220C205C (.sAtomW .or (.acq .cl) 1 2 3) ∧
    scalar 0x330C205D (.sAtomD .xor (.acq .di) 1 2 3) ∧
    scalar 0x440C205C (.sAtomW .min (.acq .mo) 1 2 3) ∧
    scalar 0x550C205D (.sAtomD .minu (.acq .sy) 1 2 3) ∧
    scalar 0x660C205C (.sAtomW .max (.rel .hd) 1 2 3) ∧
    scalar 0x770C205D (.sAtomD .maxu (.rel .cl) 1 2 3) ∧
    scalar 0x880C205C (.sAtomW .swap (.rel .di) 1 2 3) ∧
    scalar 0x990C205D (.sAtomD .cas (.rel .mo) 1 2 3) ∧
    scalar 0xA00C205C (.sAtomW .add (.rel .sy) 1 2 3) ∧
    scalar 0xB10C205D (.sAtomD .and (.ar .hd) 1 2 3) := by decide

theorem test_words_scalar_atomic_2 :
    scalar 0xC20C205C (.sAtomW .or (.ar .cl) 1 2 3) ∧
    scalar 0xD30C205D (.sAtomD .xor (.ar .di) 1 2 3) ∧
    scalar 0xE40C205C (.sAtomW .min (.ar .mo) 1 2 3) ∧
    scalar 0xF50C205D (.sAtomD .minu (.ar .sy) 1 2 3) ∧
    scalar 0x0100001E (.sFenceAcq .fl) ∧
    scalar 0x0A00001E (.sFenceRel .cl) ∧
    scalar 0x1300001E (.sFenceAr .mo) := by decide

theorem test_words_scalar_control :
    scalar 0xFFFFFAE0 (.sB 3 true (-2)) ∧
    scalar 0x7FFFFDE1 (.sCall 7 false 0x1FFFFF) ∧
    scalar 0xFFF4C022 (.sBz 12 (-3)) ∧
    scalar 0xFFF40323 (.sLoop 12 (-3)) ∧
    scalar 0x00000024 (.sRet) ∧
    scalar 0x0101F024 (.sJr 31) ∧
    scalar 0xAAF37BE8 (.sLgo 0x2ABCDEF) ∧
    scalar 0x00000029 (.sLwait) := by decide

theorem test_words_scalar_barrier :
    scalar 0x0055402A (.sBarInit 20 21) ∧
    scalar 0x0255402A (.sBarExpect 20 21) ∧
    scalar 0x0355402A (.sBarWait 20 21) ∧
    scalar 0x010141AA (.sBarArrive 6 20) ∧
    scalar 0x0000802B (.sCntWait .g 8) ∧
    scalar 0x0100802B (.sCntWait .s 8) ∧
    scalar 0x0200802B (.sCntWait .t 8) ∧
    scalar 0x0300802B (.sCntWait .x 8) ∧
    scalar 0x0400802B (.sCntWait .m 8) ∧
    scalar 0x0500802B (.sCntWait .f 8) := by decide

theorem test_words_scalar_engine :
    scalar 0x000C206C (.sCp 1 2 3) ∧
    scalar 0x010C206C (.sCpMc 1 2 3) ∧
    scalar 0x020C206C (.sXf 1 2 3) ∧
    scalar 0x030C206C (.sCpG 1 2 3) ∧
    scalar 0x0400202C (.sPublish 2) ∧
    scalar 0x050C206C (.sQpush 1 2 3) ∧
    scalar 0x060C202C (.sDepDec 2 3) ∧
    scalar 0x0700202C (.sPseal 2) ∧
    scalar 0x0000206D (.sOpbRsv 1 2) ∧
    scalar 0x0100202D (.sOpbRel 2) ∧
    scalar 0x0200206D (.sMxLease 1 2) ∧
    scalar 0x0300002D (.sMxYield) := by decide

theorem test_words_scalar_system :
    scalar 0x3FFC01EE (.sKget 7 0xFFF) ∧
    scalar 0x0108702F (.sKput 0x042 7) ∧
    scalar 0xFFFC0030 (.sTrap 0x3FFF) ∧
    scalar 0x00000031 (.sNop) ∧
    scalar 0x01000031 (.sTret) ∧
    scalar 0x02000031 (.sYield) ∧
    scalar 0x03000031 (.sExit) := by decide

theorem test_words_lane_block :
    lane 0x000000000000000000000001 (.vNop { all with pred := 0 }) ∧
    lane 0x89ABCDEF0000000000000101 (.vNopMarker { all with sub := 1, pred := 0, imm := 0x89abcdef }) ∧
    lane 0xFEDCBA980000F0AC6824F002 (.vBlk { all with dest := 18, sa := 52, sb := 86, sc := 120, imm := 0xfedcba98 }) ∧
    lane 0x000000000000000000000003 (.vLstop { all with pred := 0 }) ∧
    lane 0x00002AAA0000000000012004 (.vTrap { all with pred := 2, neg := true, imm := 0x2aaa }) ∧
    lane 0x00000000000000000000E005 (.vBrk { all with pred := 14 }) := by decide

theorem test_words_lane_integer_1 :
    lane 0x000005A504280190F0C80810 (.vAdd { all with sub := 8, pred := 0, neg := false, dest := 100, sa := 120, sb := 200, moda := 4, modb := 2, fep := 1, imm := 0x5a5 }) ∧
    lane 0x00150000042A0192F6CB1911 (.vSub { all with sub := 9, pred := 1, neg := true, dest := 101, sa := 123, sb := 201, moda := 5, modb := 2, fep := 1, imm := 0x150000 }) ∧
    lane 0x0000000004200194FCCC2A12 (.vMul { all with sub := 10, pred := 2, neg := false, dest := 102, sa := 126, sb := 202, modb := 2, fep := 1 }) ∧
    lane 0x000005A505A89B9702CF3B13 (.vMad { all with sub := 11, pred := 3, neg := true, dest := 103, sa := 129, sb := 203, sc := 77, moda := 4, modb := 2, modc := 3, fep := 1, imm := 0x5a5 }) ∧
    lane 0x00150000042A019908D04414 (.vMin { all with sub := 4, pred := 4, neg := false, dest := 104, sa := 132, sb := 204, moda := 5, modb := 2, fep := 1, imm := 0x150000 }) ∧
    lane 0x000000000420019B0ED35515 (.vMax { all with sub := 5, pred := 5, neg := true, dest := 105, sa := 135, sb := 205, modb := 2, fep := 1 }) ∧
    lane 0x000005A50408000114D46616 (.vAbs { all with sub := 6, pred := 6, neg := false, dest := 106, sa := 138, moda := 4, fep := 1, imm := 0x5a5 }) ∧
    lane 0x00150000042A019F1AD77717 (.vAnd { all with sub := 7, pred := 7, neg := true, dest := 107, sa := 141, sb := 207, moda := 5, modb := 2, fep := 1, imm := 0x150000 }) ∧
    lane 0x00000000042001A120D88018 (.vOr { all with sub := 0, pred := 8, neg := false, dest := 108, sa := 144, sb := 208, modb := 2, fep := 1 }) ∧
    lane 0x000005A5042801A326DB9119 (.vXor { all with sub := 1, pred := 9, neg := true, dest := 109, sa := 147, sb := 209, moda := 4, modb := 2, fep := 1, imm := 0x5a5 }) ∧
    lane 0x00150000040A00012CDCA21A (.vNot { all with sub := 2, pred := 10, neg := false, dest := 110, sa := 150, moda := 5, fep := 1, imm := 0x150000 }) ∧
    lane 0x00000000042001A732DFB31B (.vShl { all with sub := 3, pred := 11, neg := true, dest := 111, sa := 153, sb := 211, modb := 2, fep := 1 }) := by decide

theorem test_words_lane_integer_2 :
    lane 0x000005A5042801A938E0C41C (.vShr { all with sub := 4, pred := 12, neg := false, dest := 112, sa := 156, sb := 212, moda := 4, modb := 2, fep := 1, imm := 0x5a5 }) ∧
    lane 0x00150000042A01AB3EE3D51D (.vSra { all with sub := 5, pred := 13, neg := true, dest := 113, sa := 159, sb := 213, moda := 5, modb := 2, fep := 1, imm := 0x150000 }) ∧
    lane 0x000000000400000144E4E61E (.vClz { all with sub := 6, pred := 14, neg := false, dest := 114, sa := 162, fep := 1 }) ∧
    lane 0x000005A5040800014AE7071F (.vPopc { all with sub := 7, pred := 0, neg := true, dest := 115, sa := 165, moda := 4, fep := 1, imm := 0x5a5 }) ∧
    lane 0x00150000040A000150E81020 (.vBrev { all with sub := 0, pred := 1, neg := false, dest := 116, sa := 168, moda := 5, fep := 1, imm := 0x150000 }) ∧
    lane 0x00000000042001B356EB2121 (.vBfe { all with sub := 1, pred := 2, neg := true, dest := 117, sa := 171, sb := 217, modb := 2, fep := 1 }) ∧
    lane 0x000005A505A89BB55CEC3022 (.vBfi { all with sub := 0, pred := 3, neg := false, dest := 118, sa := 174, sb := 218, sc := 77, moda := 4, modb := 2, modc := 3, fep := 1, imm := 0x5a5 }) ∧
    lane 0x0015000005AA9BB762EF4123 (.vBitint { all with sub := 1, pred := 4, neg := true, dest := 119, sa := 177, sb := 219, sc := 77, moda := 5, modb := 2, modc := 3, fep := 1, imm := 0x150000 }) ∧
    lane 0x0500000000000004021CF724 (.vCmp { all with sub := 7, dest := 14, sa := 1, sb := 2, imm := 0x5000000 }) ∧
    lane 0x1E0000000000000C0408F625 (.vSel { all with sub := 6, dest := 4, sa := 2, sb := 6, imm := 0x1e000000 }) ∧
    lane 0x0000000020000001FF7EF326 (.vMov { all with sub := 3, dest := 191, sa := 255, last := true }) ∧
    lane 0xDEADBEEF000000000012F127 (.vMovi { all with sub := 1, dest := 9, imm := 0xdeadbeef }) := by decide

theorem test_words_lane_integer_3 :
    lane 0x00000000000000000010F028 (.vLane { all with dest := 8 }) ∧
    lane 0x00001023000000000010F029 (.vKget { all with dest := 8, imm := 0x1023 }) := by decide

theorem test_words_lane_float_1 :
    lane 0x00000000000200785028F030 (.vFadd { all with sub := 0, dest := 20, sa := 40, sb := 60, moda := 1, rnd := 0 }) ∧
    lane 0x000000004002007A522AF131 (.vFsub { all with sub := 1, dest := 21, sa := 41, sb := 61, moda := 1, rnd := 1 }) ∧
    lane 0x000000008002007C542CF232 (.vFmul { all with sub := 2, dest := 22, sa := 42, sb := 62, moda := 1, rnd := 2 }) ∧
    lane 0x00000000D002A67E562EF033 (.vFfma { all with sub := 0, dest := 23, sa := 43, sb := 63, sc := 83, moda := 1, fep := 4, rnd := 3 }) ∧
    lane 0x00000000000200805830F134 (.vFmin { all with sub := 1, dest := 24, sa := 44, sb := 64, moda := 1, rnd := 0 }) ∧
    lane 0x00000000400200825A32F235 (.vFmax { all with sub := 2, dest := 25, sa := 45, sb := 65, moda := 1, rnd := 1 }) ∧
    lane 0x07000000800200845C1AF036 (.vFcmp { all with sub := 0, dest := 13, sa := 46, sb := 66, moda := 1, rnd := 2, imm := 0x7000000 }) ∧
    lane 0x00000000000200005E36F137 (.vFclass { all with sub := 1, dest := 27, sa := 47, moda := 1 }) ∧
    lane 0x00000000000200006038F238 (.vFrcp { all with sub := 2, dest := 28, sa := 48, moda := 1, rnd := 0 }) ∧
    lane 0x0000000040020000623AF039 (.vFrsq { all with sub := 0, dest := 29, sa := 49, moda := 1, rnd := 1 }) ∧
    lane 0x0000000080020000643CF13A (.vFsqrt { all with sub := 1, dest := 30, sa := 50, moda := 1, rnd := 2 }) ∧
    lane 0x00000000C0020000663EF23B (.vFexp2 { all with sub := 2, dest := 31, sa := 51, moda := 1, rnd := 3 }) := by decide

theorem test_words_lane_float_2 :
    lane 0x00000000000200006840F03C (.vFlog2 { all with sub := 0, dest := 32, sa := 52, moda := 1, rnd := 0 }) ∧
    lane 0x00000000400200006A42F13D (.vFsin { all with sub := 1, dest := 33, sa := 53, moda := 1, rnd := 1 }) ∧
    lane 0x00000000800200006C44F23E (.vFcos { all with sub := 2, dest := 34, sa := 54, moda := 1, rnd := 2 }) ∧
    lane 0x00000000C00200006E46F03F (.vFfloor { all with sub := 0, dest := 35, sa := 55, moda := 1, rnd := 3 }) ∧
    lane 0x00000000000200007048F140 (.vFceil { all with sub := 1, dest := 36, sa := 56, moda := 1, rnd := 0 }) ∧
    lane 0x0000000040020000724AF241 (.vFtrunc { all with sub := 2, dest := 37, sa := 57, moda := 1, rnd := 1 }) ∧
    lane 0x0000000080020000744CF042 (.vFrnd { all with sub := 0, dest := 38, sa := 58, moda := 1, rnd := 2 }) ∧
    lane 0x00000000C0020000764EF143 (.vFfract { all with sub := 1, dest := 39, sa := 59, moda := 1, rnd := 3 }) ∧
    lane 0x000000001002C8A07850F144 (.vFdot2 { all with sub := 1, dest := 40, sa := 60, sb := 80, sc := 100, moda := 1, fep := 4, rnd := 0 }) := by decide

theorem test_words_lane_conversion :
    lane 0x1C800000400000000402F050 (.vCvt { all with dest := 1, sa := 2, rnd := 1, imm := 0x1c800000 }) ∧
    lane 0x03000000000008060402F151 (.vCvtN { all with sub := 1, dest := 1, sa := 2, sb := 3, sc := 4, imm := 0x3000000 }) ∧
    lane 0x40000000000000000402F352 (.vCvtW { all with sub := 3, dest := 1, sa := 2, imm := 0x40000000 }) ∧
    lane 0x01000000000008060402F153 (.vCvtEf { all with sub := 1, dest := 1, sa := 2, sb := 3, sc := 4, imm := 0x1000000 }) ∧
    lane 0x07000000800000000402F554 (.vBfpPack { all with sub := 5, dest := 1, sa := 2, rnd := 2, imm := 0x7000000 }) ∧
    lane 0x70000000000000000402F455 (.vBfpUnpack { all with sub := 4, dest := 1, sa := 2, imm := 0x70000000 }) ∧
    lane 0xC8000000000008060402F156 (.vPack { all with sub := 1, dest := 1, sa := 2, sb := 3, sc := 4, imm := 0xc8000000 }) ∧
    lane 0x8C000000000000000402F357 (.vUnpack { all with sub := 3, dest := 1, sa := 2, imm := 0x8c000000 }) := by decide

theorem test_words_lane_cross_1 :
    lane 0x0000000A000000060402F060 (.vShflIdx { all with sub := 0, dest := 1, sa := 2, sb := 3, imm := 0xa }) ∧
    lane 0x0000000A000000060402F960 (.vShflUp { all with sub := 9, dest := 1, sa := 2, sb := 3, imm := 0xa }) ∧
    lane 0x0000000A000000060402F260 (.vShflDown { all with sub := 2, dest := 1, sa := 2, sb := 3, imm := 0xa }) ∧
    lane 0x0000000A000000060402FB60 (.vShflXor { all with sub := 11, dest := 1, sa := 2, sb := 3, imm := 0xa }) ∧
    lane 0x00000005000000000402F061 (.vBcast { all with dest := 1, sa := 2, imm := 0x5 }) ∧
    lane 0x0000001300000000000EF062 (.vVoteAll { all with sub := 0, dest := 7, imm := 0x13 }) ∧
    lane 0x0000001300000000000EF162 (.vVoteAny { all with sub := 1, dest := 7, imm := 0x13 }) ∧
    lane 0x0000001300000000000EF262 (.vVoteEq { all with sub := 2, dest := 7, imm := 0x13 }) ∧
    lane 0x0000001F00000000008CF362 (.vVoteBallot { all with sub := 3, dest := 70, imm := 0x1f }) ∧
    lane 0x00000015C00000000402F963 (.vScan { all with sub := 9, dest := 1, sa := 2, rnd := 3, imm := 0x15 }) ∧
    lane 0x0000000A000000000402F764 (.vRed { all with sub := 7, dest := 1, sa := 2, imm := 0xa }) ∧
    lane 0x00000003000000000402F065 (.vMatch { all with dest := 1, sa := 2, imm := 0x3 }) := by decide

theorem test_words_lane_cross_2 :
    lane 0x00000000000000000582F066 (.vTosFirst { all with sub := 0, dest := 193, sa := 2 }) ∧
    lane 0x000007FF0000000005FEF966 (.vTosLane { all with sub := 9, dest := 255, sa := 2, imm := 0x7ff }) ∧
    lane 0x0000001F000000000190F266 (.vTosMask { all with sub := 2, dest := 200, imm := 0x1f }) ∧
    lane 0x00000000000000000180F366 (.vTosCount { all with sub := 3, dest := 192 }) := by decide

theorem test_words_lane_memory :
    lane 0x00FFFFF0000001840402F670 (.vLd { all with sub := 6, dest := 1, sa := 2, sb := 194, imm := 0xfffff0 }) ∧
    lane 0x00000010000011840400F471 (.vSt { all with sub := 4, sa := 2, sb := 194, sc := 8, imm := 0x10 }) ∧
    lane 0x00800000000000000402F572 (.vLdSp { all with sub := 5, dest := 1, sa := 2, imm := 0x800000 }) ∧
    lane 0x00000000000012000400F073 (.vStSp { all with sub := 0, sa := 2, sb := 0, sc := 9 }) ∧
    lane 0x05000000000000000402F274 (.vLdAcq { all with sub := 2, dest := 1, sa := 2, imm := 0x5000000 }) ∧
    lane 0x06000000000010000400F375 (.vStRel { all with sub := 3, sa := 2, sc := 8, imm := 0x6000000 }) ∧
    lane 0x9F0000000000100C0804F376 (.vAtom { all with sub := 3, dest := 2, sa := 4, sb := 6, sc := 8, imm := 0x9f000000 }) ∧
    lane 0x110000000000000C0804F277 (.vAtomSp { all with sub := 2, dest := 2, sa := 4, sb := 6, imm := 0x11000000 }) ∧
    lane 0x7A0000000000000C0800F278 (.vAred { all with sub := 2, sa := 4, sb := 6, imm := 0x7a000000 }) ∧
    lane 0x000000000000100C0800F279 (.vStFf { all with sub := 2, sa := 4, sb := 6, sc := 8 }) ∧
    lane 0x000000000000000C0800F17A (.vPrefetch { all with sub := 1, sa := 4, sb := 6 }) := by decide

theorem test_words_lane_flow :
    lane 0x03FFFFFF000006CA86431080 (.vBr { all with pred := 1, neg := true, dest := 33, sa := 67, sb := 101, sc := 3, imm := 0x3ffffff }) ∧
    lane 0x012345670000000000004081 (.vBru { all with pred := 4, imm := 0x1234567 }) ∧
    lane 0x00000000000000000000F082 (.vReconv all) ∧
    lane 0x02000001000000018E06F083 (.vReconvW { all with dest := 3, sa := 199, imm := 0x2000001 }) ∧
    lane 0x8765432100000A080604F084 (.vCallRg { all with dest := 2, sa := 3, sb := 4, sc := 5, imm := 0x87654321 }) ∧
    lane 0x00000000000000000000F085 (.vRetRg all) ∧
    lane 0x00000000000000080604F086 (.vRegroup { all with dest := 2, sa := 3, sb := 4 }) ∧
    lane 0x000000000000000000010087 (.vExit { all with pred := 0, neg := true }) ∧
    lane 0x000000000000000000003088 (.vKill { all with pred := 3 }) := by decide

theorem test_words_lane_matrix :
    lane 0x0000001F000000000400F090 (.vMxLds { all with sa := 2, imm := 0x1f }) ∧
    lane 0x00000010000000000000F091 (.vMxSwap { all with imm := 0x10 }) ∧
    lane 0x000004200000000004001F92 (.vMxMmaRf { all with sub := 15, pred := 1, sa := 2, imm := 0x420 }) ∧
    lane 0x0000041F000000000400F992 (.vMxMmaOpb { all with sub := 9, sa := 2, imm := 0x41f }) ∧
    lane 0x000003FF000000000004F393 (.vAccLd { all with sub := 3, dest := 2, imm := 0x3ff }) ∧
    lane 0x00000155000000000004F494 (.vAccMov { all with sub := 4, dest := 2, imm := 0x155 }) ∧
    lane 0x00000000000000000000FF95 (.vAccZero { all with sub := 15 }) ∧
    lane 0x0000003F000000060004F196 (.vAccDrain { all with sub := 1, dest := 2, sb := 3, imm := 0x3f }) ∧
    lane 0x0000803F000000080400F196 (.vAccDrainG { all with sub := 1, sa := 2, sb := 4, imm := 0x803f }) ∧
    lane 0x00ABCDEF000000060400F097 (.vOpbPut { all with sa := 2, sb := 3, imm := 0xabcdef }) := by decide

theorem test_words_lane_graphics_1 :
    lane 0x0000000F00000A080604FBA0 (.vRast { all with sub := 11, dest := 2, sa := 3, sb := 4, sc := 5, imm := 0xf }) ∧
    lane 0x0000000000000A08060CF0A1 (.vBin { all with dest := 6, sa := 3, sb := 4, sc := 5 }) ∧
    lane 0x00000000C000100C0804F0A2 (.vTexSmp { all with dest := 2, sa := 4, sb := 6, sc := 8, rnd := 3 }) ∧
    lane 0x00000000C000100C0804F0A3 (.vTexLod { all with dest := 2, sa := 4, sb := 6, sc := 8, rnd := 3 }) ∧
    lane 0x00000000C000100C0804F0A4 (.vTexGrad { all with dest := 2, sa := 4, sb := 6, sc := 8, rnd := 3 }) ∧
    lane 0x00000000C000100C0804F0A5 (.vTexFetch { all with dest := 2, sa := 4, sb := 6, sc := 8, rnd := 3 }) ∧
    lane 0x00000000C000000C0804F3A6 (.vTexGather { all with sub := 3, dest := 2, sa := 4, sb := 6, rnd := 3 }) ∧
    lane 0x000000000000100C0804F0A7 (.vTexDec { all with dest := 2, sa := 4, sb := 6, sc := 8 }) ∧
    lane 0x000000000000100C0800F3A8 (.vExpPx { all with sub := 3, sa := 4, sb := 6, sc := 8 }) ∧
    lane 0x000012340000100C0800F0A9 (.vExpPos { all with sa := 4, sb := 6, sc := 8, imm := 0x1234 }) ∧
    lane 0x00000003000011800804F0B0 (.vTravRay { all with sub := 0, dest := 2, sa := 4, sb := 192, sc := 8, imm := 0x3 }) ∧
    lane 0x0000FFFF0000100C0804F1B0 (.vTravRad { all with sub := 1, dest := 2, sa := 4, sb := 6, sc := 8, imm := 0xffff }) := by decide

theorem test_words_lane_graphics_2 :
    lane 0x000800000000100C0804F2B0 (.vTravKnn { all with sub := 2, dest := 2, sa := 4, sb := 6, sc := 8, imm := 0x80000 }) ∧
    lane 0x000000400000100C0804F3B0 (.vTravRng { all with sub := 3, dest := 2, sa := 4, sb := 6, sc := 8, imm := 0x40 }) ∧
    lane 0x000000000000000C0804F0B1 (.vIsectBox { all with dest := 2, sa := 4, sb := 6 }) ∧
    lane 0x000000020000000C0804F0B2 (.vIsectTri { all with dest := 2, sa := 4, sb := 6, imm := 0x2 }) := by decide


/-! ## Witnesses: a state and operands that meet the hypotheses of each statement -/

open Machine

/-- A flock that runs with every register zero and full. -/
def fS : Flock := fetchFlock false

/-- The flock whose one lane path, of 32 lanes, runs in a block. -/
def fL : Flock := fetchFlock true

/-- The path of `fL`. -/
def pL : Machine.Path := Path.start 0 0 (LaneMask.below 32) 0 [] .ready

/-- A state in which the scalar stream of flock 1 issues. -/
def sS (f : Flock) : State := { State.reset.fetchState false [] with flocks := [f], cur := some ⟨1, none⟩ }

/-- A state in which path 0 of flock 1 issues. -/
def sL (f : Flock) : State := { State.reset.fetchState true [] with flocks := [f], cur := some ⟨1, some 0⟩ }

/-- A flock with scalar registers of given values. -/
def Regs (s : SMap Word64) : Flock := { fS with s := s }

/-- A look-up that succeeds has a result, and what can be checked of it holds. -/
theorem met {ε α : Type} {x : Except ε α} {P : α → Prop} [DecidablePred P]
    (h : (match x with | .ok a => decide (P a) | .error _ => false) = true) : ∃ a, x = .ok a ∧ P a := by
  cases x with
  | ok a => exact ⟨a, rfl, of_decide_eq_true h⟩
  | error _ => cases h

/-- A look-up has the result that it computes. -/
theorem got {ε α : Type} [DecidableEq α] {x : Except ε α} {b : α}
    (h : (match x with | .ok a => decide (a = b) | .error _ => false) = true) : x = .ok b := by
  cases x with
  | ok a => exact congrArg _ (of_decide_eq_true h)
  | error _ => cases h

/-- A look-up has the error that it computes. -/
theorem failed {ε α : Type} [DecidableEq ε] {x : Except ε α} {e : ε}
    (h : (match x with | .ok _ => false | .error a => decide (a = e)) = true) : x = .error e := by
  cases x with
  | ok _ => cases h
  | error a => exact congrArg _ (of_decide_eq_true h)

/-- The herd of flock 1 with a scratchpad that begins with a barrier object. -/
def Bar (v : Nat) : Herd := { Herd.absent with uid := 2, region := 3, spadSize := 4096, spad := Memory.writeNum [] 0 32 v }

/-- A state with its herd replaced. -/
def withHerd (s : State) (h : Herd) : State := { s with herds := [h] }

/-- A state with its region's control block changed. -/
def withRcb (s : State) (g : Rcb → Rcb) : State := { s with regions := s.regions.map fun r => { r with rcb := g r.rcb } }

/-- The lane section of some words, in memory from the address that a state's section begins at. -/
def withLanes (s : State) (ws : List Nat) : State := { s with mem := Memory.write s.mem 0x10000 (ws.flatMap (bytesOf 12)) }

/-- A flock in its trap handler. -/
def handling (f : Flock) (tret : Word64) (site : TrapSite) : Flock := { f with tcause := 0x8001, tret := tret, site := some site, haltSpc := 3 }

/-- A state with bytes of memory set: `n` bytes of a number. -/
def withMem (s : State) (pa n v : Nat) : State := { s with mem := Memory.writeNum s.mem pa n v }

/-- Session 0's first shadow window covers the first 64 KiB, with the table at frame 8 as its SHADOW table. -/
def withWindow (s : State) : State := withMem s 256 32 (2 ^ 64 + 8 * 2 ^ 128 + 2 ^ 168)

/-- A layout record of one FP32 element, at address 0x100. -/
def withLayout (s : State) : State :=
  withMem (withRcb (withHerd s (Bar 0)) fun r => { r with layout := 0x100, lcount := 1 }) 0x10100 64 (2 ^ 16 + 2 ^ 28 + 4 * 2 ^ 64 + 4 * 2 ^ 128)

/-- A reservation record of 256 bytes from the start of the allotment, in BF16. -/
def record : Word64 := 2 ^ 8 + 2 * 2 ^ 20

/-- A real-time paddock. -/
def rtPaddock : Paddock := { Paddock.reset with desc := { Paddock.reset.desc with cls := true } }

/-- The flock `fL` with its path in an open entry. -/
def inEntry (e : Entry) (p : Machine.Path) : Flock := { fL with entries := [e], paths := [{ p with entries := [e.id] }] }

/-- An entry of the path's lanes. -/
def Ent (rpoint : Nat) : Entry := ⟨5, rpoint, LaneMask.below 32, 0, true, none, none⟩

/-- A lane section of `v.nop`, `v.reconv` and `v.reconv.w`. -/
def points : List Nat := [1, 0x00000000000000000000F082, 0x02000001000000018E06F083]

/-- A flock of 64 lanes whose herd has both accumulator banks and reservations in BF16 and FP32. -/
def fM : Flock := { fL with lanes := 64, active := LaneMask.below 64, paths := [{ pL with mask := LaneMask.below 64 }] }

/-- The state of `fM`. -/
def sM : State := withHerd (sL fM) { Bar 0 with opbSize := 32768, rsv := [(0, 2113536), (15, 256)], ctxs := [Ctx.reset, Ctx.reset] }

/-- A lane section of a `v.br` on predicate 0 to index 15 that reconverges at the next word, that `v.reconv`, and a `v.blk` of no register. -/
def branches : List Nat := [0xF0000000000020080, 0x00000000000000000000F082, 0xF002]

/-- The datapath of `fetchState`. -/
def dp1 : Datapath := { Datapath.reset with active := some 1 :: List.replicate 7 none, order := [1] }

/-- A state with core 0's first datapath replaced. -/
def withDp (s : State) (d : Datapath) : State := s.setDatapath 0 0 d

/-- A state in which session 0 is active, holds the clusters of die 0 and has one region of 256 herds, of which none has been admitted. -/
def sA : State := withMem { withRcb (sS fS) fun r => { r with herds := 256 } with herds := [], flocks := [], owners := [(0, 1)] } 4 1 2

/-- Session 0's completion queue of 16 slots at virtual page 16, with these WRITEIDX and READIDX. -/
def withCq (s : State) (w r : Nat) : State :=
  withMem (withMem (withMem s 64 8 0x400) 0x8100 16 (pageEntry 32)) 0x10400 64 (0x10000 + 4 * 2 ^ 64 + w * 2 ^ 128 + r * 2 ^ 192)

/-- A command that copies one FP32 element without a barrier, as session 0 gave it. -/
def copy1 : CopyCmd :=
  ⟨5, 0, .cp, 1, 2, 3, 0, 2 ^ 20, 0x200, 0, 2 ^ 16 + 2 ^ 28 + 4 * 2 ^ 64 + 4 * 2 ^ 128, [], none, false, 0, [], [], 0, false, sS fS |>.copyReport fS 0⟩

/-- A state whose core 0 has these commands. -/
def withCmds (s : State) (cs : List CopyCmd) : State := s.onCore 0 fun k => { k with engine := cs }

/-- A look-up that finds something finds a thing of which what can be checked holds. -/
theorem there {α : Type} {x : Option α} {P : α → Prop} [DecidablePred P] (h : (match x with | some a => decide (P a) | none => false) = true) :
    ∃ a, x = some a ∧ P a := by
  cases x with
  | some a => exact ⟨a, rfl, of_decide_eq_true h⟩
  | none => cases h

/-- Session 0 is active, and its queue 0 has 16 slots at virtual page 16, READIDX `r`, and the packet of a number in slot 0. -/
def withQueue (s : State) (r packet : Nat) : State :=
  [(4, 1, 2), (48, 3, 0x50000), (56, 1, 1), (0x8100, 16, pageEntry 32), (0x50000, 3, 0x10000), (0x50008, 1, 4), (0x50018, 1, r), (0x20000, 24, packet)].foldl
    (fun s (pa, n, v) => withMem s pa n v) s

/-- A leaf of one herd of one flock, of 32 lanes and 8 registers and without sections, at virtual address 0x300. -/
def withLeaf (s : State) : State := withMem s 0x10300 64 (2 ^ 67 + 2 ^ 448 + 2 ^ 496)

/-- A state with these queues. -/
def withQs (s : State) (qs : List QState) : State := { s with queues := qs }

/-- A packet in slot 0 of queue 0 of session 0, from its words. -/
def packet0 (ws : List Nat) : Packet := ⟨0, 0, 0, (ws ++ List.replicate (8 - ws.length) 0).map (BitVec.ofNat 64)⟩

/-- Session 0's tables lie on die 1, to which the link is in training: a walk of die 0 has to wait. -/
def farTables (s : State) : State := (withMem s 8 5 (2 ^ 25)).onLink 0 0 fun k => { k with training := true }

/-- A flock with 255 operations on a counter. -/
def full (f : Flock) (c : Counter) : Flock := { f with ops := List.replicate 255 ⟨0, some c, 0, [lanePiece 0 0 false], 1, none, 0, false, false, []⟩, nextId := 1 }

/-- A fabric packet that has not been sent. -/
def unsent0 : FabPacket := ⟨0, 1, 0, 0, 0, 0, 0, [0, 0, 0, 0], [], [], none⟩

/-- Die 0 has learnt, on network 0, of packets that have not come to die 1. -/
def unlearnt (s : State) : State := s.setNet 0 0 { s.net 0 0 with k := (s.net 0 0).k.map fun _ => 1 }

theorem witness_ScalarArithmetic :
    IssuesScalar (sS fS) fS ∧ Readable fS 0 ∧ Readable fS 63 ∧ Writable fS 0 ∧ Writable fS 63 := by decide +kernel

theorem witness_ScalarDivisionAndShifts :
    let f := Regs [(1, BitVec.intMin 64), (2, BitVec.allOnes 64), (3, 63), (4, 64)]
    IssuesScalar (sS f) f ∧ (∀ r ∈ [1#6, 2#6, 3#6, 4#6], Readable f r) ∧ Writable f 5 ∧ f.sreg 6 = 0 ∧
      ((f.sreg 1).toInt = -2 ^ 63 ∧ (f.sreg 2).toInt = -1) ∧ (f.sreg 3 ≠ 0 ∧ (f.sreg 3).toInt ≠ -1) ∧ (f.sreg 3).toNat < 64 ∧
      64 ≤ (f.sreg 4).toNat ∧ ((63#14).signExtend 64).toNat < 64 ∧ 64 ≤ ((BitVec.allOnes 14).signExtend 64).toNat := by decide +kernel

theorem witness_ScalarImmediatesAndCompares :
    IssuesScalar (sS fS) fS ∧ Readable fS 1 ∧ Readable fS 0 ∧ Writable fS 2 := by decide +kernel

theorem witness_RegistersAndStalls :
    let f := { fS with sEmpty := [1] }
    let g := { fS with sPoison := [63] }
    (IssuesScalar (sS f) f ∧ (1#6).toNat ∈ f.sEmpty) ∧ (IssuesScalar (sS g) g ∧ (1#6).toNat ∉ g.sEmpty ∧ (63#6).toNat ∈ g.sPoison) := by
  decide +kernel

theorem witness_ScalarAccessesHeld :
    let f := Regs [(1, 1), (2, 2 ^ 48), (3, 8)]
    let s := sS f
    let g := full f .g
    let far (k : Access) : Prop := (farTables s).translate (s.agentOf f) 8 k = .error notYet
    let fails (k : Access) : Prop := s.translate (s.agentOf f) (f.sreg 2).toNat k = .error 0x05
    (IssuesScalar s f ∧ (∀ r ∈ [0#6, 1#6, 2#6, 3#6], Readable f r) ∧ Writable f 4) ∧ ((f.sreg 1).toNat % 8 ≠ 0 ∧ (f.sreg 2).toNat % 8 = 0) ∧
      (0x05 ≠ notYet ∧ IssuesScalar (farTables s) f) ∧ fails .read ∧ fails .write ∧ fails .atomic ∧ far .read ∧ far .write ∧ far .atomic ∧
      (IssuesScalar (sS g) g ∧ 255 ≤ g.count .g ∧ (g.sreg 3).toNat % 8 = 0) ∧ (∃ x, (sS g).translate (s.agentOf f) 8 .read = .ok x ∧ x.1.memReady g = true) ∧
      (∃ x, (sS g).translate (s.agentOf f) 8 .atomic = .ok x ∧ x.1.memReady g = true) ∧
      ∃ x, (sS g).translate (s.agentOf f) 8 .write = .ok x ∧ x.1.releaseReady g .sy = false := by
  and_intros <;> first | decide +kernel | exact met (by decide +kernel) | exact failed (by decide +kernel)

theorem witness_ScalarLoadsAndStores :
    let s := sS fS
    IssuesScalar s fS ∧ Readable fS 0 ∧ Writable fS 1 ∧ fS.count .g < 255 ∧
      (fS.sreg 0 + BitVec.ofInt 64 ((511 : BitVec 14).toInt * 8)).toNat = 4088 ∧
      (∃ x, s.translate (s.agentOf fS) 4088 .read = .ok x ∧ x.1.memReady fS = true ∧ x.1.readReady fS = true ∧ fS.overlaps x.2.pa 8 = false ∧
        (x.1.countRequests fS [(0, x.2)]).isSome = true) ∧
      ∃ x, s.translate (s.agentOf fS) 4088 .write = .ok x ∧ x.1.memReady fS = true ∧ fS.overlaps x.2.pa 8 = false ∧ x.1.releaseReady fS .sy = true ∧
        (x.1.countRequests fS [(0, x.2)]).isSome = true :=
  ⟨⟨rfl, rfl⟩, by decide, by decide, by decide, by decide, met (by decide +kernel), met (by decide +kernel)⟩

theorem witness_ScalarAtomicsAndFences :
    let s := sS fS
    IssuesScalar s fS ∧ Readable fS 0 ∧ Readable fS 1 ∧ Readable fS 2 ∧ Writable fS 2 ∧ (fS.sreg 0).toNat % 8 = 0 ∧ fS.count .g < 255 ∧
      (∃ x, s.translate (s.agentOf fS) (fS.sreg 0).toNat .atomic = .ok x ∧ x.1.memReady fS = true ∧ fS.overlaps x.2.pa 8 = false ∧
        relScope (.ar .sy) = some .sy ∧ x.1.releaseReady fS .sy = true ∧ (x.1.countRequests fS [(0, x.2)]).isSome = true) ∧
      s.memReady fS = true ∧ fS.readsReturned = true ∧ s.releaseReady fS .sy = true :=
  ⟨⟨rfl, rfl⟩, by decide, by decide, by decide, by decide, by decide, by decide, met (by decide +kernel), by decide +kernel, by decide,
    by decide +kernel⟩

theorem witness_FencesHeld :
    let g := full fS .g
    let s := { sS fS with agenda := [.orderedPacketSend unsent0] }
    (IssuesScalar (sS g) g ∧ g.readsReturned = false) ∧ IssuesScalar s fS ∧ s.memReady fS = true ∧ fS.readsReturned = true ∧
      s.releaseReady fS .sy = false := by decide +kernel

/-- The kernel-argument block lies on die 1, to which the link is in training. -/
theorem witness_KernelArgumentsHeld :
    let s := withMem ((withRcb (sS fS) fun r => { r with klen := 8 }).onLink 0 0 fun k => { k with training := true }) 0x8000 16 (pageEntry (2 ^ 25))
    IssuesScalar s fS ∧ Readable fS 0 ∧ Writable fS 4 ∧ ∃ x, s.translate (s.agentOf fS) 0 .read = .ok x ∧
      (x.1.readThrough (x.1.agentOf fS) x.2 (min 8 (8 - 0)) false).isNone = true :=
  ⟨⟨rfl, rfl⟩, by decide, by decide, met (by decide +kernel)⟩

theorem witness_KernelArguments :
    let f := Regs [(1, 4089), (2, 4096), (3, 8)]
    let s := withRcb (sS f) fun r => { r with klen := 8 }
    let offset (a : BitVec 6) : Nat := (f.sreg a.toNat + BitVec.ofInt 64 ((0 : BitVec 9).toInt * 8)).toNat
    IssuesScalar s f ∧ Readable f 0 ∧ Readable f 1 ∧ Readable f 2 ∧ Readable f 3 ∧ Writable f 4 ∧ offset 1 % 8 ≠ 0 ∧ 4096 < offset 2 + 8 ∧
      (offset 3 % 8 = 0 ∧ offset 3 + 8 ≤ 4096 ∧ 8 ≤ offset 3) ∧ (offset 0 = 0 ∧ ∃ x, s.translate (s.agentOf f) 0 .read = .ok x ∧
        homeDie x.2.pa = dieOf f.core ∧
        (x.1.readThrough (x.1.agentOf f) x.2 (min 8 (8 - 0)) false).any (fun y => !y.2.2) = true) :=
  ⟨⟨rfl, rfl⟩, by decide, by decide, by decide, by decide, by decide, by decide, by decide, by decide, by decide, met (by decide +kernel)⟩

theorem witness_Operations :
    let o : Op := ⟨0, some .g, 0, [{ scalarPiece 1 with value := some 5 }], 0, none, 0, false, false, []⟩
    let f := { fS with nextId := 1, ops := [o] }
    let g := { fS with nextId := 1, ops := [{ o with packets := 1 }] }
    let o' := { o with replies := [7] }
    let f' := { f with ops := [o'] }
    let answered := (sS f').onLink 0 0 fun k => { k with slots := [⟨7, 0, .reply, false, false⟩] }
    ((sS f).flock? f.uid = some f ∧ (∀ o ∈ f.ops, o.id < f.nextId) ∧ f.op? 0 = some o ∧ o.complete = true) ∧
      (∀ r ∈ o.replies, (sS f).onWay r = false) ∧
      ((answered.flock? f'.uid = some f' ∧ f'.op? 0 = some o' ∧ o'.complete = true) ∧ ∃ r ∈ o'.replies, answered.onWay r = true) ∧
      ((sS g).flock? g.uid = some g ∧ g.op? 0 = some { o with packets := 1 } ∧ ({ o with packets := 1 } : Op).complete = false) ∧
      ((scalarPiece 63).scalar = true ∧ (scalarPiece 63).reg ≠ 0) ∧ ((lanePiece 255 1023 false).scalar = false ∧ (lanePiece 255 1023 false).wide = false) ∧
      (lanePiece 254 1023 true).wide = true ∧ (lanePiece 254 1023 true).lane < 1024 := by decide +kernel

theorem witness_ScalarControl :
    let f := Regs [(1, 1), (2, 15), (3, 16), (4, 2 ^ 26), (63, 15), (5, 2)]
    let s := sS f
    let z := { fS with z := 1 }
    let g := { fS with ops := [⟨0, some .g, 0, [], 1, none, 0, false, false, []⟩] }
    let far := Regs [(63, 2 ^ 26)]
    let inside (t : Int) : Bool := decide (0 ≤ t ∧ t < s.slen f)
    IssuesScalar s f ∧ (∀ r ∈ [0#6, 1#6, 2#6, 3#6, 4#6, 5#6, 63#6], Readable f r) ∧ (∀ r ∈ [1#6, 5#6, 63#6], Writable f r) ∧
      (IssuesScalar (sS z) z ∧ z.z.getLsbD 0 = true) ∧ f.z.getLsbD 0 = false ∧
      (inside (f.spc + (15 : BitVec 22).toInt) ∧ ¬ inside (f.spc + (16 : BitVec 22).toInt) ∧ ¬ inside (f.spc + (-1 : BitVec 22).toInt)) ∧
      (f.sreg 1 ≠ 0 ∧ f.sreg 0 = 0) ∧ (f.sreg 1 - 1 = 0 ∧ f.sreg 5 - 1 ≠ 0) ∧
      ((f.sreg 2).toNat < s.slen f ∧ (f.sreg 2).toNat < 2 ^ 26) ∧ (f.sreg 63).toNat < s.slen f ∧ s.slen f ≤ (f.sreg 3).toNat ∧
      2 ^ 26 ≤ (f.sreg 4).toNat ∧ f.count .g ≤ (f.sreg 0).toNat ∧
      (IssuesScalar (sS g) g ∧ (g.sreg 0).toNat < g.count .g) ∧ (f.sreg 5 ≠ 1 ∧ (f.sreg 0 ≠ 1)) ∧
      (handling f 0 (.loop 5)).site = some (.loop (5#6).toNat) ∧ (IssuesScalar (sS far) far ∧ Readable far 63 ∧ 2 ^ 26 ≤ (far.sreg 63).toNat) := by
  and_intros <;> decide +kernel

theorem witness_LaneDispatchAndStart :
    let e : QEntry := ⟨0, 0, false⟩
    let one := { fS with queue := [e] }
    let four := { fS with queue := [e, e, e, e] }
    let hm := handling fS 0 .scalar
    let beyond := { fS with queue := [⟨16, 0, false⟩] }
    let starts (w : Nat) : State := withLanes (sS one) [w]
    (IssuesScalar (sS fS) fS ∧ fS.hmode = false ∧ fS.queue = [] ∧ ∀ o ∈ fS.ops, o.tos = false) ∧
      (IssuesScalar (sS one) one ∧ one.queue ≠ [] ∧ one.queue.length < 4) ∧ (IssuesScalar (sS four) four ∧ 4 ≤ four.queue.length) ∧
      (IssuesScalar (sS hm) hm ∧ hm.hmode = true) ∧
      ((sS beyond).flock? beyond.uid = some beyond ∧ (sS beyond).llen beyond ≤ 16 ∧ (sS beyond).mayIssue beyond = true) ∧
      (0 < (sS one).llen one ∧ ∃ x, (starts 0x00000820000000000000F002).fetchLaneAt one 0 = .ok x ∧ x.2 = .vBlk { all with imm := 0x820 }) ∧
      (∃ x, (starts 0x00000000000000000000F087).fetchLaneAt one 0 = .ok x ∧ x.2 = .vExit all) ∧
      (∃ x, (starts 0x1F002).fetchLaneAt one 0 = .ok x ∧ x.2 = .reservedEncoding true 0x1F002) ∧
      (∃ x, (starts 0x1F003).fetchLaneAt one 0 = .ok x ∧ x.2 = .reservedEncoding true 0x1F003) ∧
      ∃ x, (starts 0xF0FF).fetchLaneAt one 0 = .ok x ∧ x.2 = .reservedEncoding true 0xF0FF :=
  ⟨by decide +kernel, by decide +kernel, by decide +kernel, by decide +kernel, by decide +kernel, ⟨by decide +kernel, met (by decide +kernel)⟩,
    met (by decide +kernel), met (by decide +kernel), met (by decide +kernel), met (by decide +kernel)⟩

theorem witness_Barriers :
    let f := Regs [(1, 0), (2, 32767), (3, 32768)]
    let s (v : Nat) : State := withHerd (sS f) (Bar v)
    let w := { f with bar := some ⟨0, 0⟩ }
    let target (v : Nat) : Bool := (withHerd (sS w) (Bar v)).spadTarget ((withHerd (sS w) (Bar v)).herdOf w) 0 = some (Bar v, 0)
    IssuesScalar (s 0) f ∧ Readable f 1 ∧ Readable f 2 ∧ Readable f 3 ∧ f.bar = none ∧
      ((s 0).barrierAt f 1 = .ok (Bar 0, 0) ∧ (Bar 0).obj 0 48 8 = 0 ∧ (s 0).releaseReady f .hd = true ∧ (s 0).memReady f = true ∧ f.readsReturned = true) ∧
      ((s (2 ^ 48)).barrierAt f 1 = .ok (Bar (2 ^ 48), 0) ∧ (Bar (2 ^ 48)).obj 0 48 8 ≠ 0) ∧
      ((s (2 ^ 128)).barrierAt f 1 = .ok (Bar (2 ^ 128), 0) ∧ (Bar (2 ^ 128)).obj 0 128 1 = 1) ∧
      ((s (2 ^ 16)).barrierAt f 1 = .ok (Bar (2 ^ 16), 0) ∧ (Bar (2 ^ 16)).obj 0 128 1 = 0 ∧ (Bar (2 ^ 16)).obj 0 32 16 ≠ (Bar (2 ^ 16)).obj 0 16 16) ∧
      (Bar 0).obj 0 32 16 = (Bar 0).obj 0 16 16 ∧
      ((s (255 * 2 ^ 48)).barrierAt f 1 = .ok (Bar (255 * 2 ^ 48), 0) ∧ (Bar (255 * 2 ^ 48)).obj 0 48 8 = 255) ∧
      (((Bar 0).obj 0 0 16 + 2 ^ 16 - (f.sreg 1).toNat % 2 ^ 16) % 2 ^ 16 = 0 ∧ ((Bar 0).obj 0 0 16 + 2 ^ 16 - (f.sreg 2).toNat % 2 ^ 16) % 2 ^ 16 = 32769 ∧
        ((Bar 0).obj 0 0 16 + 2 ^ 16 - (f.sreg 3).toNat % 2 ^ 16) % 2 ^ 16 = 32768 ∧
        (s 32767).barrierAt f 1 = .ok (Bar 32767, 0) ∧ (s 32767).memReady f = true ∧ ((Bar 32767).obj 0 0 16 + 2 ^ 16 - (f.sreg 1).toNat % 2 ^ 16) % 2 ^ 16 = 32767) ∧
      ((withHerd (sS w) (Bar 0)).flock? w.uid = some w ∧ target 0 ∧ (Bar 0).obj 0 0 16 = 0 ∧ target 1 ∧ (Bar 1).obj 0 0 16 = 1 ∧
        target 32767 ∧ (Bar 32767).obj 0 0 16 = 32767 ∧ target 32768 ∧ (Bar 32768).obj 0 0 16 = 32768) := by
  and_intros <;> first | decide +kernel | exact got (by decide +kernel)

theorem witness_BarrierCompletion :
    let is (v lo n x : Nat) : Bool := (Bar v).obj 0 lo n = x
    (is (2 ^ 128) 128 1 1 ∧ is 0 128 1 0 ∧ is 0 32 16 0 ∧ is 0 16 16 0 ∧ is 0 64 32 0) ∧ (is (2 ^ 16) 16 16 1 ∧ is (2 ^ 16) 32 16 0) ∧
      (is (2 ^ 64) 64 32 1 ∧ is (2 ^ 64) 96 32 0) ∧ (is (2 * 2 ^ 48) 48 8 2 ∧ is (2 * 2 ^ 48) 56 8 0) ∧ (is (2 ^ 48) 48 8 1 ∧ is (2 ^ 48) 56 8 0) := by
  decide +kernel

theorem witness_KRegisters :
    let f := Regs [(1, 2 ^ 32 - 1), (2, 2 ^ 32)]
    let one := { f with queue := [⟨0, 0, false⟩] }
    let hm := handling one 0 .scalar
    (IssuesScalar (sS f) f ∧ Readable f 1 ∧ Readable f 2 ∧ Writable f 3 ∧ f.queue = []) ∧ (IssuesScalar (sS hm) hm ∧ hm.hmode = true ∧ hm.queue ≠ []) ∧
      (IssuesScalar (sS one) one ∧ (sS one).kread one 0x040 = some 0 ∧ (0x040 : BitVec 12) ≠ 0x042 ∧ 0x100 ≤ (0x106 : BitVec 12).toNat) ∧
      (sS f).kread f 0x044 = none ∧ kwritable 0x044 = none ∧ kwritable 0x023 = some 32 ∧ (f.sreg 1).toNat < 2 ^ 32 ∧ 2 ^ 32 ≤ (f.sreg 2).toNat := by
  decide +kernel

theorem witness_TrapTaken :
    let f := { fS with tvec := 0x4000000 }
    let hm := handling f 0 .scalar
    ((sS f).flock? f.uid = some f ∧ f.bar = none ∧ (f.siteRecord .scalar).1 ≤ 1 ∧ f.tvec.getLsbD 26 = true ∧ f.hmode = false) ∧
      ((sS fS).flock? fS.uid = some fS ∧ fS.tvec.getLsbD 26 = false) ∧ ((sS hm).flock? hm.uid = some hm ∧ hm.hmode = true) ∧
      ((sL fL).flock? fL.uid = some fL ∧ (fL.siteRecord (.lane 0 none)).1 ≤ 1 ∧ (fL.siteRecord (.loop 63)).1 ≤ 1) := by decide +kernel

theorem witness_TrapInstructionsAndReturns :
    let past := { fS with spc := 16 }
    let off := { all with pred := 0 }
    let pastL := { pL with pc := 16 }
    let lanePast := { fL with paths := [pastL] }
    let h (act : Word64) (site : TrapSite) : Flock := { handling fL act site with queue := [] }
    let issues (f : Flock) : Bool := IssuesScalar (sS f) f ∧ f.hmode = true
    (IssuesScalar (sS fS) fS ∧ fS.hmode = false ∧ fS.queue = [] ∧ fS.drained = true ∧ (∀ o ∈ fS.ops, o.tos = false) ∧
        (sS fS).enginesDone fS = true) ∧ (IssuesScalar (sS past) past ∧ past.spc = (sS past).slen past) ∧
      (IssuesLane (sL fL) fL pL ∧ fL.recipe = none ∧ execMask fL pL all ≠ 0 ∧ execMask fL pL off = 0) ∧
      (IssuesLane (sL lanePast) lanePast pastL ∧ pastL.pc = (sL lanePast).llen lanePast) ∧
      (issues (h 0 (.lane 0 none)) ∧ bitsAt (h 0 (.lane 0 none)).tret.toNat 0 2 = 0) ∧ (issues (h 1 .scalar) ∧ bitsAt (h 1 .scalar).tret.toNat 0 2 = 1) ∧
      (issues (h 1 (.lane 0 none)) ∧ (h 1 (.lane 0 none)).path? 0 = some pL) ∧ issues (h 1 .blockStart) ∧ issues (h 3 .scalar) ∧
      (issues (h 2 .scalar) ∧ (h 2 .scalar).drained = true) := by decide +kernel

theorem witness_CopyAccepted :
    let f := Regs [(1, 0x100000), (2, 0x1100000), (3, 0x300000)]
    let s := withWindow (withLayout (sS f))
    let h := s.herdOf f
    IssuesScalar s f ∧ (∀ r ∈ [0#6, 1#6, 2#6, 3#6], Readable f r) ∧ (∀ o ∈ f.ops, o.id < f.nextId) ∧ f.readsReturned = true ∧ f.count .s < 255 ∧
      (cmdOk .cp 0x100000 = true ∧ cmdOk .mc 0x1100000 = true ∧ multicastOk h 0x1100000 0 = true ∧ cmdOk .xf 0x100000 = true ∧ cmdOk .xf 0x300000 = true ∧
        cmdOk .g 0x100000 = true) ∧
      ∃ x, s.layoutRecord f 0x100000 = .ok x ∧ x.1.memReady f = true ∧ (x.1.core f.core).freeEntry = some 0 ∧
        layoutOk .cp 0x100000 x.2.1 0 = true ∧ layoutOk .mc 0x1100000 x.2.1 0 = true ∧ layoutOk .xf 0x300000 x.2.1 0 = true ∧ layoutOk .g 0x100000 x.2.1 0 = true ∧
        (x.1.checkDests .cp h 0x100000 (layoutOf x.2.1) 0).isOk = true ∧ (x.1.checkDests .mc h 0x1100000 (layoutOf x.2.1) 0).isOk = true ∧
        (x.1.checkShadowRows h.session (layoutOf x.2.1) 0 0).isOk = true ∧ (x.1.checkSource h (layoutOf x.2.1) 0 0).isOk = true := by
  and_intros <;> first | decide +kernel | exact met (by decide +kernel)

theorem witness_CopyHeld :
    let f := Regs [(1, 0x100000)]
    let g := full f .s
    let r := full f .g
    let s (f : Flock) : State := withWindow (withLayout (sS f))
    (IssuesScalar (s g) g ∧ cmdOk .cp (g.sreg 1) = true ∧ cmdGlobal .cp (g.sreg 1) = false ∧ 255 ≤ g.count .s ∧
      ∃ x, (s g).layoutRecord g (g.sreg 1) = .ok x ∧ (x.1.checkDests .cp ((s g).herdOf g) (g.sreg 1) (layoutOf x.2.1) 0).isOk = true) ∧
      (IssuesScalar (s r) r ∧ r.readsReturned = false ∧ ∃ x, (s r).layoutRecord r (r.sreg 1) = .ok x ∧ x.1.memReady r = true) := by
  and_intros <;> first | decide +kernel | exact met (by decide +kernel)

theorem witness_PublicationsAndPushesHeld :
    let f := Regs [(1, 1), (2, 0x200), (3, 64)]
    let image : List Byte := List.replicate 64 0
    let c : Claim := ⟨0, ⟨0x200, 0x10200, 0, 0, false, none, 0, false⟩, ⟨0x400, 0x10400, 0, 0, false, none, 0, false⟩, image, false⟩
    let s (f : Flock) : State := { withMem (withHerd (sS f) (Bar 0)) 0x10200 64 (0x400 + 2 ^ 64) with agenda := [.orderedPacketSend unsent0] }
    let w := { f with claims := [(0, { c with written := true })] }
    let n := { f with claims := [(0, c)] }
    (IssuesScalar (s f) f ∧ (∀ r ∈ [0#6, 1#6, 2#6, 3#6], Readable f r) ∧ Writable f 4 ∧ (s f).releaseReady f .sy = false) ∧
      (∃ x, (withWindow (s f)).publishTarget 0 0 = .ok x ∧ 0 = 0) ∧ (s f).publishTarget 0 0 = .error 0x05 ∧ (0x05 ≠ notYet) ∧
      (f.sreg 1).toNat % 2 ^ 16 ≠ 0 ∧ (∃ x, (s f).sealTarget 0 0 = .ok x ∧ 0 = 0) ∧
      (SMap.get? f.claims f.claimKey = none ∧ ∃ x, (s f).pushChecks f 0x200 64 = .ok x ∧ x.1.releaseReady f .sy = false) ∧
      (IssuesScalar (s w) w ∧ SMap.get? w.claims w.claimKey = some { c with written := true } ∧ (s w).releaseReady w .sy = false) ∧
      (IssuesScalar (s n) n ∧ SMap.get? n.claims n.claimKey = some c ∧ c.written = false ∧ (s n).releaseReady n .sy = false) := by
  and_intros <;> first | decide +kernel | exact met (by decide +kernel) | exact failed (by decide +kernel)

theorem witness_PublicationsAndPushes :
    let f := Regs [(1, 1), (2, 0x200), (3, 64)]
    let image : List Byte := List.replicate 64 0
    let c : Claim := ⟨0, ⟨0x200, 0x10200, 0, 0, false, none, 0, false⟩, ⟨0x400, 0x10400, 0, 0, false, none, 0, false⟩, image, false⟩
    let g := { f with claims := [(0, c)] }
    let g' := { f with claims := [(0, { c with written := true })] }
    let s (f : Flock) : State := withMem (withHerd (sS f) (Bar 0)) 0x10200 64 (0x400 + 2 ^ 64)
    IssuesScalar (s f) f ∧ (∀ r ∈ [0#6, 1#6, 2#6, 3#6], Readable f r) ∧ Writable f 4 ∧ (s f).releaseReady f .sy = true ∧
      (∃ x, (withWindow (s f)).publishTarget 0 0 = .ok x ∧ (withWindow (s f)).windowBusy 0 x.1 = false) ∧
      ((f.sreg 1).toNat % 2 ^ 16 ≠ 0 ∧ (f.sreg 0).toNat % 2 ^ 16 = 0) ∧ (∃ x, (s f).sealTarget 0 0 = .ok x ∧ x.1 = 0x8000) ∧
      (withMem (s f) 0x8000 16 (pageEntry 16 + 2 ^ 108)).sealTarget 0 0 = .error 0x0E ∧
      (SMap.get? f.claims f.claimKey = none ∧ (∀ o ∈ f.ops, o.id < f.nextId) ∧ ∃ x, (s f).pushChecks f 0x200 64 = .ok x ∧ x.1.releaseReady f .sy = true ∧
        x.1.reachNow (x.1.agentOf f) x.2.1.pa = true ∧ (x.1.die (homeDie (x.2.1.pa + 16))).live = true) ∧
      (IssuesScalar (s g') g' ∧ SMap.get? g'.claims g'.claimKey = some { c with written := true } ∧ (s g').releaseReady g' .sy = true ∧
        ((s g').claimQueue c).qnum = 0) ∧
      (IssuesScalar (s g) g ∧ SMap.get? g.claims g.claimKey = some c ∧ c.written = false ∧ (s g).releaseReady g .sy = true ∧ (s g).reachNow ((s g).agentOf g) c.queue.pa = true ∧
        (c.slot + 2 ^ 64 - ((s g).claimQueue c).read) % 2 ^ 64 < 2 ^ ((s g).claimQueue c).sizelog) := by
  and_intros <;> first | decide +kernel | exact met (by decide +kernel) | exact failed (by decide +kernel)

theorem witness_ReservationsAndLeases :
    let f := Regs [(1, record), (2, 65536), (3, 65537)]
    let h := { Bar 0 with opbSize := 256 }
    let held := { h with rsv := [(0, record)] }
    let full := { h with rsv := (List.range 16).map fun k => (k, record) }
    let s (h : Herd) : State := withHerd (sS f) h
    let rt := { s h with paddocks := List.replicate 8 rtPaddock }
    IssuesScalar (s h) f ∧ (∀ r ∈ [0#6, 1#6, 2#6, 3#6], Readable f r) ∧ Writable f 4 ∧ (recordOk (f.sreg 1) h.opbSize = true ∧ SMap.get? h.rsv 0 = none) ∧
      (IssuesScalar (s held) f ∧ SMap.get? held.rsv 1 = none ∧ (∀ j, j < 1 → SMap.get? held.rsv j ≠ none) ∧ SMap.get? held.rsv ((f.sreg 0).toNat % 16) ≠ none ∧
        ∀ o ∈ ((s held).core f.core).mxq, o.herd = held.uid → (f.sreg 0).toNat % 16 ∉ o.handles) ∧
      recordOk (f.sreg 0) h.opbSize = false ∧ (∀ j, j < 16 → SMap.get? full.rsv j ≠ none) ∧ SMap.get? h.rsv ((f.sreg 0).toNat % 16) = none ∧
      (f.sreg 0 = 0 ∧ 65536 < (f.sreg 3).toNat ∧ f.sreg 2 ≠ 0 ∧ (f.sreg 2).toNat ≤ 65536) ∧
      ((s h).paddock ((s h).paddockOf h.session)).desc.cls = false ∧ (IssuesScalar rt f ∧ (rt.paddock (rt.paddockOf h.session)).desc.cls = true ∧
        (rt.core f.core).leaseReady h.uid = true) := by
  and_intros <;> decide +kernel

theorem witness_LaneIntegers :
    let narrowW := { all with dest := 191, sa := 191, sb := 255, sc := 192 }
    let wideW := { all with sub := 6, dest := 190, sa := 190, sb := 188, sc := 186 }
    IssuesLane (sL fL) fL pL ∧ LaneReady fL pL narrowW (intSources narrowW (intTy 0) 3) [dst narrowW] ∧
      LaneReady fL pL wideW (intSources wideW (intTy 6) 3) [dst wideW 2 2] ∧ ((intTy 0).w = 32 ∧ (intTy 6).w = 64 ∧ (intTy 4).w = 8) ∧
      (narrowW.sub = 0 ∧ wideW.sub ≠ 0) ∧ LaneReady fL pL narrowW [] [dst narrowW] ∧
      (IssuesLane (sL (full fL .m)) (full fL .m) pL ∧ LaneReady (full fL .m) pL narrowW [] [dst narrowW] ∧
        ∃ o ∈ (full fL .m).ops, o.counter = some .m ∧ o.written = false) ∧ (sL fL).kread fL ((0x042 : BitVec 32).toNat % 2 ^ 12) = some 0 := by
  and_intros <;> decide +kernel

theorem witness_LaneFloats :
    let w := { all with dest := 191, sa := 191, sb := 255, sc := 192 }
    let h := { w with sub := 1 }
    IssuesLane (sL fL) fL pL ∧ LaneReady fL pL w (floatSources w 3) [dst w] ∧ LaneReady fL pL w (floatSources w 2) [] ∧ (floatTy h.sub).width = 16 ∧
      LaneReady fL pL h (floatSources h 3) [dst h] := by decide +kernel

theorem witness_RoundingRules :
    ((⟨true, 3, -1, false⟩ : Mag).more = false ∧ (-1 : Int) < 0) ∧ fp32 ∈ [fp32, fp16, bf16, e5m2, e4m3, e3m2, e2m1] ∧
      0x00000001 < 2 ^ fp32.width ∧ fp32.decode 0x00000001 = .fin ⟨false, 1, -149, false⟩ ∧
      fp32.decode 0x7F7FFFFF = .fin ⟨false, 2 ^ 24 - 1, 104, false⟩ ∧ fp32.decode 0x80000000 = .fin ⟨true, 0, -149, false⟩ := by decide +kernel

theorem witness_LaneConversions :
    let w := { all with dest := 8, sa := 190, sb := 12, sc := 255, imm := 0x2000000 }
    let wide := { w with dest := 190, sa := 188, imm := 0xEE000000 }
    let ef := { w with imm := 0x400000 }
    let packs := { w with imm := 0x9000000 }
    IssuesLane (sL fL) fL pL ∧
      -- vCvt
      (dfmt w ≠ 14 ∧ LaneReady fL pL w [srcA w (cvtRegs (sfmt w)) (cvtRegs (sfmt w))] [dst w]) ∧
      (dfmt wide = 14 ∧ LaneReady fL pL wide [srcA wide (cvtRegs (sfmt wide)) (cvtRegs (sfmt wide))] [dst wide 2 2]) ∧
      -- vCvtW, vBfpUnpack, vUnpack and vBfpPack without residues
      LaneReady fL pL w [srcA w] [dst w] ∧ w.imm.getLsbD 22 = false ∧
      -- vBfpPack with residues
      (ef.imm.getLsbD 22 = true ∧ LaneReady fL pL ef [srcA ef, srcB ef] [dst ef, ⟨ef.sb, 1, 1⟩]) ∧
      -- vCvtEf
      LaneReady fL pL w [srcA w, srcB w, srcC w] [dst w, ⟨w.sb, 1, 1⟩] ∧
      -- vCvtN and vPack, to two elements of a word and to the whole word
      (decide (2 < dfmt w) = false ∧ decide (dfmt w < 10) = true ∧ decide (2 < dfmt packs) = true ∧ decide (dfmt wide < 10) = false) ∧
      LaneReady fL pL w [srcA w, srcB w] [dst w] ∧ LaneReady fL pL w [srcA w, srcB w, srcC w] [dst w] ∧
      LaneReady fL pL packs [srcA packs, srcB packs, srcC packs] [dst packs] ∧ LaneReady fL pL wide [srcA wide, srcB wide] [dst wide] := by
  and_intros <;> decide +kernel

theorem witness_LaneCross :
    let w := { all with sub := 8, dest := 190, sa := 188, sb := 255, imm := 10 }
    let v := { all with dest := 191, sa := 191, imm := 10 }
    let t := { all with dest := 255, sa := 190, imm := 31 }
    let o : Op := ⟨0, none, 0, [{ scalarPiece 63 with value := some 5 }], 0, none, 0, true, false, []⟩
    let f := { fL with ops := [o] }
    IssuesLane (sL fL) fL pL ∧ (checkNames fL [srcA w 2 2, srcB w] [dst w 2 2]).isOk = true ∧ (checkNames fL [srcA w 2 2] [dst w 2 2]).isOk = true ∧
      (∀ l ∈ laneList fL pL w, ((srcB w).emptyAt fL (some l) = false ∧ (srcB w).poisonedAt fL (some l) = false) ∧
        (∀ j ∈ [some 0, some 31, none], (srcA w 2 2).emptyAt fL j = false ∧ (srcA w 2 2).poisonedAt fL j = false) ∧
        ∀ i ∈ List.range 2, fL.vFull (190 + i) l = true) ∧
      LaneReady fL pL v [srcA v] [dst v] ∧
      (192 ≤ t.dest.toNat ∧ fL.mayName (t.dest.toNat - 192) = true ∧ fL.sFull (t.dest.toNat - 192) = true ∧ (srcA t).ok fL = true ∧
        ∀ j ∈ [some 31, none], (srcA t).emptyAt fL j = false ∧ (srcA t).poisonedAt fL j = false) ∧
      (sL f).flock? f.uid = some f ∧ f.op? 0 = some o ∧ o.complete = true ∧ ∀ r ∈ o.replies, (sL f).onWay r = false := by decide +kernel

theorem witness_LaneGlobalMemory :
    let w := { all with sub := 4, dest := 188, sa := 2, sb := 255, sc := 184, imm := 4080 }
    let x := { all with sub := 3, dest := 188, sa := 2, sb := 190, sc := 184, imm := 0 }
    let s := sL fL
    let lanes (w : LaneWord) : List Nat := laneList fL pL w
    IssuesLane s fL pL ∧ fL.count .g < 255 ∧ fL.count .f < 255 ∧
      LaneReady fL pL w [addrPair w, srcB w] [dst w 4 4] ∧ LaneReady fL pL w [addrPair w, srcB w, srcC w 4 4] [] ∧
      LaneReady fL pL x ([addrPair x, srcB x 2 2] ++ [srcC x 2 2]) [dst x 2 2] ∧
      (∃ y, s.checkLanes (s.agentOf fL) .read 16 ((lanes w).map fun l => (l, fL.globalAddr w true l)) = .ok y ∧ y.1.memReady fL = true ∧ y.1.readReady fL = true ∧
        (∀ z ∈ y.2.flatMap (fun z => loadParts w z.1 z.2), fL.overlaps z.loc.pa z.piece.bytes = false) ∧
        (y.1.countRequests fL ((y.2.flatMap fun z => loadParts w z.1 z.2).map fun z => (0, z.loc))).isSome = true) ∧
      (∃ y, s.checkLanes (s.agentOf fL) .write 16 ((lanes w).map fun l => (l, fL.globalAddr w true l)) = .ok y ∧
        y.1.memReady fL = true ∧ (∀ z ∈ y.2, fL.overlaps z.2.pa 16 = false) ∧ y.1.releaseReady fL .sy = true ∧ (y.1.countRequests fL (y.2.map fun z => (0, z.2))).isSome = true ∧
        (y.1.countRequests fL y.2).isSome = true) ∧
      (LaneReady fL pL w [addrPair w, srcB w] [] ∧ s.memKeys = [] ∧ (∀ d ∈ List.range 4, (s.die d).keys = []) ∧
        ((lanes w).foldl (fun x l => x.bind fun s => s.prefetchLine (s.agentOf fL) (w.sub = 0) (fL.globalAddr w true l)) (some s)).any (fun t => s.mayHaveSent t (s.agentOf fL)) = true) ∧
      ∃ y, s.checkLanes (s.agentOf fL) .atomic 8 ((lanes x).map fun l => (l, fL.globalAddr x false l)) = .ok y ∧ y.1.memReady fL = true ∧ y.1.releaseReady fL .sy = true ∧
        (∀ z ∈ y.2, fL.overlaps z.2.pa 8 = false) ∧ (y.1.countRequests fL y.2).isSome = true := by
  and_intros <;> first | decide +kernel | exact met (by decide +kernel)

theorem witness_LaneGlobalMemoryHeld :
    let w := { all with sub := 4, dest := 188, sa := 2, sb := 192, sc := 184, imm := 0 }
    let x := { w with sub := 3, sb := 192 }
    let s (f : Flock) : State := sL f
    let near := { fL with s := [(1, 1)] }
    let far := { fL with v := [(laneKey 3 0, 0x10000)] }
    let wide := { w with sb := 193 }
    let stalled := farTables (s fL)
    let g := full fL .g
    (IssuesLane (s near) near pL ∧ near.recipe = none ∧ laneList near pL wide = [] ++ 0 :: (List.range 32).drop 1 ∧
        LaneReady near pL wide [addrPair wide, srcB wide] [dst wide 4 4] ∧ near.globalAddr wide true 0 % 16 ≠ 0) ∧
      (IssuesLane (s far) far pL ∧ LaneReady far pL w [addrPair w, srcB w, srcC w 4 4] [] ∧ far.globalAddr w true 0 % 16 = 0 ∧ 0x05 ≠ notYet) ∧
      (s far).translate ((s far).agentOf far) (far.globalAddr w true 0) .write = .error 0x05 ∧
      (IssuesLane stalled fL pL ∧ LaneReady fL pL x ([addrPair x, srcB x 2 2] ++ [srcC x 2 2]) [dst x 2 2] ∧ fL.globalAddr x false 0 % 8 = 0) ∧
      stalled.translate (stalled.agentOf fL) (fL.globalAddr x false 0) .atomic = .error notYet ∧
      (IssuesLane (s g) g pL ∧ 255 ≤ g.count .g ∧ LaneReady g pL w [addrPair w, srcB w] [dst w 4 4] ∧
        ∃ y, (s g).checkLanes ((s g).agentOf g) .read 16 ((laneList g pL w).map fun l => (l, g.globalAddr w true l)) = .ok y ∧ y.1.memReady g = true) ∧
      stalled.prefetchLine (stalled.agentOf fL) (w.sub = 0) (fL.globalAddr w true 0) = none := by
  and_intros <;> first | decide +kernel | exact met (ε := Stop) (by decide +kernel) | exact failed (by decide +kernel)

/-- A page of session 0 at virtual page 16: its tables, a copy-on-write entry whose overlay is frame 40, and accesses that fail. -/
theorem witness_Translations :
    let s (e : Nat) : State := withMem (sS fS) 0x8000 16 e
    let cow := pageEntry 32 + 40 * 2 ^ 40 + 2 ^ 108
    let ag := (sS fS).agentOf fS
    let none_ (e : Nat) (k : Access) (c : Nat) : Prop := (s e).translate ag 0x10 k = .error c
    let at_ (n : Nat) (pa : Nat) : Prop := ∃ e, (sS fS).readEntry (some ag) pa = .ok e ∧ (pteBit e 106 = true ∧ pteSize e = n)
    (at_ 3 ((sS fS).root 0 * 4096)) ∧ (∃ x, (s cow).lookup ag 0x10 = .ok x ∧ pteBit x.2 108 = true ∧ pteBit x.2 107 = true ∧ pteGranules x.2 = 0) ∧
      (∃ v, (s cow).copyGranule 0 0x10 0x8000 cow = .ok v ∧ (Memory.read v.mem 0x8000 16 = withBits cow 80 16 1 ∧ v.memKeys = [])) ∧
      ((s cow).memKeys = [] ∧ (∀ d ∈ List.range 4, ((s cow).die d).keys = []) ∧ cow < 2 ^ 128 ∧ pteOverlay cow = 40 ∧ pteFrame cow = 32 ∧
        0x8000 + 16 ≤ 40 * 4096 ∧ pteGranules cow ||| 2 ^ 0 ≠ 0xFFFF) ∧
      (∃ x, (s cow).translate ag 0x10 .write = .ok x ∧ x.2.pa = 40 * 4096 + 0x10) ∧ (∃ x, (s (pageEntry 32)).translate ag 0x10 .write = .ok x ∧ x.2.pa = 32 * 4096 + 0x10) ∧
      none_ (pageEntry (2 ^ 27)) .read 0x05 ∧ none_ (pageEntry 32 - 2 ^ 107) .write 0x06 ∧ none_ (pageEntry 32 + 2 ^ 96) .read 0x07 ∧ none_ 0 .read 0x05 := by
  and_intros <;> first | decide +kernel | exact met (by decide +kernel) | exact failed (by decide +kernel)

theorem witness_MemoryPerformed :
    let s := sL fL
    let bad := { s with memPoison := [0x400] }
    (s.die (homeDie 0x10000)).live = true ∧ s.memPoisoned 0x10000 8 = false ∧ 2 ^ 64 - 1 < 2 ^ (8 * 8) ∧ bad.memPoisoned 0x10000 4 = true := by
  decide +kernel

theorem witness_LaneScratchpad :
    let w := { all with sub := 4, dest := 188, sa := 191, sb := 255, sc := 184, imm := 4080 }
    let x := { all with sub := 3, dest := 188, sa := 191, sb := 190, sc := 184, imm := 0 }
    let mine := withHerd (sL fL) (Bar 0)
    let a := { fL with v := (List.range 32).map fun l => (laneKey 191 l, 0x280000) }
    let gang := { (sL a) with herds := [{ Bar 0 with gang := some 9 }, { Bar 0 with uid := 7, core := 1, seat := 1, gang := some 9 }] }
    (IssuesLane mine fL pL ∧ mine.memReady fL = true ∧ mine.releaseReady fL .sy = true) ∧ LaneReady fL pL w [srcA w, srcB w] [dst w 4 4] ∧
      LaneReady fL pL w [srcA w, srcB w, srcC w 4 4] [] ∧ LaneReady fL pL x ([srcA x, srcB x 2 2] ++ [srcC x 2 2]) [dst x 2 2] ∧
      (∃ xs, mine.checkSpadLanes (mine.herdOf fL) .read 16 ((laneList fL pL w).map fun l => (l, fL.spadAddr w true l)) = .ok xs ∧
        ∀ y ∈ xs, y.2.1 = fL.herd) ∧
      (∃ xs, mine.checkSpadLanes (mine.herdOf fL) .write 16 ((laneList fL pL w).map fun l => (l, fL.spadAddr w true l)) = .ok xs ∧ xs.length = 32) ∧
      (∃ xs, mine.checkSpadLanes (mine.herdOf fL) .atomic 8 ((laneList fL pL x).map fun l => (l, fL.spadAddr x false l)) = .ok xs ∧ xs.length = 32) ∧
      (IssuesLane gang a pL ∧ gang.memReady a = true ∧ ∃ xs, gang.checkSpadLanes (gang.herdOf a) .read 16 ((laneList a pL w).map fun l => (l, a.spadAddr w true l)) = .ok xs ∧
        ∃ y ∈ xs, y.2.1 ≠ a.herd) := by
  and_intros <;> first | decide +kernel | exact met (by decide +kernel)

theorem witness_LaneScratchpadHeld :
    let w := { all with sub := 4, dest := 188, sa := 191, sb := 192, sc := 184, imm := 0 }
    let g : Flock := { fL with ops := [⟨0, none, 0, [scalarPiece 1], 0, some .sy, 0, false, false, []⟩], nextId := 1 }
    let past := { fL with v := [(laneKey 191 0, 4096)] }
    let off := { fL with s := [(1, 1)] }
    let wide := { w with sb := 193 }
    let at_ (f : Flock) : State := withHerd (sL f) (Bar 0)
    (IssuesLane (at_ g) g pL ∧ LaneReady g pL w [srcA w, srcB w] [dst w 4 4] ∧ (at_ g).memReady g = false ∧
      ∃ xs, (at_ g).checkSpadLanes ((at_ g).herdOf g) .read 16 ((laneList g pL w).map fun l => (l, g.spadAddr w true l)) = .ok xs ∧ xs.length = 32) ∧
      (IssuesLane (at_ past) past pL ∧ past.recipe = none ∧ LaneReady past pL w [srcA w, srcB w, srcC w 4 4] [] ∧
        laneList past pL w = [] ++ 0 :: (List.range 32).drop 1 ∧ past.spadAddr w true 0 % 16 = 0 ∧
        ((at_ past).spadTarget ((at_ past).herdOf past) (past.spadAddr w true 0)).all (fun y => y.1.spadSize ≤ y.2) = true) ∧
      (IssuesLane (at_ off) off pL ∧ LaneReady off pL wide [srcA wide, srcB wide] [dst wide 4 4] ∧ off.spadAddr wide true 0 % 16 ≠ 0) := by
  and_intros <;> first | decide +kernel | exact met (ε := Stop) (by decide +kernel)

theorem witness_LaneBranches :
    let w := { all with dest := 1, imm := 15 }
    let some_ := { w with pred := 0 }
    let f := { fL with q := [LaneMask.below 16] }
    let p5 := { pL with entries := [5] }
    let j := { inEntry (Ent 1) pL with q := [LaneMask.below 16] }
    let jw := { inEntry (Ent 2) pL with q := [LaneMask.below 16] }
    let deep := { pL with entries := List.range 32 }
    let full := { f with entries := (List.range 32).map fun n => { Ent 9 with id := n }, paths := [deep] }
    let s (f : Flock) : State := withLanes (sL f) points
    let known := { s f with cores := (s f).cores.map fun x => (x.1, { x.2 with predictor := [(0, ⟨0, []⟩)] }) }
    let v := { all with dest := 2, sa := 193, imm := 1 }
    let timed (e : Entry) : Flock := { inEntry e pL with s := [(1, 5)] }
    let waits (g : Flock) : Bool := g.branches = [] ∧ 192 ≤ v.sa.toNat ∧ (srcA v).ok g = true ∧ (srcA v).emptyAt g (some 0) = false ∧
      (srcA v).poisonedAt g (some 0) = false ∧ g.read32 v (srcA v) 0 ≠ 0
    let open_ := { fL with s := [(1, 5)] }
    let out := { Ent 0 with timedOut := some 0 }
    let due := { Ent 0 with timer := some (0, 1, 2) }
    let late := (s (timed due)).onDie 0 fun d => { d with cycle := 1 }
    (IssuesLane (s f) f pL ∧ 15 < (s f).llen f ∧ (s f).predicts f pL = none ∧ execMask f pL all ≠ 0 ∧ pL.mask &&& ~~~(execMask f pL all) = 0 ∧
        execMask f pL { some_ with pred := 1 } = 0 ∧ f.splitKind pL (execMask f pL some_) 15 1 = .push) ∧
      (s f).pointKind f (branchPoint w) = .ok (some false) ∧ (s f).pointKind f (branchPoint { w with dest := 2 }) = .ok (some true) ∧
      (s f).pointKind f (branchPoint { w with dest := 16 }) = .ok none ∧ (s f).pointKind f (branchPoint { w with dest := 0 }) = .ok none ∧
      (IssuesLane (s j) j p5 ∧ (s j).predicts j p5 = none ∧ j.splitKind p5 (execMask j p5 some_) 1 1 = .join true ∧
        j.splitKind p5 (execMask j p5 some_) 15 1 = .join false) ∧ (s j).pointKind j 1 = .ok (some false) ∧
      (IssuesLane (s jw) jw p5 ∧ jw.splitKind p5 (execMask jw p5 some_) 2 2 = .join true) ∧ (s jw).pointKind jw 2 = .ok (some true) ∧
      (IssuesLane known f pL ∧ known.predicts f pL = some ⟨0, []⟩ ∧ f.splitKind pL (execMask f pL some_) 15 1 ≠ .overflow) ∧
      (IssuesLane (s full) full deep ∧ full.splitKind deep (execMask full deep some_) 15 1 = .overflow) ∧ (s full).pointKind full 1 = .ok (some false) ∧
      known.pointKind f 1 = .ok (some false) ∧ (IssuesLane (s open_) open_ pL ∧ open_.innermost pL = none ∧ waits open_) ∧
      (s open_).pointKind open_ 1 = .ok (some false) ∧
      (IssuesLane (s (timed (Ent 9))) (timed (Ent 9)) p5 ∧ (timed (Ent 9)).innermost p5 = some (Ent 9) ∧ waits (timed (Ent 9))) ∧
      (s (timed (Ent 9))).pointKind (timed (Ent 9)) 1 = .ok (some false) ∧
      (IssuesLane (s (timed (Ent 0))) (timed (Ent 0)) p5 ∧ (timed (Ent 0)).innermost p5 = some (Ent 0) ∧ waits (timed (Ent 0))) ∧
      (s (timed (Ent 0))).pointKind (timed (Ent 0)) 1 = .ok (some false) ∧
      (IssuesLane (s (timed out)) (timed out) p5 ∧ (timed out).innermost p5 = some out ∧ waits (timed out)) ∧
      (s (timed out)).pointKind (timed out) 1 = .ok (some false) ∧
      (IssuesLane (s (timed due)) (timed due) p5 ∧ (timed due).innermost p5 = some due ∧ waits (timed due) ∧ ((s (timed due)).die 0).cycle ≤ 0) ∧
      (s (timed due)).pointKind (timed due) 1 = .ok (some false) ∧
      (IssuesLane late (timed due) p5 ∧ 0 < (late.die 0).cycle) ∧ late.pointKind (timed due) 1 = .ok (some false) := by
  and_intros <;> first | decide +kernel | exact got (ε := Stop) (by decide +kernel)

theorem witness_Divergence :
    let a : Machine.Path := Path.start 0 3 (LaneMask.below 16) 0 [5] .arrived
    let b : Machine.Path := Path.start 1 3 (LaneMask.below 32 &&& ~~~(LaneMask.below 16)) 1 [5] .arrived
    (pL.entries = [] ∧ fL.paths = [pL]) ∧ a.status = .arrived ∧ b.status = .arrived ∧ a.entries = [(Ent 3).id] ∧ b.entries = [(Ent 3).id] ∧
      (Ent 3).members = a.mask ||| b.mask ∧ (Ent 3).members ≠ 0 := by decide +kernel

theorem witness_DivergenceNested :
    let third (n : Nat) : LaneMask := LaneMask.below (8 * n + 8) &&& ~~~(LaneMask.below (8 * n))
    let at_ (n : Nat) : Machine.Path := Path.start n 3 (third n) 1 [5, 4] .arrived
    let e : Entry := { Ent 3 with members := LaneMask.below 24, outermost := false, arm := 1 }
    let f := { fL with paths := [at_ 0, at_ 1, at_ 2], entries := [e, { Ent 9 with id := 4 }] }
    let one : Machine.Path := Path.start 0 7 (third 0) 1 [5, 4] .ready
    let two : Machine.Path := Path.start 1 8 (LaneMask.below 24 &&& ~~~(third 0)) 1 [5, 4] .pending
    let g := { f with paths := [one, two] }
    ((at_ 0).entries ≠ [] ∧ f.arrivedAt e.id = at_ 0 :: [at_ 1, at_ 2] ∧ f.entryComplete e = true ∧ e.members ≠ 0) ∧
      ((∀ x ∈ g.paths, x.mask ≠ 0) ∧ (∀ x ∈ g.entries, x.members ≠ 0 ∧ g.entryComplete x = false) ∧ two ∈ g.paths ∧ two.status = .pending ∧
        two.entries.head? = some 5) ∧ ¬(one.status = .stopped ∨ one.status = .arrived ∧ one.entries.head? = some 5) := by decide +kernel

theorem witness_UnconfirmedIssue :
    let plain : Issued := ⟨0, none, [], 1, 1, [], [], [], false, false⟩
    let g (n : Nat) : Guess := ⟨0, true, List.replicate n plain⟩
    let under (n : Nat) : Machine.Path := { pL with guess := some (g n) }
    let arm (n : Nat) : Flock := { fL with paths := [under n] }
    let store : Guess := ⟨0, true, [{ plain with held := some ([], []) }]⟩
    let stored : Flock := { fL with paths := [{ pL with guess := some store }] }
    let key := laneKey 8 31
    let load : Issued := { plain with firstOp := 0, undo := [(key, ⟨7, true, false⟩)] }
    let o : Op := ⟨0, some .g, 0, [lanePiece 8 31 false], 0, none, 0, false, false, []⟩
    let anew : Machine.Path := { pL with redo := [⟨0, LaneMask.below 16, none, 0, 0, [plain]⟩], after := 9 }
    let again : Flock := { fL with paths := [anew] }
    let bad : Machine.Path := { pL with heldFault := some 0 }
    let failed : Flock := { fL with paths := [bad] }
    let issues (f : Flock) (p : Machine.Path) : Prop := (sL f).cur = some ⟨f.uid, some p.id⟩ ∧ (sL f).flock? f.uid = some f ∧ f.path? p.id = some p
    let w := { all with dest := 191, sa := 191, sb := 255 }
    (issues (arm 0) (under 0) ∧ (under 0).guess = some (g 0) ∧ (g 0).log.length < 32 ∧ execMask (arm 0) (under 0) all ≠ 0 ∧
        LaneReady (arm 0) (under 0) w (intSources w (intTy w.sub) 2) [dst w (intTy w.sub).regs (intTy w.sub).regs]) ∧
      (issues (arm 31) (under 31) ∧ (g 31).log.length < 32) ∧ (issues (arm 32) (under 32) ∧ 32 ≤ (g 32).log.length) ∧
      (issues stored { pL with guess := some store } ∧ store.log.length < 32 ∧ store.holdsStore = true) ∧
      (pL.mask.has (key % 1024) = true ∧ SMap.get fL.v 0 key ≠ SMap.get ({ fL with v := [(key, 7)] } : Flock).v 0 key) ∧
      (load.undo = [(key, ⟨7, true, false⟩)] ∧ (LaneMask.below 32).has (key % 1024) = true ∧ (LaneMask.below 32).has (laneKey 8 32 % 1024) = false ∧
        (14 : Nat) < fL.q.length) ∧
      (load.firstOp ≤ o.id ∧ o.id < load.nextOp ∧ o.pieces ≠ [] ∧ ∀ x ∈ o.pieces, x.scalar = false ∧ (LaneMask.below 32).has x.lane = true) ∧
      (issues again anew ∧ anew.guess = none ∧ anew.redo ≠ [] ∧
        LaneReady again { anew with mask := LaneMask.below 16 } w (intSources w (intTy w.sub) 2) [dst w (intTy w.sub).regs (intTy w.sub).regs]) ∧
      (IssuesLane (sL failed) failed bad ∧ failed.recipe = none ∧ bad.heldFault = some bad.pc ∧ execMask failed bad all ≠ 0 ∧ bad.arm < 2 ∧
        (0xFF : Nat) < 2 ^ 8) := by
  and_intros <;> decide +kernel

theorem witness_LaneBlocksAndExits :
    let s := withMem (withRcb (sL fL) fun r => { r with recipe := 0x100, rcount := 1 }) 0x10100 48 1
    let called := { fL with call := some [⟨0, 1, 0, 0, 0, 1⟩], queue := [] }
    let two := { fL with paths := [pL, { pL with id := 1, mask := 1 }] }
    (IssuesLane s fL pL ∧ fL.alone 0 = true) ∧ s.recipeEntry fL 1 = .ok none ∧ (∃ e, s.recipeEntry fL 0 = .ok e ∧ e.isSome = true) ∧
      (IssuesLane (sL two) two pL ∧ two.alone 0 = false) ∧ (sL two).recipeEntry two 0 = .ok none ∧ (fL.call = none ∧ fL.queue = [⟨0, BitVec.allOnes 64, true⟩] ∧ fL.paths = [pL] ∧
        fL.entries = [] ∧ pL.mask ≠ 0) ∧ (IssuesLane (sL called) called pL ∧ called.call ≠ none ∧ called.resultsFull pL = true) := by
  and_intros <;> first | decide +kernel | exact got (ε := Stop) (by decide +kernel) | exact met (ε := Stop) (by decide +kernel)

theorem witness_Regrouping :
    let w := { all with pred := 0, dest := 160, sa := 0, sb := 32, sc := 32, imm := 24 * 2 ^ 26 + 15 }
    let called := { fL with call := some [⟨0, 1, 0, 0, 0, 1⟩], queue := [] }
    (IssuesLane (sL fL) fL pL ∧ (sL fL).handsOver fL = true ∧ fL.branches = [] ∧ fL.call = none ∧ 1 ≤ w.sb.toNat ∧ w.sb.toNat ≤ 32 ∧ w.sc.toNat ≤ w.sb.toNat ∧ w.dest.toNat + w.sb.toNat ≤ fL.regs ∧
        w.imm.toNat / 2 ^ 26 % 2 ^ 6 = 24 ∧ w.sb.toNat ≤ 8 * 24 ∧ (srcA w).ok fL = true ∧ w.imm.toNat % 2 ^ 26 < (sL fL).llen fL ∧
        (checkNames fL [srcA w] [⟨w.dest, 32, 1⟩]).isOk = true ∧
        ∀ l ∈ pL.mask.lanes fL.lanes, (srcA w).emptyAt fL (laneRead w fL.lanes (srcA w).mod l) = false ∧
          (srcA w).poisonedAt fL (laneRead w fL.lanes (srcA w).mod l) = false ∧ ∀ i ∈ List.range 32, fL.vFull (160 + i) l = true) ∧
      (IssuesLane (sL called) called pL ∧ called.call ≠ none ∧ called.resultsFull pL = true ∧ (sL called).handsOver called = true) := by decide +kernel

theorem witness_HandsOverHeld :
    let w := { all with pred := 0, dest := 160, sa := 0, sb := 32, sc := 32, imm := 24 * 2 ^ 26 + 15 }
    let reading := full fL .g
    let called (f : Flock) : Flock := { f with call := some [⟨0, 1, 0, 0, 0, 1⟩], queue := [] }
    let empty (f : Flock) : Flock := { f with vEmpty := [laneKey 160 0] }
    let unready := empty fL
    let owes : Flock := { called fL with vEmpty := [laneKey 0 0] }
    (IssuesLane (sL reading) reading pL ∧ reading.branches = [] ∧ reading.call = none ∧ (srcA w).ok reading = true ∧
        (sL reading).handsOver reading = false ∧ w.imm.toNat % 2 ^ 26 < (sL reading).llen reading ∧ (sL fL).llen fL ≤ 2 ^ 20) ∧
      (IssuesLane (sL (called reading)) (called reading) pL ∧ (called reading).call ≠ none ∧ (called reading).resultsFull pL = true ∧
        (sL (called reading)).handsOver (called reading) = false) ∧
      (IssuesLane (sL owes) owes pL ∧ owes.resultsFull pL = false) ∧
      (IssuesLane (sL unready) unready pL ∧ unready.branches = [] ∧ (srcA w).trapping unready pL w = false ∧
        ∃ l ∈ pL.mask.lanes unready.lanes, ∃ i ∈ List.range 32, unready.vFull (160 + i) l = false) := by
  and_intros <;> decide +kernel

theorem witness_MatrixInstructions :
    let p := { pL with mask := LaneMask.below 64 }
    let lanes := laneList fM p all
    let rf := { all with sub := 15, sa := 176, imm := 2 * 2 ^ 5 }
    let ld := { all with sub := 15, dest := 176, imm := 48 + 15 * 2 ^ 6 }
    let dr := { all with sub := 15, dest := 176, sb := 192, imm := 63 }
    let dg := { all with sub := 7, sa := 190, sb := 192, imm := 63 + 2 ^ 15 }
    let put := { all with sa := 176, sb := 191, imm := 15 * 2 ^ 4 + 192 * 2 ^ 8 }
    let windowed := withWindow sM
    (IssuesLane sM fM p ∧ (∀ o ∈ fM.ops, o.id < fM.nextId) ∧ (sM.core fM.core).engineOn = true ∧ (∀ c < 2, sM.mxRoom fM c 16 = true) ∧ fM.count .m < 255 ∧
        sM.herd? fM.herd = some (sM.herdOf fM) ∧ (sM.herdOf fM).ctxs.length = 2) ∧
      ((checkOperands fM p { all with sa := 192 } [0] [srcA { all with sa := 192 }] []).isOk = true ∧ sM.recordOf fM 0 = some 2113536 ∧
        mxClass (recordFmt 2113536).fmt ≠ 4 ∧ rowInside 2113536 (0 + 63) = true) ∧
      (sM.tilesOk fM 15 lanes = true ∧ sM.planeAccepts fM 1 2 (mmaSat rf) = true ∧ (checkOperands fM p rf lanes [srcA rf 16] []).isOk = true ∧
        partialQuarter lanes = none) ∧
      ((checkOperands fM p ld lanes [⟨ld.dest, 3, 0, 16, 1⟩] [dst ld 16 1]).isOk = true ∧ 48 + 16 ≤ 64 ∧ (sM.tilesFree fM p (laneTiles 15 lanes)).isOk = true ∧
        sM.tilesOk fM 15 [] = true) ∧
      (drainOk dr = true ∧ (checkOperands fM p dr lanes [srcB dr] [dst dr (accN dr) 1]).isOk = true ∧
        (sM.drainMultipliers fM (drainOf dr 0) 0).isOk = true) ∧
      (IssuesLane windowed fM p ∧ windowed.tilesOk fM 7 lanes = true ∧ drainOk dg = true ∧ (checkOperands fM p dg lanes [addrPair dg, srcB dg] []).isOk = true ∧
        (windowed.drainLocs fM dg 1 lanes).isOk = true ∧ windowed.releaseReady fM .mo = true) ∧
      ((checkOperands fM p put lanes [srcA put 16, srcB put] []).isOk = true ∧ sM.recordOf fM 15 = some 256 ∧
        ∀ l ∈ lanes, ((fM.read32 put (srcB put) l).toNat + 192) % 4 = 0 ∧ (fM.read32 put (srcB put) l).toNat + 192 + 4 * 16 ≤ recordLen 256) := by
  and_intros <;> decide +kernel

theorem witness_MatrixEngine :
    let o : MxOp := ⟨2, 0, 1, 0, 0, 0, none, 0, none, .swap⟩
    let k := { Core.reset with engineOn := true, mxq := [o] }
    let on := { sM with cores := [(0, k)] }
    let off := { sM with cores := [(0, { k with engineOn := false })] }
    ((on.core 0).engineOn = true ∧ (on.core 0).nextMx = some o) ∧ ((off.core 0).engineOn = false ∧ (off.core 0).mxq ≠ []) ∧
      (sM.herd? o.herd = some (sM.herdOf fM) ∧ o.ctx < (sM.herdOf fM).ctxs.length ∧ o.op = none) ∧
      ((3 : Nat) < 8 ∧ 63 < 64 ∧ [0#32, 1#32].length = 2 ∧ 62 + 2 ≤ 64) := by decide +kernel

theorem witness_SamplerAndTree :
    let w := { all with dest := 190, sa := 184, sb := 193, sc := 194 }
    let b := { all with dest := 189, sa := 184, sb := 183, sc := 191 }
    let s := sL fL
    let full1 := full fL .t
    let far := farTables (withMem s 96 3 0x10)
    IssuesLane s fL pL ∧ s.memReady fL = true ∧ (∀ o ∈ fL.ops, o.id < fL.nextId) ∧ fL.readsReturned = true ∧
      s.memKeys = [] ∧ (∀ d ∈ List.range 4, (s.die d).keys = []) ∧ fL.count .t < 255 ∧ fL.count .x < 255 ∧
      ((checkNames fL [srcA w 8, srcB w, srcC w] [dst w 2]).isOk = true ∧ w.sa.toNat < 192 ∧ ∀ l ∈ laneList fL pL w,
        (∀ x ∈ [srcA w 8, srcB w, srcC w], ∀ j ∈ (List.range 4).map (l / 4 * 4 + ·), x.emptyAt fL (some j) = false ∧ x.poisonedAt fL (some j) = false) ∧
        ∀ j ∈ List.range 2, fL.vFull (190 + j) l = true) ∧
      (192 ≤ w.sb.toNat ∧ 192 ≤ w.sc.toNat ∧ LaneReady fL pL { w with dest := 188 } [srcA w 8, srcB w, srcC w] [⟨188, 4, 1⟩]) ∧
      (b.sb.toNat < 192 ∧ LaneReady fL pL b [srcA b 8, srcB b 9] [dst b 3]) ∧
      (∃ y, s.unitLanes (texLodLane w s fL (s.agentOf fL)) (laneList fL pL w) = some y ∧ s.mayHaveSent y.1 (s.agentOf fL) = true) ∧
      (∃ y, s.unitLanes (fun l => placedQuery (s.agentOf fL) (isectBoxLane b s fL (s.agentOf fL) l)) (laneList fL pL b) = some y ∧
        s.mayHaveSent y.1 (s.agentOf fL) = true) ∧
      (IssuesLane (sL full1) full1 pL ∧ full1.count .t = 255) ∧ (IssuesLane far fL pL ∧
        (far.unitLanes (texLodLane w far fL (far.agentOf fL)) (laneList fL pL w)).isNone = true) := by
  and_intros <;> first | decide +kernel | exact there (by decide +kernel)

theorem witness_RasterAndExport :
    let p := { pL with mask := 1 }
    let f := { fL with paths := [p], s := [(1, 0x200)] }
    let r := { all with sub := 0, dest := 187, sa := 250, sb := 192, sc := 255 }
    let x := { all with sa := 187, sb := 182, sc := 193, imm := 32767 + 1 * 2 ^ 16 }
    let s := sL f
    let bins := withMem s 0x10200 32 (0x400 + 2 ^ 64 + 0x300 * 2 ^ 128)
    let pixels := withMem s 0x10200 64 0x400
    (IssuesLane s f p ∧ p.entries = [] ∧ (checkNames f (rastSources r) [dst r 5]).isOk = true ∧
        (checkSources f p r ((p.mask ||| f.parked).lanes f.lanes) (rastSources r) [dst r 5]).isOk = true ∧ tokenOk (f.sreg 63).toNat 0 = true) ∧
      (LaneReady f p x [srcA x, srcB x, srcC x] [] ∧ laneList f p { x with pred := 0 } = [] ∧ LaneReady f p { x with pred := 0 } [srcA x] []) ∧
      (IssuesLane bins f p ∧ laneList f p x = [0]) ∧ (∃ y, bins.unitRead (bins.agentOf f) 0 (f.sreg 1).toNat 64 64 = .ok y ∧ y.1.releaseReady f .sy = true ∧
        (y.1.binLanes (bins.agentOf f) (binSet y.2) (f.sreg 1).toNat [(0, 0, 0)]).isOk = true) ∧
      (LaneReady f p x [srcA x 4, srcB x, srcC x] [] ∧ x.imm.toNat % 2 ^ 16 = 32767 ∧ x.imm.toNat / 2 ^ 16 = 1) ∧
      (∃ y, s.checkLanes (s.agentOf f) .write 16 [(0, 0x200)] = .ok y ∧
        (y.1.store f (y.2.flatMap fun z => [(z.2, bytesOf 8 0), ({ z.2 with pa := z.2.pa + 8, va := z.2.va + 8 }, bytesOf 8 0)]) none).isOk = true) ∧
      ((checkNames f [srcA x 5, srcB x 2, srcC x] []).isOk = true ∧
        (checkSources f p x [0] [srcA x 2, { srcA x with code := x.sa + 4 }, srcB x 2, srcC x] []).isOk = true) ∧
      ∃ y, pixels.unitRead (pixels.agentOf f) 0 (f.sreg 1).toNat 64 64 = .ok y ∧
        (match y.1.checkExports (pixels.agentOf f) x (targetOf y.2) (y.1.colourBytes (targetOf y.2)) [f.exportOf x 0] with
          | .ok z => z.1.releaseReady f .sy && z.2.length == 1
          | .error _ => false) = true := by
  and_intros <;> first | decide +kernel | exact met (by decide +kernel)

theorem witness_FlockEvents :
    let s := sS fS
    let ready := { fS with ready := true }
    let sp (uid : Nat) (ready : Bool) : Flock := { fS with uid := uid, ready := ready }
    let at_ (p : List (Nat × Nat)) : State :=
      withDp { s with flocks := [ready, sp 7 false, sp 8 false, sp 9 false, sp 10 true] }
        { dp1 with active := some 9 :: some 10 :: List.replicate 6 none, order := [9, 10], pending := p }
    let b (p : Machine.Path) (t : LaneMask) (target : Nat) : Branch := ⟨p, t, target, 1, false⟩
    let f (x : Branch) : Flock := fL.predict x (LaneMask.below 8)
    let base (x : Branch) : Flock := (f x).rejoin x false
    let p5 := { pL with entries := [5] }
    let j (target : Nat) : Branch := b p5 (LaneMask.below 16) target
    let inside (x : Branch) : Flock := (inEntry (Ent 1) pL).predict x (LaneMask.below 8)
    let deep := b { pL with entries := List.range 32 } (LaneMask.below 16) 15
    let full : Flock := { fL with entries := (List.range 32).map fun n => { Ent 9 with id := n }, paths := [deep.path] }.predict deep 0
    let ok (f : Flock) (x : Branch) : Bool :=
      (sL f).flock? f.uid = some f ∧ (f.branches.find? fun y => y.path.id = 0) = some x ∧ (sL f).mayIssue f = true ∧ f.hmode = false
    let hm := handling (f (b pL 0 15)) 0 .scalar
    let timed := inEntry { Ent 1 with timer := some (100, 15, 2) } { pL with status := .arrived }
    let late (s : State) (c : Word64) : State := s.onDie 0 fun d => { d with cycle := c }
    let c : Collection := ⟨3, 0, 2, 100, false, [⟨1, 0, [(0, 5), (1, 4)], 160, 24, 8, 2, 24⟩]⟩
    let away := { fL with paths := [{ pL with status := .away }] }
    let calls (fs : List Flock) : State := (withLanes { sL away with flocks := away :: fs } branches).onCore 0 fun k => { k with collections := [c] }
    let shut (fs : List Flock) : State := (calls fs).onCore 0 fun k => { k with collections := [{ c with closed := true }] }
    let busy := { fL with uid := 8, slot := 1, datapath := 1 }
    let forms (s : State) (slot dp : Nat) : Bool := s.flock? away.uid = some away ∧ (s.core 0).collections = [c] ∧
      (s.gathered c).head? = some ⟨2, 4, 0, 1, c.arrivals.headD ⟨0, 0, [], 0, 0, 0, 0, 0⟩⟩ ∧
      firstGroup (s.gathered c) = s.gathered c ∧ s.freeSlot 0 = some slot ∧ s.bindDatapath 0 = some dp ∧
      roomFor ((s.herdsOn 0).map fun h =>
        if h.uid = away.herd then { s.herdNeed h with calls := (s.herdNeed h).calls ++ [(32, 24)] } else s.herdNeed h) = true
    let called := { fL with call := some [⟨0, 1, 0, 0, 0, 1⟩], queue := [], paths := [] }
    (∀ x ∈ ((at_ [(7, 2)]).datapath 0 0).pending, (at_ [(7, 2)]).pendingReady x.1 = false) ∧
      ((at_ [(1, 2)]).datapath 0 0).pending = [(1, 2)] ∧ (at_ [(1, 2)]).pendingReady 1 = true ∧ ((at_ [(1, 3)]).datapath 0 0).pending = [(1, 3)] ∧
      (at_ [(1, 3)]).pendingReady 1 = true ∧ ((at_ [(1, 3)]).datapath 0 0).order = 9 :: [10] ∧
      ((at_ [(7, 2), (1, 3), (8, 9)]).flock? 9 = some (sp 9 false) ∧ ((at_ [(7, 2), (1, 3), (8, 9)]).datapath 0 0).active.contains (some 9) = true ∧
        ((at_ [(7, 2), (1, 3), (8, 9)]).datapath 0 0).pending = [(7, 2)] ++ (1, 3) :: [(8, 9)] ∧ (at_ [(7, 2), (1, 3), (8, 9)]).pendingReady 1 = true ∧
        (∀ x ∈ [7, 8], (at_ [(7, 2), (1, 3), (8, 9)]).pendingReady x = false)) ∧
      ((at_ [(1, 3)]).flock? 10 = some (sp 10 true) ∧ (sp 10 true).ready = true) ∧
      ((sL hm).flock? hm.uid = some hm ∧ (hm.branches.find? fun y => y.path.id = 0) = some (b pL 0 15) ∧ hm.hmode = true) ∧
      ok (f (b pL 0 15)) (b pL 0 15) ∧ (ok (f (b pL (LaneMask.below 32) 15)) (b pL (LaneMask.below 32) 15) ∧ pL.mask &&& ~~~(LaneMask.below 32) = 0) ∧
      (ok (f (b pL (LaneMask.below 16) 15)) (b pL (LaneMask.below 16) 15) ∧
        (base (b pL (LaneMask.below 16) 15)).splitKind pL (LaneMask.below 16) 15 1 = .push) ∧
      (ok (inside (j 1)) (j 1) ∧ ((inside (j 1)).rejoin (j 1) false).splitKind p5 (LaneMask.below 16) 1 1 = .join true) ∧
      (ok (inside (j 15)) (j 15) ∧ ((inside (j 15)).rejoin (j 15) false).splitKind p5 (LaneMask.below 16) 15 1 = .join false) ∧
      (ok full deep ∧ (full.rejoin deep false).splitKind deep.path (LaneMask.below 16) 15 1 = .overflow) ∧
      (timed.entry? 5 = some { Ent 1 with timer := some (100, 15, 2) } ∧ (sL timed).flock? timed.uid = some timed ∧
        ((late (sL timed) 100).die (dieOf timed.core)).cycle ≤ 100 ∧
        100 < ((late (sL timed) 101).die (dieOf timed.core)).cycle ∧ (late (sL timed) 101).mayIssue timed = true ∧ timed.hmode = false) ∧
      (timed.paths = [{ pL with entries := [5], status := .arrived }] ∧ ({ pL with entries := [5], status := .arrived } : Machine.Path).entries.head? = some 5) ∧
      (forms (calls []) 1 1 ∧ (calls []).collectionFull c = true) ∧ (shut []).calleeHeader away 2 = .ok () ∧
      (forms (late (calls [busy]) 100) 2 2 ∧ (calls [busy]).collectionFull c = false ∧ c.deadline ≤ ((late (calls [busy]) 100).die 0).cycle) ∧
      (shut [busy]).calleeHeader away 2 = .ok () ∧
      (forms (late (calls [busy]) 99) 2 2 ∧ c.closed = false ∧ ((late (calls [busy]) 99).die 0).cycle < c.deadline) ∧
      (called.call ≠ none ∧ called.paths = [] ∧ called.drained = true ∧
        { called with ops := [⟨0, some .g, 4, [], 0, none, 0, false, false, []⟩] }.drained = false) := by
  and_intros <;> first | decide +kernel | exact got (ε := Stop) (by decide +kernel)

theorem witness_HerdLife :
    let r := sA.regionOf (Bar 0)
    let full := { sA with owners := [] }
    let s := withMem (withMem { sS fS with flocks := [] } 4 1 2) 0x8100 16 (pageEntry 32)
    let h := { s.herdOf fS with spadSize := 256 }
    let is_ (st : HerdStatus) (abort : Bool) : State := withHerd s { h with status := st, abort := abort }
    let halting (abort : Bool) : Herd := { h with status := .halting, abort := abort }
    let write (s : State) : Except Nat State := s.saveWrite (deviceAgent h.session (dieOf h.core)) (saveRuns (s.savePlace h.session (s.saveSize h)) (s.saveSize h))
    let noPage := withMem (is_ .halting false) 0x8100 16 0
    let busy := { is_ .halting false with flocks := [{ fS with ops := [⟨0, some .g, 4, [], 0, none, 0, false, false, []⟩] }] }
    let stuck (c : Word64) (haltAt : Word64) : State :=
      ((withHerd s { halting false with haltAt := haltAt }).onCore 0 fun k => { k with stuck := true }).onDie 0 fun d => { d with cycle := c }
    let sv := { h with status := .saved, savedAt := some 0x10000 }
    let saved := { withHerd s sv with owners := [(0, 1)] }
    let quiet := saved.setPaddock 0 { saved.paddock 0 with quiesce := true }
    let stops (x : Except Nat State) (c : Nat) : Bool := match x with
      | .error e => e = c
      | .ok _ => false
    let far := farTables (is_ .halting false)
    let lost := withMem saved 0x8100 16 0
    let unreached := farTables saved
    let pt : FlashPoint := ⟨3, 1, 0, 0, 1, LaneMask.below 16, 0, 1, 2, 0, 0, 0⟩
    (sA.region? r.uid = some r ∧ r.rcb.gang = false ∧ r.nextHerd < r.rcb.herds ∧ sA.mayRun r = true ∧
        sA.choosePlace r.session [regionNeed r.rcb r.callRegs] = some [0] ∧ (∀ f ∈ sA.flocks, f.herd < sA.nextUid)) ∧
      (full.region? r.uid = some r ∧ full.mayRun r = true ∧ full.choosePlace r.session [regionNeed r.rcb r.callRegs] = none) ∧
      ((is_ .resident false).herd? h.uid = some { h with status := .resident, abort := false } ∧ h.gang = none) ∧
      (∀ a ∈ [false, true], (is_ .halting a).herd? h.uid = some (halting a) ∧ (is_ .halting a).herdDrained (halting a) = true ∧
        ((is_ .halting a).core h.core).stuck = false) ∧
      busy.herdDrained (halting false) = false ∧ ((stuck 0 0).core h.core).stuck = true ∧ h.core ≠ noCore ∧
      (write (is_ .halting false)).isOk = true ∧
      (noPage.herd? h.uid = some (halting false) ∧ noPage.herdDrained (halting false) = true ∧ (noPage.core h.core).stuck = false ∧ stops (write noPage) 5 = true ∧ 5 ≠ notYet) ∧
      (far.herd? h.uid = some (halting false) ∧ far.herdDrained (halting false) = true ∧ (far.core h.core).stuck = false ∧ stops (write far) notYet = true) ∧
      (saved.herd? h.uid = some sv ∧ saved.mayRun (saved.regionOf sv) = true ∧
        saved.choosePlace sv.session [saved.herdNeed sv] = some [0] ∧ saved.saveStops sv 0 = []) ∧
      (lost.herd? h.uid = some sv ∧ lost.mayRun (lost.regionOf sv) = true ∧ lost.choosePlace sv.session [lost.herdNeed sv] = some [0] ∧
        ∃ c ∈ lost.saveStops sv 0, c ≠ notYet) ∧
      (unreached.herd? h.uid = some sv ∧ unreached.mayRun (unreached.regionOf sv) = true ∧
        unreached.choosePlace sv.session [unreached.herdNeed sv] = some [0] ∧ notYet ∈ unreached.saveStops sv 0 ∧
        ∀ c ∈ unreached.saveStops sv 0, c = notYet) ∧
      (quiet.herd? h.uid = some sv ∧ quiet.mayRun (quiet.regionOf sv) = false) ∧
      ({ fL with point := some pt }.point = some pt ∧ fL.mode = .running ∧ fL.hmode = false ∧ fL.lanes ≤ 1024 ∧ fL.branches = [] ∧
        pt.live.getLsbD 0 = true ∧ pt.live.getLsbD 191 = false ∧ 191 < fL.regs) ∧
      (∃ h ∈ (stuck 65536 0).unhalted 0, (stuck 65536 0).haltLate h = true) ∧ s.unhalted 0 = [] ∧
      ((stuck 65535 0).unhalted 0 ≠ [] ∧ ∀ h ∈ (stuck 65535 0).unhalted 0, (stuck 65535 0).haltLate h = false) := by
  and_intros <;> decide +kernel

theorem witness_Paddocks :
    let s := sS fS
    let at_ (c : Word64) : State := { s with dies := s.dies.map fun d => { d with cycle := c } }
    let h := s.herdOf fS
    let n := s.setPaddock 0 { s.paddock 0 with boundary := 100 }
    let late := n.onDie 0 fun d => { d with cycle := 100 }
    let charged : State := { at_ 1024 with regions := s.regions.map fun r => { r with pool := 0x100 } }
    let u := (charged.post (.budgetCharge h.uid)).setHerd { h with charged := 1024 }
    let agent := deviceAgent 0 0
    let quiet (s : State) : State := s.setPaddock 0 { s.paddock 0 with quiesce := true, quiesceAt := [0, 0, 0, 0] }
    let saved := quiet (withHerd s { h with status := .saved })
    let window := (at_ 100).onCore 0 fun k => { k with rlimitEnd := some 100 }
    let early := window.onDie 0 fun d => { d with cycle := 99 }
    let sent (limit : Nat) : State := (withMem window 40 2 limit).onCore 0 fun k => { k with rlimit := [(0, 5)] }
    let debt (s : State) (i : Nat) : Nat := s.sentBy i (dieOf 0) - s.sessionLimit i
    let away : State := { at_ 1024 with regions := s.regions.map fun r => { r with pool := 0x5000 } }
    let held := farTables charged
    let heldNow := (held.postOnce (.budgetCharge h.uid)).setHerd { h with charged := 1024 }
    let owes : State := { withRcb s (fun r => r) with herds := [], owed := [⟨h.uid, { s.regionOf h with pool := 0x100, budget := 0 }, 0, 3⟩] }
    ((n.paddock 0).quiesce = false ∧ ¬ (n.paddock 0).boundary.toNat ≤ (n.die (n.schedulerDie 0)).cycle.toNat ∧
        (late.paddock 0).boundary.toNat ≤ (late.die (late.schedulerDie 0)).cycle.toNat) ∧
      (s.herd? h.uid = some h ∧ h.status ≠ .saved ∧ ((s.die (dieOf h.core)).cycle.toNat + 2 ^ 64 - h.charged) % 2 ^ 64 < 1024) ∧
      (charged.herd? h.uid = some h ∧ 1024 ≤ ((charged.die (dieOf h.core)).cycle.toNat + 2 ^ 64 - h.charged) % 2 ^ 64 ∧
        ∃ y, u.devRead agent ((u.regionOf h).pool + 128) 6 = .ok y ∧ 
          (match y.1.devWrite agent ((u.regionOf h).pool + 128) (bytesOf 6 (y.2 + 1)) with
            | .ok w => decide (w.regions = charged.regions)
            | .error _ => false) = true) ∧
      (∀ o ∈ charged.owed, o.herd ≠ h.uid) ∧
      (away.herd? h.uid = some h ∧
        (((away.post (.budgetCharge h.uid)).setHerd { h with charged := 1024 }).devRead agent ((away.regionOf h).pool + 128) 6).isOk = false) ∧
      (owes.herd? h.uid = none ∧ owes.owed.length = 1) ∧
      (held.herd? h.uid = some h ∧ 1024 ≤ ((held.die (dieOf h.core)).cycle.toNat + 2 ^ 64 - h.charged) % 2 ^ 64 ∧
        heldNow.devRead agent ((heldNow.regionOf h).pool + 128) 6 true = .error notYet) ∧
      { farTables owes with owed := [] }.devRead agent (0x100 + 128) 6 true = .error notYet ∧
      (∃ y, { owes with owed := [] }.devRead agent (0x100 + 128) 6 = .ok y ∧
        (match y.1.devWrite agent (0x100 + 128) (bytesOf 6 (y.2 + 3)) with
          | .ok w => decide (w.herds = owes.herds)
          | .error _ => false) = true) ∧
      ((sent 5).core 0).rlimitEnd = some 100 ∧ (∀ x ∈ ((sent 5).core 0).rlimit, debt (sent 5) x.1 = 0) ∧
      (((sent 4).core 0).rlimitEnd = some 100 ∧ ∃ x ∈ ((sent 4).core 0).rlimit, debt (sent 4) x.1 ≠ 0) ∧
      (0 < s.paddocks.length ∧ (s.paddock 0).quiesce = false) ∧
      ((quiet s).paddock 0).quiesce = true ∧ ((quiet s).paddock 0).quiesced = false ∧
      (∀ x ∈ saved.herds, saved.paddockOf x.session = 0 → x.status = .saved) ∧ saved.netIdle 0 = true ∧
      ¬ (∀ x ∈ (quiet s).herds, (quiet s).paddockOf x.session = 0 → x.status = .saved) ∧
      15000000 ≤ ((at_ 15000000).die 0).cycle.toNat - (((quiet (at_ 15000000)).paddock 0).quiesceAt.getD 0 0).toNat ∧
      (window.core 0).rlimitEnd = some 100 ∧ (100 : Word64).toNat ≤ (window.die (dieOf 0)).cycle.toNat ∧
      (early.core 0).rlimitEnd = some 100 ∧ (early.die (dieOf 0)).cycle.toNat < (100 : Word64).toNat := by
  and_intros <;> first | decide +kernel | exact met (by decide +kernel) | exact failed (ε := Nat) (by decide +kernel)

theorem witness_CompletionsAndReports :
    let s := withCq (sS fS) 0 0
    let full := withCq (sS fS) 16 0
    let r : CompletionRec := ⟨0, 7, 1, 0, 0, 0, true, none, none⟩
    let held := { s with cqFault := [0] }
    let bad := withMem s 0x10408 1 3
    let done := { sS fS with herds := [], flocks := [] }
    let g := done.regionOf (Bar 0)
    let waits := withCmds done [copy1]
    let g2 := { g with origin := some (1, 2), status := 0x40 }
    let packet := { done with regions := [g2] }
    let fr := (sS fS).copyReport fS 0
    let rs := withMem (sS fS) 72 8 0x800
    let ringFull := withMem rs 0x10800 8 1023
    let seen := (sS fS).onCore 0 fun k => { k with samplerRegions := [3], lastSamplerReport := some 0 }
    let home0 := bad.home 0
    let far := farTables s
    let noSlot := withMem s 0x10400 8 0x50000
    let unseen := farTables rs
    let retest := withMem s 4 1 2
    let tree := (sS fS).onCore 0 fun k => { k with treeRegions := [3], lastTreeReport := some 0 }
    let later (s : State) : State := s.onDie 0 fun d => { d with cycle := 1048576 }
    let own (s : State) : Except Nat (State × QueueDesc) := s.cqDescriptor r.session r.die
    (s.cqFault.contains r.session = false ∧ ∃ y, own s = .ok y ∧ (y.2.write + 2 ^ 64 - y.2.read) % 2 ^ 64 < 2 ^ y.2.sizelog ∧
        (match y.1.devWrite (deviceAgent 0 0) (y.1.cqAddress 0 + 16) (bytesOf 8 (y.2.write + 1)) with
          | .ok v => (v.devWrite (deviceAgent 0 0) (y.2.base + 64 * (y.2.write % 2 ^ y.2.sizelog)) (List.replicate 64 0)).isOk
          | .error _ => false) = true) ∧
      (∃ y, own full = .ok y ∧ ¬ (y.2.write + 2 ^ 64 - y.2.read) % 2 ^ 64 < 2 ^ y.2.sizelog) ∧
      held.cqFault.contains r.session = true ∧ (bad.cqFault.contains r.session = false ∧ own bad = .error 0x41) ∧ (far.cqFault.contains r.session = false ∧ own far = .error notYet) ∧
      ({ r with slot := some 0 }.slot = some 0 ∧ s.home r.session = 0 ∧ bad.cqDescriptor 0 home0 = .error 0x41) ∧
      (∃ y, own noSlot = .ok y ∧ (match y.1.devWrite (deviceAgent 0 0) (y.1.cqAddress 0 + 16) (bytesOf 8 (y.2.write + 1)) with
          | .ok v => (v.devRead (deviceAgent 0 0) ((y.2.base + 64 * (y.2.write % 2 ^ y.2.sizelog)) % 2 ^ 64) 64 true).isOk
          | .error _ => true) = false) ∧
      (retest.sessionState 0 = 1 ∧ ∃ y, own retest = .ok y ∧ y.1.sessionState 0 = 1) ∧ own (farTables retest) = .error notYet ∧
      ((withMem bad 4 1 2).sessionState 0 = 1 ∧ own (withMem bad 4 1 2) = .error 0x41 ∧ 0x41 ≠ notYet) ∧
      (done.region? g.uid = some g ∧ g.rcb.herds ≤ g.nextHerd ∧ (∀ h ∈ done.herds, h.region ≠ g.uid) ∧ done.regionQuiet g = true ∧ g.status = 0) ∧
      (waits.region? g.uid = some g ∧ waits.regionQuiet g = false) ∧
      (packet.region? g2.uid = some g2 ∧ packet.regionQuiet g2 = true ∧ g2.status ≠ 0 ∧ g2.origin = some (1, 2)) ∧
      (∃ y, rs.devRead (deviceAgent fr.session (dieOf fr.core)) (rs.ctx fr.session 576 64) 16 true = .ok y ∧ y.2 = 0 ∧
        (match y.1.devWrite (deviceAgent 0 0) (0x800 + 64) (faultRecordBytes fr) with
          | .ok v => (v.devWrite (deviceAgent 0 0) 0x800 (bytesOf 8 1)).isOk
          | .error _ => false) = true) ∧
      (∃ y, ringFull.devRead (deviceAgent fr.session (dieOf fr.core)) (ringFull.ctx fr.session 576 64) 16 true = .ok y ∧ y.2 = 1023) ∧
      (unseen.devRead (deviceAgent fr.session (dieOf fr.core)) (unseen.ctx fr.session 576 64) 16 true = .error notYet) ∧
      ((tree.core 0).treeRegions.contains 3 = true ∧ (tree.core 0).lastTreeReport = some 0 ∧ (tree.region? 3).isSome = true) ∧
      (((tree.die (dieOf 0)).cycle - 0).toNat < 1048576 ∧ 1048576 ≤ (((later tree).die (dieOf 0)).cycle - 0).toNat) ∧
      (((later seen).core 0).samplerRegions.contains 3 = true ∧ 1048576 ≤ (((later seen).die (dieOf 0)).cycle - 0).toNat) ∧
      (((sS fS).core 0).samplerRegions.contains 3 = false ∧ ((sS fS).core 0).lastTreeReport = none) ∧
      ((seen.core 0).samplerRegions.contains 3 = true ∧ (seen.core 0).lastSamplerReport = some 0 ∧ ((seen.die (dieOf 0)).cycle - 0).toNat < 1048576) := by
  and_intros <;> first | decide +kernel | exact met (by decide +kernel) | exact there (by decide +kernel) | exact failed (by decide +kernel)

theorem witness_CopyTransfers :
    let s := withHerd (sS fS) (Bar 0)
    let at_ (c : CopyCmd) : State := withCmds s [c]
    let second := withCmds s [{ copy1 with id := 4 }, copy1]
    let lost := { copy1 with src := 0x5000 }
    let w : CopyWord := ⟨some 2, 0, none, [1, 2, 3, 4], false, none⟩
    let two := { copy1 with words := [w, w], row := 1 }
    let one := { copy1 with words := [w], row := 1 }
    let status := { one with flags := 1, layoutRec := copy1.layoutRec ||| BitVec.ofNat 512 (0x5000 * 2 ^ 256) }
    let stopped := { copy1 with suspended := true }
    let limited := (withMem (at_ copy1) 40 2 4).onCore 0 fun k => { k with rlimit := [(0, 5)], rlimitEnd := some 100 }
    let turned := { copy1 with cmd := copy1.cmd ||| 2 ^ 12 }
    let rows2 := { turned with layoutRec := 2 ^ 16 + 2 ^ 29 + 4 * 2 ^ 64 + 4 * 2 ^ 128 }
    let on (c : CopyCmd) : CopyCmd := { c with started := true }
    let far1 : Loc := ⟨2 ^ 37, 2 ^ 37, 0, 0, false, none, 0, false⟩
    let afar : CopyWord := { w with herd := none, loc := some far1 }
    let shut := (at_ { copy1 with words := [afar], row := 1 }).onLink 0 0 fun k => { k with training := true }
    (second.copyCmd? 0 copy1.id = some copy1 ∧ (second.core 0).engine.takeWhile (fun x => x.id ≠ copy1.id) = [{ copy1 with id := 4 }] ∧
        copy1.started = false) ∧
      ((at_ copy1).copyCmd? 0 copy1.id = some copy1 ∧ ((at_ copy1).core 0).engine.takeWhile (fun x => x.id ≠ copy1.id) = [] ∧
        (at_ copy1).netIdle ((at_ copy1).netOf copy1.session) = true ∧ (layoutOf copy1.layoutRec).rows = copy1.row + 1 ∧ cmdXform copy1.cmd ≠ 1) ∧
      (∃ x, (at_ copy1).sourceRow 0 { copy1 with started := true } copy1.row = .ok x ∧ x.lines = 1 ∧ x.state.belowLimit copy1.session 0 = true ∧
        (match x.state.rowWords { copy1 with started := true } copy1.row (applyRow copy1 x.bytes).1 with
          | .ok z => z.2.length == 1
          | .error _ => false) = true) ∧
      ((at_ lost).copyCmd? 0 lost.id = some lost ∧ lost.row < (layoutOf lost.layoutRec).rows ∧ lost.words = []) ∧
      (at_ lost).sourceRow 0 lost lost.row = .error (0x05, 0x5000) ∧
      ((at_ two).copyCmd? 0 two.id = some two ∧ 1 < two.words.length) ∧
      ((at_ one).copyCmd? 0 one.id = some one ∧ one.words = [w] ∧ (layoutOf one.layoutRec).rows ≤ one.row) ∧ ((at_ one).copyStatus 0 one).isOk = true ∧
      ((at_ status).copyCmd? 0 status.id = some status ∧ status.words = [w] ∧ (layoutOf status.layoutRec).rows ≤ status.row) ∧
      (at_ status).copyStatus 0 status = .error 0x05 ∧
      ((at_ stopped).copyCmd? 0 stopped.id = some stopped ∧ stopped.suspended = true) ∧
      (limited.copyCmd? 0 copy1.id = some copy1 ∧ ∃ x, limited.sourceRow 0 (on copy1) 0 = .ok x ∧ x.lines = 1 ∧ x.state.belowLimit 0 0 = false) ∧
      (cmdXform turned.cmd = 1 ∧ (layoutOf turned.layoutRec).rows = 1 ∧ ∃ x, (at_ turned).sourceRow 0 (on turned) 0 = .ok x ∧
        (x.state.transposedWords (on turned) [x.bytes] (List.range (layoutOf turned.layoutRec).cols)).isOk = true) ∧
      (cmdXform rows2.cmd = 1 ∧ (layoutOf rows2.layoutRec).rows = 2 ∧ ((at_ rows2).sourceRow 0 (on rows2) 0).isOk = true) ∧
      (afar.loc = some far1 ∧ shut.writeNow 0 (2 ^ 37) = false) ∧
      (((farTables (at_ copy1)).sourceRow 0 (on copy1) 0) = .error (notYet, 0x200)) ∧
      (({ w with herd := some 9, bar := some (0, 0) }.herd = some 9 ∧ s.allotment? 9 = none)) ∧
      (w.herd = some (s.herdOf fS).uid ∧ w.poison = false ∧ s.allotment? 2 = some (Bar 0) ∧ (Bar 0).spad = []) := by
  and_intros <;> first | decide +kernel | exact met (by decide +kernel) | exact there (by decide +kernel) | exact failed (by decide +kernel)

theorem witness_QueueProcessor :
    let off := withMem (sS fS) 4 1 2
    let s (db packet : Nat) : State := withQs (withQueue (sS fS) 0 packet) [⟨0, 0, db, false, false, [], [], false, 0, []⟩]
    let bad := withMem (s 1 0) 0x50008 1 3
    let legacy := 1 + 2 ^ 10 + 4 * 2 ^ 128
    let table (s : State) : State := s.setPaddock 0 { s.paddock 0 with desc := { (s.paddock 0).desc with ltlog := 1, ltframe := 0x60 } }
    let found := table (withMem (s 1 legacy) 0x60000 32 (4 + 0x400 * 2 ^ 64 + 2 ^ 128))
    let open_ (s : State) : Prop := (s.queue 0 0).stopped = false ∧ (s.queue 0 0).waiting = false ∧ (s.queue 0 0).unstarted = [] ∧
      s.recordWaits 0 0 = false ∧ s.sessionState 0 = 1 ∧ s.packetsRun 0 = true ∧ (s.queueDescriptor 0 0).isOk = true
    let reads (s : State) (v : Nat) : Prop :=
      (match s.devAcquire (deviceAgent 0 (s.home 0)) 0x10000 64 with | .ok y => y.2 == some v | .error _ => false) = true
    let away := unlearnt (withMem (s 1 9) 4 1 10)
    let c : DepCounter := ⟨2, 0, 0, 0x300, false⟩
    let told (s : State) : State := (s.setQueue { s.queue 0 0 with db := 1 }).postOnce (.cqDescriptorRetest 0)
    let far := [0, 1, 2].foldl (fun s i => State.onLink s 1 i fun k => { k with training := true }) (withMem (s 1 0) 4 1 10)
    let counts (c : DepCounter) : State := (withLeaf off).onDie 0 fun d => { d with counters := [(5, c)] }
    (off.ctx 0 448 1 = 0) ∧ ((s 0 0).ctx 0 448 1 ≠ 0 ∧ ((told (s 0 0)).queueDescriptor 0 0).isOk = true) ∧ (bad.ctx 0 448 1 ≠ 0 ∧ (told bad).queueDescriptor 0 0 = .error 0x41) ∧
      (far.ctx 0 448 1 ≠ 0 ∧ (told far).queueDescriptor 0 0 = .error notYet) ∧
      (open_ (s 0 0) ∧ ∃ y, (s 0 0).queueDescriptor 0 0 = .ok y ∧ y.2.slot y.2.read = 0x10000 ∧ ((s 0 0).queue 0 0).db ≤ y.2.read ∧ y.2.read < ((s 1 0).queue 0 0).db) ∧
      (open_ away ∧ away.home 0 = 1 ∧ (∃ y, away.queueDescriptor 0 0 = .ok y ∧ y.2.slot y.2.read = 0x10000 ∧ y.2.read < (away.queue 0 0).db) ∧
        (match away.devAcquire (deviceAgent 0 1) 0x10000 64 with | .ok y => y.2 == none | .error _ => false) = true) ∧
      (open_ (s 1 9) ∧ reads (s 1 9) 9 ∧ packetType (packet0 [9]) ≠ 1) ∧ (open_ (s 1 265) ∧ reads (s 1 265) 265 ∧ 265 / 2 ^ 8 % 2 ≠ 0 / 2 ^ 4 % 2) ∧
      (open_ found ∧ reads found legacy ∧ packetType (packet0 [1 + 2 ^ 10, 0, 4]) = 1 ∧ packetLegacy (packet0 [1 + 2 ^ 10, 0, 4]) = true ∧
        found.packetOk (packet0 [1 + 2 ^ 10, 0, 4]) = true ∧ found.legacyLookup (found.paddockOf 0) (packetWord (packet0 [1 + 2 ^ 10, 0, 4]) 2) = some 0x400) ∧
      (open_ (table (s 1 legacy)) ∧ ((table (s 1 legacy)).queue 0 0).missPosted = false ∧
        (table (s 1 legacy)).legacyLookup 0 (packetWord (packet0 [1 + 2 ^ 10, 0, 4]) 2) = none) ∧
      (0 < (counts c).dies.length ∧ SMap.get? ((counts c).die 0).counters 5 = some c ∧ ((counts c).die 0).live = true ∧ 1 < c.count.toNat ∧
        2 = c.count.toNat ∧ c.count.toNat < 3 ∧ c.node % 256 = 0) ∧
      (SMap.get? ((counts { c with node := 0x301 }).die 0).counters 5 = some { c with node := 0x301 } ∧ 0x301 % 256 ≠ 0) ∧
      (((counts c).onDie 0 fun d => { d with counters := [] }).dispatch 0 0x300 none none 0).isOk = true ∧
      (((withMem (counts c) 0x10308 1 0).onDie 0 fun d => { d with counters := [] }).dispatch 0 0x300 none none 0).isOk = false := by
  and_intros <;> first | decide +kernel | exact met (ε := Nat) (by decide +kernel) | exact failed (ε := Nat) (by decide +kernel)

theorem witness_Packets :
    let s (p : Packet) : State := withQs (withMem (sS fS) 4 1 2) [⟨0, 0, 1, false, false, [p.slot], [], false, 0, []⟩]
    let due (s : State) (p : Packet) : Prop := p.slot ∉ (s.queue p.session p.q).running ∧ p.slot ∈ (s.queue p.session p.q).unstarted
    let may (s : State) (p : Packet) : Prop := (s.queue p.session p.q).stopped = false ∧ s.packetsRun p.session = true ∧
      s.recordWaits p.session p.q = false ∧ (packetBarrier p = true → (s.queue p.session p.q).running = [])
    let runs (s : State) (p : Packet) : Prop := due s p ∧ may s p ∧ s.packetOk p = true
    let u (s : State) (p : Packet) : State :=
      (s.setQueue { s.queue p.session p.q with unstarted := [], running := [p.slot] }).postOnce (.queueStep p.session p.q)
    let nop := packet0 [9]
    let copy := packet0 [2, 0x100, 0x200, 8]
    let last := packet0 [2, 0x100, 0x200, 4]
    let lost := packet0 [2, 0x5000, 0x200, 4]
    let signal := packet0 [3, 0x100, 7]
    let wait := packet0 [4, 0x100, 0, 0]
    let sealing := packet0 [6, 0]
    let publish := packet0 [7, 0]
    let dispatch := packet0 [1, 0x300]
    let noLeaf := packet0 [1, 0x200]
    let migrate := packet0 [8, 0]
    let stopped := withQs (s nop) [⟨0, 0, 1, true, false, [0], [], false, 0, []⟩]
    let busy := { s signal with agenda := [.orderedPacketSend unsent0] }
    let running := withQs (s wait) [⟨0, 0, 1, false, false, [], [0], true, 0, []⟩]
    let away := unlearnt (withMem running 4 1 10)
    let plain := withMem (withMem (withMem (s migrate) 48 8 0x50000) 0x50000 3 0x10000) 0x50008 1 4
    let priv := withMem plain 0x50009 1 1
    let leaf := withLeaf (s dispatch)
    let windowed := withWindow (s publish)
    (due stopped nop ∧ (stopped.queue 0 0).stopped = true ∧ packetType nop = 9) ∧ (due (s nop) nop ∧ may (s nop) nop ∧ (s nop).packetOk (packet0 [10]) = false) ∧
      runs (s nop) nop ∧ (runs (s copy) copy ∧ 4 < packetWord copy 3) ∧ (runs (s last) last ∧ packetWord last 3 ≤ 4) ∧
      (match (u (s copy) copy).devRead ((u (s copy) copy).packetAgent copy) 0x100 4 with
        | .ok y => (y.1.devWrite ((u (s copy) copy).packetAgent copy) 0x200 (bytesOf 4 y.2)).isOk
        | .error _ => false) = true ∧
      runs (s lost) lost ∧ (u (s lost) lost).devRead ((u (s lost) lost).packetAgent lost) 0x5000 4 = .error 0x05 ∧
      (runs busy signal ∧ (u busy signal).netIdle ((u busy signal).netOf 0) = false) ∧
      (runs (s signal) signal ∧ (u (s signal) signal).netIdle ((u (s signal) signal).netOf 0) = true ∧
        ((u (s signal) signal).devWrite ((u (s signal) signal).packetAgent signal) 0x100 (bytesOf 8 7)).isOk = true) ∧ runs (s wait) wait ∧
      (runs (s sealing) sealing ∧ ((u (s sealing) sealing).sealTarget 0 0).isOk = true ∧ (u (s sealing) sealing).netIdle 0 = true) ∧
      (runs windowed publish ∧ (u windowed publish).netIdle 0 = true) ∧
      (∃ y, (u windowed publish).publishTarget 0 0 = .ok y ∧ (u windowed publish).windowBusy 0 y.1 = false) ∧
      (runs leaf dispatch ∧ (dispatch.words[8]?).map BitVec.toNat = none ∧ ((u leaf dispatch).dispatch 0 0x300 none (some (0, 0)) 0).isOk = true) ∧
      (runs (s noLeaf) noLeaf ∧ ((u (s noLeaf) noLeaf).dispatch 0 0x200 none (some (0, 0)) 0).isOk = false) ∧
      (runs priv migrate ∧ (∃ y, (u priv migrate).queueDescriptor 0 0 = .ok y ∧ y.2.priv = true) ∧
        ((u priv migrate).paddock ((u priv migrate).paddockOf 0)).quiesce = false ∧ (u priv migrate).sessionState 0 = 1) ∧
      (runs plain migrate ∧ ∃ y, (u plain migrate).queueDescriptor 0 0 = .ok y ∧ y.2.priv = false) ∧
      (runs priv (packet0 [8, 1]) ∧ (u priv (packet0 [8, 1])).sessionState 1 ≠ 1) ∧
      (0 ∈ (running.queue 0 0).running ∧ (match running.devAcquire (running.packetAgent wait) 0x100 8 with
        | .ok y => y.2 == some 0 | .error _ => false) = true) ∧
      (0 ∈ (away.queue 0 0).running ∧ (match away.devAcquire (away.packetAgent wait) 0x100 8 with
        | .ok y => y.2 == none | .error _ => false) = true) := by
  and_intros <;> first | decide +kernel | exact met (by decide +kernel) | exact there (by decide +kernel) | exact failed (by decide +kernel)

/-- Session 1 is a bellwether with an empty root table, and session 2 a free context whose table pool holds one pair. -/
def forking : State := [(4, 1, 2), (0x404, 1, 4), (0x408, 1, 0x70), (0x850, 3, 0x90000), (0x87C, 2, 1), (0x87E, 1, 16), (0x90100, 4, 1), (0x90108, 3, 0xA0000),
  (0xA0000, 1, 0xB0)].foldl (fun s (pa, n, v) => withMem s pa n v)
    ((withQs { sS fS with mem := [] } [⟨0, 0, 1, false, false, [0], [], false, 0, []⟩]).onDie 0 fun d => { d with keys := [(0, 0)] })

/-- `forking` with slot 0 of queue 0 started, session 2 claimed and the claim recorded. -/
def claimed : State := (((withQs forking [⟨0, 0, 1, false, false, [], [0], false, 0, [0]⟩]).setCtx 2 33 2 3).setCtx 2 61 1 1)

theorem witness_PacketsFork :
    let fork := packet0 [5, 1 + 2 * 2 ^ 16]
    let taken := withMem forking 0x804 1 2
    (∀ s ∈ [forking, taken], 0 ∉ (s.queue 0 0).running ∧ 0 ∈ (s.queue 0 0).unstarted ∧ (s.queue 0 0).stopped = false ∧ s.packetsRun 0 = true ∧
        s.recordWaits 0 0 = false ∧ packetBarrier fork = false ∧ s.packetOk fork = true ∧ 0 ∉ (s.queue 0 0).forks) ∧
      forking.sessionState 2 = 0 ∧ taken.sessionState 2 ≠ 0 ∧ 0 ∈ (claimed.queue 0 0).running ∧ 0 ∈ (claimed.queue 0 0).forks ∧
      claimed.kin 1 2 = true ∧ (claimed.setCtx 2 992 10 0).kin 1 2 = false ∧
      (withMem claimed 0x500 32 (2 ^ 64 + 8 * 2 ^ 128 + 2 ^ 168)).windows 1 ≠ [] ∧ claimed.windows 1 = [] := by decide +kernel

theorem witness_PacketsForkTree : ∃ tree, claimed.sessionTree 1 = some tree ∧ claimed.forkOk 1 tree = true ∧
    (claimed.onDie 0 fun d => { d with keys := [] }).forkOk 1 tree = false ∧ ({ claimed with memPoison := [0x1C00] }).sessionTree 1 = none := by
  refine ⟨([0x70], []), ?_, by decide +kernel, by decide +kernel, by decide +kernel⟩
  rw [State.sessionTree, show claimed.root 1 = 0x70 by decide +kernel]
  exact State.tableTree_empty (State.tableEntries_lone (by decide +kernel) (by decide +kernel) (by decide +kernel) rfl)

theorem witness_PacketsForkCopy :
    ∃ v root, claimed.copyTables 2 (claimed.home 0) (claimed.tablePool 2 (claimed.home 2)) 0 State.forkLeaf 3 (claimed.root 1) = some (v, root) := by
  rw [show claimed.root 1 = 0x70 by decide +kernel]
  obtain ⟨y, hy⟩ : ∃ y, claimed.poolTake (claimed.tablePool 2 (claimed.home 2)) = some y :=
    Option.isSome_iff_exists.1 (by decide +kernel)
  exact ⟨_, _, State.copyTables_empty (State.tableEntries_lone (by decide +kernel) (by decide +kernel) (by decide +kernel) rfl) hy fun _ => rfl⟩

theorem witness_PacketsForkPool :
    let dry := withMem claimed 0x90100 4 0
    (∃ tree, dry.sessionTree 1 = some tree ∧ dry.kin 1 2 = true ∧ dry.forkOk 1 tree = true) ∧
      dry.copyTables 2 (dry.home 0) (dry.tablePool 2 (dry.home 2)) 0 State.forkLeaf 3 (dry.root 1) = none := by
  refine ⟨⟨([0x70], []), ?_, by decide +kernel, by decide +kernel⟩, ?_⟩
  · rw [State.sessionTree, show (withMem claimed 0x90100 4 0).root 1 = 0x70 by decide +kernel]
    exact State.tableTree_empty (State.tableEntries_lone (by decide +kernel) (by decide +kernel) (by decide +kernel) rfl)
  · have h : (withMem claimed 0x90100 4 0).poolTake ((withMem claimed 0x90100 4 0).tablePool 2 ((withMem claimed 0x90100 4 0).home 2)) = none :=
      Option.isNone_iff_eq_none.1 (by decide +kernel)
    unfold State.copyTables
    simp only [h]
    split <;> simp_all

/-- Die 0's shepherd holds a dedup secret, and paddock 0 tests its directory. -/
def sealing0 : State := (withMem (sS fS) 0x8000 16 (pageEntry 16 + 2 ^ 108)).onDie 0 fun d =>
  { d with shepherd := { d.shepherd with dedup := some 5 }, ptest := List.replicate 8 true }

/-- The seal of `sealing0`'s page 0. -/
def job0 : SealJob := ⟨0, 0, 0x8000, 16, 0⟩

theorem witness_SealsAndPools :
    let none_ := (sealing0.onDie 0 fun d => { d with shepherd := { d.shepherd with dedup := none } })
    let entry (n : Nat) : DirEntry := ⟨0, 0, 1, 0, 16, n, false⟩
    let listed (n : Nat) : State := sealing0.onDie 0 fun d => { d with directory := [entry n] }
    let pool := withMem sealing0 0x90004 1 1
    let onWay := sealing0.onLink 0 0 fun k => { k with slots := [⟨0, 0, .control, false, false⟩] }
    let inUse := { sealing0 with agenda := [.orderedPacketSend { unsent0 with acts := [.write ⟨0, 0x10000, 0, 0, false, none, 0, false⟩ [1]] }] }
    let bellwether := withMem sealing0 4 1 4
    let again := Event.poolReturnRetry 0 0x90000 16 0
    let waits := { sealing0 with agenda := [again] }
    let late := waits.onDie 0 fun d => { d with cycle := 2 ^ 20 }
    ((sealing0.die 0).live = true ∧ homeDie (job0.frame * 4096) = 0 ∧ (none_.die 0).live = true ∧ (none_.die 0).shepherd.dedup = none) ∧
      ((sealing0.die 0).shepherd.dedup = some 5 ∧ sealing0.keyOk job0.session job0.keyslot 0 = true ∧
        (sealing0.plaintext job0.frame job0.keyslot).isSome = true ∧ ((sealing0.shipNew .control 0 0 0).plaintext 16 (sealing0.tkeyslot 0)).isSome = true ∧
        sealing0.onWay job0.id = false ∧ sealing0.frameBusy job0.frame = false ∧ sealing0.sessionState job0.session ≠ 2 ∧
        (sealing0.die 0).poisonedBuckets = [] ∧ (sealing0.die 0).directory = []) ∧
      (pteFrame (Memory.read sealing0.mem 0x8000 16) = 16 ∧ pteKey (Memory.read sealing0.mem 0x8000 16) = 0 ∧
        pteBit (Memory.read sealing0.mem 0x8000 16) 108 = true ∧ 0 < sealing0.dies.length) ∧
      (onWay.onWay job0.id = true ∧ inUse.frameBusy job0.frame = true ∧ bellwether.sessionState job0.session = 2) ∧
      pteFrame (Memory.read (sS fS).mem 0x4000 16) ≠ job0.frame ∧
      (∀ n ∈ [1, 2], ((listed n).die (homeDie (16 * 4096))).live = true ∧
        (((listed n).die (homeDie (16 * 4096))).directory.find? fun y => y.frame = 16) = some (entry n) ∧
        ((listed n).die (homeDie (16 * 4096))).poisonedBuckets.contains 0 = false) ∧
      ((sealing0.die (homeDie (17 * 4096))).directory.find? fun y => y.frame = 17) = none ∧
      (pool.poolCount 0x90000 < pool.poolCap 0x90000 ∧ sealing0.poolCap 0x90000 ≤ sealing0.poolCount 0x90000) ∧
      (again ∉ sealing0.agenda ∧ again ∈ waits.agenda ∧ ((waits.die 0).cycle - 0).toNat < 2 ^ 20 ∧ again ∈ late.agenda ∧
        2 ^ 20 ≤ ((late.die 0).cycle - 0).toNat) := by decide +kernel

theorem witness_SealsAndPoolsMatch (page : List Byte) : ∃ x : DirEntry,
    let s := sealing0.onDie 0 fun d => { d with directory := [x] }
    let dg := s.pageDigest job0.session 0 5 page
    dg / 2 ^ 62 % 4 = 0 ∧ ((s.die 0).directory.filter fun x => x.bucket = dg % 2 ^ 22 ∧ x.digest.toNat = dg) = [x] ∧
      (s.die 0).poisonedBuckets.contains (dg % 2 ^ 22) = false ∧ x.title.toNat = s.title job0.session ∧ x.refcnt < 2 ^ 24 - 1 := by
  have key (s : State) (p : (s.die 0).ptest.getD (s.paddockOf 0) false = true) (t : s.title 0 = 0) :
      s.pageDigest 0 0 5 page = ofBytes (shake256 (bytesOf 32 (5 : BitVec 256).toNat ++ bytesOf 8 0 ++ page) 8) % 2 ^ 12 := by
    unfold State.pageDigest
    rw [t]
    exact if_pos p
  have h := Nat.mod_lt (ofBytes (shake256 (bytesOf 32 (5 : BitVec 256).toNat ++ bytesOf 8 0 ++ page) 8)) (show 0 < 2 ^ 12 by decide)
  generalize ofBytes (shake256 (bytesOf 32 (5 : BitVec 256).toNat ++ bytesOf 8 0 ++ page) 8) % 2 ^ 12 = n at key h
  refine ⟨⟨n % 2 ^ 22, 0, BitVec.ofNat 64 n, 0, 16, 1, false⟩, ?_⟩
  have title : sealing0.title 0 = 0 := by decide +kernel
  have pad : sealing0.paddockOf 0 = 0 := by decide +kernel
  have test : (sealing0.die 0).ptest.getD 0 false = true := by decide +kernel
  have good : (sealing0.die 0).poisonedBuckets = [] := by decide +kernel
  have keys : sealing0.memKeys = [] := rfl
  obtain ⟨d0, r, hd⟩ : ∃ d r, sealing0.dies = d :: r := ⟨_, _, rfl⟩
  generalize sealing0 = s at title pad test good keys hd
  have die (x : DirEntry) : (s.onDie 0 fun d => { d with directory := [x] }).die 0 = { s.die 0 with directory := [x] } := by
    simp [State.onDie, State.setDie, State.die, hd, setNth]
  have title (x : DirEntry) : (s.onDie 0 fun d => { d with directory := [x] }).title 0 = 0 := by
    simpa only [State.title, State.ctx, State.context, State.clearNum, State.clearBytes, keys, State.onDie_mem, State.onDie_memKeys, die] using title
  have pad (x : DirEntry) : (s.onDie 0 fun d => { d with directory := [x] }).paddockOf 0 = 0 := by
    simpa only [State.paddockOf, State.ctx, State.context, State.clearNum, State.clearBytes, keys, State.onDie_mem, State.onDie_memKeys, die] using pad
  have dg (x : DirEntry) : (s.onDie 0 fun d => { d with directory := [x] }).pageDigest 0 0 5 page = n :=
    key _ (by rw [die, pad]; exact test) (title x)
  simp only [show job0.session = 0 from rfl, title, dg, die, good]
  refine ⟨by omega, ?_, rfl, rfl, by decide⟩
  have below : n < 18446744073709551616 := by omega
  simp [below, Nat.mod_eq_of_lt]

/-- Session 1 migrates, with an empty root table and a table pool of one pair. -/
def moving : State := [(0x404, 1, 0x26), (0x408, 1, 0x70), (0x450, 3, 0x90000), (0x90100, 4, 1), (0x90108, 3, 0xA0000), (0xA0000, 1, 0xB0)].foldl
  (fun s (pa, n, v) => withMem s pa n v) { sS fS with mem := [], herds := [] }

/-- Page 0 of session 0 may move to die 1, whose frame pool holds one frame. -/
def mover : State := [(4, 1, 2), (80, 3, 0x90000), (0x90040, 1, 1), (0x90048, 3, 0xA0000), (0xA0000, 4, 0x2000000)].foldl
  (fun s (pa, n, v) => withMem s pa n v) (sS fS)

theorem witness_MovesMigration : ∃ t root v, moving.copyTables 1 (moving.home 1) (moving.tablePool 1 0) 2 (fun s e => some (s, e)) 3 (moving.root 1) = some (t, root) ∧
    ((t.setCtx 1 64 40 root).tlbTell 1 ((t.setCtx 1 64 40 root).home 1) none).moveKey 1 0 = some v := by
  rw [show moving.root 1 = 0x70 by decide +kernel]
  obtain ⟨⟨t, f⟩, hp, hf, hm, hk, h0, hc⟩ : ∃ y, moving.poolTake (moving.tablePool 1 0) = some y ∧ y.2 = 0xB0 ∧
      (y.1.mem.all fun c => Nat.blt c.1 (y.2 * 4096) || Nat.ble (y.2 * 4096 + 8192) c.1) = true ∧
      ((let u := (y.1.shipLines 1 0 0 0 8192).setCtx 1 64 40 y.2; u.tlbTell 1 (u.home 1) none).moveKey 1 0).isSome = true ∧ y.1.memKeys = [] ∧ y.1.cold = true := there (by decide +kernel)
  obtain ⟨v, hv⟩ := Option.isSome_iff_exists.1 hk
  refine ⟨_, _, v, State.copyTables_empty (State.tableEntries_lone (by decide +kernel) (by decide +kernel) (by decide +kernel) rfl) hp fun _ => rfl, ?_⟩
  have at0 : homeDie (f * 4096) = 0 := by rw [show f = 0xB0 from hf]; decide
  rw [State.writeTable_absent hm (State.cold_drops hc _ _) h0, at0, show moving.home 1 = 0 by decide +kernel]
  exact hv

theorem witness_Moves :
    let p := packet0 [8, 1]
    let waiting := withHerd moving { Bar 0 with session := 1 }
    let dead := moving.onDie 0 fun d => { d with live := false }
    let shep (g : Shepherd → Shepherd) : State := moving.onDie 0 fun d => { d with shepherd := g { d.shepherd with mode := .running, vaultKey := some 5 } }
    let running := shep id
    let used := { running with agenda := [.orderedPacketSend unsent0] }
    let r : PlaceRec := ⟨0, [0, 64, 0, 0], 0, 0x10000⟩
    let place := (withMem (sS fS) 4 1 0x42).onDie 0 fun d => { d with placement := [r] }
    let early := place.onDie 0 fun d => { d with epochAt := 1 }
    let asleep := moving.onDie 0 fun d => { d with shepherd := { d.shepherd with mode := .reset } }
    ((asleep.setCtx 1 37 4 2).keyMoveWaits 1 0 = true ∧ moving.keyMoveWaits 1 0 = false) ∧
      (packetWord p 1 % 2 ^ 10 = 1 ∧ packetWord p 1 / 2 ^ 16 % 4 = 0 ∧ ¬ ∀ h ∈ waiting.herds, h.session = 1 → h.status = .saved) ∧
      ((∀ h ∈ moving.herds, h.session = 1 → h.status = .saved) ∧ (moving.die 0).live = true) ∧ (dead.die 0).live = false ∧
      ((moving.die 0).shepherd.mode ≠ .running ∧ (running.die 0).shepherd.mode = .running ∧ (running.die 0).shepherd.vaultKey = some 5) ∧
      (running.keyInUse 7 0 = false ∧ used.keyInUse 7 0 = true) ∧
      ((early.die 0).live = true ∧ (early.die 0).cycle.toNat < (early.die 0).epochAt.toNat) ∧
      ((place.die 0).live = true ∧ 0 < place.dies.length ∧ (place.die 0).epochAt.toNat ≤ (place.die 0).cycle.toNat ∧ (place.die 0).placement = [r] ∧
        place.selected 0 r = true) := by decide +kernel

theorem witness_MovesFrames :
    let m : FrameMove := ⟨0, 0, 0, 1⟩
    let busy := { mover with agenda := [.orderedPacketSend { unsent0 with acts := [.write ⟨0, 0x10000, 0, 0, false, none, 0, false⟩ [1]] }] }
    mover.walk 0 0 = .ok (0x8000, pageEntry 16) ∧ (mover.sessionState 0 = 1 ∧ homeDie (pteFrame (pageEntry 16) * 4096) = m.home ∧ pteSize (pageEntry 16) = 0 ∧
        pteBit (pageEntry 16) 108 = false ∧ pteBit (pageEntry 16) 110 = false ∧ pteGranules (pageEntry 16) = 0 ∧ (mover.die 1).live = true ∧
        mover.keyOk 0 (pteKey (pageEntry 16)) 0 = true ∧ mover.keyOk 0 (pteKey (pageEntry 16)) 1 = true ∧ mover.windowOf 0 0 = none) ∧
      busy.walk 0 0 = .ok (0x8000, pageEntry 16) ∧ busy.frameBusy 16 = true ∧ mover.frameBusy 16 = false ∧ (mover.poolTake (mover.framePool 0 1)).isSome = true ∧
      (sS fS).walk 0 0 = .ok (0x8000, pageEntry 16) ∧ (sS fS).sessionState 0 % 2 ≠ 1 := by
  and_intros <;> first | decide +kernel | exact got (by decide +kernel)

theorem witness_MovesTree : ∃ x, mover.sessionTree 0 = some x ∧ 16 ∉ x.1 ∧ 16 - 1 ∉ x.1 := by
  refine ⟨([2, 4, 6, 8], [(0, pageEntry 16)]), ?_, by decide, by decide⟩
  rw [State.sessionTree, show mover.root 0 = 2 by decide +kernel]
  exact State.tableTree_node (e := pointerEntry 4) (State.tableEntries_lone (by decide +kernel) (by decide +kernel) (by decide +kernel) rfl) (by decide +kernel)
    (State.tableTree_node (e := pointerEntry 6) (State.tableEntries_lone (by decide +kernel) (by decide +kernel) (by decide +kernel) rfl) (by decide +kernel)
      (State.tableTree_node (e := pointerEntry 8) (State.tableEntries_lone (by decide +kernel) (by decide +kernel) (by decide +kernel) rfl) (by decide +kernel)
        (State.tableTree_leaf (State.tableEntries_lone (by decide +kernel) (by decide +kernel) (by decide +kernel) rfl) (by decide +kernel))))

/-- The state with the fabric state of network 0 of a die changed. -/
def withNet (s : State) (die : Nat) (g : Net → Net) : State := s.setNet die 0 (g (s.net die 0))

/-- A packet of network 0 from die 0 to die 1, with its stamp. -/
def sent0 : FabPacket := { unsent0 with seq := 1 }

theorem witness_FabricTransport :
    let s := sS fS
    let arb (r : ArbRequest) (c : Word64) : State := s.onDie 0 fun d => { d with arbiter := [r], cycle := c }
    let two := { s with agenda := [.orderedPacketSend { unsent0 with gen := 1 }] }
    let closed := withNet s 0 fun n => { n with k := 0 :: 0x4000 :: List.replicate 14 0 }
    let dead := s.onDie 1 fun d => { d with live := false }
    let later := { sent0 with seq := 2 }
    let rest (m : Net) : Nat := m.early.countP fun x => !m.aside.contains x.id
    let room (t : State) : Bool := rest (t.net 1 0) < 45 ∨ ((t.die 1).nets.map fun m => rest m - 45).sum < 128
    let crowd := withNet s 1 fun n => { n with early := List.replicate 173 { later with src := 2, id := 9 } }
    let crowded := withNet crowd 1 fun n => { n with early := n.early ++ [{ later with id := 9 }] }
    let held := [0, 1, 2, 3].foldl (fun t i => t.onDie i fun d => { d with shepherd := { d.shepherd with staged := some (1, none), journal := ⟨1, 1, 0, false⟩ } }) s
    let busy := { s with agenda := [.orderedPacketArrival sent0] }
    let write := { sent0 with acts := [.write ⟨0, 0x2000000000, 0, 0, false, none, 0, false⟩ [1]] }
    let read : ReadReq := ⟨0, 1, 0, 0, 0, [0, 0, 0, 0], false, 1, 0, 9⟩
    let reply : ReadReply := ⟨1, 0, 0, List.replicate 16 0, 1, 0, 9⟩
    let ahead := { reply with k := (List.replicate 4 0) ++ [1] ++ List.replicate 11 0 }
    let report (at_ : Word64) (c : Nat) : State := withNet s 0 fun n => { n with delivered := [0, c, 0, 0], reportAt := at_ }
    let told : DeliveryReport := ⟨1, 0, 0, [0, 0, 0, 0], 9⟩
    let onWay := s.onLink 0 0 fun k => { k with slots := [⟨9, 0, .reply, false, false⟩] }
    let stalled := (withNet s 0 fun n => { n with stall := [none, some (0, false), none, none] }).onDie 0 fun d => { d with cycle := 2 ^ 20 }
    let late (d : Die) (x : Option (Word64 × Bool)) : Bool := x.any fun y => y.2 = false && 2 ^ 20 ≤ (d.cycle - y.1).toNat
    (((arb ⟨7, 0, true, 0, false⟩ 8191).die 0).arbiter.find? (fun x => x.id = 7) = some ⟨7, 0, true, 0, false⟩ ∧
        (((arb ⟨7, 0, true, 0, false⟩ 8191).die 0).cycle - 0).toNat < 8192 ∧ 8192 ≤ (((arb ⟨7, 0, true, 0, false⟩ 8192).die 0).cycle - 0).toNat) ∧
      ((s.die 0).live = true ∧ (s.die 1).live = true ∧ (dead.die 1).live = false) ∧
      (s.earlierUnsent unsent0 = false ∧ s.yieldsTurn unsent0 = false ∧ two.earlierUnsent { unsent0 with id := 1 } = true) ∧
      ((((s.net 0 0).k.getD 1 0 - (s.net 0 0).a.getD 1 0).toNat < 16384) ∧ ¬ ((closed.net 0 0).k.getD 1 0 - (closed.net 0 0).a.getD 1 0).toNat < 16384 ∧
        closed.earlierUnsent unsent0 = false ∧ closed.yieldsTurn unsent0 = false ∧ (s.net 0 0).k.length = 16 ∧ 0 < (s.die 0).nets.length) ∧
      (sent0.gen = (s.die 1).fabstat.toNat % 8 ∧ { sent0 with gen := 1 }.gen ≠ (s.die 1).fabstat.toNat % 8) ∧
      (s.earlierArrival sent0 = false ∧ s.routeBusy 0 1 = false ∧ busy.earlierArrival later = true) ∧
      ((s.net 1 0).d.getD 0 0 = sent0.seq - 1 ∧ (∀ x, x < 4 → x ≠ 0 → x ≠ 1 → ((s.net 1 0).d.getD x 0 - sent0.dep.getD x 0).toNat < 2 ^ 15)) ∧
      ((s.net 1 0).d.getD 0 0 ≠ later.seq - 1 ∧ rest (s.net 1 0) < 45) ∧
      (¬ room crowd ∧ (∀ q ∈ (crowd.net 1 0).early, q.src ≠ later.src) ∧ ¬ room crowded ∧ (∃ q ∈ (crowded.net 1 0).early, q.src = later.src) ∧
        (∀ t ∈ [crowd, crowded], (t.die 1).live = true ∧ t.earlierArrival later = false ∧ t.routeBusy 0 1 = false ∧
          (t.net 1 0).d.getD 0 0 ≠ later.seq - 1)) ∧
      ((held.die 0).live = true ∧ held.holds 0 = true ∧ (held.die 1).live = true) ∧
      (1 < s.dies.length ∧ 0 < (s.die 1).nets.length ∧ 0 < (s.net 1 0).d.length ∧ (s.net 1 0).early = [] ∧ sent0.note = none ∧ sent0.acts = [] ∧
        write.acts = [.write ⟨0, 0x2000000000, 0, 0, false, none, 0, false⟩ [1]]) ∧
      (read.gen = (s.die 1).fabstat.toNat % 8 ∧ ((s.net 1 0).d.getD 0 0 - read.seq).toNat < 2 ^ 15 ∧
        (∀ x, x < 4 → x ≠ 0 → x ≠ 1 → ((s.net 1 0).d.getD x 0 - read.dep.getD x 0).toNat < 2 ^ 15) ∧
        s.earlierRead read = false ∧ ¬ ((s.net 1 0).d.getD 0 0 - { read with seq := 1 }.seq).toNat < 2 ^ 15) ∧
      (s.onWay reply.id = false ∧ onWay.onWay reply.id = true ∧ s.onWay told.id = false ∧ onWay.onWay told.id = true) ∧
      ((∀ x, x < 4 → x ≠ 0 → ((s.net 0 0).d.getD x 0 - reply.k.getD (4 * x + 0) 0).toNat < 2 ^ 15) ∧
        ¬ ∀ x, x < 4 → x ≠ 0 → ((s.net 0 0).d.getD x 0 - ahead.k.getD (4 * x + 0) 0).toNat < 2 ^ 15) ∧
      ((∀ c ∈ (s.net 0 0).delivered, c = 0) ∧
        (∀ r ∈ [report 0 1, report 1 1024, report 1 1023], (∃ c ∈ (r.net 0 0).delivered, c ≠ 0) ∧ (r.die 0).live = true) ∧
        ((report 0 1).net 0 0).reportAt.toNat ≤ ((report 0 1).die 0).cycle.toNat ∧ (∃ c ∈ ((report 1 1024).net 0 0).delivered, 1024 ≤ c) ∧
        (∀ c ∈ ((report 1 1023).net 0 0).delivered, ¬ 1024 ≤ c) ∧ ¬ ((report 1 1023).net 0 0).reportAt.toNat ≤ ((report 1 1023).die 0).cycle.toNat) ∧
      (0 < (s.net 0 0).a.length ∧ 1 < (s.net 0 0).a.length ∧ 0 < (s.die 0).nets.length) ∧
      (0 < ((stalled.die 0).nets.map fun n => (n.stall.filter (late (stalled.die 0))).length).sum ∧
        ((s.die 0).nets.map fun n => (n.stall.filter (late (s.die 0))).length).sum = 0) := by
  and_intros <;> decide +kernel

/-- What a group carries. -/
def parcel0 : Machine.Parcel := ⟨7, 0, .ordered, 0, true, 0, [0, 1], false⟩

/-- A group whose CRC is right. -/
def group0 (seq : BitVec 12) : LinkGroup := ⟨parcel0, seq, 4095, false, [], crc32 ([] ++ Config.controlBytes seq 4095 false)⟩

theorem witness_FabricLinksCrc : let g : LinkGroup :=
      ⟨parcel0, 0, 0, false, [1], crc32 ([(1 : BitVec 256)].flatMap (fun f => bytesOf 32 f.toNat) ++ Config.controlBytes 0 0 false) + 1⟩
    ¬ g.crc = crc32 (g.payload.flatMap (fun f => bytesOf 32 f.toNat) ++ Config.controlBytes g.seq g.ack g.nak) := by
  exact fun h : _ + (1 : BitVec 32) = _ => absurd (BitVec.add_right_eq_self.1 h) (by decide)

theorem witness_FabricLinks :
    let s := sS fS
    let on (g : Link → Link) : State := s.onDie 0 fun d => { d with links := d.links.map g }
    let kept (c : Word64) : State := (on fun k => { k with replay := [(group0 0, 0)] }).onDie 0 fun d => { d with cycle := c }
    let training (n : Nat) (at_ : Option Word64) : State := on fun k => { k with training := true, retrains := n, firstFail := at_ }
    let beat (c : Word64) (n : Nat) : State := s.onDie 0 fun d => { d with cycle := c, shepherd := { d.shepherd with mode := .running, missed := n } }
    let pad := { s with herds := [], flocks := [] }.setPaddock 0 { s.paddock 0 with desc := { (s.paddock 0).desc with clusters := 1 } }
    let crowd := on fun k => { k with replay := List.replicate 64 (group0 0, 0) }
    let cut := s.onDie 1 fun d => { d with links := d.links.map fun k => { k with up := false } }
    let sheps (g : Nat → Shepherd → Shepherd) : State :=
      [0, 1, 2, 3].foldl (fun t i => t.onDie i fun d => { d with shepherd := g i { d.shepherd with mode := .running } }) s
    let fresh := sheps fun _ h => h
    let change : LayoutChange := ⟨[(0, (s.paddock 0).desc)], [], none⟩
    let layout := sheps fun _ h => { h with staged := some (1, some change), journal := ⟨1, 1, 0, false⟩ }
    let prepared := sheps fun _ h => { h with staged := some (1, none), journal := ⟨1, 1, 0, false⟩ }
    let partly := sheps fun i h => { h with staged := some (1, none), journal := ⟨1, if i = 2 then 0 else 1, 0, false⟩ }
    let committed := sheps fun i h => { h with staged := some (1, none), journal := ⟨1, if i = 0 then 2 else 1, 0, false⟩ }
    let runs (t : State) : Prop := (t.shep t.coordinator).mode = .running
    let has (t : State) (i n : Nat) : Bool := (t.shep i).journal.seq = 1 ∧ n ≤ (t.shep i).journal.state.toNat
    ((s.link 0 0).up = true ∧ (s.link 0 0).training = false ∧ s.groupBehind 0 0 (group0 0) = false) ∧ (training 0 none |>.link 0 0).training = true ∧
      ((group0 0).seq = (s.link 0 0).expect ∧ (group0 1).seq ≠ (s.link 0 0).expect ∧ s.dies.length = 4 ∧ ∀ d ∈ s.dies, d.links.length = 2) ∧
      ((((kept 2047).link 0 0).replay.find? fun x => x.1.seq = 0).isSome = true ∧ (((kept 2047).die 0).cycle - 0).toNat < 2048 ∧
        2048 ≤ (((kept 2048).die 0).cycle - 0).toNat ∧ ((kept 2048).link 0 0).up = true ∧ ((kept 2048).link 0 0).training = false ∧
        (((kept 0).link 0 0).replay.find? fun x => x.1.seq = 1) = none) ∧
      (((training 3 none).link 0 0).retrains = 3 ∧ ((training 0 (some 0)).link 0 0).firstFail = some 0 ∧
        15000000 ≤ (((training 0 (some 0)).onDie 0 fun d => { d with cycle := 15000000 }).die 0).cycle.toNat ∧ ((training 0 none).link 0 0).firstFail = none) ∧
      (((beat 1499999 0).die 0).live = true ∧ (((beat 1499999 0).die 0).cycle - ((beat 1499999 0).die 0).shepherd.beat).toNat < 1500000 ∧
        1500000 ≤ (((beat 1500000 8).die 0).cycle - ((beat 1500000 8).die 0).shepherd.beat).toNat ∧ ((beat 1500000 8).die 0).shepherd.mode = .running ∧
        ((beat 1500000 8).die 0).shepherd.missed < 9 ∧ 9 ≤ ((beat 1500000 9).die 0).shepherd.missed) ∧
      (pad.herds = [] ∧ pad.dies.length = 4 ∧ (∀ d ∈ pad.dies, d.links.length = 2) ∧ (pad.die 0).live = true ∧ pad.paddocks.length = 8 ∧
        ∃ c ∈ pad.paddockClusters 0, c / 24 = 0) ∧
      (s.agenda = [] ∧ (∀ d ∈ s.dies, ∀ n ∈ d.nets, n.early = []) ∧ (s.die 0).live = true) ∧
      (64 ≤ (crowd.link 0 0).replay.length ∧ (cut.die 1).live = true ∧ ∀ k ∈ (cut.die 1).links, k.up = false) ∧
      ((s.shep s.coordinator).mode ≠ .running ∧ runs fresh ∧ fresh.dies.length = 4 ∧ (∀ i ∈ fresh.liveDies, (fresh.shep i).staged = none)) ∧
      (runs layout ∧ layout.inProgress = some (1, some change)) ∧
      (runs prepared ∧ prepared.inProgress = some (1, none) ∧ (∀ i ∈ prepared.liveDies, has prepared i 1 ∧ ¬ has prepared i 2) ∧
        (prepared.die 0).live = true ∧ (prepared.shep 0).staged = some (1, none)) ∧
      (runs partly ∧ partly.inProgress = some (1, none) ∧ ∃ i ∈ partly.liveDies, ¬ has partly i 1 ∨ has partly i 2) ∧
      ((∀ i ∈ prepared.liveDies, ¬ has prepared i 2) ∧ (prepared.shep 0).mode = .running) ∧
      ((∃ i ∈ committed.liveDies, has committed i 2) ∧ ¬ has committed 0 3 ∧ (committed.die 0).live = true ∧ (committed.shep 0).mode = .running ∧
        (committed.shep 0).staged = some (1, none)) := by
  and_intros <;> decide +kernel

theorem witness_SystemControl :
    let held := { fS with mode := .held }
    let s (f : Flock) : State := { sS f with flocks := [f] }
    let act (a : Nat) : Word64 := BitVec.ofNat 64 (a * 2 ^ 15)
    let find (s : State) (v : Nat) : Option Flock := s.flocks.find? fun f => f.mode = .held ∧ f.core = v % 2 ^ 9 ∧ dieOf f.core = 0 ∧ f.slot = v / 2 ^ 9 % 2 ^ 6
    let recipe := { held with tcause := 2 ^ 11 }
    let entry := { held with tvec := 2 ^ 26 }
    let busy := { held with ops := [⟨0, some .g, 4, [], 0, none, 0, false, false, []⟩] }
    let waiting := (sS fS).onDie 0 fun d => { d with tlbinv1 := 2 ^ 63 + 7 }
    let owner := { held with uid := 1 }
    let copying := withCmds (s owner) [{ copy1 with suspended := true }]
    let site := { fS with mode := .held, site := some .scalar }
    let cmd := { copy1 with suspended := true }
    let suspended := withCmds (sS fS) [cmd]
    let look (s : State) (v : Nat) : Option CopyCmd := (s.core (v % 2 ^ 9)).engine.find? fun c => c.suspended = true ∧ c.entry = v / 2 ^ 9 % 2 ^ 5
    (((sS fS).die 0).tlbinv1.getLsbD 63 = false ∧ (sS fS).pasidBusy 0 = false ∧ { sS fS with agenda := [.orderedPacketSend unsent0] }.pasidBusy 0 = true) ∧
      (((sS fS).die 0).fltctl.getLsbD 63 = false ∧ find (sS fS) 0 = none) ∧
      (∀ a ∈ [0, 1, 2, 3, 4], find (s held) (act a).toNat = some held ∧ (act a).toNat / 2 ^ 15 % 2 ^ 3 = a) ∧
      (held.tcause.getLsbD 11 = false ∧ recipe.tcause.getLsbD 11 = true ∧ find (s recipe) (act 1).toNat = some recipe) ∧
      (held.tvec.getLsbD 26 = false ∧ entry.tvec.getLsbD 26 = true ∧ entry.tcause.getLsbD 10 = false ∧ find (s entry) (act 2).toNat = some entry) ∧
      ((waiting.die 0).tlbinv1.getLsbD 63 = true ∧ (waiting.die 0).tlbinv1.toNat % 2 ^ 63 = 7 ∧ (waiting.die 0).tlbinv1.toNat % 2 ^ 63 ≠ 8) ∧
      (copying.flock? 1 = some owner ∧ copying.enginesDone owner = false ∧ (s held).enginesDone held = true) ∧
      (held.drained = true ∧ busy.drained = false ∧ find (s busy) (act 3).toNat = some busy) ∧
      (site.hmode = false ∧ site.site = some .scalar ∧ (s site).flock? site.uid = some site ∧ site.queue = []) ∧
      (∃ r, (sS fS).regions = [r] ∧ r.session = 0 ∧ r.domain = 0 ∧ r.status = 0) ∧
      (look (sS fS) 0 = none ∧ look suspended 0 = some cmd ∧ dieOf 0 = 0 ∧ 0 / 2 ^ 14 % 4 = 0 ∧ look suspended (2 ^ 14) = some cmd ∧ 2 ^ 14 / 2 ^ 14 % 4 = 1) := by
  and_intros <;> first | decide +kernel | exact ⟨_, rfl, rfl, rfl, rfl⟩

theorem witness_SnapshotsAndPower :
    let s := sS fS
    let on (g : Die → Die) : State := s.onDie 0 fun d => { g d with shepherd := { d.shepherd with mode := .running } }
    let armed := on fun d => { d with snapctl := 1 + 4 + 8 }
    let early := on fun d => { d with snapctl := 1 + 4, snapat := 1 }
    let waits := on fun d => { d with sampleAt := 1 }
    let slow (n : Nat) (rails : List Nat) : State :=
      { on id with dies := (on id).dies.map fun d => { d with slowed := (List.range 24).map fun c => (c, n), railSteps := rails } }
    let above (at_ : Option Word64) : State := { s with dies := s.dies.map fun d => { d with aboveSince := at_, cycle := 15000000 } }
    let locked := (slow 2 [2, 2, 2]).setPaddock 0 { s.paddock 0 with desc := { (s.paddock 0).desc with lock := true, clusters := 1, lnum := 1, lden := 2 } }
    let u (s : State) : State := (s.sample 0).post (.powerSample 0)
    (s.dies.length = 4 ∧ (armed.shep 0).mode ≠ .reset ∧ (armed.die 0).snapctl.getLsbD 0 = true ∧ (armed.die 0).snapctl.getLsbD 3 = true ∧
        (armed.die 1).live = true ∧ ((on id).shep 0).mode ≠ .reset ∧ ((on id).die 0).snapctl.getLsbD 0 = false) ∧
      ((armed.die 0).snapctl.getLsbD 2 = true ∧ (armed.die 0).snapat.toNat ≤ (armed.die 0).cycle.toNat ∧ (early.die 0).snapctl.getLsbD 0 = true ∧
        (early.die 0).snapctl.getLsbD 2 = true ∧ (early.die 0).cycle.toNat < (early.die 0).snapat.toNat) ∧
      ((s.die 0).live = true ∧ s.shepRuns 0 = false ∧ (waits.die 0).cycle.toNat < (waits.die 0).sampleAt.toNat) ∧
      ((on id).shepRuns 0 = true ∧ ((on id).die 0).sampleAt.toNat ≤ ((on id).die 0).cycle.toNat) ∧
      ((u (on id)).throttleOrder.head? = some (0, 0) ∧ (u (slow 2 [0, 0, 0])).throttleOrder = [] ∧ (u (slow 2 [0, 0, 0])).railOrder.head? = some (0, 0) ∧
        (u locked).throttleOrder = [] ∧ (u locked).railOrder = [] ∧ (locked.paddock 0).desc.lock = true ∧ (locked.paddock 0).desc.clusters ≠ 0) ∧
      ((∀ x ∈ (above (some 0)).liveDies.map (above (some 0)).die, x.aboveSince = some 0 ∧ 15000000 ≤ (x.cycle - 0).toNat) ∧
        ∃ x ∈ (above none).liveDies.map (above none).die, x.aboveSince = none) := by
  and_intros <;> decide +kernel

/-- Whatever a die draws, module power is above the cap where another draws more than it, and below a cap of 2,047 W where no other draws. -/
theorem witness_SnapshotsAndPowerCap :
    let s := sS fS
    let high := s.onDie 1 fun d => { d with draw := 2048 }
    let low := s.onDie 0 fun d => { d with pwrcap := 2047 }
    (high.die 0).pwrcap.toNat < (((high.sample 0).post (.powerSample 0)).die 0).samples.getLastD 0 ∧
      (((low.sample 0).post (.powerSample 0)).die 0).samples.getLastD 0 ≤ (low.die 0).pwrcap.toNat := by
  intro s high low
  have h : (((high.sample 0).post (.powerSample 0)).die 0).samples.getLastD 0 = (Config.powerReading 0 0).toNat + 2048 := rfl
  have l : (((low.sample 0).post (.powerSample 0)).die 0).samples.getLastD 0 = (Config.powerReading 0 0).toNat + 0 := rfl
  rw [h, l, show (high.die 0).pwrcap.toNat = 1200 from rfl, show (low.die 0).pwrcap.toNat = 2047 from rfl]
  omega

theorem witness_ErrorsAndAccesses :
    let s := withHerd (sS fS) (Bar 0)
    let line (d : BitVec 4) : Line := ⟨0x200000, 0, 0, 0, none, 0, 0, 15, d, 0, 0, [], none⟩
    let holds (d : BitVec 4) : State := s.onDie 0 fun x => { x with l2 := [line d] }
    (∀ d ∈ [1, 0], ((holds d).die 0).l2.find? (fun l => l.pa = lineOf 0x200010) = some (line d) ∧ (line d).dirty.getLsbD (0x200010 % 256 / 64) = decide (d = 1)) ∧
      (s.die 0).l2.find? (fun l => l.pa = lineOf 0x200010) = none ∧ s.dies.length = 4 ∧ s.flock? fS.uid = some fS ∧ s.herd? 2 = some (Bar 0) ∧ 7 < s.padrep.length ∧ inModule 0x200010 = true ∧ 0x200010 % 256 + 240 ≤ 256 ∧
      inModule 0x8000000000 = false ∧ s.statesWritten 0x200010 240 = [] ∧ s.statesWritten 0x8000000000 8 = [] ∧
      s.contextsWritten 112 122 0x200010 240 = [] ∧ s.contextsWritten 112 122 0x8000000000 8 = [] := by decide +kernel

theorem witness_BringUp :
    let s := sS fS
    let on (g : Shepherd → Shepherd) (stage : Nat) : State := s.onDie 0 fun d => { d with shepherd := g d.shepherd, stage := stage }
    let running := on fun h => { h with mode := .running, vaultKey := some 5 }
    let recovers (got : List Byte) : State := on (fun h => { h with mode := .recovery, image := some (1024, got) }) 0
    let others (s : State) : State := { s with dies := s.dies.zipIdx.map fun (d, i) => { d with shepherd := { d.shepherd with ready := decide (i ≠ 0) } } }
    let waits := (running 2).onDie 0 fun d => { d with nextPower := 1 }
    let lit := (running 3).onDie 0 fun d => { d with clusters := 1 }
    let dark := lit.onDie 0 fun d => { d with nextEngine := 1 }
    let ready (c : Word64) : State := { s with herds := [] }.onDie 0 fun d => { d with cycle := c, shepherd := { d.shepherd with ready := true } }
    let all : State := { s with dies := s.dies.map fun d => { d with shepherd := { d.shepherd with ready := true } } }
    let two := (running 3).onDie 0 fun d => { d with clusters := 3 }
    let first := two.onDie 0 fun d => { d with engines := 1 }
    let before (t : State) (c : Nat) : Bool := c < 24 ∧ (t.die 0).clusters.getLsbD c = true ∧ (t.die 0).engines.getLsbD c = false
    let late := others s
    (s.dies.length = 4 ∧ (s.shep 0).mode = .reset ∧ (s.die 0).stage = 0 ∧ (s.shep 1).dedup = none) ∧
      (((running 0).shep 0).mode = .running ∧ ((running 0).shep 0).vaultKey = some 5 ∧ ((running 0).die 0).stage = 0 ∧ ((running 0).die 0).live = true) ∧
      ((∃ i ∈ (running 0).liveDies, i ≠ 0 ∧ ((running 0).shep i).ready = false) ∧
        ∀ i ∈ (others (running 0)).liveDies, i ≠ 0 → ((others (running 0)).shep i).ready = true) ∧
      (2 ≤ ((running 2).die 0).stage ∧ ((running 2).die 0).nextPower.toNat ≤ ((running 2).die 0).cycle.toNat ∧
        (waits.die 0).cycle.toNat < (waits.die 0).nextPower.toNat ∧ 2 ≤ (lit.die 0).stage ∧ (lit.die 0).clusters.getLsbD 0 = true ∧ (lit.die 0).live = true ∧
        (lit.die 0).nextEngine.toNat ≤ (lit.die 0).cycle.toNat ∧ (dark.die 0).clusters.getLsbD 0 = true ∧ (dark.die 0).cycle.toNat < (dark.die 0).nextEngine.toNat) ∧
      ((all.liveDies.filter fun i => (all.shep i).ready = false) = [] ∧ ((ready 0).liveDies.filter fun i => ((ready 0).shep i).ready = false) = [1, 2, 3] ∧
        ((ready 0).shep 0).ready = true ∧ (((ready 0).die 0).cycle - ((ready 0).shep 0).started).toNat < 1500000000 ∧ (ready 1500000000).herds = [] ∧
        1500000000 ≤ (((ready 1500000000).die 0).cycle - ((ready 1500000000).shep 0).started).toNat) ∧
      (((recovers []).shep 0).mode = .recovery ∧ ((recovers []).shep 0).image = some (1024, [])) ∧
      (((running 0).shep 0).mode = .running ∧ ((running 0).shep 0).vaultKey = some 5 ∧ (s.shep 0).vaultKey = none) ∧
      ((∀ c, c < 1 → (lit.die 0).clusters.getLsbD c = true) ∧ (∀ c ∈ List.range 24, 1 < c → .clusterPowerUp 0 c ∉ lit.agenda)) ∧
      ((waits.die 0).stage = 2 ∧ .clusterPowerUp 0 5 ∈ { waits with agenda := [.clusterPowerUp 0 5] }.agenda) ∧
      ((two.die 0).stage = 3 ∧ (two.die 0).clusters.getLsbD 1 = true ∧ before two 0 ∧ ¬ before first 0 ∧ before first 1) ∧
      ((late.liveDies.filter fun i => (late.shep i).ready = false) ≠ [] ∧ (late.shep 0).ready = false) := by
  and_intros <;> decide +kernel

theorem witness_ManagementPort :
    let on (m : ShepMode) : State := State.reset.onDie 0 fun d => { d with shepherd := { d.shepherd with mode := m } }
    (State.reset.shep 0).mode = .reset ∧ ((on .running).shep 0).mode = .running ∧ ((on .recovery).shep 0).mode = .recovery ∧
      State.reset.bellwethers = [] ∧ (0 ≠ 1 ∨ (Config.certificateChain 0).length ≤ 0) := by
  and_intros <;> first | decide +kernel | exact .inl (by decide)

theorem witness_ManagementPortBlock : ∃ b, ((State.reset.blocks 0).filter fun x => x.1 = 1) = [(1, b)] := by
  refine ⟨bytesOf 64 ((State.reset.shep 0).romDigest.getD 0).toNat, ?_⟩
  unfold State.blocks
  rw [show State.reset.bellwethers = [] by decide +kernel]
  simp

theorem witness_CommitsAndResets :
    let d : PaddockDesc := { PaddockDesc.reset with clusters := 1 }
    let c : LayoutChange := ⟨[(0, d)], [(0, MapReg.reset 0)], none⟩
    let gate : LayoutChange := ⟨[], [], some (MapReg.reset 0xFFFF)⟩
    let locked : PaddockDesc := { d with lock := true }
    let s := (sS fS).setPaddock 0 { (sS fS).paddock 0 with quiesced := true }
    let on (g : Nat → Shepherd → Shepherd) : State :=
      { s with dies := s.dies.zipIdx.map fun (d, i) => { d with shepherd := { g i d.shepherd with mode := .running } } }
    let idle := on fun _ h => h
    let staged (c : LayoutChange) (n : Nat) : State := on fun i h => { h with staged := some (1, some c), journal := ⟨1, if i = 0 then 0 else BitVec.ofNat 2 n, 1, false⟩ }
    let fill : Piece := { scalarPiece 1 with loc := some { pa := 0, va := 0, key := 0, cclass := 0, commons := true, aff := none, session := 0, table := false } }
    let filling := { staged gate 1 with flocks := [{ fS with ops := [⟨0, some .g, 4, [fill], 0, none, 0, false, false, []⟩] }] }
    let done := on fun _ h => { h with staged := some (1, some c), journal := ⟨1, 3, 1, false⟩ }
    let moving := on fun _ h => { h with staged := some (1, none) }
    let waking := s.onDie 0 fun d => { d with stage := 3, shepherd := { d.shepherd with mode := .reset, dedup := some 5 } }
    let has (t : State) (i n : Nat) : Bool := (t.shep i).journal.seq = 1 ∧ n ≤ (t.shep i).journal.state.toNat
    (idle.dies.length = 4 ∧ (idle.shep idle.coordinator).mode = .running ∧ (∀ i ∈ idle.liveDies, (idle.shep i).staged = none) ∧ idle.changeOk c = true ∧
        (∀ i ∈ idle.liveDies, (idle.shep i).journal.seq.toNat < 2 ^ 32 - 1) ∧ (sS fS).changeOk c = false) ∧
      (0 ∈ c.paddocks.map (·.1) ∧ ((sS fS).paddock 0).quiesced = false ∧ { d with reserved := 1 }.reserved ≠ 0 ∧ locked.lock = true ∧
        ratioOk locked.lnum.toNat locked.lden.toNat = false ∧ ((sS fS).shep (sS fS).coordinator).mode ≠ .running) ∧
      (∀ n ∈ [0, 1], 0 ∈ (staged c n).liveDies ∧ ((staged c n).shep 0).staged = some (1, some c) ∧ ((staged c n).shep 0).mode = .running ∧
        ((staged c n).shep 0).journal.state = 0) ∧
      ((∀ i ∈ (staged c 1).liveDies, i ≠ 0 → ((staged c 1).shep i).journal.seq = 1 ∧ 1 ≤ ((staged c 1).shep i).journal.state.toNat) ∧
        ∃ i ∈ (staged c 0).liveDies, i ≠ 0 ∧ ¬ 1 ≤ ((staged c 0).shep i).journal.state.toNat) ∧
      (filling.commonsFill 0 = true ∧ (filling.shep 0).staged = some (1, some gate) ∧ gate.mapc ≠ none ∧ (filling.shep 0).journal.state = 0) ∧
      (∀ i ∈ (staged c 3).liveDies, i ≠ 0 → ((staged c 3).shep i).journal.seq = 1 ∧ 3 ≤ ((staged c 3).shep i).journal.state.toNat) ∧
      (0 < ((staged c 3).die 0).maps.length ∧ 0 < (staged c 3).paddocks.length ∧ c.maps = [(0, MapReg.reset 0)] ∧ c.paddocks = [(0, d)]) ∧
      (done.inProgress = some (1, some c) ∧ (∀ i ∈ done.liveDies, (done.shep i).journal.seq = 1 ∧ 3 ≤ (done.shep i).journal.state.toNat) ∧
        (done.shep done.coordinator).mode = .running) ∧
      (moving.inProgress = some (1, none) ∧ (waking.shep 0).mode = .reset ∧ (waking.die 0).stage ≠ 0 ∧ (waking.shep 0).dedup.isSome = true) ∧
      ((staged c 2).inProgress = some (1, some c) ∧ (∃ i ∈ (staged c 2).liveDies, has (staged c 2) i 2) ∧
        (staged c 1).inProgress = some (1, some c) ∧ ∀ i ∈ (staged c 1).liveDies, ¬ has (staged c 1) i 2) := by
  and_intros <;> decide +kernel

theorem witness_DecodeEncode :
    WellFormed .sNop ∧ encode .sNop = some (bytesOf 4 0x31) ∧ decodeBytes false (bytesOf 4 0x31 ++ [7]) = some (.sNop, [7]) ∧
      WellFormed (.vAdd all) ∧ (encode (.vAdd all)).isSome = true := by decide +kernel

theorem witness_StepRunsDecoded :
    let s := State.reset.fetchState false (bytesOf 4 0x31)
    let l := State.reset.fetchState true (bytesOf 12 0xF087)
    let waits := withMem (withRcb (State.reset.fetchState true (bytesOf 4 0x29)) fun r => { r with lcode := 0x100 }) 0x10100 12 1
    let both := { waits with flocks := [{ fL with nextStream := 0 }] }
    let idle := { State.reset with agenda := [] }
    let late := { sS fS with agenda := [.flockExchange 0 0 1, .boot 0] }
    let u (s : State) : State := { s.begin with cursor := s.begin.cursor % s.begin.datapaths.length + 1 }
    let turns (s : State) (f : Flock) : Bool := s.begin.agenda = [] ∧ s.begin.datapaths[s.begin.cursor % s.begin.datapaths.length]? = some (0, 0) ∧
      (u s).atPointer 0 0 = some f
    let stall (s : State) (f : Flock) (y : Option Nat) : Option Bool := stallOf ((((u s).movePointer 0 0).turn f.uid).attempt ⟨f.uid, y⟩)
    let cur (s : State) (f : Flock) (y : Option Nat) : State := { (((u s).movePointer 0 0).turn f.uid) with cur := some ⟨f.uid, y⟩ }
    (turns s fS ∧ fS.streams = none :: [] ∧ stall s fS none = none) ∧ (turns l fL ∧ fL.streams = some 0 :: [none] ∧ stall l fL (some 0) = none) ∧
      (turns both { fL with nextStream := 0 } ∧ ({ fL with nextStream := 0 } : Flock).streams = none :: some 0 :: [] ∧
        stall both fL none ≠ none ∧ stall both fL (some 0) = none) ∧
      (idle.begin.agenda = [] ∧ idle.begin.datapaths = []) ∧
      (late.agenda[0]? = some (.flockExchange 0 0 1) ∧ late.urgent (.flockExchange 0 0 1) = true ∧ State.reset.agenda[0]? = some (.boot 0) ∧
        ∀ e ∈ State.reset.agenda, State.reset.urgent e = false) ∧
      (fS.spc < (cur s fS none).slen fS ∧
        (match (cur s fS none).fetchItem fS (((cur s fS none).regionOf ((cur s fS none).herdOf fS)).rcb.scode + 4 * fS.spc) 4 with
          | .ok z => z.2 == bytesOf 4 0x31
          | .error _ => false) = true) ∧
      (decodeBytes false (bytesOf 4 0x31) = some (.sNop, []) ∧ decodeBytes false (bytesOf 4 0) = none) ∧
      (fL.path? pL.id = some pL ∧ fL.recipe = none ∧ pL.guess = none ∧ pL.redo = [] ∧ pL.pc < (cur l fL (some 0)).llen fL ∧
        (match (cur l fL (some 0)).fetchItem fL (((cur l fL (some 0)).regionOf ((cur l fL (some 0)).herdOf fL)).rcb.lcode + 12 * pL.pc) 12 with
          | .ok z => z.2 == bytesOf 12 0xF087
          | .error _ => false) = true) ∧
      ((decodeBytes true (bytesOf 12 0xF087)).isSome = true ∧ decodeBytes true (bytesOf 12 0) = none) := by
  and_intros <;> decide +kernel

/-- An outcome is a next state. -/
def goes (o : Host.Outcome State Fault Refusal) : Bool := match o with
  | .next _ => true
  | _ => false

theorem witness_ScalarFrames :
    let f := Regs [(2, 0x100)]
    IssuesScalar (sS f) f ∧ f.bar = none ∧ goes (exec (.sAdd 1 2 3) (sS f)) = true ∧ goes (exec (.sStW 1 2 0) (sS f)) = true ∧
      ((sS f).translate ((sS f).agentOf f) (f.sreg 2 + BitVec.ofInt 64 (0 * 4)).toNat .write).isOk = true := by decide +kernel

theorem witness_LaneFrames :
    let w := { all with dest := 1, sa := 2, sb := 3 }
    let p := { pL with mask := 1 }
    let f := { fL with paths := [p], s := [(1, 0x200)] }
    let stW := { all with sa := 190, sb := 192, sc := 191 }
    let sp := withHerd (sL f) (Bar 0)
    (IssuesLane (sL fL) fL pL ∧ fL.bar = none ∧ fL.recipe = none ∧ fL.lanes ≤ 1024 ∧ goes (exec (.vAdd w) (sL fL)) = true) ∧
      (IssuesLane (sL f) f p ∧ f.bar = none ∧ ((sL f).checkLanes ((sL f).agentOf f) .write (memBytes stW)
        ((laneList f p stW).map fun l => (l, f.globalAddr stW true l))).isOk = true ∧ goes (exec (.vSt stW) (sL f)) = true) ∧
      (IssuesLane sp f p ∧ (sp.checkSpadLanes (sp.herdOf f) .write (memBytes stW) ((laneList f p stW).map fun l => (l, f.spadAddr stW true l))).isOk = true ∧
          goes (exec (.vStSp stW) sp) = true) := by
  and_intros <;> decide +kernel

theorem witness_StepKeepsSound : ∃ t, State.Sound { State.reset with agenda := [] } ∧ step { State.reset with agenda := [] } = .next t :=
  ⟨_, ⟨by decide, rfl, rfl, rfl⟩, rfl⟩


end Sys2Proof.Tests
end

/-!
PROOFS. Every step keeps the invariant `State.Sound` (O58). What a step can do is a due event or one round of attempts to issue; each attempt and
each event keeps the invariant by the lemmas of Laws/SoundStep.lean.
-/
namespace Sys2Proof.Machine

/-- What the streams of a flock answer, tried in turn, keeps the invariant. -/
theorem State.tryStreams_sound {s fin : State} {uid : Nat} {l : List (Option Nat)} (hs : s.Sound)
    (ok : s.tryStreams uid l = .ok (.next fin)) : fin.Sound := by
  induction l with
  | nil => cases ok
  | cons x r ih =>
    simp only [State.tryStreams] at ok
    split at ok
    · exact State.attempt_sound hs (Except.ok.inj ok)
    · split at ok
      next h => exact ih (h.trans ok)
      next => cases ok

/-- A sweep of a datapath keeps the invariant, both in the state that it leaves and in the answer of the flock that issues. -/
theorem State.sweep_sound {s : State} {core dp n : Nat} (hs : s.Sound) :
    (s.sweep core dp n).1.Sound ∧ ∀ fin, (s.sweep core dp n).2 = some (.next fin) → fin.Sound := by
  induction n generalizing s with
  | zero => exact ⟨hs, nofun⟩
  | succ n ih =>
    have passed : (s.movePointer core dp).Sound := State.movePointer_sound hs
    simp only [State.sweep]
    split
    · split
      · exact ⟨passed, nofun⟩
      · exact ih passed
    next f _ =>
      split
      next answer => exact ⟨passed, fun fin h => State.tryStreams_sound (State.turn_sound passed) (answer.trans (congrArg _ (Option.some.inj h)))⟩
      next =>
        have posted := State.postOnce_sound (e := .flockExchange core dp f.uid) passed
        split
        · split
          · exact ⟨posted, nofun⟩
          · exact ⟨passed, nofun⟩
        · split
          · exact ih posted
          · exact ih passed

/-- Sweeps of datapaths in turn, up to the first that issues, keep the invariant. -/
theorem State.issueFrom_sound {s fin : State} {l : List ((Nat × Nat) × Nat)} (hs : s.Sound) (ok : s.issueFrom l = .next fin) : fin.Sound := by
  induction l generalizing s with
  | nil => cases ok; exact ⟨hs.1, hs.2, hs.3, hs.4⟩
  | cons x r ih =>
    obtain ⟨⟨c, d⟩, i⟩ := x
    obtain ⟨left, answered⟩ := State.sweep_sound (core := c) (dp := d) (n := 8) (s := { s with cursor := i + 1 }) ⟨hs.1, hs.2, hs.3, hs.4⟩
    simp only [State.issueFrom] at ok
    split at ok
    next h => rw [h] at answered; exact answered _ (congrArg some ok)
    next h => rw [h] at left; exact ih left ok

/-- What a step does, once it has begun, keeps the invariant. -/
theorem State.act_sound {s fin : State} {pick : Nat} (hs : s.Sound) (ok : s.act pick = .next fin) : fin.Sound := by
  unfold State.act at ok
  split at ok
  · exact execEvent_sound _ (State.take_sound hs) ok
  · exact State.issueFrom_sound hs ok

/-- Settles O58: a step is a beginning and an act, and both keep the invariant. -/
theorem stepKeepsSound : Obligations.StepKeepsSound := fun _ _ hs ok => State.act_sound (State.begin_sound hs) ok

end Sys2Proof.Machine

/-!
PROOFS. Memory as statement O25 says: fields and bytes of numbers, the page walk (R78, R80), translation (R82, R377, R452), the copy of a granule
(R83), and what a write and an atomic leave at their home (R87, R96).
-/
namespace Sys2Proof.Machine

/-! ## Fields of a number -/

/-- A field put back leaves the number as it was. -/
theorem withBits_bitsAt (v lo n : Nat) : withBits v lo n (bitsAt v lo n) = v := by
  have fits : bitsAt v lo n * 2 ^ lo ≤ v :=
    Nat.le_trans (Nat.mul_le_mul_right _ (Nat.mod_le ..)) (Nat.div_mul_le_self ..)
  rw [withBits, show bitsAt v lo n % 2 ^ n = bitsAt v lo n from Nat.mod_mod .., Nat.sub_add_cancel fits]

/-- A bit set is the number with that power of two joined. -/
theorem withBits_one (v g : Nat) : withBits v g 1 1 = v ||| 2 ^ g := by
  have parts : v = 2 ^ (g + 1) * (v / 2 ^ (g + 1)) + v % 2 ^ (g + 1) := (Nat.div_add_mod ..).symm
  have bit : v % 2 ^ (g + 1) = v % 2 ^ g + 2 ^ g * (v / 2 ^ g % 2) := by rw [Nat.pow_succ, Nat.mod_mul]
  have low : v % 2 ^ g < 2 ^ g := Nat.mod_lt _ (Nat.two_pow_pos g)
  rcases Nat.mod_two_eq_zero_or_one (v / 2 ^ g) with clear | set
  · replace bit : v % 2 ^ (g + 1) = v % 2 ^ g := by rw [bit, clear]; rfl
    have top : v % 2 ^ g + 2 ^ g < 2 ^ (g + 1) := by rw [Nat.pow_succ]; omega
    calc withBits v g 1 1 = v + 2 ^ g := by rw [withBits, bitsAt, Nat.pow_one, clear]; omega
      _ = 2 ^ (g + 1) * (v / 2 ^ (g + 1)) + (v % 2 ^ g + 2 ^ g) := by omega
      _ = v ||| 2 ^ g := by
        rw [Nat.two_pow_add_eq_or_of_lt top, ← Nat.or_two_pow_eq_add_of_lt low, ← Nat.or_assoc,
          ← Nat.two_pow_add_eq_or_of_lt (Nat.lt_trans low (Nat.pow_lt_pow_succ Nat.one_lt_two)), ← bit, ← parts]
  · have fits : 2 ^ g ≤ v := by
      have := Nat.mod_le v (2 ^ (g + 1))
      rw [bit, set] at this; omega
    have held : v.testBit g = true := by rw [Nat.testBit_eq_decide_div_mod_eq, set]; rfl
    calc withBits v g 1 1 = v := by rw [withBits, bitsAt, Nat.pow_one, set]; omega
      _ = v ||| 2 ^ g := Nat.eq_of_testBit_eq fun j => by
        by_cases h : g = j
        · rw [← h, Nat.testBit_or, held, Bool.true_or]
        · rw [Nat.testBit_or, Nat.testBit_two_pow, decide_eq_false h, Bool.or_false]

/-- The number of an entry stays below 2^128 as its GRANULES are replaced. -/
theorem withBits_granules_lt {e x : Nat} (he : e < 2 ^ 128) : withBits e 80 16 x < 2 ^ 128 := by
  simp only [withBits, bitsAt]; omega

/-! ## Numbers as bytes (R4) -/

/-- A number's bytes are worth the number. -/
theorem ofBytes_bytesOf (n v : Nat) : ofBytes (bytesOf n v) = v % 2 ^ (8 * n) := by
  induction n generalizing v with
  | zero => simp [bytesOf, ofBytes, Nat.mod_one]
  | succ n ih =>
    rw [bytesOf, ofBytes, ih, BitVec.toNat_ofNat, show 8 * (n + 1) = 8 + 8 * n by omega, Nat.pow_add]
    exact (Nat.mod_mul (a := 2 ^ 8)).symm

/-- What some bytes are worth. -/
theorem ofBytes_lt (bs : List Byte) : ofBytes bs < 2 ^ (8 * bs.length) := by
  induction bs with
  | nil => simp [ofBytes]
  | cons b bs ih =>
    have := b.isLt
    rw [ofBytes, List.length_cons, show 8 * (bs.length + 1) = 8 * bs.length + 8 by omega, Nat.pow_add]
    omega

theorem Memory.length_bytes (m : List Host.Cell) (a n : Nat) : (Memory.bytes m a n).length = n := by simp [Memory.bytes]

/-- What `n` bytes of memory are worth. -/
theorem Memory.read_lt (m : List Host.Cell) (a n : Nat) : Memory.read m a n < 2 ^ (8 * n) := by
  have := ofBytes_lt (Memory.bytes m a n)
  rwa [Memory.length_bytes] at this

/-- A number written reads back. -/
theorem Memory.read_write (m : List Host.Cell) (a n v : Nat) : Memory.read (Memory.write m a (bytesOf n v)) a n = v % 2 ^ (8 * n) := by
  have whole := Memory.bytes_write (m := m) (a := a) (bs := bytesOf n v)
  rw [Laws.WordLength.length_bytesOf] at whole
  rw [Memory.read, whole, ofBytes_bytesOf]

/-- Bytes that lie apart from a write are as they were. -/
theorem Memory.bytes_write_apart {m : List Host.Cell} {a b n : Nat} {bs : List Byte} (h : b + n ≤ a ∨ a + bs.length ≤ b) :
    Memory.bytes (Memory.write m a bs) b n = Memory.bytes m b n :=
  List.map_congr_left fun i hi => Memory.byte_write_outside (by have := List.mem_range.1 hi; omega)

/-! ## The page walk (R78, R80) -/

section
variable {s : State} {by_ : Option Agent} {va l table e : Nat}

/-- An entry that cannot be read ends the walk. -/
theorem State.walkFrom_error {c : Nat} (h : s.readEntry by_ (table + 16 * vaIndex va l) = .error c) : s.walkFrom by_ va l table = .error c := by
  cases l <;> simp only [State.walkFrom, h]

/-- An entry that is not present ends the walk. -/
theorem State.walkFrom_absent (h : s.readEntry by_ (table + 16 * vaIndex va l) = .ok e) (hp : pteBit e 106 = false) :
    s.walkFrom by_ va l table = .error 0x05 := by
  cases l <;> simp [State.walkFrom, h, hp]

/-- A pointer leads on to the table that it names. -/
theorem State.walkFrom_pointer (h : s.readEntry by_ (table + 16 * vaIndex va (l + 1)) = .ok e)
    (hp : pteBit e 106 = true ∧ pteSize e = 3 ∧ pointerOk e = true) : s.walkFrom by_ va (l + 1) table = s.walkFrom by_ va l (pteFrame e * 4096) := by
  obtain ⟨present, size, ok⟩ := hp
  simp [State.walkFrom, h, present, size, ok]

/-- A 2 MiB leaf above level 1 ends the walk. -/
theorem State.walkFrom_leaf_high (h : s.readEntry by_ (table + 16 * vaIndex va (l + 2)) = .ok e)
    (hp : pteBit e 106 = true ∧ pteSize e = 2 ∧ leafOk e = true) : s.walkFrom by_ va (l + 2) table = .error 0x05 := by
  obtain ⟨present, size, -⟩ := hp
  simp [State.walkFrom, h, present, size]

/-- A 2 MiB leaf at level 1 is the page's entry. -/
theorem State.walkFrom_leaf_2M (h : s.readEntry by_ (table + 16 * vaIndex va 1) = .ok e)
    (hp : pteBit e 106 = true ∧ pteSize e = 2 ∧ leafOk e = true) : s.walkFrom by_ va 1 table = .ok (table + 16 * vaIndex va 1, e) := by
  obtain ⟨present, size, ok⟩ := hp
  simp [State.walkFrom, h, present, size, ok]

/-- A 4 KiB leaf is the page's entry. -/
theorem State.walkFrom_leaf_4K (h : s.readEntry by_ (table + 16 * vaIndex va 0) = .ok e)
    (hp : pteBit e 106 = true ∧ pteSize e = 0 ∧ leafOk e = true) : s.walkFrom by_ va 0 table = .ok (table + 16 * vaIndex va 0, e) := by
  obtain ⟨present, size, ok⟩ := hp
  simp [State.walkFrom, h, present, size, ok]

/-- A 64 KiB leaf is the page's entry where its sixteen entries agree. -/
theorem State.walkFrom_leaf_64K (h : s.readEntry by_ (table + 16 * vaIndex va 0) = .ok e) (hp : pteBit e 106 = true ∧ pteSize e = 1 ∧ leafOk e = true)
    (agree : s.groupOk by_ table (vaIndex va 0) e = .ok true) : s.walkFrom by_ va 0 table = .ok (table + 16 * vaIndex va 0, e) := by
  obtain ⟨present, size, ok⟩ := hp
  simp [State.walkFrom, h, present, size, ok, agree]

/-- A 64 KiB leaf gives no page where its sixteen entries do not agree. -/
theorem State.walkFrom_leaf_64K_broken (h : s.readEntry by_ (table + 16 * vaIndex va 0) = .ok e) (hp : pteSize e = 1)
    (broken : s.groupOk by_ table (vaIndex va 0) e ≠ .ok true) (r : Nat × Nat) : s.walkFrom by_ va 0 table ≠ .ok r := by
  simp only [State.walkFrom, h, hp]
  split
  · simp
  · cases g : s.groupOk by_ table (vaIndex va 0) e with
    | error c => simp
    | ok b =>
      cases b with
      | false => simp
      | true => exact absurd g broken

/-- Sixteen entries as R80 asks, under a frame of the right place in its group, agree. -/
theorem State.groupOk_true {i : Nat} (hi : pteFrame e % 16 = i % 16) (h : ∀ k, k < 16 →
    s.readEntry by_ (table + 16 * (i / 16 * 16 + k)) = .ok (withBits e 0 40 (pteFrame e / 16 * 16 + k))) :
    s.groupOk by_ table i e = .ok true := by
  unfold State.groupOk
  rw [decide_eq_true hi]
  exact foldl_fixed fun k hk => by simp [h k (List.mem_range.1 hk)]

/-- A frame out of its place in the group of sixteen breaks the group. -/
theorem State.groupOk_ne_true {i : Nat} (hi : pteFrame e % 16 ≠ i % 16) : s.groupOk by_ table i e ≠ .ok true := by
  unfold State.groupOk
  rw [decide_eq_false hi]
  refine List.foldlRecOn (motive := fun x : Except Nat Bool => x ≠ .ok true) _ _ (by simp) fun x hx k _ => ?_
  cases x with
  | error c => simp
  | ok b =>
    have : b = false := by simpa using hx
    cases s.readEntry by_ (table + 16 * (i / 16 * 16 + k)) <;> simp [this]

end

/-! ## Translation (R72, R82, R377, R452) -/

section
variable {s u : State} {ag : Agent} {session va e : Nat} {kind : Access}

/-- An entry admits an access: its location is module memory, a write has W, and the key slot is the session's and loaded. -/
def State.Admits (s : State) (session va : Nat) (kind : Access) (e : Nat) : Prop :=
  inModule (s.locate session va e).pa = true ∧ (kind = .read ∨ pteBit e 107 = true) ∧
    s.keyOk session (s.locate session va e).key (homeDie (s.locate session va e).pa) = true

theorem State.entryAllows_outside (h : inModule (s.locate session va e).pa = false) : s.entryAllows session va kind e = .error 0x05 := by
  simp [State.entryAllows, h]

theorem State.entryAllows_unwritable (h : inModule (s.locate session va e).pa = true) (hk : kind ≠ .read) (hw : pteBit e 107 = false) :
    s.entryAllows session va kind e = .error 0x06 := by
  simp [State.entryAllows, h, hk, hw]

theorem State.entryAllows_keyless (h : inModule (s.locate session va e).pa = true) (hw : kind = .read ∨ pteBit e 107 = true)
    (hk : s.keyOk session (s.locate session va e).key (homeDie (s.locate session va e).pa) = false) :
    s.entryAllows session va kind e = .error 0x07 := by
  rcases hw with hw | hw <;> simp [State.entryAllows, h, hk, hw]

theorem State.entryAllows_of_admits (h : s.Admits session va kind e) : s.entryAllows session va kind e = .ok (s.locate session va e) := by
  obtain ⟨inside, hw, key⟩ := h
  rcases hw with hw | hw <;> simp [State.entryAllows, inside, key, hw]

/-- What an entry does not admit fails. -/
theorem State.entryAllows_of_not_admits (h : ¬ s.Admits session va kind e) : ∃ c, s.entryAllows session va kind e = .error c := by
  by_cases inside : inModule (s.locate session va e).pa = true
  · by_cases hw : kind = .read ∨ pteBit e 107 = true
    · exact ⟨_, State.entryAllows_keyless inside hw (by simpa using fun key => h ⟨inside, hw, key⟩)⟩
    · obtain ⟨hk, hw⟩ := not_or.1 hw
      exact ⟨_, State.entryAllows_unwritable inside hk (by simpa using hw)⟩
  · exact ⟨_, State.entryAllows_outside (by simpa using inside)⟩

/-- When a granule is copied first. -/
theorem copyFirst_iff : copyFirst va kind e = true ↔
    kind ≠ .read ∧ pteSize e ≠ 2 ∧ pteBit e 108 = true ∧ pteGranules e / 2 ^ (va / 256 % 16) % 2 = 0 := by
  simp [copyFirst, bitsAt, and_assoc]

theorem State.reach_of_inModule {loc : Loc} (h : inModule loc.pa = true) : s.reach loc = .ok (s.rekey loc, loc) := by
  simp [State.reach, h]

theorem State.translate_far (h : 2 ^ 48 ≤ va) : s.translate ag va kind = .error 0x05 := by
  rw [State.translate, if_pos h]

theorem State.translate_lost {c : Nat} (h : va < 2 ^ 48) (hl : s.lookup ag va = .error c) : s.translate ag va kind = .error c := by
  rw [State.translate, if_neg (Nat.not_le_of_lt h), hl]

/-- Below 2^48 a translation goes by the entry that the lookup gives. -/
theorem State.translate_entry (h : va < 2 ^ 48) (hl : s.lookup ag va = .ok (u, e)) :
    s.translate ag va kind = u.useEntry ag.session va kind e := by
  rw [State.translate, if_neg (Nat.not_le_of_lt h), hl]

theorem State.useEntry_refused {c : Nat} (h : s.entryAllows session va kind e = .error c) : s.useEntry session va kind e = .error c := by
  rw [State.useEntry, h]

/-- An access that its entry admits and that needs no copy reaches its location. -/
theorem State.useEntry_direct (h : s.Admits session va kind e) (hc : copyFirst va kind e = false) :
    s.useEntry session va kind e = .ok (s.rekey (s.locate session va e), s.locate session va e) := by
  simp [State.useEntry, State.entryAllows_of_admits h, hc, State.reach_of_inModule h.1]

/-- A write that needs a copy goes by the entry in the table itself. -/
theorem State.useEntry_copying {pa e' : Nat} (h : s.Admits session va kind e) (hc : copyFirst va kind e = true)
    (hw : s.walk session va = .ok (pa, e')) :
    s.useEntry session va kind e = s.byEntry session va kind pa e' fun s => (s.walk session va).map (·.2) := by
  simp [State.useEntry, State.entryAllows_of_admits h, hc, hw]

theorem State.byEntry_refused {pa c : Nat} {again : State → Except Nat Nat} (h : s.entryAllows session va kind e = .error c) :
    s.byEntry session va kind pa e again = .error c := by
  rw [State.byEntry, h]

/-- A copy that fails ends the access with its cause. -/
theorem State.byEntry_uncopied {pa c : Nat} {again : State → Except Nat Nat} (h : s.Admits session va kind e) (hc : copyFirst va kind e = true)
    (hg : s.copyGranule session va pa e = .error c) : s.byEntry session va kind pa e again = .error c := by
  simp [State.byEntry, State.entryAllows_of_admits h, hc, hg]

/-- After a copy the access reaches the location that the new entry gives and admits. -/
theorem State.byEntry_copied {v : State} {pa e' : Nat} {again : State → Except Nat Nat} (h : s.Admits session va kind e)
    (hc : copyFirst va kind e = true) (hg : s.copyGranule session va pa e = .ok v) (ha : again v = .ok e') (h' : v.Admits session va kind e') :
    s.byEntry session va kind pa e again = .ok (v.rekey (v.locate session va e'), v.locate session va e') := by
  simp [State.byEntry, State.entryAllows_of_admits h, hc, hg, ha, State.entryAllows_of_admits h', State.reach_of_inModule h'.1]

/-- A granule that is copied lies in the overlay frame, under the session's own key slot. -/
theorem State.locate_overlay (h : pteSize e ≠ 2) (hg : pteGranules e / 2 ^ (va / 256 % 16) % 2 = 1) :
    (s.locate session va e).pa = pteOverlay e * 4096 + va % 4096 ∧ (s.locate session va e).key = s.keyslot session := by
  simp [State.locate, bitsAt, h, hg]

/-- A granule that is not copied lies in the entry's frame, under the entry's key slot. -/
theorem State.locate_frame (h : pteSize e ≠ 2) (hg : pteGranules e / 2 ^ (va / 256 % 16) % 2 = 0) :
    (s.locate session va e).pa = pteFrame e * 4096 + va % 4096 ∧ (s.locate session va e).key = pteKey e := by
  simp [State.locate, bitsAt, h, hg]

/-- A 2 MiB page lies in its own frames. -/
theorem State.locate_2M (h : pteSize e = 2) :
    (s.locate session va e).pa = pteFrame e * 4096 + va % 2 ^ 21 ∧ (s.locate session va e).key = pteKey e := by
  simp [State.locate, h]

end

/-! ## The copy of a granule (R83) -/

/-- An element of a list with one replaced. -/
theorem getD_setNth {α : Type} (l : List α) (n i : Nat) (v d : α) :
    (setNth l n v).getD i d = if i = n ∧ n < l.length then v else l.getD i d := by
  induction l generalizing n i with
  | nil => simp [setNth]
  | cons x l ih => cases n <;> cases i <;> simp_all [setNth]

/-- A field of the dies that a change of one leaves alone. -/
theorem State.onDie_field {α : Type} {s : State} {d i : Nat} {g : Die → Die} (p : Die → α) (hg : ∀ x, p (g x) = p x) :
    p ((s.onDie d g).die i) = p (s.die i) := by
  simp only [State.onDie, State.setDie, State.die, getD_setNth]
  split
  next h => rw [hg, h.1]
  next => rfl

/-- What packets that travel leave alone of what an access depends on: memory, its keys, the cores, and where the session contexts lie. -/
def State.offPorts (s : State) : List Host.Cell × SMap (BitVec 512) × SMap Core × Word64 := (s.mem, s.memKeys, s.cores, (s.die 0).sessbase)

/-- A change of a die that leaves its session base alone. -/
theorem State.onDie_offPorts {s : State} {d : Nat} {g : Die → Die} (hg : ∀ x, (g x).sessbase = x.sessbase) :
    (s.onDie d g).offPorts = s.offPorts := by
  simp [State.offPorts, State.onDie_field Die.sessbase hg]

theorem State.post_offPorts (s : State) (e : Event) : (s.post e).offPorts = s.offPorts := rfl

theorem State.onLink_offPorts (s : State) (die link : Nat) (g : Link → Link) : (s.onLink die link g).offPorts = s.offPorts :=
  State.onDie_offPorts fun _ => rfl

theorem State.sendGroup_offPorts (s : State) (die link : Nat) (p : Parcel) : (s.sendGroup die link p).offPorts = s.offPorts := by
  simp only [State.sendGroup, State.transmit, State.post_offPorts, State.onLink_offPorts]

theorem State.sendParcel_offPorts (s : State) (die link : Nat) (p : Parcel) : (s.sendParcel die link p).offPorts = s.offPorts := by
  unfold State.sendParcel
  rw [State.sendGroup_offPorts, State.onLink_offPorts, State.onDie_offPorts (g := fun d => d.giveUpSlot p.id) fun _ => rfl, State.onLink_offPorts]

theorem State.pump_offPorts (n : Nat) (s : State) : (s.pump n).offPorts = s.offPorts := by
  induction n generalizing s with
  | zero => rfl
  | succ n ih =>
    unfold State.pump
    split
    · rfl
    · exact (ih _).trans (State.sendParcel_offPorts ..)

theorem State.enqueue_offPorts (s : State) (die : Nat) (p : Parcel) : (s.enqueue die p).offPorts = s.offPorts := by
  unfold State.enqueue
  split
  · rfl
  · exact State.onLink_offPorts ..

theorem State.shipNew_offPorts (s : State) (cls : MsgClass) (session src dst : Nat) : (s.shipNew cls session src dst).offPorts = s.offPorts := by
  show (s.shipAs true cls s.nextUid session src dst).offPorts = _
  unfold State.shipAs
  split
  · rfl
  · exact (State.pump_offPorts ..).trans (State.enqueue_offPorts ..)

/-- The messages of a TLB invalidation to the other dies. -/
theorem State.tlbTell_offPorts (s : State) (session src : Nat) (va : Option Nat) :
    (s.tlbTell session src va).offPorts = (s.tlbInvalidate (s.pasid session) va).offPorts :=
  List.foldlRecOn (motive := fun t : State => t.offPorts = (s.tlbInvalidate (s.pasid session) va).offPorts) _ _ rfl
    fun _ h _ _ => (State.shipNew_offPorts ..).trans h

/-- The dies keep their session base as TLB copies go. -/
theorem State.tlbInvalidate_sessbase (s : State) (pasid : Nat) (va : Option Nat) :
    ((s.tlbInvalidate pasid va).die 0).sessbase = (s.die 0).sessbase := by
  simp only [State.tlbInvalidate, State.keepTlb, State.mapDies, State.mapCores, State.die]
  cases s.dies <;> rfl

/-- No copy of a translation is left in a core's TLB once it is invalidated. -/
theorem State.tlbInvalidate_covers {s : State} {pasid va : Nat} {t : TlbEntry}
    (ht : t ∈ (s.tlbInvalidate pasid (some va)).cores.flatMap fun x => x.2.tlb) : t.covers pasid va = false := by
  obtain ⟨x, hx, hxt⟩ := List.mem_flatMap.1 ht
  obtain ⟨y, -, rfl⟩ := List.mem_map.1 (show x ∈ s.cores.map _ from hx)
  simpa using (List.mem_filter.1 hxt).2

theorem State.tlbTell_mem (s : State) (session src : Nat) (va : Option Nat) : (s.tlbTell session src va).mem = s.mem :=
  congrArg (·.1) (s.tlbTell_offPorts session src va)

theorem State.tlbTell_memKeys (s : State) (session src : Nat) (va : Option Nat) : (s.tlbTell session src va).memKeys = s.memKeys :=
  congrArg (·.2.1) (s.tlbTell_offPorts session src va)

theorem State.tlbTell_cores (s : State) (session src : Nat) (va : Option Nat) :
    (s.tlbTell session src va).cores = (s.tlbInvalidate (s.pasid session) va).cores :=
  congrArg (·.2.2.1) (s.tlbTell_offPorts session src va)

theorem State.tlbTell_sessbase (s : State) (session src : Nat) (va : Option Nat) :
    ((s.tlbTell session src va).die 0).sessbase = (s.die 0).sessbase :=
  (congrArg (·.2.2.2) (s.tlbTell_offPorts session src va)).trans (s.tlbInvalidate_sessbase ..)

/-- The PASID of a session is read in memory, which holds no ciphertext here. -/
theorem State.tlbTell_pasid {s : State} (hk : s.memKeys = []) (session src : Nat) (va : Option Nat) (i : Nat) :
    (s.tlbTell session src va).pasid i = s.pasid i := by
  simp only [State.pasid, State.ctx, State.context, State.clearNum_bare hk, State.clearNum_bare ((s.tlbTell_memKeys ..).trans hk),
    State.tlbTell_mem, State.tlbTell_sessbase]

/-- While no unit is encrypted and no key is loaded, an access shows no unit anew. -/
theorem State.rekey_bare {s : State} (hk : s.memKeys = []) (hd : ∀ d, (s.die d).keys = []) (loc : Loc) : s.rekey loc = s := by
  have none_ : s.keyPair loc.key (homeDie loc.pa) = none := by simp [State.keyPair, hd, SMap.get?]
  simp [State.rekey, none_, State.rekeyUnit, hk, SMap.get?]

/-- What hardware writes in memory that holds no ciphertext. -/
theorem State.putNum_bare {s : State} (hk : s.memKeys = []) (pa n v : Nat) :
    s.putNum pa n v = { s.dropXbar pa n with mem := Memory.write s.mem pa (bytesOf n v) } := by
  have still : ∀ us : List Nat, us.foldl (fun s u => if s.inL2 (256 * u) then s else s.rekeyUnit none u) s = s := fun us =>
    foldl_fixed fun u _ => by simp [State.rekeyUnit, hk, SMap.get?]
  simp only [State.putNum, State.putBytes, still, Laws.WordLength.length_bytesOf]
  rfl

theorem State.copyBytes_mem (s : State) (src dst n : Nat) (key : Option (BitVec 512)) :
    (s.copyBytes src dst n key).mem = Memory.write s.mem dst (Memory.bytes s.mem src n) := rfl

/-- A copy into units in the clear leaves no unit encrypted. -/
theorem State.copyBytes_memKeys {s : State} (hk : s.memKeys = []) (src dst n : Nat) : (s.copyBytes src dst n none).memKeys = [] := by
  show (List.range (n / 256)).foldl (fun m i => setKey m (dst / 256 + i) none) s.memKeys = []
  rw [hk, setKeys_none]

/-- The state with granule `g` of an entry copied to its overlay frame, and the entry at `pa` marked so. -/
def State.granuleCopied (s : State) (pa e g : Nat) : State :=
  (s.copyBytes (pteFrame e * 4096 + 256 * g) (pteOverlay e * 4096 + 256 * g) 256 none).putNum pa 16 (withBits e 80 16 (pteGranules e ||| 2 ^ g))

/-- CopyGranule of a page that has an overlay, where no unit is encrypted and no key is loaded and a granule is left to copy: the granule is
copied, and the dies are told of the new entry. -/
theorem State.copyGranule_bare {s v : State} {session va pa e : Nat} (ok : s.copyGranule session va pa e = .ok v) (hk : s.memKeys = [])
    (hd : ∀ d, (s.die d).keys = []) (ho : pteOverlay e ≠ 0) (hg : pteGranules e ||| 2 ^ (va / 256 % 16) ≠ 0xFFFF) :
    v = (s.granuleCopied pa e (va / 256 % 16)).tlbTell session (homeDie pa) (some va) := by
  have hg' : pteGranules e ||| 2 ^ bitsAt va 8 4 ≠ 0xFFFF := hg
  have own (slot die : Nat) : s.keyPair slot die = none := by simp [State.keyPair, hd, SMap.get?]
  simp only [State.copyGranule, if_neg ho, hg', false_and, if_false, own, State.rekey_bare hk hd,
    withBits_one, show withBits e 40 40 (pteOverlay e) = e from withBits_bitsAt ..] at ok
  split at ok
  · cases ok
  · split at ok
    · cases ok
    · exact (Except.ok.inj ok).symm

section
variable {s : State} {pa e g : Nat}

theorem State.granuleCopied_mem (hk : s.memKeys = []) : (s.granuleCopied pa e g).mem =
    Memory.write (Memory.write s.mem (pteOverlay e * 4096 + 256 * g) (Memory.bytes s.mem (pteFrame e * 4096 + 256 * g) 256)) pa
      (bytesOf 16 (withBits e 80 16 (pteGranules e ||| 2 ^ g))) := by
  simp only [State.granuleCopied, State.putNum_bare (State.copyBytes_memKeys hk ..), State.copyBytes_mem]

theorem State.granuleCopied_memKeys (hk : s.memKeys = []) : (s.granuleCopied pa e g).memKeys = [] := by
  simp only [State.granuleCopied, State.putNum_bare (State.copyBytes_memKeys hk ..), State.dropXbar, State.onDie_memKeys,
    State.copyBytes_memKeys hk]

end

/-! ## Writes and atomics at their home (R87, R96) -/

section
variable {s : State} {pa : Nat}

/-- A write at a die that is present. -/
theorem State.performWrite_mem {bs : List Byte} (h : (s.die (homeDie pa)).live = true) : (s.performWrite pa bs).mem = Memory.write s.mem pa bs := by
  simp [State.performWrite, h, State.dropXbar, State.clearPoison]

/-- An atomic at a die that is present, on bytes that hold no poison. -/
theorem State.performAtom_eq {op : AtomOp} {n b cmp : Nat} (h : (s.die (homeDie pa)).live = true) (hp : s.memPoisoned pa n = false) :
    s.performAtom op n pa b cmp =
      (s.performWrite pa (bytesOf n (atomNew op n (Memory.read s.mem pa n) b cmp)), some (Memory.read s.mem pa n)) := by
  simp [State.performAtom, h, hp]

end

/-- Two's complement of a number that its bits hold. -/
theorem signedOf_of_lt {m x : Nat} (h : x < 2 ^ m) : signedOf m x = if x < 2 ^ (m - 1) then (x : Int) else (x : Int) - 2 ^ m := by
  simp [signedOf, Nat.mod_eq_of_lt h]

/-- Two's complement is read from the pattern in one way. -/
theorem signedOf_inj {m x y : Nat} (hx : x < 2 ^ m) (hy : y < 2 ^ m) (h : signedOf m x = signedOf m y) : x = y := by
  have wrap : ((2 ^ m : Nat) : Int) = 2 ^ m := by push_cast; rfl
  rw [signedOf_of_lt hx, signedOf_of_lt hy, ← wrap] at h
  split at h <;> split at h <;> omega

/-- What an atomic stores fits its bytes. -/
theorem atomNew_lt {op : AtomOp} {n old b cmp : Nat} (ho : old < 2 ^ (8 * n)) (hb : b < 2 ^ (8 * n)) : atomNew op n old b cmp < 2 ^ (8 * n) := by
  cases op
  case add => exact Nat.mod_lt _ (Nat.two_pow_pos _)
  case and => exact Nat.and_lt_two_pow _ hb
  case or => exact Nat.or_lt_two_pow ho hb
  case xor => exact Nat.xor_lt_two_pow ho hb
  case swap => exact hb
  all_goals
    simp only [atomNew]
    split <;> assumption

/-- The lesser of two values in two's complement, the first where they are equal. -/
theorem atomNew_min {n old b cmp : Nat} (ho : old < 2 ^ (8 * n)) (hb : b < 2 ^ (8 * n)) :
    atomNew .min n old b cmp = if signedOf (8 * n) old ≤ signedOf (8 * n) b then old else b := by
  rcases Int.lt_trichotomy (signedOf (8 * n) old) (signedOf (8 * n) b) with h | h | h
  · simp only [atomNew, if_pos h, if_pos (Int.le_of_lt h)]
  · simp only [atomNew, signedOf_inj ho hb h, ite_self]
  · simp only [atomNew, if_neg (Int.not_lt.2 (Int.le_of_lt h)), if_neg (Int.not_le.2 h)]

/-- The greater of two values in two's complement. -/
theorem atomNew_max {n old b cmp : Nat} :
    atomNew .max n old b cmp = if signedOf (8 * n) b ≤ signedOf (8 * n) old then old else b := by
  by_cases h : signedOf (8 * n) b ≤ signedOf (8 * n) old
  · simp only [atomNew, if_neg (Int.not_lt.2 h), if_pos h]
  · simp only [atomNew, if_pos (Int.not_le.1 h), if_neg h]

theorem atomNew_minu {n old b cmp : Nat} : atomNew .minu n old b cmp = min old b := by
  simp only [atomNew]; split <;> omega

theorem atomNew_maxu {n old b cmp : Nat} : atomNew .maxu n old b cmp = max old b := by
  simp only [atomNew]; split <;> omega

/-! ## The statement -/

/-- Settles O25: the walk level by level, translation clause by clause, and memory after the copy of a granule, a write and an atomic. -/
theorem memoryPerformed : Obligations.MemoryPerformed := by
  unfold Obligations.MemoryPerformed
  refine ⟨?walk, ?translate, ?copy, ?write, ?atomic, ?poisoned⟩
  case walk =>
    intro s by_ root va e3 e2 e1 e0 at_ walk a3 points leaf absent
    refine ⟨fun c h => State.walkFrom_error h, fun r3 => ⟨fun h => h.elim (State.walkFrom_absent r3) (State.walkFrom_leaf_high r3),
      fun p3 r2 => ?_⟩⟩
    have to2 : walk = s.walkFrom by_ va 2 (pteFrame e3 * 4096) := State.walkFrom_pointer r3 p3
    rw [to2]
    refine ⟨fun h => h.elim (State.walkFrom_absent r2) (State.walkFrom_leaf_high r2), fun p2 r1 => ?_⟩
    have to1 : s.walkFrom by_ va 2 (pteFrame e3 * 4096) = s.walkFrom by_ va 1 (pteFrame e2 * 4096) := State.walkFrom_pointer r2 p2
    rw [to1]
    refine ⟨State.walkFrom_absent r1, State.walkFrom_leaf_2M r1, fun p1 r0 => ?_⟩
    have to0 : s.walkFrom by_ va 1 (pteFrame e2 * 4096) = s.walkFrom by_ va 0 (pteFrame e1 * 4096) := State.walkFrom_pointer r1 p1
    rw [to0]
    refine ⟨State.walkFrom_absent r0, State.walkFrom_leaf_4K r0, fun l0 => ⟨fun agree place => ?_, fun astray => ?_⟩⟩
    · refine State.walkFrom_leaf_64K r0 l0 (State.groupOk_true ?_ agree)
      show _ = va / 2 ^ 12 % 512 % 16
      omega
    · exact State.walkFrom_leaf_64K_broken r0 l0.2.1 (State.groupOk_ne_true astray)
  case translate =>
    intro s ag va n kind got
    refine ⟨State.translate_far, fun h => if_pos h, fun h => if_neg (Decidable.not_not.2 h), fun c near => State.translate_lost near, ?_⟩
    intro u e near found may copies loc
    have byEntry : got = u.useEntry ag.session va kind e := State.translate_entry near found
    rw [byEntry]
    refine ⟨?_, ?_, ?_, ?_, ?_, ?_, ?_, State.locate_overlay, State.locate_frame, State.locate_2M⟩
    · exact fun h => State.useEntry_refused (State.entryAllows_outside h)
    · exact fun h hk hw => State.useEntry_refused (State.entryAllows_unwritable h hk hw)
    · exact fun h hw hk => State.useEntry_refused (State.entryAllows_keyless h hw hk)
    · exact fun m hc => State.useEntry_direct m (by simpa using fun h => hc (copyFirst_iff.1 h))
    · intro pa v pa' e' m hc walked copied again m'
      rw [State.useEntry_copying m (copyFirst_iff.2 hc) walked]
      exact State.byEntry_copied m (copyFirst_iff.2 hc) copied (by rw [again]; rfl) m'
    · intro pa c m hc walked failed
      rw [State.useEntry_copying m (copyFirst_iff.2 hc) walked]
      exact State.byEntry_uncopied m (copyFirst_iff.2 hc) failed
    · intro pa e' m hc walked refused
      obtain ⟨c, hr⟩ := State.entryAllows_of_not_admits refused
      exact ⟨c, by rw [State.useEntry_copying m (copyFirst_iff.2 hc) walked, State.byEntry_refused hr]⟩
  case copy =>
    intro s v session va pa e g gr ok hk hd he ho _ apart full
    have bare := State.granuleCopied_memKeys (pa := pa) (e := e) (g := g) hk
    have mem := State.granuleCopied_mem (pa := pa) (e := e) (g := g) hk
    have place : g < 16 := Nat.mod_lt _ (by decide)
    rw [State.copyGranule_bare ok hk hd ho full]
    refine ⟨?_, ?_, ?_⟩
    · rw [State.tlbTell_mem, mem, Memory.bytes_write_apart (by rw [Laws.WordLength.length_bytesOf]; omega)]
      have copied := Memory.bytes_write (m := s.mem) (a := pteOverlay e * 4096 + 256 * g) (bs := Memory.bytes s.mem (pteFrame e * 4096 + 256 * g) 256)
      rwa [Memory.length_bytes] at copied
    · rw [State.tlbTell_mem, mem, Memory.read_write]
      exact Nat.mod_eq_of_lt (withBits_granules_lt he)
    · intro t ht
      rw [State.tlbTell_cores] at ht
      rw [State.tlbTell_pasid bare]
      exact State.tlbInvalidate_covers ht
  case write =>
    intro s pa bs live
    rw [State.performWrite_mem live]
    exact ⟨Memory.bytes_write, fun b hb => Memory.byte_write_outside (by omega), State.rest_flocks State.performWrite_rest,
      State.rest_herds State.performWrite_rest⟩
  case atomic =>
    intro s op n pa b cmp live clean _ hb _ old signed r
    have eq : r = (s.performWrite pa (bytesOf n (atomNew op n old b cmp)), some old) := State.performAtom_eq live clean
    have mem : r.1.mem = Memory.write s.mem pa (bytesOf n (atomNew op n old b cmp)) := by rw [eq]; exact State.performWrite_mem live
    have ho : old < 2 ^ (8 * n) := Memory.read_lt ..
    have stored : Memory.read r.1.mem pa n = atomNew op n old b cmp := by
      rw [mem, Memory.read_write, Nat.mod_eq_of_lt (atomNew_lt ho hb)]
    refine ⟨by rw [eq], fun c hc => ?_, ?_⟩
    · rw [mem, Memory.byte_write_outside (by rw [Laws.WordLength.length_bytesOf]; omega)]
    · rw [stored]
      cases op
      case min => rw [atomNew_min ho hb, signedOf_of_lt ho, signedOf_of_lt hb]
      case max => rw [atomNew_max, signedOf_of_lt ho, signedOf_of_lt hb]
      case minu => exact atomNew_minu
      case maxu => exact atomNew_maxu
      all_goals rfl
  case poisoned =>
    intro s op n pa b cmp poison
    simp [State.performAtom, poison]

end Sys2Proof.Machine

/-!
PROOFS. Boot, bring-up and recovery as statement O50 says: what a change of one die leaves of the others, firmware's start (R400, R401), the common
release (R25), clusters and engines in their order (R25), a die that is late (R487), and recovery (R488).
-/
namespace Sys2Proof.Machine

/-! ## One die among four -/

section
variable {s t : State} {d i : Nat}

/-- A state with the same dies has the same die at each number. -/
theorem State.die_congr (h : t.dies = s.dies) : t.die = s.die := by unfold State.die; rw [h]

theorem State.shep_congr (h : t.dies = s.dies) (i : Nat) : t.shep i = s.shep i := by rw [State.shep, State.die_congr h, State.shep]

@[simp] theorem State.post_die (s : State) (e : Event) : (s.post e).die = s.die := rfl
@[simp] theorem State.postOnce_die (s : State) (e : Event) : (s.postOnce e).die = s.die := State.die_congr (State.postOnce_dies s e)

theorem State.setDie_die {x : Die} (h : d < s.dies.length) : (s.setDie d x).die d = x :=
  (getD_setNth ..).trans (if_pos ⟨rfl, h⟩)

theorem State.setDie_die_ne {x : Die} (h : i ≠ d) : (s.setDie d x).die i = s.die i :=
  (getD_setNth ..).trans (if_neg fun x => h x.1)

theorem State.onDie_die {g : Die → Die} (h : d < s.dies.length) : (s.onDie d g).die d = g (s.die d) := State.setDie_die h

theorem State.onDie_die_ne {g : Die → Die} (h : i ≠ d) : (s.onDie d g).die i = s.die i := State.setDie_die_ne h

@[simp] theorem State.length_dies_onDie (s : State) (d : Nat) (g : Die → Die) : (s.onDie d g).dies.length = s.dies.length := length_setNth ..

@[simp] theorem State.length_dies_onShep (s : State) (d : Nat) (g : Shepherd → Shepherd) : (s.onShep d g).dies.length = s.dies.length :=
  length_setNth ..

/-- A field of a die beside its shepherd. -/
theorem State.onShep_offShep {α : Type} {g : Shepherd → Shepherd} (p : Die → α) (hp : ∀ x h, p { x with shepherd := h } = p x) :
    p ((s.onShep d g).die i) = p (s.die i) :=
  State.onDie_field p fun x => hp x _

theorem State.onShep_shep {g : Shepherd → Shepherd} (h : d < s.dies.length) : (s.onShep d g).shep d = g (s.shep d) :=
  congrArg Die.shepherd (State.onDie_die h)

theorem State.onShep_shep_ne {g : Shepherd → Shepherd} (h : i ≠ d) : (s.onShep d g).shep i = s.shep i :=
  congrArg Die.shepherd (State.onDie_die_ne h)

/-- A field of the dies that a change of all leaves alone. -/
theorem State.mapDies_field {α : Type} {g : Die → Die} (p : Die → α) (hg : ∀ x, p (g x) = p x) : p ((s.mapDies g).die i) = p (s.die i) := by
  simp only [State.die, State.mapDies, List.getD_eq_getElem?_getD, List.getElem?_map]
  cases s.dies[i]? with
  | none => rfl
  | some x => exact hg x

/-- Dies that are live alike in two states are the live dies of both. -/
theorem State.liveDies_congr (h : ∀ i, (t.die i).live = (s.die i).live) : t.liveDies = s.liveDies := by simp only [State.liveDies, h]

theorem State.mem_liveDies : i ∈ s.liveDies ↔ i < 4 ∧ (s.die i).live = true := by simp [State.liveDies]

end

/-! ## What falls due -/

section
variable {s : State} {e e' : Event} {α β : Type}

/-- What every step of a fold leaves alone, the fold leaves alone. -/
theorem foldl_kept {g : State → α → State} {l : List α} (p : State → β) (hg : ∀ u x, p (g u x) = p u) : p (l.foldl g s) = p s :=
  List.foldlRecOn (motive := fun u => p u = p s) _ _ rfl fun u hu x _ => (hg u x).trans hu

theorem State.mem_post : e' ∈ (s.post e).agenda ↔ e' ∈ s.agenda ∨ e' = e := by simp [State.post]

theorem State.mem_postOnce : e' ∈ (s.postOnce e).agenda ↔ e' ∈ s.agenda ∨ e' = e := by
  unfold State.postOnce
  split
  next h =>
    have due : e ∈ s.agenda := by simpa using h
    exact ⟨.inl, fun h => h.elim id (· ▸ due)⟩
  next => exact State.mem_post

/-- Events that are made due one after another. -/
theorem State.mem_foldl_postOnce {l : List Event} : e ∈ (l.foldl State.postOnce s).agenda ↔ e ∈ s.agenda ∨ e ∈ l := by
  induction l generalizing s with
  | nil => simp
  | cons x l ih => rw [List.foldl_cons, ih, State.mem_postOnce, List.mem_cons, or_assoc]

/-- One event is due for each element of a list. -/
theorem State.foldl_post {l : List α} {f : α → Event} :
    l.foldl (fun s x => s.post (f x)) s = { s with agenda := s.agenda ++ l.map f } := by
  induction l generalizing s with
  | nil => simp
  | cons x l ih => rw [List.foldl_cons, ih]; simp [State.post]

@[simp] theorem State.postAdmissions_die (s : State) : s.postAdmissions.die = s.die :=
  foldl_kept State.die fun u r => by split <;> simp

@[simp] theorem State.postAdmissions_cores (s : State) : s.postAdmissions.cores = s.cores :=
  foldl_kept State.cores fun u r => by split <;> simp

/-- Besides admissions nothing falls due, and nothing that was due is lost. -/
theorem State.mem_postAdmissions (h : ∀ uid, e ≠ .herdAdmit uid) : e ∈ s.postAdmissions.agenda ↔ e ∈ s.agenda :=
  iff_of_eq <| foldl_kept (fun u : State => e ∈ u.agenda) fun u r => by
    split
    · simp [State.mem_postOnce, h]
    · rfl

end

/-! ## Cores of a cluster -/

section
variable {s : State} {g : Core → Core} {l : List Nat} {c : Nat}

theorem State.onCore_core (s : State) (c j : Nat) (g : Core → Core) : (s.onCore c g).core j = if j = c then g (s.core c) else s.core j :=
  SMap.get_put

/-- What a change gives every core, each core that is changed has. -/
theorem State.core_foldl_onCore {P : Core → Prop} (hg : ∀ k, P (g k)) (h : c ∈ l ∨ P (s.core c)) :
    P ((l.foldl (fun s c => s.onCore c g) s).core c) := by
  induction l generalizing s with
  | nil => simpa using h
  | cons x l ih =>
    refine ih ?_
    by_cases hx : c = x
    · exact .inr (by rw [State.onCore_core, if_pos hx]; exact hg _)
    · rw [State.onCore_core, if_neg hx]
      exact h.imp_left fun h => (List.mem_cons.1 h).resolve_left hx

@[simp] theorem State.foldl_onCore_die : (l.foldl (fun s c => s.onCore c g) s).die = s.die := foldl_kept State.die fun _ _ => rfl
@[simp] theorem State.foldl_onCore_agenda : (l.foldl (fun s c => s.onCore c g) s).agenda = s.agenda := foldl_kept State.agenda fun _ _ => rfl

end

/-! ## Firmware starts (R400, R401) -/

section
variable {s : State} {die i : Nat}

/-- A field of the shepherds that a change of one leaves alone. -/
theorem State.onShep_field {α : Type} {g : Shepherd → Shepherd} (p : Shepherd → α) (hg : ∀ h, p (g h) = p h) :
    p ((s.onShep die g).shep i) = p (s.shep i) :=
  State.onDie_field (fun d => p d.shepherd) fun _ => hg _

/-- What a shepherd holds beside a commit in progress, its recovery image and its messages to the others. -/
def Shepherd.holdings (h : Shepherd) :=
  (h.mode, h.romDigest, h.imageDigest, h.vaultKey, h.dedup)

@[simp] theorem State.paddockReport_dies (s : State) (n bit : Nat) : (s.paddockReport n bit).dies = s.dies := by
  simp only [State.paddockReport]
  split <;> rfl

theorem State.rollBack_holdings (s : State) (seq : BitVec 32) (c : Option LayoutChange) :
    ((s.rollBack seq c).shep i).holdings = (s.shep i).holdings := by
  have cleared (g : Die → Die) (hg : ∀ d, (g d).shepherd.holdings = d.shepherd.holdings) :
      ((s.mapDies g).shep i).holdings = (s.shep i).holdings := State.mapDies_field (fun d => d.shepherd.holdings) hg
  cases c with
  | none =>
    simp only [State.rollBack, State.shep, State.postOnce_die]
    exact cleared _ fun _ => rfl
  | some c =>
    refine (congrArg Shepherd.holdings (State.shep_congr (foldl_kept State.dies fun u n => State.paddockReport_dies u n 5) i)).trans ?_
    exact cleared _ fun _ => rfl

theorem State.resolveCommit_holdings (s : State) : ((s.resolveCommit).shep i).holdings = (s.shep i).holdings := by
  unfold State.resolveCommit
  split
  · rfl
  next seq c _ =>
    split
    · have staged : ((s.liveDies.foldl (fun s d => s.onShep d fun h => { h with staged := some (seq, c) }) s).shep i).holdings =
          (s.shep i).holdings :=
        foldl_kept (fun u : State => (u.shep i).holdings) fun _ _ => State.onShep_field _ fun _ => rfl
      have told (u : State) (l : List Nat) : (l.foldl (fun s d => if s.journalled d seq 3 then s else s.postOnce (.commitApply d)) u).die = u.die :=
        foldl_kept State.die fun u d => by split <;> simp
      dsimp only
      split <;> simpa only [State.shep, State.postOnce_die, told] using staged
    · exact State.rollBack_holdings ..

theorem State.foldl_sendSecret_dies (s : State) (x : BitVec 256) (l : List Nat) : (l.foldl (fun s d => s.sendSecret x d) s).dies = s.dies :=
  foldl_kept State.dies fun _ _ => rfl

/-- The search for the dedup secret changes no more than that secret in any shepherd. -/
theorem State.seekSecret_field {α : Type} (p : Shepherd → α) (hp : ∀ h x, p { h with dedup := x } = p h) :
    p ((s.seekSecret die).shep i) = p (s.shep i) := by
  unfold State.seekSecret
  split
  · rfl
  split
  · split <;> rfl
  split
  · rfl
  · exact (congrArg p (State.shep_congr (State.foldl_sendSecret_dies ..) i)).trans (State.onShep_field p fun h => hp h _)

/-- Die 0's shepherd draws the secret where die 1's has none. -/
theorem State.seekSecret_draws (h : 0 < s.dies.length) (none_ : (s.shep 1).dedup = none) : ((s.seekSecret 0).shep 0).dedup.isSome = true := by
  unfold State.seekSecret
  split
  · assumption
  · rw [if_neg (by decide), none_]
    exact congrArg (·.dedup.isSome) ((State.shep_congr (State.foldl_sendSecret_dies ..) 0).trans (State.onShep_shep h))

/-- The image runs on a die's shepherd, with its measurements and its keys. -/
def State.startFirmware (s : State) (die : Nat) : State :=
  s.onShep die fun h => { h with
    mode := .running, romDigest := some (sha3 (Config.romImage die)), imageDigest := some (sha3 h.flash), vaultKey := some (vaultKey die),
    identity := some (Config.identityKey (Config.dieSecret die)), started := (s.die die).cycle }

/-- The state of a die whose image has verified, before its first bring-up falls due. -/
def State.booted (s : State) (die : Nat) : State := ((s.startFirmware die).seekSecret die).resolveCommit

/-- An image that verifies is run, and at the first boot the die's bring-up and its messages fall due. -/
theorem execBoot_verified (m : (s.shep die).mode = .reset) (v : Config.imageVerifies die (s.shep die).flash = true) :
    execBoot die s = .next (if (s.die die).stage = 0 then
      [Event.dieBringup die, .bootPeerTimeout die, .heartbeat die false, .powerSample die].foldl State.postOnce (s.booted die) else s.booted die) := by
  unfold execBoot
  rw [if_neg (Decidable.not_not.2 m), v]
  rfl

theorem execBoot_unverified (m : (s.shep die).mode = .reset) (v : Config.imageVerifies die (s.shep die).flash = false) :
    execBoot die s = .next (s.onShep die fun h => { h with mode := .recovery }) := by
  unfold execBoot
  rw [if_neg (Decidable.not_not.2 m), v]
  rfl

/-- What firmware holds when it has started. -/
theorem State.booted_shep (h : die < s.dies.length) :
    ((s.booted die).shep die).mode = .running ∧ ((s.booted die).shep die).romDigest = some (sha3 (Config.romImage die)) ∧
      ((s.booted die).shep die).imageDigest = some (sha3 (s.shep die).flash) ∧ ((s.booted die).shep die).vaultKey = some (vaultKey die) := by
  have held : ((s.booted die).shep die).holdings = (((s.startFirmware die).seekSecret die).shep die).holdings := State.resolveCommit_holdings _
  have kept := State.seekSecret_field (s := s.startFirmware die) (die := die) (i := die)
    (fun h => (h.mode, h.romDigest, h.imageDigest, h.vaultKey)) fun _ _ => rfl
  have started : (s.startFirmware die).shep die = _ := State.onShep_shep h
  simp only [Shepherd.holdings, started, Prod.mk.injEq] at held kept
  simp only [held, kept, and_self]

/-- Die 0's shepherd has the secret once it has started, where die 1's has none to give. -/
theorem State.booted_dedup (h : 1 < s.dies.length) (none_ : (s.shep 1).dedup = none) : ((s.booted 0).shep 0).dedup.isSome = true := by
  have held : ((s.booted 0).shep 0).holdings = (((s.startFirmware 0).seekSecret 0).shep 0).holdings := State.resolveCommit_holdings _
  have other : ((s.startFirmware 0).shep 1).dedup = none := (congrArg (·.dedup) (State.onShep_shep_ne (by decide))).trans none_
  simp only [Shepherd.holdings, Prod.mk.injEq] at held
  obtain ⟨-, -, -, -, dedup⟩ := held
  rw [dedup]
  exact State.seekSecret_draws (by simp only [State.startFirmware, State.length_dies_onShep]; omega) other

end

/-! ## The dedup secret (R379, R401) -/

section
variable {s : State} {die : Nat} {blob x : List Byte} {v : BitVec 256}

/-- A shepherd that does not run, or has no vault key, takes no secret yet. -/
theorem execDedupSecretReceive_waits (h : (s.shep die).mode ≠ .running ∨ (s.shep die).vaultKey = none) :
    execDedupSecretReceive die blob s = .next (s.post (.dedupSecretReceive die blob)) := by
  have keyless : (if s.shepRuns die then (s.shep die).vaultKey else none) = none := by
    rcases h with h | h <;> simp [State.shepRuns, h]
  rw [execDedupSecretReceive, keyless]

/-- The state in which a shepherd holds the dedup secret that some bytes are worth. -/
def State.holdSecret (s : State) (die : Nat) (x : List Byte) : State := s.onShep die fun h => { h with dedup := some (BitVec.ofNat 256 (ofBytes x)) }

/-- The live dies whose shepherds have asked die 0's for the secret in vain. -/
def State.secretless (s : State) : List Nat := s.liveDies.filter fun d => d ≠ 0 && (s.shep d).dedup.isNone

section
variable (runs : (s.shep die).mode = .running) (key : (s.shep die).vaultKey = some v)
include runs key

theorem execDedupSecretReceive_foreign (h : unwrapKey (bytesOf 32 v.toNat) blob = none) : execDedupSecretReceive die blob s = .next s := by
  simp only [execDedupSecretReceive, State.shepRuns, runs, key, decide_true, if_true, h]

/-- A secret that unwraps is kept, and die 0's shepherd passes it on. -/
theorem execDedupSecretReceive_kept (h : unwrapKey (bytesOf 32 v.toNat) blob = some x) :
    execDedupSecretReceive die blob s = .next (if die ≠ 0 then s.holdSecret die x else
      (s.holdSecret die x).secretless.foldl (fun s d => s.sendSecret (BitVec.ofNat 256 (ofBytes x)) d) (s.holdSecret die x)) := by
  simp only [execDedupSecretReceive, State.shepRuns, runs, key, decide_true, if_true, h]
  rfl

end

/-- Shepherds without the secret are unaffected as die 0's takes it. -/
theorem State.mem_secretless_holdSecret {i : Nat} (live : i ∈ s.liveDies) (hi : i ≠ 0) (none_ : (s.shep i).dedup = none) :
    i ∈ (s.holdSecret 0 x).secretless := by
  have same : (s.holdSecret 0 x).die i = s.die i := State.onDie_die_ne hi
  rw [State.mem_liveDies, ← same] at live
  rw [State.secretless, List.mem_filter, State.mem_liveDies]
  refine ⟨live, ?_⟩
  have same' : (s.holdSecret 0 x).shep i = s.shep i := congrArg Die.shepherd same
  simp [hi, same', none_]

end

/-! ## The common release (R25, R487) -/

section
variable {s : State} {d i : Nat}

/-- A die that is ready is released: its first cluster is powered in its turn. -/
def State.releaseDie (s : State) (d : Nat) : State :=
  if (s.die d).stage = 1 then
    ((s.onDie d fun x => { x with stage := 2, nextPower := x.cycle + BitVec.ofNat 64 (7500 * d), epochAt := x.cycle + 1048576 }).post
      (.clusterPowerUp d 0)).post (.placementEpoch d)
  else s

/-- A die has been released: the first of its clusters is to be powered. -/
def State.Released (s : State) (d : Nat) : Prop := (s.die d).stage = 2 ∧ .clusterPowerUp d 0 ∈ s.agenda

theorem State.releaseDie_released (h : d < s.dies.length) (ready : (s.die d).stage = 1) : (s.releaseDie d).Released d := by
  rw [State.releaseDie, if_pos ready]
  constructor
  · rw [State.post_die, State.post_die, State.onDie_die h]
  · simp [State.mem_post]

theorem State.releaseDie_die_ne (h : i ≠ d) : (s.releaseDie d).die i = s.die i := by
  unfold State.releaseDie
  split
  · rw [State.post_die, State.post_die, State.onDie_die_ne h]
  · rfl

theorem State.length_dies_releaseDie (s : State) (d : Nat) : (s.releaseDie d).dies.length = s.dies.length := by
  unfold State.releaseDie
  split
  · rw [State.post_dies, State.post_dies, State.length_dies_onDie]
  · rfl

/-- The release changes only the stage and the next times of a die. -/
theorem State.releaseDie_field {α : Type} (p : Die → α) (hp : ∀ d n t u, p { d with stage := n, nextPower := t, epochAt := u } = p d) :
    p ((s.releaseDie d).die i) = p (s.die i) := by
  unfold State.releaseDie
  split
  · rw [State.post_die, State.post_die, State.onDie_field p fun _ => hp ..]
  · rfl

theorem State.Released.releaseDie (h : s.Released i) : (s.releaseDie d).Released i := by
  obtain ⟨stage, due⟩ := h
  by_cases hd : i = d
  · rw [← hd, State.releaseDie, if_neg (by omega)]
    exact ⟨stage, due⟩
  · refine ⟨by rw [State.releaseDie_die_ne hd, stage], ?_⟩
    unfold State.releaseDie
    split
    · simp [State.mem_post, due]
    · exact due

/-- Of the dies to be released each that is ready is. -/
theorem State.foldl_releaseDie {l : List Nat} (hi : i ∈ l) (h : i < s.dies.length) (ready : (s.die i).stage = 1) :
    (l.foldl State.releaseDie s).Released i := by
  induction l generalizing s with
  | nil => cases hi
  | cons d l ih =>
    rw [List.foldl_cons]
    by_cases hd : i = d
    · have first : (s.releaseDie d).Released i := by rw [← hd]; exact State.releaseDie_released h ready
      exact List.foldlRecOn (motive := fun u : State => u.Released i) _ _ first fun _ hu _ _ => hu.releaseDie
    · refine ih ((List.mem_cons.1 hi).resolve_left hd) ?_ ?_
      · rwa [State.length_dies_releaseDie]
      · rwa [State.releaseDie_die_ne hd]

theorem State.releaseIfReady_field {α : Type} (p : Die → α) (hp : ∀ d n t u, p { d with stage := n, nextPower := t, epochAt := u } = p d) :
    p (s.releaseIfReady.die i) = p (s.die i) := by
  unfold State.releaseIfReady
  split
  · exact foldl_kept (fun u : State => p (u.die i)) fun _ _ => State.releaseDie_field p hp
  · rfl

/-- Once every live die is ready, each that waits at stage 1 is released. -/
theorem State.releaseIfReady_released (all : ∀ j ∈ s.liveDies, (s.shep j).ready = true) (hi : i ∈ s.liveDies) (h : i < s.dies.length)
    (ready : (s.die i).stage = 1) : s.releaseIfReady.Released i := by
  rw [State.releaseIfReady, if_pos (List.all_eq_true.2 all)]
  exact State.foldl_releaseDie hi h ready

theorem State.releaseIfReady_early {j : Nat} (hj : j ∈ s.liveDies) (late : (s.shep j).ready = false) : s.releaseIfReady = s := by
  refine if_neg fun h => ?_
  rw [List.all_eq_true.1 h j hj] at late
  cases late

/-! ## A die's bring-up (R25) -/

/-- The training of a link touches the links and the register that shows them. -/
theorem State.trainLink_field {α : Type} (p : Die → α) (hp : ∀ d l f, p { d with links := l, fabstat := f } = p d) {die link : Nat} {ok : Bool} :
    p ((s.trainLink die link ok).die i) = p (s.die i) := by
  unfold State.trainLink
  split
  · rfl
  · have cut (u : State) (j : Nat) {f : Die → Word64} {g : Link → Link} :
        p (((u.onLink j link g).onDie j fun d => { d with fabstat := f d }).die i) = p (u.die i) :=
      (State.onDie_field p fun d => hp d d.links _).trans (State.onDie_field p fun d => hp d _ d.fabstat)
    exact (cut ..).trans (cut ..)

theorem State.length_dies_trainLink (s : State) (die link : Nat) (ok : Bool) : (s.trainLink die link ok).dies.length = s.dies.length := by
  unfold State.trainLink
  split
  · rfl
  · simp [State.onLink]

/-- The links of a die after their training. -/
def State.trainLinks (s : State) (die : Nat) : State :=
  (s.trainLink die 0 ((s.free 1).getLsbD 0)).trainLink die 1 ((s.free 2).getLsbD 0)

theorem State.trainLinks_field {α : Type} (p : Die → α) (hp : ∀ d l f, p { d with links := l, fabstat := f } = p d) {die : Nat} :
    p ((s.trainLinks die).die i) = p (s.die i) :=
  (State.trainLink_field p hp).trans (State.trainLink_field p hp)

theorem State.length_dies_trainLinks (s : State) (die : Nat) : (s.trainLinks die).dies.length = s.dies.length := by
  rw [State.trainLinks, State.length_dies_trainLink, State.length_dies_trainLink]

/-- A die whose memory and links have been trained, and whose shepherd has said that it is ready. -/
def State.trained (s : State) (die : Nat) : State :=
  ((s.trainLinks die).onDie die fun d => { d with stage := 1 }).onShep die fun h => { h with ready := true }

section
variable {die : Nat}

section
variable (stage : (s.die die).stage = 0) (live : (s.die die).live = true) (runs : (s.shep die).mode = .running)
include stage live runs

theorem execDieBringup_trained (ok : (s.free 0).getLsbD 0 = true) : execDieBringup die s = .next (s.trained die).releaseIfReady := by
  simp only [execDieBringup, stage, live, State.shepRuns, runs, ok]
  rfl

/-- A die whose memory fails training brings up nothing. -/
theorem execDieBringup_untrained (ok : (s.free 0).getLsbD 0 = false) : execDieBringup die s = .next s := by
  simp only [execDieBringup, stage, live, State.shepRuns, runs, ok]
  rfl

end

theorem State.trained_die (h : die < s.dies.length) : ((s.trained die).die die).stage = 1 ∧ ((s.trained die).shep die).ready = true := by
  have len : die < (s.trainLinks die).dies.length := s.length_dies_trainLinks die ▸ h
  constructor
  · rw [State.trained, State.onShep_offShep Die.stage fun _ _ => rfl, State.onDie_die len]
  · rw [State.trained, State.onShep_shep (by rwa [State.length_dies_onDie])]

theorem State.trained_live (s : State) (die i : Nat) : ((s.trained die).die i).live = (s.die i).live := by
  rw [State.trained, State.onShep_offShep Die.live fun _ _ => rfl, State.onDie_field Die.live (g := fun d => { d with stage := 1 }) fun _ => rfl,
    State.trainLinks_field Die.live fun _ _ _ => rfl]

/-- The other shepherds are as they were. -/
theorem State.trained_shep_ne (h : i ≠ die) : (s.trained die).shep i = s.shep i := by
  rw [State.trained, State.onShep_shep_ne h, State.shep, State.onDie_field Die.shepherd (g := fun d => { d with stage := 1 }) fun _ => rfl,
    State.trainLinks_field Die.shepherd fun _ _ _ => rfl, State.shep]

theorem State.length_dies_trained (s : State) (die : Nat) : (s.trained die).dies.length = s.dies.length := by
  rw [State.trained, State.length_dies_onShep, State.length_dies_onDie, State.length_dies_trainLinks]

/-- The dies, trained with the others ready, are released. -/
theorem State.trained_released (h : die < s.dies.length) (live : die ∈ s.liveDies) (others : ∀ i ∈ s.liveDies, i ≠ die → (s.shep i).ready = true) :
    (s.trained die).releaseIfReady.Released die := by
  have same : (s.trained die).liveDies = s.liveDies := State.liveDies_congr (s.trained_live die)
  obtain ⟨stage, ready⟩ := State.trained_die h
  refine State.releaseIfReady_released (fun i hi => ?_) (same ▸ live) (s.length_dies_trained die ▸ h) stage
  by_cases hd : i = die
  · rw [hd, ready]
  · rw [State.trained_shep_ne hd, others i (same ▸ hi) hd]

/-- While another is not ready the die waits. -/
theorem State.trained_waits (h : die < s.dies.length) (late : ∃ i ∈ s.liveDies, i ≠ die ∧ (s.shep i).ready = false) :
    ((s.trained die).releaseIfReady.die die).stage = 1 := by
  obtain ⟨i, hi, hd, hr⟩ := late
  rw [State.releaseIfReady_early (j := i) (State.liveDies_congr (s.trained_live die) ▸ hi) (by rw [State.trained_shep_ne hd, hr])]
  exact (State.trained_die h).1

end

end

/-! ## A die that is late (R471, R487) -/

section
variable {s : State} {die i r n : Nat}

@[simp] theorem State.paddockReport_herds (s : State) (n bit : Nat) : (s.paddockReport n bit).herds = s.herds := by
  simp only [State.paddockReport]
  split <;> rfl

theorem State.loseHerds_nil (s : State) (status : Nat) : s.loseHerds [] status = s := by simp [State.loseHerds]

/-- While no herd is resident a paddock is quiesced without a change of any die. -/
theorem State.fabricQuiesce_unpeopled (h : s.herds = []) : (s.fabricQuiesce n).herds = [] ∧ (s.fabricQuiesce n).dies = s.dies := by
  have quiesced : (s.startQuiesce n).herds = [] ∧ (s.startQuiesce n).dies = s.dies := by
    simp only [State.startQuiesce]
    split
    · exact ⟨h, rfl⟩
    · simp [State.paddockHerds, h]
  simpa [State.fabricQuiesce] using quiesced

/-- The links of a die's neighbours to it, cut. -/
def State.cutLinks (s : State) (r : Nat) : State :=
  (List.range 2).foldl (fun s l => s.onDie (neighbour r l) fun d => { d with links := setNth d.links l { d.links.getD l Link.reset with up := false } }) s

theorem State.cutLinks_live (s : State) (r i : Nat) : ((s.cutLinks r).die i).live = (s.die i).live :=
  foldl_kept (fun u : State => (u.die i).live) fun _ _ => State.onDie_field Die.live fun _ => rfl

/-- A die as it leaves, and its links with it. -/
def State.cutDie (s : State) (r : Nat) : State := (s.onDie r fun d => { d with live := false, counters := [] }).cutLinks r

theorem State.cutDie_live (h : r < s.dies.length) : ((s.cutDie r).die i).live = (decide (i ≠ r) && (s.die i).live) := by
  rw [State.cutDie, State.cutLinks_live]
  by_cases hi : i = r
  · rw [hi, State.onDie_die h]; simp
  · rw [State.onDie_die_ne hi]; simp [hi]

theorem State.cutDie_herds (s : State) (r : Nat) : (s.cutDie r).herds = s.herds := rfl

theorem State.length_dies_cutDie (s : State) (r : Nat) : (s.cutDie r).dies.length = s.dies.length := by
  simp [State.cutDie, State.cutLinks, List.range_succ]

/-- While no herd is resident, a removal takes a die from those that are live and does no more to the dies. -/
theorem State.removeDie_unpeopled (h : s.herds = []) : (s.removeDie r).herds = [] ∧ (s.removeDie r).dies = (s.cutDie r).dies := by
  have removed : s.removeDie r = ((List.range 8).filter fun n => (s.paddockClusters n).any fun c => c / 24 = r).foldl State.fabricQuiesce (s.cutDie r) := by
    simp only [State.removeDie, h, List.filter_nil, List.map_nil, State.loseHerds_nil]
    rfl
  rw [removed]
  refine List.foldlRecOn (motive := fun u : State => u.herds = [] ∧ u.dies = (s.cutDie r).dies) _ _ ⟨(s.cutDie_herds r).trans h, rfl⟩ ?_
  intro u ⟨none_, same⟩ n _
  obtain ⟨herds, dies⟩ := State.fabricQuiesce_unpeopled (n := n) none_
  exact ⟨herds, dies.trans same⟩

/-- Of dies that are removed none is live. -/
theorem State.foldl_removeDie_live {l : List Nat} (h : s.herds = []) (hl : ∀ r ∈ l, r < s.dies.length) (hi : i ∈ l ∨ (s.die i).live = false) :
    ((l.foldl State.removeDie s).die i).live = false := by
  induction l generalizing s with
  | nil => simpa using hi
  | cons r l ih =>
    obtain ⟨herds, dies⟩ := State.removeDie_unpeopled (r := r) h
    have live : ((s.removeDie r).die i).live = (decide (i ≠ r) && (s.die i).live) := by
      rw [State.die_congr dies, State.cutDie_live (hl r (List.mem_cons_self ..))]
    refine ih herds (fun r hr => ?_) ?_
    · rw [dies, State.length_dies_cutDie]
      exact hl r (List.mem_cons_of_mem _ hr)
    · rw [live]
      rcases hi with hi | hi
      · exact (List.mem_cons.1 hi).elim (fun e => .inr (by simp [e])) .inl
      · exact .inr (by simp [hi])

/-- The live dies that have not said that they are ready. -/
def State.late (s : State) : List Nat := s.liveDies.filter fun d => !(s.shep d).ready

/-- A die's register shows the live dies and its links. -/
def State.showLive (dies : Nat) (s : State) (i : Nat) : State :=
  let links := (((List.range 2).filter fun l => s.linkUp i (neighbour i l)).map (2 ^ ·)).sum
  s.onDie i fun d => { d with fabstat := BitVec.ofNat 64 (withBits (withBits d.fabstat.toNat 3 4 dies) 7 2 links) }

/-- The module without the dies that are late. -/
def State.withoutLate (s : State) : State :=
  let u := s.late.foldl State.removeDie s
  u.liveDies.foldl (State.showLive (u.liveDies.map (2 ^ ·)).sum) u

theorem execBootPeerTimeout_none (h : s.late = []) : execBootPeerTimeout die s = .next s := 
  if_pos (show (decide (s.late = []) || !(s.die die).live) = true by simp [h])

section
variable (late : s.late ≠ []) (live : (s.die die).live = true)
include late live

/-- A shepherd that is not ready, or has not waited a second, waits. -/
theorem execBootPeerTimeout_early (h : (s.shep die).ready = false ∨ ((s.die die).cycle - (s.shep die).started).toNat < 1500000000) :
    execBootPeerTimeout die s = .next (s.post (.bootPeerTimeout die)) :=
  (if_neg (show ¬ (decide (s.late = []) || !(s.die die).live) = true by simp [live, late])).trans (if_pos (by simpa using h))

theorem execBootPeerTimeout_over (ready : (s.shep die).ready = true) (h : 1500000000 ≤ ((s.die die).cycle - (s.shep die).started).toNat) :
    execBootPeerTimeout die s = .next s.withoutLate.releaseIfReady :=
  (if_neg (show ¬ (decide (s.late = []) || !(s.die die).live) = true by simp [live, late])).trans (if_neg (by simpa [ready] using h))

end

/-- While no herd is resident the late dies are removed. -/
theorem State.withoutLate_live (len : s.dies.length = 4) (h : s.herds = []) (hi : i ∈ s.late) : (s.withoutLate.releaseIfReady.die i).live = false := by
  rw [State.releaseIfReady_field Die.live fun _ _ _ _ => rfl]
  have shown (u : State) (n : Nat) (l : List Nat) : ((l.foldl (State.showLive n) u).die i).live = (u.die i).live :=
    foldl_kept (fun u : State => (u.die i).live) fun _ _ => State.onDie_field Die.live fun _ => rfl
  refine (shown ..).trans (State.foldl_removeDie_live h (fun r hr => ?_) (.inl hi))
  rw [len]
  exact (State.mem_liveDies.1 (List.mem_filter.1 hr).1).1

end

/-! ## Clusters in their order (R25) -/

section
variable {s : State} {die cluster : Nat} {e : Event}

/-- The event powers a later cluster of a die. -/
def powersLater (die cluster : Nat) : Event → Bool
  | .clusterPowerUp i c => i = die && decide (cluster < c)
  | _ => false

theorem powersLater_iff : powersLater die cluster e = true ↔ ∃ c, cluster < c ∧ e = .clusterPowerUp die c := by
  unfold powersLater
  split
  next i c =>
    simp only [Bool.and_eq_true, decide_eq_true_eq, Event.clusterPowerUp.injEq]
    exact ⟨fun ⟨die, later⟩ => ⟨c, later, die, rfl⟩, fun ⟨_, later, die, eq⟩ => ⟨die, eq ▸ later⟩⟩
  next other => exact ⟨nofun, fun ⟨c, _, h⟩ => (other _ _ h).elim⟩

/-- A cluster's turn has come in step 3 of its die's bring-up. -/
def State.inTurn (s : State) (die cluster : Nat) : Bool :=
  (s.die die).stage = 2 && (List.range cluster).all (s.die die).clusters.getLsbD && !s.agenda.any (powersLater die cluster)

theorem State.inTurn_iff (h : (s.die die).stage = 2) : s.inTurn die cluster = true ↔
    (∀ c, c < cluster → (s.die die).clusters.getLsbD c = true) ∧ ∀ c, cluster < c → .clusterPowerUp die c ∉ s.agenda := by
  have later : s.agenda.any (powersLater die cluster) = false ↔ ∀ c, cluster < c → .clusterPowerUp die c ∉ s.agenda := by
    rw [List.any_eq_false]
    simp only [powersLater_iff]
    exact ⟨fun h c hc due => h _ due ⟨c, hc, rfl⟩, fun h e he ⟨c, hc, eq⟩ => h c hc (eq ▸ he)⟩
  simp only [State.inTurn, h, Bool.and_eq_true, Bool.not_eq_true', decide_true, true_and, List.all_eq_true, List.mem_range, later]

/-- A die with a cluster powered. -/
def State.clusterDie (s : State) (die cluster : Nat) : Die :=
  let d := s.die die
  let fresh := (clusterCores (24 * die + cluster)).any fun c => !(s.core c).powered || (s.core c).excluded
  let engines := d.cycle + 15000
  { d with clusters := d.clusters ||| (1 <<< cluster), stage := if s.inTurn die cluster && cluster = 23 then 3 else d.stage,
           engines := if fresh then d.engines &&& ~~~(1#24 <<< cluster) else d.engines,
           nextPower := d.cycle + 30000,
           nextEngine := if d.nextEngine.toNat < engines.toNat then engines else d.nextEngine }

/-- The state with a cluster of a die powered, and its cores with it. -/
def State.powerCluster (s : State) (die cluster : Nat) : State :=
  (clusterCores (24 * die + cluster)).foldl (fun s c => s.onCore c Core.powerUp) (s.setDie die (s.clusterDie die cluster))

/-- What falls due once a cluster is powered: its engines, or the next in turn. -/
def State.afterCluster (s : State) (die cluster : Nat) : State :=
  if (s.die die).stage ≠ 2 then (s.powerCluster die cluster).postOnce (.matrixEngineEnable die cluster)
  else if !s.inTurn die cluster then s.powerCluster die cluster
  else if cluster = 23 then (s.powerCluster die cluster).postOnce (.matrixEngineEnable die 0)
  else (s.powerCluster die cluster).post (.clusterPowerUp die (cluster + 1))

section
variable (live : (s.die die).live = true) (stage : 2 ≤ (s.die die).stage) (hc : cluster < 24)
include live stage hc

theorem execClusterPowerUp_early (h : (s.die die).cycle.toNat < (s.die die).nextPower.toNat) :
    execClusterPowerUp die cluster s = .next (s.post (.clusterPowerUp die cluster)) :=
  (if_neg (by simp [live]; omega)).trans (if_pos h)

theorem execClusterPowerUp_due (h : (s.die die).nextPower.toNat ≤ (s.die die).cycle.toNat) :
    execClusterPowerUp die cluster s = .next (s.afterCluster die cluster).postAdmissions :=
  (if_neg (by simp [live]; omega)).trans (if_neg (Nat.not_lt.2 h))

end

theorem State.powerCluster_die (h : die < s.dies.length) : (s.powerCluster die cluster).die die = s.clusterDie die cluster := by
  rw [State.powerCluster, State.foldl_onCore_die, State.setDie_die h]

theorem State.powerCluster_powered {c : Nat} (h : c ∈ clusterCores (24 * die + cluster)) : ((s.powerCluster die cluster).core c).powered = true :=
  State.core_foldl_onCore (P := fun k => k.powered = true) (fun k => by unfold Core.powerUp; split <;> simp_all) (.inl h)

theorem State.powerCluster_agenda (s : State) (die cluster : Nat) : (s.powerCluster die cluster).agenda = s.agenda :=
  State.foldl_onCore_agenda

/-- What follows a cluster leaves the dies and cores as they are. -/
theorem State.afterCluster_parts (s : State) (die cluster : Nat) :
    (s.afterCluster die cluster).die = (s.powerCluster die cluster).die ∧ (s.afterCluster die cluster).cores = (s.powerCluster die cluster).cores := by
  unfold State.afterCluster
  split
  · simp
  split
  · simp
  split <;> simp

/-- In its turn a cluster below the last is followed by the next. -/
theorem State.afterCluster_next (stage : (s.die die).stage = 2) (turn : s.inTurn die cluster = true) (hc : cluster < 23) :
    .clusterPowerUp die (cluster + 1) ∈ (s.afterCluster die cluster).agenda ∧ (s.clusterDie die cluster).stage = 2 := by
  have ne : cluster ≠ 23 := by omega
  constructor
  · simp [State.afterCluster, stage, turn, ne, State.mem_post]
  · simp [State.clusterDie, ne, stage]

/-- The last cluster in its turn ends step 3, and the first engines follow it. -/
theorem State.afterCluster_last (stage : (s.die die).stage = 2) (turn : s.inTurn die 23 = true) :
    .matrixEngineEnable die 0 ∈ (s.afterCluster die 23).agenda ∧ (s.clusterDie die 23).stage = 3 := by
  constructor
  · simp [State.afterCluster, stage, turn, State.mem_postOnce]
  · simp [State.clusterDie, turn]

/-- Out of its turn in step 3 a cluster is followed by nothing. -/
theorem State.afterCluster_outOfTurn (stage : (s.die die).stage = 2) (turn : s.inTurn die cluster = false) :
    (s.afterCluster die cluster).agenda = s.agenda ∧ (s.clusterDie die cluster).stage = 2 := by
  constructor
  · simp [State.afterCluster, stage, turn, State.powerCluster_agenda]
  · simp [State.clusterDie, turn, stage]

/-- After step 3 a cluster is followed by its own engines. -/
theorem State.afterCluster_late (stage : 2 < (s.die die).stage) :
    .matrixEngineEnable die cluster ∈ (s.afterCluster die cluster).agenda ∧ (s.clusterDie die cluster).stage = (s.die die).stage := by
  have ne : (s.die die).stage ≠ 2 := by omega
  have turn : s.inTurn die cluster = false := by simp [State.inTurn, ne]
  constructor
  · simp [State.afterCluster, ne, State.mem_postOnce]
  · simp [State.clusterDie, turn]

end

/-! ## Engines in the same order (R25) -/

section
variable {s : State} {die cluster : Nat} {d : Die} {c : Nat}

/-- A cluster of a die is powered and its engines are not enabled. -/
def Die.Dark (d : Die) (c : Nat) : Prop := c < 24 ∧ d.clusters.getLsbD c = true ∧ d.engines.getLsbD c = false

/-- The next engines to be enabled are those of the lowest dark cluster. -/
theorem Die.nextEngines_eq_some : d.nextEngines = some c ↔ d.Dark c ∧ ∀ x, d.Dark x → c ≤ x := by
  simp only [Die.nextEngines, List.find?_range_eq_some, Die.Dark, List.mem_range, Bool.and_eq_true, Bool.not_eq_true']
  constructor
  · rintro ⟨⟨on, off⟩, hc, low⟩
    refine ⟨⟨hc, on, off⟩, fun x ⟨_, hon, hoff⟩ => Nat.le_of_not_lt fun lt => ?_⟩
    have := low x lt
    simp [hon, hoff] at this
  · rintro ⟨⟨hc, on, off⟩, low⟩
    refine ⟨⟨on, off⟩, hc, fun x lt => Bool.eq_false_iff.2 fun h => ?_⟩
    have dark : d.clusters.getLsbD x = true ∧ d.engines.getLsbD x = false := by simpa only [Bool.and_eq_true, Bool.not_eq_true'] using h
    exact absurd (low x ⟨Nat.lt_trans lt hc, dark⟩) (Nat.not_le.2 lt)

/-- A die with the engines of a cluster enabled. -/
def Die.withEngines (d : Die) (cluster : Nat) : Die :=
  let engines := d.engines ||| (1 <<< cluster)
  { d with engines := engines, stage := if d.stage = 3 && engines = BitVec.allOnes 24 then 4 else d.stage, nextEngine := d.cycle + 15000 }

/-- Enabling a cluster's engines takes it alone from the dark ones. -/
theorem Die.dark_withEngines : (d.withEngines cluster).Dark c ↔ d.Dark c ∧ c ≠ cluster := by
  have bit (h : c < 24) : (d.withEngines cluster).engines.getLsbD c = (d.engines.getLsbD c || decide (cluster = c)) := by
    rw [show (d.withEngines cluster).engines = d.engines ||| BitVec.ofNat 24 (1 <<< cluster) from rfl, BitVec.getLsbD_or, BitVec.getLsbD_ofNat,
      Nat.one_shiftLeft, Nat.testBit_two_pow, decide_eq_true h, Bool.true_and]
  constructor
  · rintro ⟨hc, on, off⟩
    rw [bit hc, Bool.or_eq_false_iff] at off
    exact ⟨⟨hc, on, off.1⟩, Ne.symm (of_decide_eq_false off.2)⟩
  · rintro ⟨⟨hc, on, off⟩, ne⟩
    exact ⟨hc, on, by rw [bit hc, off, decide_eq_false ne.symm]; rfl⟩

/-- Step 4 goes on while a cluster is dark. -/
theorem Die.withEngines_stage (h : d.stage = 3) (dark : (d.withEngines cluster).Dark c) : (d.withEngines cluster).stage = 3 := by
  obtain ⟨hc, -, off⟩ := dark
  have left : d.engines ||| (1 <<< cluster) ≠ BitVec.allOnes 24 := fun all => by
    rw [show (d.withEngines cluster).engines = BitVec.allOnes 24 from all, BitVec.getLsbD_allOnes] at off
    simp [hc] at off
  simp only [Die.withEngines, h, left, decide_true, decide_false, Bool.and_false, Bool.false_eq_true, if_false]

/-- The state with the engines of a cluster enabled, on its die and in its cores. -/
def State.enableEngines (s : State) (die cluster : Nat) : State :=
  (clusterCores (24 * die + cluster)).foldl (fun s c => s.onCore c fun k => { k with engineOn := true })
    (s.setDie die ((s.die die).withEngines cluster))

/-- What falls due once a cluster's engines are enabled: while step 4 lasts, those of the next dark cluster. -/
def State.afterEngines (s : State) (die cluster : Nat) : State :=
  match if ((s.die die).withEngines cluster).stage = 3 then ((s.die die).withEngines cluster).nextEngines else none with
  | some c => (s.enableEngines die cluster).postOnce (.matrixEngineEnable die c)
  | none => s.enableEngines die cluster

section
variable (live : (s.die die).live = true) (hc : cluster < 24) (on : (s.die die).clusters.getLsbD cluster = true)
include live hc on

theorem execMatrixEngineEnable_early (h : (s.die die).cycle.toNat < (s.die die).nextEngine.toNat) :
    execMatrixEngineEnable die cluster s = .next (s.post (.matrixEngineEnable die cluster)) :=
  (if_neg (by simp [live, on]; omega)).trans (if_pos h)

variable (due : (s.die die).nextEngine.toNat ≤ (s.die die).cycle.toNat)
include due

/-- In step 4 the engines of a lower dark cluster come first. -/
theorem execMatrixEngineEnable_lower (stage : (s.die die).stage = 3) (lt : c < cluster) (next : (s.die die).nextEngines = some c) :
    execMatrixEngineEnable die cluster s = .next (s.postOnce (.matrixEngineEnable die c)) := by
  refine (if_neg (by simp [live, on]; omega)).trans ((if_neg (Nat.not_lt.2 due)).trans ?_)
  simp only [stage, next, if_true, Option.filter_some, lt, decide_true]

theorem execMatrixEngineEnable_enables (turn : (s.die die).stage ≠ 3 ∨ ∀ x, (s.die die).Dark x → cluster ≤ x) :
    execMatrixEngineEnable die cluster s = .next (s.afterEngines die cluster) := by
  have first : (if (s.die die).stage = 3 then (s.die die).nextEngines.filter (· < cluster) else none) = none := by
    split
    next h =>
      refine Option.filter_eq_none_iff.2 fun x next => ?_
      simpa using (turn.resolve_left (Decidable.not_not.2 h)) x (Die.nextEngines_eq_some.1 next).1
    next => rfl
  refine (if_neg (by simp [live, on]; omega)).trans ((if_neg (Nat.not_lt.2 due)).trans ?_)
  rw [first]
  rfl

end

theorem State.enableEngines_die (h : die < s.dies.length) : (s.enableEngines die cluster).die die = (s.die die).withEngines cluster := by
  rw [State.enableEngines, State.foldl_onCore_die, State.setDie_die h]

theorem State.enableEngines_on (h : c ∈ clusterCores (24 * die + cluster)) : ((s.enableEngines die cluster).core c).engineOn = true :=
  State.core_foldl_onCore (P := fun k => k.engineOn = true) (fun _ => rfl) (.inl h)

/-- What follows a cluster's engines leaves the dies and cores as they are. -/
theorem State.afterEngines_parts (s : State) (die cluster : Nat) :
    (s.afterEngines die cluster).die = (s.enableEngines die cluster).die ∧ (s.afterEngines die cluster).cores = (s.enableEngines die cluster).cores := by
  unfold State.afterEngines
  split <;> simp

/-- In step 4 the engines of the lowest cluster that is dark still fall due. -/
theorem State.afterEngines_next (stage : (s.die die).stage = 3) (dark : (s.die die).Dark c) (ne : c ≠ cluster)
    (low : ∀ x, (s.die die).Dark x → x ≠ cluster → c ≤ x) : .matrixEngineEnable die c ∈ (s.afterEngines die cluster).agenda := by
  have left : ((s.die die).withEngines cluster).Dark c := Die.dark_withEngines.2 ⟨dark, ne⟩
  have next : ((s.die die).withEngines cluster).nextEngines = some c :=
    Die.nextEngines_eq_some.2 ⟨left, fun x hx => (Die.dark_withEngines.1 hx).elim (low x)⟩
  rw [State.afterEngines, Die.withEngines_stage stage left, if_pos rfl, next]
  exact State.mem_postOnce.2 (.inr rfl)

end

/-! ## Recovery (R400, R488) -/

section
variable {s : State} {die offset len : Nat} {bytes got : List Byte}

/-- A reply with a STATUS. -/
def State.tellStatus (s : State) (die code : Nat) : State := s.emit (.reply die (.status code))

theorem execImgBegin_idle (h : (s.shep die).mode ≠ .recovery) : execImgBegin die len s = .next s := if_pos h

section
variable (recovers : (s.shep die).mode = .recovery)
include recovers

theorem execImgBegin_ready (h : 1024 ≤ len ∧ len ≤ 4194304) :
    execImgBegin die len s = .next ((s.onShep die fun h => { h with image := some (len, []) }).tellStatus die 0) := by
  simp only [execImgBegin, recovers, h, State.reply]
  rfl

theorem execImgBegin_badLength (h : ¬ (1024 ≤ len ∧ len ≤ 4194304)) :
    execImgBegin die len s = .next ((s.onShep die fun h => { h with image := none }).tellStatus die 2) := by
  simp only [execImgBegin, recovers, h, State.reply]
  rfl

variable (image : (s.shep die).image = some (len, got))
include image

theorem execImgData_next (h : offset = got.length ∧ bytes.length ≤ 1024 ∧ got.length + bytes.length ≤ len) :
    execImgData die offset bytes s = .next ((s.onShep die fun h => { h with image := some (len, got ++ bytes) }).tellStatus die 0) := by
  simp only [execImgData, recovers, image, if_pos h]
  rfl

theorem execImgData_outOfOrder (h : ¬ (offset = got.length ∧ bytes.length ≤ 1024 ∧ got.length + bytes.length ≤ len)) :
    execImgData die offset bytes s = .next (s.tellStatus die 3) := by
  simp only [execImgData, recovers, image, if_neg h]
  rfl

/-- An image that is not whole or does not verify is not written. -/
theorem execImgEnd_failed (h : ¬ (got.length = len ∧ Config.imageVerifies die got = true)) : execImgEnd die s = .next (s.tellStatus die 1) := by
  have bad : (decide (got.length ≠ len) || !Config.imageVerifies die got) = true := by
    rw [Bool.or_eq_true, decide_eq_true_eq, Bool.not_eq_true', ← Bool.not_eq_true]
    exact Decidable.not_and_iff_or_not.1 h
  simp only [execImgEnd, recovers, image]
  exact (if_neg (by simp)).trans (if_pos bad)

/-- An image that verifies is written and the shepherd resets, unless the flash cannot be written. -/
theorem execImgEnd_verified (h : got.length = len ∧ Config.imageVerifies die got = true) :
    execImgEnd die s = if (s.free 0).getLsbD 0 then .next (s.tellStatus die 4) else
      .next (((s.onShep die fun h => { h with flash := got, image := none, mode := .reset }).tellStatus die 0).postOnce (.boot die)) := by
  have good : ¬ (decide (got.length ≠ len) || !Config.imageVerifies die got) = true := by simp [h]
  simp only [execImgEnd, recovers, image]
  exact (if_neg (by simp)).trans (if_neg good)

end

end

/-! ## The statement -/

/-- Settles O50: each step of boot, bring-up and recovery answers as its lemma above says. -/
theorem bringUp : Obligations.BringUp := by
  unfold Obligations.BringUp
  intro s die len four d h told runs recovers
  have inDies : die < s.dies.length := len ▸ four
  refine ⟨?boot, ?waits, ?secret, ?bringup, ?clusters, ?late, ?imgBegin, ?badLength, ?imgData, ?idle⟩
  case boot =>
    intro m
    cases v : Config.imageVerifies die h.flash with
    | false => exact ⟨_, execBoot_unverified m v, rfl⟩
    | true =>
      obtain ⟨mode, rom, image, key⟩ := State.booted_shep inDies
      have drawn (zero : die = 0) (none_ : (s.shep 1).dedup = none) : ((s.booted die).shep 0).dedup.isSome = true := by
        rw [zero]
        exact State.booted_dedup (by omega) none_
      refine ⟨_, execBoot_verified m v, ?_⟩
      rw [if_pos rfl]
      split
      next first =>
        have same : ([Event.dieBringup die, .bootPeerTimeout die, .heartbeat die false, .powerSample die].foldl State.postOnce (s.booted die)).die =
          (s.booted die).die := foldl_kept State.die fun u e => State.postOnce_die u e
        simp only [State.shep, same, State.mem_foldl_postOnce]
        exact ⟨mode, rom, image, key, drawn, fun _ => by simp⟩
      next later => exact ⟨mode, rom, image, key, drawn, fun first => absurd first later⟩
  case waits => exact fun h _ => execDedupSecretReceive_waits h
  case secret =>
    intro blob v runs key
    refine ⟨execDedupSecretReceive_foreign runs key, fun x got other => ?_, fun x got zero => ?_⟩
    · exact (execDedupSecretReceive_kept runs key got).trans (by rw [if_pos other]; rfl)
    · refine ⟨_, (execDedupSecretReceive_kept runs key got).trans (by rw [if_neg (Decidable.not_not.2 zero)]), ?_⟩
      simp only [State.sendSecret, State.foldl_post, List.mem_append, List.mem_map]
      refine ⟨rfl, fun i live ne none_ => .inr ⟨i, ?_, rfl⟩⟩
      rw [zero]
      exact State.mem_secretless_holdSecret live ne none_
  case bringup =>
    intro stage live runs
    cases ok : (s.free 0).getLsbD 0 with
    | false => exact ⟨_, execDieBringup_untrained stage live runs ok, rfl⟩
    | true =>
      refine ⟨_, execDieBringup_trained stage live runs ok, ?_⟩
      rw [if_pos rfl]
      refine ⟨?_, State.trained_released inDies (State.mem_liveDies.2 ⟨four, live⟩), State.trained_waits inDies⟩
      exact (State.releaseIfReady_field (·.shepherd.ready) fun _ _ _ _ => rfl).trans (State.trained_die inDies).2
  case clusters =>
    intro cluster live stage hc inOrder before
    refine ⟨execClusterPowerUp_early live stage hc, fun due => ?_, fun on => execMatrixEngineEnable_early live hc on,
      fun on due => ⟨?_, fun turn => ?_⟩⟩
    · refine ⟨_, execClusterPowerUp_due live stage hc due, ?_⟩
      obtain ⟨dies, cores⟩ := s.afterCluster_parts die cluster
      rw [State.postAdmissions_die, dies, State.powerCluster_die inDies]
      simp only [State.mem_postAdmissions, ne_eq, reduceCtorEq, not_false_eq_true, implies_true]
      refine ⟨rfl, rfl, fun c hc => ?_, fun two turn below => ?_, fun two turn last => ?_, fun two turn => ?_, State.afterCluster_late⟩
      · rw [State.core, State.postAdmissions_cores, cores]
        exact State.powerCluster_powered hc
      · exact State.afterCluster_next two ((State.inTurn_iff two).2 turn) below
      · subst last
        exact State.afterCluster_last two ((State.inTurn_iff two).2 turn)
      · obtain ⟨agenda, step3⟩ := State.afterCluster_outOfTurn two (Bool.eq_false_iff.2 (mt (State.inTurn_iff two).1 turn))
        exact ⟨step3, fun i c due => agenda ▸ due⟩
    · intro c stage lt dark low
      exact execMatrixEngineEnable_lower live hc on due stage lt (Die.nextEngines_eq_some.2 ⟨dark, low⟩)
    · obtain ⟨dies, cores⟩ := s.afterEngines_parts die cluster
      refine ⟨_, execMatrixEngineEnable_enables live hc on due turn, ?_⟩
      rw [dies, State.enableEngines_die inDies]
      refine ⟨rfl, rfl, fun c hc => ?_, fun stage c => State.afterEngines_next stage⟩
      rw [State.core, cores]
      exact State.enableEngines_on hc
  case late =>
    intro late waited
    have same : late = s.late := by simp [late, State.late]
    rw [same]
    refine ⟨execBootPeerTimeout_none, execBootPeerTimeout_early, fun some_ live ready second herds => ?_⟩
    exact ⟨_, execBootPeerTimeout_over some_ live ready second, fun i hi => State.withoutLate_live len herds hi⟩
  case imgBegin => exact fun n recovers low high => execImgBegin_ready recovers ⟨low, high⟩
  case badLength => exact fun n recovers bad => execImgBegin_badLength recovers (by omega)
  case imgData =>
    intro offset bytes n got recovers image
    refine ⟨execImgData_next recovers image, execImgData_outOfOrder recovers image, ?_⟩
    split
    next whole =>
      have ends : exec (.imgEnd die) s = _ := execImgEnd_verified recovers image whole
      rw [ends]
      split
      · exact .inl rfl
      · exact .inr rfl
    next bad => exact execImgEnd_failed recovers image bad
  case idle => exact fun m n => execImgBegin_idle (by rcases m with m | m <;> simp [show (s.shep die).mode = _ from m])

end Sys2Proof.Machine

/-!
PROOFS. Scratchpad accesses of the lane stream as statement O26 says: the check of a lane's address (R73, R247), the form that a load, a store and an
atomic share, what each of them does where its lanes pass, and when it waits (R109, R252).
-/
namespace Sys2Proof.Machine

/-! ## The check of an address (R73, R247, R442) -/

section
variable {s : State} {h : Herd} {kind : Access} {n c l a : Nat}

theorem State.checkSpad_misaligned (off : a % n ≠ 0) : s.checkSpad h a n = .error 0x04 := if_pos off

/-- The address has an invalid form, or its offset lies outside the allotment that it names. -/
theorem State.checkSpad_outside (aligned : a % n = 0) (outside : ∀ t off, s.spadTarget h a = some (t, off) → t.spadSize ≤ off) :
    s.checkSpad h a n = .error 0x09 := by
  rw [State.checkSpad, if_neg (Decidable.not_not.2 aligned)]
  cases target : s.spadTarget h a with
  | none => rfl
  | some x => exact if_neg (Nat.not_lt.2 (outside x.1 x.2 target))

theorem State.checkSpad_fails (why : (a % n ≠ 0 ∧ c = 0x04) ∨
    (a % n = 0 ∧ c = 0x09 ∧ ∀ t off, s.spadTarget h a = some (t, off) → t.spadSize ≤ off)) : s.checkSpad h a n = .error c := by
  rcases why with ⟨off, rfl⟩ | ⟨aligned, rfl, outside⟩
  · exact State.checkSpad_misaligned off
  · exact State.checkSpad_outside aligned outside

theorem State.checkSpadLanes_head_fails {above : List (Nat × Nat)} (failed : s.checkSpad h a n = .error c) :
    s.checkSpadLanes h kind n ((l, a) :: above) = .error (.trap (addrTrap c a l kind)) := by
  rw [State.checkSpadLanes, failed]

theorem State.checkSpadLanes_head_passes {t : Herd} {off : Nat} {rest : List (Nat × Nat)} (passed : s.checkSpad h a n = .ok (t, off)) :
    s.checkSpadLanes h kind n ((l, a) :: rest) = (s.checkSpadLanes h kind n rest).map ((l, t.uid, off) :: ·) := by
  rw [State.checkSpadLanes, passed]
  dsimp only
  cases s.checkSpadLanes h kind n rest <;> rfl

/-- The lowest failing lane traps: lanes below it that pass make no difference. -/
theorem State.checkSpadLanes_lowest_fails {below above : List (Nat × Nat)} {xs : List (Nat × Nat × Nat)}
    (failed : s.checkSpad h a n = .error c) (passed : s.checkSpadLanes h kind n below = .ok xs) :
    s.checkSpadLanes h kind n (below ++ (l, a) :: above) = .error (.trap (addrTrap c a l kind)) := by
  induction below generalizing xs with
  | nil => exact State.checkSpadLanes_head_fails failed
  | cons x below ih =>
    obtain ⟨k, b⟩ := x
    cases head : s.checkSpad h b n with
    | error e => rw [State.checkSpadLanes_head_fails head] at passed; cases passed
    | ok y =>
      rw [State.checkSpadLanes_head_passes head] at passed
      cases rest : s.checkSpadLanes h kind n below with
      | error e => rw [rest] at passed; cases passed
      | ok ys => rw [List.cons_append, State.checkSpadLanes_head_passes head, ih rest]; rfl

end

/-! ## The form of a scratchpad access (R73, R253, R255) -/

/-- The form that scratchpad loads, stores and atomics share: operands, then the address of every executing lane, then a wait for what the
access follows, then its effect on the lanes with their herds and offsets. -/
def spadAccess (k : Holding) (w : LaneWord) (srcs : List Src) (dsts : List Dst) (kind : Access) (n : Nat) (index : Bool)
    (ready : State → Flock → Bool) (effect : State → Flock → Path → List (Nat × Nat × Nat) → State) (s : State) : Host.Outcome State Fault Refusal :=
  runHeld k (fun s f p => do
    checkOperands f p w (laneList f p w) srcs dsts
    let xs ← s.checkSpadLanes (s.herdOf f) kind n ((laneList f p w).map fun l => (l, f.spadAddr w index l))
    waitUnless (ready s f)
    .ok (effect s f p xs)) s

section
variable {s : State} {f : Flock} {p : Path} {k : Holding} {w : LaneWord} {srcs : List Src} {dsts : List Dst} {kind : Access} {n : Nat} {index : Bool}
  {ready : State → Flock → Bool} {effect : State → Flock → Path → List (Nat × Nat × Nat) → State} {xs : List (Nat × Nat × Nat)}

theorem spadAccess_waits (issues : IssuesLane s f p) (operands : LaneReady f p w srcs dsts)
    (passed : s.checkSpadLanes (s.herdOf f) kind n ((laneList f p w).map fun l => (l, f.spadAddr w index l)) = .ok xs) (late : ready s f = false) :
    spadAccess k w srcs dsts kind n index ready effect s = .next (s.waiting false) := by
  simp only [spadAccess, runHeld, runLaneAs_eq issues, checkOperands_of operands, passed, late]; rfl

theorem spadAccess_completes (issues : IssuesLane s f p) (operands : LaneReady f p w srcs dsts)
    (passed : s.checkSpadLanes (s.herdOf f) kind n ((laneList f p w).map fun l => (l, f.spadAddr w index l)) = .ok xs) (now : ready s f = true) :
    spadAccess k w srcs dsts kind n index ready effect s = .next (effect s f p xs) := by
  simp only [spadAccess, runHeld, runLaneAs_eq issues, checkOperands_of operands, passed, now]; rfl

/-- The trap of an address outside recipes is taken at its path, whose held fault is over. -/
theorem State.laneTrap_address {c a l : Nat} (issues : IssuesLane s f p) (plain : f.recipe = none) :
    s.laneTrap f p (.lane p.id none) (addrTrap c a l kind) =
      (s.onFlock f.uid fun g => g.setPath { p with heldFault := none }).takeTrap f.uid (.lane p.id none)
        { cause := c, addr := BitVec.ofNat 64 a, info := BitVec.ofNat 64 (l + kind.code * 2 ^ 11), held := decide (p.heldFault = some p.pc) } := by
  obtain ⟨_, _, _, _, fresh⟩ := issues
  simp only [State.laneTrap, plain, fresh, List.isEmpty_nil, Bool.true_and]; rfl

/-- The lowest lane whose address fails traps, whatever the access has to follow. -/
theorem spadAccess_traps {c l : Nat} {below above : List Nat} (issues : IssuesLane s f p) (operands : LaneReady f p w srcs dsts) (plain : f.recipe = none)
    (lanes : laneList f p w = below ++ l :: above)
    (passed : s.checkSpadLanes (s.herdOf f) kind n (below.map fun l => (l, f.spadAddr w index l)) = .ok xs)
    (failed : s.checkSpad (s.herdOf f) (f.spadAddr w index l) n = .error c) :
    spadAccess k w srcs dsts kind n index ready effect s =
      .next ((s.onFlock f.uid fun g => g.setPath { p with heldFault := none }).takeTrap f.uid (.lane p.id none)
        { cause := c, addr := BitVec.ofNat 64 (f.spadAddr w index l), info := BitVec.ofNat 64 (l + kind.code * 2 ^ 11),
          held := decide (p.heldFault = some p.pc) }) := by
  have stops : s.checkSpadLanes (s.herdOf f) kind n ((laneList f p w).map fun l => (l, f.spadAddr w index l)) =
      .error (.trap (addrTrap c (f.spadAddr w index l) l kind)) := by
    rw [lanes, List.map_append, List.map_cons]
    exact State.checkSpadLanes_lowest_fails failed passed
  rw [← State.laneTrap_address issues plain]
  simp only [spadAccess, runHeld, runLaneAs_eq issues, checkOperands_of operands, stops]; rfl

end

/-! ## The three accesses -/

/-- What the lanes of a scratchpad load fill. -/
def State.spadFilled (s : State) (f : Flock) (w : LaneWord) (xs : List (Nat × Nat × Nat)) : List Piece :=
  xs.flatMap fun x => s.spadPieces w x.1 x.2.1 x.2.2 (f.spadAddr w true x.1)

/-- The flock and its path after a scratchpad load whose lanes `xs` reach their own herd's allotment. -/
def State.spadNear (s : State) (f : Flock) (p : Path) (w : LaneWord) (xs : List (Nat × Nat × Nat)) : State :=
  s.setFlock (((s.spadFilled f w xs).foldl (Flock.fill false) f).retire p.id)

/-- A scratchpad load: lanes of the own herd are filled, others become an operation. -/
def spadLoad (w : LaneWord) (s : State) (f : Flock) (p : Path) (xs : List (Nat × Nat × Nat)) : State :=
  let near := s.spadNear f p w (xs.filter fun x => (x.2.1 == f.herd) == true)
  let far := s.spadFilled f w (xs.filter fun x => (x.2.1 == f.herd) == false)
  if far.isEmpty then near else near.beginOp f.uid p.pc none far 0 none

/-- A scratchpad store: the lanes write in their order. -/
def spadStore (w : LaneWord) (s : State) (f : Flock) (p : Path) (xs : List (Nat × Nat × Nat)) : State :=
  (xs.foldl (fun t x => t.spadWrite x.2.1 x.2.2 (f.dataBytes w (srcC w) (memBytes w) x.1)) s).onFlock f.uid fun g => (g.retire p.id).fence

/-- The lanes of a scratchpad atomic performed in turn, with the pieces that return. -/
def State.spadAtoms (s : State) (f : Flock) (w : LaneWord) (xs : List (Nat × Nat × Nat)) : State × List Piece :=
  (spadOrder (atomOp w) s.ticks xs).foldl (fun t x =>
    let r := t.1.spadAtom w x.1 x.2.1 x.2.2 (f.spadAddr w false x.1) (f.atomValues w x.1).1 (f.atomValues w x.1).2
    (r.1, t.2 ++ [r.2])) (s, [])

/-- A scratchpad atomic: its lanes act, and what they return is an operation. -/
def spadAtomic (w : LaneWord) (s : State) (f : Flock) (p : Path) (xs : List (Nat × Nat × Nat)) : State :=
  ((s.spadAtoms f w xs).1.beginOp f.uid p.pc none (s.spadAtoms f w xs).2 0 (acqScope (orderOf (cond w)))).onFlock f.uid
    fun g => (g.retire p.id).fence

/-- What a scratchpad atomic follows: its release, where its order has one, else incomplete acquires (R108, R109). -/
def spadAtomReady (w : LaneWord) (s : State) (f : Flock) : Bool :=
  match relScope (orderOf (cond w)) with
  | some sc => s.releaseReady f sc
  | none => s.memReady f

section
variable {s : State} {f : Flock} {p : Path} {w : LaneWord} {xs : List (Nat × Nat × Nat)}

theorem exec_vLdSp : exec (.vLdSp w) s = spadAccess .scratch w [srcA w, srcB w] [dst w (memRegs w) (memRegs w)] .read (memBytes w) true
    State.memReady (spadLoad w) s := rfl

theorem exec_vStSp : exec (.vStSp w) s = spadAccess .holds w (storeSources w (srcA w)) [] .write (memBytes w) true
    State.memReady (spadStore w) s := rfl

theorem exec_vAtomSp : exec (.vAtomSp w) s = spadAccess .stops w (atomSources w (srcA w)) [dst w (atomRegs w) (atomRegs w)] .atomic (atomBytes w) false
    (spadAtomReady w) (spadAtomic w) s := rfl

theorem State.spadPieces_ne_nil {l herd off addr : Nat} : s.spadPieces w l herd off addr ≠ [] := by
  simp only [State.spadPieces]
  split <;> exact List.cons_ne_nil _ _

theorem State.spadFilled_isEmpty : (s.spadFilled f w xs).isEmpty = xs.isEmpty := by
  cases xs with
  | nil => rfl
  | cons x xs => simp [State.spadFilled, State.spadPieces_ne_nil]

/-- An operation starts only where some lane reaches the allotment of another herd. -/
theorem spadLoad_eq : spadLoad w s f p xs =
    let near := s.spadNear f p w (xs.filter fun x => x.2.1 = f.herd)
    if ∀ x ∈ xs, x.2.1 = f.herd then near
    else near.beginOp f.uid p.pc none (s.spadFilled f w (xs.filter fun x => x.2.1 ≠ f.herd)) 0 none := by
  have own : (fun x : Nat × Nat × Nat => (x.2.1 == f.herd) == true) = fun x => decide (x.2.1 = f.herd) := by
    funext x; exact Bool.eq_iff_iff.2 (by simp)
  have others : (fun x : Nat × Nat × Nat => (x.2.1 == f.herd) == false) = fun x => decide (x.2.1 ≠ f.herd) := by
    funext x; exact Bool.eq_iff_iff.2 (by simp)
  have none_far : (xs.filter fun x => decide (x.2.1 ≠ f.herd)).isEmpty = true ↔ ∀ x ∈ xs, x.2.1 = f.herd := by simp
  simp only [spadLoad, own, others, State.spadFilled_isEmpty, none_far]

theorem spadAtomReady_false : spadAtomReady w s f = false ↔ (match relScope (orderOf (cond w)) with
    | some sc => s.releaseReady f sc = false
    | none => s.memReady f = false) := by
  unfold spadAtomReady
  cases relScope (orderOf (cond w)) <;> rfl

theorem spadAtomReady_of (memory : s.memReady f = true) (release : ∀ sc, relScope (orderOf (cond w)) = some sc → s.releaseReady f sc = true) :
    spadAtomReady w s f = true := by
  unfold spadAtomReady
  split
  next sc scope => exact release sc scope
  next => exact memory

end

/-! ## The statement -/

/-- Settles O26: the three accesses are of one form, which waits, traps or has its effect. -/
theorem laneScratchpad : Obligations.LaneScratchpad := by
  unfold Obligations.LaneScratchpad
  intro s f p w xs issues lanes m op ord at_ pieces atoms waits fails store atom
  have waiting {i k reads writes kind n index ready effect late} (form : exec i s = spadAccess k w reads writes kind n index ready effect s)
      (follows : late → ready s f = false) : waits i reads writes kind n index late :=
    fun operands passed isLate => form.trans (spadAccess_waits issues operands passed (follows isLate))
  have failing {i k reads writes kind n index ready effect} (form : exec i s = spadAccess k w reads writes kind n index ready effect s) :
      fails i reads writes kind n index :=
    fun operands plain _ _ _ _ split passed why => form.trans (spadAccess_traps issues operands plain split passed (State.checkSpad_fails why))
  refine ⟨waiting exec_vLdSp id, waiting exec_vStSp id, waiting exec_vAtomSp spadAtomReady_false.2,
    failing exec_vLdSp, failing exec_vStSp, failing exec_vAtomSp, ?load, ?store, ?atomic⟩
  case load =>
    intro operands passed now
    refine ⟨spadLoad w s f p xs, exec_vLdSp.trans (spadAccess_completes issues operands passed now), ?_⟩
    rw [spadLoad_eq]
    exact ⟨fun own => if_pos own, fun ⟨x, hx, other⟩ => if_neg fun own => other (own x hx)⟩
  case store => exact fun operands passed now => exec_vStSp.trans (spadAccess_completes issues operands passed now)
  case atomic =>
    exact fun operands passed memory release => exec_vAtomSp.trans (spadAccess_completes issues operands passed (spadAtomReady_of memory release))

end Sys2Proof.Machine

/-!
PROOFS. Rounding as statement O21 says: the number of quanta (R138), magnitude codes as an increasing count of least quanta (R131 to R133), and
rounding to a format, which delivers the code of the rounded number of quanta (R138 to R140).
-/
namespace Sys2Proof.Machine

/-! ## The number of quanta (R138) -/

section
variable {mode : Rounding} {x : Mag} {qe low : Int} {k q : Nat}

/-- Whether R138 rounds away from zero between `lo` quanta and the next, with `rem` of `q` parts beyond `lo`. -/
def roundsUp (mode : Rounding) (neg : Bool) (lo rem q : Nat) : Bool :=
  match mode with
  | .ne => q < 2 * rem || (2 * rem = q && lo % 2 = 1)
  | .rz => false
  | .rd => neg
  | .ru => !neg

theorem quanta_of_le (exact : x.more = false) (fine : qe ≤ x.e) : quanta mode x qe = (x.m * 2 ^ (x.e - qe).toNat, false) := by
  rw [quanta, if_pos fine, exact]

/-- A magnitude far below one quantum has no whole quantum, and less than half of one remains. -/
theorem Mag.two_mul_lt_of_far (far : x.m.log2 + 2 < k) : 2 * x.m < 2 ^ k :=
  calc 2 * x.m < 2 * 2 ^ (x.m.log2 + 1) := Nat.mul_lt_mul_of_pos_left Nat.lt_log2_self Nat.two_pos
    _ = 2 ^ (x.m.log2 + 2) := (Nat.pow_succ' ..).symm
    _ ≤ 2 ^ k := Nat.pow_le_pow_right Nat.two_pos (Nat.le_of_lt far)

/-- Between two quanta the exact quotient is cut, and raised as the mode says where a part is lost. -/
theorem quanta_of_lt (exact : x.more = false) (coarse : x.e < qe) (hq : q = 2 ^ (qe - x.e).toNat) :
    quanta mode x qe =
      if x.m % q = 0 then (x.m / q, false)
      else (if roundsUp mode x.neg (x.m / q) (x.m % q) q then x.m / q + 1 else x.m / q, true) := by
  subst hq
  by_cases far : x.m.log2 + 2 < (qe - x.e).toNat
  · have small := x.two_mul_lt_of_far far
    have none_ : x.m / 2 ^ (qe - x.e).toNat = 0 := Nat.div_eq_of_lt (by omega)
    have all_ : x.m % 2 ^ (qe - x.e).toNat = x.m := Nat.mod_eq_of_lt (by omega)
    have below : ¬ 2 ^ (qe - x.e).toNat < 2 * x.m := by omega
    rw [quanta, if_neg (Int.not_le.2 coarse), none_, all_]
    cases mode <;> simp [far, exact, roundsUp, below, Nat.ne_of_lt small]
  · rw [quanta, if_neg (Int.not_le.2 coarse)]
    simp only [far, exact, if_false, decide_false, Bool.not_false, Bool.true_and, Bool.false_or, and_true]
    rfl

theorem quanta_lost_iff (exact : x.more = false) (coarse : x.e < qe) (hq : q = 2 ^ (qe - x.e).toNat) :
    (quanta mode x qe).2 = true ↔ x.m % q ≠ 0 := by
  rw [quanta_of_lt exact coarse hq]
  split
  next whole => simp [whole]
  next part => simp [part]

/-- The quotient rounded up. -/
theorem add_pred_div_eq (m : Nat) (hq : 0 < q) : (m + q - 1) / q = if m % q = 0 then m / q else m / q + 1 := by
  have parts := Nat.div_add_mod m q
  have := Nat.mod_lt m hq
  split
  · exact Nat.div_eq_of_lt_le (by rw [Nat.mul_comm]; omega) (by rw [Nat.succ_mul, Nat.mul_comm]; omega)
  · exact Nat.div_eq_of_lt_le (by rw [Nat.succ_mul, Nat.mul_comm]; omega) (by rw [Nat.succ_mul, Nat.succ_mul, Nat.mul_comm]; omega)

theorem quanta_rz (exact : x.more = false) (coarse : x.e < qe) (hq : q = 2 ^ (qe - x.e).toNat) : (quanta .rz x qe).1 = x.m / q := by
  rw [quanta_of_lt exact coarse hq]; split <;> rfl

theorem quanta_rd (exact : x.more = false) (coarse : x.e < qe) (hq : q = 2 ^ (qe - x.e).toNat) :
    (quanta .rd x qe).1 = if x.neg then (x.m + q - 1) / q else x.m / q := by
  rw [quanta_of_lt exact coarse hq, add_pred_div_eq _ (hq ▸ Nat.two_pow_pos _)]
  cases x.neg <;> split <;> rfl

theorem quanta_ru (exact : x.more = false) (coarse : x.e < qe) (hq : q = 2 ^ (qe - x.e).toNat) :
    (quanta .ru x qe).1 = if x.neg then x.m / q else (x.m + q - 1) / q := by
  rw [quanta_of_lt exact coarse hq, add_pred_div_eq _ (hq ▸ Nat.two_pow_pos _)]
  cases x.neg <;> split <;> rfl

/-- The nearest number of quanta is at most half a quantum away, and even where two are. -/
theorem quanta_ne (exact : x.more = false) (coarse : x.e < qe) (hq : q = 2 ^ (qe - x.e).toNat) {n : Nat} (hn : n = (quanta .ne x qe).1) :
    2 * (n * q) ≤ 2 * x.m + q ∧ 2 * x.m ≤ 2 * (n * q) + q ∧ (2 * (n * q) = 2 * x.m + q ∨ 2 * x.m = 2 * (n * q) + q → n % 2 = 0) := by
  have parts : x.m = x.m / q * q + x.m % q := (Nat.div_add_mod' ..).symm
  have part := Nat.mod_lt x.m (hq ▸ Nat.two_pow_pos _ : 0 < q)
  rw [quanta_of_lt exact coarse hq] at hn
  generalize x.m / q = lo at *
  generalize x.m % q = rem at *
  have next : (lo + 1) * q = lo * q + q := Nat.succ_mul ..
  split at hn
  next whole => subst hn; omega
  next part =>
    simp only [roundsUp, Bool.or_eq_true, Bool.and_eq_true, decide_eq_true_eq] at hn
    split at hn <;> subst hn <;> omega

/-- The number of quanta is the quotient cut, or one more. -/
theorem quanta_mem (exact : x.more = false) (coarse : x.e < qe) (hq : q = 2 ^ (qe - x.e).toNat) :
    x.m / q ≤ (quanta mode x qe).1 ∧ (quanta mode x qe).1 * q < x.m + q := by
  have := Nat.div_mul_le_self x.m q
  have parts := Nat.div_add_mod' x.m q
  have next : (x.m / q + 1) * q = x.m / q * q + q := Nat.succ_mul ..
  rw [quanta_of_lt exact coarse hq]
  have : 0 < q := hq ▸ Nat.two_pow_pos _
  split
  · exact ⟨Nat.le_refl _, by dsimp only; omega⟩
  · split
    · exact ⟨Nat.le_succ _, by dsimp only; omega⟩
    · exact ⟨Nat.le_refl _, by dsimp only; omega⟩

/-- A magnitude of `k` whole quanta has exactly these. -/
theorem quanta_of_whole (exact : x.more = false) (hx : low ≤ x.e) (hqe : low ≤ qe)
    (whole : x.m * 2 ^ (x.e - low).toNat = k * 2 ^ (qe - low).toNat) : quanta mode x qe = (k, false) := by
  rcases (Int.lt_or_le x.e qe).symm with fine | coarse
  · rw [quanta_of_le exact fine]
    have split_ : (x.e - low).toNat = (x.e - qe).toNat + (qe - low).toNat := by omega
    rw [split_, Nat.pow_add, ← Nat.mul_assoc] at whole
    rw [Nat.eq_of_mul_eq_mul_right (Nat.two_pow_pos _) whole]
  · have split_ : (qe - low).toNat = (qe - x.e).toNat + (x.e - low).toNat := by omega
    rw [split_, Nat.pow_add, ← Nat.mul_assoc] at whole
    have parts : x.m = k * 2 ^ (qe - x.e).toNat := Nat.eq_of_mul_eq_mul_right (Nat.two_pow_pos _) whole
    rw [quanta_of_lt exact coarse rfl, parts, Nat.mul_mod_left, if_pos rfl, Nat.mul_div_cancel _ (Nat.two_pow_pos _)]

end

/-! ## The codes of a format (R131 to R133) -/

/-- The shape of a floating-point format (R131): a sign, an exponent and a mantissa fill the width. -/
structure Fmt.Standard (t : Fmt) : Prop where
  fields : t.width = t.mbits + t.ebits + 1
  mantissa : 1 ≤ t.mbits
  exponent : 2 ≤ t.ebits

theorem Fmt.standard_of_mem {t : Fmt} (ht : t ∈ [fp32, fp16, bf16, e5m2, e4m3, e3m2, e2m1]) : t.Standard := by
  have all : ∀ t ∈ [fp32, fp16, bf16, e5m2, e4m3, e3m2, e2m1], t.width = t.mbits + t.ebits + 1 ∧ 1 ≤ t.mbits ∧ 2 ≤ t.ebits := by decide
  obtain ⟨fields, mantissa, exponent⟩ := all t ht
  exact ⟨fields, mantissa, exponent⟩

/-- The exponent of the least quantum. -/
def Fmt.low (t : Fmt) : Int := t.emin - t.mbits

/-- The value of magnitude code `c`, were every code finite. -/
def Fmt.magnitude (t : Fmt) (neg : Bool) (c : Nat) : Mag :=
  ⟨neg, if c < 2 ^ t.mbits then c else 2 ^ t.mbits + c % 2 ^ t.mbits, t.low + (c / 2 ^ t.mbits - 1 : Nat), false⟩

/-- The value of magnitude code `c` in least quanta. -/
def Fmt.units (t : Fmt) (c : Nat) : Nat := (if c < 2 ^ t.mbits then c else 2 ^ t.mbits + c % 2 ^ t.mbits) * 2 ^ (c / 2 ^ t.mbits - 1)

section
variable {t : Fmt} {neg : Bool} {c n k : Nat}

theorem Fmt.low_le_magnitude (t : Fmt) (neg : Bool) (c : Nat) : t.low ≤ (t.magnitude neg c).e :=
  Int.le_add_of_nonneg_right (Int.natCast_nonneg _)

theorem Fmt.magnitude_units (t : Fmt) (neg : Bool) (c : Nat) :
    (t.magnitude neg c).m * 2 ^ ((t.magnitude neg c).e - t.low).toNat = t.units c := by
  have steps : (t.low + (c / 2 ^ t.mbits - 1 : Nat) - t.low).toNat = c / 2 ^ t.mbits - 1 := by omega
  simp only [Fmt.magnitude, Fmt.units, steps]

/-- `n` quanta, each of `2 ^ k` least ones, have the code `n + k * 2 ^ mbits`; where `n` passes the significand, this carries into the
exponent. -/
theorem Fmt.units_add_mul (most : n ≤ 2 ^ (t.mbits + 1)) (least : k = 0 ∨ 2 ^ t.mbits ≤ n) : t.units (n + k * 2 ^ t.mbits) = n * 2 ^ k := by
  have pos := Nat.two_pow_pos t.mbits
  rw [Nat.pow_succ] at most
  rw [Fmt.units, Nat.add_mul_mod_self_right, Nat.add_mul_div_right _ _ pos]
  rcases Nat.lt_or_ge n (2 ^ t.mbits) with below | above
  · obtain rfl : k = 0 := least.resolve_right (by omega)
    simp [below, Nat.div_eq_of_lt below]
  · rw [if_neg (Nat.not_lt.2 (Nat.le_add_right_of_le above))]
    rcases Nat.lt_or_eq_of_le most with fits | carry
    · have quotient : n / 2 ^ t.mbits = 1 := Nat.div_eq_of_lt_le (by omega) (by omega)
      have := Nat.div_add_mod' n (2 ^ t.mbits)
      rw [quotient] at this ⊢
      rw [Nat.add_sub_cancel_left]
      congr 1; omega
    · have quotient : n / 2 ^ t.mbits = 2 := by rw [carry, Nat.mul_div_cancel_left _ pos]
      rw [quotient, carry, Nat.mul_mod_right, show 2 + k - 1 = k + 1 by omega, Nat.pow_succ', Nat.add_zero, Nat.mul_assoc]

theorem Fmt.units_of_lt (below : c < 2 ^ t.mbits) : t.units c = c := by
  simp [Fmt.units, below, Nat.div_eq_of_lt below]

theorem Fmt.units_succ (t : Fmt) (c : Nat) : t.units (c + 1) = t.units c + 2 ^ (c / 2 ^ t.mbits - 1) := by
  have pos := Nat.two_pow_pos t.mbits
  have inside := Nat.mod_lt c pos
  have parts : c = c % 2 ^ t.mbits + c / 2 ^ t.mbits * 2 ^ t.mbits := (Nat.mod_add_div' ..).symm
  cases e : c / 2 ^ t.mbits with
  | zero =>
    rw [e] at parts
    have here := units_add_mul (t := t) (n := c) (k := 0) (by rw [Nat.pow_succ]; omega) (.inl rfl)
    have next := units_add_mul (t := t) (n := c + 1) (k := 0) (by rw [Nat.pow_succ]; omega) (.inl rfl)
    rw [Nat.zero_mul, Nat.add_zero, Nat.pow_zero, Nat.mul_one] at here next
    rw [here, next, Nat.zero_sub, Nat.pow_zero]
  | succ k =>
    rw [e, Nat.succ_mul] at parts
    have here : t.units c = (2 ^ t.mbits + c % 2 ^ t.mbits) * 2 ^ k :=
      (congrArg t.units (by omega)).trans (units_add_mul (by rw [Nat.pow_succ]; omega) (.inr (by omega)))
    have next : t.units (c + 1) = (2 ^ t.mbits + c % 2 ^ t.mbits + 1) * 2 ^ k :=
      (congrArg t.units (by omega)).trans (units_add_mul (by rw [Nat.pow_succ]; omega) (.inr (by omega)))
    rw [here, next, Nat.succ_mul, Nat.add_sub_cancel]

/-- A higher magnitude code is worth more. -/
theorem Fmt.units_lt_units (t : Fmt) {c d : Nat} (less : c < d) : t.units c < t.units d := by
  induction less with
  | refl => rw [t.units_succ]; exact Nat.lt_add_of_pos_right (Nat.two_pow_pos _)
  | step _ ih => rw [t.units_succ]; exact Nat.lt_add_right _ ih

theorem Fmt.units_le_units_iff (t : Fmt) (c d : Nat) : t.units c ≤ t.units d ↔ c ≤ d := by
  refine ⟨fun worth => Nat.le_of_not_lt fun less => Nat.not_lt.2 worth (t.units_lt_units less), fun le => ?_⟩
  rcases Nat.lt_or_eq_of_le le with less | rfl
  · exact Nat.le_of_lt (t.units_lt_units less)
  · exact Nat.le_refl _

theorem Fmt.units_injective (t : Fmt) {c d : Nat} (same : t.units c = t.units d) : c = d :=
  Nat.le_antisymm ((t.units_le_units_iff c d).1 (Nat.le_of_eq same)) ((t.units_le_units_iff d c).1 (Nat.le_of_eq same.symm))

theorem Fmt.units_lt_iff (t : Fmt) (c : Nat) : t.units c < 2 ^ t.mbits ↔ c < 2 ^ t.mbits := by
  have one : t.units (2 ^ t.mbits) = 2 ^ t.mbits := by
    simpa using units_add_mul (t := t) (n := 2 ^ t.mbits) (k := 0) (by rw [Nat.pow_succ]; omega) (.inl rfl)
  have order := t.units_le_units_iff (2 ^ t.mbits) c
  rw [one] at order
  omega

end

section
variable {t : Fmt} (shape : t.Standard) {neg : Bool} {c code : Nat} {x : Mag}
include shape

theorem Fmt.Standard.pow_width_sub_one : 2 ^ (t.width - 1) = 2 ^ t.ebits * 2 ^ t.mbits := by
  rw [shape.fields, Nat.add_sub_cancel, Nat.pow_add, Nat.mul_comm]

/-- The exponent field has at least the codes 0 to 3. -/
theorem Fmt.Standard.four_le : 4 ≤ 2 ^ t.ebits := Nat.pow_le_pow_right Nat.two_pos shape.exponent

theorem Fmt.Standard.two_le : 2 ≤ 2 ^ t.mbits := Nat.pow_le_pow_right Nat.two_pos shape.mantissa

/-- The magnitude code of a finite value leaves the sign bit clear. -/
theorem Fmt.Standard.lt_of_le_maxCode (finite : c ≤ t.maxCode) : c < 2 ^ t.ebits * 2 ^ t.mbits := by
  have := Nat.mul_le_mul shape.four_le shape.two_le
  have top : (2 ^ t.ebits - 1) * 2 ^ t.mbits ≤ 2 ^ t.ebits * 2 ^ t.mbits := Nat.mul_le_mul_right _ (Nat.sub_le ..)
  revert finite
  unfold Fmt.maxCode
  rw [shape.pow_width_sub_one]
  cases t.specials <;> dsimp only <;> omega

theorem Fmt.Standard.sign_bit (hc : c < 2 ^ t.ebits * 2 ^ t.mbits) : bitsAt (t.signed neg c) (t.width - 1) 1 = neg.toNat := by
  rw [bitsAt, Fmt.signed, shape.pow_width_sub_one]
  cases neg
  · simp [Nat.div_eq_of_lt hc]
  · simp [Nat.add_div_left _ (by omega : 0 < 2 ^ t.ebits * 2 ^ t.mbits), Nat.div_eq_of_lt hc]

theorem Fmt.Standard.exponent_field (hc : c < 2 ^ t.ebits * 2 ^ t.mbits) : bitsAt (t.signed neg c) t.mbits t.ebits = c / 2 ^ t.mbits := by
  have fits : c / 2 ^ t.mbits < 2 ^ t.ebits := Nat.div_lt_of_lt_mul (Nat.mul_comm .. ▸ hc)
  rw [bitsAt, Fmt.signed, shape.pow_width_sub_one]
  cases neg
  · simp [Nat.mod_eq_of_lt fits]
  · simp [Nat.add_comm _ c, Nat.add_mul_div_right _ _ (Nat.two_pow_pos t.mbits), Nat.mod_eq_of_lt fits]

theorem Fmt.Standard.mantissa_field : bitsAt (t.signed neg c) 0 t.mbits = c % 2 ^ t.mbits := by
  rw [bitsAt, Fmt.signed, shape.pow_width_sub_one]
  cases neg <;> simp

/-- The magnitude codes above the largest finite one: infinity and what follows it, all ones alone, or none. -/
theorem Fmt.Standard.maxCode_lt_iff (hc : c < 2 ^ t.ebits * 2 ^ t.mbits) : t.maxCode < c ↔
    (t.specials = .infAndNan ∧ t.infCode ≤ c) ∨ (t.specials = .oneNan ∧ t.infCode ≤ c ∧ c % 2 ^ t.mbits = 2 ^ t.mbits - 1) := by
  have four := shape.four_le
  have two := shape.two_le
  have infinity : t.infCode + 2 ^ t.mbits = 2 ^ t.ebits * 2 ^ t.mbits := by
    rw [Fmt.infCode, Nat.sub_mul, Nat.one_mul]; exact Nat.sub_add_cancel (Nat.le_mul_of_pos_left _ (by omega))
  have positive : 0 < t.infCode := Nat.mul_pos (by omega) (by omega)
  unfold Fmt.maxCode
  rw [shape.pow_width_sub_one, ← infinity, ← Fmt.infCode]
  cases t.specials with
  | infAndNan =>
    simp only [reduceCtorEq, false_and, true_and, or_false]
    omega
  | none =>
    simp only [reduceCtorEq, false_and, or_false, iff_false]
    omega
  | oneNan =>
    simp only [reduceCtorEq, false_and, true_and, false_or]
    constructor
    · intro above
      obtain rfl : c = 2 ^ t.mbits - 1 + (2 ^ t.ebits - 1) * 2 ^ t.mbits := by rw [← Fmt.infCode]; omega
      rw [Nat.add_mul_mod_self_right, Nat.mod_eq_of_lt (by omega), ← Fmt.infCode]
      omega
    · rintro ⟨above, last⟩
      obtain ⟨d, rfl⟩ := Nat.exists_eq_add_of_le' above
      rw [Fmt.infCode, Nat.add_mul_mod_self_right, Nat.mod_eq_of_lt (by omega)] at last
      omega

/-- What the code of a sign and a magnitude decodes to. -/
theorem Fmt.Standard.decode_signed (hc : c < 2 ^ t.ebits * 2 ^ t.mbits) :
    t.decode (t.signed neg c) =
      if t.maxCode < c then
        if t.specials = .infAndNan ∧ c % 2 ^ t.mbits = 0 then .inf neg
        else .nan neg (c % 2 ^ t.mbits) (t.specials = .oneNan ∨ bitsAt (c % 2 ^ t.mbits) (t.mbits - 1) 1 = 1)
      else .fin (t.magnitude neg c) := by
  have four := shape.four_le
  have pos := Nat.two_pow_pos t.mbits
  have sign : decide (neg.toNat = 1) = neg := by cases neg <;> rfl
  have sub : c / 2 ^ t.mbits = 0 ↔ c < 2 ^ t.mbits := by simp [Nat.div_eq_zero_iff]
  have fits : c / 2 ^ t.mbits < 2 ^ t.ebits := Nat.div_lt_of_lt_mul (Nat.mul_comm .. ▸ hc)
  have top : c / 2 ^ t.mbits = 2 ^ t.ebits - 1 ↔ t.infCode ≤ c := by
    rw [Fmt.infCode, ← Nat.le_div_iff_mul_le pos]; omega
  rw [Fmt.decode, shape.sign_bit hc, shape.exponent_field hc, shape.mantissa_field]
  simp only [sign, sub, top, shape.maxCode_lt_iff hc]
  by_cases small : c < 2 ^ t.mbits
  · have := Nat.le_mul_of_pos_left (2 ^ t.mbits) (show 0 < 2 ^ t.ebits - 1 by omega)
    have below : ¬ t.infCode ≤ c := by rw [Fmt.infCode]; omega
    simp [small, below, Fmt.magnitude, Fmt.low, Nat.mod_eq_of_lt small, Nat.div_eq_of_lt small]
  · obtain ⟨k, hk⟩ := Nat.exists_eq_succ_of_ne_zero (mt sub.1 small)
    have at_ : ((c / 2 ^ t.mbits : Nat) : Int) - t.bias - t.mbits = t.low + (c / 2 ^ t.mbits - 1 : Nat) := by
      rw [Fmt.low, Fmt.emin, hk]; omega
    rw [if_neg small, at_]
    cases t.specials <;> simp [Fmt.magnitude, small]

/-- A finite magnitude code decodes to its value. -/
theorem Fmt.Standard.decode_finite (finite : c ≤ t.maxCode) : t.decode (t.signed neg c) = .fin (t.magnitude neg c) := by
  rw [shape.decode_signed (shape.lt_of_le_maxCode finite), if_neg (Nat.not_lt.2 finite)]

theorem Fmt.Standard.decode_infCode (special : t.specials = .infAndNan) : t.decode (t.signed neg t.infCode) = .inf neg := by
  have top : t.infCode < 2 ^ t.ebits * 2 ^ t.mbits :=
    Nat.mul_lt_mul_of_pos_right (Nat.sub_lt (Nat.two_pow_pos _) Nat.one_pos) (Nat.two_pow_pos _)
  rw [shape.decode_signed top, if_pos ((shape.maxCode_lt_iff top).2 (.inl ⟨special, Nat.le_refl _⟩)), if_pos ⟨special, Nat.mul_mod_left ..⟩]

theorem Fmt.Standard.decode_maxCode : t.decode t.maxCode = .fin (t.magnitude false t.maxCode) := by
  have code : t.signed false t.maxCode = t.maxCode := Nat.zero_add _
  rw [← shape.decode_finite (Nat.le_refl _), code]

theorem Fmt.Standard.isNan_nanCode (special : t.specials = .oneNan) : t.isNan (t.signed neg t.nanCode) = true := by
  have four := Nat.mul_le_mul shape.four_le shape.two_le
  have code : t.nanCode = 2 ^ t.ebits * 2 ^ t.mbits - 1 := by rw [Fmt.nanCode, special, ← shape.pow_width_sub_one]
  have most : t.maxCode = 2 ^ t.ebits * 2 ^ t.mbits - 2 := by rw [Fmt.maxCode, special, ← shape.pow_width_sub_one]
  rw [Fmt.isNan, shape.decode_signed (by omega), if_pos (by omega), if_neg (by simp [special])]

theorem Fmt.Standard.exists_signed (hcode : code < 2 ^ t.width) : ∃ neg c, c < 2 ^ t.ebits * 2 ^ t.mbits ∧ code = t.signed neg c := by
  have twice : 2 ^ t.width = 2 * (2 ^ t.ebits * 2 ^ t.mbits) := by
    rw [← shape.pow_width_sub_one, ← Nat.pow_succ']; congr 1; rw [shape.fields]; omega
  simp only [Fmt.signed, shape.pow_width_sub_one]
  rcases Nat.lt_or_ge code (2 ^ t.ebits * 2 ^ t.mbits) with low | high
  · exact ⟨false, code, low, by simp⟩
  · exact ⟨true, code - 2 ^ t.ebits * 2 ^ t.mbits, by omega, by rw [if_pos rfl]; omega⟩

/-- A finite value is that of a sign and a finite magnitude code. -/
theorem Fmt.Standard.of_decode_eq_fin (hcode : code < 2 ^ t.width) (value : t.decode code = .fin x) :
    ∃ neg c, c ≤ t.maxCode ∧ code = t.signed neg c ∧ x = t.magnitude neg c := by
  obtain ⟨neg, c, hc, rfl⟩ := shape.exists_signed hcode
  rw [shape.decode_signed hc] at value
  split at value
  · split at value <;> cases value
  next finite => exact ⟨neg, c, Nat.not_lt.1 finite, rfl, (Num.fin.inj value).symm⟩

theorem Fmt.Standard.flush_lt (daz : Bool) (a : Nat) : t.flush daz a < 2 ^ t.width := by
  have sign : bitsAt a (t.width - 1) 1 < 2 := Nat.mod_lt _ Nat.two_pos
  have twice : 2 ^ t.width = 2 * 2 ^ (t.width - 1) := by rw [← Nat.pow_succ']; congr 1; rw [shape.fields]; omega
  unfold Fmt.flush
  split
  · rw [twice]; exact Nat.mul_lt_mul_of_pos_right sign (Nat.two_pow_pos _)
  · exact Nat.mod_lt _ (Nat.two_pow_pos _)

end

/-! ## Rounding to a format (R138 to R140) -/

/-- The exponent of the quantum that R138 gives a magnitude: that of its binade, not below the least. -/
def Fmt.quantum (t : Fmt) (x : Mag) : Int := max ((x.m.log2 : Int) + x.e - t.mbits) t.low

/-- The code, of any size, of the rounded number of quanta. -/
def Fmt.roundedCode (t : Fmt) (mode : Rounding) (x : Mag) : Nat :=
  (quanta mode x (t.quantum x)).1 + (t.quantum x - t.low).toNat * 2 ^ t.mbits

section
variable {t : Fmt} {mode : Rounding} {ftz sat : Bool} {x : Mag} {c : Nat}

theorem Fmt.low_le_quantum (t : Fmt) (x : Mag) : t.low ≤ t.quantum x := Int.le_max_right ..

/-- No magnitude has more quanta than twice the least normal significand. -/
theorem Fmt.quanta_quantum_le (exact : x.more = false) : (quanta mode x (t.quantum x)).1 ≤ 2 ^ (t.mbits + 1) := by
  have binade : (x.m.log2 : Int) + x.e - t.mbits ≤ t.quantum x := Int.le_max_left ..
  have below : x.m < 2 ^ (x.m.log2 + 1) := Nat.lt_log2_self
  rcases (Int.lt_or_le x.e (t.quantum x)).symm with fine | coarse
  · rw [quanta_of_le exact fine]
    calc x.m * 2 ^ (x.e - t.quantum x).toNat ≤ 2 ^ (x.m.log2 + 1) * 2 ^ (x.e - t.quantum x).toNat := Nat.mul_le_mul_right _ (Nat.le_of_lt below)
      _ = 2 ^ (x.m.log2 + 1 + (x.e - t.quantum x).toNat) := (Nat.pow_add ..).symm
      _ ≤ 2 ^ (t.mbits + 1) := Nat.pow_le_pow_right Nat.two_pos (by omega)
  · obtain ⟨_, excess⟩ := quanta_mem (mode := mode) exact coarse rfl
    have most : x.m < 2 ^ (t.mbits + 1) * 2 ^ (t.quantum x - x.e).toNat :=
      calc x.m < 2 ^ (x.m.log2 + 1) := below
        _ ≤ 2 ^ (t.mbits + 1 + (t.quantum x - x.e).toNat) := Nat.pow_le_pow_right Nat.two_pos (by omega)
        _ = _ := Nat.pow_add ..
    have : (quanta mode x (t.quantum x)).1 * 2 ^ (t.quantum x - x.e).toNat < (2 ^ (t.mbits + 1) + 1) * 2 ^ (t.quantum x - x.e).toNat := by
      rw [Nat.succ_mul]; omega
    exact Nat.le_of_lt_succ (Nat.lt_of_mul_lt_mul_right this)

/-- Above the least quantum a magnitude has a normal significand. -/
theorem Fmt.le_quanta_quantum (exact : x.more = false) (nonzero : x.m ≠ 0) :
    (t.quantum x - t.low).toNat = 0 ∨ 2 ^ t.mbits ≤ (quanta mode x (t.quantum x)).1 := by
  refine Decidable.or_iff_not_imp_left.2 fun above => ?_
  have binade : t.quantum x = (x.m.log2 : Int) + x.e - t.mbits := by unfold Fmt.quantum at above ⊢; omega
  have least : 2 ^ x.m.log2 ≤ x.m := Nat.log2_self_le nonzero
  rcases (Int.lt_or_le x.e (t.quantum x)).symm with fine | coarse
  · rw [quanta_of_le exact fine]
    calc 2 ^ t.mbits = 2 ^ x.m.log2 * 2 ^ (x.e - t.quantum x).toNat := by rw [← Nat.pow_add]; congr 1; omega
      _ ≤ _ := Nat.mul_le_mul_right _ least
  · refine Nat.le_trans ((Nat.le_div_iff_mul_le (Nat.two_pow_pos _)).2 ?_) (quanta_mem exact coarse rfl).1
    rw [← Nat.pow_add, show t.mbits + (t.quantum x - x.e).toNat = x.m.log2 by omega]
    exact least

/-- The rounded code has the value of the rounded number of quanta. -/
theorem Fmt.units_roundedCode (exact : x.more = false) (nonzero : x.m ≠ 0) :
    t.units (t.roundedCode mode x) = (quanta mode x (t.quantum x)).1 * 2 ^ (t.quantum x - t.low).toNat :=
  units_add_mul (quanta_quantum_le exact) (le_quanta_quantum exact nonzero)

/-- Rounding delivers the rounded code where it is finite, with the flags of R138 and R140. -/
theorem Fmt.round_eq (exact : x.more = false) (nonzero : x.m ≠ 0) :
    t.round mode ftz sat x =
      let lost := (quanta mode x (t.quantum x)).2
      if t.roundedCode mode x < 2 ^ t.mbits then
        if ftz then (t.signed x.neg 0, flagUF ||| flagNX)
        else (t.signed x.neg (t.roundedCode mode x), flagIf lost flagNX ||| flagIf lost flagUF)
      else if t.maxCode < t.roundedCode mode x then (t.overflow mode sat x.neg, flagOF ||| flagNX)
      else (t.signed x.neg (t.roundedCode mode x), flagIf lost flagNX) := by
  have most := quanta_quantum_le (t := t) (mode := mode) exact
  have least := le_quanta_quantum (t := t) (mode := mode) exact nonzero
  have power : 2 ^ (t.mbits + 1) = 2 * 2 ^ t.mbits := Nat.pow_succ' ..
  have above := t.low_le_quantum x
  have cast : (2 : Int) ^ t.mbits = (2 ^ t.mbits : Nat) := (Int.natCast_pow ..).symm
  rw [Fmt.round, if_neg (by simp [Mag.zero, nonzero])]
  have low : t.emin - (t.mbits : Int) = t.low := rfl
  have quantum : max ((x.m.log2 : Int) + x.e - t.mbits) t.low = t.quantum x := rfl
  unfold Fmt.roundedCode
  simp only [low, quantum, cast]
  generalize quanta mode x (t.quantum x) = r at *
  generalize hk : (t.quantum x - t.low).toNat = k at *
  by_cases carry : r.1 = 2 ^ (t.mbits + 1)
  · have normal : ¬ r.1 + k * 2 ^ t.mbits < 2 ^ t.mbits := by omega
    have code : ((2 ^ t.mbits : Nat) : Int) - (2 ^ t.mbits : Nat) + (t.quantum x + 1 - t.low + 1) * (2 ^ t.mbits : Nat) =
        (r.1 + k * 2 ^ t.mbits : Nat) := by
      rw [show t.quantum x + 1 - t.low + 1 = k + 2 by omega, carry, power, Int.add_mul, Int.natCast_add, Int.natCast_mul k]
      omega
    simp only [if_pos carry, if_neg (Nat.lt_irrefl _), if_neg normal, code, Int.ofNat_lt, Int.toNat_natCast]
  · have code : (r.1 : Int) - (2 ^ t.mbits : Nat) + (t.quantum x - t.low + 1) * (2 ^ t.mbits : Nat) = (r.1 + k * 2 ^ t.mbits : Nat) := by
      rw [show t.quantum x - t.low + 1 = k + 1 by omega, Int.add_mul, Int.natCast_add, Int.natCast_mul k]
      omega
    simp only [if_neg carry, code, Int.ofNat_lt, Int.toNat_natCast]
    rcases least with rfl | normal
    · simp only [Nat.zero_mul, Nat.add_zero]
    · simp only [Nat.not_lt.2 normal, Nat.not_lt.2 (Nat.le_add_right_of_le normal), if_false]

/-- Magnitudes of one value have one binade. -/
theorem log2_mul_two_pow {m : Nat} (nonzero : m ≠ 0) (k : Nat) : (m * 2 ^ k).log2 = m.log2 + k := by
  induction k with
  | zero => rw [Nat.pow_zero, Nat.mul_one, Nat.add_zero]
  | succ k ih =>
    have : m * 2 ^ k ≠ 0 := Nat.mul_ne_zero nonzero (Nat.ne_of_gt (Nat.two_pow_pos k))
    rw [Nat.pow_succ', Nat.mul_left_comm, Nat.log2_two_mul this, ih, Nat.add_assoc]

/-- The quantum of a magnitude with the value of a code is that of the code. -/
theorem Fmt.quantum_of_units (hx : t.low ≤ x.e) (nonzero : x.m ≠ 0) (value : x.m * 2 ^ (x.e - t.low).toNat = t.units c) :
    t.quantum x = (t.magnitude x.neg c).e := by
  have binade := log2_mul_two_pow nonzero (x.e - t.low).toNat
  have pos := Nat.two_pow_pos t.mbits
  rw [value, Fmt.units] at binade
  rw [Fmt.quantum, Fmt.magnitude]
  dsimp only
  by_cases small : c < 2 ^ t.mbits
  · have : c ≠ 0 := by
      rintro rfl
      exact Nat.mul_ne_zero nonzero (Nat.ne_of_gt (Nat.two_pow_pos _)) (value.trans (units_of_lt small))
    rw [if_pos small, Nat.div_eq_of_lt small, Nat.zero_sub, Nat.pow_zero, Nat.mul_one] at binade
    have := (Nat.log2_lt this).2 small
    rw [Nat.div_eq_of_lt small]
    omega
  · have significand : (2 ^ t.mbits + c % 2 ^ t.mbits).log2 = t.mbits := by
      have := Nat.mod_lt c pos
      rw [Nat.log2_eq_iff (by omega), Nat.pow_succ]
      omega
    rw [if_neg small, log2_mul_two_pow (by omega), significand] at binade
    omega

/-- A value that the format holds rounds to its own code (R138). -/
theorem Fmt.round_of_units (hx : t.low ≤ x.e) (exact : x.more = false) (nonzero : x.m ≠ 0) (finite : c ≤ t.maxCode)
    (value : x.m * 2 ^ (x.e - t.low).toNat = t.units c) : t.round mode false sat x = (t.signed x.neg c, 0) := by
  have quantum := quantum_of_units hx nonzero value
  have whole : quanta mode x (t.quantum x) = ((t.magnitude x.neg c).m, false) :=
    quanta_of_whole exact hx (t.low_le_quantum x) (by rw [quantum, t.magnitude_units, value])
  have code : t.roundedCode mode x = c := by
    apply t.units_injective
    rw [units_roundedCode exact nonzero, whole, quantum, t.magnitude_units]
  rw [round_eq exact nonzero, code, whole]
  simp [Nat.not_lt.2 finite, flagIf]

theorem Fmt.round_zero (exact : x.more = false) (zero : x.m = 0) : t.round mode ftz sat x = (t.signed x.neg 0, 0) := by
  rw [Fmt.round, if_pos (by simp [Mag.zero, exact, zero])]

/-- A code of a finite value rounds to itself. -/
theorem Fmt.Standard.round_decode (shape : t.Standard) {code : Nat} (hcode : code < 2 ^ t.width) (value : t.decode code = .fin x) :
    t.round mode false sat x = (code, 0) := by
  obtain ⟨neg, c, finite, rfl, rfl⟩ := shape.of_decode_eq_fin hcode value
  by_cases zero : (t.magnitude neg c).m = 0
  · have pos := Nat.two_pow_pos t.mbits
    obtain rfl : c = 0 := by
      simp only [Fmt.magnitude] at zero
      split at zero <;> omega
    exact round_zero rfl zero
  · exact round_of_units (t.low_le_magnitude neg c) rfl zero finite (t.magnitude_units neg c)

/-- The rounded code is subnormal where the rounded value is tiny. -/
theorem Fmt.roundedCode_lt_iff (exact : x.more = false) (nonzero : x.m ≠ 0) : t.roundedCode mode x < 2 ^ t.mbits ↔
    (quanta mode x (t.quantum x)).1 * 2 ^ (t.quantum x - t.low).toNat < 2 ^ t.mbits := by
  rw [← units_roundedCode exact nonzero, units_lt_iff]

theorem Fmt.roundedCode_le_iff (exact : x.more = false) (nonzero : x.m ≠ 0) : t.roundedCode mode x ≤ t.maxCode ↔
    (quanta mode x (t.quantum x)).1 * 2 ^ (t.quantum x - t.low).toNat ≤ t.units t.maxCode := by
  rw [← units_roundedCode exact nonzero, t.units_le_units_iff]

/-- A tiny result is flushed where the context asks (R140). -/
theorem Fmt.round_flushed (exact : x.more = false) (nonzero : x.m ≠ 0) (tiny : t.roundedCode mode x < 2 ^ t.mbits) :
    t.round mode true sat x = (t.signed x.neg 0, flagUF ||| flagNX) := by
  rw [round_eq exact nonzero, if_pos tiny, if_pos rfl]

/-- A finite result that is not flushed is the rounded code, inexact where a part is lost, with underflow where it is tiny too. -/
theorem Fmt.round_finite (exact : x.more = false) (nonzero : x.m ≠ 0) (finite : t.roundedCode mode x ≤ t.maxCode)
    (kept : t.roundedCode mode x < 2 ^ t.mbits → ftz = false) :
    t.round mode ftz sat x = (t.signed x.neg (t.roundedCode mode x), (if (quanta mode x (t.quantum x)).2 then flagNX else 0) |||
      if (quanta mode x (t.quantum x)).2 ∧ t.roundedCode mode x < 2 ^ t.mbits then flagUF else 0) := by
  rw [round_eq exact nonzero]
  by_cases tiny : t.roundedCode mode x < 2 ^ t.mbits
  · simp [tiny, kept tiny, flagIf]
  · simp [tiny, Nat.not_lt.2 finite, flagIf]

theorem Fmt.Standard.le_maxCode (shape : t.Standard) : 2 ^ t.mbits ≤ t.maxCode := by
  have two := shape.two_le
  have three : 3 * 2 ^ t.mbits ≤ (2 ^ t.ebits - 1) * 2 ^ t.mbits := Nat.mul_le_mul_right _ (Nat.le_sub_one_of_lt shape.four_le)
  have four : 4 * 2 ^ t.mbits ≤ 2 ^ t.ebits * 2 ^ t.mbits := Nat.mul_le_mul_right _ shape.four_le
  unfold Fmt.maxCode
  rw [shape.pow_width_sub_one]
  cases t.specials <;> dsimp only <;> omega

theorem Fmt.Standard.round_overflow (shape : t.Standard) (exact : x.more = false) (nonzero : x.m ≠ 0) (big : t.maxCode < t.roundedCode mode x) :
    t.round mode ftz sat x = (t.overflow mode sat x.neg, flagOF ||| flagNX) := by
  have := shape.le_maxCode
  rw [round_eq exact nonzero, if_neg (by omega), if_pos big]

/-- What a finite result is worth, and its flags (R138, R140). -/
theorem Fmt.Standard.round_value (shape : t.Standard) (exact : x.more = false) (nonzero : x.m ≠ 0) (finite : t.roundedCode mode x ≤ t.maxCode)
    (kept : t.roundedCode mode x < 2 ^ t.mbits → ftz = false) :
    let units := (quanta mode x (t.quantum x)).1 * 2 ^ (t.quantum x - t.low).toNat
    ∃ y, t.decode (t.round mode ftz sat x).1 = .fin y ∧ y.neg = x.neg ∧ t.low ≤ y.e ∧ y.m * 2 ^ (y.e - t.low).toNat = units ∧
      (t.round mode ftz sat x).2 = (if (quanta mode x (t.quantum x)).2 then flagNX else 0) |||
        if (quanta mode x (t.quantum x)).2 ∧ units < 2 ^ t.mbits then flagUF else 0 := by
  simp only [round_finite exact nonzero finite kept, ← roundedCode_lt_iff exact nonzero, and_true]
  exact ⟨_, shape.decode_finite finite, rfl, t.low_le_magnitude .., (t.magnitude_units ..).trans (units_roundedCode exact nonzero)⟩

/-- The directions in which an overflow goes outward. -/
def Rounding.Outward (mode : Rounding) (neg : Bool) : Prop := mode = .ne ∨ (mode = .rd ∧ neg = true) ∨ (mode = .ru ∧ neg = false)

/-- An overflow that goes outward gives infinity, or the NaN of a format without one (R139). -/
theorem Fmt.overflow_outward {neg : Bool} (outward : mode.Outward neg) (special : t.specials ≠ .none) :
    t.overflow mode false neg = t.signed neg (if t.specials = .infAndNan then t.infCode else t.nanCode) := by
  rcases outward with rfl | ⟨rfl, rfl⟩ | ⟨rfl, rfl⟩ <;> simp [Fmt.overflow, special]

theorem Fmt.overflow_infinity {neg : Bool} (outward : mode.Outward neg) (unsat : sat = false) (special : t.specials = .infAndNan) :
    t.overflow mode sat neg = t.signed neg t.infCode := by
  rw [unsat, overflow_outward outward (by simp [special]), if_pos special]

theorem Fmt.overflow_nan {neg : Bool} (outward : mode.Outward neg) (unsat : sat = false) (special : t.specials = .oneNan) :
    t.overflow mode sat neg = t.signed neg t.nanCode := by
  rw [unsat, overflow_outward outward (by simp [special]), if_neg (by simp [special])]

theorem Fmt.overflow_largest {neg : Bool} (inward : ¬ mode.Outward neg ∨ sat = true ∨ t.specials = .none) :
    t.overflow mode sat neg = t.signed neg t.maxCode := by
  refine if_neg fun outward => ?_
  simp only [Bool.and_eq_true, Bool.not_eq_true', decide_eq_true_eq] at outward
  obtain ⟨⟨outward, unsat⟩, special⟩ := outward
  rcases inward with inward | h | h
  · apply inward
    cases mode <;> simp_all [Rounding.Outward]
  · simp [unsat] at h
  · exact special h

end

end Sys2Proof.Machine

/-!
PROOFS. The arithmetic of R225, R226, R228 and R229 as statement O21 says: on operands that are no NaN each form is one rounding of an exact value,
or of a bracket of it, and an integral form delivers a value that the format holds.
-/
namespace Sys2Proof.Machine

/-! ## Operands that are no NaN (R146) -/

section
variable {t : Fmt} {code : Nat} {x : Mag} {neg : Bool}

theorem Fmt.isNan_of_fin (value : t.decode code = .fin x) : t.isNan code = false := by rw [Fmt.isNan, value]

theorem Fmt.isSig_of_fin (value : t.decode code = .fin x) : t.isSig code = false := by rw [Fmt.isSig, value]

theorem Fmt.isNan_of_inf (value : t.decode code = .inf neg) : t.isNan code = false := by rw [Fmt.isNan, value]

/-- Where no source is a NaN the operation gives the result. -/
theorem withNans_of_numbers {dst : Fmt} {srcs : List (Fmt × Nat)} {r : Nat × Flags} (numbers : ∀ s ∈ srcs, s.1.isNan s.2 = false) :
    withNans dst srcs r = r := by
  have : srcs.find? (fun s => s.1.isNan s.2) = none := List.find?_eq_none.2 fun s hs => by simp [numbers s hs]
  rw [withNans, this]

/-- A finite value is exact, and its sign is the sign bit. -/
theorem Fmt.of_decode_fin (value : t.decode code = .fin x) : x.more = false ∧ decide (bitsAt code (t.width - 1) 1 = 1) = x.neg := by
  unfold Fmt.decode at value
  simp only at value
  split at value
  · cases value; exact ⟨rfl, rfl⟩
  · split at value
    · split at value <;> cases value
    · split at value <;> cases value
      exact ⟨rfl, rfl⟩

end

/-! ## Exact values at a common exponent -/

section
variable {x y : Mag} {e u : Int}

theorem Mag.scaled_ofInt (n e : Int) (negZero : Bool) : (Mag.ofInt n e negZero).scaled e = n := by
  simp only [Mag.scaled, Mag.ofInt, Int.sub_self, Int.toNat_zero, Nat.pow_zero, Nat.mul_one]
  by_cases zero : n = 0
  · subst zero; cases negZero <;> rfl
  · rw [if_neg zero]
    by_cases neg : n < 0
    · rw [decide_eq_true neg, if_pos rfl]; omega
    · rw [decide_eq_false neg, if_neg Bool.false_ne_true]; omega

/-- The signed integer of a value in finer units. -/
theorem Mag.scaled_finer (hu : u ≤ e) (he : e ≤ x.e) : x.scaled u = x.scaled e * 2 ^ (e - u).toNat := by
  have : (x.e - u).toNat = (x.e - e).toNat + (e - u).toNat := by omega
  simp only [Mag.scaled, this, Nat.pow_add, ← Nat.mul_assoc, Int.natCast_mul _ (2 ^ (e - u).toNat), Int.natCast_pow, Int.cast_ofNat_Int]
  split
  · exact (Int.neg_mul ..).symm
  · rfl

theorem Mag.scaled_negate (x : Mag) (e : Int) : ({ x with neg := !x.neg } : Mag).scaled e = -x.scaled e := by
  cases h : x.neg <;> simp [Mag.scaled, h]

/-- A sum is exact. -/
theorem Mag.scaled_add (down : Bool) (hu : u ≤ min x.e y.e) : (x.add down y).scaled u = x.scaled u + y.scaled u := by
  have sum : (x.add down y).scaled (min x.e y.e) = x.scaled (min x.e y.e) + y.scaled (min x.e y.e) := Mag.scaled_ofInt ..
  rw [Mag.scaled_finer hu (x := x.add down y) (Int.le_refl _), x.scaled_finer hu (Int.min_le_left ..), y.scaled_finer hu (Int.min_le_right ..), sum, Int.add_mul]

theorem Mag.scaled_add_add {z : Mag} (down : Bool) (hu : u ≤ min (min x.e y.e) z.e) :
    ((x.add down y).add down z).scaled u = x.scaled u + y.scaled u + z.scaled u := by
  rw [Mag.scaled_add down (x := x.add down y) hu, Mag.scaled_add down (Int.le_trans hu (Int.min_le_left ..))]

end

/-! ## Sums and products (R225) -/

section
variable {t : Fmt} {k : FpCtx} {a b c : Nat} {x y z : Mag}

theorem Fmt.add_eq (ha : t.decode (t.flush k.daz a) = .fin x) (hb : t.decode (t.flush k.daz b) = .fin y) :
    t.add k a b = t.round k.mode k.ftz false (x.add k.down y) := by
  rw [Fmt.add, withNans_of_numbers (by simp [Fmt.isNan_of_fin ha, Fmt.isNan_of_fin hb]), ha, hb]; rfl

theorem Fmt.sub_eq (ha : t.decode (t.flush k.daz a) = .fin x) (hb : t.decode (t.flush k.daz b) = .fin y) :
    t.sub k a b = t.round k.mode k.ftz false (x.add k.down { y with neg := !y.neg }) := by
  rw [Fmt.sub, withNans_of_numbers (by simp [Fmt.isNan_of_fin ha, Fmt.isNan_of_fin hb]), ha, hb]; rfl

theorem Fmt.mul_eq (ha : t.decode (t.flush k.daz a) = .fin x) (hb : t.decode (t.flush k.daz b) = .fin y) :
    t.mul k a b = t.round k.mode k.ftz false (x.mul y) := by
  rw [Fmt.mul, withNans_of_numbers (by simp [Fmt.isNan_of_fin ha, Fmt.isNan_of_fin hb]), ha, hb]; rfl

/-- The fused form rounds once (R144). -/
theorem Fmt.fma_eq (fused : k.unfused = false) (ha : t.decode (t.flush k.daz a) = .fin x) (hb : t.decode (t.flush k.daz b) = .fin y)
    (hc : t.decode (t.flush k.daz c) = .fin z) : t.fma k a b c = t.round k.mode k.ftz false ((x.mul y).add k.down z) := by
  rw [Fmt.fma, withNans_of_numbers (by simp [Fmt.isNan_of_fin ha, Fmt.isNan_of_fin hb, Fmt.isNan_of_fin hc]), ha, hb, hc]
  simp only [Num.mul, fused, if_false, Bool.false_eq_true]
  rfl

/-- A value that takes the sign `neg` where it is zero. -/
def Mag.withZeroSign (x : Mag) (neg : Bool) : Mag := if x.zero then { x with neg } else x

theorem Mag.withZeroSign_e (x : Mag) (neg : Bool) : (x.withZeroSign neg).e = x.e := by unfold Mag.withZeroSign; split <;> rfl

theorem Mag.withZeroSign_more (x : Mag) (neg : Bool) : (x.withZeroSign neg).more = x.more := by unfold Mag.withZeroSign; split <;> rfl

theorem Mag.scaled_withZeroSign (x : Mag) (neg : Bool) (e : Int) : (x.withZeroSign neg).scaled e = x.scaled e := by
  unfold Mag.withZeroSign
  split
  next zero => simp [Mag.scaled, show x.m = 0 by simp_all [Mag.zero]]
  next => rfl

/-- The fused dot product rounds the exact sum of both products and the addend once, whatever sign a zero sum takes. -/
theorem Fmt.dot2_eq {x y : Nat → Mag} (fused : k.unfused = false)
    (ha : ∀ i < 2, t.decode (t.flush k.daz (bitsAt a (16 * i) 16)) = .fin (x i))
    (hb : ∀ i < 2, t.decode (t.flush k.daz (bitsAt b (16 * i) 16)) = .fin (y i)) (hc : fp32.decode (fp32.flush k.daz c) = .fin z) :
    ∃ negZero, t.dot2 k a b c =
      fp32.round k.mode k.ftz false (((((x 0).mul (y 0)).add k.down ((x 1).mul (y 1))).add k.down z).withZeroSign negZero) := by
  have a0 : t.decode (t.flush k.daz (bitsAt a 0 16)) = .fin (x 0) := ha 0 (by decide)
  have a1 : t.decode (t.flush k.daz (bitsAt a 16 16)) = .fin (x 1) := ha 1 (by decide)
  have b0 : t.decode (t.flush k.daz (bitsAt b 0 16)) = .fin (y 0) := hb 0 (by decide)
  have b1 : t.decode (t.flush k.daz (bitsAt b 16 16)) = .fin (y 1) := hb 1 (by decide)
  rw [Fmt.dot2, withNans_of_numbers (by simp [Fmt.isNan_of_fin a0, Fmt.isNan_of_fin a1, Fmt.isNan_of_fin b0, Fmt.isNan_of_fin b1, Fmt.isNan_of_fin hc])]
  simp only [fused, if_false, Bool.false_eq_true, a0, a1, b0, b1, hc]
  exact ⟨_, rfl⟩

/-! ## Minima, maxima and comparisons (R226, R146) -/

theorem Num.lt_fin : (Num.fin x).lt (.fin y) = decide (x.scaled (min x.e y.e) < y.scaled (min x.e y.e)) := rfl

/-- Which operand counts as the less: of equal ones, the negative one (R146). -/
def Mag.precedes (x y : Mag) : Bool :=
  decide (x.scaled (min x.e y.e) < y.scaled (min x.e y.e)) || (decide (x.scaled (min x.e y.e) ≤ y.scaled (min x.e y.e)) && x.neg && !y.neg)

theorem Fmt.minmax_eq (larger : Bool) (ha : t.decode (t.flush k.daz a) = .fin x) (hb : t.decode (t.flush k.daz b) = .fin y) :
    t.minmax k larger a b = (if x.precedes y ^^ larger then t.flush k.daz a else t.flush k.daz b, 0) := by
  have notLess : (!decide (y.scaled (min y.e x.e) < x.scaled (min y.e x.e))) = decide (x.scaled (min x.e y.e) ≤ y.scaled (min x.e y.e)) := by
    rw [Int.min_comm, ← decide_not, decide_eq_decide, Int.not_lt]
  rw [Fmt.minmax]
  simp only [Fmt.isNan_of_fin ha, Fmt.isNan_of_fin hb, Fmt.isSig_of_fin ha, Fmt.isSig_of_fin hb, ha, hb, (Fmt.of_decode_fin ha).2,
    (Fmt.of_decode_fin hb).2, Num.lt_fin, notLess]
  rfl

theorem Mag.le_of_precedes (less : x.precedes y = true) : x.scaled (min x.e y.e) ≤ y.scaled (min x.e y.e) := by
  simp only [Mag.precedes, Bool.or_eq_true, Bool.and_eq_true, decide_eq_true_eq] at less
  omega

theorem Mag.le_of_not_precedes (notLess : x.precedes y = false) : y.scaled (min x.e y.e) ≤ x.scaled (min x.e y.e) := by
  simp only [Mag.precedes, Bool.or_eq_false_iff, decide_eq_false_iff_not] at notLess
  omega

/-- A minimum or a maximum is one of the operands, and bounds both. -/
theorem Fmt.minmax_spec (larger : Bool) (ha : t.decode (t.flush k.daz a) = .fin x) (hb : t.decode (t.flush k.daz b) = .fin y) :
    let r := t.minmax k larger a b
    r.2 = 0 ∧ (r.1 = t.flush k.daz a ∨ r.1 = t.flush k.daz b) ∧ ∀ v u, t.decode r.1 = .fin v → u = min v.e (min x.e y.e) →
      if larger then x.scaled u ≤ v.scaled u ∧ y.scaled u ≤ v.scaled u else v.scaled u ≤ x.scaled u ∧ v.scaled u ≤ y.scaled u := by
  rw [minmax_eq larger ha hb]
  refine ⟨rfl, ?_, fun v u value hu => ?_⟩
  · dsimp only
    split
    · exact .inl rfl
    · exact .inr rfl
  · rw [apply_ite t.decode, ha, hb] at value
    cases larger with
    | false =>
      rw [Bool.xor_false] at value
      split at value <;> cases value <;> obtain rfl : u = min x.e y.e := by omega
      next less => exact ⟨Int.le_refl _, Mag.le_of_precedes less⟩
      next notLess => exact ⟨Mag.le_of_not_precedes (Bool.eq_false_iff.2 notLess), Int.le_refl _⟩
    | true =>
      rw [Bool.xor_true] at value
      split at value <;> cases value <;> obtain rfl : u = min x.e y.e := by omega
      next notLess => exact ⟨Int.le_refl _, Mag.le_of_not_precedes (Bool.not_eq_true' _ ▸ notLess)⟩
      next less => exact ⟨Mag.le_of_precedes (by simpa using less), Int.le_refl _⟩

/-- Of two zeros of unlike sign the negative one is the less (R146). -/
theorem Fmt.minmax_zeros (larger : Bool) (ha : t.decode (t.flush k.daz a) = .fin x) (hb : t.decode (t.flush k.daz b) = .fin y)
    (hx : x.m = 0) (hy : y.m = 0) (unlike : x.neg ≠ y.neg) : ∃ v, t.decode (t.minmax k larger a b).1 = .fin v ∧ v.neg = !larger := by
  have less : x.precedes y = x.neg := by
    cases h : x.neg <;> cases h' : y.neg <;> simp_all [Mag.precedes, Mag.scaled]
  rw [minmax_eq larger ha hb, apply_ite t.decode, ha, hb, less, ← apply_ite Num.fin]
  refine ⟨_, rfl, ?_⟩
  cases larger <;> cases h : x.neg <;> simp_all

/-- What condition `cc` of R226 says of two numbers in common units. -/
def comparesTo (cc : Nat) (u v : Int) : Prop :=
  match cc with
  | 0 => u = v | 1 => u ≠ v | 2 => u < v | 3 => u ≤ v | 4 => v < u | 5 => v ≤ u | 6 => False | _ => True

theorem Fmt.compare_spec {cc : Nat} (hcc : cc < 8) (ha : t.decode (t.flush k.daz a) = .fin x) (hb : t.decode (t.flush k.daz b) = .fin y) :
    (t.compare k cc a b).2 = 0 ∧ ((t.compare k cc a b).1 = true ↔ comparesTo cc (x.scaled (min x.e y.e)) (y.scaled (min x.e y.e))) := by
  simp only [Fmt.compare, Fmt.isNan_of_fin ha, Fmt.isNan_of_fin hb, Fmt.isSig_of_fin ha, Fmt.isSig_of_fin hb, ha, hb, Num.lt_fin, Int.min_comm y.e]
  generalize x.scaled (min x.e y.e) = u
  generalize y.scaled (min x.e y.e) = v
  refine ⟨by simp [flagIf], ?_⟩
  rcases (by omega : cc = 0 ∨ cc = 1 ∨ cc = 2 ∨ cc = 3 ∨ cc = 4 ∨ cc = 5 ∨ cc = 6 ∨ cc = 7) with rfl | rfl | rfl | rfl | rfl | rfl | rfl | rfl <;>
    simp [comparesTo] <;> omega

/-! ## Reciprocals and roots (R228) -/

/-- The bits of the root come one by one: the square of what is found stays at most `n`, and that of its next step above it. -/
theorem sqrtBits_spec {n k r : Nat} (below : r * r ≤ n) (above : n < (r + 2 ^ k) * (r + 2 ^ k)) :
    sqrtBits n k r * sqrtBits n k r ≤ n ∧ n < (sqrtBits n k r + 1) * (sqrtBits n k r + 1) := by
  induction k generalizing r with
  | zero => exact ⟨below, above⟩
  | succ k ih =>
    rw [sqrtBits]
    split
    next fits => exact ih fits (by rwa [Nat.add_assoc, ← Nat.two_mul, ← Nat.pow_succ'])
    next exceeds => exact ih below (Nat.lt_of_not_le exceeds)

theorem isqrt_spec (n : Nat) : isqrt n * isqrt n ≤ n ∧ n < (isqrt n + 1) * (isqrt n + 1) := by
  apply sqrtBits_spec (Nat.zero_le n)
  rw [Nat.zero_add, ← Nat.pow_add]
  exact Nat.lt_of_lt_of_le Nat.lt_log2_self (Nat.pow_le_pow_right Nat.two_pos (by omega))

/-- The reciprocal brackets the exact value between two steps of at least 64 bits. -/
theorem Mag.recip_spec (nonzero : x.m ≠ 0) : let v := x.recip
    let q := (-x.e - v.e).toNat
    v.neg = x.neg ∧ 2 ^ 63 ≤ v.m ∧ v.e ≤ -x.e ∧ v.m * x.m ≤ 2 ^ q ∧ 2 ^ q < (v.m + 1) * x.m ∧ (v.more = true ↔ v.m * x.m ≠ 2 ^ q) := by
  intro v q
  have hq : q = x.m.log2 + 64 := by simp only [q, v, Mag.recip]; omega
  have parts := Nat.div_add_mod' (2 ^ q) x.m
  have inside := Nat.mod_lt (2 ^ q) (Nat.pos_of_ne_zero nonzero)
  have fields : v = ⟨x.neg, 2 ^ q / x.m, -x.e - q, decide (2 ^ q % x.m ≠ 0)⟩ := by
    rw [hq]; simp only [v, Mag.recip]
  clear_value q v
  subst fields
  simp only [Nat.succ_mul, decide_eq_true_eq, true_and]
  refine ⟨?_, by omega, by omega, by omega, by omega⟩
  calc 2 ^ 63 = 2 ^ q / 2 ^ (x.m.log2 + 1) := by rw [hq, Nat.pow_div (by omega) Nat.two_pos]; congr 1; omega
    _ ≤ 2 ^ q / x.m := Nat.div_le_div_left (Nat.le_of_lt Nat.lt_log2_self) (Nat.pos_of_ne_zero nonzero)

/-- What is at least `2 ^ 126` has a root of at least `2 ^ 63`. -/
theorem le_isqrt {n : Nat} (large : 2 ^ 126 ≤ n) : 2 ^ 63 ≤ isqrt n := by
  refine Nat.le_of_not_lt fun small => ?_
  have := Nat.mul_le_mul (show isqrt n + 1 ≤ 2 ^ 63 by omega) (show isqrt n + 1 ≤ 2 ^ 63 by omega)
  have := (isqrt_spec n).2
  omega

/-- The root brackets the exact value between two steps of at least 64 bits. -/
theorem Mag.root_spec (nonzero : x.m ≠ 0) : let v := x.root
    let q := x.m * 2 ^ (x.e - 2 * v.e).toNat
    v.neg = false ∧ 2 ^ 63 ≤ v.m ∧ 2 * v.e ≤ x.e ∧ v.m * v.m ≤ q ∧ q < (v.m + 1) * (v.m + 1) ∧ (v.more = true ↔ v.m * v.m ≠ q) := by
  intro v q
  have fields : 2 * v.e + 128 ≤ x.e ∧ v = ⟨false, isqrt q, v.e, decide (isqrt q * isqrt q ≠ q)⟩ := by
    simp only [q, v, Mag.root]
    by_cases odd : x.e % 2 = 1
    · have shift : (x.e - 2 * ((x.e - 1 - 128) / 2)).toNat = 129 := by omega
      have twice : 2 * x.m * 2 ^ 128 = x.m * 2 ^ 129 := by omega
      simp only [odd, if_true, shift, twice, and_true]
      omega
    · have shift : (x.e - 2 * ((x.e - 128) / 2)).toNat = 128 := by omega
      simp only [odd, if_false, shift, and_true]
      omega
  obtain ⟨he, fields⟩ := fields
  have large : 2 ^ 126 ≤ q :=
    calc 2 ^ 126 ≤ 2 ^ (x.e - 2 * v.e).toNat := Nat.pow_le_pow_right Nat.two_pos (by omega)
      _ ≤ q := Nat.le_mul_of_pos_left _ (Nat.pos_of_ne_zero nonzero)
  clear_value q v
  rw [fields]
  simp only [decide_eq_true_eq, true_and, and_true]
  exact ⟨le_isqrt large, by omega, isqrt_spec q⟩

/-- The reciprocal root brackets the exact value between two steps of at least 64 bits. -/
theorem Mag.recipRoot_spec (nonzero : x.m ≠ 0) : let v := x.recipRoot
    let q := (-x.e - 2 * v.e).toNat
    v.neg = false ∧ 2 ^ 63 ≤ v.m ∧ 2 * v.e ≤ -x.e ∧ v.m * v.m * x.m ≤ 2 ^ q ∧ 2 ^ q < (v.m + 1) * (v.m + 1) * x.m ∧
      (v.more = true ↔ v.m * v.m * x.m ≠ 2 ^ q) := by
  have pos := Nat.pos_of_ne_zero nonzero
  obtain ⟨k, many, even, fields⟩ : ∃ k, x.m.log2 + 128 ≤ k ∧ (x.e + k) % 2 = 0 ∧ x.recipRoot =
      ⟨false, isqrt (2 ^ k / x.m), -(x.e + k) / 2, decide (isqrt (2 ^ k / x.m) * isqrt (2 ^ k / x.m) * x.m ≠ 2 ^ k)⟩ := by
    refine ⟨_, ?_, ?_, rfl⟩ <;> split <;> omega
  have large : 2 ^ 126 ≤ 2 ^ k / x.m :=
    calc 2 ^ 126 ≤ 2 ^ k / 2 ^ (x.m.log2 + 1) := by
          rw [Nat.pow_div (by omega) Nat.two_pos]; exact Nat.pow_le_pow_right Nat.two_pos (by omega)
      _ ≤ 2 ^ k / x.m := Nat.div_le_div_left (Nat.le_of_lt Nat.lt_log2_self) pos
  have shift : (-x.e - 2 * (-(x.e + k) / 2)).toNat = k := by omega
  obtain ⟨below, above⟩ := isqrt_spec (2 ^ k / x.m)
  rw [fields]
  simp only [shift, decide_eq_true_eq, true_and, and_true]
  exact ⟨le_isqrt large, by omega, (Nat.le_div_iff_mul_le pos).1 below, (Nat.div_lt_iff_lt_mul pos).1 above⟩

/-! ## The form of a function (R228) -/

section
variable {zero inf : Bool → Nat × Flags} {fin : Mag → Nat × Flags} {neg : Bool}

theorem Fmt.function_fin (ha : t.decode (t.flush k.daz a) = .fin x) (nonzero : x.m ≠ 0) : t.function k zero inf fin a = fin x := by
  rw [Fmt.function, withNans_of_numbers (by simp [Fmt.isNan_of_fin ha]), ha]
  exact if_neg (by simp [Mag.zero, nonzero])

theorem Fmt.function_zero (ha : t.decode (t.flush k.daz a) = .fin x) (none_ : x.m = 0) : t.function k zero inf fin a = zero x.neg := by
  rw [Fmt.function, withNans_of_numbers (by simp [Fmt.isNan_of_fin ha]), ha]
  exact if_pos (by simp [Mag.zero, none_, (Fmt.of_decode_fin ha).1])

theorem Fmt.function_inf (ha : t.decode (t.flush k.daz a) = .inf neg) : t.function k zero inf fin a = inf neg := by
  rw [Fmt.function, withNans_of_numbers (by simp [Fmt.isNan_of_inf ha]), ha]

end

/-! ## Rounding to integral values (R229) -/

/-- The formats of the lanes hold every integer up to `2 ^ mbits`, in quanta below one. -/
structure Fmt.HoldsIntegers (t : Fmt) : Prop where
  low : t.low ≤ 0
  mantissa : t.mbits ≤ (-t.low).toNat
  range : 2 ^ t.mbits + (-t.low).toNat * 2 ^ t.mbits ≤ t.maxCode

theorem Fmt.holdsIntegers_of_mem (ht : t ∈ [fp32, fp16, bf16]) : t.HoldsIntegers := by
  have all : ∀ t ∈ [fp32, fp16, bf16], t.low ≤ 0 ∧ t.mbits ≤ (-t.low).toNat ∧ 2 ^ t.mbits + (-t.low).toNat * 2 ^ t.mbits ≤ t.maxCode := by
    decide
  obtain ⟨low, mantissa, range⟩ := all t ht
  exact ⟨low, mantissa, range⟩

/-- The formats of the lanes are formats. -/
theorem Fmt.mem_formats (ht : t ∈ [fp32, fp16, bf16]) : t ∈ [fp32, fp16, bf16, e5m2, e4m3, e3m2, e2m1] :=
  List.mem_append_left [e5m2, e4m3, e3m2, e2m1] ht

theorem Fmt.infAndNan_of_mem (ht : t ∈ [fp32, fp16, bf16]) : t.specials = .infAndNan := by
  have all : ∀ t ∈ [fp32, fp16, bf16], t.specials = .infAndNan := by decide
  exact all t ht

/-- A number of at most `2 ^ mbits` units of `2 ^ s` least quanta has a code. -/
theorem Fmt.exists_units_eq {n s : Nat} (most : n ≤ 2 ^ t.mbits) (fine : t.mbits ≤ s) :
    ∃ c, c ≤ 2 ^ t.mbits + s * 2 ^ t.mbits ∧ t.units c = n * 2 ^ s := by
  have one := units_add_mul (t := t) (n := 2 ^ t.mbits) (k := s) (Nat.pow_le_pow_right Nat.two_pos (by omega)) (.inr (Nat.le_refl _))
  suffices code : ∃ c, t.units c = n * 2 ^ s by
    obtain ⟨c, value⟩ := code
    exact ⟨c, (t.units_le_units_iff ..).1 (by rw [one, value]; exact Nat.mul_le_mul_right _ most), value⟩
  rcases Nat.eq_zero_or_pos n with rfl | pos
  · exact ⟨0, by rw [Nat.zero_mul, units_of_lt (Nat.two_pow_pos _)]⟩
  · have binade : n.log2 ≤ t.mbits :=
      Nat.le_of_lt_succ ((Nat.log2_lt (Nat.ne_of_gt pos)).2 (by rw [Nat.pow_succ]; omega))
    have least : 2 ^ n.log2 ≤ n := Nat.log2_self_le (Nat.ne_of_gt pos)
    have below : n < 2 ^ (n.log2 + 1) := Nat.lt_log2_self
    refine ⟨n * 2 ^ (t.mbits - n.log2) + (s - (t.mbits - n.log2)) * 2 ^ t.mbits, ?_⟩
    rw [units_add_mul]
    · rw [Nat.mul_assoc, ← Nat.pow_add]; congr 2; omega
    · calc n * 2 ^ (t.mbits - n.log2) ≤ 2 ^ (n.log2 + 1) * 2 ^ (t.mbits - n.log2) := Nat.mul_le_mul_right _ (Nat.le_of_lt below)
        _ = 2 ^ (t.mbits + 1) := by rw [← Nat.pow_add]; congr 1; omega
    · refine .inr ?_
      calc 2 ^ t.mbits = 2 ^ n.log2 * 2 ^ (t.mbits - n.log2) := by rw [← Nat.pow_add]; congr 1; omega
        _ ≤ _ := Nat.mul_le_mul_right _ least

theorem Fmt.magnitude_lt (t : Fmt) (neg : Bool) (c : Nat) : (t.magnitude neg c).m < 2 ^ (t.mbits + 1) := by
  have := Nat.mod_lt c (Nat.two_pow_pos t.mbits)
  rw [Fmt.magnitude, Nat.pow_succ]
  dsimp only
  split <;> omega

/-- A finite value rounded to units has a code. -/
theorem Fmt.exists_integral (shape : t.Standard) (integers : t.HoldsIntegers) (mode : Rounding) {code : Nat} (hcode : code < 2 ^ t.width)
    (value : t.decode code = .fin x) : ∃ c, c ≤ t.maxCode ∧ t.units c = (quanta mode x 0).1 * 2 ^ (-t.low).toNat := by
  obtain ⟨neg, c, finite, -, rfl⟩ := shape.of_decode_eq_fin hcode value
  have low := integers.low
  rcases (Int.lt_or_le (t.magnitude neg c).e 0).symm with whole | part
  · refine ⟨c, finite, ?_⟩
    rw [quanta_of_le rfl whole, ← t.magnitude_units neg c, Nat.mul_assoc, ← Nat.pow_add]
    congr 2; omega
  · have small := t.magnitude_lt neg c
    have exact : (t.magnitude neg c).more = false := rfl
    generalize t.magnitude neg c = x at *
    obtain ⟨-, excess⟩ := quanta_mem (mode := mode) exact part rfl
    have two : 2 ≤ 2 ^ (0 - x.e).toNat := Nat.pow_le_pow_right Nat.two_pos (by omega : 1 ≤ (0 - x.e).toNat)
    have half : x.m < 2 ^ t.mbits * 2 ^ (0 - x.e).toNat := Nat.lt_of_lt_of_le (Nat.pow_succ .. ▸ small) (Nat.mul_le_mul_left _ two)
    have fits : (quanta mode x 0).1 * 2 ^ (0 - x.e).toNat < (2 ^ t.mbits + 1) * 2 ^ (0 - x.e).toNat := by rw [Nat.succ_mul]; omega
    obtain ⟨d, bound, value⟩ := exists_units_eq (Nat.le_of_lt_succ (Nat.lt_of_mul_lt_mul_right fits)) integers.mantissa
    exact ⟨d, Nat.le_trans bound integers.range, value⟩

/-- An integral form delivers the value rounded to units, which the format holds, without a flag. -/
theorem Fmt.toIntegral_spec (shape : t.Standard) (integers : t.HoldsIntegers) (mode : Rounding) (ha : t.decode (t.flush k.daz a) = .fin x) :
    ∃ c, c ≤ t.maxCode ∧ t.units c = (quanta mode x 0).1 * 2 ^ (-t.low).toNat ∧ t.toIntegral k mode a = (t.signed x.neg c, 0) := by
  obtain ⟨c, finite, value⟩ := exists_integral shape integers mode (shape.flush_lt k.daz a) ha
  refine ⟨c, finite, value, ?_⟩
  rw [Fmt.toIntegral, withNans_of_numbers (by simp [Fmt.isNan_of_fin ha]), ha]
  by_cases zero : (quanta mode x 0).1 = 0
  · have : c = 0 := by
      apply t.units_injective
      rw [value, zero, Nat.zero_mul, units_of_lt (Nat.two_pow_pos _)]
    dsimp only [Mag.integral]
    rw [zero, round_zero rfl rfl, this]
  · dsimp only [Mag.integral]
    rw [round_of_units integers.low rfl zero finite (by rw [value, ← Int.zero_sub])]

end

/-! ## The statement -/

/-- Settles O21: the code delivered has the value of the rounded number of quanta since magnitude codes count least quanta in order, and each
arithmetic form on operands that are no NaN is a rounding. -/
theorem roundingRules : Obligations.RoundingRules := by
  unfold Obligations.RoundingRules
  refine ⟨?quotient, ?held, ?rounded, ?arithmetic, ?dot, ?special⟩
  case quotient =>
    intro x qe exact coarse q
    exact ⟨fun mode => quanta_lost_iff exact coarse rfl, quanta_rz exact coarse rfl, quanta_rd exact coarse rfl, quanta_ru exact coarse rfl,
      fun n hn => quanta_ne exact coarse rfl hn⟩
  case held => exact fun t mode sat code x ht hcode value => (Fmt.standard_of_mem ht).round_decode hcode value
  case rounded =>
    intro t mode ftz sat x big ht exact nonzero hbig low qe n lost units most tiny r up sign
    have shape := Fmt.standard_of_mem ht
    have largest : big = t.magnitude false t.maxCode := Num.fin.inj (hbig.symm.trans shape.decode_maxCode)
    have hmost : most = t.units t.maxCode := by simp only [most, largest]; exact t.magnitude_units ..
    have tiny_iff : tiny ↔ t.roundedCode mode x < 2 ^ t.mbits := (Fmt.roundedCode_lt_iff exact nonzero).symm
    have finite_iff : units ≤ most ↔ t.roundedCode mode x ≤ t.maxCode := by rw [hmost]; exact (Fmt.roundedCode_le_iff exact nonzero).symm
    refine ⟨?flushed, ?finite, ?overflow⟩
    case flushed =>
      rintro small rfl
      exact Fmt.round_flushed exact nonzero (tiny_iff.1 small)
    case finite =>
      intro fits kept
      exact shape.round_value exact nonzero (finite_iff.1 fits) fun small => kept (tiny_iff.2 small)
    case overflow =>
      intro above
      have result : r = _ := shape.round_overflow exact nonzero (Nat.not_le.1 (mt finite_iff.2 (Nat.not_le.2 above)))
      rw [result]
      refine ⟨rfl, fun outward unsat special => ?_, fun outward unsat special => ?_, fun inward => ?_⟩
      · exact (Fmt.overflow_infinity outward unsat special).symm ▸ shape.decode_infCode special
      · exact ⟨(Fmt.overflow_nan outward unsat special).symm ▸ shape.isNan_nanCode special, Fmt.overflow_nan outward unsat special⟩
      · exact Fmt.overflow_largest inward
  case arithmetic =>
    intro t k a b c x y z ht ha hb hc rounds product e
    have shape := Fmt.standard_of_mem (Fmt.mem_formats ht)
    refine ⟨?sum, ?difference, ?product, ?fused, ?extreme, ?zeros, ?compared, ?reciprocal, ?root, ?reciprocalRoot, ?integral⟩
    case sum => exact ⟨_, rfl, Fmt.add_eq ha hb, rfl, Mag.scaled_add _ (Int.le_refl _)⟩
    case difference =>
      refine ⟨_, rfl, Fmt.sub_eq ha hb, rfl, (Mag.scaled_add _ (Int.le_refl _)).trans ?_⟩
      rw [Mag.scaled_negate, ← Int.sub_eq_add_neg]
    case product => exact ⟨_, rfl, Fmt.mul_eq ha hb, rfl⟩
    case fused => exact fun fused => ⟨_, rfl, Fmt.fma_eq fused ha hb hc, rfl, Mag.scaled_add _ (Int.le_refl _)⟩
    case extreme =>
      intro larger
      obtain ⟨flags, operand, bounds⟩ := Fmt.minmax_spec larger ha hb
      exact ⟨flags, operand, fun v value => bounds v _ value rfl⟩
    case zeros => exact fun larger hx hy unlike => Fmt.minmax_zeros larger ha hb hx hy unlike
    case compared => exact fun cc hcc => Fmt.compare_spec hcc ha hb
    case reciprocal => exact fun nonzero => ⟨_, Fmt.function_fin ha nonzero, Mag.recip_spec nonzero⟩
    case root =>
      exact fun nonzero positive => ⟨_, (Fmt.function_fin ha nonzero).trans (if_neg (by simp [positive])), Mag.root_spec nonzero⟩
    case reciprocalRoot =>
      exact fun nonzero positive => ⟨_, (Fmt.function_fin ha nonzero).trans (if_neg (by simp [positive])), Mag.recipRoot_spec nonzero⟩
    case integral =>
      intro mode
      obtain ⟨c, finite, value, result⟩ := Fmt.toIntegral_spec shape (Fmt.holdsIntegers_of_mem ht) mode ha
      rw [result]
      exact ⟨_, shape.decode_finite finite, rfl, rfl, t.low_le_magnitude .., (t.magnitude_units ..).trans value⟩
  case dot =>
    intro t k a b c x y z ht fused operands hc product
    obtain ⟨negZero, result⟩ := Fmt.dot2_eq fused (fun i hi => (operands i hi).1) (fun i hi => (operands i hi).2) hc
    refine ⟨_, Mag.withZeroSign_more .., result, ?_⟩
    simp only [Mag.withZeroSign_e, Mag.scaled_withZeroSign]
    exact Mag.scaled_add_add _ (Int.min_le_right ..)
  case special =>
    intro t k a neg ht infinite zero bad
    have shape := Fmt.standard_of_mem (Fmt.mem_formats ht)
    have special := Fmt.infAndNan_of_mem ht
    refine ⟨fun ha => ?infinity, fun ha => ?zero, fun x ha nonzero negative => ?negative⟩
    case infinity =>
      have decoded : t.decode (t.flush k.daz a) = .inf neg := ha ▸ shape.decode_infCode special
      and_intros <;> exact Fmt.function_inf decoded
    case zero =>
      have decoded : t.decode (t.flush k.daz a) = .fin (t.magnitude neg 0) := ha ▸ shape.decode_finite (Nat.zero_le _)
      have none_ : (t.magnitude neg 0).m = 0 := if_pos (Nat.two_pow_pos _)
      and_intros <;> exact Fmt.function_zero decoded none_
    case negative =>
      and_intros <;> exact (Fmt.function_fin ha nonzero).trans (if_pos negative)

end Sys2Proof.Machine

/-!
PROOFS. Decoding and encoding agree, as statement O53 says: the fields of the word formats (R162, R167), the codes of fields (R164, R166), the form
that a word's opcode fields name (R165, R176), and the bytes that hold a word (R4). The words of O60 are decoded.
-/
namespace Sys2Proof.Machine

open BitVec (extractLsb'_append_eq_of_le extractLsb'_append_eq_of_add_le extractLsb'_append_eq_right extractLsb'_append_eq_left
  extractLsb'_append_extractLsb'_eq_extractLsb' extractLsb'_eq_self getLsbD_append getLsbD_ofBool)

/-! ## The fields of the scalar formats (R162)

The rules of a concatenation are applied by `simp only`: the arithmetic of the full set rewrites the widths inside it, and then no rule fits. -/

/-- The fields of format SA, and the parts of DEST and of the function field that hold fields of their own. -/
theorem fmtSA_fields (m d a b : BitVec 6) (fn : BitVec 8) :
    let w := fmtSA m d a b fn
    w.extractLsb' 0 6 = m ∧ w.extractLsb' 6 6 = d ∧ w.extractLsb' 12 6 = a ∧ w.extractLsb' 18 6 = b ∧ w.extractLsb' 24 8 = fn ∧
      w.extractLsb' 6 3 = d.extractLsb' 0 3 ∧ w.extractLsb' 24 2 = fn.extractLsb' 0 2 ∧ w.extractLsb' 24 3 = fn.extractLsb' 0 3 ∧
      w.extractLsb' 24 4 = fn.extractLsb' 0 4 ∧ w.extractLsb' 26 3 = fn.extractLsb' 2 3 ∧ w.extractLsb' 28 4 = fn.extractLsb' 4 4 ∧
      w.getLsbD 27 = fn.getLsbD 3 := by
  simp (disch := decide) only [fmtSA, extractLsb'_append_eq_of_add_le, extractLsb'_append_eq_of_le, Nat.reduceSub, extractLsb'_eq_self,
    getLsbD_append, if_neg, and_self]

/-- The fields of formats SI and SM, and the parts of DEST and of the immediate that hold fields of their own. -/
theorem fmtSI_fields (m d a : BitVec 6) (imm : BitVec 14) :
    let w := fmtSI m d a imm
    w.extractLsb' 0 6 = m ∧ w.extractLsb' 6 6 = d ∧ w.extractLsb' 12 6 = a ∧ w.extractLsb' 18 14 = imm ∧
      w.extractLsb' 18 12 = imm.extractLsb' 0 12 ∧ w.extractLsb' 6 3 = d.extractLsb' 0 3 ∧ w.extractLsb' 9 3 = d.extractLsb' 3 3 := by
  simp (disch := decide) only [fmtSI, extractLsb'_append_eq_of_add_le, extractLsb'_append_eq_of_le, Nat.reduceSub, extractLsb'_eq_self, and_self]

/-- The fields of format SB. -/
theorem fmtSB_fields (m : BitVec 6) (z : BitVec 3) (neg : Bool) (off : BitVec 22) :
    let w := fmtSB m z neg off
    w.extractLsb' 0 6 = m ∧ w.extractLsb' 6 3 = z ∧ w.getLsbD 9 = neg ∧ w.extractLsb' 10 22 = off := by
  simp (disch := decide) only [fmtSB, extractLsb'_append_eq_of_add_le, extractLsb'_append_eq_of_le, Nat.reduceSub, extractLsb'_eq_self,
    getLsbD_append, getLsbD_ofBool, if_neg, if_pos, decide_true, Bool.true_and, and_self]

/-- The fields of format SQ. -/
theorem fmtSQ_fields (m d a : BitVec 6) (scope : BitVec 3) (size : BitVec 2) (off : BitVec 9) :
    let w := fmtSQ m d a scope size off
    w.extractLsb' 0 6 = m ∧ w.extractLsb' 6 6 = d ∧ w.extractLsb' 12 6 = a ∧ w.extractLsb' 18 3 = scope ∧ w.extractLsb' 21 2 = size ∧
      w.extractLsb' 23 9 = off := by
  simp (disch := decide) only [fmtSQ, extractLsb'_append_eq_of_add_le, extractLsb'_append_eq_of_le, Nat.reduceSub, extractLsb'_eq_self, and_self]

/-- NEG and the predicate that `s.sel` reads. -/
theorem selFn_fields (z : BitVec 3) (neg : Bool) :
    let fn : BitVec 8 := 0#4 ++ BitVec.ofBool neg ++ z
    fn.extractLsb' 0 3 = z ∧ fn.getLsbD 3 = neg := by
  simp (disch := decide) only [extractLsb'_append_eq_right, getLsbD_append, getLsbD_ofBool, if_neg, if_pos, decide_true, Bool.true_and, and_self]

/-- The scope and the kind of a fence. -/
theorem fenceFn_fields (scope : BitVec 3) (kind : BitVec 2) :
    let fn : BitVec 8 := 0#3 ++ scope ++ kind
    fn.extractLsb' 0 2 = kind ∧ fn.extractLsb' 2 3 = scope := by
  simp (disch := decide) only [extractLsb'_append_eq_right, extractLsb'_append_eq_of_le, Nat.reduceSub, and_self]

/-! ## The codes of fields (R164, R166) -/

theorem sizeOf?_code (size : Size) : sizeOf? size.code = size := by cases size <;> rfl

theorem scopeOf?_code (scope : Scope) : scopeOf? scope.code = some scope := by cases scope <;> rfl

theorem condOf?_code (cc : Cond) : condOf? cc.code = some cc := by cases cc <;> rfl

theorem atomOf?_code (op : AtomOp) : atomOf? op.code = some op := by cases op <;> rfl

theorem counterOf?_code (path : Counter) : counterOf? path.code = some path := by cases path <;> rfl

/-- The two conditions that `s.cmpi` leaves out have no code there. -/
theorem immCondOf_immCode {cc : Cond} (h : (cc != .leu && cc != .gtu) = true) : immCondOf cc.immCode = cc := by
  cases cc <;> first | rfl | cases h

/-- An ordered atomic cannot name flock scope. -/
theorem orderOf_code {ord : Order} (h : ord.encodable = true) : Sys2Proof.orderOf ord.code = ord := by
  cases ord with
  | plain => rfl
  | acq scope => cases scope <;> first | rfl | cases h
  | rel scope => cases scope <;> first | rfl | cases h
  | ar scope => cases scope <;> first | rfl | cases h

/-- The form of a well-formed scalar instruction is the one that its word names. Well-formedness counts where an operand has no code of its own: a
condition of `s.cmpi`, and the order of an atomic. -/
theorem scalarForm?_encodeScalar {i : Instr} {w : BitVec 32} (wf : WellFormed i) (enc : encodeScalar i = some w) : scalarForm? w = some i := by
  cases i
  case sCmpi zd cc a imm =>
    cases enc
    simp only [scalarForm?, fmtSI_fields, extractLsb'_append_eq_left, extractLsb'_append_eq_right, BitVec.reduceToNat, immCondOf_immCode wf]
  case sAtomW op ord d a b | sAtomD op ord d a b =>
    cases enc
    simp only [scalarForm?, fmtSA_fields, extractLsb'_append_eq_left, extractLsb'_append_eq_right, BitVec.reduceToNat, atomOf?_code,
      orderOf_code (ord := ord) wf, Option.map_some]
  all_goals cases enc
  all_goals
    simp only [scalarForm?, integerGroup?, fmtSA_fields, fmtSI_fields, fmtSB_fields, fmtSQ_fields, selFn_fields, fenceFn_fields,
      extractLsb'_append_eq_left, extractLsb'_append_eq_right, BitVec.reduceToNat, sizeOf?_code, scopeOf?_code, condOf?_code, counterOf?_code,
      Option.map_some, Option.bind_some]

/-! ## Scalar words -/

/-- A scalar word decodes to the well-formed instruction that it encodes, and to no other (R165, R438, R440). -/
theorem decodeScalar_eq_ok {w : BitVec 32} {i : Instr} : decodeScalar w = .ok i ↔ WellFormed i ∧ encodeScalar i = some w := by
  unfold decodeScalar
  constructor
  · intro h
    split at h
    · split at h
      next ok => cases h; exact ok.symm
      next => cases h
    · cases h
  · rintro ⟨wf, enc⟩
    rw [scalarForm?_encodeScalar wf enc]
    exact if_pos ⟨enc, wf⟩

/-! ## The fields of a lane word (R167) -/

theorem packLane_major (major : BitVec 8) (w : LaneWord) : (packLane major w).extractLsb' 0 8 = major := extractLsb'_append_eq_right

theorem unpackLane_packLane (major : BitVec 8) (w : LaneWord) : unpackLane (packLane major w) = w := by
  simp (disch := decide) only [unpackLane, packLane, extractLsb'_append_eq_of_add_le, extractLsb'_append_eq_of_le, Nat.reduceSub, extractLsb'_eq_self,
    getLsbD_append, getLsbD_ofBool, if_neg, if_pos, decide_true, Bool.true_and]

theorem ofBool_getLsbD {n : Nat} (w : BitVec n) (i : Nat) : BitVec.ofBool (w.getLsbD i) = w.extractLsb' i 1 := by
  ext j hj
  simp [Nat.lt_one_iff.1 hj]

theorem packLane_unpackLane (w : BitVec 96) : packLane (w.extractLsb' 0 8) (unpackLane w) = w := by
  simp (disch := decide) only [packLane, unpackLane, ofBool_getLsbD, extractLsb'_append_extractLsb'_eq_extractLsb']
  exact extractLsb'_eq_self

/-! ## The form that a lane word names (R175, R176) -/

/-- A lane instruction is well formed when its word fits the shape of its form. -/
theorem wellFormed_of_laneShape {i : Instr} {w : LaneWord} {sh : Shape} (h : laneShape i = some (w, sh)) : wellFormed i = sh.fits w := by
  cases i <;> cases h <;> rfl

/-- A lane instruction has no scalar word. -/
theorem encodeScalar_of_laneShape {i : Instr} {x : LaneWord × Shape} (h : laneShape i = some x) : encodeScalar i = none := by
  cases i <;> first | rfl | cases h

section
variable {sh : Shape} {w : LaneWord} (fits : sh.fits w = true)
include fits

/-- SUB lies in the set that the form accepts. -/
theorem Shape.sub_of_fits : sh.sub.getLsbD w.sub.toNat = true := by
  unfold Shape.fits at fits
  iterate 14 replace fits := (Bool.and_eq_true_iff.1 fits).1
  exact fits

/-- The conditions of the form's own hold. -/
theorem Shape.also_of_fits : sh.also = true := by
  unfold Shape.fits at fits
  exact (Bool.and_eq_true_iff.1 fits).2

end

/-- A form that accepts two SUBs has one of them, as the forms with a variant for pairs do (R238, R243). -/
theorem sub_of_two (k l : BitVec 4) {sub : BitVec 4} (h : (BitVec.ofNat 16 (2 ^ k.toNat ||| 2 ^ l.toNat)).getLsbD sub.toNat = true) :
    sub = k ∨ sub = l := by
  simp only [BitVec.getLsbD_ofNat, Nat.testBit_or, Nat.testBit_two_pow, Bool.and_eq_true, Bool.or_eq_true, decide_eq_true_eq, BitVec.toNat_inj] at h
  exact h.2.imp Eq.symm Eq.symm

/-- A form that accepts one SUB has that SUB. -/
theorem sub_of_one (k : BitVec 4) {sub : BitVec 4} (h : (BitVec.ofNat 16 (2 ^ k.toNat ||| 2 ^ k.toNat)).getLsbD sub.toNat = true) : sub = k :=
  or_self_iff.1 (sub_of_two k k h)

/-- What a word names follows from what it names with its SUB written out. -/
theorem laneForm?_of_sub {m : BitVec 8} {w : LaneWord} {form : LaneWord → Instr} {k : BitVec 4} (sub : w.sub = k)
    (named : ∀ v : LaneWord, laneForm? m { v with sub := k } = some (form { v with sub := k })) : laneForm? m w = some (form w) := by
  rw [show w = { w with sub := k } by rw [← sub]]
  exact named w

/-- The form of a well-formed lane instruction is the one that its word names: SUB, or bit 0 or 15 of IMM, tells the forms of one MAJOR apart. -/
theorem laneForm?_of_fits {i : Instr} {w : LaneWord} {sh : Shape} {m : BitVec 8} (fits : sh.fits w = true) (shape : laneShape i = some (w, sh))
    (major : laneMajor i = some m) : laneForm? m w = some i := by
  have sub := Shape.sub_of_fits fits
  have also_ := Shape.also_of_fits fits
  cases i
  case vNop | vVoteAll | vTravRay => cases shape; cases major; exact laneForm?_of_sub (sub_of_one 0 sub) fun _ => rfl
  case vNopMarker | vVoteAny | vTravRad => cases shape; cases major; exact laneForm?_of_sub (sub_of_one 1 sub) fun _ => rfl
  case vVoteEq | vTosMask | vTravKnn => cases shape; cases major; exact laneForm?_of_sub (sub_of_one 2 sub) fun _ => rfl
  case vVoteBallot | vTosCount | vTravRng => cases shape; cases major; exact laneForm?_of_sub (sub_of_one 3 sub) fun _ => rfl
  case vShflIdx | vTosFirst =>
    cases shape; cases major
    obtain sub | sub := sub_of_two 0 8 sub <;> exact laneForm?_of_sub sub fun _ => by with_unfolding_all rfl
  case vShflUp | vTosLane =>
    cases shape; cases major
    obtain sub | sub := sub_of_two 1 9 sub <;> exact laneForm?_of_sub sub fun _ => by with_unfolding_all rfl
  case vShflDown =>
    cases shape; cases major
    obtain sub | sub := sub_of_two 2 10 sub <;> exact laneForm?_of_sub sub fun _ => by with_unfolding_all rfl
  case vShflXor =>
    cases shape; cases major
    obtain sub | sub := sub_of_two 3 11 sub <;> exact laneForm?_of_sub sub fun _ => by with_unfolding_all rfl
  case vMxMmaRf => cases shape; cases major; exact if_neg (Bool.eq_false_iff.1 (of_decide_eq_true also_).1)
  case vMxMmaOpb => cases shape; cases major; exact if_pos (of_decide_eq_true also_).1
  case vAccDrain => cases shape; cases major; exact if_neg (Bool.eq_false_iff.1 (of_decide_eq_true also_))
  case vAccDrainG => cases shape; cases major; exact if_pos (of_decide_eq_true also_)
  all_goals cases shape
  all_goals cases major; rfl

/-- The form that a word names has that word's fields and MAJOR. -/
theorem laneShape_of_laneForm? {m : BitVec 8} {w : LaneWord} {i : Instr} (h : laneForm? m w = some i) :
    (∃ sh, laneShape i = some (w, sh)) ∧ laneMajor i = some m := by
  have major {n : Nat} (hm : m.toNat = n) : BitVec.ofNat 8 n = m := by rw [← hm, BitVec.ofNat_toNat, BitVec.setWidth_eq]
  unfold laneForm? at h
  -- MAJOR names the form; under some, SUB or a bit of IMM does.
  split at h
  all_goals try split at h
  all_goals cases h
  all_goals exact ⟨⟨_, rfl⟩, congrArg some (major ‹_›)⟩

/-! ## Lane words -/

theorem encodeLane_eq_some {i : Instr} {x : BitVec 96} :
    encodeLane i = some x ↔ ∃ w sh m, laneShape i = some (w, sh) ∧ laneMajor i = some m ∧ packLane m w = x := by
  unfold encodeLane
  cases laneShape i with
  | none => simp
  | some s =>
    obtain ⟨w, sh⟩ := s
    cases laneMajor i <;> simp

/-- A lane word decodes to the well-formed instruction that it encodes, and to no other (R176, R439, R440). -/
theorem decodeLane_eq_ok {x : BitVec 96} {i : Instr} : decodeLane x = .ok i ↔ WellFormed i ∧ encodeLane i = some x := by
  unfold decodeLane
  constructor
  · intro h
    split at h
    next form =>
      obtain ⟨⟨sh, shape⟩, major⟩ := laneShape_of_laneForm? form
      split at h
      next wf => cases h; exact ⟨wf, encodeLane_eq_some.2 ⟨_, sh, _, shape, major, packLane_unpackLane x⟩⟩
      next => cases h
    next => cases h
  · rintro ⟨wf, enc⟩
    obtain ⟨w, sh, m, shape, major, rfl⟩ := encodeLane_eq_some.1 enc
    rw [packLane_major, unpackLane_packLane, laneForm?_of_fits (wellFormed_of_laneShape shape ▸ wf) shape major]
    exact if_pos wf

/-! ## The bytes of a word (R4, R162, R167) -/

/-- The bytes of what some bytes are worth are those bytes. -/
theorem bytesOf_ofBytes (bs : List Byte) : bytesOf bs.length (ofBytes bs) = bs := by
  induction bs with
  | nil => rfl
  | cons b bs ih =>
    have byte := b.isLt
    have low : BitVec.ofNat 8 (b.toNat + 256 * ofBytes bs) = b := BitVec.eq_of_toNat_eq (by rw [BitVec.toNat_ofNat]; omega)
    have high : (b.toNat + 256 * ofBytes bs) / 256 = ofBytes bs := by omega
    rw [List.length_cons, ofBytes, bytesOf, low, high, ih]

/-- A word laid down as bytes reads back. -/
theorem ofNat_ofBytes_bytesOf {n : Nat} (x : BitVec (8 * n)) : BitVec.ofNat (8 * n) (ofBytes (bytesOf n x.toNat)) = x := by
  rw [ofBytes_bytesOf, Nat.mod_eq_of_lt x.isLt, BitVec.ofNat_toNat, BitVec.setWidth_eq]

/-- Bytes read as a word are the bytes of that word. -/
theorem bytesOf_ofNat_ofBytes {n : Nat} {bs : List Byte} (h : bs.length = n) : bytesOf n (BitVec.ofNat (8 * n) (ofBytes bs)).toNat = bs := by
  subst h
  rw [BitVec.toNat_ofNat, Nat.mod_eq_of_lt (ofBytes_lt bs), bytesOf_ofBytes]

section
variable {i : Instr} {bs rest : List Byte}

/-- The scalar section holds four bytes a word. -/
theorem decodeBytes_scalar :
    decodeBytes false bs = some (i, rest) ↔
      4 ≤ bs.length ∧ decodeScalar (BitVec.ofNat 32 (ofBytes (bs.take 4))) = .ok i ∧ rest = bs.drop 4 := by
  simp only [decodeBytes, Bool.false_eq_true, if_false]
  split
  next short => simp [Nat.not_le.2 short]
  next long => cases decodeScalar (BitVec.ofNat 32 (ofBytes (bs.take 4))) <;> simp [Nat.not_lt.1 long, eq_comm]

/-- The lane section holds twelve bytes a word. -/
theorem decodeBytes_lane :
    decodeBytes true bs = some (i, rest) ↔
      12 ≤ bs.length ∧ decodeLane (BitVec.ofNat 96 (ofBytes (bs.take 12))) = .ok i ∧ rest = bs.drop 12 := by
  simp only [decodeBytes, if_true]
  split
  next short => simp [Nat.not_le.2 short]
  next long => cases decodeLane (BitVec.ofNat 96 (ofBytes (bs.take 12))) <;> simp [Nat.not_lt.1 long, eq_comm]

theorem encode_scalar {x : BitVec 32} (h : encodeScalar i = some x) : encode i = some (bytesOf 4 x.toNat) := by rw [encode, h]

theorem encode_lane {x : BitVec 96} (h : encodeLane i = some x) : encode i = some (bytesOf 12 x.toNat) := by
  obtain ⟨_, _, _, shape, -, -⟩ := encodeLane_eq_some.1 h
  rw [encode, encodeScalar_of_laneShape shape, h]
  rfl

/-- What has bytes has a scalar word or a lane word, and not both. -/
theorem words_of_encode (h : encode i = some bs) :
    (∃ x, encodeScalar i = some x ∧ encodeLane i = none ∧ bs = bytesOf 4 x.toNat) ∨ ∃ x, encodeLane i = some x ∧ bs = bytesOf 12 x.toNat := by
  cases lane : encodeLane i with
  | some x => exact .inr ⟨x, rfl, Option.some.inj (h.symm.trans (encode_lane lane))⟩
  | none =>
    cases scalar : encodeScalar i with
    | some x => exact .inl ⟨x, rfl, rfl, Option.some.inj (h.symm.trans (encode_scalar scalar))⟩
    | none => rw [encode, scalar, lane] at h; cases h

end

/-! ## The statements -/

/-- Settles O53: words decode to what encodes to them, and the bytes of a word hold it whole. -/
theorem decodeEncode : Obligations.DecodeEncode := by
  unfold Obligations.DecodeEncode
  have length := Laws.WordLength.length_bytesOf
  refine ⟨fun i bs rest wf enc => ?_, fun lane bs rest i dec => ?_⟩
  · obtain ⟨x, scalar, lane, rfl⟩ | ⟨x, lane, rfl⟩ := words_of_encode enc
    · rw [lane]
      refine decodeBytes_scalar.2 ⟨by simp [length], ?_, (List.drop_left' (length ..)).symm⟩
      rw [List.take_left' (length ..), ofNat_ofBytes_bytesOf (n := 4), decodeScalar_eq_ok]
      exact ⟨wf, scalar⟩
    · rw [lane]
      refine decodeBytes_lane.2 ⟨by simp [length], ?_, (List.drop_left' (length ..)).symm⟩
      rw [List.take_left' (length ..), ofNat_ofBytes_bytesOf (n := 12), decodeLane_eq_ok]
      exact ⟨wf, lane⟩
  · cases lane with
    | false =>
      obtain ⟨long, ok, tail⟩ := decodeBytes_scalar.1 dec
      obtain ⟨wf, enc⟩ := decodeScalar_eq_ok.1 ok
      exact ⟨wf, (encode_scalar enc).trans (congrArg some (bytesOf_ofNat_ofBytes (n := 4) (List.length_take_of_le long))), tail⟩
    | true =>
      obtain ⟨long, ok, tail⟩ := decodeBytes_lane.1 dec
      obtain ⟨wf, enc⟩ := decodeLane_eq_ok.1 ok
      exact ⟨wf, (encode_lane enc).trans (congrArg some (bytesOf_ofNat_ofBytes (n := 12) (List.length_take_of_le long))), tail⟩

/-- Settles O60: each word is decoded by evaluation. -/
theorem decodedWords : Obligations.DecodedWords := by
  unfold Obligations.DecodedWords
  decide

end Sys2Proof.Machine

/-!
PROOFS. The register files, predicates and executing lanes, and the stalls and poison of the scalar stream, as statement O4 says: what a read returns
after a write (R154 to R157), which lanes execute (R157), and what the check of the sources answers (R40, R44, R464).
-/
namespace Sys2Proof.Machine

/-! ## Scalar registers and predicates (R154) -/

section
variable (f : Flock) {n m : Nat}

theorem Flock.setS_zero (v : Word64) : f.setS 0 v = f := if_pos rfl

theorem Flock.sreg_setS (h : n ≠ 0) (v : Word64) : (f.setS n v).sreg m = if m = n then v else f.sreg m := by
  simp only [Flock.sreg, Flock.setS, if_neg h, SMap.get_put]
  by_cases hm : m = n
  · simp [hm, h]
  · simp [hm]

theorem Flock.sreg_setS_same (h : n ≠ 0) (v : Word64) : (f.setS n v).sreg n = v := by rw [f.sreg_setS h, if_pos rfl]

theorem Flock.sreg_setS_other (h : n ≠ m) (v : Word64) : (f.setS n v).sreg m = f.sreg m := by
  by_cases hn : n = 0
  · rw [hn, f.setS_zero]
  · rw [f.sreg_setS hn, if_neg h.symm]

theorem Flock.setZ_seven (v : Bool) : f.setZ 7 v = f := rfl

theorem Flock.zbit_setZ (h : n < 7) (hm : m < 7) (v : Bool) : (f.setZ n v).zbit m = if m = n then v else f.zbit m := by
  have ne : m ≠ 7 := by omega
  simp only [Flock.zbit, Flock.setZ, if_pos h, decide_eq_false ne, Bool.false_or]
  by_cases hn : m = n
  · subst hn
    simp [hm]
  · have apart (x : BitVec 7) (bit : ∀ i, i ≠ 0 → x.getLsbD i = false) : (x <<< n).getLsbD m = false := by
      rw [BitVec.getLsbD_shiftLeft]
      by_cases below : m < n
      · simp [below]
      · rw [bit (m - n) (by omega), Bool.and_false]
    have mask := apart 1#7 fun i hi => by simp [BitVec.getLsbD_one, hi]
    have value := apart ((BitVec.ofBool v).setWidth 7) fun i hi => by simp [BitVec.getLsbD_setWidth, BitVec.getLsbD_ofBool, hi]
    rw [if_neg hn, BitVec.getLsbD_or, BitVec.getLsbD_and, BitVec.getLsbD_not, mask, value]
    simp [hm]

theorem Flock.zbit_setZ_same (h : n < 7) (v : Bool) : (f.setZ n v).zbit n = v := by rw [f.zbit_setZ h h, if_pos rfl]

theorem Flock.zbit_setZ_other (h : n ≠ m) (hm : m ≤ 7) (v : Bool) : (f.setZ n v).zbit m = f.zbit m := by
  by_cases hn : n < 7
  · obtain hm | rfl := Nat.lt_or_eq_of_le hm
    · rw [f.zbit_setZ hn hm, if_neg h.symm]
    · rfl
  · rw [Flock.setZ, if_neg hn]

/-! ## Lane registers and pairs (R154, R155) -/

theorem laneKey_inj {r k l m : Nat} (hl : l < 1024) (hm : m < 1024) (h : laneKey k m = laneKey r l) : k = r ∧ m = l := by
  unfold laneKey at h
  omega

theorem Flock.vreg_setV (r l k j : Nat) (v : Word32) : (f.setV r l v).vreg k j = if laneKey k j = laneKey r l then v else f.vreg k j := SMap.get_put

theorem Flock.vreg_setVpair_low (r l : Nat) (v : Word64) : (f.setVpair r l v).vreg r l = v.extractLsb' 0 32 := by
  rw [Flock.setVpair, Flock.vreg_setV, if_neg (by unfold laneKey; omega), Flock.vreg_setV, if_pos rfl]

theorem Flock.vreg_setVpair_high (r l : Nat) (v : Word64) : (f.setVpair r l v).vreg (r + 1) l = v.extractLsb' 32 32 := by
  rw [Flock.setVpair, Flock.vreg_setV, if_pos rfl]

theorem Flock.vpair_setVpair (r l : Nat) (v : Word64) : (f.setVpair r l v).vpair r l = v := by
  rw [Flock.vpair, f.vreg_setVpair_low, f.vreg_setVpair_high]
  exact BitVec.extractLsb'_append_extractLsb' (w := 32) (len := 32)

/-! ## Lane predicates and the lanes that execute (R157) -/

theorem Flock.setQ_fifteen (on v : LaneMask) : f.setQ 15 on v = f := if_neg (Nat.lt_irrefl 15)

theorem Flock.qbit_setQ {l : Nat} (hn : n < 15) (hm : m < 15) (on v : LaneMask) :
    (f.setQ n on v).qbit m l = if m = n then (f.q.getD n 0 &&& ~~~on ||| v &&& on).getLsbD l else f.qbit m l := by
  have ne : m ≠ 15 := by omega
  simp only [Flock.qbit, Flock.setQ, if_pos hn, decide_eq_false ne, Bool.false_or]
  rw [List.getD_eq_getElem?_getD (l := (List.range 15).map _), List.getElem?_map, List.getElem?_range hm, Option.map_some, Option.getD_some]
  split <;> rfl

theorem Flock.qbit_setQ_same {l : Nat} (hn : n < 15) (hl : l < 1024) (on v : LaneMask) :
    (f.setQ n on v).qbit n l = if on.has l then v.has l else f.qbit n l := by
  have ne : n ≠ 15 := by omega
  rw [f.qbit_setQ hn hn, if_pos rfl, BitVec.getLsbD_or, BitVec.getLsbD_and, BitVec.getLsbD_and, BitVec.getLsbD_not, decide_eq_true hl, Flock.qbit,
    decide_eq_false ne]
  by_cases h : on.has l = true
  · simp [LaneMask.has, show on.getLsbD l = true from h]
  · simp [LaneMask.has, show on.getLsbD l = false from Bool.eq_false_iff.2 h]

theorem mem_laneList {p : Path} {w : LaneWord} {l : Nat} :
    l ∈ laneList f p w ↔ l < f.lanes ∧ p.mask.has l = true ∧ (w.pred = 15 ∨ (f.qbit w.pred.toNat l = true ↔ w.neg = false)) := by
  rw [laneList, LaneMask.lanes, List.mem_filter, List.mem_range, execMask]
  by_cases hp : w.pred = 15
  · simp [hp]
  · have ne : w.pred.toNat ≠ 15 := fun h => hp (BitVec.eq_of_toNat_eq h)
    rw [if_neg hp, Flock.qbit, decide_eq_false ne, Bool.false_or, or_iff_right hp]
    simp only [LaneMask.has]
    cases w.neg with
    | false => simp
    | true =>
      have inside (h : p.mask.getLsbD l = true) : l < 1024 := BitVec.lt_of_getLsbD h
      simp +contextual [inside]

end

/-! ## Empty and poisoned sources (R40, R44, R464) -/

section
variable {s : State} {f : Flock} {rs : List (BitVec 6)}

theorem Flock.sFull_iff {r : BitVec 6} : f.sFull r.toNat = true ↔ r = 0 ∨ r.toNat ∉ f.sEmpty := by
  simp [Flock.sFull, ← BitVec.toNat_inj]

/-- While a source is empty the instruction waits. -/
theorem Flock.useS_empty {r : BitVec 6} (mem : r ∈ rs) (zero : r ≠ 0) (empty : r.toNat ∈ f.sEmpty) : f.useS rs = waitsEmpty := by
  have notFull : ¬ f.sFull r.toNat = true := fun full => (Flock.sFull_iff.1 full).elim zero (· empty)
  refine if_pos ?_
  rw [Bool.not_eq_true', ← Bool.not_eq_true, List.all_eq_true]
  exact fun full => notFull (full r mem)

/-- Full sources of which one is poisoned trap; `born` says whether all their poison arose in registers. -/
theorem Flock.useS_poisoned {r : BitVec 6} {born : Bool} (full : ∀ r ∈ rs, r = 0 ∨ r.toNat ∉ f.sEmpty) (mem : r ∈ rs) (zero : r ≠ 0)
    (poisoned : r.toNat ∈ f.sPoison) (arose : born = true ↔ ∀ r ∈ rs, ¬ (r ≠ 0 ∧ r.toNat ∈ f.sPoison ∧ r.toNat ∉ f.sBorn)) :
    f.useS rs = .error (.trap (f.poisonTrap 0 born)) := by
  have allFull : (rs.all fun r => f.sFull r.toNat) = true := List.all_eq_true.2 fun r h => Flock.sFull_iff.2 (full r h)
  have onePoisoned : (rs.any fun r => decide (r ≠ 0) && f.sPoison.contains r.toNat) = true :=
    List.any_eq_true.2 ⟨r, mem, Bool.and_eq_true_iff.2 ⟨decide_eq_true zero, List.contains_iff_mem.2 poisoned⟩⟩
  have same : (rs.all fun r => decide (r = 0) || !f.sPoison.contains r.toNat || f.sBorn.contains r.toNat) = born := by
    rw [Bool.eq_iff_iff, arose, List.all_eq_true]
    refine forall₂_congr fun r _ => ?_
    rw [Bool.or_eq_true, Bool.or_eq_true, Bool.not_eq_true', ← Bool.not_eq_true, List.contains_iff_mem, List.contains_iff_mem, decide_eq_true_eq,
      or_assoc, Classical.not_and_iff_not_or_not, Classical.not_and_iff_not_or_not, Classical.not_not, Classical.not_not]
  rw [Flock.useS, allFull, onePoisoned, same]
  rfl

/-- Two full sources of which one is poisoned. -/
theorem Flock.useS_two_poisoned {a b : BitVec 6} {born : Bool} (fullA : a = 0 ∨ a.toNat ∉ f.sEmpty) (fullB : b = 0 ∨ b.toNat ∉ f.sEmpty)
    (poisoned : a ≠ 0 ∧ a.toNat ∈ f.sPoison ∨ b ≠ 0 ∧ b.toNat ∈ f.sPoison)
    (arose : born = true ↔ ¬ (a ≠ 0 ∧ a.toNat ∈ f.sPoison ∧ a.toNat ∉ f.sBorn ∨ b ≠ 0 ∧ b.toNat ∈ f.sPoison ∧ b.toNat ∉ f.sBorn)) :
    f.useS [a, b] = .error (.trap (f.poisonTrap 0 born)) := by
  have full : ∀ r ∈ [a, b], r = 0 ∨ r.toNat ∉ f.sEmpty := List.forall_mem_cons.2 ⟨fullA, List.forall_mem_singleton.2 fullB⟩
  have each : born = true ↔ ∀ r ∈ [a, b], ¬ (r ≠ 0 ∧ r.toNat ∈ f.sPoison ∧ r.toNat ∉ f.sBorn) := by
    rwa [List.forall_mem_cons, List.forall_mem_singleton, ← not_or]
  obtain ⟨zero, poisoned⟩ | ⟨zero, poisoned⟩ := poisoned
  · exact Flock.useS_poisoned full (by simp) zero poisoned each
  · exact Flock.useS_poisoned full (by simp) zero poisoned each

theorem Flock.poisonTrap_loaded (f : Flock) :
    f.poisonTrap 0 false = { cause := 0x17, addr := f.poisonAddr, info := BitVec.ofNat 64 (f.poisonKind.toNat * 2 ^ 11) } := by
  simp [Flock.poisonTrap]

theorem Flock.poisonTrap_born (f : Flock) : f.poisonTrap 0 true = { cause := 0x17 } := by simp [Flock.poisonTrap]

variable {rest : State → Flock → Res State} (issues : IssuesScalar s f)
include issues

/-- What an instruction that reads scalar registers first answers where they hold it up. -/
theorem runScalar_useS_wait {empty : Bool} (use : f.useS rs = .error (.wait empty)) :
    runScalar (fun s f => do f.useS rs; rest s f) s = .next (s.waiting empty) := by
  rw [runScalar_eq issues, use]
  rfl

theorem runScalar_useS_trap {t : Trap} (use : f.useS rs = .error (.trap t)) (kept : t.kept = []) :
    runScalar (fun s f => do f.useS rs; rest s f) s = .next (s.takeTrap f.uid .scalar t) := by
  rw [runScalar_eq issues, use]
  show Host.Outcome.next ((t.stateOf s).takeTrap f.uid .scalar t) = _
  rw [Trap.stateOf, kept]
  rfl

end

/-- The forms of R190 to R192 and R194 with two sources. -/
def twoSourceForms (d a b : BitVec 6) (zd : BitVec 3) (cc : Cond) : List Instr :=
  [.sAdd d a b, .sSub d a b, .sMul d a b, .sMulh d a b, .sMulhu d a b, .sDiv d a b, .sDivu d a b, .sRem d a b, .sRemu d a b,
    .sAnd d a b, .sOr d a b, .sXor d a b, .sShl d a b, .sShr d a b, .sSra d a b, .sMin d a b, .sMinu d a b, .sMax d a b, .sMaxu d a b,
    .sBitint d a b, .sCmp zd cc a b]

theorem scalarWrite_reads {s : State} {d : BitVec 6} {srcs : List (BitVec 6)} {value : Flock → Word64} :
    ∃ rest : State → Flock → Res State, scalarWrite d srcs value s = runScalar (fun s f => do f.useS srcs; rest s f) s := ⟨_, rfl⟩

theorem scalarTest_reads {s : State} {zd : BitVec 3} {srcs : List (BitVec 6)} {value : Flock → Bool} :
    ∃ rest : State → Flock → Res State, scalarTest zd srcs value s = runScalar (fun s f => do f.useS srcs; rest s f) s := ⟨_, rfl⟩

/-- Each of them reads its two sources before all else. -/
theorem exec_twoSourceForms {d a b : BitVec 6} {zd : BitVec 3} {cc : Cond} {s : State} :
    ∀ i ∈ twoSourceForms d a b zd cc, ∃ rest : State → Flock → Res State, exec i s = runScalar (fun s f => do f.useS [a, b]; rest s f) s := by
  iterate 20 refine List.forall_mem_cons.2 ⟨scalarWrite_reads, ?_⟩
  exact List.forall_mem_singleton.2 scalarTest_reads

/-- Settles O4: the register files and predicates read as they were written, and sources that are empty or poisoned hold an instruction up. -/
theorem registersAndStalls : Obligations.RegistersAndStalls := by
  unfold Obligations.RegistersAndStalls
  refine ⟨⟨?scalars, ?predicates, ?lanes, ?pairs, ?lanePredicates, fun f p w l => mem_laneList f⟩, ?stalls⟩
  case scalars => exact fun f n m v => ⟨rfl, f.setS_zero v, fun h => f.sreg_setS_same h v, fun h => f.sreg_setS_other h v⟩
  case predicates => exact fun f n m v => ⟨rfl, f.setZ_seven v, fun h => f.zbit_setZ_same h v, fun h hm => f.zbit_setZ_other h hm v⟩
  case lanes =>
    intro f r l v
    refine ⟨by rw [f.vreg_setV, if_pos rfl], fun k m hl hm other => ?_⟩
    rw [f.vreg_setV, if_neg]
    intro same
    obtain ⟨register, lane⟩ := laneKey_inj hl hm same
    exact other.elim (· register) (· lane)
  case pairs =>
    intro f r l v
    exact ⟨f.vpair_setVpair r l v, (f.vreg_setVpair_low r l v).trans (BitVec.setWidth_eq_extractLsb' (by decide)).symm⟩
  case lanePredicates =>
    intro f n m l on v
    refine ⟨rfl, f.setQ_fifteen on v, fun hn hl => f.qbit_setQ_same hn hl on v, fun hn hm h => ?_⟩
    rw [f.qbit_setQ hn hm, if_neg h.symm]
  case stalls =>
    intro s f d a b zd cc i issues form
    obtain ⟨rest, reads⟩ := exec_twoSourceForms i form
    rw [reads]
    refine ⟨fun empty => runScalar_useS_wait issues ?empty, fun fullA fullB poisoned => ⟨fun loaded => ?loaded, fun born => ?born⟩⟩
    case empty =>
      obtain ⟨zero, empty⟩ | ⟨zero, empty⟩ := empty
      · exact Flock.useS_empty (by simp) zero empty
      · exact Flock.useS_empty (by simp) zero empty
    case loaded =>
      rw [← f.poisonTrap_loaded]
      exact runScalar_useS_trap issues (Flock.useS_two_poisoned fullA fullB poisoned (iff_of_false nofun (not_not_intro loaded))) rfl
    case born =>
      rw [← f.poisonTrap_born]
      exact runScalar_useS_trap issues (Flock.useS_two_poisoned fullA fullB poisoned (iff_of_true rfl born)) rfl

end Sys2Proof.Machine

/-!
PROOFS. The integer forms of the lane stream as statement O19 says: numbers as rows of elements and of bits (R134), elements under their sign modifiers
(R169, R171), the shape that the forms share (R214), and what each of them writes (R217 to R223).
-/
namespace Sys2Proof.Machine

/-! ## Numbers made of elements (R134) -/

section
variable {w n j : Nat} {e : Nat → Nat}

/-- The number whose elements of `w` bits are, from the lowest up, the first `n` of a sequence. -/
def ofElements (w n : Nat) (e : Nat → Nat) : Nat := ((List.range n).map fun i => e i % 2 ^ w * 2 ^ (w * i)).sum

theorem ofElements_succ : ofElements w (n + 1) e = ofElements w n e + e n % 2 ^ w * 2 ^ (w * n) := by
  simp [ofElements, List.range_succ]

theorem ofElements_one : ofElements w 1 e = e 0 % 2 ^ w := by simp [ofElements]

theorem ofElements_lt : ofElements w n e < 2 ^ (w * n) := by
  induction n with
  | zero => simp [ofElements]
  | succ n ih =>
    have top : e n % 2 ^ w * 2 ^ (w * n) ≤ (2 ^ w - 1) * 2 ^ (w * n) :=
      Nat.mul_le_mul_right _ (Nat.le_sub_one_of_lt (Nat.mod_lt _ (Nat.two_pow_pos w)))
    have whole : 2 ^ (w * (n + 1)) = (2 ^ w - 1) * 2 ^ (w * n) + 2 ^ (w * n) := by
      rw [← Nat.succ_mul, Nat.succ_eq_add_one, Nat.sub_add_cancel (Nat.two_pow_pos w), Nat.mul_succ, Nat.pow_add, Nat.mul_comm]
    rw [ofElements_succ]
    omega

/-- Each element reads back, cut to its width. -/
theorem bitsAt_ofElements (hj : j < n) : bitsAt (ofElements w n e) (w * j) w = e j % 2 ^ w := by
  induction n with
  | zero => exact absurd hj (Nat.not_lt_zero j)
  | succ n ih =>
    rw [ofElements_succ, bitsAt]
    obtain hj | rfl := Nat.lt_or_eq_of_le (Nat.le_of_lt_succ hj)
    · obtain ⟨d, rfl⟩ := Nat.exists_eq_add_of_lt hj
      have above : 2 ^ (w * (j + d + 1)) = 2 ^ w * 2 ^ (w * d) * 2 ^ (w * j) := by
        rw [← Nat.pow_add, ← Nat.pow_add]; congr 1; rw [Nat.mul_add, Nat.mul_add]; omega
      rw [above, ← Nat.mul_assoc, Nat.add_mul_div_right _ _ (Nat.two_pow_pos _), ← Nat.mul_assoc, Nat.mul_right_comm, Nat.add_mul_mod_self_right]
      exact ih hj
    · rw [Nat.add_mul_div_right _ _ (Nat.two_pow_pos _), Nat.div_eq_of_lt ofElements_lt, Nat.zero_add, Nat.mod_mod]

theorem mapElements_eq {size : Nat} {g : List Nat → Nat} {vs : List Nat} :
    mapElements w size g vs = ofElements w (size / w) fun i => g (vs.map fun v => bitsAt v (w * i) w) := rfl

theorem bitsAt_zero_of_lt {v : Nat} (h : v < 2 ^ n) : bitsAt v 0 n = v := by
  rw [bitsAt, Nat.pow_zero, Nat.div_one, Nat.mod_eq_of_lt h]

end

/-! ## Numbers made of bits -/

section
variable {n i : Nat} {bit : Nat → Bool}

theorem bitsOf_eq : bitsOf n bit = ofElements 1 n fun i => (bit i).toNat := by
  refine congrArg List.sum (List.map_congr_left fun i _ => ?_)
  cases value : bit i <;> simp [value]

theorem bitsOf_lt : bitsOf n bit < 2 ^ n := by
  rw [bitsOf_eq]
  exact Nat.lt_of_lt_of_eq ofElements_lt (by rw [Nat.one_mul])

theorem testBit_bitsOf (hi : i < n) : (bitsOf n bit).testBit i = bit i := by
  have element : bitsOf n bit / 2 ^ i % 2 = (bit i).toNat := by
    rw [bitsOf_eq]
    have := bitsAt_ofElements (w := 1) (e := fun i => (bit i).toNat) hi
    rw [Nat.one_mul] at this
    exact this.trans (Nat.mod_eq_of_lt (Bool.toNat_lt _))
  rw [Nat.testBit_eq_decide_div_mod_eq, element]
  cases bit i <;> rfl

/-- A field replaced: what stands above it, the new field, and what stands below it. -/
theorem withBits_eq (v lo n x : Nat) : withBits v lo n x = 2 ^ lo * (2 ^ n * (v / 2 ^ (lo + n)) + x % 2 ^ n) + v % 2 ^ lo := by
  have parts : v = 2 ^ lo * (2 ^ n * (v / 2 ^ (lo + n)) + bitsAt v lo n) + v % 2 ^ lo := by
    rw [bitsAt, Nat.pow_add, ← Nat.div_div_eq_div_mul, Nat.div_add_mod, Nat.div_add_mod]
  have old : v - bitsAt v lo n * 2 ^ lo = 2 ^ lo * (2 ^ n * (v / 2 ^ (lo + n))) + v % 2 ^ lo := by
    rw [Nat.mul_add, Nat.mul_comm (2 ^ lo) (bitsAt v lo n)] at parts
    omega
  rw [withBits, old, Nat.mul_add, Nat.mul_comm (2 ^ lo) (x % 2 ^ n)]
  omega

theorem testBit_withBits (v lo x : Nat) :
    (withBits v lo n x).testBit i = if lo ≤ i ∧ i < lo + n then x.testBit (i - lo) else v.testBit i := by
  rw [withBits_eq, Nat.testBit_two_pow_mul_add _ (Nat.mod_lt _ (Nat.two_pow_pos lo)),
    Nat.testBit_two_pow_mul_add _ (Nat.mod_lt _ (Nat.two_pow_pos n)), Nat.testBit_mod_two_pow, Nat.testBit_mod_two_pow, Nat.testBit_div_two_pow]
  by_cases below : i < lo
  · rw [if_pos below, decide_eq_true below, Bool.true_and, if_neg (by omega)]
  · rw [if_neg below]
    by_cases within : i - lo < n
    · rw [if_pos within, decide_eq_true within, Bool.true_and, if_pos (by omega)]
    · rw [if_neg within, if_neg (by omega), show i - lo - n + (lo + n) = i by omega]

theorem leadingZeros_spec {v : Nat} (hv : v < 2 ^ n) :
    leadingZeros n v ≤ n ∧ v < 2 ^ (n - leadingZeros n v) ∧ (leadingZeros n v < n → 2 ^ (n - 1 - leadingZeros n v) ≤ v) := by
  unfold leadingZeros
  by_cases zero : v = 0
  · simp [zero]
  · have log : v.log2 < n := (Nat.log2_lt zero).2 hv
    rw [if_neg zero, show n - (n - 1 - v.log2) = v.log2 + 1 by omega, show n - 1 - (n - 1 - v.log2) = v.log2 by omega]
    exact ⟨by omega, Nat.lt_log2_self, fun _ => Nat.log2_self_le zero⟩

end

/-! ## Integer elements (R134, R169, R171) -/

section
variable {f : Flock} {w : LaneWord} {t : IntTy} {x : Src} {l j : Nat}

theorem intModifier_lt {m : BitVec 3} {e : Nat} (he : e < 2 ^ t.w) : intModifier t m e < 2 ^ t.w := by
  have neg (y : Nat) : (2 ^ t.w - y) % 2 ^ t.w < 2 ^ t.w := Nat.mod_lt _ (Nat.two_pow_pos _)
  unfold intModifier
  split
  · exact neg _
  · dsimp only
    split
    · exact neg _
    · exact he
  · exact neg _
  · exact he

theorem elementOf_lt : elementOf f w t x l j < 2 ^ t.w := intModifier_lt (Nat.mod_lt _ (Nat.two_pow_pos _))

/-- A modified source holds its modified elements. -/
theorem Flock.intSource_eq : f.intSource w t x l = ofElements t.w (t.size / t.w) (elementOf f w t x l) := rfl

theorem Flock.bitsAt_intSource (hj : j < t.size / t.w) : bitsAt (f.intSource w t x l) (t.w * j) t.w = elementOf f w t x l j := by
  rw [Flock.intSource_eq, bitsAt_ofElements hj, Nat.mod_eq_of_lt elementOf_lt]

/-- A source of one element is that element. -/
theorem Flock.intSource_single (single : t.size / t.w = 1) : f.intSource w t x l = elementOf f w t x l 0 := by
  rw [Flock.intSource_eq, single, ofElements_one, Nat.mod_eq_of_lt elementOf_lt]

end

theorem intTy_w (sub : BitVec 4) : (intTy sub).w = 32 ∨ (intTy sub).w = 16 ∨ (intTy sub).w = 8 ∨ (intTy sub).w = 64 := by
  unfold intTy
  dsimp only
  grind

/-- The types of 32 and 64 bits hold one element. -/
theorem intTy_single {sub : BitVec 4} (wide : 32 ≤ (intTy sub).w) : (intTy sub).size / (intTy sub).w = 1 := by
  unfold IntTy.size
  obtain h | h | h | h := intTy_w sub
  · simp [h]
  · omega
  · omega
  · simp [h]

/-- An exact integer brought to an element of a type (R130, R217): to the nearest value of the type, or cut. -/
def IntTy.fit (t : IntTy) (sat : Bool) (x : Int) : Nat :=
  let lo : Int := if t.signed then -2 ^ (t.w - 1) else 0
  let hi : Int := if t.signed then 2 ^ (t.w - 1) - 1 else 2 ^ t.w - 1
  ((if sat then max lo (min hi x) else x) % 2 ^ t.w).toNat

theorem patternOf_eq (n : Nat) (x : Int) : patternOf n x = (x % 2 ^ n).toNat :=
  congrArg (fun m : Int => (x % m).toNat) (Int.natCast_pow 2 n)

theorem patternOf_lt (n : Nat) (x : Int) : patternOf n x < 2 ^ n := by
  have pos : (0 : Int) < (2 ^ n : Nat) := Int.natCast_pos.2 (Nat.two_pow_pos n)
  exact (Int.toNat_lt (Int.emod_nonneg _ (Int.ne_of_gt pos))).2 (Int.emod_lt_of_pos x pos)

theorem narrow_eq_fit (t : IntTy) (sat : Bool) (x : Int) : narrow t sat x = t.fit sat x := by
  have cast (n : Nat) : ((2 ^ n : Nat) : Int) = 2 ^ n := Int.natCast_pow 2 n
  have half : (0 : Int) < 2 ^ (t.w - 1) := Int.pow_pos (by decide)
  have whole : (0 : Int) < 2 ^ t.w := Int.pow_pos (by decide)
  cases sat with
  | false => exact patternOf_eq t.w x
  | true =>
    simp only [narrow, IntTy.fit, patternOf_eq, if_true, cast]
    congr 2
    cases t.signed <;> simp only [if_true, Bool.false_eq_true, if_false] <;> omega

theorem narrow_lt (t : IntTy) (sat : Bool) (x : Int) : narrow t sat x < 2 ^ t.w := by
  unfold narrow
  dsimp only
  split <;> exact patternOf_lt _ _

/-! ## What the integer forms write (R214, R217 to R223) -/

section
variable {s : State} {f : Flock} {p : Path} {w : LaneWord} {t : IntTy} {i : Instr} {k : Nat} {P : Nat → Nat → Nat → Prop}
  (issues : IssuesLane s f p)
include issues

/-- An integer form completes when its operands are ready, with its result in every executing lane. -/
theorem laneWhole_eq (ready : LaneReady f p w (intSources w t k) [dst w t.regs t.regs]) (g : Flock → Nat → List Nat → Nat) :
    laneWhole w t k g s = .next (s.setFlock ((f.intWrite t w.dest.toNat ((laneList f p w).map fun l =>
      (l, g f l ((intSources w t k).map fun x => f.intSource w t x l)))).retire p.id)) :=
  laneCompute_eq issues ready fun _ f lanes =>
    f.intWrite t w.dest.toNat (lanes.map fun l => (l, g f l ((intSources w t k).map fun x => f.intSource w t x l)))

theorem laneWhole_writes {g : Flock → Nat → List Nat → Nat} (form : exec i s = laneWhole w t k g s)
    (each : ∀ l ∈ laneList f p w, ∀ j, j < t.size / t.w →
      P l j (bitsAt (g f l ((intSources w t k).map fun x => f.intSource w t x l)) (t.w * j) t.w)) : LaneWrites s f p w i t k P :=
  fun ready => ⟨fun l => g f l ((intSources w t k).map fun x => f.intSource w t x l), form.trans (laneWhole_eq issues ready g), each⟩

/-- A form that works on each element apart writes, cut to the element, what it computes of the elements of its sources. -/
theorem laneElements_writes {g : IntTy → List Nat → Nat} (form : exec i s = laneElements w k g s)
    (each : ∀ l j, P l j (g (intTy w.sub) ((intSources w (intTy w.sub) k).map fun x => elementOf f w (intTy w.sub) x l j) % 2 ^ (intTy w.sub).w)) :
    LaneWrites s f p w i (intTy w.sub) k P := by
  refine laneWhole_writes issues form fun l _ j hj => ?_
  have elements (xs : List Src) : (xs.map fun x => f.intSource w (intTy w.sub) x l).map (fun v => bitsAt v ((intTy w.sub).w * j) (intTy w.sub).w) =
      xs.map fun x => elementOf f w (intTy w.sub) x l j := by
    rw [List.map_map]
    exact List.map_congr_left fun x _ => Flock.bitsAt_intSource hj
  rw [mapElements_eq, bitsAt_ofElements hj, elements]
  exact each l j

theorem laneArith_writes {op : Int → Int → Int → Int} {r : Nat → Nat → Int} (form : exec i s = laneArith w k op s)
    (exact_ : ∀ l j, let x (n : Nat) : Int := (intTy w.sub).value (((intSources w (intTy w.sub) k).map fun x => elementOf f w (intTy w.sub) x l j).getD n 0)
      op (x 0) (x 1) (x 2) = r l j) :
    LaneWrites s f p w i (intTy w.sub) k fun l j v => v = (intTy w.sub).fit (w.sub.getLsbD 3) (r l j) :=
  laneElements_writes issues form fun l j => by
    rw [Nat.mod_eq_of_lt (narrow_lt ..), ← narrow_eq_fit, ← exact_ l j]

end

/-! ## Masks of listed lanes -/

theorem LaneMask.has_single {k l : Nat} (hl : l < 1024) : (LaneMask.single k).has l = decide (k = l) := by
  rw [LaneMask.has, LaneMask.single, BitVec.getLsbD_ofNat, Nat.testBit_two_pow, decide_eq_true hl, Bool.true_and]

theorem LaneMask.has_or {a b : LaneMask} {l : Nat} : (a ||| b : LaneMask).has l = (a.has l || b.has l) := BitVec.getLsbD_or

theorem LaneMask.has_ofList {ls : List Nat} {l : Nat} (hl : l < 1024) : (LaneMask.ofList ls).has l = true ↔ l ∈ ls := by
  have joined (m : LaneMask) : (ls.foldl (fun m l => m ||| LaneMask.single l) m).has l = true ↔ m.has l = true ∨ l ∈ ls := by
    induction ls generalizing m with
    | nil => simp
    | cons k ls ih =>
      rw [List.foldl_cons, ih, LaneMask.has_or, LaneMask.has_single hl, Bool.or_eq_true, decide_eq_true_eq, List.mem_cons, or_assoc, eq_comm (a := k)]
  have empty : LaneMask.has 0 l = false := BitVec.getLsbD_zero
  rw [LaneMask.ofList, joined, empty, or_iff_right Bool.false_ne_true]

/-! ## The integer forms one by one -/

theorem compareInt_iff {c : Nat} {x y : Int} : compareInt c x y = true ↔
    match c with
    | 0 => x = y | 1 => x ≠ y | 2 => x < y | 3 => x ≤ y | 4 => y < x | _ => y ≤ x := by
  unfold compareInt
  split <;> simp

/-- A field's position, and its width cut at bit 31 (R219). -/
theorem fieldOf_eq (x : Nat) : fieldOf x = (x % 2 ^ 8, if 32 ≤ x % 2 ^ 8 then 0 else min (x / 2 ^ 8 % 2 ^ 8) (32 - x % 2 ^ 8)) := by
  simp [fieldOf, bitsAt]

theorem el_of_two {x y k : Nat} (hk : k < 2) : el [x, y] k = if k = 0 then x else y :=
  match k, hk with
  | 0, _ | 1, _ => rfl

theorem el_of_three {x y z k : Nat} (hk : k < 3) : el [x, y, z] k = if k = 0 then x else if k = 1 then y else z :=
  match k, hk with
  | 0, _ | 1, _ | 2, _ => rfl

section
variable {f : Flock} {p : Path} {w : LaneWord} {srcs : List Src} {dsts : List Dst}

theorem checkNames_of (ready : LaneReady f p w srcs dsts) : checkNames f srcs dsts = .ok () := by
  obtain ⟨_, names, -⟩ := bind_ok (checkOperands_of ready)
  exact names

theorem checkSources_of (ready : LaneReady f p w srcs dsts) : checkSources f p w (laneList f p w) srcs dsts = .ok () := by
  obtain ⟨_, -, sources⟩ := bind_ok (checkOperands_of ready)
  exact sources

end

section
variable {s : State} {f : Flock} {p : Path} {w : LaneWord} (issues : IssuesLane s f p)
include issues

/-- A comparison marks, among the executing lanes, those in which its condition holds (R221). -/
theorem execVCmp_eq (wide : 32 ≤ (intTy w.sub).w) (ready : LaneReady f p w (intSources w (intTy w.sub) 2) []) :
    let t := intTy w.sub
    let lanes := laneList f p w
    let a (l : Nat) : Int := t.value (elementOf f w t (srcA w t.regs t.regs) l 0)
    let b (l : Nat) : Int := t.value (elementOf f w t (srcB w t.regs t.regs) l 0)
    exec (.vCmp w) s = .next (s.setFlock
      ((f.setQ (qDest w) (LaneMask.ofList lanes) (LaneMask.ofList (lanes.filter fun l => compareInt (cond w) (a l) (b l)))).retire p.id)) := by
  show execVCmp w s = _
  rw [execVCmp, laneCompute_eq issues ready]
  simp only [intSources, List.take, List.getD_cons_zero, List.getD_cons_succ, Flock.intSource_single (intTy_single wide)]

/-- What a lane instruction reads in a k-register goes to every executing lane, once the drains that it waits for are over (R145, R223). -/
theorem execVKget_eq {v : Word64} (value : s.laneKread f (w.imm.toNat % 2 ^ 12) = some v) (ready : LaneReady f p w [] [dst w]) :
    exec (.vKget w) s =
      if w.imm.toNat % 2 ^ 12 ≠ 0x042 ∨ ∀ o ∈ f.ops, o.counter = some .m → o.written = true then
        .next (s.setFlock ((f.writeLanes w.dest.toNat ((laneList f p w).map fun l =>
          (l, v.extractLsb' (if w.imm.getLsbD 12 then 32 else 0) 32))).retire p.id))
      else .next (s.waiting false) := by
  have field : bitsAt w.imm.toNat 0 12 = w.imm.toNat % 2 ^ 12 := by rw [bitsAt, Nat.pow_zero, Nat.div_one]
  have half : (if w.imm.getLsbD 12 then v.extractLsb' 32 32 else v.extractLsb' 0 32) = v.extractLsb' (if w.imm.getLsbD 12 then 32 else 0) 32 := by
    split <;> rfl
  have clear : (decide (w.imm.toNat % 2 ^ 12 ≠ 0x042) || f.ops.all fun o => decide (o.counter ≠ some .m) || o.written) =
      decide (w.imm.toNat % 2 ^ 12 ≠ 0x042 ∨ ∀ o ∈ f.ops, o.counter = some .m → o.written = true) := by
    rw [Bool.eq_iff_iff, decide_eq_true_eq, Bool.or_eq_true, decide_eq_true_eq, List.all_eq_true]
    simp only [Bool.or_eq_true, decide_eq_true_eq, Decidable.imp_iff_not_or, ne_eq]
  show execVKget w s = _
  simp only [execVKget, runConfirmed_eq issues, checkNames_of ready, field, value, clear, half, waitUnless, decide_eq_true_eq]
  by_cases now : w.imm.toNat % 2 ^ 12 ≠ 0x042 ∨ ∀ o ∈ f.ops, o.counter = some .m → o.written = true
  · simp only [if_pos now, checkSources_of ready]; rfl
  · simp only [if_neg now]; rfl

end

/-- Settles O19: every form is of one shape, which writes what it computes of the elements of its sources; each clause says what that is. -/
theorem laneIntegers : Obligations.LaneIntegers := by
  unfold Obligations.LaneIntegers
  refine ⟨fun s f p w issues => ?_, fun s f p w issues => ?_⟩
  · intro t a b c lo hi cut writes
    have lt {x : Src} {l j : Nat} : elementOf f w t x l j < 2 ^ t.w := elementOf_lt
    have width : t.w < 2 ^ t.w := Nat.lt_two_pow_self
    have arith {i : LaneWord → Instr} {k : Nat} {op : Int → Int → Int → Int} {r : Nat → Nat → Int} (meaning : LaneWord → State → _)
        (arm : exec (i w) s = meaning w s) (form : meaning w s = laneArith w k op s)
        (result : ∀ l j, let x (n : Nat) : Int := t.value (((intSources w t k).map fun x => elementOf f w t x l j).getD n 0)
          op (x 0) (x 1) (x 2) = r l j) : writes i k (fun l j v => v = cut (r l j)) := laneArith_writes issues (arm.trans form) result
    have each {i : LaneWord → Instr} {k : Nat} {g : IntTy → List Nat → Nat} {P : Nat → Nat → Nat → Prop} (meaning : LaneWord → State → _)
        (arm : exec (i w) s = meaning w s) (form : meaning w s = laneElements w k g s)
        (result : ∀ l j, P l j (g t ((intSources w t k).map fun x => elementOf f w t x l j) % 2 ^ t.w)) : writes i k P :=
      laneElements_writes issues (arm.trans form) result
    refine ⟨arith execVAdd rfl rfl fun l j => rfl,
      arith execVSub rfl rfl fun l j => rfl,
      arith execVMul rfl rfl fun l j => rfl,
      arith execVMad rfl rfl fun l j => rfl,
      arith execVMin rfl rfl fun l j => ?min,
      arith execVMax rfl rfl fun l j => ?max,
      arith execVAbs rfl rfl fun l j => ?abs,
      each execVAnd rfl rfl fun l j => ?and,
      each execVOr rfl rfl fun l j => ?or,
      each execVXor rfl rfl fun l j => ?xor,
      each execVNot rfl rfl fun l j => ?not,
      each execVShl rfl rfl fun l j => ?shl,
      each execVShr rfl rfl fun l j => ?shr,
      each execVSra rfl rfl fun l j => ?sra,
      each execVClz rfl rfl fun l j => ?clz,
      each execVPopc rfl rfl fun l j => ?popc,
      each execVBrev rfl rfl fun l j => ?brev⟩
    case min =>
      show (if t.value (a l j) < t.value (b l j) then t.value (a l j) else t.value (b l j)) = min (t.value (a l j)) (t.value (b l j))
      omega
    case max =>
      show (if t.value (a l j) < t.value (b l j) then t.value (b l j) else t.value (a l j)) = max (t.value (a l j)) (t.value (b l j))
      omega
    case abs =>
      show (if t.value (a l j) < 0 then -t.value (a l j) else t.value (a l j)) = (t.value (a l j)).natAbs
      omega
    case and => exact Nat.mod_eq_of_lt (Nat.and_lt_two_pow _ lt)
    case or => exact Nat.mod_eq_of_lt (Nat.or_lt_two_pow lt lt)
    case xor => exact Nat.mod_eq_of_lt (Nat.xor_lt_two_pow lt lt)
    case not => exact Nat.mod_eq_of_lt (show 2 ^ t.w - 1 - a l j < 2 ^ t.w by omega)
    case shl =>
      show (if b l j < t.w then a l j * 2 ^ b l j else 0) % 2 ^ t.w = if b l j < t.w then a l j * 2 ^ b l j % 2 ^ t.w else 0
      rw [apply_ite (· % 2 ^ t.w), Nat.zero_mod]
    case shr =>
      show (if b l j < t.w then a l j / 2 ^ b l j else 0) % 2 ^ t.w = if b l j < t.w then a l j / 2 ^ b l j else 0
      rw [apply_ite (· % 2 ^ t.w), Nat.zero_mod, Nat.mod_eq_of_lt (Nat.lt_of_le_of_lt (Nat.div_le_self ..) lt)]
    case sra =>
      show patternOf t.w (signedOf t.w (a l j) / (2 ^ (if b l j < t.w then b l j else t.w) : Nat)) % 2 ^ t.w =
        (signedOf t.w (a l j) / 2 ^ min (b l j) t.w % 2 ^ t.w).toNat
      rw [Nat.mod_eq_of_lt (patternOf_lt ..), patternOf_eq, Int.natCast_pow,
        show (if b l j < t.w then b l j else t.w) = min (b l j) t.w by split <;> omega]
      rfl
    case clz =>
      obtain ⟨le, below, above⟩ := leadingZeros_spec (v := a l j) lt
      show let v := leadingZeros t.w (a l j) % 2 ^ t.w; v ≤ t.w ∧ a l j < 2 ^ (t.w - v) ∧ (v < t.w → 2 ^ (t.w - 1 - v) ≤ a l j)
      rw [Nat.mod_eq_of_lt (Nat.lt_of_le_of_lt le width)]
      exact ⟨le, below, above⟩
    case popc =>
      have few : setBits t.w (a l j) ≤ t.w := Nat.le_trans (List.length_filter_le ..) (Nat.le_of_eq List.length_range)
      show setBits t.w (a l j) % 2 ^ t.w = (List.range t.w).countP (a l j).testBit
      rw [Nat.mod_eq_of_lt (Nat.lt_of_le_of_lt few width), List.countP_eq_length_filter]
      rfl
    case brev =>
      intro n hn
      show (bitsOf t.w (fun k => (a l j).testBit (t.w - 1 - k)) % 2 ^ t.w).testBit n = (a l j).testBit (t.w - 1 - n)
      rw [Nat.mod_eq_of_lt bitsOf_lt, testBit_bitsOf hn]
  · intro t i32 lanes a b c wa wb wc first size writes holds
    have lt {x : Src} {l j : Nat} : elementOf f w t x l j < 2 ^ t.w := elementOf_lt
    have each {i : LaneWord → Instr} {k : Nat} {g : IntTy → List Nat → Nat} {P : Nat → Nat → Nat → Prop} (meaning : LaneWord → State → _)
        (arm : exec (i w) s = meaning w s) (form : meaning w s = laneElements w k g s)
        (result : ∀ l j, P l j (g t ((intSources w t k).map fun x => elementOf f w t x l j) % 2 ^ t.w)) : writes i t k P :=
      laneElements_writes issues (arm.trans form) result
    have whole {i : LaneWord → Instr} {u : IntTy} {k : Nat} {g : Flock → Nat → List Nat → Nat} {P : Nat → Nat → Nat → Prop}
        (meaning : LaneWord → State → _) (arm : exec (i w) s = meaning w s) (form : meaning w s = laneWhole w u k g s)
        (result : ∀ l ∈ lanes, ∀ j, j < u.size / u.w → P l j (bitsAt (g f l ((intSources w u k).map fun x => f.intSource w u x l)) (u.w * j) u.w)) :
        writes i u k P := laneWhole_writes issues (arm.trans form) result
    have single : i32.size / i32.w = 1 := by decide
    have word {x : Src} {l : Nat} : f.intSource w i32 x l = elementOf f w i32 x l 0 := Flock.intSource_single single
    have only {j : Nat} (hj : j < i32.size / i32.w) : j = 0 := Nat.lt_one_iff.1 (single ▸ hj)
    have cutWord (v : Nat) : bitsAt v (i32.w * 0) i32.w = v % 2 ^ 32 := by rw [Nat.mul_zero, bitsAt, Nat.pow_zero, Nat.div_one]
    refine ⟨fun small => each execVBfe rfl rfl fun l j => ?bfe, fun small => each execVBfi rfl rfl fun l j => ?bfi,
      fun two => whole execVBitint rfl (if_pos two) fun l _ j hj => ?pairs, fun three => whole execVBitint rfl (if_neg three) fun l _ j hj => ?triples,
      fun wide ready => ⟨_, ?compared, execVCmp_eq issues wide ready⟩, whole execVSel rfl rfl fun l _ j hj => ?sel,
      whole execVMov rfl rfl fun l _ j hj => ?mov, fun small => whole execVMovi rfl (by rw [execVMovi]) fun l _ j hj => ?movi,
      fun wide => whole execVMovi rfl (by rw [execVMovi]) fun l _ j hj => ?moviWide,
      whole execVLane rfl rfl fun l _ j hj => ?lane, fun v value ready => ?kget⟩
    case bfe =>
      have fit {n : Nat} : bitsAt (a l j) (first (b l j)) n < 2 ^ t.w :=
        Nat.lt_of_le_of_lt (Nat.le_trans (Nat.mod_le ..) (Nat.div_le_self ..)) lt
      show (match fieldOf (b l j) with
        | (o, n) => if n = 0 then 0 else if t.signed then patternOf 32 (signedOf n (bitsAt (a l j) o n)) else bitsAt (a l j) o n) % 2 ^ t.w = _
      rw [fieldOf_eq]
      show (if size (b l j) = 0 then 0 else if t.signed then patternOf 32 (signedOf (size (b l j)) (bitsAt (a l j) (first (b l j)) (size (b l j))))
        else bitsAt (a l j) (first (b l j)) (size (b l j))) % 2 ^ t.w = _
      rw [apply_ite (· % 2 ^ t.w), apply_ite (· % 2 ^ t.w), Nat.zero_mod, Nat.mod_eq_of_lt fit, small, Nat.mod_eq_of_lt (patternOf_lt ..), patternOf_eq]
      rfl
    case bfi =>
      intro n hn
      show ((match fieldOf (c l j) with | (o, m) => withBits (a l j) o m (b l j)) % 2 ^ t.w).testBit n = _
      rw [fieldOf_eq, small, Nat.testBit_mod_two_pow, decide_eq_true hn, Bool.true_and, testBit_withBits]
    case pairs =>
      obtain rfl := only hj
      intro n hn
      have source : el ((intSources w i32 2).map fun x => f.intSource w i32 x l) (n % 2) = if n % 2 = 0 then wa l else wb l := by
        rw [List.map_congr_left fun x _ => word]
        exact el_of_two (Nat.mod_lt _ (by decide))
      rw [cutWord, Nat.mod_eq_of_lt bitsOf_lt, testBit_bitsOf hn, source]
    case triples =>
      obtain rfl := only hj
      have source (n : Nat) : el ((intSources w i32 3).map fun x => f.intSource w i32 x l) (n % 3) =
          if n % 3 = 0 then wa l else if n % 3 = 1 then wb l else wc l := by
        rw [List.map_congr_left fun x _ => word]
        exact el_of_three (Nat.mod_lt _ (by decide))
      rw [cutWord, Nat.mod_eq_of_lt (Nat.lt_trans bitsOf_lt (by decide))]
      refine ⟨bitsOf_lt, fun n hn => ?_⟩
      rw [testBit_bitsOf hn, source]
    case compared =>
      intro l hl
      rw [LaneMask.has_ofList hl, List.mem_filter]
      exact and_congr_right fun _ => compareInt_iff
    case sel =>
      have chosen : (f.qbit (cond w) l ^^ w.imm.getLsbD 28) = true ↔ (f.qbit (cond w) l = true ↔ w.imm.getLsbD 28 = false) := by
        cases f.qbit (cond w) l <;> cases w.imm.getLsbD 28 <;> decide
      rw [apply_ite (bitsAt · (t.w * j) t.w)]
      exact ite_congr (propext chosen) (fun _ => Flock.bitsAt_intSource hj) fun _ => Flock.bitsAt_intSource hj
    case mov => exact Flock.bitsAt_intSource hj
    case movi =>
      have not64 : (intTy w.sub).w ≠ 64 := fun h => absurd (h ▸ small : 64 ≤ 32) (by decide)
      simp only [not64, decide_false, Bool.false_and, Bool.false_eq_true, if_false]
    case moviWide =>
      obtain rfl : j = 0 := Nat.lt_one_iff.1 (intTy_single (sub := w.sub) (wide.symm ▸ (by decide : 32 ≤ 64)) ▸ hj)
      have cut (v : Nat) (hv : v < 2 ^ 64) : bitsAt v (t.w * 0) t.w = v := by rw [Nat.mul_zero, wide, bitsAt_zero_of_lt hv]
      have is64 : decide ((intTy w.sub).w = 64) = true := decide_eq_true wide
      rw [is64, Bool.true_and, apply_ite (bitsAt · (t.w * 0) t.w), cut _ (BitVec.isLt _), cut _ (Nat.lt_trans w.imm.isLt (by decide))]
    case lane =>
      obtain rfl := only hj
      exact cutWord l
    case kget =>
      rw [execVKget_eq issues value ready]
      have clear : (∀ o ∈ f.ops, o.counter = some .m → o.written = true) ↔ ¬ ∃ o ∈ f.ops, o.counter = some .m ∧ o.written = false := by simp
      refine ⟨fun now => if_pos (now.imp_right clear.2), fun flags drains => if_neg ?_⟩
      exact fun now => now.elim (· flags) fun written => clear.1 written drains

end Sys2Proof.Machine

/-!
PROOFS. The floating-point forms of the lane stream as statement O20 says: unions of flags (R150), packed codes (R134), the shape that the forms share
(R224), and comparisons and dot products, which take the elements of a lane together (R225, R226).
-/
namespace Sys2Proof.Machine

/-! ## Unions of flags (R150) -/

/-- A union holds a flag when one of its members does. -/
theorem getLsbD_unionFlags {fs : List Flags} {b : Nat} : (unionFlags fs).getLsbD b = true ↔ ∃ x ∈ fs, x.getLsbD b = true := by
  have joined (y : Flags) : (fs.foldl (· ||| ·) y).getLsbD b = true ↔ y.getLsbD b = true ∨ ∃ x ∈ fs, x.getLsbD b = true := by
    induction fs generalizing y with
    | nil => simp
    | cons x fs ih =>
      simp only [List.foldl_cons, ih, BitVec.getLsbD_or, Bool.or_eq_true, List.mem_cons, exists_eq_or_imp, or_assoc]
  have empty : (0 : Flags).getLsbD b = false := BitVec.getLsbD_zero
  rw [unionFlags, joined, empty, or_iff_right Bool.false_ne_true]

theorem getLsbD_unionFlags_map {α : Type} {xs : List α} {g : α → Flags} {b : Nat} :
    (unionFlags (xs.map g)).getLsbD b = true ↔ ∃ x ∈ xs, (g x).getLsbD b = true := by
  rw [getLsbD_unionFlags]
  constructor
  · rintro ⟨_, member, on⟩
    obtain ⟨x, hx, rfl⟩ := List.mem_map.1 member
    exact ⟨x, hx, on⟩
  · rintro ⟨x, hx, on⟩
    exact ⟨g x, List.mem_map_of_mem hx, on⟩

/-! ## Floating-point elements (R134, R169, R171) -/

section
variable {f : Flock} {w : LaneWord} {t : Fmt} {x : Src} {l j n m : Nat} {e : Nat → Nat}

theorem packElements_eq : packElements m ((List.range n).map e) = BitVec.ofNat 32 (ofElements m n e) := by
  refine congrArg (fun l : List Nat => BitVec.ofNat 32 l.sum) (List.ext_getElem (by simp) fun i _ _ => ?_)
  simp

/-- Codes packed into a register read back, cut to their width. -/
theorem bitsAt_packElements (fits : m * n ≤ 32) (hj : j < n) : bitsAt (packElements m ((List.range n).map e)).toNat (m * j) m = e j % 2 ^ m := by
  rw [packElements_eq, BitVec.toNat_ofNat,
    Nat.mod_eq_of_lt (Nat.lt_of_lt_of_le ofElements_lt (Nat.pow_le_pow_right Nat.zero_lt_two fits)), bitsAt_ofElements hj]

theorem floatTy_width (sub : BitVec 4) : (floatTy sub).width = 32 ∨ (floatTy sub).width = 16 := by
  unfold floatTy
  split
  · exact .inl rfl
  · split
    · exact .inr rfl
    · exact .inr rfl

theorem signModifier_lt {mod : BitVec 3} {v : Nat} (hm : 0 < m) (hv : v < 2 ^ m) : signModifier m mod v < 2 ^ m := by
  have half : 2 ^ m = 2 ^ (m - 1) + 2 ^ (m - 1) := by rw [← Nat.two_mul, ← Nat.pow_succ', Nat.succ_eq_add_one, Nat.sub_add_cancel hm]
  have low : v % 2 ^ (m - 1) < 2 ^ (m - 1) := Nat.mod_lt _ (Nat.two_pow_pos _)
  unfold signModifier
  split
  · exact Nat.xor_lt_two_pow hv (Nat.pow_lt_pow_right Nat.one_lt_two (by omega))
  · omega
  · omega
  · exact hv

theorem floatElementOf_lt (ht : 0 < t.width) : floatElementOf f w t x l j < 2 ^ t.width := signModifier_lt ht (Nat.mod_lt _ (Nat.two_pow_pos _))

theorem Flock.floatSource_eq : f.floatSource w t x l = (List.range (32 / t.width)).map (floatElementOf f w t x l) := rfl

theorem Flock.floatSource_getD (hj : j < 32 / t.width) : (f.floatSource w t x l).getD j 0 = floatElementOf f w t x l j := by
  rw [Flock.floatSource_eq, List.getD_eq_getElem?_getD, List.getElem?_map, List.getElem?_range hj]
  rfl

end

/-! ## What the floating-point forms write (R214, R224) -/

section
variable {s : State} {f : Flock} {p : Path} {w : LaneWord} {i : Instr} {k n : Nat} {r : Nat → Nat → Nat × Flags} (issues : IssuesLane s f p)
include issues

/-- A floating-point form completes when its operands are ready, with its result in every executing lane and the flags of all. -/
theorem laneFloatWhole_eq (ready : LaneReady f p w (floatSources w k) [dst w]) (g : Flock → FpCtx → Nat → Word32 × Flags) :
    laneFloatWhole w k g s = .next (s.setFlock (((f.writeLanes w.dest.toNat ((laneList f p w).map fun l => (l, (g f (s.fpCtx f w.rnd) l).1))).raise
      (unionFlags ((laneList f p w).map fun l => (g f (s.fpCtx f w.rnd) l).2))).retire p.id)) := by
  rw [laneFloatWhole, laneCompute_eq issues ready]
  simp only [List.map_map, Function.comp_def]

theorem laneFloatWhole_writes {g : Flock → FpCtx → Nat → Word32 × Flags} (form : exec i s = laneFloatWhole w k g s)
    (values : ∀ l j, j < 32 / n → bitsAt (g f (s.fpCtx f w.rnd) l).1.toNat (n * j) n = (r l j).1 % 2 ^ n)
    (flags : ∀ l b, (g f (s.fpCtx f w.rnd) l).2.getLsbD b = true ↔ ∃ j, j < 32 / n ∧ (r l j).2.getLsbD b = true) :
    FloatWrites s f p w i n k r := by
  intro ready
  refine ⟨fun l => (g f (s.fpCtx f w.rnd) l).1, unionFlags ((laneList f p w).map fun l => (g f (s.fpCtx f w.rnd) l).2),
    form.trans (laneFloatWhole_eq issues ready g), fun l _ j hj => values l j hj, fun b => ?_⟩
  rw [getLsbD_unionFlags_map]
  exact exists_congr fun l => and_congr_right fun _ => flags l b

/-- A form that works on each element apart writes the codes that it computes of the elements of its sources, and raises the flags of all. -/
theorem laneFloat_writes {g : Fmt → FpCtx → List Nat → Nat × Flags} (form : exec i s = laneFloat w k g s)
    (element : ∀ l j, g (floatTy w.sub) (s.fpCtx f w.rnd) ((floatSources w k).map fun x => floatElementOf f w (floatTy w.sub) x l j) = r l j) :
    FloatWrites s f p w i (floatTy w.sub).width k r := by
  have result (l j : Nat) (hj : j < 32 / (floatTy w.sub).width) : g (floatTy w.sub) (s.fpCtx f w.rnd)
      (((floatSources w k).map fun x => f.floatSource w (floatTy w.sub) x l).map fun es => es.getD j 0) = r l j := by
    rw [← element, List.map_map]
    exact congrArg _ (List.map_congr_left fun x _ => Flock.floatSource_getD hj)
  refine laneFloatWhole_writes issues (form.trans (by rw [laneFloat])) (fun l j hj => ?_) fun l b => ?_
  · dsimp only
    rw [List.map_map, bitsAt_packElements (Nat.mul_div_le ..) hj, Function.comp_apply, result l j hj]
  · dsimp only
    rw [List.map_map, getLsbD_unionFlags_map]
    refine exists_congr fun j => ?_
    rw [List.mem_range]
    exact and_congr_right fun hj => by rw [Function.comp_apply, result l j hj]

end

section
variable {s : State} {f : Flock} {p : Path} {w : LaneWord}

/-- A packed pair is its two elements. -/
theorem Flock.packElements_pair {t : Fmt} {x : Src} {l : Nat} (ht : t.width = 16) :
    (packElements t.width (f.floatSource w t x l)).toNat = floatElementOf f w t x l 0 + floatElementOf f w t x l 1 * 2 ^ 16 := by
  have lt (j : Nat) : floatElementOf f w t x l j < 2 ^ 16 := ht ▸ floatElementOf_lt (by omega)
  have low := lt 0
  have high := lt 1
  rw [Flock.floatSource_eq, packElements_eq, ht, ofElements_succ, ofElements_one, BitVec.toNat_ofNat, Nat.mod_eq_of_lt low, Nat.mod_eq_of_lt high]
  omega

/-- The comparisons of a lane's elements (R226). -/
def comparisons (s : State) (f : Flock) (w : LaneWord) (l : Nat) : List (Bool × Flags) :=
  (List.range (32 / (floatTy w.sub).width)).map fun j => (floatTy w.sub).compare (s.fpCtx f w.rnd) (cond w)
    (floatElementOf f w (floatTy w.sub) (srcA w) l j) (floatElementOf f w (floatTy w.sub) (srcB w) l j)

/-- A comparison marks, among the executing lanes, those in which it holds for every element, and raises the flags of all. -/
theorem execVFcmp_eq (issues : IssuesLane s f p) (ready : LaneReady f p w (floatSources w 2) []) :
    exec (.vFcmp w) s = .next (s.setFlock (((f.setQ (qDest w) (LaneMask.ofList (laneList f p w))
      (LaneMask.ofList ((laneList f p w).filter fun l => (comparisons s f w l).all (·.1)))).raise
      (unionFlags ((laneList f p w).map fun l => unionFlags ((comparisons s f w l).map (·.2))))).retire p.id)) := by
  show execVFcmp w s = _
  rw [execVFcmp, laneCompute_eq issues ready]
  simp only [Flock.floatSource_eq, List.zip_map', List.map_map, Function.comp_def, List.filter_map, List.map_id', comparisons]

end

/-- Settles O20: the forms are of one shape, which computes on each element; a dot product takes its elements in pairs, and a comparison marks the lanes
in which all elements pass. -/
theorem laneFloats : Obligations.LaneFloats := by
  unfold Obligations.LaneFloats
  intro s f p w issues t k lanes a b c writes unary compared
  have each {i : LaneWord → Instr} {n : Nat} {g : Fmt → FpCtx → List Nat → Nat × Flags} {r : Nat → Nat → Nat × Flags}
      (meaning : LaneWord → State → _) (arm : exec (i w) s = meaning w s) (form : meaning w s = laneFloat w n g s)
      (element : ∀ l j, g t k ((floatSources w n).map fun x => floatElementOf f w t x l j) = r l j) : writes i n r :=
    laneFloat_writes issues (arm.trans form) element
  refine ⟨each execVFadd rfl rfl fun l j => rfl, each execVFsub rfl rfl fun l j => rfl, each execVFmul rfl rfl fun l j => rfl,
    each execVFfma rfl rfl fun l j => rfl, each execVFmin rfl rfl fun l j => rfl, each execVFmax rfl rfl fun l j => rfl, fun packed => ?dot,
    each execVFclass rfl rfl fun l j => rfl, each execVFrcp rfl rfl fun l j => rfl, each execVFrsq rfl rfl fun l j => rfl,
    each execVFsqrt rfl rfl fun l j => rfl, each execVFexp2 rfl rfl fun l j => rfl, each execVFlog2 rfl rfl fun l j => rfl,
    each execVFsin rfl rfl fun l j => rfl, each execVFcos rfl rfl fun l j => rfl, each execVFfloor rfl rfl fun l j => rfl,
    each execVFceil rfl rfl fun l j => rfl, each execVFtrunc rfl rfl fun l j => rfl, each execVFrnd rfl rfl fun l j => rfl,
    each execVFfract rfl rfl fun l j => rfl, fun ready => ⟨_, _, ?marked, ?raised, execVFcmp_eq issues ready⟩⟩
  case dot =>
    have single {j : Nat} (hj : j < 32 / 32) : j = 0 := Nat.lt_one_iff.1 hj
    have third (l : Nat) : el (f.floatSource w fp32 (srcC w) l) 0 = floatElementOf f w fp32 (srcC w) l 0 := Flock.floatSource_getD (by decide)
    refine laneFloatWhole_writes issues (Eq.trans (b := execVFdot2 w s) rfl (by rw [execVFdot2])) (fun l j hj => ?_) fun l n => ?_
    · obtain rfl := single hj
      dsimp only
      rw [Flock.packElements_pair packed, Flock.packElements_pair packed, third, Nat.mul_zero, BitVec.toNat_ofNat, bitsAt, Nat.pow_zero, Nat.div_one,
        Nat.mod_mod]
    · dsimp only
      rw [Flock.packElements_pair packed, Flock.packElements_pair packed, third]
      exact ⟨fun h => ⟨0, by decide, h⟩, fun ⟨_, _, h⟩ => h⟩
  case marked =>
    intro l hl
    rw [LaneMask.has_ofList hl, List.mem_filter, comparisons, List.all_map, List.all_eq_true]
    simp only [List.mem_range, Function.comp_apply]
    rfl
  case raised =>
    intro n
    rw [getLsbD_unionFlags_map]
    refine exists_congr fun l => and_congr_right fun _ => ?_
    rw [comparisons, List.map_map, getLsbD_unionFlags_map]
    simp only [List.mem_range, Function.comp_apply]
    rfl

end Sys2Proof.Machine

/-!
PROOFS. The conversions of the lane stream as statement O22 says (R230 to R236): what each writes in every executing lane, and the flags of all.
-/
namespace Sys2Proof.Machine

section
variable {f : Flock} {r : Nat} {lanes : List Nat} {v : Nat → Nat × Flags}

theorem Flock.writeFlagged_narrow : f.writeFlagged false r (lanes.map fun l => (l, v l)) =
    (f.writeLanes r (lanes.map fun l => (l, BitVec.ofNat 32 (v l).1))).raise (unionFlags (lanes.map fun l => (v l).2)) := by
  simp only [Flock.writeFlagged, Bool.false_eq_true, if_false, List.map_map, Function.comp_def]

theorem Flock.writeFlagged_wide : f.writeFlagged true r (lanes.map fun l => (l, v l)) =
    (f.writePairs r (lanes.map fun l => (l, BitVec.ofNat 64 (v l).1))).raise (unionFlags (lanes.map fun l => (v l).2)) := by
  simp only [Flock.writeFlagged, if_true, List.map_map, Function.comp_def]

end

/-- A source that is kept for some formats alone stands last. -/
theorem sources_kept {a b c : Src} (keep : Bool) : ([a, b] ++ if keep then [c] else []) = if keep then [a, b, c] else [a, b] := by
  cases keep <;> rfl

/-- A narrow signed result is sign-extended to its register (R231). -/
theorem intImage_word (v : Int) : intImage ⟨32, true⟩ v = (BitVec.ofInt 32 v).toNat := by
  rw [BitVec.toNat_ofInt]
  rfl

/-- Lanes of a block (R235). -/
theorem bfpBlock_eq (w : LaneWord) : (if w.sub.getLsbD 0 = true then 32 else 16) = if w.sub.toNat % 2 = 1 then 32 else 16 := by
  rw [BitVec.getLsbD, Nat.testBit_zero]
  exact ite_congr (propext decide_eq_true_iff) (fun _ => rfl) fun _ => rfl

/-- Settles O22: each conversion writes its value in every executing lane; a union of flags holds those of its members. -/
theorem laneConversions : Obligations.LaneConversions := by
  unfold Obligations.LaneConversions
  refine ⟨fun s f p w issues => ?_, fun xs b => getLsbD_unionFlags⟩
  intro k lanes sf df sat ef word real n completes writes values two kept sources cvt block blocks packed packs
  have compute {i : Instr} {srcs : List Src} {dsts : List Dst} {effect : State → Flock → List Nat → Flock} {g : Flock}
      (meaning : LaneWord → State → _) (arm : exec i s = meaning w s) (form : meaning w s = laneCompute w srcs dsts effect s) (result : effect s f lanes = g) :
      completes i srcs dsts g := fun ready => by rw [arm, form, laneCompute_eq issues ready, result]
  have across {i : Instr} {srcs : List Src} {dsts : List Dst} {effect : State → Flock → List Nat → Flock} {g : Flock}
      (meaning : LaneWord → State → _) (arm : exec i s = meaning w s) (form : meaning w s = crossCompute w srcs dsts effect s) (result : effect s f lanes = g) :
      completes i srcs dsts g := fun ready => by rw [arm, form, crossCompute_eq issues ready, result]
  have pack : completes (.vBfpPack w) (srcA w :: if ef then [srcB w] else []) (dst w :: if ef then [⟨w.sb, 1, 1⟩] else [])
      (if ef then packs.writeLanes w.sb.toNat (packed.map fun y => (y.1, BitVec.ofNat 32 y.2.2)) else packs) :=
    across execVBfpPack rfl (by rw [execVBfpPack, bfpBlock_eq]) rfl
  refine ⟨fun single => compute execVCvt rfl (by rw [execVCvt, show cvtRegs (dfmt w) = 1 from if_neg single]) ?cvt,
    fun wide => compute execVCvt rfl (by rw [execVCvt, show cvtRegs (dfmt w) = 2 from if_pos wide]) ?cvtWide,
    compute execVCvtW rfl (by rw [execVCvtW]) Flock.writeFlagged_narrow,
    compute execVCvtN rfl (by rw [execVCvtN, sources_kept]) Flock.writeFlagged_narrow,
    compute execVCvtEf rfl (by rw [execVCvtEf]) ?cvtEf,
    fun plain => by rw [plain] at pack; exact pack, fun feedback => by rw [feedback] at pack; exact pack,
    compute execVBfpUnpack rfl (by rw [execVBfpUnpack]) rfl,
    compute execVPack rfl (by rw [execVPack, sources_kept]) rfl,
    compute execVUnpack rfl (by rw [execVUnpack]) ?unpack⟩
  case cvt =>
    show f.writeFlagged (decide (dfmt w = 14)) w.dest.toNat _ = writes cvt
    rw [decide_eq_false single]
    exact Flock.writeFlagged_narrow
  case cvtWide =>
    show f.writeFlagged (decide (dfmt w = 14)) w.dest.toNat _ = _
    rw [decide_eq_true wide]
    exact Flock.writeFlagged_wide
  case cvtEf =>
    simp only [List.map_map, Function.comp_def, Flock.writeFlagged_narrow]
    rfl
  case unpack =>
    simp only [intImage_word]
    rfl

end Sys2Proof.Machine

/-!
PROOFS. States that refute statements O23 and O56: the event of a `v.tos` that has arrived before, and a store that is the last word of a flashback
recipe.
-/
namespace Sys2Proof.Machine

/-! ## A `v.tos` that has arrived (R36, R243) -/

/-- An operation whose registers are written is not ended again. -/
theorem exec_tosWrite_written {s : State} {f : Flock} {o : Op} {uid id : Nat} (live : s.flock? uid = some f) (names : f.op? id = some o)
    (written : o.written = true) : exec (.tosWrite uid id) s = .next s := by
  show Host.Outcome.next (s.finishOp uid id (.tosWrite uid id)) = .next s
  rw [State.finishOp, live]
  dsimp only
  rw [names]
  exact congrArg _ (if_pos written)

/-- A `v.tos` of 5 to s63 whose register is written. -/
def arrivedOp : Op :=
  { id := 0, counter := none, lidx := 0, pieces := [{ scalarPiece 63 with value := some 5 }], packets := 0, acq := none, flags := 0, tos := true,
    written := true, replies := [] }

/-- A flock in which it still stands; s63 has been written anew. -/
def arrivedFlock : Flock := { Flock.launch 1 2 0 0 0 0 0 32 192 0 with s := [(63, 7)], ops := [arrivedOp] }

/-- Refutes O23: the clause on the arrival of a `v.tos` holds of no operation whose registers are written, which the event leaves as it is: s63 keeps
the 7 that it holds, and the clause would have it read the operation's 5. -/
theorem not_laneCross : ¬ Obligations.LaneCross := by
  unfold Obligations.LaneCross
  rintro ⟨-, arrives⟩
  let s : State := { State.reset with flocks := [arrivedFlock] }
  have live : s.flock? 1 = some arrivedFlock := rfl
  have again := arrives s arrivedFlock arrivedOp 0 live rfl rfl fun _ held => nomatch held
  have same : s = s.setFlock (arrivedFlock.endOp arrivedOp) :=
    Host.Outcome.next.inj ((exec_tosWrite_written live rfl rfl).symm.trans again)
  have read := congrArg (fun t : State => (t.flock? 1).map fun f => f.sreg 63) same
  exact absurd read (by decide)

/-! ## A store that ends a flashback recipe (R68, R70) -/

theorem eq_ok_of_toOption {ε α : Type} {x : Except ε α} {a : α} (h : x.toOption = some a) : x = .ok a := by
  cases x with
  | error _ => exact nomatch (h : none = some a)
  | ok b => exact congrArg _ (Option.some.inj h)

/-- A `v.st.sp` of v0 to offset 0 of the herd's allotment. -/
def storeWord : LaneWord := ⟨2, 15, false, 0, 192, 192, 0, 0, 0, 0, 0, false, 0, 0⟩

/-- The path of lane 0. -/
def storePath : Path := Path.start 0 0 1 0 [] .ready

/-- A flock at the last word of a recipe, whose point has FPMODE 1. -/
def recipeFlock : Flock := { Flock.launch 1 2 0 0 0 0 0 32 192 0 with paths := [storePath], recipe := some ⟨0, 0, 0, 1, 0, 1, 1⟩ }

/-- A state in which its path issues; its herd has a scratchpad allotment. -/
def recipeState : State :=
  { State.reset with flocks := [recipeFlock], herds := [{ Herd.absent with uid := 2, spadSize := 4096 }], cur := some ⟨1, some 0⟩ }

/-- Refutes O56: a store that is the last word of a flashback recipe ends the recipe, which puts the FPMODE of its point back (R70): the flock's FPMODE was
0 and is 1. The clauses on stores and atomics leave out that no recipe runs. -/
theorem not_laneFrames : ¬ Obligations.LaneFrames := by
  unfold Obligations.LaneFrames
  rintro ⟨-, scratchpad, -⟩
  have issues : IssuesLane recipeState recipeFlock storePath := ⟨rfl, rfl, rfl, rfl, rfl⟩
  have passed : recipeState.checkSpadLanes (recipeState.herdOf recipeFlock) .write (memBytes storeWord)
      ((laneList recipeFlock storePath storeWord).map fun l => (l, recipeFlock.spadAddr storeWord true l)) = .ok [(0, 2, 0)] :=
    eq_ok_of_toOption (by decide +kernel)
  have operands : LaneReady recipeFlock storePath storeWord (storeSources storeWord (srcA storeWord)) [] := by decide +kernel
  have stored := exec_vStSp.trans (spadAccess_completes issues operands passed rfl)
  obtain ⟨-, -, -, g, there, -, -, -, -, kept, -⟩ := scratchpad recipeState _ recipeFlock storePath storeWord _ (.vStSp storeWord, .write, _, true)
    issues rfl List.mem_cons_self passed stored
  have mode : ((spadStore storeWord recipeState recipeFlock storePath [(0, 2, 0)]).flock? recipeFlock.uid).map (·.fpmode) = some 1 := by decide +kernel
  rw [there] at mode
  exact absurd (kept.symm.trans (Option.some.inj mode)) (by decide)

end Sys2Proof.Machine

/-!
PROOFS. Global accesses of the lane stream as statement O24 says: the check of the lanes' addresses (R247, R442), the form that loads, stores and
atomics share, what each of them does where its lanes pass and what it waits for (R109, R113, R366), and prefetches, which leave flocks, herds and
unencrypted memory as they were (R259).
-/
namespace Sys2Proof.Machine

/-! ## The check of the lanes' addresses (R247, R442; log entry 61) -/

section
variable {s u : State} {ag : Agent} {kind : Access} {n c l va : Nat} {below above : List (Nat × Nat)} {locs : List (Nat × Loc)}

theorem State.checkAccess_fails (why : (va % n ≠ 0 ∧ c = 0x04) ∨ (va % n = 0 ∧ s.translate ag va kind = .error c)) :
    s.checkAccess ag va n kind = .error c := by
  rcases why with ⟨off, rfl⟩ | ⟨aligned, failed⟩
  · exact if_pos off
  · exact (if_neg (Decidable.not_not.2 aligned)).trans failed

theorem State.checkLanes_head_fails (failed : s.checkAccess ag va n kind = .error c) :
    s.checkLanes ag kind n ((l, va) :: above) = .error (addrStop c va l kind) := by
  rw [State.checkLanes, failed]

/-- Lanes that pass: the first does, and the others do after it. -/
theorem State.checkLanes_cons_ok (passed : s.checkLanes ag kind n ((l, va) :: above) = .ok (u, locs)) :
    ∃ t loc rest, s.checkAccess ag va n kind = .ok (t, loc) ∧ t.checkLanes ag kind n above = .ok (u, rest) := by
  rw [State.checkLanes] at passed
  split at passed
  · cases passed
  next t loc head =>
    split at passed
    · cases passed
    next v rest tail => cases passed; exact ⟨t, loc, rest, head, tail⟩

/-- A lane that fails above one that passes. -/
theorem State.checkLanes_tail_fails {t : State} {loc : Loc} {x : Stop} (head : s.checkAccess ag va n kind = .ok (t, loc))
    (tail : t.checkLanes ag kind n above = .error x) : s.checkLanes ag kind n ((l, va) :: above) = .error (x.after ⟨ag, kind, n, va⟩) := by
  simp only [State.checkLanes, head, tail]

/-- The checks of lanes that pass. -/
def checksOf (ag : Agent) (kind : Access) (n : Nat) (lanes : List (Nat × Nat)) : List Checked := lanes.map fun x => ⟨ag, kind, n, x.2⟩

/-- The lowest failing lane stops the access, after the checks of the lanes below it. -/
theorem State.checkLanes_lowest_fails (passed : s.checkLanes ag kind n below = .ok (u, locs)) (failed : u.checkAccess ag va n kind = .error c) :
    s.checkLanes ag kind n (below ++ (l, va) :: above) = .error ((checksOf ag kind n below).foldr Stop.after (addrStop c va l kind)) := by
  induction below generalizing s locs with
  | nil => cases passed; exact State.checkLanes_head_fails failed
  | cons x below ih =>
    obtain ⟨t, loc, rest, head, tail⟩ := State.checkLanes_cons_ok passed
    exact State.checkLanes_tail_fails head (ih tail)

theorem foldr_after_wait (ks : List Checked) (e : Bool) : ks.foldr Stop.after (.wait e) = .wait e := by
  induction ks with
  | nil => rfl
  | cons k ks ih => rw [List.foldr_cons, ih, Stop.after]

theorem foldr_after_trap (ks : List Checked) {t : Trap} (fresh : t.kept = []) : ks.foldr Stop.after (.trap t) = .trap { t with kept := ks } := by
  induction ks with
  | nil => cases t; cases fresh; rfl
  | cons k ks ih => rw [List.foldr_cons, ih, Stop.after]

/-- What the lanes below a failing one have done stays: their checks made anew give the state that they left. -/
theorem Trap.stateOf_checks {t : Trap} (passed : s.checkLanes ag kind n below = .ok (u, locs)) (kept : t.kept = checksOf ag kind n below) :
    t.stateOf s = u := by
  rw [Trap.stateOf, kept]
  clear kept
  induction below generalizing s locs with
  | nil => cases passed; rfl
  | cons x below ih =>
    obtain ⟨v, loc, rest, head, tail⟩ := State.checkLanes_cons_ok passed
    rw [checksOf, List.map_cons, List.foldl_cons, head]
    exact ih tail

end

/-- A trap after checks of lower lanes is taken in the state that they left. -/
theorem State.laneTrap_after {s u : State} {f : Flock} {p : Path} {site : TrapSite} {t : Trap} {ks : List Checked} (fresh : t.kept = [])
    (left : ({ t with kept := ks } : Trap).stateOf s = u) : s.laneTrap f p site { t with kept := ks } = u.laneTrap f p site t := by
  have same : t.stateOf u = u := by rw [Trap.stateOf, fresh, List.foldl_nil]
  simp only [State.laneTrap, left, same]
  cases f.recipe <;> rfl

/-- A path issues still after a change of the memory system alone. -/
theorem IssuesLane.of_rest {s u : State} {f : Flock} {p : Path} (issues : IssuesLane s f p) (same : u.rest = s.rest) : IssuesLane u f p := by
  obtain ⟨stream, live, rest⟩ := issues
  rw [State.flock?, ← State.rest_flocks same] at live
  exact ⟨(State.rest_cur same).trans stream, live, rest⟩

/-! ## The form of a global access -/

/-- The form that global loads, stores and atomics share: operands, then the address of every executing lane, then what the access does at the
locations that they reach. -/
def globalAccess (k : Holding) (w : LaneWord) (srcs : List Src) (dsts : List Dst) (kind : Access) (n : Nat) (index : Bool)
    (act : State → Flock → Path → List (Nat × Loc) → Res State) (s : State) : Host.Outcome State Fault Refusal :=
  runHeld k (fun s f p => do
    checkOperands f p w (laneList f p w) srcs dsts
    let x ← s.checkLanes (s.agentOf f) kind n ((laneList f p w).map fun l => (l, f.globalAddr w index l))
    act x.1 f p x.2) s

/-- An access is issued when it is ready and its requests may be sent, and waits else. -/
def State.issueWhen (u : State) (f : Flock) (ready : Bool) (locs : List (Nat × Loc)) (issued : State → State) : Res State :=
  if ready then match u.countRequests f locs with
    | none => waits
    | some v => .ok (issued v)
  else waits

section
variable {s u v : State} {f : Flock} {p : Path} {k : Holding} {w : LaneWord} {srcs : List Src} {dsts : List Dst} {kind : Access} {n : Nat} {index : Bool}
  {act : State → Flock → Path → List (Nat × Loc) → Res State} {locs places : List (Nat × Loc)} {ready : Bool} {issued : State → State}

theorem globalAccess_waits (issues : IssuesLane s f p) (operands : LaneReady f p w srcs dsts)
    (passed : s.checkLanes (s.agentOf f) kind n ((laneList f p w).map fun l => (l, f.globalAddr w index l)) = .ok (u, locs))
    (form : act u f p locs = u.issueWhen f ready places issued) (late : ready = false ∨ u.countRequests f places = none) :
    globalAccess k w srcs dsts kind n index act s = .next (s.waiting false) := by
  have held : u.issueWhen f ready places issued = waits := by
    unfold State.issueWhen
    rcases late with unready | uncounted
    · rw [unready]; rfl
    · rw [uncounted]; exact ite_self _
  rw [held] at form
  simp only [globalAccess, runHeld, runLaneAs_eq issues, checkOperands_of operands, passed, bind, Except.bind, form]; rfl

theorem globalAccess_completes (issues : IssuesLane s f p) (operands : LaneReady f p w srcs dsts)
    (passed : s.checkLanes (s.agentOf f) kind n ((laneList f p w).map fun l => (l, f.globalAddr w index l)) = .ok (u, locs))
    (form : act u f p locs = u.issueWhen f ready places issued) (now : ready = true) (counted : u.countRequests f places = some v) :
    globalAccess k w srcs dsts kind n index act s = .next (issued v) := by
  rw [State.issueWhen, if_pos now, counted] at form
  simp only [globalAccess, runHeld, runLaneAs_eq issues, checkOperands_of operands, passed, bind, Except.bind, form]

/-- Where a lane's address fails, the access waits for a walk that cannot be made, or the lowest such lane traps in the state that the lanes below
it have left. -/
theorem globalAccess_fails {c l : Nat} {below above : List Nat} (issues : IssuesLane s f p) (operands : LaneReady f p w srcs dsts)
    (plain : f.recipe = none) (lanes : laneList f p w = below ++ l :: above)
    (passed : s.checkLanes (s.agentOf f) kind n (below.map fun l => (l, f.globalAddr w index l)) = .ok (u, locs))
    (failed : u.checkAccess (s.agentOf f) (f.globalAddr w index l) n kind = .error c) :
    (c = notYet → globalAccess k w srcs dsts kind n index act s = .next (s.waiting false)) ∧
    (c ≠ notYet → globalAccess k w srcs dsts kind n index act s =
      .next ((u.onFlock f.uid fun g => g.setPath { p with heldFault := none }).takeTrap f.uid (.lane p.id none)
        { cause := c, addr := BitVec.ofNat 64 (f.globalAddr w index l), info := BitVec.ofNat 64 (l + kind.code * 2 ^ 11),
          held := decide (p.heldFault = some p.pc) })) := by
  have stops := State.checkLanes_lowest_fails (l := l) (above := above.map fun l => (l, f.globalAddr w index l)) passed failed
  rw [← List.map_cons (f := fun l => (l, f.globalAddr w index l)), ← List.map_append, ← lanes] at stops
  refine ⟨fun yet => ?_, fun trap => ?_⟩
  · rw [addrStop, if_pos yet, foldr_after_wait] at stops
    simp only [globalAccess, runHeld, runLaneAs_eq issues, checkOperands_of operands, stops]; rfl
  · rw [addrStop, if_neg trap, foldr_after_trap _ rfl] at stops
    have left := Trap.stateOf_checks (t := { addrTrap c (f.globalAddr w index l) l kind with kept := checksOf _ _ _ _ }) passed rfl
    rw [← State.laneTrap_address (issues.of_rest (State.checkLanes_rest passed)) plain, ← State.laneTrap_after rfl left]
    simp only [globalAccess, runHeld, runLaneAs_eq issues, checkOperands_of operands, stops]; rfl

end

/-! ## What the accesses wait for (R109, R113, R118, R366) -/

section
variable {u v : State} {f : Flock} {locs : List (Nat × Loc)} {n : Nat} {rel : Option Scope} {c : Counter}

theorem Flock.counterRoom_of (h : f.count c < 255) : f.counterRoom c = true := decide_eq_true h

theorem Flock.counterRoom_full (h : 255 ≤ f.count c) : f.counterRoom c = false := decide_eq_false (Nat.not_lt.2 h)

theorem State.accessReady_of (memory : u.memReady f = true) (clear : ∀ x ∈ locs, f.overlaps x.2.pa n = false)
    (release : ∀ sc, rel = some sc → u.releaseReady f sc = true) : u.accessReady f locs n rel = true := by
  have places : locs.all (fun x => !f.overlaps x.2.pa n) = true := List.all_eq_true.2 fun x hx => by rw [clear x hx]; rfl
  simp only [State.accessReady, memory, places, Bool.true_and]
  cases rel with
  | none => rfl
  | some sc => exact release sc rfl

/-- What holds an access up: an access that it follows, one to its bytes, its release, or the requests that may be sent. -/
theorem State.accessReady_busy (busy : u.memReady f = false ∨ (∃ x ∈ locs, f.overlaps x.2.pa n = true) ∨
    (∃ sc, rel = some sc ∧ u.releaseReady f sc = false) ∨ u.countRequests f locs = none) :
    u.accessReady f locs n rel = false ∨ u.countRequests f locs = none := by
  rcases busy with memory | ⟨x, hx, meets⟩ | ⟨sc, rfl, release⟩ | uncounted
  · exact .inl (by simp only [State.accessReady, memory, Bool.false_and])
  · have places : locs.all (fun x => !f.overlaps x.2.pa n) = false := List.all_eq_false.2 ⟨x, hx, by simp [meets]⟩
    exact .inl (by simp only [State.accessReady, places, Bool.and_false, Bool.false_and])
  · exact .inl (by simp only [State.accessReady, release, Bool.and_false])
  · exact .inr uncounted

/-- As `accessReady_of`, for an access that a counter counts. -/
theorem State.accessReady_of_room (room : f.count c < 255) (memory : u.memReady f = true) (clear : ∀ x ∈ locs, f.overlaps x.2.pa n = false)
    (release : ∀ sc, rel = some sc → u.releaseReady f sc = true) : (f.counterRoom c && u.accessReady f locs n rel) = true := by
  rw [Flock.counterRoom_of room, State.accessReady_of memory clear release]; rfl

/-- As `accessReady_busy`, for an access that a counter counts. -/
theorem State.accessReady_full (busy : 255 ≤ f.count c ∨ u.memReady f = false ∨ (∃ x ∈ locs, f.overlaps x.2.pa n = true) ∨
    (∃ sc, rel = some sc ∧ u.releaseReady f sc = false) ∨ u.countRequests f locs = none) :
    (f.counterRoom c && u.accessReady f locs n rel) = false ∨ u.countRequests f locs = none := by
  rcases busy with full | busy
  · exact .inl (by rw [Flock.counterRoom_full full, Bool.false_and])
  · exact (State.accessReady_busy busy).imp_left fun unready => by rw [unready, Bool.and_false]

/-- The number of a lane makes no difference to what its access waits for. -/
theorem State.accessReady_places : u.accessReady f (locs.map fun x => (0, x.2)) n rel = u.accessReady f locs n rel := by
  simp only [State.accessReady, List.all_map]; rfl

theorem State.countRequests_places : u.countRequests f (locs.map fun x => (0, x.2)) = u.countRequests f locs := by
  simp only [State.countRequests, List.filter_map, List.length_map]; rfl

end

/-! ## Loads (R250, R252) -/

/-- The parts of a load at its locations. -/
def partsOf (w : LaneWord) (locs : List (Nat × Loc)) : List LoadPart := locs.flatMap fun x => loadParts w x.1 x.2

/-- Where the parts of a load lie. -/
def placesOf (parts : List LoadPart) : List (Nat × Loc) := parts.map fun x => (0, x.loc)

/-- A load at its locations. -/
def loadLanes (w : LaneWord) (acq : Option Scope) (u : State) (f : Flock) (p : Path) (locs : List (Nat × Loc)) : Res State := do
  let t ← u.load f p.pc (partsOf w locs) acq
  .ok (t.retirePath f.uid p.id)

/-- A load may be issued. -/
def State.loadReady (u : State) (f : Flock) (parts : List LoadPart) : Bool :=
  f.counterRoom .g && u.memReady f && u.readReady f && parts.all fun x => !f.overlaps x.loc.pa x.piece.bytes

/-- A load that is issued: its parts are read, and become an operation. -/
def loadIssued (w : LaneWord) (acq : Option Scope) (ag : Agent) (f : Flock) (p : Path) (locs : List (Nat × Loc)) (v : State) : State :=
  let r := v.readParts ag (acqWide acq) (partsOf w locs)
  (r.1.beginOp f.uid p.pc (some .g) r.2 0 acq).retirePath f.uid p.id

section
variable {s u : State} {f : Flock} {p : Path} {w : LaneWord} {acq : Option Scope} {locs : List (Nat × Loc)} {parts : List LoadPart}

theorem laneLoad_eq : laneLoad w acq s = globalAccess (if acq.isSome then .acquires else .loads) w [addrPair w, srcB w]
    [dst w (memRegs w) (memRegs w)] .read (memBytes w) true (loadLanes w acq) s := rfl

theorem loadLanes_eq : loadLanes w acq u f p locs =
    u.issueWhen f (u.loadReady f (partsOf w locs)) (placesOf (partsOf w locs)) (loadIssued w acq (u.agentOf f) f p locs) := by
  simp only [loadLanes, State.load, State.issueWhen, placesOf, ← State.loadReady.eq_def]
  cases u.loadReady f (partsOf w locs) with
  | false => rfl
  | true =>
    cases u.countRequests f ((partsOf w locs).map fun x => (0, x.loc)) <;> rfl

theorem State.loadReady_of (room : f.count .g < 255) (memory : u.memReady f = true) (reads : u.readReady f = true)
    (clear : ∀ x ∈ parts, f.overlaps x.loc.pa x.piece.bytes = false) : u.loadReady f parts = true := by
  have apart : parts.all (fun x => !f.overlaps x.loc.pa x.piece.bytes) = true := List.all_eq_true.2 fun x hx => by rw [clear x hx]; rfl
  simp only [State.loadReady, Flock.counterRoom_of room, memory, reads, apart, Bool.and_self]

theorem State.loadReady_late (late : 255 ≤ f.count .g ∨ u.memReady f = false ∨ u.readReady f = false ∨
    (∃ x ∈ parts, f.overlaps x.loc.pa x.piece.bytes = true) ∨ u.countRequests f (placesOf parts) = none) :
    u.loadReady f parts = false ∨ u.countRequests f (placesOf parts) = none := by
  rcases late with full | memory | reads | ⟨x, hx, meets⟩ | uncounted
  · exact .inl (by simp only [State.loadReady, Flock.counterRoom_full full, Bool.false_and])
  · exact .inl (by simp only [State.loadReady, memory, Bool.and_false, Bool.false_and])
  · exact .inl (by simp only [State.loadReady, reads, Bool.and_false, Bool.false_and])
  · have apart : parts.all (fun x => !f.overlaps x.loc.pa x.piece.bytes) = false := List.all_eq_false.2 ⟨x, hx, by simp [meets]⟩
    exact .inl (by simp only [State.loadReady, apart, Bool.and_false])
  · exact .inr uncounted

end

/-! ## Stores (R251, R252, R258) -/

/-- The bytes that a lane stores. -/
def Flock.storeData (f : Flock) (w : LaneWord) (l : Nat) : List Byte := f.dataBytes w (srcC w) (memBytes w) l

/-- A store at its locations. -/
def storeLanes (w : LaneWord) (rel : Option Scope) (u : State) (f : Flock) (p : Path) (locs : List (Nat × Loc)) : Res State := do
  let t ← u.store f (locs.map fun x => (x.2, f.storeData w x.1)) rel
  .ok (t.retireFence f.uid p.id)

/-- A store that is issued: its lanes write in their order. -/
def storeIssued (w : LaneWord) (ag : Agent) (f : Flock) (p : Path) (locs : List (Nat × Loc)) (v : State) : State :=
  (locs.foldl (fun t x => t.storePart ag x.2 (f.storeData w x.1)) v).retireFence f.uid p.id

/-- A fire-and-forget store at its locations. -/
def ffLanes (w : LaneWord) (u : State) (f : Flock) (p : Path) (locs : List (Nat × Loc)) : Res State := do
  waitUnless (f.counterRoom .f && u.accessReady f locs (memBytes w) none)
  match u.countRequests f locs with
  | none => waits
  | some v =>
    let t := locs.foldl (fun t x => t.ffPart (u.agentOf f) f.uid f.nextId x.2 (f.storeData w x.1)) v
    let remote := (locs.filter fun x => homeDie x.2.pa ≠ (u.agentOf f).die).length
    .ok ((t.beginOp f.uid p.pc (some .f) [] remote none).retireFence f.uid p.id)

/-- A fire-and-forget store that is issued: its operation counts the writes that other dies have still to perform. -/
def ffIssued (w : LaneWord) (ag : Agent) (f : Flock) (p : Path) (locs : List (Nat × Loc)) (v : State) : State :=
  ((locs.foldl (fun t x => t.ffPart ag f.uid f.nextId x.2 (f.storeData w x.1)) v).beginOp f.uid p.pc (some .f) []
    (locs.countP fun x => homeDie x.2.pa ≠ ag.die) none).retireFence f.uid p.id

section
variable {s u : State} {f : Flock} {p : Path} {w : LaneWord} {rel : Option Scope} {locs : List (Nat × Loc)} {ag : Agent} {n : Nat}

theorem laneStore_eq : laneStore w rel s =
    globalAccess .holds w (storeSources w (addrPair w)) [] .write (memBytes w) true (storeLanes w rel) s := rfl

theorem exec_vStFf : exec (.vStFf w) s =
    globalAccess .holds w (storeSources w (addrPair w)) [] .write (memBytes w) true (ffLanes w) s := rfl

theorem Flock.length_dataBytes (x : Src) (l : Nat) : (f.dataBytes w x n l).length = n := by
  simp only [Flock.dataBytes, List.length_take, List.length_flatMap, Laws.WordLength.length_bytesOf, List.map_const', List.length_range,
    List.sum_replicate_nat]
  omega

theorem State.storeParts_eq_foldl (parts : List (Loc × List Byte)) : s.storeParts ag parts = parts.foldl (fun t x => t.storePart ag x.1 x.2) s := by
  induction parts generalizing s with
  | nil => rfl
  | cons x parts ih => exact ih

/-- A store of lanes waits by their locations and their common size. -/
theorem State.store_lanes : u.store f (locs.map fun x => (x.2, f.storeData w x.1)) rel = u.issueWhen f (u.accessReady f locs (memBytes w) rel) locs
    fun v => locs.foldl (fun t x => t.storePart (u.agentOf f) x.2 (f.storeData w x.1)) v := by
  have size : u.accessReady f locs (((locs.map fun x => (x.2, f.storeData w x.1)).head?.map fun x => x.2.length).getD 1) rel =
      u.accessReady f locs (memBytes w) rel := by
    cases locs with
    | nil => rfl
    | cons x locs => exact congrArg (u.accessReady f (x :: locs) · rel) (Flock.length_dataBytes _ _)
  simp only [State.store, List.map_map, Function.comp_def, State.accessReady_places, State.countRequests_places, size, State.issueWhen,
    State.storeParts_eq_foldl, List.foldl_map]
  cases u.accessReady f locs (memBytes w) rel <;> rfl

theorem storeLanes_eq : storeLanes w rel u f p locs =
    u.issueWhen f (u.accessReady f locs (memBytes w) rel) locs (storeIssued w (u.agentOf f) f p locs) := by
  rw [storeLanes, State.store_lanes]
  simp only [State.issueWhen]
  cases u.accessReady f locs (memBytes w) rel with
  | false => rfl
  | true => cases u.countRequests f locs <;> rfl

theorem ffLanes_eq : ffLanes w u f p locs =
    u.issueWhen f (f.counterRoom .f && u.accessReady f locs (memBytes w) none) locs (ffIssued w (u.agentOf f) f p locs) := by
  simp only [ffLanes, State.issueWhen, ffIssued, List.countP_eq_length_filter]
  cases f.counterRoom .f && u.accessReady f locs (memBytes w) none with
  | false => rfl
  | true => cases u.countRequests f locs <;> rfl

end

/-! ## Atomics (R254, R256, R257) -/

/-- An atomic at its locations. -/
def atomLanes (w : LaneWord) (u : State) (f : Flock) (p : Path) (locs : List (Nat × Loc)) : Res State := do
  let t ← u.atomic f p.pc (atomOp w) (atomBytes w) (orderOf (cond w)) (fun l => lanePiece w.dest.toNat l (atomBytes w = 8)) (f.atomLanes w locs)
  .ok (t.retireFence f.uid p.id)

/-- The requests of an atomic at its locations. -/
def Flock.atomRequests (f : Flock) (w : LaneWord) (locs : List (Nat × Loc)) (v : State) : List AtomReq :=
  atomReqs (atomOp w) (atomBytes w) v.ticks (f.atomLanes w locs)

/-- An atomic that is issued: its requests act, and what they return is an operation. -/
def atomIssued (w : LaneWord) (ag : Agent) (f : Flock) (p : Path) (locs : List (Nat × Loc)) (v : State) : State :=
  let reqs := f.atomRequests w locs v
  let r := v.atomParts ag (atomOp w) (atomBytes w) (some (f.uid, f.nextId)) (fun l => lanePiece w.dest.toNat l (atomBytes w = 8)) 0 reqs
  (r.1.beginOp f.uid p.pc (some .g) r.2 (reqs.countP fun x => homeDie x.loc.pa ≠ ag.die) (acqScope (orderOf (cond w)))).retireFence f.uid p.id

/-- A reduction at its locations. -/
def reduceLanes (w : LaneWord) (u : State) (f : Flock) (p : Path) (locs : List (Nat × Loc)) : Res State := do
  let t ← u.reduce f (atomOp w) (atomBytes w) (orderOf (cond w)) (f.atomLanes w locs)
  .ok (t.retireFence f.uid p.id)

/-- A reduction that is issued: its requests act, and one that meets poison is reported. -/
def reduceIssued (w : LaneWord) (ag : Agent) (f : Flock) (p : Path) (locs : List (Nat × Loc)) (v : State) : State :=
  let r := v.atomParts ag (atomOp w) (atomBytes w) none (fun l => lanePiece 0 l false) 0 (f.atomRequests w locs v)
  (if r.2.any (·.poison) then r.1.tell ag.die .poisonedReduction else r.1).retireFence f.uid p.id

section
variable {s u : State} {f : Flock} {p : Path} {w : LaneWord} {locs : List (Nat × Loc)}

theorem exec_vAtom : exec (.vAtom w) s = globalAccess .stops w (atomSources w (addrPair w)) [dst w (atomRegs w) (atomRegs w)] .atomic (atomBytes w) false
    (atomLanes w) s := rfl

theorem exec_vAred : exec (.vAred w) s = globalAccess .holds w [addrPair w, srcB w (atomRegs w) (atomRegs w)] [] .atomic (atomBytes w) false
    (reduceLanes w) s := rfl

/-- An atomic reaches the locations of its lanes. -/
theorem Flock.atomLanes_places : (f.atomLanes w locs).map (fun x => (x.1, x.2.1)) = locs := by
  simp only [Flock.atomLanes, List.map_map]
  exact List.map_id _

theorem atomLanes_eq : atomLanes w u f p locs =
    u.issueWhen f (f.counterRoom .g && u.accessReady f locs (atomBytes w) (relScope (orderOf (cond w)))) locs
      (atomIssued w (u.agentOf f) f p locs) := by
  simp only [atomLanes, State.atomic, Flock.atomLanes_places, State.issueWhen, atomIssued, List.countP_eq_length_filter]
  cases f.counterRoom .g && u.accessReady f locs (atomBytes w) (relScope (orderOf (cond w))) with
  | false => rfl
  | true => cases u.countRequests f locs <;> rfl

theorem reduceLanes_eq : reduceLanes w u f p locs =
    u.issueWhen f (u.accessReady f locs (atomBytes w) (relScope (orderOf (cond w)))) locs (reduceIssued w (u.agentOf f) f p locs) := by
  simp only [reduceLanes, State.reduce, Flock.atomLanes_places, State.issueWhen]
  cases u.accessReady f locs (atomBytes w) (relScope (orderOf (cond w))) with
  | false => rfl
  | true => cases u.countRequests f locs <;> rfl

end

/-! ## What the caches leave of memory (R85, R259)

A fill, a walk or a translation for a read changes dies, cores and what is on its way. Memory changes with them only as units come to be shown under
other keys. -/

/-- Memory with the keys of its units, and the keys of the dies. -/
def State.keyed (s : State) : List Host.Cell × SMap (BitVec 512) × (Nat → SMap (BitVec 512)) := (s.mem, s.memKeys, fun d => (s.die d).keys)

/-- No unit of memory is encrypted, and no key is loaded. -/
def State.Unencrypted (s : State) : Prop := s.memKeys = [] ∧ ∀ d, (s.die d).keys = []

section
variable {s t : State} {ag : Agent} {loc : Loc}

theorem State.Unencrypted.of_keyed (clear : s.Unencrypted) (same : t.keyed = s.keyed) : t.Unencrypted := by
  obtain ⟨-, units, dies⟩ : t.mem = s.mem ∧ t.memKeys = s.memKeys ∧ (fun d => (t.die d).keys) = fun d => (s.die d).keys := by
    simpa only [State.keyed, Prod.mk.injEq] using same
  exact ⟨units.trans clear.1, fun d => (congrFun dies d).trans (clear.2 d)⟩

theorem State.onDie_keyed {d : Nat} {g : Die → Die} (hg : ∀ x, (g x).keys = x.keys) : (s.onDie d g).keyed = s.keyed := by
  have dies : (fun i => ((s.onDie d g).die i).keys) = fun i => (s.die i).keys := funext fun _ => State.onDie_field Die.keys hg
  rw [State.keyed, dies]; rfl

theorem State.onCore_keyed {c : Nat} {g : Core → Core} : (s.onCore c g).keyed = s.keyed := rfl

theorem State.post_keyed {e : Event} : (s.post e).keyed = s.keyed := rfl

/-! ### Packets on the links -/

theorem State.onLink_keyed {die link : Nat} {g : Link → Link} : (s.onLink die link g).keyed = s.keyed := State.onDie_keyed fun _ => rfl

theorem State.sendParcel_keyed {die link : Nat} {p : Parcel} : (s.sendParcel die link p).keyed = s.keyed := by
  simp only [State.sendParcel, State.sendGroup, State.transmit, State.post_keyed, State.onLink_keyed]
  exact (State.onDie_keyed (g := fun d => d.giveUpSlot p.id) fun _ => rfl).trans State.onLink_keyed

theorem State.pump_keyed {n : Nat} : (s.pump n).keyed = s.keyed := by
  induction n generalizing s with
  | zero => rfl
  | succ n ih =>
    unfold State.pump
    split
    · rfl
    · exact ih.trans State.sendParcel_keyed

theorem State.shipNew_keyed {cls : MsgClass} {session src dst : Nat} : (s.shipNew cls session src dst).keyed = s.keyed := by
  show (s.shipAs true cls s.nextUid session src dst).keyed = s.keyed
  unfold State.shipAs State.enqueue
  split
  · rfl
  · refine State.pump_keyed.trans ?_
    split
    · rfl
    · exact State.onLink_keyed

theorem State.shipRead_keyed {session src home : Nat} : (s.shipRead session src home).keyed = s.keyed :=
  State.shipNew_keyed.trans State.shipNew_keyed

/-! ### Lines that the caches take -/

theorem State.countFill_keyed {die : Nat} : (s.countFill die loc).keyed = s.keyed := by
  unfold State.countFill
  split
  · rfl
  · exact State.onDie_keyed fun _ => rfl

theorem State.touchL2_keyed {write : Bool} {n : Nat} : (s.touchL2 ag loc write n).keyed = s.keyed := by
  unfold State.touchL2
  dsimp only
  split
  · exact State.onDie_keyed fun _ => rfl
  · split
    · rfl
    · refine State.countFill_keyed.trans (.trans (State.onDie_keyed ?_) ?_)
      · exact fun _ => rfl
      · split <;> rfl

theorem State.fillRdc_keyed {bytes : List Byte} : (s.fillRdc ag loc bytes).keyed = s.keyed := by
  unfold State.fillRdc
  dsimp only
  split
  · rfl
  · split
    · rfl
    · split
      · exact State.onDie_keyed fun _ => rfl
      · exact State.countFill_keyed.trans (State.onDie_keyed fun _ => rfl)

theorem State.fillL1_keyed {line : List Byte} {poison : Bool} : (s.fillL1 ag loc line poison).keyed = s.keyed := by
  unfold State.fillL1
  split
  · rfl
  · dsimp only
    split
    · rfl
    · split
      · exact State.onDie_keyed fun _ => rfl
      · rfl

theorem State.touchXbar_keyed : (s.touchXbar ag loc).keyed = s.keyed := by
  unfold State.touchXbar
  split
  · rfl
  · dsimp only
    split
    · rfl
    · exact State.onDie_keyed fun _ => rfl

theorem State.fillFrom_keyed {rdc l1 : Bool} : (s.fillFrom ag loc rdc l1).keyed = s.keyed := by
  unfold State.fillFrom
  dsimp only
  have remote {u : State} {bytes : List Byte} : (if rdc = true then u.fillRdc ag loc bytes else u).keyed = u.keyed := by
    split
    · exact State.fillRdc_keyed
    · rfl
  split
  · exact State.touchL2_keyed
  · split
    · exact State.fillL1_keyed.trans (remote.trans State.touchL2_keyed)
    · exact remote.trans State.touchL2_keyed

theorem State.cacheRead_keyed {n : Nat} {l1 : Bool} {x : State × List Byte × Bool} (read : s.cacheRead ag loc n l1 = some x) : x.1.keyed = s.keyed := by
  have kept {u : State} {line : List Byte} {bad : Bool} : (if l1 = true then u.fillL1 ag loc line bad else u).keyed = u.keyed := by
    split
    · exact State.fillL1_keyed
    · rfl
  unfold State.cacheRead at read
  dsimp only at read
  split at read
  next =>
    cases read
    dsimp only
    split <;> rfl
  next =>
    split at read
    · cases read
      exact kept.trans (State.touchXbar_keyed.trans State.touchL2_keyed)
    · split at read
      · cases read
      · split at read
        · cases read
          exact kept.trans (State.onDie_keyed fun _ => rfl)
        · cases read

theorem State.readThrough_keyed {n : Nat} {l1 : Bool} {x : State × List Byte × Bool} (read : s.readThrough ag loc n l1 = some x) : x.1.keyed = s.keyed := by
  unfold State.readThrough at read
  dsimp only at read
  split at read
  next hit => cases read; exact State.cacheRead_keyed hit
  next =>
    split at read
    · cases read; rfl
    · split at read
      · cases read
      · cases read; exact State.shipRead_keyed.trans State.fillFrom_keyed

/-! ### Translations of reads in memory without keys -/

theorem State.rekey_unencrypted (clear : s.Unencrypted) : s.rekey loc = s := State.rekey_bare clear.1 clear.2 loc

theorem State.tableTouch_keyed {pa : Nat} (clear : s.Unencrypted) : (s.tableTouch ag pa).keyed = s.keyed := by
  rw [State.tableTouch, State.rekey_unencrypted clear]
  split
  next read => exact State.readThrough_keyed read
  next => rfl

theorem State.walkTouch_keyed {va level table : Nat} (clear : s.Unencrypted) : (s.walkTouch ag va level table).keyed = s.keyed := by
  induction level generalizing s table with
  | zero => exact State.tableTouch_keyed clear
  | succ level ih =>
    have touched {pa : Nat} : (s.tableTouch ag pa).keyed = s.keyed := State.tableTouch_keyed clear
    unfold State.walkTouch
    dsimp only
    split
    · rfl
    · split
      · exact (ih (clear.of_keyed touched)).trans touched
      · exact touched

theorem State.lookup_keyed {va : Nat} {x : State × Nat} (clear : s.Unencrypted) (found : s.lookup ag va = .ok x) : x.1.keyed = s.keyed := by
  have walked {level table : Nat} : (s.walkTouch ag va level table).keyed = s.keyed := State.walkTouch_keyed clear
  unfold State.lookup at found
  dsimp only at found
  split at found
  next hit =>
    cases found
    dsimp only
    split
    · refine .trans (State.onDie_keyed ?_) State.onCore_keyed
      exact fun _ => rfl
    · rfl
  next =>
    split at found
    · cases found
    · cases found
      dsimp only
      split
      · refine .trans (State.onDie_keyed ?_) (State.onCore_keyed.trans walked)
        exact fun _ => rfl
      · exact walked

theorem State.useEntry_read_keyed {session va e : Nat} {x : State × Loc} (clear : s.Unencrypted) (used : s.useEntry session va .read e = .ok x) :
    x.1.keyed = s.keyed := by
  unfold State.useEntry at used
  split at used
  · cases used
  next loc _ =>
    unfold State.reach at used
    rw [if_neg (show copyFirst va .read e ≠ true from Bool.false_ne_true)] at used
    split at used
    · cases used; exact congrArg State.keyed (State.rekey_unencrypted clear)
    · cases used

theorem State.checkAccess_read_keyed {va n : Nat} {x : State × Loc} (clear : s.Unencrypted) (passed : s.checkAccess ag va n .read = .ok x) :
    x.1.keyed = s.keyed := by
  unfold State.checkAccess State.translate at passed
  split at passed
  · cases passed
  · split at passed
    · cases passed
    · split at passed
      · cases passed
      next t e found =>
        have looked : t.keyed = s.keyed := State.lookup_keyed clear found
        exact (State.useEntry_read_keyed (clear.of_keyed looked) passed).trans looked

theorem State.noteRequests_keyed {n : Nat} : (s.noteRequests ag n).keyed = s.keyed := by
  unfold State.noteRequests State.addRequests
  dsimp only
  split
  · split
    · rfl
    · split <;> rfl
  · rfl

/-! ### Prefetches -/

/-- A lane's prefetch leaves all but the memory system as it was. -/
theorem State.prefetchLine_rest {l1 : Bool} {va : Nat} (fetched : s.prefetchLine ag l1 va = some t) : t.rest = s.rest := by
  unfold State.prefetchLine at fetched
  split at fetched
  · split at fetched <;> cases fetched
    rfl
  next u loc passed =>
    have checked : u.rest = s.rest := State.checkAccess_rest passed
    split at fetched
    · cases fetched; exact checked
    · obtain ⟨x, read, rfl⟩ := Option.map_eq_some_iff.1 fetched
      have readOn : x.1.rest = u.rest := State.readThrough_rest read
      dsimp only
      split
      · exact readOn.trans checked
      · exact State.noteRequests_rest.trans (readOn.trans checked)

/-- A lane's prefetch in memory without keys changes no byte of it. -/
theorem State.prefetchLine_keyed {l1 : Bool} {va : Nat} (clear : s.Unencrypted) (fetched : s.prefetchLine ag l1 va = some t) : t.keyed = s.keyed := by
  unfold State.prefetchLine at fetched
  split at fetched
  · split at fetched <;> cases fetched
    rfl
  next u loc passed =>
    have checked : u.keyed = s.keyed := State.checkAccess_read_keyed clear passed
    split at fetched
    · cases fetched; exact checked
    · obtain ⟨x, read, rfl⟩ := Option.map_eq_some_iff.1 fetched
      have readOn : x.1.keyed = u.keyed := State.readThrough_keyed read
      dsimp only
      split
      · exact readOn.trans checked
      · exact State.noteRequests_keyed.trans (readOn.trans checked)

/-- What every step keeps, steps in turn that may fail keep. -/
theorem foldl_bind_some {α : Type} {P : State → Prop} {g : State → α → Option State} {l : List α} (hg : ∀ u x v, P u → g u x = some v → P v)
    (hs : P s) (done : l.foldl (fun o x => o.bind fun u => g u x) (some s) = some t) : P t := by
  refine List.foldlRecOn (motive := fun o => ∀ v, o = some v → P v) l _ ?_ (fun o ho x _ v hv => ?_) t done
  · rintro _ ⟨⟩
    exact hs
  · obtain ⟨u, hu, step⟩ := Option.bind_eq_some_iff.1 hv
    exact hg u x v (ho u hu) step

end

/-- The lines of the lanes of a prefetch brought in, in turn. -/
def State.prefetchLanes (s : State) (ag : Agent) (w : LaneWord) (f : Flock) (lanes : List Nat) : Option State :=
  lanes.foldl (fun x l => x.bind fun t => t.prefetchLine ag (w.sub = 0) (f.globalAddr w true l)) (some s)

section
variable {s t : State} {f : Flock} {p : Path} {w : LaneWord} {ag : Agent} {lanes : List Nat}

theorem State.prefetchLanes_rest (fetched : s.prefetchLanes ag w f lanes = some t) : t.rest = s.rest :=
  foldl_bind_some (P := fun u => u.rest = s.rest) (fun _ _ _ same step => (State.prefetchLine_rest step).trans same) rfl fetched

theorem State.prefetchLanes_mem (clear : s.Unencrypted) (fetched : s.prefetchLanes ag w f lanes = some t) : t.mem = s.mem :=
  congrArg Prod.fst (foldl_bind_some (P := fun u => u.keyed = s.keyed)
    (fun _ _ _ same step => (State.prefetchLine_keyed (clear.of_keyed same) step).trans same) rfl fetched)

/-- A prefetch waits while a line cannot be brought in, or its requests may not be sent. -/
theorem exec_vPrefetch_waits (issues : IssuesLane s f p) (operands : LaneReady f p w [addrPair w, srcB w] [])
    (late : ∀ t, s.prefetchLanes (s.agentOf f) w f (laneList f p w) = some t → s.mayHaveSent t (s.agentOf f) = false) :
    exec (.vPrefetch w) s = .next (s.waiting false) := by
  show execVPrefetch w s = _
  simp only [execVPrefetch, runLane, runHeld, runLaneAs_eq issues, checkOperands_of operands, bind, Except.bind, ← State.prefetchLanes.eq_def]
  cases fetched : s.prefetchLanes (s.agentOf f) w f (laneList f p w) with
  | none => rfl
  | some t => simp only [late t fetched]; rfl

theorem exec_vPrefetch_completes (issues : IssuesLane s f p) (operands : LaneReady f p w [addrPair w, srcB w] [])
    (fetched : s.prefetchLanes (s.agentOf f) w f (laneList f p w) = some t) (now : s.mayHaveSent t (s.agentOf f) = true) :
    exec (.vPrefetch w) s = .next (t.retirePath f.uid p.id) := by
  show execVPrefetch w s = _
  simp only [execVPrefetch, runLane, runHeld, runLaneAs_eq issues, checkOperands_of operands, bind, Except.bind, ← State.prefetchLanes.eq_def,
    fetched, now]
  rfl

end

/-! ## The statement -/

/-- Settles O24: the loads, stores and atomics are of one form, which waits, stops at the lowest lane that fails or has its effect; a prefetch takes
its lanes in turn. -/
theorem laneGlobalMemory : Obligations.LaneGlobalMemory := by
  unfold Obligations.LaneGlobalMemory
  intro s u v f p w locs issues lanes n ag at_ clear fenced data loads waits fails busy stores m op ord reqs waited
  have waiting {i k reads writes kind n index act late ready places issued} (form : exec i s = globalAccess k w reads writes kind n index act s)
      (acts : act u f p locs = u.issueWhen f ready places issued) (follows : late → ready = false ∨ u.countRequests f places = none) :
      waits i reads writes kind n index late :=
    fun operands passed isLate => form.trans (globalAccess_waits issues operands passed acts (follows isLate))
  have failing {i k reads writes kind n index act} (form : exec i s = globalAccess k w reads writes kind n index act s) :
      fails i reads writes kind n index := by
    intro operands plain below l above c split passed va why
    rw [form]
    exact globalAccess_fails issues operands plain split passed (State.checkAccess_fails why)
  have loading {i acq} (form : exec i s = laneLoad w acq s) : loads i acq := fun operands passed room memory reads clear counted =>
    (form.trans laneLoad_eq).trans (globalAccess_completes issues operands passed loadLanes_eq (State.loadReady_of room memory reads clear) counted)
  have storing {i rel} (form : exec i s = laneStore w rel s) : stores i rel := fun operands passed memory clear release counted =>
    (form.trans laneStore_eq).trans (globalAccess_completes issues operands passed storeLanes_eq (State.accessReady_of memory clear release)
      (State.countRequests_places.symm.trans counted))
  refine ⟨loading rfl, loading rfl, storing rfl, storing rfl, ?ff, ?atom, ?reduce, ?late, ?prefetch⟩
  case ff =>
    rintro operands passed room ⟨memory, clear, counted⟩
    exact exec_vStFf.trans (globalAccess_completes issues operands passed ffLanes_eq (State.accessReady_of_room room memory clear nofun) counted)
  case atom =>
    rintro operands passed room release ⟨memory, clear, counted⟩
    exact exec_vAtom.trans (globalAccess_completes issues operands passed atomLanes_eq (State.accessReady_of_room room memory clear release) counted)
  case reduce =>
    rintro operands passed release ⟨memory, clear, counted⟩
    exact exec_vAred.trans (globalAccess_completes issues operands passed reduceLanes_eq (State.accessReady_of memory clear release) counted)
  case late =>
    exact ⟨waiting laneLoad_eq loadLanes_eq State.loadReady_late, waiting laneLoad_eq loadLanes_eq State.loadReady_late, failing laneLoad_eq,
      failing laneLoad_eq, waiting exec_vStFf ffLanes_eq State.accessReady_full, failing laneStore_eq, failing laneStore_eq, failing exec_vStFf,
      waiting laneStore_eq storeLanes_eq State.accessReady_busy, waiting laneStore_eq storeLanes_eq State.accessReady_busy,
      waiting exec_vAtom atomLanes_eq State.accessReady_full, failing exec_vAtom, waiting exec_vAred reduceLanes_eq State.accessReady_busy,
      failing exec_vAred⟩
  case prefetch =>
    intro operands lines
    exact ⟨fun lost => exec_vPrefetch_waits issues operands fun t found => absurd (lost.symm.trans found) nofun,
      fun t fetched held => exec_vPrefetch_waits issues operands fun _ found => Option.some.inj (fetched.symm.trans found) ▸ held,
      fun t fetched now => ⟨exec_vPrefetch_completes issues operands fetched now, State.rest_flocks (State.prefetchLanes_rest fetched),
        State.rest_herds (State.prefetchLanes_rest fetched), fun units dies => State.prefetchLanes_mem ⟨units, dies⟩ fetched⟩⟩

end Sys2Proof.Machine

/-!
PROOFS. Operand-buffer reservations and engine leases as statement O18 says: the lowest free handle of a herd (R279), its release (R281), and the
start and end of a lease (R298).
-/
namespace Sys2Proof.Machine

/-! ## What a scalar instruction's meaning gives as a step -/

/-- A trap that names a register's contents. -/
theorem traps_toNat {α : Type} {cause : Nat} {x : Word64} : (traps cause x.toNat : Res α) = .error (.trap { cause := cause, addr := x }) := by
  simp [traps]

section
variable {s t : State} {f : Flock} {body : State → Flock → Res State} (issues : IssuesScalar s f)
include issues

theorem runScalar_completes (done : body s f = .ok t) : runScalar body s = .next t := by
  rw [runScalar_eq issues, done]

theorem runScalar_traps {x : Trap} (trapped : body s f = .error (.trap x)) (kept : x.kept = []) :
    runScalar body s = .next (s.takeTrap f.uid .scalar x) := by
  rw [runScalar_eq issues, trapped]
  show Host.Outcome.next ((x.stateOf s).takeTrap f.uid .scalar x) = _
  rw [Trap.stateOf, kept]
  rfl

end

/-! ## Handles of a herd (R279) -/

section
variable {h : Herd} {k : Nat}

theorem Herd.freeHandle_eq_some (below : k < 16) (free : SMap.get? h.rsv k = none) (taken : ∀ j, j < k → SMap.get? h.rsv j ≠ none) :
    h.freeHandle = some k := by
  refine List.find?_range_eq_some.2 ⟨Option.isNone_iff_eq_none.2 free, List.mem_range.2 below, fun j hj => ?_⟩
  rw [Bool.not_eq_true', Option.isNone_eq_false_iff]
  exact Option.isSome_iff_ne_none.2 (taken j hj)

theorem Herd.freeHandle_eq_none (taken : ∀ j, j < 16 → SMap.get? h.rsv j ≠ none) : h.freeHandle = none :=
  List.find?_eq_none.2 fun j hj free => taken j (List.mem_range.1 hj) (Option.isNone_iff_eq_none.1 free)

end

/-! ## What each form answers -/

section
variable {s : State} {f : Flock} {d a : BitVec 6} {k : Nat} (issues : IssuesScalar s f)
include issues

section
variable (source : Readable f a)
include source

theorem exec_sOpbRsv_completes (dest : Writable f d) (valid : recordOk (f.rs a) (s.herdOf f).opbSize = true)
    (free : (s.herdOf f).freeHandle = some k) :
    exec (.sOpbRsv d a) s = .next ((s.setHerd { s.herdOf f with rsv := SMap.insert (s.herdOf f).rsv k (f.rs a) }).setFlock
      (f.setS d.toNat (BitVec.ofNat 64 k)).advance) := by
  show execSOpbRsv d a s = _
  refine runScalar_completes issues ?_
  simp only [useS_of (List.forall_mem_singleton.2 source), defS_of dest, valid, if_true, free]
  rfl

theorem exec_sOpbRsv_traps (dest : Writable f d) (full : recordOk (f.rs a) (s.herdOf f).opbSize = false ∨ (s.herdOf f).freeHandle = none) :
    exec (.sOpbRsv d a) s = .next (s.takeTrap f.uid .scalar { cause := 0x0F, addr := f.rs a }) := by
  have noHandle : (if recordOk (f.rs a) (s.herdOf f).opbSize = true then (s.herdOf f).freeHandle else none) = none := by
    obtain invalid | full := full
    · exact if_neg (Bool.eq_false_iff.1 invalid)
    · rw [full, ite_self]
  show execSOpbRsv d a s = _
  refine runScalar_traps issues ?_ rfl
  simp only [useS_of (List.forall_mem_singleton.2 source), defS_of dest, noHandle]
  exact traps_toNat

theorem exec_sOpbRel_completes (held : (SMap.get? (s.herdOf f).rsv (bitsAt (f.rs a).toNat 0 4)).isSome = true)
    (unnamed : ((s.core f.core).mxq.all fun o => decide (o.herd ≠ (s.herdOf f).uid) || !o.handles.contains (bitsAt (f.rs a).toNat 0 4)) = true) :
    exec (.sOpbRel a) s =
      .next ((s.setHerd { s.herdOf f with rsv := SMap.erase (s.herdOf f).rsv (bitsAt (f.rs a).toNat 0 4) }).setFlock f.advance) := by
  show execSOpbRel a s = _
  refine runScalar_completes issues ?_
  simp only [useS_of (List.forall_mem_singleton.2 source), held, trapUnless, waitUnless, unnamed, if_true]
  rfl

theorem exec_sOpbRel_traps (free : (SMap.get? (s.herdOf f).rsv (bitsAt (f.rs a).toNat 0 4)).isSome = false) :
    exec (.sOpbRel a) s = .next (s.takeTrap f.uid .scalar { cause := 0x0F, addr := f.rs a }) := by
  show execSOpbRel a s = _
  refine runScalar_traps issues ?_ rfl
  simp only [useS_of (List.forall_mem_singleton.2 source), free, trapUnless]
  exact traps_toNat

variable (dest : Writable f d)
include dest

theorem exec_sMxLease_traps (outside : ¬ (1 ≤ (f.rs a).toNat ∧ (f.rs a).toNat ≤ 65536)) :
    exec (.sMxLease d a) s = .next (s.takeTrap f.uid .scalar { cause := 0x02 }) := by
  show execSMxLease d a s = _
  refine runScalar_traps issues ?_ rfl
  simp only [useS_of (List.forall_mem_singleton.2 source), defS_of dest, trapUnless, Bool.and_eq_true, decide_eq_true_eq, if_neg outside]
  rfl

variable (inside : 1 ≤ (f.rs a).toNat ∧ (f.rs a).toNat ≤ 65536)
include inside

theorem exec_sMxLease_interactive (cls : (s.paddock (s.paddockOf (s.herdOf f).session)).desc.cls = false) :
    exec (.sMxLease d a) s = .next (s.setFlock (f.setS d.toNat 0).advance) := by
  show execSMxLease d a s = _
  refine runScalar_completes issues ?_
  simp only [useS_of (List.forall_mem_singleton.2 source), defS_of dest, trapUnless, Bool.and_eq_true, decide_eq_true_eq, if_pos inside, cls]
  rfl

theorem exec_sMxLease_batch (cls : (s.paddock (s.paddockOf (s.herdOf f).session)).desc.cls = true)
    (ready : (s.core f.core).leaseReady (s.herdOf f).uid = true) :
    exec (.sMxLease d a) s = .next ((s.onCore f.core fun c =>
      { c with lease := some ((s.herdOf f).uid, (f.rs a).toNat), leaseDebt := SMap.erase c.leaseDebt (s.herdOf f).uid }).setFlock
        (f.setS d.toNat (f.rs a)).advance) := by
  show execSMxLease d a s = _
  refine runScalar_completes issues ?_
  simp only [useS_of (List.forall_mem_singleton.2 source), defS_of dest, trapUnless, Bool.and_eq_true, decide_eq_true_eq, if_pos inside, cls,
    waitUnless, ready]
  rfl

end

theorem exec_sMxYield : exec .sMxYield s = .next ((s.onCore f.core fun c => c.endLease f.herd).setFlock f.advance) := by
  show execSMxYield s = _
  exact runScalar_completes issues rfl

end

/-- Settles O18: a reservation takes the lowest free handle and its release frees it, or they fault; a lease runs in a batch-class paddock alone, and ends
at a yield. -/
theorem reservationsAndLeases : Obligations.ReservationsAndLeases := by
  unfold Obligations.ReservationsAndLeases
  intro s f d a k issues source dest h x opbFault wrote rt
  have handle : x.toNat % 16 = bitsAt (f.rs a).toNat 0 4 := by simp [bitsAt, x, Flock.rs]
  have inside (nonzero : x ≠ 0) (atMost : x.toNat ≤ 65536) : 1 ≤ (f.rs a).toNat ∧ (f.rs a).toNat ≤ 65536 :=
    ⟨Nat.one_le_iff_ne_zero.2 fun zero => nonzero (BitVec.eq_of_toNat_eq zero), atMost⟩
  rw [handle]
  refine ⟨?reserve, ?noHandle, ?release, ?unreserved, ?count, ?interactive, ?batch, exec_sMxYield issues⟩
  case reserve => exact fun valid below free taken => exec_sOpbRsv_completes issues source dest valid (Herd.freeHandle_eq_some below free taken)
  case noHandle => exact fun full => exec_sOpbRsv_traps issues source dest (full.imp_right Herd.freeHandle_eq_none)
  case release =>
    refine fun held unnamed => exec_sOpbRel_completes issues source (Option.isSome_iff_ne_none.2 held) (List.all_eq_true.2 fun o queued => ?_)
    rw [Bool.or_eq_true, decide_eq_true_eq, Bool.not_eq_true', ← Bool.not_eq_true, List.contains_iff_mem]
    exact Decidable.not_or_of_imp (unnamed o queued)
  case unreserved => exact fun free => exec_sOpbRel_traps issues source (Option.isSome_eq_false_iff.2 (Option.isNone_iff_eq_none.2 free))
  case count =>
    refine fun outside => exec_sMxLease_traps issues source dest fun ⟨atLeast, atMost⟩ => ?_
    obtain zero | above := outside
    · exact absurd (congrArg BitVec.toNat zero) (Nat.one_le_iff_ne_zero.1 atLeast)
    · exact absurd atMost (Nat.not_le.2 above)
  case interactive => exact fun nonzero atMost cls => exec_sMxLease_interactive issues source dest (inside nonzero atMost) cls
  case batch => exact fun nonzero atMost cls ready => exec_sMxLease_batch issues source dest (inside nonzero atMost) cls ready

end Sys2Proof.Machine

/-!
PROOFS. States that refute statements O32 and O33: a `v.opb.put` of a herd that holds no context, and a drain that cannot leave its die.
-/
namespace Sys2Proof.Machine

/-! ## A put of a herd without a context (R282; log entry 29) -/

/-- A `v.opb.put` of v0 to offset 0 of reservation 0. -/
def putWord : LaneWord := ⟨0, 15, false, 0, 0, 192, 0, 0, 0, 0, 0, false, 0, 0⟩

/-- The flock of `State.fetchState` issues on its path of 32 lanes, for a herd with `.acc 0` whose reservation 0 is its whole allotment of 256 bytes. -/
def noContextState : State :=
  { State.reset.fetchState true [] with herds := [{ Herd.absent with uid := 2, region := 3, opbSize := 256, rsv := [(0, 256)] }], cur := some ⟨1, some 0⟩ }

/-- The contexts that the queued operations of a core name, after an instruction has completed. -/
def queuedCtxs (core : Nat) : Host.Outcome State Fault Refusal → List Nat
  | .next u => (u.core core).mxq.map (·.ctx)
  | _ => []

/-- Refutes O32: the clause on `v.opb.put` queues the operation with context 0, and leaves out that the herd holds a context. That of a herd with `.acc 0`
enters the queue of operations without a context. -/
theorem not_matrixInstructions : ¬ Obligations.MatrixInstructions := by
  unfold Obligations.MatrixInstructions
  intro all
  let f := fetchFlock true
  let p := Path.start 0 0 (LaneMask.below 32) 0 [] .ready
  have issues : IssuesLane noContextState f p := ⟨rfl, rfl, rfl, rfl, rfl⟩
  obtain ⟨-, -, -, -, -, -, -, -, -, put⟩ := all noContextState f p putWord 256 [] issues nofun rfl
  have operands : LaneReady f p putWord [srcA putWord 1, srcB putWord] [] := by decide +kernel
  have inside : ∀ l ∈ laneList f p putWord, (f.read32 putWord (srcB putWord) l).toNat % 4 = 0 ∧
      (f.read32 putWord (srcB putWord) l).toNat + 4 ≤ recordLen 256 := by decide +kernel
  obtain ⟨u, g, puts, -, queued, -⟩ := put (by decide) (checkOperands_of operands) rfl inside rfl nofun
  have apart : queuedCtxs 0 (exec (.vOpbPut putWord) noContextState) = [noCtx] := by decide +kernel
  have named : (u.core 0).mxq.map (·.ctx) = [0] := (congrArg (List.map MxOp.ctx) queued).trans (by decide +kernel)
  rw [puts] at apart
  exact absurd (named.symm.trans apart) (by decide)

/-! ## A drain that cannot leave its die (R294, R467) -/

theorem Core.mxq_isEmpty_of_nextMx {k : Core} {o : MxOp} (next : k.nextMx = some o) : k.mxq.isEmpty = false := by
  rw [List.isEmpty_eq_false_iff]
  intro empty
  simp [Core.nextMx, Core.mxReady, empty] at next

/-- The engine keeps its next operation while what that writes cannot leave the die. -/
theorem exec_matrixEngineOperation_held {s : State} {core : Nat} {o : MxOp} (next : (s.core core).nextMx = some o)
    (held : s.mxMayWrite core o = false) : exec (.matrixEngineOperation core) s = .next (s.post (.matrixEngineOperation core)) := by
  have none_ : (if (s.core core).engineOn = true then (s.core core).nextMx.filter (s.mxMayWrite core) else none) = none := by
    rw [next, Option.filter_some, if_neg (Bool.eq_false_iff.1 held), ite_self]
  show execMatrixEngineOperation core s = _
  simp only [execMatrixEngineOperation, none_, Core.mxq_isEmpty_of_nextMx next]
  rfl

/-- A drain of one word of tile 0 in lane 0 to die 1, issued by flock 1 of herd 2. -/
def farDrain : MxOp :=
  { herd := 2, ctx := 0, flock := 1, slot := 0, path := 0, arm := 0, top := none, lidx := 0, op := none,
    kind := .drain { tile := 0, c0 := 0, n := 1, zp := 0, handle := none, sh := 0, sat := false, target := 0, global := true }
      [(0, [{ va := 0, pa := 2 ^ 37, key := 0, cclass := 0, commons := false, aff := none, session := 0, table := false }])] }

/-- It stands alone in the queue of core 0, whose engine has started, while the link from die 0 to die 1 is in training. -/
def trainingState : State :=
  let s : State := { State.reset.fetchState true [] with herds := [{ Herd.absent with uid := 2, region := 3, ctxs := [Ctx.reset] }] }
  (s.onCore 0 fun k => { k with mxq := [farDrain] }).onLink 0 0 fun k => { k with training := true }

/-- Refutes O33: the first clause has a started engine perform its next operation, and leaves out that what the operation writes can leave its die. The
drain stays queued while the link is in training, and would be gone. -/
theorem not_matrixEngine : ¬ Obligations.MatrixEngine := by
  unfold Obligations.MatrixEngine
  rintro ⟨engine, -⟩
  have next : (trainingState.core 0).nextMx = some farDrain := by decide +kernel
  have held : trainingState.mxMayWrite 0 farDrain = false := by decide +kernel
  have same := Host.Outcome.next.inj ((exec_matrixEngineOperation_held next held).symm.trans ((engine trainingState 0 farDrain).1 rfl next))
  have stays : ((trainingState.post (.matrixEngineOperation 0)).core 0).mxq = [farDrain] := by decide +kernel
  have gone : (((trainingState.setCore 0 ((trainingState.core 0).takeMx farDrain)).performMx 0 farDrain).core 0).mxq = [] := by decide +kernel
  rw [same, gone] at stays
  exact absurd stays nofun

end Sys2Proof.Machine

/-!
PROOFS. The acceptance of copy forms as statement O16 says: what a form that passes its checks answers (R301 to R305, R310, R311, R317), and what its
acceptance leaves of the flock that issued it.
-/
namespace Sys2Proof.Machine

/-! ## Flocks by number -/

/-- What a list has under a number, after its elements of that number have been changed. -/
theorem find_map_key {α : Type} {key : α → Nat} {n : Nat} {g : α → α} {l : List α} {x : α} (keeps : ∀ y, key y = n → key (g y) = n)
    (found : l.find? (fun y => key y == n) = some x) :
    (l.map fun y => if key y = n then g y else y).find? (fun y => key y == n) = some (g x) := by
  have same : ((fun y => key y == n) ∘ fun y => if key y = n then g y else y) = fun y => key y == n := by
    funext y
    by_cases named : key y = n
    · simp [named, keeps y named]
    · simp [named]
  have named : key x = n := by simpa using List.find?_some found
  rw [List.find?_map, same, found, Option.map_some, if_pos named]

section
variable {s : State} {f g : Flock} {uid : Nat}

theorem State.onFlock_flock {h : Flock → Flock} (there : s.flock? uid = some f) (keeps : ∀ x, (h x).uid = x.uid) :
    (s.onFlock uid h).flock? uid = some (h f) :=
  find_map_key (key := Flock.uid) (fun x named => (keeps x).trans named) there

theorem State.setFlock_flock (there : s.flock? g.uid = some f) : (s.setFlock g).flock? g.uid = some g :=
  find_map_key (key := Flock.uid) (g := fun _ => g) (fun _ _ => rfl) there

/-- The operation of a flock whose number is new to it. -/
theorem Flock.op_append {o : Op} (fresh : ∀ x ∈ f.ops, x.id < o.id) (last : g.ops = f.ops ++ [o]) : g.op? o.id = some o := by
  have others : f.ops.find? (fun x => x.id == o.id) = none := List.find?_eq_none.2 fun x old same =>
    absurd (fresh x old) (by rw [beq_iff_eq.1 same]; exact Nat.lt_irrefl _)
  simp [Flock.op?, last, List.find?_append, others]

/-- The operation that a copy command in flight is for its flock: it returns nothing, and ends with the command. -/
def copyOp (f : Flock) : Op :=
  { id := f.nextId, counter := some .s, lidx := f.spc, pieces := [], packets := 1, acq := none, flags := 0, tos := false, written := false,
    replies := [] }

/-- A command in flight counts on S, and its end is not yet due. -/
theorem State.beginOp_copy (there : s.flock? f.uid = some f) (fresh : ∀ o ∈ f.ops, o.id < f.nextId) :
    s.beginOp f.uid f.spc (some .s) [] 1 none = s.setFlock { f with nextId := f.nextId + 1, ops := f.ops ++ [copyOp f] } := by
  have started : s.beginOp f.uid f.spc (some .s) [] 1 none =
      (s.setFlock { f with nextId := f.nextId + 1, ops := f.ops ++ [copyOp f] }).opProgress f.uid f.nextId := by
    show s.startOp f.uid f.spc (some .s) [] 1 none [] = _
    simp only [State.startOp, there]
    rfl
  have live := State.setFlock_flock (s := s) (g := { f with nextId := f.nextId + 1, ops := f.ops ++ [copyOp f] }) there
  have op := Flock.op_append (f := f) (g := { f with nextId := f.nextId + 1, ops := f.ops ++ [copyOp f] }) (o := copyOp f) fresh rfl
  rw [started, State.opProgress]
  simp only [live, show Flock.op? _ f.nextId = _ from op]
  rfl

end

/-! ## What an acceptance leaves (R303) -/

/-- A counting barrier expects the bytes of a command that asks for it. -/
def State.expecting (s : State) (k : CopyKind) (h : Herd) (c : Word64) (r : BitVec 512) : State :=
  if cmdExp c then s.expectBytes (s.commandBars k h c) ((layoutOf r).total (cmdXform c)) else s

/-- A command as its acceptance leaves it. -/
def State.newCmd (s : State) (k : CopyKind) (h : Herd) (f : Flock) (c : Word64) (src dst : Nat) (r : BitVec 512) (e : Nat) : CopyCmd :=
  { id := s.nextUid, entry := e, kind := k, flock := f.uid, herd := f.herd, region := h.region, session := h.session, cmd := c,
    src := src, dst := dst, layoutRec := r, windows := if cmdGlobal k c then s.windows h.session else [],
    op := if cmdGlobal k c then none else some f.nextId, started := false, row := 0, rows := [], words := [], flags := 0,
    suspended := false, report := s.copyReport f e }

/-- A command is in the engine queue of a core, and its start is due. -/
def State.enter (s : State) (core : Nat) (cmd : CopyCmd) : State :=
  ((s.onCore core fun k => { k with engine := k.engine ++ [cmd] }).bumpUid).post (.copyTransferStart core cmd.id)

/-- A command is in its queue, a form that lands in a scratchpad counts on S, and the flock moves on. -/
def State.accept (s : State) (f : Flock) (cmd : CopyCmd) : State :=
  (if cmdGlobal cmd.kind cmd.cmd then s.enter f.core cmd else (s.enter f.core cmd).beginOp f.uid f.spc (some .s) [] 1 none).onFlock f.uid
    fun f => f.advance.fence

theorem State.expectBytes_eq {s : State} {bars : List (Nat × Nat × Nat)} {n : Nat} :
    ∃ hs es, s.expectBytes bars n = { s with herds := hs, ended := es } := by
  unfold State.expectBytes
  refine List.foldlRecOn (motive := fun t : State => ∃ hs es, t = { s with herds := hs, ended := es }) _ _ ⟨_, _, rfl⟩ ?_
  rintro _ ⟨hs, es, rfl⟩ ⟨_, uid, off⟩ _
  dsimp only
  split <;> exact ⟨_, _, rfl⟩

/-- Barriers that expect bytes lie in scratchpads: nothing else changes. -/
theorem State.expecting_eq {s : State} {k : CopyKind} {h : Herd} {c : Word64} {r : BitVec 512} :
    ∃ hs es, s.expecting k h c r = { s with herds := hs, ended := es } := by
  unfold State.expecting
  split
  · exact State.expectBytes_eq
  · exact ⟨_, _, rfl⟩

section
variable {s : State} {f : Flock} {core : Nat} {cmd : CopyCmd}

theorem State.mem_enter : cmd ∈ ((s.enter core cmd).core core).engine := by
  have queue : ((s.enter core cmd).core core).engine = (s.core core).engine ++ [cmd] :=
    congrArg Core.engine ((State.onCore_core s core core fun k => { k with engine := k.engine ++ [cmd] }).trans (if_pos rfl))
  rw [queue]
  exact List.mem_append_right _ (List.mem_singleton_self cmd)

variable (there : s.flock? f.uid = some f) (fresh : ∀ o ∈ f.ops, o.id < f.nextId)
include there fresh

/-- The flock that issued an accepted command: it has moved on, as a fence does, and its scalar registers are as they were. -/
theorem State.accept_flock : ∃ g, (s.accept f cmd).flock? f.uid = some g ∧ g.spc = f.spc + 1 ∧ g.point = none ∧ g.s = f.s ∧
    g.count .s = f.count .s + if cmdGlobal cmd.kind cmd.cmd then 0 else 1 := by
  have entered : (s.enter f.core cmd).flock? f.uid = some f := there
  unfold State.accept
  split
  · exact ⟨_, State.onFlock_flock entered fun _ => rfl, rfl, rfl, rfl, rfl⟩
  · rw [State.beginOp_copy entered fresh]
    refine ⟨_, State.onFlock_flock (State.setFlock_flock entered) fun _ => rfl, rfl, rfl, rfl, ?_⟩
    show ((f.ops ++ [copyOp f]).filter fun o => o.counter == some .s).length = _
    rw [List.filter_append, List.length_append]
    rfl

/-- Besides flocks an acceptance leaves the command in its queue with its start due. -/
theorem State.accept_eq : ∃ fs, s.accept f cmd = { s.enter f.core cmd with flocks := fs } := by
  have entered : (s.enter f.core cmd).flock? f.uid = some f := there
  unfold State.accept
  split
  · exact ⟨_, rfl⟩
  · rw [State.beginOp_copy entered fresh]
    exact ⟨_, rfl⟩

end

/-! ## A body that waits, and checks that some forms make -/

theorem runScalar_waits {s : State} {f : Flock} {body : State → Flock → Res State} (issues : IssuesScalar s f) (held : body s f = waits) :
    runScalar body s = .next (s.waiting false) := by
  rw [runScalar_eq issues, held]
  rfl

theorem Except.ok_bind {ε α β : Type} {a : α} {g : α → Except ε β} : Except.bind (.ok a) g = g a := rfl

section
variable {α : Type} {p : Prop} [Decidable p] {check : Res Unit} {rest : Res α}

theorem if_check_bind (passes : p → check = .ok ()) : (if p then check.bind fun _ => rest else rest) = rest := by
  split
  next h => rw [passes h]; rfl
  · rfl

theorem unless_check_bind (passes : ¬ p → check = .ok ()) : (if p then rest else check.bind fun _ => rest) = rest := by
  split
  · rfl
  next h => rw [passes h]; rfl

end

/-! ## What a copy form answers (R301, R303) -/

/-- A copy form keeps the rules of its command word and record, and its addresses pass (R302, R304, R305, R310, R311, R317). -/
def State.copyPasses (u : State) (k : CopyKind) (h : Herd) (c : Word64) (r : BitVec 512) (src dst : Nat) : Prop :=
  cmdOk k c = true ∧ (k = .mc → multicastOk h c dst = true) ∧ layoutOk k c r src = true ∧
  (cmdGlobal k c = true → u.checkShadowRows h.session (layoutOf r) (cmdXform c) dst = .ok ()) ∧
  (cmdGlobal k c = false → u.checkDests k h c (layoutOf r) dst = .ok ()) ∧
  (k = .xf → u.checkSource h (layoutOf r) (cmdXform c) src = .ok ())

/-- What an accepted form waits for besides an entry: acquires and reads of its flock, and room on S. -/
def State.copyMay (u : State) (f : Flock) (global : Bool) : Bool := u.memReady f && f.readsReturned && (global || f.counterRoom .s)

/-- A form that has passed its checks becomes a command in the lowest free entry, or waits. -/
def State.copyIssues (u : State) (k : CopyKind) (h : Herd) (f : Flock) (c : Word64) (src dst : Nat) (r : BitVec 512) : Res State :=
  match (u.core f.core).freeEntry with
  | none => waits
  | some e => do
    waitUnless (u.copyMay f (cmdGlobal k c))
    .ok ((u.expecting k h c r).accept f ((u.expecting k h c r).newCmd k h f c src dst r e))

section
variable {u : State} {k : CopyKind} {h : Herd} {f : Flock} {c : Word64} {src dst e : Nat} {r : BitVec 512}

theorem State.copyMay_iff {global : Bool} : u.copyMay f global = true ↔
    u.memReady f = true ∧ f.readsReturned = true ∧ (global = true ∨ f.count .s < 255) := by
  simp [State.copyMay, Flock.counterRoom, and_assoc]

theorem State.copyIssues_waits (late : ∀ e, (u.core f.core).freeEntry = some e → ¬ u.copyMay f (cmdGlobal k c) = true) :
    u.copyIssues k h f c src dst r = waits := by
  unfold State.copyIssues
  split
  · rfl
  next e free =>
    rw [waitUnless, if_neg (late e free)]
    rfl

theorem State.copyIssues_accepts (free : (u.core f.core).freeEntry = some e) (may : u.copyMay f (cmdGlobal k c) = true) :
    u.copyIssues k h f c src dst r = .ok ((u.expecting k h c r).accept f ((u.expecting k h c r).newCmd k h f c src dst r e)) := by
  simp only [State.copyIssues, free, waitUnless, may]
  rfl

end

theorem State.layoutRecord_rest {s u : State} {f : Flock} {c : Word64} {r : BitVec 512} {n : Nat} (read : s.layoutRecord f c = .ok (u, r, n)) :
    u.rest = s.rest := by
  unfold State.layoutRecord at read
  dsimp only at read
  split at read
  · cases read
  · split at read
    · cases read
    next fetched =>
      cases read
      exact State.fetch_rest fetched

section
variable {s u : State} {f : Flock} {k : CopyKind} {d a b : BitVec 6} {r : BitVec 512} {n : Nat} (issues : IssuesScalar s f)
  (operands : ∀ x ∈ [d, a, b], Readable f x) (read : s.layoutRecord f (f.rs d) = .ok (u, r, n))
  (passes : u.copyPasses k (s.herdOf f) (f.rs d) r (f.rs a).toNat (f.rs b).toNat)
include issues operands read passes

/-- A copy form that passes its checks answers by the engine's entries and by what it waits for. -/
theorem copyCommand_eq : copyCommand k d a b s =
    runScalar (fun _ _ => u.copyIssues k (s.herdOf f) f (f.rs d) (f.rs a).toNat (f.rs b).toNat r) s := by
  obtain ⟨command, multicast, record, shadow, dests, source⟩ := passes
  have gang : (k != .mc || multicastOk (s.herdOf f) (f.rs d) (f.rs b).toNat) = true := by
    by_cases mc : k = .mc
    · rw [multicast mc, Bool.or_true]
    · simp [mc]
  rw [copyCommand, runScalar_eq issues, runScalar_eq issues]
  simp only [useS_of operands, trapUnless, command, gang, read, record, if_true, bind, Except.ok_bind, if_check_bind source,
    unless_check_bind fun near => dests (Bool.eq_false_iff.2 near), if_check_bind shadow]
  cases entry : (u.core f.core).freeEntry with
  | none => simp only [State.copyIssues, entry]
  | some e =>
    simp only [State.copyIssues, entry]
    rfl

end

/-- Settles O16: a form that passes its checks waits, or the command that it leaves is accepted. -/
theorem copyAccepted : Obligations.CopyAccepted := by
  unfold Obligations.CopyAccepted
  intro s u f d a b r n e issues readD readA readB fresh c src dst h y read passes accepts
  have operands : ∀ x ∈ [d, a, b], Readable f x := by simp [readD, readA, readB]
  have there : u.flock? f.uid = some f := by
    rw [State.flock?, State.rest_flocks (State.layoutRecord_rest read)]
    exact issues.2
  have form {i : Instr} {k : CopyKind} (means : exec i s = copyCommand k d a b s) : accepts i k := by
    refine ⟨fun pass late => ?_, fun pass free memory reads room => ?_⟩
    · have held : u.copyIssues k h f c src dst r = waits := State.copyIssues_waits fun e' free may => by
        obtain ⟨memory, reads, room⟩ := State.copyMay_iff.1 may
        rcases late with full | late | late | ⟨near, late⟩
        · exact absurd (full.symm.trans free) nofun
        · exact absurd (late.symm.trans memory) nofun
        · exact absurd (late.symm.trans reads) nofun
        · exact room.elim (fun global => absurd (near.symm.trans global) nofun) (Nat.not_lt.2 late)
      rw [means, copyCommand_eq issues operands read pass]
      exact runScalar_waits issues held
    · obtain ⟨hs, es, expecting⟩ := State.expecting_eq (s := u) (k := k) (h := h) (c := c) (r := r)
      let v := u.expecting k h c r
      let cmd := v.newCmd k h f c src dst r e
      have live : v.flock? f.uid = some f := by rw [show v = _ from expecting]; exact there
      obtain ⟨g, found, spc, point, regs, count⟩ := State.accept_flock (cmd := cmd) live fresh
      obtain ⟨fs, left⟩ := State.accept_eq (cmd := cmd) live fresh
      refine ⟨v.accept f cmd, g, cmd, ?_, ?_, found, spc, point, regs, count, ?_, rfl, rfl, rfl, rfl, rfl, rfl, rfl, ?_⟩
      · rw [means, copyCommand_eq issues operands read pass]
        exact runScalar_completes issues (State.copyIssues_accepts free (State.copyMay_iff.2 ⟨memory, reads, room⟩))
      · rw [left, show v = _ from expecting]; rfl
      · rw [left]; exact State.mem_enter
      · rw [left]; exact State.mem_post.2 (.inr rfl)
  exact ⟨form rfl, form rfl, form rfl, form rfl⟩

end Sys2Proof.Machine

/-!
PROOFS. Copy commands on their way as statement O40 says: a further row of a command (R307, R308), the landing of its words (R309, R310), and what
suspends it (R456).
-/
namespace Sys2Proof.Machine

/-! ## One further row (R307, R308) -/

section
variable {s u : State} {core : Nat} {c : CopyCmd} {x : EngineData} {e : Nat × Nat} {words : List CopyWord}

theorem State.readRow_unread (unread : s.sourceRow core c c.row = .error e) : s.readRow core c = .error e := by
  simp only [State.readRow, unread]

variable (read : s.sourceRow core c c.row = .ok x)
include read

theorem State.readRow_uncut (form : cmdXform c.cmd ≠ 1) (uncut : x.state.rowWords c c.row (applyRow c x.bytes).1 = .error e) :
    s.readRow core c = .error e := by
  simp only [State.readRow, read, if_neg form, uncut]

theorem State.readRow_cut (form : cmdXform c.cmd ≠ 1) (cut : x.state.rowWords c c.row (applyRow c x.bytes).1 = .ok (u, words)) :
    s.readRow core c =
      .ok (u, { c with row := c.row + 1, words := c.words ++ words, flags := c.flags ||| (applyRow c x.bytes).2 }, x.lines) := by
  simp only [State.readRow, read, if_neg form, cut]

/-- A transposition keeps a row that is not its last. -/
theorem State.readRow_kept (form : cmdXform c.cmd = 1) (more : c.row + 1 < (layoutOf c.layoutRec).rows) :
    s.readRow core c = .ok (x.state, { c with rows := c.rows ++ [x.bytes], row := c.row + 1 }, x.lines) := by
  simp only [State.readRow, read, if_pos form, if_pos more]

/-- A transposition cuts its words after its last row. -/
theorem State.readRow_transposed (form : cmdXform c.cmd = 1) (last : c.row + 1 = (layoutOf c.layoutRec).rows)
    (cut : x.state.transposedWords c (c.rows ++ [x.bytes]) (List.range (layoutOf c.layoutRec).cols) = .ok (u, words)) :
    s.readRow core c = .ok (u, { c with rows := [], row := c.row + 1, words := c.words ++ words }, x.lines) := by
  simp only [State.readRow, read, if_pos form, if_neg (Nat.not_lt.2 last.ge), cut]

end

/-! ## A command starts, and goes on (R303, R366, R382) -/

/-- A command may go on: it has started, or those before it have and its session's writes are performed. -/
def State.copyReady (s : State) (core : Nat) (c : CopyCmd) : Prop :=
  c.started = true ∨ (∀ x ∈ (s.core core).engine.takeWhile fun x => x.id ≠ c.id, x.started = true) ∧ s.netIdle (s.netOf c.session) = true

/-- A command stands in its queue with a further row read, whose lines are counted; its words land, and its next row is read. -/
def State.copyGoesOn (s : State) (core : Nat) (c : CopyCmd) (lines : Nat) : State :=
  let s := (s.setCmd core c).noteRequests ⟨c.session, dieOf core, some core⟩ lines
  let s := if c.words = [] then s else s.postOnce (.copyWordLand core c.id)
  if c.row < (layoutOf c.layoutRec).rows then s.post (.copyTransferStart core c.id) else s

/-- The test of the model is that a command may go on. -/
theorem State.copyReady_iff {s : State} {core : Nat} {c : CopyCmd} :
    (c.started || (((s.core core).engine.takeWhile fun x => x.id ≠ c.id).all (·.started) && s.netIdle (s.netOf c.session))) = true ↔
      s.copyReady core c := by
  rw [Bool.or_eq_true, Bool.and_eq_true, List.all_eq_true]
  rfl

section
variable {s : State} {core : Nat} {c : CopyCmd} (queued : s.copyCmd? core c.id = some c) (runs : c.suspended = false)
include queued runs

theorem exec_copyTransferStart_early (early : ¬ s.copyReady core c) :
    exec (.copyTransferStart core c.id) s = .next (s.post (.copyTransferStart core c.id)) := by
  have waits := Bool.eq_false_iff.2 fun ready => early (State.copyReady_iff.1 ready)
  show execCopyTransferStart core c.id s = _
  simp only [execCopyTransferStart, queued, if_neg (Bool.eq_false_iff.1 runs), waits]
  rfl

variable (ready : s.copyReady core c) (left : c.row < (layoutOf c.layoutRec).rows)
include ready left

theorem exec_copyTransferStart_fails {e a : Nat} (failed : s.readRow core { c with started := true } = .error (e, a)) :
    exec (.copyTransferStart core c.id) s = .next (if e = notYet then (s.setCmd core { c with started := true }).post (.copyTransferStart core c.id)
      else (s.setCmd core (({ c with started := true } : CopyCmd).suspend e a)).post (.copyFaultSuspend core c.id)) := by
  show execCopyTransferStart core c.id s = _
  simp only [execCopyTransferStart, queued, if_neg (Bool.eq_false_iff.1 runs), State.copyReady_iff.2 ready, if_neg (Nat.not_le.2 left), failed]
  rfl

variable {t : State} {d : CopyCmd} {n : Nat} (read : s.readRow core { c with started := true } = .ok (t, d, n))
  (same : d.id = c.id ∧ d.session = c.session ∧ d.layoutRec = c.layoutRec)
include read same

/-- A row whose lines the limit holds back is read again later. -/
theorem exec_copyTransferStart_limited (reached : ¬ (n = 0 ∨ s.belowLimit c.session (dieOf core) = true)) :
    exec (.copyTransferStart core c.id) s = .next ((s.setCmd core { c with started := true }).post (.copyTransferStart core c.id)) := by
  have limited : (decide (n ≠ 0) && !s.belowLimit c.session (dieOf core)) = true := by simpa using reached
  obtain ⟨-, session, -⟩ := same
  show execCopyTransferStart core c.id s = _
  simp only [execCopyTransferStart, queued, if_neg (Bool.eq_false_iff.1 runs), State.copyReady_iff.2 ready, if_neg (Nat.not_le.2 left), read,
    session, limited]
  rfl

theorem exec_copyTransferStart_goesOn (allowed : n = 0 ∨ s.belowLimit c.session (dieOf core) = true) :
    exec (.copyTransferStart core c.id) s = .next (t.copyGoesOn core d n) := by
  have below : (decide (n ≠ 0) && !s.belowLimit c.session (dieOf core)) = false := by
    rw [← Bool.not_eq_true]
    simpa [Classical.or_iff_not_imp_left] using allowed
  obtain ⟨id, session, record⟩ := same
  show execCopyTransferStart core c.id s = _
  simp only [execCopyTransferStart, queued, if_neg (Bool.eq_false_iff.1 runs), State.copyReady_iff.2 ready, if_neg (Nat.not_le.2 left), read,
    State.copyGoesOn, id, session, record, below, List.isEmpty_iff]
  rfl

/-- A row that is read waits at the limit, or else the command goes on with it. -/
theorem exec_copyTransferStart_read :
    (¬ (n = 0 ∨ s.belowLimit c.session (dieOf core) = true) →
      exec (.copyTransferStart core c.id) s = .next ((s.setCmd core { c with started := true }).post (.copyTransferStart core c.id))) ∧
    (n = 0 ∨ s.belowLimit c.session (dieOf core) = true → exec (.copyTransferStart core c.id) s = .next (t.copyGoesOn core d n)) :=
  ⟨exec_copyTransferStart_limited queued runs ready left read same, exec_copyTransferStart_goesOn queued runs ready left read same⟩

end

/-! ## A word lands (R308 to R310) -/

/-- The place in its list of the word of a command that lands next. -/
def State.landing (s : State) (c : CopyCmd) : Nat := Config.laneKey s.ticks c.id % c.words.length

/-- A word can land now: in a scratchpad always, in memory where a write to its place can leave. -/
def State.mayLand (s : State) (core : Nat) (w : CopyWord) : Prop := ∀ l, w.loc = some l → s.writeNow (dieOf core) l.pa = true

section
variable {s : State} {core : Nat} {c : CopyCmd} {w : CopyWord} (queued : s.copyCmd? core c.id = some c) (next : c.words[s.landing c]? = some w)
include queued next

theorem exec_copyWordLand_shut (shut : ¬ s.mayLand core w) : exec (.copyWordLand core c.id) s = .next (s.post (.copyWordLand core c.id)) := by
  have held : (w.loc.any fun l => !s.writeNow (dieOf core) l.pa) = true := by
    obtain ⟨l, place, closed⟩ : ∃ l, w.loc = some l ∧ ¬ s.writeNow (dieOf core) l.pa = true := by simpa [State.mayLand] using shut
    simp [place, closed]
  unfold State.landing at next
  show execCopyWordLand core c.id s = _
  simp only [execCopyWordLand, queued, next, held, if_true]

variable (open_ : s.mayLand core w)
include open_

/-- A word that can land answers by the status word, which is updated before the last word alone. -/
theorem exec_copyWordLand_open : exec (.copyWordLand core c.id) s =
    match if c.words.length = 1 && (layoutOf c.layoutRec).rows ≤ c.row then s.copyStatus core c else .ok s with
    | .error e => .next (if e = notYet then s.post (.copyWordLand core c.id)
        else (s.setCmd core (c.suspend e (layoutOf c.layoutRec).status)).post (.copyFaultSuspend core c.id))
    | .ok u =>
      if c.words.length = 1 && (layoutOf c.layoutRec).rows ≤ c.row then .next ((u.landWord core c w).endCmd core c)
      else
        let t := (u.landWord core c w).setCmd core { c with words := c.words.eraseIdx (s.landing c) }
        .next (if (c.words.eraseIdx (s.landing c)).isEmpty then t else t.postOnce (.copyWordLand core c.id)) := by
  have free : (w.loc.any fun l => !s.writeNow (dieOf core) l.pa) = false := by
    cases place : w.loc with
    | none => rfl
    | some l => simp [open_ l place]
  unfold State.landing at next ⊢
  show execCopyWordLand core c.id s = _
  simp only [execCopyWordLand, queued, next, free]
  rfl

/-- A word before the last lands, and leaves the others on their way. -/
theorem exec_copyWordLand_lands (more : c.words.length ≠ 1 ∨ c.row < (layoutOf c.layoutRec).rows) :
    exec (.copyWordLand core c.id) s =
      let t := (s.landWord core c w).setCmd core { c with words := c.words.eraseIdx (s.landing c) }
      .next (if c.words.eraseIdx (s.landing c) = [] then t else t.postOnce (.copyWordLand core c.id)) := by
  have notLast : (decide (c.words.length = 1) && decide ((layoutOf c.layoutRec).rows ≤ c.row)) = false := by
    rw [Bool.and_eq_false_iff, decide_eq_false_iff_not, decide_eq_false_iff_not, Nat.not_le]
    exact more
  rw [exec_copyWordLand_open queued next open_]
  simp only [notLast, List.isEmpty_iff]
  rfl

variable (last : c.words.length = 1) (rows : (layoutOf c.layoutRec).rows ≤ c.row)
include last rows

/-- The last word ends the command, after its status word. -/
theorem exec_copyWordLand_ends {u : State} (status : s.copyStatus core c = .ok u) :
    exec (.copyWordLand core c.id) s = .next ((u.landWord core c w).endCmd core c) := by
  rw [exec_copyWordLand_open queued next open_]
  simp [last, rows, status]

theorem exec_copyWordLand_fails {e : Nat} (status : s.copyStatus core c = .error e) :
    exec (.copyWordLand core c.id) s = .next (if e = notYet then s.post (.copyWordLand core c.id)
      else (s.setCmd core (c.suspend e (layoutOf c.layoutRec).status)).post (.copyFaultSuspend core c.id)) := by
  rw [exec_copyWordLand_open queued next open_]
  simp [last, rows, status]

end

/-- Without a status word or flags to tell there is nothing to update (R308). -/
theorem State.copyStatus_untold {s : State} {core : Nat} {c : CopyCmd} (untold : (layoutOf c.layoutRec).status = 0 ∨ c.flags = 0) :
    s.copyStatus core c = .ok s := by
  rw [State.copyStatus, if_pos (by simpa using untold)]

/-! ## Where a word lands (R309) -/

section
variable {s : State} {core : Nat} {c : CopyCmd} {w : CopyWord}

/-- A word for an allotment that is gone lands nowhere. -/
theorem State.landWord_gone {h : Nat} (place : w.loc = none) (names : w.herd = some h) (gone : s.allotment? h = none) :
    s.landWord core c w = s := by
  simp only [State.landWord, place, names, Option.bind_some, gone]

/-- The allotment of a uid after a herd of that uid has been replaced. -/
theorem State.setHerd_allotment {t g : Herd} (there : s.allotment? g.uid = some t) : (s.setHerd g).allotment? g.uid = some g := by
  show List.find? (fun x => x.uid == g.uid)
    (s.herds.map (fun x => if x.uid = g.uid then g else x) ++ s.ended.map fun x => if x.uid = g.uid then g else x) = _
  rw [← List.map_append]
  exact find_map_key (key := Herd.uid) (g := fun _ => g) (fun _ _ => rfl) there

/-- A word that no barrier counts and that holds no poison is laid into its allotment. -/
theorem State.landWord_spad {t : Herd} (place : w.loc = none) (names : w.herd = some t.uid) (uncounted : w.bar = none) (clean : w.poison = false)
    (there : s.allotment? t.uid = some t) : (s.landWord core c w).allotment? t.uid = some (t.writeSpad w.addr w.bytes) := by
  have landed : s.landWord core c w = s.setHerd (t.writeSpad w.addr w.bytes) := by
    simp only [State.landWord, place, names, Option.bind_some, there, uncounted, clean]
    rfl
  rw [landed]
  exact State.setHerd_allotment (g := t.writeSpad w.addr w.bytes) there

theorem Herd.byte_writeSpad {t : Herd} {off a : Nat} {bs : List Byte} (above : off ≤ a) (below : a < off + bs.length) :
    Memory.byte (t.writeSpad off bs).spad a = bs.getD (a - off) 0 :=
  Memory.byte_write.trans (if_pos ⟨above, below⟩)

end

/-- Destination row 0 of a transposition takes the first element of its one source row. -/
theorem transposedRow_single (n : Nat) (row : List (Byte × Bool)) : transposedRow n [row] 0 = row.take n := by simp [transposedRow]

theorem exec_copyFaultSuspend {s : State} {core : Nat} {c : CopyCmd} (queued : s.copyCmd? core c.id = some c) (stopped : c.suspended = true) :
    exec (.copyFaultSuspend core c.id) s = .next (s.post (.faultRecordWrite c.report)) := by
  show execCopyFaultSuspend core c.id s = _
  simp only [execCopyFaultSuspend, queued, stopped, if_true]

/-- Settles O40: a start answers by the next row that it reads, a landing by the word that lands, and the last landing by the status word. -/
theorem copyTransfers : Obligations.CopyTransfers := by
  unfold Obligations.CopyTransfers
  intro s core c before queued ahead rows agent ready d again stops allowed goes start land
  subst ahead
  refine ⟨fun runs early => exec_copyTransferStart_early queued runs early, ?rows, fun row => transposedRow_single _ row, ?words,
    State.copyStatus_untold, exec_copyFaultSuspend queued, fun h w bar place names _ gone => State.landWord_gone place names gone, ?spad⟩
  case rows =>
    intro runs ready left
    refine ⟨fun e a unread => exec_copyTransferStart_fails queued runs ready left (State.readRow_unread unread),
      fun x read => ⟨fun form => ⟨?_, ?_⟩, fun form => ⟨?_, ?_⟩⟩⟩
    · exact fun e a uncut => exec_copyTransferStart_fails queued runs ready left (State.readRow_uncut read form uncut)
    · exact fun u words cut => exec_copyTransferStart_read queued runs ready left (State.readRow_cut read form cut) ⟨rfl, rfl, rfl⟩
    · exact fun more => exec_copyTransferStart_read queued runs ready left (State.readRow_kept read form more) ⟨rfl, rfl, rfl⟩
    · exact fun u words last cut =>
        exec_copyTransferStart_read queued runs ready left (State.readRow_transposed read form last cut) ⟨rfl, rfl, rfl⟩
  case words =>
    intro some_
    have inside : s.landing c < c.words.length := Nat.mod_lt _ (List.length_pos_iff.2 some_)
    have next := List.getElem?_eq_getElem inside
    refine ⟨s.landing c, c.words[s.landing c], next, fun shut => exec_copyWordLand_shut queued next shut, fun open_ more => ?_,
      fun open_ one left => ?_, fun u open_ one done status => ?_, fun e open_ one done status => ?_⟩
    · have others : c.words.eraseIdx (s.landing c) ≠ [] := by
        rw [← List.length_pos_iff, List.length_eraseIdx_of_lt inside]
        omega
      exact (exec_copyWordLand_lands queued next open_ (.inl more.ne')).trans (congrArg _ (if_neg others))
    · have none_ : c.words.eraseIdx (s.landing c) = [] := by
        rw [← List.length_eq_zero_iff, List.length_eraseIdx_of_lt inside, one]
        rfl
      refine (exec_copyWordLand_lands queued next open_ (.inr left)).trans ?_
      simp only [none_, if_true]
    · exact exec_copyWordLand_ends queued next open_ (congrArg List.length one) done status
    · exact exec_copyWordLand_fails queued next open_ (congrArg List.length one) done status
  case spad =>
    exact fun t w a place names uncounted clean there _ above below =>
      ⟨_, State.landWord_spad place names uncounted clean there, Herd.byte_writeSpad above below⟩

end Sys2Proof.Machine

/-!
PROOFS. A state that refutes statement O17: a seal numbers the packet to the home die after those of its TLB invalidation.
-/
namespace Sys2Proof.Machine

/-! ## A seal whose packet bears a later number (R315, R391; log entry 7) -/

/-- The flock of `State.fetchState` issues on its scalar stream. Its page 0 may be sealed. -/
def sealingState : State := { State.reset.fetchState false [] with cur := some ⟨1, none⟩ }

theorem sealingState_sealTarget : sealingState.sealTarget 0 0 = .ok (0x8000, pageEntry 16) := eq_ok_of_toOption (by decide +kernel)

/-- The numbers of the packets of seals that are due. -/
def State.sealIds (s : State) : List Nat := s.agenda.filterMap fun e => match e with
  | .sealDigest r => some r.id
  | _ => none

/-- Refutes O17: the clause on the seal has the packet to the home die bear the next fresh number, and leaves out that the three packets which tell
the other dies of the TLB invalidation have taken numbers before it. -/
theorem not_publicationsAndPushes : ¬ Obligations.PublicationsAndPushes := by
  unfold Obligations.PublicationsAndPushes
  rintro ⟨-, performed, -⟩
  have issues : IssuesScalar sealingState (fetchFlock false) := ⟨rfl, rfl⟩
  have ready : sealingState.releaseReady (fetchFlock false) .sy = true := by decide +kernel
  obtain ⟨-, -, -, -, -, -, digested⟩ :=
    performed sealingState (fetchFlock false) 0 0 ⟨0, 0, 0, 0⟩ 0 0x8000 (pageEntry 16) issues (.inl rfl) (.inl rfl) ready
  have numbered : sealingState.nextUid ∈ (sealingState.sealPage 0 0 0 0x8000 (pageEntry 16)).sealIds := List.mem_filterMap.2 ⟨_, digested, rfl⟩
  have apart : (sealingState.sealPage 0 0 0 0x8000 (pageEntry 16)).sealIds = [sealingState.nextUid + 3] := by decide +kernel
  rw [apart] at numbered
  exact absurd numbered (by decide)

end Sys2Proof.Machine

/-!
PROOFS. What the statements about the module's other agents share: bits of registers, and cores and dies after all of them have changed.
-/
namespace Sys2Proof.Machine

theorem getLsbD_eq_decide (x : Word64) (i : Nat) : x.getLsbD i = decide (x.toNat / 2 ^ i % 2 = 1) := Nat.testBit_eq_decide_div_mod_eq

/-- A look-up after every value of a map has been changed, where the default is left as it is. -/
theorem SMap.get_map {α : Type} {d : α} {g : α → α} (still : g d = d) (m : SMap α) (k : Nat) :
    SMap.get (m.map fun x => (x.1, g x.2)) d k = g (SMap.get m d k) := by
  induction m with
  | nil => exact still.symm
  | cons x r ih =>
    obtain ⟨j, v⟩ := x
    simp only [List.map_cons, SMap.get, ih]
    split <;> rfl

theorem State.mapCores_core {s : State} {g : Core → Core} (still : g Core.reset = Core.reset) (c : Nat) : (s.mapCores g).core c = g (s.core c) :=
  SMap.get_map still s.cores c

/-- A die after every die has been changed, seen by something that a die after reset keeps. -/
theorem State.mapDies_die {α : Type} {s : State} {g : Die → Die} {i : Nat} (p : Die → α) (still : p (g (Die.reset i)) = p (Die.reset i)) :
    p ((s.mapDies g).die i) = p (g (s.die i)) := by
  show p ((s.dies.map g).getD i (Die.reset i)) = p (g (s.dies.getD i (Die.reset i)))
  simp only [List.getD_eq_getElem?_getD, List.getElem?_map]
  cases s.dies[i]? with
  | none => exact still.symm
  | some d => rfl

end Sys2Proof.Machine

/-!
PROOFS. The module never stops (O59): a due event completes, and a stream issues an instruction that its own fetch has decoded, so that
some stream is issuing whenever an instruction of a stream executes (R417, R440, R442, R446).
-/
namespace Sys2Proof.Machine

section
variable {s t : State} {f : Flock} {p : Path} {pid : Nat} {i : Instr}

/-- What a scalar fetch decodes: an instruction of the scalar stream, a reserved word, or the end of the section. -/
def ScalarFetched (i : Instr) : Prop := (encodeScalar i).isSome = true ∨ (∃ w, i = .reservedEncoding false w) ∨ i = .fetchBeyondSection false

/-- What a lane fetch decodes: an instruction of the lane stream, a reserved word, or the end of the section. -/
def LaneFetched (i : Instr) : Prop := (laneMajor i).isSome = true ∨ (∃ w, i = .reservedEncoding true w) ∨ i = .fetchBeyondSection true

theorem decodedScalar_fetched (w : BitVec 32) : ScalarFetched (decodedScalar w) := by
  unfold decodedScalar
  split
  next i decoded => exact .inl (Option.isSome_iff_exists.2 ⟨w, (decodeScalar_eq_ok.1 decoded).2⟩)
  next => exact .inr (.inl ⟨_, rfl⟩)

theorem decodedLane_fetched (w : BitVec 96) : LaneFetched (decodedLane w) := by
  unfold decodedLane
  split
  next i decoded =>
    obtain ⟨_, _, m, -, major, -⟩ := encodeLane_eq_some.1 (decodeLane_eq_ok.1 decoded).2
    exact .inl (Option.isSome_iff_exists.2 ⟨m, major⟩)
  next => exact .inr (.inl ⟨_, rfl⟩)

theorem State.fetchScalar_fetched (fetched : s.fetchScalar f = .ok (t, i)) : ScalarFetched i := by
  simp only [State.fetchScalar] at fetched
  split at fetched
  · cases fetched; exact .inr (.inr rfl)
  · split at fetched
    · cases fetched
    · cases fetched; exact decodedScalar_fetched _

theorem State.fetchLaneAt_fetched {index : Nat} (fetched : s.fetchLaneAt f index = .ok (t, i)) : LaneFetched i := by
  simp only [State.fetchLaneAt] at fetched
  split at fetched
  · cases fetched
  · cases fetched; exact decodedLane_fetched _

theorem State.fetchLane_fetched (fetched : s.fetchLane f p = .ok (t, i)) : LaneFetched i := by
  simp only [State.fetchLane] at fetched
  split at fetched
  · split at fetched
    · cases fetched
    · cases fetched; exact decodedLane_fetched _
  · split at fetched
    · cases fetched; exact .inr (.inr rfl)
    · exact State.fetchLaneAt_fetched fetched

/-- A flock that replaces the one whose scalar stream issues goes on issuing. -/
theorem State.scalarIssuer_setFlock {g : Flock} (cur : s.cur = some ⟨f.uid, none⟩) (there : s.flock? f.uid = some f) (same : g.uid = f.uid) :
    (s.setFlock g).scalarIssuer? = some g := by
  have put := State.setFlock_flock (s := s) (g := g) (by rw [same]; exact there)
  rw [same] at put
  simp only [State.scalarIssuer?, State.setFlock_cur, cur, put]

/-- As `State.scalarIssuer_setFlock`, for a path of the lane stream. -/
theorem State.laneIssuer_setFlock {g : Flock} {q : Path} (cur : s.cur = some ⟨f.uid, some pid⟩) (there : s.flock? f.uid = some f)
    (same : g.uid = f.uid) (path : g.path? pid = some q) : (s.setFlock g).laneIssuer? = some (g, q) := by
  have put := State.setFlock_flock (s := s) (g := g) (by rw [same]; exact there)
  rw [same] at put
  simp only [State.laneIssuer?, State.setFlock_cur, cur, put, path, Option.map_some]

theorem Flock.setPath_path {q : Path} (path : f.path? q.id = some p) : (f.setPath q).path? q.id = some q :=
  find_map_key (key := Path.id) (g := fun _ => q) (fun _ _ => rfl) path

/-- What the scalar stream has fetched completes while it is issuing. -/
theorem exec_scalarFetched_next (cur : s.cur = some ⟨f.uid, none⟩) (there : s.flock? f.uid = some f) (fetched : ScalarFetched i) :
    Completes (exec i s) := by
  have issues : s.scalarIssuer? = some f := by simp only [State.scalarIssuer?, cur, there]
  obtain scalar | ⟨w, rfl⟩ | rfl := fetched
  · exact exec_scalar_next i scalar (by rw [issues]; rfl)
  · exact runScalar_next (body := fun _ _ => traps 0x01) (by rw [issues]; rfl)
  · show Completes (execFetchBeyondSection false s)
    simp only [execFetchBeyondSection, issues, Bool.false_eq_true, if_false]
    refine runScalar_next ?_
    rw [State.scalarIssuer_setFlock cur there (by split <;> rfl)]
    rfl

/-- What a path of the lane stream has fetched completes while it is issuing. -/
theorem exec_laneFetched_next (cur : s.cur = some ⟨f.uid, some pid⟩) (there : s.flock? f.uid = some f) (path : f.path? pid = some p)
    (fetched : LaneFetched i) : Completes (exec i s) := by
  have issues : s.laneIssuer? = some (f, p) := by simp only [State.laneIssuer?, cur, there, path, Option.map_some]
  obtain lane | ⟨w, rfl⟩ | rfl := fetched
  · exact exec_lane_next i lane (by rw [issues]; rfl)
  · exact runLane_next (body := fun _ _ _ => traps 0x01) (by rw [issues]; rfl)
  · obtain rfl : p.id = pid := by simpa using List.find?_some path
    show Completes (execFetchBeyondSection true s)
    simp only [execFetchBeyondSection, issues, if_true]
    refine runLane_next ?_
    let beyond : Path := { p with pc := s.llen f, heldFault := p.heldFault.map fun _ => s.llen f }
    rw [State.laneIssuer_setFlock (g := f.setPath beyond) cur there rfl (Flock.setPath_path (q := beyond) path)]
    rfl

end

theorem State.flock_uid {s : State} {uid : Nat} {f : Flock} (there : s.flock? uid = some f) : f.uid = uid := by
  simpa using List.find?_some there

/-- One attempt of a stream to issue completes. -/
theorem State.attempt_next (s : State) (x : Issuer) : Completes (s.attempt x) := by
  obtain ⟨uid, path⟩ := x
  unfold State.attempt
  generalize issuing : ({ s with cur := some ⟨uid, path⟩ } : State) = u
  have cur : u.cur = some ⟨uid, path⟩ := by rw [← issuing]
  split
  next t i chosen =>
    unfold State.fetchNext at chosen
    split at chosen
    · cases chosen
    next f there =>
      obtain rfl := State.flock_uid there
      cases path with
      | none =>
        simp only at chosen
        split at chosen
        next v j fetched =>
          cases chosen
          have rest := State.fetchScalar_rest fetched
          exact exec_scalarFetched_next ((State.rest_cur rest).trans cur)
            (by rw [State.flock?, State.rest_flocks rest]; exact there) (State.fetchScalar_fetched fetched)
        all_goals cases chosen
      | some pid =>
        simp only at chosen
        split at chosen
        · cases chosen
        next p path =>
          split at chosen
          next v j fetched =>
            cases chosen
            have rest := State.fetchLane_rest fetched
            exact exec_laneFetched_next ((State.rest_cur rest).trans cur)
              (by rw [State.flock?, State.rest_flocks rest]; exact there) path (State.fetchLane_fetched fetched)
          all_goals cases chosen
  next => exact ⟨_, rfl⟩

theorem State.tryStreams_next {s : State} {uid : Nat} {l : List (Option Nat)} {o : Host.Outcome State Fault Refusal}
    (answered : s.tryStreams uid l = .ok o) : Completes o := by
  induction l with
  | nil => cases answered
  | cons x r ih =>
    simp only [State.tryStreams] at answered
    split at answered
    · cases answered; exact State.attempt_next ..
    · split at answered
      next h => cases answered; exact ih h
      next => cases answered

theorem State.sweep_next {s : State} {core dp n : Nat} {o : Host.Outcome State Fault Refusal} (answered : (s.sweep core dp n).2 = some o) :
    Completes o := by
  induction n generalizing s with
  | zero => cases answered
  | succ n ih =>
    simp only [State.sweep] at answered
    split at answered
    · split at answered
      · cases answered
      · exact ih answered
    · split at answered
      next tried => cases answered; exact State.tryStreams_next tried
      next =>
        split at answered
        · cases answered
        · exact ih answered

theorem State.issueFrom_next (s : State) (l : List ((Nat × Nat) × Nat)) : Completes (s.issueFrom l) := by
  induction l generalizing s with
  | nil => exact ⟨_, rfl⟩
  | cons x r ih =>
    obtain ⟨⟨c, d⟩, i⟩ := x
    simp only [State.issueFrom]
    split
    next swept => exact State.sweep_next (by rw [swept])
    next => exact ih _

/-- Settles O59: a step is a due event or an issue, and either completes. -/
theorem stepCompletes : Obligations.StepCompletes := by
  unfold Obligations.StepCompletes
  intro s
  show Completes (s.begin.act _)
  unfold State.act
  split
  · exact execEvent_next _ _
  · exact State.issueFrom_next _ _

end Sys2Proof.Machine

/-!
PROOFS. The management port (O51): who answers in each mode of the shepherd (R402, R488), and the numbers of the measurement blocks (R402).
-/
namespace Sys2Proof.Machine

section
variable {s : State} {die : Nat}

theorem State.answer_running (r : MgmtReply) (runs : (s.shep die).mode = .running) : s.answer die r = s.emit (.reply die r) := by
  simp only [State.answer, runs, State.reply]

theorem State.answer_recovery (r : MgmtReply) (recovers : (s.shep die).mode = .recovery) :
    s.answer die r = s.emit (.reply die .errorUnspecified) := by
  simp only [State.answer, recovers, State.reply]

theorem State.answer_reset (r : MgmtReply) (restarts : (s.shep die).mode = .reset) : s.answer die r = s := by
  simp only [State.answer, restarts]

/-- A request whose meaning is an answer is answered by mode. -/
theorem answers_of_exec {i : Instr} {r : MgmtReply} (means : exec i s = .next (s.answer die r)) :
    ((s.shep die).mode = .running → exec i s = .next (s.emit (.reply die r))) ∧
    ((s.shep die).mode = .recovery → exec i s = .next (s.emit (.reply die .errorUnspecified))) ∧
    ((s.shep die).mode = .reset → exec i s = .next s) := by
  rw [means]
  exact ⟨fun m => by rw [State.answer_running r m], fun m => by rw [State.answer_recovery r m], fun m => by rw [State.answer_reset r m]⟩

theorem exec_getCertificate (slot offset len : Nat) : exec (.getCertificate die slot offset len) s =
    .next (s.answer die (if slot ≠ 0 || (Config.certificateChain die).length ≤ offset then .errorInvalid
      else if !s.chainReadable then .errorUnspecified else .certificate (((Config.certificateChain die).drop offset).take len))) := rfl

theorem exec_challenge (slot : Nat) (nonce : BitVec 256) : exec (.challenge die slot nonce) s =
    .next (s.answer die (if slot ≠ 0 then .errorInvalid else if !s.chainReadable then .errorUnspecified
      else .auth (chainDigest die) (Config.signature (s.identityOf die) (chainDigest die ++ bytesOf 32 nonce.toNat)))) := rfl

/-- The blocks that a measurement request chooses. -/
def State.chosenBlocks (s : State) (die index : Nat) : List (Nat × List Byte) :=
  if index = 0 then [] else if index = 255 then s.blocks die else (s.blocks die).filter fun x => x.1 = index

theorem exec_getMeasurements (index : Nat) (nonce : BitVec 256) : exec (.getMeasurements die index nonce) s =
    .next (s.answer die (if index ≠ 0 && s.chosenBlocks die index = [] then .errorInvalid
      else .measurements (s.blocks die).length (s.chosenBlocks die index)
        (Config.signature (s.identityOf die) ((s.chosenBlocks die index).flatMap (·.2) ++ bytesOf 32 nonce.toNat)))) := rfl

/-- The first two blocks are the digests of the boot ROM and of the image. -/
theorem State.blocks_take : (s.blocks die).take 2 =
    [(1, bytesOf 64 ((s.shep die).romDigest.getD 0).toNat), (2, bytesOf 64 ((s.shep die).imageDigest.getD 0).toNat)] := rfl

theorem State.blocks_ne_nil : s.blocks die ≠ [] := by simp [State.blocks]

/-- Four blocks and one for each of at most 235 bellwethers. -/
theorem State.blocks_length : (s.blocks die).length ≤ 239 := by
  simp only [State.blocks, List.length_append, List.length_map, List.length_zipIdx, List.length_take, List.length_cons, List.length_nil]
  omega

/-- The blocks have numbers below 240. -/
theorem State.blocks_index {x : Nat × List Byte} (block : x ∈ s.blocks die) : x.1 < 240 := by
  simp only [State.blocks, List.mem_append, List.mem_cons, List.not_mem_nil, or_false, List.mem_map] at block
  obtain (rfl | rfl | rfl | rfl) | ⟨⟨b, i⟩, listed, rfl⟩ := block
  iterate 4 simp
  have place : i < (s.bellwethers.take 235).length := by simpa using List.snd_lt_add_of_mem_zipIdx listed
  have := List.length_take_le 235 s.bellwethers
  show 5 + i < 240
  omega

theorem State.chosenBlocks_none {i : Nat} (high : 240 ≤ i) (below : i < 255) : s.chosenBlocks die i = [] := by
  rw [State.chosenBlocks, if_neg (by omega), if_neg (by omega), List.filter_eq_nil_iff]
  intro x block named
  have := State.blocks_index block
  simp only [decide_eq_true_eq] at named
  omega

end

/-- Settles O51: each request answers by the mode of the shepherd, with what its meaning names. -/
theorem managementPort : Obligations.ManagementPort := by
  unfold Obligations.ManagementPort
  intro s die h answers chain digest sign all
  have means {i : Instr} {r : MgmtReply} (e : exec i s = .next (s.answer die r)) : answers i r := answers_of_exec e
  refine ⟨means rfl, means rfl, fun _ _ => means rfl, means rfl, ?_, ?_, ?_, ?_, ?_, ?_, State.blocks_take, State.blocks_length⟩
  case refine_1 =>
    intro slot offset len bad
    refine means ((exec_getCertificate ..).trans ?_)
    rw [if_pos (by simpa [chain] using bad)]
  case refine_2 =>
    intro offset len
    by_cases inside : offset < chain.length
    · have inChain : ¬ ((0 : Nat) ≠ 0 || (Config.certificateChain die).length ≤ offset) = true := by simpa [chain] using inside
      cases readable : s.chainReadable with
      | true => exact .inl (means (by rw [exec_getCertificate, if_neg inChain, if_pos inside, readable]; rfl))
      | false => exact .inr (means (by rw [exec_getCertificate, if_neg inChain, readable]; rfl))
    · have beyond : ((0 : Nat) ≠ 0 || (Config.certificateChain die).length ≤ offset) = true := by simpa [chain] using inside
      exact .inl (means (by rw [exec_getCertificate, if_pos beyond, if_neg inside]))
  case refine_3 =>
    intro slot nonce other
    exact means (by rw [exec_challenge, if_pos other])
  case refine_4 =>
    intro nonce
    cases readable : s.chainReadable with
    | true => exact .inl (means (by rw [exec_challenge, if_neg (by decide), readable]; rfl))
    | false => exact .inr (means (by rw [exec_challenge, if_neg (by decide), readable]; rfl))
  case refine_5 =>
    intro nonce
    refine ⟨means rfl, means ?_, fun i b low high one => means ?_, fun i high below => means ?_⟩
    · rw [exec_getMeasurements, show s.chosenBlocks die 255 = all from rfl, if_neg (by simpa using State.blocks_ne_nil)]
      rfl
    · have chosen : s.chosenBlocks die i = [(i, b)] := by rw [State.chosenBlocks, if_neg (by omega), if_neg (by omega)]; exact one
      rw [exec_getMeasurements, chosen, if_neg (by simp), List.flatMap_singleton]
      rfl
    · rw [exec_getMeasurements, State.chosenBlocks_none high below, if_pos (by simp; omega)]
  case refine_6 =>
    intro code
    refine means ?_
    by_cases session : 0xE4 ≤ code ∧ code ≤ 0xEC
    · rw [if_pos session]
      show Host.Outcome.next (s.answer die (if sessionRequest code then _ else _)) = _
      rw [if_pos (by simpa [sessionRequest] using session)]
    · rw [if_neg session]
      show Host.Outcome.next (s.answer die (if sessionRequest code then _ else _)) = _
      rw [if_neg (by simpa [sessionRequest] using session)]

end Sys2Proof.Machine

/-!
PROOFS. The taking of a trap (O14): the fields of TCAUSE (R420), handler entry (R423), and the hold of a flock that no handler receives (R427).
-/
namespace Sys2Proof.Machine

section
variable {s : State} {f : Flock} {site : TrapSite} {t : Trap}

theorem toHandler_iff {cause : Nat} : toHandler cause = true ↔ 1 ≤ cause ∧ cause ≤ 4 ∨ 8 ≤ cause ∧ cause ≤ 0x15 := by simp [toHandler]

/-! ## The fields of TCAUSE (R420) -/

/-- TCAUSE of a trap, as the sum of its fields. -/
def Flock.causeWord (f : Flock) (site : TrapSite) (t : Trap) : Nat :=
  t.cause + 2 ^ 8 * (f.siteRecord site).2.2.toNat + 2 ^ 9 * (f.siteRecord site).1 + 2 ^ 10 * f.hmode.toNat + 2 ^ 11 * (decide (site = .recipe)).toNat
    + 2 ^ 12 * t.held.toNat + 2 ^ 15 * f.hmode.toNat + 2 ^ 16 * (if f.hmode then bitsAt f.tcause.toNat 0 8 else 0)

theorem Flock.record_tcause : (f.record site t).tcause = BitVec.ofNat 64 (f.causeWord site t) := by
  have bit (b : Bool) (n : Nat) : (if b then n else 0) = n * b.toNat := by cases b <;> simp
  have recipe (n : Nat) : (if site = .recipe then n else 0) = n * (decide (site = .recipe)).toNat := by split <;> simp_all
  rcases record : f.siteRecord site with ⟨arm, at_, lane⟩
  simp only [Flock.record, Flock.causeWord, record, bit, recipe]
  congr 1
  cases f.hmode <;> simp <;> omega

/-- What holds of TCAUSE as the sum of its fields: each is read back, and it fits its register. -/
theorem Flock.causeWord_fields (cause : t.cause < 256) (arm : (f.siteRecord site).1 ≤ 1) :
    f.causeWord site t < 2 ^ 24 ∧ f.causeWord site t % 2 ^ 8 = t.cause ∧ f.causeWord site t / 2 ^ 8 % 2 = (f.siteRecord site).2.2.toNat ∧
    f.causeWord site t / 2 ^ 10 % 2 = f.hmode.toNat ∧ f.causeWord site t / 2 ^ 12 % 2 = t.held.toNat ∧ f.causeWord site t / 2 ^ 15 % 2 = f.hmode.toNat ∧
    f.causeWord site t / 2 ^ 16 % 2 ^ 8 = (if f.hmode then bitsAt f.tcause.toNat 0 8 else 0) := by
  have old : (if f.hmode then bitsAt f.tcause.toNat 0 8 else 0) < 256 := by
    split
    · exact Nat.mod_lt _ (by decide)
    · decide
  have lane := Bool.toNat_le (f.siteRecord site).2.2
  have nested := Bool.toNat_le f.hmode
  have recipe := Bool.toNat_le (decide (site = .recipe))
  have held := Bool.toNat_le t.held
  unfold Flock.causeWord
  generalize (if f.hmode then bitsAt f.tcause.toNat 0 8 else 0) = z at old ⊢
  generalize (f.siteRecord site).2.2.toNat = l at lane ⊢
  generalize f.hmode.toNat = n at nested ⊢
  generalize (decide (site = .recipe)).toNat = r at recipe ⊢
  generalize t.held.toNat = h at held ⊢
  generalize (f.siteRecord site).1 = a at arm ⊢
  generalize whole : t.cause + 2 ^ 8 * l + 2 ^ 9 * a + 2 ^ 10 * n + 2 ^ 11 * r + 2 ^ 12 * h + 2 ^ 15 * n + 2 ^ 16 * z = x
  have from8 : x / 2 ^ 8 = l + 2 * (a + 2 * n + 4 * r + 8 * h + 64 * n + 128 * z) := by omega
  have from10 : x / 2 ^ 10 = n + 2 * (r + 2 * h + 16 * n + 32 * z) := by omega
  have from12 : x / 2 ^ 12 = h + 2 * (4 * n + 8 * z) := by omega
  have from15 : x / 2 ^ 15 = n + 2 * z := by omega
  have from16 : x / 2 ^ 16 = z := by omega
  rw [from8, from10, from12, from15, from16]
  refine ⟨?_, ?_, ?_, ?_, ?_, ?_, ?_⟩ <;> omega

/-! ## What a trap leaves of the flock (R418, R422, R423) -/

/-- The flock with its trap recorded. -/
def Flock.recorded (f : Flock) (site : TrapSite) (t : Trap) : Flock :=
  { (if f.hmode then f.record site t else { f.record site t with site := some site }) with bar := none }

/-- The flock held after its trap is recorded. -/
def Flock.heldAt (f : Flock) (site : TrapSite) (t : Trap) : Flock :=
  { f.recorded site t with mode := .held, haltSpc := if f.hmode then (f.recorded site t).haltSpc else (f.recorded site t).spc }

/-- The flock in its handler, or held. -/
def Flock.trapped (f : Flock) (site : TrapSite) (t : Trap) : Flock :=
  if f.tvec.getLsbD 26 && !f.hmode && toHandler t.cause then (f.recorded site t).enterHandler else f.heldAt site t

theorem State.takeTrap_eq (there : s.flock? f.uid = some f) (alone : f.bar = none) : s.takeTrap f.uid site t =
    if f.tvec.getLsbD 26 && !f.hmode && toHandler t.cause then s.setFlock (f.trapped site t)
    else (s.setFlock (f.trapped site t)).post (.faultRecordWrite (s.faultRecord (f.trapped site t))) := by
  have withdrawn : s.withdraw f = s := by rw [State.withdraw, alone]
  unfold State.takeTrap Flock.trapped Flock.heldAt
  rw [there]
  simp only [withdrawn]
  split <;> rfl

theorem Flock.recorded_tcause : (f.recorded site t).tcause = BitVec.ofNat 64 (f.causeWord site t) := by
  rw [← Flock.record_tcause]; unfold Flock.recorded; split <;> rfl

/-- What a trap leaves as it was, but for the registers of the record and of the handler. -/
def Flock.untrapped (f : Flock) :=
  (f.uid, f.s, f.v, f.q, f.z, f.flags, f.fpmode, f.queue, f.paths, f.entries, f.ops, f.tvec, f.tscr0, f.tscr1)

theorem Flock.recorded_untrapped : (f.recorded site t).untrapped = f.untrapped := by unfold Flock.recorded; split <;> rfl

theorem Flock.trapped_untrapped : (f.trapped site t).untrapped = f.untrapped := by
  unfold Flock.trapped; split <;> exact Flock.recorded_untrapped

theorem Flock.recorded_spc : (f.recorded site t).spc = f.spc := by unfold Flock.recorded; split <;> rfl

theorem Flock.recorded_tret : (f.recorded site t).tret = f.tret := by unfold Flock.recorded; split <;> rfl

theorem Flock.trapped_record : (f.trapped site t).taddr = t.addr ∧ (f.trapped site t).tinfo = t.info ∧
    bitsAt (f.trapped site t).tpc.toNat 0 26 = f.spc % 2 ^ 26 := by
  have tpc : (f.trapped site t).tpc = BitVec.ofNat 64 (f.spc % 2 ^ 26 + t.lpc.getD (f.siteRecord site).2.1 * 2 ^ 32) := by
    unfold Flock.trapped Flock.heldAt Flock.recorded; (repeat' split) <;> rfl
  refine ⟨?_, ?_, ?_⟩
  · unfold Flock.trapped Flock.heldAt Flock.recorded; (repeat' split) <;> rfl
  · unfold Flock.trapped Flock.heldAt Flock.recorded; (repeat' split) <;> rfl
  · rw [tpc, BitVec.toNat_ofNat, bitsAt]; omega

/-- TCAUSE after a trap: as it is recorded, with HMODE where the handler is entered. -/
theorem Flock.trapped_tcause (cause : t.cause < 256) (arm : (f.siteRecord site).1 ≤ 1) : (f.trapped site t).tcause.toNat =
    f.causeWord site t + 2 ^ 15 * (f.tvec.getLsbD 26 && !f.hmode && toHandler t.cause).toNat := by
  obtain ⟨fits, -, -, -, -, nested, -⟩ := Flock.causeWord_fields (f := f) (site := site) cause arm
  unfold Flock.trapped
  split
  next enters =>
    have outside : f.hmode = false := by simp_all
    rw [outside] at nested
    show ((f.recorded site t).tcause ||| 0x8000).toNat = _
    rw [Flock.recorded_tcause, enters, BitVec.toNat_or, BitVec.toNat_ofNat, Nat.mod_eq_of_lt (by omega)]
    show f.causeWord site t ||| 2 ^ 15 = _
    rw [← withBits_one]
    show withBits (f.causeWord site t) 15 1 1 = _
    rw [withBits, bitsAt, Nat.pow_one, nested]
    simp only [Bool.toNat_false, Bool.toNat_true]
    omega
  next stays =>
    show (f.recorded site t).tcause.toNat = _
    rw [Flock.recorded_tcause, BitVec.toNat_ofNat, Bool.eq_false_iff.2 stays, Bool.toNat_false]
    omega

end

theorem Bool.toNat_eq_ite (b : Bool) : b.toNat = if b then 1 else 0 := by cases b <;> rfl

/-- Settles O14: the trapped flock is the recorded one in its handler or held, and its record is read back field by field. -/
theorem trapTaken : Obligations.TrapTaken := by
  unfold Obligations.TrapTaken
  intro s f site t there alone cause arm u delivered
  have taken : u = _ := State.takeTrap_eq there alone
  have enters : (f.tvec.getLsbD 26 && !f.hmode && toHandler t.cause) = true ↔ delivered := by
    rw [Bool.and_eq_true, Bool.and_eq_true, toHandler_iff, Bool.not_eq_true', and_assoc]
  have same := Flock.trapped_untrapped (f := f) (site := site) (t := t)
  obtain ⟨fits, code, lane, nested, held, hmode, old⟩ := Flock.causeWord_fields (f := f) (site := site) cause arm
  have tcause := Flock.trapped_tcause (f := f) (site := site) cause arm
  obtain ⟨addr, info, tpc⟩ := Flock.trapped_record (f := f) (site := site) (t := t)
  have entered := Bool.toNat_le (f.tvec.getLsbD 26 && !f.hmode && toHandler t.cause)
  have unnested : 0 < (f.tvec.getLsbD 26 && !f.hmode && toHandler t.cause).toNat → f.hmode.toNat = 0 := by
    cases f.hmode <;> simp
  simp only [Flock.untrapped, Prod.mk.injEq] at same
  obtain ⟨uid, hs, hv, hq, hz, hflags, hfp, hqueue, hpaths, hentries, hops, htvec, hscr0, hscr1⟩ := same
  have put : (s.setFlock (f.trapped site t)).flock? f.uid = some (f.trapped site t) := by
    rw [← uid]; exact State.setFlock_flock (by rw [uid]; exact there)
  refine ⟨f.trapped site t, ?_, ?_, ?_, ?_, addr, info, tpc, ?_, ?_, ?_, rfl, fun _ => rfl, fun p q => ?_, rfl, rfl, ?_, fun d => ?_, fun n => ?_,
    hs, hv, hq, hz, hflags, hfp, hqueue, hpaths, hentries, hops, htvec, hscr0, hscr1⟩
  case refine_1 => rw [taken]; split <;> exact put
  case refine_2 => rw [taken]; split <;> rfl
  case refine_3 => rw [taken]; split <;> rfl
  case refine_4 => rw [tcause, bitsAt]; omega
  case refine_5 => rw [← Bool.toNat_eq_ite, tcause, bitsAt]; omega
  case refine_6 => rw [← old, tcause, bitsAt]; omega
  case refine_7 => rw [← Bool.toNat_eq_ite, tcause, bitsAt]; omega
  case refine_8 => refine ⟨?_, ?_, ?_⟩ <;> (simp only [Flock.siteRecord]; split <;> rfl)
  case refine_9 => rw [← Bool.toNat_eq_ite, tcause, bitsAt]; omega
  case refine_10 =>
    have yes := enters.2 d
    have into : f.trapped site t = (f.recorded site t).enterHandler := by unfold Flock.trapped; rw [yes]; rfl
    have bit : (f.trapped site t).hmode = true := by
      rw [Flock.hmode, getLsbD_eq_decide, tcause, yes, decide_eq_true_eq]
      have := unnested (by rw [yes]; decide)
      rw [Bool.toNat_true]
      omega
    refine ⟨by rw [taken, if_pos yes], bit, by rw [into]; rfl, ?_, ?_⟩
    · rw [into, ← htvec, into]; rfl
    · rw [into]
      show BitVec.ofNat 64 (defaultAction (bitsAt (f.recorded site t).tcause.toNat 0 8)) = _
      rw [Flock.recorded_tcause, show bitsAt (BitVec.ofNat 64 (f.causeWord site t)).toNat 0 8 = t.cause by
        rw [BitVec.toNat_ofNat, bitsAt]; omega, defaultAction]
      split <;> rfl
  case refine_11 =>
    have no : ¬ (f.tvec.getLsbD 26 && !f.hmode && toHandler t.cause) = true := fun h => n (enters.1 h)
    have into : f.trapped site t = f.heldAt site t := by unfold Flock.trapped; rw [if_neg no]
    have bit : (f.trapped site t).hmode = f.hmode := by
      rw [Flock.hmode, getLsbD_eq_decide, tcause, Bool.eq_false_iff.2 no, Bool.toNat_false, Nat.mul_zero, Nat.add_zero, hmode]
      cases f.hmode <;> rfl
    refine ⟨by rw [taken, if_neg no], bit, by rw [into]; rfl, ?_, ?_⟩
    · rw [into]; exact Flock.recorded_spc
    · rw [into]; exact Flock.recorded_tret

end Sys2Proof.Machine

/-!
PROOFS. System control (O47): invalidations (R361), held flocks (R428, R429) and suspended commands (R457).
-/
namespace Sys2Proof.Machine

/-! ## Copies of translations that are kept (R361) -/

theorem State.keepTlb_tlb (s : State) (keep : TlbEntry → Bool) (named : Nat → Bool) (c : Nat) :
    ((s.keepTlb keep named).core c).tlb = (s.core c).tlb.filter keep :=
  congrArg Core.tlb (State.mapCores_core (s := s)
    (g := fun k => { k with tlb := k.tlb.filter keep, decoders := k.decoders.filter fun x => !x.named keep }) rfl c)

/-- The copies under all keys of a map whose lists are filtered and dropped where they are empty. -/
theorem flatMap_filtered {α : Type} (keep : α → Bool) (m : SMap (List α)) :
    (m.filterMap fun x => if (x.2.filter keep).isEmpty then none else some (x.1, x.2.filter keep)).flatMap (·.2) = (m.flatMap (·.2)).filter keep := by
  induction m with
  | nil => rfl
  | cons x r ih =>
    rw [List.filterMap_cons, List.flatMap_cons, List.filter_append, ← ih]
    by_cases empty : (x.2.filter keep).isEmpty = true
    · rw [if_pos empty, List.isEmpty_iff.1 empty, List.nil_append]
    · rw [if_neg empty, List.flatMap_cons]

theorem State.keepTlb_tlb2 (s : State) (keep : TlbEntry → Bool) (named : Nat → Bool) (i : Nat) :
    ((s.keepTlb keep named).die i).tlb2.flatMap (·.2) = ((s.die i).tlb2.flatMap (·.2)).filter keep :=
  (State.mapDies_die (s := s.mapCores fun k => { k with tlb := k.tlb.filter keep, decoders := k.decoders.filter fun x => !x.named keep })
    (fun d => d.tlb2.flatMap (·.2)) rfl).trans (flatMap_filtered keep _)

/-! ## TLBINV1 (R361) -/

section
variable {s : State} {die : Nat} {value : Word64}

/-- The copies that a write of TLBINV1 invalidates. -/
def State.invalidated (s : State) (die : Nat) (value : Word64) (t : TlbEntry) : Bool :=
  t.pasid = value.toNat % 2 ^ 20 && (value.getLsbD 22 ||
    (t.size = value.toNat / 2 ^ 20 % 4 && t.page = pageBase t.size ((s.die die).tlbinv0.toNat / 2 ^ 12 % 2 ^ 36 * 2 ^ 12)))

/-- TLBINV1 as the invalidation leaves it, with BUSY. -/
def State.putInv (s : State) (die : Nat) (value : Word64) (busy : Nat) : State :=
  s.onDie die fun d => { d with tlbinv1 := BitVec.ofNat 64 (value.toNat % 2 ^ 23 + busy * 2 ^ 63) }

theorem exec_tlbinv1 : exec (.tlbinv1 die value) s =
    if (s.die die).tlbinv1.getLsbD 63 && (s.die die).tlbinv1.toNat % 2 ^ 63 ≠ value.toNat % 2 ^ 23 then .next (s.post (.tlbinv1 die value))
    else
      let t := if (s.die die).tlbinv1.getLsbD 63 then s else s.keepTlb (fun t => !s.invalidated die value t) fun i => i = value.toNat % 2 ^ 20
      if t.pasidBusy (value.toNat % 2 ^ 20) then .next ((t.putInv die value 1).post (.tlbinv1 die value)) else .next (t.putInv die value 0) := by
  have pasid : bitsAt (value.toNat % 2 ^ 23) 0 20 = value.toNat % 2 ^ 20 := by simp only [bitsAt]; omega
  have whole : decide (bitsAt (value.toNat % 2 ^ 23) 22 1 = 1) = value.getLsbD 22 := by
    rw [getLsbD_eq_decide, bitsAt]; congr 1; apply propext; constructor <;> (intro h; omega)
  have size : bitsAt (value.toNat % 2 ^ 23) 20 2 = value.toNat / 2 ^ 20 % 4 := by simp only [bitsAt]; omega
  show execTlbinv1 die value s = _
  simp only [execTlbinv1, pasid, whole, size, -Nat.reducePow]
  rfl

/-- An invalidation that need not wait ends, or stays busy, by what is in flight. -/
theorem exec_tlbinv1_acts {t : State} (mine : (s.die die).tlbinv1.getLsbD 63 = true → (s.die die).tlbinv1.toNat % 2 ^ 63 = value.toNat % 2 ^ 23)
    (after : (if (s.die die).tlbinv1.getLsbD 63 then s else s.keepTlb (fun t => !s.invalidated die value t) fun i => i = value.toNat % 2 ^ 20) = t) :
    (t.pasidBusy (value.toNat % 2 ^ 20) = false → exec (.tlbinv1 die value) s = .next (t.putInv die value 0)) ∧
    (t.pasidBusy (value.toNat % 2 ^ 20) = true → exec (.tlbinv1 die value) s = .next ((t.putInv die value 1).post (.tlbinv1 die value))) := by
  rw [exec_tlbinv1, if_neg (by simpa using mine), after]
  constructor <;> (intro busy; simp only [busy]; rfl)

/-! ## FLTCTL (R428) -/

/-- FLTCTL with the result of an action. -/
def State.putFault (s : State) (die : Nat) (value : Word64) (top : Nat) : State :=
  s.onDie die fun d => { d with fltctl := BitVec.ofNat 64 (value.toNat % 2 ^ 19 + top * 2 ^ 62) }

/-- The held flock that a value of FLTCTL names. -/
def State.heldBy (s : State) (die : Nat) (value : Word64) : Option Flock := s.flocks.find? fun f =>
  f.mode = .held ∧ f.core = value.toNat % 2 ^ 9 ∧ dieOf f.core = die ∧ f.slot = value.toNat / 2 ^ 9 % 2 ^ 6

theorem State.heldFlock_eq : s.heldFlock die (bitsAt value.toNat 0 19) = s.heldBy die value := by
  have core : bitsAt (bitsAt value.toNat 0 19) 0 9 = value.toNat % 2 ^ 9 := by simp only [bitsAt]; omega
  have slot : bitsAt (bitsAt value.toNat 0 19) 9 6 = value.toNat / 2 ^ 9 % 2 ^ 6 := by simp only [bitsAt]; omega
  simp only [State.heldFlock, State.heldBy, core, slot, Bool.decide_and, Bool.and_assoc]


section
variable {action : Nat} {again : Event} {allowed : Flock → Bool} {act : State → Flock → Option State}

/-- What a write of FLTCTL does while no other is being applied. -/
theorem State.fltctl_idle (idle : (s.die die).fltctl.getLsbD 63 = false) : s.fltctl die value action again allowed act =
    match s.heldBy die value with
    | none => s.putFault die value 1
    | some f =>
      if value.toNat / 2 ^ 15 % 2 ^ 3 ≠ action || !allowed f then s.putFault die value 1
      else match act s f with
        | some t => t.putFault die value 0
        | none => (s.putFault die value 2).post again := by
  have free : ¬ (decide (bitsAt (s.die die).fltctl.toNat 63 1 = 1) &&
      decide (bitsAt (s.die die).fltctl.toNat 0 19 ≠ bitsAt value.toNat 0 19)) = true := by
    rw [getLsbD_eq_decide, decide_eq_false_iff_not] at idle
    rw [Bool.and_eq_true, decide_eq_true_eq]
    exact fun h => idle h.1
  have field : bitsAt (bitsAt value.toNat 0 19) 15 3 = value.toNat / 2 ^ 15 % 2 ^ 3 := by simp only [bitsAt]; omega
  have whole : bitsAt value.toNat 0 19 = value.toNat % 2 ^ 19 := by rw [bitsAt, Nat.pow_zero, Nat.div_one]
  unfold State.fltctl
  rw [if_neg free, State.heldFlock_eq, field, whole]
  rfl

variable (idle : (s.die die).fltctl.getLsbD 63 = false) {f : Flock} (held : s.heldBy die value = some f)
include idle

theorem State.fltctl_nobody (nobody : s.heldBy die value = none) : s.fltctl die value action again allowed act = s.putFault die value 1 := by
  rw [State.fltctl_idle idle, nobody]

include held

theorem State.fltctl_acts {t : State} (named : value.toNat / 2 ^ 15 % 2 ^ 3 = action) (may : allowed f = true) (acts : act s f = some t) :
    s.fltctl die value action again allowed act = t.putFault die value 0 := by
  subst named
  simp [State.fltctl_idle idle, held, may, acts]

theorem State.fltctl_rejected (denied : allowed f = false) : s.fltctl die value action again allowed act = s.putFault die value 1 := by
  simp [State.fltctl_idle idle, held, denied]

theorem State.fltctl_waits (named : value.toNat / 2 ^ 15 % 2 ^ 3 = action) (may : allowed f = true) (waits : act s f = none) :
    s.fltctl die value action again allowed act = (s.putFault die value 2).post again := by
  subst named
  simp [State.fltctl_idle idle, held, may, waits]

end

/-! ## A held flock ends or goes on (R425, R428) -/

theorem State.postAdmissions_flocks (s : State) : s.postAdmissions.flocks = s.flocks :=
  foldl_kept State.flocks fun u x => by split <;> simp

theorem State.oweResidence_flocks (s : State) (h : Herd) : (s.oweResidence h).flocks = s.flocks := by
  unfold State.oweResidence; split <;> simp

theorem State.endHerd_flocks {uid : Nat} {g : Flock} (there : g ∈ (s.endHerd uid).flocks) : g ∈ s.flocks := by
  unfold State.endHerd at there
  split at there
  · exact there
  · rw [State.postAdmissions_flocks] at there
    split at there
    all_goals
      rw [← State.oweResidence_flocks s]
      exact (List.mem_filter.1 there).1

/-- A flock that is taken out is there no more, whether its herd goes on or ends. -/
theorem State.takeOut_gone (t : State) (uid herd : Nat) (last : Bool) : State.flock?
    (if last then { t with flocks := t.flocks.filter fun x => x.uid ≠ uid }
      else State.endHerd { t with flocks := t.flocks.filter fun x => x.uid ≠ uid } herd) uid = none := by
  refine List.find?_eq_none.2 fun g there => ?_
  split at there
  · simpa using (List.mem_filter.1 there).2
  · simpa using (List.mem_filter.1 (State.endHerd_flocks there)).2

/-- A flock that has ended is there no more. -/
theorem State.endFlock_gone (s : State) (uid : Nat) : (s.endFlock uid).flock? uid = none := by
  unfold State.endFlock
  split
  · assumption
  · exact State.takeOut_gone _ _ _ _

/-- A flock that leaves a trap with no block queued is as retry or skip leaves it, and runs. -/
theorem State.leaveTrap_flock {f : Flock} {skip block1 : Bool} (there : s.flock? f.uid = some f)
    (same : (if skip then f.skip else f.retry block1).uid = f.uid) (unqueued : (if skip then f.skip else f.retry block1).queue = []) :
    (s.leaveTrap f skip block1).flock? f.uid =
      some { (if skip then f.skip else f.retry block1) with tcause := f.tcause &&& ~~~0x8000#64, site := none, mode := .running } := by
  unfold State.leaveTrap
  generalize reached : ({ (if skip then f.skip else f.retry block1) with tcause := f.tcause &&& ~~~0x8000#64, site := none, mode := .running } : Flock) = g
  have uid : g.uid = f.uid := by rw [← reached]; exact same
  have queue : g.queue = [] := by rw [← reached]; exact unqueued
  have put : (s.setFlock g).flock? f.uid = some g := by
    rw [← uid]; exact State.setFlock_flock (by rw [uid]; exact there)
  simp only [State.restartBlocks, put, queue, ne_eq, not_true_eq_false, false_and, if_false]

/-! ## A domain is aborted (R429) -/

theorem State.abortDomain_lone {r : Region} (empty : s.herds = []) (one : s.regions = [r]) (running : r.status = 0) :
    s.abortDomain r.session r.domain =
      ({ s with regions := [{ r with status := 0x40, nextHerd := r.rcb.herds }] } : State).postOnce (.regionComplete r.uid) := by
  simp [State.abortDomain, empty, one, running, State.setRegion]

/-! ## ENGCTL (R457) -/

/-- ENGCTL with the result of an action. -/
def State.putEngine (s : State) (die : Nat) (value : Word64) (top : Nat) : State :=
  s.onDie die fun d => { d with engctl := BitVec.ofNat 64 (value.toNat % 2 ^ 16 + top * 2 ^ 62) }

theorem State.engctl_eq {action : Nat} {act : State → Nat → CopyCmd → State} : s.engctl die value action act =
    match (s.core (value.toNat % 2 ^ 9)).engine.find? fun c => c.suspended = true ∧ c.entry = value.toNat / 2 ^ 9 % 2 ^ 5 with
    | none => s.putEngine die value 1
    | some c => if dieOf (value.toNat % 2 ^ 9) ≠ die || value.toNat / 2 ^ 14 % 4 ≠ action then s.putEngine die value 1
      else (act s (value.toNat % 2 ^ 9) c).putEngine die value 0 := by
  have core : bitsAt (bitsAt value.toNat 0 16) 0 9 = value.toNat % 2 ^ 9 := by simp only [bitsAt]; omega
  have entry : bitsAt (bitsAt value.toNat 0 16) 9 5 = value.toNat / 2 ^ 9 % 2 ^ 5 := by simp only [bitsAt]; omega
  have field : bitsAt (bitsAt value.toNat 0 16) 14 2 = value.toNat / 2 ^ 14 % 4 := by simp only [bitsAt]; omega
  have whole : bitsAt value.toNat 0 16 = value.toNat % 2 ^ 16 := by rw [bitsAt, Nat.pow_zero, Nat.div_one]
  simp only [State.engctl, core, entry, field, Bool.decide_and, Bool.decide_eq_true]
  rw [whole]
  rfl

end

/-- Settles O47: each write answers by what its register's fields name. -/
theorem systemControl : Obligations.SystemControl := by
  unfold Obligations.SystemControl
  intro s die value v fltctl engctl idle held action command
  refine ⟨?tlb, ?nobody, ?held, ?resumes, ?domain, ?none_, ?command⟩
  case tlb =>
    refine ⟨fun free => exec_tlbinv1_acts (fun busy => Bool.noConfusion (free.symm.trans busy)) (by rw [free]; rfl), State.keepTlb_tlb _ _ _, State.keepTlb_tlb2 _ _ _, fun busy same => ?_,
      fun busy other => ?_⟩
    · exact exec_tlbinv1_acts (fun _ => same) (by rw [busy]; rfl)
    · rw [exec_tlbinv1, busy, if_pos (by simpa using other)]
  case nobody =>
    intro free none_ i named
    simp only [List.mem_cons, List.not_mem_nil, or_false] at named
    obtain rfl | rfl | rfl | rfl | rfl := named <;> exact congrArg Host.Outcome.next (State.fltctl_nobody free none_)
  case held =>
    intro f free there
    refine ⟨fun a => ?_, fun a may => ?_, fun a denied => ?_, fun a may first => ?_, fun a denied => ?_, fun a waits => ?_, fun a drained done => ?_, fun a => ?_⟩
    · exact congrArg Host.Outcome.next (State.fltctl_acts free there a rfl rfl)
    · exact congrArg Host.Outcome.next (State.fltctl_acts free there a (by rw [Flock.recipeFault, may]; rfl) rfl)
    · exact congrArg Host.Outcome.next (State.fltctl_rejected free there (by rw [Flock.recipeFault, denied]; rfl))
    · exact congrArg Host.Outcome.next (State.fltctl_acts free there a (by rw [may, first]; rfl) rfl)
    · exact congrArg Host.Outcome.next (State.fltctl_rejected free there (by rw [denied]; rfl))
    · exact congrArg Host.Outcome.next (State.fltctl_waits free there a rfl (if_neg (by simpa using fun d => waits.resolve_left (by simp [d]))))
    · exact ⟨_, congrArg Host.Outcome.next (State.fltctl_acts free there a rfl (if_pos (by simp [drained, done]))), State.endFlock_gone _ _⟩
    · exact congrArg Host.Outcome.next (State.fltctl_acts free there a rfl rfl)
  case resumes =>
    intro f outside site there unqueued
    have leaves (skip : Bool) : s.resumeTrap f skip false = s.leaveTrap f skip false := by rw [State.resumeTrap, outside]; rfl
    rw [leaves, leaves]
    refine ⟨⟨_, State.leaveTrap_flock there ?_ ?_, ?_, rfl, rfl⟩, ⟨_, State.leaveTrap_flock there rfl unqueued, rfl, rfl, rfl⟩⟩
    all_goals simp [Flock.skip, site, unqueued]
  case domain =>
    intro session domain r empty one rfl rfl running
    rw [State.abortDomain_lone empty one running]
    exact ⟨State.postOnce_regions .., State.mem_postOnce.2 (.inr rfl)⟩
  case none_ =>
    intro absent
    have rejects (action : Nat) (act : State → Nat → CopyCmd → State) : s.engctl die value action act = engctl s 1 := by
      rw [State.engctl_eq, show (s.core (value.toNat % 2 ^ 9)).engine.find? _ = none from absent]; rfl
    exact ⟨congrArg Host.Outcome.next (rejects ..), congrArg Host.Outcome.next (rejects ..)⟩
  case command =>
    intro c core named rfl here
    have acts (action : Nat) (act : State → Nat → CopyCmd → State) (a : v / 2 ^ 14 % 4 = action) :
        s.engctl die value action act = engctl (act s (v % 2 ^ 9) c) 0 := by
      rw [State.engctl_eq, show (s.core (value.toNat % 2 ^ 9)).engine.find? _ = some c from named]
      exact if_neg (by simpa using ⟨here, a⟩)
    exact ⟨fun a => congrArg Host.Outcome.next (acts 0 _ a), fun a => congrArg Host.Outcome.next (acts 1 _ a)⟩

end Sys2Proof.Machine

/-!
PROOFS. A state that refutes statement O38: a pool node that may be read and not written is charged nothing, and its reading leaves copies.
-/
namespace Sys2Proof.Machine

/-! ## A pool node on a page that may not be written (R355; log entry 98) -/

/-- Herd 2 of region 3, on core 0. -/
def unpaidHerd : Herd := { Herd.absent with uid := 2, region := 3, core := 0 }

/-- The herd has resided for two units. Its region's pool node lies on the page that `State.fetchState` maps, here a page of the commons
without the permission to write. -/
def unpaidState : State :=
  let s := State.reset.fetchState false []
  { s with
    mem := Memory.writeNum s.mem 0x8000 16 (16 + 2 ^ 106 + 2 ^ 110)
    herds := [unpaidHerd]
    dies := s.dies.map fun d => { d with cycle := 2048 } }

theorem unpaidHerd_passed :
    ((unpaidState.die (dieOf unpaidHerd.core)).cycle.toNat + 2 ^ 64 - unpaidHerd.charged) % 2 ^ 64 = 2048 := by decide +kernel

/-- The state as the statement has it left: the residence charged, the pool's node not read. -/
def unpaidCharged : State :=
  (unpaidState.postOnce (.budgetCharge unpaidHerd.uid)).setHerd
    { unpaidHerd with charged := ((unpaidState.die (dieOf unpaidHerd.core)).cycle.toNat + 2 ^ 64 - 2048 % 1024) % 2 ^ 64 }

/-- The die's agent that charges the pool. -/
def unpaidAgent : Agent := deviceAgent (unpaidCharged.regionOf unpaidHerd).session (dieOf unpaidHerd.core)

/-- The address of USED. -/
def unpaidUsed : Nat := (unpaidCharged.regionOf unpaidHerd).pool + 128

/-- The state after the read of USED, and what that holds. -/
def unpaidRead : State × Nat :=
  match unpaidCharged.devRead unpaidAgent unpaidUsed 6 true with
  | .ok x => x
  | .error _ => (unpaidCharged, 0)

theorem unpaidCharged_devRead : unpaidCharged.devRead unpaidAgent unpaidUsed 6 true = .ok (unpaidRead.1, unpaidRead.2) := by
  have reads : (unpaidCharged.devRead unpaidAgent unpaidUsed 6 true).toOption.isSome = true := by decide +kernel
  rw [Prod.mk.eta]
  unfold unpaidRead
  split
  · assumption
  · next wrong =>
    rw [wrong] at reads
    cases reads

/-- The error of an access that is refused. -/
def refusal {α : Type} : Except Nat α → Option Nat
  | .error e => some e
  | .ok _ => none

theorem eq_error_of_refusal {α : Type} {x : Except Nat α} {e : Nat} (refused : refusal x = some e) : x = .error e := by
  cases x with
  | error c => exact congrArg Except.error (Option.some.inj refused)
  | ok _ => cases refused

theorem unpaidRead_devWrite : unpaidRead.1.devWrite unpaidAgent unpaidUsed (bytesOf 6 (unpaidRead.2 + 2048 / 1024)) = .error 0x06 :=
  eq_error_of_refusal (by decide +kernel)

/-- The lines of die 0's second-level cache once an instruction or event is done. -/
def cachedLines : Host.Outcome State Fault Refusal → Nat
  | .next s => (s.die 0).l2.length
  | _ => 0

/-- Refutes O38: the clause on a charge whose write is refused has the state before the read of USED kept, and the lines and translations which that
read brings to the die's caches stay. -/
theorem not_paddocks : ¬ Obligations.Paddocks := by
  unfold Obligations.Paddocks
  intro holds
  obtain ⟨-, charges, -⟩ := holds unpaidState
  have clause := charges unpaidHerd (fun o owes => absurd owes List.not_mem_nil) rfl (fun saved => nomatch saved)
  dsimp only at clause
  rw [unpaidHerd_passed] at clause
  obtain ⟨-, -, unwritten, -⟩ := clause
  have stays : exec (.budgetCharge unpaidHerd.uid) unpaidState = .next unpaidCharged :=
    unwritten 0x06 unpaidRead.1 unpaidRead.2 (by decide) unpaidCharged_devRead unpaidRead_devWrite
  have cached : cachedLines (exec (.budgetCharge unpaidHerd.uid) unpaidState) = 1 := by decide +kernel
  have uncached : cachedLines (.next unpaidCharged) = 0 := by decide +kernel
  rw [stays, uncached] at cached
  exact absurd cached (by decide)

end Sys2Proof.Machine

/-!
PROOFS. A state that refutes statement O39: with no report register for its paddock, a session's bad completion queue is reported nowhere.
-/
namespace Sys2Proof.Machine

/-! ## A bad descriptor beyond the report registers (R477, R479) -/

/-- Session 0 is active, no page of it is mapped, and the state lists no report registers. -/
def unreportedState : State := { State.reset with mem := [(4, 2)], padrep := [] }

theorem unreportedState_cqDescriptor : unreportedState.cqDescriptor 0 (unreportedState.home 0) = .error 0x05 :=
  eq_error_of_refusal (by decide +kernel)

/-- Bit 6 of a paddock's report register once an instruction or event is done. -/
def reportsBadQueue (paddock : Nat) : Host.Outcome State Fault Refusal → Bool
  | .next s => (s.padrep.getD paddock 0).getLsbD 6
  | _ => false

/-- Refutes O39: the clause on the retest of a bad descriptor has bit 6 of the paddock's report register raised, with no bound on the registers that
the state lists. -/
theorem not_completionsAndReports : ¬ Obligations.CompletionsAndReports := by
  unfold Obligations.CompletionsAndReports
  rintro ⟨records, -⟩
  obtain ⟨-, -, -, -, retest⟩ := records unreportedState ⟨0, 0, 0, 0, 0, 0, false, none, none⟩
  obtain ⟨-, -, bad⟩ := retest (by decide +kernel)
  obtain ⟨t, tested, -, raised, -⟩ := bad 0x05 (by decide) unreportedState_cqDescriptor
  have silent : reportsBadQueue (unreportedState.paddockOf 0) (exec (.cqDescriptorRetest 0) unreportedState) = false := by decide +kernel
  rw [tested] at silent
  exact absurd (raised.symm.trans silent) (by decide)

end Sys2Proof.Machine

/-!
PROOFS. A queue's state as it is read back (R347).
-/
namespace Sys2Proof.Machine

/-! ## A queue's state (R347) -/

section
variable {s : State} {session q : Nat} {x : QState}

theorem State.queue_named : (s.queue session q).session = session ∧ (s.queue session q).q = q := by
  unfold State.queue
  cases found : s.queues.find? fun x => x.session = session && x.q = q with
  | none => exact ⟨rfl, rfl⟩
  | some x => simpa using List.find?_some found

theorem State.queue_session : (s.queue session q).session = session := State.queue_named.1

theorem State.queue_q : (s.queue session q).q = q := State.queue_named.2

theorem State.setQueue_queue (named : x.session = session) (numbered : x.q = q) : (s.setQueue x).queue session q = x := by
  subst named numbered
  simp [State.queue, State.setQueue]

end

end Sys2Proof.Machine

/-!
PROOFS. A state that refutes statement O42: a COPY whose read has a second-level cache give up the line of its session's context, so that the
write is made for another HOME die (R85, R351).
-/
namespace Sys2Proof.Machine

/-! ## A packet that starts (R351, R476) -/

section
variable {s v : State} {p : Packet}

/-- The packet has been consumed and has not started. -/
def State.Due (s : State) (p : Packet) : Prop :=
  p.slot ∉ (s.queue p.session p.q).running ∧ p.slot ∈ (s.queue p.session p.q).unstarted

/-- Nothing that must come before the packet is left to wait for. -/
def State.MayStart (s : State) (p : Packet) : Prop :=
  (s.queue p.session p.q).stopped = false ∧ s.packetsRun p.session = true ∧ s.recordWaits p.session p.q = false ∧
    (packetBarrier p = true → (s.queue p.session p.q).running = [])

/-- The state on which a packet that starts acts. -/
def State.started (s : State) (p : Packet) : State :=
  (s.setQueue { s.queue p.session p.q with unstarted := [], running := (s.queue p.session p.q).running ++ [p.slot] }).postOnce
    (.queueStep p.session p.q)

theorem State.runPacket_started (due : s.Due p) (may : s.MayStart p) (good : s.packetOk p = true) (go : State → State) :
    s.runPacket p go = go (s.started p) := by
  obtain ⟨idle, listed⟩ := due
  obtain ⟨on, active, written, first⟩ := may
  have free : ((s.queue p.session p.q).stopped || !s.packetsRun p.session || s.recordWaits p.session p.q ||
      (packetBarrier p && ((s.queue p.session p.q).running != []))) = false := by
    cases barrier : packetBarrier p with
    | false => simp [on, active, written]
    | true => simp [on, active, written, first barrier]
  unfold State.runPacket
  rw [if_neg (by simpa using idle), if_neg (by simpa using listed), if_neg (by rw [free]; exact Bool.false_ne_true)]
  exact if_pos good

theorem exec_packetCopy_unwritten {e n : Nat} (due : s.Due p) (may : s.MayStart p) (good : s.packetOk p = true)
    (read : (s.started p).devRead ((s.started p).packetAgent p) (packetWord p 1) 4 = .ok (v, n))
    (unwritten : v.devWrite (v.packetAgent p) (packetWord p 2) (bytesOf 4 n) = .error e) :
    exec (.packetCopy p) s = .next (if e = notYet then v.post (.packetCopy p) else v.packetFailed p e) := by
  refine (congrArg Host.Outcome.next (State.runPacket_started due may good _)).trans ?_
  simp only [read, unwritten]

theorem State.packetFailed_stopped (status : Nat) : ((s.packetFailed p status).queue p.session p.q).stopped = true := by
  have kept (t : State) (x : QState) (die : Nat) (tag : Word64) (typ : Nat) :
      ((t.setQueue x).report p.session tag typ status die (some p.q)).queue p.session p.q = (t.setQueue x).queue p.session p.q := by
    simp [State.report, State.queue]
  unfold State.packetFailed
  rw [kept]
  exact congrArg QState.stopped (State.setQueue_queue (by exact State.queue_session) (by exact State.queue_q))

end

/-! ## A write that the walk's first entry refuses (R78, R81) -/

theorem State.devWrite_unwalked {s : State} {ag : Agent} {va : Nat} {bs : List Byte} {e : Nat} (low : va < 2 ^ 48) (device : ag.core = none)
    (unread : s.walkFrom (some ag) va 3 (s.root ag.session * 2 ^ 12) = .error e) : s.devWrite ag va bs = .error e := by
  have walk : s.walkBy ag va = .error e := unread
  simp only [State.devWrite, State.translate, State.lookup, if_neg (Nat.not_le.2 low), device, walk]

/-! ## A COPY by which its session's context leaves the second-level cache (R85) -/

section

-- The evaluations below go one at a time, for the memory that they take together.
set_option Elab.async false

/-- A COPY of one word from address 0 to address 0. -/
def lossyCopy : Packet := ⟨0, 0, 0, [2, 0, 0, 4, 0, 0, 0, 0]⟩

/-- The first block of session 0's context: PASID 1898, active, HOME 0, root frame 2 and one way in the caches. -/
def lossyBlock : List Byte := [106, 7, 0, 0, 2, 0, 0, 0, 2, 0, 0, 0, 0, 0, 1, 0]

/-- The COPY is due. The context's unit is listed under a key, and die 0's second-level cache holds its plaintext, in the set and the way that
the COPY's source will take. No link carries traffic. -/
def lossyState : State :=
  let s := State.reset.fetchState false []
  { s with
    mem := Memory.write s.mem 0 lossyBlock
    memKeys := [(0, 0)]
    queues := [⟨0, 0, 1, false, false, [0], [], false, 0, []⟩]
    dies := s.dies.zipIdx.map fun (d, i) => { d with
      links := d.links.map fun l => { l with training := true }
      l2 := if i = 0 then [⟨0, 16, 5, 0, none, 0, 0, 15, 0, 0, 0, [], none⟩] else [] } }

theorem lossyState_due : lossyState.Due lossyCopy := ⟨by decide +kernel, by decide +kernel⟩

theorem lossyState_mayStart : lossyState.MayStart lossyCopy :=
  ⟨by decide +kernel, by decide +kernel, by decide +kernel, fun barrier => absurd barrier (by decide +kernel)⟩

theorem lossyState_packetOk : lossyState.packetOk lossyCopy = true := by decide +kernel

/-- The state once the COPY has read its word, and the word. -/
def lossyRead : State × Nat :=
  match (lossyState.started lossyCopy).devRead ((lossyState.started lossyCopy).packetAgent lossyCopy) (packetWord lossyCopy 1) 4 with
  | .ok x => x
  | .error _ => (lossyState, 0)

theorem lossyState_devRead :
    (lossyState.started lossyCopy).devRead ((lossyState.started lossyCopy).packetAgent lossyCopy) (packetWord lossyCopy 1) 4 =
      .ok (lossyRead.1, lossyRead.2) := by
  have reads : ((lossyState.started lossyCopy).devRead ((lossyState.started lossyCopy).packetAgent lossyCopy)
    (packetWord lossyCopy 1) 4).toOption.isSome = true := by decide +kernel
  rw [Prod.mk.eta]
  unfold lossyRead
  split
  · assumption
  · next wrong =>
    rw [wrong] at reads
    cases reads

/-- What the read leaves: the key of the context's unit, no line of it in the cache, its bytes, its place, and the queue, which runs. -/
theorem lossyRead_kept : lossyRead.1.memKeys = [(0, 0)] ∧ lossyRead.1.inL2 0 = false ∧
    Memory.bytes lossyRead.1.mem 0 256 = lossyBlock ++ List.replicate 240 0 ∧ lossyRead.1.context 0 = 0 ∧
    ((lossyRead.1.post (.packetCopy lossyCopy)).queue lossyCopy.session lossyCopy.q).stopped = false := by decide +kernel

theorem lossyState_agent : (lossyState.started lossyCopy).packetAgent lossyCopy = deviceAgent 0 0 := by decide +kernel

/-- From the root frame that the context shows after the read, a walk of the session's own die is refused. -/
theorem lossyRead_refuses :
    refusal (lossyRead.1.walkFrom (some (deviceAgent 0 0)) (packetWord lossyCopy 2) 3 (16978856 * 2 ^ 12)) = some 0x05 := by decide +kernel

/-- That of the die which the context shows then has to wait. -/
theorem lossyRead_waits :
    refusal (lossyRead.1.walkFrom (some (deviceAgent 0 2)) (packetWord lossyCopy 2) 3 (16978856 * 2 ^ 12)) = some notYet := by decide +kernel

/-! ## The first block under the key of zeros (R85) -/

/-- One round of AES, and the last. -/
def aesRound (ws : List (List Byte)) (b : List Byte) (i : Nat) : List Byte :=
  xorBytes (mixColumns [2, 3, 1, 1] (shiftRows false (b.map subByte))) (roundKey ws (i + 1))

def aesLast (ws : List (List Byte)) (b : List Byte) : List Byte := xorBytes (shiftRows false (b.map subByte)) (roundKey ws 14)

/-- A block is encrypted in four parts, so that an evaluation takes one at a time. -/
theorem aesEncrypt_parts {ws : List (List Byte)} {b b1 b2 b3 b4 : List Byte} (first : [0, 1, 2, 3].foldl (aesRound ws) (xorBytes b (roundKey ws 0)) = b1)
    (second : [4, 5, 6, 7].foldl (aesRound ws) b1 = b2) (third : [8, 9, 10, 11, 12].foldl (aesRound ws) b2 = b3) (last : aesLast ws b3 = b4) :
    aesEncrypt ws b = b4 := by
  have whole : aesEncrypt ws b = aesLast ws ((List.range 13).foldl (aesRound ws) (xorBytes b (roundKey ws 0))) := by
    unfold aesEncrypt aesLast aesRound
    rfl
  rw [whole, show List.range 13 = [0, 1, 2, 3] ++ ([4, 5, 6, 7] ++ [8, 9, 10, 11, 12]) from rfl, List.foldl_append, List.foldl_append, first, second,
    third, last]

/-- Block `j` of a unit, under a key and a tweak. -/
def xtsBlock (ws : List (List Byte)) (data t : List Byte) (j : Nat) : List Byte :=
  xorBytes (aesEncrypt ws (xorBytes ((data.drop (16 * j)).take 16) t)) t

/-- The blocks follow one another, each under the next tweak. -/
def xtsBlocks (block : List Byte → Nat → List Byte) (l : List Nat) (x : List Byte × List Byte) : List Byte × List Byte :=
  l.foldl (fun x j => (x.1 ++ block x.2 j, nextTweak x.2)) x

theorem xtsBlocks_append (block : List Byte → Nat → List Byte) (l : List Nat) (out t : List Byte) : ∃ rest, (xtsBlocks block l (out, t)).1 = out ++ rest := by
  induction l generalizing out t with
  | nil => exact ⟨[], (List.append_nil _).symm⟩
  | cons j l ih =>
    obtain ⟨rest, same⟩ := ih (out ++ block t j) (nextTweak t)
    exact ⟨block t j ++ rest, by rw [← List.append_assoc]; exact same⟩

theorem xtsUnit_eq (pair : BitVec 512) (tweak : Nat) (data : List Byte) : xtsUnit false pair tweak data =
    (xtsBlocks (xtsBlock (aesSchedule ((bytesOf 64 pair.toNat).take 32)) data) (List.range 16)
      ([], aesEncrypt (aesSchedule ((bytesOf 64 pair.toNat).drop 32)) (bytesOf 16 tweak))).1 := by
  unfold xtsUnit xtsBlocks xtsBlock
  rfl

/-- The first block of a unit under a key. -/
theorem xtsUnit_first {pair : BitVec 512} {tweak : Nat} {data start block : List Byte}
    (tweaked : aesEncrypt (aesSchedule ((bytesOf 64 pair.toNat).drop 32)) (bytesOf 16 tweak) = start)
    (encrypted : xtsBlock (aesSchedule ((bytesOf 64 pair.toNat).take 32)) data start 0 = block)
    (whole : block.length = 16) : (xtsUnit false pair tweak data).take 16 = block := by
  have begins (f : List Byte → Nat → List Byte) : xtsBlocks f (List.range 16) ([], start) = xtsBlocks f (List.range' 1 15) (f start 0, nextTweak start) := rfl
  obtain ⟨rest, same⟩ := xtsBlocks_append (xtsBlock (aesSchedule ((bytesOf 64 pair.toNat).take 32)) data) (List.range' 1 15) block (nextTweak start)
  rw [xtsUnit_eq, tweaked, begins, encrypted, same, List.take_append_of_le_length (Nat.le_of_eq whole.symm),
    List.take_of_length_le (Nat.le_of_eq whole)]

/-- The key schedule of the key of zeros, and what it makes of the tweak of unit 0. -/
def zeroSchedule : List (List Byte) :=
  [[0, 0, 0, 0], [0, 0, 0, 0], [0, 0, 0, 0], [0, 0, 0, 0], [0, 0, 0, 0], [0, 0, 0, 0], [0, 0, 0, 0], [0, 0, 0, 0], [98, 99, 99, 99], [98, 99, 99,
   99], [98, 99, 99, 99], [98, 99, 99, 99], [170, 251, 251, 251], [170, 251, 251, 251], [170, 251, 251, 251], [170, 251, 251, 251], [111, 108, 108,
   207], [13, 15, 15, 172], [111, 108, 108, 207], [13, 15, 15, 172], [125, 141, 141, 106], [215, 118, 118, 145], [125, 141, 141, 106], [215, 118,
   118, 145], [83, 84, 237, 193], [94, 91, 226, 109], [49, 55, 142, 162], [60, 56, 129, 14], [150, 138, 129, 193], [65, 252, 247, 80], [60, 113,
   122, 58], [235, 7, 12, 171], [158, 170, 143, 40], [192, 241, 109, 69], [241, 198, 227, 231], [205, 254, 98, 233], [43, 49, 43, 223], [106, 205,
   220, 143], [86, 188, 166, 181], [189, 187, 170, 30], [100, 6, 253, 82], [164, 247, 144, 23], [85, 49, 115, 240], [152, 207, 17, 25], [109, 187,
   169, 11], [7, 118, 117, 132], [81, 202, 211, 49], [236, 113, 121, 47], [231, 176, 232, 156], [67, 71, 120, 139], [22, 118, 11, 123], [142, 185,
   26, 98], [116, 237, 11, 161], [115, 155, 126, 37], [34, 81, 173, 20], [206, 32, 212, 59], [16, 248, 10, 23], [83, 191, 114, 156], [69, 201, 121,
   231], [203, 112, 99, 133]]

def zeroTweak : List Byte := [220, 149, 192, 120, 162, 64, 137, 137, 173, 72, 162, 20, 146, 132, 32, 135]

theorem zeroPair_halves : (bytesOf 64 (0 : BitVec 512).toNat).drop 32 = List.replicate 32 0 ∧ (bytesOf 64 (0 : BitVec 512).toNat).take 32 = List.replicate 32 0 ∧
    bytesOf 16 0 = List.replicate 16 0 := by decide +kernel

/-- The first block of the context as it is shown in the clear once the cache has lost its plaintext. -/
theorem lossyBlock_ciphertext : (xtsUnit false 0 0 (lossyBlock ++ List.replicate 240 0)).take 16 =
    [210, 51, 30, 227, 84, 155, 0, 48, 168, 19, 3, 1, 0, 244, 2, 4] := by
  obtain ⟨tweakKey, dataKey, unit_⟩ := zeroPair_halves
  have schedule : aesSchedule (List.replicate 32 0) = zeroSchedule := by decide +kernel
  have tweak : aesEncrypt zeroSchedule (List.replicate 16 0) = zeroTweak :=
    aesEncrypt_parts (b1 := [61, 49, 51, 155, 95, 82, 80, 248, 61, 49, 51, 155, 95, 82, 80, 248])
      (b2 := [154, 109, 79, 128, 92, 49, 57, 105, 190, 167, 206, 97, 244, 18, 108, 189])
      (b3 := [39, 186, 159, 47, 43, 179, 100, 126, 200, 125, 16, 106, 21, 145, 99, 6])
      (by decide +kernel) (by decide +kernel) (by decide +kernel) (by decide +kernel)
  have block : aesEncrypt zeroSchedule (xorBytes (((lossyBlock ++ List.replicate 240 0).drop (16 * 0)).take 16) zeroTweak) =
      [14, 166, 222, 155, 246, 219, 137, 185, 5, 91, 161, 21, 146, 112, 34, 131] :=
    aesEncrypt_parts (b1 := [129, 221, 163, 221, 118, 153, 142, 58, 236, 65, 223, 131, 7, 10, 240, 85])
      (b2 := [21, 237, 26, 223, 65, 220, 62, 186, 42, 18, 239, 51, 154, 108, 254, 175])
      (b3 := [233, 82, 45, 194, 41, 157, 248, 4, 114, 140, 25, 165, 21, 116, 99, 240])
      (by decide +kernel) (by decide +kernel) (by decide +kernel) (by decide +kernel)
  refine xtsUnit_first (start := zeroTweak) ?_ ?_ rfl
  · rw [tweakKey, schedule, unit_, tweak]
  · rw [dataKey, schedule, xtsBlock, block]
    decide +kernel

/-- Bytes of the context's first block. -/
theorem lossyRead_clearBytes {pa n : Nat} (inside : pa + n ≤ 16) (some_ : 0 < n) : lossyRead.1.clearBytes pa n =
    (([210, 51, 30, 227, 84, 155, 0, 48, 168, 19, 3, 1, 0, 244, 2, 4] : List Byte).drop pa).take n := by
  obtain ⟨keys, lost, held, -, -⟩ := lossyRead_kept
  have unit_ : unitsOf pa n = [0] := by
    have one : (pa + n - 1) / 256 - pa / 256 + 1 = 1 := by omega
    have first : pa / 256 = 0 := by omega
    rw [unitsOf, one, first]
    rfl
  have shown : lossyRead.1.unitUnder none 0 = xtsUnit false 0 0 (lossyBlock ++ List.replicate 240 0) := by
    rw [State.unitUnder, keys, held]
    rfl
  simp only [State.clearBytes, keys, unit_, List.flatMap_cons, List.flatMap_nil, Nat.mul_zero, lost, shown, List.append_nil]
  rw [← lossyBlock_ciphertext, Nat.mod_eq_of_lt (by omega), if_neg Bool.false_ne_true, List.drop_take, List.take_take, Nat.min_eq_left (by omega)]

theorem lossyRead_home : lossyRead.1.home 0 = 2 := by
  obtain ⟨-, -, -, place, -⟩ := lossyRead_kept
  rw [State.home, State.ctx, place, State.clearNum, lossyRead_clearBytes (by decide) (by decide)]
  decide

theorem lossyRead_root : lossyRead.1.root 0 = 16978856 := by
  obtain ⟨-, -, -, place, -⟩ := lossyRead_kept
  rw [State.root, State.ctx, place, State.clearNum, lossyRead_clearBytes (by decide) (by decide)]
  decide

end

/-- Refutes O42: the clause on a COPY whose word cannot be written names the agent of the state before the read, and the packet's write is made for
the HOME die that the session's context shows after it. Here that context shows another die, which the fabric does not serve, and the packet waits. -/
theorem not_packets : ¬ Obligations.Packets := by
  unfold Obligations.Packets
  intro holds
  obtain ⟨-, -, acts, -⟩ := holds lossyState lossyCopy
  obtain ⟨-, -, -, unwritten, -⟩ := acts lossyState_due lossyState_mayStart lossyState_packetOk
  obtain ⟨-, -, -, -, runs⟩ := lossyRead_kept
  have refused : lossyRead.1.devWrite ((lossyState.started lossyCopy).packetAgent lossyCopy) (packetWord lossyCopy 2)
      (bytesOf 4 lossyRead.2) = .error 0x05 := by
    rw [lossyState_agent]
    refine State.devWrite_unwalked (by decide) rfl ?_
    rw [show (deviceAgent 0 0).session = 0 from rfl, lossyRead_root]
    exact eq_error_of_refusal lossyRead_refuses
  have waits : lossyRead.1.devWrite (lossyRead.1.packetAgent lossyCopy) (packetWord lossyCopy 2) (bytesOf 4 lossyRead.2) = .error notYet := by
    rw [State.packetAgent, show lossyCopy.session = 0 from rfl, lossyRead_home]
    refine State.devWrite_unwalked (by decide) rfl ?_
    rw [show (deviceAgent 0 2).session = 0 from rfl, lossyRead_root]
    exact eq_error_of_refusal lossyRead_waits
  have fails := unwritten lossyRead.1 lossyRead.2 0x05 lossyState_devRead refused
  rw [if_neg (by decide)] at fails
  have again : exec (.packetCopy lossyCopy) lossyState = .next (lossyRead.1.post (.packetCopy lossyCopy)) :=
    (exec_packetCopy_unwritten lossyState_due lossyState_mayStart lossyState_packetOk lossyState_devRead waits).trans (congrArg _ (if_pos rfl))
  have same : lossyRead.1.packetFailed lossyCopy 0x05 = lossyRead.1.post (.packetCopy lossyCopy) := Host.Outcome.next.inj (fails.symm.trans again)
  have stopped := State.packetFailed_stopped (s := lossyRead.1) (p := lossyCopy) 0x05
  rw [same, runs] at stopped
  cases stopped

end Sys2Proof.Machine

/-!
PROOFS. The queue processor (O41): doorbells (R347), the step of a queue (R348, R351, R368) and dependence counters (R357, R478).
-/
namespace Sys2Proof.Machine

/-! ## Fields of a packet's header (R349) -/

theorem packetField_word (session q slot v : Nat) (lo : Nat) :
    packetField ⟨session, q, slot, packetWords v⟩ lo 1 = v % 2 ^ 64 / 2 ^ lo % 2 := by
  show bitsAt (BitVec.ofNat 64 (bitsAt v 0 64)).toNat lo 1 = _
  simp [bitsAt]

/-! ## Doorbells (R347, R477) -/

section
variable {s : State} {session q : Nat} {value : Word64}

/-- A queue's state as a doorbell leaves it. -/
def QState.rung (x : QState) (value : Word64) : QState :=
  if value.getLsbD 63 then { x with db := value.toNat % 2 ^ 63, stopped := false } else { x with db := max x.db value.toNat }

/-- The state once a doorbell has come to its queue and the completion queue is due to be tested. -/
def State.rung (s : State) (session q : Nat) (value : Word64) : State :=
  (s.setQueue ((s.queue session q).rung value)).postOnce (.cqDescriptorRetest session)

theorem exec_doorbellWrite (known : session < 1024) (low : q < 8) : exec (.doorbellWrite (64 * (8 * session + q)) value) s =
    if s.ctx session (448 + q) 1 = 0 then .next s
    else match (s.rung session q value).queueDescriptor session q with
      | .error c => .next (if c = notYet then (s.rung session q value).postOnce (.queueStep session q)
          else (s.rung session q value).stopBadQueue ((s.queue session q).rung value))
      | .ok (u, _) => .next (u.postOnce (.queueStep session q)) := by
  have aligned : 64 * (8 * session + q) % 64 = 0 := Nat.mul_mod_right _ _
  have owner : 64 * (8 * session + q) / 512 = session := by omega
  have number : 64 * (8 * session + q) / 64 % 8 = q := by omega
  show execDoorbellWrite _ value s = _
  simp only [execDoorbellWrite, owner, number]
  by_cases shut : s.ctx session (448 + q) 1 = 0
  · rw [if_pos (.inr (.inr shut)), if_pos shut]
  · rw [if_neg (by simp [aligned, shut, known]), if_neg shut]
    rfl

end

/-! ## The step of a queue (R348, R368) -/

section
variable {s r u : State} {session q v : Nat} {d : QueueDesc}

/-- The queue may look at its next slot. -/
def State.Steps (s : State) (session q : Nat) : Prop :=
  (s.queue session q).stopped = false ∧ (s.queue session q).waiting = false ∧ (s.queue session q).unstarted = [] ∧
    s.recordWaits session q = false ∧ s.sessionState session = 1 ∧ s.packetsRun session = true

theorem exec_queueStep (steps : s.Steps session q) : exec (.queueStep session q) s =
    match s.queueDescriptor session q with
    | .error c => .next (if c = notYet then s.postOnce (.queueStep session q) else s.stopBadQueue (s.queue session q))
    | .ok (r, d) =>
      if (s.queue session q).db ≤ d.read then .next r
      else match r.devAcquire (deviceAgent session (r.home session)) (d.slot d.read) 64 with
        | .error c => .next (if c = notYet then r.postOnce (.queueStep session q) else r.stopBadQueue (s.queue session q))
        | .ok (u, none) => .next (u.postOnce (.queueStep session q))
        | .ok (u, some v) =>
          let p : Packet := ⟨session, q, d.read, packetWords v⟩
          if packetField p 8 1 ≠ d.parity d.read then .next u
          else if packetType p = 1 && packetLegacy p && u.packetOk p then
            match u.legacyLookup (u.paddockOf session) (packetWord p 2) with
            | some t => .next (u.consume (s.queue session q) d { p with words := p.words ++ [BitVec.ofNat 64 t] })
            | none =>
              if (s.queue session q).missPosted then .next u
              else .next ((u.setQueue { s.queue session q with missPosted := true }).post
                (.completionRecordWrite ⟨session, p.words.getD 2 0, 0x80, 0, u.home session, q, true, some q, none⟩))
          else .next (u.consume (s.queue session q) d p) := by
  obtain ⟨on, awake, started, written, active, runs⟩ := steps
  show execQueueStep session q s = _
  unfold execQueueStep
  dsimp only
  rw [if_neg (by simp [on, awake, started]), if_neg (by simp [written, active]), if_neg (by simp [runs])] <;> rfl

theorem packetField_parity (session q : Nat) (d : QueueDesc) (v : Nat) :
    (packetField ⟨session, q, d.read, packetWords v⟩ 8 1 ≠ d.parity d.read) ↔ v / 2 ^ 8 % 2 ≠ d.read / 2 ^ d.sizelog % 2 := by
  have bit : packetField ⟨session, q, d.read, packetWords v⟩ 8 1 = v / 2 ^ 8 % 2 := by
    rw [packetField_word]
    omega
  rw [bit, QueueDesc.parity]

theorem State.consume_consumes {x : QState} {p : Packet} :
    ((s.consume x d p).queue x.session x.q).unstarted = [p.slot] ∧ startEvent p ∈ (s.consume x d p).agenda := by
  refine ⟨?_, State.mem_post.2 (.inr rfl)⟩
  unfold State.consume
  dsimp only
  rw [show ∀ (t : State) (e : Event), (t.post e).queue x.session x.q = t.queue x.session x.q from fun _ _ => rfl,
    State.setQueue_queue rfl rfl]

end

/-! ## Dependence counters (R357, R478) -/

section
variable {s t : State} {die ctr amount sender : Nat} {c : DepCounter}

/-- A counter of a die is replaced, or freed. -/
def State.putCounter (s : State) (die ctr : Nat) (x : Option DepCounter) : State := s.onDie die fun d => { d with counters := match x with
  | some x => SMap.insert d.counters ctr x
  | none => SMap.erase d.counters ctr }

/-- A counter that has come to zero starts anew, or is freed. -/
def State.restartCounter (s : State) (die ctr : Nat) (c : DepCounter) : State :=
  s.putCounter die ctr (if c.reload = 0 then none else some { c with count := c.reload })

theorem State.put_counted (counts : c.count ≠ 0) :
    (s.onDie die fun d => { d with counters := SMap.put d.counters DepCounter.free ctr c }) = s.putCounter die ctr (some c) := by
  have held : c ≠ DepCounter.free := fun free => counts (congrArg DepCounter.count free)
  simp only [SMap.put, if_neg held, State.putCounter]

theorem exec_depCounterDecrement (known : SMap.get? (s.die die).counters ctr = some c) (sound : c.poison = false) :
    exec (.depCounterDecrement die ctr amount sender) s =
      if (s.die die).live = true ∧ c.session = sender ∧ amount ≤ c.count.toNat then
        if amount < c.count.toNat then .next (s.putCounter die ctr (some { c with count := c.count - BitVec.ofNat 16 amount }))
        else .next (match if c.node % 256 = 0 then (s.restartCounter die ctr c).dispatch c.session c.node none none die else .error (0x41, 0) with
          | .ok t => t
          | .error (e, tag) =>
            if e = notYet then s.post (.depCounterDecrement die ctr amount sender)
            else (s.restartCounter die ctr c).post (.completionRecordWrite ⟨c.session, tag, 1, e, die, 0, true, none, none⟩))
      else .next (s.report sender (BitVec.ofNat 64 (ctr + die * 65536)) 0x81 0x48 die none) := by
  show execDepCounterDecrement die ctr amount sender s = _
  simp only [execDepCounterDecrement, known]
  rw [if_neg (by rw [sound]; exact Bool.false_ne_true)]
  simp only [Bool.and_eq_true, decide_eq_true_eq, and_assoc]
  split
  case isFalse => rfl
  case isTrue may =>
    obtain ⟨-, -, enough⟩ := may
    by_cases left : amount < c.count.toNat
    · have counts : c.count - BitVec.ofNat 16 amount ≠ 0 := by bv_omega
      have same : BitVec.ofNat 16 (c.count.toNat - amount) = c.count - BitVec.ofNat 16 amount := by bv_omega
      rw [if_pos (Nat.sub_pos_of_lt left), if_pos left, same, State.put_counted counts]
    · rw [if_neg (by omega), if_neg left]
      by_cases once : c.reload = 0
      · simp only [State.restartCounter, once, if_true] <;> rfl
      · simp only [State.restartCounter, once, if_false, State.put_counted (c := { c with count := c.reload }) once] <;> rfl

end

/-- Settles O41: a doorbell, a step of a queue that may look at its next slot, and a decrement each answer by one case split. -/
theorem queueProcessor : Obligations.QueueProcessor := by
  unfold Obligations.QueueProcessor
  intro s
  refine ⟨?doorbell, ?step, ?decrement⟩
  case doorbell =>
    intro session q value known low ring x x' told
    have rings := exec_doorbellWrite (s := s) (value := value) known low
    refine ⟨fun shut => ?_, fun u d opened read => ?_, fun c opened unread => ?_⟩
    · rw [if_pos shut] at rings
      exact rings
    · rw [if_neg opened, show (s.rung session q value).queueDescriptor session q = _ from read] at rings
      exact rings
    · rw [if_neg opened, show (s.rung session q value).queueDescriptor session q = _ from unread] at rings
      exact rings
  case step =>
    intro session q r d x step on awake started written active runs
    have steps := exec_queueStep (s := s) (session := session) (q := q) ⟨on, awake, started, written, active, runs⟩
    refine ⟨fun c unread => ?_, fun read => ⟨fun passed => ?_, fun c more unread => ?_, fun u more again => ?_, fun u v more taken => ?_⟩⟩
    · rw [unread] at steps
      exact steps
    all_goals simp only [read] at steps
    · exact steps.trans (if_pos passed)
    all_goals rw [if_neg (Nat.not_le.2 more)] at steps
    · rw [unread] at steps
      exact steps
    · rw [again] at steps
      exact steps
    · simp only [taken, packetField_parity] at steps
      have consumes (p : Packet) (slot : p.slot = d.read) (goes : step = .next (u.consume x d p)) : ∃ t, step = .next t ∧ t = u.consume x d p ∧
          (t.queue session q).unstarted = [d.read] ∧ startEvent p ∈ t.agenda := by
        obtain ⟨listed, starts⟩ := State.consume_consumes (s := u) (d := d) (x := x) (p := p)
        rw [slot, show x.session = session from State.queue_session, show x.q = q from State.queue_q] at listed
        exact ⟨_, goes, rfl, listed, starts⟩
      refine ⟨fun stale => ?_, fun fresh plain => consumes _ rfl ?_, fun template fresh region legacy good found => consumes _ rfl ?_,
        fun fresh region legacy good first missed => ?_⟩
      · exact steps.trans (if_pos stale)
      all_goals rw [if_neg (not_not.2 fresh)] at steps
      · rw [if_neg (by
          simp only [Bool.and_eq_true, decide_eq_true_eq]
          rintro ⟨⟨region, legacy⟩, -⟩
          rcases plain with other | modern
          · exact other region
          · exact Bool.false_ne_true (modern.symm.trans legacy))] at steps
        exact steps
      all_goals rw [if_pos (by simp only [region, legacy, good, decide_true, Bool.and_self])] at steps
      · simp only [found] at steps
        exact steps
      · simp only [missed, show (s.queue session q).missPosted = false from first, Bool.false_eq_true, if_false] at steps
        refine steps.trans ?_
        simp only [packetWord, BitVec.ofNat_toNat, BitVec.setWidth_eq]
        rfl
  case decrement =>
    intro die ctr amount sender c inside known decrement refused put zero
    refine ⟨fun poisoned => ?_, fun sound live owner left => ?_, fun sound live owner spent => ?_, fun sound wrong => ?_⟩
    · show execDepCounterDecrement die ctr amount sender s = _
      simp only [execDepCounterDecrement, known, poisoned, if_true]
    all_goals have answers := exec_depCounterDecrement (s := s) (amount := amount) (sender := sender) known sound
    · rw [if_pos ⟨live, owner, left.le⟩, if_pos left] at answers
      exact answers
    · rw [if_pos ⟨live, owner, spent.le⟩, if_neg spent.not_lt] at answers
      refine ⟨fun bent => ?_, fun t straight ready => ?_, fun e tag straight fails => ?_⟩
      · rw [if_neg bent] at answers
        exact answers
      · rw [if_pos straight, show (s.restartCounter die ctr c).dispatch _ _ _ _ _ = _ from ready] at answers
        exact answers
      · rw [if_pos straight, show (s.restartCounter die ctr c).dispatch _ _ _ _ _ = _ from fails] at answers
        exact answers
    · rw [if_neg (fun ⟨_, owner, enough⟩ => wrong.elim (· owner) enough.not_gt)] at answers
      exact answers

end Sys2Proof.Machine

/-!
PROOFS. Packets that travel (R390, R391, R466): what they leave as it was, and that no event leaves the agenda.
-/
namespace Sys2Proof.Machine

/-! ## The state beside the links -/

theorem map_setNth_same {α β : Type} {f : α → β} {l : List α} {n : Nat} {v d : α} (same : f v = f (l.getD n d)) : (setNth l n v).map f = l.map f := by
  induction l generalizing n with
  | nil => rfl
  | cons x l ih =>
    cases n with
    | zero => exact congrArg (· :: l.map f) same
    | succ n => exact congrArg (f x :: ·) (ih same)

/-- A die without its ends of links. -/
def Die.offLinks (d : Die) : Die := { d with links := [] }

/-- The state without the links, the agenda and fresh uids. -/
def State.offLinks (s : State) : State := { s with dies := s.dies.map Die.offLinks, agenda := [], nextUid := 0 }

section
variable {s t : State}

theorem State.onDie_offLinks {d : Nat} {g : Die → Die} (hg : ∀ x, (g x).offLinks = x.offLinks) : (s.onDie d g).offLinks = s.offLinks := by
  unfold State.offLinks
  rw [show (s.onDie d g).dies.map Die.offLinks = s.dies.map Die.offLinks from map_setNth_same (hg _)]
  rfl

theorem State.mapDies_offLinks {g : Die → Die} (hg : ∀ x, (g x).offLinks = x.offLinks) : (s.mapDies g).offLinks = s.offLinks := by
  unfold State.offLinks
  rw [show (s.mapDies g).dies.map Die.offLinks = s.dies.map Die.offLinks by
    simp only [State.mapDies, List.map_map]
    exact List.map_congr_left fun x _ => hg x]
  rfl

theorem State.post_offLinks (e : Event) : (s.post e).offLinks = s.offLinks := rfl

theorem State.bumpUid_offLinks : s.bumpUid.offLinks = s.offLinks := rfl

theorem State.onLink_offLinks (die link : Nat) (g : Link → Link) : (s.onLink die link g).offLinks = s.offLinks :=
  State.onDie_offLinks fun _ => rfl

theorem State.sendGroup_offLinks (die link : Nat) (p : Parcel) : (s.sendGroup die link p).offLinks = s.offLinks := by
  simp only [State.sendGroup, State.transmit, State.post_offLinks, State.onLink_offLinks]

theorem State.sendParcel_offLinks (die link : Nat) (p : Parcel) : (s.sendParcel die link p).offLinks = s.offLinks := by
  unfold State.sendParcel
  rw [State.sendGroup_offLinks, State.onLink_offLinks, State.onDie_offLinks (g := fun d => d.giveUpSlot p.id) fun _ => rfl, State.onLink_offLinks]

theorem State.pump_offLinks (n : Nat) : (s.pump n).offLinks = s.offLinks := by
  induction n generalizing s with
  | zero => rfl
  | succ n ih =>
    unfold State.pump
    split
    · rfl
    · exact ih.trans (State.sendParcel_offLinks ..)

theorem State.settlePorts_offLinks : s.settlePorts.offLinks = s.offLinks := State.pump_offLinks _

theorem State.enqueue_offLinks (die : Nat) (p : Parcel) : (s.enqueue die p).offLinks = s.offLinks := by
  unfold State.enqueue
  split
  · rfl
  · exact State.onLink_offLinks ..

theorem State.shipAs_offLinks (done : Bool) (cls : MsgClass) (id session src dst : Nat) :
    (s.shipAs done cls id session src dst).offLinks = s.offLinks := by
  unfold State.shipAs
  split
  · rfl
  · exact State.settlePorts_offLinks.trans (State.enqueue_offLinks ..)

theorem State.ship_offLinks (cls : MsgClass) (id session src dst : Nat) : (s.ship cls id session src dst).offLinks = s.offLinks :=
  State.shipAs_offLinks ..

theorem State.shipNew_offLinks (cls : MsgClass) (session src dst : Nat) : (s.shipNew cls session src dst).offLinks = s.offLinks :=
  State.shipAs_offLinks ..

theorem State.release_offLinks (die id : Nat) : (s.release die id).offLinks = s.offLinks :=
  State.settlePorts_offLinks.trans (State.onDie_offLinks fun _ => rfl)

/-- A field of a die beside its links. -/
theorem State.die_of_offLinks {α : Type} (p : Die → α) (hp : ∀ d, p d.offLinks = p d) (same : t.offLinks = s.offLinks) (i : Nat) :
    p (t.die i) = p (s.die i) := by
  have shown (u : State) : p (u.die i) = p (u.offLinks.die i) := by
    simp only [State.die, State.offLinks, List.getD_eq_getElem?_getD, List.getElem?_map]
    cases u.dies[i]? with
    | none => rfl
    | some d => exact (hp d).symm
  rw [shown, same, ← shown]

theorem State.dies_length_of_offLinks (same : t.offLinks = s.offLinks) : t.dies.length = s.dies.length := by
  have counted := congrArg (fun u : State => u.dies.length) same
  simpa [State.offLinks] using counted

end

/-! ## Events stay due -/

section
variable {s : State} {e : Event}

theorem State.mem_sendGroup (due : e ∈ s.agenda) (die link : Nat) (p : Parcel) : e ∈ (s.sendGroup die link p).agenda :=
  State.mem_post.2 (.inl (State.mem_post.2 (.inl due)))

theorem State.mem_pump (due : e ∈ s.agenda) (n : Nat) : e ∈ (s.pump n).agenda := by
  induction n generalizing s with
  | zero => exact due
  | succ n ih =>
    unfold State.pump
    split
    · exact due
    · exact ih (State.mem_sendGroup (by exact due) ..)

theorem State.enqueue_agenda (die : Nat) (p : Parcel) : (s.enqueue die p).agenda = s.agenda := by
  unfold State.enqueue
  split <;> rfl

theorem State.mem_shipAs (due : e ∈ s.agenda) (done : Bool) (cls : MsgClass) (id session src dst : Nat) :
    e ∈ (s.shipAs done cls id session src dst).agenda := by
  unfold State.shipAs
  split
  · exact due
  · exact State.mem_pump (by rwa [State.enqueue_agenda]) _

theorem State.mem_release (due : e ∈ s.agenda) (die id : Nat) : e ∈ (s.release die id).agenda := State.mem_pump (by exact due) _

end

end Sys2Proof.Machine

/-!
PROOFS. The commons and the pools (O43): digests and merges (R380, R381), releases (R383) and pool returns (R375).
-/
namespace Sys2Proof.Machine

/-! ## The merges that each die has counted (R374) -/

/-- DIRSTAT0 of every die. -/
def State.mergeCounts (s : State) : List Word64 := s.dies.map Die.dirstat0

section
variable {s t : State}

theorem State.onDie_mergeCounts {d : Nat} {g : Die → Die} (hg : ∀ x, (g x).dirstat0 = x.dirstat0) : (s.onDie d g).mergeCounts = s.mergeCounts :=
  map_setNth_same (hg _)

theorem State.mapDies_mergeCounts {g : Die → Die} (hg : ∀ x, (g x).dirstat0 = x.dirstat0) : (s.mapDies g).mergeCounts = s.mergeCounts := by
  simp only [State.mergeCounts, State.mapDies, List.map_map]
  exact List.map_congr_left fun x _ => hg x

theorem State.mergeCounts_of_offLinks (same : t.offLinks = s.offLinks) : t.mergeCounts = s.mergeCounts := by
  have counts := congrArg State.mergeCounts same
  simpa [State.mergeCounts, State.offLinks, Function.comp_def, Die.offLinks] using counts

theorem State.rekeyUnit_mergeCounts {key : Option (BitVec 512)} {unit : Nat} : (s.rekeyUnit key unit).mergeCounts = s.mergeCounts := by
  unfold State.rekeyUnit
  split <;> rfl

theorem State.dropStale_mergeCounts {pa n : Nat} : (s.dropStale pa n).mergeCounts = s.mergeCounts :=
  State.mapDies_mergeCounts fun _ => rfl

theorem State.putBytes_mergeCounts {pa : Nat} {bs : List Byte} : (s.putBytes pa bs).mergeCounts = s.mergeCounts := by
  have dropped (u : State) (k : Nat) : (u.dropXbar pa k).mergeCounts = u.mergeCounts := State.onDie_mergeCounts fun _ => rfl
  refine (dropped _ _).trans ?_
  refine List.foldlRecOn (motive := fun t : State => t.mergeCounts = s.mergeCounts) _ _ rfl fun t h u _ => Eq.trans ?_ h
  split
  · rfl
  · exact State.rekeyUnit_mergeCounts

theorem State.putNum_mergeCounts {pa n v : Nat} : (s.putNum pa n v).mergeCounts = s.mergeCounts := State.putBytes_mergeCounts

theorem State.tlbTell_mergeCounts {session src : Nat} {va : Option Nat} : (s.tlbTell session src va).mergeCounts = s.mergeCounts :=
  List.foldlRecOn (motive := fun t : State => t.mergeCounts = s.mergeCounts) _ _ (State.mapDies_mergeCounts fun _ => rfl)
    fun _ h _ _ => (State.mergeCounts_of_offLinks (State.shipNew_offLinks ..)).trans h

theorem State.poolReturn_mergeCounts {die h frame : Nat} : (s.poolReturn die h frame).mergeCounts = s.mergeCounts := by
  unfold State.poolReturn
  dsimp only
  split
  · exact State.putNum_mergeCounts.trans State.putNum_mergeCounts
  · rfl

theorem State.die_dirstat0 {die : Nat} (same : t.mergeCounts = s.mergeCounts) : (t.die die).dirstat0 = (s.die die).dirstat0 := by
  have shown (u : State) : (u.die die).dirstat0 = u.mergeCounts.getD die 0 := by
    simp only [State.die, State.mergeCounts, List.getD_eq_getElem?_getD, List.getElem?_map]
    cases u.dies[die]? <;> rfl
  rw [shown, same, ← shown]

theorem State.dies_length {t : State} (same : t.mergeCounts = s.mergeCounts) : t.dies.length = s.dies.length := by
  simpa [State.mergeCounts] using congrArg List.length same

end

/-! ## Seals (R379 to R381) -/

section
variable {s : State} {j : SealJob} {x : DirEntry} {secret : BitVec 256} {page : List Byte} {die bucket dg : Nat} {collided : Bool}

/-- The seal waits: its packet is on its way, its frame is in use, or its session is a bellwether. -/
def State.SealHeld (s : State) (j : SealJob) : Prop := s.onWay j.id = true ∨ s.frameBusy j.frame = true ∨ s.sessionState j.session = 2

theorem exec_sealDigest_waits (live : (s.die (homeDie (j.frame * 4096))).live = true)
    (waits : s.SealHeld j ∨ (s.die (homeDie (j.frame * 4096))).shepherd.dedup = none) : exec (.sealDigest j) s = .next (s.post (.sealDigest j)) := by
  show execSealDigest j s = _
  unfold execSealDigest
  dsimp only
  rw [if_neg (by simp [live])]
  split
  · rfl
  · next free =>
    have missing := waits.resolve_left fun held => free (by simpa [State.SealHeld, or_assoc] using held)
    simp only [missing]

theorem exec_sealDigest (live : (s.die (homeDie (j.frame * 4096))).live = true) (free : ¬ s.SealHeld j)
    (key : (s.die (homeDie (j.frame * 4096))).shepherd.dedup = some secret) (loaded : s.keyOk j.session j.keyslot (homeDie (j.frame * 4096)) = true)
    (shown : s.plaintext j.frame j.keyslot = some page) (digest : s.pageDigest j.session (homeDie (j.frame * 4096)) secret page = dg)
    (there : (s.die (dg / 2 ^ 62 % 4)).live = true) (sound : (s.die (dg / 2 ^ 62 % 4)).poisonedBuckets.contains (dg % 2 ^ 22) = false) :
    exec (.sealDigest j) s = .next ((s.shipNew .control j.session (homeDie (j.frame * 4096)) (dg / 2 ^ 62 % 4)).matchPage (dg / 2 ^ 62 % 4)
      (dg % 2 ^ 22) dg j page false (sortBy (fun (x y : DirEntry) => x.index ≤ y.index)
        ((s.die (dg / 2 ^ 62 % 4)).directory.filter fun x => x.bucket = dg % 2 ^ 22 ∧ x.digest.toNat = dg))) := by
  have bucket : bitsAt dg 0 22 = dg % 2 ^ 22 := by simp [bitsAt]
  show execSealDigest j s = _
  unfold execSealDigest
  dsimp only
  rw [if_neg (by simp [live]), if_neg (by simpa [State.SealHeld, or_assoc] using free)]
  simp only [key, loaded, shown, if_true, digest, bucket]
  rw [show bitsAt dg 62 2 = dg / 2 ^ 62 % 4 from rfl, if_neg (by rw [there]; exact Bool.false_ne_true), if_neg (by rw [sound]; exact Bool.false_ne_true)]
  simp only [Bool.decide_and]

theorem State.matchPage_merges (equal : x.title.toNat = s.title j.session ∧ s.plaintext x.frame (s.tkeyslot j.session) = some page)
    (room : x.refcnt < 2 ^ 24 - 1) : s.matchPage die bucket dg j page collided [x] =
      (s.setDir die bucket x.index (some { x with refcnt := x.refcnt + 1 })).merge die j { x with refcnt := x.refcnt + 1 } := by
  rw [State.matchPage, if_pos (by simpa using equal), if_neg room.ne]

theorem State.matchPage_collides (other : ¬ (x.title.toNat = s.title j.session ∧ s.plaintext x.frame (s.tkeyslot j.session) = some page)) :
    s.matchPage die bucket dg j page collided [x] = (s.onDie die Die.countCollision).promote die bucket dg j page true := by
  rw [State.matchPage, if_neg (by simpa using other), State.matchPage]

/-! ## Merges (R381) -/

/-- The sealed page's entry has not changed since. -/
def State.SealStands (s : State) (j : SealJob) : Prop :=
  pteFrame (s.clearNum j.entryPa 16) = j.frame ∧ pteKey (s.clearNum j.entryPa 16) = j.keyslot ∧ pteBit (s.clearNum j.entryPa 16) 108 = true

/-- The state in which the page's entry names the commons frame and no copy of the old frame is left. -/
def State.merging (s : State) (j : SealJob) (x : DirEntry) : State :=
  ((s.putNum j.entryPa 16 (withBits (withBits (withBits (s.clearNum j.entryPa 16) 0 40 x.frame) 96 10 (s.tkeyslot j.session)) 110 1 1)).tlbTell
    j.session (homeDie (j.frame * 4096)) none).dropStale (j.frame * 4096) 4096

theorem State.merge_changed (changed : ¬ s.SealStands j) : s.merge die j x = s.unref die x := by
  unfold State.merge
  dsimp only
  rw [if_neg (by simpa [State.SealStands, and_assoc] using changed)]

theorem State.merge_stands (stands : s.SealStands j) : s.merge die j x =
    ((s.merging j x).poolReturn (homeDie (j.frame * 4096)) ((s.merging j x).framePool j.session (homeDie (j.frame * 4096))) j.frame).onDie die
      Die.countMerge := by
  unfold State.merge
  dsimp only
  rw [if_pos (by simpa [State.SealStands, and_assoc] using stands)]
  rfl

theorem State.merge_counts (stands : s.SealStands j) (inside : die < s.dies.length) :
    ((s.merge die j x).die die).dirstat0 = countUp (s.die die).dirstat0 0 := by
  have counts : ((s.merging j x).poolReturn (homeDie (j.frame * 4096)) ((s.merging j x).framePool j.session (homeDie (j.frame * 4096)))
      j.frame).mergeCounts = s.mergeCounts :=
    State.poolReturn_mergeCounts.trans (State.dropStale_mergeCounts.trans (State.tlbTell_mergeCounts.trans State.putNum_mergeCounts))
  rw [State.merge_stands stands, State.onDie_die (by rwa [State.dies_length counts])]
  exact congrArg (countUp · 0) (State.die_dirstat0 counts)

end

/-! ## Releases (R383) -/

section
variable {s : State} {id frame : Nat} {x : DirEntry}

theorem exec_commonsRelease (live : (s.die (homeDie (frame * 4096))).live = true) : exec (.commonsRelease ⟨id, frame⟩) s =
    if s.onWay id then .next (s.post (.commonsRelease ⟨id, frame⟩))
    else match (s.die (homeDie (frame * 4096))).directory.find? fun y => y.frame = frame with
      | none => .next (s.onDie (homeDie (frame * 4096)) Die.countBadRelease)
      | some x =>
        if (s.die (homeDie (frame * 4096))).poisonedBuckets.contains x.bucket then .next (s.onDie (homeDie (frame * 4096)) Die.countPoisoned)
        else .next (s.unref (homeDie (frame * 4096)) x) := by
  show execCommonsRelease ⟨id, frame⟩ s = _
  unfold execCommonsRelease
  dsimp only
  rw [if_neg (by simp [live])] <;> rfl

end

/-- Settles O43: a seal, a merge, a release and a pool return each answer by the case of the directory or of the pool that they find. -/
theorem sealsAndPools : Obligations.SealsAndPools := by
  unfold Obligations.SealsAndPools
  intro s
  refine ⟨?seals, ?merges, ?onWay, ?unref, ?unknown, ?crel, ?pools⟩
  case seals =>
    intro j secret page i dg bucket die d mine event u equal held live
    refine ⟨exec_sealDigest_waits live, fun free key loaded shown there sound => ?_⟩
    have digests : event = .next (u.matchPage die bucket dg j page false (sortBy (fun (x y : DirEntry) => x.index ≤ y.index) mine)) :=
      exec_sealDigest live free key loaded shown rfl there sound
    refine ⟨fun none_ => ?_, fun x one same room => ?_, fun x one other => ?_⟩
    · rw [digests, none_]
      rfl
    · rw [digests, one]
      exact congrArg _ (State.matchPage_merges same room)
    · rw [digests, one]
      exact congrArg _ (State.matchPage_collides other)
  case merges =>
    exact fun j x die => ⟨State.merge_changed, fun stands inside => ⟨State.merge_stands stands, State.merge_counts stands inside⟩⟩
  case onWay =>
    exact fun id frame live travels => (exec_commonsRelease live).trans (if_pos travels)
  case unref =>
    intro id frame x arrived j live found sound
    have gives := exec_commonsRelease (id := id) live
    rw [arrived, if_neg Bool.false_ne_true, found] at gives
    dsimp only at gives
    rw [sound, if_neg Bool.false_ne_true] at gives
    exact ⟨fun more => gives.trans (congrArg _ (if_pos more)), fun last => gives.trans (congrArg _ (if_neg last.not_gt))⟩
  case unknown =>
    intro id frame arrived j live missing
    have gives := exec_commonsRelease (id := id) live
    rw [arrived, if_neg Bool.false_ne_true, missing] at gives
    exact gives
  case crel =>
    intro die value
    show execCrel die value s = _
    simp only [execCrel, bitsAt, Nat.pow_zero, Nat.div_one]
  case pools =>
    intro die header frame since n again
    refine ⟨fun room => if_pos room, fun full => if_neg full.not_gt, fun gone => ?_, fun due late => ?_, fun due early => ?_⟩
    all_goals
      show execPoolReturnStall die header frame since s = _
      unfold execPoolReturnStall
    · rw [if_pos (by simpa using gone)]
    · rw [if_neg (by simpa using due), if_neg late.not_gt]
    · rw [if_neg (by simpa using due), if_pos early]

end Sys2Proof.Machine

/-!
PROOFS. Moves (O44): migrations (R386), key loads (R376, R459), and the placement engine (R387, R388).
-/
namespace Sys2Proof.Machine

/-! ## Migrations (R386, R483) -/

section
variable {s : State} {p : Packet}

/-- The session of a migration is at rest: its herds are saved, and no shepherd that would move its key restarts. -/
def State.MigrateReady (s : State) (session die : Nat) : Prop :=
  (∀ h ∈ s.herds, h.session = session → h.status = .saved) ∧ s.keyMoveWaits session die = false

/-- The upper tables of a session copied to a die. -/
def State.upperTables (s : State) (session die : Nat) : Option (State × Nat) :=
  s.copyTables session (s.home session) (s.tablePool session die) 2 (fun s e => some (s, e)) 3 (s.root session)

/-- A session's root table is replaced, and its translations go. -/
def State.reroot (s : State) (session root : Nat) : State := (s.setCtx session 64 40 root).tlbTell session (s.home session) none

/-- A session that was stopped for a migration is active again. -/
def State.reactivate (s : State) (session : Nat) : State :=
  (((s.setCtx session 33 2 1).setCtx session 61 1 0).latchSched session).wakeQueues session

theorem exec_migrateMove (p : Packet) (s : State) : exec (.migrateMove p) s =
    if (s.herds.any fun h => h.session = packetWord p 1 % 2 ^ 10 && h.status ≠ .saved) || s.keyMoveWaits (packetWord p 1 % 2 ^ 10) (packetWord p 1 / 2 ^ 16 % 4)
    then .next (s.post (.migrateMove p))
    else match if (s.die (packetWord p 1 / 2 ^ 16 % 4)).live then
        (s.upperTables (packetWord p 1 % 2 ^ 10) (packetWord p 1 / 2 ^ 16 % 4)).bind fun (t, root) =>
          (t.reroot (packetWord p 1 % 2 ^ 10) root).moveKey (packetWord p 1 % 2 ^ 10) (packetWord p 1 / 2 ^ 16 % 4)
      else none with
    | none => .next (((s.tlbTell (packetWord p 1 % 2 ^ 10) (s.home (packetWord p 1 % 2 ^ 10)) none).reactivate (packetWord p 1 % 2 ^ 10)).packetFailed p 0x46)
    | some v => .next (((v.setCtx (packetWord p 1 % 2 ^ 10) 35 2 (packetWord p 1 / 2 ^ 16 % 4)).reactivate (packetWord p 1 % 2 ^ 10)).packetDone p) := by
  have session : bitsAt (packetWord p 1) 0 10 = packetWord p 1 % 2 ^ 10 := by simp [bitsAt]
  have die : bitsAt (packetWord p 1) 16 2 = packetWord p 1 / 2 ^ 16 % 4 := rfl
  show execMigrateMove p s = _
  unfold execMigrateMove migrateArgs
  simp only [session, die]
  rfl

theorem State.migrateReady_iff {session die : Nat} :
    ((s.herds.any fun h => h.session = session && h.status ≠ .saved) || s.keyMoveWaits session die) = true ↔ ¬ s.MigrateReady session die := by
  simp only [State.MigrateReady, Bool.or_eq_true, List.any_eq_true, Bool.and_eq_true, decide_eq_true_eq, not_and_or, not_forall, exists_prop,
    Bool.not_eq_false]

end

/-! ## Key loads (R376, R459) -/

section
variable {s : State} {die slot : Nat} {blob : List Byte}

theorem exec_keyLoad_waits (idle : (s.die die).shepherd.mode ≠ .running ∨ (s.die die).shepherd.vaultKey = none) :
    exec (.keyLoad die slot blob) s = .next (s.post (.keyLoad die slot blob)) := by
  have none_ : (if (s.die die).shepherd.mode = .running then (s.die die).shepherd.vaultKey else none) = none := by
    rcases idle with stopped | unset
    · exact if_neg stopped
    · rw [unset, ite_self]
  show execKeyLoad die slot blob s = _
  simp only [execKeyLoad, none_]

theorem exec_keyLoad {v : BitVec 256} (runs : (s.die die).shepherd.mode = .running) (vault : (s.die die).shepherd.vaultKey = some v) :
    exec (.keyLoad die slot blob) s =
      if slot = 0 ∨ 1024 ≤ slot then .next (s.emit (.keyLoad die slot false))
      else if s.keyInUse slot die then .next (s.post (.keyLoad die slot blob))
      else
        let erased := (s.flushKey slot die).onDie die fun d => { d with keys := SMap.erase d.keys slot }
        .next (match if blob.length = 72 then unwrapKey (bytesOf 32 v.toNat) blob else none with
          | some key => (erased.onDie die fun d => { d with keys := SMap.insert d.keys slot (BitVec.ofNat 512 (ofBytes key)) }).emit (.keyLoad die slot true)
          | none => erased.emit (.keyLoad die slot false)) := by
  show execKeyLoad die slot blob s = _
  simp only [execKeyLoad, runs, vault, if_true]
  split
  · rfl
  · split
    · rfl
    · cases if blob.length = 72 then unwrapKey (bytesOf 32 v.toNat) blob else none <;> rfl

end

/-! ## Epochs (R387, R389) -/

section
variable {s : State} {die : Nat}

/-- The page moves for which an epoch selects regions. -/
def State.epochMoves (s : State) (die : Nat) : List Event :=
  (((s.die die).placement.filter (s.selected die)).take 16).flatMap fun r =>
    (List.range 16).map fun i => Event.frameMove ⟨r.session, r.va + 4096 * i, die, r.busiest⟩

/-- A region's counters halved. -/
def PlaceRec.halved (r : PlaceRec) : PlaceRec := { r with counts := r.counts.map fun (c : BitVec 8) => c >>> 1 }

/-- A die as an epoch leaves it. -/
def Die.epoch (d : Die) : Die :=
  { d with placement := (d.placement.map PlaceRec.halved).filter fun r => r.counts.any fun (c : BitVec 8) => c ≠ 0
           epochSums := Machine.epochSums d.placement, epochAt := d.cycle + 1048576 }

theorem exec_placementEpoch (live : (s.die die).live = true) : exec (.placementEpoch die) s =
    if (s.die die).cycle.toNat < (s.die die).epochAt.toNat then .next (s.post (.placementEpoch die))
    else .next (((s.epochMoves die).foldl State.post (s.setDie die (s.die die).epoch)).post (.placementEpoch die)) := by
  show execPlacementEpoch die s = _
  unfold execPlacementEpoch
  dsimp only
  rw [if_neg (by simp [live])]
  rfl

theorem Die.epoch_placement {d : Die} {r : PlaceRec} (kept : r ∈ d.epoch.placement) : ∃ x ∈ d.placement, r = x.halved ∧ ∃ c ∈ r.counts, c ≠ 0 := by
  obtain ⟨halved, counts⟩ := List.mem_filter.1 kept
  obtain ⟨x, held, rfl⟩ := List.mem_map.1 halved
  exact ⟨x, held, rfl, by simpa using counts⟩

theorem State.mem_epochMoves {r : PlaceRec} {i : Nat} (one : (s.die die).placement = [r]) (chosen : s.selected die r = true) (page : i < 16) :
    .frameMove ⟨r.session, r.va + 4096 * i, die, r.busiest⟩ ∈ s.epochMoves die := by
  unfold State.epochMoves
  rw [one, List.filter_cons_of_pos chosen]
  exact List.mem_flatMap.2 ⟨r, List.mem_cons_self, List.mem_map.2 ⟨i, List.mem_range.2 page, rfl⟩⟩

end

/-! ## Page moves (R388) -/

section
variable {s t : State} {m : FrameMove} {pa e new : Nat}

/-- A page that has been found by a walk may move. -/
def State.MayMove (s : State) (m : FrameMove) (e : Nat) : Prop :=
  s.sessionState m.session % 2 = 1 ∧ homeDie (pteFrame e * 4096) = m.home ∧ pteSize e = 0 ∧ pteBit e 108 = false ∧ pteBit e 110 = false ∧
    pteGranules e = 0 ∧ (s.die m.dest).live = true ∧ s.keyOk m.session (pteKey e) m.home = true ∧ s.keyOk m.session (pteKey e) m.dest = true ∧
    s.windowOf m.session m.va = none ∧ ∃ x, s.sessionTree m.session = some x ∧ pteFrame e ∉ x.1 ∧ pteFrame e - 1 ∉ x.1

/-- The state in which a page's entry points to its copy. -/
def State.pageMoved (t : State) (m : FrameMove) (pa e new : Nat) : State :=
  ((((t.frameUnder (pteFrame e) (pteKey e)).copyBytes (pteFrame e * 4096) (new * 4096) 4096 (t.keyPair (pteKey e) m.dest)).shipLines
    m.session m.home m.home m.dest 4096).putNum pa 16 (withBits e 0 40 new)).tlbTell m.session m.home (some m.va)

theorem State.mayMove_iff : s.MayMove m e ↔ (s.sessionState m.session % 2 = 1 && homeDie (pteFrame e * 4096) = m.home && pteSize e = 0 &&
    !pteBit e 108 && !pteBit e 110 && pteGranules e = 0 && (s.die m.dest).live && s.keyOk m.session (pteKey e) m.home &&
    s.keyOk m.session (pteKey e) m.dest && (s.windowOf m.session m.va).isNone &&
    (s.sessionTree m.session).any fun t => !t.1.contains (pteFrame e) && !t.1.contains (pteFrame e - 1)) = true := by
  unfold State.MayMove
  cases s.sessionTree m.session <;> simp [and_assoc]

theorem exec_frameMove_stays (walked : s.walk m.session m.va = .ok (pa, e)) (stays : ¬ s.MayMove m e) : exec (.frameMove m) s = .next s := by
  show execFrameMove m s = _
  simp only [execFrameMove, walked]
  rw [if_pos (by simpa only [Bool.not_eq_true', Bool.not_eq_true] using mt State.mayMove_iff.2 stays)]

theorem exec_frameMove (walked : s.walk m.session m.va = .ok (pa, e)) (may : s.MayMove m e) : exec (.frameMove m) s =
    if s.frameBusy (pteFrame e) then .next (s.post (.frameMove m))
    else match s.poolTake (s.framePool m.session m.dest) with
      | none => .next s
      | some (t, new) => .next (((t.pageMoved m pa e new).dropStale (pteFrame e * 4096) 4096).poolReturn m.home
          ((t.pageMoved m pa e new).framePool m.session m.home) (pteFrame e)) := by
  show execFrameMove m s = _
  simp only [execFrameMove, walked]
  rw [if_neg (by rw [State.mayMove_iff.1 may]; exact Bool.false_ne_true)]
  rfl

end

/-- Settles O44: a migration, a key load, an epoch and a page move each answer by the first of their conditions that fails. -/
theorem moves : Obligations.Moves := by
  unfold Obligations.Moves
  intro s
  refine ⟨?migrate, ?load, ?epoch, ?page⟩
  case migrate =>
    intro p
    have gives := exec_migrateMove p s
    generalize packetWord p 1 % 2 ^ 10 = session at gives ⊢
    generalize packetWord p 1 / 2 ^ 16 % 4 = die at gives ⊢
    refine ⟨fun waits => ?_, fun t root v rest still live copies moves_ => ?_, fun rest still fails => ?_⟩
    · refine gives.trans (if_pos (State.migrateReady_iff.2 fun ready => ?_))
      rcases waits with unsaved | restarts
      · exact unsaved ready.1
      · exact Bool.false_ne_true (ready.2.symm.trans restarts)
    all_goals rw [if_neg fun waits => State.migrateReady_iff.1 waits ⟨rest, still⟩] at gives
    · rw [if_pos live, show s.upperTables session die = _ from copies, Option.bind_some] at gives
      dsimp only at gives
      rw [show (t.reroot session root).moveKey session die = some v from moves_] at gives
      exact gives
    · have none_ : (if (s.die die).live then (s.upperTables session die).bind fun (t, root) => (t.reroot session root).moveKey session die
          else none) = none := by
        rcases fails with dead | uncopied | unmoved
        · exact if_neg (by rw [dead]; exact Bool.false_ne_true)
        · rw [show s.upperTables session die = none from uncopied, Option.bind_none, ite_self]
        · cases tables : s.upperTables session die with
          | none => rw [Option.bind_none, ite_self]
          | some x =>
            obtain ⟨t, root⟩ := x
            rw [Option.bind_some]
            dsimp only
            rw [show (t.reroot session root).moveKey session die = none from unmoved t root tables, ite_self]
      rw [none_] at gives
      exact gives
  case load =>
    intro die slot blob h wait erased
    refine ⟨exec_keyLoad_waits, fun v runs vault => ?_⟩
    have gives := exec_keyLoad (slot := slot) (blob := blob) runs vault
    refine ⟨fun out => gives.trans (if_pos out), fun low high busy => ?_, fun low high free => ?_⟩
    all_goals rw [if_neg (by omega)] at gives
    · exact gives.trans (if_pos busy)
    · rw [if_neg (by rw [free]; exact Bool.false_ne_true)] at gives
      exact gives
  case epoch =>
    intro die d live
    have gives := exec_placementEpoch live
    refine ⟨fun early => gives.trans (if_pos early), fun inside due => ⟨_, gives.trans (if_neg due.not_gt), ?_⟩⟩
    have there : ((((s.epochMoves die).foldl State.post (s.setDie die d.epoch)).post (.placementEpoch die)).die die) = d.epoch := by
      rw [State.foldl_post]
      exact State.setDie_die inside
    rw [there]
    refine ⟨rfl, rfl, State.mem_post.2 (.inr rfl), fun r => Die.epoch_placement, fun r i page one chosen => State.mem_post.2 (.inl ?_), ?_⟩
    · rw [State.foldl_post]
      exact List.mem_append_right _ (List.mem_map.2 ⟨_, State.mem_epochMoves one chosen page, rfl⟩)
    · rw [State.foldl_post]
      rfl
  case page =>
    intro m pa e t new walked frame may copy named
    refine ⟨exec_frameMove_stays walked, fun moves_ busy => (exec_frameMove walked moves_).trans (if_pos busy), fun moves_ free taken => ?_⟩
    refine (exec_frameMove walked moves_).trans ((if_neg (by rw [free]; exact Bool.false_ne_true)).trans ?_)
    rw [taken]
    rfl

end Sys2Proof.Machine

/-!
PROOFS. Snapshots and power (O48): what a die latches (R404), and what a power sample does (R26, R405, R479).
-/
namespace Sys2Proof.Machine

/-! ## Snapshots (R404) -/

section
variable {s t : State} {die i : Nat}

/-- SNAPCTL and the agenda are part of no set that a die latches. -/
theorem State.snapshotSet_congr (dies : ∀ j, ∃ x, t.die j = { s.die j with snapctl := x }) (beside : t = { s with dies := t.dies, agenda := t.agenda }) :
    t.snapshotSet i = s.snapshotSet i := by
  choose x same using dies
  have lives : t.liveDies = s.liveDies := State.liveDies_congr fun j => by rw [same]
  have bytes (pa n : Nat) : t.clearBytes pa n = s.clearBytes pa n := by
    rw [beside] at same ⊢
    simp only [State.clearBytes, State.inL2, State.unitUnder, same]
  have homes (j : Nat) : t.home j = s.home j := by simp only [State.home, State.ctx, State.context, State.clearNum, bytes, same]
  have first : t.coordinator = s.coordinator := by rw [State.coordinator, lives, State.coordinator]
  unfold State.snapshotSet State.managementBlocks State.coreBlocks State.core State.paddock
  rw [same, first]
  simp only [homes]
  rw [beside]
  rfl

/-- A die has latched its set. -/
def State.Latched (s t : State) (i : Nat) : Prop :=
  (t.die i).snapcyc = (s.die i).cycle ∧ (t.die i).snapctl.getLsbD 0 = false ∧ (t.die i).snapctl.getLsbD 4 = true ∧ (t.die i).snapshot = s.snapshotSet i

theorem State.latch_latched (inside : die < s.dies.length) : s.Latched (s.latch die) die := by
  unfold State.Latched State.latch
  rw [State.onDie_die inside]
  refine ⟨rfl, ?_, ?_, rfl⟩
  all_goals simp only [BitVec.getLsbD_or, BitVec.getLsbD_and]
  · rw [show BitVec.getLsbD (16 : Word64) 0 = false from rfl, show BitVec.getLsbD (~~~1 : Word64) 0 = false from rfl, Bool.and_false, Bool.or_self]
  · rw [show BitVec.getLsbD (16 : Word64) 4 = true from rfl, Bool.or_true]

theorem State.fireSnapshot_unarmed (idle : (s.die die).snapctl.getLsbD 0 = false) : s.fireSnapshot die = s := by
  unfold State.fireSnapshot
  dsimp only
  rw [idle]
  rfl

theorem State.fireSnapshot_die (armed : (s.die die).snapctl.getLsbD 0 = true) : (s.fireSnapshot die).die = (s.latch die).die := by
  unfold State.fireSnapshot
  dsimp only
  rw [armed, if_neg (by decide)]
  split
  · exact foldl_kept State.die fun u j => State.postOnce_die u _
  · rfl

theorem State.fireSnapshot_latched (inside : die < s.dies.length) (armed : (s.die die).snapctl.getLsbD 0 = true) :
    s.Latched (s.fireSnapshot die) die := by
  unfold State.Latched
  rw [State.fireSnapshot_die armed]
  exact State.latch_latched inside

theorem State.fireSnapshot_wide (armed : (s.die die).snapctl.getLsbD 0 = true) (wide : (s.die die).snapctl.getLsbD 3 = true) (low : i < 4)
    (other : i ≠ die) (live : (s.die i).live = true) : .snapshotWideTrigger i ∈ (s.fireSnapshot die).agenda := by
  have lives : (s.latch die).liveDies = s.liveDies := State.liveDies_congr fun j => State.onDie_field Die.live fun _ => rfl
  have listed : i ∈ (s.latch die).liveDies.filter (· ≠ die) := by
    rw [lives]
    exact List.mem_filter.2 ⟨State.mem_liveDies.2 ⟨low, live⟩, by simpa using other⟩
  unfold State.fireSnapshot
  dsimp only
  rw [armed, if_neg (by decide), if_pos wide, ← List.foldl_map (f := Event.snapshotWideTrigger) (g := State.postOnce)]
  exact State.mem_foldl_postOnce.2 (.inr (List.mem_map.2 ⟨i, listed, rfl⟩))

theorem State.mem_fireSnapshot {e : Event} (due : e ∈ s.agenda) : e ∈ (s.fireSnapshot die).agenda := by
  unfold State.fireSnapshot
  dsimp only
  split
  · exact due
  · split
    · rw [← List.foldl_map (f := Event.snapshotWideTrigger) (g := State.postOnce)]
      exact State.mem_foldl_postOnce.2 (.inl due)
    · exact due

/-- SNAPCTL is written: ARM, ATCYC and WIDE. -/
def State.armSnapshot (s : State) (die : Nat) (value : Word64) : State :=
  let t := s.onDie die fun d => { d with snapctl := (d.snapctl &&& 16) ||| (value &&& 13) }
  if value.getLsbD 0 && value.getLsbD 2 then t.postOnce (.snapshotAtCycle die) else t

section
variable {value : Word64}

theorem exec_snapctlArm (runs : (s.shep die).mode ≠ .reset) : exec (.snapctlArm die value) s =
    .next (if value.getLsbD 1 then (s.armSnapshot die value).fireSnapshot die else s.armSnapshot die value) := if_neg runs

theorem State.armSnapshot_die (inside : die < s.dies.length) :
    (s.armSnapshot die value).die die = { s.die die with snapctl := ((s.die die).snapctl &&& 16) ||| (value &&& 13) } := by
  unfold State.armSnapshot
  dsimp only
  split
  · rw [State.postOnce_die]
    exact State.onDie_die inside
  · exact State.onDie_die inside

theorem State.armSnapshot_snapctl (inside : die < s.dies.length) {b : Nat} (low : b < 64) :
    ((s.armSnapshot die value).die die).snapctl.getLsbD b =
      if b = 4 then (s.die die).snapctl.getLsbD 4 else if b = 0 ∨ b = 2 ∨ b = 3 then value.getLsbD b else false := by
  have one : ∀ b < 64, BitVec.getLsbD (16 : Word64) b = decide (b = 4) := by decide
  have three : ∀ b < 64, BitVec.getLsbD (13 : Word64) b = decide (b = 0 ∨ b = 2 ∨ b = 3) := by decide
  rw [State.armSnapshot_die inside]
  simp only [BitVec.getLsbD_or, BitVec.getLsbD_and, one b low, three b low]
  by_cases at4 : b = 4
  · simp [at4]
  · by_cases written : b = 0 ∨ b = 2 ∨ b = 3 <;> simp [at4, written]

theorem State.armSnapshot_latched (inside : die < s.dies.length) (arm : value.getLsbD 0 = true) :
    s.Latched ((s.armSnapshot die value).fireSnapshot die) die := by
  have armed : ((s.armSnapshot die value).die die).snapctl.getLsbD 0 = true := (State.armSnapshot_snapctl inside (by decide)).trans arm
  have kept : (s.armSnapshot die value).dies.length = s.dies.length := by
    unfold State.armSnapshot
    dsimp only
    split
    · rw [State.postOnce_dies]
      exact State.length_dies_onDie ..
    · exact State.length_dies_onDie ..
  have set_ : (s.armSnapshot die value).snapshotSet die = s.snapshotSet die := by
    refine State.snapshotSet_congr (fun j => ?_) ?_
    · rcases eq_or_ne j die with rfl | this
      · exact ⟨_, State.armSnapshot_die inside⟩
      · refine ⟨(s.die j).snapctl, ?_⟩
        unfold State.armSnapshot
        dsimp only
        split
        · rw [State.postOnce_die, State.onDie_die_ne this]
        · rw [State.onDie_die_ne this]
    · unfold State.armSnapshot State.postOnce
      dsimp only
      split
      · split <;> rfl
      · rfl
  obtain ⟨cycle, off, done, set'⟩ := State.fireSnapshot_latched (by rwa [kept]) armed
  exact ⟨cycle.trans (by rw [State.armSnapshot_die inside]), off, done, set'.trans set_⟩

end

end

/-! ## What a sample reads (R405) -/

section
variable {s : State} {die i : Nat}

/-- The power of the live dies as they have read it last. -/
def State.drawn (s : State) : Nat := (s.liveDies.map fun i => (s.die i).draw).sum

/-- What a shepherd reads: its rails, and what its die draws. -/
def State.reading (s : State) (die : Nat) : State := s.onDie die fun d => { d with
  draw := (Config.powerReading die s.ticks).toNat, sampleAt := d.cycle + 15000
  rails := (List.range 3).map fun r => ⟨(Config.railReading die r s.ticks).extractLsb' 0 16, (Config.railReading die r s.ticks).extractLsb' 16 16,
    (Config.railReading die r s.ticks).extractLsb' 32 16⟩ }

/-- The log of a die with a sample added. -/
def Die.logged (d : Die) (power : Nat) : List Nat := (d.samples ++ [power]).drop (d.samples.length - 99)

/-- A die with a sample added to its log, and PWRNOW. -/
def Die.addSample (power : Nat) (d : Die) : Die :=
  { d with samples := d.logged power, pwrnow := BitVec.ofNat 64 (min 2047 ((d.logged power).sum / (d.logged power).length)) }

theorem State.sample_eq : s.sample die = (s.reading die).onDie die (Die.addSample (s.reading die).drawn) := rfl

/-- A field of a die beside what a sample writes. -/
theorem State.sample_field {α : Type} (p : Die → α)
    (hp : ∀ d w at_ rails log now, p { d with draw := w, sampleAt := at_, rails := rails, samples := log, pwrnow := now } = p d) :
    p ((s.sample die).die i) = p (s.die i) := by
  rw [State.sample_eq]
  refine (State.onDie_field p fun d => ?_).trans (State.onDie_field p fun d => ?_)
  · exact hp d d.draw d.sampleAt d.rails _ _
  · exact hp d _ _ _ d.samples d.pwrnow

theorem State.sample_liveDies : (s.sample die).liveDies = s.liveDies := State.liveDies_congr fun _ => State.sample_field Die.live fun _ _ _ _ _ _ => rfl

theorem State.reading_length : (s.reading die).dies.length = s.dies.length := State.length_dies_onDie ..

theorem State.sample_length : (s.sample die).dies.length = s.dies.length := by
  rw [State.sample_eq, State.length_dies_onDie, State.reading_length]

theorem State.sample_sampleAt (inside : die < s.dies.length) : ((s.sample die).die die).sampleAt = (s.die die).cycle + 15000 := by
  have kept : ((s.sample die).die die).sampleAt = ((s.reading die).die die).sampleAt := State.onDie_field Die.sampleAt fun _ => rfl
  rw [kept, State.reading, State.onDie_die inside]

theorem State.sample_drawn : (s.sample die).drawn = (s.reading die).drawn := by
  have lives : (s.sample die).liveDies = (s.reading die).liveDies := State.liveDies_congr fun _ => State.onDie_field Die.live fun _ => rfl
  have draws (i : Nat) : ((s.sample die).die i).draw = ((s.reading die).die i).draw := State.onDie_field Die.draw fun _ => rfl
  simp only [State.drawn, lives, draws]

theorem State.sample_die (inside : die < s.dies.length) :
    (s.sample die).die die = ((s.reading die).die die).addSample (s.sample die).drawn := by
  rw [State.sample_drawn, State.sample_eq, State.onDie_die (by rwa [State.reading_length])]

theorem State.sample_samples (inside : die < s.dies.length) :
    ((s.sample die).die die).samples = ((s.die die).samples ++ [(s.sample die).drawn]).drop ((s.die die).samples.length - 99) := by
  have kept : ((s.reading die).die die).samples = (s.die die).samples := State.onDie_field Die.samples fun _ => rfl
  rw [State.sample_die inside, ← kept]
  rfl

theorem State.sample_pwrnow (inside : die < s.dies.length) : ((s.sample die).die die).pwrnow =
    BitVec.ofNat 64 (min 2047 (((s.sample die).die die).samples.sum / ((s.sample die).die die).samples.length)) := by
  rw [State.sample_die inside]
  rfl

theorem State.sample_last (inside : die < s.dies.length) : ((s.sample die).die die).samples.getLastD 0 = (s.sample die).drawn := by
  rw [State.sample_samples inside, List.drop_append_of_le_length (by omega)]
  simp

theorem State.sample_kept (inside : die < s.dies.length) : ((s.sample die).die die).samples.length ≤ max 100 (s.die die).samples.length := by
  rw [State.sample_samples inside, List.length_drop, List.length_append, List.length_singleton]
  omega

end

/-! ## What a sample does (R26, R479) -/

section
variable {s : State} {die i c r : Nat} {rest : List (Nat × Nat)}

/-- The state once a shepherd has sampled, and is to sample again. -/
def State.sampled (s : State) (die : Nat) : State := (s.sample die).post (.powerSample die)

/-- A sample is due. -/
def State.SampleDue (s : State) (die : Nat) : Prop :=
  (s.die die).live = true ∧ s.shepRuns die = true ∧ (s.die die).sampleAt.toNat ≤ (s.die die).cycle.toNat

/-- The sample is above the cap. -/
def State.AboveCap (u : State) (die : Nat) : Prop := (u.die die).pwrcap.toNat < (u.die die).samples.getLastD 0

theorem exec_powerSample_waits (live : (s.die die).live = true)
    (waits : s.shepRuns die = false ∨ (s.die die).cycle.toNat < (s.die die).sampleAt.toNat) :
    exec (.powerSample die) s = .next (s.post (.powerSample die)) := by
  show execPowerSample die s = _
  unfold execPowerSample
  rw [if_neg (by simp [live]), if_pos (by simpa using waits)]

/-- At or below the cap: nothing counts toward the report, and the die's rails stand at what its clusters need. -/
def State.metCap (u : State) (die : Nat) : State :=
  (u.setDie die { u.die die with aboveSince := none, slowed := if (u.free 0).getLsbD 0 then [] else (u.die die).slowed }).settleRails die

/-- Something is lowered: a die's cap no longer counts as unmet. -/
def State.clearAbove (u : State) (die : Nat) : State := u.onDie die fun d => { d with aboveSince := none }

/-- A die with a cluster one step slower. -/
def Die.slow (c : Nat) (d : Die) : Die := { d with slowed := SMap.put d.slowed 0 c (SMap.get d.slowed 0 c + 1) }

/-- A die with a rail one step lower. -/
def Die.lower (r : Nat) (d : Die) : Die := { d with railSteps := setNth d.railSteps r (d.railSteps.getD r 0 + 1) }

/-- Paddocks with clusters that are locked. -/
def State.lockedPaddocks (u : State) : List Nat := (List.range 8).filter fun n => (u.paddock n).desc.lock && (u.paddock n).desc.clusters ≠ 0

/-- Nothing is left to lower, which counts toward the report. -/
def State.unmetCap (u : State) (die : Nat) : State :=
  u.lockedPaddocks.foldl (fun s n => s.postOnce (.powerCapUnmet n))
    (u.setDie die { u.die die with aboveSince := some ((u.die die).aboveSince.getD (u.die die).cycle) })

theorem exec_powerSample_below (due : s.SampleDue die) (below : ¬ (s.sampled die).AboveCap die) :
    exec (.powerSample die) s = .next ((s.sampled die).metCap die) := by
  obtain ⟨live, runs, time⟩ := due
  show execPowerSample die s = _
  unfold execPowerSample
  rw [if_neg (by simp [live]), if_neg (by simpa [runs] using time)]
  exact if_pos (Nat.not_lt.1 below)

theorem exec_powerSample_above (due : s.SampleDue die) (above : (s.sampled die).AboveCap die) : exec (.powerSample die) s =
    match (s.sampled die).throttleOrder, (s.sampled die).railOrder with
    | (i, c) :: _, _ => .next (((s.sampled die).clearAbove die).onDie i (Die.slow c))
    | [], (i, r) :: _ => .next (((s.sampled die).clearAbove die).onDie i (Die.lower r))
    | [], [] => .next ((s.sampled die).unmetCap die) := by
  obtain ⟨live, runs, time⟩ := due
  show execPowerSample die s = _
  unfold execPowerSample
  rw [if_neg (by simp [live]), if_neg (by simpa [runs] using time)]
  exact if_neg (Nat.not_le.2 above)

theorem State.throttleOrder_low (listed : (i, c) ∈ s.throttleOrder) : i < 4 := by
  simp only [State.throttleOrder, List.mem_append, List.mem_filter, List.mem_flatMap, List.mem_map, Prod.mk.injEq] at listed
  rcases listed with ⟨⟨⟨d, live, -, -, rfl, -⟩, -⟩, -⟩ | ⟨⟨⟨d, live, -, -, rfl, -⟩, -⟩, -⟩ <;> exact (State.mem_liveDies.1 live).1

theorem State.railOrder_low (listed : (i, r) ∈ s.railOrder) : i < 4 := by
  simp only [State.railOrder, List.mem_append, List.mem_filter, List.mem_flatMap, List.mem_map, Prod.mk.injEq] at listed
  rcases listed with ⟨⟨⟨d, live, -, -, rfl, -⟩, -⟩, -⟩ | ⟨⟨⟨d, live, -, -, rfl, -⟩, -⟩, -⟩ <;> exact (State.mem_liveDies.1 live).1

theorem State.settleRails_railSteps (inside : die < s.dies.length) :
    ((s.settleRails die).die die).railSteps = (List.range 3).map ((s.settleRails die).sectorNeed die) := by
  have need (x : Nat) : (s.settleRails die).sectorNeed die x = s.sectorNeed die x := by
    simp only [State.sectorNeed, State.railNeed, State.clusterOwner, State.settleRails,
      State.onDie_field (s := s) Die.slowed (g := fun d => { d with railSteps := (List.range 3).map (s.sectorNeed die) }) fun _ => rfl]
    rfl
  rw [List.map_congr_left fun x _ => need x]
  exact congrArg Die.railSteps (State.onDie_die inside)

/-! ### The state after a sample -/

theorem State.metCap_die (inside : die < s.dies.length) : ((s.metCap die).die die).aboveSince = none ∧
    ((s.metCap die).die die).pwrnow = (s.die die).pwrnow ∧ ((s.metCap die).die die).railSteps = (List.range 3).map ((s.metCap die).sectorNeed die) := by
  have kept {α : Type} (p : Die → α) (u : State) (hp : ∀ (d : Die) x, p { d with railSteps := x } = p d) : p ((u.settleRails die).die die) = p (u.die die) :=
    State.onDie_field p fun d => hp d _
  refine ⟨?_, ?_, State.settleRails_railSteps (by rwa [show (s.setDie die _).dies.length = s.dies.length from length_setNth ..])⟩
  · rw [State.metCap, kept Die.aboveSince _ fun _ _ => rfl, State.setDie_die inside]
  · rw [State.metCap, kept Die.pwrnow _ fun _ _ => rfl, State.setDie_die inside]

theorem State.clearAbove_field {α : Type} (p : Die → α) (hp : ∀ (d : Die) x, p { d with aboveSince := x } = p d) :
    p ((s.clearAbove die).die i) = p (s.die i) := State.onDie_field p fun d => hp d none

theorem State.slow_slowed (inside : i < s.dies.length) : ((((s.clearAbove die).onDie i (Die.slow c)).die i).slowed) =
    SMap.put (s.die i).slowed 0 c (SMap.get (s.die i).slowed 0 c + 1) := by
  have kept : ((s.clearAbove die).die i).slowed = (s.die i).slowed := State.clearAbove_field Die.slowed fun _ _ => rfl
  rw [State.onDie_die (by rwa [State.clearAbove, State.length_dies_onDie]), Die.slow, kept]

theorem State.lower_railSteps (inside : i < s.dies.length) : ((((s.clearAbove die).onDie i (Die.lower r)).die i).railSteps) =
    setNth (s.die i).railSteps r ((s.die i).railSteps.getD r 0 + 1) := by
  have kept : ((s.clearAbove die).die i).railSteps = (s.die i).railSteps := State.clearAbove_field Die.railSteps fun _ _ => rfl
  rw [State.onDie_die (by rwa [State.clearAbove, State.length_dies_onDie]), Die.lower, kept]

theorem State.lowered_pwrnow {g : Die → Die} (hg : ∀ d, (g d).pwrnow = d.pwrnow) :
    (((s.clearAbove die).onDie i g).die die).pwrnow = (s.die die).pwrnow :=
  (State.onDie_field Die.pwrnow hg).trans (State.clearAbove_field Die.pwrnow fun _ _ => rfl)

theorem State.unmetCap_die (inside : die < s.dies.length) :
    (s.unmetCap die).die die = { s.die die with aboveSince := some ((s.die die).aboveSince.getD (s.die die).cycle) } := by
  rw [State.unmetCap, foldl_kept State.die fun u n => State.postOnce_die u _, State.setDie_die inside]

theorem State.mem_unmetCap {e : Event} : e ∈ (s.unmetCap die).agenda ↔ e ∈ s.agenda ∨ ∃ n ∈ s.lockedPaddocks, .powerCapUnmet n = e := by
  rw [State.unmetCap, ← List.foldl_map (f := Event.powerCapUnmet) (g := State.postOnce), State.mem_foldl_postOnce, List.mem_map]
  rfl

/-! ### What the statement says of it -/

/-- What a sample that is logged in `u` leaves in `t`. -/
def State.SampleLeaves (u t : State) (die : Nat) : Prop :=
  .powerSample die ∈ t.agenda ∧ (t.die die).pwrnow = (u.die die).pwrnow ∧
    (¬ u.AboveCap die → (t.die die).aboveSince = none ∧ (t.die die).railSteps = (List.range 3).map (t.sectorNeed die)) ∧
    (u.AboveCap die → ∀ i c rest, u.throttleOrder = (i, c) :: rest →
      (t.die i).slowed = SMap.put (u.die i).slowed 0 c (SMap.get (u.die i).slowed 0 c + 1)) ∧
    (u.AboveCap die → u.throttleOrder = [] → ∀ i r rest, u.railOrder = (i, r) :: rest →
      (t.die i).railSteps = setNth (u.die i).railSteps r ((u.die i).railSteps.getD r 0 + 1)) ∧
    (u.AboveCap die → u.throttleOrder = [] → u.railOrder = [] →
      (t.die die).aboveSince = some ((u.die die).aboveSince.getD (u.die die).cycle) ∧
      ∀ n, n < 8 → (u.paddock n).desc.lock = true → (u.paddock n).desc.clusters ≠ 0 → .powerCapUnmet n ∈ t.agenda)

section
variable (four : s.dies.length = 4) (low : die < 4) (again : .powerSample die ∈ s.agenda)
include four again

include low in
theorem State.metCap_leaves (below : ¬ s.AboveCap die) : s.SampleLeaves (s.metCap die) die := by
  obtain ⟨none_, same, rails⟩ := State.metCap_die (s := s) (four ▸ low)
  exact ⟨again, same, fun _ => ⟨none_, rails⟩, fun above => absurd above below, fun above => absurd above below, fun above => absurd above below⟩

theorem State.slow_leaves (above : s.AboveCap die) (slows : s.throttleOrder = (i, c) :: rest) :
    s.SampleLeaves ((s.clearAbove die).onDie i (Die.slow c)) die := by
  have small : i < s.dies.length := four ▸ State.throttleOrder_low (slows ▸ List.mem_cons_self)
  refine ⟨again, State.lowered_pwrnow fun _ => rfl, fun below => absurd above below, fun _ j k others same => ?_, fun _ none_ => ?_, fun _ none_ => ?_⟩
  · rw [slows] at same
    cases same
    exact State.slow_slowed small
  all_goals exact absurd (slows.symm.trans none_) (List.cons_ne_nil _ _)

theorem State.lower_leaves (above : s.AboveCap die) (all : s.throttleOrder = []) (lowers : s.railOrder = (i, r) :: rest) :
    s.SampleLeaves ((s.clearAbove die).onDie i (Die.lower r)) die := by
  have small : i < s.dies.length := four ▸ State.railOrder_low (lowers ▸ List.mem_cons_self)
  refine ⟨again, State.lowered_pwrnow fun _ => rfl, fun below => absurd above below, fun _ j k others same => ?_, fun _ _ j k others same => ?_,
    fun _ _ none_ => absurd (lowers.symm.trans none_) (List.cons_ne_nil _ _)⟩
  · exact absurd (same.symm.trans all) (List.cons_ne_nil _ _)
  · rw [lowers] at same
    cases same
    exact State.lower_railSteps small

include low in
theorem State.unmetCap_leaves (above : s.AboveCap die) (all : s.throttleOrder = []) (lowest : s.railOrder = []) :
    s.SampleLeaves (s.unmetCap die) die := by
  have after := State.unmetCap_die (s := s) (four ▸ low)
  refine ⟨State.mem_unmetCap.2 (.inl again), by rw [after], fun below => absurd above below,
    fun _ j k others same => absurd (same.symm.trans all) (List.cons_ne_nil _ _),
    fun _ _ j k others same => absurd (same.symm.trans lowest) (List.cons_ne_nil _ _), fun _ _ _ => ⟨by rw [after], fun n small locked clusters => ?_⟩⟩
  refine State.mem_unmetCap.2 (.inr ⟨n, List.mem_filter.2 ⟨List.mem_range.2 small, ?_⟩, rfl⟩)
  exact Bool.and_eq_true_iff.2 ⟨locked, decide_eq_true clusters⟩

end

theorem exec_powerSample_leaves (four : s.dies.length = 4) (low : die < 4) (due : s.SampleDue die) :
    ∃ t, exec (.powerSample die) s = .next t ∧ (s.sampled die).SampleLeaves t die := by
  have count : (s.sampled die).dies.length = 4 := State.sample_length.trans four
  have again : Event.powerSample die ∈ (s.sampled die).agenda := State.mem_post.2 (.inr rfl)
  by_cases above : (s.sampled die).AboveCap die
  · have acts := exec_powerSample_above due above
    rcases slows : (s.sampled die).throttleOrder with _ | ⟨⟨i, c⟩, others⟩
    · rcases lowers : (s.sampled die).railOrder with _ | ⟨⟨i, r⟩, others⟩
      · rw [slows, lowers] at acts
        exact ⟨_, acts, State.unmetCap_leaves count low again above slows lowers⟩
      · rw [slows, lowers] at acts
        exact ⟨_, acts, State.lower_leaves count again above slows lowers⟩
    · rw [slows] at acts
      exact ⟨_, acts, State.slow_leaves count again above slows⟩
  · exact ⟨_, exec_powerSample_below due above, State.metCap_leaves count low again above⟩

theorem exec_powerCapUnmet_told {n : Nat}
    (long : ∀ x ∈ s.liveDies.map s.die, ∃ t, x.aboveSince = some t ∧ 15000000 ≤ (x.cycle - t).toNat) :
    exec (.powerCapUnmet n) s = .next (s.paddockReport n 1) := by
  show execPowerCapUnmet n s = _
  unfold execPowerCapUnmet
  dsimp only
  rw [if_neg, if_pos]
  · refine List.all_eq_true.2 fun x live => ?_
    obtain ⟨t, since, late⟩ := long x live
    rw [since, Option.any_some]
    exact decide_eq_true late
  · rw [Bool.not_eq_true', Bool.not_eq_false]
    refine List.all_eq_true.2 fun x live => ?_
    obtain ⟨t, since, -⟩ := long x live
    simp [since]

theorem exec_powerCapUnmet_met {n : Nat} (met : ∃ x ∈ s.liveDies.map s.die, x.aboveSince = none) : exec (.powerCapUnmet n) s = .next s := by
  obtain ⟨x, live, none_⟩ := met
  refine if_pos ?_
  rw [Bool.not_eq_true', List.all_eq_false]
  exact ⟨x, live, by simp [none_]⟩

end

/-- Settles O48: a snapshot latches what the die shows at its trigger, and a sample slows a cluster, lowers a rail or marks the cap unmet, in this
order. -/
theorem snapshotsAndPower : Obligations.SnapshotsAndPower := by
  unfold Obligations.SnapshotsAndPower
  intro s die four low
  have inside : die < s.dies.length := four ▸ low
  refine ⟨?fire, ?idle, ?restarts, ?atCycle, ?unarmed, ?wide, ?arm, ?cap, ?waits, ?samples, ?unmet⟩
  case fire =>
    exact fun runs armed => ⟨s.fireSnapshot die, congrArg Host.Outcome.next (if_neg runs), State.fireSnapshot_latched inside armed,
      fun wide i low other live => State.fireSnapshot_wide armed wide low other live⟩
  case idle =>
    exact fun runs idle => congrArg Host.Outcome.next ((if_neg runs).trans (State.fireSnapshot_unarmed idle))
  case restarts =>
    intro stopped
    have reset := not_not.1 stopped
    exact ⟨congrArg _ (if_pos reset), fun value => ⟨if_pos reset, if_pos reset⟩⟩
  case atCycle =>
    intro armed timed
    have open_ : exec (.snapshotAtCycle die) s = .next (if (s.die die).cycle.toNat < (s.die die).snapat.toNat || (s.shep die).mode = .reset
        then s.postOnce (.snapshotAtCycle die) else s.fireSnapshot die) := if_neg (by simp [armed, timed])
    refine ⟨fun runs come => ⟨_, open_.trans (congrArg _ (if_neg ?_)), State.fireSnapshot_latched inside armed⟩, fun waits => open_.trans (congrArg _ (if_pos ?_))⟩
    · simpa using ⟨come, runs⟩
    · simpa [or_comm] using waits
  case unarmed =>
    exact fun idle => ⟨if_pos (by rw [idle]; rfl), congrArg Host.Outcome.next (if_pos (by rw [idle]; rfl))⟩
  case wide =>
    intro armed
    have open_ : exec (.snapshotWideTrigger die) s = .next (if (s.shep die).mode = .reset then s.postOnce (.snapshotWideTrigger die) else s.latch die) :=
      congrArg _ (if_neg (by simp [armed]))
    exact ⟨fun runs => ⟨_, open_.trans (congrArg _ (if_neg runs)), State.latch_latched inside⟩,
      fun stopped => open_.trans (congrArg _ (if_pos (not_not.1 stopped)))⟩
  case arm =>
    intro value runs
    refine ⟨_, exec_snapctlArm runs, fun arm fire => ?_, fun not_ b small => ?_, fun arm timed => ?_⟩
    · rw [if_pos fire]
      exact State.armSnapshot_latched inside arm
    · have same : (if value.getLsbD 1 then (s.armSnapshot die value).fireSnapshot die else s.armSnapshot die value) = s.armSnapshot die value := by
        split
        · next fire =>
          refine State.fireSnapshot_unarmed ((State.armSnapshot_snapctl inside (by decide)).trans ?_)
          exact not_.resolve_right fun quiet => Bool.false_ne_true (quiet.symm.trans fire)
        · rfl
      rw [same]
      exact State.armSnapshot_snapctl inside small
    · have due : Event.snapshotAtCycle die ∈ (s.armSnapshot die value).agenda := by
        unfold State.armSnapshot
        dsimp only
        rw [if_pos (by simp only [arm, timed, Bool.and_self])]
        exact State.mem_postOnce.2 (.inr rfl)
      split
      · exact State.mem_fireSnapshot due
      · exact due
  case cap =>
    intro value runs
    refine ⟨_, if_neg runs, fun i small => ?_⟩
    have there : ((s.mapDies fun d => { d with pwrcap := BitVec.ofNat 64 (clampWatts value.toNat) }).die i).pwrcap =
        BitVec.ofNat 64 (clampWatts value.toNat) := by
      simp only [State.die, State.mapDies, List.getD_eq_getElem?_getD, List.getElem?_map, List.getElem?_eq_getElem (four ▸ small), Option.map_some,
        Option.getD_some]
    rw [there]
    simp only [BitVec.toNat_ofNat, clampWatts, bitsAt, Nat.pow_zero, Nat.div_one]
    omega
  case waits => exact exec_powerSample_waits
  case samples =>
    intro live runs time u e w
    have cap : e.pwrcap = (s.die die).pwrcap := State.sample_field Die.pwrcap fun _ _ _ _ _ _ => rfl
    have since : e.aboveSince = (s.die die).aboveSince := State.sample_field Die.aboveSince fun _ _ _ _ _ _ => rfl
    have now : e.cycle = (s.die die).cycle := State.sample_field Die.cycle fun _ _ _ _ _ _ => rfl
    have last : w = (s.sample die).drawn := State.sample_last inside
    have power : e.pwrnow = BitVec.ofNat 64 (min 2047 (e.samples.sum / e.samples.length)) := State.sample_pwrnow inside
    refine ⟨State.sample_sampleAt inside, last.trans (by rw [State.drawn, State.sample_liveDies]; rfl), State.sample_kept inside, ?_⟩
    obtain ⟨t, acts, again, shown, below, slows, lowers, unmet⟩ := exec_powerSample_leaves four low ⟨live, runs, time⟩
    rw [← cap, ← since, ← now, ← power]
    exact ⟨t, acts, again, shown, fun le => below (Nat.not_lt.2 le), slows, lowers, unmet⟩
  case unmet => exact fun n => ⟨exec_powerCapUnmet_told, exec_powerCapUnmet_met⟩

end Sys2Proof.Machine

/-!
PROOFS. The networks of a die: what is read back after they are written, and the operations that leave them, its counters and its shepherd as they
were (R390 to R398).
-/
namespace Sys2Proof.Machine

/-- What the fabric keeps at a die beside its links, with what counts errors and its shepherd. -/
def Die.ledger (d : Die) : List Net × Word64 × Word64 × Bool × Word64 × Shepherd := (d.nets, d.fabstat, d.eccstat, d.live, d.cycle, d.shepherd)

/-- That of each die. -/
def State.ledgers (s : State) : List (List Net × Word64 × Word64 × Bool × Word64 × Shepherd) := s.dies.map Die.ledger

section
variable {s t : State} {loc : Loc}

/-! ## What is read from the ledgers -/

theorem State.ledger_of_ledgers (same : t.ledgers = s.ledgers) (i : Nat) : (t.die i).ledger = (s.die i).ledger := by
  have shown (u : State) : (u.die i).ledger = u.ledgers.getD i (Die.reset i).ledger := by
    simp only [State.die, State.ledgers, List.getD_eq_getElem?_getD, List.getElem?_map]
    cases u.dies[i]? <;> rfl
  rw [shown, same, ← shown]

theorem State.dies_length_of_ledgers (same : t.ledgers = s.ledgers) : t.dies.length = s.dies.length := by
  simpa [State.ledgers] using congrArg List.length same

theorem State.net_of_ledgers (same : t.ledgers = s.ledgers) (i n : Nat) : t.net i n = s.net i n :=
  congrArg (fun l : List Net × Word64 × Word64 × Bool × Word64 × Shepherd => List.getD l.1 n Net.reset) (State.ledger_of_ledgers same i)

theorem State.eccstat_of_ledgers (same : t.ledgers = s.ledgers) (i : Nat) : (t.die i).eccstat = (s.die i).eccstat :=
  congrArg (fun l => l.2.2.1) (State.ledger_of_ledgers same i)

theorem State.live_of_ledgers (same : t.ledgers = s.ledgers) (i : Nat) : (t.die i).live = (s.die i).live :=
  congrArg (fun l => l.2.2.2.1) (State.ledger_of_ledgers same i)

theorem State.shep_of_ledgers (same : t.ledgers = s.ledgers) (i : Nat) : t.shep i = s.shep i :=
  congrArg (fun l => l.2.2.2.2.2) (State.ledger_of_ledgers same i)

/-! ## Operations that leave them -/

theorem State.onDie_ledgers {d : Nat} {g : Die → Die} (hg : ∀ x, (g x).ledger = x.ledger) : (s.onDie d g).ledgers = s.ledgers :=
  map_setNth_same (hg _)

theorem State.mapDies_ledgers {g : Die → Die} (hg : ∀ x, (g x).ledger = x.ledger) : (s.mapDies g).ledgers = s.ledgers := by
  simp only [State.ledgers, State.mapDies, List.map_map]
  exact List.map_congr_left fun x _ => hg x

theorem State.ledgers_of_offLinks (same : t.offLinks = s.offLinks) : t.ledgers = s.ledgers := by
  have shown (u : State) : u.ledgers = u.offLinks.ledgers := by
    simp only [State.ledgers, State.offLinks, List.map_map]
    rfl
  rw [shown, same, ← shown]

theorem State.postOnce_ledgers (e : Event) : (s.postOnce e).ledgers = s.ledgers := congrArg (List.map Die.ledger) (State.postOnce_dies s e)

theorem State.release_ledgers (die id : Nat) : (s.release die id).ledgers = s.ledgers := State.ledgers_of_offLinks (State.release_offLinks die id)

theorem State.settlePorts_ledgers : s.settlePorts.ledgers = s.ledgers := State.ledgers_of_offLinks State.settlePorts_offLinks

theorem State.applyAcquire_ledgers (core session : Nat) (sc : Scope) : (s.applyAcquire core session sc).ledgers = s.ledgers := by
  show (s.acquire core session sc).ledgers = s.ledgers
  cases sc with
  | fl | hd | cl | di => rfl
  | mo | sy => exact State.onDie_ledgers fun _ => rfl

theorem State.opProgress_ledgers (uid id : Nat) : (s.opProgress uid id).ledgers = s.ledgers := by
  unfold State.opProgress
  split
  · rfl
  · split
    · rfl
    · dsimp only
      split
      · split
        · exact State.applyAcquire_ledgers ..
        · rfl
      · rfl

theorem State.opArrived_ledgers (uid id : Nat) : (s.opArrived uid id).ledgers = s.ledgers := State.opProgress_ledgers uid id

theorem State.foldl_ledgers {α : Type} {g : State → α → State} (hg : ∀ u x, (g u x).ledgers = u.ledgers) (l : List α) :
    (l.foldl g s).ledgers = s.ledgers := by
  induction l generalizing s with
  | nil => rfl
  | cons x l ih => exact ih.trans (hg s x)

theorem State.losePacket_ledgers (p : FabPacket) : (s.losePacket p).ledgers = s.ledgers := by
  have lost (u : State) (a : MemAct) : (match a with
      | .atom _ _ _ _ _ (some (f, o, g)) => u.fillPieces f o (answers g) fun _ => (0, true)
      | _ => u).ledgers = u.ledgers := by split <;> rfl
  unfold State.losePacket
  dsimp only
  split
  · exact (State.opArrived_ledgers ..).trans ((State.release_ledgers ..).trans (State.foldl_ledgers lost _))
  · exact (State.release_ledgers ..).trans (State.foldl_ledgers lost _)

theorem State.poisonRead_ledgers (r : ReadReq) : (s.poisonRead r).ledgers = s.ledgers := by
  unfold State.poisonRead
  dsimp only
  split
  · exact (State.opArrived_ledgers ..).trans (State.release_ledgers ..)
  · exact (State.opProgress_ledgers ..).trans (State.release_ledgers ..)

theorem State.loseEvent_ledgers (id : Nat) (e : Event) : (s.loseEvent id e).ledgers = s.ledgers := by
  unfold State.loseEvent
  split
  · split
    · exact State.losePacket_ledgers _
    · rfl
  · split
    · exact State.poisonRead_ledgers _
    · rfl
  · split <;> rfl
  · split <;> rfl
  · split <;> rfl
  · rfl

end

end Sys2Proof.Machine

/-!
PROOFS. Soft errors, register writes and host accesses as statement O49 says (R5, R20, R128, R384, R455, R463 to R465).
-/
namespace Sys2Proof.Machine

/-! ## Sets -/

theorem mem_setAdd_self (k : Nat) (l : List Nat) : k ∈ setAdd k l := by
  induction l with
  | nil => exact List.mem_singleton_self k
  | cons j l ih =>
    unfold setAdd
    split
    next same => exact same ▸ List.mem_cons_self
    next =>
      split
      · exact List.mem_cons_self
      · exact List.mem_cons_of_mem _ ih

/-! ## The counted error (R464) -/

section
variable {s t u : State} {die src addr : Nat}

/-- An uncorrectable error of a source is counted beside what `s` counted on a die, and its notice follows what `u` sent. -/
def State.CountedUe (s t u : State) (die src : Nat) : Prop :=
  (t.die die).eccstat.toNat % 2 ^ 16 = (s.die die).eccstat.toNat % 2 ^ 16 ∧
    (t.die die).eccstat.toNat / 2 ^ 16 % 2 ^ 16 = min 65535 ((s.die die).eccstat.toNat / 2 ^ 16 % 2 ^ 16 + 1) ∧
    (t.die die).eccstat.toNat / 2 ^ 32 % 2 ^ 4 = src ∧ t.out = u.out ++ [.shepherd die .uncorrectable, .msiShepherd die]

/-- ECCSTAT with one uncorrectable error more and its source. -/
def countedUe (e : Word64) (src : Nat) : Word64 := BitVec.ofNat 64 (withBits (bumpCount e 16 1).toNat 32 4 src)

theorem countedUe_fields (e : Word64) (known : src < 16) :
    (countedUe e src).toNat % 2 ^ 16 = e.toNat % 2 ^ 16 ∧
      (countedUe e src).toNat / 2 ^ 16 % 2 ^ 16 = min 65535 (e.toNat / 2 ^ 16 % 2 ^ 16 + 1) ∧ (countedUe e src).toNat / 2 ^ 32 % 2 ^ 4 = src := by
  simp only [countedUe, bumpCount, bitsAt, BitVec.toNat_ofNat, withBits_eq]
  have word := e.isLt
  omega

/-- A die that has counted an uncorrectable error. -/
def Die.countUe (d : Die) (src addr : Nat) : Die :=
  { d with eccstat := countedUe d.eccstat src, eccaddr := BitVec.ofNat 64 (addr % 2 ^ 52) }

theorem Die.countUe_nets (d : Die) : (d.countUe src addr).nets = d.nets := by rw [Die.countUe]

theorem State.countUe_eq : s.countUe die src addr = (s.onDie die fun d => d.countUe src addr).tell die .uncorrectable := rfl

theorem State.tell_die (n : Notice) : (s.tell die n).die = s.die := rfl

theorem State.countUe_die (inside : die < s.dies.length) : (s.countUe die src addr).die die = (s.die die).countUe src addr := by
  rw [State.countUe_eq, State.tell_die, State.onDie_die inside]

theorem State.countUe_net (i n : Nat) : (s.countUe die src addr).net i n = s.net i n := by
  have nets : ((s.countUe die src addr).die i).nets = (s.die i).nets := by
    rw [State.countUe_eq, State.tell_die]
    exact State.onDie_field Die.nets Die.countUe_nets
  rw [State.net, nets, State.net]

theorem State.countUe_counted (inside : die < u.dies.length) (known : src < 16) (counts : (u.die die).eccstat = (s.die die).eccstat)
    (sent : u.out = t.out) : s.CountedUe (u.countUe die src addr) t die src := by
  obtain ⟨corrected, errors, source⟩ := countedUe_fields (s.die die).eccstat known
  unfold State.CountedUe
  rw [State.countUe_die inside, Die.countUe, counts]
  refine ⟨corrected, errors, source, ?_⟩
  show u.out ++ _ ++ _ = _
  rw [sent, List.append_assoc]; rfl

/-! ## What an uncorrectable error strikes (R463) -/

theorem execEccUncorrectable_struck (place : EccPlace) : ∃ t, exec (.eccUncorrectable die place) s = .next t := ⟨_, rfl⟩

theorem State.onHerd_herd {h : Herd} {g : Herd → Herd} (there : s.herd? h.uid = some h) (keeps : (g h).uid = h.uid) :
    (s.onHerd h.uid g).herd? h.uid = some (g h) := by
  unfold State.onHerd
  rw [there]
  show (s.herds.map fun x => if x.uid = (g h).uid then g h else x).find? _ = _
  rw [keeps]
  exact find_map_key (key := Herd.uid) (g := fun _ => g h) (fun _ _ => keeps) there

theorem State.onHerd_dies (uid : Nat) (g : Herd → Herd) : (s.onHerd uid g).dies = s.dies := by
  unfold State.onHerd
  split <;> rfl

theorem State.onHerd_out (uid : Nat) (g : Herd → Herd) : (s.onHerd uid g).out = s.out := by
  unfold State.onHerd
  split <;> rfl

/-- An error in a herd is counted. -/
theorem State.onHerd_counted (inside : die < s.dies.length) (known : src < 16) (uid : Nat) (g : Herd → Herd) :
    s.CountedUe ((s.onHerd uid g).countUe die src 0) s die src := by
  have dies := State.onHerd_dies (s := s) uid g
  refine State.countUe_counted (by rwa [dies]) known ?_ (State.onHerd_out uid g)
  rw [State.die_congr dies]

/-! ### A packet that is lost (R463, R472) -/

/-- The state after the buffers have given up the packet of a number. -/
def State.unbuffered (s : State) (id : Nat) : State :=
  s.mapDies fun d => { d with
    nets := d.nets.map fun n => { n with early := n.early.filter (fun p => p.id ≠ id), aside := setDel id n.aside }
    links := d.links.map fun k => { k with outbox := k.outbox.filter (fun p => p.id ≠ id), slots := k.slots.filter fun x => x.id ≠ id } }

theorem State.dropPacket_ledgers (id : Nat) : (s.dropPacket id).ledgers = (s.unbuffered id).ledgers := by
  unfold State.dropPacket
  dsimp only
  rw [State.postOnce_ledgers, State.settlePorts_ledgers]
  refine (State.foldl_ledgers (fun u e => State.loseEvent_ledgers id e) _).trans ?_
  exact State.foldl_ledgers (fun u p => State.losePacket_ledgers p) _

theorem State.unbuffered_early {i n id : Nat} {p : FabPacket} (waits : p ∈ ((s.unbuffered id).net i n).early) (inside : i < s.dies.length) : p.id ≠ id := by
  simp only [State.net, State.die, State.unbuffered, State.mapDies, List.getD_eq_getElem?_getD, List.getElem?_map,
    List.getElem?_eq_getElem inside, Option.map_some, Option.getD_some] at waits
  cases there : s.dies[i].nets[n]? with
  | none => rw [there] at waits; exact nomatch waits
  | some net =>
    rw [there] at waits
    exact of_decide_eq_true (List.mem_filter.1 waits).2

/-! ### The clauses of the statement -/

theorem State.parityError_kept (p : ParityPlace) : (s.parityError die p).mem = s.mem ∧ (s.parityError die p).out = s.out ∧
    ((s.parityError die p).die die).eccstat = (s.die die).eccstat := by
  cases p with
  | l1 | tlb1 | predictor | decoder | constant | directory => exact ⟨rfl, rfl, rfl⟩
  | crossbar | tlb2 => exact ⟨rfl, rfl, State.onDie_field Die.eccstat fun _ => rfl⟩

theorem State.parityError_l1 (core pa : Nat) : ∀ x ∈ ((s.parityError die (.l1 core pa)).core core).l1, x.pa ≠ pa / 64 * 64 := by
  intro x cached
  simp only [State.parityError, State.onCore_core, if_pos] at cached
  exact of_decide_eq_true (List.mem_filter.1 cached).2

theorem State.stickCore_stuck (core : Nat) : ((s.stickCore core).core core).stuck = true ∧ .haltBoundFailure core ∈ (s.stickCore core).agenda := by
  refine ⟨?_, State.mem_postOnce.2 (.inr rfl)⟩
  simp only [State.stickCore, State.core, State.postOnce_cores]
  exact congrArg Core.stuck ((State.onCore_core s core core _).trans (if_pos rfl))

theorem laneRegister_struck {f : Flock} (inside : die < s.dies.length) (there : s.flock? f.uid = some f) (lane reg : Nat) :
    ∃ t g, exec (.eccUncorrectable die (.laneRegister f.uid lane reg)) s = .next t ∧ s.CountedUe t s die 0 ∧ t.flock? f.uid = some g ∧
      laneKey reg lane ∈ g.vPoison ∧ g.v = f.v :=
  ⟨_, _, rfl, State.countUe_counted inside (by decide) rfl rfl, State.onFlock_flock there fun _ => rfl, mem_setAdd_self .., rfl⟩

theorem scalarRegister_struck {f : Flock} {reg : Nat} (inside : die < s.dies.length) (there : s.flock? f.uid = some f) (kept : reg ≠ 0) :
    ∃ t g, exec (.eccUncorrectable die (.scalarRegister f.uid reg)) s = .next t ∧ s.CountedUe t s die 1 ∧ t.flock? f.uid = some g ∧
      reg ∈ g.sPoison ∧ g.s = f.s := by
  refine ⟨_, _, rfl, State.countUe_counted inside (by decide) rfl rfl, State.onFlock_flock there fun _ => ?_, ?_, ?_⟩
  all_goals rw [if_neg kept]
  exact mem_setAdd_self ..

theorem scratchpad_struck {h : Herd} (inside : die < s.dies.length) (there : s.herd? h.uid = some h) (word : Nat) :
    ∃ t g, exec (.eccUncorrectable die (.scratchpad h.uid word)) s = .next t ∧ s.CountedUe t s die 2 ∧ t.herd? h.uid = some g ∧
      word ∈ g.spadPoison :=
  ⟨_, _, rfl, State.onHerd_counted inside (by decide) .., State.onHerd_herd there rfl, mem_setAdd_self ..⟩

theorem operandBuffer_struck {h : Herd} (inside : die < s.dies.length) (there : s.herd? h.uid = some h) (word : Nat) :
    ∃ t g, exec (.eccUncorrectable die (.operandBuffer h.uid word)) s = .next t ∧ s.CountedUe t s die 3 ∧ t.herd? h.uid = some g ∧
      word ∈ g.opbPoison :=
  ⟨_, _, rfl, State.onHerd_counted inside (by decide) .., State.onHerd_herd there rfl, mem_setAdd_self ..⟩

theorem matrix_struck (inside : die < s.dies.length) (uid i j : Nat) :
    (∃ t, exec (.eccUncorrectable die (.tile uid i j)) s = .next t ∧ s.CountedUe t s die 3) ∧
      ∀ b, ∃ t, exec (.eccUncorrectable die (.plane uid i j b)) s = .next t ∧ s.CountedUe t s die 3 :=
  ⟨⟨_, rfl, State.onHerd_counted inside (by decide) ..⟩, fun _ => ⟨_, rfl, State.onHerd_counted inside (by decide) ..⟩⟩

theorem l2_struck_absent {pa : Nat} (absent : ((s.die die).l2.find? fun l => l.pa = lineOf pa) = none) :
    exec (.eccUncorrectable die (.l2 pa)) s = .next s := by
  show Host.Outcome.next (match (s.die die).l2.find? fun l => l.pa = lineOf pa with | none => s | some l => _) = _
  rw [absent]

/-- Memory with the sector of an address poisoned. -/
def State.sectorLost (s : State) (pa : Nat) : State := { s with memPoison := setAdd (pa / 64) s.memPoison }

theorem exec_l2_struck {pa : Nat} {l : Line} (there : ((s.die die).l2.find? fun l => l.pa = lineOf pa) = some l) :
    exec (.eccUncorrectable die (.l2 pa)) s =
      .next ((if l.dirty.getLsbD (pa % 256 / 64) then s.sectorLost pa else s).countUe die 4 pa) := by
  show Host.Outcome.next (match (s.die die).l2.find? fun l => l.pa = lineOf pa with | none => s | some l => _) = _
  rw [there] <;> rfl

theorem State.countUe_eccaddr (inside : die < s.dies.length) : ((s.countUe die src addr).die die).eccaddr.toNat = addr % 2 ^ 52 := by
  rw [State.countUe_die inside, Die.countUe, BitVec.toNat_ofNat]
  omega

theorem l2_struck {pa : Nat} {l : Line} (inside : die < s.dies.length) (there : ((s.die die).l2.find? fun l => l.pa = lineOf pa) = some l) :
    ∃ t, exec (.eccUncorrectable die (.l2 pa)) s = .next t ∧ s.CountedUe t s die 4 ∧ (t.die die).eccaddr.toNat = pa % 2 ^ 52 ∧
      (l.dirty.getLsbD (pa % 256 / 64) = true → pa / 64 ∈ t.memPoison) ∧
      (l.dirty.getLsbD (pa % 256 / 64) = false → t.memPoison = s.memPoison) := by
  refine ⟨_, exec_l2_struck there, ?_⟩
  cases l.dirty.getLsbD (pa % 256 / 64) with
  | true => exact ⟨State.countUe_counted (u := s.sectorLost pa) inside (by decide) rfl rfl,
      State.countUe_eccaddr (s := s.sectorLost pa) inside, fun _ => mem_setAdd_self .., fun clean => (nomatch clean)⟩
  | false => exact ⟨State.countUe_counted inside (by decide) rfl rfl, State.countUe_eccaddr inside, fun dirty => (nomatch dirty), fun _ => rfl⟩

theorem remoteCache_struck (inside : die < s.dies.length) (pa : Nat) :
    ∃ t, exec (.eccUncorrectable die (.remoteCache pa)) s = .next t ∧ s.CountedUe t s die 5 ∧ ∀ l ∈ (t.die die).rdc, l.pa ≠ lineOf pa := by
  have within : die < (s.onDie die fun d => { d with rdc := d.rdc.filter fun l => l.pa ≠ lineOf pa }).dies.length := by
    rwa [State.length_dies_onDie]
  refine ⟨_, rfl, State.countUe_counted within (by decide) (State.onDie_field Die.eccstat fun _ => rfl) rfl, fun l cached => ?_⟩
  rw [State.countUe_die within, Die.countUe, State.onDie_die inside] at cached
  exact of_decide_eq_true (List.mem_filter.1 cached).2

theorem lpddr_struck (inside : die < s.dies.length) (pa : Nat) :
    ∃ t, exec (.eccUncorrectable die (.lpddr pa true)) s = .next t ∧ s.CountedUe t s die 6 ∧ pa / 64 ∈ t.memPoison :=
  ⟨_, rfl, State.countUe_counted (u := s.sectorLost pa) inside (by decide) rfl rfl, mem_setAdd_self ..⟩

theorem State.countUe_source (inside : die < s.dies.length) (known : src < 16) :
    ((s.countUe die src addr).die die).eccstat.toNat / 2 ^ 32 % 2 ^ 4 = src := by
  rw [State.countUe_die inside, Die.countUe]
  exact (countedUe_fields _ known).2.2

theorem State.dropPacket_length (id : Nat) : (s.dropPacket id).dies.length = s.dies.length :=
  (State.dies_length_of_ledgers (State.dropPacket_ledgers id)).trans (List.length_map ..)

theorem State.dropPacket_resynchronises (id : Nat) : .resynchronisation ∈ (s.dropPacket id).agenda := by
  unfold State.dropPacket
  exact State.mem_postOnce.2 (.inr rfl)

theorem State.countUe_agenda : (s.countUe die src addr).agenda = s.agenda := rfl

theorem exec_fabric_struck (id : Nat) : exec (.eccUncorrectable die (.fabric id)) s = .next ((s.dropPacket id).countUe die 7 0) := rfl

theorem fabric_struck (inside : die < s.dies.length) (id : Nat) :
    ∃ t, exec (.eccUncorrectable die (.fabric id)) s = .next t ∧ .resynchronisation ∈ t.agenda ∧
      (t.die die).eccstat.toNat / 2 ^ 32 % 2 ^ 4 = 7 ∧ ∀ i n, i < s.dies.length → ∀ q ∈ (t.net i n).early, q.id ≠ id := by
  refine ⟨_, exec_fabric_struck id, by rw [State.countUe_agenda]; exact State.dropPacket_resynchronises id, State.countUe_source (by rwa [State.dropPacket_length]) (by decide), fun i n within q waits => ?_⟩
  rw [State.countUe_net, State.net_of_ledgers (State.dropPacket_ledgers id)] at waits
  exact State.unbuffered_early waits within

theorem State.onCounter_get (inside : die < s.dies.length) (i : Nat) (g : DepCounter → DepCounter) :
    SMap.get ((s.onCounter die i g).die die).counters DepCounter.free (i % 65536) =
      g (SMap.get (s.die die).counters DepCounter.free (i % 65536)) := by
  rw [State.onCounter, State.onDie_die inside]
  exact SMap.get_put.trans (if_pos rfl)

theorem counter_struck {i : Nat} (inside : die < s.dies.length) (counter : i < 65536) :
    ∃ t, exec (.eccUncorrectable die (.counter i)) s = .next t ∧ (SMap.get (t.die die).counters DepCounter.free i).poison = true := by
  have written := State.onCounter_get inside i fun c => { c with poison := true }
  rw [Nat.mod_eq_of_lt counter] at written
  exact ⟨_, rfl, congrArg DepCounter.poison written⟩

theorem State.poisonBucket_die (inside : die < s.dies.length) (bucket : Nat) :
    (s.poisonBucket die bucket).dies.length = s.dies.length ∧ bucket ∈ ((s.poisonBucket die bucket).die die).poisonedBuckets := by
  unfold State.poisonBucket
  split
  next known => exact ⟨rfl, List.contains_iff_mem.1 known⟩
  next =>
    refine ⟨length_setNth .., ?_⟩
    rw [State.tell_die, State.onDie_die inside]
    exact mem_setAdd_self ..

theorem directory_struck (inside : die < s.dies.length) (bucket : Nat) :
    ∃ t, exec (.eccUncorrectable die (.directory bucket)) s = .next t ∧ (t.die die).eccstat.toNat / 2 ^ 32 % 2 ^ 4 = 8 ∧
      bucket ∈ (t.die die).poisonedBuckets := by
  obtain ⟨length, poisoned⟩ := State.poisonBucket_die inside bucket
  refine ⟨_, rfl, State.countUe_source (by rwa [length]) (by decide), ?_⟩
  rw [State.countUe_die (by rwa [length]), Die.countUe]
  exact poisoned

theorem retention_struck (inside : die < s.dies.length) (lost : RetentionItem) :
    ∃ t, exec (.eccUncorrectable die (.retention lost)) s = .next t ∧ .retentionSramUe die lost ∈ t.agenda ∧ s.CountedUe t s die 9 :=
  ⟨_, rfl, State.mem_post.2 (.inr rfl), State.countUe_counted (u := s.post (.retentionSramUe die lost)) inside (by decide) rfl rfl⟩

theorem scrub_struck (inside : die < s.dies.length) (sector : Nat) :
    ∃ t, exec (.memoryScrub die sector true) s = .next t ∧ die * 2 ^ 31 + sector % 2 ^ 31 ∈ t.memPoison ∧ s.CountedUe t s die 6 :=
  ⟨_, rfl, mem_setAdd_self .., State.countUe_counted
    (u := { s with memPoison := setAdd (die * 2 ^ 31 + sector % 2 ^ 31) s.memPoison }) inside (by decide) rfl rfl⟩

end

/-! ## Register writes (R5) -/

/-- A register of two counters of 32 bits, each cleared where the value written has a 1 in it. -/
theorem writeCounters_halves (r v : Word64) :
    (writeCounters r v [(0, 32), (32, 32)]).toNat % 2 ^ 32 = (if v.toNat % 2 ^ 32 = 0 then r.toNat % 2 ^ 32 else 0) ∧
      (writeCounters r v [(0, 32), (32, 32)]).toNat / 2 ^ 32 = (if v.toNat / 2 ^ 32 = 0 then r.toNat / 2 ^ 32 else 0) := by
  have high : v.toNat / 2 ^ 32 % 2 ^ 32 = v.toNat / 2 ^ 32 := Nat.mod_eq_of_lt (by have := v.isLt; omega)
  have word := r.isLt
  simp only [writeCounters, List.foldl_cons, List.foldl_nil, clearCounter, bitsAt, Nat.pow_zero, Nat.div_one, high, BitVec.toNat_ofNat,
    withBits_eq]
  constructor <;> split <;> split <;> omega

section
variable {s : State} {die : Nat}

theorem sessbase_written (every : s.dies.length = 4) (value : Word64) :
    ∃ t, exec (.registerWrite die .sessbase value) s = .next t ∧
      ∀ i, i < 4 → (t.die i).sessbase.toNat = value.toNat / 2 ^ 20 % 2 ^ 32 * 2 ^ 20 := by
  refine ⟨_, rfl, fun i inside => ?_⟩
  have written : ((s.mapDies fun d => { d with sessbase := BitVec.ofNat 64 (bitsAt value.toNat 20 32 * 2 ^ 20) }).die i).sessbase =
      BitVec.ofNat 64 (bitsAt value.toNat 20 32 * 2 ^ 20) := by
    simp [State.die, State.mapDies, List.getElem?_eq_getElem (every ▸ inside : i < s.dies.length)]
  refine (congrArg BitVec.toNat written).trans ?_
  rw [BitVec.toNat_ofNat, bitsAt]
  omega

theorem cpool_written (inside : die < s.dies.length) (value : Word64) :
    ∃ t, exec (.registerWrite die .cpool value) s = .next t ∧ (t.die die).cpool.toNat = value.toNat % 2 ^ 52 := by
  refine ⟨_, rfl, ?_⟩
  rw [State.onDie_die inside]
  show (BitVec.ofNat 64 _).toNat = _
  rw [BitVec.toNat_ofNat, bitsAt]
  omega

theorem snapat_written (inside : die < s.dies.length) (value : Word64) :
    ∃ t, exec (.registerWrite die .snapat value) s = .next t ∧ (t.die die).snapat = value :=
  ⟨_, rfl, by rw [State.onDie_die inside]⟩

theorem tlbinv0_written (inside : die < s.dies.length) (value : Word64) :
    ∃ t, exec (.registerWrite die .tlbinv0 value) s = .next t ∧ (t.die die).tlbinv0.toNat = value.toNat / 2 ^ 12 % 2 ^ 36 * 2 ^ 12 := by
  refine ⟨_, rfl, ?_⟩
  rw [State.onDie_die inside]
  show (BitVec.ofNat 64 _).toNat = _
  rw [BitVec.toNat_ofNat, bitsAt]
  omega

theorem dirstat0_written (inside : die < s.dies.length) (value : Word64) :
    ∃ t, exec (.registerWrite die .dirstat0 value) s = .next t ∧
      (t.die die).dirstat0.toNat % 2 ^ 32 = (if value.toNat % 2 ^ 32 = 0 then (s.die die).dirstat0.toNat % 2 ^ 32 else 0) ∧
      (t.die die).dirstat0.toNat / 2 ^ 32 = (if value.toNat / 2 ^ 32 = 0 then (s.die die).dirstat0.toNat / 2 ^ 32 else 0) := by
  refine ⟨_, rfl, ?_⟩
  rw [State.onDie_die inside]
  exact writeCounters_halves ..

theorem padrep_written {n : Nat} (inside : n < s.padrep.length) (value : Word64) :
    ∃ t, exec (.registerWrite die (.padrep n) value) s = .next t ∧ t.padrep.getD n 0 = s.padrep.getD n 0 &&& ~~~(value &&& 0x7F) :=
  ⟨_, rfl, (getD_setNth ..).trans (if_pos ⟨rfl, inside⟩)⟩

theorem counter_written (inside : die < s.dies.length) (value : Word64) (i : Nat) :
    ∃ t, exec (.registerWrite die (.counter i) value) s = .next t ∧
      (SMap.get (t.die die).counters DepCounter.free (i % 65536)).count = value.setWidth 16 ∧
      (SMap.get (t.die die).counters DepCounter.free (i % 65536)).reload = (value >>> 16).setWidth 16 ∧
      (SMap.get (t.die die).counters DepCounter.free (i % 65536)).poison = false := by
  refine ⟨_, rfl, ?_⟩
  rw [State.onCounter_get inside]
  refine ⟨?_, ?_, rfl⟩
  all_goals
    apply BitVec.eq_of_toNat_eq
    simp [Nat.shiftRight_eq_div_pow]

end

/-! ## Host accesses (R20, R128, R384) -/

section
variable {s : State}

/-- Bytes within a granule are one run. -/
theorem granuleRuns_one {a n : Nat} (within : a % 256 + n ≤ 256) (some_ : 0 < n) : granuleRuns (n + 1) a n = [(a, n)] := by
  obtain ⟨m, rfl⟩ : ∃ m, n = m + 1 := ⟨n - 1, by omega⟩
  have all : min (m + 1) (256 - a % 256) = m + 1 := by omega
  simp [granuleRuns, all]

theorem State.hostLoad_one (session : Option Nat) (a n : Nat) : s.hostLoad session [(a, n)] =
    match s.hostPlace session a .read with
    | .error c => .error c
    | .ok (u, pa) => .ok (u.hostHolds pa, Memory.bytes u.mem pa n, !(u.die (homeDie pa)).live || u.memPoisoned pa n) := by
  simp only [State.hostLoad]
  cases s.hostPlace session a .read with
  | error c => rfl
  | ok x => simp

theorem State.hostStore_one (session : Option Nat) (a : Nat) (bs : List Byte) : s.hostStore session [(a, bs.length)] bs =
    match s.hostPlace session a .write with
    | .error c => (s, some c)
    | .ok (u, pa) => ((u.performWrite pa bs).hostHolds pa, none) := by
  simp only [State.hostStore, List.take_length] <;> cases s.hostPlace session a .write <;> rfl

theorem exec_hostMemoryAccess (h : HostAccess) : exec (.hostMemoryAccess h) s = execHostMemoryAccess h s := rfl

theorem exec_hostLoad {session : Option Nat} {a n : Nat} (within : a % 256 + n ≤ 256) (some_ : 0 < n) :
    exec (.hostMemoryAccess (.load session a n)) s = match s.hostPlace session a .read with
      | .ok (u, pa) => .next ((u.hostHolds pa).emit (.hostData (Memory.bytes u.mem pa n) (!(u.die (homeDie pa)).live || u.memPoisoned pa n)))
      | .error c => .next (if c = notYet then s.post (.hostMemoryAccess (.load session a n)) else s.emit .hostError) := by
  rw [exec_hostMemoryAccess, execHostMemoryAccess, granuleRuns_one within some_, State.hostLoad_one]
  cases s.hostPlace session a .read <;> rfl

theorem hostPlace_physical {a : Nat} (kind : Access) :
    s.hostPlace none a kind = if inModule a then .ok (s.rekey (tableLoc 0 a), a) else .error 0x05 := rfl

theorem hostLoad_physical {a n : Nat} (within : a % 256 + n ≤ 256) (some_ : 0 < n) :
    let u := s.rekey (tableLoc 0 a)
    (inModule a = true → exec (.hostMemoryAccess (.load none a n)) s = .next ((u.hostHolds a).emit (.hostData (Memory.bytes u.mem a n)
      (!(u.die (homeDie a)).live || u.memPoisoned a n)))) ∧
    (inModule a = false → exec (.hostMemoryAccess (.load none a n)) s = .next (s.emit .hostError)) := by
  rw [exec_hostLoad within some_, hostPlace_physical]
  constructor <;> intro lies <;> rw [lies] <;> rfl

theorem hostLoad_session {i a n : Nat} (within : a % 256 + n ≤ 256) (some_ : 0 < n) :
    exec (.hostMemoryAccess (.load (some i) a n)) s = match s.translate (deviceAgent i (s.home i)) a .read with
      | .ok (u, l) => .next ((u.hostHolds l.pa).emit (.hostData (Memory.bytes u.mem l.pa n) (!(u.die (homeDie l.pa)).live || u.memPoisoned l.pa n)))
      | .error c => .next (if c = notYet then s.post (.hostMemoryAccess (.load (some i) a n)) else s.emit .hostError) := by
  rw [exec_hostLoad within some_, State.hostPlace]
  cases s.translate (deviceAgent i (s.home i)) a .read <;> rfl

theorem exec_hostStore {session : Option Nat} {a : Nat} {bs : List Byte} (within : a % 256 + bs.length ≤ 256) (some_ : bs ≠ []) :
    exec (.hostMemoryAccess (.store session a bs)) s =
      let bound (t : State) : State := if session.isNone then
          (s.contextsWritten 112 122 a bs.length).foldl State.heapBound ((s.statesWritten a bs.length).foldl State.stateWritten t)
        else t
      match s.hostPlace session a .write with
      | .ok (u, pa) => .next (bound ((u.performWrite pa bs).hostHolds pa))
      | .error c => .next (if c = notYet then s.post (.hostMemoryAccess (.store session a bs)) else (bound s).emit .hostError) := by
  rw [exec_hostMemoryAccess, execHostMemoryAccess]
  dsimp only
  rw [granuleRuns_one within (List.length_pos_iff.2 some_), State.hostStore_one]
  cases s.hostPlace session a .write with
  | ok x => rfl
  | error c =>
    dsimp only
    by_cases later : c = notYet
    · rw [later, if_pos rfl, if_pos rfl]
    · rw [if_neg (fun same => later (Option.some.inj same)), if_neg later]
      rfl

theorem hostStore_session {i a : Nat} {bs : List Byte} (within : a % 256 + bs.length ≤ 256) (some_ : bs ≠ []) :
    exec (.hostMemoryAccess (.store (some i) a bs)) s = match s.translate (deviceAgent i (s.home i)) a .write with
      | .ok (u, l) => .next ((u.performWrite l.pa bs).hostHolds l.pa)
      | .error c => .next (if c = notYet then s.post (.hostMemoryAccess (.store (some i) a bs)) else s.emit .hostError) := by
  rw [exec_hostStore within some_, State.hostPlace]
  cases s.translate (deviceAgent i (s.home i)) a .write <;> rfl

theorem hostStore_physical {a : Nat} {bs : List Byte} (within : a % 256 + bs.length ≤ 256) (some_ : bs ≠ [])
    (states : s.statesWritten a bs.length = []) (heaps : s.contextsWritten 112 122 a bs.length = []) :
    let u := s.rekey (tableLoc 0 a)
    (inModule a = true → exec (.hostMemoryAccess (.store none a bs)) s = .next ((u.performWrite a bs).hostHolds a)) ∧
    (inModule a = false → exec (.hostMemoryAccess (.store none a bs)) s = .next (s.emit .hostError)) := by
  rw [exec_hostStore within some_, hostPlace_physical, states, heaps]
  constructor <;> intro lies <;> rw [lies] <;> rfl

end

/-- Settles O49: an error is counted with `countedUe` beside what it strikes, whose change leaves ECCSTAT as it was; a lost packet's replies and
progress leave the networks (`State.dropPacket_ledgers`); and a host access within a granule is one run. -/
theorem errorsAndAccesses : Obligations.ErrorsAndAccesses := by
  unfold Obligations.ErrorsAndAccesses
  intro s die every named
  have inside : die < s.dies.length := every ▸ named
  refine ⟨?_, rfl, fun p => ⟨_, rfl, State.parityError_kept p⟩, fun _ _ => rfl, fun core pa => ⟨_, rfl, State.parityError_l1 core pa⟩,
    fun core => ⟨_, rfl, State.stickCore_stuck core⟩, fun f lane reg there => laneRegister_struck inside there lane reg,
    fun f reg there kept => scalarRegister_struck inside there kept,
    fun h word there => ⟨scratchpad_struck inside there word, operandBuffer_struck inside there word⟩, matrix_struck inside,
    fun pa => ⟨l2_struck_absent, fun l there => l2_struck inside there, remoteCache_struck inside pa, lpddr_struck inside pa, rfl⟩, ?_,
    fun i counter => counter_struck inside counter, directory_struck inside, retention_struck inside,
    fun sector => ⟨rfl, scrub_struck inside sector⟩,
    fun value => ⟨sessbase_written every value, cpool_written inside value, snapat_written inside value, tlbinv0_written inside value,
      dirstat0_written inside value, fun n within => padrep_written within value, counter_written inside value⟩,
    fun a n within some_ => hostLoad_physical within some_, fun i a n within some_ => hostLoad_session within some_,
    fun i a bs within some_ => hostStore_session within some_, fun a bs within some_ states heaps => hostStore_physical within some_ states heaps⟩
  · intro src counts
    cases src with
    | parity => exact absurd rfl counts
    | laneRegister | scalarRegister | scratchpad | matrix | l2 | remoteCache | lpddr | fabric | directory | retention => rfl
  · intro id
    obtain ⟨t, struck, due, source, early⟩ := fabric_struck inside id
    exact ⟨t, struck, due, source, fun i n within => early i n (every ▸ within)⟩

end Sys2Proof.Machine

/-!
PROOFS. The partition commit and the resets of shepherds as statement O52 says (R99, R399, R403, R485, R486).
-/
namespace Sys2Proof.Machine

/-! ## Journals and staged commits -/

section
variable {s t : State} {i die : Nat} {seq : BitVec 32} {c : LayoutChange}

/-- A shepherd's journal has come to a state of a commit's number. -/
def State.Ready (s : State) (i seq n : Nat) : Prop := (s.shep i).journal.seq.toNat = seq ∧ n ≤ (s.shep i).journal.state.toNat

theorem State.journalled_iff {n : Nat} : s.journalled i seq n = true ↔ s.Ready i seq.toNat n := by
  simp only [State.journalled, State.Ready, Bool.and_eq_true, decide_eq_true_eq, BitVec.toNat_inj]

theorem State.journalled_congr {n : Nat} (same : (t.shep i).journal = (s.shep i).journal) : t.journalled i seq n = s.journalled i seq n := by
  unfold State.journalled
  rw [same]

theorem State.inProgress_unstaged (unstaged : ∀ i ∈ s.liveDies, (s.shep i).staged = none) : s.inProgress = none := by
  have nothing : (s.liveDies.filterMap fun d => (s.shep d).staged) = [] := List.filterMap_eq_nil_iff.2 unstaged
  rw [State.inProgress, nothing]; rfl

theorem State.shepRuns_eq (m : (s.shep i).mode = .running) : s.shepRuns i = true := decide_eq_true m

theorem State.mem_liveDies_inside (every : s.dies.length = 4) (live : i ∈ s.liveDies) : i < s.dies.length := every ▸ (State.mem_liveDies.1 live).1

/-- Shepherds, one after another, come to have a commit in progress. -/
def State.stageAll (s : State) (l : List Nat) (x : Option (BitVec 32 × Option LayoutChange)) : State :=
  l.foldl (fun s d => s.onShep d fun h => { h with staged := x }) s

section
variable {l : List Nat} {x : Option (BitVec 32 × Option LayoutChange)}

theorem State.stageAll_length : (s.stageAll l x).dies.length = s.dies.length :=
  foldl_kept (fun u : State => u.dies.length) fun _ _ => State.length_dies_onShep ..

theorem State.stageAll_staged (inside : i < s.dies.length) (named : i ∈ l ∨ (s.shep i).staged = x) : ((s.stageAll l x).shep i).staged = x := by
  induction l generalizing s with
  | nil => exact named.resolve_left List.not_mem_nil
  | cons d l ih =>
    refine ih (by rwa [State.length_dies_onShep]) ?_
    by_cases same : i = d
    · exact .inr (same ▸ congrArg Shepherd.staged (State.onShep_shep (same ▸ inside)))
    · rw [State.onShep_shep_ne same]
      exact named.imp_left fun h => (List.mem_cons.1 h).resolve_left same

theorem State.stageAll_journal (i : Nat) : ((s.stageAll l x).shep i).journal = (s.shep i).journal :=
  foldl_kept (fun u : State => (u.shep i).journal) fun _ _ => State.onShep_field Shepherd.journal fun _ => rfl

theorem State.onShep_liveDies (d : Nat) (g : Shepherd → Shepherd) : (s.onShep d g).liveDies = s.liveDies :=
  State.liveDies_congr fun _ => State.onShep_offShep Die.live fun _ _ => rfl

theorem State.stageAll_liveDies : (s.stageAll l x).liveDies = s.liveDies := foldl_kept State.liveDies fun _ _ => State.onShep_liveDies ..

theorem State.stageAll_agenda : (s.stageAll l x).agenda = s.agenda := foldl_kept State.agenda fun _ _ => rfl

theorem State.stageAll_mem : (s.stageAll l x).mem = s.mem := foldl_kept State.mem fun _ _ => rfl

end

/-- One event falls due for each element of a list. -/
theorem State.mem_foldl_due {α : Type} {l : List α} {f : α → Event} {e : Event} :
    e ∈ (l.foldl (fun s x => s.postOnce (f x)) s).agenda ↔ e ∈ s.agenda ∨ ∃ x ∈ l, f x = e := by
  rw [show l.foldl (fun s x => s.postOnce (f x)) s = (l.map f).foldl State.postOnce s from List.foldl_map.symm, State.mem_foldl_postOnce,
    List.mem_map]

theorem State.foldl_due_dies {α : Type} {l : List α} {f : α → Event} : (l.foldl (fun s x => s.postOnce (f x)) s).dies = s.dies :=
  foldl_kept State.dies fun _ _ => State.postOnce_dies ..

/-! ## A commit begins (R403) -/

/-- The number under which the next commit begins. -/
def State.nextSeq (s : State) : BitVec 32 := BitVec.ofNat 32 ((s.liveDies.map fun d => (s.shep d).journal.seq.toNat).foldl max 0 + 1)

theorem State.stage_eq (c : Option LayoutChange) : s.stage c =
    (s.stageAll s.liveDies (some (s.nextSeq, c))).liveDies.foldl (fun s d => s.postOnce (.prepareReport d)) (s.stageAll s.liveDies (some (s.nextSeq, c))) := rfl

theorem State.stage_staged {c : Option LayoutChange} (every : s.dies.length = 4) (live : i ∈ s.liveDies) :
    ((s.stage c).shep i).staged = some (s.nextSeq, c) ∧ .prepareReport i ∈ (s.stage c).agenda := by
  rw [State.stage_eq, State.shep_congr State.foldl_due_dies, State.mem_foldl_due, State.stageAll_liveDies]
  exact ⟨State.stageAll_staged (State.mem_liveDies_inside every live) (.inl live), .inr ⟨i, live, rfl⟩⟩

theorem le_foldl_max {l : List Nat} {n m : Nat} (below : n ≤ m ∨ n ∈ l) : n ≤ l.foldl max m := by
  induction l generalizing m with
  | nil => exact below.resolve_right List.not_mem_nil
  | cons x l ih =>
    refine ih ?_
    rcases below with below | below
    · exact .inl (by omega)
    · rcases List.mem_cons.1 below with rfl | later
      · exact .inl (Nat.le_max_right ..)
      · exact .inr later

theorem foldl_max_lt {l : List Nat} {n m : Nat} (start : m < n) (all : ∀ x ∈ l, x < n) : l.foldl max m < n := by
  induction l generalizing m with
  | nil => exact start
  | cons x l ih =>
    exact ih (by have := all x List.mem_cons_self; omega) fun y hy => all y (List.mem_cons_of_mem _ hy)

theorem State.nextSeq_above (fits : ∀ i ∈ s.liveDies, (s.shep i).journal.seq.toNat < 2 ^ 32 - 1) (live : i ∈ s.liveDies) :
    (s.shep i).journal.seq.toNat < s.nextSeq.toNat := by
  have below : (s.shep i).journal.seq.toNat ≤ _ := le_foldl_max (m := 0) (.inr (List.mem_map_of_mem (f := fun d => (s.shep d).journal.seq.toNat) live))
  have fitting : (s.liveDies.map fun d => (s.shep d).journal.seq.toNat).foldl max 0 < 2 ^ 32 - 1 := foldl_max_lt (by decide) fun x hx => by
    obtain ⟨d, there, rfl⟩ := List.mem_map.1 hx
    exact fits d there
  rw [State.nextSeq, BitVec.toNat_ofNat]
  omega

theorem exec_partitionCommitRequest (runs : (s.shep s.coordinator).mode = .running) (unstaged : ∀ i ∈ s.liveDies, (s.shep i).staged = none) :
    exec (.partitionCommitRequest c) s = if s.changeOk c then .next (s.stage (some c)) else .next (s.emit .commitRefused) := by
  show execPartitionCommitRequest c s = _
  unfold execPartitionCommitRequest
  dsimp only
  rw [State.shepRuns_eq runs, State.inProgress_unstaged unstaged]
  cases s.changeOk c <;> rfl

theorem exec_partitionCommitRequest_waits (busy : (s.shep s.coordinator).mode ≠ .running ∨ s.inProgress.isSome = true) :
    exec (.partitionCommitRequest c) s = .next (s.post (.partitionCommitRequest c)) := by
  show execPartitionCommitRequest c s = _
  unfold execPartitionCommitRequest
  dsimp only
  rw [if_pos]
  rcases busy with restarts | busy
  · simp [State.shepRuns, restarts]
  · simp [busy]

theorem State.changeOk_unquiesced {n : Nat} (named : n ∈ c.paddocks.map (·.1)) (open_ : (s.paddock n).quiesced = false) : s.changeOk c = false := by
  have touched : n ∈ changed c := List.mem_eraseDups.2 (List.mem_append_left _ named)
  have refused : ((changed c).all fun n => n < 8 && (s.paddock n).quiesced) = false :=
    List.all_eq_false.2 ⟨n, touched, by simp [open_]⟩
  simp [State.changeOk, refused]

theorem State.changeOk_reserved {n : Nat} {d : PaddockDesc} (named : (n, d) ∈ c.paddocks)
    (bad : d.reserved ≠ 0 ∨ (d.lock = true ∧ ratioOk d.lnum.toNat d.lden.toNat = false)) : s.changeOk c = false := by
  have value : descOk d = false := by
    unfold descOk
    rcases bad with bad | ⟨locked, bad⟩
    · rw [decide_eq_false bad]
      simp only [Bool.false_and]
    · rw [locked, bad]
      simp only [Bool.not_true, Bool.or_false, Bool.and_false]
  have refused : (c.paddocks.all fun x => descOk x.2) = false := List.all_eq_false.2 ⟨_, named, by simp [value]⟩
  simp [State.changeOk, refused]

/-! ## Shepherds prepare (R403) -/

/-- A shepherd's journal holds a record. -/
def State.recorded (s : State) (die : Nat) (j : Journal) : State := s.onShep die fun h => { h with journal := j }

theorem State.recorded_journal {j : Journal} (inside : die < s.dies.length) : ((s.recorded die j).shep die).journal = j :=
  congrArg Shepherd.journal (State.onShep_shep inside)

theorem State.recorded_journal_ne {j : Journal} (other : i ≠ die) : ((s.recorded die j).shep i).journal = (s.shep i).journal :=
  congrArg Shepherd.journal (State.onShep_shep_ne other)

theorem State.recorded_liveDies {j : Journal} : (s.recorded die j).liveDies = s.liveDies := State.onShep_liveDies ..

theorem State.recorded_shepRuns {j : Journal} : (s.recorded die j).shepRuns i = s.shepRuns i :=
  congrArg (fun m => decide (m = ShepMode.running)) (State.onShep_field Shepherd.mode fun _ => rfl)

/-- With a record of a commit at a die, all live dies have it once the others do. -/
theorem State.recorded_all {j : Journal} {n : Nat} (inside : die < s.dies.length) (now : j.seq = seq ∧ n ≤ j.state.toNat)
    (others : ∀ i ∈ s.liveDies, i ≠ die → s.Ready i seq.toNat n) :
    ((s.recorded die j).liveDies.all fun d => (s.recorded die j).journalled d seq n) = true := by
  rw [State.recorded_liveDies, List.all_eq_true]
  intro i live
  by_cases same : i = die
  · rw [State.journalled_iff, State.Ready, same, State.recorded_journal inside, now.1]
    exact ⟨rfl, now.2⟩
  · rw [State.journalled_congr (State.recorded_journal_ne same), State.journalled_iff]
    exact others i live same

theorem State.recorded_not_all {j : Journal} {n : Nat} (late : ∃ i ∈ s.liveDies, i ≠ die ∧ ¬ s.Ready i seq.toNat n) :
    ((s.recorded die j).liveDies.all fun d => (s.recorded die j).journalled d seq n) = false := by
  obtain ⟨i, live, other, late⟩ := late
  rw [State.recorded_liveDies, List.all_eq_false]
  refine ⟨i, live, ?_⟩
  rwa [State.journalled_congr (State.recorded_journal_ne other), State.journalled_iff]

/-- The record of a layout change that does not touch the commons map. -/
def preparedRecord (seq : BitVec 32) (c : LayoutChange) : Journal := ⟨seq, 1, padmask c, false⟩

/-- The commit that is staged at a live die. -/
theorem State.staged_live {x : BitVec 32 × Option LayoutChange} (live : die ∈ s.liveDies) (staged : (s.shep die).staged = some x) :
    (if (s.die die).live then (s.shep die).staged else none) = some x := by
  rw [(State.mem_liveDies.1 live).2, if_pos rfl, staged]

/-- A record has been written: with the last of a layout change the coordinator commits. -/
def State.reported (t : State) (seq : BitVec 32) : Host.Outcome State Fault Refusal :=
  if !(t.liveDies.all (fun d => t.journalled d seq 1) && t.shepRuns t.coordinator) then .next t else .next t.commit

theorem exec_prepareReport (live : die ∈ s.liveDies) (staged : (s.shep die).staged = some (seq, some c)) (runs : (s.shep die).mode = .running)
    (first : ¬ s.Ready die seq.toNat 1) (map : c.mapc = none) :
    exec (.prepareReport die) s = (s.recorded die (preparedRecord seq c)).reported seq := by
  have late : s.journalled die seq 1 = false := Bool.eq_false_iff.2 fun there => first (State.journalled_iff.1 there)
  show execPrepareReport die s = _
  unfold execPrepareReport
  rw [State.staged_live live staged]
  simp only [State.shepRuns_eq runs, late, map, Option.any_some, Option.isSome_none, Bool.not_true, Bool.false_eq_true, if_false, Bool.false_and,
    Option.map_some, Option.getD_some, Option.isSome_some, if_true]
  rfl

theorem State.recorded_coordinator {j : Journal} : (s.recorded die j).coordinator = s.coordinator :=
  congrArg (fun l => List.headD l 0) State.recorded_liveDies

theorem State.commit_eq : t.commit = t.liveDies.foldl (fun s d => s.postOnce (.commitApply d))
    (t.onShep t.coordinator fun h => { h with journal := { h.journal with state := 2 } }) := by
  rw [← State.onShep_liveDies (s := t) t.coordinator fun h => { h with journal := { h.journal with state := 2 } }]
  rfl

theorem State.commit_shep (i : Nat) : t.commit.shep i =
    (t.onShep t.coordinator fun h => { h with journal := { h.journal with state := 2 } }).shep i := by
  rw [State.commit_eq, State.shep_congr State.foldl_due_dies]

/-- The fields of a record beside its state stay as the coordinator commits. -/
theorem State.commit_record (i : Nat) : (t.commit.shep i).journal.seq = (t.shep i).journal.seq ∧
    (t.commit.shep i).journal.padmask = (t.shep i).journal.padmask ∧ (t.commit.shep i).journal.commons = (t.shep i).journal.commons := by
  rw [State.commit_shep]
  exact ⟨State.onShep_field (fun h => h.journal.seq) fun _ => rfl, State.onShep_field (fun h => h.journal.padmask) fun _ => rfl,
    State.onShep_field (fun h => h.journal.commons) fun _ => rfl⟩

theorem prepareReport_recorded (every : s.dies.length = 4) (live : die ∈ s.liveDies) (staged : (s.shep die).staged = some (seq, some c))
    (runs : (s.shep die).mode = .running) (first : ¬ s.Ready die seq.toNat 1) (map : c.mapc = none) :
    ∃ t, exec (.prepareReport die) s = .next t ∧
      (t.shep die).journal.seq = seq ∧ (t.shep die).journal.padmask = padmask c ∧ (t.shep die).journal.commons = false ∧
      ((∃ i ∈ s.liveDies, i ≠ die ∧ ¬ s.Ready i seq.toNat 1) ∨ (s.shep s.coordinator).mode ≠ .running →
        (t.shep die).journal.state = 1 ∧ t.agenda = s.agenda) ∧
      ((∀ i ∈ s.liveDies, i ≠ die → s.Ready i seq.toNat 1) → (s.shep s.coordinator).mode = .running →
        (t.shep s.coordinator).journal.state = 2 ∧ ∀ i ∈ s.liveDies, .commitApply i ∈ t.agenda) := by
  have inside := State.mem_liveDies_inside every live
  have record : ((s.recorded die (preparedRecord seq c)).shep die).journal = preparedRecord seq c := State.recorded_journal inside
  rw [exec_prepareReport live staged runs first map]
  unfold State.reported
  rw [State.recorded_coordinator, State.recorded_shepRuns]
  by_cases last : (∀ i ∈ s.liveDies, i ≠ die → s.Ready i seq.toNat 1) ∧ (s.shep s.coordinator).mode = .running
  · obtain ⟨others, running⟩ := last
    rw [State.recorded_all (seq := seq) (j := preparedRecord seq c) (n := 1) inside ⟨rfl, Nat.le_refl 1⟩ others, State.shepRuns_eq running]
    refine ⟨_, rfl, ?_⟩
    obtain ⟨number, mask, commons⟩ := State.commit_record (t := s.recorded die (preparedRecord seq c)) die
    rw [number, mask, commons, record]
    refine ⟨rfl, rfl, rfl, fun early => ?_, fun _ _ => ⟨?_, fun i there => ?_⟩⟩
    · rcases early with ⟨i, there, other, late⟩ | stopped
      · exact absurd (others i there other) late
      · exact absurd running stopped
    · have lead : s.coordinator < s.dies.length := by
        have head : s.coordinator ∈ s.liveDies := by
          unfold State.coordinator
          cases all : s.liveDies with
          | nil => rw [all] at live; exact absurd live List.not_mem_nil
          | cons d l => exact List.mem_cons_self
        exact State.mem_liveDies_inside every head
      rw [State.commit_shep, State.recorded_coordinator, State.onShep_shep (by rwa [State.recorded, State.length_dies_onShep])]
    · rw [State.commit_eq, State.mem_foldl_due, State.recorded_liveDies]
      exact .inr ⟨i, there, rfl⟩
  · have early : ((s.recorded die (preparedRecord seq c)).liveDies.all (fun d => (s.recorded die (preparedRecord seq c)).journalled d seq 1) &&
        s.shepRuns s.coordinator) = false := by
      by_cases running : (s.shep s.coordinator).mode = .running
      · rw [State.recorded_not_all (by simpa [running] using last), Bool.false_and]
      · rw [show s.shepRuns s.coordinator = false from decide_eq_false running, Bool.and_false]
    rw [early]
    refine ⟨_, rfl, ?_⟩
    rw [record]
    exact ⟨rfl, rfl, rfl, fun _ => ⟨rfl, rfl⟩, fun others running => absurd ⟨others, running⟩ last⟩

/-- A change of the commons map waits for the commons fills on a die, with the gate closed. -/
theorem prepareReport_gated (every : s.dies.length = 4) (live : die ∈ s.liveDies) (staged : (s.shep die).staged = some (seq, some c))
    (runs : (s.shep die).mode = .running) (first : ¬ s.Ready die seq.toNat 1) (map : c.mapc ≠ none) (fills : s.commonsFill die = true) :
    ∃ t, exec (.prepareReport die) s = .next t ∧ (t.die die).gateClosed = true ∧ .prepareReport die ∈ t.agenda := by
  have late : s.journalled die seq 1 = false := Bool.eq_false_iff.2 fun there => first (State.journalled_iff.1 there)
  have gate : c.mapc.isSome = true := Option.isSome_iff_ne_none.2 map
  have waits : exec (.prepareReport die) s = .next ((s.onDie die fun d => { d with gateClosed := true }).post (.prepareReport die)) := by
    show execPrepareReport die s = _
    unfold execPrepareReport
    rw [State.staged_live live staged]
    simp only [State.shepRuns_eq runs, late, gate, Option.any_some, Bool.not_true, Bool.false_eq_true, if_false, Bool.true_and, if_true]
    exact if_pos fills
  refine ⟨_, waits, ?_, State.mem_post.2 (.inr rfl)⟩
  rw [State.post_die, State.onDie_die (State.mem_liveDies_inside every live)]

/-! ## Shepherds apply (R99, R403) -/

theorem exec_commitApply_unrecorded {x : Option LayoutChange} (live : die ∈ s.liveDies) (staged : (s.shep die).staged = some (seq, x))
    (runs : (s.shep die).mode = .running) (none_ : ∀ i ∈ s.liveDies, ¬ s.Ready i seq.toNat 2) : exec (.commitApply die) s = .next s := by
  have absent : (s.liveDies.any fun d => s.journalled d seq 2) = false :=
    List.any_eq_false.2 fun i there => fun held => none_ i there (State.journalled_iff.1 held)
  show execCommitApply die s = _
  unfold execCommitApply
  rw [State.staged_live live staged]
  simp only [State.shepRuns_eq runs, absent, Bool.not_true, Bool.not_false, Bool.false_eq_true, if_false, if_true]

/-- The record of a layout change that has been applied. -/
def appliedRecord (seq : BitVec 32) (c : LayoutChange) : Journal := ⟨seq, 3, padmask c, c.mapc.isSome⟩

/-- A commit has been applied: with the last record it is done. -/
def State.appliedAt (t : State) (seq : BitVec 32) : State := if t.liveDies.all fun d => t.journalled d seq 3 then t.postOnce .commitDone else t

theorem exec_commitApply (live : die ∈ s.liveDies) (staged : (s.shep die).staged = some (seq, some c)) (runs : (s.shep die).mode = .running)
    (record : ∃ i ∈ s.liveDies, s.Ready i seq.toNat 2) :
    exec (.commitApply die) s = .next (((s.applyChange die c).recorded die (appliedRecord seq c)).appliedAt seq) := by
  obtain ⟨i, there, held⟩ := record
  have present : (s.liveDies.any fun d => s.journalled d seq 2) = true := List.any_eq_true.2 ⟨i, there, State.journalled_iff.2 held⟩
  show execCommitApply die s = _
  unfold execCommitApply
  rw [State.staged_live live staged]
  simp only [State.shepRuns_eq runs, present, Bool.not_true, Bool.false_eq_true, if_false]
  rfl

theorem State.appliedAt_dies : (t.appliedAt seq).dies = t.dies := by
  unfold State.appliedAt
  split
  · exact State.postOnce_dies ..
  · rfl

theorem State.appliedAt_paddocks : (t.appliedAt seq).paddocks = t.paddocks := by
  unfold State.appliedAt
  split
  · unfold State.postOnce
    split <;> rfl
  · rfl

/-- Lines are dropped, and the dies differ in those alone. -/
theorem State.dropLines_kept (out : Line → Bool) : (s.dropLines die out).dies.length = s.dies.length ∧
    ∀ {α : Type} (p : Die → α), (∀ d l r, p { d with l2 := l, rdc := r } = p d) → ∀ i, p ((s.dropLines die out).die i) = p (s.die i) := by
  have l1 (u : State) (gone : List Line) : (gone.foldl (fun s l => s.dropL1 die l.pa l.presence) u).dies = u.dies :=
    foldl_kept State.dies fun _ _ => rfl
  refine ⟨(State.length_dies_onDie ..).trans (congrArg List.length (l1 ..)), fun p kept i => ?_⟩
  exact (State.onDie_field p fun _ => kept ..).trans (congrArg (fun d => p (d i)) (State.die_congr (l1 ..)))

theorem State.dropLines_paddocks (out : Line → Bool) : (s.dropLines die out).paddocks = s.paddocks :=
  foldl_kept State.paddocks fun _ _ => rfl

/-- The state in which a die has new maps for its paddocks. -/
def State.remap (s : State) (die : Nat) (maps : List (Nat × MapReg)) : State :=
  maps.foldl (fun s (n, m) => s.onDie die fun d => { d with maps := setNth d.maps n m }) s

/-- The state in which a die has a new map for the commons. -/
def State.remapCommons (s : State) (die : Nat) (mapc : Option MapReg) : State :=
  match mapc with
  | some m => s.onDie die fun d => { d with mapc := m, gateClosed := false }
  | none => s

/-- The state in which paddocks have descriptors to come. -/
def State.redescribe (s : State) (paddocks : List (Nat × PaddockDesc)) : State :=
  paddocks.foldl (fun s (n, d) => s.setPaddock n { s.paddock n with next := some d }) s

theorem State.applyChange_eq : ∃ out, s.applyChange die c = (((s.dropLines die out).remap die c.maps).remapCommons die c.mapc).redescribe c.paddocks :=
  ⟨_, rfl⟩

theorem State.remap_length (maps : List (Nat × MapReg)) : (s.remap die maps).dies.length = s.dies.length :=
  foldl_kept (fun u : State => u.dies.length) fun _ _ => State.length_dies_onDie ..

theorem State.remap_field {α : Type} (p : Die → α) (hp : ∀ d m, p { d with maps := m } = p d) (maps : List (Nat × MapReg)) (i : Nat) :
    p ((s.remap die maps).die i) = p (s.die i) :=
  foldl_kept (fun u : State => p (u.die i)) fun _ _ => State.onDie_field p fun _ => hp ..

theorem State.remap_paddocks (maps : List (Nat × MapReg)) : (s.remap die maps).paddocks = s.paddocks := foldl_kept State.paddocks fun _ _ => rfl

theorem State.remapCommons_length (mapc : Option MapReg) : (s.remapCommons die mapc).dies.length = s.dies.length := by
  cases mapc with
  | none => rfl
  | some m => exact State.length_dies_onDie ..

theorem State.remapCommons_field {α : Type} (p : Die → α) (hp : ∀ d m g, p { d with mapc := m, gateClosed := g } = p d) (mapc : Option MapReg) (i : Nat) :
    p ((s.remapCommons die mapc).die i) = p (s.die i) := by
  cases mapc with
  | none => rfl
  | some m => exact State.onDie_field p fun _ => hp ..

theorem State.remapCommons_paddocks (mapc : Option MapReg) : (s.remapCommons die mapc).paddocks = s.paddocks := by cases mapc <;> rfl

theorem State.redescribe_dies (paddocks : List (Nat × PaddockDesc)) : (s.redescribe paddocks).dies = s.dies := foldl_kept State.dies fun _ _ => rfl

theorem State.applyChange_length : (s.applyChange die c).dies.length = s.dies.length := by
  obtain ⟨out, applied⟩ := State.applyChange_eq (s := s) (die := die) (c := c)
  rw [applied, State.redescribe_dies, State.remapCommons_length, State.remap_length, (State.dropLines_kept out).1]

/-- What a change of the layout leaves of a die. -/
theorem State.applyChange_field {α : Type} (p : Die → α) (lines : ∀ d l r, p { d with l2 := l, rdc := r } = p d)
    (maps : ∀ d m, p { d with maps := m } = p d) (commons : ∀ d m g, p { d with mapc := m, gateClosed := g } = p d) (i : Nat) :
    p ((s.applyChange die c).die i) = p (s.die i) := by
  obtain ⟨out, applied⟩ := State.applyChange_eq (s := s) (die := die) (c := c)
  rw [applied, State.die_congr (State.redescribe_dies _), State.remapCommons_field p commons, State.remap_field p maps, (State.dropLines_kept out).2 p lines]

theorem State.applyChange_maps {n : Nat} {m : MapReg} (inside : die < s.dies.length) (one : c.maps = [(n, m)]) (there : n < (s.die die).maps.length) :
    ((s.applyChange die c).die die).maps.getD n m = m := by
  obtain ⟨out, applied⟩ := State.applyChange_eq (s := s) (die := die) (c := c)
  obtain ⟨length, kept⟩ := State.dropLines_kept (s := s) (die := die) out
  rw [applied, State.die_congr (State.redescribe_dies _), State.remapCommons_field Die.maps (fun _ _ _ => rfl), one]
  show (((s.dropLines die out).onDie die fun d => { d with maps := setNth d.maps n m }).die die).maps.getD n m = m
  rw [State.onDie_die (by rwa [length])]
  exact (getD_setNth ..).trans (if_pos ⟨rfl, by rwa [kept Die.maps fun _ _ _ => rfl]⟩)

theorem State.applyChange_mapc {m : MapReg} (inside : die < s.dies.length) (one : c.mapc = some m) :
    ((s.applyChange die c).die die).mapc = m ∧ ((s.applyChange die c).die die).gateClosed = false := by
  obtain ⟨out, applied⟩ := State.applyChange_eq (s := s) (die := die) (c := c)
  rw [applied, State.die_congr (State.redescribe_dies _), one]
  show ((((s.dropLines die out).remap die c.maps).onDie die fun d => { d with mapc := m, gateClosed := false }).die die).mapc = m ∧ _
  unfold State.remapCommons
  dsimp only
  rw [State.onDie_die (by rwa [State.remap_length, (State.dropLines_kept out).1])]
  exact ⟨rfl, rfl⟩

theorem State.applyChange_next {n : Nat} {d : PaddockDesc} (one : c.paddocks = [(n, d)]) (there : n < s.paddocks.length) :
    ((s.applyChange die c).paddock n).next = some d := by
  obtain ⟨out, applied⟩ := State.applyChange_eq (s := s) (die := die) (c := c)
  have same : (((s.dropLines die out).remap die c.maps).remapCommons die c.mapc).paddocks = s.paddocks := by
    rw [State.remapCommons_paddocks, State.remap_paddocks, State.dropLines_paddocks]
  rw [applied, one]
  exact congrArg Paddock.next ((getD_setNth ..).trans (if_pos ⟨rfl, by rwa [same]⟩))

theorem State.ready_congr {n : Nat} {q : Nat} (same : t.shep i = s.shep i) : t.Ready i q n ↔ s.Ready i q n := by
  unfold State.Ready
  rw [same]

theorem commitApply_applied (every : s.dies.length = 4) (live : die ∈ s.liveDies) (staged : (s.shep die).staged = some (seq, some c))
    (runs : (s.shep die).mode = .running) (record : ∃ i ∈ s.liveDies, s.Ready i seq.toNat 2) :
    ∃ t, exec (.commitApply die) s = .next t ∧ (t.shep die).journal = ⟨seq, 3, padmask c, c.mapc.isSome⟩ ∧
      (∀ n m, c.maps = [(n, m)] → n < (s.die die).maps.length → (t.die die).maps.getD n m = m) ∧
      (∀ m, c.mapc = some m → (t.die die).mapc = m ∧ (t.die die).gateClosed = false) ∧
      (∀ n d, c.paddocks = [(n, d)] → n < s.paddocks.length → (t.paddock n).next = some d) ∧
      ((∀ i ∈ s.liveDies, i ≠ die → s.Ready i seq.toNat 3) → .commitDone ∈ t.agenda) := by
  have inside := State.mem_liveDies_inside every live
  have within : die < (s.applyChange die c).dies.length := by rwa [State.applyChange_length]
  have lives : (s.applyChange die c).liveDies = s.liveDies :=
    State.liveDies_congr fun i => State.applyChange_field Die.live (fun _ _ _ => rfl) (fun _ _ => rfl) (fun _ _ _ => rfl) i
  have sheps (i : Nat) : (s.applyChange die c).shep i = s.shep i :=
    State.applyChange_field Die.shepherd (fun _ _ _ => rfl) (fun _ _ => rfl) (fun _ _ _ => rfl) i
  have die_ {α : Type} (p : Die → α) (hp : ∀ x h, p { x with shepherd := h } = p x) :
      p ((((s.applyChange die c).recorded die (appliedRecord seq c)).appliedAt seq).die die) = p ((s.applyChange die c).die die) := by
    rw [State.die_congr State.appliedAt_dies]
    exact State.onShep_offShep p hp
  refine ⟨_, exec_commitApply live staged runs record, ?_, fun n m one there => ?_, fun m one => ?_, fun n d one there => ?_, fun others => ?_⟩
  · rw [State.shep_congr State.appliedAt_dies, State.recorded_journal within]
    rfl
  · rw [die_ Die.maps fun _ _ => rfl]
    exact State.applyChange_maps inside one there
  · rw [die_ Die.mapc fun _ _ => rfl, die_ Die.gateClosed fun _ _ => rfl]
    exact State.applyChange_mapc inside one
  · rw [State.paddock, State.appliedAt_paddocks]
    exact State.applyChange_next one there
  · rw [State.appliedAt, if_pos]
    · exact State.mem_postOnce.2 (.inr rfl)
    · refine State.recorded_all (seq := seq) (j := appliedRecord seq c) (n := 3) within ⟨rfl, Nat.le_refl 3⟩ fun i there other => ?_
      rw [lives] at there
      exact (State.ready_congr (sheps i)).2 (others i there other)

/-! ## A commit is done (R360, R403) -/

section
variable {n m : Nat}

theorem State.raiseRails_paddocks : s.raiseRails.paddocks = s.paddocks := foldl_kept State.paddocks fun _ _ => rfl

theorem State.raiseRails_shep (i : Nat) : s.raiseRails.shep i = s.shep i :=
  foldl_kept (fun u : State => u.shep i) fun _ _ => State.onDie_field Die.shepherd fun _ => rfl

/-- A paddock's own state as its quiescence ends. -/
def State.resumed (s : State) (n : Nat) : Paddock :=
  let p := s.paddock n
  let desc := p.next.getD p.desc
  { p with desc := desc, next := none, quiesce := false, quiesced := false, pclock := if desc.lock then [0, 0, 0, 0] else p.pclock,
           prest := if desc.lock then [0, 0, 0, 0] else p.prest, floorGiven := [], reassigned := [], resuming := true }

/-- The state in which a paddock is as its quiescence ends, and the clusters that it gives up have no holder. -/
def State.resuming (s : State) (n : Nat) : State :=
  { s with owners := ((s.paddockClusters n).filter fun c => !((s.paddock n).next.getD (s.paddock n).desc).clusters.getLsbD c).foldl SMap.erase s.owners
    }.setPaddock n (s.resumed n)

/-- Paddocks that a change of the queues' events, of the rails and of the clusters' holders leaves as it was. -/
theorem State.endQuiesce_paddocks : ∃ y : Paddock, y.quiesce = ((setNth s.paddocks n (s.resumed n)).getD n Paddock.reset).quiesce ∧
    (s.endQuiesce n).paddocks = setNth (setNth s.paddocks n (s.resumed n)) n y := by
  refine ⟨{ (s.resuming n).paddock n with boundary := ((s.resuming n).die ((s.resuming n).schedulerDie n)).cycle }, rfl, ?_⟩
  unfold State.endQuiesce
  dsimp only
  rw [State.postOnce_paddocks, State.raiseRails_paddocks, foldl_kept State.paddocks fun _ _ => State.postOnce_paddocks ..]
  rfl

theorem State.endQuiesce_length : (s.endQuiesce n).paddocks.length = s.paddocks.length := by
  obtain ⟨y, -, written⟩ := State.endQuiesce_paddocks (s := s) (n := n)
  rw [written, length_setNth, length_setNth]

theorem State.endQuiesce_quiesce (inside : m < s.paddocks.length) (ended : m = n ∨ (s.paddock m).quiesce = false) :
    ((s.endQuiesce n).paddock m).quiesce = false := by
  obtain ⟨y, keeps, written⟩ := State.endQuiesce_paddocks (s := s) (n := n)
  rw [State.paddock, written, getD_setNth, length_setNth]
  by_cases same : m = n
  · have within : n < s.paddocks.length := same ▸ inside
    rw [if_pos ⟨same, within⟩, keeps, getD_setNth, if_pos ⟨rfl, within⟩]
    rfl
  · rw [if_neg fun both => same both.1, getD_setNth, if_neg fun both => same both.1]
    exact ended.resolve_left same

theorem State.endQuiesce_shep (i : Nat) : (s.endQuiesce n).shep i = s.shep i := by
  unfold State.endQuiesce
  dsimp only
  rw [State.shep_congr (State.postOnce_dies ..), State.raiseRails_shep]
  exact State.shep_congr (foldl_kept State.dies fun _ _ => State.postOnce_dies ..) i

theorem State.endQuiesce_committed : (s.endQuiesce n).committed = s.committed := by
  unfold State.endQuiesce
  have posted (u : State) (e : Event) : (u.postOnce e).committed = u.committed := by
    unfold State.postOnce
    split <;> rfl
  have rails (u : State) : u.raiseRails.committed = u.committed := foldl_kept State.committed fun _ _ => rfl
  dsimp only
  rw [posted, rails]
  exact foldl_kept State.committed fun _ _ => posted ..

/-- Quiescence ends for each paddock of a list. -/
theorem State.endQuiesce_all {l : List Nat} (inside : m < s.paddocks.length) (ended : m ∈ l ∨ (s.paddock m).quiesce = false) :
    ((l.foldl State.endQuiesce s).paddock m).quiesce = false := by
  induction l generalizing s with
  | nil => exact ended.resolve_left List.not_mem_nil
  | cons n l ih =>
    refine ih (by rwa [State.endQuiesce_length]) ?_
    rcases ended with named | open_
    · exact (List.mem_cons.1 named).symm.imp_right fun same => State.endQuiesce_quiesce inside (.inl same)
    · exact .inr (State.endQuiesce_quiesce inside (.inr open_))

end

/-- No shepherd has a commit in progress. -/
def State.unstaged (s : State) : State := s.mapDies fun d => { d with shepherd := { d.shepherd with staged := none } }

theorem State.unstaged_staged (inside : i < s.dies.length) : (s.unstaged.shep i).staged = none := by
  simp [State.shep, State.die, State.unstaged, State.mapDies, List.getElem?_eq_getElem inside]

/-- The layout that a change commits. -/
def State.layout (s : State) (c : LayoutChange) : CommittedLayout := ⟨s.newDescs c, (s.die s.coordinator).maps, (s.die s.coordinator).mapc⟩

theorem exec_commitDone (going : s.inProgress = some (seq, some c)) (all : ∀ i ∈ s.liveDies, s.Ready i seq.toNat 3)
    (runs : (s.shep s.coordinator).mode = .running) :
    exec .commitDone s = .next ((changed c).foldl State.endQuiesce { s.unstaged with committed := s.layout c }) := by
  have done : (s.liveDies.all fun d => s.journalled d seq 3) = true := List.all_eq_true.2 fun i there => State.journalled_iff.2 (all i there)
  show execCommitDone s = _
  unfold execCommitDone
  rw [going]
  simp only [done, State.shepRuns_eq runs, Bool.not_true, Bool.false_eq_true, if_false]
  rfl

theorem commitDone_released (every : s.dies.length = 4) (going : s.inProgress = some (seq, some c)) (all : ∀ i ∈ s.liveDies, s.Ready i seq.toNat 3)
    (runs : (s.shep s.coordinator).mode = .running) :
    ∃ t, exec .commitDone s = .next t ∧ (∀ i, i < 4 → (t.shep i).staged = none) ∧ t.committed.maps = (s.die s.coordinator).maps ∧
      t.committed.mapc = (s.die s.coordinator).mapc ∧
      ∀ n, n ∈ c.paddocks.map (·.1) → n < s.paddocks.length → (t.paddock n).quiesce = false := by
  have committed : ((changed c).foldl State.endQuiesce { s.unstaged with committed := s.layout c }).committed = s.layout c :=
    foldl_kept State.committed fun _ _ => State.endQuiesce_committed
  refine ⟨_, exec_commitDone going all runs, fun i inside => ?_, congrArg CommittedLayout.maps committed,
    congrArg CommittedLayout.mapc committed, fun n named inside => ?_⟩
  · rw [foldl_kept (fun u : State => u.shep i) fun _ _ => State.endQuiesce_shep i]
    exact State.unstaged_staged (s := s) (every ▸ inside)
  · exact State.endQuiesce_all (s := { s.unstaged with committed := s.layout c }) inside
      (.inl (List.mem_eraseDups.2 (List.mem_append_left _ named)))

/-! ## A commit goes forward or back (R485) -/

/-- The state in which every live shepherd has a commit again, and those that have not applied it are to. -/
def State.rolledForward (s : State) (x : BitVec 32 × Option LayoutChange) : State :=
  (s.stageAll s.liveDies (some x)).liveDies.foldl (fun s d => if s.journalled d x.1 3 then s else s.postOnce (.commitApply d))
    (s.stageAll s.liveDies (some x))

/-- A commit that goes forward: with every record there it is done. -/
theorem State.resolveCommit_forward {x : Option LayoutChange} (going : s.inProgress = some (seq, x)) (record : ∃ i ∈ s.liveDies, s.Ready i seq.toNat 2) :
    s.resolveCommit = (s.rolledForward (seq, x)).appliedAt seq := by
  obtain ⟨i, there, held⟩ := record
  have present : (s.liveDies.any fun d => s.journalled d seq 2) = true := List.any_eq_true.2 ⟨i, there, State.journalled_iff.2 held⟩
  unfold State.resolveCommit
  rw [going]
  simp only [present, if_true]
  rfl

theorem State.resolveCommit_back {x : Option LayoutChange} (going : s.inProgress = some (seq, x)) (none_ : ∀ i ∈ s.liveDies, ¬ s.Ready i seq.toNat 2) :
    s.resolveCommit = s.rollBack seq x := by
  have absent : (s.liveDies.any fun d => s.journalled d seq 2) = false :=
    List.any_eq_false.2 fun i there => fun held => none_ i there (State.journalled_iff.1 held)
  unfold State.resolveCommit
  rw [going]
  simp only [absent, Bool.false_eq_true, if_false]

/-- The dies whose records are not there yet are told to apply. -/
theorem State.mem_foldl_apply {l : List Nat} (due : .commitApply i ∈ s.agenda ∨ i ∈ l ∧ s.journalled i seq 3 = false) :
    .commitApply i ∈ (l.foldl (fun s d => if s.journalled d seq 3 then s else s.postOnce (.commitApply d)) s).agenda := by
  induction l generalizing s with
  | nil => exact due.resolve_right fun named => List.not_mem_nil named.1
  | cons d l ih =>
    refine ih ?_
    by_cases told : s.journalled d seq 3
    all_goals dsimp only
    · rw [if_pos told]
      refine due.imp_right fun ⟨named, late⟩ => ⟨(List.mem_cons.1 named).resolve_left fun same => ?_, late⟩
      rw [same, told] at late
      exact nomatch late
    · rw [if_neg told]
      rcases due with due | ⟨named, late⟩
      · exact .inl (State.mem_postOnce.2 (.inl due))
      · rcases List.mem_cons.1 named with same | later
        · exact .inl (State.mem_postOnce.2 (.inr (same ▸ rfl)))
        · exact .inr ⟨later, by rwa [State.journalled, State.shep_congr (State.postOnce_dies ..)]⟩

theorem State.foldl_apply_dies {l : List Nat} :
    (l.foldl (fun s d => if s.journalled d seq 3 then s else s.postOnce (.commitApply d)) s).dies = s.dies :=
  foldl_kept State.dies fun u d => by
    split
    · rfl
    · exact State.postOnce_dies ..

theorem State.appliedAt_mem {e : Event} (due : e ∈ t.agenda) : e ∈ (t.appliedAt seq).agenda := by
  unfold State.appliedAt
  split
  · exact State.mem_postOnce.2 (.inl due)
  · exact due

theorem State.rolledForward_staged {x : Option LayoutChange} (every : s.dies.length = 4) (live : i ∈ s.liveDies) :
    (((s.rolledForward (seq, x)).appliedAt seq).shep i).staged = some (seq, x) ∧
      (¬ s.Ready i seq.toNat 3 → .commitApply i ∈ ((s.rolledForward (seq, x)).appliedAt seq).agenda) := by
  refine ⟨?_, fun late => State.appliedAt_mem (State.mem_foldl_apply (.inr ⟨by rwa [State.stageAll_liveDies], ?_⟩))⟩
  · rw [State.shep_congr State.appliedAt_dies, State.rolledForward, State.shep_congr State.foldl_apply_dies]
    exact State.stageAll_staged (State.mem_liveDies_inside every live) (.inl live)
  · rw [State.journalled_congr (State.stageAll_journal i)]
    exact Bool.eq_false_iff.2 fun held => late (State.journalled_iff.1 held)

/-! ### What a roll-back leaves -/

/-- A shepherd that discards a commit. -/
def Shepherd.discarded (h : Shepherd) (seq : BitVec 32) : Shepherd :=
  { h with staged := none, journal := if h.journal.seq = seq then { h.journal with state := 0 } else h.journal }

theorem State.rollBack_layout : s.rollBack seq (some c) = (changed c).foldl (fun s n => s.paddockReport n 5)
    ((s.mapDies fun d => { d with shepherd := d.shepherd.discarded seq, gateClosed := d.gateClosed && !c.mapc.isSome }).emit
      (.commitFailed seq.toNat)) := rfl

theorem State.paddockReport_kept (n bit : Nat) : (s.paddockReport n bit).paddocks = s.paddocks ∧ ∀ o ∈ s.out, o ∈ (s.paddockReport n bit).out := by
  unfold State.paddockReport
  dsimp only
  split
  · exact ⟨rfl, fun _ sent => sent⟩
  · exact ⟨rfl, fun _ sent => List.mem_append_left _ sent⟩

theorem State.foldl_paddockReport_out {o : Output} {l : List Nat} (sent : o ∈ s.out) : o ∈ (l.foldl (fun s n => s.paddockReport n 5) s).out := by
  induction l generalizing s with
  | nil => exact sent
  | cons n l ih => exact ih ((State.paddockReport_kept n 5).2 o sent)

theorem State.rollBack_shep (inside : i < s.dies.length) : (s.rollBack seq (some c)).shep i = (s.shep i).discarded seq := by
  rw [State.rollBack_layout, State.shep_congr (foldl_kept State.dies fun u n => State.paddockReport_dies u n 5)]
  simp [State.shep, State.die, State.emit, State.mapDies, List.getElem?_eq_getElem inside]

theorem rollBack_clears (every : s.dies.length = 4) :
    .commitFailed seq.toNat ∈ (s.rollBack seq (some c)).out ∧ (∀ n, ((s.rollBack seq (some c)).paddock n).quiesce = (s.paddock n).quiesce) ∧
      ∀ i ∈ s.liveDies, ((s.rollBack seq (some c)).shep i).staged = none ∧
        ((s.shep i).journal.seq = seq → ((s.rollBack seq (some c)).shep i).journal.state = 0) := by
  refine ⟨State.foldl_paddockReport_out (List.mem_append_right _ (List.mem_singleton_self _)), fun n => ?_, fun i live => ?_⟩
  · have paddocks : (s.rollBack seq (some c)).paddocks = s.paddocks := foldl_kept State.paddocks fun _ n => (State.paddockReport_kept n 5).1
    rw [State.paddock, paddocks, State.paddock]
  · rw [State.rollBack_shep (State.mem_liveDies_inside every live)]
    refine ⟨rfl, fun named => ?_⟩
    rw [Shepherd.discarded, if_pos named]

/-! ## Resets (R399, R485, R486) -/

theorem exec_boot_later (inside : die < s.dies.length) (m : (s.shep die).mode = .reset) (v : Config.imageVerifies die (s.shep die).flash = true)
    (later : (s.die die).stage ≠ 0) (secret : (s.shep die).dedup.isSome = true) : exec (.boot die) s = .next (s.startFirmware die).resolveCommit := by
  have knows : ((s.startFirmware die).shep die).dedup.isSome = true := by
    rw [State.startFirmware, State.onShep_shep inside]
    exact secret
  show execBoot die s = _
  rw [execBoot_verified m v, if_neg later, State.booted, State.seekSecret, if_pos knows]

theorem State.restartShepherd_shep (inside : die < s.dies.length) :
    (s.restartShepherd die).shep die = { s.shep die with mode := .reset, started := (s.die die).cycle } ∧ .boot die ∈ (s.restartShepherd die).agenda := by
  refine ⟨?_, State.mem_postOnce.2 (.inr rfl)⟩
  rw [State.restartShepherd, State.shep_congr (State.postOnce_dies ..)]
  exact State.onShep_shep inside

theorem watchdogExpiry_restarts (inside : die < s.dies.length) (runs : (s.shep die).mode = .running) :
    ∃ t, exec (.watchdogExpiry die) s = .next t ∧ (t.shep die).mode = .reset ∧ .boot die ∈ t.agenda ∧
      t.mem = s.mem ∧ t.flocks = s.flocks ∧ t.herds = s.herds ∧ t.out = s.out ++ [.shepherd die .watchdog, .msiShepherd die] := by
  have expires : exec (.watchdogExpiry die) s = .next ((s.tell die .watchdog).restartShepherd die) := by
    show execWatchdogExpiry die s = _
    unfold execWatchdogExpiry
    rw [State.shepRuns_eq runs]
    rfl
  obtain ⟨restarted, boots⟩ := State.restartShepherd_shep (s := s.tell die .watchdog) inside
  refine ⟨_, expires, congrArg Shepherd.mode restarted, boots, ?_⟩
  unfold State.restartShepherd State.postOnce
  split <;> exact ⟨rfl, rfl, rfl, List.append_assoc ..⟩

/-- A shepherd that has lost an item of its retention SRAM. -/
def Shepherd.without (h : Shepherd) (lost : RetentionItem) : Shepherd :=
  match lost with
  | .measurements => { h with romDigest := none, imageDigest := none }
  | .vaultKey => { h with vaultKey := none }
  | .dedupSecret => { h with dedup := none }
  | .journal => { h with journal := ⟨0, 0, 0, false⟩ }

theorem Shepherd.without_mode (h : Shepherd) (lost : RetentionItem) : (h.without lost).mode = h.mode := by cases lost <;> rfl

theorem retentionSramUe_restarts (inside : die < s.dies.length) (up : (s.shep die).mode ≠ .recovery) (lost : RetentionItem) :
    ∃ t, exec (.retentionSramUe die lost) s = .next t ∧ (t.shep die).mode = .reset ∧
      .boot die ∈ t.agenda ∧ (lost = .vaultKey → (t.shep die).vaultKey = none) ∧ (lost = .dedupSecret → (t.shep die).dedup = none) ∧
      (lost = .journal → (t.shep die).journal.state = 0) ∧ (lost = .measurements → (t.shep die).imageDigest = none) := by
  have struck : ((s.onShep die fun h => h.without lost).shep die) = (s.shep die).without lost := State.onShep_shep inside
  have restarts : exec (.retentionSramUe die lost) s = .next ((s.onShep die fun h => h.without lost).restartShepherd die) := by
    show Host.Outcome.next (if ((s.onShep die fun h => h.without lost).shep die).mode = .recovery then s.onShep die fun h => h.without lost
      else (s.onShep die fun h => h.without lost).restartShepherd die) = _
    rw [if_neg (by rwa [struck, Shepherd.without_mode])]
  obtain ⟨restarted, boots⟩ := State.restartShepherd_shep (s := s.onShep die fun h => h.without lost) (die := die) (by rwa [State.length_dies_onShep])
  refine ⟨_, restarts, congrArg Shepherd.mode restarted, boots, ?_⟩
  rw [restarted, struck]
  refine ⟨?_, ?_, ?_, ?_⟩ <;> rintro rfl <;> rfl

theorem modulePowerLoss_keeps (every : s.dies.length = 4) :
    ∃ t, exec .modulePowerLoss s = .next t ∧ t.mem = [] ∧ t.flocks = [] ∧ t.herds = [] ∧ t.regions = [] ∧
      t.agenda = [.boot 0, .boot 1, .boot 2, .boot 3] ∧ ∀ i, i < 4 → (t.shep i).flash = (s.shep i).flash ∧ (t.shep i).mode = .reset := by
  refine ⟨_, rfl, rfl, rfl, rfl, rfl, rfl, fun i inside => ?_⟩
  have within : i < s.dies.length := every ▸ inside
  simp [State.shep, State.die, List.getElem?_eq_getElem within, Shepherd.reset]

end

/-- Settles O52: a commit is staged at every live shepherd under a number above all journals (`State.nextSeq_above`); a record written or applied at a
die completes the commit once the others have theirs (`State.recorded_all`); and at a boot the live dies' records decide between
`State.rolledForward` and `State.rollBack`. -/
theorem commitsAndResets : Obligations.CommitsAndResets := by
  unfold Obligations.CommitsAndResets
  intro s every
  refine ⟨fun c runs unstaged => ⟨fun bad => ?_, fun good => ?_⟩, fun c n named open_ => State.changeOk_unquiesced named open_,
    fun c n d named bad => State.changeOk_reserved named bad, fun c stopped => exec_partitionCommitRequest_waits (.inl stopped),
    fun c seq x going => exec_partitionCommitRequest_waits (.inr (by rw [going]; rfl)),
    fun die seq c live staged runs => ⟨fun first map => prepareReport_recorded every live staged runs first map,
      fun first map fills => prepareReport_gated every live staged runs first map fills,
      fun none_ => exec_commitApply_unrecorded live staged runs none_, fun record => commitApply_applied every live staged runs record⟩,
    fun seq c going all runs => commitDone_released every going all runs,
    fun die inside m v later secret => exec_boot_later (every ▸ inside) m v later secret, fun seq c going => ⟨fun record => ?_, fun none_ => ?_⟩,
    fun die inside runs => watchdogExpiry_restarts (every ▸ inside) runs, fun die lost inside up => retentionSramUe_restarts (every ▸ inside) up lost,
    modulePowerLoss_keeps every⟩
  · rw [exec_partitionCommitRequest runs unstaged, bad]
    rfl
  · refine ⟨_, s.nextSeq, (exec_partitionCommitRequest runs unstaged).trans (if_pos good), fun i live => State.stage_staged every live,
      fun fits i live => State.nextSeq_above fits live⟩
  · rw [State.resolveCommit_forward going record]
    exact fun i live => State.rolledForward_staged every live
  · rw [State.resolveCommit_back going none_]
    exact rollBack_clears every

end Sys2Proof.Machine

/-!
PROOFS. Ordered packets, reads and reports of the fabric as statement O45 says (R366, R392 to R398, R469, R470).
-/
namespace Sys2Proof.Machine

/-! ## A network that is written -/

section
variable {s t : State} {die net : Nat} {x : Net} {α : Type}

theorem State.setNet_net (inside : die < s.dies.length) (within : net < (s.die die).nets.length) : (s.setNet die net x).net die net = x := by
  rw [State.net, State.setNet, State.onDie_die inside]
  exact (getD_setNth ..).trans (if_pos ⟨rfl, within⟩)

/-- A field that a network written has as the one before it had. -/
theorem State.setNet_field (p : Net → α) (same : p x = p (s.net die net)) (i j : Nat) : p ((s.setNet die net x).net i j) = p (s.net i j) := by
  by_cases named : i = die ∧ die < s.dies.length
  · obtain ⟨rfl, inside⟩ := named
    rw [State.net, State.setNet, State.onDie_die inside, getD_setNth]
    split
    next both => rw [same, both.1]
    next => rfl
  · have unchanged : (s.setNet die net x).die i = s.die i := (getD_setNth ..).trans (if_neg named)
    rw [State.net, unchanged, State.net]

theorem State.setNet_dies_field (p : Die → α) (hp : ∀ d l, p { d with nets := l } = p d) (i : Nat) : p ((s.setNet die net x).die i) = p (s.die i) :=
  State.onDie_field p fun _ => hp ..

/-! ## Waits that are timed (R470) -/

theorem State.stallBegins_eq (place : Nat) : s.stallBegins die net place = s ∨
    ∃ stall, s.stallBegins die net place = (s.setNet die net { s.net die net with stall := stall }).postOnce (.fabricStall die) := by
  unfold State.stallBegins
  dsimp only
  split
  · exact .inl rfl
  · exact .inr ⟨_, rfl⟩

theorem State.stallBegins_mem (place : Nat) : (s.stallBegins die net place).mem = s.mem := by
  rcases State.stallBegins_eq (s := s) (die := die) (net := net) place with same | ⟨stall, begun⟩
  · rw [same]
  · rw [begun, State.postOnce_mem]
    rfl

theorem State.mem_stallBegins {e : Event} (due : e ∈ s.agenda) (place : Nat) : e ∈ (s.stallBegins die net place).agenda := by
  rcases State.stallBegins_eq (s := s) (die := die) (net := net) place with same | ⟨stall, begun⟩
  · rwa [same]
  · rw [begun]
    exact State.mem_postOnce.2 (.inl due)

/-- What a wait that is timed leaves of the networks. -/
theorem State.stallBegins_field (p : Net → α) (hp : ∀ n stall, p { n with stall := stall } = p n) (place i j : Nat) :
    p ((s.stallBegins die net place).net i j) = p (s.net i j) := by
  rcases State.stallBegins_eq (s := s) (die := die) (net := net) place with same | ⟨stall, begun⟩
  · rw [same]
  · rw [begun, State.net_of_ledgers (State.postOnce_ledgers _)]
    exact State.setNet_field p (hp ..) i j

end

/-! ## Sending (R394) -/

section
variable {s : State} {p : FabPacket}

theorem exec_orderedPacketSend_lost (lost : ¬ ((s.die p.src).live = true ∧ (s.die p.dst).live = true)) :
    exec (.orderedPacketSend p) s = .next ((s.losePacket p).leaveArbiter p) := by
  show execOrderedPacketSend p s = _
  unfold execOrderedPacketSend
  dsimp only
  rw [if_pos]
  by_cases source : (s.die p.src).live
  · have sink : (s.die p.dst).live = false := Bool.eq_false_iff.2 fun there => lost ⟨source, there⟩
    rw [sink, Bool.not_false, Bool.or_true]
  · rw [Bool.eq_false_iff.2 source, Bool.not_false, Bool.true_or]

section
variable (live : (s.die p.src).live = true ∧ (s.die p.dst).live = true)
include live

theorem exec_orderedPacketSend_waits (turn : ¬ (s.earlierUnsent p = false ∧ s.yieldsTurn p = false ∧ s.holds p.src = false)) :
    exec (.orderedPacketSend p) s = .next (s.post (.orderedPacketSend p)) := by
  have waits : (s.earlierUnsent p || s.yieldsTurn p || s.holds p.src) = true := by
    rw [← Bool.not_eq_false, Bool.or_eq_false_iff, Bool.or_eq_false_iff, and_assoc]
    exact turn
  show execOrderedPacketSend p s = _
  unfold execOrderedPacketSend
  dsimp only
  rw [if_neg (by simp [live]), if_pos waits]

variable (turn : s.earlierUnsent p = false ∧ s.yieldsTurn p = false ∧ s.holds p.src = false)
include turn

theorem exec_orderedPacketSend_closed (closed : s.windowOpen p = false) :
    exec (.orderedPacketSend p) s = .next ((s.post (.orderedPacketSend p)).stallBegins p.src p.net p.dst) := by
  show execOrderedPacketSend p s = _
  unfold execOrderedPacketSend
  dsimp only
  rw [if_neg (by simp [live]), if_neg (by simp [turn]), if_pos (by simp [closed])]

end

/-- The counters of a packet's network as it enters the fabric. -/
def State.sentCounts (s : State) (p : FabPacket) : List (BitVec 16) :=
  setNth (s.net p.src p.net).k (4 * p.src + p.dst) ((s.net p.src p.net).k.getD (4 * p.src + p.dst) 0 + 1)

/-- A packet with its stamp. -/
def State.stamped (s : State) (p : FabPacket) : FabPacket :=
  let last := (s.net p.src p.net).sentK.getD p.dst (List.replicate 16 0)
  { p with
    gen := bitsAt (((s.leaveArbiter p).die p.src).fabstat).toNat 0 3
    seq := (s.sentCounts p).getD (4 * p.src + p.dst) 0
    dep := (List.range 4).map fun x => stampAt (s.sentCounts p) x p.dst
    upd := (List.range 16).filterMap fun x =>
      if x ≠ 4 * p.src + p.dst && (s.sentCounts p).getD x 0 ≠ last.getD x 0 then some (x, (s.sentCounts p).getD x 0) else none }

/-- A packet's network as it has entered the fabric. -/
def State.sentNet (s : State) (p : FabPacket) : Net :=
  let n := s.net p.src p.net
  { n with k := s.sentCounts p, sentK := setNth n.sentK p.dst (s.sentCounts p), stall := setNth n.stall p.dst none }

/-- The state in which a packet has entered the fabric. -/
def State.entered (s : State) (p : FabPacket) : State :=
  ((((s.leaveArbiter p).setNet p.src p.net (s.sentNet p)).post (.orderedPacketArrival (s.stamped p))).ship .ordered p.id p.session p.src p.dst)

theorem exec_orderedPacketSend_enters (live : (s.die p.src).live = true ∧ (s.die p.dst).live = true)
    (turn : s.earlierUnsent p = false ∧ s.yieldsTurn p = false ∧ s.holds p.src = false) (open_ : s.windowOpen p = true) :
    exec (.orderedPacketSend p) s = .next (s.entered p) := by
  show execOrderedPacketSend p s = _
  unfold execOrderedPacketSend
  dsimp only
  rw [if_neg (by simp [live]), if_neg (by simp [turn]), if_neg (by simp [open_])]
  rfl

theorem State.entered_mem : (s.entered p).mem = s.mem :=
  (congrArg State.mem (State.ship_offLinks ..) :
    (s.entered p).offLinks.mem = (((s.leaveArbiter p).setNet p.src p.net (s.sentNet p)).post (.orderedPacketArrival (s.stamped p))).offLinks.mem)

theorem State.mem_entered : .orderedPacketArrival (s.stamped p) ∈ (s.entered p).agenda := State.mem_shipAs (State.mem_post.2 (.inr rfl)) ..

theorem State.leaveArbiter_field {α : Type} (f : Die → α) (hf : ∀ d a v, f { d with arbiter := a, served := v } = f d) (i : Nat) :
    f ((s.leaveArbiter p).die i) = f (s.die i) := State.onDie_field f fun _ => hf ..

theorem State.entered_net (inside : p.src < s.dies.length) (within : p.net < (s.die p.src).nets.length) : (s.entered p).net p.src p.net = s.sentNet p := by
  have shipped : (s.entered p).ledgers = ((s.leaveArbiter p).setNet p.src p.net (s.sentNet p)).ledgers :=
    State.ledgers_of_offLinks (State.ship_offLinks ..)
  rw [State.net_of_ledgers shipped]
  exact State.setNet_net (by rwa [State.leaveArbiter, State.length_dies_onDie]) (by rwa [State.leaveArbiter_field Die.nets fun _ _ _ => rfl])

theorem State.stamped_gen : (s.stamped p).gen = (s.die p.src).fabstat.toNat % 8 := by
  show bitsAt _ 0 3 = _
  rw [State.leaveArbiter_field Die.fabstat fun _ _ _ => rfl, bitsAt, Nat.pow_zero, Nat.div_one]
  rfl

/-- The stamp of a packet in a knowledge matrix of its size. -/
theorem State.stamped_stamp (size : (s.net p.src p.net).k.length = 16) (src : p.src < 4) (dst : p.dst < 4) :
    (s.stamped p).seq = (s.net p.src p.net).k.getD (4 * p.src + p.dst) 0 + 1 ∧
      ∀ x, x < 4 → x ≠ p.src → (s.stamped p).dep.getD x 0 = (s.net p.src p.net).k.getD (4 * x + p.dst) 0 := by
  refine ⟨(getD_setNth ..).trans (if_pos ⟨rfl, by omega⟩), fun x known other => ?_⟩
  have entry : (s.stamped p).dep.getD x 0 = stampAt (s.sentCounts p) x p.dst := by
    simp [State.stamped, known]
  rw [entry]
  exact (getD_setNth ..).trans (if_neg (by omega))

end

/-! ## Arrival (R395, R469) -/

section
variable {s : State} {p : FabPacket}

theorem sge_iff {a b : BitVec 16} : sge a b = true ↔ (a - b).toNat < 2 ^ 15 := decide_eq_true_iff

/-- Counters of the dies beside two, compared with a stamp. -/
theorem all_sge_iff {d dep : List (BitVec 16)} {src dst : Nat} :
    ((List.range 4).all fun x => x = src || x = dst || sge (d.getD x 0) (dep.getD x 0)) = true ↔
      ∀ x, x < 4 → x ≠ src → x ≠ dst → (d.getD x 0 - dep.getD x 0).toNat < 2 ^ 15 := by
  simp only [List.all_eq_true, List.mem_range, Bool.or_eq_true, decide_eq_true_eq, sge_iff]
  exact forall₂_congr fun _ _ => by tauto

theorem State.packetReady_iff : s.packetReady p = true ↔ (s.net p.dst p.net).d.getD p.src 0 = p.seq - 1 ∧
    ∀ x, x < 4 → x ≠ p.src → x ≠ p.dst → ((s.net p.dst p.net).d.getD x 0 - p.dep.getD x 0).toNat < 2 ^ 15 := by
  simp only [State.packetReady, Bool.and_eq_true, decide_eq_true_eq, all_sge_iff]

theorem State.readServable_iff {r : ReadReq} : s.readServable r = true ↔ ((s.net r.dst r.net).d.getD r.src 0 - r.seq).toNat < 2 ^ 15 ∧
    ∀ x, x < 4 → x ≠ r.src → x ≠ r.dst → ((s.net r.dst r.net).d.getD x 0 - r.dep.getD x 0).toNat < 2 ^ 15 := by
  simp only [State.readServable, Bool.and_eq_true, sge_iff, all_sge_iff]

theorem generation (v : Nat) : bitsAt v 0 3 = v % 8 := by
  rw [bitsAt, Nat.pow_zero, Nat.div_one]
  rfl

theorem exec_orderedPacketArrival_dead (dead : (s.die p.dst).live = false) : exec (.orderedPacketArrival p) s = .next (s.losePacket p) := by
  show execOrderedPacketArrival p s = _
  unfold execOrderedPacketArrival
  dsimp only
  rw [if_pos (by simp [dead])]

section
variable (live : (s.die p.dst).live = true)
include live

theorem exec_orderedPacketArrival_stale (stale : p.gen ≠ (s.die p.dst).fabstat.toNat % 8) :
    exec (.orderedPacketArrival p) s = .next (s.discardPacket p) := by
  show execOrderedPacketArrival p s = _
  unfold execOrderedPacketArrival
  dsimp only
  rw [if_neg (by simp [live]), if_pos (by rwa [generation])]

variable (gen : p.gen = (s.die p.dst).fabstat.toNat % 8)
include gen

theorem exec_orderedPacketArrival_held (held : s.earlierArrival p = true ∨ s.routeBusy p.src p.dst = true) :
    exec (.orderedPacketArrival p) s = .next (s.post (.orderedPacketArrival p)) := by
  show execOrderedPacketArrival p s = _
  unfold execOrderedPacketArrival
  dsimp only
  rw [if_neg (by simp [live]), if_neg (by simp [generation, gen]), if_pos (by simpa using held)]

variable (free : ¬ (s.earlierArrival p = true ∨ s.routeBusy p.src p.dst = true))
include free

theorem exec_orderedPacketArrival_ready (ready : s.packetReady p = true) : exec (.orderedPacketArrival p) s = .next (s.deliver p) := by
  show execOrderedPacketArrival p s = _
  unfold execOrderedPacketArrival
  dsimp only
  rw [if_neg (by simp [live]), if_neg (by simp [generation, gen]), if_neg (by simpa using free), if_pos ready]

theorem exec_orderedPacketArrival_waits (unready : ¬ s.packetReady p = true) : exec (.orderedPacketArrival p) s =
    match s.waitEarly p with
    | some t => .next (t.release p.dst p.id)
    | none => .next ((s.post (.orderedPacketArrival p)).stallBegins p.dst p.net p.dst) := by
  show execOrderedPacketArrival p s = _
  unfold execOrderedPacketArrival
  dsimp only
  rw [if_neg (by simp [live]), if_neg (by simp [generation, gen]), if_neg (by simpa using free), if_neg unready] <;>
    cases s.waitEarly p <;> rfl

end

/-! ### The early-packet buffer (R398, R469) -/

/-- The state in which a packet waits early in its network, timed where the buffer is full. -/
def State.heldEarly (s : State) (p : FabPacket) (aside : List Nat) : State :=
  let t := s.setNet p.dst p.net { s.net p.dst p.net with early := (s.net p.dst p.net).early ++ [p], aside := aside }
  if t.earlyRoom p.dst p.net then t else t.stallBegins p.dst p.net p.dst

theorem State.waitEarly_room (room : s.earlyRoom p.dst p.net = true) : s.waitEarly p = some (s.heldEarly p (s.net p.dst p.net).aside) := by
  unfold State.waitEarly
  dsimp only
  rw [if_pos room]
  rfl

theorem State.waitEarly_aside (full : s.earlyRoom p.dst p.net = false) (only : ∀ q ∈ (s.net p.dst p.net).early, q.src ≠ p.src) :
    s.waitEarly p = some (s.heldEarly p (setAdd p.id (s.net p.dst p.net).aside)) := by
  unfold State.waitEarly
  dsimp only
  rw [if_neg (by simp [full]), if_pos (List.all_eq_true.2 fun q there => decide_eq_true (only q there))]
  rfl

theorem State.waitEarly_none (full : s.earlyRoom p.dst p.net = false) (other : ∃ q ∈ (s.net p.dst p.net).early, q.src = p.src) :
    s.waitEarly p = none := by
  obtain ⟨q, there, same⟩ := other
  unfold State.waitEarly
  dsimp only
  rw [if_neg (by simp [full]), if_neg]
  intro all
  exact of_decide_eq_true (List.all_eq_true.1 all q there) same

theorem State.heldEarly_mem (aside : List Nat) : (s.heldEarly p aside).mem = s.mem := by
  unfold State.heldEarly
  dsimp only
  split
  · rfl
  · exact State.stallBegins_mem ..

theorem State.heldEarly_net (aside : List Nat) (inside : p.dst < s.dies.length) (within : p.net < (s.die p.dst).nets.length) :
    ((s.heldEarly p aside).net p.dst p.net).early = (s.net p.dst p.net).early ++ [p] ∧ ((s.heldEarly p aside).net p.dst p.net).aside = aside ∧
      ((s.heldEarly p aside).net p.dst p.net).d = (s.net p.dst p.net).d := by
  have written := State.setNet_net (x := { s.net p.dst p.net with early := (s.net p.dst p.net).early ++ [p], aside := aside }) inside within
  unfold State.heldEarly
  dsimp only
  split
  · rw [written]
    exact ⟨rfl, rfl, rfl⟩
  · rw [State.stallBegins_field Net.early fun _ _ => rfl, State.stallBegins_field Net.aside fun _ _ => rfl,
      State.stallBegins_field Net.d fun _ _ => rfl, written]
    exact ⟨rfl, rfl, rfl⟩

theorem State.earlyRoom_iff {die net : Nat} : s.earlyRoom die net = true ↔
    (s.net die net).rest < 45 ∨ ((s.die die).nets.map fun m => m.rest - 45).sum < 128 := by
  simp only [State.earlyRoom, Bool.or_eq_true, decide_eq_true_eq]

end

/-! ## Delivery (R395) -/

section
variable {s t : State} {p : FabPacket} {α : Type}

theorem State.countFill_ledgers (die : Nat) (loc : Loc) : (s.countFill die loc).ledgers = s.ledgers := by
  unfold State.countFill
  split
  · rfl
  · exact State.onDie_ledgers fun _ => rfl

/-- A home slice that takes a line leaves the networks and the shepherds as they were. -/
theorem State.touchL2_ledgers (ag : Agent) (loc : Loc) (write : Bool) (n : Nat) : (s.touchL2 ag loc write n).ledgers = s.ledgers := by
  unfold State.touchL2
  dsimp only
  split
  · exact State.onDie_ledgers fun _ => rfl
  · split
    · rfl
    · refine (State.countFill_ledgers ..).trans (.trans (State.onDie_ledgers ?_) ?_)
      · exact fun _ => rfl
      · split <;> rfl

theorem State.rekey_dies (loc : Loc) : (s.rekey loc).dies = s.dies := by
  unfold State.rekey State.rekeyUnit
  split
  · rfl
  · split <;> rfl

theorem State.dropXbar_ledgers (pa n : Nat) : (s.dropXbar pa n).ledgers = s.ledgers := by
  unfold State.dropXbar
  exact State.onDie_ledgers fun _ => rfl

theorem State.performWrite_ledgers (pa : Nat) (bs : List Byte) : (s.performWrite pa bs).ledgers = s.ledgers := by
  unfold State.performWrite
  split
  · rfl
  · exact State.dropXbar_ledgers pa bs.length

theorem State.performAct_write (src die : Nat) (loc : Loc) (bs : List Byte) : s.performAct src die (.write loc bs) =
    ((s.rekey loc).touchL2 ⟨loc.session, src, none⟩ loc true bs.length).performWrite loc.pa bs := rfl

theorem State.performAct_write_ledgers (src die : Nat) (loc : Loc) (bs : List Byte) : (s.performAct src die (.write loc bs)).ledgers = s.ledgers := by
  rw [State.performAct_write, State.performWrite_ledgers, State.touchL2_ledgers]
  exact congrArg (List.map Die.ledger) (State.rekey_dies loc)

/-- The bytes of a write depend on memory and on the home die being live. -/
theorem State.performWrite_mem_congr {pa : Nat} {bs : List Byte} (mem : t.mem = s.mem) (live : (t.die (homeDie pa)).live = (s.die (homeDie pa)).live) :
    (t.performWrite pa bs).mem = (s.performWrite pa bs).mem := by
  unfold State.performWrite
  rw [live]
  split
  · exact mem
  · exact congrArg (fun m => Memory.write m pa bs) mem

theorem State.touchL2_mem (ag : Agent) (loc : Loc) (write : Bool) (n : Nat) : (s.touchL2 ag loc write n).mem = s.mem :=
  congrArg Prod.fst State.touchL2_keyed

theorem State.performAct_write_mem (src die : Nat) (loc : Loc) (bs : List Byte) :
    (s.performAct src die (.write loc bs)).mem = ((s.rekey loc).performWrite loc.pa bs).mem :=
  State.performWrite_mem_congr (State.touchL2_mem ..) (State.live_of_ledgers (State.touchL2_ledgers ..) _)

/-- The acts of a packet at its home, in turn. -/
def State.performActs (s : State) (p : FabPacket) : State := p.acts.foldl (fun s a => s.performAct p.src p.dst a) s

/-- The network of a packet's destination as it has learnt what the packet says. -/
def State.deliveredNet (s : State) (p : FabPacket) : Net :=
  let n := s.net p.dst p.net
  let k := p.upd.foldl (fun k (x, v) => raise k x v) (raise n.k (4 * p.src + p.dst) p.seq)
  { n.noteDelivery p.src (s.die p.dst).cycle with k := k, d := setNth n.d p.src p.seq, stall := setNth n.stall p.dst none }

/-- The state in which a packet is performed and learnt. -/
def State.learnt (s : State) (p : FabPacket) : State :=
  ((s.performActs p).setNet p.dst p.net ((s.performActs p).deliveredNet p)).postOnce (.deliveryReportSend p.dst p.net)

theorem State.deliverOne_unnoted (silent : p.note = none) : s.deliverOne p = s.learnt p := by
  unfold State.deliverOne
  dsimp only
  rw [silent]
  rfl

theorem State.learnt_mem : (s.learnt p).mem = (s.performActs p).mem := by
  unfold State.learnt
  rw [State.postOnce_mem]
  rfl

theorem State.learnt_early (acts : (s.performActs p).ledgers = s.ledgers) (none_ : (s.net p.dst p.net).early = []) :
    ((s.learnt p).net p.dst p.net).early = [] := by
  rw [State.learnt, State.net_of_ledgers (State.postOnce_ledgers _), State.setNet_field (x := (s.performActs p).deliveredNet p) Net.early rfl,
    State.net_of_ledgers acts, none_]

theorem State.deliverWaiting_none {die net : Nat} (none_ : (s.net die net).early = []) (fuel : Nat) : s.deliverWaiting die net fuel = s := by
  cases fuel with
  | zero => rfl
  | succ fuel =>
    unfold State.deliverWaiting
    dsimp only
    rw [none_]
    rfl

/-- What the end of timed waits leaves of a state. -/
theorem State.clearStalls_kept {β : Type} (f : State → β) (hf : ∀ u die net stall, f (u.setNet die net { u.net die net with stall := stall }) = f u) (die : Nat) :
    f (s.clearStalls die) = f s :=
  foldl_kept f fun u i => by
    dsimp only
    split
    · exact hf ..
    · rfl

theorem State.deliver_unnoted (silent : p.note = none) (acts : (s.performActs p).ledgers = s.ledgers) (none_ : (s.net p.dst p.net).early = []) :
    s.deliver p = ((s.learnt p).clearStalls p.dst).release p.dst p.id := by
  rw [State.deliver, State.deliverOne_unnoted silent, State.deliverWaiting_none (State.learnt_early acts none_)]

theorem State.release_mem (die id : Nat) : (s.release die id).mem = s.mem := by
  have same := congrArg State.mem (State.release_offLinks (s := s) die id)
  exact same

theorem State.deliver_mem (silent : p.note = none) (acts : (s.performActs p).ledgers = s.ledgers) (none_ : (s.net p.dst p.net).early = []) :
    (s.deliver p).mem = (s.performActs p).mem := by
  rw [State.deliver_unnoted silent acts none_, State.release_mem, State.clearStalls_kept State.mem fun _ _ _ _ => rfl, State.learnt_mem]

theorem State.learnt_counted (inside : p.dst < s.dies.length) (within : p.net < (s.die p.dst).nets.length) (source : p.src < (s.net p.dst p.net).d.length)
    (performed : s.performActs p = s) : ((s.learnt p).net p.dst p.net).d.getD p.src 0 = p.seq := by
  rw [State.learnt, performed, State.net_of_ledgers (State.postOnce_ledgers _), State.setNet_net inside within]
  exact (getD_setNth ..).trans (if_pos ⟨rfl, source⟩)

theorem State.clearStalls_d (die i j : Nat) : ((s.clearStalls die).net i j).d = (s.net i j).d := by
  have kept (u : State) (a b : Nat) (stall : List (Option (Word64 × Bool))) :
      ((u.setNet a b { u.net a b with stall := stall }).net i j).d = (u.net i j).d :=
    State.setNet_field (x := { u.net a b with stall := stall }) Net.d rfl i j
  exact State.clearStalls_kept (fun u : State => (u.net i j).d) kept die

theorem State.mem_learnt : .deliveryReportSend p.dst p.net ∈ (s.learnt p).agenda := State.mem_postOnce.2 (.inr rfl)

/-- A packet without acts is delivered: its counter is known, and the report of it is due. -/
theorem State.deliver_counted (inside : p.dst < s.dies.length) (within : p.net < (s.die p.dst).nets.length) (source : p.src < (s.net p.dst p.net).d.length)
    (none_ : (s.net p.dst p.net).early = []) (silent : p.note = none) (idle : p.acts = []) :
    ((s.deliver p).net p.dst p.net).d.getD p.src 0 = p.seq ∧ .deliveryReportSend p.dst p.net ∈ (s.deliver p).agenda := by
  have performed : s.performActs p = s := by rw [State.performActs, idle]; rfl
  rw [State.deliver_unnoted silent (by rw [performed]) none_]
  refine ⟨?_, State.mem_release ?_ ..⟩
  · rw [State.net_of_ledgers (State.release_ledgers ..), State.clearStalls_d]
    exact State.learnt_counted inside within source performed
  · rw [State.clearStalls_kept State.agenda fun _ _ _ _ => rfl]
    exact State.mem_learnt

theorem State.deliver_write {loc : Loc} {bytes : List Byte} (none_ : (s.net p.dst p.net).early = []) (silent : p.note = none)
    (one : p.acts = [.write loc bytes]) : (s.deliver p).mem = ((s.rekey loc).performWrite loc.pa bytes).mem := by
  have performed : s.performActs p = s.performAct p.src p.dst (.write loc bytes) := by rw [State.performActs, one]; rfl
  rw [State.deliver_mem silent (by rw [performed, State.performAct_write_ledgers]) none_, performed, State.performAct_write_mem]

end

/-! ## Reads and acquires (R396) -/

section
variable {s : State} {r : ReadReq}

theorem exec_readRequestServe_dead (dead : (s.die r.dst).live = false) : exec (.readRequestServe r) s = .next (s.poisonRead r) := by
  show execReadRequestServe r s = _
  rw [execReadRequestServe, if_pos (by simp [dead])]

section
variable (live : (s.die r.dst).live = true)
include live

theorem exec_readRequestServe_stale (stale : r.gen ≠ (s.die r.dst).fabstat.toNat % 8) : exec (.readRequestServe r) s =
    .next ((s.poisonRead r).onDie r.dst fun d => { d with fabstat := bumpCount d.fabstat 32 1 }) := by
  show execReadRequestServe r s = _
  rw [execReadRequestServe, if_neg (by simp [live]), if_pos (by rwa [generation])]

variable (gen : r.gen = (s.die r.dst).fabstat.toNat % 8)
include gen

theorem exec_readRequestServe_now (now : s.earlierRead r = false ∧ s.readServable r = true ∧ s.routeBusy r.src r.dst = false) :
    exec (.readRequestServe r) s = .next (s.serveRead r) := by
  show execReadRequestServe r s = _
  rw [execReadRequestServe, if_neg (by simp [live]), if_neg (by simp [generation, gen]), if_neg (by simp [now])]

theorem exec_readRequestServe_later (later : ¬ s.readServable r = true ∨ s.earlierRead r = true ∨ s.routeBusy r.src r.dst = true) :
    exec (.readRequestServe r) s = .next (s.post (.readRequestServe r)) := by
  have waits : (s.earlierRead r || !s.readServable r || s.routeBusy r.src r.dst) = true := by
    rcases later with unknown | before | busy
    · rw [Bool.eq_false_iff.2 unknown, Bool.not_false, Bool.or_true, Bool.true_or]
    · rw [before, Bool.true_or, Bool.true_or]
    · rw [busy, Bool.or_true]
  show execReadRequestServe r s = _
  rw [execReadRequestServe, if_neg (by simp [live]), if_neg (by simp [generation, gen]), if_pos waits]

end

/-- An acquire that has learnt what a reply names. -/
def State.acquired (s : State) (r : ReadReply) : State :=
  s.setNet r.reader r.net { s.net r.reader r.net with k := raiseAll (s.net r.reader r.net).k r.k }

theorem exec_acquireCatchup (r : ReadReply) : exec (.acquireCatchup r) s =
    if s.onWay r.id then .next (s.post (.acquireCatchup r))
    else if (List.range 4).all fun x => x = r.reader || sge ((s.net r.reader r.net).d.getD x 0) (stampAt r.k x r.reader) then
      .next ((s.acquired r).opArrived r.flock r.op)
    else .next ((s.acquired r).post (.acquireCatchup r)) := rfl

theorem caughtUp_iff (r : ReadReply) (d : List (BitVec 16)) :
    ((List.range 4).all fun x => x = r.reader || sge (d.getD x 0) (stampAt r.k x r.reader)) = true ↔
      ∀ x, x < 4 → x ≠ r.reader → (d.getD x 0 - r.k.getD (4 * x + r.reader) 0).toNat < 2 ^ 15 := by
  simp only [List.all_eq_true, List.mem_range, Bool.or_eq_true, decide_eq_true_eq, sge_iff]
  exact forall₂_congr fun _ _ => or_iff_not_imp_left

end

/-! ## Delivery reports (R397) -/

section
variable {s t : State} {die net : Nat}

theorem State.sendReport_ledgers (r : DeliveryReport) : (s.sendReport r).ledgers = s.ledgers :=
  State.ledgers_of_offLinks (State.settlePorts_offLinks.trans (State.enqueue_offLinks ..))

theorem State.mem_sendReport {r : DeliveryReport} {e : Event} (due : e ∈ s.agenda ∨ e = .deliveryReportReceive r) : e ∈ (s.sendReport r).agenda :=
  State.mem_pump (by rw [State.enqueue_agenda]; exact State.mem_post.2 due) _

/-- The reports of a die's counters to other dies, one after another. -/
def State.sendReports (s : State) (die net : Nat) (d : List (BitVec 16)) (others : List Nat) : State :=
  others.foldl (fun s j => s.sendReport ⟨die, j, net, d, s.nextUid⟩) s

theorem State.sendReports_ledgers {d : List (BitVec 16)} (others : List Nat) : (s.sendReports die net d others).ledgers = s.ledgers :=
  foldl_kept State.ledgers fun _ _ => State.sendReport_ledgers _

theorem State.mem_sendReports_kept {d : List (BitVec 16)} {others : List Nat} {e : Event} (due : e ∈ s.agenda) :
    e ∈ (s.sendReports die net d others).agenda :=
  List.foldlRecOn (motive := fun u : State => e ∈ u.agenda) _ _ due fun _ due _ _ => State.mem_sendReport (.inl due)

theorem State.mem_sendReports {d : List (BitVec 16)} {others : List Nat} {j : Nat} (named : j ∈ others) :
    ∃ id, .deliveryReportReceive ⟨die, j, net, d, id⟩ ∈ (s.sendReports die net d others).agenda := by
  induction others generalizing s with
  | nil => exact absurd named List.not_mem_nil
  | cons x others ih =>
    rcases List.mem_cons.1 named with rfl | later
    · exact ⟨s.nextUid, State.mem_sendReports_kept (s := s.sendReport ⟨die, j, net, d, s.nextUid⟩) (State.mem_sendReport (.inr rfl))⟩
    · exact ih later

theorem Net.reportDue_iff {n : Net} {now : Word64} : n.reportDue now = true ↔ (∃ c ∈ n.delivered, 1024 ≤ c) ∨ n.reportAt.toNat ≤ now.toNat := by
  simp only [Net.reportDue, Bool.or_eq_true, List.any_eq_true, decide_eq_true_eq]

/-- The other live dies. -/
def State.others (s : State) (die : Nat) : List Nat := (List.range 4).filter fun j => j ≠ die && (s.die j).live

theorem exec_deliveryReportSend_idle (none_ : ∀ c ∈ (s.net die net).delivered, c = 0) : exec (.deliveryReportSend die net) s = .next s := by
  show execDeliveryReportSend die net s = _
  unfold execDeliveryReportSend
  dsimp only
  rw [if_pos (by rw [Bool.or_eq_true]; exact .inl (List.all_eq_true.2 fun c there => decide_eq_true (none_ c there)))]

section
variable (some_ : ¬ ∀ c ∈ (s.net die net).delivered, c = 0) (live : (s.die die).live = true)
include some_ live

theorem deliveries_unreported : ((s.net die net).delivered.all (· = 0) || !(s.die die).live) = false := by
  rw [live, Bool.not_true, Bool.or_false]
  exact Bool.eq_false_iff.2 fun all => some_ fun c there => of_decide_eq_true (List.all_eq_true.1 all c there)

theorem exec_deliveryReportSend_waits (early : ¬ (s.holds die = false ∧ ((∃ c ∈ (s.net die net).delivered, 1024 ≤ c) ∨
    (s.net die net).reportAt.toNat ≤ (s.die die).cycle.toNat))) :
    exec (.deliveryReportSend die net) s = .next (s.postOnce (.deliveryReportSend die net)) := by
  have waits : (s.holds die || !(s.net die net).reportDue (s.die die).cycle) = true := by
    rw [← Net.reportDue_iff] at early
    cases held : s.holds die with
    | true => rfl
    | false => rw [Bool.false_or, Bool.eq_false_iff.2 fun due => early ⟨held, due⟩]; rfl
  show execDeliveryReportSend die net s = _
  unfold execDeliveryReportSend
  dsimp only
  rw [if_neg (by rw [deliveries_unreported some_ live]; decide), if_pos waits]

/-- The state in which nothing of a network is left to report. -/
def State.reported_ (s : State) (die net : Nat) : State := s.setNet die net { s.net die net with delivered := [0, 0, 0, 0] }

theorem exec_deliveryReportSend_sends (due : s.holds die = false ∧ ((∃ c ∈ (s.net die net).delivered, 1024 ≤ c) ∨
    (s.net die net).reportAt.toNat ≤ (s.die die).cycle.toNat)) :
    exec (.deliveryReportSend die net) s =
      .next ((s.reported_ die net).sendReports die net (s.net die net).d ((s.reported_ die net).others die)) := by
  have now : (s.holds die || !(s.net die net).reportDue (s.die die).cycle) = false := by
    rw [due.1, Net.reportDue_iff.2 due.2]; rfl
  show execDeliveryReportSend die net s = _
  unfold execDeliveryReportSend
  dsimp only
  rw [if_neg (by rw [deliveries_unreported some_ live]; decide), if_neg (by rw [now]; decide)]
  rfl

theorem deliveryReportSend_sends (due : s.holds die = false ∧ ((∃ c ∈ (s.net die net).delivered, 1024 ≤ c) ∨
    (s.net die net).reportAt.toNat ≤ (s.die die).cycle.toNat)) :
    ∃ t, exec (.deliveryReportSend die net) s = .next t ∧
      (die < s.dies.length → net < (s.die die).nets.length → (t.net die net).delivered = [0, 0, 0, 0]) ∧
      ∀ j, j < 4 → j ≠ die → (s.die j).live = true → ∃ id, .deliveryReportReceive ⟨die, j, net, (s.net die net).d, id⟩ ∈ t.agenda := by
  refine ⟨_, exec_deliveryReportSend_sends some_ live due, fun inside within => ?_, fun j known other up => State.mem_sendReports ?_⟩
  · rw [State.net_of_ledgers (State.sendReports_ledgers _), State.reported_, State.setNet_net inside within]
  · have still : ((s.reported_ die net).die j).live = (s.die j).live := State.setNet_dies_field Die.live (fun _ _ => rfl) j
    exact List.mem_filter.2 ⟨List.mem_range.2 known, by rw [still, up]; simp [other]⟩

end

end

section
variable {s : State} {r : DeliveryReport}

/-- Entries of a knowledge matrix raised by the counters of a die that reports. -/
def raiseFrom (k d : List (BitVec 16)) (src : Nat) (xs : List Nat) : List (BitVec 16) :=
  xs.foldl (fun k x => if x = src then k else raise k (4 * x + src) (d.getD x 0)) k

theorem getD_raise {k : List (BitVec 16)} {x y : Nat} {v : BitVec 16} (inside : x < k.length) :
    (raise k x v).getD y 0 = if y = x then smax (k.getD x 0) v else k.getD y 0 := by
  rw [raise, getD_setNth]
  by_cases same : y = x
  · rw [if_pos ⟨same, inside⟩, if_pos same]
  · rw [if_neg fun both => same both.1, if_neg same]

theorem getD_raiseFrom {d : List (BitVec 16)} {src y : Nat} {xs : List Nat} (once : xs.Nodup) (known : ∀ x ∈ xs, x < 4) (from_ : src < 4)
    {k : List (BitVec 16)} (size : k.length = 16) : (raiseFrom k d src xs).getD (4 * y + src) 0 =
      if y ∈ xs ∧ y ≠ src then smax (k.getD (4 * y + src) 0) (d.getD y 0) else k.getD (4 * y + src) 0 := by
  induction xs generalizing k with
  | nil => rfl
  | cons x xs ih =>
    obtain ⟨fresh, once⟩ := List.nodup_cons.1 once
    have inside : x < 4 := known x List.mem_cons_self
    have rest (z : Nat) (later : z ∈ xs) : z < 4 := known z (List.mem_cons_of_mem _ later)
    show (raiseFrom (if x = src then k else raise k (4 * x + src) (d.getD x 0)) d src xs).getD (4 * y + src) 0 = _
    by_cases own : x = src
    · rw [if_pos own, ih once rest size]
      have same : (y ∈ x :: xs ∧ y ≠ src) ↔ (y ∈ xs ∧ y ≠ src) := by
        rw [List.mem_cons]
        exact and_congr_left fun other => or_iff_right fun first => other (first.trans own)
      simp only [same]
    · have sized : (raise k (4 * x + src) (d.getD x 0)).length = 16 := (length_setNth ..).trans size
      rw [if_neg own, ih once rest sized, getD_raise (by omega)]
      by_cases first : y = x
      · rw [first, if_neg fun both => fresh both.1, if_pos rfl, if_pos ⟨List.mem_cons_self, own⟩]
      · have same : (y ∈ x :: xs ∧ y ≠ src) ↔ (y ∈ xs ∧ y ≠ src) := by rw [List.mem_cons, or_iff_right first]
        rw [if_neg (show ¬ 4 * y + src = 4 * x + src by omega)]
        simp only [same]

/-- A network as a report of another die has reached it. -/
def State.reportedNet (s : State) (r : DeliveryReport) : Net :=
  let n := s.net r.dst r.net
  { n with a := setNth n.a r.src (smax (n.a.getD r.src 0) (r.d.getD r.dst 0)), k := raiseFrom n.k r.d r.src (List.range 4) }

theorem exec_deliveryReportReceive : exec (.deliveryReportReceive r) s =
    if s.onWay r.id then .next (s.post (.deliveryReportReceive r)) else .next (s.setNet r.dst r.net (s.reportedNet r)) := rfl

theorem deliveryReportReceive_raises (here : s.onWay r.id = false) (inside : r.dst < s.dies.length) (within : r.net < (s.die r.dst).nets.length)
    (source : r.src < (s.net r.dst r.net).a.length) (size : (s.net r.dst r.net).k.length = 16) :
    ∃ t, exec (.deliveryReportReceive r) s = .next t ∧
      (t.net r.dst r.net).a.getD r.src 0 = smax ((s.net r.dst r.net).a.getD r.src 0) (r.d.getD r.dst 0) ∧
      (∀ x, x < 4 → x ≠ r.src → r.src < 4 →
        (t.net r.dst r.net).k.getD (4 * x + r.src) 0 = smax ((s.net r.dst r.net).k.getD (4 * x + r.src) 0) (r.d.getD x 0)) ∧
      (t.net r.dst r.net).d = (s.net r.dst r.net).d := by
  refine ⟨_, exec_deliveryReportReceive.trans (if_neg (by simp [here])), ?_⟩
  rw [State.setNet_net inside within]
  refine ⟨(getD_setNth ..).trans (if_pos ⟨rfl, source⟩), fun x known other from_ => ?_, rfl⟩
  exact (getD_raiseFrom List.nodup_range (fun y there => List.mem_range.1 there) from_ size).trans (if_pos ⟨List.mem_range.2 known, other⟩)

end

/-! ## Waits of the fabric (R470) -/

section
variable {s : State} {die : Nat}

/-- A wait has lasted 2^20 cycles and is not counted yet. -/
def State.lateStall (s : State) (die : Nat) (x : Option (Word64 × Bool)) : Bool :=
  x.any fun y => y.2 = false && 2 ^ 20 ≤ ((s.die die).cycle - y.1).toNat

/-- The waits of a die that are to be counted. -/
def State.lateStalls (s : State) (die : Nat) : Nat := ((s.die die).nets.map fun n => (n.stall.filter (s.lateStall die)).length).sum

/-- A die whose late waits are counted. -/
def State.stallsCounted (s : State) (die : Nat) : Die :=
  let mark (x : Option (Word64 × Bool)) : Option (Word64 × Bool) := if s.lateStall die x then x.map fun (t, _) => (t, true) else x
  { s.die die with nets := (s.die die).nets.map fun n => { n with stall := n.stall.map mark },
                   fabstat := bumpCount (s.die die).fabstat 48 (s.lateStalls die) }

theorem lateStall_eq : s.lateStall die = fun x => x.any fun (t, counted) => !counted && decide (2 ^ 20 ≤ ((s.die die).cycle - t).toNat) := by
  funext x
  rcases x with _ | ⟨t, counted⟩
  · rfl
  · cases counted <;> rfl

/-- The state in which a die's late waits are counted and told. -/
def State.stallsTold (s : State) (die : Nat) : State :=
  if 0 < s.lateStalls die then (s.setDie die (s.stallsCounted die)).tell die .fabricStall else s.setDie die (s.stallsCounted die)

theorem exec_fabricStall : ∃ waits : Bool, exec (.fabricStall die) s =
    .next (if waits then (s.stallsTold die).postOnce (.fabricStall die) else s.stallsTold die) := by
  refine ⟨(s.stallsCounted die).nets.any fun n => n.stall.any fun x => x.any fun (_, counted) => !counted, ?_⟩
  unfold State.stallsTold State.stallsCounted State.lateStalls
  rw [lateStall_eq]
  rfl

theorem fabricStall_counts (inside : die < s.dies.length) : ∃ t, exec (.fabricStall die) s = .next t ∧
    (t.die die).fabstat = bumpCount (s.die die).fabstat 48 (s.lateStalls die) ∧
    (0 < s.lateStalls die → t.out = s.out ++ [.shepherd die .fabricStall, .msiShepherd die]) ∧ (s.lateStalls die = 0 → t.out = s.out) := by
  obtain ⟨waits, runs⟩ := exec_fabricStall (s := s) (die := die)
  refine ⟨_, runs, ?_⟩
  have again : (if waits then (s.stallsTold die).postOnce (.fabricStall die) else s.stallsTold die).die = (s.stallsTold die).die ∧
      (if waits then (s.stallsTold die).postOnce (.fabricStall die) else s.stallsTold die).out = (s.stallsTold die).out := by
    cases waits with
    | false => exact ⟨rfl, rfl⟩
    | true => exact ⟨State.postOnce_die .., State.postOnce_out ..⟩
  rw [again.1, again.2]
  have written : ((s.setDie die (s.stallsCounted die)).die die).fabstat = bumpCount (s.die die).fabstat 48 (s.lateStalls die) :=
    congrArg Die.fabstat (State.setDie_die inside)
  by_cases late : 0 < s.lateStalls die
  · rw [State.stallsTold, if_pos late]
    exact ⟨written, fun _ => List.append_assoc .., fun none_ => absurd late (by omega)⟩
  · rw [State.stallsTold, if_neg late]
    exact ⟨written, fun some_ => absurd some_ late, fun _ => rfl⟩

end

/-! ## Arbitration (R366) -/

section
variable {s : State} {die : Nat} {r : ArbRequest}

theorem exec_arbiterPromotion (found : ((s.die die).arbiter.find? fun x => x.id = r.id) = some r) : exec (.arbiterPromotion die r.id) s =
    if ((s.die die).cycle - r.since).toNat < 8192 then .next (s.post (.arbiterPromotion die r.id))
    else .next (s.setDie die { s.die die with
      arbiter := (s.die die).arbiter.map fun x => if x.id = r.id then { x with promoted := true } else x }) := by
  show execArbiterPromotion die r.id s = _
  unfold execArbiterPromotion
  dsimp only
  rw [found]

end

/-- Settles O45: each event of the fabric by its own equation; an open window stamps the packet (`State.entered`), a delivery in an empty network
raises D alone (`State.deliver_unnoted`), and what happens beside the networks leaves them (`State.ledgers`). -/
theorem fabricTransport : Obligations.FabricTransport := by
  unfold Obligations.FabricTransport
  intro s
  refine ⟨fun die r found => ⟨fun young => ?_, fun old => ?_⟩,
    fun p => ⟨exec_orderedPacketSend_lost, exec_orderedPacketSend_waits, fun live turn closed => ?_, fun live turn open_ => ?_⟩,
    fun p => ⟨exec_orderedPacketArrival_dead, exec_orderedPacketArrival_stale, exec_orderedPacketArrival_held,
      fun live gen free ready => exec_orderedPacketArrival_ready live gen free (State.packetReady_iff.2 ready),
      fun live gen free unready => ?_, fun inside within source none_ silent idle => State.deliver_counted inside within source none_ silent idle,
      fun loc bytes none_ silent one => State.deliver_write none_ silent one⟩,
    fun r => ⟨exec_readRequestServe_dead, exec_readRequestServe_stale,
      fun live gen servable first free => exec_readRequestServe_now live gen ⟨first, State.readServable_iff.2 servable, free⟩,
      fun live gen later => exec_readRequestServe_later live gen (by rwa [State.readServable_iff])⟩,
    fun r => ⟨fun way => ?_, fun here caught => ?_, fun here behind => ?_⟩,
    fun die net => ⟨exec_deliveryReportSend_idle, fun some_ live early => exec_deliveryReportSend_waits some_ live early,
      fun some_ live due => deliveryReportSend_sends some_ live due⟩,
    fun r => ⟨fun way => ?_, fun here inside within source size => deliveryReportReceive_raises here inside within source size⟩,
    fun die inside => fabricStall_counts inside⟩
  · exact (exec_arbiterPromotion found).trans (if_pos young)
  · exact (exec_arbiterPromotion found).trans (if_neg (by omega))
  · refine ⟨_, exec_orderedPacketSend_closed live turn (decide_eq_false closed), State.mem_stallBegins (State.mem_post.2 (.inr rfl)) _, ?_⟩
    exact State.stallBegins_mem _
  · refine ⟨_, s.stamped p, exec_orderedPacketSend_enters live turn (decide_eq_true open_), State.mem_entered, rfl, rfl, rfl, rfl, rfl, State.stamped_gen,
      State.entered_mem, fun size src dst => ?_⟩
    obtain ⟨seq, dep⟩ := State.stamped_stamp size src dst
    exact ⟨seq, dep, fun inside within => by rw [State.entered_net inside within]; exact seq⟩
  · have waits := exec_orderedPacketArrival_waits live gen free fun ready => unready (State.packetReady_iff.1 ready)
    have kept (aside : List Nat) (early : s.waitEarly p = some (s.heldEarly p aside)) : ∃ t : State,
        exec (.orderedPacketArrival p) s = .next (t.release p.dst p.id) ∧ t.mem = s.mem ∧
        (p.dst < s.dies.length → p.net < (s.die p.dst).nets.length → (t.net p.dst p.net).early = (s.net p.dst p.net).early ++ [p] ∧
          (t.net p.dst p.net).aside = aside ∧ (t.net p.dst p.net).d = (s.net p.dst p.net).d) :=
      ⟨s.heldEarly p aside, by rw [waits, early], State.heldEarly_mem aside, State.heldEarly_net aside⟩
    have full (crowded : ¬ _) : s.earlyRoom p.dst p.net = false := Bool.eq_false_iff.2 fun room => crowded (State.earlyRoom_iff.1 room)
    refine ⟨fun room => kept _ (State.waitEarly_room (State.earlyRoom_iff.2 room)),
      fun crowded only => kept _ (State.waitEarly_aside (full crowded) only), fun crowded other => ?_⟩
    rw [waits, State.waitEarly_none (full crowded) other]
  · exact (exec_acquireCatchup r).trans (if_pos way)
  · exact (exec_acquireCatchup r).trans ((if_neg (by simp [here])).trans (if_pos ((caughtUp_iff r _).2 caught)))
  · exact (exec_acquireCatchup r).trans ((if_neg (by simp [here])).trans (if_neg fun caught => behind ((caughtUp_iff r _).1 caught)))
  · exact exec_deliveryReportReceive.trans (if_pos way)

end Sys2Proof.Machine

/-!
PROOFS. Links, heartbeats and removals as statement O46 says (R466, R467, R471 to R473).
-/
namespace Sys2Proof.Machine

/-! ## One end of a link -/

section
variable {s t : State} {die link i l : Nat} {α : Type}

theorem State.link_die (i l : Nat) : s.link i l = (s.die i).links.getD l Link.reset := rfl

theorem State.onLink_link {g : Link → Link} (inside : die < s.dies.length) (within : link < (s.die die).links.length) :
    (s.onLink die link g).link die link = g (s.link die link) := by
  rw [State.link_die, State.onLink, State.onDie_die inside]
  exact (getD_setNth ..).trans (if_pos ⟨rfl, within⟩)

/-- A field of the links that a change of one leaves alone. -/
theorem State.onLink_field (p : Link → α) {g : Link → Link} (hg : ∀ k, p (g k) = p k) : p ((s.onLink die link g).link i l) = p (s.link i l) :=
  State.onDie_field (fun d => p (d.links.getD l Link.reset)) fun d => by
    rw [getD_setNth]
    split
    next both => rw [hg, both.1]
    next => rfl

theorem State.onLink_link_ne {g : Link → Link} (other : i ≠ die) : (s.onLink die link g).link i l = s.link i l := by
  rw [State.link_die, State.onLink, State.onDie_die_ne other, State.link_die]

theorem State.onLink_length (g : Link → Link) : (s.onLink die link g).dies.length = s.dies.length := State.length_dies_onDie ..

theorem State.onLink_links_length (g : Link → Link) : ((s.onLink die link g).die i).links.length = (s.die i).links.length :=
  State.onDie_field (fun d => d.links.length) fun _ => length_setNth ..

theorem neighbour_ne (die link : Nat) : neighbour die link ≠ die := by
  intro same
  have undone : Nat.xor (Nat.xor die die) (if link = 0 then 1 else 2) = 0 := by
    rw [show Nat.xor (Nat.xor die die) (if link = 0 then 1 else 2) = Nat.xor die (Nat.xor die (if link = 0 then 1 else 2)) from Nat.xor_assoc ..,
      show Nat.xor die (if link = 0 then 1 else 2) = die from same]
    exact Nat.xor_self _
  rw [show Nat.xor die die = 0 from Nat.xor_self _] at undone
  split at undone <;> exact absurd undone (by decide)

/-! ## What the receiving side of a link keeps while packets go -/

/-- What an end of a link knows of the groups that it receives. -/
def Link.receiving (k : Link) : BitVec 12 × List (List (BitVec 256)) × Nat × Option Word64 := (k.expect, k.received, k.fails, k.firstFail)

theorem State.post_link (e : Event) (i l : Nat) : (s.post e).link i l = s.link i l := rfl

theorem State.onLink_receiving {g : Link → Link} (hg : ∀ k, (g k).receiving = k.receiving) :
    ((s.onLink die link g).link i l).receiving = (s.link i l).receiving := State.onLink_field Link.receiving hg

theorem State.giveUpSlot_receiving (id : Nat) : ((s.onDie die fun d => d.giveUpSlot id).link i l).receiving = (s.link i l).receiving :=
  State.onDie_field (fun d => (d.links.getD l Link.reset).receiving) fun d => by
    simp only [Die.giveUpSlot, List.getD_eq_getElem?_getD, List.getElem?_map]
    cases d.links[l]? <;> rfl

theorem State.sendGroup_receiving (p : Parcel) : ((s.sendGroup die link p).link i l).receiving = (s.link i l).receiving := by
  unfold State.sendGroup State.transmit
  dsimp only
  rw [State.post_link, State.post_link, State.onLink_receiving (by intro _; rfl)]

theorem State.sendParcel_receiving (p : Parcel) : ((s.sendParcel die link p).link i l).receiving = (s.link i l).receiving := by
  unfold State.sendParcel
  refine (State.sendGroup_receiving _).trans ((State.onLink_receiving (by intro _; rfl)).trans ((State.giveUpSlot_receiving _).trans ?_))
  exact State.onLink_receiving (by intro _; rfl)

theorem State.pump_receiving (n : Nat) : ((s.pump n).link i l).receiving = (s.link i l).receiving := by
  induction n generalizing s with
  | zero => rfl
  | succ n ih =>
    unfold State.pump
    split
    · rfl
    · exact ih.trans (State.sendParcel_receiving _)

theorem State.settlePorts_receiving : (s.settlePorts.link i l).receiving = (s.link i l).receiving := State.pump_receiving _

theorem State.release_receiving (id : Nat) : ((s.release die id).link i l).receiving = (s.link i l).receiving :=
  State.settlePorts_receiving.trans (State.giveUpSlot_receiving id)

theorem State.enqueue_receiving (p : Parcel) : ((s.enqueue die p).link i l).receiving = (s.link i l).receiving := by
  unfold State.enqueue
  split
  · rfl
  · exact State.onLink_receiving (by intro _; rfl)

theorem State.takeControl_receiving (g : LinkGroup) : ((s.takeControl die link g).link i l).receiving = (s.link i l).receiving := by
  unfold State.takeControl
  split
  · rfl
  · exact State.settlePorts_receiving.trans (State.onLink_receiving (by intro _; rfl))

theorem State.takeControl_offLinks (g : LinkGroup) : (s.takeControl die link g).offLinks = s.offLinks := by
  unfold State.takeControl
  split
  · rfl
  · exact State.settlePorts_offLinks.trans (State.onLink_offLinks ..)

/-- A packet that has come to an end of a link lies in its slot there. -/
def State.arrived (s : State) (die link : Nat) (p : Parcel) : State :=
  s.onLink die link fun k => { k with slots := k.slots.map fun x => if x.id = p.id then { x with here := true } else x }

theorem State.arrive_cases (p : Parcel) : s.arrive die link p = s ∨ s.arrive die link p = s.arrived die link p ∨
    s.arrive die link p = (s.arrived die link p).release die p.id ∨ ∃ q, s.arrive die link p = ((s.arrived die link p).enqueue die q).settlePorts := by
  unfold State.arrive State.arrived
  split
  · exact .inl rfl
  · dsimp only
    split
    · exact .inr (.inr (.inr ⟨_, rfl⟩))
    · split
      · exact .inr (.inr (.inl rfl))
      · exact .inr (.inl rfl)

theorem State.arrived_receiving (p : Parcel) : ((s.arrived die link p).link i l).receiving = (s.link i l).receiving :=
  State.onLink_receiving (by intro _; rfl)

theorem State.arrive_receiving (p : Parcel) : ((s.arrive die link p).link i l).receiving = (s.link i l).receiving := by
  rcases State.arrive_cases (s := s) (die := die) (link := link) p with same | here | gone | ⟨q, goes⟩
  · rw [same]
  · rw [here, State.arrived_receiving]
  · rw [gone, State.release_receiving, State.arrived_receiving]
  · rw [goes, State.settlePorts_receiving, State.enqueue_receiving, State.arrived_receiving]

theorem State.arrive_offLinks (p : Parcel) : (s.arrive die link p).offLinks = s.offLinks := by
  have here_ : (s.arrived die link p).offLinks = s.offLinks := State.onLink_offLinks ..
  rcases State.arrive_cases (s := s) (die := die) (link := link) p with same | here | gone | ⟨q, goes⟩
  · rw [same]
  · rw [here, here_]
  · rw [gone, State.release_offLinks, here_]
  · rw [goes, State.settlePorts_offLinks, State.enqueue_offLinks, here_]

end

/-! ## Groups (R466) -/

section
variable {s : State} {die link : Nat} {g : LinkGroup}

theorem exec_linkGroupReceive_idle (idle : (s.link die link).up = false ∨ (s.link die link).training = true) :
    exec (.linkGroupReceive die link g) s = .next s := by
  show execLinkGroupReceive die link g s = _
  unfold execLinkGroupReceive
  dsimp only
  rw [if_pos]
  rcases idle with down | training
  · rw [down]; rfl
  · rw [training, Bool.or_true]

section
variable (up : (s.link die link).up = true) (free : (s.link die link).training = false)
include up free

theorem exec_linkGroupReceive_behind (behind : s.groupBehind die link g = true) :
    exec (.linkGroupReceive die link g) s = .next (s.post (.linkGroupReceive die link g)) := by
  show execLinkGroupReceive die link g s = _
  unfold execLinkGroupReceive
  dsimp only
  rw [if_neg (by simp [up, free]), if_pos behind]

variable (first : s.groupBehind die link g = false)
include first

theorem exec_linkGroupReceive_later (later : g.seq ≠ (s.link die link).expect) : exec (.linkGroupReceive die link g) s = .next s := by
  show execLinkGroupReceive die link g s = _
  unfold execLinkGroupReceive
  dsimp only
  rw [if_neg (by simp [up, free]), if_neg (by simp [first]), if_pos later]

/-- The state in which a failure of a group's CRC is refused by name and counted. -/
def State.refused (s : State) (die link : Nat) : State :=
  (s.post (.linkNakReceive (neighbour die link) link (s.link die link).expect)).onLink die link fun k =>
    { k with fails := k.fails + 1, firstFail := some (k.firstFail.getD (s.die die).cycle) }

variable (turn : g.seq = (s.link die link).expect)
include turn

theorem exec_linkGroupReceive_bad (bad : groupIntact g = false) (inside : die < s.dies.length) (within : link < (s.die die).links.length) :
    exec (.linkGroupReceive die link g) s =
      .next (if (s.link die link).fails = 7 then (s.refused die link).post (.linkRetrain die link) else s.refused die link) := by
  have counted : ((s.refused die link).link die link).fails = (s.link die link).fails + 1 :=
    congrArg Link.fails (State.onLink_link (s := s.post _) inside within)
  have answer : exec (.linkGroupReceive die link g) s = .next (if ((s.refused die link).link die link).fails = 8 then
      (s.refused die link).post (.linkRetrain die link) else s.refused die link) := by
    show execLinkGroupReceive die link g s = _
    unfold execLinkGroupReceive
    dsimp only
    rw [if_neg (by simp [up, free]), if_neg (by simp [first]), if_neg (by simp [turn]), if_pos (by simp [bad])]
    rfl
  rw [answer, counted]
  simp only [Nat.reduceEqDiff]

/-- The state in which an end of a link has accepted a group. -/
def State.accepted (s : State) (die link : Nat) (g : LinkGroup) : State :=
  s.onLink die link fun k => { k with expect := k.expect + 1, received := k.received ++ [g.payload], fails := 0, firstFail := none }

/-- The state in which an accepted group has been acknowledged, and its packet taken. -/
def State.acknowledgedGroup (s : State) (die link : Nat) (g : LinkGroup) : State :=
  ((((s.accepted die link g).onLink (neighbour die link) link fun k => k.acknowledged g.seq).settlePorts).takeControl die link g).arrive die link g.parcel

theorem exec_linkGroupReceive_good (good : groupIntact g = true) :
    exec (.linkGroupReceive die link g) s = .next (s.acknowledgedGroup die link g) := by
  show execLinkGroupReceive die link g s = _
  unfold execLinkGroupReceive
  dsimp only
  rw [if_neg (by simp [up, free]), if_neg (by simp [first]), if_neg (by simp [turn]), if_neg (by simp [good])]
  rfl

end

theorem State.acknowledgedGroup_receiving (inside : die < s.dies.length) (within : link < (s.die die).links.length) :
    ((s.acknowledgedGroup die link g).link die link).receiving =
      ((s.link die link).expect + 1, (s.link die link).received ++ [g.payload], 0, none) := by
  rw [State.acknowledgedGroup, State.arrive_receiving, State.takeControl_receiving, State.settlePorts_receiving,
    State.onLink_link_ne (neighbour_ne die link).symm, State.accepted, State.onLink_link inside within]
  rfl

theorem State.acknowledgedGroup_mem : (s.acknowledgedGroup die link g).mem = s.mem := by
  have same : (s.acknowledgedGroup die link g).offLinks = s.offLinks := by
    rw [State.acknowledgedGroup, State.arrive_offLinks, State.takeControl_offLinks, State.settlePorts_offLinks, State.onLink_offLinks, State.accepted,
      State.onLink_offLinks]
  have kept : (s.acknowledgedGroup die link g).offLinks.mem = s.offLinks.mem := congrArg State.mem same
  exact kept

theorem linkGroupReceive_accepts (up : (s.link die link).up = true) (free : (s.link die link).training = false)
    (first : s.groupBehind die link g = false) (turn : g.seq = (s.link die link).expect) (good : groupIntact g = true) (inside : die < s.dies.length)
    (within : link < (s.die die).links.length) : ∃ t, exec (.linkGroupReceive die link g) s = .next t ∧
      (t.link die link).expect = (s.link die link).expect + 1 ∧ (t.link die link).received = (s.link die link).received ++ [g.payload] ∧
      (t.link die link).fails = 0 ∧ (t.link die link).firstFail = none ∧ t.mem = s.mem := by
  have receiving := State.acknowledgedGroup_receiving (g := g) inside within
  simp only [Link.receiving, Prod.mk.injEq] at receiving
  obtain ⟨expect, received, fails, firstFail⟩ := receiving
  exact ⟨_, exec_linkGroupReceive_good up free first turn good, expect, received, fails, firstFail, State.acknowledgedGroup_mem⟩

theorem State.nextParcel_full (full : 64 ≤ (s.link die link).replay.length) : s.nextParcel die link = none := by
  unfold State.nextParcel
  dsimp only
  rw [if_pos (by simp [full])]

/-! ## Refusals and resending (R466) -/

variable {seq : BitVec 12}

theorem exec_linkNakReceive (up : (s.link die link).up = true) : exec (.linkNakReceive die link seq) s =
    if (s.link die link).training then .next (s.post (.linkNakReceive die link seq))
    else .next (s.resend die link (((s.link die link).replay.filter fun x => (x.1.seq - seq).toNat < 2048).map (·.1))) := by
  show execLinkNakReceive die link seq s = _
  unfold execLinkNakReceive
  dsimp only
  rw [if_neg (by simp [up])]
  rfl

theorem exec_linkResendTimeout : exec (.linkResendTimeout die link seq) s =
    match (s.link die link).replay.find? fun x => x.1.seq = seq with
    | none => .next s
    | some (g, t) =>
      if !(s.link die link).up then .next s
      else if (s.link die link).training || decide (((s.die die).cycle - t).toNat < 2048) then .next (s.post (.linkResendTimeout die link seq))
      else .next ((s.resend die link [g]).post (.linkResendTimeout die link seq)) := rfl

theorem exec_linkResendTimeout_due {g : LinkGroup} {t : Word64} (found : ((s.link die link).replay.find? fun x => x.1.seq = seq) = some (g, t))
    (up : (s.link die link).up = true) (free : (s.link die link).training = false) : exec (.linkResendTimeout die link seq) s =
    if ((s.die die).cycle - t).toNat < 2048 then .next (s.post (.linkResendTimeout die link seq))
    else .next ((s.resend die link [g]).post (.linkResendTimeout die link seq)) := by
  rw [exec_linkResendTimeout, found]
  dsimp only
  rw [if_neg (by simp [up]), free, Bool.false_or]
  simp only [decide_eq_true_eq]

/-! ## Retraining and the loss of a link (R467, R471) -/

theorem exec_linkRetrain (up : (s.link die link).up = true) (free : (s.link die link).training = false) : exec (.linkRetrain die link) s =
    .next ((s.onBothEnds die link fun k => { k with training := true }).post (.linkRetrainComplete die link ((s.free 0).getLsbD 0))) := by
  show execLinkRetrain die link s = _
  unfold execLinkRetrain
  dsimp only
  rw [if_neg (by simp [up, free])]

theorem exec_linkRetrainComplete_well (training : (s.link die link).training = true) : exec (.linkRetrainComplete die link true) s =
    .next (((s.onBothEnds die link fun k => { k with training := false }).onBothEnds die link fun k =>
      { k with fails := 0, retrains := 0, firstFail := none }).settlePorts) := by
  show execLinkRetrainComplete die link true s = _
  unfold execLinkRetrainComplete
  dsimp only
  rw [if_neg (by simp [training])]
  rfl

/-- The state after one retrain more has failed. -/
def State.failedRetrain (s : State) (die link : Nat) : State :=
  (s.onBothEnds die link fun k => { k with training := false }).onLink die link fun k => { k with retrains := k.retrains + 1 }

theorem State.onLink_cycle (i : Nat) (g : Link → Link) : ((s.onLink die link g).die i).cycle = (s.die i).cycle :=
  State.onDie_field Die.cycle fun _ => rfl

theorem exec_linkRetrainComplete_failed (training : (s.link die link).training = true) : exec (.linkRetrainComplete die link false) s =
    .next ((s.failedRetrain die link).post (if 4 ≤ (s.link die link).retrains + 1 ||
      ((s.link die link).firstFail.any fun t => decide (15000000 ≤ ((s.die die).cycle - t).toNat)) then .linkDown die link else .linkRetrain die link)) := by
  have cycle : ((s.failedRetrain die link).die die).cycle = (s.die die).cycle := by
    rw [State.failedRetrain, State.onLink_cycle, State.onBothEnds, State.onLink_cycle, State.onLink_cycle]
  rw [← cycle]
  show execLinkRetrainComplete die link false s = _
  unfold execLinkRetrainComplete
  dsimp only
  rw [if_neg (by simp [training])]
  rfl

theorem linkRetrainComplete_fails (training : (s.link die link).training = true) : ∃ t, exec (.linkRetrainComplete die link false) s = .next t ∧
    (3 ≤ (s.link die link).retrains → .linkDown die link ∈ t.agenda) ∧
    (∀ at_, (s.link die link).firstFail = some at_ → 15000000 ≤ ((s.die die).cycle - at_).toNat → .linkDown die link ∈ t.agenda) ∧
    ((s.link die link).retrains < 3 → (s.link die link).firstFail = none → .linkRetrain die link ∈ t.agenda) := by
  refine ⟨_, exec_linkRetrainComplete_failed training, fun often => ?_, fun at_ failing long => ?_, fun seldom fresh => ?_⟩
  · rw [if_pos (by simp; omega)]
    exact State.mem_post.2 (.inr rfl)
  · rw [failing, Option.any_some, decide_eq_true long, Bool.or_true, if_pos rfl]
    exact State.mem_post.2 (.inr rfl)
  · rw [if_neg (by simp [fresh]; omega)]
    exact State.mem_post.2 (.inr rfl)

/-- The state in which both ends of a link are down and both shepherds are told. -/
def State.linkLost (s : State) (die link : Nat) : State :=
  ((s.onBothEnds die link fun k => { k with up := false, training := false }).tell die .linkDown).tell (neighbour die link) .linkDown

/-- The dies at a link's ends that have none left. -/
def State.isolated (s : State) (die link : Nat) : List Nat :=
  [die, neighbour die link].filter fun d => ((s.linkLost die link).die d).live && ((s.linkLost die link).die d).links.all fun k => !k.up

theorem exec_linkDown (up : (s.link die link).up = true) : exec (.linkDown die link) s =
    .next (if s.isolated die link = [] then (s.linkLost die link).postOnce (.dieRemoval (.link die (neighbour die link)))
      else (s.isolated die link).foldl (fun s d => s.postOnce (.dieRemoval (.die d))) (s.linkLost die link)) := by
  show execLinkDown die link s = _
  unfold execLinkDown
  rw [if_neg (by simp [up])]
  rfl

theorem State.linkLost_out : (s.linkLost die link).out = s.out ++ [.shepherd die .linkDown, .msiShepherd die,
    .shepherd (neighbour die link) .linkDown, .msiShepherd (neighbour die link)] := by
  show (((s.out ++ _) ++ _) ++ _) ++ _ = _
  simp only [List.append_assoc, List.cons_append, List.nil_append]

theorem linkDown_told (up : (s.link die link).up = true) : ∃ t, exec (.linkDown die link) s = .next t ∧
    t.out = s.out ++ [.shepherd die .linkDown, .msiShepherd die, .shepherd (neighbour die link) .linkDown, .msiShepherd (neighbour die link)] ∧
    (.dieRemoval (.link die (neighbour die link)) ∈ t.agenda ∨ .dieRemoval (.die die) ∈ t.agenda ∨ .dieRemoval (.die (neighbour die link)) ∈ t.agenda) := by
  refine ⟨_, exec_linkDown up, ?_⟩
  by_cases connected : s.isolated die link = []
  · rw [if_pos connected, State.postOnce_out, State.linkLost_out]
    exact ⟨rfl, .inl (State.mem_postOnce.2 (.inr rfl))⟩
  · obtain ⟨d, lost⟩ := List.exists_mem_of_ne_nil _ connected
    rw [if_neg connected, foldl_kept State.out fun _ _ => State.postOnce_out .., State.linkLost_out]
    refine ⟨rfl, .inr ?_⟩
    rw [State.mem_foldl_due, State.mem_foldl_due]
    have end_ : d = die ∨ d = neighbour die link := by simpa using (List.mem_filter.1 lost).1
    exact end_.imp (fun same => .inr ⟨d, lost, by rw [same]⟩) fun same => .inr ⟨d, lost, by rw [same]⟩

end

/-! ## Heartbeats (R471) -/

section
variable {s : State} {die : Nat}

/-- The state in which a die's heartbeat is counted. -/
def State.beaten (s : State) (die n : Nat) : State :=
  s.setDie die { s.die die with shepherd := { (s.die die).shepherd with beat := (s.die die).cycle, missed := n } }

theorem exec_heartbeat_early (live : (s.die die).live = true) (early : ((s.die die).cycle - (s.die die).shepherd.beat).toNat < 1500000) :
    exec (.heartbeat die false) s = .next (s.post (.heartbeat die false)) := by
  show execHeartbeat die false s = _
  unfold execHeartbeat
  dsimp only
  rw [if_neg (by simp [live]), if_pos early]

variable (due : (s.die die).live = true ∧ 1500000 ≤ ((s.die die).cycle - (s.die die).shepherd.beat).toNat)
include due

theorem exec_heartbeat_sent (runs : (s.die die).shepherd.mode = .running) :
    exec (.heartbeat die false) s = .next (((s.beaten die 0).emit (.heartbeat die)).post (.heartbeat die false)) := by
  show execHeartbeat die false s = _
  unfold execHeartbeat
  dsimp only
  rw [if_neg (by simp [due]), if_neg (by omega), if_neg (by simp [runs])]
  rfl

theorem exec_heartbeat_missed : exec (.heartbeat die true) s =
    .next (if 9 ≤ (s.die die).shepherd.missed then (s.beaten die 10).postOnce (.dieRemoval (.die die))
      else (s.beaten die ((s.die die).shepherd.missed + 1)).post (.heartbeat die false)) := by
  show execHeartbeat die true s = _
  unfold execHeartbeat
  dsimp only
  rw [if_neg (by simp [due]), if_neg (by omega), if_pos (by simp)]
  rfl

end

/-! ## Removals (R471) -/

section
variable {s : State} {r : Nat}

/-- The paddocks that hold clusters of a die. -/
def State.paddocksOn (s : State) (r : Nat) : List Nat := (List.range 8).filter fun n => (s.paddockClusters n).any fun c => c / 24 = r

theorem State.removeDie_eq (unpeopled : s.herds = []) : s.removeDie r = (s.paddocksOn r).foldl State.fabricQuiesce (s.cutDie r) := by
  simp only [State.removeDie, unpeopled, List.filter_nil, List.map_nil, State.loseHerds_nil]
  rfl

theorem State.postOnce_paddock (e : Event) (n : Nat) : (s.postOnce e).paddock n = s.paddock n := by
  rw [State.paddock, State.postOnce_paddocks, State.paddock]

/-- While no herd is resident, a paddock of its own is quiesced and no other changes. -/
theorem State.fabricQuiesce_paddocks (unpeopled : s.herds = []) (n : Nat) : ∃ x : Paddock, x.quiesce = true ∧
    ((s.fabricQuiesce n).paddocks = s.paddocks ∧ (s.paddock n).quiesce = true ∨ (s.fabricQuiesce n).paddocks = setNth s.paddocks n x) := by
  by_cases already : (s.paddock n).quiesce = true
  · refine ⟨s.paddock n, already, .inl ⟨?_, already⟩⟩
    rw [State.fabricQuiesce, (State.paddockReport_kept n 4).1, State.startQuiesce]
    dsimp only
    rw [if_pos already]
  · refine ⟨{ s.paddock n with quiesce := true, quiesceAt := s.dies.map (·.cycle) }, rfl, .inr ?_⟩
    have empty : (s.setPaddock n { s.paddock n with quiesce := true, quiesceAt := s.dies.map (·.cycle) }).paddockHerds n = [] := by
      rw [State.paddockHerds, State.setPaddock_herds, unpeopled]; rfl
    rw [State.fabricQuiesce, (State.paddockReport_kept n 4).1, State.startQuiesce]
    dsimp only
    rw [if_neg already, State.postOnce_paddocks, State.postOnce_paddocks, empty]
    rfl

theorem State.fabricQuiesce_quiesce {n m : Nat} (unpeopled : s.herds = []) (inside : m < s.paddocks.length)
    (held : m = n ∨ (s.paddock m).quiesce = true) : ((s.fabricQuiesce n).paddock m).quiesce = true ∧ (s.fabricQuiesce n).paddocks.length = s.paddocks.length := by
  obtain ⟨x, quiesced, ⟨same, already⟩ | written⟩ := State.fabricQuiesce_paddocks unpeopled n
  · rw [State.paddock, same]
    exact ⟨held.elim (fun named => named ▸ already) id, rfl⟩
  · rw [State.paddock, written, length_setNth, getD_setNth]
    by_cases named : m = n
    · rw [if_pos ⟨named, named ▸ inside⟩]
      exact ⟨quiesced, rfl⟩
    · rw [if_neg fun both => named both.1]
      exact ⟨held.resolve_left named, rfl⟩

theorem State.foldl_fabricQuiesce {l : List Nat} {m : Nat} (unpeopled : s.herds = []) (inside : m < s.paddocks.length)
    (held : m ∈ l ∨ (s.paddock m).quiesce = true) : ((l.foldl State.fabricQuiesce s).paddock m).quiesce = true := by
  induction l generalizing s with
  | nil => exact held.resolve_left List.not_mem_nil
  | cons n l ih =>
    obtain ⟨herds, -⟩ := State.fabricQuiesce_unpeopled (n := n) unpeopled
    have kept (one : m = n ∨ (s.paddock m).quiesce = true) := State.fabricQuiesce_quiesce unpeopled inside one
    have sized : (s.fabricQuiesce n).paddocks.length = s.paddocks.length := by
      obtain ⟨x, -, ⟨same, -⟩ | written⟩ := State.fabricQuiesce_paddocks unpeopled n
      · rw [same]
      · rw [written, length_setNth]
    refine ih herds (by rwa [sized]) ?_
    rcases held with named | quiet
    · exact (List.mem_cons.1 named).symm.imp_right fun same => (kept (.inl same)).1
    · exact .inr (kept (.inr quiet)).1

/-- The links of a removed die's neighbours toward it. -/
theorem State.cutLinks_eq : s.cutLinks r = (s.onLink (neighbour r 0) 0 fun k => { k with up := false }).onLink (neighbour r 1) 1 fun k =>
    { k with up := false } := rfl

theorem neighbour_lt {l : Nat} (inside : r < 4) : neighbour r l < 4 := by
  unfold neighbour
  split
  · exact Nat.xor_lt_two_pow (n := 2) inside (by decide)
  · exact Nat.xor_lt_two_pow (n := 2) inside (by decide)

theorem State.die_mem {i : Nat} (known : i < s.dies.length) : s.die i ∈ s.dies := by
  rw [State.die, List.getD_eq_getElem?_getD, List.getElem?_eq_getElem known]
  exact List.getElem_mem _

theorem State.cutLinks_up {l : Nat} (inside : r < 4) (every : s.dies.length = 4) (pair : ∀ i, i < 4 → (s.die i).links.length = 2) (named : l < 2) :
    ((s.cutLinks r).link (neighbour r l) l).up = false := by
  have within (i : Nat) (known : i < 4) (j : Nat) (two : j < 2) : j < (s.die i).links.length := by rw [pair i known]; exact two
  rw [State.cutLinks_eq]
  match l, named with
  | 0, _ =>
    have cut : ((s.onLink (neighbour r 0) 0 fun k => { k with up := false }).link (neighbour r 0) 0).up = false :=
      congrArg Link.up (State.onLink_link (every ▸ neighbour_lt inside) (within _ (neighbour_lt inside) 0 (by decide)))
    have apart : neighbour r 0 ≠ neighbour r 1 := fun same => absurd (Nat.xor_right_injective (x := r) same) (by decide)
    rw [State.onLink_link_ne apart]
    exact cut
  | 1, _ =>
    refine congrArg Link.up (State.onLink_link ?_ ?_)
    · rw [State.onLink_length, every]
      exact neighbour_lt inside
    · rw [State.onLink_links_length]
      exact within _ (neighbour_lt inside) 1 (by decide)

end

end Sys2Proof.Machine

/-!
PROOFS. Resynchronisation, its commit, and the whole of statement O46 (R466, R467, R471 to R473).
-/
namespace Sys2Proof.Machine

/-! ## The resynchronisation falls due (R471, R472) -/

section
variable {s : State} {i : Nat} {seq : BitVec 32}

/-- A shepherd's journal has come to a state of a commit, as statement O46 writes it. -/
theorem State.journalled_has {n : Nat} :
    s.journalled i seq n = true ↔ (s.shep i).journal.seq = seq ∧ n ≤ (s.shep i).journal.state.toNat := by
  simp only [State.journalled, Bool.and_eq_true, decide_eq_true_eq]

theorem State.ready_has {n : Nat} : s.Ready i seq.toNat n ↔ (s.shep i).journal.seq = seq ∧ n ≤ (s.shep i).journal.state.toNat :=
  State.journalled_iff.symm.trans State.journalled_has

theorem State.removeCutOff_due {d : Nat} (inside : d < 4) (live : (s.die d).live = true) (cut : ∀ k ∈ (s.die d).links, k.up = false) :
    .dieRemoval (.die d) ∈ s.removeCutOff.agenda := by
  rw [State.removeCutOff, State.mem_foldl_due]
  refine .inr ⟨d, List.mem_filter.2 ⟨List.mem_range.2 inside, ?_⟩, rfl⟩
  simp only [live, Bool.true_and, List.all_eq_true, Bool.not_eq_true']
  exact cut

theorem exec_dieRemoval_die (live : (s.die i).live = true) :
    exec (.dieRemoval (.die i)) s = .next ((s.removeDie i).resolveCommit.removeCutOff.postOnce .resynchronisation) :=
  if_pos live

theorem exec_dieRemoval_dead (dead : (s.die i).live = false) : exec (.dieRemoval (.die i)) s = .next s :=
  if_neg (by simp [dead])

theorem exec_dieRemoval_link {a b : Nat} (near : (s.die a).live = true) (far : (s.die b).live = true) :
    exec (.dieRemoval (.link a b)) s = .next ((s.removeLink a b).removeCutOff.postOnce .resynchronisation) :=
  if_pos (by simp [near, far])

theorem exec_resynchronisation_waits (stopped : (s.shep s.coordinator).mode ≠ .running) :
    exec .resynchronisation s = .next (s.post .resynchronisation) := by
  show execResynchronisation s = _
  unfold execResynchronisation
  dsimp only
  rw [if_pos (by simp [State.shepRuns, stopped])]

section
variable (runs : (s.shep s.coordinator).mode = .running)
include runs

theorem exec_resynchronisation : exec .resynchronisation s =
    match s.inProgress with
    | none => .next (s.stage none)
    | some (_, some _) => .next (s.post .resynchronisation)
    | some (seq, none) =>
      if s.liveDies.all (fun d => s.journalled d seq 1) && s.liveDies.all fun d => !s.journalled d seq 2 then .next s.resync.commit
      else .next (s.post .resynchronisation) := by
  show execResynchronisation s = _
  unfold execResynchronisation
  dsimp only
  rw [if_neg (by simp [State.shepRuns, runs])] <;> rfl

theorem exec_resynchronisation_begins (unstaged : ∀ i ∈ s.liveDies, (s.shep i).staged = none) :
    exec .resynchronisation s = .next (s.stage none) := by
  rw [exec_resynchronisation runs, State.inProgress_unstaged unstaged]

theorem exec_resynchronisation_behind {c : LayoutChange} (change : s.inProgress = some (seq, some c)) :
    exec .resynchronisation s = .next (s.post .resynchronisation) := by
  rw [exec_resynchronisation runs, change]

theorem exec_resynchronisation_prepared (removal : s.inProgress = some (seq, none))
    (all : ∀ i ∈ s.liveDies, s.journalled i seq 1 = true ∧ ¬ s.journalled i seq 2 = true) :
    exec .resynchronisation s = .next s.resync.commit := by
  rw [exec_resynchronisation runs, removal]
  refine if_pos ?_
  rw [Bool.and_eq_true, List.all_eq_true, List.all_eq_true]
  exact ⟨fun d there => (all d there).1, fun d there => by simp [Bool.eq_false_iff.2 (all d there).2]⟩

theorem exec_resynchronisation_unprepared (removal : s.inProgress = some (seq, none))
    (late : ∃ i ∈ s.liveDies, ¬ s.journalled i seq 1 = true ∨ s.journalled i seq 2 = true) :
    exec .resynchronisation s = .next (s.post .resynchronisation) := by
  obtain ⟨i, there, open_⟩ := late
  rw [exec_resynchronisation runs, removal]
  refine if_neg fun both => ?_
  rw [Bool.and_eq_true, List.all_eq_true, List.all_eq_true] at both
  exact open_.elim (fun unwritten => unwritten (both.1 i there)) fun committed => absurd (both.2 i there) (by simp [committed])

end

theorem State.stage_mem (c : Option LayoutChange) : (s.stage c).mem = s.mem := by
  rw [State.stage_eq, foldl_kept State.mem fun _ _ => State.postOnce_mem .., State.stageAll_mem]

theorem State.holds_prepared (staged : (s.shep i).staged = some (seq, none))
    (has : (s.shep i).journal.seq = seq ∧ 1 ≤ (s.shep i).journal.state.toNat) : s.holds i = true := by
  have written : (s.shep i).journal.state ≠ 0 := fun zero => by simp [zero] at has
  have answer : s.holds i = match (s.shep i).staged with
    | some (seq, none) => (s.shep i).journal.seq = seq && (s.shep i).journal.state ≠ 0
    | _ => false := rfl
  rw [answer, staged]
  simpa [has.1] using written

end

/-! ## The fabric is emptied (R472) -/

section
variable {s : State}

theorem State.loseReplies_parts : s.loseReplies.agenda = s.agenda ∧ s.loseReplies.mem = s.mem ∧ s.loseReplies.dies = s.dies := ⟨rfl, rfl, rfl⟩

theorem State.drainFabric_none (quiet : ∀ d n, (s.net d n).early = []) : s.drainFabric [] = s := by
  unfold State.drainFabric
  rw [List.foldl_nil]
  have die_ (l : List Nat) (d : Nat) : l.foldl (fun s n => s.deliverWaiting d n (s.net d n).early.length) s = s := by
    induction l with
    | nil => rfl
    | cons n l ih => rw [List.foldl_cons, State.deliverWaiting_none (quiet d n), ih]
  generalize List.range 4 = l
  induction l with
  | nil => rfl
  | cons d l ih => rw [List.foldl_cons, die_, ih]

/-- An event that a resynchronisation leaves as it is: no packet, read, acquire or report of the fabric. -/
def OffFabric (e : Event) : Prop :=
  packetOf e = none ∧ (∀ r, e ≠ .readRequestServe r) ∧ (∀ r, e ≠ .acquireCatchup r) ∧ ∀ r, e ≠ .deliveryReportReceive r

theorem getD_of_forall {α : Type} {P : α → Prop} {l : List α} {x : α} (all : ∀ y ∈ l, P y) (base : P x) (n : Nat) : P (l.getD n x) := by
  rw [List.getD_eq_getElem?_getD]
  cases there : l[n]? with
  | none => exact base
  | some y => exact all y (List.mem_of_getElem? there)

theorem State.net_early (quiet : ∀ d ∈ s.dies, ∀ n ∈ d.nets, n.early = []) (d n : Nat) : (s.net d n).early = [] := by
  have base : ∀ x ∈ (Die.reset d).nets, x.early = [] := fun x there => by rw [List.eq_of_mem_replicate there]; rfl
  have die_ : ∀ x ∈ (s.die d).nets, x.early = [] := getD_of_forall (P := fun y : Die => ∀ x ∈ y.nets, x.early = []) quiet base d
  exact getD_of_forall (P := fun x : Net => x.early = []) die_ rfl n

/-- The state in which no packet is left on a link. -/
theorem State.clearPorts_quiet (quiet : ∀ d ∈ s.dies, ∀ n ∈ d.nets, n.early = []) : ∀ d ∈ s.clearPorts.dies, ∀ n ∈ d.nets, n.early = [] := by
  intro d there
  obtain ⟨x, known, same⟩ := List.mem_map.1 there
  rw [← same]
  exact quiet x known

theorem State.clearPorts_empty : ∀ d ∈ s.clearPorts.dies, ∀ k ∈ d.links, k.outbox = [] ∧ k.slots = [] := by
  intro d there k port
  obtain ⟨x, -, same⟩ := List.mem_map.1 there
  rw [← same] at port
  obtain ⟨y, -, cleared⟩ := List.mem_map.1 port
  rw [← cleared]
  exact ⟨rfl, rfl⟩

theorem State.resync_idle (idle : ∀ e ∈ s.agenda, OffFabric e) (quiet : ∀ d ∈ s.dies, ∀ n ∈ d.nets, n.early = []) :
    s.resync = s.loseReplies.clearPorts := by
  have nothing {α : Type} {f : Event → Option α} (h : ∀ e ∈ s.agenda, f e = none) : s.agenda.filterMap f = [] := List.filterMap_eq_nil_iff.2 h
  have everything {f : Event → Bool} (h : ∀ e ∈ s.agenda, f e = true) : s.agenda.filter f = s.agenda := List.filter_eq_self.2 h
  have quiet_ : ∀ d ∈ s.loseReplies.clearPorts.dies, ∀ n ∈ d.nets, n.early = [] := State.clearPorts_quiet quiet
  have kept : ({ s.loseReplies with agenda := s.agenda } : State) = s.loseReplies := rfl
  have left : (s.loseReplies.clearPorts.dies.flatMap fun d => d.nets.flatMap fun n => n.early) = [] :=
    List.flatMap_eq_nil_iff.2 fun d there => List.flatMap_eq_nil_iff.2 (quiet_ d there)
  unfold State.resync
  dsimp only
  rw [nothing, nothing, everything, kept]
  rotate_left
  · intro e there
    obtain ⟨packet, read, -, report⟩ := idle e there
    split
    · exact absurd packet (by simp [packetOf])
    · exact absurd rfl (read _)
    · exact absurd rfl (report _)
    · rfl
  · intro e there
    obtain ⟨-, read, -⟩ := idle e there
    split
    · exact absurd rfl (read _)
    · rfl
  · intro e there
    rw [(idle e there).1]
  dsimp only [sortBy, List.partition, List.partition.loop, List.foldr_nil, List.foldl_nil, List.reverse_nil]
  rw [State.drainFabric_none (State.net_early quiet_), left]
  have silent {α : Type} {f : Event → Option α} (h : ∀ e ∈ s.agenda, f e = none) : s.loseReplies.clearPorts.agenda.filterMap f = [] := nothing h
  have stays (u : State) (f : Event → Bool) (all : ∀ e ∈ u.agenda, f e = true) : ({ u with agenda := u.agenda.filter f } : State) = u := by
    rw [List.filter_eq_self.2 all]
  dsimp only [List.foldl_nil, List.filter_nil, List.map_nil, List.nil_append]
  rw [silent, stays s.loseReplies.clearPorts]
  · rfl
  · intro e there
    obtain ⟨-, -, acquire, -⟩ := idle e there
    split
    · exact absurd rfl (acquire _)
    · rfl
  · intro e there
    obtain ⟨-, -, acquire, -⟩ := idle e there
    split
    · exact absurd rfl (acquire _)
    · rfl

end

/-! ## Each die takes zero counters and the next generation (R472) -/

theorem sum_map_filter {α : Type} (p : α → Bool) (f : α → Nat) (l : List α) :
    ((l.filter p).map f).sum = (l.map fun i => if p i then f i else 0).sum := by
  induction l with
  | nil => rfl
  | cons x l ih =>
    rw [List.filter_cons]
    split <;> simp_all

section
variable {s : State} {die : Nat} {seq : BitVec 32}

/-- FABSTAT after a resynchronisation, from its value before. -/
def State.freshFabstat (s : State) (die : Nat) (v : Nat) : Nat :=
  withBits (withBits (withBits v 0 3 (bitsAt v 0 3 + 1)) 3 4 (((List.range 4).filter fun d => (s.die d).live).map (2 ^ ·)).sum) 7 2
    (((List.range 2).filter fun l => s.linkUp die (neighbour die l)).map (2 ^ ·)).sum

theorem State.freshFabstat_generation (v : Nat) : s.freshFabstat die v % 8 = (v % 8 + 1) % 8 := by
  rw [State.freshFabstat, withBits_eq, withBits_eq, withBits_eq, bitsAt]
  omega

theorem State.freshFabstat_live (v : Nat) {e : Nat} (inside : e < 4) : (s.freshFabstat die v).testBit (3 + e) = (s.die e).live := by
  have below : ¬ (7 ≤ 3 + e ∧ 3 + e < 7 + 2) := by omega
  have field : 3 ≤ 3 + e ∧ 3 + e < 3 + 4 := by omega
  rw [State.freshFabstat, testBit_withBits, if_neg below, testBit_withBits, if_pos field, Nat.add_sub_cancel_left, sum_map_filter]
  exact testBit_bitsOf inside

/-- A die as a resynchronisation leaves it. -/
def State.freshDie (s : State) (die : Nat) (d : Die) : Die :=
  { d with fabstat := BitVec.ofNat 64 (s.freshFabstat die d.fabstat.toNat), nets := d.nets.map fun _ => Net.reset
           rdc := d.rdc.filter fun x => (s.die (homeDie x.pa)).live, l2 := d.l2.filter fun x => (s.die (homeDie x.pa)).live }

theorem State.freshStamps_dies : (s.freshStamps die).dies = (s.onDie die (s.freshDie die)).dies := rfl

theorem State.freshStamps_die (inside : die < s.dies.length) : (s.freshStamps die).die die = s.freshDie die (s.die die) := by
  rw [State.die_congr State.freshStamps_dies, State.onDie_die inside]

/-- What a removal's stamps leave at every die: its shepherd, and whether it is live. -/
theorem State.freshStamps_field {α : Type} (p : Die → α) (hp : ∀ d f n r l, p { d with fabstat := f, nets := n, rdc := r, l2 := l } = p d) (i : Nat) :
    p ((s.freshStamps die).die i) = p (s.die i) := by
  rw [State.die_congr State.freshStamps_dies]
  exact State.onDie_field p fun _ => hp ..

/-- The record of a removal that has been applied. -/
def removedRecord (seq : BitVec 32) : Journal := ⟨seq, 3, 0, false⟩

theorem exec_commitApply_removal (live : die ∈ s.liveDies) (staged : (s.shep die).staged = some (seq, none)) (runs : (s.shep die).mode = .running)
    (record : ∃ i ∈ s.liveDies, s.Ready i seq.toNat 2) (late : ¬ s.Ready die seq.toNat 3) :
    exec (.commitApply die) s = .next (((s.freshStamps die).recorded die (removedRecord seq)).appliedAt seq) := by
  obtain ⟨i, there, held⟩ := record
  have present : (s.liveDies.any fun d => s.journalled d seq 2) = true := List.any_eq_true.2 ⟨i, there, State.journalled_iff.2 held⟩
  have unapplied : s.journalled die seq 3 = false := Bool.eq_false_iff.2 fun there => late (State.journalled_iff.1 there)
  show execCommitApply die s = _
  unfold execCommitApply
  rw [State.staged_live live staged]
  simp only [State.shepRuns_eq runs, present, unapplied, Bool.not_true, Bool.false_eq_true, if_false]
  rfl

theorem State.appliedAt_memory : (s.appliedAt seq).mem = s.mem := by
  unfold State.appliedAt
  split
  · exact State.postOnce_mem ..
  · rfl

theorem commitApply_removed (every : s.dies.length = 4) (live : die ∈ s.liveDies) (staged : (s.shep die).staged = some (seq, none))
    (runs : (s.shep die).mode = .running) (record : ∃ i ∈ s.liveDies, s.Ready i seq.toNat 2) (late : ¬ s.Ready die seq.toNat 3) :
    ∃ t, exec (.commitApply die) s = .next t ∧ t.mem = s.mem ∧ (t.shep die).journal = ⟨seq, 3, 0, false⟩ ∧
      (t.die die).nets = (s.die die).nets.map (fun _ => Net.reset) ∧
      (t.die die).fabstat.toNat % 8 = ((s.die die).fabstat.toNat % 8 + 1) % 8 ∧
      (∀ e, e < 4 → (t.die die).fabstat.getLsbD (3 + e) = (s.die e).live) ∧
      ((∀ i ∈ s.liveDies, i ≠ die → s.Ready i seq.toNat 3) → .commitDone ∈ t.agenda) := by
  have inside := State.mem_liveDies_inside every live
  have within : die < (s.freshStamps die).dies.length := by
    rwa [State.freshStamps_dies, State.length_dies_onDie]
  have lives : (s.freshStamps die).liveDies = s.liveDies := State.liveDies_congr fun i => State.freshStamps_field Die.live (fun _ _ _ _ _ => rfl) i
  have sheps (i : Nat) : (s.freshStamps die).shep i = s.shep i := State.freshStamps_field Die.shepherd (fun _ _ _ _ _ => rfl) i
  have die_ {α : Type} (p : Die → α) (hp : ∀ x h, p { x with shepherd := h } = p x) :
      p ((((s.freshStamps die).recorded die (removedRecord seq)).appliedAt seq).die die) = p ((s.freshStamps die).die die) := by
    rw [State.die_congr State.appliedAt_dies]
    exact State.onShep_offShep p hp
  have nets : ((s.freshStamps die).die die).nets = (s.die die).nets.map (fun _ => Net.reset) := by rw [State.freshStamps_die inside, State.freshDie]
  have fabstat : ((s.freshStamps die).die die).fabstat = BitVec.ofNat 64 (s.freshFabstat die (s.die die).fabstat.toNat) := by
    rw [State.freshStamps_die inside, State.freshDie]
  refine ⟨_, exec_commitApply_removal live staged runs record late, State.appliedAt_memory, ?_, ?_, ?_, fun e inside => ?_, fun others => ?_⟩
  · rw [State.shep_congr State.appliedAt_dies, State.recorded_journal within]
    rfl
  · rw [die_ Die.nets fun _ _ => rfl, nets]
  · rw [die_ Die.fabstat fun _ _ => rfl, fabstat, BitVec.toNat_ofNat, Nat.mod_mod_of_dvd _ (by decide), State.freshFabstat_generation]
  · rw [die_ Die.fabstat fun _ _ => rfl, fabstat, BitVec.getLsbD_ofNat, State.freshFabstat_live _ inside, decide_eq_true (by omega), Bool.true_and]
  · rw [State.appliedAt, if_pos]
    · exact State.mem_postOnce.2 (.inr rfl)
    · refine State.recorded_all (seq := seq) (j := removedRecord seq) (n := 3) within ⟨rfl, Nat.le_refl 3⟩ fun i there other => ?_
      rw [lives] at there
      exact (State.ready_congr (sheps i)).2 (others i there other)

end

/-! ## A die that is removed (R471) -/

section
variable {s : State} {r : Nat}

theorem removeDie_unpeopled (unpeopled : s.herds = []) (inside : r < 4) (every : s.dies.length = 4) (pair : ∀ d ∈ s.dies, d.links.length = 2)
    (paddocks : s.paddocks.length = 8) :
    ((s.removeDie r).die r).live = false ∧ ((s.removeDie r).die r).counters = [] ∧
      (∀ l, l < 2 → ((s.removeDie r).link (neighbour r l) l).up = false) ∧
      ∀ n, n < 8 → (∃ c ∈ s.paddockClusters n, c / 24 = r) → ((s.removeDie r).paddock n).quiesce = true := by
  obtain ⟨-, dies⟩ := State.removeDie_unpeopled (r := r) unpeopled
  have known : r < s.dies.length := every ▸ inside
  refine ⟨?_, ?_, fun l named => ?_, fun n low owned => ?_⟩
  · rw [State.die_congr dies, State.cutDie_live known, decide_eq_false (not_not.2 rfl), Bool.false_and]
  · rw [State.die_congr dies]
    refine (foldl_kept (fun u : State => (u.die r).counters) fun _ _ => State.onDie_field Die.counters (by intro _; rfl)).trans ?_
    rw [State.onDie_die known]
  · rw [State.link_die, State.die_congr dies, ← State.link_die]
    refine State.cutLinks_up inside ((State.length_dies_onDie ..).trans every) (fun i known => ?_) named
    exact (State.onDie_field (fun d => d.links.length) (by intro _; rfl)).trans (pair _ (State.die_mem (every ▸ known)))
  · rw [State.removeDie_eq unpeopled]
    refine State.foldl_fabricQuiesce ((State.cutDie_herds s r).trans unpeopled) ?_ (.inl ?_)
    · have same : (s.cutDie r).paddocks = s.paddocks := rfl
      rw [same, paddocks]
      exact low
    · obtain ⟨c, owns, placed⟩ := owned
      exact List.mem_filter.2 ⟨List.mem_range.2 low, List.any_eq_true.2 ⟨c, owns, decide_eq_true placed⟩⟩

end

/-- Settles O46: links by the equations of their events, a removal by the dies and paddocks that it leaves, and a resynchronisation by its
commit. -/
theorem fabricLinks : Obligations.FabricLinks := by
  unfold Obligations.FabricLinks
  intro s
  refine ⟨fun die link g => ?_, fun die link seq => ?_, fun die link => ?_, fun die => ?_, fun r live => exec_dieRemoval_die live,
    fun r unpeopled inside every pair paddocks => removeDie_unpeopled unpeopled inside every pair paddocks,
    fun a b near far => exec_dieRemoval_link near far, fun r dead => exec_dieRemoval_dead dead,
    fun d inside live cut => State.removeCutOff_due inside live cut, ?_, fun idle quiet => ?_, fun die seq inside every live runs staged => ?_⟩
  · refine ⟨exec_linkGroupReceive_idle, exec_linkGroupReceive_behind, fun ⟨up, free, first⟩ later => exec_linkGroupReceive_later up free first later,
      fun ⟨up, free, first⟩ turn bad inside within => ?_, fun ⟨up, free, first⟩ good turn known port every pair => ?_, State.nextParcel_full⟩
    · exact exec_linkGroupReceive_bad up free first turn (beq_eq_false_iff_ne.2 bad) inside within
    · refine linkGroupReceive_accepts up free first turn (beq_iff_eq.2 good) (every ▸ known) ?_
      rw [pair _ (State.die_mem (every ▸ known))]
      exact port
  · refine ⟨fun up free => ?_, fun up training => ?_, fun g t found up free => ⟨fun early => ?_, fun late => ?_⟩, fun none_ => ?_⟩
    · rw [exec_linkNakReceive up, if_neg (by simp [free])]
    · rw [exec_linkNakReceive up, if_pos training]
    · rw [exec_linkResendTimeout_due found up free, if_pos early]
    · rw [exec_linkResendTimeout_due found up free, if_neg (by omega)]
    · rw [exec_linkResendTimeout, none_]
  · exact ⟨fun up free => ⟨_, exec_linkRetrain up free⟩, exec_linkRetrainComplete_well, linkRetrainComplete_fails, linkDown_told⟩
  · refine ⟨exec_heartbeat_early, exec_heartbeat_sent, fun due seldom => ?_, fun due often => ?_⟩
    · rw [exec_heartbeat_missed due, if_neg (by omega)]
      rfl
    · rw [exec_heartbeat_missed due, if_pos often]
      rfl
  · refine ⟨exec_resynchronisation_waits, fun runs every unstaged => ?_, fun seq c runs change => exec_resynchronisation_behind runs change,
      fun seq runs removal => ⟨fun all => ?_, fun late => ?_⟩, fun i seq live staged has => State.holds_prepared staged has⟩
    · exact ⟨_, _, exec_resynchronisation_begins runs unstaged, State.stage_mem none, fun i there => State.stage_staged every there⟩
    · exact exec_resynchronisation_prepared runs removal fun i there =>
        (all i there).imp State.journalled_has.2 fun uncommitted committed => uncommitted (State.journalled_has.1 committed)
    · obtain ⟨i, there, open_⟩ := late
      exact exec_resynchronisation_unprepared runs removal
        ⟨i, there, open_.imp (fun unwritten written => unwritten (State.journalled_has.1 written)) State.journalled_has.2⟩
  · rw [State.resync_idle idle quiet]
    exact ⟨rfl, rfl, State.clearPorts_empty⟩
  · have there : die ∈ s.liveDies := State.mem_liveDies.2 ⟨inside, live⟩
    refine ⟨fun none_ => exec_commitApply_unrecorded there staged runs fun i lives held => none_ i lives (State.ready_has.1 held), fun record late => ?_⟩
    obtain ⟨i, lives, held⟩ := record
    obtain ⟨t, applied, mem, journal, nets, generation, shown, done⟩ := commitApply_removed every there staged runs ⟨i, lives, State.ready_has.2 held⟩
      fun written => late (State.ready_has.1 written)
    exact ⟨t, applied, mem, journal, nets, generation, shown, fun others => done fun i lives other => State.ready_has.2 (others i lives other)⟩

end Sys2Proof.Machine

/-!
PROOFS. What the reads of the sampler and the tree unit keep (R330 to R344): a property of states that one read of a line, a translation and a use
of a decoder keep is kept by every program of a unit. Two of them are used: all but the memory system stays as it is, and so does a memory without
keys.
-/
namespace Sys2Proof.Machine

/-! ## Programs of a unit -/

/-- A unit's single reads keep a property. -/
structure UnitRule (P : State → Prop) : Prop where
  line : ∀ {s ag va n x}, P s → State.unitLine s ag va n = .ok x → P x.2
  lookup : ∀ {s ag va x}, P s → State.lookup s ag va = .ok x → P x.1
  translate : ∀ {s ag va x}, P s → State.translate s ag va .read = .ok x → P x.1
  core : ∀ {s c g}, P s → P (State.onCore s c g)

/-- A unit's program keeps a property. -/
def UnitKeeps {α : Type} (P : State → Prop) (m : UnitM α) : Prop := ∀ s r, P s → m s = .ok r → P r.2

section
variable {P : State → Prop} {α β : Type}

theorem unitKeeps_pure (a : α) : UnitKeeps P (pure a : UnitM α) := fun _ _ hs h => by
  cases h; exact hs

theorem unitKeeps_fault : UnitKeeps P (unitFault : UnitM α) := fun _ _ _ h => (nomatch h)

/-- What a program of two parts gives, its second part gives in the state that the first leaves. -/
theorem unit_bind {m : UnitM α} {g : α → UnitM β} {s : State} {r : β × State} (ran : (m >>= g) s = .ok r) :
    ∃ x, m s = .ok x ∧ g x.1 x.2 = .ok r := by
  change (m s).bind (fun x => g x.1 x.2) = .ok r at ran
  cases first : m s with
  | error _ => rw [first] at ran; cases ran
  | ok x => rw [first] at ran; exact ⟨x, rfl, ran⟩

theorem unitKeeps_bind {m : UnitM α} {g : α → UnitM β} (hm : UnitKeeps P m) (hg : ∀ a, UnitKeeps P (g a)) : UnitKeeps P (m >>= g) :=
  fun s r hs h => by
    obtain ⟨x, first, second⟩ := unit_bind h
    exact hg x.1 x.2 r (hm s x hs first) second

theorem unitKeeps_check (c : Bool) : UnitKeeps P (unitCheck c) := by
  unfold unitCheck
  split
  · exact unitKeeps_pure ()
  · exact unitKeeps_fault

theorem unitKeeps_mapM {g : α → UnitM β} (hg : ∀ a, UnitKeeps P (g a)) (l : List α) : UnitKeeps P (l.mapM g) := by
  induction l with
  | nil => exact unitKeeps_pure _
  | cons x l ih =>
    rw [List.mapM_cons]
    exact unitKeeps_bind (hg x) fun _ => unitKeeps_bind ih fun _ => unitKeeps_pure _

/-- A traversal keeps what its visits and its leaf tests keep. -/
theorem unitKeeps_traverse {visit : Nat → Nat → UnitM (List TreeItem)} {leaf : α → Nat → Nat → UnitM (α × Bool)}
    (hv : ∀ i d, UnitKeeps P (visit i d)) (hl : ∀ a k i, UnitKeeps P (leaf a k i)) (fuel n : Nat) (l : List TreeItem) (a : α) :
    UnitKeeps P (traverse visit leaf fuel n l a) := by
  induction fuel generalizing n l a with
  | zero => exact unitKeeps_fault
  | succ f ih =>
    match l with
    | [] => exact unitKeeps_pure _
    | .node i d :: r => exact unitKeeps_bind (unitKeeps_check _) fun _ => unitKeeps_bind (hv i d) fun _ => ih _ _ _
    | .leaf k i :: r =>
      refine unitKeeps_bind (hl a k i) fun x => ?_
      dsimp only
      split
      · exact unitKeeps_pure _
      · exact ih _ _ _

end

/-! ## Reads of descriptors, texels and tree records -/

section
variable {P : State → Prop} (rule : UnitRule P) (ag : Agent)
include rule

theorem unitKeeps_run (fuel va n : Nat) : UnitKeeps P (unitRun ag fuel va n) := by
  induction fuel generalizing va n with
  | zero => exact unitKeeps_pure _
  | succ fuel ih =>
    cases n with
    | zero => exact unitKeeps_pure _
    | succ n => exact unitKeeps_bind (fun _ _ => rule.line) fun _ => unitKeeps_bind (ih _ _) fun _ => unitKeeps_pure _

theorem unitKeeps_load (va n : Nat) : UnitKeeps P (unitLoad ag va n) := unitKeeps_bind (unitKeeps_run rule ag _ va n) fun _ => unitKeeps_pure _

theorem unitKeeps_heapEntry (base count bits size i : Nat) : UnitKeeps P (heapEntry ag base count bits size i) := fun s r hs h => by
  unfold heapEntry at h
  split at h
  · exact unitKeeps_load rule ag _ _ s r hs h
  · cases h

theorem unitKeeps_bindTexture (b : Nat) : UnitKeeps P (bindTexture ag b) := by
  refine unitKeeps_bind (unitKeeps_heapEntry rule ag _ _ _ _ _) fun v => ?_
  cases textureOf v
  · exact unitKeeps_fault
  · exact unitKeeps_pure _

theorem unitKeeps_bindSampler (b : Nat) : UnitKeeps P (bindSampler ag b) := by
  refine unitKeeps_bind (unitKeeps_heapEntry rule ag _ _ _ _ _) fun v => ?_
  cases samplerOf v
  · exact unitKeeps_fault
  · exact unitKeeps_pure _

theorem unitKeeps_decoderTable (i : Nat) : UnitKeeps P (decoderTable ag i) := fun s r hs h => by
  unfold decoderTable at h
  split at h
  · cases h
  · dsimp only at h
    split at h
    next t loc c translated _ =>
      have kept : P t := rule.translate hs translated
      have table {g : List Byte × State → Except UnitStop (List Byte × State)} (after : ∀ x, P x.2 → g x = .ok r → P r.2)
          (read : (unitRun ag 22 ((s.ctx ag.session 896 64 + 1280 * i) % 2 ^ 64) 1280 t).bind g = .ok r) : P r.2 := by
        cases ran : unitRun ag 22 ((s.ctx ag.session 896 64 + 1280 * i) % 2 ^ 64) 1280 t with
        | error _ => rw [ran] at read; cases read
        | ok x => rw [ran] at read; exact after x (unitKeeps_run rule ag _ _ _ t x kept ran) read
      split at h
      · split at h
        · cases h
          dsimp only
          exact rule.core kept
        · refine table (fun x left given => ?_) h
          split at given
          · cases given
            dsimp only
            exact rule.core left
          · cases given
      · refine table (fun x left given => ?_) h
        split at given
        · cases given
          dsimp only
          exact rule.core left
        · cases given
    · cases h
    · cases h

theorem unitKeeps_legacyPage (va : Nat) : UnitKeeps P (legacyPage ag va) := fun s r hs h => by
  unfold legacyPage at h
  split at h
  · cases h
  · split at h
    next found => cases h; exact rule.lookup hs found
    next => cases h

theorem unitKeeps_address (t : Texture) (d x y : Nat) : UnitKeeps P (t.address ag d x y) := by
  unfold Texture.address
  split
  · exact unitKeeps_bind (unitKeeps_legacyPage rule ag _) fun _ => unitKeeps_pure _
  · exact unitKeeps_pure _

theorem unitKeeps_weighted (t : Texture) (d : Nat) (x : Nat × Nat × Nat) : UnitKeeps P (t.weighted ag d x) := by
  unfold Texture.weighted
  split
  · exact unitKeeps_pure _
  · exact unitKeeps_bind (unitKeeps_bind (unitKeeps_load rule ag _ _) fun _ => unitKeeps_pure _) fun _ => unitKeeps_pure _

theorem unitKeeps_decodeLx (t : Texture) (d x y : Nat) : UnitKeeps P (t.decodeLx ag d x y) :=
  unitKeeps_bind (unitKeeps_mapM (fun _ => unitKeeps_weighted rule ag t d _) _) fun _ =>
    unitKeeps_bind (unitKeeps_decoderTable rule ag _) fun _ => unitKeeps_pure _

theorem unitKeeps_texel (t : Texture) (d x y : Nat) : UnitKeeps P (t.texel ag d x y) := by
  unfold Texture.texel
  split
  · exact unitKeeps_bind (unitKeeps_decodeLx rule ag t d x y) fun _ => unitKeeps_pure _
  · exact unitKeeps_bind (unitKeeps_address rule ag t d x y) fun _ => unitKeeps_bind (unitKeeps_load rule ag _ _) fun _ => unitKeeps_pure _

theorem unitKeeps_tapTexel (sm : Sampler) (t : Texture) (x : Tap) : UnitKeeps P (tapTexel ag sm t x) := by
  unfold tapTexel
  dsimp only
  split
  · exact unitKeeps_texel rule ag t _ _ _
  · exact unitKeeps_pure _

theorem unitKeeps_filterTaps (sm : Sampler) (t : Texture) (n : Nat) (taps : List Tap) : UnitKeeps P (filterTaps ag sm t n taps) :=
  unitKeeps_bind (unitKeeps_mapM (fun x => unitKeeps_bind (unitKeeps_tapTexel rule ag sm t x) fun _ => unitKeeps_pure _) _) fun _ => unitKeeps_pure _

theorem unitKeeps_treeRecord (base size i : Nat) : UnitKeeps P (treeRecord ag base size i) :=
  unitKeeps_bind (unitKeeps_check _) fun _ => unitKeeps_load rule ag _ _

theorem unitKeeps_visitBox (base : Nat) (enter : Vec3 → Vec3 → Bool) (kind i depth : Nat) : UnitKeeps P (visitBox ag base enter kind i depth) := by
  refine unitKeeps_bind (unitKeeps_treeRecord rule ag _ _ _) fun v => ?_
  cases boxChildren enter kind depth v
  · exact unitKeeps_fault
  · exact unitKeeps_pure _

theorem unitKeeps_rayQuery (base : Nat) (r : Ray) (anyHit cull : Bool) : UnitKeeps P (rayQuery ag base r anyHit cull) := by
  refine unitKeeps_bind (unitKeeps_traverse (unitKeeps_visitBox rule ag base _ 2) (fun a k i => ?_) _ _ _ _) fun _ => unitKeeps_pure _
  refine unitKeeps_bind (unitKeeps_treeRecord rule ag _ _ _) fun v => ?_
  dsimp only
  split <;> exact unitKeeps_pure _

theorem unitKeeps_pointQuery (base : Nat) (c : Vec3) (rsq : Nat) : UnitKeeps P (pointQuery ag base c rsq) :=
  unitKeeps_traverse (unitKeeps_visitBox rule ag base _ 3)
    (fun _ _ _ => unitKeeps_bind (unitKeeps_treeRecord rule ag _ _ _) fun _ => unitKeeps_pure _) _ _ _ _

theorem unitKeeps_rangeQuery (base lo hi : Nat) : UnitKeeps P (rangeQuery ag base lo hi) :=
  unitKeeps_traverse (fun _ _ => unitKeeps_bind (unitKeeps_treeRecord rule ag _ _ _) fun _ => unitKeeps_pure _)
    (fun _ _ _ => unitKeeps_bind (unitKeeps_treeRecord rule ag _ _ _) fun _ => unitKeeps_pure _) _ _ _ _

/-! ## The lanes of each form (R338, R342, R343) -/

theorem unitKeeps_sampleAt (s : State) (rnd : BitVec 2) (b : Nat) (u v : Option Mag) (g : Option (Option Gradient)) (extra : Num) :
    UnitKeeps P (sampleAt s ag rnd b u v g extra) := by
  unfold sampleAt
  refine unitKeeps_bind (unitKeeps_bindTexture rule ag b) fun t => unitKeeps_bind (unitKeeps_bindSampler rule ag b) fun sm => ?_
  have filtered (n : Nat) (taps : List Tap) : UnitKeeps P (do pure (some (← filterTaps ag sm t n taps)) : LaneSample) :=
    unitKeeps_bind (unitKeeps_filterTaps rule ag sm t n taps) fun _ => unitKeeps_pure _
  dsimp only
  split
  · split
    · exact unitKeeps_pure _
    · exact filtered _ _
  · split
    · exact unitKeeps_pure _
    · exact filtered _ _
  · exact unitKeeps_pure _

variable (w : LaneWord) (s : State) (f : Flock) (l : Nat)

theorem unitKeeps_texFetchLane : UnitKeeps P (texFetchLane w s f ag l) := by
  refine unitKeeps_bind (unitKeeps_bindTexture rule ag _) fun t => ?_
  dsimp only
  split
  · exact unitKeeps_pure _
  · exact unitKeeps_bind (unitKeeps_texel rule ag t _ _ _) fun _ => unitKeeps_pure _

theorem unitKeeps_texGatherLane : UnitKeeps P (texGatherLane w s f ag l) := by
  refine unitKeeps_bind (unitKeeps_bindTexture rule ag _) fun t => unitKeeps_bind (unitKeeps_bindSampler rule ag _) fun sm => ?_
  split
  · exact unitKeeps_bind (unitKeeps_bind (unitKeeps_mapM (fun _ => unitKeeps_tapTexel rule ag sm t _) _) fun _ => unitKeeps_pure _) fun _ =>
      unitKeeps_pure _
  · exact unitKeeps_pure _

theorem unitKeeps_texDecLane : UnitKeeps P (texDecLane w s f ag l) :=
  unitKeeps_bind (unitKeeps_decoderTable rule ag _) fun _ => unitKeeps_pure _

theorem unitKeeps_travRayLane : UnitKeeps P (travRayLane w s f ag l) := unitKeeps_bind (unitKeeps_rayQuery rule ag _ _ _ _) fun _ => unitKeeps_pure _

theorem unitKeeps_travRadLane : UnitKeeps P (travRadLane w s f ag l) := unitKeeps_bind (unitKeeps_pointQuery rule ag _ _ _) fun _ => unitKeeps_pure _

theorem unitKeeps_travKnnLane : UnitKeeps P (travKnnLane w s f ag l) := unitKeeps_bind (unitKeeps_pointQuery rule ag _ _ _) fun _ => unitKeeps_pure _

theorem unitKeeps_travRngLane : UnitKeeps P (travRngLane w s f ag l) := unitKeeps_bind (unitKeeps_rangeQuery rule ag _ _ _) fun _ => unitKeeps_pure _

end

/-! ## The lanes in turn -/

section
variable {α : Type} {P : State → Prop} {one : Nat → UnitM α} {s t : State} {lanes : List Nat} {xs : List (Nat × Option α)}

theorem State.unitLanes_keeps (each : ∀ l, UnitKeeps P (one l)) (hs : P s) (given : s.unitLanes one lanes = some (t, xs)) : P t := by
  induction lanes generalizing s t xs with
  | nil => cases given; exact hs
  | cons l r ih =>
    simp only [State.unitLanes] at given
    split at given
    · cases given
    · obtain ⟨x, rest, same⟩ := Option.map_eq_some_iff.1 given
      cases same
      exact ih hs rest
    next ran =>
      obtain ⟨x, rest, same⟩ := Option.map_eq_some_iff.1 given
      cases same
      exact ih (each l s _ hs ran) rest

/-- Each lane has one result: what it gives in some state, or none where it meets a fault there. -/
theorem State.unitLanes_results (given : s.unitLanes one lanes = some (t, xs)) : xs.map (·.1) = lanes ∧
    ∀ x ∈ xs, (x.2 = none ∧ ∃ u, one x.1 u = .error .fault) ∨ ∃ u a v, one x.1 u = .ok (a, v) ∧ x.2 = some a := by
  induction lanes generalizing s t xs with
  | nil => cases given; exact ⟨rfl, fun _ there => (nomatch there)⟩
  | cons l r ih =>
    simp only [State.unitLanes] at given
    split at given
    · cases given
    next ran =>
      obtain ⟨x, rest, same⟩ := Option.map_eq_some_iff.1 given
      cases same
      obtain ⟨named, results⟩ := ih rest
      refine ⟨congrArg (l :: ·) named, fun y there => ?_⟩
      rcases List.mem_cons.1 there with rfl | later
      · exact .inl ⟨rfl, s, ran⟩
      · exact results y later
    next a u ran =>
      obtain ⟨x, rest, same⟩ := Option.map_eq_some_iff.1 given
      cases same
      obtain ⟨named, results⟩ := ih rest
      refine ⟨congrArg (l :: ·) named, fun y there => ?_⟩
      rcases List.mem_cons.1 there with rfl | later
      · exact .inr ⟨s, a, u, ran, rfl⟩
      · exact results y later

end

/-! ## The two properties -/

theorem State.translate_read_keyed {s : State} {ag : Agent} {va : Nat} {x : State × Loc} (clear : s.Unencrypted)
    (passed : s.translate ag va .read = .ok x) : x.1.keyed = s.keyed :=
  State.checkAccess_read_keyed (n := 1) clear (by rw [State.checkAccess, if_neg (not_not.2 (Nat.mod_one va)), passed])

/-- A unit's line changes nothing but the memory system. -/
theorem State.unitLine_rest {s : State} {ag : Agent} {va n : Nat} {x : List Byte × State} (ran : s.unitLine ag va n = .ok x) : x.2.rest = s.rest := by
  unfold State.unitLine at ran
  split at ran
  · cases ran
  next u loc passed =>
    have translated : u.rest = s.rest := State.translate_rest passed
    split at ran
    next v bs bad read =>
      have readOn : v.rest = u.rest := State.readThrough_rest read
      split at ran
      · cases ran
      · cases ran
        dsimp only
        split
        · exact readOn.trans translated
        · exact State.noteRequests_rest.trans (readOn.trans translated)
    · cases ran

/-- In a memory without keys it changes no byte. -/
theorem State.unitLine_keyed {s : State} {ag : Agent} {va n : Nat} {x : List Byte × State} (clear : s.Unencrypted)
    (ran : s.unitLine ag va n = .ok x) : x.2.keyed = s.keyed := by
  unfold State.unitLine at ran
  split at ran
  · cases ran
  next u loc passed =>
    have translated : u.keyed = s.keyed := State.translate_read_keyed clear passed
    split at ran
    next v bs bad read =>
      have readOn : v.keyed = u.keyed := State.readThrough_keyed read
      split at ran
      · cases ran
      · cases ran
        dsimp only
        split
        · exact readOn.trans translated
        · exact State.noteRequests_keyed.trans (readOn.trans translated)
    · cases ran

theorem unitRule_rest (s : State) : UnitRule fun t => t.rest = s.rest where
  line kept ran := (State.unitLine_rest ran).trans kept
  lookup kept found := (State.lookup_rest found).trans kept
  translate kept passed := (State.translate_rest passed).trans kept
  core kept := kept

theorem unitRule_keyed {s : State} (clear : s.Unencrypted) : UnitRule fun t => t.keyed = s.keyed where
  line kept ran := (State.unitLine_keyed (clear.of_keyed kept) ran).trans kept
  lookup kept found := (State.lookup_keyed (clear.of_keyed kept) found).trans kept
  translate kept passed := (State.translate_read_keyed (clear.of_keyed kept) passed).trans kept
  core kept := kept

end Sys2Proof.Machine

/-!
PROOFS. Sampler and tree instructions become operations, as statement O34 says (R318 to R320, R330 to R344, R366, R484).
-/
namespace Sys2Proof.Machine

/-! ## An operation whose values are taken at issue (R45) -/

/-- The operation that begins with its values, and its flock with it. -/
def valuedOp (f : Flock) (lidx : Nat) (c : Counter) (pieces : List Piece) (packets : Nat) : Op :=
  { id := f.nextId, counter := some c, lidx := lidx, pieces := pieces, packets := packets, acq := none, flags := 0, tos := false, written := false,
    replies := [] }

def Flock.begun (f : Flock) (o : Op) : Flock := { o.pieces.foldl Flock.markEmpty f with nextId := f.nextId + 1, ops := f.ops ++ [o] }

theorem Flock.markEmpty_kept (f : Flock) (p : Piece) : (f.markEmpty p).uid = f.uid ∧ (f.markEmpty p).v = f.v ∧ (f.markEmpty p).s = f.s := by
  unfold Flock.markEmpty
  split
  · split <;> exact ⟨rfl, rfl, rfl⟩
  · exact ⟨rfl, rfl, rfl⟩

theorem Flock.begun_kept (f : Flock) (o : Op) : (f.begun o).uid = f.uid ∧ (f.begun o).v = f.v ∧ (f.begun o).s = f.s :=
  List.foldlRecOn (motive := fun g : Flock => g.uid = f.uid ∧ g.v = f.v ∧ g.s = f.s) _ _ ⟨rfl, rfl, rfl⟩ fun g same p _ => by
    obtain ⟨uid, v, s⟩ := Flock.markEmpty_kept g p
    exact ⟨uid.trans same.1, v.trans same.2.1, s.trans same.2.2⟩

/-- An operation of a flock is in flight, counted, and, without packets, its end is due; the registers are as they were. -/
def State.InFlight (t : State) (f : Flock) (c : Counter) (o : Op) : Prop :=
  ∃ g, t.flock? f.uid = some g ∧ g.count c = f.count c + 1 ∧ g.v = f.v ∧ g.s = f.s ∧ o ∈ g.ops ∧
    (o.packets = 0 → endEvent (some c) f.uid o.id ∈ t.agenda)

section
variable {s t : State} {f : Flock} {c : Counter} {o : Op} {lidx packets : Nat} {pieces : List Piece}

theorem State.InFlight.post (flies : t.InFlight f c o) (e : Event) : (t.post e).InFlight f c o := by
  obtain ⟨g, live, count, v, s, mem, due⟩ := flies
  exact ⟨g, live, count, v, s, mem, fun none_ => State.mem_post.2 (.inl (due none_))⟩

theorem State.InFlight.onFlock (flies : t.InFlight f c o) {h : Flock → Flock} (uid : ∀ x, (h x).uid = x.uid)
    (keeps : ∀ x, (h x).ops = x.ops ∧ (h x).v = x.v ∧ (h x).s = x.s) : (t.onFlock f.uid h).InFlight f c o := by
  obtain ⟨g, live, count, v, s, mem, due⟩ := flies
  obtain ⟨ops, vs, ss⟩ := keeps g
  exact ⟨h g, State.onFlock_flock live uid, by rw [Flock.count, ops]; exact count, vs.trans v, ss.trans s, by rw [ops]; exact mem, due⟩

theorem State.InFlight.retirePath (flies : t.InFlight f c o) (pid : Nat) : (t.retirePath f.uid pid).InFlight f c o :=
  flies.onFlock (fun _ => Flock.retire_uid ..) fun _ => ⟨Flock.retire_ops .., Flock.retire_v .., Flock.retire_s ..⟩

theorem State.InFlight.retireFence (flies : t.InFlight f c o) (pid : Nat) : (t.retireFence f.uid pid).InFlight f c o :=
  flies.onFlock (fun _ => Flock.retire_uid ..) fun _ => ⟨Flock.retire_ops .., Flock.retire_v .., Flock.retire_s ..⟩

/-- An operation that has its values asks no die for them, and ends once its packets are performed. -/
theorem State.beginOp_valued (there : t.flock? f.uid = some f) (fresh : ∀ o ∈ f.ops, o.id < f.nextId) (valued : ∀ q ∈ pieces, q.value.isSome = true) :
    t.beginOp f.uid lidx (some c) pieces packets none =
      if packets = 0 then (t.setFlock (f.begun (valuedOp f lidx c pieces packets))).post (endEvent (some c) f.uid f.nextId)
      else t.setFlock (f.begun (valuedOp f lidx c pieces packets)) := by
  have nobody : ((List.range 4).filter fun d => pieces.any fun p => p.value.isNone && p.loc.any fun l => homeDie l.pa = d) = [] :=
    List.filter_eq_nil_iff.2 fun d _ => by
      rw [Bool.not_eq_true, List.any_eq_false]
      intro q there
      simp [Option.isNone_eq_false_iff.2 (valued q there)]
  have started : t.beginOp f.uid lidx (some c) pieces packets none =
      (t.setFlock (f.begun (valuedOp f lidx c pieces packets))).opProgress f.uid f.nextId := by
    rw [State.beginOp, nobody]
    simp only [State.startOp, there]
    rfl
  have named : (f.begun (valuedOp f lidx c pieces packets)).uid = f.uid := (Flock.begun_kept ..).1
  have live := State.setFlock_flock (s := t) (g := f.begun (valuedOp f lidx c pieces packets)) (by rw [named]; exact there)
  have op := Flock.op_append (f := f) (g := f.begun (valuedOp f lidx c pieces packets)) (o := valuedOp f lidx c pieces packets) fresh rfl
  have ready : (valuedOp f lidx c pieces packets).complete = decide (packets = 0) := by
    rw [Op.complete, show (valuedOp f lidx c pieces packets).pieces.all _ = true from List.all_eq_true.2 valued, Bool.and_true]
    rfl
  rw [named] at live
  rw [started, State.opProgress]
  simp only [live, show Flock.op? _ f.nextId = _ from op, ready]
  by_cases none_ : packets = 0
  · rw [if_pos none_, if_pos (by simp [none_, valuedOp])]
    rfl
  · rw [if_neg none_, if_neg (by simp [none_])]

theorem State.beginOp_inFlight (there : t.flock? f.uid = some f) (fresh : ∀ o ∈ f.ops, o.id < f.nextId) (valued : ∀ q ∈ pieces, q.value.isSome = true) :
    (t.beginOp f.uid lidx (some c) pieces packets none).InFlight f c (valuedOp f lidx c pieces packets) ∧
      (t.beginOp f.uid lidx (some c) pieces packets none).herds = t.herds ∧ (t.beginOp f.uid lidx (some c) pieces packets none).mem = t.mem := by
  obtain ⟨uid, v, s⟩ := Flock.begun_kept f (valuedOp f lidx c pieces packets)
  have live := State.setFlock_flock (s := t) (g := f.begun (valuedOp f lidx c pieces packets)) (by rw [uid]; exact there)
  have count : (f.begun (valuedOp f lidx c pieces packets)).count c = f.count c + 1 := by
    show ((f.ops ++ [valuedOp f lidx c pieces packets]).filter fun o => o.counter == some c).length = _
    rw [List.filter_append, List.length_append]
    simp [valuedOp, Flock.count]
  have last : valuedOp f lidx c pieces packets ∈ (f.begun (valuedOp f lidx c pieces packets)).ops := List.mem_append_right _ (List.mem_singleton.2 rfl)
  rw [uid] at live
  rw [State.beginOp_valued there fresh valued]
  split
  next none_ => exact ⟨⟨_, live, count, v, s, last, fun _ => State.mem_post.2 (.inr rfl)⟩, rfl, rfl⟩
  next some_ => exact ⟨⟨_, live, count, v, s, last, fun none_ => absurd none_ some_⟩, rfl, rfl⟩

end

/-! ## Checks of the operands -/

theorem checkSourcesVia_of {f : Flock} {p : Path} {w : LaneWord} {lanes : List Nat} {srcs : List Src} {dsts : List Dst}
    {read : Src → Nat → List (Option Nat)} (full : ∀ l ∈ lanes, ∀ x ∈ srcs, ∀ j ∈ read x l, x.emptyAt f j = false ∧ x.poisonedAt f j = false)
    (free : ∀ l ∈ lanes, ∀ x ∈ dsts, ∀ i ∈ List.range x.regs, f.vFull (x.code.toNat + i) l = true) :
    checkSourcesVia f p w lanes srcs dsts read = .ok () := by
  have some_ {l : Nat} (hl : l ∈ lanes) {x : Src} (hx : x ∈ srcs) : (read x l).any (x.emptyAt f) = false :=
    List.any_eq_false.2 fun j hj => by simp [(full l hl x hx j hj).1]
  have clean {l : Nat} (hl : l ∈ lanes) {x : Src} (hx : x ∈ srcs) : (read x l).any (x.poisonedAt f) = false :=
    List.any_eq_false.2 fun j hj => by simp [(full l hl x hx j hj).2]
  have traps : lanes.findSome? (fun l => (srcs.find? fun x => x.trapping f p w && (read x l).any (x.emptyAt f)).map fun x => (l, x)) = none := by
    simp only [List.findSome?_eq_none_iff, Option.map_eq_none_iff, List.find?_eq_none]
    intro l hl x hx
    simp [some_ hl hx]
  have empty : (lanes.any fun l => srcs.any fun x => (read x l).any (x.emptyAt f)) = false :=
    List.any_eq_false.2 fun l hl => by
      rw [Bool.not_eq_true, List.any_eq_false]
      intro x hx
      simp [some_ hl hx]
  have written : (lanes.any fun l => dsts.any fun x => (List.range x.regs).any fun i => !f.vFull (x.code.toNat + i) l) = false :=
    List.any_eq_false.2 fun l hl => by
      rw [Bool.not_eq_true, List.any_eq_false]
      intro x hx
      rw [Bool.not_eq_true, List.any_eq_false]
      intro i hi
      simp [free l hl x hx i hi]
  have poisoned : (lanes.find? fun l => srcs.any fun x => (read x l).any (x.poisonedAt f)) = none := by
    rw [List.find?_eq_none]
    intro l hl
    rw [Bool.not_eq_true, List.any_eq_false]
    intro x hx
    simp [clean hl hx]
  simp only [checkSourcesVia, traps, empty, written, poisoned, Bool.false_eq_true, if_false]

/-! ## The form that both units share (R339, R344, R366) -/

section
variable {α : Type} {s : State} {f : Flock} {p : Path}

/-- The unit's counter has room, and the flock's memory is ready for it. -/
def State.unitReady (s : State) (f : Flock) (c : Counter) : Bool := f.counterRoom c && s.memReady f && f.readsReturned

theorem State.unitReady_iff {c : Counter} : s.unitReady f c = true ↔ f.count c < 255 ∧ s.memReady f = true ∧ f.readsReturned = true := by
  simp only [State.unitReady, Flock.counterRoom, Bool.and_eq_true, decide_eq_true_eq, and_assoc]

/-- What a unit does once its operands are full: the lanes in turn, and what their results become. -/
def unitBody (c : Counter) (one : Nat → UnitM α) (lanes : List Nat) (bad : List (Nat × Option α) → Bool) (become : State → List (Nat × Option α) → State)
    (s : State) (f : Flock) (p : Path) : Res State := do
  waitUnless (s.unitReady f c)
  match s.unitLanes one lanes with
  | none => waits
  | some (t, xs) =>
    waitUnless (s.mayHaveSent t (s.agentOf f) && (!bad xs || p.guess.isNone))
    .ok (become t xs)

/-- A fault that some lane has met is reported (R484). -/
def State.faultTold (u : State) (f : Flock) (bad : Bool) (region : Nat) (tree : Bool) : State :=
  if bad then u.post (.graphicsFaultReport f.core region tree) else u

/-- The answer of a unit's instruction: its operation, or a wait. -/
def unitAnswer (ready : Bool) (results : Option (State × List (Nat × Option α))) (become : State → List (Nat × Option α) → State) (s : State) (f : Flock) :
    Host.Outcome State Fault Refusal :=
  match ready, results with
  | true, some (t, xs) => if s.mayHaveSent t (s.agentOf f) then .next (become t xs) else .next (s.waiting false)
  | _, _ => .next (s.waiting false)

theorem unitBody_answer {c : Counter} {one : Nat → UnitM α} {lanes : List Nat} {bad : List (Nat × Option α) → Bool}
    {become : State → List (Nat × Option α) → State} (sure : p.guess = none) :
    (match unitBody c one lanes bad become s f p with
      | .ok t => .next t
      | .error (.wait e) => .next (s.waiting e)
      | .error (.trap t) => .next (s.laneTrap f p (.lane p.id none) t)) = unitAnswer (s.unitReady f c) (s.unitLanes one lanes) become s f := by
  unfold unitBody unitAnswer
  cases s.unitReady f c with
  | false => rfl
  | true =>
    cases s.unitLanes one lanes with
    | none => rfl
    | some x => cases sent : s.mayHaveSent x.1 (s.agentOf f) <;> simp [waitUnless, waits, sent, sure, bind, Except.bind]

section
variable {results : Option (State × List (Nat × Option α))} {become : State → List (Nat × Option α) → State}

theorem unitAnswer_unready : unitAnswer false results become s f = .next (s.waiting false) := rfl

theorem unitAnswer_later (ready : Bool) : unitAnswer ready none become s f = .next (s.waiting false) := by cases ready <;> rfl

theorem unitAnswer_limited {t : State} {xs : List (Nat × Option α)} (ready : Bool) (limited : s.mayHaveSent t (s.agentOf f) = false) :
    unitAnswer ready (some (t, xs)) become s f = .next (s.waiting false) := by
  cases ready
  · rfl
  · exact if_neg (by simp [limited])

theorem unitAnswer_becomes {t : State} {xs : List (Nat × Option α)} (sent : s.mayHaveSent t (s.agentOf f) = true) :
    unitAnswer true (some (t, xs)) become s f = .next (become t xs) := if_pos sent

end

end

/-! ## The sampler (R338, R339) -/

section
variable {s t : State} {f : Flock} {p : Path} {w : LaneWord} {srcs : List Src} {quads : Bool} {one : State → Flock → Agent → Nat → LaneSample}

/-- The pieces of a sampler's operation: two registers of each lane. -/
def State.samplePieces (t : State) (w : LaneWord) (vals : List (Nat × Option (Option (List Nat)))) : List Piece :=
  vals.flatMap fun (l, x) => (List.range 2).map fun j =>
    { lanePiece (w.dest.toNat + j) l false with value := some ((t.sampleWord l j x).setWidth 64) }

/-- The state once a sampler instruction has become an operation. -/
def State.texSampled (t : State) (f : Flock) (p : Path) (w : LaneWord) (vals : List (Nat × Option (Option (List Nat)))) : State :=
  (t.beginOp f.uid p.pc (some .t) (t.samplePieces w vals) 0 none).retirePath f.uid p.id

/-- The sources of a sampler's instruction are full in the lanes that it reads, and its destination awaits nothing. -/
def SamplesFrom (f : Flock) (p : Path) (w : LaneWord) (srcs : List Src) (quads : Bool) : Prop :=
  ∀ l ∈ laneList f p w, (∀ x ∈ srcs, ∀ j ∈ (if quads = true ∧ x.slot = 0 then (List.range 4).map (l / 4 * 4 + ·) else [l]),
    x.emptyAt f (some j) = false ∧ x.poisonedAt f (some j) = false) ∧ ∀ j ∈ List.range 2, f.vFull (w.dest.toNat + j) l = true

theorem checkSourcesVia_samples (full : SamplesFrom f p w srcs quads) : checkSourcesVia f p w (laneList f p w) srcs [dst w 2] (fun x l =>
    if quads && x.slot = 0 then (List.range 4).map fun i => some (l / 4 * 4 + i) else [some l]) = .ok () := by
  refine checkSourcesVia_of (fun l hl x hx j hj => ?_) fun l hl x hx i hi => ?_
  · obtain ⟨values, -⟩ := full l hl
    split at hj
    next quad =>
      obtain ⟨i, hi, rfl⟩ := List.mem_map.1 hj
      exact values x hx _ (by rw [if_pos (by simpa using quad)]; exact List.mem_map_of_mem hi)
    next single =>
      rw [List.mem_singleton.1 hj]
      exact values x hx _ (by rw [if_neg (by simpa using single)]; exact List.mem_singleton.2 rfl)
  · rw [List.mem_singleton.1 hx] at hi ⊢
    exact (full l hl).2 i hi

theorem sampler_eq (issues : IssuesLane s f p) (names : checkNames f srcs [dst w 2] = .ok ()) (codes : ∀ x ∈ srcs, x.regs ≤ 2 ∨ x.code.toNat < 192)
    (confirmed : quads = true → f.branches = []) (full : SamplesFrom f p w srcs quads) : sampler w srcs quads one s =
      unitAnswer (s.unitReady f .t) (s.unitLanes (one s f (s.agentOf f)) (laneList f p w)) 
        (fun t vals => (t.texSampled f p w vals).faultTold f (vals.any (·.2.isNone)) ((t.texSampled f p w vals).herdOf f).region false) s f := by
  have ⟨_, _, _, sure, _⟩ := issues
  have coded : (srcs.all fun x => decide (x.regs ≤ 2) || decide (x.code.toNat < 192)) = true :=
    List.all_eq_true.2 fun x hx => by simpa using codes x hx
  have masks : (!quads || f.branches.isEmpty) = true := by
    cases quads with
    | false => rfl
    | true => simp [confirmed rfl]
  rw [← unitBody_answer (bad := fun vals => vals.any fun x => x.2.isNone) sure]
  unfold sampler
  rw [runHeld, runLaneAs_eq issues]
  simp only [coded, names, masks, checkSourcesVia_samples full, trapUnless, waitUnless, if_true]
  unfold unitBody
  cases s.unitLanes (one s f (s.agentOf f)) (laneList f p w) <;> rfl

end

/-! ## The tree unit (R342 to R344) -/

section
variable {s t : State} {f : Flock} {p : Path} {w : LaneWord} {srcs : List Src} {regs : Nat} {buffer : Bool} {fault : List Nat}
  {one : State → Flock → Agent → Nat → LaneQuery}

/-- What the lanes of a tree query give, and where their entries go. -/
abbrev QueryResults := List (Nat × Option (Option (List Nat) × List (Loc × List Byte)))

def queryValues (xs : QueryResults) : List (Nat × Option (List Nat)) := xs.map fun (l, x) => (l, x.bind (·.1))

def queryPlaces (xs : QueryResults) : List (Loc × List Byte) := xs.flatMap fun (_, x) => (x.map (·.2)).getD []

/-- The pieces of a tree operation: the registers of each lane, or those of a fault. -/
def queryPieces (w : LaneWord) (fault : List Nat) (vals : List (Nat × Option (List Nat))) : List Piece :=
  vals.flatMap fun (l, vs) => ((vs.getD fault).zipIdx).map fun (v, j) =>
    { lanePiece (w.dest.toNat + j) l false with value := some (BitVec.ofNat 64 v) }

/-- The state once the entries of the buffers are on their way. -/
def State.placed (t : State) (ag : Agent) (f : Flock) (places : List (Loc × List Byte)) : State :=
  places.foldl (fun t x => t.ffPart ag f.uid f.nextId x.1 x.2) t

/-- The state once a tree instruction has become an operation. -/
def State.queried (t : State) (ag : Agent) (f : Flock) (p : Path) (w : LaneWord) (buffer : Bool) (fault : List Nat) (xs : QueryResults) : State :=
  let u := (t.placed ag f (queryPlaces xs)).beginOp f.uid p.pc (some .x) (queryPieces w fault (queryValues xs))
    ((queryPlaces xs).filter fun x => homeDie x.1.pa ≠ ag.die).length none
  if buffer then u.retireFence f.uid p.id else u.retirePath f.uid p.id

theorem treeOp_eq (issues : IssuesLane s f p) (ready : LaneReady f p w srcs [dst w regs]) : treeOp w srcs regs true buffer fault one s =
    unitAnswer (s.unitReady f .x) (s.unitLanes (fun l => placedQuery (s.agentOf f) (one s f (s.agentOf f) l)) (laneList f p w))
      (fun t xs => (t.queried (s.agentOf f) f p w buffer fault xs).faultTold f ((queryValues xs).any (·.2.isNone))
        ((t.queried (s.agentOf f) f p w buffer fault xs).herdOf f).region true) s f := by
  have ⟨_, _, _, sure, _⟩ := issues
  rw [← unitBody_answer (bad := fun xs => (queryValues xs).any fun x => x.2.isNone) sure]
  unfold treeOp
  rw [runHeld, runLaneAs_eq issues]
  simp only [checkOperands_of ready, trapUnless, if_true]
  unfold unitBody
  cases s.unitLanes (fun l => placedQuery (s.agentOf f) (one s f (s.agentOf f) l)) (laneList f p w) <;> rfl

end

/-! ## What the operation is -/

section
variable {s t : State} {f : Flock} {p : Path} {w : LaneWord} {c : Counter} {o : Op}

theorem State.InFlight.faultTold (flies : t.InFlight f c o) (bad : Bool) (region : Nat) (tree : Bool) :
    (t.faultTold f bad region tree).InFlight f c o := by
  unfold State.faultTold
  split
  · exact flies.post _
  · exact flies

theorem State.faultTold_kept (bad : Bool) (region : Nat) (tree : Bool) :
    (t.faultTold f bad region tree).herds = t.herds ∧ (t.faultTold f bad region tree).mem = t.mem := by
  unfold State.faultTold
  split <;> exact ⟨rfl, rfl⟩

theorem State.herdOf_congr {u : State} (same : u.herds = t.herds) : u.herdOf f = t.herdOf f := by
  unfold State.herdOf State.herd?
  rw [same]

/-- A unit's instruction has become an operation in state `t`, as statement O34 says. -/
def Becomes (s : State) (f : Flock) (lanes : List Nat) (w : LaneWord) (c : Counter) (regs : Nat) (buffer : Bool) (t : State) : Prop :=
  ∃ g o, t.flock? f.uid = some g ∧ g.count c = f.count c + 1 ∧ g.v = f.v ∧ g.s = f.s ∧ t.herds = s.herds ∧
    (buffer = false → s.memKeys = [] → (∀ d, (s.die d).keys = []) → t.mem = s.mem) ∧ o ∈ g.ops ∧ o.counter = some c ∧
    o.pieces.map (fun q => (q.reg, q.lane)) = lanes.flatMap (fun l => (List.range regs).map fun j => (w.dest.toNat + j, l)) ∧
    (∀ q ∈ o.pieces, q.value.isSome = true) ∧ (o.packets = 0 → endEvent (some c) f.uid o.id ∈ t.agenda)

theorem State.InFlight.becomes {lanes : List Nat} {regs : Nat} {buffer : Bool} (flies : t.InFlight f c o) (herds : t.herds = s.herds)
    (mem : buffer = false → s.memKeys = [] → (∀ d, (s.die d).keys = []) → t.mem = s.mem) (counter : o.counter = some c)
    (places : o.pieces.map (fun q => (q.reg, q.lane)) = lanes.flatMap fun l => (List.range regs).map fun j => (w.dest.toNat + j, l))
    (valued : ∀ q ∈ o.pieces, q.value.isSome = true) : Becomes s f lanes w c regs buffer t := by
  obtain ⟨g, live, count, v, s, there, due⟩ := flies
  exact ⟨g, o, live, count, v, s, herds, mem, there, counter, places, valued, due⟩

/-! ## The operation of the sampler -/

section
variable {vals : List (Nat × Option (Option (List Nat)))}

theorem State.samplePieces_places : (t.samplePieces w vals).map (fun q => (q.reg, q.lane)) =
    (vals.map (·.1)).flatMap fun l => (List.range 2).map fun j => (w.dest.toNat + j, l) := by
  rw [State.samplePieces, List.map_flatMap, List.flatMap_map]
  simp only [List.map_map]
  rfl

theorem State.samplePieces_valued : ∀ q ∈ t.samplePieces w vals, q.value.isSome = true := by
  intro q there
  obtain ⟨⟨l, x⟩, -, of_⟩ := List.mem_flatMap.1 there
  obtain ⟨j, -, same⟩ := List.mem_map.1 of_
  rw [← same]
  rfl

theorem State.texSampled_inFlight (there : t.flock? f.uid = some f) (fresh : ∀ o ∈ f.ops, o.id < f.nextId) :
    (t.texSampled f p w vals).InFlight f .t (valuedOp f p.pc .t (t.samplePieces w vals) 0) ∧ (t.texSampled f p w vals).herds = t.herds ∧
      (t.texSampled f p w vals).mem = t.mem := by
  obtain ⟨flies, herds, mem⟩ := State.beginOp_inFlight (c := .t) (lidx := p.pc) (packets := 0) there fresh (State.samplePieces_valued (w := w) (vals := vals))
  exact ⟨flies.retirePath p.id, herds, mem⟩

end

/-! ## The operation of the tree unit -/

section
variable {fault : List Nat} {regs : Nat}

theorem queryPieces_places {vals : List (Nat × Option (List Nat))} (sized : ∀ x ∈ vals, (x.2.getD fault).length = regs) :
    (queryPieces w fault vals).map (fun q => (q.reg, q.lane)) = (vals.map (·.1)).flatMap fun l => (List.range regs).map fun j => (w.dest.toNat + j, l) := by
  rw [queryPieces, List.map_flatMap, List.flatMap_map]
  refine List.flatMap_congr fun x there => ?_
  have numbered : (x.2.getD fault).zipIdx.map (·.2) = List.range regs := by
    rw [List.zipIdx_map_snd, sized x there, List.range_eq_range']
  rw [← numbered, List.map_map, List.map_map]
  rfl

theorem queryPieces_valued {vals : List (Nat × Option (List Nat))} : ∀ q ∈ queryPieces w fault vals, q.value.isSome = true := by
  intro q there
  obtain ⟨⟨l, vs⟩, -, of_⟩ := List.mem_flatMap.1 there
  obtain ⟨⟨v, j⟩, -, same⟩ := List.mem_map.1 of_
  rw [← same]
  rfl

theorem State.ffPart_rest {ag : Agent} {uid op : Nat} {loc : Loc} {bs : List Byte} : (t.ffPart ag uid op loc bs).rest = t.rest := by
  unfold State.ffPart
  dsimp only
  split
  · exact State.performWrite_rest.trans (State.touchL2_rest.trans State.dropCopies_rest)
  · exact State.sendPacket_rest.trans State.dropCopies_rest

theorem State.placed_rest {ag : Agent} {places : List (Loc × List Byte)} : (t.placed ag f places).rest = t.rest :=
  foldl_rest fun _ _ => State.ffPart_rest

theorem State.flock_of_rest {u : State} (same : u.rest = t.rest) (uid : Nat) : u.flock? uid = t.flock? uid := by
  rw [State.flock?, State.rest_flocks same, State.flock?]

theorem State.queried_inFlight {ag : Agent} {buffer : Bool} {xs : QueryResults} (there : t.flock? f.uid = some f) (fresh : ∀ o ∈ f.ops, o.id < f.nextId) :
    ∃ n, (t.queried ag f p w buffer fault xs).InFlight f .x (valuedOp f p.pc .x (queryPieces w fault (queryValues xs)) n) ∧
      (t.queried ag f p w buffer fault xs).herds = t.herds ∧ (queryPlaces xs = [] → (t.queried ag f p w buffer fault xs).mem = t.mem) := by
  have same : (t.placed ag f (queryPlaces xs)).rest = t.rest := State.placed_rest
  have live : (t.placed ag f (queryPlaces xs)).flock? f.uid = some f := (State.flock_of_rest same _).trans there
  obtain ⟨flies, herds, mem⟩ := State.beginOp_inFlight (c := .x) (lidx := p.pc)
    (packets := ((queryPlaces xs).filter fun x => homeDie x.1.pa ≠ ag.die).length) live fresh
    (queryPieces_valued (w := w) (fault := fault) (vals := queryValues xs))
  have unplaced (none_ : queryPlaces xs = []) : (t.placed ag f (queryPlaces xs)).mem = t.mem := by rw [none_]; rfl
  refine ⟨((queryPlaces xs).filter fun x => homeDie x.1.pa ≠ ag.die).length, ?_, ?_, fun none_ => ?_⟩
  · unfold State.queried
    cases buffer
    · exact flies.retirePath p.id
    · exact flies.retireFence p.id
  · unfold State.queried
    cases buffer <;> exact herds.trans (State.rest_herds same)
  · unfold State.queried
    cases buffer <;> exact mem.trans (unplaced none_)

end

end

/-! ## What the lanes of a tree query give (R342, R343) -/

section
variable {regs : Nat} {buffer : Bool} {fault : List Nat}

/-- A lane's query gives so many registers and, without a buffer, no entries for it. -/
def LaneGives (regs : Nat) (buffer : Bool) (q : LaneQuery) : Prop := ∀ s r, q s = .ok r → r.1.1.length = regs ∧ (buffer = false → r.1.2 = [])

theorem laneGives_pure {v : List Nat} {es : List (Nat × List Byte)} (sized : v.length = regs) (entries : buffer = false → es = []) :
    LaneGives regs buffer (pure (v, es)) := fun _ _ ran => by
  cases ran; exact ⟨sized, entries⟩

theorem laneGives_bind {α : Type} {m : UnitM α} {g : α → LaneQuery} (each : ∀ a, LaneGives regs buffer (g a)) : LaneGives regs buffer (m >>= g) :=
  fun s r ran => by
    obtain ⟨x, -, rest⟩ := unit_bind ran
    exact each x.1 x.2 r rest

variable (w : LaneWord) (s : State) (f : Flock) (ag : Agent) (l : Nat)

theorem travRayLane_gives : LaneGives 4 buffer (travRayLane w s f ag l) := laneGives_bind fun _ => laneGives_pure rfl fun _ => rfl

/-- A query whose word names no buffer has no entries. -/
theorem idEntries_none {stride cap : Nat} {ids : List Nat} (unnamed : (w.sb != 192) = false) : idEntries (f.buffer w) stride l cap ids = [] := by
  rw [Flock.buffer, if_pos (by simpa using unnamed)]
  rfl

theorem travRadLane_gives : LaneGives 1 (w.sb != 192) (travRadLane w s f ag l) :=
  laneGives_bind fun _ => laneGives_pure rfl fun unnamed => idEntries_none w f l unnamed

theorem travKnnLane_gives : LaneGives 1 (w.sb != 192) (travKnnLane w s f ag l) :=
  laneGives_bind fun _ => laneGives_pure rfl fun unnamed => by
    rw [Flock.buffer, if_pos (by simpa using unnamed)] <;> rfl

theorem travRngLane_gives : LaneGives 1 (w.sb != 192) (travRngLane w s f ag l) :=
  laneGives_bind fun _ => laneGives_pure rfl fun unnamed => idEntries_none w f l unnamed

/-- What a query gives with the places of its entries. -/
theorem placedQuery_gives {q : LaneQuery} {u : State} {r : (Option (List Nat) × List (Loc × List Byte)) × State} (gives : LaneGives regs buffer q)
    (ran : placedQuery ag q u = .ok r) : (∀ v, r.1.1 = some v → v.length = regs) ∧ (buffer = false → r.1.2 = [] ∧ r.1.1.isSome = true) := by
  obtain ⟨x, first, rest⟩ := unit_bind ran
  obtain ⟨sized, entries⟩ := gives u x first
  obtain ⟨y, second, last⟩ := unit_bind rest
  cases last
  refine ⟨fun v given => ?_, fun none_ => ?_⟩
  · dsimp only at given
    split at given
    · exact Option.some.inj given ▸ sized
    · cases given
  · rw [entries none_] at second
    cases second
    exact ⟨rfl, rfl⟩

theorem unitKeeps_placedQuery {P : State → Prop} {q : LaneQuery} (gives : LaneGives regs buffer q) (keeps : UnitKeeps P q)
    (writes : buffer = true → ∀ {t va x}, P t → State.translate t ag va .write = .ok x → P x.1) : UnitKeeps P (placedQuery ag q) := fun t r hs ran => by
  obtain ⟨x, first, rest⟩ := unit_bind ran
  obtain ⟨y, second, last⟩ := unit_bind rest
  have left : P x.2 := keeps t x hs first
  cases last
  cases buffer with
  | false =>
    rw [(gives t x first).2 rfl] at second
    cases second
    exact left
  | true =>
    have places (es : List (Nat × List Byte)) : UnitKeeps P (bufferPlaces ag es) := by
      induction es with
      | nil => exact unitKeeps_pure _
      | cons e es ih =>
        intro v z hv given
        simp only [bufferPlaces] at given
        split at given
        · cases given; exact hv
        · split at given
          · split at given <;> cases given
            exact hv
          next passed =>
            split at given
            · cases given
            next later =>
              cases given
              have translated := writes rfl hv passed
              have rest := ih _ _ translated later
              exact rest
    exact places _ _ _ left second

end

/-! ## The answers of the two units -/

section
variable {s : State} {f : Flock} {p : Path} {w : LaneWord} {srcs : List Src}
variable (issues : IssuesLane s f p) (fresh : ∀ o ∈ f.ops, o.id < f.nextId)
include issues fresh

theorem sampler_answers {quads : Bool} {one : State → Flock → Agent → Nat → LaneSample} {i : Instr} (runs : exec i s = sampler w srcs quads one s)
    (keeps : ∀ {P}, UnitRule P → ∀ l, UnitKeeps P (one s f (s.agentOf f) l)) (names : checkNames f srcs [dst w 2] = .ok ())
    (codes : ∀ x ∈ srcs, x.regs ≤ 2 ∨ x.code.toNat < 192) (confirmed : quads = true → f.branches = []) (full : SamplesFrom f p w srcs quads) :
    (¬ (f.count .t < 255 ∧ s.memReady f = true ∧ f.readsReturned = true) → exec i s = .next (s.waiting false)) ∧
    (s.unitLanes (one s f (s.agentOf f)) (laneList f p w) = none → exec i s = .next (s.waiting false)) ∧
    ∀ t vals, s.unitLanes (one s f (s.agentOf f)) (laneList f p w) = some (t, vals) →
      (s.mayHaveSent t (s.agentOf f) = false → exec i s = .next (s.waiting false)) ∧
      (f.count .t < 255 ∧ s.memReady f = true ∧ f.readsReturned = true → s.mayHaveSent t (s.agentOf f) = true →
        exec i s = .next ((t.texSampled f p w vals).faultTold f (vals.any (·.2.isNone)) (t.herdOf f).region false) ∧
        Becomes s f (laneList f p w) w .t 2 false ((t.texSampled f p w vals).faultTold f (vals.any (·.2.isNone)) (t.herdOf f).region false)) := by
  have ⟨_, live, _, _, _⟩ := issues
  rw [runs, sampler_eq issues names codes confirmed full]
  refine ⟨fun busy => ?_, fun later => by rw [later, unitAnswer_later], fun t vals given => ⟨fun limited => ?_, fun ready sent => ?_⟩⟩
  · rw [Bool.eq_false_iff.2 fun ready => busy (State.unitReady_iff.1 ready), unitAnswer_unready]
  · rw [given, unitAnswer_limited _ limited]
  · have rest : t.rest = s.rest := State.unitLanes_keeps (P := fun t => t.rest = s.rest) (fun l => keeps (unitRule_rest s) l) rfl given
    obtain ⟨flies, herds, mem⟩ := State.texSampled_inFlight (p := p) (w := w) (vals := vals) ((State.flock_of_rest rest _).trans live) fresh
    have told := State.faultTold_kept (t := t.texSampled f p w vals) (f := f) (vals.any (·.2.isNone)) (t.herdOf f).region false
    refine ⟨?_, (flies.faultTold ..).becomes (told.1.trans (herds.trans (State.rest_herds rest))) (fun _ units keys => ?_) rfl ?_
      State.samplePieces_valued⟩
    · rw [given, State.unitReady_iff.2 ready, unitAnswer_becomes sent, State.herdOf_congr herds]
    · have kept : t.keyed = s.keyed := State.unitLanes_keeps (P := fun t => t.keyed = s.keyed) (fun l => keeps (unitRule_keyed ⟨units, keys⟩) l) rfl given
      exact told.2.trans (mem.trans (congrArg (·.1) kept))
    · rw [show (valuedOp f p.pc .t (t.samplePieces w vals) 0).pieces = t.samplePieces w vals from rfl, State.samplePieces_places,
        (State.unitLanes_results given).1]

theorem treeOp_answers {regs : Nat} {buffer : Bool} {fault : List Nat} {one : State → Flock → Agent → Nat → LaneQuery} {i : Instr}
    (runs : exec i s = treeOp w srcs regs true buffer fault one s) (keeps : ∀ {P}, UnitRule P → ∀ l, UnitKeeps P (one s f (s.agentOf f) l))
    (gives : ∀ l, LaneGives regs buffer (one s f (s.agentOf f) l))
    (sized : fault.length = regs ∨ buffer = false ∧ ∀ l t, placedQuery (s.agentOf f) (one s f (s.agentOf f) l) t ≠ .error .fault)
    (ready : LaneReady f p w srcs [dst w regs]) :
    (¬ (f.count .x < 255 ∧ s.memReady f = true ∧ f.readsReturned = true) → exec i s = .next (s.waiting false)) ∧
    (s.unitLanes (fun l => placedQuery (s.agentOf f) (one s f (s.agentOf f) l)) (laneList f p w) = none → exec i s = .next (s.waiting false)) ∧
    ∀ t xs, s.unitLanes (fun l => placedQuery (s.agentOf f) (one s f (s.agentOf f) l)) (laneList f p w) = some (t, xs) →
      (s.mayHaveSent t (s.agentOf f) = false → exec i s = .next (s.waiting false)) ∧
      (f.count .x < 255 ∧ s.memReady f = true ∧ f.readsReturned = true → s.mayHaveSent t (s.agentOf f) = true →
        let r := (t.queried (s.agentOf f) f p w buffer fault xs).faultTold f ((queryValues xs).any (·.2.isNone))
          ((t.queried (s.agentOf f) f p w buffer fault xs).herdOf f).region true
        exec i s = .next r ∧ Becomes s f (laneList f p w) w .x regs buffer r) := by
  have ⟨_, live, _, _, _⟩ := issues
  rw [runs, treeOp_eq issues ready]
  refine ⟨fun busy => ?_, fun later => by rw [later, unitAnswer_later], fun t xs given => ⟨fun limited => ?_, fun room sent => ?_⟩⟩
  · rw [Bool.eq_false_iff.2 fun ready => busy (State.unitReady_iff.1 ready), unitAnswer_unready]
  · rw [given, unitAnswer_limited _ limited]
  · have rest : t.rest = s.rest := State.unitLanes_keeps (P := fun t => t.rest = s.rest)
      (fun l => unitKeeps_placedQuery _ (gives l) (keeps (unitRule_rest s) l) fun _ _ _ _ kept passed => (State.translate_rest passed).trans kept) rfl given
    obtain ⟨named, results⟩ := State.unitLanes_results given
    obtain ⟨n, flies, herds, mem⟩ := State.queried_inFlight (p := p) (w := w) (fault := fault) (buffer := buffer) (ag := s.agentOf f) (xs := xs)
      ((State.flock_of_rest rest _).trans live) fresh
    have told := State.faultTold_kept (t := t.queried (s.agentOf f) f p w buffer fault xs) (f := f) ((queryValues xs).any (·.2.isNone))
      ((t.queried (s.agentOf f) f p w buffer fault xs).herdOf f).region true
    refine ⟨?_, (flies.faultTold ..).becomes (told.1.trans (herds.trans (State.rest_herds rest))) (fun unbuffered units keys => ?_) rfl ?_
      queryPieces_valued⟩
    · rw [given, State.unitReady_iff.2 room, unitAnswer_becomes sent]
    · have kept : t.keyed = s.keyed := State.unitLanes_keeps (P := fun t => t.keyed = s.keyed) (fun l => unitKeeps_placedQuery _ (gives l) (keeps (unitRule_keyed ⟨units, keys⟩) l)
        fun buffered => absurd (unbuffered.symm.trans buffered) Bool.false_ne_true) rfl given
      have unplaced : queryPlaces xs = [] := List.flatMap_eq_nil_iff.2 fun x there => by
        show (x.2.map (·.2)).getD [] = []
        rcases results x there with ⟨none_, -⟩ | ⟨u, a, v, ran, some_⟩
        · rw [none_]; rfl
        · rw [some_]
          exact ((placedQuery_gives _ (gives x.1) ran).2 unbuffered).1
      exact told.2.trans ((mem unplaced).trans (congrArg (·.1) kept))
    · rw [show (valuedOp f p.pc .x (queryPieces w fault (queryValues xs)) n).pieces = queryPieces w fault (queryValues xs) from rfl,
        queryPieces_places (regs := regs) fun y there => ?_, queryValues, List.map_map, ← named]
      · rfl
      · obtain ⟨x, known, same⟩ := List.mem_map.1 there
        rw [← same]
        dsimp only
        rcases results x known with ⟨none_, u, failed⟩ | ⟨u, a, v, ran, some_⟩
        · rw [none_]
          exact sized.elim id fun never => absurd failed (never.2 x.1 u)
        · obtain ⟨length, whole⟩ := placedQuery_gives _ (gives x.1) ran
          rw [some_, Option.bind_some]
          cases value : a.1 with
          | some vs => exact length vs value
          | none =>
            refine sized.elim id fun never => ?_
            have given := (whole never.1).2
            rw [value] at given
            cases given

end

/-! ## Every form -/

/-- The tests by themselves read nothing. -/
theorem placedQuery_pure {ag : Agent} {v : List Nat} (t : State) : placedQuery ag (pure (v, [])) t ≠ .error .fault := fun wrong => (nomatch wrong)

/-- The word of a traversal names lanes for its query and scalars for the rest. -/
theorem travOk_of {w : LaneWord} (lanes : w.sa.toNat < 192) (stride : 192 ≤ w.sb.toNat) (base : 192 ≤ w.sc.toNat) : travOk w = true := by
  simp [travOk, lanes, stride, base]

theorem buffer_named (w : LaneWord) : decide (w.sb ≠ 192) = (w.sb != 192) := by
  rw [decide_not]; rfl

/-- Settles O34: the two units share a form, whose lanes read in turn; its operation has its values, so that no register waits for another die, and
a unit's reads leave all but the memory system as it is. -/
theorem samplerAndTree : Obligations.SamplerAndTree := by
  unfold Obligations.SamplerAndTree
  intro s f p w issues fresh ag lanes waits ready becomes samples queries travels buffer
  have buffered : buffer = (w.sb != 192) := buffer_named w
  refine ⟨sampler_answers issues fresh rfl fun rule l => unitKeeps_sampleAt rule _ _ _ _ _ _ _ _, sampler_answers issues fresh rfl fun rule l => unitKeeps_sampleAt rule _ _ _ _ _ _ _ _,
    sampler_answers issues fresh rfl fun rule l => unitKeeps_sampleAt rule _ _ _ _ _ _ _ _, sampler_answers issues fresh rfl fun rule l => unitKeeps_texFetchLane rule _ w s f l,
    sampler_answers issues fresh rfl fun rule l => unitKeeps_texGatherLane rule _ w s f l, sampler_answers issues fresh rfl fun rule l => unitKeeps_texDecLane rule _ w s f l,
    fun lanes stride base => ?_, fun lanes stride base => ?_, fun lanes stride base => ?_, fun lanes stride base => ?_, fun ray box => ⟨?_, ?_⟩⟩
  · refine treeOp_answers issues fresh ?_ (fun rule l => unitKeeps_travRayLane rule _ w s f l) (fun l => travRayLane_gives w s f _ l) (.inl rfl)
    show execVTravRay w s = _
    rw [execVTravRay, travOk_of lanes stride base]
    rfl
  · rw [buffered]
    refine treeOp_answers issues fresh ?_ (fun rule l => unitKeeps_travRadLane rule _ w s f l) (fun l => travRadLane_gives w s f _ l) (.inl rfl)
    show execVTravRad w s = _
    rw [execVTravRad, travOk_of lanes stride base]
    rfl
  · rw [buffered]
    refine treeOp_answers issues fresh ?_ (fun rule l => unitKeeps_travKnnLane rule _ w s f l) (fun l => travKnnLane_gives w s f _ l) (.inl rfl)
    show execVTravKnn w s = _
    rw [execVTravKnn, travOk_of lanes stride base]
    rfl
  · rw [buffered]
    refine treeOp_answers issues fresh ?_ (fun rule l => unitKeeps_travRngLane rule _ w s f l) (fun l => travRngLane_gives w s f _ l) (.inl rfl)
    show execVTravRng w s = _
    rw [execVTravRng, travOk_of lanes stride base]
    rfl
  · refine treeOp_answers issues fresh ?_ (fun rule l => unitKeeps_pure _) (fun l => laneGives_pure rfl fun _ => rfl)
      (.inr ⟨rfl, fun l t => placedQuery_pure t⟩)
    show execVIsectBox w s = _
    rw [execVIsectBox, decide_eq_true ray, decide_eq_true box]
    rfl
  · refine treeOp_answers issues fresh ?_ (fun rule l => unitKeeps_pure _) (fun l => laneGives_pure rfl fun _ => rfl)
      (.inr ⟨rfl, fun l t => placedQuery_pure t⟩)
    show execVIsectTri w s = _
    rw [execVIsectTri, decide_eq_true ray, decide_eq_true box]
    rfl

end Sys2Proof.Machine

/-!
PROOFS. Coverage, the walk over a tile and the issue of its samples, as statement O35 says (R318 to R323).
-/
namespace Sys2Proof.Machine

/-! ## Edges (R320) -/

theorem edge_swap (i j : Vertex) (px py : Int) : edge j i px py = - edge i j px py := by
  unfold edge
  ring

/-- Of two edges in opposite directions exactly one owns its samples. -/
theorem owns_opposite {dx dy : Int} (some_ : dx ≠ 0 ∨ dy ≠ 0) : owns dx dy = true ↔ owns (-dx) (-dy) = false := by
  simp only [owns, Bool.or_eq_true, Bool.and_eq_true, decide_eq_true_eq, Bool.or_eq_false_iff, Bool.and_eq_false_iff, decide_eq_false_iff_not]
  omega

theorem owns_swap {i j : Vertex} (apart : (i.x, i.y) ≠ (j.x, j.y)) :
    owns (j.x - i.x) (j.y - i.y) = true ↔ owns (i.x - j.x) (i.y - j.y) = false := by
  rw [← Int.neg_sub j.x i.x, ← Int.neg_sub j.y i.y]
  refine owns_opposite ?_
  by_contra same
  rw [not_or, not_not, not_not] at same
  exact apart (Prod.ext (by omega) (by omega))

theorem Num.positive_iff (x : Machine.Num) : x.positive = true ↔ ∃ m, x = .fin m ∧ m.neg = false ∧ m.m ≠ 0 := by
  cases x with
  | fin m => simp [Num.positive]
  | inf _ => simp [Num.positive]
  | nan _ _ _ => simp [Num.positive]

/-! ## Coverage (R320) -/

section
variable {t : Triangle}

theorem Triangle.rejected_iff (cull : Nat) : t.rejected cull = true ↔
    t.area = 0 ∨ cull = 1 ∧ t.area < 0 ∨ cull = 2 ∧ 0 < t.area ∨ ¬ (t.p0.q.positive = true ∧ t.p1.q.positive = true ∧ t.p2.q.positive = true) := by
  simp only [Triangle.rejected, Bool.or_eq_true, Bool.and_eq_true, decide_eq_true_eq, Bool.not_eq_true', ← Bool.not_eq_true, and_assoc, or_assoc]

/-- The sign of a triangle's area. -/
def Triangle.sign (t : Triangle) : Int := if t.area < 0 then -1 else 1

theorem Triangle.sign_cases : t.sign = -1 ∨ t.sign = 1 := by
  unfold Triangle.sign
  split
  · exact .inl rfl
  · exact .inr rfl

/-- A point lies within an edge of the triangle: inside of it, or on it where it owns its samples. -/
def Triangle.within (t : Triangle) (i j : Vertex) (px py : Int) : Prop :=
  0 < t.sign * edge i j px py ∨ edge i j px py = 0 ∧ (t.sign * (j.y - i.y) < 0 ∨ j.y = i.y ∧ 0 < t.sign * (j.x - i.x))

/-- The test of one edge. -/
def Triangle.test (t : Triangle) (i j : Vertex) (px py : Int) : Bool :=
  0 < t.sign * edge i j px py || (t.sign * edge i j px py = 0 && owns (t.sign * (j.x - i.x)) (t.sign * (j.y - i.y)))

theorem Triangle.test_iff (i j : Vertex) (px py : Int) : t.test i j px py = true ↔ t.within i j px py := by
  have zero {x : Int} : t.sign * x = 0 ↔ x = 0 := by rcases t.sign_cases with s | s <;> rw [s] <;> omega
  have level : j.y - i.y = 0 ↔ j.y = i.y := Int.sub_eq_zero
  simp only [Triangle.test, Triangle.within, owns, Bool.or_eq_true, Bool.and_eq_true, decide_eq_true_eq, zero, level]

theorem Triangle.cover_eq (px py : Int) : t.cover px py =
    if t.test t.p1 t.p2 px py && t.test t.p2 t.p0 px py && t.test t.p0 t.p1 px py then
      some ((t.sign * edge t.p1 t.p2 px py).toNat, (t.sign * edge t.p2 t.p0 px py).toNat, (t.sign * edge t.p0 t.p1 px py).toNat)
    else none := rfl

theorem Triangle.cover_iff {px py : Int} {e : Nat × Nat × Nat} : t.cover px py = some e ↔
    (t.within t.p1 t.p2 px py ∧ t.within t.p2 t.p0 px py ∧ t.within t.p0 t.p1 px py) ∧
      e = ((t.sign * edge t.p1 t.p2 px py).toNat, (t.sign * edge t.p2 t.p0 px py).toNat, (t.sign * edge t.p0 t.p1 px py).toNat) := by
  simp only [Triangle.cover_eq, ← Triangle.test_iff, Option.ite_none_right_eq_some, Bool.and_eq_true, and_assoc, Option.some.injEq]
  exact ⟨fun ⟨a, b, c, same⟩ => ⟨a, b, c, same.symm⟩, fun ⟨a, b, c, same⟩ => ⟨a, b, c, same.symm⟩⟩

/-! ## The walk (R319, R321) -/

/-- The covered samples of one pixel from a position on. -/
def Triangle.pixel (t : Triangle) (tx ty code pix samp p : Nat) : List Sample :=
  ((samplePositions code).zipIdx.filter fun (_, s) => pix < p || samp ≤ s).filterMap fun ((sx, sy), s) =>
    (t.cover (256 * (32 * tx + p % 32) + 16 * sx : Nat) (256 * (32 * ty + p / 32) + 16 * sy : Nat)).map fun e => ⟨p, s, 32 * tx + p % 32, 32 * ty + p / 32, e⟩

theorem Triangle.walk_eq (tx ty code pix samp : Nat) :
    t.walk tx ty code pix samp = ((List.range 1024).filter fun p => pix ≤ p).flatMap (t.pixel tx ty code pix samp) := rfl

theorem Triangle.mem_pixel {tx ty code pix samp p : Nat} {x : Sample} : x ∈ t.pixel tx ty code pix samp p ↔
    x.p = p ∧ (pix < p ∨ samp ≤ x.s) ∧ x.x = 32 * tx + p % 32 ∧ x.y = 32 * ty + p / 32 ∧
      ∃ pos, (samplePositions code)[x.s]? = some pos ∧
        t.cover (256 * (32 * tx + p % 32) + 16 * pos.1 : Nat) (256 * (32 * ty + p / 32) + 16 * pos.2 : Nat) = some x.e := by
  simp only [Triangle.pixel, List.mem_filterMap, List.mem_filter, Bool.or_eq_true, decide_eq_true_eq, Option.map_eq_some_iff]
  constructor
  · rintro ⟨⟨pos, k⟩, ⟨there, from_⟩, e, covered, rfl⟩
    exact ⟨rfl, from_, rfl, rfl, pos, List.mem_zipIdx_iff_getElem?.1 there, covered⟩
  · rintro ⟨pixel, from_, column, row, pos, there, covered⟩
    refine ⟨(pos, x.s), ⟨List.mem_zipIdx_iff_getElem?.2 there, from_⟩, x.e, covered, ?_⟩
    subst pixel
    rw [← column, ← row]

/-- Samples in the order of the walk: by pixel and then by sample. -/
def Sample.precedes (x y : Sample) : Prop := x.p < y.p ∨ x.p = y.p ∧ x.s < y.s

theorem Triangle.pixel_ordered (tx ty code pix samp p : Nat) : (t.pixel tx ty code pix samp p).Pairwise Sample.precedes := by
  have numbered : (samplePositions code).zipIdx.Pairwise fun a b => a.2 < b.2 := by
    have rising : ((samplePositions code).zipIdx.map (·.2)).Pairwise (· < ·) := by
      rw [List.zipIdx_map_snd]
      exact List.pairwise_lt_range'
    exact List.pairwise_map.1 rising
  refine (numbered.filter _).filterMap _ fun a b before x hx y hy => ?_
  obtain ⟨e, -, rfl⟩ := Option.map_eq_some_iff.1 hx
  obtain ⟨g, -, rfl⟩ := Option.map_eq_some_iff.1 hy
  exact .inr ⟨rfl, before⟩

theorem Triangle.walk_ordered (tx ty code pix samp : Nat) : (t.walk tx ty code pix samp).Pairwise Sample.precedes := by
  rw [Triangle.walk_eq, List.pairwise_flatMap]
  refine ⟨fun p _ => Triangle.pixel_ordered .., (List.pairwise_lt_range.filter _).imp fun {p q} before x hx y hy => .inl ?_⟩
  rw [(Triangle.mem_pixel.1 hx).1, (Triangle.mem_pixel.1 hy).1]
  exact before

theorem Triangle.mem_walk {tx ty code pix samp : Nat} {x : Sample} : x ∈ t.walk tx ty code pix samp ↔
    x.p < 1024 ∧ (pix < x.p ∨ pix = x.p ∧ samp ≤ x.s) ∧ x.x = 32 * tx + x.p % 32 ∧ x.y = 32 * ty + x.p / 32 ∧
      ∃ pos, (samplePositions code)[x.s]? = some pos ∧
        t.cover (256 * (32 * tx + x.p % 32) + 16 * pos.1 : Nat) (256 * (32 * ty + x.p / 32) + 16 * pos.2 : Nat) = some x.e := by
  simp only [Triangle.walk_eq, List.mem_flatMap, List.mem_filter, List.mem_range, decide_eq_true_eq, Triangle.mem_pixel]
  constructor
  · rintro ⟨p, ⟨inside, later⟩, rfl, from_, rest⟩
    exact ⟨inside, by omega, rest⟩
  · rintro ⟨inside, from_, rest⟩
    exact ⟨x.p, ⟨inside, by omega⟩, rfl, by omega, rest⟩

end

/-! ## An issue (R321, R322) -/

/-- Registers from `d` on of lane `l` take consecutive values, and no other register does. -/
theorem Flock.vreg_foldl_zipIdx (d l : Nat) {r k : Nat} (hl : l < 1024) (hk : k < 1024) (vs : List Word32) (n : Nat) (f : Flock) :
    ((vs.zipIdx n).foldl (fun f x => f.setV (d + x.2) l x.1) f).vreg r k =
      if k = l ∧ d + n ≤ r ∧ r < d + n + vs.length then vs.getD (r - (d + n)) 0 else f.vreg r k := by
  induction vs generalizing n f with
  | nil => rw [List.zipIdx_nil, List.foldl_nil, if_neg (by simp)]
  | cons v vs ih =>
    have named : laneKey r k = laneKey (d + n) l ↔ r = d + n ∧ k = l := ⟨laneKey_inj hl hk, fun ⟨reg, lane⟩ => by rw [reg, lane]⟩
    rw [List.zipIdx_cons, List.foldl_cons, ih, Flock.vreg_setV, List.length_cons]
    simp only [named]
    by_cases lane : k = l
    · by_cases first : r = d + n
      · rw [if_neg (by omega), if_pos ⟨first, lane⟩, if_pos (by omega), first, Nat.sub_self, List.getD_cons_zero]
      · by_cases later : d + (n + 1) ≤ r ∧ r < d + (n + 1) + vs.length
        · rw [if_pos ⟨lane, later⟩, if_pos (by omega), show r - (d + n) = r - (d + (n + 1)) + 1 by omega, List.getD_cons_succ]
        · rw [if_neg fun both => later both.2, if_neg fun both => first both.1, if_neg (by omega)]
    · rw [if_neg fun both => lane both.1, if_neg fun both => lane both.2, if_neg fun both => lane both.1]

/-- A lane takes its sample (R322). -/
def Flock.assigned (f : Flock) (t : Triangle) (d : Nat) (x : Nat × Sample) : Flock :=
  (t.assign x.2).zipIdx.foldl (fun f y => f.setV (d + y.2) x.1 y.1) f

section
variable {t : Triangle} {d r k : Nat} {given : List (Nat × Sample)} {f : Flock}

theorem Flock.vreg_assigned {x : Nat × Sample} (hx : x.1 < 1024) (hk : k < 1024) : (f.assigned t d x).vreg r k =
    if k = x.1 ∧ d ≤ r ∧ r < d + 5 then (t.assign x.2).getD (r - d) 0 else f.vreg r k :=
  Flock.vreg_foldl_zipIdx d x.1 hx hk (t.assign x.2) 0 f

/-- What the samples of an issue leave. -/
theorem Flock.assigned_all {α : Type} (p : Flock → α) (hp : ∀ g r l v, p (g.setV r l v) = p g) (given : List (Nat × Sample)) :
    p (given.foldl (fun f x => f.assigned t d x) f) = p f :=
  have one (g : Flock) (x : Nat × Sample) : p (g.assigned t d x) = p g :=
    List.foldlRecOn (motive := fun u => p u = p g) _ _ rfl fun _ same _ _ => (hp ..).trans same
  List.foldlRecOn (motive := fun u => p u = p f) _ _ rfl fun _ same _ _ => (one ..).trans same

theorem Flock.vreg_given_other (lanes : ∀ x ∈ given, x.1 < 1024) (hk : k < 1024) (other : k ∉ given.map (·.1) ∨ r < d ∨ d + 5 ≤ r) :
    (given.foldl (fun f x => f.assigned t d x) f).vreg r k = f.vreg r k := by
  induction given generalizing f with
  | nil => rfl
  | cons x given ih =>
    have unnamed : ¬ (k = x.1 ∧ d ≤ r ∧ r < d + 5) := by
      rintro ⟨rfl, from_, below_⟩
      rcases other with absent | below | above
      · exact absent (List.mem_cons_self ..)
      · omega
      · omega
    rw [List.foldl_cons, ih (fun y there => lanes y (List.mem_cons_of_mem _ there)) (other.imp_left fun absent there => absent (List.mem_cons_of_mem _ there)),
      Flock.vreg_assigned (lanes x (List.mem_cons_self ..)) hk, if_neg unnamed]

theorem Flock.vreg_given {x : Nat × Sample} (lanes : ∀ x ∈ given, x.1 < 1024) (apart : (given.map (·.1)).Nodup) (there : x ∈ given) {j : Nat} (hj : j < 5) :
    (given.foldl (fun f x => f.assigned t d x) f).vreg (d + j) x.1 = (t.assign x.2).getD j 0 := by
  induction given generalizing f with
  | nil => exact absurd there List.not_mem_nil
  | cons y given ih =>
    obtain ⟨fresh, apart⟩ := List.nodup_cons.1 apart
    have others : ∀ x ∈ given, x.1 < 1024 := fun x known => lanes x (List.mem_cons_of_mem _ known)
    rcases List.mem_cons.1 there with rfl | later
    · have low : x.1 < 1024 := lanes x (List.mem_cons_self ..)
      have kept := Flock.vreg_given_other (t := t) (d := d) (r := d + j) (f := f.assigned t d x) others low (.inl fresh)
      have named : x.1 = x.1 ∧ d ≤ d + j ∧ d + j < d + 5 := ⟨rfl, Nat.le_add_right .., Nat.add_lt_add_left hj d⟩
      rw [List.foldl_cons, kept, Flock.vreg_assigned low low, if_pos named, Nat.add_sub_cancel_left]
    · rw [List.foldl_cons]
      exact ih others apart later

end

/-! ### What an issue leaves -/

section
variable (f : Flock) (p : Path) (w : LaneWord)

/-- The lanes of an issue: those of the path and of the parked set. -/
def Flock.rastLanes : List Nat := (p.mask ||| f.parked).lanes f.lanes

/-- The triangle that the scalar registers hold. -/
def Flock.rastTriangle : Triangle :=
  let n := w.sa.toNat - 192
  ⟨f.vertex n, f.vertex (n + 2), f.vertex (n + 4)⟩

/-- The samples that an issue may hand out. -/
def Flock.rastSamples : List Sample :=
  let t := f.rastTriangle w
  let token := (f.sreg (w.sc.toNat - 192)).toNat
  let tile := (f.sreg (w.sb.toNat - 192)).toNat
  if t.rejected (w.sub.toNat / 4) = true ∨ token.testBit 15 = true then []
  else t.walk (tile % 2 ^ 10) (tile / 2 ^ 16 % 2 ^ 10) (w.sub.toNat % 4) (token % 2 ^ 10) (token / 2 ^ 10 % 2 ^ 3)

/-- The token after an issue. -/
def Flock.rastNext : Nat :=
  match (f.rastSamples w)[(f.rastLanes p).length]? with
  | none => 0x8000
  | some x => x.p + x.s * 1024

theorem map_fst_zip_take {α β : Type} (l : List α) (m : List β) : (l.zip m).map (·.1) = l.take m.length := by
  induction l generalizing m with
  | nil => simp
  | cons x l ih =>
    cases m with
    | nil => rfl
    | cons y m => simp [ih]

theorem Flock.rastSamples_eq : (if (f.rastTriangle w).rejected (w.sub.toNat / 4) || bitsAt (f.sreg (w.sc.toNat - 192)).toNat 15 1 = 1 then []
    else (f.rastTriangle w).walk (bitsAt (f.sreg (w.sb.toNat - 192)).toNat 0 10) (bitsAt (f.sreg (w.sb.toNat - 192)).toNat 16 10) (w.sub.toNat % 4)
      (bitsAt (f.sreg (w.sc.toNat - 192)).toNat 0 10) (bitsAt (f.sreg (w.sc.toNat - 192)).toNat 10 3)) = f.rastSamples w := by
  have done (token : Nat) : token.testBit 15 = true ↔ bitsAt token 15 1 = 1 := by rw [Nat.testBit_eq_decide_div_mod_eq, decide_eq_true_eq]; rfl
  refine if_congr ?_ rfl ?_
  · rw [Bool.or_eq_true, decide_eq_true_eq, done]
  · simp only [bitsAt, Nat.pow_zero, Nat.div_one]

/-- The lanes that an issue gives a sample. -/
def Flock.rastMask : LaneMask := LaneMask.ofList ((f.rastLanes p).take (f.rastSamples w).length)

/-- The flock of an issue before its masks change: its samples are assigned, and the predicate marks its lanes. -/
def Flock.rastGiven : Flock :=
  ((((f.rastLanes p).zip (f.rastSamples w)).foldl (fun g x => g.assigned (f.rastTriangle w) w.dest.toNat x) f).setQ (w.imm.toNat % 16)
    (p.mask ||| f.parked) (if f.rastNext p w = 0x8000 then 0 else p.mask ||| f.parked)).setPath { p with mask := f.rastMask p w }

theorem Flock.rastIssue_eq : f.rastIssue p w =
    ({ f.rastGiven p w with active := ((f.rastGiven p w).active &&& ~~~(p.mask ||| f.parked)) ||| f.rastMask p w
                            parked := (p.mask ||| f.parked) &&& ~~~(f.rastMask p w) }, f.rastNext p w) := by
  unfold Flock.rastIssue
  dsimp only
  rw [show Triangle.mk (f.vertex (w.sa.toNat - 192)) (f.vertex (w.sa.toNat - 192 + 2)) (f.vertex (w.sa.toNat - 192 + 4)) = f.rastTriangle w from rfl,
    Flock.rastSamples_eq, map_fst_zip_take, show bitsAt w.imm.toNat 0 4 = w.imm.toNat % 16 by rw [bitsAt, Nat.pow_zero, Nat.div_one]; rfl]
  rfl

theorem Flock.setQ_kept (n : Nat) (on v : LaneMask) : (f.setQ n on v).v = f.v ∧ (f.setQ n on v).s = f.s ∧ (f.setQ n on v).active = f.active ∧
    (f.setQ n on v).q = if n < 15 then (List.range 15).map fun i => if i = n then (f.q.getD n 0 &&& ~~~on) ||| (v &&& on) else f.q.getD i 0 else f.q := by
  unfold Flock.setQ
  split <;> exact ⟨rfl, rfl, rfl, rfl⟩

theorem Flock.rastGiven_kept : (f.rastGiven p w).s = f.s ∧ (f.rastGiven p w).active = f.active ∧
    (f.rastGiven p w).q = (f.setQ (w.imm.toNat % 16) (p.mask ||| f.parked) (if f.rastNext p w = 0x8000 then 0 else p.mask ||| f.parked)).q ∧
    (f.rastGiven p w).v = (((f.rastLanes p).zip (f.rastSamples w)).foldl (fun g x => g.assigned (f.rastTriangle w) w.dest.toNat x) f).v := by
  obtain ⟨v, s, active, q⟩ := Flock.setQ_kept (((f.rastLanes p).zip (f.rastSamples w)).foldl (fun g x => g.assigned (f.rastTriangle w) w.dest.toNat x) f)
    (w.imm.toNat % 16) (p.mask ||| f.parked) (if f.rastNext p w = 0x8000 then 0 else p.mask ||| f.parked)
  refine ⟨s.trans (Flock.assigned_all Flock.s (fun _ _ _ _ => rfl) _), active.trans (Flock.assigned_all Flock.active (fun _ _ _ _ => rfl) _), ?_, v⟩
  obtain ⟨-, -, -, same⟩ := Flock.setQ_kept f (w.imm.toNat % 16) (p.mask ||| f.parked) (if f.rastNext p w = 0x8000 then 0 else p.mask ||| f.parked)
  refine q.trans ?_
  rw [same, Flock.assigned_all Flock.q (fun _ _ _ _ => rfl)]

variable (narrow : f.lanes ≤ 1024)
include narrow

theorem Flock.rastLanes_low : ∀ l ∈ f.rastLanes p, l < 1024 := fun _ there =>
  Nat.lt_of_lt_of_le (List.mem_range.1 (List.mem_filter.1 there).1) narrow

theorem Flock.rastIssue_given {k l j : Nat} {x : Sample} (lane : (f.rastLanes p)[k]? = some l) (sample : (f.rastSamples w)[k]? = some x) (hj : j < 5) :
    (f.rastIssue p w).1.vreg (w.dest.toNat + j) l = ((f.rastTriangle w).assign x).getD j 0 := by
  have pair : (l, x) ∈ (f.rastLanes p).zip (f.rastSamples w) := List.mem_of_getElem? (i := k) (by rw [List.getElem?_zip_eq_some]; exact ⟨lane, sample⟩)
  have low : ∀ y ∈ (f.rastLanes p).zip (f.rastSamples w), y.1 < 1024 := fun y there => f.rastLanes_low p narrow y.1 (List.of_mem_zip there).1
  have apart : (((f.rastLanes p).zip (f.rastSamples w)).map (·.1)).Nodup := by
    rw [map_fst_zip_take]
    exact ((List.nodup_range.filter _).sublist (List.take_sublist ..))
  obtain ⟨-, -, -, registers⟩ := f.rastGiven_kept p w
  rw [Flock.rastIssue_eq, Flock.vreg, registers]
  exact Flock.vreg_given low apart pair hj

theorem Flock.rastIssue_other {r l : Nat} (hl : l < 1024) (other : (f.rastMask p w).has l = false ∨ r < w.dest.toNat ∨ w.dest.toNat + 5 ≤ r) :
    (f.rastIssue p w).1.vreg r l = f.vreg r l := by
  have low : ∀ y ∈ (f.rastLanes p).zip (f.rastSamples w), y.1 < 1024 := fun y there => f.rastLanes_low p narrow y.1 (List.of_mem_zip there).1
  obtain ⟨-, -, -, registers⟩ := f.rastGiven_kept p w
  rw [Flock.rastIssue_eq, Flock.vreg, registers]
  refine Flock.vreg_given_other low hl (other.imp_left fun absent there => ?_)
  rw [map_fst_zip_take] at there
  exact absurd ((LaneMask.has_ofList hl).2 there) (by rw [← Flock.rastMask, absent]; exact Bool.false_ne_true)

end

/-! ## The registers of a sample (R322) -/

theorem Triangle.assign_fields (t : Triangle) {x : Sample} (hx : x.x < 2 ^ 16) (hy : x.y < 2 ^ 16) (hs : x.s < 8) :
    ((t.assign x).getD 0 0).toNat % 2 ^ 16 = x.x ∧ ((t.assign x).getD 0 0).toNat / 2 ^ 16 = x.y ∧
      ((t.assign x).getD 1 0).toNat = x.s + (if 0 < t.area then 2 ^ 8 else 0) := by
  refine ⟨?_, ?_, ?_⟩
  · show (BitVec.ofNat 32 (x.x + x.y * 65536)).toNat % 2 ^ 16 = x.x
    rw [BitVec.toNat_ofNat]; omega
  · show (BitVec.ofNat 32 (x.x + x.y * 65536)).toNat / 2 ^ 16 = x.y
    rw [BitVec.toNat_ofNat]; omega
  · show (BitVec.ofNat 32 (x.s + if 0 < t.area then 256 else 0)).toNat = _
    rw [BitVec.toNat_ofNat]
    split <;> omega

/-- A vertex without a finite depth makes the depth of a sample the canonical NaN. -/
theorem Triangle.depth_nan {t : Triangle} (e : Nat × Nat × Nat) (infinite : (∀ m, t.p0.z ≠ .fin m) ∨ (∀ m, t.p1.z ≠ .fin m) ∨ (∀ m, t.p2.z ≠ .fin m)) :
    t.depth e = fp32.nanCode := by
  unfold Triangle.depth
  split
  next a b c first second third =>
    rcases infinite with none_ | none_ | none_
    · exact absurd first (none_ a)
    · exact absurd second (none_ b)
    · exact absurd third (none_ c)
  next => rfl

theorem Triangle.assign_depth {t : Triangle} {x : Sample} (infinite : (∀ m, t.p0.z ≠ .fin m) ∨ (∀ m, t.p1.z ≠ .fin m) ∨ (∀ m, t.p2.z ≠ .fin m)) :
    ((t.assign x).getD 4 0).toNat = fp32.nanCode := by
  show (BitVec.ofNat 32 (t.depth x.e)).toNat = _
  rw [Triangle.depth_nan x.e infinite]
  decide

end Sys2Proof.Machine

/-!
PROOFS. Bins and the samples of a render target, as statement O35 says (R324 to R329).
-/
namespace Sys2Proof.Machine

/-! ## Tiles (R325) -/

theorem BinSet.mem_tiles {b : BinSet} {rect x y : Nat} : (x, y) ∈ b.tiles rect ↔
    bitsAt rect 0 8 ≤ x ∧ x ≤ bitsAt rect 16 8 ∧ x ≤ b.twm1 ∧ bitsAt rect 8 8 ≤ y ∧ y ≤ bitsAt rect 24 8 ∧ y ≤ b.thm1 := by
  simp only [BinSet.tiles, List.mem_flatMap, List.mem_map, List.mem_filter, List.mem_range, decide_eq_true_eq, Prod.mk.injEq]
  constructor
  · rintro ⟨row, ⟨rows, low⟩, column, ⟨columns, left⟩, rfl, rfl⟩
    omega
  · rintro ⟨left, right, wide, low, high, tall⟩
    exact ⟨y, ⟨by omega, low⟩, x, ⟨by omega, left⟩, rfl, rfl⟩

theorem BinSet.tiles_ordered (b : BinSet) (rect : Nat) : (b.tiles rect).Pairwise fun x y => x.2 < y.2 ∨ x.2 = y.2 ∧ x.1 < y.1 := by
  unfold BinSet.tiles
  dsimp only
  rw [List.pairwise_flatMap]
  refine ⟨fun row _ => List.pairwise_map.2 ((List.pairwise_lt_range.filter _).imp fun before => .inr ⟨rfl, before⟩),
    (List.pairwise_lt_range.filter _).imp fun before x hx y hy => .inl ?_⟩
  obtain ⟨_, -, rfl⟩ := List.mem_map.1 hx
  obtain ⟨_, -, rfl⟩ := List.mem_map.1 hy
  exact before

/-! ## Lanes and bins (R326) -/

section
variable {s u v v' : State} {ag : Agent} {b : BinSet} {set lane prim rect free : Nat} {r : List (Nat × Nat × Nat)} {es : List (Nat × Nat × Nat × Nat)}

/-- A bin whose last chunk lies outside the pool. -/
def BinSet.brokenBy (b : BinSet) (es : List (Nat × Nat × Nat × Nat)) : Bool :=
  es.any fun (_, _, tail, count) => count % 63 ≠ 0 && b.nchunk ≤ (tail + 2 ^ 32 - 1) % 2 ^ 32

/-- The chunks that a primitive needs. -/
def chunksFor (es : List (Nat × Nat × Nat × Nat)) : Nat := (es.filter fun e => e.2.2.2 % 63 = 0).length

theorem State.binLanes_cons (entries : s.binEntries ag b lane (b.tiles rect) = .ok (u, es)) : s.binLanes ag b set ((lane, prim, rect) :: r) =
    if b.brokenBy es || b.nchunk < b.free + chunksFor es then .ok (u, lane :: r.map (·.1))
    else (u.binTiles ag b lane prim b.free es).bind fun x =>
      (if x.2 = b.free then .ok x.1 else x.1.unitWrite ag lane (set + 12) 4 4 x.2).bind fun v => v.binLanes ag { b with free := x.2 } set r := by
  rw [State.binLanes, entries]
  unfold BinSet.brokenBy chunksFor
  generalize 2 ^ 32 = m
  simp only [bind, Except.bind]
  split
  · rfl
  · cases u.binTiles ag b lane prim b.free es with
    | error x => rfl
    | ok x =>
      dsimp only
      by_cases same : x.2 = b.free
      · rw [if_pos same, if_pos same]
      · rw [if_neg same, if_neg same]

theorem State.binLanes_full (entries : s.binEntries ag b lane (b.tiles rect) = .ok (u, es)) (full : b.nchunk < b.free + chunksFor es) :
    s.binLanes ag b set ((lane, prim, rect) :: r) = .ok (u, lane :: r.map (·.1)) := by
  rw [State.binLanes_cons entries, if_pos (by simp [full])]

theorem State.binLanes_untouched (entries : s.binEntries ag b lane (b.tiles rect) = .ok (u, [])) (room : b.free ≤ b.nchunk) :
    s.binLanes ag b set ((lane, prim, rect) :: r) = u.binLanes ag b set r := by
  have fits : ¬ (b.brokenBy [] || decide (b.nchunk < b.free + chunksFor [])) = true := by
    rw [show b.brokenBy [] = false from List.any_nil, show chunksFor [] = 0 from rfl, Bool.false_or, decide_eq_true_eq, Nat.not_lt]
    exact room
  rw [State.binLanes_cons entries, if_neg fits]
  simp only [State.binTiles, Except.bind, if_true]

theorem State.binLanes_binned (entries : s.binEntries ag b lane (b.tiles rect) = .ok (u, es)) (room : b.free + chunksFor es ≤ b.nchunk)
    (sound : ∀ e ∈ es, e.2.2.2 % 63 ≠ 0 → (e.2.2.1 + 2 ^ 32 - 1) % 2 ^ 32 < b.nchunk) (tiles : u.binTiles ag b lane prim b.free es = .ok (v, free))
    (taken : b.free < free) (written : v.unitWrite ag lane (set + 12) 4 4 free = .ok v') :
    s.binLanes ag b set ((lane, prim, rect) :: r) = v'.binLanes ag { b with free := free } set r := by
  have whole : b.brokenBy es = false := List.any_eq_false.2 fun e there => by
    have inside := sound e there
    simp only [Bool.and_eq_true, decide_eq_true_eq]
    rintro ⟨partial_, outside⟩
    exact absurd (inside partial_) (Nat.not_lt.2 outside)
  have fits : ¬ (b.brokenBy es || decide (b.nchunk < b.free + chunksFor es)) = true := by simp [whole, room]
  rw [State.binLanes_cons entries, if_neg fits, tiles]
  simp only [Except.bind, if_neg (Nat.ne_of_gt taken), written]

variable {s1 s2 s3 s4 s5 : State} {a head tail count : Nat}

/-- A primitive goes behind the others of its chunk. -/
theorem State.binTile_within (inside : count % 63 ≠ 0) (put : s.unitWrite ag lane (b.chunk (tail - 1) + 4 + 4 * (count % 63)) 4 4 prim = .ok s1)
    (counted : s1.unitWrite ag lane (a + 8) 4 4 (count + 1) = .ok s2) : s.binTile ag b lane prim free (a, head, tail, count) = .ok (s2, free) := by
  unfold State.binTile
  dsimp only
  rw [if_pos inside]
  simp only [put, counted, bind, Except.bind]

/-- The first primitive of a chunk takes the next free one, which the table or the chunk before it then names. -/
theorem State.binTile_fresh (first : count % 63 = 0) (cleared : s.unitWrite ag lane (b.chunk free) 4 256 0 = .ok s1)
    (linked : (if head = 0 then s1.unitWrite ag lane a 4 4 (free + 1) else s1.unitWrite ag lane (b.chunk ((tail + 2 ^ 32 - 1) % 2 ^ 32)) 4 256 (free + 1)) =
      .ok s2)
    (ended : s2.unitWrite ag lane (a + 4) 4 4 (free + 1) = .ok s3) (put : s3.unitWrite ag lane (b.chunk free + 4 + 4 * (count % 63)) 4 4 prim = .ok s4)
    (counted : s4.unitWrite ag lane (a + 8) 4 4 (count + 1) = .ok s5) : s.binTile ag b lane prim free (a, head, tail, count) = .ok (s5, free + 1) := by
  unfold State.binTile
  dsimp only
  rw [if_neg (not_not.2 first)]
  generalize (tail + 2 ^ 32 - 1) % 2 ^ 32 = last at linked ⊢
  have steps : (s.unitWrite ag lane (b.chunk free) 4 256 0).bind (fun s => (if head = 0 then s.unitWrite ag lane a 4 4 (free + 1)
      else s.unitWrite ag lane (b.chunk last) 4 256 (free + 1)).bind fun s => (s.unitWrite ag lane (a + 4) 4 4 (free + 1)).bind fun s =>
      (s.unitWrite ag lane (b.chunk free + 4 + 4 * (count % 63)) 4 4 prim).bind fun s => (s.unitWrite ag lane (a + 8) 4 4 (count + 1)).bind fun s =>
      .ok (s, free + 1)) = (.ok (s5, free + 1) : Res (State × Nat)) := by
    simp only [cleared, linked, ended, put, counted, Except.bind]
  refine Eq.trans ?_ steps
  split <;> rfl

end

/-! ## Samples of a target (R328, R329) -/

section
variable {s u : State} {ag : Agent} {w : LaneWord} {t : Target} {n z : Nat} {e : Export} {c d : Loc} {bad : Bool}

theorem Export.inside_iff : e.inside t = true ↔ e.x < t.width ∧ e.y < t.height ∧ e.s < t.samples := by
  simp only [Export.inside, Bool.and_eq_true, decide_eq_true_eq, and_assoc]

theorem Export.places_addresses : (e.places w t n).map (·.1) =
    (if w.sub.getLsbD 0 = true ∧ t.dbase ≠ 0 then [(t.dbase + 4 * e.number t) % 2 ^ 64] else []) ++ [(t.cbase + n * e.number t) % 2 ^ 64] := by
  have tests : depthTest w t = true ↔ w.sub.getLsbD 0 = true ∧ t.dbase ≠ 0 := by
    simp only [depthTest, Bool.and_eq_true, decide_eq_true_eq]
  rw [Export.places, List.map_append, apply_ite (List.map _)]
  simp only [tests]
  rfl

theorem State.exportSample_tested (read : s.homeRead ag d 4 = some (u, z, bad)) : s.exportSample ag w t n (e, [d, c]) =
    if fp32.isNan e.z = false ∧ fp32.isNan z = false ∧ (fp32.decode e.z).lt (fp32.decode z) = true
    then (u.homeWrite ag d 4 e.z).exportColour ag w t n e c else u := by
  simp only [State.exportSample, read, Bool.and_eq_true, Bool.not_eq_true', and_assoc]

theorem State.exportColour_plain (plain : w.sub.getLsbD 1 = false) :
    s.exportColour ag w t n e c = s.homeWrite ag c n (t.colour false e.channels 0 (s.free 1).toNat) := by
  simp only [State.exportColour, plain]
  rfl

end

end Sys2Proof.Machine

/-!
PROOFS. Rasterisation, binning and exports as instructions, and statement O35 (R318 to R329).
-/
namespace Sys2Proof.Machine

/-! ## What a lane instruction answers -/

/-- The answer of a lane instruction under a confirmed mask, by what its body gives. -/
def laneAnswer (s : State) (f : Flock) (p : Path) : Res State → Host.Outcome State Fault Refusal
  | .ok t => .next t
  | .error (.wait e) => .next (s.waiting e)
  | .error (.trap x) => .next (s.laneTrap f p (.lane p.id none) x)

section
variable {s u t : State} {f : Flock} {p : Path} {w : LaneWord} {v : Nat} {left : List Nat} {i : Instr}

theorem runHeld_answer (issues : IssuesLane s f p) (k : Holding) (body : State → Flock → Path → Res State) :
    runHeld k body s = laneAnswer s f p (body s f p) := by
  rw [runHeld, runLaneAs_eq issues]
  rcases body s f p with (_ | _) | _ <;> rfl

theorem runConfirmed_answer (issues : IssuesLane s f p) (body : State → Flock → Path → Res State) :
    runConfirmed body s = laneAnswer s f p (body s f p) := by
  rw [runConfirmed_eq issues]
  rcases body s f p with (_ | _) | _ <;> rfl

/-- A part of an instruction's body that waits or traps makes the instruction do so. -/
def Stops {α : Type} (s : State) (f : Flock) (p : Path) (r : Res α) (i : Instr) : Prop :=
  (∀ e, r = .error (.wait e) → exec i s = .next (s.waiting e)) ∧ ∀ x, r = .error (.trap x) → exec i s = .next (s.laneTrap f p (.lane p.id none) x)

theorem stops_of {α : Type} {r : Res α} {k : α → Res State} (answers : exec i s = laneAnswer s f p (r.bind k)) : Stops s f p r i :=
  ⟨fun _ waits => by rw [answers, waits]; rfl, fun _ traps => by rw [answers, traps]; rfl⟩

theorem waitUnless_true {c : Bool} (holds : c = true) : waitUnless c = .ok () := by rw [waitUnless, if_pos holds]

theorem waitUnless_false {c : Bool} (fails : c = false) : waitUnless c = waits := by rw [waitUnless, fails]; rfl

theorem trapUnless_true {c : Bool} (holds : c = true) (cause addr info : Nat) : trapUnless c cause addr info = .ok () := by
  rw [trapUnless, if_pos holds]

/-! ## Binning -/

/-- What `v.bin` does once it has read its set's header. -/
def State.binBody (u : State) (ag : Agent) (f : Flock) (p : Path) (w : LaneWord) (v : Nat) : Res State :=
  (waitUnless (u.releaseReady f .sy)).bind fun _ =>
    (u.binLanes ag (binSet v) (f.sreg (w.sc.toNat - 192)).toNat
      ((laneList f p w).map fun l => (l, (f.read32 w (srcA w) l).toNat, (f.read32 w (srcB w) l).toNat))).bind fun x =>
      .ok ((x.1.onFlock f.uid fun g => g.setQ (qDest w) (LaneMask.ofList (laneList f p w)) (LaneMask.ofList x.2)).retireFence f.uid p.id)

theorem exec_vBin (issues : IssuesLane s f p) (named : 192 ≤ w.sc.toNat) (ready : LaneReady f p w [srcA w, srcB w, srcC w] [])
    (some_ : laneList f p w ≠ []) : exec (.vBin w) s = laneAnswer s f p
      ((s.unitRead (s.agentOf f) ((laneList f p w).headD 0) (f.sreg (w.sc.toNat - 192)).toNat 64 64).bind fun x => x.1.binBody (s.agentOf f) f p w x.2) := by
  show execVBin w s = _
  obtain ⟨first, others, lanes⟩ := List.exists_cons_of_ne_nil some_
  unfold execVBin
  rw [runHeld_answer issues]
  simp only [trapUnless_true (decide_eq_true named), checkOperands_of ready]
  simp only [lanes, State.binBody, List.headD_cons, bind, Except.bind]

theorem exec_vBin_idle (issues : IssuesLane s f p) (named : 192 ≤ w.sc.toNat) (ready : LaneReady f p w [srcA w, srcB w, srcC w] [])
    (none_ : laneList f p w = []) : exec (.vBin w) s = .next (s.retireFence f.uid p.id) := by
  show execVBin w s = _
  unfold execVBin
  rw [runHeld_answer issues]
  simp only [trapUnless_true (decide_eq_true named), checkOperands_of ready]
  simp only [none_]
  rfl

/-! ## Exports of vertices -/

/-- The two words of a lane's vertex. -/
def Flock.vertexOut (f : Flock) (w : LaneWord) (l : Nat) : Nat × Nat :=
  let x (i : Nat) : Nat := (f.read32 w (srcA w 4) l i).toNat
  vertexWords (x 0) (x 1) (x 2) (x 3) (w.imm.toNat % 2 ^ 16) (w.imm.toNat / 2 ^ 16)

/-- Where a lane's vertex goes. -/
def Flock.vertexAt (f : Flock) (w : LaneWord) (l : Nat) : Nat :=
  ((f.sreg (w.sc.toNat - 192)).toNat + 16 * (f.read32 w (srcB w) l).toNat) % 2 ^ 64

/-- What `v.exp.pos` stores. -/
def Flock.vertexParts (f : Flock) (w : LaneWord) (locs : List (Nat × Loc)) : List (Loc × List Byte) :=
  locs.flatMap fun x => [(x.2, bytesOf 8 (f.vertexOut w x.1).1), ({ x.2 with pa := x.2.pa + 8, va := x.2.va + 8 }, bytesOf 8 (f.vertexOut w x.1).2)]

theorem exec_vExpPos (issues : IssuesLane s f p) (vector : w.sa.toNat < 192) (scalar : 192 ≤ w.sc.toNat) (wide : 1 ≤ w.imm.toNat % 2 ^ 16)
    (narrow : w.imm.toNat % 2 ^ 16 ≤ 32767) (tall : 1 ≤ w.imm.toNat / 2 ^ 16) (low : w.imm.toNat / 2 ^ 16 ≤ 32767)
    (ready : LaneReady f p w [srcA w 4, srcB w, srcC w] []) : exec (.vExpPos w) s = laneAnswer s f p
      ((s.checkLanes (s.agentOf f) .write 16 ((laneList f p w).map fun l => (l, f.vertexAt w l))).bind fun x =>
        (x.1.store f (f.vertexParts w x.2) none).bind fun t => .ok (t.retireFence f.uid p.id)) := by
  show execVExpPos w s = _
  have width : bitsAt w.imm.toNat 0 16 = w.imm.toNat % 2 ^ 16 := by rw [bitsAt, Nat.pow_zero, Nat.div_one]
  have height : bitsAt w.imm.toNat 16 16 = w.imm.toNat / 2 ^ 16 := Nat.mod_eq_of_lt (by omega)
  have fits : (decide (w.sa.toNat < 192) && decide (192 ≤ w.sc.toNat) && decide (1 ≤ w.imm.toNat % 2 ^ 16) && decide (w.imm.toNat % 2 ^ 16 ≤ 32767) &&
      decide (1 ≤ w.imm.toNat / 2 ^ 16) && decide (w.imm.toNat / 2 ^ 16 ≤ 32767)) = true := by
    simp only [vector, scalar, wide, narrow, tall, low, decide_true, Bool.and_self]
  unfold execVExpPos
  rw [runHeld_answer issues]
  simp only [width, height, trapUnless_true fits, checkOperands_of ready]
  rfl

/-! ## Exports of pixels -/

/-- What `v.exp.px` does once its places are checked. -/
def State.pixelBody (t : State) (ag : Agent) (f : Flock) (p : Path) (w : LaneWord) (target : Target) (n : Nat) (xs : List (Export × List Loc)) : Res State :=
  (waitUnless (t.releaseReady f .sy && xs.all fun x => x.2.all fun l => t.reachNow ag l.pa)).bind fun _ =>
    .ok ((xs.foldl (fun y x => y.exportSample ag w target n x) t).retireFence f.uid p.id)

section
variable (issues : IssuesLane s f p) (vector : w.sa.toNat < 192) (scalar : 192 ≤ w.sc.toNat)
  (names : checkNames f [srcA w 5, srcB w 2, srcC w] [] = .ok ())
  (sources : checkSources f p w (laneList f p w) [srcA w 2, { srcA w with code := w.sa + 4 }, srcB w 2, srcC w] [] = .ok ())
include issues vector scalar names sources

theorem exec_vExpPx (some_ : laneList f p w ≠ []) : exec (.vExpPx w) s = laneAnswer s f p
    ((s.unitRead (s.agentOf f) ((laneList f p w).headD 0) (f.sreg (w.sc.toNat - 192)).toNat 64 64).bind fun x =>
      (x.1.checkExports (s.agentOf f) w (targetOf x.2) (x.1.colourBytes (targetOf x.2))
        (((laneList f p w).map (f.exportOf w)).filter fun e => e.inside (targetOf x.2))).bind fun y =>
        y.1.pixelBody (s.agentOf f) f p w (targetOf x.2) (x.1.colourBytes (targetOf x.2)) y.2) := by
  show execVExpPx w s = _
  obtain ⟨first, others, lanes⟩ := List.exists_cons_of_ne_nil some_
  have coded : (decide (w.sa.toNat < 192) && decide (192 ≤ w.sc.toNat)) = true := by simp only [vector, scalar, decide_true, Bool.and_self]
  unfold execVExpPx
  rw [runHeld_answer issues]
  simp only [trapUnless_true coded, names, sources]
  simp only [lanes, State.pixelBody, List.headD_cons, bind, Except.bind]

theorem exec_vExpPx_idle (none_ : laneList f p w = []) : exec (.vExpPx w) s = .next (s.retireFence f.uid p.id) := by
  show execVExpPx w s = _
  have coded : (decide (w.sa.toNat < 192) && decide (192 ≤ w.sc.toNat)) = true := by simp only [vector, scalar, decide_true, Bool.and_self]
  unfold execVExpPx
  rw [runHeld_answer issues]
  simp only [trapUnless_true coded, names, sources]
  simp only [none_]
  rfl

end

/-! ## Rasterisation -/

/-- The operation that sends the token of an issue. -/
def Flock.tokenOp (g : Flock) (p : Path) (tr token : Nat) : Op :=
  { id := g.nextId, counter := none, lidx := p.pc, pieces := [{ scalarPiece tr with value := some (BitVec.ofNat 64 token) }], packets := 0, acq := none,
    flags := 0, tos := true, written := false, replies := [] }

theorem Flock.begun_token (g : Flock) (p : Path) (tr token : Nat) : g.begun (g.tokenOp p tr token) =
    { g.markEmpty { scalarPiece tr with value := some (BitVec.ofNat 64 token) } with
      nextId := g.nextId + 1, ops := g.ops ++ [g.tokenOp p tr token] } := rfl

/-- The flock of an issue, its token on the way. -/
def Flock.rastSent (f : Flock) (p : Path) (w : LaneWord) : Flock :=
  let g := (f.rastIssue p w).1
  ((g.begun (g.tokenOp p (w.sc.toNat - 192) (f.rastIssue p w).2)).retire p.id).fence

theorem Flock.markEmpty_masks (g : Flock) (x : Piece) : (g.markEmpty x).active = g.active ∧ (g.markEmpty x).parked = g.parked := by
  unfold Flock.markEmpty
  split
  · split <;> exact ⟨rfl, rfl⟩
  · exact ⟨rfl, rfl⟩

theorem Flock.begun_masks (g : Flock) (o : Op) : (g.begun o).active = g.active ∧ (g.begun o).parked = g.parked :=
  List.foldlRecOn (motive := fun h : Flock => h.active = g.active ∧ h.parked = g.parked) _ _ ⟨rfl, rfl⟩ fun h ⟨active, parked⟩ x _ => by
    have masks := Flock.markEmpty_masks h x
    exact ⟨masks.1.trans active, masks.2.trans parked⟩

theorem Flock.rastSent_kept (f : Flock) (p : Path) (w : LaneWord) : (f.rastSent p w).v = (f.rastIssue p w).1.v ∧
    (f.rastSent p w).active = (f.rastIssue p w).1.active ∧ (f.rastSent p w).parked = (f.rastIssue p w).1.parked ∧ (f.rastSent p w).s = f.s ∧
    (f.rastSent p w).point = none := by
  unfold Flock.rastSent
  generalize taken : (f.rastIssue p w).1.tokenOp p (w.sc.toNat - 192) (f.rastIssue p w).2 = o
  obtain ⟨-, v, scalars⟩ := Flock.begun_kept (f.rastIssue p w).1 o
  have same : (f.rastIssue p w).1.s = f.s := by
    rw [Flock.rastIssue_eq]
    exact (Flock.rastGiven_kept f p w).1
  obtain ⟨active, parked⟩ := Flock.begun_masks (f.rastIssue p w).1 o
  dsimp only
  rw [taken, Flock.fence_v, Flock.retire_v, Flock.fence_active, Flock.retire_active, Flock.fence_parked, Flock.retire_parked, Flock.fence_s, Flock.retire_s]
  exact ⟨v, active, parked, scalars.trans same, rfl⟩

theorem Flock.rastSent_op (f : Flock) (p : Path) (w : LaneWord) :
    (f.rastIssue p w).1.tokenOp p (w.sc.toNat - 192) (f.rastIssue p w).2 ∈ (f.rastSent p w).ops := by
  unfold Flock.rastSent
  dsimp only
  rw [Flock.fence_ops, Flock.retire_ops]
  exact List.mem_append_right _ (List.mem_singleton_self _)

theorem exec_vRast (issues : IssuesLane s f p) (first : 193 ≤ w.sa.toNat) (last : w.sa.toNat ≤ 250) (tile : 192 ≤ w.sb.toNat) (token : 193 ≤ w.sc.toNat)
    (flat : p.entries = []) (names : checkNames f (rastSources w) [dst w 5] = .ok ())
    (sources : checkSources f p w ((p.mask ||| f.parked).lanes f.lanes) (rastSources w) [dst w 5] = .ok ())
    (fine : tokenOk (f.sreg (w.sc.toNat - 192)).toNat (w.sub.toNat % 4) = true) : exec (.vRast w) s =
      .next ((s.settleFlow (f.rastSent p w)).post (.tosWrite f.uid ((f.rastIssue p w).1.tokenOp p (w.sc.toNat - 192) (f.rastIssue p w).2).id)) := by
  show execVRast w s = _
  have coded : (decide (193 ≤ w.sa.toNat) && decide (w.sa.toNat ≤ 250) && decide (192 ≤ w.sb.toNat) && decide (193 ≤ w.sc.toNat)) = true := by
    simp only [first, last, tile, token, decide_true, Bool.and_self]
  have kept : (p.entries.isEmpty && (!f.sFull (w.sc.toNat - 192) || tokenOk (f.sreg (w.sc.toNat - 192)).toNat (w.sub.toNat % 4))) = true := by
    simp only [flat, fine, List.isEmpty_nil, Bool.or_true, Bool.and_self]
  unfold execVRast
  rw [runConfirmed_answer issues]
  simp only [trapUnless_true coded, names, trapUnless_true kept, sources]
  unfold Flock.rastSent
  generalize f.rastIssue p w = issued
  dsimp only
  rw [Flock.begun_token]
  rfl

end

/-! ## Statement O35 -/

theorem encodeUnorm_cases : encodeUnorm none = 0 ∧ (∀ neg n quiet, encodeUnorm (some (.nan neg n quiet)) = 0) ∧
    (∀ b, encodeUnorm (some (.inf b)) = if b then 0 else 255) ∧
    ∀ m, encodeUnorm (some (.fin m)) = if m.neg then 0 else min (quanta .ne m 0).1 255 :=
  ⟨rfl, fun _ _ _ => rfl, fun _ => rfl, fun _ => rfl⟩

theorem Triangle.rejected_iff_fin (t : Triangle) (cull : Nat) : t.rejected cull = true ↔
    t.area = 0 ∨ cull = 1 ∧ t.area < 0 ∨ cull = 2 ∧ 0 < t.area ∨ ¬ ((∃ m, t.p0.q = .fin m ∧ m.neg = false ∧ m.m ≠ 0) ∧
      (∃ m, t.p1.q = .fin m ∧ m.neg = false ∧ m.m ≠ 0) ∧ ∃ m, t.p2.q = .fin m ∧ m.neg = false ∧ m.m ≠ 0) := by
  rw [Triangle.rejected_iff, Num.positive_iff, Num.positive_iff, Num.positive_iff]

theorem Flock.rastIssue_masks (f : Flock) (p : Path) (w : LaneWord) : (f.rastIssue p w).2 = f.rastNext p w ∧
    (f.rastIssue p w).1.active = (f.active &&& ~~~(p.mask ||| f.parked)) ||| f.rastMask p w ∧
    (f.rastIssue p w).1.parked = (p.mask ||| f.parked) &&& ~~~(f.rastMask p w) ∧ (f.rastIssue p w).1.s = f.s ∧
    (f.rastIssue p w).1.q = (f.setQ (w.imm.toNat % 16) (p.mask ||| f.parked) (if (f.rastIssue p w).2 = 0x8000 then 0 else p.mask ||| f.parked)).q := by
  obtain ⟨s, active, q, -⟩ := f.rastGiven_kept p w
  rw [Flock.rastIssue_eq]
  exact ⟨rfl, by rw [← active], rfl, s, q⟩

section
variable {s u t : State} {f : Flock} {p : Path} {w : LaneWord} {v : Nat} {left : List Nat} {i : Instr}

/-- What is left of an instruction once a part of its body is done. -/
theorem answer_after {α : Type} {r : Res α} {k : α → Res State} {x : α} (answers : exec i s = laneAnswer s f p (r.bind k)) (done : r = .ok x) :
    exec i s = laneAnswer s f p (k x) := by
  rw [answers, done]
  rfl

theorem answer_waitUnless {c : Bool} {k : Unit → Res State} (answers : exec i s = laneAnswer s f p ((waitUnless c).bind k)) :
    (c = false → exec i s = .next (s.waiting false)) ∧ (c = true → exec i s = laneAnswer s f p (k ())) :=
  ⟨fun fails => by rw [answers, waitUnless_false fails]; rfl, fun holds => answer_after answers (waitUnless_true holds)⟩

variable (issues : IssuesLane s f p)
include issues

/-- `v.bin` once it has read its header: it waits, or its lanes are binned. -/
theorem vBin_header (named : 192 ≤ w.sc.toNat) (ready : LaneReady f p w [srcA w, srcB w, srcC w] []) (some_ : laneList f p w ≠ [])
    (header : s.unitRead (s.agentOf f) ((laneList f p w).headD 0) (f.sreg (w.sc.toNat - 192)).toNat 64 64 = .ok (u, v)) :
    (u.releaseReady f .sy = false → exec (.vBin w) s = .next (s.waiting false)) ∧ (u.releaseReady f .sy = true → exec (.vBin w) s = laneAnswer s f p
      ((u.binLanes (s.agentOf f) (binSet v) (f.sreg (w.sc.toNat - 192)).toNat
        ((laneList f p w).map fun l => (l, (f.read32 w (srcA w) l).toNat, (f.read32 w (srcB w) l).toNat))).bind fun x =>
        .ok ((x.1.onFlock f.uid fun g => g.setQ (qDest w) (LaneMask.ofList (laneList f p w)) (LaneMask.ofList x.2)).retireFence f.uid p.id))) := by
  have body := answer_after (exec_vBin issues named ready some_) header
  dsimp only [State.binBody] at body
  exact answer_waitUnless body

section
variable (named : 192 ≤ w.sc.toNat) (ready : LaneReady f p w [srcA w, srcB w, srcC w] []) (some_ : laneList f p w ≠ [])
include named ready some_

theorem vBin_stops :
    let header := s.unitRead (s.agentOf f) ((laneList f p w).headD 0) (f.sreg (w.sc.toNat - 192)).toNat 64 64
    Stops s f p header (.vBin w) ∧ (header = .ok (u, v) → (u.releaseReady f .sy = false → exec (.vBin w) s = .next (s.waiting false)) ∧
      (u.releaseReady f .sy = true → Stops s f p (u.binLanes (s.agentOf f) (binSet v) (f.sreg (w.sc.toNat - 192)).toNat
        ((laneList f p w).map fun l => (l, (f.read32 w (srcA w) l).toNat, (f.read32 w (srcB w) l).toNat))) (.vBin w))) := by
  have answers := exec_vBin issues named ready some_
  refine ⟨stops_of answers, fun header => ?_⟩
  obtain ⟨unperformed, performed⟩ := vBin_header issues named ready some_ header
  exact ⟨unperformed, fun ready => stops_of (performed ready)⟩

theorem vBin_binned
    (header : s.unitRead (s.agentOf f) ((laneList f p w).headD 0) (f.sreg (w.sc.toNat - 192)).toNat 64 64 = .ok (u, v))
    (performed : u.releaseReady f .sy = true) (binned : u.binLanes (s.agentOf f) (binSet v) (f.sreg (w.sc.toNat - 192)).toNat
      ((laneList f p w).map fun l => (l, (f.read32 w (srcA w) l).toNat, (f.read32 w (srcB w) l).toNat)) = .ok (t, left)) :
    exec (.vBin w) s =
      .next ((t.onFlock f.uid fun g => g.setQ (qDest w) (LaneMask.ofList (laneList f p w)) (LaneMask.ofList left)).retireFence f.uid p.id) :=
  answer_after ((vBin_header issues named ready some_ header).2 performed) binned

end

section
variable (vector : w.sa.toNat < 192) (scalar : 192 ≤ w.sc.toNat)
include vector scalar

theorem vExpPos_cases (wide : 1 ≤ w.imm.toNat % 2 ^ 16) (narrow : w.imm.toNat % 2 ^ 16 ≤ 32767) (tall : 1 ≤ w.imm.toNat / 2 ^ 16)
    (low : w.imm.toNat / 2 ^ 16 ≤ 32767) (ready : LaneReady f p w [srcA w 4, srcB w, srcC w] []) :
    let places := s.checkLanes (s.agentOf f) .write 16 ((laneList f p w).map fun l => (l, f.vertexAt w l))
    Stops s f p places (.vExpPos w) ∧ ∀ locs, places = .ok (u, locs) →
      Stops s f p (u.store f (f.vertexParts w locs) none) (.vExpPos w) ∧
        (u.store f (f.vertexParts w locs) none = .ok t → exec (.vExpPos w) s = .next (t.retireFence f.uid p.id)) := by
  have answers := exec_vExpPos issues vector scalar wide narrow tall low ready
  refine ⟨stops_of answers, fun locs placed => ?_⟩
  have stores := answer_after answers placed
  exact ⟨stops_of stores, fun stored => answer_after stores stored⟩

theorem vExpPx_cases (names : checkNames f [srcA w 5, srcB w 2, srcC w] [] = .ok ())
    (sources : checkSources f p w (laneList f p w) [srcA w 2, { srcA w with code := w.sa + 4 }, srcB w 2, srcC w] [] = .ok ())
    (some_ : laneList f p w ≠ [])
    (header : s.unitRead (s.agentOf f) ((laneList f p w).headD 0) (f.sreg (w.sc.toNat - 192)).toNat 64 64 = .ok (u, v)) :
    let target := targetOf v
    let size := u.colourBytes target
    let places := u.checkExports (s.agentOf f) w target size (((laneList f p w).map (f.exportOf w)).filter fun e => e.inside target)
    Stops s f p places (.vExpPx w) ∧ ∀ xs, places = .ok (t, xs) →
      let ready : Prop := t.releaseReady f .sy = true ∧ ∀ x ∈ xs, ∀ l ∈ x.2, t.reachNow (s.agentOf f) l.pa = true
      (¬ready → exec (.vExpPx w) s = .next (s.waiting false)) ∧
      (ready → exec (.vExpPx w) s =
        .next ((xs.foldl (fun y x => y.exportSample (s.agentOf f) w target size x) t).retireFence f.uid p.id)) := by
  have answers := answer_after (exec_vExpPx issues vector scalar names sources some_) header
  dsimp only at answers
  refine ⟨stops_of answers, fun xs placed => ?_⟩
  have body := answer_after answers placed
  dsimp only [State.pixelBody] at body
  obtain ⟨unready, performs⟩ := answer_waitUnless body
  have tests : (t.releaseReady f .sy && xs.all fun x => x.2.all fun l => t.reachNow (s.agentOf f) l.pa) = true ↔
      t.releaseReady f .sy = true ∧ ∀ x ∈ xs, ∀ l ∈ x.2, t.reachNow (s.agentOf f) l.pa = true := by
    simp only [Bool.and_eq_true, List.all_eq_true]
  exact ⟨fun not_ => unready (Bool.eq_false_iff.2 (mt tests.1 not_)), fun all => performs (tests.2 all)⟩

end

end

/-- Settles O35: each unit's rule is a lemma about its own function, and each instruction is its checks followed by that function. -/
theorem rasterAndExport : Obligations.RasterAndExport := by
  unfold Obligations.RasterAndExport
  refine ⟨fun i j px py => ⟨rfl, edge_swap i j px py, owns_swap⟩, fun t cull px py => ⟨t.rejected_iff_fin cull, fun e => Triangle.cover_iff⟩,
    fun t tx ty code pix samp => ⟨t.walk_ordered tx ty code pix samp, fun x => Triangle.mem_walk⟩, fun f p w narrow => ?issue, fun t x hx hy hs => ?registers,
    fun b rect => ⟨b.tiles_ordered rect, fun x y => BinSet.mem_tiles⟩, fun s u ag b set lane prim rect r es entries => ?lanes,
    fun s s1 s2 s3 s4 s5 ag b lane prim free a head tail count => ⟨State.binTile_within, State.binTile_fresh⟩,
    fun s u ag w t n z e c d bad => ⟨rfl, Export.inside_iff, Export.places_addresses, rfl, State.exportSample_tested, State.exportColour_plain⟩,
    encodeUnorm_cases, fun s u t f p w v left issues => ?answers⟩
  case issue =>
    obtain ⟨next, active, parked, scalars, predicate⟩ := f.rastIssue_masks p w
    exact ⟨next, active, parked, scalars, predicate, fun k l j x lane sample hj => f.rastIssue_given p w narrow lane sample hj,
      fun r l hl other => f.rastIssue_other p w narrow hl other⟩
  case registers =>
    obtain ⟨column, row, sample⟩ := t.assign_fields hx hy hs
    exact ⟨column, row, sample, Triangle.assign_depth⟩
  case lanes =>
    refine ⟨State.binLanes_full entries, fun none_ room => ?_, fun v v' free room sound tiles taken written =>
      State.binLanes_binned entries room sound tiles taken written⟩
    subst none_
    exact State.binLanes_untouched entries room
  case answers =>
    refine ⟨fun first last tile token flat names sources fine => ?_, fun named ready none_ => exec_vBin_idle issues named ready none_,
      fun named ready some_ header performed binned => vBin_binned issues named ready some_ header performed binned,
      fun named ready some_ => vBin_stops issues named ready some_,
      fun vector scalar wide narrow tall low ready => vExpPos_cases issues vector scalar wide narrow tall low ready,
      fun vector scalar names sources => ⟨fun none_ => exec_vExpPx_idle issues vector scalar names sources none_,
        fun some_ => stops_of (exec_vExpPx issues vector scalar names sources some_),
        fun some_ header => vExpPx_cases issues vector scalar names sources some_ header⟩⟩
    obtain ⟨v, active, parked, scalars, point⟩ := f.rastSent_kept p w
    exact ⟨f.rastSent p w, _, f.rastSent_op p w, rfl, v, active, parked, scalars, point,
      exec_vRast issues first last tile token flat names sources fine⟩

end Sys2Proof.Machine
